-- ==== Sys2Proof/Word.lean ====
section
/-! DEFINITION. The word types of the SL4096 model: bytes and the register widths that software reads and writes whole. -/

namespace Sys2Proof

/-- One byte of a message payload, a host-memory structure or a memory cell (R3: little-endian order is
decided where a number is laid out as bytes). -/
abbrev Byte := BitVec 8

/-- A 32-bit register of a register window (Table 09.6, Table 10.3, Table 14.4, Table 19.3). -/
abbrev U32 := BitVec 32

/-- A 64-bit register or record. -/
abbrev U64 := BitVec 64

end Sys2Proof
end

