-- ==== Sys2Proof/Syntax.lean ====
section
/-! DEFINITION. The commands of the SL4096: one constructor of `Instr` for each row of spec/opcode_table.json.
The table gives no operand fields; each constructor's operands are what the rules bearing on the row let the outside
world (or the medium) decide: a request's fields, a measured value, the outcome of a die operation. -/

namespace Sys2Proof

/-- Header of an I/O command as the Host island fetches it: submitting function (0 PF, 1 to 255 VF), submission
queue, command identifier, namespace, Command Extension Type and Value (R259), and whether the command's data is a
metadata-bearing extended transfer (R218) is left to the LBA format. -/
structure IoHdr where
  fn : Nat
  sqid : Nat
  cid : Nat
  nsid : Nat
  cet : Nat
  cev : Nat
  deriving DecidableEq, Repr

/-- Header of an admin command: function and command identifier (admin queue, R62). -/
structure AdmHdr where
  fn : Nat
  cid : Nat
  deriving DecidableEq, Repr

/-- The sender of an HMP request (R227). -/
inductive Sender where
  | fn (f : Nat)
  | oob (eid : Nat)
  deriving DecidableEq, Repr

/-- The transport that delivered an HMP request (Table 10.1). -/
inductive Transport where
  | bar
  | admin
  | mctp
  deriving DecidableEq, Repr

/-- An HMP request as the engine hands it to a Purlin core: SOURCE and transport set by the engine (R227), TAG,
LENGTH, BARRIER and the largest response payload the request's buffer takes (DATA_SIZE, the admin buffer or the MCTP
limit, R235). -/
structure HmpHdr where
  sender : Sender
  transport : Transport
  tag : Nat
  length : Nat
  barrier : Bool
  room : Nat
  deriving DecidableEq, Repr

/-- The 64-byte HMP header fields that R230 checks, as the sender wrote them. -/
structure HmpRaw where
  version : Nat
  flags : Nat
  opcode : Nat
  tag : Nat
  source : Nat
  status : Nat
  length : Nat
  dataAddr : Nat
  dataSize : Nat
  reserved28 : Nat
  devtimeRx : Nat
  devtimeDone : Nat
  detail : Nat
  reserved56 : Nat
  crc : Nat
  deriving DecidableEq, Repr

/-- Where an MCTP message comes from and what its headers say (R238): source endpoint, message tag, message type, Integrity Check bit,
vendor ID of the body's first two bytes. -/
structure MctpSrc where
  eid : Nat
  msgTag : Nat
  msgType : Nat
  ic : Bool
  vendor : Nat
  deriving DecidableEq, Repr

/-- A codeword of a page that was written for another address: its number, and the NSID, unit address and write epoch (R161). -/
structure FoundTag where
  cw : Nat
  nsid : Nat
  unit : Nat
  epoch : Nat
  deriving DecidableEq, Repr

/-- The answer of the soft decoders for a soft stage (R163): the codewords of the mask still fail, all of the stage's where it is 0; or
all decode, written for the address read but for those that `found` names (R161). -/
inductive SoftOutcome where
  | failed (cws : Nat)
  | decoded (found : List FoundTag)
  deriving DecidableEq, Repr

/-- The decoded outcome of a die operation (Table 06.7 as far as the die and the decoder decide it). -/
inductive DieOutcome where
  /-- a read whose codewords all decode; `corrected` is MAX_CORRECTED of the worst codeword. Each codeword was written for the address
  read, but for those that `found` names, with the NSID, unit address and write epoch that they were written for (R161) -/
  | readOk (corrected : Nat) (found : List FoundTag)
  /-- a read whose codewords of the mask fail hard decode, bit n for codeword n -/
  | readFail (cws : Nat)
  /-- every codeword reads as erased -/
  | readErased
  /-- a program or erase that the die reports as done -/
  | done
  /-- the die reports FAIL for the planes of the mask -/
  | failed (planes : Nat)
  /-- the die gives no valid status, or its Read ID bytes no longer match, after a reset -/
  | dieFailure
  deriving DecidableEq, Repr

/-- Protection information of a namespace (R218): none, or type 1 to 3 with the 16-bit or the 64-bit guard. -/
inductive Protection where
  | none
  | guard16 (type : Nat)
  | guard64 (type : Nat)
  deriving DecidableEq, Repr

/-- The LBA format that a creation or a format asks for: its number in Table 09.9, its protection information, and whether metadata is
transferred as an extended LBA or as a separate buffer (R218). -/
structure LbaFormat where
  lbaf : Nat
  prot : Protection
  extended : Bool
  deriving DecidableEq, Repr

/-- The five island states of Table 01.2. -/
inductive IslState where
  | running
  | stopped
  | isolated
  | heldInReset
  | gated
  deriving DecidableEq, Repr

/-- The three requesters of R20. -/
inductive Requester where
  | firmware
  | ridge
  | aon
  deriving DecidableEq, Repr

/-- A fault event's capture (Table 14.2, bytes 2, 3, 16 to 28). -/
structure Capture where
  master : Nat
  access : Nat
  address : Nat
  detail : Nat
  island : Nat
  deriving DecidableEq, Repr

/-- What one populated die answers at bring-up (R135), and its factory marks as plane block and plane (R111). -/
structure DieAnswer where
  slot : Nat
  idMatch : Bool
  marks : List (Nat × Nat)
  deriving DecidableEq, Repr

/-- What one package answers at bring-up: training result of up to three attempts (R154) and its first TEMP_READ. -/
structure PkgAnswer where
  pkg : Nat
  profileMatch : Bool
  trained : Bool
  temp : Option Int
  deriving DecidableEq, Repr

/-- One field write of a Board Profile image: an entry of R423 (record ID, record size, first byte, data). -/
structure ProfEntry where
  record : Nat
  size : Nat
  first : Nat
  data : List Byte
  deriving DecidableEq, Repr

/-- An image header's facts as the Ridge firmware finds them (R264): type, key index, IMAGE_ID, SVN, VERSION, whether
key, signature and body hash verify, the table format version of an Ixene image (Table 20.3 step 3), and the integrator keys
that a Board Profile or provisioning image revokes (INTEG_REVOKE, Table 11.10). -/
structure ImageHdr where
  type : Nat
  keyIndex : Nat
  imageId : Nat
  svn : Nat
  version : Nat
  verified : Bool
  tableFormat : Nat
  revoke : Nat
  deriving DecidableEq, Repr

/-- A Board Profile image: header and entries (R423). -/
structure ProfImage where
  hdr : ImageHdr
  format : Nat
  entries : List ProfEntry
  deriving DecidableEq, Repr

/-- What start-up finds outside the SL4096's own state: which ranks pass training in each channel, in three attempts
for a boot rank (R388, R289), what each channel's dies and packages answer (R135, R154), the channels whose RB_N is stuck low (Table 06.13), and whether each checkpoint
generation checks (R389). -/
structure StartupIn where
  ranksA : List Bool
  ranksB : List Bool
  channels : List (Nat × List DieAnswer × List PkgAnswer)
  rbLow : List Nat
  checkpointOk : Bool
  deriving DecidableEq, Repr

/-- Causes of a device restart (Table 18.4). -/
inductive RestartCause where
  | powerReturn
  | railsBack
  | pwrdisLow
  | sysrefBack
  | restrictedCommit
  deriving DecidableEq, Repr

/-- The wake events of R398. -/
inductive WakeCause where
  | doorbell
  | register
  | perst
  | flr
  | mctp
  | pwrAlert
  | fault
  deriving DecidableEq, Repr

/-- Ways a stall of the blower is declared (R351). -/
inductive StallCause where
  | backEmf
  | slow
  | overcurrent
  | noStart
  deriving DecidableEq, Repr

/-- Register windows a host or core write can reach without a row of its own (R211, R151). -/
inductive RegSpace where
  | bar0
  | bar2
  | config
  | channel (c : Nat)
  deriving DecidableEq, Repr

/-- What a DRAM channel's pins give on a read of one codeword (R277): the address of the codeword that the burst returned, and the
symbols in error as a symbol number (0 to 79) with the pattern added to it. -/
structure CodewordRead where
  holder : Nat
  errors : List (Nat × Byte)
  deriving DecidableEq, Repr

/-- What a scrub read finds (R295): the channel's codeword, and the other channel's, read where its copy is needed (R276). -/
structure ScrubReads where
  own : CodewordRead
  other : CodewordRead
  deriving DecidableEq, Repr

/-- The end of a handshake channel (R15): the destination island, and whether it is its data channel or its control channel. -/
structure ChannelEnd where
  island : Nat
  data : Bool
  deriving DecidableEq, Repr

/-- The narrow writes of a port that arrive for a codeword (R280): the port, and each byte with its place in the codeword. -/
structure NarrowWrites where
  port : Nat
  writes : List (Nat × Byte)
  deriving DecidableEq, Repr

/-- JTAG instructions of R439. -/
inductive TapInstr where
  | bypass
  | samplePreload
  | extest
  | clamp
  | highz
  | extestPulse
  | extestTrain
  deriving DecidableEq, Repr

/-- What the commands do is `Sys2Proof.Machine.exec`; a constructor only names the row and its operands. -/
inductive Instr where
  | sqTailDoorbell (fn qid tail : Nat)
  | cqHeadDoorbell (fn qid head : Nat)
  | read (h : IoHdr) (slba nlb : Nat)
  | write (h : IoHdr) (slba nlb : Nat)
  | zoneAppend (h : IoHdr) (zslba nlb : Nat)
  | writeZeroes (h : IoHdr) (slba nlb : Nat)
  | flush (h : IoHdr)
  | datasetManagementDeallocate (h : IoHdr) (ranges : List (Nat × Nat))
  | copy (h : IoHdr) (sources : List (Nat × Nat)) (sdlba : Nat)
  | zoneOpen (h : IoHdr) (zslba : Nat) (all : Bool)
  | zoneClose (h : IoHdr) (zslba : Nat) (all : Bool)
  | zoneFinish (h : IoHdr) (zslba : Nat) (all : Bool)
  | zoneReset (h : IoHdr) (zslba : Nat) (all : Bool)
  | zoneOffline (h : IoHdr) (zslba : Nat) (all : Bool)
  | setZoneDescriptorExtension (h : IoHdr) (zslba : Nat) (ext : List Byte)
  | reportZones (h : IoHdr) (slba option maxDesc : Nat)
  | extendedReportZones (h : IoHdr) (slba option maxDesc : Nat)
  | invalidIoOpcode (h : IoHdr) (opcode : Nat)
  | thatchBindingDone (nsid zone : Nat)
  | heldCommandReevaluation (fn sqid cid : Nat)
  | holdEndExpiry (fn sqid cid : Nat)
  | slackEpochEnd
  | calendarEntryEnd (die start : Nat)
  | eavesCopyWritten (chB : Bool) (fn sqid cid units : Nat)
  | programPassBooking (thatch pos : Nat)
  | descriptorIssue (ch tag : Nat) (sealOk : Bool)
  | descriptorCompletion (ch tag : Nat) (out : DieOutcome)
  | suspendWindowStart (ch die start : Nat)
  | suspendWindowEnd (ch die start : Nat)
  | dieOverrun (ch tag : Nat)
  | dieTimeout (ch tag : Nat) (answers : Bool)
  | tokenGuardTimeout (ch tag : Nat)
  | deadlineReached (fn sqid cid : Nat)
  | recoveryPass (nsid page : Nat) (recovered : Bool)
  | backgroundWorkDecision
  | retentionAgeRefresh (thatch : Nat)
  | refreshRetryHourly (thatch : Nat)
  | hitsHalving
  | retentionSample (thatch : Nat) (failed : Bool)
  | underlayMove (nsid zone : Nat)
  | journalCheckpoint
  | smartUpdate
  | packageRecalibration (ch pkg : Nat)
  | packageRecalDone (ch pkg : Nat) (passed : Bool)
  | channelDrain (ch : Nat)
  | channelDrainComplete (ch : Nat)
  | channelDrainTimeout (ch : Nat)
  | channelBringup (ch : Nat) (dies : List DieAnswer) (pkgs : List PkgAnswer)
  | channelRbWaitEnd (ch : Nat) (high : Bool)
  | packageTempPoll (readings : List (Nat × Option Int))
  | islandStateRequest (island : Nat) (reqs : List (Requester × IslState))
  | islandReportsRunning (island : Nat)
  | handshakeStall (src : Nat) (into : ChannelEnd)
  | handshakeStallSevere (src : Nat) (into : ChannelEnd)
  | capacityRecompute
  | contractChargeRecompute (fn : Nat)
  | promisedWidthRecompute (set : Nat)
  | eavesEffectiveRecompute
  | flashPowerCapacityRecompute
  | linkChange (rate width : Nat)
  | powerLossDetected
  | storeLow (lastPosition : Nat)
  | dumpComplete
  | brownoutReturn
  | gutterReplay
  | aonPowerOnReset (strapI3c addr1 addr0 testMode : Bool)
  | powerUpRetry (pmicGood railsOk : Bool)
  | startup (inp : StartupIn)
  | tripRestartRelease
  | deviceRestart (cause : RestartCause)
  | railOutOfRange (rail mv : Nat)
  | railExcursion (rail mv durationUs : Nat)
  | pwrdis (high : Bool)
  | storeConversion (v12 vs : Nat)
  | chargeTimeout
  | holdupAuditDue
  | auditLoadConnect (stepUv : Nat)
  | auditMeasurementEnd (fallUv chargeNc elapsedUs : Nat)
  | pmicPoll (answer : Option (List Nat))
  | pmicAlert (answer : Option (List Nat))
  | aonCrystalLoss
  | aonCrystalRestored
  | pllLossOfLock (island : Nat)
  | referenceClockLost
  | sensorConversion (readings : List (Option Int))
  | thermalStepExit
  | tripDumpTimeout
  | remoteDiodeConversion (readings : List (Option Int))
  | faultSourceEvent (source : Nat) (cap : Capture)
  | coreWatchdogExpiry (core : Nat)
  | coreSelfTestDone (core : Nat) (passed : Bool)
  | aliveToggle
  | aliveKickTimeout
  | aliveKick (core value : Nat)
  | coreKick (core value : Nat)
  | faultSnap (value : Nat)
  | dramTempPoll (chB : Bool) (temps : List Int)
  | dramRefresh (chB : Bool) (rank bank : Nat)
  | dramDriftTrack (chB : Bool) (rank dqsDelay correctablePerG : Nat)
  | dramPanicEntry (chB : Bool)
  | dramPanicExit (chB : Bool)
  | dramPanicLong (chB : Bool)
  | dramRfm (chB : Bool) (rank bank : Nat)
  | rowActThrottle (chB : Bool) (port rank bank row count : Nat)
  | loftFrameReplicate (nsid page : Nat)
  | rowWindowEnd (chB : Bool)
  | mergeWriteback (chB : Bool) (addr : Nat) (narrow : NarrowWrites)
  | scrubRead (chB : Bool) (addr : Nat) (reads : ScrubReads)
  | softPpr (chB : Bool) (rank bank row : Nat) (resourceLeft : Bool)
  | rankMigration (chB : Bool) (rank : Nat)
  | rankMigrationSwap (chB : Bool) (retrainOk : Bool)
  | dramResilver (chB : Bool)
  | dramResilverComplete (chB : Bool)
  | speedLoopStep
  | currentLoopPeriod (t1 t2 : Nat) (phaseMa : Int)
  | driverFault
  | driverFaultRetry
  | catchSpinEnd (locked : Bool) (rpm : Int)
  | alignEnd
  | blowerStall (cause : StallCause)
  | stallRestart
  | blowerOffTimer
  | busClampOn (mv : Nat)
  | clampFault (stuckClosed : Bool)
  | busOvervoltage (mv : Nat)
  | battenedEntryComplete
  | battenedEntryAbandon
  | battenedWake (cause : WakeCause)
  | battenedWakeEnd
  | recordPageProgram (ok : Bool)
  | svnFloorRaise (type : Nat)
  | keyRolloverEnd (nsid : Nat)
  | operationHandleExpiry (sender : Sender) (handle : Nat)
  | perstNDeassert (rate width : Nat)
  | conventionalReset
  | pfFlr
  | vfFlr (fn : Nat)
  | vfEnable (numVfs : Nat)
  | vfDisable
  | ccEnable (fn : Nat)
  | controllerReset (fn : Nat)
  | controllerShutdown (fn : Nat)
  | msixUnmask (fn vector : Nat)
  | kwDevtimeLoRead (fn : Nat)
  | registerWrite (fn : Nat) (space : RegSpace) (offset value : Nat)
  | unsupportedBarAccess (fn bar offset size : Nat)
  | dormerCursorHiWrite (value : Nat)
  | dormerSnapshotDone
  | mailboxEnable (fn : Nat)
  | mailboxDisable (fn : Nat)
  | mailboxReqTailWrite (fn value : Nat)
  | mailboxRspHeadWrite (fn value : Nat)
  | mailboxRequestTake (fn : Nat) (raw : Option HmpRaw) (payload : Option (List Byte))
  | mailboxResponsePost (fn tag : Nat) (payloadOk headerOk : Bool)
  | mctpMessage (src : MctpSrc) (size : Nat) (raw : HmpRaw) (payload : List Byte)
  | hmpCancel (q : HmpHdr) (target : Nat) (admin : Option Nat)
  | hmpPost (a : AdmHdr) (dwords : Nat) (raw : Option HmpRaw)
  | hmpCollect (a : AdmHdr) (tag room waitMs : Nat)
  | hmpCollectTimeout (fn cid : Nat)
  | hmpExchange (a : AdmHdr) (dwords : Nat) (raw : Option HmpRaw)
  | versionQuery (q : HmpHdr)
  | operationStatus (q : HmpHdr) (handle : Nat)
  | contractSet (q : HmpHdr) (fn cls dir bound hold cmdRate byteRate burst weight : Nat)
  | contractDelete (q : HmpHdr) (fn cls dir : Nat)
  | contractReport (q : HmpHdr) (fn : Nat)
  | bayCapacityReport (q : HmpHdr) (first count : Nat)
  | calendarSnapshot (q : HmpHdr) (die : Nat)
  | functionZoneLimits (q : HmpHdr) (fn active opened : Nat)
  | baySetDefine (q : HmpHdr) (set : Nat) (exclusive : Bool) (bays grants : List Nat)
  | baySetDelete (q : HmpHdr) (set : Nat)
  | badBlockReport (q : HmpHdr) (die table first : Nat)
  | mediaWearReport (q : HmpHdr) (first count : Nat)
  | dieRetire (q : HmpHdr) (die : Nat)
  | channelRecalibrate (q : HmpHdr) (ch pkg : Nat)
  | channelMicrocodeLoad (q : HmpHdr) (mask : Nat)
  | channelMicrocodeTurn (ch : Nat) (verified : Bool) (pkgs : List PkgAnswer)
  | dramRankRetrain (q : HmpHdr) (channel rank : Nat)
  | coreFailoverReturn (q : HmpHdr) (core : Nat)
  | coreFailoverRetire (q : HmpHdr) (core : Nat)
  | boardProfileRead (q : HmpHdr) (record view first : Nat)
  | boardProfileUpdate (q : HmpHdr) (flags reserved : Nat) (img : ProfImage)
  | qFieldCommit (record : Nat)
  | islandStateReport (q : HmpHdr)
  | keySlotInject (q : HmpHdr) (fn nsid tag : Nat) (wrapOk halvesEqual : Bool) (key : Nat)
  | keySlotClear (q : HmpHdr) (fn nsid tag : Nat)
  | establishKek (q : HmpHdr) (fn : Nat) (onCurve : Bool)
  | setKeyPerIo (q : HmpHdr) (nsid enable : Nat)
  | keyRollover (q : HmpHdr) (nsid : Nat)
  | regionTableReport (q : HmpHdr)
  | faultSnapshot (q : HmpHdr)
  | faultThresholdSet (q : HmpHdr) (source n t : Nat)
  | faultClear (q : HmpHdr) (source flags : Nat)
  | firstErrorReport (q : HmpHdr) (source : Nat)
  | thermalReport (q : HmpHdr)
  | coldStartWarmStart (q : HmpHdr)
  | coldStartWarmStop (q : HmpHdr)
  | blowerReport (q : HmpHdr)
  | blowerServiceStop (q : HmpHdr)
  | blowerServiceResume (q : HmpHdr) (openCircuit : Bool) (rMohm lUh : Nat)
  | supplyReport (q : HmpHdr)
  | holdupAudit (q : HmpHdr) (action : Nat)
  | eventRead (q : HmpHdr) (first area severity most : Nat)
  | dormerPosition (q : HmpHdr) (cursor : Nat) (permanent : Bool)
  | energyMeterReport (q : HmpHdr) (fn : Nat)
  | counterReport (q : HmpHdr) (fn : Nat)
  | poolQuotaSet (q : HmpHdr) (pool count : Nat)
  | poolReport (q : HmpHdr)
  | invalidHmpOpcode (q : HmpHdr) (opcode : Nat)
  | createIoCq (a : AdmHdr) (qid size vector : Nat) (pc ien : Bool)
  | createIoSq (a : AdmHdr) (qid size cqid : Nat) (pc : Bool)
  | deleteIoSq (a : AdmHdr) (qid : Nat)
  | deleteIoCq (a : AdmHdr) (qid : Nat)
  | getLogPage (a : AdmHdr) (lid nsid offset dwords : Nat)
  | identify (a : AdmHdr) (cns csi nsid cntid : Nat)
  | abort (a : AdmHdr) (sqid cid : Nat)
  | asynchronousEventRequest (a : AdmHdr)
  | setFeaturesArbitration (a : AdmHdr) (ab : Nat)
  | setFeaturesPowerManagement (a : AdmHdr) (ps : Nat)
  | setFeaturesTemperatureThreshold (a : AdmHdr) (sensor : Nat) (low : Bool) (kelvin : Nat)
  | setFeaturesErrorRecovery (a : AdmHdr) (tler : Nat) (dulbe : Bool)
  | setFeaturesNumberOfQueues (a : AdmHdr) (nsqr ncqr : Nat)
  | setFeaturesInterruptCoalescing (a : AdmHdr) (thr time : Nat)
  | setFeaturesInterruptVectorConfig (a : AdmHdr) (vector : Nat) (disable : Bool)
  | setFeaturesWriteAtomicity (a : AdmHdr) (dn : Bool)
  | setFeaturesAsyncEventConfig (a : AdmHdr) (mask : Nat)
  | setFeaturesTimestamp (a : AdmHdr) (ms : Nat)
  | setFeaturesHostBehaviorSupport (a : AdmHdr) (acre : Bool)
  | setFeaturesQueueLatencyClass (a : AdmHdr) (sqid cls : Nat)
  | setFeaturesVerdictRing (a : AdmHdr) (cqid : Nat) (enable : Bool) (base : Nat)
  | setFeaturesUnsupported (a : AdmHdr) (fid : Nat)
  | getFeaturesQueueLatencyClass (a : AdmHdr) (sqid : Nat)
  | getFeaturesVerdictRing (a : AdmHdr) (cqid : Nat)
  | getFeatures (a : AdmHdr) (fid sub : Nat)
  | namespaceCreate (a : AdmHdr) (zoned : Bool) (nsze : Nat) (fmt : LbaFormat) (sets : List (Nat × Nat))
  | namespaceDelete (a : AdmHdr) (nsid : Nat)
  | namespaceAttach (a : AdmHdr) (nsid fn : Nat)
  | namespaceDetach (a : AdmHdr) (nsid fn : Nat)
  | formatNvm (a : AdmHdr) (nsid : Nat) (fmt : LbaFormat) (ses : Nat)
  | formatNvmCryptoErase (a : AdmHdr) (nsid : Nat) (fmt : LbaFormat)
  | sanitizeCryptoErase (a : AdmHdr)
  | sanitizeBlockErase (a : AdmHdr)
  | firmwareImageDownload (a : AdmHdr) (img : ImageHdr) (prof : Option ProfImage)
  | firmwareCommitReplace (a : AdmHdr) (fs : Nat)
  | firmwareCommitNextStart (a : AdmHdr) (fs : Nat)
  | firmwareCommitSwap (a : AdmHdr) (fs : Nat)
  | firmwareCommitActivate (a : AdmHdr) (fs : Nat)
  | virtMgmtOffline (a : AdmHdr) (cntlid : Nat)
  | virtMgmtAssign (a : AdmHdr) (cntlid count : Nat)
  | virtMgmtOnline (a : AdmHdr) (cntlid : Nat)
  | nvmeMiSend (a : AdmHdr) (request : List Byte)
  | nvmeMiReceive (a : AdmHdr)
  | securitySend (a : AdmHdr) (protocol spsp : Nat) (nsid tag key : Nat) (wrapOk : Bool)
  | securityReceive (a : AdmHdr) (protocol spsp : Nat)
  | invalidAdminOpcode (a : AdmHdr) (opcode : Nat)
  | hostReadCompletionArrival (fn sqid cid latencyUs : Nat) (units : List Nat) (poisoned : List Nat)
  | softDecodeResult (ch tag : Nat) (out : SoftOutcome)
  | railReturnInRange (rail : Nat) (forUs : Nat)
  | aonRailDown
  | firmwareActivationRound (ok : Bool)
  | nvmeMiMctpMessage (eid : Nat) (request : List Byte)
  | mctpEndpointIdAssignment (eid : Nat)
  | activityLedTimeout
  | faultLedBlink
  | interruptAggregationTimeout (fn vector : Nat)
  | tapInstructionUpdate (i : TapInstr)
  deriving DecidableEq, Repr

end Sys2Proof
end

