-- ==== Sys2Proof/Machine/Memory.lean ====
section
/-! DEFINITION. The content of a DRAM channel: a list of (address, byte) pairs in one canonical form, addresses strictly
rising and no zero byte listed. An address that is not listed reads as zero: R281 gives that for every granule whose Fresh
bit is 0, and the first write to a granule fills the rest of it with zeros. -/

namespace Sys2Proof

/-- Byte at an address. -/
def Memory.read : List Host.Cell → Nat → Byte
  | [], _ => 0
  | (a, b) :: t, x => if a = x then b else Memory.read t x

/-- Write a byte: a zero removes the entry. -/
def Memory.put : List Host.Cell → Nat → Byte → List Host.Cell
  | [], x, v => if v = 0 then [] else [(x, v)]
  | (a, b) :: t, x, v =>
    if x < a then (if v = 0 then (a, b) :: t else (x, v) :: (a, b) :: t)
    else if x = a then (if v = 0 then t else (x, v) :: t)
    else (a, b) :: Memory.put t x v

/-- Write bytes one after the other. -/
def Memory.putAll (m : List Host.Cell) (ws : List (Nat × Byte)) : List Host.Cell := ws.foldl (fun m w => Memory.put m w.1 w.2) m

/-- Keep the entries whose address meets a test. -/
def Memory.keep (p : Nat → Bool) : List Host.Cell → List Host.Cell
  | [] => []
  | (a, b) :: t => if p a then (a, b) :: Memory.keep p t else Memory.keep p t

/-- The canonical form. -/
def Memory.wf : List Host.Cell → Bool
  | [] => true
  | (a, b) :: t => b != 0 && t.all (fun c => decide (a < c.1)) && Memory.wf t

end Sys2Proof
end

