-- ==== Sys2Proof/Config.lean ====
section
/-! DEFINITION. The free values of the model: what the spec leaves open after an operation that goes on. Each is an
opaque constant applied to the counter `State.free`, so nothing in Lean can evaluate it; a statement about a free value
holds for every value of that counter. -/

namespace Sys2Proof

/-- A free number: a key drawn from the random source (R257), ciphertext read under another key (R259), the size of a
controller output whose inputs the spec names and does not compute (R346, R347), an estimated hint (R98). -/
opaque Config.freeNat : Nat → Nat

/-- A free signed number (observer and controller voltages of R346 and R349). -/
opaque Config.freeInt : Nat → Int

/-- The hash of R275 that gives a Loft page its home channel, of a die, a block and a page address. The spec names no
hash function. -/
opaque Config.loftHash : Nat → Nat → Nat → Nat

/-- Rank, bank and row of a 4 KiB unit of a DRAM channel. R272 names a hash of the upper address bits and does not give it. -/
opaque Config.dramRow : Nat → Nat × Nat × Nat

/-- The 16 check bytes of RS(80,64) over GF(256) (R277), of the 64 data bytes and the 40-bit codeword address. The spec gives no field or
generator polynomial. -/
opaque Config.rsCheck : List (BitVec 8) → Nat → List (BitVec 8)

/-- The fixed 16-byte poison pattern of R278, whose value the spec does not give. -/
opaque Config.poisonPattern : List (BitVec 8)

/-- The LDPC parity over the 4,160 bytes of data and metadata region (R159). The spec does not give the code. -/
opaque Config.ldpcParity : Nat → Nat

/-- Free bytes: contents that another standard defines (NVMe-MI, TCG) and this spec does not. -/
opaque Config.freeBytes : Nat → List Byte

end Sys2Proof
end

