-- ==== Sys2Proof/Machine/Containers.lean ====
section
/-! DEFINITION. Plain containers: tables with a default, vectors of fixed length, little-endian bytes, CRC-32C (R308). -/

namespace Sys2Proof.Machine

/-- A sparse table: the first entry of a key is its value. -/
abbrev Tbl (κ α : Type) := List (κ × α)

/-- Look a key up in a table. -/
def tblFind? {κ α : Type} [DecidableEq κ] (k : κ) : Tbl κ α → Option α
  | [] => none
  | (k', v) :: t => if k = k' then some v else tblFind? k t

/-- Look a key up, with the value an unlisted key stands for. -/
def tblGet {κ α : Type} [DecidableEq κ] (d : α) (k : κ) (t : Tbl κ α) : α := (tblFind? k t).getD d

/-- Set a key: the entry is replaced where it stands, else added at the end. -/
def tblSet {κ α : Type} [DecidableEq κ] (k : κ) (v : α) : Tbl κ α → Tbl κ α
  | [] => [(k, v)]
  | (k', v') :: t => if k = k' then (k, v) :: t else (k', v') :: tblSet k v t

/-- Remove every entry of a key. -/
def tblDel {κ α : Type} [DecidableEq κ] (k : κ) (t : Tbl κ α) : Tbl κ α := t.filter (fun e => !(e.1 = k))

/-- Change the value of a key. -/
def tblUpd {κ α : Type} [DecidableEq κ] (d : α) (k : κ) (f : α → α) (t : Tbl κ α) : Tbl κ α :=
  tblSet k (f (tblGet d k t)) t

/-- Element `i` of a list, with a default. -/
def vecGet {α : Type} (d : α) (l : List α) (i : Nat) : α := l.getD i d

/-- Change element `i` of a list; no effect outside it. -/
def vecUpd {α : Type} (l : List α) (i : Nat) (f : α → α) : List α := l.modify i f

/-- Little-endian bytes of a number (R3), `n` bytes. -/
def leBytes : Nat → Nat → List Byte
  | 0, _ => []
  | n + 1, v => BitVec.ofNat 8 v :: leBytes n (v / 256)

/-- The number that little-endian bytes spell (R3). -/
def leNat : List Byte → Nat
  | [] => 0
  | b :: t => b.toNat + 256 * leNat t

/-- `n` zero bytes. -/
def zeros (n : Nat) : List Byte := List.replicate n 0

/-- Pad with zeros to `n` bytes, or cut. -/
def padTo (n : Nat) (l : List Byte) : List Byte := (l ++ zeros (n - l.length)).take n

/-- Two's complement of a signed number in `w` bits. -/
def twos (w : Nat) (v : Int) : Nat := (v % (2 ^ w : Int)).toNat

/-- The signed number that `w` bits spell. -/
def signedOf (w v : Nat) : Int :=
  let m := v % 2 ^ w
  if m < 2 ^ (w - 1) then (m : Int) else (m : Int) - (2 ^ w : Int)

/-- Bit field of a number: `w` bits from bit `lo`. -/
def bits (v lo w : Nat) : Nat := v / 2 ^ lo % 2 ^ w

/-- Replace a bit field of a number. -/
def setBits (v lo w x : Nat) : Nat := v - bits v lo w * 2 ^ lo + x % 2 ^ w * 2 ^ lo

/-- One bit of CRC-32C in its reflected form (R308: polynomial 0x1EDC_6F41). -/
def crcBit (c : BitVec 32) : BitVec 32 :=
  if c.getLsbD 0 then (c >>> 1) ^^^ 0x82F63B78#32 else c >>> 1

/-- One byte of CRC-32C. -/
def crcByte (c : BitVec 32) (b : Byte) : BitVec 32 :=
  let c := c ^^^ b.setWidth 32
  crcBit (crcBit (crcBit (crcBit (crcBit (crcBit (crcBit (crcBit c)))))))

/-- CRC-32C of a string of bytes (R308: initial value and final exclusive-or all ones, reflected). -/
def crc32c (l : List Byte) : BitVec 32 := ~~~ (l.foldl crcByte (~~~ 0#32))

/-- Sum of a list of numbers. -/
def sumNat (l : List Nat) : Nat := l.foldl (· + ·) 0

/-- Number of elements that meet a test. -/
def countP {α : Type} (p : α → Bool) (l : List α) : Nat := (l.filter p).length

/-- Ceiling of a quotient. -/
def ceilDiv (a b : Nat) : Nat := if b = 0 then 0 else (a + b - 1) / b

/-- The largest of a list of signed numbers, with a default. -/
def maxInt (d : Int) (l : List Int) : Int := l.foldl max d

/-- The smallest of a list of numbers, none of an empty list. -/
def minNat? (l : List Nat) : Option Nat :=
  l.foldl (fun a x => match a with | none => some x | some y => some (min x y)) none

end Sys2Proof.Machine
end

