-- ==== Sys2Proof/Machine/Profile.lean ====
section
/-! DEFINITION. The Board Profile: its seventeen records (Table 20.5), every field of them with place, reset value, class
and range (R61, R79, R132, R136, R157, R165, R178, R203, R226, R248, R268, R298, R313, R330, R342, R360, R379), the rules
between fields, and a named reading of each field. A record is held whole, as the number its bytes spell (R3). -/

namespace Sys2Proof.Machine

/-- Configuration classes of R7 to R10, and RsvdP (R4). -/
inductive FieldClass where
  | live
  | quiesce
  | bootOnly
  | rsvdP
  deriving DecidableEq, Repr

/-- One field of a record: record ID, lowest bit, width, reset value, class, least and greatest legal value, signed. -/
structure FieldSpec where
  record : Nat
  lo : Nat
  width : Nat
  reset : Nat
  cls : FieldClass
  least : Int
  most : Int
  signed : Bool
  deriving DecidableEq, Repr

/-- The records of Table 20.5 by name, each as the number its bytes spell. -/
structure Profile where
  geometry : Nat
  admission : Nat
  media : Nat
  dieProfile : Nat
  readRetry : Nat
  channel : Nat
  recovery : Nat
  eaves : Nat
  host : Nat
  management : Nat
  crypto : Nat
  dram : Nat
  buffer : Nat
  fault : Nat
  thermal : Nat
  airflow : Nat
  supply : Nat
  deriving DecidableEq, Repr

/-- The record of an ID; an ID outside Table 20.5 reads as 0. -/
def profRecord (p : Profile) : Nat → Nat
  | 1 => p.geometry
  | 2 => p.admission
  | 3 => p.media
  | 4 => p.dieProfile
  | 5 => p.readRetry
  | 6 => p.channel
  | 7 => p.recovery
  | 8 => p.eaves
  | 9 => p.host
  | 10 => p.management
  | 11 => p.crypto
  | 12 => p.dram
  | 13 => p.buffer
  | 14 => p.fault
  | 15 => p.thermal
  | 16 => p.airflow
  | 17 => p.supply
  | _ => 0

/-- Replace the record of an ID; no effect for an ID outside Table 20.5. -/
def profSetRecord (p : Profile) (r v : Nat) : Profile :=
  match r with
  | 1 => { p with geometry := v }
  | 2 => { p with admission := v }
  | 3 => { p with media := v }
  | 4 => { p with dieProfile := v }
  | 5 => { p with readRetry := v }
  | 6 => { p with channel := v }
  | 7 => { p with recovery := v }
  | 8 => { p with eaves := v }
  | 9 => { p with host := v }
  | 10 => { p with management := v }
  | 11 => { p with crypto := v }
  | 12 => { p with dram := v }
  | 13 => { p with buffer := v }
  | 14 => { p with fault := v }
  | 15 => { p with thermal := v }
  | 16 => { p with airflow := v }
  | 17 => { p with supply := v }
  | _ => p

/-- Size in bytes of a record (Table 20.5), 0 for an ID outside it. -/
def recordBytes : Nat → Nat
  | 1 => 16
  | 2 => 8
  | 3 => 16
  | 4 => 64
  | 5 => 1144
  | 6 => 8
  | 7 => 8
  | 8 => 16
  | 9 => 8
  | 10 => 8
  | 11 => 8
  | 12 => 16
  | 13 => 16
  | 14 => 520
  | 15 => 16
  | 16 => 64
  | 17 => 16
  | _ => 0

/-- The record IDs of Table 20.5. -/
def recordIds : List Nat := [1, 2, 3, 4, 5, 6, 7, 8, 9, 10, 11, 12, 13, 14, 15, 16, 17]

/-- A field of a record in effect. -/
def profField (p : Profile) (r lo w : Nat) : Nat := bits (profRecord p r) lo w

/-- Fields of the geometry record (ID 0x01) that have a bit range of their own. -/
def geometryFields : List FieldSpec :=
  [⟨1, 0, 16, 72, .bootOnly, 32, 256, false⟩,
   ⟨1, 16, 8, 8, .live, 8, 16, false⟩,
   ⟨1, 24, 8, 4, .live, 1, 16, false⟩,
   ⟨1, 32, 8, 64, .bootOnly, 0, 64, false⟩,
   ⟨1, 40, 8, 0, .rsvdP, 0, 255, false⟩,
   ⟨1, 48, 16, 128, .live, 1, 128, false⟩,
   ⟨1, 64, 16, 64, .live, 1, 128, false⟩,
   ⟨1, 80, 48, 0, .rsvdP, 0, 281474976710655, false⟩]

/-- Fields of the admission record (ID 0x02) that have a bit range of their own. -/
def admissionFields : List FieldSpec :=
  [⟨2, 0, 16, 1800, .live, 400, 4000, false⟩,
   ⟨2, 16, 8, 72, .live, 16, 255, false⟩,
   ⟨2, 24, 4, 2, .live, 1, 4, false⟩,
   ⟨2, 28, 4, 4, .bootOnly, 1, 15, false⟩,
   ⟨2, 32, 8, 5, .bootOnly, 2, 20, false⟩,
   ⟨2, 40, 8, 2, .bootOnly, 1, 50, false⟩,
   ⟨2, 48, 8, 12, .bootOnly, 4, 14, false⟩,
   ⟨2, 56, 3, 4, .live, 0, 7, false⟩,
   ⟨2, 59, 5, 0, .rsvdP, 0, 31, false⟩]

/-- Fields of the media record (ID 0x03) that have a bit range of their own. -/
def mediaFields : List FieldSpec :=
  [⟨3, 0, 8, 4, .live, 1, 64, false⟩,
   ⟨3, 8, 8, 16, .live, 3, 255, false⟩,
   ⟨3, 16, 3, 4, .live, 0, 7, false⟩,
   ⟨3, 19, 5, 0, .rsvdP, 0, 31, false⟩,
   ⟨3, 24, 8, 16, .live, 1, 255, false⟩,
   ⟨3, 32, 8, 50, .live, 10, 255, false⟩,
   ⟨3, 40, 8, 10, .live, 0, 255, false⟩,
   ⟨3, 48, 16, 1440, .live, 24, 8760, false⟩,
   ⟨3, 64, 3, 4, .live, 1, 7, false⟩,
   ⟨3, 67, 2, 0, .live, 0, 3, false⟩,
   ⟨3, 69, 59, 0, .rsvdP, 0, 576460752303423487, false⟩]

/-- Fields of the dieProfile record (ID 0x04) that have a bit range of their own. -/
def dieProfileFields : List FieldSpec :=
  [⟨4, 0, 3, 4, .bootOnly, 1, 4, false⟩,
   ⟨4, 3, 1, 1, .bootOnly, 0, 1, false⟩,
   ⟨4, 4, 3, 4, .bootOnly, 1, 4, false⟩,
   ⟨4, 7, 1, 1, .bootOnly, 0, 1, false⟩,
   ⟨4, 8, 10, 384, .bootOnly, 64, 1023, false⟩,
   ⟨4, 18, 14, 0, .rsvdP, 0, 16383, false⟩,
   ⟨4, 32, 16, 2731, .bootOnly, 64, 16383, false⟩,
   ⟨4, 48, 16, 2680, .bootOnly, 0, 65535, false⟩,
   ⟨4, 64, 16, 1500, .bootOnly, 0, 65535, false⟩,
   ⟨4, 80, 16, 2250, .bootOnly, 0, 65535, false⟩,
   ⟨4, 96, 16, 30000, .bootOnly, 0, 65535, false⟩,
   ⟨4, 112, 16, 40000, .bootOnly, 0, 65535, false⟩,
   ⟨4, 128, 16, 75, .bootOnly, 10, 500, false⟩,
   ⟨4, 144, 16, 30, .bootOnly, 5, 500, false⟩,
   ⟨4, 160, 16, 1500, .bootOnly, 0, 65535, false⟩,
   ⟨4, 176, 16, 2700, .bootOnly, 0, 65535, false⟩,
   ⟨4, 192, 16, 400, .bootOnly, 0, 65535, false⟩,
   ⟨4, 208, 16, 12000, .bootOnly, 0, 16000, false⟩,
   ⟨4, 224, 8, 25, .bootOnly, 0, 255, false⟩,
   ⟨4, 232, 8, 35, .bootOnly, 0, 255, false⟩,
   ⟨4, 240, 8, 15, .bootOnly, 0, 255, false⟩,
   ⟨4, 248, 8, 32, .bootOnly, 1, 127, false⟩,
   ⟨4, 256, 8, 64, .bootOnly, 1, 127, false⟩,
   ⟨4, 264, 4, 3, .bootOnly, 1, 15, false⟩,
   ⟨4, 268, 4, 4, .bootOnly, 1, 15, false⟩,
   ⟨4, 272, 4, 3, .bootOnly, 1, 15, false⟩,
   ⟨4, 276, 4, 6, .bootOnly, 1, 15, false⟩,
   ⟨4, 280, 4, 4, .bootOnly, 1, 15, false⟩,
   ⟨4, 284, 4, 2, .bootOnly, 2, 8, false⟩,
   ⟨4, 288, 8, 18, .bootOnly, 4, 18, false⟩,
   ⟨4, 296, 8, 0, .rsvdP, 0, 255, false⟩,
   ⟨4, 304, 32, 0, .bootOnly, 0, 4294967295, false⟩,
   ⟨4, 336, 48, 0, .bootOnly, 0, 281474976710655, false⟩,
   ⟨4, 384, 128, 0, .rsvdP, 0, 340282366920938463463374607431768211455, false⟩]

/-- Fields of the channel record (ID 0x06) that have a bit range of their own. -/
def channelFields : List FieldSpec :=
  [⟨6, 0, 8, 128, .bootOnly, 0, 128, false⟩,
   ⟨6, 8, 8, 128, .bootOnly, 0, 128, false⟩,
   ⟨6, 16, 5, 18, .bootOnly, 4, 18, false⟩,
   ⟨6, 21, 3, 3, .bootOnly, 0, 7, false⟩,
   ⟨6, 24, 3, 2, .bootOnly, 0, 4, false⟩,
   ⟨6, 27, 3, 2, .bootOnly, 0, 4, false⟩,
   ⟨6, 30, 2, 0, .rsvdP, 0, 3, false⟩,
   ⟨6, 32, 16, 300, .live, 10, 3600, false⟩,
   ⟨6, 48, 8, 15, .live, 5, 40, false⟩,
   ⟨6, 56, 8, 0, .rsvdP, 0, 255, false⟩]

/-- Fields of the recovery record (ID 0x07) that have a bit range of their own. -/
def recoveryFields : List FieldSpec :=
  [⟨7, 0, 8, 120, .live, 32, 255, false⟩,
   ⟨7, 8, 4, 8, .live, 2, 15, false⟩,
   ⟨7, 12, 4, 3, .live, 1, 8, false⟩,
   ⟨7, 16, 16, 168, .live, 1, 8760, false⟩,
   ⟨7, 32, 16, 60, .live, 1, 3600, false⟩,
   ⟨7, 48, 8, 24, .live, 1, 255, false⟩,
   ⟨7, 56, 1, 1, .live, 0, 1, false⟩,
   ⟨7, 57, 7, 0, .rsvdP, 0, 127, false⟩]

/-- Fields of the eaves record (ID 0x08) that have a bit range of their own. -/
def eavesFields : List FieldSpec :=
  [⟨8, 0, 16, 5000, .live, 100, 60000, false⟩,
   ⟨8, 16, 8, 8, .live, 1, 32, false⟩,
   ⟨8, 24, 8, 75, .live, 50, 95, false⟩,
   ⟨8, 32, 16, 1800, .live, 400, 4000, false⟩,
   ⟨8, 48, 8, 64, .bootOnly, 4, 255, false⟩,
   ⟨8, 56, 8, 80, .bootOnly, 4, 255, false⟩,
   ⟨8, 64, 7, 83, .bootOnly, 50, 100, false⟩,
   ⟨8, 71, 57, 0, .rsvdP, 0, 144115188075855871, false⟩]

/-- Fields of the host record (ID 0x09) that have a bit range of their own. -/
def hostFields : List FieldSpec :=
  [⟨9, 0, 16, 8043, .bootOnly, 0, 65535, false⟩,
   ⟨9, 16, 16, 1, .bootOnly, 0, 65535, false⟩,
   ⟨9, 32, 3, 6, .bootOnly, 1, 6, false⟩,
   ⟨9, 35, 4, 8, .bootOnly, 1, 8, false⟩,
   ⟨9, 39, 1, 0, .bootOnly, 0, 1, false⟩,
   ⟨9, 40, 8, 255, .bootOnly, 0, 255, false⟩,
   ⟨9, 48, 1, 0, .live, 0, 1, false⟩,
   ⟨9, 49, 1, 1, .bootOnly, 0, 1, false⟩,
   ⟨9, 50, 14, 0, .rsvdP, 0, 16383, false⟩]

/-- Fields of the management record (ID 0x0A) that have a bit range of their own. -/
def managementFields : List FieldSpec :=
  [⟨10, 0, 8, 0, .bootOnly, 0, 255, false⟩,
   ⟨10, 8, 8, 16, .live, 1, 64, false⟩,
   ⟨10, 16, 4, 4, .live, 1, 8, false⟩,
   ⟨10, 20, 4, 0, .rsvdP, 0, 15, false⟩,
   ⟨10, 24, 6, 56, .live, 0, 63, false⟩,
   ⟨10, 30, 34, 0, .rsvdP, 0, 17179869183, false⟩]

/-- Fields of the crypto record (ID 0x0B) that have a bit range of their own. -/
def cryptoFields : List FieldSpec :=
  [⟨11, 0, 8, 56, .live, 0, 56, false⟩,
   ⟨11, 8, 56, 0, .rsvdP, 0, 72057594037927935, false⟩]

/-- Fields of the dram record (ID 0x0C) that have a bit range of their own. -/
def dramFields : List FieldSpec :=
  [⟨12, 0, 2, 2, .bootOnly, 0, 2, false⟩,
   ⟨12, 2, 2, 3, .bootOnly, 0, 3, false⟩,
   ⟨12, 4, 1, 0, .bootOnly, 0, 1, false⟩,
   ⟨12, 5, 1, 0, .bootOnly, 0, 1, false⟩,
   ⟨12, 6, 2, 0, .rsvdP, 0, 3, false⟩,
   ⟨12, 8, 8, 24, .live, 1, 168, false⟩,
   ⟨12, 16, 8, 20, .live, 5, 100, false⟩,
   ⟨12, 24, 8, 8, .live, 1, 64, false⟩,
   ⟨12, 32, 8, 4, .live, 2, 64, false⟩,
   ⟨12, 40, 8, 10, .live, 5, 40, false⟩,
   ⟨12, 48, 16, 65535, .live, 0, 65535, false⟩,
   ⟨12, 64, 64, 0, .rsvdP, 0, 18446744073709551615, false⟩]

/-- Fields of the buffer record (ID 0x0D) that have a bit range of their own. -/
def bufferFields : List FieldSpec :=
  [⟨13, 0, 16, 2048, .live, 512, 8192, false⟩,
   ⟨13, 16, 16, 1024, .live, 256, 4096, false⟩,
   ⟨13, 32, 16, 1024, .live, 128, 4096, false⟩,
   ⟨13, 48, 16, 256, .live, 64, 1024, false⟩,
   ⟨13, 64, 64, 0, .rsvdP, 0, 18446744073709551615, false⟩]

/-- Fields of the fault record (ID 0x0E) that have a bit range of their own. -/
def faultFields : List FieldSpec :=
  [⟨14, 0, 1, 0, .live, 0, 1, false⟩,
   ⟨14, 1, 5, 10, .live, 0, 16, false⟩,
   ⟨14, 6, 58, 0, .rsvdP, 0, 288230376151711743, false⟩]

/-- Fields of the thermal record (ID 0x0F) that have a bit range of their own. -/
def thermalFields : List FieldSpec :=
  [⟨15, 24, 8, 100, .live, 40, 125, false⟩,
   ⟨15, 32, 4, 5, .live, 2, 15, false⟩,
   ⟨15, 36, 4, 0, .rsvdP, 0, 15, false⟩,
   ⟨15, 40, 7, 75, .live, 50, 100, false⟩,
   ⟨15, 47, 1, 1, .live, 0, 1, false⟩,
   ⟨15, 48, 7, 50, .live, 25, 100, false⟩,
   ⟨15, 55, 1, 0, .rsvdP, 0, 1, false⟩,
   ⟨15, 56, 12, 600, .live, 0, 4000, false⟩,
   ⟨15, 68, 8, 85, .live, 60, 95, false⟩,
   ⟨15, 76, 52, 0, .rsvdP, 0, 4503599627370495, false⟩]

/-- Fields of the airflow record (ID 0x10) that have a bit range of their own. -/
def airflowFields : List FieldSpec :=
  [⟨16, 0, 4, 4, .bootOnly, 1, 15, false⟩,
   ⟨16, 4, 1, 0, .bootOnly, 0, 1, false⟩,
   ⟨16, 5, 3, 0, .rsvdP, 0, 7, false⟩,
   ⟨16, 8, 8, 25, .bootOnly, 16, 50, false⟩,
   ⟨16, 16, 8, 30, .bootOnly, 5, 100, false⟩,
   ⟨16, 24, 8, 20, .bootOnly, 10, 60, false⟩,
   ⟨16, 32, 16, 450, .bootOnly, 10, 20000, false⟩,
   ⟨16, 48, 16, 200, .bootOnly, 10, 20000, false⟩,
   ⟨16, 64, 16, 900, .bootOnly, 50, 10000, false⟩,
   ⟨16, 80, 16, 12000, .bootOnly, 1000, 40000, false⟩,
   ⟨16, 96, 8, 100, .bootOnly, 10, 255, false⟩,
   ⟨16, 104, 8, 60, .live, 5, 250, false⟩,
   ⟨16, 112, 8, 160, .live, 140, 250, false⟩,
   ⟨16, 120, 8, 145, .live, 136, 245, false⟩,
   ⟨16, 128, 8, 138, .live, 133, 242, false⟩,
   ⟨16, 136, 16, 2000, .live, 100, 20000, false⟩,
   ⟨16, 152, 16, 1500, .live, 100, 20000, false⟩,
   ⟨16, 168, 8, 35, .live, -128, 127, true⟩,
   ⟨16, 176, 4, 5, .live, 2, 15, false⟩,
   ⟨16, 180, 4, 0, .rsvdP, 0, 15, false⟩,
   ⟨16, 184, 8, 30, .live, 10, 255, false⟩,
   ⟨16, 192, 8, 60, .live, 11, 255, false⟩,
   ⟨16, 200, 8, 20, .live, 0, 60, false⟩,
   ⟨16, 336, 16, 500, .live, 0, 65535, false⟩,
   ⟨16, 352, 16, 2000, .live, 0, 65535, false⟩,
   ⟨16, 368, 16, 1880, .quiesce, 0, 65535, false⟩,
   ⟨16, 384, 16, 4230, .quiesce, 0, 65535, false⟩,
   ⟨16, 400, 8, 125, .live, 100, 150, false⟩,
   ⟨16, 408, 8, 85, .live, 50, 100, false⟩,
   ⟨16, 416, 8, 70, .live, 30, 100, false⟩,
   ⟨16, 424, 88, 0, .rsvdP, 0, 309485009821345068724781055, false⟩]

/-- Fields of the supply record (ID 0x11) that have a bit range of their own. -/
def supplyFields : List FieldSpec :=
  [⟨17, 0, 7, 96, .bootOnly, 0, 127, false⟩,
   ⟨17, 7, 1, 0, .rsvdP, 0, 1, false⟩,
   ⟨17, 8, 9, 330, .live, 200, 350, false⟩,
   ⟨17, 17, 7, 0, .rsvdP, 0, 127, false⟩,
   ⟨17, 24, 8, 90, .bootOnly, 60, 150, false⟩,
   ⟨17, 32, 16, 19200, .bootOnly, 1000, 65535, false⟩,
   ⟨17, 48, 16, 1000, .bootOnly, 100, 10000, false⟩,
   ⟨17, 64, 8, 10, .live, 5, 30, false⟩,
   ⟨17, 72, 8, 24, .live, 1, 255, false⟩,
   ⟨17, 80, 8, 30, .live, 5, 255, false⟩,
   ⟨17, 88, 16, 60, .bootOnly, 1, 1000, false⟩,
   ⟨17, 104, 16, 2750, .bootOnly, 1600, 3600, false⟩,
   ⟨17, 120, 1, 1, .bootOnly, 0, 1, false⟩,
   ⟨17, 121, 7, 0, .rsvdP, 0, 127, false⟩]

/-- Fields of the read-retry record (Table 07.4): band edges, SOFT_DELTA, retry lists, shift sets. -/
def readRetryFields : List FieldSpec :=
  ((List.range 7).map fun i => ⟨5, 8 * i, 8, twos 8 (15 * (i : Int) - 15), .bootOnly, -128, 127, true⟩) ++
  [⟨5, 56, 8, 6, .bootOnly, 1, 40, false⟩] ++
  ((List.range 128).map fun i => ⟨5, 64 + 8 * i, 8, 0, .bootOnly, 0, 63, false⟩) ++
  ((List.range 1008).map fun i =>
    if i % 16 = 15 then ⟨5, 1088 + 8 * i, 8, 0, .bootOnly, 0, 0, false⟩
    else ⟨5, 1088 + 8 * i, 8, 0, .bootOnly, -128, 127, true⟩)

/-- OVERRIDE_0 to OVERRIDE_63 of the fault record (Table 14.8); what a valid entry may hold is `overrideOk`. -/
def overrideFields : List FieldSpec :=
  (List.range 64).map fun i => ⟨14, 64 + 64 * i, 64, 0, .live, 0, 2 ^ 64 - 1, false⟩

/-- REMOTE_ROLE_0 to REMOTE_ROLE_7 of the thermal record (Table 15.6). -/
def remoteRoleFields : List FieldSpec := (List.range 8).map fun i => ⟨15, 3 * i, 3, 0, .bootOnly, 0, 7, false⟩

/-- Reset of CURVE (Table 16.5): temperature and percent of each point. -/
def curveReset : List (Nat × Nat) := [(35, 25), (45, 40), (55, 60), (65, 80), (75, 100), (75, 100), (75, 100), (75, 100)]

/-- The sixteen bytes of CURVE in the airflow record. -/
def curveFields : List FieldSpec :=
  ((List.range 8).map fun j =>
    [(⟨16, 208 + 16 * j, 8, (curveReset.getD j (0, 0)).1, .live, -128, 127, true⟩ : FieldSpec),
     ⟨16, 216 + 16 * j, 8, (curveReset.getD j (0, 0)).2, .live, 0, 100, false⟩]).flatten

/-- Every field of a record. -/
def recordFields : Nat → List FieldSpec
  | 1 => geometryFields
  | 2 => admissionFields
  | 3 => mediaFields
  | 4 => dieProfileFields
  | 5 => readRetryFields
  | 6 => channelFields
  | 7 => recoveryFields
  | 8 => eavesFields
  | 9 => hostFields
  | 10 => managementFields
  | 11 => cryptoFields
  | 12 => dramFields
  | 13 => bufferFields
  | 14 => faultFields ++ overrideFields
  | 15 => remoteRoleFields ++ thermalFields
  | 16 => airflowFields ++ curveFields
  | 17 => supplyFields
  | _ => []

/-- The value of a record whose fields stand at their resets. -/
def recordReset (r : Nat) : Nat :=
  (recordFields r).foldl (fun a f => a + f.reset * 2 ^ f.lo) 0

/-- Reset of the read-retry record: only the band edges and SOFT_DELTA are not zero (R165). -/
def readRetryReset : Nat :=
  (readRetryFields.take 8).foldl (fun a f => a + f.reset * 2 ^ f.lo) 0

/-- Reset of the fault record: only CIE_REPORT and RECORD_STRIDE precede the invalid overrides (R330). -/
def faultReset : Nat := faultFields.foldl (fun a f => a + f.reset * 2 ^ f.lo) 0

/-- Every record at its reset values. -/
def Profile.atReset : Profile where
  geometry := recordReset 1
  admission := recordReset 2
  media := recordReset 3
  dieProfile := recordReset 4
  readRetry := readRetryReset
  channel := recordReset 6
  recovery := recordReset 7
  eaves := recordReset 8
  host := recordReset 9
  management := recordReset 10
  crypto := recordReset 11
  dram := recordReset 12
  buffer := recordReset 13
  fault := faultReset
  thermal := recordReset 15
  airflow := recordReset 16
  supply := recordReset 17

/-- A field's value in a record, signed where the table says so. -/
def fieldValue (f : FieldSpec) (v : Nat) : Int :=
  if f.signed then signedOf f.width (bits v f.lo f.width) else (bits v f.lo f.width : Int)

/-- A field's value lies within its range. -/
def fieldInRange (f : FieldSpec) (v : Nat) : Bool :=
  decide (f.least ≤ fieldValue f v) && decide (fieldValue f v ≤ f.most)

/-- Sources whose threshold Table 14.1 marks fixed (R316); 311 is fixed only for islands 0x00 to 0x05 and is changeable. -/
def sourceFixed (i : Nat) : Bool :=
  i == 283 || i == 289 || i == 305 || i == 307 || i == 308 || i == 309 || i == 312 || i == 314 || i == 318

/-- An override entry is legal (Table 14.8): zero bits zero, and a valid one names a changeable source with T in range. -/
def overrideOk (e : Nat) : Bool :=
  bits e 10 6 == 0 && bits e 24 8 == 0 &&
  (bits e 9 1 == 0 ||
    (decide (bits e 0 9 < 320) && !sourceFixed (bits e 0 9) && decide (1 ≤ bits e 32 32) &&
      decide (bits e 32 32 ≤ 2592000000)))

/-- The rules of R360 over CURVE: temperatures do not fall, and two points of one temperature have one speed. -/
def curveOk (v : Nat) : Bool :=
  (List.range 7).all fun j =>
    let t0 := signedOf 8 (bits v (208 + 16 * j) 8)
    let t1 := signedOf 8 (bits v (224 + 16 * j) 8)
    decide (t0 < t1) || (decide (t0 = t1) && bits v (216 + 16 * j) 8 == bits v (232 + 16 * j) 8)

/-- The rules between fields that a record's table states, each with the first bit and the width of the field that breaks it. Where a
table relates a field to another record (DATA_RATE to MAX_RATE), the other record is the one of `p`. -/
def ruleChecks (p : Profile) : Nat → List (Bool × Nat × Nat)
  | 1 => [(decide (profField p 1 64 16 ≤ profField p 1 48 16), 64, 16)]
  | 3 => [(decide (profField p 3 0 8 + 2 ≤ profField p 3 8 8), 8, 8)]
  | 4 => [(profField p 4 0 3 != 2, 0, 3), (profField p 4 4 3 != 3, 4, 3), (profField p 4 7 1 == 1 || profField p 4 176 16 == 0, 176, 16),
      (decide (profField p 4 48 16 ≤ profField p 4 32 16), 48, 16), (decide (profField p 4 64 16 ≤ profField p 4 80 16), 80, 16),
      (decide (profField p 4 96 16 ≤ profField p 4 112 16), 112, 16), (decide (profField p 4 144 16 ≤ profField p 4 128 16), 144, 16)]
  | 5 => (List.range 6).map fun i =>
      (decide (signedOf 8 (profField p 5 (8 * i) 8) < signedOf 8 (profField p 5 (8 * i + 8) 8)), 8 * i + 8, 8)
  | 6 => [(profField p 6 0 8 % 8 == 0, 0, 8), (profField p 6 8 8 % 8 == 0, 8, 8),
      (decide (profField p 6 16 5 ≤ profField p 4 288 8), 16, 5)]
  | 9 => [([1, 2, 4, 8].contains (profField p 9 35 4), 35, 4)]
  | 12 => [(profField p 12 5 1 == 0 || decide (1 ≤ profField p 12 2 2), 2, 2)]
  | 13 => [(decide (profField p 13 0 16 + profField p 13 16 16 + profField p 13 32 16 + profField p 13 48 16 ≤ 11264), 0, 16)]
  | 14 => (List.range 64).map fun i => (overrideOk (profField p 14 (64 + 64 * i) 64), 64 + 64 * i, 64)
  | 15 => [(decide (profField p 15 48 7 ≤ profField p 15 40 7), 48, 7)]
  | 16 => [(decide (profField p 16 120 8 + 5 ≤ profField p 16 112 8), 120, 8),
      (decide (profField p 16 128 8 + 3 ≤ profField p 16 120 8), 128, 8), (decide (profField p 16 184 8 < profField p 16 192 8), 184, 8),
      (decide (profField p 16 416 8 ≤ profField p 16 408 8), 416, 8), (curveOk p.airflow, 512, 8)]
  | _ => []

/-- A record keeps the rules between its fields. -/
def recordRules (p : Profile) (r : Nat) : Bool := (ruleChecks p r).all (·.1)

/-- A record passes the checks of R456: ranges, rules between fields, RsvdP at zero. -/
def recordOk (p : Profile) (r : Nat) : Bool :=
  ((recordFields r).all fun f =>
    if f.cls = .rsvdP then bits (profRecord p r) f.lo f.width == 0 else fieldInRange f (profRecord p r)) &&
  recordRules p r

/-- The bit of the first failing field of a record, for event 0x0021 (R456); none where only a rule between fields fails. -/
def firstBadField (p : Profile) (r : Nat) : Option FieldSpec :=
  (recordFields r).find? fun f =>
    if f.cls = .rsvdP then !(bits (profRecord p r) f.lo f.width == 0) else !(fieldInRange f (profRecord p r))

/-- spareReserve of the geometry record. -/
def Profile.spareReserve (p : Profile) : Nat := profField p 1 0 16

/-- minWidth of the geometry record. -/
def Profile.minWidth (p : Profile) : Nat := profField p 1 16 8

/-- readyThatches of the geometry record. -/
def Profile.readyThatches (p : Profile) : Nat := profField p 1 24 8

/-- convCapacity of the geometry record. -/
def Profile.convCapacity (p : Profile) : Nat := profField p 1 32 8

/-- activeLimitDefault of the geometry record. -/
def Profile.activeLimitDefault (p : Profile) : Nat := profField p 1 48 16

/-- openLimitDefault of the geometry record. -/
def Profile.openLimitDefault (p : Profile) : Nat := profField p 1 64 16

/-- flashPowerBudget of the admission record. -/
def Profile.flashPowerBudget (p : Profile) : Nat := profField p 2 0 16

/-- bgTokenReserve of the admission record. -/
def Profile.bgTokenReserve (p : Profile) : Nat := profField p 2 16 8

/-- suspReserve of the admission record. -/
def Profile.suspReserve (p : Profile) : Nat := profField p 2 24 4

/-- spread of the admission record. -/
def Profile.spread (p : Profile) : Nat := profField p 2 28 4

/-- bgDieShare of the admission record. -/
def Profile.bgDieShare (p : Profile) : Nat := profField p 2 32 8

/-- hostReadLat of the admission record. -/
def Profile.hostReadLat (p : Profile) : Nat := profField p 2 40 8

/-- eavesContract of the admission record. -/
def Profile.eavesContract (p : Profile) : Nat := profField p 2 48 8

/-- defaultClass of the admission record. -/
def Profile.defaultClass (p : Profile) : Nat := profField p 2 56 3

/-- convFgMark of the media record. -/
def Profile.convFgMark (p : Profile) : Nat := profField p 3 0 8

/-- convBgMark of the media record. -/
def Profile.convBgMark (p : Profile) : Nat := profField p 3 8 8

/-- reclaimClass of the media record. -/
def Profile.reclaimClass (p : Profile) : Nat := profField p 3 16 3

/-- reclaimWeight of the media record. -/
def Profile.reclaimWeight (p : Profile) : Nat := profField p 3 24 8

/-- wearGap of the media record. -/
def Profile.wearGap (p : Profile) : Nat := profField p 3 32 8

/-- wearGain of the media record. -/
def Profile.wearGain (p : Profile) : Nat := profField p 3 40 8

/-- retentionHours of the media record. -/
def Profile.retentionHours (p : Profile) : Nat := profField p 3 48 16

/-- erasePerBay of the media record. -/
def Profile.erasePerBay (p : Profile) : Nat := profField p 3 64 3

/-- reroofSkipClass of the media record. -/
def Profile.reroofSkipClass (p : Profile) : Nat := profField p 3 67 2

/-- zoneBits of the dieProfile record. -/
def Profile.zoneBits (p : Profile) : Nat := profField p 4 0 3

/-- indepPlaneAddr of the dieProfile record. -/
def Profile.indepPlaneAddr (p : Profile) : Nat := profField p 4 3 1

/-- planes of the dieProfile record. -/
def Profile.planes (p : Profile) : Nat := profField p 4 4 3

/-- twoPass of the dieProfile record. -/
def Profile.twoPass (p : Profile) : Nat := profField p 4 7 1

/-- wordlines of the dieProfile record. -/
def Profile.wordlines (p : Profile) : Nat := profField p 4 8 10

/-- blocksPerPlane of the dieProfile record. -/
def Profile.blocksPerPlane (p : Profile) : Nat := profField p 4 32 16

/-- minGood of the dieProfile record. -/
def Profile.minGood (p : Profile) : Nat := profField p 4 48 16

/-- peRated of the dieProfile record. -/
def Profile.peRated (p : Profile) : Nat := profField p 4 64 16

/-- peLimit of the dieProfile record. -/
def Profile.peLimit (p : Profile) : Nat := profField p 4 80 16

/-- peRatedSlc of the dieProfile record. -/
def Profile.peRatedSlc (p : Profile) : Nat := profField p 4 96 16

/-- peLimitSlc of the dieProfile record. -/
def Profile.peLimitSlc (p : Profile) : Nat := profField p 4 112 16

/-- tR of the dieProfile record. -/
def Profile.tR (p : Profile) : Nat := profField p 4 128 16

/-- tRSlc of the dieProfile record. -/
def Profile.tRSlc (p : Profile) : Nat := profField p 4 144 16

/-- tFog of the dieProfile record. -/
def Profile.tFog (p : Profile) : Nat := profField p 4 160 16

/-- tFine of the dieProfile record. -/
def Profile.tFine (p : Profile) : Nat := profField p 4 176 16

/-- tProgSlc of the dieProfile record. -/
def Profile.tProgSlc (p : Profile) : Nat := profField p 4 192 16

/-- tBers of the dieProfile record. -/
def Profile.tBers (p : Profile) : Nat := profField p 4 208 16

/-- tSuspP of the dieProfile record. -/
def Profile.tSuspP (p : Profile) : Nat := profField p 4 224 8

/-- tSuspE of the dieProfile record. -/
def Profile.tSuspE (p : Profile) : Nat := profField p 4 232 8

/-- tRes of the dieProfile record. -/
def Profile.tRes (p : Profile) : Nat := profField p 4 240 8

/-- nSuspP of the dieProfile record. -/
def Profile.nSuspP (p : Profile) : Nat := profField p 4 248 8

/-- nSuspE of the dieProfile record. -/
def Profile.nSuspE (p : Profile) : Nat := profField p 4 256 8

/-- tokSense of the dieProfile record. -/
def Profile.tokSense (p : Profile) : Nat := profField p 4 264 4

/-- tokProg of the dieProfile record. -/
def Profile.tokProg (p : Profile) : Nat := profField p 4 268 4

/-- tokProgSlc of the dieProfile record. -/
def Profile.tokProgSlc (p : Profile) : Nat := profField p 4 272 4

/-- tokErase of the dieProfile record. -/
def Profile.tokErase (p : Profile) : Nat := profField p 4 276 4

/-- tokXfer of the dieProfile record. -/
def Profile.tokXfer (p : Profile) : Nat := profField p 4 280 4

/-- overrunLimit of the dieProfile record. -/
def Profile.overrunLimit (p : Profile) : Nat := profField p 4 284 4

/-- maxRate of the dieProfile record. -/
def Profile.maxRate (p : Profile) : Nat := profField p 4 288 8

/-- microcodeId of the dieProfile record. -/
def Profile.microcodeId (p : Profile) : Nat := profField p 4 304 32

/-- dieIdMatch of the dieProfile record. -/
def Profile.dieIdMatch (p : Profile) : Nat := profField p 4 336 48

/-- diesH0 of the channel record. -/
def Profile.diesH0 (p : Profile) : Nat := profField p 6 0 8

/-- diesH1 of the channel record. -/
def Profile.diesH1 (p : Profile) : Nat := profField p 6 8 8

/-- dataRate of the channel record. -/
def Profile.dataRate (p : Profile) : Nat := profField p 6 16 5

/-- drvCtrl of the channel record. -/
def Profile.drvCtrl (p : Profile) : Nat := profField p 6 21 3

/-- odtDie of the channel record. -/
def Profile.odtDie (p : Profile) : Nat := profField p 6 24 3

/-- odtCtrl of the channel record. -/
def Profile.odtCtrl (p : Profile) : Nat := profField p 6 27 3

/-- recalInterval of the channel record. -/
def Profile.recalInterval (p : Profile) : Nat := profField p 6 32 16

/-- recalDelta of the channel record. -/
def Profile.recalDelta (p : Profile) : Nat := profField p 6 48 8

/-- refreshCorr of the recovery record. -/
def Profile.refreshCorr (p : Profile) : Nat := profField p 7 0 8

/-- refreshHits of the recovery record. -/
def Profile.refreshHits (p : Profile) : Nat := profField p 7 8 4

/-- bgPasses of the recovery record. -/
def Profile.bgPasses (p : Profile) : Nat := profField p 7 12 4

/-- refreshWindow of the recovery record. -/
def Profile.refreshWindow (p : Profile) : Nat := profField p 7 16 16

/-- bgPassGap of the recovery record. -/
def Profile.bgPassGap (p : Profile) : Nat := profField p 7 32 16

/-- sampleHours of the recovery record. -/
def Profile.sampleHours (p : Profile) : Nat := profField p 7 48 8

/-- softEnable of the recovery record. -/
def Profile.softEnable (p : Profile) : Nat := profField p 7 56 1

/-- underlayIdle of the eaves record. -/
def Profile.underlayIdle (p : Profile) : Nat := profField p 8 0 16

/-- eavesLowMark of the eaves record. -/
def Profile.eavesLowMark (p : Profile) : Nat := profField p 8 16 8

/-- underlayFullMark of the eaves record. -/
def Profile.underlayFullMark (p : Profile) : Nat := profField p 8 24 8

/-- dumpTokenBudget of the eaves record. -/
def Profile.dumpTokenBudget (p : Profile) : Nat := profField p 8 32 16

/-- pDramDump of the eaves record. -/
def Profile.pDramDump (p : Profile) : Nat := profField p 8 48 8

/-- pDramAct of the eaves record. -/
def Profile.pDramAct (p : Profile) : Nat := profField p 8 56 8

/-- huEfficiency of the eaves record. -/
def Profile.huEfficiency (p : Profile) : Nat := profField p 8 64 7

/-- subsysVendor of the host record. -/
def Profile.subsysVendor (p : Profile) : Nat := profField p 9 0 16

/-- subsysId of the host record. -/
def Profile.subsysId (p : Profile) : Nat := profField p 9 16 16

/-- maxSpeed of the host record. -/
def Profile.maxSpeed (p : Profile) : Nat := profField p 9 32 3

/-- maxWidth of the host record. -/
def Profile.maxWidth (p : Profile) : Nat := profField p 9 35 4

/-- sris of the host record. -/
def Profile.sris (p : Profile) : Nat := profField p 9 39 1

/-- totalVfs of the host record. -/
def Profile.totalVfs (p : Profile) : Nat := profField p 9 40 8

/-- poisonEgress of the host record. -/
def Profile.poisonEgress (p : Profile) : Nat := profField p 9 48 1

/-- l1ssCap of the host record. -/
def Profile.l1ssCap (p : Profile) : Nat := profField p 9 49 1

/-- mctpEid of the management record. -/
def Profile.mctpEid (p : Profile) : Nat := profField p 10 0 8

/-- fnInflight of the management record. -/
def Profile.fnInflight (p : Profile) : Nat := profField p 10 8 8

/-- oobInflight of the management record. -/
def Profile.oobInflight (p : Profile) : Nat := profField p 10 16 4

/-- oobRights of the management record. -/
def Profile.oobRights (p : Profile) : Nat := profField p 10 24 6

/-- kpioQuota of the crypto record. -/
def Profile.kpioQuota (p : Profile) : Nat := profField p 11 0 8

/-- density of the dram record. -/
def Profile.density (p : Profile) : Nat := profField p 12 0 2

/-- ranks of the dram record. -/
def Profile.ranks (p : Profile) : Nat := profField p 12 2 2

/-- halfWidth of the dram record. -/
def Profile.halfWidth (p : Profile) : Nat := profField p 12 4 1

/-- spareRank of the dram record. -/
def Profile.spareRank (p : Profile) : Nat := profField p 12 5 1

/-- scrubHours of the dram record. -/
def Profile.scrubHours (p : Profile) : Nat := profField p 12 8 8

/-- panicLat of the dram record. -/
def Profile.panicLat (p : Profile) : Nat := profField p 12 16 8

/-- rowActLimit of the dram record. -/
def Profile.rowActLimit (p : Profile) : Nat := profField p 12 24 8

/-- pprThreshold of the dram record. -/
def Profile.pprThreshold (p : Profile) : Nat := profField p 12 32 8

/-- retrainDelta of the dram record. -/
def Profile.retrainDelta (p : Profile) : Nat := profField p 12 40 8

/-- loftSize of the dram record. -/
def Profile.loftSize (p : Profile) : Nat := profField p 12 48 16

/-- resWrite of the buffer record. -/
def Profile.resWrite (p : Profile) : Nat := profField p 13 0 16

/-- resRead of the buffer record. -/
def Profile.resRead (p : Profile) : Nat := profField p 13 16 16

/-- resBg of the buffer record. -/
def Profile.resBg (p : Profile) : Nat := profField p 13 32 16

/-- resMgmt of the buffer record. -/
def Profile.resMgmt (p : Profile) : Nat := profField p 13 48 16

/-- cieReport of the fault record. -/
def Profile.cieReport (p : Profile) : Nat := profField p 14 0 1

/-- recordStride of the fault record. -/
def Profile.recordStride (p : Profile) : Nat := profField p 14 1 5

/-- remoteHot of the thermal record. -/
def Profile.remoteHot (p : Profile) : Nat := profField p 15 24 8

/-- hysteresis of the thermal record. -/
def Profile.hysteresis (p : Profile) : Nat := profField p 15 32 4

/-- warmPct of the thermal record. -/
def Profile.warmPct (p : Profile) : Nat := profField p 15 40 7

/-- coldWarmAuto of the thermal record. -/
def Profile.coldWarmAuto (p : Profile) : Nat := profField p 15 47 1

/-- hotPct of the thermal record. -/
def Profile.hotPct (p : Profile) : Nat := profField p 15 48 7

/-- warmTokens of the thermal record. -/
def Profile.warmTokens (p : Profile) : Nat := profField p 15 56 12

/-- tripRestart of the thermal record. -/
def Profile.tripRestart (p : Profile) : Nat := profField p 15 68 8

/-- polePairs of the airflow record. -/
def Profile.polePairs (p : Profile) : Nat := profField p 16 0 4

/-- startMode of the airflow record. -/
def Profile.startMode (p : Profile) : Nat := profField p 16 4 1

/-- pwmFreq of the airflow record. -/
def Profile.pwmFreq (p : Profile) : Nat := profField p 16 8 8

/-- deadNs of the airflow record. -/
def Profile.deadNs (p : Profile) : Nat := profField p 16 16 8

/-- tMinSample of the airflow record. -/
def Profile.tMinSample (p : Profile) : Nat := profField p 16 24 8

/-- rS of the airflow record. -/
def Profile.rS (p : Profile) : Nat := profField p 16 32 16

/-- lS of the airflow record. -/
def Profile.lS (p : Profile) : Nat := profField p 16 48 16

/-- ke of the airflow record. -/
def Profile.ke (p : Profile) : Nat := profField p 16 64 16

/-- speedMax of the airflow record. -/
def Profile.speedMax (p : Profile) : Nat := profField p 16 80 16

/-- shunt of the airflow record. -/
def Profile.shunt (p : Profile) : Nat := profField p 16 96 8

/-- iMax of the airflow record. -/
def Profile.iMax (p : Profile) : Nat := profField p 16 104 8

/-- busOv of the airflow record. -/
def Profile.busOv (p : Profile) : Nat := profField p 16 112 8

/-- clampOn of the airflow record. -/
def Profile.clampOn (p : Profile) : Nat := profField p 16 120 8

/-- clampOff of the airflow record. -/
def Profile.clampOff (p : Profile) : Nat := profField p 16 128 8

/-- accel of the airflow record. -/
def Profile.accel (p : Profile) : Nat := profField p 16 136 16

/-- decel of the airflow record. -/
def Profile.decel (p : Profile) : Nat := profField p 16 152 16

/-- tOn of the airflow record. -/
def Profile.tOn (p : Profile) : Int := signedOf 8 (profField p 16 168 8)

/-- onHyst of the airflow record. -/
def Profile.onHyst (p : Profile) : Nat := profField p 16 176 4

/-- catchMin of the airflow record. -/
def Profile.catchMin (p : Profile) : Nat := profField p 16 184 8

/-- hfiExit of the airflow record. -/
def Profile.hfiExit (p : Profile) : Nat := profField p 16 192 8

/-- tjOffset of the airflow record. -/
def Profile.tjOffset (p : Profile) : Nat := profField p 16 200 8

/-- kpSpeed of the airflow record. -/
def Profile.kpSpeed (p : Profile) : Nat := profField p 16 336 16

/-- kiSpeed of the airflow record. -/
def Profile.kiSpeed (p : Profile) : Nat := profField p 16 352 16

/-- kpCur of the airflow record. -/
def Profile.kpCur (p : Profile) : Nat := profField p 16 368 16

/-- kiCur of the airflow record. -/
def Profile.kiCur (p : Profile) : Nat := profField p 16 384 16

/-- ilimCold of the airflow record. -/
def Profile.ilimCold (p : Profile) : Nat := profField p 16 400 8

/-- ilimHot1 of the airflow record. -/
def Profile.ilimHot1 (p : Profile) : Nat := profField p 16 408 8

/-- ilimHot2 of the airflow record. -/
def Profile.ilimHot2 (p : Profile) : Nat := profField p 16 416 8

/-- pmicAddr of the supply record. -/
def Profile.pmicAddr (p : Profile) : Nat := profField p 17 0 7

/-- huTarget of the supply record. -/
def Profile.huTarget (p : Profile) : Nat := profField p 17 8 9

/-- storeFloor of the supply record. -/
def Profile.storeFloor (p : Profile) : Nat := profField p 17 24 8

/-- huCEol of the supply record. -/
def Profile.huCEol (p : Profile) : Nat := profField p 17 32 16

/-- rAudit of the supply record. -/
def Profile.rAudit (p : Profile) : Nat := profField p 17 48 16

/-- auditDepth of the supply record. -/
def Profile.auditDepth (p : Profile) : Nat := profField p 17 64 8

/-- huAuditHours of the supply record. -/
def Profile.huAuditHours (p : Profile) : Nat := profField p 17 72 8

/-- chgTimeout of the supply record. -/
def Profile.chgTimeout (p : Profile) : Nat := profField p 17 80 8

/-- flashStbyUa of the supply record. -/
def Profile.flashStbyUa (p : Profile) : Nat := profField p 17 88 16

/-- flashVccMax of the supply record. -/
def Profile.flashVccMax (p : Profile) : Nat := profField p 17 104 16

/-- pwrdisEn of the supply record. -/
def Profile.pwrdisEn (p : Profile) : Nat := profField p 17 120 1

/-- Board Profile records as bytes (R3, R425). -/
def recordBytesOf (p : Profile) (r : Nat) : List Byte := leBytes (recordBytes r) (profRecord p r)

end Sys2Proof.Machine
end

