-- ==== Sys2Proof/Machine/TypesCore.lean ====
section
/-! DEFINITION. State of time, islands, start-up, event recorder, Fault Collector and telemetry (chapters 00, 01, 14, 18, 19). -/

namespace Sys2Proof.Machine

/-- Time (R12, R13): DevTime in µs since the AON power-on reset; operating time in whole seconds and the µs within the
running second; power-cycle count; AON clock source (R381). -/
structure TimeSt where
  devTime : Nat
  opSeconds : Nat
  subUs : Nat
  powerCycles : Nat
  onBackup : Bool
  crystalLostAt : Option Nat
  deriving DecidableEq, Repr

/-- One event record as the recorder holds it (Table 19.1 without its CRC, which follows from the rest). -/
structure EventRec where
  seq : Nat
  code : Nat
  opSeconds : Nat
  powerCycles : Nat
  devTime : Nat
  srcKind : Nat
  srcNum : Nat
  severity : Nat
  flags : Nat
  payload : List Byte
  deriving DecidableEq, Repr

/-- The event recorder and the Dormer window (R402 to R404). `cache` is the AON record cache, oldest first. -/
structure EvtSt where
  nextSeq : Nat
  permanent : List EventRec
  circulating : List EventRec
  cache : List EventRec
  dropped : Nat
  droppedMax : Nat
  cursorLo : U32
  cursorHi : BitVec 16
  permanentBit : Bool
  notifySeverity : BitVec 3
  notifyPending : Bool
  snapBusy : Bool
  validSlots : Nat
  slots : List EventRec
  snapWait : List EventRec
  deriving DecidableEq, Repr

/-- One island (Table 01.2): its state, when it left Running, whether the channels into it are fenced (R19), whether it
has been released and has not reported Running yet, and whether its logic state has been lost since it last ran. -/
structure Island where
  st : IslState
  leftAt : Option Nat
  fenced : Bool
  released : Bool
  lost : Bool
  deriving DecidableEq, Repr

/-- One handshake channel (R16 to R19), by source and destination island: data channel or control channel, the sequence tags
of the tokens in its FIFO and of those that its source waits to send, oldest first, the tokens discarded by fences as
reported to the source, and the Fenced indications that the source has had. -/
structure Handshake where
  src : Nat
  dst : Nat
  data : Bool
  fifo : List Nat
  waiting : List Nat
  discarded : Nat
  refused : Nat
  deriving DecidableEq, Repr

/-- A handshake stall that has been raised (R17): the channel's source island and its end, and when it was raised. -/
structure Stall where
  src : Nat
  into : ChannelEnd
  since : Nat
  deriving DecidableEq, Repr

/-- Islands in the order of Table 18.7 (0x00 to 0x09, then channels 00 to 31), the handshake channels that have held or refused
a token, and the handshake stalls raised and not yet cleared; CLK_SYSREF runs;
the Ridge core pair has used its one release of the Management island (R20). -/
structure IslSt where
  islands : List Island
  handshakes : List Handshake
  stalls : List Stall
  ridgeReleased : Bool
  sysrefOk : Bool
  deriving DecidableEq, Repr

/-- First-error record (Table 14.2, bytes 0 to 31 as captured). -/
structure FirstErr where
  cap : Capture
  devTime : Nat
  deriving DecidableEq, Repr

/-- One fault source (R314 to R322): event bit, severe latch, events since the last clear, the running window, the
scope at which it was latched severe, and the first error. -/
structure FaultSrc where
  bit : Bool
  severe : Bool
  count : Nat
  winStart : Option Nat
  winCount : Nat
  scope : Nat
  first : Option FirstErr
  deriving DecidableEq, Repr

/-- State of a Purlin or Ridge core (R269, R323). -/
inductive CoreState where
  | active
  | standby
  | inReset
  | selfTest
  | retired
  deriving DecidableEq, Repr

/-- One core: state, DevTime of the last watchdog kick, and whether it runs a newly activated image (R416). -/
structure CoreSt where
  st : CoreState
  lastKick : Nat
  newImage : Bool
  retire : Bool
  deriving DecidableEq, Repr

/-- A source's reaction in progress within the single-fault allowance (R105 to R107), with the commands outstanding that it affected, as
function, SQID and CID. -/
structure OpenFault where
  source : Nat
  time : Nat
  island : Nat
  affected : List (Nat × Nat × Nat)
  deriving DecidableEq, Repr

/-- The Fault Collector (chapter 14): sources by index, thresholds in effect that differ from Table 14.1 as (N, T in ms),
snapshot registers, ALIVE, the cores, and the faults of the last 10 ms. -/
structure FltSt where
  srcs : Tbl Nat FaultSrc
  thresholds : Tbl Nat (Nat × Nat)
  snapSeq : BitVec 16
  fsvSnap : List U32
  sevSnap : List U32
  snapTime : Nat
  aliveLevel : Bool
  aliveRun : Bool
  aliveKick : Option Nat
  kickExempt : Bool
  cores : List CoreSt
  ridge : List CoreSt
  lastCie : Option Nat
  recent : List OpenFault
  lastSevereChannel : Tbl Nat Nat
  excludedChannels : List Nat
  lastPlannedEnd : Option Nat
  deriving DecidableEq, Repr

/-- How a start-up was reached and where it stands (R386, R387, R392, R395). -/
structure BootSt where
  phase : Nat
  reason : Nat
  startKind : Nat
  lastReset : Nat
  phaseAt : List (Option Nat)
  cleanMark : Bool
  battenedMark : Bool
  formB : Bool
  attempts : Nat
  seqRetryAt : Option Nat
  afterTrip : Bool
  deriving DecidableEq, Repr

/-- The Battened state (R396 to R398): entry or wake in progress with its start. -/
structure BatSt where
  entryAt : Option Nat
  wakeAt : Option Nat
  wakeCause : Option WakeCause
  powerState : Nat
  deriving DecidableEq, Repr

/-- Energy meters of one function (Table 19.4). Controller energy is held in picojoules; flash energy in nJ. -/
structure Meter where
  admitted : Nat
  recovery : Nat
  controllerPj : Nat
  evaluation : Nat
  charged : Nat
  deriving DecidableEq, Repr

/-- Counters of one function and class (Table 19.6), in 8-byte steps of the offset. -/
structure ClassCtr where
  verdict0 : Nat
  verdict1 : Nat
  refused : List Nat
  deadline : Nat
  allowance : Nat
  exceeded : Nat
  holdUs : Nat
  bytesRead : Nat
  bytesWritten : Nat
  deriving DecidableEq, Repr

/-- Function block of R410. -/
structure FnCtr where
  hostLate : Nat
  holdFull : Nat
  beforeAdmission : Nat
  loftReads : Nat
  readAround : Nat
  discarded : Nat
  withdrawn : Nat
  deriving DecidableEq, Repr

/-- Telemetry (R407 to R410): meters by function (65,535 is the background meter), counters by function and class. -/
structure TelSt where
  meters : Tbl Nat Meter
  classCtr : Tbl (Nat × Nat) ClassCtr
  fnCtr : Tbl Nat FnCtr
  ctrStart : Nat
  controllerDataAvailable : Bool
  deriving DecidableEq, Repr

/-- Straps sampled at the AON power-on reset, the TAP, and the LEDs (R438 to R440). -/
structure PinSt where
  strapI3c : Bool
  strapAddr1 : Bool
  strapAddr0 : Bool
  testMode : Bool
  tap : TapInstr
  ledActN : Bool
  ledFltN : Bool
  lastCompletion : Option Nat
  faultBlinkAt : Nat
  perstN : Bool
  deriving DecidableEq, Repr

end Sys2Proof.Machine
end

