-- ==== Sys2Proof/Machine/TypesDram.lean ====
section
/-! DEFINITION. State of the DRAM channels and of the buffer pools (chapters 12, 13). -/

namespace Sys2Proof.Machine

/-- Where a rank of a DRAM channel stands (R284, R289 to R293). -/
inductive RankUse where
  | inUse
  | spare
  | excluded
  | retraining
  deriving DecidableEq, Repr

/-- One rank: use, successive passing start-ups while excluded, temperature in °C, temperature and correctable codewords
per 10^9 reads at the last training, latest such rate, and write DQS delay. -/
structure RankSt where
  use : RankUse
  passes : Nat
  temp : Int
  trainTemp : Int
  trainRate : Nat
  rate : Nat
  dqs : Nat
  lastRefresh : List (Nat × Nat)
  selfRefresh : Bool
  retrainDue : Bool
  pendingRepair : List (Nat × Nat)
  deriving DecidableEq, Repr

/-- One entry of the merge buffer (R280): codeword address, byte writes in order, DevTime of the first write. -/
structure MergeEntry where
  addr : Nat
  writes : List (Nat × Byte)
  since : Nat
  deriving DecidableEq, Repr

/-- A row counted by R287: port, rank, bank, row, activations in the window. -/
structure RowCount where
  port : Nat
  rank : Nat
  bank : Nat
  row : Nat
  count : Nat
  throttled : Bool
  deriving DecidableEq, Repr

/-- A narrow write that waits at a port of a DRAM channel (R280, R285): port, DevTime, codeword address, byte writes. -/
structure PortReq where
  port : Nat
  since : Nat
  addr : Nat
  writes : List (Nat × Byte)
  deriving DecidableEq, Repr

/-- One DRAM channel (chapter 12). `waiting` are the writes that found the merge buffer full, `served` the requests of each port P0 to P6
taken since the channel runs, and `sinceP4` those of other ports since the last one of P4 (R285, R286), `rowLimit` the ROW_ACT_LIMIT
of the running activation count window (R298). `cells` is the content, in the canonical form of `Memory.wf`; `poison` lists the
codeword addresses that hold poison; `fresh` the granules whose Fresh bit is 1, beside those of `filled` (first granule, and
the one after the last), which start-up zero-fills. -/
structure DramCh where
  cells : List Host.Cell
  poison : List Nat
  fresh : List Nat
  filled : Nat × Nat
  merge : List MergeEntry
  rankMap : List Nat
  ranks : List RankSt
  panicSince : Option Nat
  panicLongRaised : Bool
  panics : Nat
  postponed : Nat
  rows : List RowCount
  migrating : Option (Nat × Nat)
  migrateOp : Option (Sender × Nat)
  dualWrite : Bool
  resilvering : Bool
  stale : Bool
  scrubAt : Nat
  corrected : Tbl (Nat × Nat × Nat) (List Nat)
  noRepair : List (Nat × Nat)
  excludedRows : List (Nat × Nat × Nat)
  rfms : Nat
  waiting : List PortReq
  served : List Nat
  sinceP4 : Nat
  rowLimit : Nat
  deriving DecidableEq, Repr

/-- One Loft page (R275, R288): page, home channel, frame channel of each replica, read count, pins, and the four seals of its
16-byte tag (R310); `ready` is when its insertion ends (R81). -/
structure LoftPage where
  nsid : Nat
  page : Nat
  chB : Bool
  replicas : List Bool
  heat : Nat
  pins : Nat
  seals : List Nat
  ready : Nat
  deriving DecidableEq, Repr

/-- The DRAM subsystem: both channels, the division of R273 in MiB (regions 0x05, 0x06, 0x07, 0x08, 0x09 first part, and what
remains for the Loft), the Loft and, per page, the DevTimes of its reads of the last 60 s (R50). -/
structure DramSt where
  da : DramCh
  db : DramCh
  division : List Nat
  loft : List LoftPage
  heatCtr : Tbl (Nat × Nat) (List Nat)
  deriving DecidableEq, Repr

/-- One buffer pool (R299 to R305). -/
structure PoolSt where
  inUse : Nat
  fromOverflow : Nat
  peak : Nat
  failures : Nat
  deriving DecidableEq, Repr

/-- One allocated staging buffer (R306): index, pool, owner island, and the seal in its descriptor once its data has one (R310). -/
structure StagingBuf where
  index : Nat
  pool : Nat
  owner : Nat
  sealed : Option Nat
  deriving DecidableEq, Repr

/-- A booking in the buffer profile of pool 0 or 1 (R301): pool, buffers, first and last 16 µs slot as DevTime / 16. -/
structure BufBooking where
  pool : Nat
  count : Nat
  overflow : Nat
  fromSlot : Nat
  toSlot : Nat
  fn : Nat
  sqid : Nat
  cid : Nat
  deriving DecidableEq, Repr

/-- The Buffer Pool Manager (chapter 13): pools 0 to 3, allocated buffers, generation of each buffer that has had one,
the program cache oldest first (unit numbers of Eaves units, with their buffer), evictions, bookings. -/
structure BufSt where
  pools : List PoolSt
  allocated : List StagingBuf
  gens : Tbl Nat Nat
  cache : List (Nat × Nat)
  evictions : Nat
  bookings : List BufBooking
  shut : Bool
  deriving DecidableEq, Repr

end Sys2Proof.Machine
end

