-- ==== Sys2Proof/Machine/TypesPlant.lean ====
section
/-! DEFINITION. State of the supply logic, thermal logic and airflow engine (chapters 15, 16, 17). -/

namespace Sys2Proof.Machine

/-- Phase of a hold-up audit (R372). `waitFit` since; `settle` charger off since; `loadOn` since with V_S before the load. -/
inductive AuditPhase where
  | idle
  | waitFit (since : Nat)
  | settle (since : Nat)
  | loadOn (since v0 : Nat)
  deriving DecidableEq, Repr

/-- Extremes of a rail since the last Supply Report, in mV. -/
structure RailSt where
  reading : Nat
  lowest : Nat
  highest : Nat
  excursionAt : Option Nat
  badSince : Option Nat
  deriving DecidableEq, Repr

/-- The supply logic (chapter 17). Voltages in mV, capacitance in µF, ESR in mΩ; `audited`: an audit has completed (R370);
`pmicHeld`: the last good readings are held (R375). -/
structure SupSt where
  v12 : Nat
  vs : Nat
  v12HighSince : Option Nat
  huEn : Bool
  chgEn : Bool
  auditEn : Bool
  seqEn : Bool
  pmicGood : Bool
  pwrDis : Bool
  capUf : Nat
  esrMohm : Nat
  path : Nat
  overVolt : Bool
  chargeTimeout : Bool
  openShort : Bool
  chargeSince : Option Nat
  charged : Bool
  auditAfterCharge : Bool
  lastAuditOp : Nat
  audit : AuditPhase
  auditSender : Option (Sender × Nat)
  auditStepUv : Nat
  rails : List RailSt
  pmicReadings : List Nat
  pmicHeld : Bool
  pmicPollAt : Nat
  profileRead : Bool
  audited : Bool
  deriving DecidableEq, Repr

/-- One temperature sensor (R331, R332). -/
structure SensorSt where
  reading : Int
  valid : Bool
  misses : Nat
  disagree : Nat
  goodSince : Option Nat
  hotCount : Nat
  deriving DecidableEq, Repr

/-- Device thermal step (Table 15.2). -/
inductive ThermalStep where
  | normal
  | warm
  | hot
  | critical
  deriving DecidableEq, Repr

/-- Trip record (Table 15.4). -/
structure TripRec where
  devTime : Nat
  opSeconds : Nat
  powerCycles : Nat
  sensor : Nat
  temp : Int
  stepBefore : Nat
  outcome : Nat
  trips : Nat
  deriving DecidableEq, Repr

/-- Temperature thresholds of feature 0x04 (R335), in kelvin; index 0 composite, 1 to 8 the remote diodes. -/
structure TempThr where
  high : Option Nat
  low : Option Nat
  deriving DecidableEq, Repr

/-- The thermal logic (chapter 15). `step` is the device step; `belowSince` when Tj fell HYSTERESIS below its threshold. -/
structure ThmSt where
  sensors : List SensorSt
  diodes : List SensorSt
  step : ThermalStep
  belowSince : Option Nat
  tripped : Bool
  thermtripN : Bool
  tripAt : Option Nat
  tripRec : Option TripRec
  trips : Nat
  tripWait : Bool
  coolSince : Option Nat
  tripRestartCopy : Nat
  tjTrace : List (Nat × Int)
  warmLoad : Bool
  warmStart : Int
  warmOp : Option (Sender × Nat)
  warmEnded : Bool
  d3 : List Bool
  deriving DecidableEq, Repr

/-- States of the blower (Table 16.4). -/
inductive BlowerState where
  | off
  | catchSpin
  | starting
  | running
  | braking
  | stoppedForService
  | stallLockout
  | driverLockout
  deriving DecidableEq, Repr

/-- The Airflow engine (chapter 16). `reference` in mrpm, `speed` in rpm, currents in mA; `integ` the speed integrator in µA.
An element of `pwm` is false while that gate output is driven low. The latch of a clamp fault is that of source 314.
`judged`: AFE_VBUS has been read since the island started; `absent`: that reading said that the carrier has no blower (R441). -/
structure AirSt where
  st : BlowerState
  pwm : List Bool
  drvEn : Bool
  clamp : Bool
  stuckClosed : Bool
  clampSince : Option Nat
  busOv : Bool
  busMv : Nat
  driverFaultAt : Option Nat
  stallAt : Option Nat
  stalls : Nat
  runningSince : Option Nat
  reference : Int
  speed : Int
  iqRef : Int
  integ : Int
  starts : Nat
  startAt : Nat
  alignAt : Option Nat
  idRef : Int
  belowOnSince : Option Nat
  stopping : Bool
  ud : Int
  uq : Int
  wanted : Bool
  nonRegen : Bool
  phaseMa : Int
  lastVectors : List Int
  serviceOp : Option (Sender × Nat)
  judged : Bool
  absent : Bool
  deriving DecidableEq, Repr

end Sys2Proof.Machine
end

