-- ==== Sys2Proof/Machine/TypesHost.lean ====
section
/-! DEFINITION. State of the host link, the functions and their queues, the Haore mailboxes, keys and images (chapters 09, 10, 11, 20). -/

namespace Sys2Proof.Machine

/-- Completion statuses. The standard statuses are named, since the spec names them and leaves their numbers to the NVMe
standard; the vendor statuses of Table 04.2 and R103 carry their code. -/
inductive NvmeStatus where
  | success
  | invalidOpcode
  | invalidField
  | dataTransferError
  | internalError
  | abortRequested
  | abortedSqDeletion
  | invalidNamespace
  | commandSequenceError
  | namespaceNotReady
  | sanitizeInProgress
  | zoneBoundary
  | zoneFull
  | zoneReadOnly
  | zoneOffline
  | zoneInvalidWrite
  | tooManyActive
  | tooManyOpen
  | invalidZoneTransition
  | unrecoveredRead
  | lbaOutOfRange
  | completionQueueInvalid
  | invalidQueueIdentifier
  | invalidQueueSize
  | invalidInterruptVector
  | invalidQueueDeletion
  | abortLimit
  | asyncEventLimit
  | invalidLogPage
  | invalidFormat
  | invalidFirmwareSlot
  | invalidFirmwareImage
  | firmwareActivationProhibited
  | namespaceInsufficientCapacity
  | namespaceIdentifierUnavailable
  | namespaceAlreadyAttached
  | namespaceIsPrivate
  | namespaceNotAttached
  | controllerListInvalid
  | invalidControllerIdentifier
  | invalidResourceIdentifier
  | invalidSecondaryState
  | featureNotSaveable
  | accessDenied
  | vendor (code : Nat)
  deriving DecidableEq, Repr

/-- Vendor part of a completion and Verdict Ring entry (R97 to R102): verdict, reason, hint or hold time, class,
retry delay index. -/
structure VerdictInfo where
  verdict : Nat
  reason : Nat
  time : Nat
  cls : Nat
  crd : Nat
  deriving DecidableEq, Repr

/-- One posted completion entry. `qid` 0 is the admin queue. `dw0` carries the command-specific result, `data` what was
written to host memory (unit contents for reads, bytes for admin data). -/
structure Completion where
  fn : Nat
  cqid : Nat
  sqid : Nat
  cid : Nat
  status : NvmeStatus
  dnr : Bool
  crd : Nat
  dw0 : Nat
  phase : Bool
  slot : Nat
  time : Nat
  data : List Byte
  units : List (Option Nat)
  deriving DecidableEq, Repr

/-- One Verdict Ring entry as it is written (R101, R102): host address, the 8 bytes of Table 04.5, and what they say; `phase` is the
phase tag of the completion entry that follows. -/
structure RingEntry where
  fn : Nat
  cqid : Nat
  slot : Nat
  addr : Nat
  cid : Nat
  sqid : Nat
  info : VerdictInfo
  data : List Byte
  phase : Bool
  deriving DecidableEq, Repr

/-- An I/O or admin completion queue. -/
structure CqSt where
  size : Nat
  vector : Nat
  ien : Bool
  head : Nat
  tail : Nat
  phase : Bool
  ring : Option Nat
  pendingIrq : Nat
  irqSince : Option Nat
  deriving DecidableEq, Repr

/-- A submission queue: size, completion queue, host tail, device head. -/
structure SqSt where
  size : Nat
  cqid : Nat
  tail : Nat
  head : Nat
  deriving DecidableEq, Repr

/-- Features of a function (Table 09.8) at their current values. -/
structure FeatSt where
  ab : Nat
  tler : Nat
  coalThr : Nat
  coalTime : Nat
  vecNoCoalesce : List Nat
  atomicDn : Bool
  aecMask : Nat
  timestamp : Nat
  timestampAt : Nat
  acre : Bool
  numSq : Nat
  numCq : Nat
  thresholds : List TempThr
  deriving DecidableEq, Repr

/-- BAR mailbox of a function (Table 10.3). -/
structure MailboxSt where
  reqBaseLo : U32
  reqBaseHi : U32
  rspBaseLo : U32
  rspBaseHi : U32
  ringOrder : BitVec 4
  enable : Bool
  notifyOnResponse : Bool
  reqTail : Nat
  reqHead : Nat
  rspTail : Nat
  rspHead : Nat
  active : Bool
  inFlight : Nat
  badTail : Bool
  badHead : Bool
  dmaError : Bool
  phase : Bool
  deriving DecidableEq, Repr

/-- Link power states (Table 09.1); electrical idle while the link is down (R225). -/
inductive LinkPower where
  | idle
  | l0
  | l1
  | l11
  | l12
  deriving DecidableEq, Repr

/-- What the link carries beside its rate and width (Table 09.1), with the PF's SR-IOV and L1 PM Substates registers: FLIT mode, separate
reference clocks, power state, L1 PM Substates control, SR-IOV control, system page size, VF BAR0 and VF BAR2. -/
structure LinkSt where
  flit : Bool
  sris : Bool
  power : LinkPower
  l1ss : Nat
  sriovCtl : Nat
  pageSize : Nat
  vfBar0 : Nat
  vfBar2 : Nat
  deriving DecidableEq, Repr

/-- A function's configuration registers that software writes (R204, R211): Command, BAR0 and BAR2 as 64-bit addresses, Device Control and
Device Control 2 (MPS, MRRS, Relaxed and ID-Based Ordering, tags), Link Control (ASPM), and its power state D0 or D3hot (`pm` 0 or 3). -/
structure CfgSt where
  command : Nat
  bar0 : Nat
  bar2 : Nat
  devCtl : Nat
  devCtl2 : Nat
  lnkCtl : Nat
  pm : Nat
  deriving DecidableEq, Repr

/-- One function (chapter 09). CC.SHN completion is `shst`: 0 normal, 1 occurring, 2 complete. `bar0` holds the registers of
BAR0 that software writes whole: CC, AQA, ASQ, ACQ and the MSI-X table, by offset. -/
structure FnSt where
  ccEn : Bool
  ccAt : Nat
  rdy : Bool
  cfs : Bool
  shst : Nat
  online : Bool
  present : Bool
  vqAssigned : Nat
  sqs : Tbl Nat SqSt
  cqs : Tbl Nat CqSt
  adminTail : Nat
  adminHead : Nat
  feat : FeatSt
  aers : List Nat
  aerMasked : List Nat
  aerPending : List (Nat × Nat × Nat)
  msixMasked : List Nat
  msixPending : List Nat
  irqs : List Nat
  devtimeLatch : Nat
  regErr : U32
  notify : U32
  scratch : U32
  mailbox : MailboxSt
  changedZones : List (Nat × Nat)
  changedNs : List Nat
  errorLog : List (Nat × Nat × NvmeStatus)
  fetchPaused : Bool
  vqHeld : Nat
  bar0 : Tbl Nat U32
  cfg : CfgSt
  deriving DecidableEq, Repr

/-- An entry that the Host island has fetched and that has not run: function, queue, place in the queue, the class of the queue and
the time at its fetch (R62, R65). -/
structure Fetched where
  fn : Nat
  sqid : Nat
  entry : Nat
  cls : Nat
  at' : Nat
  deriving DecidableEq, Repr

/-- The link and the functions (chapter 09), and what the Host island has posted. `cqWait` holds completions that wait for a
free slot of their completion queue. `posted` and `rings` list what has been
written to host memory, newest last; `unsupported` the accesses completed with Unsupported Request (R211), as function, BAR, offset; `poisonTlps` the 4 KiB units written as poisoned TLPs. -/
structure HostSt where
  linkUp : Bool
  rate : Nat
  width : Nat
  linkBelowFull : Bool
  link : LinkSt
  vfEnabled : Bool
  numVfs : Nat
  lastNumVfs : Nat
  fns : Tbl Nat FnSt
  posted : List Completion
  rings : List RingEntry
  cqWait : List (Completion × Option VerdictInfo)
  criticalWarning : U32
  aerCorrected : Nat
  aerUncorrected : List Nat
  rrFn : Nat
  rrSq : Tbl Nat Nat
  fetched : List Fetched
  fetchStopped : Bool
  poisonTlps : List (Nat × Nat × Nat × Nat)
  unsupported : List (Nat × Nat × Nat)
  smart : List Nat
  deriving DecidableEq, Repr

/-- HMP statuses of Table 10.7 as their numbers. -/
abbrev HmpStatus := Nat

/-- A stream (R228): sender and transport. -/
structure Stream where
  sender : Sender
  transport : Transport
  deriving DecidableEq, Repr

/-- A response as the engine holds it until it is posted and for 1 s after (R240): stream, TAG, status, DETAIL, payload. -/
structure HmpResp where
  stream : Stream
  tag : Nat
  opcode : Nat
  status : HmpStatus
  detail : Nat
  payload : List Byte
  devtimeRx : Nat
  devtimeDone : Option Nat
  deriving DecidableEq, Repr

/-- Where the response to a message goes: into the data buffer and ring of the BAR mailbox (the request's slot, DATA_ADDR, DATA_SIZE),
to an MCTP endpoint with the message tag (R238), to HMP Collect, or into the buffer of an HMP Exchange of that many payload bytes (R237). -/
inductive RespDest where
  | bar (slot addr size : Nat)
  | mctp (msgTag : Nat)
  | post
  | exchange (cid room : Nat)
  deriving DecidableEq, Repr

/-- A request taken and not yet answered: its place in the order of taking, OOB_RIGHTS as it was then (R248), where its response
goes and where the copies for its duplicates go (R240). `discard`: a reset of its function discards its response (R244). -/
structure HmpReq where
  stream : Stream
  tag : Nat
  opcode : Nat
  length : Nat
  payload : List Byte
  barrier : Bool
  devtimeRx : Nat
  order : Nat
  rights : Nat
  dest : RespDest
  copies : List RespDest
  discard : Bool
  deriving DecidableEq, Repr

/-- A response that waits for its posting to a BAR response ring (R234), with the request it answers; `copy`: it is for a duplicate. -/
structure Posting where
  req : HmpReq
  resp : HmpResp
  copy : Bool
  deriving DecidableEq, Repr

/-- A message sent over MCTP (R238): endpoint, message tag, Tag Owner, message type, body. -/
structure MctpOut where
  eid : Nat
  msgTag : Nat
  tagOwner : Bool
  msgType : Nat
  body : List Byte
  deriving DecidableEq, Repr

/-- An HMP admin command that waits for the Management island (R244). -/
inductive AdmHmp where
  | cancel (q : HmpHdr) (target cid : Nat)
  | post (a : AdmHdr) (dwords : Nat) (raw : Option HmpRaw)
  | collect (a : AdmHdr) (tag room waitMs : Nat)
  | exchange (a : AdmHdr) (dwords : Nat) (raw : Option HmpRaw)
  deriving DecidableEq, Repr

/-- A response that the BAR mailbox engine wrote to host memory (R229, R234): function, address of the ring slot and the header there,
address of the data buffer and the payload there, the Relaxed Ordering and ID-Based Ordering attributes of both writes. -/
structure BarPost where
  fn : Nat
  slotAddr : Nat
  header : List Byte
  dataAddr : Nat
  payload : List Byte
  relaxed : Bool
  idBased : Bool
  deriving DecidableEq, Repr

/-- An operation handle (R241, R243, R246), with the stream and TAG of its request: state 0 running, 1 done, 2 failed. -/
structure HandleSt where
  sender : Sender
  transport : Transport
  tag : Nat
  handle : Nat
  opcode : Nat
  state : Nat
  progress : Nat
  status : HmpStatus
  detail : Nat
  endedAt : Option Nat
  deriving DecidableEq, Repr

/-- A waiting HMP Collect (R237). -/
structure CollectSt where
  fn : Nat
  cid : Nat
  tag : Nat
  room : Nat
  ends : Nat
  deriving DecidableEq, Repr

/-- An HMP admin command that waits for its answer (HMP Cancel and HMP Exchange, Table 10.4). -/
structure AdmWait where
  fn : Nat
  cid : Nat
  tag : Nat
  deriving DecidableEq, Repr

/-- The Haore Mailbox Engine (chapter 10). `journal` holds the responses of writing requests in both DRAM channels (R242). `mctpOut` lists responses sent over MCTP, `barOut` those written to
host memory, `miOut` NVMe-MI answers by endpoint, newest last. -/
structure HmpSt where
  requests : List HmpReq
  nextOrder : Nat
  toPost : List Posting
  waiting : List AdmHmp
  answers : List HmpResp
  held : List HmpResp
  handles : List HandleSt
  nextHandle : Nat
  collects : List CollectSt
  exchanges : List AdmWait
  mctpOversize : Nat
  mctpOut : List MctpOut
  mctpEid : Nat
  stopped : Bool
  journal : List HmpResp
  miOut : List (Nat × List Byte)
  barOut : List BarPost
  deriving DecidableEq, Repr

/-- One key slot (Table 11.6). `key` is one more than the 512-bit XTS key pair as a little-endian number, and 0 for no key. -/
structure KeySlot where
  state : Nat
  owner : Nat
  nsIndex : Nat
  tag : Nat
  generation : Nat
  pins : Nat
  key : Nat
  deriving DecidableEq, Repr

/-- A region of the region table (Table 11.2). -/
structure Region where
  id : Nat
  space : Nat
  secure : Bool
  rights : Nat
  base : Nat
  limit : Nat
  deriving DecidableEq, Repr

/-- One stored image copy: header facts and, for a Board Profile, the records it holds. -/
structure ImageCopy where
  hdr : ImageHdr
  profile : Option Profile
  deriving DecidableEq, Repr

/-- Security state (chapter 11): slots by number, KEKs by function, key store images, Key Per I/O switch and rollover of
each namespace, regions, fuses, image copies by type (copy A, copy B), the images that run by type with the operating second each came into use, staged
image, `keyCache` the slots whose expanded keys the AES engine holds, oldest first (R255), sanitize in progress with its kind, and how the last one stands (0 none, 1 done, 2 in progress). -/
structure SecSt where
  slots : Tbl Nat KeySlot
  keks : Tbl Nat Nat
  keyStore : List (Nat × KeySlot)
  keyStoreHalf : Bool
  keyStoreSeq : Nat
  kpioOn : List Nat
  rollovers : List (Nat × Sender × Nat)
  regions : List Region
  cryptoDisable : Bool
  integLock : Bool
  integRevoke : Nat
  kazokRevoke : Nat
  svnFw : Nat
  svnProfile : Nat
  kazokKeyHash : List Nat
  integKeyHash : List Nat
  uds : Nat
  keyCache : List Nat
  sanitizing : Bool
  sanitizeBlock : Bool
  sanitizeState : Nat
  staged : Option ImageHdr
  stagedProfile : Option ProfImage
  copyA : Tbl Nat ImageCopy
  copyB : Tbl Nat ImageCopy
  active : Tbl Nat ImageHdr
  activeSince : Tbl Nat Nat
  deriving DecidableEq, Repr

/-- In-service changes (chapter 20). `convDue` holds the live values of the thermal and supply records that their blocks apply from
the next conversion onward, as record, lowest bit, width, value. -/
structure ChangeSt where
  activating : Option (Nat × Nat × Nat)
  rounds : Nat
  ucLoad : Option (Sender × Nat × Nat × Nat)
  ucTurnLow : Option Nat
  ucTurnHigh : Option Nat
  recal : Option (Sender × Nat × Nat × Nat × Nat)
  coreOp : List (Sender × Nat × Nat)
  qShadow : List (Nat × Nat × Nat × Nat)
  convDue : List (Nat × Nat × Nat × Nat)
  qOp : List (Sender × Nat)
  rebootAt : Option Nat
  deriving DecidableEq, Repr

end Sys2Proof.Machine
end

