-- ==== Sys2Proof/Machine/TypesFlash.lean ====
section
/-! DEFINITION. State of the media: geometry, dies, blocks, thatches, channels, packages, descriptors, calendars, recovery,
Eaves Buffer, Gutter and Underlay (chapters 02, 03 R75 to R78, 05, 06, 07, 08). -/

namespace Sys2Proof.Machine

/-- Die number: 128 times the channel plus the die slot (R246). -/
abbrev DieNo := Nat

/-- One bad block table entry (Table 05.2). -/
structure BadEntry where
  block : Nat
  plane : Nat
  cause : Nat
  holdsData : Bool
  opSeconds : Nat
  deriving DecidableEq, Repr

/-- What a die block is used for (Table 02.2, R112, R117). -/
inductive BlockUse where
  | system
  | gutter (half : Nat)
  | underlay
  | free
  | held
  | ready
  | bound
  | spare
  | bad
  deriving DecidableEq, Repr

/-- One die block that differs from its default: use, erase count (the largest of its plane blocks, R110), erased, erase-incomplete (R147), and its block record
(Table 07.5). -/
structure BlockSt where
  use : BlockUse
  erases : Nat
  erased : Bool
  incomplete : Bool
  shift : Nat
  band : Nat
  valid : Bool
  hits : Nat
  deriving DecidableEq, Repr

/-- One die: service, tables, blocks. `nextZone` and `nextSpare` are the lowest zone-mode and spare blocks never used
yet, `zoneEnd` and `spareEnd` the blocks after the last; `spareExtra` lists spare blocks with a record. Until the first
geometry build `fbbt` holds the factory marks as the die carries them (R111). `builtBad` lists the plane blocks (block, plane) bad
at the last build, which number the die blocks (R109); `formed` the plane blocks of die blocks formed from orphans since, and
`orphans` the orphans (plane, block); `planeErases` counts erases by (plane, block) (R110). `ofPrev` is the copy of the tables
of the die at the previous position of the bay (R111). `bd` is b_d of R57; `causeOut` the cause of Table 19.8 while out of service. -/
structure DieSt where
  causeOut : Option Nat
  retired : Bool
  calibrating : Bool
  timeouts : Nat
  mismatches : Nat
  goodBlocks : Nat
  fbbt : List BadEntry
  gbbt : List BadEntry
  blocks : Tbl Nat BlockSt
  builtBad : List (Nat × Nat)
  formed : Tbl Nat (List Nat)
  orphans : List (Nat × Nat)
  planeErases : Tbl (Nat × Nat) Nat
  ofPrev : List BadEntry × List BadEntry
  nextZone : Nat
  zoneEnd : Nat
  nextSpare : Nat
  spareEnd : Nat
  spareExtra : List Nat
  bd : Nat
  slcShort : Bool
  lostStatus : Bool
  deriving DecidableEq, Repr

/-- A splice of a member (R114): courses from `course` on lie in `block`. -/
structure Splice where
  course : Nat
  block : Nat
  counted : Bool
  deriving DecidableEq, Repr

/-- One member of a thatch: die, block, splices, passes done (R184): `fog` and `fine` are the counts of wordlines whose
first and fine pass have completed, `aborted` that a pass was cut short. -/
structure MemberSt where
  die : DieNo
  block : Nat
  splices : List Splice
  fog : Nat
  fine : Nat
  aborted : Bool
  lost : Bool
  deriving DecidableEq, Repr

/-- Kinds of thatch. -/
inductive ThatchKind where
  | ready
  | zone
  | convHost
  | convReloc
  | convClosed
  | target (src : Nat)
  deriving DecidableEq, Repr

/-- A thatch: bay, set, members in position order, what it backs, last wordline to be written `e` once known, courses
settled, key generation (R262), operating hour of its last course (R121), refresh flag (R124), erases outstanding while
it is assembled, and the granules of a conventional thatch in slot order. `bufs` are the pool 2 buffers that hold source data of a
relocation target, as course and number (R120, R302); `reread` is the course from which a target's splice needs the source
again (R114, R128). -/
structure ThatchSt where
  bay : Nat
  set : Nat
  members : List MemberSt
  kind : ThatchKind
  nsid : Nat
  zone : Nat
  endCourse : Option Nat
  settled : Nat
  generation : Nat
  lastCourseOp : Nat
  flagged : Bool
  erasing : List DieNo
  granules : List (Option (Nat × Nat))
  released : Bool
  retryAt : Option Nat
  bufs : List (Nat × Nat)
  reread : Option Nat
  deriving DecidableEq, Repr

/-- Calendar entry kinds of Table 03.9. -/
inductive CalKind where
  | readGroup
  | firstPass
  | finePass
  | slcProgram
  | erase
  | suspendWindow
  | raMember
  | outOfService
  | calibration
  deriving DecidableEq, Repr

/-- One entry of the Die Calendar Store (R75). START is held as a DevTime; Table 03.9 gives it modulo 16,384. -/
structure CalEntry where
  die : DieNo
  start : Nat
  length : Nat
  kind : CalKind
  suspLeft : Nat
  reads : Nat
  topClass : Nat
  tokens : Nat
  firm : Bool
  provisional : Bool
  tag : Nat
  deriving DecidableEq, Repr

/-- A transfer on a channel (R76): a booked read transfer, or a chunk of program data in microseconds that the map leaves free. -/
structure OccEntry where
  ch : Nat
  start : Nat
  length : Nat
  tag : Nat
  chunk : Bool
  deriving DecidableEq, Repr

/-- What a descriptor's result serves. -/
inductive Purpose where
  | hostRead (fn sqid cid : Nat) (slot : Nat)
  | raMember (rebuild : Nat) (pos : Nat)
  | program (thatch pos course : Nat) (fine : Bool)
  | erase (thatch : Nat) (die block : Nat)
  | eraseSpare (die block : Nat)
  | underlay (nsid zone : Nat) (copyTwo : Bool)
  | stage (thatch pos course : Nat) (units : List Nat) (copyTwo : Bool)
  | compact (die dst : Nat) (ix : Nat)
  | dump (ix : Nat)
  | sample (thatch : Nat)
  | relocation (thatch : Nat) (stage : Nat)
  | pass (nsid page pos : Nat)
  | control
  deriving DecidableEq, Repr

/-- Receiving units of completion tokens (DEST of Table 06.4). -/
inductive DestUnit where
  | fabric
  | sparAccumulator
  | softDecode
  | purlin
  deriving DecidableEq, Repr

/-- Progress of a descriptor. -/
inductive DescState where
  | queued
  | issued (t : Nat)
  | suspended (t : Nat)
  deriving DecidableEq, Repr

/-- A descriptor in a channel's store (Table 06.4) with what it serves. START is held as a DevTime; `block` is the die block whose
plane blocks `blks` names (BLK_P0 to BLK_P3); `queuedAt` and `issuedAt` are DevTimes; `window` is the start of the suspend
window that a read lies in. -/
structure Desc where
  ch : Nat
  seqTag : Nat
  opcode : Nat
  slot : Nat
  firm : Bool
  tokens : Nat
  cls : Nat
  dump : Bool
  start : Nat
  length : Nat
  planeMask : Nat
  shiftSet : Nat
  block : Nat
  blks : List Nat
  wordline : Nat
  level : Nat
  cwFirst : Nat
  cwLast : Nat
  thatch : Nat
  buf : Nat
  dest : DestUnit × Nat
  purpose : Purpose
  st : DescState
  queuedAt : Nat
  issuedAt : Nat
  suspends : Nat
  overran : Bool
  waitSince : Option Nat
  window : Option Nat
  deriving DecidableEq, Repr

/-- A completion token that a sequencer returned (Table 06.6), and the units it went to: DEST, and the Purlin cluster for programs
and erases (R143). -/
structure Token where
  ch : Nat
  seqTag : Nat
  status : Nat
  maxCorrected : Nat
  suspends : Nat
  overran : Bool
  duration : Nat
  dest : List DestUnit
  deriving DecidableEq, Repr

/-- One channel: SDR timing registers (Table 06.9), drain in progress with its start, write-protect pin, start of the wait
for RB_N and its end (R153), identity of the microcode loaded, and the spare-block erases that wait for the channel's return
(R156) as die and block; the packages whose volume addresses are appointed (R134), and whether the bus runs NV-DDR3 at 900 MHz, or
SDR mode 0 at 100 MHz (R151, R153). -/
structure ChanSt where
  sdr0 : U32
  sdr1 : U32
  sdr2 : U32
  draining : Option Nat
  severeDrain : Bool
  wpN : Bool
  rbWait : Option Nat
  rbDone : Bool
  microcode : Nat
  returned : List (Nat × Nat)
  volumes : List Nat
  nvDdr3 : Bool
  deriving DecidableEq, Repr

/-- One flash package: temperature, consecutive read failures, training temperature and time, service, recalibration; failed
and read codewords since the last training, and the failures per million at it (R155). -/
structure PkgSt where
  temp : Option Int
  fails : Nat
  trainTemp : Int
  trainAt : Nat
  out : Bool
  recalAt : Option Nat
  blockedSince : Option Nat
  failed : Nat
  codewords : Nat
  trainRate : Nat
  populated : Bool
  deriving DecidableEq, Repr

/-- A rebuild by read-around: served command and slot (`page`), member rebuilt, members still awaited, accumulators held
(R171; `failed`: that it follows a failed decode of its page, without a ladder of its own; `sparOff`: that its spar does not belong to the course, so that
the rebuilt tag will not agree), whether it is the provisional fall-back of a ladder (R168), and the stages tried on failing members as (position,
shift set), 255 for the soft stage (R172). -/
structure Rebuild where
  id : Nat
  fn : Nat
  sqid : Nat
  cid : Nat
  page : Nat
  target : Nat
  waiting : Nat
  cws : Nat
  provisional : Bool
  failed : Bool
  sparOff : Bool
  tried : List (Nat × Nat)
  deriving DecidableEq, Repr

/-- A recovery ladder running on slot `page` of a command (R168): target, the starting shift of the hard read that failed, the
codewords that failed as a mask, stages done, the time in ns of the next decode result (R169), rebuild ID of the fall-back and the time
in ns of its result. -/
structure Ladder where
  fn : Nat
  sqid : Nat
  cid : Nat
  page : Nat
  die : DieNo
  block : Nat
  shift : Nat
  cws : Nat
  softDone : Bool
  nextEnd : Nat
  retries : List Nat
  fallback : Option Nat
  fbEnd : Nat
  deriving DecidableEq, Repr

/-- A soft stage whose planes the Soft-Decode island has: its descriptor, whose tag it keeps, and the codewords as a mask (R163). -/
structure SoftWait where
  desc : Desc
  cws : Nat
  deriving DecidableEq, Repr

/-- A hard codeword that the Soft-Decode island holds from a failed read (R163, Table 06.6): channel and tag of the read's descriptor,
what it serves, and the codewords as a mask. -/
structure HardWord where
  ch : Nat
  tag : Nat
  purpose : Purpose
  cws : Nat
  deriving DecidableEq, Repr

/-- A background pass on a page (R174): whether it has come to the read-around, the direct stages left of each member by position, as soft
stage or retry and its shift set, the first of them the next to run, and the members that have decoded. -/
structure PassRun where
  around : Bool
  todo : List (Nat × List (Bool × Nat))
  got : List Nat
  deriving DecidableEq, Repr

/-- One Recovery Table entry (R174, R175), by the name of its flash page (`pageKey`), with the seals of its page (R310) and the pins of
the reads that use it (R81, R175); `run` is the pass in progress; an `ended` one is of no further use and goes with its last pin. -/
structure RecEntry where
  nsid : Nat
  page : Nat
  passes : Nat
  nextAt : Nat
  recovered : Bool
  fn : Nat
  cls : Nat
  seals : List Nat
  pins : Nat
  run : Option PassRun
  ended : Bool
  deriving DecidableEq, Repr

/-- One unit of the Eaves Buffer (R181): its acceptance sequence number, of which the descriptor's 48-bit field holds the low bits, its
place among the 1,048,576 units of a copy, its content, the key it is stored under, its metadata region (Table 07.2), its seal as the
Seal Store holds it for both copies (R310), the copies that hold it, and the command that brought it with its place in
acceptance order. A `settled` unit is held for the reads that pin it, and serves others meanwhile (R81, R183); an `ended` one is of no
further use. -/
structure EavesUnit where
  seq : Nat
  place : Nat
  nsid : Nat
  unit : Nat
  zone : Option Nat
  epoch : Nat
  fn : Nat
  content : Nat
  key : Nat
  inA : Bool
  inB : Bool
  poison : Bool
  pins : Nat
  settled : Bool
  ended : Bool
  cmd : Option (Nat × Nat × Nat)
  order : Nat
  region : List Byte
  sealed : Nat
  deriving DecidableEq, Repr

/-- A unit whose data lies on the media (programmed and settled, in the Underlay, or relocated), with the metadata region of its
codeword (R159, R160). -/
structure MediaUnit where
  nsid : Nat
  unit : Nat
  content : Nat
  key : Nat
  epoch : Nat
  region : List Byte
  underlay : Bool
  deriving DecidableEq, Repr

/-- State of a Gutter half (R188, R194, R198). -/
inductive GutterHalf where
  | erased
  | spent
  | dumping
  | holdsDump
  deriving DecidableEq, Repr

/-- An accepted write that had not reached both copies at the freeze (R199). -/
structure CutWrite where
  nsid : Nat
  zone : Option Nat
  first : Nat
  count : Nat
  order : Nat
  deriving DecidableEq, Repr

/-- One DUMP program (Table 08.3 step 5): its die, its position on the die, and the units that it holds by sequence number; one
without units holds a part of the journal tail, the descriptors or the metadata regions. -/
structure DumpProg where
  die : DieNo
  at' : Nat
  units : List Nat
  done : Bool
  deriving DecidableEq, Repr

/-- One copy of the Gutter directory (Table 08.3 step 6): the die that holds it, and what its header gives, with its CRC-32C over these
fields (their layout is a DESIGN CHOICE, log entry 117). -/
structure GutterDir where
  die : DieNo
  seq : Nat
  units : Nat
  journal : Nat
  descriptors : Nat
  metadata : Nat
  bad : List (Nat × Nat)
  partialMark : Bool
  crc : Nat
  committed : Bool
  deriving DecidableEq, Repr

/-- A dump as the Gutter holds it (R194 to R196), the accepted writes it cuts off among what the journal tells; half 2 stands
for no half. `progs` are its DUMP programs in order, `bad` the Gutter positions that failed, as die and position (R195, R202), `dirs` the
directory copies. `marked` are the packages outside -40 to 95 °C at the dump, whose Gutter blocks the directory marks for replay to read
with the full recovery ladder (R150). -/
structure Dump where
  seq : Nat
  half : Nat
  units : List EavesUnit
  cut : List CutWrite
  committed : Bool
  partialMark : Bool
  lastPosition : Option Nat
  descriptorsDone : Bool
  marked : List (Nat × Nat)
  progs : List DumpProg
  bad : List (Nat × Nat)
  dirs : List GutterDir
  deriving DecidableEq, Repr

/-- An Underlay move in progress (R191): zone, the units that it covers by sequence number, the time it began, pool 2 buffers held. -/
structure UnderlayMove where
  nsid : Nat
  zone : Nat
  seqs : List Nat
  begun : Nat
  bufs : Nat
  deriving DecidableEq, Repr

/-- An Underlay entry (R191, R192): the partial yealm of one member in one course of a zone, its units, and the dies of both copies. -/
structure UnderlayEntry where
  nsid : Nat
  zone : Nat
  course : Nat
  units : List Nat
  one : DieNo
  two : DieNo
  deriving DecidableEq, Repr

/-- A pSLC yealm in the Underlay log of a die (R193): its block and wordline, and the units of a zone that it holds. -/
structure UnderlayYealm where
  die : DieNo
  block : Nat
  wl : Nat
  nsid : Nat
  zone : Nat
  units : List Nat
  deriving DecidableEq, Repr

/-- A compaction of a die's Underlay log (R193): the live yealms of block `src` are read into staging SRAM, the block is erased or, worn
or bad, replaced (`wiped`), and they are programmed into block `dst`; `unread` and `unput` are those still to be read and programmed. -/
structure Compaction where
  die : DieNo
  src : Nat
  dst : Nat
  live : List UnderlayYealm
  unread : List Nat
  wiped : Bool
  unput : List Nat
  deriving DecidableEq, Repr

/-- Eaves Buffer, Gutter and Underlay (chapter 08). `underlay` holds the entries of partial yealms that lie there (R191); `underlayLog`
the yealms of each die's log, oldest first; `underlayBlock` the writing block of a die; `underlayMoves` the moves and `compactions` the
compactions in progress; `staged` the Underlay data read into staging SRAM for a first pass, as thatch, position and course (R192). -/
structure EavSt where
  nextSeq : Nat
  units : List EavesUnit
  eEff : Nat
  short : Bool
  halves : List GutterHalf
  dumpSeq : Nat
  dump : Option Dump
  dumpStart : Option Nat
  dumpStore : Nat
  powerLoss : Bool
  unsafeShutdowns : Nat
  journalTail : Nat
  underlay : List UnderlayEntry
  underlayLog : List UnderlayYealm
  underlayBlock : Tbl Nat Nat
  underlayMoves : List UnderlayMove
  compactions : List Compaction
  staged : List (Nat × Nat × Nat)
  abortedPasses : List (Nat × Nat)
  replaying : Bool
  afterDump : Bool
  deriving DecidableEq, Repr

/-- Geometry as last built (R26 to R31): Gutter blocks and conventional thatches per die, the bays that hold these, T_bay of each bay, and the fields bound
to the build (R31, R137) with SPARE_RESERVE and CONV_CAPACITY (R61). `pendingFields` holds the two of these that the loaded
geometry record gives for the next build. -/
structure GeoSt where
  built : Bool
  gutterBlocks : Nat
  convPerDie : Nat
  convBays : List Nat
  tBay : Tbl Nat Nat
  boundProfile : List Nat
  pendingFields : List Nat
  deriving DecidableEq, Repr

/-- Write window and package polls (R150, R338): `inRange` successive polls with every package in 2 to 83 °C; `trace` the
polls of the last 10 s as (16 times the channel plus the package, °C, DevTime). -/
structure WindowSt where
  isOpen : Bool
  inRange : Nat
  lastPoll : Option Nat
  trace : List (Nat × Int × Int)
  deriving DecidableEq, Repr

/-- Endurance counts (R130), in bytes. -/
structure WearSt where
  host : Nat
  relocation : Nat
  refresh : Nat
  reroofing : Nat
  filler : Nat
  deriving DecidableEq, Repr

/-- Background work in progress (R119): a relocation of thatch `src` into `dst`, with the course it has reached and the targets it has
filled before. -/
structure Relocation where
  src : Nat
  dst : Nat
  course : Nat
  order : Nat
  abandoned : Bool
  past : List Nat
  deriving DecidableEq, Repr

/-- The flash side of the machine. `relocTrace` counts the granules relocated in the last second, as DevTime and number (R98). `wornRows` are the rows of Table 05.9 in force whose event is recorded, with the object they name.
 `tablesA` and `tablesB` are the copies of the bad block tables (FBBT, GBBT) of each die in DRAM
(R111). -/
structure FlashSt where
  geo : GeoSt
  inService : Bool
  dies : Tbl Nat DieSt
  tablesA : Tbl Nat (List BadEntry × List BadEntry)
  tablesB : Tbl Nat (List BadEntry × List BadEntry)
  thatches : Tbl Nat ThatchSt
  nextThatch : Nat
  channels : Tbl Nat ChanSt
  pkgs : Tbl (Nat × Nat) PkgSt
  descs : List Desc
  tokens : List Token
  nextTag : Nat
  calendar : List CalEntry
  occupancy : List OccEntry
  softLanes : List (Nat × Nat)
  softWaits : List SoftWait
  hardWords : List HardWord
  rebuilds : List Rebuild
  nextRebuild : Nat
  ladders : List Ladder
  recovery : List RecEntry
  media : List MediaUnit
  window : WindowSt
  wear : WearSt
  relocations : List Relocation
  relocTrace : List (Nat × Nat)
  eraseStarts : List (Nat × Nat)
  spareLow : Bool
  wornRows : List (Nat × Nat)
  writeProtect : Bool
  hitsHalvedOp : Nat
  sampleFrom : Nat
  liveTokens : Nat
  tokenGuardWaits : Nat
  deriving DecidableEq, Repr

end Sys2Proof.Machine
end

