-- ==== Sys2Proof/Machine/TypesZones.lean ====
section
/-! DEFINITION. State of namespaces, zones, bay sets, contracts, admission and holding (chapters 02, 03, 04). -/

namespace Sys2Proof.Machine

/-- Standard zone states (Table 02.5). -/
inductive ZoneState where
  | empty
  | implicitOpen
  | explicitOpen
  | closed
  | full
  | readOnly
  | offline
  deriving DecidableEq, Repr

/-- A zone (R37 to R60). Offsets and capacities are in 4 KiB units; `unrec` lists unit offsets of the unrecoverable list,
`poison` those stored with a poison mark (R224). -/
structure ZoneSt where
  st : ZoneState
  wp : Nat
  cap : Nat
  resets : Nat
  ext : Option (List Byte)
  rzr : Bool
  zfc : Bool
  thatch : Option Nat
  unrec : List Nat
  poison : List Nat
  lastWrite : Nat
  activeSeq : Nat
  underlay : Bool
  memberLost : Bool
  reroofing : Bool
  deriving DecidableEq, Repr

/-- A namespace (R51, R54, R55, R218): `prot` is its protection information; `sets` lists bay set and zone reservation; `attached` the functions it is attached to. -/
structure NsSt where
  nsid : Nat
  zoned : Bool
  nsze : Nat
  lbaf : Nat
  prot : Protection
  extended : Bool
  sets : List (Nat × Nat)
  attached : List Nat
  deriving DecidableEq, Repr

/-- A bay set (R52): 256-bit maps. -/
structure BaySetSt where
  bays : Nat
  grants : Nat
  exclusive : Bool
  promised : Nat
  deriving DecidableEq, Repr

/-- A contract (Table 03.1) with its bucket levels in millionths of a command and of a byte (R73), and as they would stand if no loss of
link or power capacity cut their refill (R206, R334). -/
structure Contract where
  fn : Nat
  cls : Nat
  write : Bool
  bound : Nat
  hold : Nat
  cmdRate : Nat
  byteRate : Nat
  burst : Nat
  weight : Nat
  cmdLevel : Nat
  byteLevel : Nat
  cmdFull : Nat
  byteFull : Nat
  deriving DecidableEq, Repr

/-- The meter of a function and bay (R73): refill in die-µs per second, depth and level in millionths of a die-µs; and the same
unscaled, as the meter would stand if the bay were not overbooked (R72, R98). -/
structure BayMeter where
  fn : Nat
  bay : Nat
  rate : Nat
  depth : Nat
  level : Nat
  fullRate : Nat
  fullDepth : Nat
  fullLevel : Nat
  deriving DecidableEq, Repr

/-- How a slot of a read is served (R80 step 4). -/
inductive Route where
  | unwritten
  | loft
  | eaves
  | recovered
  | direct (die : Nat)
  | underlay (die : Nat)
  | readAround (die : Nat)
  | unrecoverable
  deriving DecidableEq, Repr

/-- One 16 KiB slot of a read in service (R80 step 4): its first unit and number of units, route, done, failed; the thatch and
offset that hold its page as the plan found them, which a later Zone Reset does not change (Table 03.11), the Eaves units
that the slot pins (R81), and the write epoch of its units (R161). -/
structure SlotSt where
  unit0 : Nat
  units : Nat
  route : Route
  done : Bool
  failed : Bool
  loc : Option (Nat × Nat)
  seqs : List Nat
  epoch : Nat
  deriving DecidableEq, Repr

/-- A command held or in service (R65, R80, R94). `op` is the command itself; `unit0` and `units` its first unit and its
count; `order` its place in acceptance order; `data` what its units held and `epoch` its zone's epoch at acceptance; `bufs` the
pool 3 buffers that a Copy holds (R302); `chans` the channels that its plan uses (R105); `sensed`: a die has begun a sense for it (R23, R99);
`listRead`: its range list or extension has come from host memory (R66); `slackWait`: held feasible but over its contract, so that it
waits on the pools that it draws from (R91); `seq0`: the acceptance sequence number of its first unit (R181); `endStatus`: the error with
which an accepted write completes in its turn (R182). -/
structure Cmd where
  fn : Nat
  sqid : Nat
  cid : Nat
  op : Instr
  cls : Nat
  write : Bool
  t0 : Nat
  dl : Nat
  hend : Nat
  accepted : Bool
  acceptedAt : Nat
  verdict : Nat
  nsid : Nat
  unit0 : Nat
  units : Nat
  bytes : Nat
  order : Nat
  zone : Option Nat
  slots : List SlotSt
  key : Nat
  keySlot : Option Nat
  lastReason : Nat
  hostLate : Bool
  late : Nat
  arrived : Nat
  inA : Nat
  inB : Nat
  poisoned : Bool
  dtError : Bool
  withinContract : Bool
  charge : Nat
  lba : Nat
  allowance : Bool
  chargeLink : Nat
  chargePower : Nat
  dieCharges : List (Nat × Nat)
  data : List (Option Nat)
  epoch : Nat
  bufs : Nat
  chans : List Nat
  sensed : Bool
  listRead : Bool
  slackWait : Bool
  seq0 : Nat
  endStatus : Option NvmeStatus
  deriving DecidableEq, Repr

/-- Slack drawn by a claimant from a pool in the running 10 ms epoch (R91): pool 0 die slack of a bay, 1 link, 2 power. -/
structure SlackDraw where
  pool : Nat
  bay : Nat
  fn : Nat
  cls : Nat
  write : Bool
  drawn : Nat
  deriving DecidableEq, Repr

/-- The Admission Unit and the zone tables. -/
structure AdmSt where
  bindings : Tbl (Nat × Nat) Nat
  contracts : List Contract
  meters : List BayMeter
  overbooked : List Nat
  bayCapacity : Tbl Nat Nat
  powerCapacity : Nat
  linkCapacity : Nat
  linkCmds : Nat
  dieSlack : Tbl Nat Nat
  linkSlack : Nat
  powerSlack : Nat
  draws : List SlackDraw
  prevDraws : List SlackDraw
  epochStart : Nat
  cmds : List Cmd
  nextOrder : Nat
  backlog : Nat
  releases : List (Nat × Nat)
  hostReadsOpen : Nat
  deriving DecidableEq, Repr

/-- Zones and namespaces. `zones` is keyed by (NSID, zone index); a zone not listed is Empty with the capacity promised at
namespace creation. `limits` are the PF's limits by function (active, open). -/
structure ZnsSt where
  namespaces : List NsSt
  zones : Tbl (Nat × Nat) ZoneSt
  created : Tbl Nat Nat
  limits : Tbl Nat (Nat × Nat)
  startLimit : Option (Nat × Nat)
  sets : Tbl Nat BaySetSt
  nextActive : Nat
  conv : Tbl (Nat × Nat) (Nat × Nat)
  convUnrec : List (Nat × Nat)
  convPoison : List (Nat × Nat)
  deriving DecidableEq, Repr

end Sys2Proof.Machine
end

