-- ==== Sys2Proof/Machine/Defaults.lean ====
section
/-! DEFINITION. What an entry that a sparse table does not list stands for: an idle function, an untouched die block, an
Empty zone, a channel and package before bring-up, a fault source without events. -/

namespace Sys2Proof.Machine

/-- BAR mailbox registers at reset (Table 10.3). -/
def mailboxDefault : MailboxSt :=
  { reqBaseLo := 0, reqBaseHi := 0, rspBaseLo := 0, rspBaseHi := 0, ringOrder := 4, enable := false,
    notifyOnResponse := false, reqTail := 0, reqHead := 0, rspTail := 0, rspHead := 0, active := false, inFlight := 0,
    badTail := false, badHead := false, dmaError := false, phase := true }

/-- Features of a function before any Set Features (Table 09.8; values the spec leaves to the standard are 0). -/
def featDefault : FeatSt :=
  { ab := 0, tler := 0, coalThr := 0, coalTime := 0, vecNoCoalesce := [], atomicDn := false,
    aecMask := 0, timestamp := 0, timestampAt := 0, acre := false, numSq := 128, numCq := 128,
    thresholds := List.replicate 9 ⟨none, none⟩ }

/-- Configuration registers at their defaults: MPS 128 bytes, MRRS 512 bytes, Relaxed Ordering enabled, D0 (PRESUMED from PCI Express,
log entry 123). -/
def cfgDefault : CfgSt := { command := 0, bar0 := 0, bar2 := 0, devCtl := 0x2810, devCtl2 := 0, lnkCtl := 0, pm := 0 }

/-- The link down: electrical idle, system page size 4 KiB. -/
def linkDefault : LinkSt :=
  { flit := false, sris := false, power := .idle, l1ss := 0, sriovCtl := 0, pageSize := 1, vfBar0 := 0, vfBar2 := 0 }

/-- A function after reset (R212, R213, R222). -/
def fnDefault : FnSt :=
  { ccEn := false, ccAt := 0, rdy := false, cfs := false, shst := 0, online := false, present := false, vqAssigned := 0,
    sqs := [], cqs := [], adminTail := 0, adminHead := 0, feat := featDefault, aers := [], aerMasked := [], aerPending := [], msixMasked := [],
    msixPending := [], irqs := [], devtimeLatch := 0, regErr := 0, notify := 0, scratch := 0, mailbox := mailboxDefault,
    changedZones := [], changedNs := [], errorLog := [], fetchPaused := false, vqHeld := 0, bar0 := [], cfg := cfgDefault }

/-- A fault source without events (R314). -/
def srcDefault : FaultSrc :=
  { bit := false, severe := false, count := 0, winStart := none, winCount := 0, scope := 0, first := none }

/-- An untouched die block: erased by nobody yet, count 0 (R110), no block record (R166). -/
def blockDefault : BlockSt :=
  { use := .free, erases := 0, erased := false, incomplete := false, shift := 0, band := 0, valid := false, hits := 0 }

/-- A die before any geometry build. -/
def dieDefault : DieSt :=
  { causeOut := none, retired := false, calibrating := false, timeouts := 0, mismatches := 0, goodBlocks := 0, fbbt := [],
    gbbt := [], blocks := [], builtBad := [], formed := [], orphans := [], planeErases := [], ofPrev := ([], []), nextZone := 0, zoneEnd := 0, nextSpare := 0, spareEnd := 0, spareExtra := [], bd := 0,
    slcShort := false, lostStatus := false }

/-- A channel island after reset: SDR timing registers as Table 06.9, WP_N low (R134). -/
def chanDefault : ChanSt :=
  { sdr0 := 0x05145145, sdr1 := 0x14140607, sdr2 := 0x00001184, draining := none, severeDrain := false, wpN := false,
    rbWait := none, rbDone := false, microcode := 0, returned := [], volumes := [], nvDdr3 := false }

/-- A package before bring-up. -/
def pkgDefault : PkgSt :=
  { temp := none, fails := 0, trainTemp := 0, trainAt := 0, out := false, recalAt := none, blockedSince := none,
    failed := 0, codewords := 0, trainRate := 0, populated := false }

/-- An Empty zone of capacity `cap` units (R41). -/
def zoneDefault (cap : Nat) : ZoneSt :=
  { st := .empty, wp := 0, cap := cap, resets := 0, ext := none, rzr := false, zfc := false, thatch := none, unrec := [],
    poison := [], lastWrite := 0, activeSeq := 0, underlay := false, memberLost := false, reroofing := false }

/-- An unpopulated or unbound thatch entry. -/
def thatchDefault : ThatchSt :=
  { bay := 0, set := 0, members := [], kind := .ready, nsid := 0, zone := 0, endCourse := none, settled := 0,
    generation := 0, lastCourseOp := 0, flagged := false, erasing := [], granules := [], released := false,
    retryAt := none, bufs := [], reread := none }

/-- A bay set nobody has defined. -/
def setDefault : BaySetSt := { bays := 0, grants := 0, exclusive := false, promised := 16 }

/-- An energy meter that has received nothing (R407). -/
def meterDefault : Meter := { admitted := 0, recovery := 0, controllerPj := 0, evaluation := 0, charged := 0 }

/-- Class counters at zero (R409); `refused` holds 0xC0 to 0xC5, 0xC7, 0xC8 in this order. -/
def classDefault : ClassCtr :=
  { verdict0 := 0, verdict1 := 0, refused := List.replicate 8 0, deadline := 0, allowance := 0, exceeded := 0, holdUs := 0,
    bytesRead := 0, bytesWritten := 0 }

/-- Function block at zero (R410). -/
def fnCtrDefault : FnCtr :=
  { hostLate := 0, holdFull := 0, beforeAdmission := 0, loftReads := 0, readAround := 0, discarded := 0, withdrawn := 0 }

/-- A key slot in STATE 0 (Table 11.6). -/
def keySlotDefault : KeySlot :=
  { state := 0, owner := 0, nsIndex := 0, tag := 0, generation := 0, pins := 0, key := 0 }

/-- A DRAM channel after the island's power-on reset (R281): nothing written, every Fresh bit 0. -/
def dramChDefault : DramCh :=
  { cells := [], poison := [], fresh := [], filled := (0, 0), merge := [], rankMap := [], ranks := [], panicSince := none,
    panicLongRaised := false, panics := 0, postponed := 0, rows := [], migrating := none, migrateOp := none,
    dualWrite := false, resilvering := false, stale := false, scrubAt := 0, corrected := [], noRepair := [],
    excludedRows := [], rfms := 0, waiting := [], served := List.replicate 7 0, sinceP4 := 0, rowLimit := 8 }

/-- A rank that has not been trained. -/
def rankDefault : RankSt :=
  { use := .excluded, passes := 0, temp := 25, trainTemp := 25, trainRate := 0, rate := 0, dqs := 0, lastRefresh := [],
    selfRefresh := false, retrainDue := false, pendingRepair := [] }

/-- A sensor before its first conversion: valid, 25 °C (DESIGN CHOICE, log entry 12). -/
def sensorDefault : SensorSt :=
  { reading := 25, valid := true, misses := 0, disagree := 0, goodSince := none, hotCount := 0 }

/-- A rail before its first comparison. -/
def railDefault : RailSt := { reading := 0, lowest := 0, highest := 0, excursionAt := none, badSince := none }

end Sys2Proof.Machine
end

