-- ==== Sys2Proof/Machine/State.lean ====
section
/-! DEFINITION. The state of the SL4096, its reasons to stop, and the state right after the AON power-on reset. -/

namespace Sys2Proof.Machine

/-- Reasons a step can stop with a fault. The spec gives every command an effect in every state, so no meaning raises one. -/
inductive Fault where
  /-- raised by no command (safe: a claim about a fault has no instance) -/
  | unreachable
  deriving DecidableEq, Repr

/-- Reasons a command is refused by the model. -/
inductive Refusal where
  /-- an arm of `exec` that has no meaning yet, by its mnemonic (safe: the run stops) -/
  | notModelled (mnemonic : String)
  deriving DecidableEq, Repr

/-- The machine: one part per chapter, the Board Profile in effect, the free-value counter and the waiting commands. -/
structure State where
  tm : TimeSt
  evt : EvtSt
  isl : IslSt
  flt : FltSt
  boot : BootSt
  bat : BatSt
  tel : TelSt
  pins : PinSt
  sup : SupSt
  thm : ThmSt
  air : AirSt
  dram : DramSt
  buf : BufSt
  host : HostSt
  hmp : HmpSt
  sec : SecSt
  chg : ChangeSt
  prof : Profile
  fl : FlashSt
  eav : EavSt
  zns : ZnsSt
  adm : AdmSt
  free : Nat
  pending : List Instr
  deriving DecidableEq, Repr

/-- DevTime 0 at the end of the AON power-on reset (R12); counts of a fresh part (log entry 10). -/
def tmReset : TimeSt :=
  { devTime := 0, opSeconds := 0, subUs := 0, powerCycles := 0, onBackup := false, crystalLostAt := none }

/-- An empty recorder (fresh part, log entry 10) and the Dormer registers of Table 19.3. -/
def evtReset : EvtSt :=
  { nextSeq := 0, permanent := [], circulating := [], cache := [], dropped := 0, droppedMax := 0, cursorLo := 0,
    cursorHi := 0, permanentBit := false, notifySeverity := 7, notifyPending := false, snapBusy := false, validSlots := 0,
    slots := [], snapWait := [] }

/-- AON Running, every other island Held in reset until step 3 of Table 18.5 (R385, log entry 11). -/
def islReset : IslSt :=
  { islands := ⟨.running, none, false, false, false⟩ :: List.replicate 41 ⟨.heldInReset, some 0, true, false, true⟩,
    handshakes := [], stalls := [], ridgeReleased := false, sysrefOk := true }

/-- No source has had an event (fresh part); eight active and two standby Purlin cores, one of each for Ridge (R14, R323);
registers of Table 14.4. -/
def fltReset : FltSt :=
  { srcs := [], thresholds := [], snapSeq := 0, fsvSnap := List.replicate 10 0, sevSnap := List.replicate 10 0,
    snapTime := 0, aliveLevel := false, aliveRun := false, aliveKick := none, kickExempt := false,
    cores := List.replicate 8 ⟨.active, 0, false, false⟩ ++ List.replicate 2 ⟨.standby, 0, false, false⟩,
    ridge := [⟨.active, 0, false, false⟩, ⟨.standby, 0, false, false⟩], lastCie := none, recent := [],
    lastSevereChannel := [], excludedChannels := [], lastPlannedEnd := none }

/-- PHASE 0 entered at DevTime 0, the others never (R387, R395). -/
def bootReset : BootSt :=
  { phase := 0, reason := 0, startKind := 0, lastReset := 0, phaseAt := some 0 :: List.replicate 7 none,
    cleanMark := false, battenedMark := false, formB := false, attempts := 0, seqRetryAt := none,
    afterTrip := false }

/-- Power state 0, no entry and no wake in progress (R396). -/
def batReset : BatSt :=
  { entryAt := none, wakeAt := none, wakeCause := none, powerState := 0 }

/-- Meters and counters at zero (R407, R409). -/
def telReset : TelSt := { meters := [], classCtr := [], fnCtr := [], ctrStart := 0, controllerDataAvailable := false }

/-- Straps sampled low (log entry 12), BYPASS after a TAP reset (R439), LEDs released (R440), PERST_N asserted. -/
def pinReset : PinSt :=
  { strapI3c := false, strapAddr1 := false, strapAddr0 := false, testMode := false, tap := .bypass, ledActN := true,
    ledFltN := true, lastCompletion := none, faultBlinkAt := 0, perstN := false }

/-- Every PWR_ output low (R362); C is HU_C_EOL and ESR 0 before any audit (R370); no reading yet (log entry 12). -/
def supReset : SupSt :=
  { v12 := 0, vs := 0, v12HighSince := none, huEn := false, chgEn := false, auditEn := false, seqEn := false,
    pmicGood := false, pwrDis := false, capUf := 19200, esrMohm := 0, path := 0, overVolt := false,
    chargeTimeout := false, openShort := false, chargeSince := none, charged := false, auditAfterCharge := false,
    lastAuditOp := 0, audit := .idle, auditSender := none, auditStepUv := 0, rails := List.replicate 11 railDefault,
    pmicReadings := [], pmicHeld := false, pmicPollAt := 0, profileRead := false, audited := false }

/-- Sensors before their first conversion; no trip since manufacture (R336); TRIP_RESTART copy 85 °C (R337). -/
def thmReset : ThmSt :=
  { sensors := List.replicate 40 sensorDefault, diodes := List.replicate 8 sensorDefault, step := .normal,
    belowSince := none, tripped := false, thermtripN := true, tripAt := none, tripRec := none, trips := 0,
    tripWait := false, coolSince := none, tripRestartCopy := 85, tjTrace := [], warmLoad := false, warmStart := 0,
    warmOp := none, warmEnded := false, d3 := [false, false] }

/-- Blower off, every output low (R355, R436). -/
def airReset : AirSt :=
  { st := .off, pwm := List.replicate 6 false, drvEn := false, clamp := false, stuckClosed := false,
    clampSince := none, busOv := false, busMv := 0, driverFaultAt := none, stallAt := none, stalls := 0,
    runningSince := none, reference := 0, speed := 0, iqRef := 0, integ := 0, starts := 0, startAt := 0, alignAt := none,
    idRef := 0, stopping := false, belowOnSince := none, ud := 0, uq := 0, wanted := false, nonRegen := false, phaseMa := 0, lastVectors := [],
    serviceOp := none, judged := false, absent := false }

/-- Both DRAM channels after power-on reset (R281). -/
def dramReset : DramSt :=
  { da := dramChDefault, db := dramChDefault, division := [0, 0, 0, 0, 0, 0], loft := [], heatCtr := [] }

/-- Every pool and buffer free (R299), each at generation 0, for which the spec gives no reset value (R306; DESIGN CHOICE, log entry 142). -/
def bufReset : BufSt :=
  { pools := List.replicate 4 ⟨0, 0, 0, 0⟩, allocated := [], gens := [], cache := [], evictions := 0, bookings := [],
    shut := false }

/-- Link down, functions at their reset values (R212, R213). -/
def hostReset : HostSt :=
  { linkUp := false, rate := 0, width := 0, linkBelowFull := false, link := linkDefault, vfEnabled := false,
    numVfs := 0, lastNumVfs := 0, fns := [(0, { fnDefault with online := true, present := true, vqAssigned := 128 })],
    posted := [], rings := [], cqWait := [], criticalWarning := 0, aerCorrected := 0, aerUncorrected := [], rrFn := 0,
    rrSq := [], fetched := [], fetchStopped := false, poisonTlps := [], unsupported := [], smart := [0, 100, 10] }

/-- No request taken, no handle, MCTP_EID not assigned (R231, R248). -/
def hmpReset : HmpSt :=
  { requests := [], nextOrder := 0, toPost := [], waiting := [], answers := [], held := [], handles := [], nextHandle := 1, collects := [], exchanges := [],
    mctpOversize := 0, mctpOut := [], mctpEid := 0, stopped := false, journal := [], miOut := [],
    barOut := [] }

/-- A stored copy of an image as the part leaves the factory (log entry 13). -/
def factoryImage (t : Nat) : ImageCopy :=
  { hdr := { type := t, keyIndex := if t = 4 then 4 else 0, imageId := 0, svn := 0, version := 0, verified := true,
             tableFormat := 1, revoke := 0 },
    profile := if t = 4 then some Profile.atReset else none }

/-- Key slots empty, fuses as Table 11.10 gives them on KZ-SL4096-A1I (log entry 13). -/
def secReset : SecSt :=
  { slots := [], keks := [], keyStore := [], keyStoreHalf := false, keyStoreSeq := 0, kpioOn := [], rollovers := [],
    regions := [], cryptoDisable := false, integLock := false, integRevoke := 0, kazokRevoke := 0, svnFw := 0,
    svnProfile := 0, kazokKeyHash := [0, 0, 0, 0], integKeyHash := [0, 0], uds := 0, keyCache := [], sanitizing := false, sanitizeBlock := false, sanitizeState := 0, staged := none, stagedProfile := none,
    copyA := [(1, factoryImage 1), (2, factoryImage 2), (4, factoryImage 4)], copyB := [], active := [], activeSince := [] }

/-- No change in progress. -/
def chgReset : ChangeSt :=
  { activating := none, rounds := 0, ucLoad := none, ucTurnLow := none, ucTurnHigh := none, recal := none, coreOp := [],
    qShadow := [], convDue := [], qOp := [], rebootAt := none }

/-- No geometry, no die touched, write window closed (R338). -/
def flReset : FlashSt :=
  { geo := { built := false, gutterBlocks := 0, convPerDie := 0, convBays := [], tBay := [], boundProfile := [], pendingFields := [] },
    inService := false, dies := [], tablesA := [], tablesB := [], thatches := [], nextThatch := 0, channels := [], pkgs := [], descs := [], tokens := [],
    nextTag := 0, calendar := [], occupancy := [], softLanes := [], softWaits := [], hardWords := [], rebuilds := [], nextRebuild := 0, ladders := [],
    recovery := [], media := [], window := { isOpen := false, inRange := 0, lastPoll := none, trace := [] },
    wear := ⟨0, 0, 0, 0, 0⟩, relocations := [], relocTrace := [], eraseStarts := [], spareLow := false, wornRows := [], writeProtect := false,
    hitsHalvedOp := 0, sampleFrom := 0, liveTokens := 0, tokenGuardWaits := 0 }

/-- Empty Eaves Buffer, both Gutter halves erased (log entry 13), E_eff 0 until it is computed (R188). -/
def eavReset : EavSt :=
  { nextSeq := 0, units := [], eEff := 0, short := false, halves := [.erased, .erased], dumpSeq := 0, dump := none,
    dumpStart := none, dumpStore := 0, powerLoss := false, unsafeShutdowns := 0, journalTail := 0,
    underlay := [], underlayLog := [], underlayBlock := [], underlayMoves := [], compactions := [], staged := [], abortedPasses := [], replaying := false, afterDump := false }

/-- No namespace; set 0 holds every bay and is granted to every function (R51). -/
def znsReset : ZnsSt :=
  { namespaces := [], zones := [], created := [], limits := [], startLimit := none,
    sets := [(0, { bays := 2 ^ 256 - 1, grants := 2 ^ 256 - 1, exclusive := false, promised := 16 })], nextActive := 0,
    conv := [], convUnrec := [], convPoison := [] }

/-- No contract, capacities of Table 03.5 at reset, slack pools at their depth (log entry 14). -/
def admReset : AdmSt :=
  { bindings := [], contracts := [], meters := [], overbooked := [], bayCapacity := [], powerCapacity := 1728000000,
    linkCapacity := 56000000000, linkCmds := 13900000, dieSlack := [], linkSlack := 560000000000000,
    powerSlack := 172800000000000, draws := [], prevDraws := [], epochStart := 0, cmds := [], nextOrder := 0, backlog := 0,
    releases := [], hostReadsOpen := 0 }

/-- The machine at the end of the AON power-on reset (R12, R385, step 2 of Table 18.5), with no command waiting. -/
def State.reset : State :=
  { tm := tmReset, evt := evtReset, isl := islReset, flt := fltReset, boot := bootReset, bat := batReset, tel := telReset,
    pins := pinReset, sup := supReset, thm := thmReset, air := airReset, dram := dramReset, buf := bufReset,
    host := hostReset, hmp := hmpReset, sec := secReset, chg := chgReset, prof := Profile.atReset, fl := flReset,
    eav := eavReset, zns := znsReset, adm := admReset, free := 0, pending := [] }

end Sys2Proof.Machine
end

