-- ==== Sys2Proof/Machine/Ops.lean ====
section
/-! DEFINITION. Shared operations: time, islands, free values, interrupts, event records (R400 to R403), asynchronous events,
Critical Warning, completion and Verdict Ring posting (R100 to R102, R219, R220, R455). -/

namespace Sys2Proof.Machine

/-- A list in pieces of `n`. -/
def piecesOf {α : Type} (n : Nat) (l : List α) : List (List α) :=
  (List.range ((l.length + n - 1) / max 1 n)).map fun i => (l.drop (i * n)).take n

/-! ### Time, free values -/

/-- DevTime in µs (R12). -/
def now (s : State) : Nat := s.tm.devTime

/-- Operating time in µs, monotone over power cycles: the clock of the fault windows (R316, R318). -/
def opUs (s : State) : Nat := s.tm.opSeconds * 1000000 + s.tm.subUs

/-- Step the free-value counter: each use of a free value reads the counter and advances it. -/
def tickFree (s : State) : State := { s with free := s.free + 1 }

/-- Free value number `k` of the present step. -/
def fresh (s : State) (k : Nat) : Nat := Config.freeNat (s.free * 2 ^ 64 + k)

/-- One condition guards an effect. -/
def when' (c : Bool) (f : State → State) (s : State) : State := if c then f s else s

/-- Fold an operation over a list. -/
def forEach {α : Type} (l : List α) (f : α → State → State) (s : State) : State := l.foldl (fun s a => f a s) s

/-! ### Live fields that wait for an operation boundary (R7) -/

/-- The live values of record `r` that its block applies from the operation now beginning. -/
def dueOf (s : State) (r : Nat) : List (Nat × Nat × Nat × Nat) := s.chg.convDue.filter (·.1 == r)

/-- Put the due values of record `r` into effect. -/
def takeDue (s : State) (r : Nat) : State :=
  { s with prof := (dueOf s r).foldl (fun p x => profSetRecord p x.1 (setBits (profRecord p x.1) x.2.1 x.2.2.1 x.2.2.2)) s.prof,
           chg := { s.chg with convDue := s.chg.convDue.filter (·.1 != r) } }

/-! ### Islands (R14, R18) -/

/-- Place of an island ID of Table 01.1 in the island list. -/
def islIndex (id : Nat) : Nat := if id < 10 then id else id - 6

/-- Island ID of a place in the island list. -/
def islIdOf (ix : Nat) : Nat := if ix < 10 then ix else ix + 6

/-- Island IDs that Table 01.1 assigns. -/
def islIdValid (id : Nat) : Bool := decide (id < 10) || (decide (16 ≤ id) && decide (id < 48))

/-- An island record that reads as Gated outside Table 01.1. -/
def islDefault : Island := ⟨.gated, none, true, false, true⟩

/-- The record of an island. -/
def island (s : State) (id : Nat) : Island := vecGet islDefault s.isl.islands (islIndex id)

/-- Change the record of an island. -/
def updIsland (s : State) (id : Nat) (f : Island → Island) : State :=
  { s with isl := { s.isl with islands := vecUpd s.isl.islands (islIndex id) f } }

/-- An island is in the Running state. -/
def isRunning (s : State) (id : Nat) : Bool := (island s id).st == .running

/-- Depth of a state (R20), which is also its code in Table 18.7. -/
def stateDepth : IslState → Nat
  | .running => 0
  | .stopped => 1
  | .isolated => 2
  | .heldInReset => 3
  | .gated => 4

/-- "Not Running" of R24: Stopped for more than 50 µs, Isolated, Held in reset or Gated. -/
def notRunning (s : State) (id : Nat) : Bool :=
  match (island s id).st with
  | .running => false
  | .stopped => match (island s id).leftAt with
    | some t => decide (t + 50 < now s)
    | none => false
  | _ => true

/-- The island of channel `c`. -/
def chIsland (c : Nat) : Nat := 16 + c

/-- The channel island of channel `c` is Running (R24). -/
def chRunning (s : State) (c : Nat) : Bool := decide (c < 32) && !notRunning s (chIsland c)

/-- The clock of a channel island is not held by a pause (Table 01.2). -/
def clockRuns (s : State) (c : Nat) : Bool := (island s (chIsland c)).st != .stopped

/-- Both DRAM islands Running. -/
def dramUp (s : State) : Bool := !notRunning s 6 && !notRunning s 7

/-- The blower's outputs, clamp and gate driver go low (R355, Table 01.7); a blower that turned coasts. The
stall lock-out ends with a power-on reset of the Airflow island (R351), the clamp lock-out only with a resume (R352). -/
def airLow (s : State) (gated : Bool) : State :=
  let a := s.air
  let st := match a.st with
    | .stoppedForService => .stoppedForService
    | .stallLockout => if gated then .off else .stallLockout
    | .driverLockout => if a.stuckClosed then .driverLockout else .off
    | _ => .off
  { s with air := { a with st := st, pwm := List.replicate 6 false, drvEn := false, clamp := false, clampSince := some (now s),
                           busOv := false, driverFaultAt := none, stallAt := none, alignAt := none, runningSince := none,
                           stalls := if gated then 0 else a.stalls, reference := 0,
                           iqRef := 0, idRef := 0, integ := 0, nonRegen := false } }

/-! ### Handshake channels (R15 to R19) -/

/-- Entries of a channel's FIFO: 16 on a data channel, 4 on a control channel. -/
def fifoDepth (data : Bool) : Nat := if data then 16 else 4

/-- An island's own fence reaches a channel: all but the control channel from or to Management while it is Isolated (Table
01.2). -/
def fenceReaches (i : Island) (other : Nat) (data : Bool) : Bool := i.fenced && !(i.st == .isolated && other == 3 && !data)

/-- The channel from `src` to `dst` is fenced. -/
def isFenced (s : State) (src dst : Nat) (data : Bool) : Bool :=
  fenceReaches (island s dst) src data || fenceReaches (island s src) dst data

/-- A channel as its record stands; one that is not listed has been empty and unfenced. -/
def handshake (s : State) (src dst : Nat) (data : Bool) : Handshake :=
  (s.isl.handshakes.find? fun h => h.src == src && h.dst == dst && h.data == data).getD ⟨src, dst, data, [], [], 0, 0⟩

/-- Store a channel's record. -/
def setHandshake (s : State) (h : Handshake) : State :=
  let same (x : Handshake) : Bool := x.src == h.src && x.dst == h.dst && x.data == h.data
  { s with isl := { s.isl with handshakes := s.isl.handshakes.filter (fun x => !same x) ++ [h] } }

/-- The world bit that an island sets in its tokens (Table 11.1): set by the Ridge island alone. -/
def worldBit (i : Nat) : Bool := i == 4

/-- A destination takes a token of a source (R249): the Ridge island takes one with the world bit clear only on the secure mailbox
channel from the Management island and on the AON control channel. -/
def takesToken (src dst : Nat) (data : Bool) : Bool := !worldBit dst || worldBit src || (!data && (src == 3 || src == 0))

/-- A source sends a token: discarded where the destination does not take it (R249); refused with a Fenced indication by a fenced channel; visible at once to a destination that is
Running (R15: within less than 1 µs); into the FIFO of a Stopped one until that is full, after which the source waits. -/
def sendToken (s : State) (src dst : Nat) (data : Bool) (tag : Nat) : State :=
  let h := handshake s src dst data
  if !takesToken src dst data then setHandshake s { h with discarded := h.discarded + 1 }
  else if isFenced s src dst data then setHandshake s { h with refused := h.refused + 1 }
  else if isRunning s dst then s
  else if h.fifo.length < fifoDepth data && h.waiting.isEmpty then setHandshake s { h with fifo := h.fifo ++ [tag] }
  else setHandshake s { h with waiting := h.waiting ++ [tag] }

/-- A fence on an island: the channels into it discard what their FIFOs hold and report the number; the tokens that a source
still waits to send are refused. What lies in the FIFO of another island is still consumed there. -/
def fenceChannels (s : State) (id : Nat) : State :=
  let cut (h : Handshake) : Handshake :=
    if h.dst == id && fenceReaches (island s id) h.src h.data then
      { h with fifo := [], waiting := [], discarded := h.discarded + h.fifo.length, refused := h.refused + h.waiting.length }
    else if h.src == id && fenceReaches (island s id) h.dst h.data then
      { h with waiting := [], refused := h.refused + h.waiting.length }
    else h
  { s with isl := { s.isl with handshakes := s.isl.handshakes.map cut,
                               stalls := s.isl.stalls.filter fun e =>
                                 !(e.into.island == id && fenceReaches (island s id) e.src e.into.data) &&
                                 !(e.src == id && fenceReaches (island s id) e.into.island e.into.data) } }

/-- An island that runs takes the tokens of its channels, in the order in which they were sent (R16). -/
def takeTokens (s : State) (id : Nat) : State :=
  { s with isl := { s.isl with handshakes := s.isl.handshakes.map fun h =>
                      if h.dst == id then { h with fifo := [], waiting := [] } else h } }

/-- The tag of a token that has not reached its destination. -/
def inTransit (s : State) (src dst tag : Nat) : Bool :=
  s.isl.handshakes.any fun h => h.src == src && h.dst == dst && (h.fifo.contains tag || h.waiting.contains tag)

/-- A channel island held in reset or gated drives WP_N low (R134). -/
def writeProtect (s : State) (id : Nat) : State :=
  if id < 16 then s
  else { s with fl := { s.fl with channels := s.fl.channels.map fun e => if e.1 = id - 16 then (e.1, { e.2 with wpN := false }) else e } }

/-- Put an island into a state (R18, R19): leaving Running is stamped, and the channels into and out of it are fenced unless it
is only Stopped; reporting Running lifts the fence. The AON island disables the gate driver while the Airflow island is not
Running (Table 01.7). -/
def setIslandState (s : State) (id : Nat) (st : IslState) : State :=
  let s := updIsland s id fun i =>
    match st with
    | .running => { i with st := .running, leftAt := none, fenced := false, released := false, lost := false }
    | .stopped => { i with st := .stopped, leftAt := some (i.leftAt.getD (now s)), released := false }
    | st => { i with st := st, leftAt := some (i.leftAt.getD (now s)), fenced := true, released := false,
                     lost := i.lost || st != .isolated }
  match st with
  | .running => takeTokens s id
  | .stopped => s
  | st =>
    let s := if st == .isolated then s else writeProtect s id
    if id = 9 then airLow (fenceChannels s id) (st == .gated) else fenceChannels s id

/-! ### Functions and interrupts -/

/-- A function. -/
def fnOf (s : State) (f : Nat) : FnSt := tblGet fnDefault f s.host.fns

/-- Change a function. -/
def updFn (s : State) (f : Nat) (g : FnSt → FnSt) : State :=
  { s with host := { s.host with fns := tblUpd fnDefault f g s.host.fns } }

/-- A function whose controller takes commands: present, enabled and ready (R390). -/
def fnReady (s : State) (f : Nat) : Bool := (fnOf s f).present && (fnOf s f).ccEn && (fnOf s f).rdy

/-- Function numbers of the functions present (R207). -/
def presentFns (s : State) : List Nat := (s.host.fns.filter (·.2.present)).map (·.1)

/-- Number of MSI-X vectors of a function (R220). -/
def vectorsOf (f : Nat) : Nat := if f = 0 then 2048 else 64

/-- Issue or hold an MSI-X message (R220: a masked vector keeps its pending bit). -/
def raiseVector (s : State) (f v : Nat) : State :=
  updFn s f fun x =>
    if x.msixMasked.contains v then
      { x with msixPending := if x.msixPending.contains v then x.msixPending else x.msixPending ++ [v] }
    else { x with irqs := x.irqs ++ [v] }

/-- A notification of a function (R213: NOTIFY_ENABLE, NOTIFY_VECTOR). -/
def notifyFn (s : State) (f : Nat) : State :=
  if (fnOf s f).notify.getLsbD 31 then raiseVector s f (bits (fnOf s f).notify.toNat 0 11) else s

/-! ### Event records (R400 to R403) -/

/-- Kinds of the SOURCE field (Table 19.1): island, fault source, function, die, bay, namespace. -/
def srcField (kind num : Nat) : Nat := kind % 16 * 4096 + num % 4096

/-- Codes whose record the AON island itself adds during a dump (R403, DEDUCED, log entry 20). -/
def aonCode (c : Nat) : Bool := [0x0004, 0x0010, 0x0011, 0x0013, 0x0022, 0x0030, 0x0042].contains c

/-- Codes whose record is always kept (R403): Power Loss, trip, severe fault. -/
def keptCode (c : Nat) : Bool := [0x0011, 0x0030, 0x0042].contains c

/-- SEQ of the newest record; 0 when there is none (Table 19.3). -/
def newestSeq (s : State) : Nat := s.evt.nextSeq - 1

/-- SEQ of the oldest circulating record held, or 1,024 (R402). -/
def oldestSeq (s : State) : Nat := max 1024 (s.evt.nextSeq - 16384)

/-- Add one record to the AON record cache with the next SEQ (R400), and notify (Table 19.3). -/
def appendRecord (s : State) (code sev kind num : Nat) (payload : List Byte) : State :=
  let e := s.evt
  let flags := (if e.nextSeq < 1024 then 1 else 0) + (if s.tm.onBackup then 4 else 0)
  let r : EventRec :=
    { seq := e.nextSeq, code := code, opSeconds := s.tm.opSeconds, powerCycles := s.tm.powerCycles, devTime := now s,
      srcKind := kind, srcNum := num, severity := sev, flags := flags, payload := payload.take 32 }
  let hit := decide (e.notifySeverity.toNat < 7) && decide (e.notifySeverity.toNat ≤ sev)
  let s := { s with evt := { e with nextSeq := e.nextSeq + 1, cache := e.cache ++ [r],
                                    notifyPending := e.notifyPending || hit } }
  if hit then notifyFn s 0 else s

/-- A record is dropped (R403). -/
def dropRecord (s : State) (sev : Nat) : State :=
  { s with evt := { s.evt with dropped := s.evt.dropped + 1, droppedMax := max s.evt.droppedMax sev } }

/-- Remove the first cached record that meets a test; none if there is no such record. -/
def evictFirst (p : EventRec → Bool) (l : List EventRec) : Option (List EventRec) :=
  match l.findIdx? p with
  | some i => some (l.eraseIdx i)
  | none => none

/-- Record an event (R401 to R403): the cache takes 512 records; while it is full a record of severity 2 or more replaces
the oldest of severity 0 or 1, records that are always kept replace the oldest that is not, any other is dropped; during a
dump only the AON island adds records, and none while the AON rail is down. -/
def recordEvent (s : State) (code sev kind num : Nat) (payload : List Byte) : State :=
  if (s.eav.dumpStart.isSome && !aonCode code) || !isRunning s 0 then s
  else if s.evt.cache.length < 512 then appendRecord s code sev kind num payload
  else
    let room := if 2 ≤ sev then evictFirst (fun r => decide (r.severity ≤ 1)) s.evt.cache else none
    let room := match room with
      | some l => some l
      | none => if keptCode code then evictFirst (fun r => !keptCode r.code) s.evt.cache else none
    match room with
    | some l => appendRecord { s with evt := { s.evt with cache := l } } code sev kind num payload
    | none => dropRecord s sev

/-- The bytes of a record (Table 19.1). -/
def recordBytes64 (r : EventRec) : List Byte :=
  let body := leBytes 6 r.seq ++ leBytes 2 r.code ++ leBytes 5 r.opSeconds ++ leBytes 3 r.powerCycles ++
    leBytes 8 r.devTime ++ leBytes 2 (srcField r.srcKind r.srcNum) ++ leBytes 1 r.severity ++ leBytes 1 r.flags ++
    padTo 32 r.payload
  body ++ leBytes 4 (crc32c body).toNat

/-! ### Wake (R398) -/

/-- Number of a wake cause in event 0x0003, in the order of R398 (DESIGN CHOICE, log entry 23). -/
def wakeCode : WakeCause → Nat
  | .doorbell => 0
  | .register => 1
  | .perst => 2
  | .flr => 3
  | .mctp => 4
  | .pwrAlert => 5
  | .fault => 6

/-- The watchdogs of the cores start afresh when the Management island runs again (DEDUCED, log entry 54). -/
def kickCores (s : State) : State :=
  { s with flt := { s.flt with cores := s.flt.cores.map fun c => { c with lastKick := now s },
                               ridge := s.flt.ridge.map fun c => { c with lastKick := now s } } }

/-- The link goes down: transmitters in electrical idle (R225), and the link's and SR-IOV registers at their defaults (R221). -/
def linkDown (s : State) : State := { s with host := { s.host with linkUp := false, link := linkDefault } }

/-- The link takes a power state where it is up. -/
def linkPower (s : State) (p : LinkPower) : State :=
  if s.host.linkUp then { s with host := { s.host with link := { s.host.link with power := p } } } else s

/-- A wake event while Battened (R398, Table 18.9 steps 1 to 3): the Stopped islands and Soft-Decode run again, and the wake
ends 4.0 ms later. Without effect in any other phase, and during a wake. -/
def beginWake (s : State) (cause : WakeCause) : State :=
  if s.boot.phase != 6 || s.bat.wakeAt.isSome then s
  else
    let s := forEach ((List.range 42).map islIdOf) (fun id s =>
      if (island s id).st == .stopped || id == 8 then setIslandState s id .running else s) s
    let s := kickCores (linkPower s .l0)
    recordEvent { s with bat := { s.bat with wakeAt := some (now s), wakeCause := some cause } } 0x0003 0 0 0
      (leBytes 1 1 ++ leBytes 1 (wakeCode cause))

/-! ### Asynchronous events and Critical Warning -/

/-- Deliver an asynchronous event to a function (R326, R335, R60; the standard's masking until the log is read): type,
information, log page, and the bit of feature 0x0B that enables it. -/
def asyncEvent (s : State) (f type info log enable : Nat) (post : State → Nat → Nat → State) : State :=
  let x := fnOf s f
  if !(x.ccEn && x.rdy) || bits x.feat.aecMask enable 1 = 0 || x.aerMasked.contains type then s
  else match x.aers with
    | cid :: rest =>
      post (updFn s f fun x => { x with aers := rest, aerMasked := x.aerMasked ++ [type] }) cid (type + info * 256 + log * 65536)
    | [] => updFn s f fun x => { x with aerPending := x.aerPending ++ [(type, info, log)] }

/-! ### Completions -/

/-- DNR of a completion (R455, R98, R103). -/
def dnrOf : NvmeStatus → Bool
  | .success => false
  | .tooManyOpen => false
  | .tooManyActive => false
  | .dataTransferError => false
  | .internalError => false
  | .abortRequested => false
  | .abortedSqDeletion => false
  | .namespaceNotReady => false
  | .sanitizeInProgress => false
  | .vendor _ => false
  | _ => true

/-- CRD of a completion (R100): only while ACRE is set for the function. `hint` is the retry hint in µs. -/
def crdOf (acre : Bool) (st : NvmeStatus) (hint : Nat) : Nat :=
  if !acre then 0 else
  match st with
  | .vendor c =>
    if c = 0xC7 then 3
    else if c = 0xC4 || c = 0xC5 || c = 0xC8 then
      if hint < 100000 then 0
      else if hint = 100000 then 1
      else if hint ≤ 1000000 then 2
      else 3
    else 0
  | _ => 0

/-- Entries of an admin queue by AQA (BAR0 0x24): the submission queue's field at bit 0, the completion queue's at bit 16. A field below 1,
which the standard leaves undefined, gives the 4,096 entries of R219 (DESIGN CHOICE, log entry 127). -/
def adminSize (x : FnSt) (lo : Nat) : Nat :=
  match bits (tblGet 0 0x24 x.bar0).toNat lo 12 with
  | 0 => 4096
  | n => n + 1

/-- The admin completion queue of a function when none is listed: 4,096 entries, vector 0 (R219). -/
def cqDefault : CqSt :=
  { size := 4096, vector := 0, ien := true, head := 0, tail := 0, phase := true, ring := none, pendingIrq := 0,
    irqSince := none }

/-- Saturate a Verdict Ring time (R102). -/
def ringTime (t : Nat) : Nat := min t 0x3FFFFF

/-- Raise the interrupt of a completion queue under coalescing (features 0x08 and 0x09). -/
def completionIrq (s : State) (fn cqid : Nat) : State :=
  let x := fnOf s fn
  let q := tblGet cqDefault cqid x.cqs
  if !q.ien then s
  else if cqid = 0 || x.feat.coalThr = 0 || x.feat.coalTime = 0 || x.feat.vecNoCoalesce.contains q.vector ||
      x.feat.coalThr + 1 ≤ q.pendingIrq + 1 then
    raiseVector (updFn s fn fun x => { x with cqs := tblUpd cqDefault cqid (fun q => { q with pendingIrq := 0, irqSince := none }) x.cqs })
      fn q.vector
  else updFn s fn fun x =>
    let g : CqSt → CqSt := fun q => { q with pendingIrq := q.pendingIrq + 1, irqSince := some (q.irqSince.getD (now s)) }
    { x with cqs := tblUpd cqDefault cqid g x.cqs }

/-- A completion queue without a free slot (R211: a head doorbell frees slots). -/
def cqFull (q : CqSt) : Bool := decide (q.size ≤ 1) || (q.tail + 1) % q.size == q.head

/-- The 8 bytes of a Verdict Ring entry (Table 04.5). -/
def ringBytes (cid sqid : Nat) (i : VerdictInfo) : List Byte :=
  leBytes 8 (cid % 2 ^ 16 + sqid % 2 ^ 16 * 2 ^ 16 + i.verdict % 4 * 2 ^ 32 + i.reason % 256 * 2 ^ 34 + i.time * 2 ^ 42)

/-- A host access reaches the function's BARs: the link is up, and the function is there, in D0 (R204). -/
def barReachable (s : State) (f : Nat) : Bool := s.host.linkUp && (fnOf s f).present && (fnOf s f).cfg.pm == 0 && !s.eav.powerLoss

/-- Write one entry into the next slot: the Verdict Ring entry first where the queue has a ring (R102), then the entry,
its phase, and the interrupt. -/
def writeEntry (s : State) (c : Completion) (v : Option VerdictInfo) : State :=
  let q := tblGet cqDefault c.cqid (fnOf s c.fn).cqs
  let ring := match q.ring, v with
    | some base, some i =>
      let i := { i with time := ringTime i.time }
      if c.cqid = 0 then []
      else [RingEntry.mk c.fn c.cqid q.tail (base + 8 * q.tail) c.cid c.sqid i (ringBytes c.cid c.sqid i) q.phase]
    | _, _ => []
  let entry := { c with phase := q.phase, slot := q.tail, time := now s }
  let q' := { q with tail := (q.tail + 1) % max 1 q.size, phase := if q.tail + 1 = q.size then !q.phase else q.phase }
  let s := { s with host := { s.host with rings := s.host.rings ++ ring, posted := s.host.posted ++ [entry] } }
  completionIrq (updFn s c.fn fun x => { x with cqs := tblSet c.cqid q' x.cqs }) c.fn c.cqid

/-- Post a completion, or let it wait for a free slot of its queue; no queue, no memory request (R222). -/
def postEntry (s : State) (c : Completion) (v : Option VerdictInfo) : State :=
  let x := fnOf s c.fn
  if !(x.ccEn && x.rdy) || !s.host.linkUp then s
  else match tblFind? c.cqid x.cqs with
    | some q =>
      if cqFull q || s.host.cqWait.any (fun w => w.1.fn == c.fn && w.1.cqid == c.cqid) then
        { s with host := { s.host with cqWait := s.host.cqWait ++ [(c, v)] } }
      else writeEntry s c v
    | none => if c.cqid = 0 then writeEntry s c v else s

/-- Statuses that reach the Error Information log as errors because of a fault (Table 14.5). -/
def faultStatus : NvmeStatus → Bool
  | .unrecoveredRead => true
  | .internalError => true
  | .dataTransferError => true
  | _ => false

/-- An error because of a fault enters the function's Error Information log, the newest 64 (R217, Table 14.5). -/
def logError (s : State) (fn sqid cid : Nat) (st : NvmeStatus) : State :=
  if faultStatus st then updFn s fn fun x => { x with errorLog := ((sqid, cid, st) :: x.errorLog).take 64 } else s

/-- The completion queue of a submission queue; 0 for the admin queue. -/
def cqidOf (s : State) (fn sqid : Nat) : Nat :=
  if sqid = 0 then 0 else match tblFind? sqid (fnOf s fn).sqs with
    | some q => q.cqid
    | none => 0

/-- The completion of a command: status, DNR (R455), CRD (R100), Dword 0, data; its slot, phase and time come with the write. -/
def completionOf (s : State) (fn sqid cid : Nat) (st : NvmeStatus) (dw0 : Nat) (data : List Byte) (units : List (Option Nat))
    (hint : Nat) : Completion :=
  { fn := fn, cqid := cqidOf s fn sqid, sqid := sqid, cid := cid, status := st, dnr := dnrOf st,
    crd := crdOf (fnOf s fn).feat.acre st hint, dw0 := dw0, phase := false, slot := 0, time := 0, data := data, units := units }

/-- Post the completion of a command; a submission queue that is gone gets none. -/
def postCompletion (s : State) (fn sqid cid : Nat) (st : NvmeStatus) (dw0 : Nat) (data : List Byte)
    (units : List (Option Nat)) (v : Option VerdictInfo) : State :=
  let hint := match v with
    | some i => i.time
    | none => 0
  if sqid ≠ 0 && (tblFind? sqid (fnOf s fn).sqs).isNone then logError s fn sqid cid st
  else postEntry (logError s fn sqid cid st) (completionOf s fn sqid cid st dw0 data units hint) v

/-- Complete an admin command (R102: no Verdict Ring entry). -/
def adminDone (s : State) (a : AdmHdr) (st : NvmeStatus) (dw0 : Nat) (data : List Byte) : State :=
  postCompletion s a.fn 0 a.cid st dw0 data [] none

/-- Complete an Asynchronous Event Request. -/
def postAer (f : Nat) (s : State) (cid dw0 : Nat) : State := postCompletion s f 0 cid .success dw0 [] [] none

/-- Deliver an asynchronous event to every function present. -/
def asyncAll (s : State) (type info log enable : Nat) : State :=
  forEach (presentFns s) (fun f s => asyncEvent s f type info log enable (postAer f)) s

/-- Asynchronous event information of a Critical Warning bit (the standard's SMART / Health values, PRESUMED, log entry 21). -/
def warningInfo : Nat → Nat
  | 0 => 2
  | 1 => 1
  | _ => 0

/-- Set a Critical Warning bit; the change from 0 to 1 raises the asynchronous event in every function that enables it. -/
def setWarning (s : State) (bit : Nat) : State :=
  if s.host.criticalWarning.getLsbD bit then s
  else asyncAll { s with host := { s.host with criticalWarning := s.host.criticalWarning ||| (1#32 <<< bit) } } 1
    (warningInfo bit) 2 bit

/-- Clear a Critical Warning bit. -/
def clearWarning (s : State) (bit : Nat) : State :=
  { s with host := { s.host with criticalWarning := s.host.criticalWarning &&& ~~~ (1#32 <<< bit) } }

/-! ### Meters and counters (R407 to R410) -/

/-- Change the meter of a function (65,535 is the background meter). -/
def updMeter (s : State) (fn : Nat) (g : Meter → Meter) : State :=
  { s with tel := { s.tel with meters := tblUpd meterDefault fn g s.tel.meters } }

/-- Change the counters of a function and class. -/
def updClass (s : State) (fn cls : Nat) (g : ClassCtr → ClassCtr) : State :=
  { s with tel := { s.tel with classCtr := tblUpd classDefault (fn, cls) g s.tel.classCtr } }

/-- Change the function block of R410. -/
def updFnCtr (s : State) (fn : Nat) (g : FnCtr → FnCtr) : State :=
  { s with tel := { s.tel with fnCtr := tblUpd fnCtrDefault fn g s.tel.fnCtr } }

/-- An unsupported BAR access, a register write rejected, a mailbox error (0x0023, R211, R236, R244). -/
def accessError (s : State) (fn offset kind : Nat) : State :=
  recordEvent s 0x0023 2 2 fn (leBytes 2 fn ++ leBytes 4 offset ++ leBytes 1 kind)

end Sys2Proof.Machine
end

