-- ==== Sys2Proof/Machine/Faults.lean ====
section
/-! DEFINITION. Shared fault operations: sources, counting, severity, service class, ALIVE conditions and the single-fault
allowance (R105 to R107, R314 to R322, R326, R327; Table 14.1). -/

namespace Sys2Proof.Machine

/-- The record of a fault source. -/
def faultSrc (s : State) (i : Nat) : FaultSrc := tblGet srcDefault i s.flt.srcs

/-- Change the record of a fault source. -/
def updSrc (s : State) (i : Nat) (f : FaultSrc → FaultSrc) : State :=
  { s with flt := { s.flt with srcs := tblUpd srcDefault i f s.flt.srcs } }

/-- Offset of a DRAM source in its channel's six (Table 14.1, 279 to 290). -/
def dramSrcOff (i : Nat) : Nat := (i - 279) % 6

/-- Fault source index of a DRAM channel (279 + 6d plus the offset). -/
def dramSrc (chB : Bool) (off : Nat) : Nat := 279 + (if chB then 6 else 0) + off

/-- Threshold at reset as (N, T in ms) (Table 14.1); T is 1,000 where the table gives none (DESIGN CHOICE, log entry 22). -/
def resetThreshold (i : Nat) : Nat × Nat :=
  if i < 256 then
    match i % 8 with
    | 0 => (0, 1000)
    | 3 => (0, 1000)
    | 4 => (64, 1000)
    | 7 => (4, 1000)
    | _ => (16, 1000)
  else if i ≤ 272 then (4, 1000)
  else if i ≤ 278 then (16, 1000)
  else if i ≤ 290 then
    match dramSrcOff i with
    | 0 => (64, 1000)
    | 1 => (4, 86400000)
    | 4 => (1, 1000)
    | _ => (0, 1000)
  else if i = 291 then (16, 1000)
  else if i ≤ 303 then (2, 2592000000)
  else match i with
    | 304 => (8, 3600000)
    | 310 => (8, 1000)
    | 311 => (4, 3600000)
    | 313 => (8, 3600000)
    | 315 => (4, 3600000)
    | 316 => (8, 86400000)
    | 317 => (4, 86400000)
    | 319 => (3, 3600000)
    | _ => (1, 1000)

/-- Threshold of a source that a valid override of the fault record gives (R330); of two overrides of one source the later
entry. -/
def overrideOf (p : Profile) (i : Nat) : Option (Nat × Nat) :=
  (List.range 64).foldl (fun a e =>
    let v := profField p 14 (64 + 64 * e) 64
    if bits v 9 1 = 1 && bits v 0 9 = i then some (bits v 16 8, bits v 32 32) else a) none

/-- Threshold in effect: that of Fault Threshold Set (R325), else an override (R330), else that of Table 14.1. -/
def threshold (s : State) (i : Nat) : Nat × Nat := tblGet ((overrideOf s.prof i).getD (resetThreshold i)) i s.flt.thresholds

/-- Interruption bound in µs (Table 14.1). -/
def interruptionBound (i : Nat) : Nat :=
  if i < 256 then (if i % 8 = 4 then 0 else 250)
  else if i ≤ 268 then 0
  else if i = 269 then 300
  else if i = 270 then 200
  else if i ≤ 276 then 250
  else if i ≤ 278 then 500
  else if i ≤ 290 then
    match dramSrcOff i with
    | 0 => 2
    | 1 => 500
    | 4 => 5
    | 5 => 10
    | _ => 0
  else if i = 291 then 250
  else if i ≤ 301 then 300
  else if i ≤ 303 then 200
  else if i = 308 then 500
  else if i = 311 then 250
  else 0

/-- Islands whose severe faults are device-level (Table 01.7, Table 14.1). -/
def deviceIsland (id : Nat) : Bool := [0, 1, 2, 4, 5].contains id

/-- A core out of service: neither active nor standby. -/
def coreIn (c : CoreSt) : Bool := c.st == .active || c.st == .standby

/-- Ridge cores in service (R325). -/
def ridgeIn (s : State) : Nat := countP coreIn s.flt.ridge

/-- Scope of a source when severe: 1 degraded, 2 device-level (Table 14.1). `isl` is the captured island. -/
def sourceScope (s : State) (i isl : Nat) : Nat :=
  if decide (256 ≤ i) && decide (i ≤ 265) then (if deviceIsland (i - 256) then 2 else 1)
  else if i = 268 || i = 270 || i = 271 || i = 307 || i = 312 || i = 318 then 2
  else if i = 302 || i = 303 then (if ridgeIn s = 0 then 2 else 1)
  else if i = 311 then (if deviceIsland isl then 2 else 1)
  else 1

/-- A source that becomes severe at its first event (Table 14.1, "fixed"; source 311 for islands 0x00 to 0x05). -/
def severeAtFirst (i isl : Nat) : Bool := sourceFixed i || (i == 311 && decide (isl ≤ 5))

/-- Some severe source is latched: SEVERE_FAULT of KW_STATE (R317). -/
def anySevere (s : State) : Bool := s.flt.srcs.any (·.2.severe)

/-- Service class: the highest scope among the latched severe sources, 0 when none is (R317). -/
def serviceClass (s : State) : Nat :=
  (s.flt.srcs.filter (·.2.severe)).foldl (fun a e => max a e.2.scope) 0

/-- A latched device-level source sets CSTS.CFS after a restart: every one but 307, the thermal trip (R317, R337). -/
def cfsLatched (s : State) : Bool := s.flt.srcs.any fun e => e.2.severe && e.2.scope == 2 && e.1 != 307

/-- Bytes 0 to 31 of the first-error record (Table 14.2) of a source. -/
def firstErrorBytes (s : State) (i : Nat) : List Byte :=
  let x := faultSrc s i
  let c : Capture := match x.first with
    | some e => e.cap
    | none => ⟨255, 5, 0, 0, 0⟩
  let t := match x.first with
    | some e => e.devTime
    | none => 0
  leBytes 2 i ++ leBytes 1 c.master ++ leBytes 1 c.access ++ leBytes 4 x.count ++ leBytes 8 t ++ leBytes 8 c.address ++
    leBytes 4 c.detail ++ leBytes 1 c.island ++
    leBytes 1 ((if x.severe then 1 else 0) + (if x.first.isSome then 2 else 0)) ++ zeros 2

/-! ### ALIVE (R327) -/

/-- The ALIVE conditions of R327 (the AON island is Gated while its rail is down). -/
def aliveOk (s : State) : Bool :=
  isRunning s 0 && !anySevere s && s.boot.phase != 0 && s.boot.phase != 7 && !s.pins.testMode &&
    (s.flt.kickExempt || s.boot.phase == 6 ||
      match s.flt.aliveKick with
      | some t => decide (now s ≤ t + 20000)
      | none => false)

/-- Drive ALIVE low when a condition has failed (R327). -/
def refreshAlive (s : State) : State :=
  if aliveOk s then s else { s with flt := { s.flt with aliveRun := false, aliveLevel := false } }

/-- SB_LED_FLT_N sinks steadily while a severe source is latched (R440); the blink of PHASE 7 is FAULT_LED_BLINK. -/
def refreshFaultLed (s : State) : State :=
  if anySevere s then { s with pins := { s.pins with ledFltN := false } }
  else if s.boot.phase = 7 then s
  else { s with pins := { s.pins with ledFltN := true } }

/-! ### Severity -/

/-- The channel of a channel source. -/
def srcChannel (i : Nat) : Option Nat := if i < 256 then some (i / 8) else none

/-- Channel record. -/
def chan (s : State) (c : Nat) : ChanSt := tblGet chanDefault c s.fl.channels

/-- Change a channel record. -/
def updChan (s : State) (c : Nat) (f : ChanSt → ChanSt) : State :=
  { s with fl := { s.fl with channels := tblUpd chanDefault c f s.fl.channels } }

/-- Severe reaction of a channel source (R317): the channel drains, is held in reset and brought up again; a second
severe source within 1 h leaves it not Running until the next power-on reset. During a dump or replay the reaction
follows after it (Table 14.7), at the restart's bring-up. -/
def severeChannel (s : State) (c : Nat) : State :=
  let again := match tblFind? c s.flt.lastSevereChannel with
    | some t => decide (opUs s < t + 3600000000)
    | none => false
  let s := { s with flt := { s.flt with lastSevereChannel := tblSet c (opUs s) s.flt.lastSevereChannel } }
  let s := if again then { s with flt := { s.flt with excludedChannels := s.flt.excludedChannels ++ [c] } } else s
  if (isRunning s (chIsland c) || (island s (chIsland c)).st == .stopped) && s.eav.dumpStart.isNone then
    updChan s c fun x => { x with draining := some (x.draining.getD (now s)), severeDrain := true }
  else if again then setIslandState s (chIsland c) .heldInReset
  else s

/-- Reports of a source that becomes severe (Table 14.5, R410): degraded scope a Corrected Internal Error, Critical
Warning bit 2; device-level an Uncorrectable Internal Error and CSTS.CFS in every function. -/
def reportSevere (s : State) (scope : Nat) : State :=
  let s := { s with tel := { s.tel with controllerDataAvailable := true } }
  if scope = 2 then
    let s := { s with host := { s.host with aerUncorrected := s.host.aerUncorrected ++ presentFns s } }
    forEach (presentFns s) (fun f s => updFn s f fun x => { x with cfs := true }) s
  else setWarning { s with host := { s.host with aerCorrected := s.host.aerCorrected + 1 } } 2

/-- A severe fault of a core source counts as caused by the firmware that the core runs (DESIGN CHOICE, log entry 72): the hour of
R267 of that image type starts again. -/
def restartHour (s : State) (i : Nat) : State :=
  let t := if decide (292 ≤ i) && decide (i ≤ 301) then 2 else if i = 302 || i = 303 then 1 else 0
  { s with sec := { s.sec with activeSince := s.sec.activeSince.map fun (e : Nat × Nat) => if e.1 = t then (t, s.tm.opSeconds) else e } }

/-- A source becomes severe (R317): latch, ALIVE stopped, SEVERE_FAULT, event, service class, reports, and the severe
reaction of a channel source. A latched source stays as it is. -/
def makeSevere (s : State) (i isl : Nat) : State :=
  if (faultSrc s i).severe then s
  else
    let sc := sourceScope s i isl
    let s := restartHour (updSrc s i fun x => { x with severe := true, scope := sc }) i
    let s := refreshFaultLed (refreshAlive s)
    let s := recordEvent s 0x0011 (if sc = 2 then 4 else 3) 1 i (firstErrorBytes s i)
    let s := reportSevere s sc
    match srcChannel i with
    | some c => severeChannel s c
    | none => s

/-! ### Counting -/

/-- Latch and count one event (R314, R316, R321, R322), and sever when the window's count reaches N. -/
def countFault (s : State) (i : Nat) (cap : Capture) : State :=
  let x := faultSrc s i
  let (n, t) := threshold s i
  let running := match x.winStart with
    | some w => decide (opUs s < w + t * 1000)
    | none => false
  let wc := if running then x.winCount + 1 else 1
  let cnt := min (x.count + 1) 0xFFFFFFFF
  let s := updSrc s i fun x =>
    { x with bit := true, count := cnt, winStart := if running then x.winStart else some (opUs s), winCount := wc,
             first := match x.first with
               | some e => some e
               | none => some ⟨cap, now s⟩ }
  let s := if cnt = 1 || (cnt - 1) % 2 ^ s.prof.recordStride = 0 then
      recordEvent s 0x0010 2 1 i (firstErrorBytes s i) else s
  if severeAtFirst i cap.island || (decide (0 < n) && decide (n ≤ wc)) then makeSevere s i cap.island
  else if s.prof.cieReport = 1 && (match s.flt.lastCie with
      | some t => decide (t + 10000 ≤ now s)
      | none => true) then
    { s with host := { s.host with aerCorrected := s.host.aerCorrected + 1 }, flt := { s.flt with lastCie := some (now s) } }
  else s

/-! ### Single-fault allowance (R105 to R107) -/

/-- The rebuild of an ID. -/
def rebuildOf (s : State) (id : Nat) : Option Rebuild := s.fl.rebuilds.find? (·.id == id)

/-- A descriptor serves a command. -/
def servesCmd (s : State) (d : Desc) (c : Cmd) : Bool :=
  match d.purpose with
  | .hostRead fn sqid cid _ => fn == c.fn && sqid == c.sqid && cid == c.cid
  | .raMember id _ => match rebuildOf s id with
    | some r => r.fn == c.fn && r.sqid == c.sqid && r.cid == c.cid
    | none => false
  | _ => false

/-- A command's plan uses a channel. -/
def usesChannel (s : State) (ch : Nat) (c : Cmd) : Bool := c.chans.contains ch || s.fl.descs.any fun d => d.ch == ch && servesCmd s d c

/-- A command has work of the Purlin cluster to wait for (R21, R39). -/
def needsPurlin (c : Cmd) : Bool :=
  match c.op with
  | .copy _ _ _ => true
  | .setZoneDescriptorExtension _ _ _ => true
  | _ => !c.accepted && c.lastReason == 0xC8

/-- A command's data goes through a DRAM channel: a write's, or a read's slot that the Loft or the Eaves Buffer serves. -/
def usesDram (c : Cmd) : Bool :=
  (c.write && decide (0 < c.units)) || c.slots.any fun x => !x.seqs.isEmpty || (match x.route with
    | .loft => true
    | .eaves => true
    | .recovered => true
    | _ => false)

/-- A command has a ladder or a soft stage running. -/
def usesSoft (s : State) (c : Cmd) : Bool := s.fl.ladders.any fun l => l.fn == c.fn && l.sqid == c.sqid && l.cid == c.cid

/-- A command's plan uses the element of a source, or an element that the reaction stops (R105): the channel of a channel source; the
Purlin cluster, the key of the Ridge island, the soft decoders, DRAM, staging SRAM and the host path, or an island whose PLL has
lost its lock. -/
def usesSource (s : State) (i isl : Nat) (c : Cmd) : Bool :=
  decide (0 < interruptionBound i) &&
    match srcChannel i with
    | some ch => usesChannel s ch c
    | none =>
      if i = 269 || i = 274 || (292 ≤ i && i ≤ 301) then needsPurlin c
      else if i = 270 || i = 302 || i = 303 then c.keySlot.isSome
      else if i = 272 || i = 276 then usesSoft s c
      else if 279 ≤ i && i ≤ 290 then usesDram c
      else if i = 291 then s.fl.descs.any (servesCmd s · c)
      else if i = 311 && 16 ≤ isl then usesChannel s (isl - 16) c
      else if i = 311 then
        (match isl with
          | 3 => needsPurlin c
          | 6 => usesDram c
          | 7 => usesDram c
          | 8 => usesSoft s c
          | 9 => false
          | _ => true)
      else if i = 308 then true
      else decide (0 < c.units)

/-- The commands outstanding that a fault affects. -/
def affectedBy (s : State) (i isl : Nat) : List (Nat × Nat × Nat) :=
  (s.adm.cmds.filter (usesSource s i isl)).map fun c => (c.fn, c.sqid, c.cid)

/-- Give the affected commands outstanding the single-fault allowance (R105). -/
def markAffected (s : State) (i isl : Nat) : State :=
  { s with adm := { s.adm with cmds := s.adm.cmds.map fun c => if usesSource s i isl c then { c with allowance := true } else c } }

/-- A fault of the last 10 ms affects a command that arrived before its interruption bound ended, whenever it is planned (R105). -/
def meetsFault (s : State) (c : Cmd) (r : OpenFault) : Bool :=
  decide (c.t0 < r.time + interruptionBound r.source) && usesSource s r.source r.island c

/-- A command that arrived before the interruption bound of a fault that its plan meets ended has the allowance too (R105). -/
def lateAffected (s : State) (c : Cmd) : Bool := s.flt.recent.any (meetsFault s c)

/-- Count a command among those that each fault that its plan meets affects (R105, R107). -/
def noteLate (s : State) (c : Cmd) : State :=
  if !lateAffected s c then s
  else { s with flt := { s.flt with recent := s.flt.recent.map fun r =>
                           if meetsFault s c r && !r.affected.contains (c.fn, c.sqid, c.cid) then
                             { r with affected := r.affected ++ [(c.fn, c.sqid, c.cid)] } else r } }

/-- Commands under the allowance that are already past dl + 500 µs. -/
def beyondAllowance (s : State) : Nat := countP (fun c => c.allowance && decide (c.dl + 500 < now s)) s.adm.cmds

/-- Two faults within 10 ms while commands affected by the first are outstanding (R107): event 0x0013 and source 319. -/
def multipleFault (s : State) (i : Nat) (cap : Capture) : State :=
  match s.flt.recent.find? (fun r => decide (now s < r.time + 10000) &&
      s.adm.cmds.any fun c => c.allowance && r.affected.contains (c.fn, c.sqid, c.cid)) with
  | some r => countFault (recordEvent s 0x0013 3 1 319 (leBytes 2 r.source ++ leBytes 2 i ++ leBytes 4 (beyondAllowance s))) 319 cap
  | none => s

/-! ### Planned steps (R413) -/

/-- A planned step may begin: 10 ms have passed since the last fault was detected and since the last planned step ended. -/
def plannedOk (s : State) : Bool :=
  !(s.flt.recent.any fun r => decide (now s < r.time + 10000)) && (match s.flt.lastPlannedEnd with
    | some t => decide (t + 10000 ≤ now s)
    | none => true)

/-- A planned step that pauses an element: it is the one event of R105 for the commands outstanding. -/
def plannedStep (s : State) : State :=
  { s with adm := { s.adm with cmds := s.adm.cmds.map fun c => { c with allowance := true } },
           flt := { s.flt with lastPlannedEnd := some (now s) } }

/-- One event of a fault source (R314): status bit, count, first error, severity, multiple faults, and the allowance of
the commands it affects; a Battened part wakes (R398). Source 307, the thermal trip, is no fault under R105. A source index outside Table 14.1 has no
event. -/
def raiseFault (s : State) (i : Nat) (cap : Capture) : State :=
  if 320 ≤ i || !isRunning s 0 then s
  else
    let s := countFault s i cap
    if i = 307 || i = 319 then s
    else
      let hit := affectedBy s i cap.island
      let s := beginWake (markAffected (multipleFault s i cap) i cap.island) .fault
      { s with flt := { s.flt with recent := (s.flt.recent.filter fun r => decide (now s < r.time + 10000)) ++
                                              [⟨i, now s, cap.island, hit⟩] } }

/-- Capture of an event (Table 14.2): master, access, address, detail, island. Sources without an address or a detail of
their own hold 0 there (DESIGN CHOICE, log entry 22). -/
def capOf (master access address detail island : Nat) : Capture := ⟨master, access, address, detail, island⟩

end Sys2Proof.Machine
end

