-- ==== Sys2Proof/Machine/HmpOps.lean ====
section
/-! DEFINITION. Shared operations of the Haore Mailbox Protocol: the gate that every request passes, answers, operation
handles (R227 to R247). -/

namespace Sys2Proof.Machine

/-- The stream of a request (R228). -/
def streamOf (q : HmpHdr) : Stream := ⟨q.sender, q.transport⟩

/-- SOURCE of a sender (Table 10.2). -/
def sourceField : Sender → Nat
  | .fn f => f
  | .oob _ => 0x0100

/-- A sender as the two bytes of an event payload (widths: DESIGN CHOICE, log entry 23). -/
def senderBytes (x : Sender) : List Byte := leBytes 2 (sourceField x)

/-- The sender is the PF. -/
def isPf : Sender → Bool
  | .fn f => f == 0
  | .oob _ => false

/-- HMP statuses (Table 10.7). -/
abbrev hsSuccess : Nat := 0x0000
abbrev hsStarted : Nat := 0x0001
abbrev hsInvalidOpcode : Nat := 0x0010
abbrev hsNotPermitted : Nat := 0x0011
abbrev hsInvalidHeader : Nat := 0x0012
abbrev hsInvalidLength : Nat := 0x0013
abbrev hsOutOfRange : Nat := 0x0014
abbrev hsBootOnly : Nat := 0x0015
abbrev hsTooSmall : Nat := 0x0016
abbrev hsBusy : Nat := 0x0017
abbrev hsCancelled : Nat := 0x0018
abbrev hsNotCancellable : Nat := 0x0019
abbrev hsDataError : Nat := 0x001A
abbrev hsUnknown : Nat := 0x001B
abbrev hsNotReady : Nat := 0x001C
abbrev hsOverbooked : Nat := 0x0020
abbrev hsConflict : Nat := 0x0021
abbrev hsCryptoFused : Nat := 0x0022
abbrev hsSecureRefused : Nat := 0x0023
abbrev hsInternal : Nat := 0x0030

/-- Purlin cores in the active state. -/
def activeCores (s : State) : Nat := countP (fun c => c.st == .active) s.flt.cores

/-- The Management island counts as not Running (R24, R323): its state, or fewer than four active cores. -/
def mgmtDown (s : State) : Bool := notRunning s 3 || decide (activeCores s < 4)

/-- The Management island takes no request and runs none (R244): not Running, or stopped by Power Loss. -/
def hmpStopped (s : State) : Bool := mgmtDown s || s.hmp.stopped

/-- The 64-byte header of a response (Table 10.2); bit 6 of FLAGS is the ring's PHASE on the BAR transport. -/
def respHeader (r : HmpResp) (dataAddr dataSize : Nat) (phase : Bool) : List Byte :=
  let b := leBytes 1 1 ++ leBytes 1 (1 + (if phase then 64 else 0)) ++ leBytes 2 r.opcode ++ leBytes 4 r.tag ++
    leBytes 2 (sourceField r.stream.sender) ++ leBytes 2 r.status ++ leBytes 4 r.payload.length ++ leBytes 8 dataAddr ++
    leBytes 4 dataSize ++ zeros 4 ++ leBytes 8 r.devtimeRx ++ leBytes 8 (r.devtimeDone.getD 0) ++ leBytes 8 r.detail ++ zeros 4
  b ++ leBytes 4 (crc32c b).toNat

/-- A request of a stream in flight, by TAG. -/
def findReq (s : State) (st : Stream) (tag : Nat) : Option HmpReq :=
  s.hmp.requests.find? fun r => r.stream == st && r.tag == tag

/-- Store an answer (R240). -/
def keepAnswer (s : State) (r : HmpResp) : State := { s with hmp := { s.hmp with answers := s.hmp.answers ++ [r] } }

/-- Hold an answer for HMP Collect (R237). -/
def holdAnswer (s : State) (r : HmpResp) : State := { s with hmp := { s.hmp with held := s.hmp.held ++ [r] } }

/-- The answer of an HMP Exchange completes its command. -/
def endExchange (s : State) (fn : Nat) (w : AdmWait) (r : HmpResp) : State :=
  postCompletion { s with hmp := { s.hmp with exchanges := s.hmp.exchanges.erase w } } fn 0 w.cid .success r.status
    (respHeader r 0 0 false ++ r.payload) [] none

/-- An answer that an HMP Collect waits for completes it; one that its buffer does not take stays held. -/
def endCollect (s : State) (fn : Nat) (c : CollectSt) (r : HmpResp) : State :=
  let s := { s with hmp := { s.hmp with collects := s.hmp.collects.erase c } }
  if c.room < 64 + r.payload.length then postCompletion (holdAnswer s r) fn 0 c.cid .success hsTooSmall [] [] none
  else postCompletion s fn 0 c.cid .success (r.status + 2 ^ 31) (respHeader r 0 0 false ++ r.payload) [] none

/-- Deliver the response of a posted request: to the Collect that waits for it, else it is held. -/
def deliverPost (s : State) (fn : Nat) (r : HmpResp) : State :=
  match s.hmp.collects.find? (fun c => c.fn == fn && (c.tag == r.tag || c.tag == 0xFFFFFFFF)) with
  | some c => endCollect s fn c r
  | none => holdAnswer s r

/-- Deliver the response of an HMP Exchange, where its command still waits. -/
def deliverExchange (s : State) (fn cid : Nat) (r : HmpResp) : State :=
  match s.hmp.exchanges.find? (fun w => w.fn == fn && w.cid == cid) with
  | some w => endExchange s fn w r
  | none => s

/-- A response as delivered now; the copy of a stored one has its DEVTIME_DONE (R240). -/
def doneNow (s : State) (r : HmpResp) : HmpResp := { r with devtimeDone := some (r.devtimeDone.getD (now s)) }

/-- Function of a sender, 0 for an endpoint. -/
def senderFn : Sender → Nat
  | .fn f => f
  | .oob _ => 0

/-- Endpoint of a sender, 0 for a function. -/
def senderEid : Sender → Nat
  | .fn _ => 0
  | .oob e => e

/-- Payload bytes that a response's place takes (R235): DATA_SIZE, the MCTP limit, the HMP limit, the Exchange's buffer. -/
def RespDest.room : RespDest → Nat
  | .bar _ _ n => n
  | .mctp _ => 4096
  | .post => 1048576
  | .exchange _ n => n

/-- A response as a place takes it: without its payload, as Buffer Too Small, where the payload is longer (R235). -/
def fitTo (d : RespDest) (r : HmpResp) : HmpResp :=
  if d.room < r.payload.length then { r with status := hsTooSmall, detail := r.payload.length, payload := [] } else r

/-- The MCTP message that carries a response (R238): vendor ID, most significant byte first, header with HDR_CRC, payload; to the
source endpoint, with the same message tag and Tag Owner 0. -/
def mctpMsg (r : HmpResp) (msgTag : Nat) : MctpOut :=
  { eid := senderEid r.stream.sender, msgTag := msgTag, tagOwner := false, msgType := 0x7E,
    body := [0x1F, 0x6B] ++ respHeader r 0 0 false ++ r.payload }

/-- Deliver a response to a request's place: the BAR engine posts it later (MAILBOX_RESPONSE_POST), a posted admin request's answer
is held for HMP Collect, an HMP Exchange completes, MCTP sends at once. -/
def deliverTo (s : State) (rq : HmpReq) (copy : Bool) (r : HmpResp) : State :=
  match rq.dest with
  | .bar _ _ _ => { s with hmp := { s.hmp with toPost := s.hmp.toPost ++ [⟨rq, r, copy⟩] } }
  | .mctp tag => { s with hmp := { s.hmp with mctpOut := s.hmp.mctpOut ++ [mctpMsg (doneNow s r) tag] } }
  | .post => deliverPost s (senderFn r.stream.sender) (doneNow s r)
  | .exchange cid _ => deliverExchange s (senderFn r.stream.sender) cid (doneNow s r)

/-- A response goes to a duplicate of its request (R240). -/
def deliverCopy (s : State) (rq : HmpReq) (r : HmpResp) (d : RespDest) : State :=
  deliverTo s { rq with dest := d, copies := [] } true (fitTo d r)

/-- The response as it is stored for duplicates (R240): a BAR response is posted later. -/
def storedResp (s : State) (rq : HmpReq) (r : HmpResp) : HmpResp :=
  match rq.dest with
  | .bar _ _ _ => r
  | _ => doneNow s r

/-- The request leaves the engine. -/
def dropReq (s : State) (st : Stream) (tag : Nat) : State :=
  { s with hmp := { s.hmp with requests := s.hmp.requests.filter fun x => !(x.stream == st && x.tag == tag) } }

/-- A place for the response to a request that no transport has brought: of the size that the request's header names. -/
def looseDest (q : HmpHdr) : RespDest :=
  match q.transport with
  | .bar => .bar 0 0 q.room
  | .admin => .post
  | .mctp => .mctp 0

/-- The request in flight that a header stands for, or one with nothing but the header where no transport has brought it. -/
def reqOf (s : State) (q : HmpHdr) (op : Nat) : HmpReq :=
  match findReq s (streamOf q) q.tag with
  | some r => r
  | none => { stream := streamOf q, tag := q.tag, opcode := op, length := q.length, payload := [], barrier := q.barrier, devtimeRx := now s,
              order := s.hmp.nextOrder, rights := s.prof.oobRights, dest := looseDest q, copies := [], discard := false }

/-- A response to a request, before it is posted (Table 10.2). -/
def respTo (rq : HmpReq) (op status detail : Nat) (payload : List Byte) : HmpResp :=
  { stream := rq.stream, tag := rq.tag, opcode := op, status := status, detail := detail, payload := payload, devtimeRx := rq.devtimeRx,
    devtimeDone := none }

/-- A reset of the function has discarded the request's response (R244). -/
def discarded (s : State) (q : HmpHdr) : Bool := (findReq s (streamOf q) q.tag).any (·.discard)

/-- Opcodes of requests that change device state (Table 10.6). -/
def writingOp (op : Nat) : Bool :=
  [0x0003, 0x0101, 0x0201, 0x0202, 0x0303, 0x0401, 0x0402, 0x0403, 0x0404, 0x0406, 0x0501, 0x0502, 0x0602, 0x0603, 0x0702, 0x0704,
   0x0706, 0x0802, 0x0901].contains op

/-- The state with the response of a writing request in the journal, before anything is posted (R242). -/
def journalled (s : State) (r : HmpResp) : State :=
  if writingOp r.opcode then { s with hmp := { s.hmp with journal := s.hmp.journal ++ [r] } } else s

/-- Ring slot of a request, 0 for a request of another transport. -/
def reqSlot (rq : HmpReq) : Nat :=
  match rq.dest with
  | .bar n _ _ => n
  | _ => 0

/-- Respond to a request (R240, R242): the response is journalled where the request writes, stored, and delivered to the request's
place and those of its duplicates. -/
def respond (s : State) (rq : HmpReq) (r : HmpResp) : State :=
  let s := keepAnswer (journalled s r) (storedResp s rq r)
  forEach rq.copies (fun d s => deliverCopy s rq r d) (deliverTo s { rq with copies := [] } false r)

/-- Answer a request (R241): the request leaves the requests in flight. A response that a reset of the function discards is only
recorded (R244). -/
def answer (s : State) (q : HmpHdr) (op status detail : Nat) (payload : List Byte) : State :=
  let rq := reqOf s q op
  let s' := dropReq s (streamOf q) q.tag
  if discarded s q then accessError s' (senderFn q.sender) (reqSlot rq) 2
  else respond s' rq (respTo rq op status detail payload)

/-- Answer with a payload, or Buffer Too Small with the required size when the sender's buffer does not take it (R235). -/
def reply (s : State) (q : HmpHdr) (op : Nat) (payload : List Byte) : State :=
  if q.room < payload.length then answer s q op hsTooSmall payload.length [] else answer s q op hsSuccess 0 payload

/-- A writing request has been applied: Success. -/
def hmpDone (s : State) (q : HmpHdr) (op : Nat) : State := answer s q op hsSuccess 0 []

/-- Reject a configuration write with the field's byte offset in DETAIL, and record it (R10, R245, event 0x0020). -/
def rejectWrite (s : State) (q : HmpHdr) (op status offset : Nat) : State :=
  answer (recordEvent s 0x0020 2 0 3 (leBytes 2 (op / 256) ++ leBytes 4 offset ++ senderBytes q.sender ++ leBytes 2 status))
    q op status offset []

/-- Who may send an opcode (Table 10.6): VFs; out-of-band endpoints, under a bit of OOB_RIGHTS where one is named. -/
structure Senders where
  vf : Bool
  oob : Bool
  right : Option Nat
  deriving DecidableEq, Repr

abbrev sendPf : Senders := ⟨false, false, none⟩
abbrev sendPfVf : Senders := ⟨true, false, none⟩
abbrev sendPfOob : Senders := ⟨false, true, none⟩
abbrev sendAll : Senders := ⟨true, true, none⟩
abbrev sendPfOobR (r : Nat) : Senders := ⟨false, true, some r⟩

/-- The sender may use the opcode (R208, R245), by OOB_RIGHTS as it was when the engine took the request (R248). -/
def permitted (rights : Nat) (who : Senders) : Sender → Bool
  | .fn f => f == 0 || who.vf
  | .oob _ => who.oob && (match who.right with
      | some r => bits rights r 1 == 1
      | none => true)

/-- What an opcode requires before its body runs. -/
structure HmpRule where
  op : Nat
  who : Senders
  early : Bool
  crypto : Bool
  len : Option Nat
  deriving DecidableEq, Repr

/-- First objection of the gate, as (status, DETAIL): sender rights, crypto fused off, PHASE below 5, LENGTH (R244, R245).
The restricted phase answers as start-up does (R394, DEDUCED, log entry 24). -/
def hmpGate (s : State) (q : HmpHdr) (r : HmpRule) : Option (Nat × Nat) :=
  if !permitted (reqOf s q r.op).rights r.who q.sender then some (hsNotPermitted, 0)
  else if r.crypto && s.sec.cryptoDisable then some (hsCryptoFused, 0)
  else if !r.early && (decide (s.boot.phase < 5) || s.boot.phase == 7) then some (hsNotReady, s.boot.phase)
  else match r.len with
    | some n => if q.length = n then none else some (hsInvalidLength, n)
    | none => none

/-- Form B of the restricted phase (R394): the Ridge ROM answers MCTP requests, unless it is halted (reason 0x01). -/
def romAnswers (s : State) (q : HmpHdr) : Bool := q.transport == .mctp && s.boot.reason != 1

/-- A response to an earlier request of the stream waits for its posting. -/
def unposted (s : State) (r : HmpReq) : Bool := s.hmp.toPost.any fun p => p.req.stream == r.stream && decide (p.req.order < r.order)

/-- A request's turn in its stream has not come (R239): requests start in stream order, Cancel apart, and one with BARRIER only when
every earlier request has been answered. A request that no transport has taken is in no stream's way. -/
def outOfTurn (s : State) (q : HmpHdr) (op : Nat) : Bool :=
  let mine := s.hmp.requests.filter fun r => r.stream == streamOf q
  op != 0x0003 && match mine.findIdx? fun r => r.tag == q.tag with
    | some i => ((mine.take i).any fun r => r.opcode != 0x0003) || (mine.getD i (reqOf s q op)).barrier && unposted s (reqOf s q op)
    | none => false

/-- Rank of a transport among requests taken in one microsecond (R239): BAR mailbox, admin, MCTP. -/
def transportRank : Transport → Nat
  | .bar => 0
  | .admin => 1
  | .mctp => 2

/-- Request `r` precedes `q` in the order of R239: DEVTIME_RX, transport, lower function number. -/
def takenBefore (r q : HmpReq) : Bool :=
  let k (x : HmpReq) : Nat × Nat × Nat := (x.devtimeRx, transportRank x.stream.transport, sourceField x.stream.sender)
  decide ((k r).1 < (k q).1) || decide ((k r).1 = (k q).1) &&
    (decide ((k r).2.1 < (k q).2.1) || decide ((k r).2.1 = (k q).2.1) && decide ((k r).2.2 < (k q).2.2))

/-- The kind of object that a writing request touches: a die or its channel (Die Retire, Channel Recalibrate, Microcode Load), a Board
Profile record (Board Profile Update, Pool Quota Set, Fault Threshold Set), else the opcode's own. -/
def objectClass (op : Nat) : Nat :=
  if op = 0x0401 || op = 0x0402 then 0x0303 else if op = 0x0901 || op = 0x0602 then 0x0406 else op

/-- A writing request waits for a writing request of another stream that precedes it and touches the same object (R239); requests of
one kind of object count as touching the same one (DESIGN CHOICE, log entry 100). -/
def behindOther (s : State) (q : HmpHdr) (op : Nat) : Bool :=
  op != 0x0003 && writingOp op && match findReq s (streamOf q) q.tag with
    | some mine => s.hmp.requests.any fun r => r.stream != mine.stream && r.opcode != 0x0003 && writingOp r.opcode &&
        objectClass r.opcode == objectClass op && takenBefore r mine
    | none => false

/-- The active Ridge core takes requests: its island runs, and one core is active. -/
def ridgeUp (s : State) : Bool := isRunning s 4 && s.flt.ridge.any fun c => c.st == .active

/-- A request of family 0x05 waits for the active Ridge core, to which the engine passes it (R253, R269). -/
def awaitsRidge (s : State) (op : Nat) : Bool := op / 256 == 5 && !ridgeUp s

/-- Run a request. In form B of the restricted phase the ROM serves Version Query and Fault Snapshot over MCTP and answers
Not Ready to the rest (R394). Otherwise nothing while the Management island runs none (the request waits, R244), or a request of
family 0x05 waits for a Ridge core, the
gate's objection, or the body. -/
def hmpServe (s : State) (q : HmpHdr) (r : HmpRule) (body : State → State) : State :=
  if s.boot.phase == 7 && s.boot.formB then
    if !romAnswers s q then s
    else if r.op = 0x0001 || r.op = 0x0601 then body s
    else answer s q r.op hsNotReady 7 []
  else if hmpStopped s || outOfTurn s q r.op || behindOther s q r.op || awaitsRidge s r.op then s
  else match hmpGate s q r with
    | some (st, d) => answer s q r.op st d []
    | none => body s

/-- The gate passes: outside form B of the restricted phase, the Management island runs, the request's turn has come in
its stream and among the streams, the active Ridge core serves family 0x05, and the gate has no objection. -/
def hmpPasses (s : State) (q : HmpHdr) (r : HmpRule) : Prop :=
  (s.boot.phase == 7 && s.boot.formB) = false ∧ hmpStopped s = false ∧ outOfTurn s q r.op = false ∧ behindOther s q r.op = false ∧
    awaitsRidge s r.op = false ∧ hmpGate s q r = none

/-- "VF own" (Table 10.6): a VF may name only its own function. -/
def ownFn (x : Sender) (f : Nat) : Bool :=
  match x with
  | .fn g => g == 0 || g == f
  | .oob _ => true

/-! ### Long operations (R241) -/

/-- Handles a sender holds. -/
def liveHandles (s : State) (x : Sender) : Nat := countP (fun h => h.sender == x) s.hmp.handles

/-- The state with a new handle of a running long operation. Its final status while it runs is shown as Started (DESIGN CHOICE, log
entry 129). -/
def withHandle (s : State) (q : HmpHdr) (op : Nat) : State :=
  { s with hmp := { s.hmp with
      nextHandle := (s.hmp.nextHandle + 1) % 2 ^ 32,
      handles := s.hmp.handles ++ [{ sender := q.sender, transport := q.transport, tag := q.tag, handle := s.hmp.nextHandle, opcode := op, state := 0, progress := 0,
                                     status := hsStarted, detail := 0, endedAt := none }] } }

/-- Start a long operation: Busy with 64 live handles, else a new handle, Started, and the operation's own start. -/
def startLong (s : State) (q : HmpHdr) (op : Nat) (f : State → Nat → State) : State :=
  if 64 ≤ liveHandles s q.sender then answer s q op hsBusy 0 []
  else answer (f (withHandle s q op) s.hmp.nextHandle) q op hsStarted s.hmp.nextHandle []

/-- End a long operation: state 1 done or 2 failed, with its final status and DETAIL. -/
def endLong (s : State) (x : Sender) (h status detail : Nat) : State :=
  let upd : HandleSt → HandleSt := fun e =>
    if e.sender == x && e.handle == h then
      { e with state := if status = 0 then 1 else 2, progress := if status = 0 then 100 else e.progress, status := status,
               detail := detail, endedAt := some (now s) }
    else e
  { s with hmp := { s.hmp with handles := s.hmp.handles.map upd } }

/-- Start a long operation that fails at its first check: Started, then ended failed. -/
def startFailed (s : State) (q : HmpHdr) (op status detail : Nat) : State :=
  startLong s q op fun s h => endLong s q.sender h status detail

/-- End the long operation that a piece of state names, if any. -/
def endLong? (s : State) (o : Option (Sender × Nat)) (status detail : Nat) : State :=
  match o with
  | some (x, h) => endLong s x h status detail
  | none => s

/-- Set the progress of a long operation, in percent. -/
def progressLong (s : State) (x : Sender) (h pct : Nat) : State :=
  let upd : HandleSt → HandleSt := fun e => if e.sender == x && e.handle == h then { e with progress := pct } else e
  { s with hmp := { s.hmp with handles := s.hmp.handles.map upd } }

/-! ### What the journal gives back (R242, R244) -/

/-- Put a request into a list by its place in the order of taking. -/
def insertReq (r : HmpReq) : List HmpReq → List HmpReq
  | [] => [r]
  | x :: l => if r.order < x.order then r :: x :: l else x :: insertReq r l

/-- A response not yet posted is posted again: that of a writing request, which the journal holds, and a copy for a duplicate of a
request whose own response has been posted. -/
def rePosted (s : State) (p : Posting) : Bool :=
  writingOp p.resp.opcode || (p.copy && !s.hmp.toPost.any fun x => !x.copy && x.req.stream == p.req.stream && x.req.tag == p.req.tag)

/-- The response of a posting as the journal has it. -/
def fromJournal (s : State) (p : Posting) : Posting :=
  match s.hmp.journal.find? fun r => r.stream == p.resp.stream && r.tag == p.resp.tag && r.opcode == p.resp.opcode &&
      r.devtimeRx == p.resp.devtimeRx with
  | some r => if p.copy then p else { p with resp := r }
  | none => p

/-- Other cores take over what was running (R242): journalled responses are posted again, and every other taken request runs from the
start, with the duplicates that wait for it. -/
def resumeHmp (s : State) : State :=
  let again := (s.hmp.toPost.filter fun p => !p.copy && !rePosted s p).map fun p =>
    { p.req with copies := (s.hmp.toPost.filter fun x => x.copy && x.req.stream == p.req.stream && x.req.tag == p.req.tag).map (·.req.dest) }
  let rerun (r : HmpResp) : Bool := r.devtimeDone.isNone && again.any fun q => q.stream == r.stream && q.tag == r.tag
  { s with hmp := { s.hmp with toPost := (s.hmp.toPost.filter (rePosted s)).map (fromJournal s),
                               answers := s.hmp.answers.filter (fun r => !rerun r),
                               requests := again.foldr insertReq s.hmp.requests } }

/-- Fixed rule of an opcode that carries no crypto and runs only from PHASE 5. -/
abbrev rule (op : Nat) (who : Senders) (len : Option Nat) : HmpRule := ⟨op, who, false, false, len⟩

end Sys2Proof.Machine
end

