-- ==== Sys2Proof/Machine/Images.lean ====
section
/-! DEFINITION. Images in the SPI NOR (R264 to R267): their validity, the copy that loads, and the image in use. -/

namespace Sys2Proof.Machine

/-- Floor of an image type (Table 11.10). -/
def svnFloor (s : State) (t : Nat) : Nat := if t ≤ 3 then s.sec.svnFw else s.sec.svnProfile

/-- The key index is one the type may carry (R265), and its key is not revoked (R264). -/
def keyAllowed (s : State) (h : ImageHdr) : Bool :=
  if h.keyIndex < 4 then (decide (h.type ≤ 3) || (h.type == 5 && !s.sec.integLock)) && bits s.sec.kazokRevoke h.keyIndex 1 == 0
  else decide (h.keyIndex < 6) && decide (4 ≤ h.type) && s.sec.integLock && bits s.sec.integRevoke (h.keyIndex - 4) 1 == 0

/-- An image is valid (R264). -/
def imageValid (s : State) (t : Nat) (h : ImageHdr) : Bool :=
  h.type == t && h.verified && keyAllowed s h && decide (svnFloor s t ≤ h.svn)

/-- The stored copy that loads (R264): copy A when it is valid, copy B otherwise. -/
def imageFor (s : State) (t : Nat) : Option ImageCopy :=
  match (tblFind? t s.sec.copyA).filter fun c => imageValid s t c.hdr with
  | some c => some c
  | none => (tblFind? t s.sec.copyB).filter fun c => imageValid s t c.hdr

/-- INTEG_REVOKE after an image of type 0x04 or 0x05 comes into use: an integrator image programs the bit of the other key
(Table 11.10; DEDUCED, log entry 72). -/
def revoked (s : State) (h : ImageHdr) : Nat :=
  let other := 1 - (h.keyIndex - 4)
  if decide (4 ≤ h.type) && decide (4 ≤ h.keyIndex) && bits h.revoke other 1 == 1 then setBits s.sec.integRevoke other 1 1
  else s.sec.integRevoke

/-- An image comes into use: its hour of R267 starts with it. -/
def activate (s : State) (t : Nat) (h : ImageHdr) : State :=
  if tblFind? t s.sec.active == some h then s
  else { s with sec := { s.sec with active := tblSet t h s.sec.active, activeSince := tblSet t s.tm.opSeconds s.sec.activeSince,
                                    integRevoke := revoked s h } }

/-- The microcode that a channel loads comes into use (R137, R418); without MICROCODE_ID there is none. -/
def useMicrocode (s : State) : State :=
  match imageFor s 3 with
  | some c => activate s 3 c.hdr
  | none => s

/-- VERSION of the microcode that loads now. -/
def microcodeVersion (s : State) : Nat := ((imageFor s 3).map (·.hdr.version)).getD 0

end Sys2Proof.Machine
end

