-- ==== Sys2Proof/Machine/Geo.lean ====
section
/-! DEFINITION. Geometry: the figures of the die profile (R26), bays and dies (R32, R33), placement in a zone (R34, R35),
dies, thatches, zones, namespaces and bay sets as the shared operations read them, promised widths (R57, R58). -/

namespace Sys2Proof.Machine

/-! ### Figures of the die profile (Table 02.1) -/

/-- Chip enable of a die slot's package (Table 06.2). -/
def chipEnable (k : Nat) : Nat := k / 16 / 4

/-- Volume address of a die slot's package on its chip enable (Table 06.2). -/
def volumeAddr (k : Nat) : Nat := k / 16 % 4

/-- LUN address of a die slot (Table 06.2). -/
def lunAddr (k : Nat) : Nat := k % 16

/-- Yealm Y in bytes: n_p × b × 16 KiB. -/
def yealm (p : Profile) : Nat := p.planes * p.zoneBits * 16384

/-- Bytes of an LDPC codeword on the media (Table 07.1). -/
abbrev codewordBytes : Nat := 4608

/-- pSLC yealm in bytes. -/
def pslcYealm (p : Profile) : Nat := p.planes * 16384

/-- Die block data B in bytes: L × Y. -/
def blockData (p : Profile) : Nat := p.wordlines * yealm p

/-- pSLC data of a die block. -/
def pslcBlock (p : Profile) : Nat := p.wordlines * pslcYealm p

/-- Capacity of a thatch of width `w` in 4 KiB units: (w − 1) × B. -/
def capUnits (p : Profile) (w : Nat) : Nat := (w - 1) * blockData p / 4096

/-- Zone size: 2 GiB in 4 KiB units (Table 02.4). -/
def zoneUnits : Nat := 524288

/-- Dies per channel of a half (R33). -/
def diesPerCh (p : Profile) (h : Nat) : Nat := if h = 0 then p.diesH0 else if h = 1 then p.diesH1 else 0

/-- Number N of populated dies. -/
def population (p : Profile) : Nat := 16 * (p.diesH0 + p.diesH1)

/-- Number C of populated channels (R187). -/
def populatedChannels (p : Profile) : Nat := (if p.diesH0 = 0 then 0 else 16) + (if p.diesH1 = 0 then 0 else 16)

/-- Bay `b` exists (R33). -/
def bayExists (p : Profile) (b : Nat) : Bool := decide (b < 256) && decide (b % 128 < diesPerCh p (b / 128))

/-- The bays that exist, ascending. -/
def baysOf (p : Profile) : List Nat := (List.range 256).filter (bayExists p)

/-- Die number of the member at position `i` of bay `b` (R32). -/
def bayDie (b i : Nat) : DieNo := 128 * (16 * (b / 128) + i) + b % 128

/-- Bay of a die (R134). -/
def dieBay (d : DieNo) : Nat := 128 * (d / 128 / 16) + d % 128

/-- The die that holds copy `k` (1 or 2) of a member's Underlay data: at the member's own position + k, mod 16 (R191). -/
def underlayDie (d : DieNo) (k : Nat) : DieNo := bayDie (128 * (d / 128 / 16) + d % 128) ((d / 128 % 16 + k) % 16)

/-- Channel of a die. -/
def dieCh (d : DieNo) : Nat := d / 128

/-- Package of a die on its channel (R32). -/
def diePkg (d : DieNo) : Nat × Nat := (d / 128, d % 128 / 16)

/-- A die number names a populated slot (R33). -/
def diePopulated (p : Profile) (d : DieNo) : Bool := decide (d < 4096) && bayExists p (dieBay d)

/-- Every populated die, in channel order. -/
def populatedDies (p : Profile) : List DieNo := (List.range 4096).filter (diePopulated p)

/-! ### Placement in a zone (R34, R35) -/

/-- Where a 4 KiB unit of a thatch of width `w` lies: course, position, page in the yealm, plane, level, codeword. -/
structure Place where
  course : Nat
  pos : Nat
  page : Nat
  plane : Nat
  level : Nat
  cw : Nat
  deriving DecidableEq, Repr

/-- Position of the spar in course `c` (R34). -/
def sparPos (w c : Nat) : Nat := c % w

/-- Position of data member `m` in course `c` (R34). -/
def memberPos (w c m : Nat) : Nat := (c + 1 + m) % w

/-- Placement of the unit at zone unit offset `u` (R35). -/
def place (p : Profile) (w u : Nat) : Place :=
  let cd := (w - 1) * yealm p
  let x := u * 4096
  let c := x / cd
  let y := x % cd
  let sl := y / 16384
  let m := sl % (w - 1)
  let pg := sl / (w - 1)
  { course := c, pos := memberPos w c m, page := pg, plane := pg % p.planes, level := pg / p.planes,
    cw := y % 16384 / 4096 }

/-! ### Dies and packages -/

/-- A die's record. -/
def die (s : State) (d : DieNo) : DieSt := tblGet dieDefault d s.fl.dies

/-- Change a die's record. -/
def updDie (s : State) (d : DieNo) (f : DieSt → DieSt) : State :=
  { s with fl := { s.fl with dies := tblUpd dieDefault d f s.fl.dies } }

/-- A package's record. -/
def pkg (s : State) (k : Nat × Nat) : PkgSt := tblGet pkgDefault k s.fl.pkgs

/-- Change a package's record. -/
def updPkg (s : State) (k : Nat × Nat) (f : PkgSt → PkgSt) : State :=
  { s with fl := { s.fl with pkgs := tblUpd pkgDefault k f s.fl.pkgs } }

/-- A die out of service for good or for the power cycle, calibrating, or in a package out of service (R125, R135, R155). -/
def dieOut (s : State) (d : DieNo) : Bool :=
  let x := die s d
  x.retired || x.causeOut.isSome || x.calibrating || (pkg s (diePkg d)).out

/-- A die that takes senses and programs: in service, on a Running channel that does not drain (R24, R156). -/
def dieUp (s : State) (d : DieNo) : Bool :=
  !dieOut s d && chRunning s (dieCh d) && (chan s (dieCh d)).draining.isNone

/-- Members of a bay in service (Table 03.5): not retired, not out of service, channel Running. -/
def membersUp (s : State) (b : Nat) : Nat := countP (fun i => dieUp s (bayDie b i)) (List.range 16)

/-- A block's record on a die. -/
def block (s : State) (d : DieNo) (k : Nat) : BlockSt := tblGet blockDefault k (die s d).blocks

/-- The 4-byte block record of a die block (Table 07.5), as both DRAM channels hold it. -/
def blockRecord (b : BlockSt) : U32 :=
  BitVec.ofNat 32 (b.shift % 64 + b.band % 8 * 2 ^ 6 + (if b.valid then 2 ^ 9 else 0) + min b.hits 255 * 2 ^ 16)

/-- Change a block's record. -/
def updBlock (s : State) (d : DieNo) (k : Nat) (f : BlockSt → BlockSt) : State :=
  updDie s d fun x => { x with blocks := tblUpd blockDefault k f x.blocks }

/-- Number of the `j`-th good plane block of a plane whose bad plane blocks are `bads`. -/
def nthGood (bads : List Nat) (j : Nat) : Nat :=
  (List.range (bads.length + 1)).foldl (fun e _ => j + countP (fun b => decide (b ≤ e)) bads) j

/-- Plane block of die block `k` in plane `p` (R109): the k-th good one at the last build, block `k` itself where all planes take
one address, or as the die block was formed from orphans. -/
def planeBlock (s : State) (d : DieNo) (k p : Nat) : Nat :=
  let x := die s d
  match tblFind? k x.formed with
  | some l => l.getD p 0
  | none =>
    if s.prof.indepPlaneAddr = 1 then nthGood ((x.builtBad.filter (·.2 == p)).map (·.1)) k else k

/-- The plane blocks of a die block, by plane. -/
def planeBlocks (s : State) (d : DieNo) (k : Nat) : List Nat := (List.range s.prof.planes).map (planeBlock s d k)

/-- An erase of a die block counts on each of its plane blocks; the die block's count is the largest (R110). -/
def countErase (s : State) (d : DieNo) (k : Nat) : State :=
  let ks := (planeBlocks s d k).zipIdx.map fun e => (e.2, e.1)
  let s := updDie s d fun x => { x with planeErases := ks.foldl (fun t i => tblUpd 0 i (· + 1) t) x.planeErases }
  let most := ks.foldl (fun a i => max a (tblGet 0 i (die s d).planeErases)) 0
  updBlock s d k fun b => { b with erases := most }

/-! ### Thatches -/

/-- A thatch. -/
def thatch (s : State) (t : Nat) : ThatchSt := tblGet thatchDefault t s.fl.thatches

/-- Change a thatch. -/
def updThatch (s : State) (t : Nat) (f : ThatchSt → ThatchSt) : State :=
  { s with fl := { s.fl with thatches := tblUpd thatchDefault t f s.fl.thatches } }

/-- Width of a thatch. -/
def ThatchSt.width (t : ThatchSt) : Nat := t.members.length

/-- Members lost for good (Table 02.5). -/
def lostMembers (t : ThatchSt) : Nat := countP (·.lost) t.members

/-- A member that takes a sense now. -/
def memberUp (s : State) (m : MemberSt) : Bool := !m.lost && dieUp s m.die

/-- Courses programmed: wordlines whose last pass has completed on every member. -/
def programmedCourses (t : ThatchSt) : Nat := (minNat? (t.members.map (·.fine))).getD 0

/-! ### Namespaces and zones -/

/-- A namespace by NSID. -/
def nsOf (s : State) (nsid : Nat) : Option NsSt := s.zns.namespaces.find? (·.nsid == nsid)

/-- 4 KiB units per LBA (Table 09.9). -/
def lbaUnits (ns : NsSt) : Nat := if 3 ≤ ns.lbaf then 4 else 1

/-- Size of a namespace in 4 KiB units. -/
def nsUnits (ns : NsSt) : Nat := ns.nsze * lbaUnits ns

/-- Number of zones of a namespace. -/
def nsZones (ns : NsSt) : Nat := nsUnits ns / zoneUnits

/-- Capacity promised to a namespace at its creation, in units (R58). -/
def createdCap (s : State) (nsid : Nat) : Nat := tblGet 0 nsid s.zns.created

/-- A zone; one not listed is Empty with the capacity promised at creation. -/
def zone (s : State) (nsid z : Nat) : ZoneSt := tblGet (zoneDefault (createdCap s nsid)) (nsid, z) s.zns.zones

/-- Change a zone. -/
def updZone (s : State) (nsid z : Nat) (f : ZoneSt → ZoneSt) : State :=
  { s with zns := { s.zns with zones := tblUpd (zoneDefault (createdCap s nsid)) (nsid, z) f s.zns.zones } }

/-- Open states. -/
def ZoneState.isOpen : ZoneState → Bool
  | .implicitOpen => true
  | .explicitOpen => true
  | _ => false

/-- Active states: open or Closed. -/
def ZoneState.isActive : ZoneState → Bool
  | .closed => true
  | z => z.isOpen

/-- Zones listed, as ((NSID, zone), record). -/
def zoneList (s : State) : List ((Nat × Nat) × ZoneSt) := s.zns.zones

/-- A namespace is attached to a function. -/
def attachedTo (ns : NsSt) (f : Nat) : Bool := ns.attached.contains f

/-- Zones of a function that meet a test: those of the namespaces attached to it. -/
def fnZones (s : State) (f : Nat) (p : ZoneSt → Bool) : List ((Nat × Nat) × ZoneSt) :=
  (zoneList s).filter fun e => p e.2 && match nsOf s e.1.1 with
    | some ns => attachedTo ns f
    | none => false

/-- Active and open limit in effect for a function (R38). -/
def limitsOf (s : State) (f : Nat) : Nat × Nat :=
  match tblFind? f s.zns.limits with
  | some l => l
  | none => s.zns.startLimit.getD (s.prof.activeLimitDefault, s.prof.openLimitDefault)

/-- Active zones of a function. -/
def activeZones (s : State) (f : Nat) : Nat := (fnZones s f (·.st.isActive)).length

/-- Open zones of a function. -/
def openZones (s : State) (f : Nat) : Nat := (fnZones s f (·.st.isOpen)).length

/-- The Implicitly Opened zone of a function written least recently (R38). -/
def leastRecentImplicit (s : State) (f : Nat) : Option (Nat × Nat) :=
  ((fnZones s f (fun z => z.st == .implicitOpen)).foldl (fun best e =>
    match best with
    | none => some e
    | some b => if e.2.lastWrite < b.2.lastWrite then some e else some b) none).map (·.1)

/-- Report that a zone's descriptor changed without a command (R60, Changed Zone List): the asynchronous event goes to the
functions the namespace is attached to. -/
def zoneChanged (s : State) (nsid z : Nat) : State :=
  match nsOf s nsid with
  | none => s
  | some ns =>
    forEach ns.attached (fun f s =>
      let s := updFn s f fun x => if x.changedZones.contains (nsid, z) then x else { x with changedZones := x.changedZones ++ [(nsid, z)] }
      asyncEvent s f 2 0xEF 0xBF 27 (postAer f)) s

/-- Report to functions that what Identify says of a namespace, or the list of their namespaces, changed: the Changed Namespace List
(0x04) and its notice (R217; the standard's, PRESUMED, log entry 125). -/
def nsChanged (s : State) (nsid : Nat) (fns : List Nat) : State :=
  forEach fns (fun f s =>
    let s := updFn s f fun x => if x.changedNs.contains nsid then x else { x with changedNs := x.changedNs ++ [nsid] }
    asyncEvent s f 2 0x00 0x04 8 (postAer f)) s

/-! ### Bay sets -/

/-- A bay set. -/
def baySet (s : State) (k : Nat) : BaySetSt := tblGet setDefault k s.zns.sets

/-- A bay set is defined. -/
def setDefined (s : State) (k : Nat) : Bool := (tblFind? k s.zns.sets).isSome

/-- Bay `b` belongs to set `k`. -/
def setHas (s : State) (k b : Nat) : Bool := (baySet s k).bays.testBit b

/-- The bays of a set that exist. -/
def setBays (s : State) (k : Nat) : List Nat := (baysOf s.prof).filter (setHas s k)

/-- Set `k` is granted to function `f`. -/
def setGrants (s : State) (k f : Nat) : Bool := (baySet s k).grants.testBit f

/-- The set a bay belongs to. -/
def bayOwner (s : State) (b : Nat) : Nat :=
  match s.zns.sets.find? (fun e => e.2.bays.testBit b) with
  | some e => e.1
  | none => 0

/-- Bays of the union of the bay-set lists of the namespaces attached to a function (R69). Conventional namespaces lie in
set 0 (R55). -/
def fnBays (s : State) (f : Nat) : List Nat :=
  let sets := (s.zns.namespaces.filter (attachedTo · f)).flatMap fun ns => if ns.zoned then ns.sets.map (·.1) else [0]
  (baysOf s.prof).filter fun b => sets.any fun k => setHas s k b

/-- Zones of all namespaces reserved in a set (R57). -/
def setReserved (s : State) (k : Nat) : Nat :=
  sumNat (s.zns.namespaces.flatMap fun ns => (ns.sets.filter (fun e => e.1 == k)).map (·.2))

/-- Conventional capacity C in bytes (CONV_CAPACITY × 64 GiB). -/
def convBytes (p : Profile) : Nat := p.convCapacity * 68719476736

/-- C_b(w): thatches of width `w` that a bay can build (R57), with b_d of its dies. The largest k with Σ min(b_d, k) ≥ k w;
the sum grows by at most 16 a step and is concave, so the search halves. -/
def bayThatches (bd : List Nat) (w : Nat) : Nat :=
  let ok (k : Nat) : Bool := decide (k * w ≤ sumNat (bd.map (min · k)))
  (List.range 17).foldl (fun a i =>
    let k := a + 2 ^ (16 - i)
    if ok k then k else a) 0

/-- b_d of the dies of a bay; a die out for good counts 0. -/
def bayBd (s : State) (b : Nat) : List Nat :=
  (List.range 16).map fun i => if (die s (bayDie b i)).retired then 0 else (die s (bayDie b i)).bd

/-- Cap_s(w): capacity of a set at a width (R57). -/
def setCap (s : State) (k w : Nat) : Nat := sumNat ((setBays s k).map fun b => bayThatches (bayBd s b) w)

/-- Demand of a set at a width: reservations, and for set 0 the conventional thatches (R57). -/
def setDemand (s : State) (k w : Nat) : Nat :=
  setReserved s k + (if k = 0 then ceilDiv (5 * convBytes s.prof) (4 * ((w - 1) * blockData s.prof)) else 0)

/-- Promised width of a set: the largest width from MIN_WIDTH to 16 whose capacity meets the demand; none if there is
none (R57). -/
def promisedWidth? (s : State) (k : Nat) : Option Nat :=
  ((List.range 17).reverse.filter fun w => decide (s.prof.minWidth ≤ w)).find? fun w => decide (setDemand s k w ≤ setCap s k w)

/-- W_ns: the least promised width over the namespace's sets (R58); a conventional namespace lies in set 0 (R55). -/
def nsWidth (s : State) (ns : NsSt) : Nat :=
  if ns.zoned then (minNat? (ns.sets.map fun e => (baySet s e.1).promised)).getD 16 else (baySet s 0).promised

/-- Capacity promised to a zone of a namespace, in units (R58). -/
def promisedCap (s : State) (ns : NsSt) : Nat := min zoneUnits (capUnits s.prof (nsWidth s ns))

/-- A zone's bound thatch. -/
def zoneThatch (s : State) (z : ZoneSt) : Option ThatchSt := z.thatch.map (thatch s)

/-- In_use of a namespace in a set: its non-Empty zones backed there (R51). -/
def inUse (s : State) (nsid k : Nat) : Nat :=
  countP (fun e => e.1.1 == nsid && e.2.st != .empty && match zoneThatch s e.2 with
    | some t => t.set == k
    | none => false) (zoneList s)

/-- Write pointer at which a zone's thatch ends: a thatch of width w_b ends at (w_b − 1) × B, a zone at its capacity (R49). -/
def thatchEnd (s : State) (z : ZoneSt) : Nat :=
  match zoneThatch s z with
  | some t => min z.cap (capUnits s.prof t.width)
  | none => z.cap

end Sys2Proof.Machine
end

