-- ==== Sys2Proof/Machine/Contracts.lean ====
section
/-! DEFINITION. Contracts, capacities, buckets, meters and slack pools (R62 to R73, R86, R90 to R92). Rates are per second in
millionths where a fraction arises; bucket, meter and pool levels are in millionths. -/

namespace Sys2Proof.Machine

/-! ### Die profile costs (Tables 03.6, 03.8, 03.15) -/

/-- One million: the scale of the levels. -/
abbrev mil : Nat := 1000000

/-- Die time of a page read: t_SUSP_E + t_R + t_RES (R69). -/
def pageCost (p : Profile) : Nat := p.tSuspE + p.tR + p.tRes

/-- Data rate in MT/s (Table 06.12). -/
def dataRateMt (p : Profile) : Nat := 200 * p.dataRate

/-- Read transfer of one codeword in ns, 4,608 bytes (R138). -/
def cwNs (p : Profile) : Nat := if dataRateMt p = 0 then 0 else 1000 * codewordBytes / dataRateMt p

/-- Program transfer of one 16 KiB chunk in ns (R138). -/
def chunkNs (p : Profile) : Nat := if dataRateMt p = 0 then 0 else 18432000 / dataRateMt p + 130

/-- Program passes per yealm. -/
def passes (p : Profile) : Nat := if p.twoPass = 1 then 2 else 1

/-- Pages of a read contract per second, in millionths: c + r / 16,384. -/
def pagesM (c r : Nat) : Nat := c * mil + r * mil / 16384

/-- Die time of a read contract per second, in millionths of a die-µs. -/
def readDieM (p : Profile) (c r : Nat) : Nat := pageCost p * pagesM c r

/-- Channel time of a read contract, in millionths of a channel-µs. -/
def readChanM (p : Profile) (c r : Nat) : Nat := 72 * pagesM c r / 100 + cwNs p * (c * mil + r * mil / 4096) / 1000

/-- Die time of `r` written bytes at width `w`, in millionths: (t_FOG + t_FINE + t_BERS / L) × w / (w − 1) / Y. -/
def writeDieM (p : Profile) (w r : Nat) : Nat :=
  r * mil * ((p.tFog + p.tFine) * p.wordlines + p.tBers) * w / (p.wordlines * (w - 1) * yealm p)

/-- Channel time of `r` written bytes at width `w`, in millionths. -/
def writeChanM (p : Profile) (w r : Nat) : Nat := r * 1000 * chunkNs p * passes p * w / ((w - 1) * 16384)

/-- Flash power of `r` written bytes at width `w`, in millionths of a token-µs (Table 03.15). -/
def writePowerM (p : Profile) (w r : Nat) : Nat :=
  let perYealm := (p.tokProg * (p.tFog + p.tFine) * 1000 + p.tokXfer * passes p * (yealm p / 16384) * chunkNs p) * p.wordlines +
    p.tokErase * p.tBers * 1000
  r * 1000 * perYealm * w / (p.wordlines * (w - 1) * yealm p)

/-- Flash power of a read contract, in millionths of a token-µs: 225 × P + 4 × channel time. -/
def readPowerM (p : Profile) (c r : Nat) : Nat := p.tokSense * p.tR * pagesM c r + p.tokXfer * readChanM p c r

/-! ### Contracts -/

/-- Class in effect for a queue (R62): its binding, else DEFAULT_CLASS. -/
def classOf (s : State) (fn sqid : Nat) : Nat := tblGet s.prof.defaultClass (fn, sqid) s.adm.bindings

/-- The contract of a tuple (R63). -/
def contractOf (s : State) (fn cls : Nat) (write : Bool) : Option Contract :=
  s.adm.contracts.find? fun k => k.fn == fn && k.cls == cls && k.write == write

/-- Class default bounds (Table 03.4). -/
def defaultBound (write : Bool) (cls : Nat) : Nat :=
  if write then vecGet 0 [25, 50, 100, 500, 2000, 10000, 100000, 2000000] cls
  else vecGet 0 [250, 500, 1000, 2500, 10000, 50000, 250000, 2000000] cls

/-- Bound and hold limit of a tuple: the contract's, or the class defaults, with a hold of one eighth (R67). -/
def boundHold (s : State) (fn cls : Nat) (write : Bool) : Nat × Nat :=
  match contractOf s fn cls write with
  | some k => (k.bound, k.hold)
  | none => (defaultBound write cls, defaultBound write cls / 8)

/-- Reference minimum of a direction (R86, R271). -/
def refMinimum (p : Profile) (write : Bool) : Nat := if !write then 250 else if p.halfWidth = 1 then 50 else 25

/-- B_E in MB/s (R271, Table 12.1). -/
def eavesRate (p : Profile) : Nat := if p.halfWidth = 1 then 21500 else 43000

/-- Time in ns that one DRAM channel takes to write bytes of an Eaves copy. -/
def eavesNs (p : Profile) (bytes : Nat) : Nat := bytes * 1000 / eavesRate p

/-- Byte rate in bytes per second. -/
def rateBytes (k : Contract) : Nat := k.byteRate * 1024

/-- Depth of the command bucket, in millionths (R73). -/
def cmdDepth (k : Contract) : Nat := max mil (k.cmdRate * k.burst)

/-- Depth of the byte bucket, in millionths (R73). -/
def byteDepth (k : Contract) : Nat := max (131072 * mil) (rateBytes k * k.burst)

/-- Least promised width over a function's sets; 16 with none (R69). -/
def fnWidth (s : State) (fn : Nat) : Nat :=
  (minNat? ((s.zns.namespaces.filter (attachedTo · fn)).map (nsWidth s))).getD 16

/-- Members of a bay out of service. -/
def membersOut (s : State) (b : Nat) : Nat := 16 - membersUp s b

/-- Apply σ = min(1, SPREAD / n) (R69). -/
def spreadOver (p : Profile) (n x : Nat) : Nat := if n = 0 then 0 else x * min n p.spread / n

/-- Die time that a contract charges to a bay of its function, in millionths per second (R69). -/
def chargeDie (s : State) (k : Contract) (n b : Nat) : Nat :=
  spreadOver s.prof n (if k.write then writeDieM s.prof (baySet s (bayOwner s b)).promised (rateBytes k)
    else
      let x := readDieM s.prof k.cmdRate (rateBytes k)
      if membersOut s b = 1 then x * 15 / 8 else x)

/-- Channel time of a contract, in millionths. -/
def chargeChan (s : State) (k : Contract) : Nat :=
  if k.write then writeChanM s.prof (fnWidth s k.fn) (rateBytes k) else readChanM s.prof k.cmdRate (rateBytes k)

/-- Channel time that a contract charges to half `h`: σ_h = min(1, SPREAD × n_h / n). -/
def chargeHalf (s : State) (k : Contract) (n nh : Nat) : Nat :=
  if n = 0 then 0 else chargeChan s k * min n (s.prof.spread * nh) / n

/-- Flash power of a contract, in millionths. -/
def chargePower (s : State) (k : Contract) : Nat :=
  if k.write then writePowerM s.prof (fnWidth s k.fn) (rateBytes k) else readPowerM s.prof k.cmdRate (rateBytes k)

/-- Die time committed in a bay, in millionths per second. -/
def committedDie (s : State) (ks : List Contract) (b : Nat) : Nat :=
  sumNat (ks.map fun k =>
    let bs := fnBays s k.fn
    if bs.contains b then chargeDie s k bs.length b else 0)

/-- Channel time committed in a half. -/
def committedHalf (s : State) (ks : List Contract) (h : Nat) : Nat :=
  sumNat (ks.map fun k =>
    let bs := fnBays s k.fn
    chargeHalf s k bs.length (countP (fun b => b / 128 == h) bs))

/-- Flash power committed. -/
def committedPower (s : State) (ks : List Contract) : Nat := sumNat (ks.map (chargePower s))

/-- Bytes per second of contracts of a direction. -/
def committedBytes (ks : List Contract) (write : Bool) : Nat :=
  sumNat ((ks.filter (·.write == write)).map rateBytes)

/-- Eaves bytes held: 0.1 s of the write byte rates. -/
def committedEaves (ks : List Contract) : Nat := committedBytes ks true / 10

/-- Contractable die time of a bay, die-µs per second (Table 03.5): the capacity last computed. -/
def bayCapacity (s : State) (b : Nat) : Nat := tblGet 0 b s.adm.bayCapacity

/-- Die time capacity of a bay from its members in service (Table 03.5). -/
def computeBayCapacity (s : State) (b : Nat) : Nat := membersUp s b * 10000 * (100 - s.prof.bgDieShare)

/-- Channel time capacity of a half (Table 03.5). -/
def halfCapacity (p : Profile) : Nat := 160000 * (100 - p.bgDieShare)

/-- Contractable Eaves bytes (EAVES_CONTRACT × 256 MiB). -/
def eavesContractBytes (p : Profile) : Nat := p.eavesContract * 268435456

/-- Write contracts' reservations of a function: 0.1 s of the sum of their byte rates (R82). -/
def reservationOf (s : State) (fn : Nat) : Nat :=
  sumNat ((s.adm.contracts.filter fun k => k.fn == fn && k.write).map rateBytes) / 10

/-! ### Meters (R73) -/

/-- Meter rate of a function in a bay, die-µs per second. -/
def meterRate (s : State) (fn b : Nat) : Nat := committedDie s (s.adm.contracts.filter (·.fn == fn)) b / mil

/-- Meter depth, in millionths of a die-µs: 10 ms of the rate and each contract's charge times its burst. -/
def meterDepth (s : State) (fn b : Nat) : Nat :=
  let n := (fnBays s fn).length
  meterRate s fn b * 10000 +
    sumNat ((s.adm.contracts.filter (·.fn == fn)).map fun k => chargeDie s k n b / mil * k.burst)

/-- Scale a meter's figure in an overbooked bay by capacity over committed (R72). -/
def scaled (s : State) (b x : Nat) : Nat :=
  if s.adm.overbooked.contains b then
    let c := committedDie s s.adm.contracts b / mil
    if c = 0 then x else x * bayCapacity s b / c
  else x

/-- Rebuild the meters of a function after a change of its charges: each keeps its level, capped at its new depth; a new
one starts full (R73). -/
def rebuildMeters (s : State) (fn : Nat) : State :=
  let bays := fnBays s fn
  let has := s.adm.contracts.any (·.fn == fn)
  let mk (b : Nat) : BayMeter :=
    let full := meterDepth s fn b
    let depth := scaled s b full
    let (level, fullLevel) := match s.adm.meters.find? (fun m => m.fn == fn && m.bay == b) with
      | some m => (min m.level depth, min m.fullLevel full)
      | none => (depth, full)
    { fn := fn, bay := b, rate := scaled s b (meterRate s fn b), depth := depth, level := level, fullRate := meterRate s fn b,
      fullDepth := full, fullLevel := fullLevel }
  { s with adm := { s.adm with meters := s.adm.meters.filter (fun m => m.fn != fn) ++ (if has then bays.map mk else []) } }

/-- Level of the meter of a function in a bay, in millionths. -/
def meterLevel (s : State) (fn b : Nat) : Nat :=
  match s.adm.meters.find? (fun m => m.fn == fn && m.bay == b) with
  | some m => m.level
  | none => 0

/-- Level of the unscaled meter of a function in a bay, in millionths. -/
def fullMeterLevel (s : State) (fn b : Nat) : Nat :=
  match s.adm.meters.find? (fun m => m.fn == fn && m.bay == b) with
  | some m => m.fullLevel
  | none => 0

/-! ### Slack pools (R90 to R92) -/

/-- Depth of a bay's die slack, in millionths: 10 ms of its capacity (Table 04.1). -/
def dieSlackDepth (s : State) (b : Nat) : Nat := bayCapacity s b * 10000

/-- Level of a bay's die slack, in millionths; a pool not listed is full. -/
def dieSlackLevel (s : State) (b : Nat) : Nat := tblGet (dieSlackDepth s b) b s.adm.dieSlack

/-- A contract with full buckets (R73). -/
def fullBuckets (k : Contract) : Contract :=
  { k with cmdLevel := cmdDepth k, byteLevel := byteDepth k, cmdFull := cmdDepth k, byteFull := byteDepth k }

/-- Depths of the link and power pools, in millionths (Table 04.1). -/
abbrev linkSlackDepth : Nat := 560000000000000
abbrev powerSlackDepth : Nat := 172800000000000

/-- Refill of a bay's die slack, die-µs per second, floored at zero (R90, Table 04.1). -/
def dieSlackRefill (s : State) (b : Nat) : Nat :=
  bayCapacity s b + sumNat ((s.adm.meters.filter fun m => m.bay == b && m.level == m.depth).map (·.rate)) -
    committedDie s s.adm.contracts b / mil

/-- Refill of the link slack, bytes per second. -/
def linkSlackRefill (s : State) : Nat :=
  s.adm.linkCapacity + sumNat ((s.adm.contracts.filter fun k => !k.write && k.byteLevel == byteDepth k).map rateBytes) -
    committedBytes s.adm.contracts false

/-- Refill of the power slack, token-µs per second. -/
def powerSlackRefill (s : State) : Nat :=
  s.adm.powerCapacity +
    writePowerM s.prof 16 (sumNat ((s.adm.contracts.filter fun k => k.write && k.byteLevel == byteDepth k).map rateBytes)) / mil -
    committedPower s s.adm.contracts / mil

/-- A draw on a pool: pool 0 die slack of a bay, 1 link, 2 power; amount in millionths. -/
structure Draw where
  pool : Nat
  bay : Nat
  amount : Nat
  deriving DecidableEq, Repr

/-- Draws of an over-contract command (Table 04.1). -/
def drawsOf (c : Cmd) : List Draw :=
  (c.dieCharges.map fun e => ⟨0, e.1, e.2 * mil⟩) ++
    (if c.chargeLink = 0 then [] else [⟨1, 0, c.chargeLink * mil⟩]) ++
    (if c.chargePower = 0 then [] else [⟨2, 0, c.chargePower⟩])

/-- Level of a pool, in millionths. -/
def poolLevel (s : State) (d : Draw) : Nat :=
  match d.pool with
  | 0 => dieSlackLevel s d.bay
  | 1 => s.adm.linkSlack
  | _ => s.adm.powerSlack

/-- Refill of a pool per second. -/
def poolRefill (s : State) (d : Draw) : Nat :=
  match d.pool with
  | 0 => dieSlackRefill s d.bay
  | 1 => linkSlackRefill s
  | _ => powerSlackRefill s

/-- Held commands that wait on the pool of a draw (R91, R92): held feasible but over their contract, whatever the reason they were held
with, and drawing from it. -/
def waitersOn (s : State) (d : Draw) : List Cmd :=
  s.adm.cmds.filter fun c => !c.accepted && c.slackWait &&
    (drawsOf c).any fun e => e.pool == d.pool && e.bay == d.bay

/-- Amount that a command draws from the pool of a draw. -/
def drawAmount (c : Cmd) (d : Draw) : Nat :=
  sumNat (((drawsOf c).filter fun e => e.pool == d.pool && e.bay == d.bay).map (·.amount))

/-- Weight of a claimant: its contract's, or 1 (R91). -/
def weightOf (s : State) (fn cls : Nat) (write : Bool) : Nat :=
  match contractOf s fn cls write with
  | some k => max 1 k.weight
  | none => 1

/-- Slack drawn by a claimant from a pool in the running epoch. -/
def drawnBy (s : State) (d : Draw) (fn cls : Nat) (write : Bool) : Nat :=
  sumNat ((s.adm.draws.filter fun e => e.pool == d.pool && e.bay == d.bay && e.fn == fn && e.cls == cls && e.write == write).map
    (·.drawn))

/-- Order of evaluation of two commands (R84): class, arrival, function, SQID. Two commands of one queue that arrived in the same
microsecond keep the order in which they were fetched (DESIGN CHOICE, log entry 83: R84 gives no further key). -/
def before (a b : Cmd) : Bool :=
  decide (a.cls < b.cls) || (a.cls == b.cls && (decide (a.t0 < b.t0) || (a.t0 == b.t0 &&
    (decide (a.fn < b.fn) || (a.fn == b.fn && decide (a.sqid < b.sqid))))))

/-- Claimant `w` comes before `c` at the pool of a draw: least slack drawn over weight, ties by R84 (R91). -/
def claimsFirst (s : State) (d : Draw) (w c : Cmd) : Bool :=
  let a := drawnBy s d w.fn w.cls w.write * weightOf s c.fn c.cls c.write
  let b := drawnBy s d c.fn c.cls c.write * weightOf s w.fn w.cls w.write
  decide (a < b) || (a == b && before w c)

/-- The command itself. -/
def sameCmd (a b : Cmd) : Bool := a.fn == b.fn && a.sqid == b.sqid && a.cid == b.cid

/-- slack_grant (R91): every pool holds the charge, no command of a more urgent class waits on it, and no claimant of the
class that waits comes before. -/
def slackGrant (s : State) (c : Cmd) : Bool :=
  (drawsOf c).all fun d =>
    decide (d.amount ≤ poolLevel s d) &&
      (waitersOn s d).all fun w => sameCmd w c || decide (c.cls < w.cls) || (w.cls == c.cls && !claimsFirst s d w c)

/-- slack_left(class) (R92) is 0: some pool, less the charges of held commands of more urgent classes, is below the charge. -/
def slackExhausted (s : State) (c : Cmd) : Bool :=
  (drawsOf c).any fun d =>
    let ahead := sumNat (((waitersOn s d).filter fun w => decide (w.cls < c.cls)).map (drawAmount · d))
    decide (poolLevel s d - ahead < d.amount)

/-- Take a draw from its pool and record it for the claimant (R91). -/
def takeDraw (c : Cmd) (d : Draw) (s : State) : State :=
  let a := s.adm
  let a := match d.pool with
    | 0 => { a with dieSlack := tblSet d.bay (dieSlackLevel s d.bay - d.amount) a.dieSlack }
    | 1 => { a with linkSlack := a.linkSlack - d.amount }
    | _ => { a with powerSlack := a.powerSlack - d.amount }
  { s with adm := { a with draws := a.draws ++ [⟨d.pool, d.bay, c.fn, c.cls, c.write, d.amount⟩] } }

/-- Rate, per second in millionths, at which more urgent classes drew from a pool over the last completed 10 ms epoch (R98). -/
def urgentDrawRate (s : State) (c : Cmd) (d : Draw) : Nat :=
  100 * sumNat ((s.adm.prevDraws.filter fun e => e.pool == d.pool && e.bay == d.bay && decide (e.cls < c.cls)).map (·.drawn))

/-- Retry hint of 0xC1 (R98), in µs. -/
def hintSlack (s : State) (c : Cmd) : Nat :=
  (drawsOf c).foldl (fun a d =>
    let wait := sumNat (((waitersOn s d).filter fun w => decide (w.cls ≤ c.cls) && !sameCmd w c).map (drawAmount · d)) + d.amount
    let left := poolRefill s d * mil - urgentDrawRate s c d
    let short := wait - poolLevel s d
    max a (if short = 0 then 0 else if left = 0 then 0x3FFFFF else ceilDiv (short * mil) left)) 0

/-- Retry hint of 0xC0 (R98): time until the contract's buckets and meters hold the charges; no estimate without one. -/
def hintRate (s : State) (c : Cmd) : Nat :=
  match contractOf s c.fn c.cls c.write with
  | none => 0x3FFFFF
  | some k =>
    let t1 := if k.cmdRate = 0 then 0x3FFFFF else ceilDiv (mil - k.cmdLevel) k.cmdRate
    let t2 := if rateBytes k = 0 then 0x3FFFFF else ceilDiv (c.charge * mil - k.byteLevel) (rateBytes k)
    c.dieCharges.foldl (fun a e =>
      match s.adm.meters.find? (fun m => m.fn == c.fn && m.bay == e.1) with
      | some m => max a (if m.rate = 0 then 0x3FFFFF else ceilDiv (e.2 * mil - m.level) m.rate)
      | none => 0x3FFFFF) (max t1 t2)

/-- buckets_hold (R73): one command token and the byte tokens. -/
def bucketsHold (k : Contract) (bytes : Nat) : Bool := decide (mil ≤ k.cmdLevel) && decide (bytes * mil ≤ k.byteLevel)

/-- meters_hold (R73): in every bay where the plan books die time. -/
def metersHold (s : State) (fn : Nat) (charges : List (Nat × Nat)) : Bool :=
  charges.all fun e => decide (e.2 * mil ≤ meterLevel s fn e.1)

/-- The buckets and meters as they would stand unscaled hold a command's charges: it is within its contract, though it may be above its
scaled share (R98, R206, R334). -/
def withinUnscaled (s : State) (c : Cmd) : Bool :=
  match contractOf s c.fn c.cls c.write with
  | some k => bucketsHold { k with cmdLevel := k.cmdFull, byteLevel := k.byteFull } c.charge &&
      c.dieCharges.all fun e => decide (e.2 * mil ≤ fullMeterLevel s c.fn e.1)
  | none => false

/-- Charge a contract's buckets and the function's meters. -/
def chargeContract (s : State) (c : Cmd) : State :=
  let ks := s.adm.contracts.map fun k =>
    if k.fn == c.fn && k.cls == c.cls && k.write == c.write then
      { k with cmdLevel := k.cmdLevel - mil, byteLevel := k.byteLevel - c.charge * mil,
               cmdFull := k.cmdFull - mil, byteFull := k.byteFull - c.charge * mil }
    else k
  let ms := s.adm.meters.map fun m =>
    let x := mil * sumNat ((c.dieCharges.filter (·.1 == m.bay)).map (·.2))
    if m.fn == c.fn then { m with level := m.level - x, fullLevel := m.fullLevel - x } else m
  { s with adm := { s.adm with contracts := ks, meters := ms } }

end Sys2Proof.Machine
end

