-- ==== Sys2Proof/Machine/BufOps.lean ====
section
/-! DEFINITION. The Buffer Pool Manager: reservations, overflow, bookings, allocation, the program cache (R299 to R303, R306). -/

namespace Sys2Proof.Machine

/-- Reserved count of a pool (Table 13.6). -/
def poolReserve (p : Profile) : Nat → Nat
  | 0 => p.resWrite
  | 1 => p.resRead
  | 2 => p.resBg
  | _ => p.resMgmt

/-- Staging buffers. -/
abbrev bufferCount : Nat := 12288

/-- Buffers of a pool booked in a 16 µs slot. -/
def bookedAt (s : State) (pool slot : Nat) : Nat :=
  sumNat ((s.buf.bookings.filter fun b => b.pool == pool && decide (b.fromSlot ≤ slot) && decide (slot ≤ b.toSlot)).map (·.count))

/-- Shared overflow buffers: what no pool reserves. -/
def overflowSize (p : Profile) : Nat := bufferCount - (p.resWrite + p.resRead + p.resBg + p.resMgmt)

/-- Overflow claimed by bookings and by allocations of pools 2 and 3. -/
def overflowUsed (s : State) : Nat := sumNat (s.buf.bookings.map (·.overflow)) + sumNat (s.buf.pools.map (·.fromOverflow))

/-- Change a pool's record. -/
def updPool (s : State) (pool : Nat) (f : PoolSt → PoolSt) : State :=
  { s with buf := { s.buf with pools := vecUpd s.buf.pools pool f } }

/-- A pool's record. -/
def poolOf (s : State) (pool : Nat) : PoolSt := vecGet ⟨0, 0, 0, 0⟩ s.buf.pools pool

/-- Book `n` buffers of pool 0 or 1 from `t` to `e` for a command (R301): up to the reservation, then from overflow. -/
def bookBuffers (s : State) (pool n t e : Nat) (c : Cmd) : Option State :=
  if s.buf.shut then none
  else if n = 0 then some s
  else
    let most := (List.range (e / 16 - t / 16 + 1)).foldl (fun a i => max a (bookedAt s pool (t / 16 + i))) 0
    let above := n - (poolReserve s.prof pool - most)
    if overflowSize s.prof < overflowUsed s + above then none
    else
      let s := updPool s pool fun p => { p with peak := max p.peak (most + n) }
      some { s with buf := { s.buf with bookings := s.buf.bookings ++ [BufBooking.mk pool n above (t / 16) (e / 16) c.fn c.sqid c.cid] } }

/-- Buffers that a booking of `n` lacks (R98). -/
def bufferShort (s : State) (pool n t e : Nat) : Nat :=
  let most := (List.range (e / 16 - t / 16 + 1)).foldl (fun a i => max a (bookedAt s pool (t / 16 + i))) 0
  overflowUsed s + (n - (poolReserve s.prof pool - most)) - overflowSize s.prof

/-- Count a failed booking or allocation of a pool (Table 13.2). -/
def poolFailure (s : State) (pool : Nat) : State := updPool s pool fun p => { p with failures := p.failures + 1 }

/-- The handle of a staging buffer (Table 13.3): its index and its generation. -/
def bufHandle (s : State) (index : Nat) : Nat := index % 2 ^ 14 + tblGet 0 index s.buf.gens % 256 * 2 ^ 14

/-- BUF of a descriptor that takes no data from a named buffer; no value of the 32-bit field (log entry 108). -/
abbrev noBuf : Nat := 2 ^ 32

/-- Lowest free place for a unit in the Eaves Buffer (R181; which place a unit takes is a DESIGN CHOICE, log entry 108). -/
def freePlace (s : State) : Nat :=
  ((List.range (s.eav.units.length + 1)).find? fun i => !s.eav.units.any (·.place == i)).getD s.eav.units.length

/-- BUF of the Eaves copy of a unit (Table 06.4, R273): bit 31, and its 4 KiB place in region 0x08. -/
def eavesBuf (s : State) (seq : Nat) : Nat :=
  2 ^ 31 + sumNat (s.dram.division.take 3) * 256 + ((s.eav.units.find? (·.seq == seq)).map (·.place)).getD seq % 2 ^ 20

/-- What R307 asks of the BUF that a sequencer of island `isl` presents: a current generation of a buffer in the program cache, or
allocated to that island, with [30:22] zero; or a DRAM address below the divided capacity. -/
def bufOk (s : State) (isl b : Nat) : Bool :=
  b == noBuf ||
    (if b.testBit 31 then decide (b % 2 ^ 31 < sumNat s.dram.division * 256)
     else decide (b % 2 ^ 14 < bufferCount) && b == bufHandle s (b % 2 ^ 14) &&
       (s.buf.cache.any (fun x => x.2 == b % 2 ^ 14) || s.buf.allocated.any fun x => x.index == b % 2 ^ 14 && x.owner == isl))

/-- Evict from the program cache, oldest first, until `n` more buffers are free; a sequencer that was to program from an evicted
buffer programs from DRAM instead (R300). -/
def evictCache (s : State) (n : Nat) : State :=
  let above := s.buf.allocated.length + s.buf.cache.length + n - bufferCount
  let out := s.buf.cache.take above
  let moved (b : Nat) : Nat := match out.find? fun x => bufHandle s x.2 == b with
    | some x => eavesBuf s x.1
    | none => b
  { s with
    buf := { s.buf with cache := s.buf.cache.drop above, evictions := s.buf.evictions + out.length }
    fl := { s.fl with descs := if out.isEmpty then s.fl.descs else s.fl.descs.map fun d => { d with buf := moved d.buf } } }

/-- Lowest `n` buffer indices that nothing holds: which free buffers an allocation takes the spec leaves open (DESIGN CHOICE, log entry
141). -/
def freeIndices (s : State) (n : Nat) : List Nat :=
  let used := s.buf.allocated.map (·.index) ++ s.buf.cache.map (·.2)
  ((List.range (min bufferCount (used.length + n))).filter fun i => !used.contains i).take n

/-- Allocate `n` buffers of a pool to an owner island (R300, R306): each gets the next generation. Pools 0 and 1 draw on
their bookings; pools 2 and 3 need their reservation or free overflow, in full or not at all; none after Power Loss (R303). -/
def allocBufs (s : State) (pool owner n : Nat) : Option State :=
  let p := poolOf s pool
  let above := if pool < 2 then 0 else p.inUse + n - max p.inUse (poolReserve s.prof pool)
  if s.buf.shut || decide (bufferCount < s.buf.allocated.length + n) || decide (0 < above ∧ overflowSize s.prof < overflowUsed s + above)
  then none
  else
    let s := evictCache s n
    let ix := freeIndices s n
    let s := updPool s pool fun p => { p with inUse := p.inUse + n, fromOverflow := p.fromOverflow + above,
                                              peak := max p.peak (p.inUse + n) }
    some { s with buf := { s.buf with allocated := s.buf.allocated ++ ix.map fun i => StagingBuf.mk i pool owner none,
                                      gens := ix.foldl (fun g i => tblUpd 0 i (fun x => (x + 1) % 256) g) s.buf.gens } }

/-- Put the seals of data that has come in into the descriptors of the pool's buffers that have none, in order (R310). -/
def sealBufs (s : State) (pool : Nat) : List Nat → State
  | [] => s
  | x :: xs =>
    let l := s.buf.allocated
    match l.findIdx? fun b => b.pool == pool && b.sealed.isNone with
    | some i => sealBufs { s with buf := { s.buf with allocated := l.modify i fun b => { b with sealed := some x } } } pool xs
    | none => s

/-- The oldest `n` buffers of a pool. -/
def poolBufs (s : State) (pool n : Nat) : List StagingBuf := (s.buf.allocated.filter (·.pool == pool)).take n

/-- Release the oldest `n` buffers of a pool. -/
def releaseBufs (s : State) (pool n : Nat) : State :=
  if n = 0 then s
  else
    let out := poolBufs s pool n
    let s := updPool s pool fun p => { p with inUse := p.inUse - out.length, fromOverflow := p.fromOverflow - out.length }
    { s with buf := { s.buf with allocated := s.buf.allocated.filter fun b => !out.contains b },
             adm := { s.adm with releases := s.adm.releases ++ [(now s, out.length * 4096)] } }

/-- Move the oldest `n` buffers of pool 0 to the program cache (R299): both Eaves copies hold the units `seqs`. -/
def cacheBufs (s : State) (seqs : List Nat) : State :=
  let out := poolBufs s 0 seqs.length
  let s := releaseBufs s 0 seqs.length
  { s with buf := { s.buf with cache := s.buf.cache ++ (seqs.zip (out.map (·.index))) } }

end Sys2Proof.Machine
end

