-- ==== Sys2Proof/Machine/Aes.lean ====
section
/-! DEFINITION. AES-256-XTS of IEEE 1619 with a data unit of 4,096 bytes (R254). The standard is outside the spec: its cipher is the
AES-256 of FIPS 197 (PRESUMED, log entry 120). A block is 16 byte values in the order of the data, a data unit one little-endian number. -/

namespace Sys2Proof.Machine

/-! ### AES-256 (FIPS 197) -/

/-- The S-box, one row of 16 bytes a number, its first byte lowest. -/
def sboxRows : List Nat :=
  [0x76ABD7FE2B670130C56F6BF27B777C63, 0xC072A49CAFA2D4ADF04759FA7DC982CA,
   0x1531D871F1E5A534CCF73F362693FDB7, 0x75B227EBE28012079A059618C323C704,
   0x842FE329B3D63B52A05A6E1B1A2C8309, 0xCF584C4A39BECB6A5BB1FC20ED00D153,
   0xA89F3C507F02F94585334D43FBAAEFD0, 0xD2F3FF1021DAB6BCF5389D928F40A351,
   0x73195D643D7EA7C41744975FEC130CCD, 0xDB0B5EDE14B8EE4688902A22DC4F8160,
   0x79E4959162ACD3C25C2406490A3A32E0, 0x08AE7A65EAF4566CA94ED58D6D37C8E7,
   0x8A8BBD4B1F74DDE8C6B4A61C2E2578BA, 0x9E1DC186B95735610EF6034866B53E70,
   0xDF2855CEE9871E9B948ED9691198F8E1, 0x16BB54B00F2D99416842E6BF0D89A18C]

/-- The inverse S-box in the same form. -/
def invSboxRows : List Nat :=
  [0xFBD7F3819EA340BF38A53630D56A0952, 0xCBE9DEC444438E3487FF2F9B8239E37C,
   0x4EC3FA420B954CEE3D23C2A632947B54, 0x25D18B6D49A25B76B224D92866A12E08,
   0x92B6655DCC5CA4D41698688664F6F872, 0x849D8DA75746155EDAB9EDFD5048706C,
   0x0645B3B80558E4F70AD3BC8C00ABD890, 0x6B8A130103BDAFC1020F3FCA8F1E2CD0,
   0x73E6B4F0CECFF297EADC674F4111913A, 0x6EDF751CE837F9E28535ADE72274AC96,
   0x1BBE18AA0E62B76F89C5291D711AF147, 0xF45ACD78FEC0DB9A2079D2C64B3E56FC,
   0x5FEC8027591012B131C7078833A8DD1F, 0xEF9CC9939F7AE52D0D4AB519A97F5160,
   0x619953833CBBEBC8B0F52AAE4D3BE0A0, 0x7D0C2155631469E126D677BA7E042B17]

/-- Look a byte up in a box. -/
def boxByte (rows : List Nat) (a : Nat) : Nat := rows.getD (a / 16) 0 / 2 ^ (8 * (a % 16)) % 256

/-- Product with x in GF(256) modulo x⁸ + x⁴ + x³ + x + 1. -/
def xtime (a : Nat) : Nat := if 128 ≤ a then (2 * a) ^^^ 0x11B else 2 * a

/-- Product of a byte with a constant below 16 in GF(256). -/
def gfMul (k a : Nat) : Nat :=
  let b := xtime a
  let c := xtime b
  (if k.testBit 0 then a else 0) ^^^ (if k.testBit 1 then b else 0) ^^^ (if k.testBit 2 then c else 0) ^^^
    (if k.testBit 3 then xtime c else 0)

/-- Exclusive-or of two byte strings. -/
def xorBytes (a b : List Nat) : List Nat := List.zipWith (· ^^^ ·) a b

/-- The `n` key words that follow eight given ones, which are held newest first; `i` numbers the next word. -/
def expandKey : Nat → Nat → List (List Nat) → List (List Nat)
  | 0, _, ws => ws
  | n + 1, i, ws =>
    let prev := ws.headD []
    let mixed :=
      if i % 8 = 0 then xorBytes ((prev.drop 1 ++ prev.take 1).map (boxByte sboxRows)) [2 ^ (i / 8 - 1), 0, 0, 0]
      else if i % 8 = 4 then prev.map (boxByte sboxRows)
      else prev
    expandKey n (i + 1) (xorBytes (ws.getD 7 []) mixed :: ws)

/-- The 15 round keys of a 32-byte key, in order. -/
def roundKeys (key : List Nat) : List (List Nat) :=
  let words := (expandKey 52 8 ((List.range 8).map fun i => (key.drop (4 * i)).take 4).reverse).reverse
  (List.range 15).map fun r => ((words.drop (4 * r)).take 4).flatten

/-- Rotate row r of the state, whose columns are its four byte quadruples, by `r * turn` places. -/
def shiftRows (turn : Nat) (b : List Nat) : List Nat :=
  (List.range 16).map fun i => b.getD ((i + 4 * turn * (i % 4)) % 16) 0

/-- Multiply each column by the circulant matrix whose first row is given. -/
def mixColumns (row : List Nat) (b : List Nat) : List Nat :=
  (List.range 16).map fun i =>
    (List.range 4).foldl (fun a j => a ^^^ gfMul (row.getD ((j + 4 - i % 4) % 4) 0) (b.getD (i / 4 * 4 + j) 0)) 0

/-- Encrypt a block under round keys. -/
def aesEncrypt (keys : List (List Nat)) (b : List Nat) : List Nat :=
  let start := xorBytes b (keys.headD [])
  let sub (x : List Nat) : List Nat := shiftRows 1 (x.map (boxByte sboxRows))
  let mid := ((keys.drop 1).take 13).foldl (fun x k => xorBytes (mixColumns [2, 3, 1, 1] (sub x)) k) start
  xorBytes (sub mid) (keys.getD 14 [])

/-- Decrypt a block under round keys. -/
def aesDecrypt (keys : List (List Nat)) (b : List Nat) : List Nat :=
  let unsub (x : List Nat) : List Nat := (shiftRows 3 x).map (boxByte invSboxRows)
  let start := unsub (xorBytes b (keys.getD 14 []))
  let mid := ((keys.drop 1).take 13).reverse.foldl (fun x k => unsub (mixColumns [14, 11, 13, 9] (xorBytes x k))) start
  xorBytes mid (keys.headD [])

/-! ### XTS (IEEE 1619) -/

/-- Byte values of a number, lowest first. -/
def natBytes (n v : Nat) : List Nat := (List.range n).map fun i => v / 2 ^ (8 * i) % 256

/-- Number of byte values. -/
def bytesNat (l : List Nat) : Nat := l.foldr (fun b n => b + 256 * n) 0

/-- A tweak times x in GF(2¹²⁸). -/
def nextTweak (t : Nat) : Nat := (2 * t % 2 ^ 128) ^^^ (if 2 ^ 127 ≤ t then 0x87 else 0)

/-- Apply a block cipher to `n` blocks of a data unit from a tweak on: each block is exclusive-ored with its tweak before and after. -/
def xtsBlocks (cipher : List Nat → List Nat) : Nat → Nat → Nat → Nat
  | 0, _, _ => 0
  | n + 1, t, data =>
    (bytesNat (cipher (natBytes 16 (data % 2 ^ 128 ^^^ t))) ^^^ t) + 2 ^ 128 * xtsBlocks cipher n (nextTweak t) (data / 2 ^ 128)

/-- The first tweak of a data unit: its address, a 128-bit little-endian value, under the second key. -/
def firstTweak (pair addr : Nat) : Nat := bytesNat (aesEncrypt (roundKeys (natBytes 32 (pair / 2 ^ 256))) (natBytes 16 addr))

/-- AES-256-XTS encryption of the 4,096 bytes of a unit; the first key is the low half of the 512-bit key pair. -/
def xtsEncrypt (pair addr data : Nat) : Nat :=
  xtsBlocks (aesEncrypt (roundKeys (natBytes 32 pair))) 256 (firstTweak pair addr) data

/-- AES-256-XTS decryption of the 4,096 bytes of a unit. -/
def xtsDecrypt (pair addr data : Nat) : Nat :=
  xtsBlocks (aesDecrypt (roundKeys (natBytes 32 pair))) 256 (firstTweak pair addr) data

end Sys2Proof.Machine
end

