-- ==== Sys2Proof/Machine/Units.lean ====
section
/-! DEFINITION. What a 4 KiB unit is on the media: data and host metadata of its LBA, the metadata region and location tag (R159 to
R161), the deallocated pattern (R41), ciphertext (R254) and seals (R308). -/

namespace Sys2Proof.Machine

/-! ### LBA formats (Table 09.9) -/

/-- Data bytes of an LBA. -/
def lbaBytes (ns : NsSt) : Nat := 4096 * lbaUnits ns

/-- Metadata bytes of an LBA. -/
def metaBytes (ns : NsSt) : Nat := match ns.lbaf % 3 with
  | 0 => 0
  | 1 => 8
  | _ => 64

/-- Bytes of protection information in an LBA's metadata. -/
def protBytes (ns : NsSt) : Nat := match ns.prot with
  | .none => 0
  | .guard16 _ => 8
  | .guard64 _ => 16

/-- Codeword index of a unit within its LBA. -/
def lbaIndex (ns : NsSt) (u : Nat) : Nat := u % lbaUnits ns

/-- Host metadata bytes that the codeword of unit `u` holds (Table 07.2). -/
def unitMetaBytes (ns : NsSt) (u : Nat) : Nat :=
  if lbaUnits ns = 1 then metaBytes ns
  else match ns.lbaf % 3 with
    | 0 => 0
    | 1 => if lbaIndex ns u = 0 then 8 else 0
    | _ => 16

/-! ### Content of a unit

The content of a unit is one number: its low 32,768 bits are the 4,096 data bytes as the host sees them, little-endian, and the
bits above are the host metadata bytes that the unit's codeword holds. -/

/-- Data bytes of a content. -/
def dataOf (content : Nat) : Nat := content % 2 ^ 32768

/-- Host metadata bytes of a content. -/
def hostMetaOf (ns : NsSt) (u content : Nat) : List Byte := leBytes (unitMetaBytes ns u) (content / 2 ^ 32768)

/-! ### Metadata region (R160, R161) -/

/-- The location tag: CRC-32C of NSID, unit address and write epoch (R161). -/
def locationTag (nsid u epoch : Nat) : Nat := (crc32c (leBytes 4 nsid ++ leBytes 8 u ++ leBytes 4 epoch)).toNat

/-- The codeword of a unit carries a location tag: in every format but 4,096 bytes with 64 bytes of metadata (Table 07.2). -/
def hasTag (ns : NsSt) : Bool := decide (ns.lbaf ≠ 2)

/-- The 64-byte metadata region of a unit: its host metadata from byte 0, the location tag after it, zeros (Table 07.2). -/
def metaRegion (ns : NsSt) (u epoch content : Nat) : List Byte :=
  padTo 64 (hostMetaOf ns u content ++ if hasTag ns then leBytes 4 (locationTag ns.nsid u epoch) else [])

/-- The metadata region of a unit that a command writes. -/
def regionOf (s : State) (nsid u epoch content : Nat) : List Byte :=
  match nsOf s nsid with
  | some ns => metaRegion ns u epoch content
  | none => zeros 64

/-- The decoder's comparison (R161): a codeword written for (NSID, unit, epoch) carries the tag of the requested one, or its format
carries none. -/
def tagMatches (s : State) (nsid u epoch : Nat) (found : FoundTag) : Bool :=
  match nsOf s nsid with
  | some ns => !hasTag ns || locationTag found.nsid found.unit found.epoch == locationTag nsid u epoch
  | none => true

/-! ### Deallocated pattern (R41) -/

/-- One bit of the 64-bit guard's CRC, reflected (PRESUMED from the NVM Command Set, log entry 80). -/
def crc64Bit (c : BitVec 64) : BitVec 64 := if c.getLsbD 0 then (c >>> 1) ^^^ 0x9A6C9329AC4BC9B5#64 else c >>> 1

/-- The 64-bit guard of `n` zero bytes. -/
def guard64Zeros (n : Nat) : Nat := (~~~ ((List.range (8 * n)).foldl (fun c _ => crc64Bit c) (~~~ 0#64))).toNat

/-- Protection information of a deallocated LBA, most significant byte of each field first: the guard of the zero data (0 for the
16-bit guard), application and reference tags all ones. -/
def patternProt (ns : NsSt) : List Byte :=
  match ns.prot with
  | .none => []
  | .guard16 _ => zeros 2 ++ List.replicate 6 0xFF
  | .guard64 _ => (leBytes 8 (guard64Zeros (lbaBytes ns))).reverse ++ List.replicate 8 0xFF

/-- Metadata of a deallocated LBA: zero, with the protection information in its last bytes. -/
def patternMeta (ns : NsSt) : List Byte := zeros (metaBytes ns - protBytes ns) ++ patternProt ns

/-- Content of a deallocated unit: zero data and its share of the LBA's metadata. -/
def patternOf (ns : NsSt) (u : Nat) : Nat :=
  leNat (((patternMeta ns).drop (16 * lbaIndex ns u)).take (unitMetaBytes ns u)) * 2 ^ 32768

/-! ### Seals (R308) and codewords (R159) -/

/-- The 4,096 data bytes as stored on the flash (R254): AES-256-XTS ciphertext with the unit address as tweak, under a key as a slot
holds it; plain under no key. -/
def storedData (key u content : Nat) : Nat :=
  if key = 0 then dataOf content else xtsEncrypt (key - 1) u (dataOf content)

/-- Stored bytes as the AES engine decrypts them under a key, which need not be the one that encrypted them (R259). -/
def openData (key u data : Nat) : Nat := if key = 0 then data else xtsDecrypt (key - 1) u data

/-- An LDPC codeword (Table 07.1) as a little-endian number: 4,096 bytes of stored data, the metadata region of 64 bytes, and 448 bytes
of parity over both, whose code the spec does not give (free value, log entry 121). -/
def ldpcCodeword (data : Nat) (region : List Byte) : Nat :=
  let body := data % 2 ^ (8 * 4096) + 2 ^ (8 * 4096) * (leNat region % 2 ^ (8 * 64))
  body + 2 ^ (8 * 4160) * (Config.ldpcParity body % 2 ^ (8 * 448))

/-- Bytes 0 to 4,095 of a codeword. -/
def codewordData (w : Nat) : Nat := w % 2 ^ (8 * 4096)

/-- Metadata region of a codeword. -/
def codewordRegion (w : Nat) : List Byte := leBytes 64 (w / 2 ^ (8 * 4096))

/-- A page of 18,432 bytes (R159): codeword n from byte 4,608 × n on. -/
def pageImage (cws : List Nat) : Nat := sumNat (cws.zipIdx.map fun e => e.1 % 2 ^ (8 * codewordBytes) * 2 ^ (8 * (codewordBytes * e.2)))

/-- Codeword n of a page. -/
def pageCodeword (page n : Nat) : Nat := page / 2 ^ (8 * (codewordBytes * n)) % 2 ^ (8 * codewordBytes)

/-- The codeword that holds a unit on the media. -/
def mediaCodeword (m : MediaUnit) : Nat := ldpcCodeword (storedData m.key m.unit m.content) m.region

/-- CRC-32C over data, metadata region and unit address. -/
def sealBytes (data : Nat) (region : List Byte) (addr : Nat) : Nat := (crc32c (leBytes 4096 data ++ region ++ leBytes 8 addr)).toNat

/-- The seal of a unit. -/
def unitSeal (key u content : Nat) (region : List Byte) : Nat := sealBytes (storedData key u content) region u

/-- The seal of a unit as the running epoch's codeword would have it: what a decoder or the AES engine creates (R309). -/
def freshSeal (s : State) (nsid u epoch key content : Nat) : Nat := unitSeal key u content (regionOf s nsid u epoch content)

/-- Address of a spar codeword in its seal: bit 63, thatch, course, codeword within the spar yealm. -/
def sparAddress (thatch course cw : Nat) : Nat :=
  2 ^ 63 + thatch % 2 ^ 24 * 2 ^ 24 + course % 2 ^ 10 * 2 ^ 14 + cw % 2 ^ 14

/-- The seal that a spar accumulator creates over the exclusive-or of the stored data and of the metadata regions of its inputs
(R309). -/
def sparSeal (thatch course cw : Nat) (inputs : List (Nat × List Byte)) : Nat :=
  sealBytes (inputs.foldl (fun a x => a ^^^ x.1) 0)
    (inputs.foldl (fun a x => (a.zip x.2).map fun p => p.1 ^^^ p.2) (zeros 64)) (sparAddress thatch course cw)

end Sys2Proof.Machine
end

