-- ==== Sys2Proof/Machine/CmdOps.lean ====
section
/-! DEFINITION. Commands in service: the data a unit holds, pins, completions with their verdict, counters and charges
(R88, R97 to R107, R408 to R410). -/

namespace Sys2Proof.Machine

/-! ### Data of a unit -/

/-- Epoch of the zone that holds a unit: its count of resets; 0 in a conventional namespace. -/
def epochOf (s : State) (nsid u : Nat) : Nat :=
  match nsOf s nsid with
  | some ns => if ns.zoned then (zone s nsid (u / zoneUnits)).resets else 0
  | none => 0

/-- The Eaves unit that holds the newest data of a unit (R183), settled or not: in the running epoch and not ended. -/
def eavesOf (s : State) (nsid u : Nat) : Option EavesUnit :=
  (s.eav.units.filter fun e => e.nsid == nsid && e.unit == u && !e.ended).foldl (fun best e =>
    match best with
    | none => some e
    | some b => if b.seq < e.seq then some e else some b) none

/-- The unit's data on the media, in the running epoch. -/
def mediaOf (s : State) (nsid u : Nat) : Option MediaUnit :=
  let ep := epochOf s nsid u
  s.fl.media.find? fun m => m.nsid == nsid && m.unit == u && m.epoch == ep

/-- The unit lies on an unrecoverable or poisoned list (R41, R104, R174, R224). -/
def unitBad (s : State) (nsid u : Nat) : Bool :=
  match nsOf s nsid with
  | none => false
  | some ns =>
    if ns.zoned then
      let z := zone s nsid (u / zoneUnits)
      z.unrec.contains (u % zoneUnits) || z.poison.contains (u % zoneUnits)
    else s.zns.convUnrec.contains (nsid, u) || s.zns.convPoison.contains (nsid, u)

/-- The unit holds written data: below its zone's write pointer, or mapped in the conventional region (R41, R55). -/
def unitWritten (s : State) (nsid u : Nat) : Bool :=
  match nsOf s nsid with
  | none => false
  | some ns =>
    if ns.zoned then
      let z := zone s nsid (u / zoneUnits)
      z.st != .empty && decide (u % zoneUnits < z.wp) && ((eavesOf s nsid u).isSome || (mediaOf s nsid u).isSome)
    else (eavesOf s nsid u).isSome || (mediaOf s nsid u).isSome

/-- Put a new key slot table in place; the AES engine's key cache keeps no slot whose key changed (R255, R256). -/
def putSlots (x : SecSt) (slots : Tbl Nat KeySlot) : SecSt :=
  { x with slots := slots, keyCache := x.keyCache.filter fun k => (tblFind? k slots).map (·.key) == (tblFind? k x.slots).map (·.key) }

/-- The two media key slots of a namespace with their numbers (R256). -/
def mediaSlots (s : State) (nsid : Nat) : List (Nat × KeySlot) :=
  [2 * (nsid - 1), 2 * (nsid - 1) + 1].map fun n => (n, tblGet keySlotDefault n s.sec.slots)

/-- Media key of a namespace as slot number and key (R259, R262): the current one, or that of the thatch's generation for
writes to a zone that has a thatch. Without a media key slot the units are stored under key 0. -/
def mediaKeyFor (s : State) (nsid : Nat) (zone? : Option Nat) : Option Nat × Nat :=
  let live := mediaSlots s nsid
  let own : Option (Nat × KeySlot) := match zone? with
    | some zi => match zoneThatch s (zone s nsid zi) with
      | some t => live.find? fun (e : Nat × KeySlot) => (e.2.state == 1 || e.2.state == 2) && e.2.generation == t.generation
      | none => none
    | none => none
  match own with
  | some e => (some e.1, e.2.key)
  | none => match live.find? fun (e : Nat × KeySlot) => e.2.state == 1 with
    | some e => (some e.1, e.2.key)
    | none => (none, 0)

/-- Both keys are media keys of the namespace, of whatever generation: the AES engine takes the generation of the data
(R262). -/
def sameMedia (s : State) (nsid a b : Nat) : Bool :=
  let has (k : Nat) : Bool := (mediaSlots s nsid).any fun e => (e.2.state == 1 || e.2.state == 2) && e.2.key == k
  has a && has b

/-- What a read of a unit under a key returns (R41, R254, R259): the deallocated pattern where nothing is written; data under another
key as that key decrypts it, beside its metadata, which is stored in clear; none is a unit that must not be delivered. -/
def unitValue (s : State) (nsid u key : Nat) : Option Nat :=
  if unitBad s nsid u then none
  else if !unitWritten s nsid u then some (match nsOf s nsid with
    | some ns => patternOf ns u
    | none => 0)
  else
    let (content, k) := match eavesOf s nsid u, mediaOf s nsid u with
      | some e, _ => (e.content, e.key)
      | none, some m => (m.content, m.key)
      | none, none => (0, key)
    some (if k = key || sameMedia s nsid k key then content
      else openData key u (codewordData (ldpcCodeword (storedData k u content) [])) + content / 2 ^ 32768 * 2 ^ 32768)

/-- The thatch that holds a unit of the media, and the unit's offset in it; a conventional granule by its map entry. -/
def mediaPlace (s : State) (nsid u : Nat) : Option (Nat × Nat) :=
  match nsOf s nsid with
  | none => none
  | some ns =>
    if ns.zoned then (zone s nsid (u / zoneUnits)).thatch.map fun t => (t, u % zoneUnits)
    else tblFind? (nsid, u) s.zns.conv

/-! ### Flash pages -/

/-- Name of the flash page that holds a unit, for its recovery (R104, R169, R174): NSID and 16 KiB page of a zoned namespace; for a
granule of the conventional region, which lies where the map has put it (R55), 0 and the page of its thatch (DESIGN CHOICE, log
entry 114: the spec does not name pages in the Recovery Table). -/
def pageKey (s : State) (nsid u : Nat) : Nat × Nat :=
  match nsOf s nsid with
  | none => (nsid, u / 4)
  | some ns =>
    if ns.zoned then (nsid, u / 4)
    else match tblFind? (nsid, u) s.zns.conv with
      | some (t, off) => (0, t * 2 ^ 32 + off / 4)
      | none => (nsid, u)

/-- Name of the flash page of a slot of a command, where its plan found it. -/
def slotKey (s : State) (nsid : Nat) (x : SlotSt) : Nat × Nat :=
  match nsOf s nsid, x.loc with
  | some ns, some (t, off) => if ns.zoned then (nsid, x.unit0 / 4) else (0, t * 2 ^ 32 + off / 4)
  | _, _ => pageKey s nsid x.unit0

/-- The four places of a flash page with the units that they hold. -/
def keyPlaces (s : State) (nsid page : Nat) : List (Option (Nat × Nat)) :=
  (List.range 4).map fun i =>
    if nsid ≠ 0 then some (nsid, page * 4 + i)
    else
      let t := page / 2 ^ 32
      let off := page % 2 ^ 32 * 4 + i
      ((thatch s t).granules[off]?.getD none).bind fun g => if tblFind? g s.zns.conv = some (t, off) then some g else none

/-- Units of a flash page. -/
def keyUnits (s : State) (nsid page : Nat) : List (Nat × Nat) := (keyPlaces s nsid page).filterMap id

/-- Thatch and offset of a flash page: of its first unit on the media. -/
def keyLoc (s : State) (nsid page : Nat) : Option (Nat × Nat) :=
  if nsid = 0 then (tblFind? (page / 2 ^ 32) s.fl.thatches).map fun _ => (page / 2 ^ 32, page % 2 ^ 32 * 4)
  else ((keyUnits s nsid page).find? fun u => unitWritten s u.1 u.2 && (eavesOf s u.1 u.2).isNone).bind fun u => mediaPlace s u.1 u.2

/-- Entry of the Recovery Table for a flash page. -/
def recoveryOf (s : State) (nsid page : Nat) : Option RecEntry :=
  s.fl.recovery.find? fun r => r.nsid == nsid && r.page == page && !r.ended

/-- Entry of the Recovery Table for the page of a unit. -/
def unitRecovery (s : State) (nsid u : Nat) : Option RecEntry := recoveryOf s (pageKey s nsid u).1 (pageKey s nsid u).2

/-- End the Recovery Table entries that meet a test; one that a read has pinned goes with its last pin (R175). -/
def endRecovery (s : State) (p : RecEntry → Bool) : State :=
  { s with fl := { s.fl with recovery :=
      (s.fl.recovery.map fun e => if p e then { e with ended := true } else e).filter fun e => !(e.ended && e.pins == 0) } }

/-- Entries of conventional pages whose granules have all been written again, deallocated or copied elsewhere end (R175, R179). -/
def sweepRecovery (s : State) : State := endRecovery s fun e => e.nsid == 0 && (keyUnits s 0 e.page).isEmpty

/-- Seals of the four places of a flash page: the Seal Store's for a unit of the Eaves Buffer, else as a decoder or a rebuild
accumulator creates them (R309, R310). -/
def pageSeals (s : State) (nsid page : Nat) : List Nat :=
  (keyPlaces s nsid page).map fun
    | none => 0
    | some (n, u) => match eavesOf s n u, mediaOf s n u with
      | some e, _ => e.sealed
      | none, some m => unitSeal m.key u m.content m.region
      | none, none => 0

/-! ### Pins (R81) -/

/-- Add to the pins of the Eaves units that serve a slot, and of the Loft page or recovered page that it uses (R81, R175). -/
def pinSlot (nsid : Nat) (add : Nat → Nat) (x : SlotSt) (s : State) : State :=
  let s := if x.seqs.isEmpty then s
    else { s with eav := { s.eav with units := s.eav.units.map fun e => if x.seqs.contains e.seq then { e with pins := add e.pins } else e } }
  match x.route with
  | .loft => { s with dram := { s.dram with loft := s.dram.loft.map fun l =>
                                  if l.nsid == nsid && l.page == x.unit0 / 4 then { l with pins := add l.pins } else l } }
  | .recovered =>
    let k := slotKey s nsid x
    endRecovery { s with fl := { s.fl with recovery := s.fl.recovery.map fun r =>
                                   if (r.nsid, r.page) == k then { r with pins := add r.pins } else r } } fun _ => false
  | _ => s

/-- An Eaves unit is released: it has ended or settled, and no read pins it (R81, R186). -/
def eavesGone (e : EavesUnit) : Bool := (e.ended || e.settled) && e.pins == 0

/-- Drop Eaves units that are released; their bytes count as released for the 0xC3 hint (R98). -/
def sweepEaves (s : State) : State :=
  let gone := countP eavesGone s.eav.units
  if gone = 0 then s
  else { s with eav := { s.eav with units := s.eav.units.filter fun e => !eavesGone e },
                adm := { s.adm with releases := s.adm.releases ++ [(now s, gone * 4096)] } }

/-- MiB of the Loft in each channel (R273, R298): LOFT_SIZE as it stands now, at most what remains after the regions before. -/
def loftMib (s : State) : Nat :=
  let rest := vecGet 0 s.dram.division 5
  if s.prof.loftSize = 0xFFFF then rest else min rest (s.prof.loftSize * 256)

/-- Frames of one channel (R275): the Loft's MiB over 16,656 bytes. -/
def loftFrames (s : State) : Nat := loftMib s * 1048576 / 16656

/-- Frames in use in a channel, replicas counted. -/
def loftUsed (s : State) (ch : Bool) : Nat := sumNat (s.dram.loft.map fun l => countP (· == ch) l.replicas)

/-- A channel holds more frames than a reduced LOFT_SIZE leaves it. -/
def loftBeyond (s : State) (ch : Bool) : Bool := decide (loftFrames s < loftUsed s ch)

/-- Free unpinned frames beyond a reduced LOFT_SIZE (R298), the pages inserted longest ago first (DESIGN CHOICE, log entry 31). -/
def trimLoft (s : State) : State :=
  if !loftBeyond s false && !loftBeyond s true then s
  else forEach s.dram.loft (fun l s =>
    if l.pins = 0 && l.replicas.any (loftBeyond s) then { s with dram := { s.dram with loft := s.dram.loft.erase l } } else s) s

/-- Units of a command whose data a die has brought into pool 1 (R299). -/
def poolUnits (c : Cmd) : Nat :=
  sumNat ((c.slots.filter fun x => x.done && (match x.route with
    | .direct _ => true
    | .underlay _ => true
    | .readAround _ => true
    | _ => false)).map (·.units))

/-- A thatch bound to an Empty zone for which no held command is left goes back to the ready thatches of its bay: Table 02.5 has none
bound to an Empty zone (R37, R39). -/
def unbindEmpty (s : State) (nsid z : Nat) : State :=
  match (zone s nsid z).thatch with
  | none => s
  | some t =>
    if (zone s nsid z).st != .empty || s.adm.cmds.any (fun c => c.nsid == nsid && c.zone == some z) then s
    else
      let s := forEach (thatch s t).members (fun m s => updBlock s m.die m.block fun x => { x with use := .ready }) s
      let s := updThatch s t fun x => { x with kind := .ready, nsid := 0, zone := 0, generation := 0 }
      updZone s nsid z fun y => { y with thatch := none }

/-- Remove a command from the tables of the Admission Unit, release its buffers and unpin what it used; one that was never accepted
has pinned nothing, and what was bound for it is free again. -/
def dropCmd (s : State) (c : Cmd) : State :=
  let s := if !c.accepted then s else match c.op with
    | .copy _ _ _ => releaseBufs s 3 c.bufs
    | _ => releaseBufs s 1 (poolUnits c)
  let s := { s with adm := { s.adm with cmds := s.adm.cmds.filter fun x => !sameCmd x c } }
  let s := if c.accepted then trimLoft (sweepEaves (forEach c.slots (pinSlot c.nsid (· - 1)) s)) else s
  let s := { s with buf := { s.buf with bookings := s.buf.bookings.filter fun b =>
                               !(b.fn == c.fn && b.sqid == c.sqid && b.cid == c.cid) } }
  let s := if c.accepted then s else match c.zone with
    | some z => unbindEmpty s c.nsid z
    | none => s
  match c.keySlot with
  | some k =>
    if c.accepted then { s with sec := { s.sec with slots := tblUpd keySlotDefault k
                                                      (fun x => { x with pins := x.pins - 1 }) s.sec.slots } }
    else s
  | none => s

/-- Change a command in the table. -/
def updCmd (s : State) (c : Cmd) (g : Cmd → Cmd) : State :=
  { s with adm := { s.adm with cmds := s.adm.cmds.map fun x => if sameCmd x c then g x else x } }

/-- A command by its identity. -/
def cmdOf (s : State) (fn sqid cid : Nat) : Option Cmd :=
  s.adm.cmds.find? fun c => c.fn == fn && c.sqid == sqid && c.cid == cid

/-! ### Completion with a verdict -/

/-- Time held, t0 to `t`, in whole µs and at least 1 (R102). -/
def heldUs (c : Cmd) (t : Nat) : Nat := max 1 (t - c.t0)

/-- I/O completion: LED (R440; released while Battened), then the entry. -/
def ioPost (s : State) (fn sqid cid : Nat) (st : NvmeStatus) (dw0 : Nat) (data : List Byte) (units : List (Option Nat))
    (v : VerdictInfo) : State :=
  let s := { s with pins := { s.pins with ledActN := if s.boot.phase = 6 then true else false,
                                          lastCompletion := some (now s) } }
  postCompletion s fn sqid cid st dw0 data units (some v)

/-- Index of a refusal code in the refused counters (Table 19.6). -/
def refusedIx (code : Nat) : Nat := if code = 0xC7 then 6 else if code = 0xC8 then 7 else code - 0xC0

/-- Retry hint in the Verdict Ring saturates (R102). -/
def verdictOf (verdict reason time cls : Nat) : VerdictInfo :=
  { verdict := verdict, reason := reason, time := ringTime time, cls := cls, crd := 0 }

/-- Complete an accepted command (R102, R103, R408, R409): verdict 0 or 1, the reason low byte of a vendor status, the
time held, counters, the controller charge, and whether it ended under or beyond the allowance (R106, R107). -/
def completeCmd (s : State) (c : Cmd) (st : NvmeStatus) (dw0 : Nat) (data : List Byte) (units : List (Option Nat)) : State :=
  let v := c.verdict
  let held := if v = 1 then heldUs c c.acceptedAt else 0
  let reason := match st with
    | .vendor r => r
    | _ => 0
  let ok := st == .success
  let late := decide (c.dl < now s)
  let above := decide (c.dl + 500 < now s)
  let s := updClass s c.fn c.cls fun k =>
    { k with verdict0 := k.verdict0 + (if v = 0 then 1 else 0), verdict1 := k.verdict1 + (if v = 1 then 1 else 0),
             deadline := k.deadline + (if reason = 0xC6 then 1 else 0),
             allowance := k.allowance + (if late && !above && c.allowance then 1 else 0),
             exceeded := k.exceeded + (if above then 1 else 0), holdUs := k.holdUs + held,
             bytesRead := k.bytesRead + (if ok && !c.write then c.bytes else 0),
             bytesWritten := k.bytesWritten + (if ok && c.write then c.bytes else 0) }
  let pj := 110000 + (if ok then (if c.write then 310 else 268) * c.bytes else 0)
  let s := updMeter s c.fn fun m => { m with controllerPj := m.controllerPj + pj, charged := m.charged + 1 }
  ioPost (dropCmd s c) c.fn c.sqid c.cid st dw0 data units (verdictOf v reason held c.cls)

/-- Refuse a command (R97, R98): verdict 2, its code, the retry hint; counted, and charged as an evaluation (R408). -/
def refuseCmd (s : State) (c : Cmd) (code hint : Nat) : State :=
  let s := updClass s c.fn c.cls fun k => { k with refused := vecUpd k.refused (refusedIx code) (· + 1) }
  let s := updMeter s c.fn fun m => { m with evaluation := m.evaluation + 20 }
  ioPost (dropCmd s c) c.fn c.sqid c.cid (.vendor code) 0 [] [] (verdictOf 2 code hint c.cls)

/-- Withdraw a held command (Table 04.3, R102): verdict 2, reason 0, its time held; counted as withdrawn and charged as an
evaluation. -/
def withdrawCmd (s : State) (c : Cmd) (st : NvmeStatus) : State :=
  let s := updFnCtr s c.fn fun k => { k with withdrawn := k.withdrawn + 1 }
  let s := updMeter s c.fn fun m => { m with evaluation := m.evaluation + 20 }
  ioPost (dropCmd s c) c.fn c.sqid c.cid st 0 [] [] (verdictOf 2 0 (heldUs c (now s)) c.cls)

/-- An accepted read not yet issued to a die when Power Loss is raised (R99). -/
def powerLossRead (s : State) (c : Cmd) : State :=
  let s := updClass s c.fn c.cls fun k => { k with refused := vecUpd k.refused 6 (· + 1) }
  let s := updMeter s c.fn fun m => { m with controllerPj := m.controllerPj + 110000, charged := m.charged + 1 }
  ioPost (dropCmd s c) c.fn c.sqid c.cid (.vendor 0xC7) 0 [] [] (verdictOf 2 0xC7 0x3FFFFF c.cls)

/-- The oldest fetched entry of the command's queue, if one is listed. -/
def fetchedOf (s : State) (h : IoHdr) : Option Fetched := s.host.fetched.find? fun e => e.fn == h.fn && e.sqid == h.sqid

/-- Class and arrival of a command (R62): those of its fetched entry, else its queue's class and now. -/
def arrivalOf (s : State) (h : IoHdr) : Nat × Nat :=
  match fetchedOf s h with
  | some e => (e.cls, e.at')
  | none => (classOf s h.fn h.sqid, now s)
/-- Complete a command of class `cls` with an error before admission (R259, R408, R410): verdict 0, reason 0, no charge. -/
def completeEarly (s : State) (h : IoHdr) (cls : Nat) (st : NvmeStatus) : State :=
  let s := updFnCtr s h.fn fun k => { k with beforeAdmission := k.beforeAdmission + 1 }
  let s := updClass s h.fn cls fun k => { k with verdict0 := k.verdict0 + 1 }
  ioPost s h.fn h.sqid h.cid st 0 [] [] (verdictOf 0 0 0 cls)

/-- Discard a command of a function without a completion (R222). -/
def discardCmd (s : State) (c : Cmd) : State :=
  updFnCtr (dropCmd s c) c.fn fun k => { k with discarded := k.discarded + 1 }

/-! ### Completions of writes to a zone, in acceptance order (R182) -/

/-- A write whose units are all in both Eaves copies, or that has failed. -/
def writeReady (c : Cmd) : Bool :=
  c.accepted && c.write && (c.dtError || c.endStatus.isSome || (c.arrived == c.units && c.inA == c.units && c.inB == c.units))

/-- The write that completes next: ready, with no earlier accepted write to its zone outstanding. -/
def nextReady (s : State) : Option Cmd :=
  s.adm.cmds.find? fun c => writeReady c && decide (0 < c.units) &&
    (c.zone.isNone || s.adm.cmds.all fun x =>
      !(x.accepted && x.write && x.nsid == c.nsid && x.zone == c.zone && decide (0 < x.units) && decide (x.order < c.order)))

/-- Complete every write that is ready, in order: Success with the append's LBA in Dword 0, Data Transfer Error when its
data arrived poisoned (R224), its error where acceptance gave it one (R40). -/
def flushReady : Nat → State → State
  | 0, s => s
  | n + 1, s =>
    match nextReady s with
    | some c => flushReady n (completeCmd s c (c.endStatus.getD (if c.dtError || c.poisoned then .dataTransferError else .success))
        (if c.endStatus.isSome then 0 else c.lba) [] [])
    | none => s

/-- An accepted write meets an error: it completes in its turn among the writes to its zone (R182). -/
def endWrite (s : State) (c : Cmd) (st : NvmeStatus) : State :=
  flushReady (s.adm.cmds.length + 1) (updCmd s c fun x => { x with endStatus := some st })

end Sys2Proof.Machine
end

