-- ==== Sys2Proof/Machine/Plan.lean ====
section
/-! DEFINITION. Planning: die calendars, suspend windows, channel occupancy, token profile, descriptors and buffer bookings
(R74 to R81, R139, R163 to R168, R300, R301, R311). A plan books on a copy of the machine; committing it keeps the copy,
so a plan books all or nothing (R80). -/

namespace Sys2Proof.Machine

/-! ### Calendars (R75 to R78) -/

/-- Horizon of the calendars in µs (R75). -/
abbrev horizon : Nat := 16384

/-- End of a calendar entry. -/
def entryEnd (e : CalEntry) : Nat := e.start + e.length

/-- Entries of a die. -/
def dieEntries (s : State) (d : DieNo) : List CalEntry := s.fl.calendar.filter (·.die == d)

/-- A program or erase entry, which a window may suspend. -/
def isProgErase : CalKind → Bool
  | .firstPass => true
  | .finePass => true
  | .slcProgram => true
  | .erase => true
  | _ => false

/-- A background entry whose operation has not started: a firm booking may move it later (Table 03.11). -/
def movable (s : State) (e : CalEntry) : Bool := !e.firm && decide (now s < e.start)

/-- Two intervals overlap. -/
def overlap (a la b lb : Nat) : Bool := decide (a < b + lb) && decide (b < a + la)

/-- Entries of a die that block an interval. -/
def blockers (s : State) (d : DieNo) (t len : Nat) : List CalEntry :=
  (dieEntries s d).filter fun e => e.kind != .suspendWindow && !movable s e && overlap t len e.start e.length

/-- Earliest start, from `t`, at which the die is free for `len` µs: `t` or the end of an entry. -/
def freeStart (s : State) (d : DieNo) (t len : Nat) : Nat :=
  let cands := t :: (((dieEntries s d).filter fun e => e.kind != .suspendWindow && !movable s e).map entryEnd).filter (t ≤ ·)
  (minNat? (cands.filter fun c => (blockers s d c len).isEmpty)).getD (t + horizon)

/-- Tokens booked in the 16 µs slot that holds `t` (R78): those of the calendar entries, a window's among them, and of the channel
transfers that overlap it. -/
def tokensAt (s : State) (t : Nat) : Nat :=
  let a := t / 16 * 16
  sumNat ((s.fl.calendar.filter fun e => overlap a 16 e.start e.length).map (·.tokens)) +
    s.prof.tokXfer * countP (fun (e : OccEntry) => overlap a 16 e.start e.length) s.fl.occupancy

/-- Effective flash power budget in tokens: FLASH_POWER_BUDGET, lowered by the thermal steps (R333). -/
def effectiveBudget (s : State) : Nat :=
  match s.thm.step with
  | .normal => s.prof.flashPowerBudget
  | .warm => s.prof.flashPowerBudget * s.prof.warmPct / 100
  | _ => s.prof.flashPowerBudget * s.prof.hotPct / 100

/-- A booking of `n` tokens over an interval fits the command share of every slot it overlaps (R78); `reserve` is the part
kept for background work, 0 for bookings that may use it (R78, R170). -/
def tokensFit (s : State) (t len n reserve : Nat) : Bool :=
  len == 0 || (List.range ((t + len - 1) / 16 - t / 16 + 1)).all fun i =>
    decide (tokensAt s (t + 16 * i) + n + reserve ≤ effectiveBudget s)

/-- Earliest start from `t` of a transfer of `len` µs on a channel (R76): a read transfer leaves chunks out of account, since it
waits at most for the one in progress; a chunk of program data takes what the map and the other chunks leave free. -/
def chanStart (s : State) (ch t len : Nat) (chunk : Bool) : Nat :=
  let es := s.fl.occupancy.filter fun e => e.ch == ch && (chunk || !e.chunk)
  let cands := t :: (es.map fun e => e.start + e.length).filter (t ≤ ·)
  (minNat? (cands.filter fun c => es.all fun e => !overlap c len e.start e.length)).getD (t + horizon)

/-- The three queues of a die slot (R139). -/
inductive DescQueue where
  | command
  | background
  | control
  deriving DecidableEq, Repr

/-- The queue that takes a descriptor (R139, Table 06.5). -/
def queueOf (d : Desc) : DescQueue := if 0x40 ≤ d.opcode then .control else if d.firm then .command else .background

/-- Entries of a channel's descriptor store that each queue may take (R139): 256 of 2,048 are reserved for background descriptors
and 64 for control descriptors. -/
def queueRoom : DescQueue → Nat
  | .command => 1728
  | .background => 256
  | .control => 64

/-- Free entries of a queue's share of a channel's descriptor store. -/
def freeDescs (s : State) (ch : Nat) (q : DescQueue) : Nat := queueRoom q - countP (fun d => d.ch == ch && queueOf d == q) s.fl.descs

/-- Move one booking of a die, with its descriptor and its read transfer, to the first place from `t` on that no other entry of the die
takes and whose slots have its tokens (R76, R78); none when there is none within the horizon (R75). -/
def moveEntry (s : State) (t : Nat) (e : CalEntry) : Option State :=
  let others := (dieEntries s e.die).filter fun x => x != e && x.kind != .suspendWindow
  let mine (o : OccEntry) : Bool := o.tag == e.tag && o.ch == dieCh e.die && !o.chunk
  let s0 := { s with fl := { s.fl with calendar := s.fl.calendar.filter (· != e), occupancy := s.fl.occupancy.filter fun o => !mine o } }
  let xlen := ((s.fl.occupancy.find? mine).map (·.length)).getD 0
  let xfer (c : Nat) : Nat := chanStart s0 (dieCh e.die) (c + e.length) xlen false
  let ok (c : Nat) : Bool :=
    (others.all fun x => !overlap c e.length x.start x.length) && tokensFit s0 c e.length e.tokens 0 &&
      decide (c + e.length ≤ now s + horizon) &&
      (xlen == 0 || (tokensFit s0 (xfer c) xlen s.prof.tokXfer 0 && decide (xfer c + xlen ≤ now s + horizon)))
  let ends := (s.fl.calendar.map entryEnd) ++ s.fl.occupancy.map fun o => o.start + o.length
  ((t :: (ends.filter (t ≤ ·)).mergeSort (· ≤ ·)).find? ok).map fun st =>
    { s with fl := { s.fl with
      calendar := s.fl.calendar.map fun x => if x = e then { x with start := st } else x,
      occupancy := s.fl.occupancy.map fun o => if mine o then { o with start := xfer st } else o,
      descs := s.fl.descs.map fun x => if x.seqTag == e.tag && x.ch == dieCh e.die then { x with start := st } else x } }

/-- Move the background entries and descriptors that an interval on a die displaces later (Table 03.11), the interval holding `tokens`;
none when one of them has no place left within the horizon. -/
def moveBackground (s : State) (d : DieNo) (t len tokens : Nat) : Option State :=
  let hits := ((dieEntries s d).filter fun e => e.kind != .suspendWindow && movable s e && overlap t len e.start e.length).mergeSort
    fun a b => decide (a.start ≤ b.start)
  let held : CalEntry := { die := d, start := t, length := len, kind := .outOfService, suspLeft := 0, reads := 0, topClass := 0,
                           tokens := tokens, firm := true, provisional := false, tag := s.fl.nextTag }
  let s1 := { s with fl := { s.fl with calendar := s.fl.calendar ++ [held] } }
  (hits.foldl (fun (r : Option State) e => r.bind fun s => moveEntry s (t + len) e) (some s1)).map fun s2 =>
    { s2 with fl := { s2.fl with calendar := s2.fl.calendar.filter (· != held) } }

/-- Ways to place a sense on a die: in free time, in an open window, in a new window. -/
inductive SenseWay where
  | freeTime (start : Nat)
  | join (win : CalEntry) (op : CalEntry)
  | openWin (op : CalEntry) (start : Nat)
  deriving DecidableEq, Repr

/-- Suspend latency of an operation (Table 03.8). -/
def suspLatency (p : Profile) (k : CalKind) : Nat := if k == .erase then p.tSuspE else p.tSuspP

/-- Start of the sense in a way. -/
def wayStart (p : Profile) : SenseWay → Nat
  | .freeTime t => t
  | .join w _ => entryEnd w
  | .openWin op t => t + suspLatency p op.kind

/-- The operation that an instant lies in. -/
def opAt (s : State) (d : DieNo) (t : Nat) : Option CalEntry :=
  (dieEntries s d).find? fun e => isProgErase e.kind && decide (e.start ≤ t) && decide (t < entryEnd e)

/-- What a sense is booked for (R75 to R78): die, sense and transfer times, kind, class, sequence tag, whether it is a command
booking, whether it may spend the reserved suspends (a read-around member), whether it may open a window (not a read accepted
from slack, R93, nor a background sense), the decision time before it (Tables 03.12, 07.6), and the tokens kept for background
work that it leaves alone. -/
structure SenseReq where
  die : DieNo
  len : Nat
  xfer : Nat
  kind : CalKind
  cls : Nat
  tag : Nat
  firm : Bool
  ra : Bool
  mayOpen : Bool
  lead : Nat
  reserve : Nat
  deriving DecidableEq, Repr

/-- Ways open to a sense on a die (R77): no sense joins or opens a window while SUSP_LEFT is 0, and no window exceeds 1,000 µs
(R145). -/
def senseWays (s : State) (q : SenseReq) : List SenseWay :=
  let d := q.die
  let len := q.len
  let ra := q.ra
  let mayOpen := q.mayOpen
  let t := now s + q.lead
  let es := dieEntries s d
  let joins := es.filterMap fun w =>
    if w.kind == .suspendWindow && decide (now s ≤ entryEnd w) && decide (w.length + len ≤ 1000) then
      match opAt s d w.start with
      | some op => if 0 < op.suspLeft then some (SenseWay.join w op) else none
      | none => none
    else none
  let opens := match opAt s d t with
    | some op =>
      if mayOpen && decide ((if ra then 0 else s.prof.suspReserve) < op.suspLeft) &&
          !(es.any fun w => w.kind == .suspendWindow && decide (t ≤ entryEnd w)) &&
          decide (suspLatency s.prof op.kind + len ≤ 1000) then [SenseWay.openWin op t]
      else []
    | none => []
  .freeTime (freeStart s d t len) :: joins ++ opens

/-- Ways in the order of their senses. -/
def byStart (p : Profile) (ws : List SenseWay) : List SenseWay := ws.mergeSort fun a b => decide (wayStart p a ≤ wayStart p b)

/-- A sense booked: start of the sense, its end, end of its transfer, the start of its window if it lies in one, and the calendar
entry of the window where the sense opens one. -/
structure Sense where
  start : Nat
  dieEnd : Nat
  xferEnd : Nat
  window : Option Nat
  opens : Option CalEntry
  deriving DecidableEq, Repr

/-- An operation's entry can be longer (R75 to R78): its LENGTH stays within 16,383 µs and its end within the horizon, no command
booking of the die lies behind it, and the slots that it newly overlaps have its tokens. -/
def mayLengthen (s : State) (op : CalEntry) (by' reserve : Nat) : Bool :=
  let fresh := (entryEnd op + 15) / 16 * 16
  decide (op.length + by' ≤ 16383) && decide (entryEnd op + by' ≤ now s + horizon) && (blockers s op.die (entryEnd op) by').isEmpty &&
    tokensFit s fresh (entryEnd op + by' - fresh) op.tokens reserve

/-- Lengthen an operation's calendar entry for a window, and spend a suspend (R77); background work behind it moves later (Table
03.11). None where the entry cannot be longer. -/
def lengthenOp (s : State) (op : CalEntry) (by' spend reserve : Nat) : Option State :=
  if !mayLengthen s op by' reserve then none
  else (moveBackground s op.die (entryEnd op) by' op.tokens).map fun s =>
    { s with fl := { s.fl with calendar := s.fl.calendar.map fun e =>
                       if e = op then { e with length := e.length + by', suspLeft := e.suspLeft - spend } else e } }

/-- The suspend window of a way that opens one, as a calendar entry; it holds the tokens of its senses (R78). -/
def windowEntry (s : State) (q : SenseReq) (op : CalEntry) (t0 : Nat) : CalEntry :=
  { die := q.die, start := t0, length := suspLatency s.prof op.kind + q.len, kind := .suspendWindow, suspLeft := 0, reads := 1,
    topClass := q.cls, tokens := s.prof.tokSense, firm := true, provisional := false, tag := q.tag }

/-- Book a sense in one way (R75 to R78): none when its end lies beyond the horizon, the die's 32 entries are full, or tokens or
descriptor entries are short. The descriptor of a new window takes an entry of its own (R139). -/
def bookWay (s : State) (q : SenseReq) (way : SenseWay) : Option (State × Sense) :=
  let p := s.prof
  let t := wayStart p way
  let x := chanStart s (dieCh q.die) (t + q.len) q.xfer false
  let opens := match way with
    | .openWin _ _ => 1
    | _ => 0
  let entries := match way with
    | .join _ _ => 0
    | _ => 1
  let room := freeDescs s (dieCh q.die) (if q.firm then .command else .background)
  if decide (now s + horizon < x + q.xfer) || !tokensFit s t q.len p.tokSense q.reserve || !tokensFit s x q.xfer p.tokXfer q.reserve ||
      decide (32 < (dieEntries s q.die).length + entries) || decide (room < 1 + opens) then none
  else
    let s := { s with fl := { s.fl with occupancy := s.fl.occupancy ++ [(⟨dieCh q.die, x, q.xfer, q.tag, false⟩ : OccEntry)] } }
    let put (win : Option Nat) (new : Option CalEntry) (s : State) : State × Sense :=
      (s, Sense.mk t (t + q.len) (x + q.xfer) win new)
    match way with
    | .freeTime t => (moveBackground s q.die t q.len p.tokSense).map fun s =>
        put none none { s with fl := { s.fl with calendar := s.fl.calendar ++
          [{ die := q.die, start := t, length := q.len, kind := q.kind, suspLeft := 0, reads := 1, topClass := q.cls,
             tokens := p.tokSense, firm := q.firm, provisional := false, tag := q.tag }] } }
    | .join w op => (lengthenOp s op q.len 0 q.reserve).map fun s =>
      (put (some w.start) none { s with fl := { s.fl with
        calendar := s.fl.calendar.map fun e =>
          if e = w then { e with length := e.length + q.len, reads := e.reads + 1, topClass := min e.topClass q.cls } else e,
        descs := s.fl.descs.map fun d =>
          if d.opcode == 0x30 && d.start == w.start && 128 * d.ch + d.slot == q.die then { d with length := d.length + q.len } else d } })
    | .openWin op t0 =>
      let w := windowEntry s q op t0
      (lengthenOp s op (p.tRes + w.length) 1 q.reserve).map fun s => (put (some t0) (some w) { s with fl := { s.fl with calendar := s.fl.calendar ++ [w] } })

/-- Book a sense in the first of its ways, earliest sense first, that can be booked; none on a die that takes no work (R24, R155,
R156). -/
def bookSense (s : State) (q : SenseReq) : Option (State × Sense) :=
  if !dieUp s q.die then none else (byStart s.prof (senseWays s q)).foldl (fun r w => r.or (bookWay s q w)) none

/-! ### Descriptors (R139, R140) -/

/-- Next flow sequence tag (R16). -/
def nextTag (s : State) : Nat := s.fl.nextTag

/-- Send the tokens of a descriptor to its channel island: the descriptor from the Admission island, and the data of a program
from the Fabric island, under one sequence tag (R16). -/
def sendDesc (s : State) (ch opcode tag : Nat) : State :=
  let s := sendToken s 2 (chIsland ch) false tag
  if 0x10 ≤ opcode && opcode ≤ 0x13 then sendToken s 5 (chIsland ch) true tag else s

/-- Plane blocks that a descriptor names: those of its die block on the planes addressed (BLK_P0 to BLK_P3). -/
def descPlanes (s : State) (d : Desc) : List Nat :=
  (List.range 4).map fun p => if d.planeMask.testBit p then planeBlock s (128 * d.ch + d.slot) d.block p else 0

/-! ### Shift sets (R164 to R166) -/

/-- Temperature band of a package (R164, Table 07.4): the number of edges at or below its temperature. -/
def bandOf (p : Profile) (t : Int) : Nat :=
  countP (fun i => decide (signedOf 8 (profField p 5 (8 * i) 8) ≤ t)) (List.range 7)

/-- Package temperature as R150 and R164 use it: the reading, else the channel's highest plus 5, else the device's
highest plus 5, else 86 °C (R332). -/
def pkgTemp (s : State) (k : Nat × Nat) : Int :=
  let x := pkg s k
  if x.fails < 2 then (match x.temp with
    | some t => t
    | none => 86)
  else
    let good := s.fl.pkgs.filter fun e => decide (e.2.fails < 2) && e.2.temp.isSome && e.2.populated
    let temps (l : List ((Nat × Nat) × PkgSt)) : List Int := l.filterMap (·.2.temp)
    match temps (good.filter fun e => e.1.1 == k.1) with
    | a :: l => maxInt a l + 5
    | [] => match temps good with
      | a :: l => maxInt a l + 5
      | [] => 86

/-- Retry list of a band: its shift sets up to the first 0 (Table 07.4). -/
def retryList (p : Profile) (b : Nat) : List Nat :=
  ((List.range 16).map fun j => profField p 5 (64 + 128 * b + 8 * j) 8).takeWhile (· != 0)

/-- SHIFT_SET of a first read: the sequencer resolves it to the starting shift (R166). -/
abbrev shiftAuto : Nat := 0xFF

/-- Starting shift of a read whose lookup of the block record is unresolved at START (R166 rules 2 and 3). -/
def bandShift (s : State) (d : DieNo) : Nat := (retryList s.prof (bandOf s.prof (pkgTemp s (diePkg d)))).headD 0

/-- Starting shift of a read: the block record's last-good shift while VALID in the current band, else the first of the
band's retry list, else the default levels (R166). -/
def startShift (s : State) (d : DieNo) (blk : Nat) : Nat :=
  let w := blockRecord (block s d blk)
  if w.getLsbD 9 && bits w.toNat 6 3 == bandOf s.prof (pkgTemp s (diePkg d)) then bits w.toNat 0 6 else bandShift s d

/-- The shift set that SHIFT_SET 0xFF stands for (R166), as the sequencer resolves it when it queues the descriptor: the starting shift; with
no DRAM channel to look in, that of the band (DEDUCED, log entry 81: the lookup ends within 2 µs, so before START). -/
def resolveShift (s : State) (d : Desc) : Nat :=
  if d.shiftSet ≠ shiftAuto then d.shiftSet
  else if notRunning s 6 && notRunning s 7 then bandShift s (128 * d.ch + d.slot)
  else startShift s (128 * d.ch + d.slot) d.block

/-- Add a descriptor under the next tag. -/
def addDesc (s : State) (d : Desc) : State :=
  let d := { d with seqTag := s.fl.nextTag, blks := descPlanes s d, queuedAt := now s, shiftSet := resolveShift s d }
  sendDesc { s with fl := { s.fl with descs := s.fl.descs ++ [d], nextTag := s.fl.nextTag + 1 } } d.ch d.opcode s.fl.nextTag

/-- A descriptor without a purpose yet. -/
def descDefault : Desc :=
  { ch := 0, seqTag := 0, opcode := 0, slot := 0, firm := false, tokens := 0, cls := 0, dump := false, start := 0, length := 0,
    planeMask := 0, shiftSet := 0, block := 0, blks := [], wordline := 0, level := 0, cwFirst := 0, cwLast := 3, thatch := 0xFFFFFF,
    buf := noBuf, dest := (.purlin, 0), purpose := .control, st := .queued, queuedAt := 0, issuedAt := 0, suspends := 0, overran := false, waitSince := none, window := none }

/-- Add the descriptor of a booked read, and that of the window it opens (R145). -/
def addRead (s : State) (d : Desc) (se : Sense) : State :=
  let s := addDesc s { d with start := se.start, window := se.window }
  match se.opens with
  | none => s
  | some w => addDesc s { descDefault with ch := d.ch, opcode := 0x30, slot := d.slot, firm := true, cls := d.cls, start := w.start,
                                           length := w.length }

/-- Block and wordline that hold course `c` of a member (R114: splice points map wordline x to x − s). -/
def blockAt (m : MemberSt) (c : Nat) : Nat × Nat :=
  m.splices.foldl (fun b sp => if sp.course ≤ c then (sp.block, c - sp.course) else b) (m.block, c)

/-! ### Routes of a slot (R80 step 4, R81, R171) -/

/-- The Loft holds a page in a channel that is Running, and the insertion has ended. -/
def loftHit (s : State) (nsid page : Nat) : Bool :=
  s.dram.loft.any fun l => l.nsid == nsid && l.page == page &&
    decide (l.ready ≤ now s) && l.replicas.any fun b => !notRunning s (if b then 7 else 6)

/-- The lowest-numbered written unit of a slot that is not in the Eaves Buffer. -/
def firstOnMedia (s : State) (nsid u n : Nat) : Option Nat :=
  ((List.range n).map (u + ·)).find? fun v => unitWritten s nsid v && (eavesOf s nsid v).isNone

/-- Members of a thatch that are lost for good while course `c` is on them (R37, R80 step 4). -/
def lostInCourse (p : Profile) (th : ThatchSt) (c : Nat) : Nat :=
  countP (fun (m : MemberSt) => m.lost && decide (c < (if p.twoPass = 0 then m.fog else m.fine))) th.members

/-- Block and wordline of the copy of a unit in the Underlay of a die (R191, R193): by the die's log, or in the block that a compaction
is still reading. -/
def underlayAt (s : State) (d : DieNo) (nsid u : Nat) : Option (Nat × Nat) :=
  let has (y : UnderlayYealm) : Bool := y.die == d && y.nsid == nsid && y.units.contains u
  let at' (y : UnderlayYealm) : Nat × Nat := (y.block, y.wl)
  match s.eav.underlayLog.reverse.find? has with
  | some y => some (at' y)
  | none => (s.eav.compactions.filter fun c => c.die == d && (!c.wiped || c.src != c.dst)).findSome? fun c => (c.live.find? has).map at'

/-- A copy of a unit in the Underlay of a die can be read. -/
def underlayUp (s : State) (d : DieNo) (nsid u : Nat) : Bool := dieUp s d && (underlayAt s d nsid u).isSome

/-- First route that applies to a slot, in the order of R80 step 4; none when no member can serve it (0xC5). A slot on the Loft or
Eaves route that holds a marked LBA still completes with Unrecovered Read Error. -/
def routeOf (s : State) (nsid u n : Nat) : Option Route :=
  let us := (List.range n).map (u + ·)
  let bad := us.any (unitBad s nsid)
  if !bad && us.all (fun v => !unitWritten s nsid v) then some .unwritten
  else if loftHit s nsid (u / 4) then some .loft
  else match firstOnMedia s nsid u n with
    | none => if us.any fun v => unitBad s nsid v && (eavesOf s nsid v).isNone then some .unrecoverable else some .eaves
    | some v =>
      if bad then some .unrecoverable
      else if (unitRecovery s nsid v).isSome then some .recovered
      else match mediaPlace s nsid v with
        | none => some .unwritten
        | some (t, off) =>
          let th := thatch s t
          let p := place s.prof th.width off
          let out := countP (fun m => !memberUp s m) th.members
          match th.members[p.pos]? with
          | none => some .unwritten
          | some m =>
            if (mediaOf s nsid v).any (·.underlay) then
              if underlayUp s (underlayDie m.die 1) nsid v then some (.underlay (underlayDie m.die 1))
              else if underlayUp s (underlayDie m.die 2) nsid v then some (.underlay (underlayDie m.die 2))
              else none
            else if 2 ≤ lostInCourse s.prof th p.course then some .unrecoverable
            else if memberUp s m then some (.direct m.die)
            else if out = 1 then some (.readAround m.die)
            else none

/-! ### Stages and bounds (Table 03.14), in ns -/

/-- Bytes over the link at 58.8 GB/s, scaled to the link in use (R206), in ns. -/
def linkNs (s : State) (bytes : Nat) : Nat := ceilDiv (bytes * 56000000000 * 10) (max 1 s.adm.linkCapacity * 588)

/-- A read within one codeword: at most 4 KiB. -/
def oneCodeword (units : Nat) : Bool := decide (units ≤ 1)

/-- Lengthening of one read stage at a DATA_RATE below 3,600 MT/s, in ns (R138): the chunk in progress and the codewords of a page. -/
def slowNs (p : Profile) (units : Nat) : Nat := (chunkNs p - 5250) + (if oneCodeword units then 1 else 4) * (cwNs p - 1280)

/-- Lengthening of the read bounds, which hold the hard read and a read-around. -/
def readSlowNs (p : Profile) (units : Nat) : Nat := 2 * slowNs p units

/-- Read-around stage in ns. -/
def raStage (p : Profile) (units : Nat) : Nat := (if oneCodeword units then 119750 else 126430) + slowNs p units

/-- Host stage of a read in ns, with the link's term at its ceiling in use (R206): 2.00 µs for one codeword at 64 GT/s on 8 lanes. -/
def hostStage (s : State) (units : Nat) : Nat := 1930 + linkNs s (max 1 units * 4096)

/-- Round up to the next multiple of 25 µs. -/
def up25 (ns : Nat) : Nat := 25 * ceilDiv ns 25000

/-- Number of 16 KiB slots that a unit range touches. -/
def slotsTouched (u n : Nat) : Nat := if n = 0 then 0 else (u + n - 1) / 4 - u / 4 + 1

/-- Sum of Table 03.14 for a read of `n` units in `q` slots of thatches of width `w`, in ns (R86). -/
def sumOfRead (s : State) (n q w : Nat) : Nat :=
  if oneCodeword n then 241930 + linkNs s 4096 + readSlowNs s.prof n
  else 180290 + 75000 * ceilDiv q (w - 1) + linkNs s (n * 4096) + readSlowNs s.prof n

/-- Sum of Table 03.14 for a read of `n` units from unit `u` in thatches of width `w`, in ns (R86). -/
def readSum (s : State) (u n w : Nat) : Nat := sumOfRead s n (slotsTouched u n) w

/-- Sum of Table 03.14 for a write, in ns (R86; the table is worked for a HOST_READ_LAT of 2 µs). -/
def writeSum (s : State) (bytes : Nat) : Nat :=
  12660 + s.prof.hostReadLat * 1000 + max (linkNs s bytes) (eavesNs s.prof (262144 + bytes))

end Sys2Proof.Machine
end

