-- ==== Sys2Proof/Machine/Loft.lean ====
section
/-! DEFINITION. The Loft (R50, R275, R288) and the zone descriptor extension as it is read (R46, R47). -/

namespace Sys2Proof.Machine

/-! ### Zone descriptor extension (Table 02.7) -/

/-- Little-endian field of an extension. -/
def extField (e : List Byte) (first n : Nat) : Nat := leNat ((e.drop first).take n)

/-- Hint version. -/
def extVersion (e : List Byte) : Nat := extField e 0 2

/-- The extension in effect: one of version 0x0001; without it every hint has its default (R47). -/
def hints (z : ZoneSt) : List Byte :=
  match z.ext with
  | some e => if extVersion e = 1 then e else leBytes 2 0 ++ [0, 1, 0xFF, 0xFF] ++ zeros 58
  | none => leBytes 2 0 ++ [0, 1, 0xFF, 0xFF] ++ zeros 58

/-- Lifetime class in effect. -/
def lifetime (z : ZoneSt) : Nat := extField (hints z) 2 1

/-- Read heat in effect. -/
def heat (z : ZoneSt) : Nat := extField (hints z) 3 1

/-- Bay set ID named. -/
def hintSet (z : ZoneSt) : Nat := extField (hints z) 4 2

/-- Exclusive placement. -/
def hintExclusive (z : ZoneSt) : Bool := extField (hints z) 6 1 % 2 == 1

/-- Allow short thatch. -/
def hintShort (z : ZoneSt) : Bool := bits (extField (hints z) 6 1) 1 1 == 1

/-- Title tag, 0 for none. -/
def hintTag (z : ZoneSt) : Nat := extField (hints z) 8 8

/-- Extensions that Set Zone Descriptor Extension refuses (R47). Under hint version 0x0000 the SL4096 reads no hint, and none is
checked (DESIGN CHOICE, log entry 88: R47 does not say whether its limits hold then). -/
def extBad (ns : NsSt) (e : List Byte) : Bool :=
  decide (1 < extVersion e) ||
    (extVersion e == 1 && (decide (7 < extField e 2 1) || decide (3 < extField e 3 1) ||
      !(extField e 4 2 == 0xFFFF || ns.sets.any fun x => x.1 == extField e 4 2)))

/-! ### The Loft -/

/-- Home channel of a page (R275): bit 0 of a hash of its die, block and page address. -/
def loftHome (s : State) (nsid page : Nat) : Bool :=
  match mediaPlace s nsid (page * 4) with
  | none => Config.loftHash nsid 0 page % 2 == 1
  | some (t, off) =>
    let th := thatch s t
    let p := place s.prof th.width off
    match th.members[p.pos]? with
    | some m => Config.loftHash m.die (blockAt m p.course).1 (p.course * 16 + p.page) % 2 == 1
    | none => Config.loftHash nsid 0 page % 2 == 1

/-- Invalidate the Loft pages that meet a test (Table 03.16 step 6; a read that pinned one holds its data already). -/
def dropLoft (s : State) (p : LoftPage → Bool) : State :=
  { s with dram := { s.dram with loft := s.dram.loft.filter fun l => !p l } }

/-- Put a page into its home channel: into a free frame, else into that of the page inserted longest ago that no plan pins (DESIGN
CHOICE, log entry 31), else not at all. -/
def putPage (s : State) (new : LoftPage) : State :=
  if loftUsed s new.chB < loftFrames s then { s with dram := { s.dram with loft := s.dram.loft ++ [new] } }
  else match s.dram.loft.find? fun l => l.pins == 0 && l.replicas == [new.chB] with
    | some v => { s with dram := { s.dram with loft := s.dram.loft.erase v ++ [new] } }
    | none => s

/-- Insert a page into its home channel. The spec states no time for it, so it ends after a free number of µs (log entry 98). A
written LOFT_SIZE takes effect here (R298). -/
def insertLoft (s : State) (nsid page : Nat) : State :=
  let s := trimLoft s
  let ch := loftHome s nsid page
  if notRunning s (if ch then 7 else 6) || loftFrames s = 0 || s.dram.loft.any (fun l => l.nsid == nsid && l.page == page) then s
  else
    putPage (tickFree s) { nsid := nsid, page := page, chB := ch, replicas := [ch], heat := 0, pins := 0,
                           seals := pageSeals s nsid page, ready := now s + fresh s 0 }

/-- Reads within 60 s after which a page of this read heat is inserted; none at heat 0 (R50). -/
def heatReads : Nat → Option Nat
  | 1 => some 4
  | 2 => some 2
  | 3 => some 1
  | _ => none

/-- Note one read of a page of a zone that the media served, and insert the page as its heat says (R50; pages of the
conventional region belong to no zone and are not inserted, DEDUCED, log entry 30). -/
def noteRead (s : State) (nsid page : Nat) : State :=
  match nsOf s nsid with
  | none => s
  | some ns =>
    if !ns.zoned then s
    else
      let times := (tblGet [] (nsid, page) s.dram.heatCtr).filter (fun t => decide (now s < t + 60000000)) ++ [now s]
      let s := { s with dram := { s.dram with heatCtr := tblSet (nsid, page) times s.dram.heatCtr } }
      match heatReads (heat (zone s nsid (page * 4 / zoneUnits))) with
      | some n => if n ≤ times.length then insertLoft s nsid page else s
      | none => s

/-- LOFT_FRAME_REPLICATE (R288): copy a frame of a page to another bank of the same channel where a frame is free, else
to the other channel; a page has at most four replicas. -/
def replicateLoft (s : State) (l : LoftPage) : State :=
  if 4 ≤ l.replicas.length then s
  else
    let room (ch : Bool) : Bool := decide (loftUsed s ch < loftFrames s) && !notRunning s (if ch then 7 else 6)
    let put (ch : Bool) : State :=
      { s with dram := { s.dram with loft := s.dram.loft.map fun x =>
                           if x.nsid == l.nsid && x.page == l.page then { x with replicas := x.replicas ++ [ch] } else x } }
    if room l.chB then put l.chB else if room (!l.chB) then put (!l.chB) else s

end Sys2Proof.Machine
end

