-- ==== Sys2Proof/Machine/Blocks.lean ====
section
/-! DEFINITION. Die blocks and placement: free and spare pools (R110 to R112), ready thatches (R117, R118), choosing a bay
and binding a thatch (R39, R48, R49), conventional thatches (R55, R122), release of a thatch (R43). -/

namespace Sys2Proof.Machine

/-- The element of a list with the greatest key, the first one on ties. -/
def argMax (l : List Nat) (key : Nat → Nat × Nat) : Option Nat :=
  l.foldl (fun best b =>
    match best with
    | none => some b
    | some a => if (key a).1 < (key b).1 || ((key a).1 == (key b).1 && decide ((key a).2 < (key b).2)) then some b else some a)
    none

/-- The element of a list with the least key, the first one on ties. -/
def argMin (l : List Nat) (key : Nat → Nat × Nat) : Option Nat :=
  l.foldl (fun best b =>
    match best with
    | none => some b
    | some a => if (key b).1 < (key a).1 || ((key b).1 == (key a).1 && decide ((key b).2 < (key a).2)) then some b else some a)
    none

/-! ### Blocks of a die -/

/-- Lowest zone-mode block of a die that no table entry describes: never used, erase count 0. -/
def freshBlock (x : DieSt) : Option Nat :=
  ((List.range (x.blocks.length + 1)).map (x.nextZone + ·)).find? fun k =>
    decide (k < x.zoneEnd) && (tblFind? k x.blocks).isNone

/-- Free die blocks of a die that have been used before. -/
def usedFree (x : DieSt) : List (Nat × BlockSt) := x.blocks.filter (·.2.use == .free)

/-- Zone-mode blocks never used. -/
def freshCount (x : DieSt) : Nat :=
  x.zoneEnd - x.nextZone - countP (fun e => decide (x.nextZone ≤ e.1) && decide (e.1 < x.zoneEnd)) x.blocks

/-- Free blocks of a die, erased or not. -/
def freeCount (x : DieSt) : Nat := freshCount x + (usedFree x).length

/-- Preference of R117: lowest erase count, then an erased block, then the lowest number. -/
def lessWorn (a b : Nat × BlockSt) : Bool :=
  decide (a.2.erases < b.2.erases) || (a.2.erases == b.2.erases &&
    ((a.2.erased && !b.2.erased) || (a.2.erased == b.2.erased && decide (a.1 < b.1))))

/-- The least-worn free block of a die (R112, R115, R117). -/
def leastWorn (x : DieSt) : Option (Nat × BlockSt) :=
  let fresh := match freshBlock x with
    | some k => [(k, blockDefault)]
    | none => []
  (usedFree x ++ fresh).foldl (fun b e =>
    match b with
    | none => some e
    | some y => if lessWorn e y then some e else some y) none

/-- Set a block of a die, and move the never-used pointer past it. -/
def setBlock (s : State) (d : DieNo) (k : Nat) (b : BlockSt) : State :=
  updDie s d fun x => { x with blocks := tblSet k b x.blocks, nextZone := if k = x.nextZone then k + 1 else x.nextZone }

/-- Take the least-worn free block of a die for a use. -/
def takeFree (s : State) (d : DieNo) (u : BlockUse) : Option (State × Nat) :=
  match leastWorn (die s d) with
  | some (k, b) => some (setBlock s d k { b with use := u }, k)
  | none => none

/-- Take the least-worn erased free block of a die (R199); an unerased one, erased before its first program, where the die
has no erased one (DEDUCED, log entry 42). -/
def takeErased (s : State) (d : DieNo) (u : BlockUse) : Option (State × Nat) :=
  let best := ((usedFree (die s d)).filter (·.2.erased)).foldl (fun (b : Option (Nat × BlockSt)) e =>
    match b with
    | none => some e
    | some y => if lessWorn e y then some e else some y) none
  match best with
  | some (k, b) => some (setBlock s d k { b with use := u }, k)
  | none => takeFree s d u

/-- Spare blocks of a die that no table entry describes, lowest first: at most one more than are described. -/
def freshSpares (x : DieSt) : List Nat :=
  ((List.range (x.blocks.length + 1)).map (x.nextSpare + ·)).filter fun k =>
    decide (k < x.spareEnd) && (tblFind? k x.blocks).isNone

/-- Blocks in the spare pool of a die (R112): those with a record and those never used. -/
def spareCount (x : DieSt) : Nat :=
  x.spareExtra.length + (x.spareEnd - x.nextSpare -
    countP (fun e => decide (x.nextSpare ≤ e.1) && decide (e.1 < x.spareEnd)) x.blocks)

/-- Event of a row of Table 05.9 (R129; the event type and its payload are a DESIGN CHOICE, log entry 90: 0x0052 with the object, 0x80
plus the row, and 0). -/
def wearEvent (s : State) (obj row : Nat) : State := recordEvent s 0x0052 0 0 3 (leBytes 4 obj ++ leBytes 1 (0x80 + row) ++ leBytes 1 0)

/-- A row of Table 05.9 comes into force or ends: its event is recorded once. -/
def wornRow (s : State) (obj row : Nat) (on : Bool) : State :=
  let known := s.fl.wornRows.contains (obj, row)
  if on && !known then wearEvent { s with fl := { s.fl with wornRows := s.fl.wornRows ++ [(obj, row)] } } obj row
  else if !on && known then { s with fl := { s.fl with wornRows := s.fl.wornRows.filter (· != (obj, row)) } }
  else s

/-- Take a block from the spare pool: first one with a record, in the order in which they joined the pool, then the lowest never
used (DESIGN CHOICE, log entry 93: R112 does not say which). The last one leaves the pool empty (R129). -/
def takeSpare (s : State) (d : DieNo) (u : BlockUse) : Option (State × Nat) :=
  let x := die s d
  let taken (s : State) (k : Nat) : State × Nat :=
    let s := updBlock s d k fun b => { b with use := u }
    (wornRow s d 2 (spareCount (die s d) == 0), k)
  match x.spareExtra with
  | k :: rest => some (taken (updDie s d fun y => { y with spareExtra := rest }) k)
  | [] =>
    match freshSpares x with
    | k :: _ => some (taken s k)
    | [] => none

/-- A replacement block under R112: from the spare pool, else the least-worn free block, which lowers b_d by one. -/
def takeReplacement (s : State) (d : DieNo) (u : BlockUse) : Option (State × Nat) :=
  match takeSpare s d u with
  | some r => some r
  | none => match takeFree s d u with
    | some (s, k) => some (updDie s d fun x => { x with bd := x.bd - 1 }, k)
    | none => none

/-- A free zone block went bad (R112): a spare block joins the free pool in its place; without one b_d falls by one. -/
def coverFree (s : State) (d : DieNo) : State :=
  match takeSpare s d .free with
  | some (s, _) => s
  | none => updDie s d fun x => { x with bd := x.bd - 1 }

/-- The copies of a die's tables follow them (R111): in the system area of the die at the next position of its bay, and in DRAM in
both channels. -/
def copyTables (s : State) (d : DieNo) : State :=
  let b := 128 * (d / 128 / 16) + d % 128
  let t := ((die s d).fbbt, (die s d).gbbt)
  let s := updDie s (bayDie b ((d / 128 % 16 + 1) % 16)) fun x => { x with ofPrev := t }
  { s with fl := { s.fl with tablesA := if notRunning s 6 then s.fl.tablesA else tblSet d t s.fl.tablesA,
                             tablesB := if notRunning s 7 then s.fl.tablesB else tblSet d t s.fl.tablesB } }

/-- Least-worn orphan of a plane (R110); the lowest plane block on ties. -/
def bestOrphan (x : DieSt) (p : Nat) : Option Nat :=
  argMin ((x.orphans.filter (·.1 == p)).map (·.2)) fun k => (tblGet 0 (p, k) x.planeErases, k)

/-- As soon as every plane of a die holds an orphan, the least-worn of each form a die block of the spare pool (R110), under the next
number that no die block has had since the build. -/
def formBlock (s : State) (d : DieNo) : State :=
  let x := die s d
  let best := (List.range s.prof.planes).map (bestOrphan x)
  if s.prof.indepPlaneAddr = 0 || best.isEmpty || best.any (·.isNone) then s
  else
    let ks := best.filterMap id
    let n := s.prof.blocksPerPlane + x.formed.length
    let used := ks.zipIdx.map fun e => (e.2, e.1)
    let most := used.foldl (fun a i => max a (tblGet 0 i x.planeErases)) 0
    let s := updDie s d fun x => { x with formed := x.formed ++ [(n, ks)], orphans := x.orphans.filter (!used.contains ·),
                                          blocks := tblSet n { blockDefault with use := .spare, erases := most } x.blocks,
                                          spareExtra := x.spareExtra ++ [n], goodBlocks := x.goodBlocks + 1 }
    wornRow s d 2 false

/-- A die block goes bad (R110, R111, Table 05.2): its plane blocks in the mask, or all of them under mask 0 or one address for all
planes, enter the GBBT as far as its 1,024 entries go; the other ones become orphans. -/
def enterPlanes (s : State) (d : DieNo) (k mask cause : Nat) (holds : Bool) : State :=
  let ks := (planeBlocks s d k).zipIdx
  let m := mask % 2 ^ s.prof.planes
  let bad (p : Nat) : Bool := m == 0 || s.prof.indepPlaneAddr == 0 || m.testBit p
  let es := (ks.filter fun e => bad e.2).map fun e => BadEntry.mk e.1 e.2 cause holds s.tm.opSeconds
  let left := (ks.filter fun e => !bad e.2).map fun e => (e.2, e.1)
  let s := updDie s d fun x => { x with gbbt := (x.gbbt ++ es).take 1024, goodBlocks := x.goodBlocks - 1, orphans := x.orphans ++ left }
  copyTables (formBlock (updBlock s d k fun b => { b with use := .bad }) d) d

/-- Every plane block of a die block goes bad. -/
def enterGbbt (s : State) (d : DieNo) (k cause : Nat) (holds : Bool) : State := enterPlanes s d k 0 cause holds

/-- Planes of a die block whose plane block has reached an erase limit (R113). -/
def wornPlanes (s : State) (d : DieNo) (k limit : Nat) : Nat :=
  sumNat ((planeBlocks s d k).zipIdx.map fun e => if limit ≤ tblGet 0 (e.2, e.1) (die s d).planeErases then 2 ^ e.2 else 0)

/-! ### Bays -/

/-- Erase of a member's block that an unbound thatch still waits for. -/
def ThatchSt.isReady (t : ThatchSt) : Bool := t.kind == .ready && t.erasing.isEmpty

/-- Unbound ready thatches of a bay, as (number, thatch), lowest number first. -/
def readyOf (s : State) (b : Nat) : List (Nat × ThatchSt) := s.fl.thatches.filter fun e => e.2.bay == b && e.2.isReady

/-- ready_width(b) of R48. -/
def readyWidth (s : State) (b : Nat) : Nat := if (readyOf s b).isEmpty then 0 else membersUp s b

/-- Non-Empty zones backed in a bay that meet a test. -/
def bayZones (s : State) (b : Nat) (p : ZoneSt → Bool) : Nat :=
  countP (fun e => e.2.st != .empty && p e.2 && match zoneThatch s e.2 with
    | some t => t.bay == b
    | none => false) (zoneList s)

/-- active(b) of R48. -/
def bayActive (s : State) (b : Nat) : Nat := bayZones s b (·.st.isActive)

/-- free_blocks(b) of R48: free blocks of the members in service, those of unbound ready thatches included. -/
def bayFree (s : State) (b : Nat) : Nat :=
  let ds := ((List.range 16).map (bayDie b)).filter (dieUp s)
  sumNat (ds.map fun d => freeCount (die s d)) +
    sumNat ((s.fl.thatches.filter fun e => e.2.bay == b && e.2.kind == .ready).map fun e =>
      countP (fun m => dieUp s m.die) e.2.members)

/-- Choice among the bays of one set (the body of choose_bay's loop, R48). -/
def chooseAmong (s : State) (z : ZoneSt) (bays : List Nat) : Option Nat :=
  let low := (minNat? (bays.map (bayActive s))).getD 0
  let bays := bays.filter fun b => decide (bayActive s b ≤ low + 4)
  if heat z = 3 then argMin bays fun b => (bayZones s b (fun y => heat y == 3), bayActive s b)
  else
    let same (b : Nat) : Nat := bayZones s b fun y => hintTag y == hintTag z && lifetime y == lifetime z
    let tagged := if hintTag z = 0 then [] else bays.filter fun b => decide (0 < same b)
    if tagged.isEmpty then argMax bays fun b => (bayZones s b (fun y => lifetime y == lifetime z), bayFree s b)
    else argMax tagged fun b => (bayZones s b (fun y => hintTag y == hintTag z), 0)

/-- Zone reservation of a namespace in a set. -/
def reservation (ns : NsSt) (k : Nat) : Nat := sumNat ((ns.sets.filter fun e => e.1 == k).map (·.2))

/-- Bay sets that choose_bay tries, in order (R48). -/
def chooseSets (ns : NsSt) (z : ZoneSt) : List Nat :=
  let first := if hintSet z = 0xFFFF then (ns.sets.map (·.1)).take 1 else [hintSet z]
  if hintExclusive z then first else (first ++ ns.sets.map (·.1)).eraseDups

/-- choose_bay (R48): the set and the bay for a new thatch of width `w`. -/
def chooseBay (s : State) (ns : NsSt) (z : ZoneSt) (w : Nat) : Option (Nat × Nat) :=
  (chooseSets ns z).findSome? fun k =>
    if inUse s ns.nsid k = reservation ns k then none
    else
      let bays := (setBays s k).filter fun b => decide (w ≤ readyWidth s b)
      (chooseAmong s z bays).map fun b => (k, b)

/-- Widths that binding tries: the width of the zone's capacity, then, with the allow-short-thatch flag, narrower ones down to
MIN_WIDTH (R49, R59). -/
def bindWidths (s : State) (z : ZoneSt) : List Nat :=
  let w := z.cap * 4096 / max 1 (blockData s.prof) + 1
  if hintShort z then w :: (List.range w).reverse.filter fun x => decide (s.prof.minWidth ≤ x) else [w]

/-! ### Binding -/

/-- Erase count of a member's block. -/
def memberErases (s : State) (m : MemberSt) : Nat := (block s m.die m.block).erases

/-- The `w` members kept at a binding (R118): lowest erase counts, ties by the lowest position, in position order. -/
def keptMembers (s : State) (ms : List MemberSt) (w : Nat) : List MemberSt :=
  let up := ms.filter fun m => dieUp s m.die
  let before (a b : MemberSt) : Bool :=
    decide (memberErases s a < memberErases s b) || (memberErases s a == memberErases s b && decide (a.die < b.die))
  up.filter fun m => decide (countP (fun x => before x m) up < w)

/-- Return a block to the free pool. -/
def freeBlock (s : State) (d : DieNo) (k : Nat) : State :=
  if (block s d k).use == .bad then s else updBlock s d k fun b => { b with use := .free }

/-- Bind the lowest-numbered ready thatch of a bay that has a width, with its kind and owner (R39, R118, R262). -/
def bindThatch (s : State) (b w k : Nat) (kind : ThatchKind) (nsid z gen : Nat) : Option (State × Nat) :=
  match (readyOf s b).find? fun e => decide (w ≤ (keptMembers s e.2.members w).length) with
  | none => none
  | some (t, th) =>
      let kept := keptMembers s th.members w
      let rest := th.members.filter fun m => !kept.any fun x => x.die == m.die
      let s := forEach rest (fun m s => freeBlock s m.die m.block) s
      let s := forEach kept (fun m s => updBlock s m.die m.block fun x => { x with use := .bound }) s
      some (updThatch s t fun x => { x with members := kept, kind := kind, set := k, nsid := nsid, zone := z, generation := gen,
                                            lastCourseOp := opUs s }, t)

/-- Current media key generation of a namespace (R262): 0 without a media key. -/
def generationOf (s : State) (nsid : Nat) : Nat :=
  let a := tblGet keySlotDefault (2 * (nsid - 1)) s.sec.slots
  let b := tblGet keySlotDefault (2 * (nsid - 1) + 1) s.sec.slots
  if b.state = 1 then b.generation else a.generation

/-- A zone as the binding for a command sees it: under the extension that a Set Zone Descriptor Extension brings (R46). -/
def servedZone (s : State) (c : Cmd) (zi : Nat) : ZoneSt :=
  let z := zone s c.nsid zi
  match c.op with
  | .setZoneDescriptorExtension _ _ e => { z with ext := some (padTo 64 e) }
  | _ => z

/-- Bind a thatch to a zone seen as `z` (R39, R48, R49): the first width and bay that give one. A new MIN_WIDTH counts from this
binding on (R61). -/
def bindZone (s0 : State) (ns : NsSt) (zi : Nat) (z : ZoneSt) : Option State :=
  let s := takeDue s0 1
  (bindWidths s z).findSome? fun w =>
    match chooseBay s ns z w with
    | some (k, b) => (bindThatch s b w k .zone ns.nsid zi (generationOf s ns.nsid)).map fun r =>
        updZone r.1 ns.nsid zi fun y => { y with thatch := some r.2 }
    | none => none

/-- A bay could give the zone a thatch now. -/
def canBind (s : State) (ns : NsSt) (zi : Nat) : Bool :=
  let z := zone s ns.nsid zi
  (bindWidths s z).any fun w => (chooseBay s ns z w).isSome

/-! ### Assembly (R117) -/

/-- Assemble an unbound thatch in a bay: the least-worn free block of each member in service; members whose block is not
erased wait for an erase. None when a member has no free block. -/
def assembleReady (s : State) (b : Nat) : Option State :=
  let ds := ((List.range 16).map (bayDie b)).filter (dieUp s)
  let step (acc : Option (State × List MemberSt × List DieNo)) (d : DieNo) : Option (State × List MemberSt × List DieNo) :=
    match acc with
    | none => none
    | some (s, ms, es) =>
      match takeFree s d .ready with
      | none => none
      | some (s, k) =>
        let m : MemberSt := { die := d, block := k, splices := [], fog := 0, fine := 0, aborted := false, lost := false }
        some (s, ms ++ [m], if (block s d k).erased then es else es ++ [d])
  if ds.isEmpty then none
  else match ds.foldl step (some (s, [], [])) with
    | none => none
    | some (s, ms, es) =>
      let t := s.fl.nextThatch
      let th : ThatchSt := { thatchDefault with bay := b, set := bayOwner s b, members := ms, kind := .ready, erasing := es }
      some { s with fl := { s.fl with thatches := tblSet t th s.fl.thatches, nextThatch := t + 1 } }

/-! ### Conventional thatches (R55, R122) -/

/-- A conventional thatch in use. -/
def isConv : ThatchKind → Bool
  | .convHost => true
  | .convReloc => true
  | .convClosed => true
  | _ => false

/-- N_c: conventional thatches as built (R28, R30). -/
def convThatches (s : State) : Nat := s.fl.geo.convPerDie * s.fl.geo.convBays.length

/-- Conventional thatches that the bays which hold them can assemble now: at full width, from the free blocks of every member. -/
def convBuildable (s : State) : Nat :=
  sumNat ((s.fl.geo.convBays.filter fun b => membersUp s b == 16).map fun b =>
    (minNat? ((List.range 16).map fun i => freeCount (die s (bayDie b i)))).getD 0)

/-- Free conventional thatches: those of N_c not in use, as far as set 0 can build them (Table 05.9). -/
def convSpare (s : State) : Nat := min (convThatches s - countP (fun e => isConv e.2.kind) s.fl.thatches) (convBuildable s)

/-- F (R122): free conventional thatches less the one kept for the next relocation target. -/
def convFree (s : State) : Nat := convSpare s - 1

/-- The conventional thatch that takes host writes. -/
def convHost (s : State) : Option (Nat × ThatchSt) := s.fl.thatches.find? fun e => e.2.kind == .convHost

/-- Slots of a full-width thatch. -/
def convSlots (s : State) : Nat := capUnits s.prof 16

/-- Granules the open host thatch still takes. -/
def convRoom (s : State) : Nat :=
  match convHost s with
  | some (_, t) => convSlots s - t.granules.length
  | none => 0

/-- Open a conventional thatch of a kind (R117: assembled as a ready thatch, at full width), in the bay with
conventional thatches and the most free blocks; erases it still needs come before its first program. One free thatch is kept
for the next relocation target (R122). -/
def openConv (s : State) (kind : ThatchKind) : Option (State × Nat) :=
  if (if kind = .convHost then convFree s else convSpare s) = 0 then none else
  let bays := s.fl.geo.convBays.filter fun b => membersUp s b == 16
  match argMax bays fun b => (bayFree s b, 0) with
  | none => none
  | some b => match assembleReady s b with
    | none => none
    | some s' => some (updThatch s' s.fl.nextThatch fun x => { x with kind := kind, set := 0, lastCourseOp := opUs s }, s.fl.nextThatch)

/-- Invalidate the conventional map entry of a granule, and its slot. -/
def convUnmap (s : State) (nsid u : Nat) : State :=
  match tblFind? (nsid, u) s.zns.conv with
  | none => s
  | some (t, i) =>
    let s := { s with zns := { s.zns with conv := tblDel (nsid, u) s.zns.conv } }
    updThatch s t fun x => { x with granules := vecUpd x.granules i fun _ => none }

/-- Map a granule onto the next slot of the open host thatch, closing it when it is full (R55). -/
def convMap (s : State) (nsid u : Nat) : State :=
  let s := convUnmap s nsid u
  let opened := match convHost s with
    | some e => some (s, e.1)
    | none => openConv s .convHost
  match opened with
  | none => s
  | some (s, t) =>
    let i := (thatch s t).granules.length
    let s := updThatch s t fun x =>
      { x with granules := x.granules ++ [some (nsid, u)],
               kind := if x.granules.length + 1 < convSlots s then x.kind else .convClosed }
    { s with zns := { s.zns with conv := tblSet (nsid, u) (t, i) s.zns.conv } }

/-- Close a conventional thatch: the rest of its last course is filler. -/
def closeConv (s : State) (t : Nat) : State :=
  updThatch s t fun x =>
    let cu := max 1 ((x.width - 1) * yealm s.prof / 4096)
    { x with kind := .convClosed,
             granules := x.granules ++ List.replicate ((x.granules.length + cu - 1) / cu * cu - x.granules.length) none }

/-! ### Relocation scores (R121) -/

/-- A thatch is the source of a relocation. -/
def relocating (s : State) (t : Nat) : Bool := s.fl.relocations.any fun r => r.src == t && !r.abandoned

/-- Whole hours of a thatch's age (R121). -/
def ageHours (s : State) (th : ThatchSt) : Nat := (opUs s - th.lastCourseOp) / 3600000000

/-- Age a of a thatch in hours of operating time (R121). -/
def ageOf (s : State) (th : ThatchSt) : Rat := ((opUs s - th.lastCourseOp : Nat) : Rat) / 3600000000

/-- Mean of a list of counts; 0 of none. -/
def mean (l : List Nat) : Rat := if l.isEmpty then 0 else (sumNat l : Rat) / (l.length : Rat)

/-- Valid granules of a conventional thatch. -/
def validCount (th : ThatchSt) : Nat := countP (·.isSome) th.granules

/-- Mean erase count of the free blocks of set 0 (R121); a retired die has none. -/
def freeMean (s : State) : Rat :=
  mean ((setBays s 0).flatMap fun b => (List.range 16).flatMap fun i =>
    let x := die s (bayDie b i)
    if x.retired then [] else (usedFree x).map (·.2.erases) ++ List.replicate (freshCount x) 0)

/-- Mean erase count of a thatch's blocks, spliced ones included (R121). -/
def thatchErases (s : State) (th : ThatchSt) : Rat :=
  mean (th.members.flatMap fun m => (m.block :: m.splices.map (·.block)).map fun k => (block s m.die k).erases)

/-- s_wr of R121. -/
def wearScore (s : State) (th : ThatchSt) : Rat :=
  let d := freeMean s - thatchErases s th - (s.prof.wearGap : Rat)
  (s.prof.wearGain : Rat) * (if 0 < d then d else 0)

/-- Relocation score of a closed conventional thatch (R121), but for the place of a lost member. -/
def relocScore (s : State) (th : ThatchSt) : Rat :=
  let n : Rat := (convSlots s : Nat)
  let v : Rat := if n = 0 then 0 else (validCount th : Rat) / n
  let a : Rat := if ageOf s th < 720 then ageOf s th else 720
  1000 * (1 - v) / (1 + v) * (1 + a / 168) + wearScore s th

/-- A thatch's place in the order of R121 against the best so far: one with a lost member first, then the higher score, then the lower
number. -/
def scoresAbove (a b : Nat × Bool × Rat) : Bool :=
  if a.2.1 != b.2.1 then a.2.1 else decide (b.2.2 < a.2.2) || (a.2.2 == b.2.2 && decide (a.1 < b.1))

/-- Every granule of a closed conventional thatch lies in a settled course. -/
def convSettled (s : State) (th : ThatchSt) : Bool := decide (th.granules.length ≤ th.settled * max 1 ((th.width - 1) * yealm s.prof / 4096))

/-- The closed conventional thatch with the highest score among those that meet a test (R121). -/
def bestVictim (s : State) (p : ThatchSt → Bool) : Option Nat :=
  ((s.fl.thatches.filter fun e => e.2.kind == .convClosed && !e.2.released && !relocating s e.1 && convSettled s e.2 && p e.2).foldl
    (fun (best : Option (Nat × Bool × Rat)) e =>
      let x := (e.1, e.2.members.any (·.lost), relocScore s e.2)
      match best with
      | none => some x
      | some y => if scoresAbove x y then some x else some y) none).map (·.1)

/-- Time to reclaim one conventional thatch at the rate of the last second (R98, R123; the window is a DESIGN CHOICE, log entry 96); none
where nothing was relocated in it. -/
def reclaimTime (s : State) : Option Nat :=
  let src := match s.fl.relocations.find? fun r => !r.abandoned && isConv (thatch s r.src).kind with
    | some r => some r.src
    | none => bestVictim s fun _ => true
  let rate := sumNat ((s.fl.relocTrace.filter fun e => decide (now s < e.1 + 1000000)).map (·.2))
  match src with
  | some t => if rate = 0 then none else some (ceilDiv (validCount (thatch s t) * 1000000) rate)
  | none => none

/-! ### Release (R43, R120) -/

/-- Reads accepted earlier still use the thatch (R43): a slot of an accepted command that has not its data yet was placed on it, or a
sense of its blocks is still in a descriptor store. -/
def thatchInUse (s : State) (t : Nat) : Bool :=
  (s.adm.cmds.any fun c => c.accepted && c.slots.any fun x => !x.done && x.loc.any (·.1 == t)) ||
    s.fl.descs.any (fun d => d.thatch == t && (match d.purpose with
      | .hostRead _ _ _ _ => true
      | .raMember _ _ => true
      | _ => false))

/-- The plane blocks of a block spliced out leave service: HOLDS_DATA is cleared in their entries (R114 step 7). -/
def leaveService (s : State) (d : DieNo) (k : Nat) : State :=
  let ks := planeBlocks s d k
  let clear (e : BadEntry) : BadEntry := if ks[e.plane]? == some e.block then { e with holdsData := false } else e
  copyTables (updDie s d fun x => { x with gbbt := x.gbbt.map clear }) d

/-- Drop a thatch whose last reader is gone: its blocks join the free pool unerased, spliced-out blocks leave service
(R114 step 7), and its buffers are released. -/
def dropThatch (s : State) (t : Nat) : State :=
  let th := thatch s t
  let s := releaseBufs s 2 (sumNat (th.bufs.map (·.2)))
  let s := forEach th.members (fun m s =>
    let bs := (m.block :: m.splices.map (·.block)).eraseDups
    forEach bs (fun k s =>
      if (block s m.die k).use == .bad then leaveService s m.die k
      else updBlock s m.die k fun b => { b with use := .free, erased := false }) s) s
  { s with fl := { s.fl with thatches := tblDel t s.fl.thatches } }

/-- Release a thatch (R43): its blocks are held until the last earlier read completes, then they are free. -/
def releaseThatch (s : State) (t : Nat) : State :=
  if thatchInUse s t then updThatch s t fun x => { x with released := true } else dropThatch s t

/-- Drop the released thatches that no read uses any more. -/
def sweepThatches (s : State) : State :=
  forEach ((s.fl.thatches.filter (·.2.released)).map (·.1)) (fun t s => if thatchInUse s t then s else dropThatch s t) s

end Sys2Proof.Machine
end

