-- ==== Sys2Proof/Machine/ZoneOps.lean ====
section
/-! DEFINITION. What changes the state of a zone (R37 to R45, R58), data entering the Eaves Buffer (R181, R183, R224), and
the cancelling of descriptors (R142). -/

namespace Sys2Proof.Machine

/-! ### Descriptors leaving the store -/

/-- Remove the bookings made under a tag: calendar entries and channel time. -/
def unbook (s : State) (tag : Nat) : State :=
  { s with fl := { s.fl with calendar := s.fl.calendar.filter (fun e => !(e.tag == tag && e.kind != .suspendWindow)),
                             occupancy := s.fl.occupancy.filter (·.tag != tag) } }

/-- Die of a descriptor. -/
def descDie (d : Desc) : DieNo := 128 * d.ch + d.slot

/-- Island that a receiving unit of completion tokens lies in. -/
def unitIsland : DestUnit → Nat
  | .fabric => 5
  | .sparAccumulator => 5
  | .softDecode => 8
  | .purlin => 3

/-- Receiving units of a descriptor's completion token (R143): DEST, the Purlin cluster for programs and erases, and the Soft-Decode
island with the codeword of a read whose hard decode failed (R163, Table 06.7). -/
def tokenUnits (d : Desc) (status : Nat) : List DestUnit :=
  if 0x10 ≤ d.opcode && d.opcode < 0x30 then [d.dest.1, .purlin].eraseDups
  else if status = 2 then [d.dest.1, .softDecode].eraseDups
  else [d.dest.1]

/-- Microseconds from a descriptor's issue until now; 0 where no die has begun it. -/
def descTime (s : State) (d : Desc) : Nat := if d.st = .queued then 0 else now s - d.issuedAt

/-- Return a descriptor's completion token (Tables 06.6, 06.7) to its units, and remove the descriptor. A status other than 0x20 and
0x21 ends the die's row of time-outs (R144). -/
def endDesc (s : State) (d : Desc) (status corrected : Nat) : State :=
  let tok : Token := { ch := d.ch, seqTag := d.seqTag, status := status, maxCorrected := min corrected 255, suspends := d.suspends,
                       overran := d.overran, duration := min (descTime s d / 64) 255, dest := tokenUnits d status }
  let s := { s with fl := { s.fl with descs := s.fl.descs.filter fun x => !(x.ch == d.ch && x.seqTag == d.seqTag),
                                      tokens := s.fl.tokens ++ [tok] } }
  let s := if status = 0x20 || status = 0x21 then s else updDie s (descDie d) fun x => { x with timeouts := 0 }
  forEach (tokenUnits d status) (fun u s => sendToken s (chIsland d.ch) (unitIsland u) false d.seqTag) s

/-- Remove a queued descriptor with a status, and what was booked for it. -/
def dropDesc (s : State) (d : Desc) (status : Nat) : State := unbook (endDesc s d status 0) d.seqTag

/-- A descriptor that senses for an accepted read: its own page, or a member of its read-around. -/
def servesRead (s : State) (d : Desc) : Bool :=
  match d.purpose with
  | .hostRead _ _ _ _ => true
  | .raMember id _ => s.fl.rebuilds.any fun r => r.id == id && r.fn != 65535
  | _ => false

/-- A cancel request (R142): the queued descriptors of a thatch complete with CANCELLED, but for the senses of reads accepted
earlier, which return the old data (R43, Tables 02.6, 03.16). -/
def cancelThatch (s : State) (t : Nat) : State :=
  forEach (s.fl.descs.filter fun d => d.thatch == t && d.st == .queued && !servesRead s d) (fun d s => dropDesc s d 0x33) s

/-! ### Eaves data -/

/-- End the Eaves units that meet a test (an ended epoch, R43; a superseded granule; deallocated data). -/
def endEaves (s : State) (p : EavesUnit → Bool) : State :=
  sweepEaves { s with eav := { s.eav with units := s.eav.units.map fun e => if p e then { e with ended := true } else e } }

/-- Eaves units that meet a test have settled: they are released once no read pins them (R81, R186). -/
def settleEaves (s : State) (p : EavesUnit → Bool) : State :=
  sweepEaves { s with eav := { s.eav with units := s.eav.units.map fun e => if p e then { e with settled := true } else e } }

/-- Forget the media data of units that meet a test. -/
def dropMedia (s : State) (p : MediaUnit → Bool) : State := { s with fl := { s.fl with media := s.fl.media.filter fun m => !p m } }

/-- Clear a conventional unit before it is overwritten or when it is deallocated (R55, R104, R179, R224). -/
def convClear (s : State) (nsid u : Nat) : State :=
  let s := endEaves s fun e => e.nsid == nsid && e.unit == u
  let s := dropLoft (dropMedia (convUnmap s nsid u) fun m => m.nsid == nsid && m.unit == u) fun l => l.nsid == nsid && l.page == u / 4
  sweepRecovery { s with zns := { s.zns with convUnrec := s.zns.convUnrec.filter (· != (nsid, u)),
                                             convPoison := s.zns.convPoison.filter (· != (nsid, u)) } }

/-- Mark a unit's LBA poisoned (R224). -/
def markPoison (s : State) (nsid u : Nat) : State :=
  match nsOf s nsid with
  | none => s
  | some ns =>
    if ns.zoned then updZone s nsid (u / zoneUnits) fun z => { z with poison := z.poison ++ [u % zoneUnits] }
    else { s with zns := { s.zns with convPoison := s.zns.convPoison ++ [(nsid, u)] } }

/-- Add a unit's LBA to the unrecoverable list (R104, R174). -/
def markUnrec (s : State) (nsid u : Nat) : State :=
  match nsOf s nsid with
  | none => s
  | some ns =>
    if ns.zoned then updZone s nsid (u / zoneUnits) fun z =>
      { z with unrec := if z.unrec.contains (u % zoneUnits) then z.unrec else z.unrec ++ [u % zoneUnits] }
    else if s.zns.convUnrec.contains (nsid, u) then s
    else { s with zns := { s.zns with convUnrec := s.zns.convUnrec ++ [(nsid, u)] } }

/-- Runs of consecutive numbers of a rising list, as first and count. -/
def runsOf (l : List Nat) : List (Nat × Nat) :=
  l.foldr (fun a r => match r with
    | (b, n) :: r' => if a + 1 = b then (a, n + 1) :: r' else (a, 1) :: r
    | [] => [(a, 1)]) []

/-- LBAs of a namespace among units, rising. -/
def lbasOf (s : State) (us : List (Nat × Nat)) (nsid : Nat) : List Nat :=
  let per := match nsOf s nsid with
    | some ns => lbaUnits ns
    | none => 1
  ((us.filter (·.1 == nsid)).map (·.2 / per)).eraseDups.mergeSort (· ≤ ·)

/-- The events that name LBAs marked unrecoverable, one for each run of them (R104, R174, Table 19.2). -/
def noteUnrec (s : State) (us : List (Nat × Nat)) : State :=
  forEach (us.map (·.1)).eraseDups (fun n s => forEach (runsOf (lbasOf s us n)) (fun r s =>
    recordEvent s 0x0032 3 5 n (leBytes 4 n ++ leBytes 8 r.1 ++ leBytes 4 r.2)) s) s

/-- An overwritten zone LBA leaves the unrecoverable list and loses its poison mark (R41). -/
def clearMarks (s : State) (nsid u : Nat) : State :=
  match nsOf s nsid with
  | none => s
  | some ns =>
    if ns.zoned && unitBad s nsid u then
      updZone s nsid (u / zoneUnits) fun z =>
        { z with unrec := z.unrec.filter (· != u % zoneUnits), poison := z.poison.filter (· != u % zoneUnits) }
    else s

/-- One 4 KiB unit enters the Eaves Buffer for a command (R181): under the zone epoch of the command's acceptance, so that
data of a zone reset since is discarded (Table 03.11). Its seal is created at the AES output (R309); the LBA it overwrites in a
zone leaves the unrecoverable list and loses its poison mark (R41). -/
def placeUnit (c : Cmd) (u content : Nat) (poison inBoth : Bool) (s : State) : State :=
  let old := c.zone.isSome && epochOf s c.nsid u != c.epoch
  let region := regionOf s c.nsid u c.epoch content
  let e : EavesUnit :=
    { seq := c.seq0 + (u - c.unit0), place := freePlace s, nsid := c.nsid, unit := u, zone := c.zone, epoch := c.epoch, fn := c.fn, content := content,
      key := c.key, inA := inBoth, inB := inBoth, poison := poison, pins := 0, settled := false, ended := old, cmd := some (c.fn, c.sqid, c.cid),
      order := c.order, region := region, sealed := unitSeal c.key u content region }
  let s := { s with eav := { s.eav with units := s.eav.units ++ [e] } }
  let s := if old then s else clearMarks s c.nsid u
  if poison && !old && c.zone.isSome then markPoison s c.nsid u else s

/-- A conventional write whose units are all in both copies replaces the granules' previous data (R55, R199): older units,
media data, Loft pages and marks go, and each granule takes the next slot of the open host thatch. A granule that a write accepted
later has replaced already keeps that one's data. -/
def convCommit (c : Cmd) (s : State) : State :=
  let mine := s.eav.units.filter fun e => e.cmd == some (c.fn, c.sqid, c.cid) && e.order == c.order && !e.ended
  forEach mine (fun e s =>
    if s.eav.units.any fun x => x.nsid == e.nsid && x.unit == e.unit && !x.ended && decide (e.seq < x.seq) && x.inA && x.inB then
      endEaves s fun x => x.seq == e.seq
    else
    let s := endEaves s fun x => x.nsid == e.nsid && x.unit == e.unit && decide (x.seq < e.seq)
    let s := dropLoft (dropMedia (convUnmap s e.nsid e.unit) fun m => m.nsid == e.nsid && m.unit == e.unit)
      fun l => l.nsid == e.nsid && l.page == e.unit / 4
    let s := { s with zns := { s.zns with convUnrec := s.zns.convUnrec.filter (· != (e.nsid, e.unit)),
                                          convPoison := s.zns.convPoison.filter (· != (e.nsid, e.unit)) } }
    let s := convMap (sweepRecovery s) e.nsid e.unit
    if e.poison then markPoison s e.nsid e.unit else s) s

/-! ### Zones -/

/-- Course data of a thatch of width `w` in units. -/
def courseUnits (p : Profile) (w : Nat) : Nat := (w - 1) * yealm p / 4096

/-- Last wordline that a thatch finished at `wp` units receives (R42, R184): the course after the last data course, where
one exists; none without data. -/
def finishCourse (p : Profile) (w wp : Nat) : Option Nat :=
  if wp = 0 || courseUnits p w = 0 then none else some (min (p.wordlines - 1) ((wp - 1) / courseUnits p w + 1))

/-- A zone becomes Full (R42): its thatch's last course is known. `zfc` sets Zone Finished by Controller and reports the
change (R49, R45). -/
def finishZone (s : State) (nsid zi : Nat) (zfc : Bool) : State :=
  let z := zone s nsid zi
  let s := match z.thatch with
    | some t => updThatch s t fun x => { x with endCourse := finishCourse s.prof x.width z.wp }
    | none => s
  let s := updZone s nsid zi fun z => { z with st := .full, zfc := zfc }
  if zfc then zoneChanged s nsid zi else s

/-- Close the least recently written Implicitly Opened zone of a function when the open limit is reached (R38). -/
def makeRoom (s : State) (fn : Nat) : State :=
  if openZones s fn < (limitsOf s fn).2 then s
  else match leastRecentImplicit s fn with
    | some (n, z) => updZone s n z fun y => { y with st := .closed }
    | none => s

/-- Activation objections of a zone for a function (R38): the active limit for an Empty zone, then the open limit. -/
def activationError (s : State) (fn : Nat) (z : ZoneSt) (opens : Bool) : Option NvmeStatus :=
  if z.st == .empty && decide ((limitsOf s fn).1 ≤ activeZones s fn) then some .tooManyActive
  else if opens && !z.st.isOpen && decide ((limitsOf s fn).2 ≤ openZones s fn) && (leastRecentImplicit s fn).isNone then
    some .tooManyOpen
  else none

/-- Reset a zone (R43, R58): programs cancelled, Eaves data ended, Loft pages invalidated, Underlay and Recovery Table
entries dropped, a copy in progress abandoned, the thatch released; the zone takes the promised capacity. -/
def resetZone (s : State) (ns : NsSt) (zi : Nat) : State :=
  let z := zone s ns.nsid zi
  if z.st == .empty && z.thatch.isNone && z.unrec.isEmpty then
    updZone s ns.nsid zi fun y => { y with cap := promisedCap s ns, rzr := false, zfc := false, ext := none }
  else
    let inZone (n u : Nat) : Bool := n == ns.nsid && u / zoneUnits == zi
    let s := match z.thatch with
      | some t =>
        let s := cancelThatch s t
        let s := { s with fl := { s.fl with relocations := s.fl.relocations.map fun r =>
                                    if r.src == t then { r with abandoned := true } else r } }
        releaseThatch s t
      | none => s
    let s := endEaves s fun e => inZone e.nsid e.unit
    let s := dropLoft (dropMedia s fun m => inZone m.nsid m.unit) fun l => inZone l.nsid (l.page * 4)
    let s := endRecovery { s with eav := { s.eav with underlay := s.eav.underlay.filter fun e => !(e.nsid == ns.nsid && e.zone == zi) } }
      fun r => inZone r.nsid (r.page * 4)
    updZone s ns.nsid zi fun y => { zoneDefault (promisedCap s ns) with resets := y.resets + 1 }

/-- Take a Read Only zone Offline (Table 02.5): its thatch is released. -/
def offlineZone (s : State) (nsid zi : Nat) : State :=
  let z := zone s nsid zi
  let s := match z.thatch with
    | some t => releaseThatch (cancelThatch s t) t
    | none => s
  let inZone (n u : Nat) : Bool := n == nsid && u / zoneUnits == zi
  let s := endEaves (dropLoft (dropMedia s fun m => inZone m.nsid m.unit) fun l => inZone l.nsid (l.page * 4))
    fun e => inZone e.nsid e.unit
  let s := endRecovery { s with eav := { s.eav with underlay := s.eav.underlay.filter fun e => !(e.nsid == nsid && e.zone == zi) } }
    fun r => inZone r.nsid (r.page * 4)
  updZone s nsid zi fun y => { y with st := .offline, thatch := none }

/-- A zone takes a write of `n` units at its write pointer (R38, R40, R49, R192): it opens, its write pointer moves, and a
write that ends at the end of the thatch finishes it, by the controller where that comes before the zone capacity. -/
def advanceZone (s : State) (fn nsid zi n : Nat) : State :=
  let s := if (zone s nsid zi).st.isOpen then s else makeRoom s fn
  let s := updZone s nsid zi fun z =>
    { z with st := if z.st.isOpen then z.st else .implicitOpen, wp := z.wp + n, lastWrite := now s, activeSeq := s.zns.nextActive,
             underlay := false }
  let s := { s with zns := { s.zns with nextActive := s.zns.nextActive + 1 } }
  let z := zone s nsid zi
  if thatchEnd s z ≤ z.wp then finishZone s nsid zi (decide (z.wp < z.cap)) else s

/-- Substate of a zone (Table 02.5). -/
def substate (s : State) (z : ZoneSt) : Nat :=
  match z.st with
  | .empty => 0
  | .readOnly => 7
  | .offline => 8
  | .full =>
    if z.reroofing then 6
    else if z.memberLost then 5
    else match zoneThatch s z with
      | some t => if (match t.endCourse with
          | some e => decide (e < t.settled)
          | none => true) then 4 else 3
      | none => 4
  | _ => if z.underlay then 2 else 1

end Sys2Proof.Machine
end

