-- ==== Sys2Proof/Machine/Admit.lean ====
section
/-! DEFINITION. plan_service (R80 to R83, R93, R160, R171, R300, R301, R338): the plan of each kind of command, made on a
copy of the machine that is kept when the plan is committed. -/

namespace Sys2Proof.Machine

/-- A plan: the machine with its bookings, the command with its slots and charges, the reason of the first step that fails
(0 when feasible) with its hint, whether a course has lost two members, and the flash energy in nJ. -/
structure PlanRes where
  st : State
  cmd : Cmd
  reason : Nat
  hint : Nat
  degraded : Bool
  energy : Nat
  deriving DecidableEq, Repr

/-- "No estimate within 4.19 s". -/
abbrev noHint : Nat := 0x3FFFFF

/-- A plan that fails a step. -/
def planFail (s : State) (c : Cmd) (reason hint : Nat) : PlanRes := ⟨s, c, reason, hint, false, 0⟩

/-- Pieces of a unit range that lie in one aligned block of `align` units. -/
def splitUnits (align u n : Nat) : List (Nat × Nat) :=
  if n = 0 then []
  else (List.range ((u + n - 1) / align - u / align + 1)).map fun i =>
    let a := max u ((u / align + i) * align)
    (a, min (u + n) ((u / align + i + 1) * align) - a)

/-- Unit ranges that a command reads: its own for a Read, the sources for a Copy. -/
def readRanges (s : State) (c : Cmd) : List (Nat × Nat) :=
  let align := match nsOf s c.nsid with
    | some ns => if ns.zoned then 4 else 1
    | none => 4
  match c.op with
  | .copy _ src _ => match nsOf s c.nsid with
    | some ns => src.flatMap fun e => splitUnits align (e.1 * lbaUnits ns) (e.2 * lbaUnits ns)
    | none => []
  | _ => splitUnits align c.unit0 c.units

/-! ### The media path of a slot -/

/-- Channel time of a read of `n` codewords in µs (R76: 2 for one codeword, 6 for a full page). -/
def xferUs (p : Profile) (n : Nat) : Nat := (720 + cwNs p * n + 999) / 1000

/-- Flash energy of a sense of `n` codewords in nJ: its token-µs times 25 nJ. -/
def senseEnergy (p : Profile) (slc : Bool) (n : Nat) : Nat :=
  (p.tokSense * (if slc then p.tRSlc else p.tR) * 1000 + p.tokXfer * (720 + cwNs p * n)) * 25 / 1000

/-- Where a slot's first unit on the media lies: thatch and offset. -/
def slotLoc (s : State) (nsid u n : Nat) : Option (Nat × Nat) := (firstOnMedia s nsid u n).bind (mediaPlace s nsid)

/-- The thatch and the place of a location. -/
def locPlace (s : State) (loc : Option (Nat × Nat)) : Option (Nat × ThatchSt × Place) :=
  loc.map fun e => (e.1, thatch s e.1, place s.prof (thatch s e.1).width e.2)

/-- The thatch and the place that serve a slot of a command in service: as its plan found them, while a thatch still holds the page;
a copy that has switched the page's thatch since gives the new place (R120). -/
def slotPlace (s : State) (nsid : Nat) (x : SlotSt) : Option (Nat × ThatchSt × Place) :=
  match x.loc with
  | some l => if (tblFind? l.1 s.fl.thatches).isSome then locPlace s (some l) else locPlace s (slotLoc s nsid x.unit0 x.units)
  | none => locPlace s (slotLoc s nsid x.unit0 x.units)

/-- A slot of a command that is not there. -/
def slotNone : SlotSt := ⟨0, 0, .unwritten, true, false, none, [], 0⟩

/-- Eaves units that serve units of a slot. -/
def slotSeqs (s : State) (nsid u n : Nat) : List Nat := (List.range n).filterMap fun i => (eavesOf s nsid (u + i)).map (·.seq)

/-- What a slot's plan gathers while it goes. -/
structure Acc where
  st : State
  slots : List SlotSt
  charges : List (Nat × Nat)
  energy : Nat
  ends : List (Nat × Nat)
  ok : Bool
  deriving DecidableEq, Repr

/-- What a page read is booked for: purpose and queue, how its sense may be placed (`SenseReq`), and block and wordline where they are
not those of the member. -/
structure PageReq where
  cls : Nat
  slc : Bool
  firm : Bool
  ra : Bool
  mayOpen : Bool
  lead : Nat
  reserve : Nat
  purpose : Purpose
  dest : DestUnit × Nat
  place : Option (Nat × Nat)
  deriving DecidableEq, Repr

/-- A command's read at admission: decision time 2 µs (Table 03.12 step 1), the background reserve left alone (R78). -/
def hostReq (s : State) (c : Cmd) (slc ra mayOpen : Bool) (p : Purpose) (dest : DestUnit × Nat) : PageReq :=
  { cls := c.cls, slc := slc, firm := true, ra := ra, mayOpen := mayOpen, lead := 2, reserve := s.prof.bgTokenReserve, purpose := p,
    dest := dest, place := none }

/-- A recovery stage of an accepted command: decision time 1 µs (Table 07.6), and the reserve may be used (R170). -/
def stageReq (c : Cmd) (ra : Bool) (p : Purpose) (dest : DestUnit × Nat) : PageReq :=
  { cls := c.cls, slc := false, firm := true, ra := ra, mayOpen := c.withinContract, lead := 1, reserve := 0, purpose := p, dest := dest,
    place := none }

/-- A background read: it opens no window (R93), spends no suspend and may use the reserve. -/
def backgroundReq (slc ra : Bool) (p : Purpose) : PageReq :=
  { cls := 7, slc := slc, firm := false, ra := ra, mayOpen := false, lead := 2, reserve := 0, purpose := p, dest := (.purlin, 0), place := none }

/-- Book one page read and its descriptor on a member (Table 06.4): block and wordline through the member's splices, at the
starting shift. -/
def bookPage (s : State) (m : MemberSt) (t : Nat) (pl : Place) (n : Nat) (q : PageReq) : Option (State × Sense) :=
  let len := if q.slc then s.prof.tRSlc else s.prof.tR
  let req : SenseReq := { die := m.die, len := len, xfer := xferUs s.prof n, kind := if q.ra then .raMember else .readGroup, cls := q.cls,
                          tag := nextTag s, firm := q.firm, ra := q.ra, mayOpen := q.mayOpen, lead := q.lead, reserve := q.reserve }
  (bookSense s req).map fun r =>
    let (blk, wl) := q.place.getD (blockAt m pl.course)
    (addRead r.1 { descDefault with
      ch := dieCh m.die, opcode := if q.slc then 0x02 else 0x01, slot := m.die % 128, firm := q.firm, tokens := s.prof.tokSense,
      cls := q.cls, length := len, planeMask := 2 ^ pl.plane, shiftSet := shiftAuto, block := blk,
      wordline := wl, level := pl.level, cwFirst := pl.cw, cwLast := min 3 (pl.cw + n - 1), thatch := t, purpose := q.purpose,
      dest := q.dest } r.2, r.2)

/-- Time of a booked decode in ns: the chunk in progress, the transfer, the decode (Table 03.12 steps 4 and 5). -/
def decodeNs (p : Profile) (se : Sense) : Nat := se.xferEnd * 1000 + chunkNs p + 1000

/-- Accumulators held (R171). -/
def accumulators (s : State) : Nat := sumNat (s.fl.rebuilds.map (·.cws))

/-- The other members of the course are all in service (R168 no_other_member_out, R171). -/
def canRebuild (s : State) (th : ThatchSt) (pos : Nat) : Bool :=
  th.members.zipIdx.all fun e => e.2 == pos || memberUp s e.1

/-- Book a read-around of a slot (R171): every other member at its starting shift, one accumulator per codeword; none when a
member, an accumulator or time is missing. Answers the rebuild's end in ns, the last decode plus the last XOR, and its ID. -/
def bookAround (s : State) (c : Cmd) (slot : Nat) (t : Nat) (th : ThatchSt) (pl : Place) (n : Nat) (prov : Bool)
    (req : Purpose → DestUnit × Nat → PageReq) : Option (State × Nat × Nat) :=
  if !canRebuild s th pl.pos || decide (256 < accumulators s + n) then none
  else
    let id := s.fl.nextRebuild
    let step (acc : Option (State × Nat)) (e : MemberSt × Nat) : Option (State × Nat) :=
      if e.2 = pl.pos then acc
      else match acc with
        | none => none
        | some (s, last) =>
          match bookPage s e.1 t pl n (req (.raMember id e.2) (.fabric, id)) with
          | some (s, se) => some (s, max last (decodeNs s.prof se))
          | none => none
    match th.members.zipIdx.foldl step (some (s, 0)) with
    | none => none
    | some (s, last) =>
      let r : Rebuild := { id := id, fn := c.fn, sqid := c.sqid, cid := c.cid, page := slot, target := pl.pos,
                           waiting := th.width - 1, cws := n, provisional := prov, failed := false, sparOff := false, tried := [] }
      some ({ s with fl := { s.fl with rebuilds := s.fl.rebuilds ++ [r], nextRebuild := id + 1 } }, last + 500, id)

/-- Plan one slot (R80 step 4, step 5). The charge of a slot is the page cost of Table 03.2 whatever the sense time of its block, an
Underlay page included (DESIGN CHOICE, log entry 82). -/
def planSlot (c : Cmd) (total : Nat) (mayOpen : Bool) (acc : Acc) (e : Nat × Nat) : Acc :=
  let s := acc.st
  let (u, n) := e
  let h := hostStage s total
  let loc := slotLoc s c.nsid u n
  let new (r : Route) (done : Bool) : SlotSt := ⟨u, n, r, done, false, loc, slotSeqs s c.nsid u n, epochOf s c.nsid u⟩
  let add (r : Route) (done : Bool) : Acc := { acc with slots := acc.slots ++ [new r done] }
  let around (d : DieNo) : Acc :=
    match locPlace s loc with
    | none => add .unwritten true
    | some (t, th, pl) =>
      match bookAround s c acc.slots.length t th pl n false (hostReq s c false true mayOpen) with
      | some (s', endNs, _) =>
        if endNs + h ≤ c.dl * 1000 then
          { st := s', slots := acc.slots ++ [new (.readAround d) false],
            charges := tblUpd 0 (dieBay d) (· + (th.width - 1) * pageCost s.prof) acc.charges,
            energy := acc.energy + (th.width - 1) * senseEnergy s.prof false n, ends := acc.ends ++ [(n, endNs / 1000)],
            ok := acc.ok }
        else { acc with ok := false }
      | none => { acc with ok := false }
  let direct (d : DieNo) (slc : Bool) : Acc :=
    match locPlace s loc with
    | none => add .unwritten true
    | some (t, th, pl) =>
      let m : MemberSt := if slc then ⟨d, 0, [], 0, 0, false, false⟩ else
        (th.members[pl.pos]?).getD ⟨d, 0, [], 0, 0, false, false⟩
      match bookPage s m t pl n { hostReq s c slc false mayOpen (.hostRead c.fn c.sqid c.cid acc.slots.length)
          (.fabric, acc.slots.length) with
          place := if slc then underlayAt s d c.nsid ((firstOnMedia s c.nsid u n).getD u) else none } with
      | some (s', se) =>
        if decodeNs s.prof se + raStage s.prof total + h ≤ c.dl * 1000 then
          { st := s', slots := acc.slots ++ [new (if slc then .underlay d else .direct d) false],
            charges := tblUpd 0 (dieBay d) (· + pageCost s.prof) acc.charges, energy := acc.energy + senseEnergy s.prof slc n,
            ends := acc.ends ++ [(n, se.xferEnd)], ok := acc.ok }
        else if slc then { acc with ok := false } else around d
      | none => if slc then { acc with ok := false } else around d
  if !acc.ok then acc
  else match routeOf s c.nsid u n with
    | none => { acc with ok := false }
    | some (.direct d) => direct d false
    | some (.underlay d) => direct d true
    | some (.readAround d) => around d
    | some .recovered =>
      let k := slotKey s c.nsid (new .recovered false)
      add .recovered ((recoveryOf s k.1 k.2).any (·.recovered))
    | some r => add r true

/-- Plan the slots of a read, without buffers. -/
def planSlots (s : State) (c : Cmd) (mayOpen : Bool) : Acc :=
  let rs := readRanges s c
  let total := sumNat (rs.map (·.2))
  rs.foldl (planSlot c total mayOpen) ⟨s, [], [], 0, [], true⟩

/-- The machine as it stands at a later time `t` as far as bookings go: what has ended by then is gone. -/
def bookedLater (s : State) (t : Nat) : State :=
  let cal := s.fl.calendar.filter fun e => decide (t < entryEnd e)
  let live (tag : Nat) : Bool := cal.any (·.tag == tag)
  { s with tm := { s.tm with devTime := t },
           fl := { s.fl with calendar := cal, occupancy := s.fl.occupancy.filter (fun e => decide (t < e.start + e.length)),
                             descs := s.fl.descs.filter (fun d => live d.seqTag || !d.firm),
                             rebuilds := s.fl.rebuilds.filter fun r => s.fl.descs.any fun d =>
                               live d.seqTag && (match d.purpose with
                                 | .raMember id _ => id == r.id
                                 | _ => false) } }

/-- Retry hint of 0xC2 (R98): time to the earliest start, among the ends of the bookings, at which the plan books under the
command's bound, at most 16,384 µs; no estimate when there is none. -/
def hintTime (s : State) (c : Cmd) (mayOpen : Bool) : Nat :=
  let ends := ((s.fl.calendar.map entryEnd).filter fun t => decide (now s < t)).eraseDups.mergeSort (· ≤ ·)
  match ends.find? (fun t => (planSlots (bookedLater s t) { c with dl := c.dl + (t - now s) } mayOpen).ok) with
  | some t => min horizon (t - now s)
  | none => noHint

/-! ### Buffers and Eaves space (R82, R300, R301) -/

/-- Release rate over the last 10 ms, in bytes per 10 ms. -/
def releasedBytes (s : State) : Nat :=
  sumNat ((s.adm.releases.filter fun e => decide (now s ≤ e.1 + 10000)).map (·.2))

/-- Retry hint of 0xC3 for a shortfall in bytes. -/
def hintRelease (s : State) (short : Nat) : Nat :=
  if !dramUp s || releasedBytes s = 0 then noHint else min noHint (ceilDiv (short * 10000) (releasedBytes s))

/-- Unsettled bytes of a function: its units in the Eaves Buffer and what its accepted writes still bring (R82). -/
def unsettled (s : State) (fn : Nat) : Nat :=
  4096 * (countP (fun e => e.fn == fn) s.eav.units +
    sumNat ((s.adm.cmds.filter fun c => c.accepted && c.write && c.endStatus.isNone && c.fn == fn).map fun c => c.units - c.arrived))

/-- Functions that hold Eaves data or a write contract. -/
def eavesFns (s : State) : List Nat :=
  (s.eav.units.map (·.fn) ++ s.adm.cmds.map (·.fn) ++ s.adm.contracts.map (·.fn)).eraseDups

/-- Sum of the reservations. -/
def totalReserved (s : State) : Nat := committedEaves s.adm.contracts

/-- Reservation in effect, scaled when the sum exceeds E_eff (R188). -/
def reservedFor (s : State) (fn : Nat) : Nat :=
  if s.eav.eEff < totalReserved s then reservationOf s fn * s.eav.eEff / totalReserved s else reservationOf s fn

/-- Unreserved part of the Eaves Buffer. -/
def unreserved (s : State) : Nat := s.eav.eEff - totalReserved s

/-- Unreserved bytes in use. -/
def sharedUsed (s : State) : Nat := sumNat ((eavesFns s).map fun f => unsettled s f - reservedFor s f)

/-- Bytes that a write lacks in the Eaves Buffer (R82): 0 when it fits. -/
def eavesShort (s : State) (fn bytes : Nat) : Nat :=
  if unsettled s fn + bytes ≤ reservedFor s fn then 0
  else
    let own := unsettled s fn - reservedFor s fn
    let more := unsettled s fn + bytes - reservedFor s fn
    sharedUsed s - own + more - unreserved s

/-- Projected Eaves completion of a write in ns (R82, Table 03.13). -/
def projectedNs (s : State) (c : Cmd) : Nat :=
  max (now s) (c.t0 + 2) * 1000 + 6660 + s.prof.hostReadLat * 1000 +
    max (linkNs s c.bytes) (eavesNs s.prof (s.adm.backlog + c.bytes))

/-- Retry hint of 0xC4 (R338) in µs: the package furthest outside 2 to 83 °C at its slope over the last 10 s of polls, plus
100 ms; with all inside, the time to the next poll. -/
def hintWindow (s : State) : Nat :=
  let ps := (s.fl.pkgs.filter (·.2.populated)).map fun e => (e.1, pkgTemp s e.1)
  let away (t : Int) : Int := if t < 2 then 2 - t else if 83 < t then t - 83 else 0
  match ps.foldl (fun b e => match b with
      | none => some e
      | some x => if away x.2 < away e.2 then some e else some x) none with
  | none => noHint
  | some ((ch, pk), t) =>
    if away t = 0 then match s.fl.window.lastPoll with
      | some p => p + 100000 - now s
      | none => noHint
    else
      let old := s.fl.window.trace.filter fun e => e.1 == ch * 16 + pk
      match old.head?, old.getLast? with
      | some a, some b =>
        let dt := b.2.2 - a.2.2
        let rise := b.2.1 - a.2.1
        let toward := if t < 2 then rise else -rise
        if dt ≤ 0 || toward * 20000000 < dt then noHint
        else min noHint ((away t * dt / toward).toNat + 100000)
      | _, _ => noHint

/-- Erases booked for an unbound thatch end at the latest of these. -/
def eraseEnd (s : State) (t : Nat) : Option Nat :=
  let ds := s.fl.descs.filter fun d => match d.purpose with
    | .erase x _ _ => x == t
    | _ => false
  if ds.isEmpty then none else some (ds.foldl (fun a d => max a (d.start + d.length)) 0)

/-- Retry hint of 0xC8 (R98) for a zone: the earliest ready thatch whose erases are booked in a suitable bay; else, where a
suitable bay has free blocks on every member in service, the time of its erases. -/
def hintBacking (s : State) (ns : NsSt) (z : ZoneSt) : Nat :=
  if mgmtDown s || s.fl.writeProtect then noHint
  else
    let bays := (chooseSets ns z).flatMap (setBays s)
    let booked := (s.fl.thatches.filter fun e => e.2.kind == .ready && bays.contains e.2.bay).filterMap fun e => eraseEnd s e.1
    match minNat? booked with
    | some t => min noHint (t - now s)
    | none =>
      match bays.find? fun b => decide (0 < membersUp s b) &&
          (((List.range 16).map (bayDie b)).filter (dieUp s)).all fun d => decide (0 < freeCount (die s d)) with
      | some b => min noHint (ceilDiv (membersUp s b) s.prof.erasePerBay * s.prof.tBers)
      | none => noHint

/-! ### Plans -/

/-- The units that a command reads from the media or DRAM. -/
def readUnits (s : State) (c : Cmd) : Nat := sumNat ((readRanges s c).map (·.2))

/-- A command reads from an Offline zone: the standard's Zone Is Offline at its acceptance (PRESUMED, log entry 34). -/
def readOffline (s : State) (c : Cmd) : Bool :=
  match nsOf s c.nsid with
  | some ns => ns.zoned && (readRanges s c).any fun e => (zone s c.nsid (e.1 / zoneUnits)).st == .offline
  | none => false

/-- Plan of a read, or of the reading part of a Copy: route of each slot, bookings, pool 1 buffers, time. A read with a slot
on the unrecoverable route books nothing and charges one command token. -/
def planRead (s : State) (c : Cmd) (pool : Option Nat) (mayOpen : Bool) : PlanRes :=
  let rs := readRanges s c
  if readOffline s c then ⟨s, { c with slots := [], chargePower := 0 }, 0, 0, false, 0⟩
  else
  let routes := rs.map fun e => routeOf s c.nsid e.1 e.2
  if routes.any (·.isNone) then ⟨s, c, 0xC5, noHint, true, 0⟩
  else if routes.contains (some .unrecoverable) then
    ⟨s, { c with slots := rs.map fun e => ⟨e.1, e.2, .unrecoverable, true, true, none, [], 0⟩, charge := 0, chargeLink := 0, chargePower := 0,
                 dieCharges := [] }, 0, 0, false, 0⟩
  else
    let bufs (s : State) (n a b : Nat) : Option State := match pool with
      | some k => bookBuffers s k n a b c
      | none => some s
    match bufs s (readUnits s c) (now s) (now s) with
    | none => planFail (poolFailure s 1) c 0xC3 (hintRelease s (4096 * bufferShort s 1 (readUnits s c) (now s) (now s)))
    | some _ =>
      let acc := planSlots s c mayOpen
      if !acc.ok then planFail s c 0xC2 (hintTime s c mayOpen)
      else
        let fin := acc.ends.foldl (fun a e => max a e.2) (now s) + (hostStage s (readUnits s c)) / 1000 + 1
        let dram := sumNat ((acc.slots.filter (·.done)).map (·.units))
        let take (b : State × Nat) (e : Nat × Nat) : State × Nat := match bufs b.1 e.1 (min e.2 fin) fin with
          | some s => (s, b.2)
          | none => (b.1, b.2 + max 1 (bufferShort b.1 1 e.1 (min e.2 fin) fin))
        let booked := ((dram, now s) :: acc.ends).foldl take (acc.st, 0)
        if booked.2 = 0 then ⟨booked.1, { c with slots := acc.slots, dieCharges := acc.charges }, 0, 0, false, acc.energy⟩
        else planFail (poolFailure s 1) c 0xC3 (hintRelease s (4096 * booked.2))

/-- Promised width for the write terms of a command: the set of its zone's thatch, set 0 for a conventional write. -/
def writeWidth (s : State) (c : Cmd) : Nat :=
  match c.zone with
  | some zi => match zoneThatch s (zone s c.nsid zi) with
    | some t => (baySet s t.set).promised
    | none => (baySet s 0).promised
  | none => (baySet s 0).promised

/-- Standard errors that a write to a zone meets at its acceptance (R38, R40, R49); a Zone Append and a Copy take the write
pointer as the rules for them say. -/
def zoneWriteError (s : State) (c : Cmd) : Option NvmeStatus :=
  match c.zone with
  | none => none
  | some zi =>
    let z := zone s c.nsid zi
    let append := match c.op with
      | .zoneAppend _ _ _ => true
      | _ => false
    match z.st with
    | .full => some .zoneFull
    | .readOnly => some .zoneReadOnly
    | .offline => some .zoneOffline
    | _ =>
      if !append && c.unit0 % zoneUnits != z.wp then some .zoneInvalidWrite
      else if decide (thatchEnd s z < z.wp + c.units) then some .zoneBoundary
      else if z.st.isOpen then none
      else activationError s c.fn z true

/-- Units of accepted conventional writes that have no slot of a conventional thatch yet. -/
def convPending (s : State) : Nat :=
  sumNat ((s.adm.cmds.filter fun c => c.accepted && c.write && c.endStatus.isNone && c.zone.isNone).map (·.units))

/-- Backing of a command that writes (R39, R123, R129): 0xC8 with its hint, or none. -/
def backingShort (s : State) (c : Cmd) : Option Nat :=
  if s.fl.writeProtect then some noHint
  else match c.zone, nsOf s c.nsid with
    | some zi, some ns => if (zone s c.nsid zi).thatch.isSome then none else some (hintBacking s ns (servedZone s c zi))
    | none, some _ =>
      if c.units + convPending s ≤ convRoom s + convFree s * convSlots s then none
      else some (if mgmtDown s then noHint else min noHint ((reclaimTime s).getD noHint))
    | _, _ => none

/-- Programs may start: the write window is open and the device is below Critical (R83, R150, Table 15.2). -/
def writesOpen (s : State) : Bool := s.fl.window.isOpen && s.thm.step != .critical

/-- Steps 2 and 3 of a write's plan: thermal window, Eaves space, and for the data of the host the buffers of pool 0; a Copy takes
pool 3 without booking (R302). -/
def planSpace (s : State) (c : Cmd) (host : Bool) : PlanRes :=
  if !writesOpen s && decide (reservedFor s c.fn < unsettled s c.fn + c.bytes) then
    planFail s c 0xC4 (if s.fl.window.isOpen then noHint else hintWindow s)
  else if !dramUp s then planFail s c 0xC3 noHint
  else if 0 < eavesShort s c.fn c.bytes then planFail s c 0xC3 (hintRelease s (eavesShort s c.fn c.bytes))
  else if !host then ⟨s, c, 0, 0, false, 0⟩
  else match bookBuffers s 0 c.units (now s + 4) (projectedNs s c / 1000 + 1) c with
    | none => planFail (poolFailure s 0) c 0xC3 (hintRelease s (4096 * bufferShort s 0 c.units (now s + 4) (projectedNs s c / 1000 + 1)))
    | some s' => ⟨s', c, 0, 0, false, 0⟩

/-- Step 5 of a write's plan: the projected Eaves completion. A feasible plan carries the write's flash energy. -/
def planTime (s : State) (c : Cmd) (r : PlanRes) : PlanRes :=
  if r.reason ≠ 0 then r
  else if c.dl * 1000 < projectedNs s c then planFail s c 0xC3 (min noHint (ceilDiv (projectedNs s c - c.dl * 1000) 1000))
  else { r with energy := r.energy + writePowerM s.prof (writeWidth s c) c.charge * 25 / mil }

/-- Plan of a Write, Zone Append or Write Zeroes. A write-protected device refuses every one (R129, Table 05.9). A command that its zone
refuses needs no resources: acceptance gives the standard error. -/
def planWrite (s : State) (c : Cmd) : PlanRes :=
  if s.fl.writeProtect then planFail s c 0xC8 noHint
  else if (zoneWriteError s c).isSome then ⟨s, { c with chargePower := 0 }, 0, 0, false, 0⟩
  else match backingShort s c with
    | some h => planFail s c 0xC8 h
    | none => planTime s c (planSpace s c true)

/-- Plan of a Copy (R44, R80, R302): backing, thermal window and Eaves space, the media path of its sources, time. -/
def planCopy (s : State) (c : Cmd) (mayOpen : Bool) : PlanRes :=
  if s.fl.writeProtect then planFail s c 0xC8 noHint
  else if (zoneWriteError s c).isSome then ⟨s, { c with chargePower := 0 }, 0, 0, false, 0⟩
  else match backingShort s c with
    | some h => planFail s c 0xC8 h
    | none =>
      let w := planSpace s c false
      if w.reason ≠ 0 then w else planTime s c (planRead s c none mayOpen)

/-- Select All actions and the zones they affect (R44). -/
def selectAll (s : State) (c : Cmd) : Option (List Nat) :=
  let pick (p : ZoneSt → Bool) : Option (List Nat) :=
    some (((zoneList s).filter fun e => e.1.1 == c.nsid && p e.2).map (·.1.2))
  match c.op with
  | .zoneOpen _ _ true => pick (·.st == .closed)
  | .zoneClose _ _ true => pick (·.st.isOpen)
  | .zoneFinish _ _ true => pick (·.st.isActive)
  | .zoneReset _ _ true => pick fun z => z.st.isActive || z.st == .full
  | .zoneOffline _ _ true => pick (·.st == .readOnly)
  | _ => none

/-- A zone management command that makes an Empty zone active needs a binding (R39). -/
def needsBinding (s : State) (c : Cmd) : Option Nat :=
  match c.op, c.zone with
  | .zoneOpen _ _ false, some zi => if (zone s c.nsid zi).st == .empty && (zone s c.nsid zi).thatch.isNone then some zi else none
  | .setZoneDescriptorExtension _ _ _, some zi =>
    if (zone s c.nsid zi).st == .empty && (zone s c.nsid zi).thatch.isNone then some zi else none
  | _, _ => none

/-- Plan of a command that books nothing (R44, R86). An objection of the zone's state or limits needs no backing: it is
the command's standard error at acceptance. -/
def planOther (s : State) (c : Cmd) : PlanRes :=
  match selectAll s c with
  | some zs =>
    if (boundHold s c.fn c.cls c.write).1 < 100 + zs.length then planFail s c 0xC2 noHint else ⟨s, c, 0, 0, false, 0⟩
  | none => match needsBinding s c, nsOf s c.nsid with
    | some zi, some ns =>
      if (activationError s c.fn (zone s c.nsid zi) (match c.op with
          | .zoneOpen _ _ _ => true
          | _ => false)).isSome then ⟨s, c, 0, 0, false, 0⟩
      else planFail s c 0xC8 (hintBacking s ns (servedZone s c zi))
    | _, _ => ⟨s, c, 0, 0, false, 0⟩

/-- plan_service (R80). -/
def planService (s : State) (c : Cmd) (mayOpen : Bool) : PlanRes :=
  match c.op with
  | .read _ _ _ => planRead s c (some 1) mayOpen
  | .write _ _ _ => planWrite s c
  | .zoneAppend _ _ _ => planWrite s c
  | .writeZeroes _ _ _ => planWrite s c
  | .copy _ _ _ => planCopy s c mayOpen
  | _ => planOther s c

end Sys2Proof.Machine
end

