-- ==== Sys2Proof/Machine/Serve.lean ====
section
/-! DEFINITION. Evaluation of a command (R80, R88 to R99) and what an accepted command does at once (R40 to R47, R55, R103). -/

namespace Sys2Proof.Machine

/-! ### Data delivered -/

/-- Contents of the units of a range under a key, as a read accepted now returns them (R41, R43, R259). -/
def captureUnits (s : State) (nsid key : Nat) (rs : List (Nat × Nat)) : List (Option Nat) :=
  rs.flatMap fun e => (List.range e.2).map fun i => unitValue s nsid (e.1 + i) key

/-- The write pointer's unit number of the zone that a command writes. -/
def zoneStartUnit (c : Cmd) : Nat := (c.zone.getD 0) * zoneUnits

/-- Bring `contents` into the Eaves Buffer for a command from its unit `c.arrived` on; `bad` lists the places that arrived
poisoned. -/
def placeUnits (s : State) (c : Cmd) (contents : List Nat) (bad : List Nat) : State :=
  let s := forEach contents.zipIdx
    (fun e s => placeUnit c (c.unit0 + c.arrived + e.2) e.1 (bad.contains e.2) false s) s
  updCmd s c fun x => { x with arrived := x.arrived + contents.length, poisoned := x.poisoned || !bad.isEmpty }

/-- Pool 3 buffers through which the Purlin cluster moves a Copy: its units, up to the pool's reserved count at a time (DESIGN
CHOICE, log entry 84). -/
def copyBufs (s : State) (c : Cmd) : Nat := min c.units s.prof.resMgmt

/-- A Copy whose sources have been read (R44, R103): once it has its buffers (R302) and the Purlin cluster runs (R21, log entry 78),
the destination is the write pointer still, the zone advances and the units enter the Eaves Buffer (the check at this point:
DEDUCED, log entry 32). -/
def finishCopy (s : State) (c : Cmd) : State :=
  let c := { c with epoch := match c.zone with
    | some zi => (zone s c.nsid zi).resets
    | none => 0 }
  if mgmtDown s || c.bufs < copyBufs s c then s
  else match zoneWriteError s c with
  | some e => endWrite s c e
  | none =>
    let s := match c.zone with
      | some zi => advanceZone s c.fn c.nsid zi c.units
      | none => s
    placeUnits s c (c.data.map fun v => v.getD 0) []

/-- 4 KiB units of a read whose data arrived poisoned from inside the SL4096, counted from its first unit (R224). -/
def poisonedUnits (c : Cmd) : List Nat :=
  (List.range c.units).filter fun i => (c.data.getD i none).isNone &&
    !c.slots.any fun x => x.route == .unrecoverable && decide (x.unit0 ≤ c.unit0 + i) && decide (c.unit0 + i < x.unit0 + x.units)

/-- With POISON_EGRESS the Host island writes those units as poisoned TLPs; at 0 it writes nothing for them (R224). -/
def writePoison (s : State) (c : Cmd) : State :=
  if s.prof.poisonEgress = 0 then s
  else { s with host := { s.host with poisonTlps := s.host.poisonTlps ++ (poisonedUnits c).map fun i => (c.fn, c.sqid, c.cid, i) } }

/-- A command whose slots are all served (R81, R103, R224): a Read returns its data, or Unrecovered Read Error when a unit
must not be delivered; with POISON_EGRESS the affected units go out as poisoned TLPs. -/
def finishRead (s : State) (c : Cmd) : State :=
  let bad := countP (·.isNone) c.data
  if 0 < bad || c.slots.any (·.route == .unrecoverable) then
    if c.write then endWrite s c .unrecoveredRead
    else completeCmd (writePoison s c) c .unrecoveredRead 0 [] []
  else match c.op with
    | .copy _ _ _ => finishCopy s c
    | _ => completeCmd s c .success 0 [] c.data

/-! ### Zone management (R38, R42 to R47) -/

/-- The state changes that a Zone Management Send action makes on one zone, or its standard error. -/
def zoneAction (s : State) (ns : NsSt) (c : Cmd) (zi : Nat) : State × NvmeStatus :=
  let z := zone s ns.nsid zi
  match c.op with
  | .zoneOpen _ _ _ =>
    match z.st with
    | .explicitOpen => (s, .success)
    | .full => (s, .invalidZoneTransition)
    | .readOnly => (s, .invalidZoneTransition)
    | .offline => (s, .invalidZoneTransition)
    | _ => match activationError s c.fn z true with
      | some e => (s, e)
      | none =>
        let s := if z.st.isOpen then s else makeRoom s c.fn
        (updZone s ns.nsid zi fun y => { y with st := .explicitOpen }, .success)
  | .zoneClose _ _ _ =>
    match z.st with
    | .closed => (s, .success)
    | .implicitOpen => (updZone s ns.nsid zi fun y => { y with st := .closed }, .success)
    | .explicitOpen => (updZone s ns.nsid zi fun y => { y with st := .closed }, .success)
    | _ => (s, .invalidZoneTransition)
  | .zoneFinish _ _ _ =>
    match z.st with
    | .full => (s, .success)
    | .readOnly => (s, .invalidZoneTransition)
    | .offline => (s, .invalidZoneTransition)
    | _ => (finishZone s ns.nsid zi false, .success)
  | .zoneReset _ _ _ =>
    match z.st with
    | .readOnly => (s, .invalidZoneTransition)
    | .offline => (s, .invalidZoneTransition)
    | _ => (resetZone s ns zi, .success)
  | .zoneOffline _ _ _ =>
    match z.st with
    | .readOnly => (offlineZone s ns.nsid zi, .success)
    | .offline => (s, .success)
    | _ => (s, .invalidZoneTransition)
  | .setZoneDescriptorExtension _ _ e =>
    match z.st with
    | .empty => match activationError s c.fn z false with
      | some st => (s, st)
      | none => (updZone s ns.nsid zi fun y => { y with st := .closed, ext := some (padTo 64 e) }, .success)
    | _ => (s, .invalidZoneTransition)
  | _ => (s, .success)

/-- A command whose ranges or extension the Host island reads from host memory before its data moves. -/
def readsList (c : Cmd) : Bool :=
  match c.op with
  | .copy _ _ _ => true
  | .datasetManagementDeallocate _ _ => true
  | .setZoneDescriptorExtension _ _ _ => true
  | _ => false

/-- A Deallocate or a Set Zone Descriptor Extension whose ranges or extension are still to come (R66). -/
def listWaits (c : Cmd) : Bool :=
  !c.listRead && match c.op with
    | .datasetManagementDeallocate _ _ => true
    | .setZoneDescriptorExtension _ _ _ => true
    | _ => false

/-- A command that the Purlin cluster executes waits while the Management island is not Running (R21, Table 01.6; log entry 78). -/
def purlinWaits (s : State) (c : Cmd) : Bool :=
  mgmtDown s && match c.op with
    | .setZoneDescriptorExtension _ _ _ => true
    | _ => false

/-- A Zone Management Send of an accepted command: one zone, or all that the action names (R38, R44). -/
def zoneSend (s : State) (c : Cmd) : State :=
  if purlinWaits s c || listWaits c then s
  else match nsOf s c.nsid with
  | none => completeCmd s c .invalidNamespace 0 [] []
  | some ns =>
    match selectAll s c, c.zone with
    | some zs, _ =>
      let tooMany := match c.op with
        | .zoneOpen _ _ _ => decide ((limitsOf s c.fn).2 < openZones s c.fn + zs.length)
        | _ => false
      if tooMany then completeCmd s c .tooManyOpen 0 [] []
      else completeCmd (forEach zs (fun zi s => (zoneAction s ns c zi).1) s) c .success 0 [] []
    | none, some zi =>
      let r := zoneAction s ns c zi
      completeCmd r.1 c r.2 0 [] []
    | none, none => completeCmd s c .invalidField 0 [] []

/-! ### Zone Management Receive (layout of the standard: PRESUMED, log entry 34) -/

/-- Code of a zone state in a zone descriptor. -/
def zoneCode : ZoneState → Nat
  | .empty => 0x1
  | .implicitOpen => 0x2
  | .explicitOpen => 0x3
  | .closed => 0x4
  | .readOnly => 0xD
  | .full => 0xE
  | .offline => 0xF

/-- A reporting option takes a zone. -/
def optionTakes (option : Nat) (z : ZoneSt) : Bool :=
  match option % 256 with
  | 0 => true
  | 1 => z.st == .empty
  | 2 => z.st == .implicitOpen
  | 3 => z.st == .explicitOpen
  | 4 => z.st == .closed
  | 5 => z.st == .full
  | 6 => z.st == .readOnly
  | 7 => z.st == .offline
  | _ => false

/-- One zone descriptor of 64 bytes. -/
def zoneDescriptor (ns : NsSt) (zi : Nat) (z : ZoneSt) : List Byte :=
  let l := lbaUnits ns
  let za := (if z.zfc then 1 else 0) + (if z.rzr then 4 else 0) + (if z.ext.isSome then 128 else 0)
  [2#8] ++ leBytes 1 (zoneCode z.st * 16) ++ leBytes 1 za ++ zeros 5 ++ leBytes 8 (z.cap / l) ++ leBytes 8 (zi * zoneUnits / l) ++
    leBytes 8 ((zi * zoneUnits + z.wp) / l) ++ zeros 32

/-- Zones that a report takes, from an address on. -/
def reportZoneList (s : State) (ns : NsSt) (slba option : Nat) : List (Nat × ZoneSt) :=
  let first := slba * lbaUnits ns / zoneUnits
  (((List.range (nsZones ns)).filter (first ≤ ·)).map fun zi => (zi, zone s ns.nsid zi)).filter fun e => optionTakes option e.2

/-- Descriptors that a report returns (R86). -/
def reportCount (s : State) (ns : NsSt) (slba option maxDesc : Nat) : Nat := min maxDesc (reportZoneList s ns slba option).length

/-- Report Zones and Extended Report Zones: the count of zones that match, or of descriptors returned with Partial Report
(bit 8 of `option`), then the descriptors, each followed by its 64-byte extension in the extended report. -/
def zoneReport (s : State) (ns : NsSt) (slba option maxDesc : Nat) (extended : Bool) : List Byte :=
  let zs := reportZoneList s ns slba option
  let out := zs.take maxDesc
  leBytes 8 (if option / 256 % 2 = 1 then out.length else zs.length) ++ zeros 56 ++
    out.flatMap fun e => zoneDescriptor ns e.1 e.2 ++ (if extended then e.2.ext.getD (zeros 64) else [])

/-! ### Acceptance -/

/-- Dataset Management Deallocate of an accepted command (R55, R128): granules of the conventional region are unmapped; a
zoned namespace takes it without effect (DEDUCED, log entry 35). -/
def deallocate (s : State) (c : Cmd) (ranges : List (Nat × Nat)) : State :=
  match nsOf s c.nsid with
  | none => s
  | some ns =>
    if ns.zoned then s
    else forEach ranges (fun e s =>
      forEach (List.range (e.2 * lbaUnits ns)) (fun i s => convClear s c.nsid (e.1 * lbaUnits ns + i)) s) s

/-- An accepted write takes its place in its zone (R40): it meets a standard error, or the zone advances; a Zone Append
gets the write pointer as its address. The command keeps the zone's epoch. -/
def startWrite (s : State) (c : Cmd) : State :=
  match zoneWriteError s c with
  | some e => endWrite s c e
  | none =>
    let (u, s) := match c.zone with
      | some zi => (zi * zoneUnits + (match c.op with
          | .zoneAppend _ _ _ => (zone s c.nsid zi).wp
          | _ => c.unit0 % zoneUnits), advanceZone s c.fn c.nsid zi c.units)
      | none => (c.unit0, s)
    let per := match nsOf s c.nsid with
      | some ns => lbaUnits ns
      | none => 1
    let lba := match c.op with
      | .zoneAppend _ _ _ => u / per
      | _ => 0
    let c' := { c with unit0 := u, lba := lba, epoch := epochOf s c.nsid u }
    let s := updCmd s c fun _ => c'
    let s := { s with adm := { s.adm with backlog := s.adm.backlog + c.bytes },
                      boot := { s.boot with cleanMark := false } }
    match c.op with
    | .writeZeroes _ _ _ => placeUnits s c' (List.replicate c.units 0) []
    | _ => { s with adm := { s.adm with hostReadsOpen := s.adm.hostReadsOpen + c.units } }

/-- A Copy asks for its pool 3 buffers (R302). -/
def takeCopyBufs (s : State) (c : Cmd) : State × Cmd :=
  if copyBufs s c ≤ c.bufs then (s, c)
  else match allocBufs s 3 3 (copyBufs s c) with
    | some s => let c := { c with bufs := copyBufs s c }
                (updCmd s c fun _ => c, c)
    | none => (poolFailure s 3, c)

/-- What an accepted command does at once; commands without die work or host data complete here. -/
def startCmd (s : State) (c : Cmd) : State :=
  match c.op with
  | .read _ _ _ =>
    if readOffline s c then completeCmd s c .zoneOffline 0 [] [] else if c.slots.all (·.done) then finishRead s c else s
  | .copy _ _ _ =>
    if (zoneWriteError s c).isSome then startWrite s c
    else if readOffline s c then endWrite s c .zoneOffline
    else
    let (s, c) := takeCopyBufs s c
    if c.slots.all (·.done) then finishRead s c else s
  | .write _ _ _ => startWrite s c
  | .zoneAppend _ _ _ => startWrite s c
  | .writeZeroes _ _ _ => startWrite s c
  | .datasetManagementDeallocate _ ranges => if listWaits c then s else completeCmd (deallocate s c ranges) c .success 0 [] []
  | .reportZones _ slba option n => match nsOf s c.nsid with
    | some ns => completeCmd s c .success 0 (zoneReport s ns slba option n false) []
    | none => completeCmd s c .invalidNamespace 0 [] []
  | .extendedReportZones _ slba option n => match nsOf s c.nsid with
    | some ns => completeCmd s c .success 0 (zoneReport s ns slba option n true) []
    | none => completeCmd s c .invalidNamespace 0 [] []
  | .zoneOpen _ _ _ => zoneSend s c
  | .zoneClose _ _ _ => zoneSend s c
  | .zoneFinish _ _ _ => zoneSend s c
  | .zoneReset _ _ _ => zoneSend s c
  | .zoneOffline _ _ _ => zoneSend s c
  | .setZoneDescriptorExtension _ _ _ => zoneSend s c
  | _ => completeCmd s c .success 0 [] []

/-- The command as its acceptance leaves it: key slot and key (R259, R262), verdict, order, and the units that a read takes now. -/
def acceptedCmd (s0 : State) (r : PlanRes) (within : Bool) : Cmd :=
  let key := if r.cmd.keySlot.all (· < 2048) then
      mediaKeyFor s0 r.cmd.nsid (if r.cmd.write then r.cmd.zone else none) else (r.cmd.keySlot, r.cmd.key)
  let held := (cmdOf s0 r.cmd.fn r.cmd.sqid r.cmd.cid).isSome
  let reads := match r.cmd.op with
    | .read _ _ _ => true
    | .copy _ _ _ => true
    | _ => false
  { r.cmd with accepted := true, acceptedAt := now r.st, verdict := if held then 1 else 0, withinContract := within,
               order := r.st.adm.nextOrder, seq0 := r.st.eav.nextSeq, keySlot := key.1, key := key.2,
               data := if reads then captureUnits r.st r.cmd.nsid r.cmd.key (readRanges r.st r.cmd) else [] }

/-- An accepted command takes its place in the table and in the acceptance order; the units of a write take the next acceptance
sequence numbers (R181). -/
def enterCmd (s : State) (c : Cmd) : State :=
  tickFree { s with eav := { s.eav with nextSeq := s.eav.nextSeq + if c.write then c.units else 0 }
                    adm := { s.adm with cmds := s.adm.cmds.filter (fun x => !sameCmd x c) ++ [c],
                                        nextOrder := s.adm.nextOrder + 1 } }

/-- The key cache once it holds a slot's expanded keys: one that it lacks is loaded, in the place of the slot loaded longest ago that no
command pins when 2,048 are there (which slot gives way is a DESIGN CHOICE, log entry 104). -/
def loadKey (x : SecSt) (k : Nat) : List Nat :=
  if x.keyCache.contains k then x.keyCache
  else if x.keyCache.length < 2048 then x.keyCache ++ [k]
  else match x.keyCache.find? fun j => (tblGet keySlotDefault j x.slots).pins == 0 with
    | some j => x.keyCache.erase j ++ [k]
    | none => x.keyCache

/-- The slots of accepted commands that the key cache lacks are loaded once the Ridge island serves (R255, R269). -/
def loadWaiting (s : State) : State :=
  let ks := (s.adm.cmds.filter (·.accepted)).filterMap (·.keySlot)
  if !ridgeUp s || ks.all s.sec.keyCache.contains then s
  else forEach ks (fun k s => { s with sec := { s.sec with keyCache := loadKey s.sec k } }) s

/-- Pin the key slot of a command (R255, R259); the Ridge island loads it into the key cache, where it serves. -/
def pinKey (s : State) (c : Cmd) : State :=
  match c.keySlot with
  | some k => { s with sec := { s.sec with slots := tblUpd keySlotDefault k (fun x => { x with pins := x.pins + 1 }) s.sec.slots,
                                           keyCache := if ridgeUp s then loadKey s.sec k else s.sec.keyCache } }
  | none => s

/-- Count the routes of an accepted command (R410). -/
def countRoutes (s : State) (c : Cmd) : State :=
  updFnCtr s c.fn fun k =>
    { k with loftReads := k.loftReads + (if c.slots.any (·.route == .loft) then 1 else 0),
             readAround := k.readAround + (if c.slots.any (fun x => match x.route with
               | .readAround _ => true
               | _ => false) then 1 else 0) }

/-- Channels that the plan of a read uses. -/
def planChannels (s : State) (c : Cmd) : List Nat :=
  let reads := match c.op with
    | .read _ _ _ => true
    | .copy _ _ _ => true
    | _ => false
  if !reads then []
  else ((readRanges s c).flatMap fun e => match routeOf s c.nsid e.1 e.2 with
    | some (.direct d) => [dieCh d]
    | some (.underlay d) => [dieCh d]
    | some (.readAround d) => (List.range 16).map (dieCh d / 16 * 16 + ·)
    | _ => []).eraseDups

/-- Accept a command (R80): its plan's machine is kept, buckets and meters or slack are charged, its pages, Eaves units and
key slot are pinned, its flash energy is metered, and it takes its place in the acceptance order. -/
def acceptance (s0 : State) (r : PlanRes) (within : Bool) : State × Cmd :=
  let c := acceptedCmd s0 r within
  let c := { c with chans := planChannels s0 c }
  let c := { c with allowance := c.allowance || lateAffected r.st c }
  let s := enterCmd r.st c
  let s := if within then chargeContract s c else forEach (drawsOf c) (takeDraw c) s
  let s := noteLate (pinKey (forEach c.slots (pinSlot c.nsid (· + 1)) s) c) c
  (countRoutes (updMeter s c.fn fun m => { m with admitted := m.admitted + r.energy }) c, c)

/-- Accept a command, which starts. -/
def acceptCmd (s0 : State) (r : PlanRes) (within : Bool) : State :=
  let p := acceptance s0 r within
  startCmd p.1 p.2

/-! ### Evaluation -/

/-- Entries of the hold table (R95): 16 reserved for each function, 4,096 shared. -/
def holdFree (s : State) (fn : Nat) : Bool :=
  let held := s.adm.cmds.filter fun c => !c.accepted
  let mine := countP (·.fn == fn) held
  let shared := sumNat (((held.map (·.fn)).eraseDups).map fun f => countP (·.fn == f) held - 16)
  decide (mine < 16) || decide (shared < 4096)

/-- Retry hint of R334: time for Tj, at its slope over the last 100 ms, to fall HYSTERESIS below the step's threshold. -/
def hintCool (s : State) : Nat :=
  let goal : Int := match s.thm.step with
    | .critical => 115 - s.prof.hysteresis
    | .hot => 105 - s.prof.hysteresis
    | _ => 95 - s.prof.hysteresis
  let tr := s.thm.tjTrace.filter fun e => decide (now s ≤ e.1 + 100000)
  match tr.head?, tr.getLast? with
  | some a, some b =>
    let fall := a.2 - b.2
    let dt : Int := ((b.1 - a.1 : Nat) : Int)
    if fall ≤ 0 || dt ≤ 0 then noHint else min noHint (((b.2 - goal) * dt / fall).toNat)
  | _, _ => noHint

/-- A write contract's power share is cut (R334): committed write power exceeds the capacity of the effective budget. -/
def powerShort (s : State) : Bool :=
  decide (s.adm.powerCapacity * mil < committedPower s (s.adm.contracts.filter (·.write)))

/-- Commands per second of the read contracts. -/
def committedCmds (ks : List Contract) : Nat := sumNat ((ks.filter (!·.write)).map (·.cmdRate))

/-- Committed read-link bytes exceed the link's byte capacity (R206). -/
def linkBytesShort (s : State) : Bool := decide (s.adm.linkCapacity < committedBytes s.adm.contracts false)

/-- Committed reads exceed the link's command capacity (R206). -/
def linkCmdsShort (s : State) : Bool := decide (s.adm.linkCmds < committedCmds s.adm.contracts)

/-- Committed read-link demand exceeds the link's capacity (R206). -/
def linkShort (s : State) : Bool := linkBytesShort s || linkCmdsShort s

/-- Reason and hint of a command that is feasible and not within its contract, and gets no slack (R72, R89, R91, R98, R206,
R334): a contract cut by a loss of power, bay or link capacity gives the capacity or thermal reason. -/
def overReason (s : State) (c : Cmd) : Nat × Nat :=
  match contractOf s c.fn c.cls c.write with
  | some _ =>
    if withinUnscaled s c && c.write && powerShort s then (0xC4, hintCool s)
    else if withinUnscaled s c && c.dieCharges.any (fun e => s.adm.overbooked.contains e.1) then (0xC5, noHint)
    else if withinUnscaled s c && !c.write && linkShort s then (0xC2, noHint)
    else if slackExhausted s c then (0xC1, hintSlack s c) else (0xC0, min noHint (hintRate s c))
  | none => if slackExhausted s c then (0xC1, hintSlack s c) else (0xC0, min noHint (hintRate s c))

/-- Keep a command in the hold table with the reason of its last evaluation, and the charges that it waits for. -/
def holdCmd (s : State) (c : Cmd) (reason : Nat) : State :=
  let c := { c with lastReason := reason, chans := planChannels s c }
  let c := { c with allowance := c.allowance || lateAffected s c }
  let s := noteLate s c
  if (cmdOf s c.fn c.sqid c.cid).isSome then updCmd s c fun _ => c
  else { s with adm := { s.adm with cmds := s.adm.cmds ++ [c] } }

/-- A refusal with 0xC2 while a channel of the plan has no free command entry records its event (Table 06.13 last row; the codes of
action 0x91 and of the row above it are the model's, log entry 91). -/
def noteFullStore (s : State) (c : Cmd) (reason : Nat) : State :=
  if reason ≠ 0xC2 then s
  else match (planChannels s c).find? fun ch => freeDescs s ch .command == 0 with
    | some ch => recordEvent s 0x0052 0 0 (chIsland ch) (leBytes 4 ch ++ leBytes 1 0x91 ++ leBytes 1 1)
    | none => s

/-- Not accepted: refuse at the hold end or without a hold (R95), else hold. -/
def holdOrRefuse (s : State) (c : Cmd) (reason hint : Nat) : State :=
  let held := (cmdOf s c.fn c.sqid c.cid).isSome
  if c.hend ≤ now s || c.hend = c.t0 then refuseCmd (noteFullStore s c reason) c reason hint
  else if !held && !holdFree s c.fn then
    refuseCmd (updFnCtr s c.fn fun k => { k with holdFull := k.holdFull + 1 }) c reason hint
  else holdCmd s c reason

/-- Buckets and meters hold a plan's charges (R73). -/
def withinContract (s : State) (c : Cmd) : Bool :=
  match contractOf s c.fn c.cls c.write with
  | some k => bucketsHold k c.charge && metersHold s c.fn c.dieCharges
  | none => false

/-- One evaluation of a command (R80, R89, R93), held or new: plan a may open suspend windows, which only a command within its contract
may do; plan b opens none. A command under a contract that neither holds gets the reason of plan a where that is feasible
(DESIGN CHOICE, log entry 85: R93 leaves open whether it gets 0xC2 of plan b). -/
def evaluate (s : State) (c : Cmd) : State :=
  if s.eav.powerLoss then refuseCmd s c 0xC7 noHint
  else
    let a := planService s c true
    if a.degraded then refuseCmd s c 0xC5 noHint
    else if a.reason = 0 && withinContract s a.cmd then acceptCmd s a true
    else
      let b := planService s c false
      if b.reason = 0 && withinContract s b.cmd then acceptCmd s b true
      else if b.reason ≠ 0 then
        let r := if contractOf s c.fn c.cls c.write = none then b else a
        if r.reason ≠ 0 then holdOrRefuse { s with buf := r.st.buf } { c with slackWait := false } r.reason r.hint
        else
          let o := overReason s a.cmd
          holdOrRefuse s { a.cmd with slots := [], slackWait := true } o.1 o.2
      else if slackGrant s b.cmd then acceptCmd s b false
      else
        let o := overReason s b.cmd
        holdOrRefuse s { b.cmd with slots := [], slackWait := true } o.1 o.2

/-- Copies in service that still lack their pool 3 buffers ask again after a release, and a Copy that has them and all its data goes
on; so do commands that waited for the Purlin cluster (R21, R302). -/
def resumePurlin (s : State) : State :=
  forEach (s.adm.cmds.filter (·.accepted)) (fun c s => match cmdOf s c.fn c.sqid c.cid with
    | none => s
    | some c => match c.op with
      | .copy _ _ _ =>
        let (s, c) := takeCopyBufs s c
        if c.slots.all (·.done) && c.arrived == 0 && c.endStatus.isNone then finishRead s c else s
      | .setZoneDescriptorExtension _ _ _ => zoneSend s c
      | _ => s) s

/-- Evaluate every held command, in the order of R84, after a change that R80 names; commands that wait for the Purlin cluster or its
buffers go on. -/
def reevaluateAll (s : State) : State :=
  let s := resumePurlin s
  let held := (s.adm.cmds.filter fun c => !c.accepted).mergeSort (fun a b => before a b)
  forEach held (fun c s => match cmdOf s c.fn c.sqid c.cid with
    | some c => if c.accepted then s else evaluate s c
    | none => s) s

end Sys2Proof.Machine
end

