-- ==== Sys2Proof/Machine/Recovery.lean ====
section
/-! DEFINITION. Read recovery within the deadline (chapter 07): the ladder, read-around, completion at the deadline, the
Recovery Table, hits and refresh flags. -/

namespace Sys2Proof.Machine

/-! ### Hits (R166, R176) -/

/-- The thatch that a die block is a member block of. -/
def thatchOfBlock (s : State) (d : DieNo) (k : Nat) : Option Nat :=
  (s.fl.thatches.find? fun e => e.2.members.any fun m => m.die == d && (m.block == k || m.splices.any (·.block == k))).map (·.1)

/-- Flag a thatch for refresh (R124, R174, R176). -/
def flagRefresh (s : State) (t : Nat) : State := updThatch s t fun x => { x with flagged := true }

/-- Add recovery hits to a die block, saturating at 255; at REFRESH_HITS its thatch is flagged (R176). -/
def addHits (s : State) (d : DieNo) (k n : Nat) : State :=
  let s := updBlock s d k fun b => { b with hits := min 255 (b.hits + n) }
  if s.prof.refreshHits ≤ (block s d k).hits then match thatchOfBlock s d k with
    | some t => flagRefresh s t
    | none => s
  else s

/-- A read-retry stage decoded with a shift set: the block record keeps it (R166). -/
def keepShift (s : State) (d : DieNo) (k shift : Nat) : State :=
  let band := bandOf s.prof (pkgTemp s (diePkg d))
  updBlock s d k fun b => { b with shift := shift, band := band, valid := true }

/-! ### Dropping what a command no longer needs -/

/-- The Soft-Decode island gives up the hard codewords that it holds for a read (R163). -/
def dropHard (s : State) (p : Purpose) : State := { s with fl := { s.fl with hardWords := s.fl.hardWords.filter (·.purpose != p) } }

/-- Remove the bookings of a rebuild and the rebuild itself: queued members leave the store, issued ones run out. -/
def dropRebuild (s : State) (id : Nat) : State :=
  let mine (d : Desc) : Bool := match d.purpose with
    | .raMember r _ => r == id
    | _ => false
  let s := forEach (s.fl.descs.filter fun d => mine d && d.st == .queued) (fun d s => dropDesc s d 0x33) s
  { s with fl := { s.fl with rebuilds := s.fl.rebuilds.filter (·.id != id),
                             hardWords := s.fl.hardWords.filter fun w => match w.purpose with
                               | .raMember r _ => r != id
                               | _ => true } }

/-- Release the fall-back of a ladder (R168). -/
def releaseFallback (s : State) (l : Ladder) : State :=
  match l.fallback with
  | some id => dropRebuild s id
  | none => s

/-- The ladder on a slot of a command. -/
def ladderOf (s : State) (c : Cmd) (slot : Nat) : Option Ladder :=
  s.fl.ladders.find? fun l => l.fn == c.fn && l.sqid == c.sqid && l.cid == c.cid && l.page == slot

/-- Store a ladder. -/
def setLadder (s : State) (l : Ladder) : State :=
  let same (x : Ladder) : Bool := x.fn == l.fn && x.sqid == l.sqid && x.cid == l.cid && x.page == l.page
  { s with fl := { s.fl with ladders := s.fl.ladders.filter (fun x => !same x) ++ [l] } }

/-- Remove the descriptors, rebuilds and ladders of a slot, or of all slots, of a command; what a die has begun runs out, and
its data is discarded. -/
def dropSlotWork (s : State) (c : Cmd) (slot? : Option Nat) : State :=
  let hit (i : Nat) : Bool := slot?.all (· == i)
  let mine (d : Desc) : Bool := match d.purpose with
    | .hostRead f q i n => f == c.fn && q == c.sqid && i == c.cid && hit n
    | _ => false
  let s := forEach (s.fl.descs.filter fun d => mine d && d.st == .queued) (fun d s => dropDesc s d 0x33) s
  let rb := (s.fl.rebuilds.filter fun r => r.fn == c.fn && r.sqid == c.sqid && r.cid == c.cid && hit r.page).map (·.id)
  let s := forEach rb (fun id s => dropRebuild s id) s
  { s with fl := { s.fl with descs := s.fl.descs.map (fun d => if mine d then { d with purpose := .control } else d),
                             softWaits := s.fl.softWaits.filter (fun w => match w.desc.purpose with
                               | .hostRead f q i n => !(f == c.fn && q == c.sqid && i == c.cid && hit n)
                               | _ => true),
                             hardWords := s.fl.hardWords.filter (fun w => match w.purpose with
                               | .hostRead f q i n => !(f == c.fn && q == c.sqid && i == c.cid && hit n)
                               | _ => true),
                             ladders := s.fl.ladders.filter fun l =>
                     !(l.fn == c.fn && l.sqid == c.sqid && l.cid == c.cid && hit l.page) } }

/-- A read whose function is reset (R222 step 4, R223): its die bookings run out and nobody takes their data. -/
def orphanReads (s : State) (c : Cmd) : State :=
  let own (f q i : Nat) : Bool := f == c.fn && q == c.sqid && i == c.cid
  let rb := (s.fl.rebuilds.filter fun r => own r.fn r.sqid r.cid).map (·.id)
  let mine (p : Purpose) : Bool := match p with
    | .hostRead f q i _ => own f q i
    | .raMember r _ => rb.contains r
    | _ => false
  { s with fl := { s.fl with descs := s.fl.descs.map (fun d => if mine d.purpose then { d with purpose := .control } else d),
                             rebuilds := s.fl.rebuilds.filter (fun r => !rb.contains r.id),
                             softWaits := s.fl.softWaits.filter (fun w => !mine w.desc.purpose),
                             hardWords := s.fl.hardWords.filter (fun w => !mine w.purpose),
                             ladders := s.fl.ladders.filter fun l => !own l.fn l.sqid l.cid } }

/-! ### Results -/

/-- Seals of a slot's data as decoders and rebuild accumulators create them (R309). -/
def slotSeals (s : State) (c : Cmd) (x : SlotSt) : List Nat :=
  (List.range x.units).map fun i =>
    let u := x.unit0 + i
    freshSeal s c.nsid u c.epoch c.key ((c.data.getD (u - c.unit0) none).getD 0)

/-- A slot has its data (R81, R103): its buffers are taken, its page may enter the Loft, and the command goes on when every
slot is served. -/
def slotDone (s : State) (c : Cmd) (slot : Nat) : State :=
  let x := c.slots[slot]?.getD slotNone
  if x.done then s
  else
    let s := dropSlotWork s c (some slot)
    let s := sealBufs ((allocBufs s 1 5 x.units).getD s) 1 (slotSeals s c x)
    let s := updCmd s c fun y => { y with slots := vecUpd y.slots slot fun z => { z with done := true } }
    let s := noteRead s c.nsid (x.unit0 / 4)
    match cmdOf s c.fn c.sqid c.cid with
    | some c' => if c'.slots.all (·.done) then finishRead s c' else s
    | none => s

/-- Add a page to the Recovery Table (R174): one entry a page, 4,096 in all; when it is full the thatch is flagged. A page whose thatch
a Zone Reset or a Deallocate has released meanwhile has no data left to recover (R43). -/
def enterRecovery (s : State) (c : Cmd) (x : SlotSt) : State :=
  let k := slotKey s c.nsid x
  if (recoveryOf s k.1 k.2).isSome || (x.loc.isSome && (slotLoc s c.nsid x.unit0 x.units).isNone) then s
  else if 4096 ≤ s.fl.recovery.length then match keyLoc s k.1 k.2 with
    | some (t, _) => flagRefresh s t
    | none => s
  else
    let e : RecEntry := { nsid := k.1, page := k.2, passes := 0, nextAt := now s, recovered := false, fn := c.fn, cls := c.cls,
                          seals := [], pins := 0, run := none, ended := false }
    { s with fl := { s.fl with recovery := s.fl.recovery ++ [e] } }

/-- Complete a read with 0xC6 (R103); its pages not recovered enter the Recovery Table. Writes that waited behind a Copy go on (R182). -/
def failRead (s : State) (c : Cmd) : State :=
  let open' := c.slots.filter fun x => !x.done
  let s := dropSlotWork s c none
  let s := forEach open' (fun x s => enterRecovery s c x) s
  let s := completeCmd s c (.vendor 0xC6) 0 [] []
  if c.write then flushReady (s.adm.cmds.length + 1) s else s

/-! ### The ladder (R168) -/

/-- A direct stage: the soft stage, or a read-retry with a shift set. -/
inductive Stage where
  | soft
  | retry (shift : Nat)
  deriving DecidableEq, Repr

/-- The Soft-Decode island is Running and SOFT_ENABLE is 1. -/
def softUp (s : State) : Bool := s.prof.softEnable == 1 && !notRunning s 8

/-- Read-retry sets left on a die: the retry list of the current band without the failed read's starting shift and those tried. -/
def retriesLeft (s : State) (d : DieNo) (start : Nat) (tried : List Nat) : List Nat :=
  (retryList s.prof (bandOf s.prof (pkgTemp s (diePkg d)))).filter fun x => x != start && !tried.contains x

/-- The direct stages that come next on a die block, in order (R168): the soft stage once, then the next retry, to which a soft stage
without a decoder slot in time passes on (R163). -/
def nextStages (s : State) (d : DieNo) (softDone : Bool) (start : Nat) (tried : List Nat) : List Stage :=
  (if softUp s && !softDone then [.soft] else []) ++ ((retriesLeft s d start tried).take 1).map .retry

/-- Length of a soft decoder's slot in ns (R163). -/
abbrev softSlot : Nat := 8000

/-- Earliest time from `t` on at which a soft-decode lane has `n` consecutive slots of 8 µs free, one for each codeword, that end by a time
and within the horizon (R163): lane and start; times in ns. That a page's codewords take consecutive slots of one lane, and that a slot
starts when its data is there, is a DESIGN CHOICE (log entry 122). -/
def softLane (s : State) (t n until' : Nat) : Option (Nat × Nat) :=
  let len := softSlot * n
  let fits (e : Nat × Nat) : Bool :=
    decide (e.1 + len ≤ min until' ((now s + horizon) * 1000)) &&
      !s.fl.softLanes.any fun l => l.1 == e.2 && overlap e.1 len l.2 softSlot
  let ends := t :: ((s.fl.softLanes.map fun l => l.2 + softSlot).filter (t ≤ ·)).mergeSort (· ≤ ·)
  ((ends.flatMap fun k => (List.range 8).map fun lane => (k, lane)).find? fits).map fun e => (e.2, e.1)

/-- What booking a direct stage gives: the machine with it and the time of its decode result in ns; no soft decoder in time; no time. -/
inductive StageRes where
  | booked (st : State) (endNs : Nat)
  | noLane
  | noTime
  deriving DecidableEq, Repr

/-- Codewords of a mask. -/
def cwCount (mask : Nat) : Nat := countP (mask.testBit ·) (List.range 4)

/-- First and last codeword of a mask. -/
def cwFirst (mask : Nat) : Nat := ((List.range 4).find? (mask.testBit ·)).getD 0
def cwEnd (mask : Nat) : Nat := ((List.range 4).reverse.find? (mask.testBit ·)).getD 3

/-- Book a direct stage on a page whose codewords of a mask failed (R163, R167): one sense serves them all, each adds its transfer and
in the soft stage a decoder slot. `dl` in ns is the time by which its result is of use. -/
def bookStage (s : State) (st : Stage) (m : MemberSt) (t : Nat) (pl : Place) (cws dl start : Nat) (q : PageReq) : StageRes :=
  let n := cwEnd cws + 1 - cwFirst cws
  let len := if st = .soft then 2 * s.prof.tR else s.prof.tR
  let xfer := if st = .soft then 2 * cwCount cws else max (2 * cwCount cws) (xferUs s.prof n)
  let req : SenseReq := { die := m.die, len := len, xfer := xfer, kind := .readGroup, cls := q.cls, tag := nextTag s, firm := q.firm,
                          ra := false, mayOpen := q.mayOpen, lead := q.lead, reserve := q.reserve }
  match bookSense s req with
  | none => .noTime
  | some (s, se) =>
    let (blk, wl) := blockAt m pl.course
    let d : Desc := { descDefault with
      ch := dieCh m.die, opcode := if st = .soft then 0x03 else 0x01, slot := m.die % 128, firm := q.firm, tokens := s.prof.tokSense,
      cls := q.cls, length := len, planeMask := 2 ^ pl.plane, shiftSet := match st with
        | .soft => start
        | .retry x => x,
      block := blk, wordline := wl, level := pl.level, cwFirst := cwFirst cws, cwLast := cwEnd cws, thatch := t,
      purpose := q.purpose, dest := if st = .soft then (.softDecode, cws) else q.dest }
    let s := addRead s d se
    match st with
    | .retry _ => .booked s (decodeNs s.prof se)
    | .soft =>
      match softLane s (se.xferEnd * 1000 + chunkNs s.prof) (cwCount cws) dl with
      | some (lane, t0) =>
        let kept := s.fl.softLanes.filter fun l => decide (now s * 1000 < l.2 + softSlot)
        .booked { s with fl := { s.fl with softLanes := kept ++ (List.range (cwCount cws)).map fun i => (lane, t0 + softSlot * i) } }
          (t0 + softSlot * cwCount cws)
      | none => .noLane

/-- Book the first of the stages that a decoder slot does not rule out. -/
def bookFirst (s : State) (m : MemberSt) (t : Nat) (pl : Place) (cws dl start : Nat) (q : PageReq) : List Stage → Option (Stage × State × Nat)
  | [] => none
  | st :: rest => match bookStage s st m t pl cws dl start q with
    | .booked s' e => some (st, s', e)
    | .noLane => bookFirst s m t pl cws dl start q rest
    | .noTime => none

/-- Plan as if the time were `t` µs, then return to the present. -/
def atTime (s : State) (t : Nat) : State := { s with tm := { s.tm with devTime := t } }

/-- Flash energy of recovery goes to the function's meter as it is spent (R103, R170). -/
def chargeRecovery (s : State) (fn nj : Nat) : State := updMeter s fn fun m => { m with recovery := m.recovery + nj }

/-- The time in ns by which a command's data must be in host memory (R105, R107): its deadline, later by 500 µs under the allowance. -/
def dueNs (c : Cmd) : Nat := (c.dl + (if c.allowance then 500 else 0)) * 1000

/-- Read-around as the last route of a read: the fall-back is promoted, or one is planned now (R168); `else'` says what follows where
none ends in time. -/
def lastRoute (s : State) (c : Cmd) (slot : Nat) (fallback : Option Nat) (else' : State → State) : State :=
  let x := c.slots[slot]?.getD slotNone
  let h := hostStage s c.units
  let next (s : State) (e : Nat) : State := match ladderOf s c slot with
    | some l => setLadder s { l with nextEnd := e }
    | none => s
  let promote (id : Nat) : State :=
    let s := match ladderOf s c slot with
      | some l => next s l.fbEnd
      | none => s
    let s := { s with fl := { s.fl with rebuilds := s.fl.rebuilds.map fun r => if r.id = id then { r with provisional := false } else r } }
    chargeRecovery s c.fn (((rebuildOf s id).map (·.waiting)).getD 0 * senseEnergy s.prof false x.units)
  match fallback with
  | some id => promote id
  | none => match slotPlace s c.nsid x with
    | none => else' s
    | some (t, th, pl) => match bookAround s c slot t th pl x.units false (stageReq c true) with
      | some (s', endNs, _) =>
        if endNs + h ≤ dueNs c then chargeRecovery (next s' endNs) c.fn ((th.width - 1) * senseEnergy s.prof false x.units) else else' s
      | none => else' s

/-- A ladder that starts: the shift of the failed hard read and the codewords that failed (R168). -/
def newLadder (s : State) (c : Cmd) (slot shift cws : Nat) : Ladder :=
  { fn := c.fn, sqid := c.sqid, cid := c.cid, page := slot, die := 0, block := 0, shift := shift, cws := cws, softDone := false,
    nextEnd := now s * 1000, retries := [], fallback := none, fbEnd := 0 }

/-- The next step of the ladder of a slot whose page has failed a decode (R168): the next direct stage, behind which a
read-around that ends in time is booked where one is possible; else the last route, and with none of these `fail`. -/
def ladderStepWith (fail : State → Cmd → State) (s : State) (c : Cmd) (slot : Nat) (l0 : Ladder) : State :=
  let x := c.slots[slot]?.getD slotNone
  match slotPlace s c.nsid x with
  | none => fail s c
  | some (t, th, pl) => match th.members[pl.pos]? with
    | none => fail s c
    | some m =>
      let l := { l0 with die := m.die, block := (blockAt m pl.course).1 }
      let h := hostStage s c.units
      let give (s : State) : State := lastRoute (setLadder s l) c slot l.fallback (fail · c)
      match bookFirst s m t pl l.cws (dueNs c - h) l.shift
          (stageReq c false (.hostRead c.fn c.sqid c.cid slot) (.fabric, slot))
          (nextStages s m.die l.softDone l.shift l.retries) with
      | none => give s
      | some (st, s1, endNs) =>
        let l' := match st with
          | .soft => { l with softDone := true, nextEnd := endNs }
          | .retry k => { l with softDone := true, retries := l.retries ++ [k], nextEnd := endNs }
        let done (s : State) (fb : Option Nat) (fEnd : Nat) : State :=
          chargeRecovery (setLadder s { l' with fallback := fb, fbEnd := fEnd }) c.fn
            ((if st = .soft then 2 else 1) * senseEnergy s.prof false (cwCount l.cws))
        if canRebuild s th pl.pos then
          match bookAround (atTime s1 (endNs / 1000)) c slot t th pl x.units true (stageReq c true) with
          | some (s2, fEnd, id) => if fEnd + h ≤ dueNs c then done (releaseFallback (atTime s2 (now s)) l) (some id) fEnd else give s
          | none => give s
        else if endNs + h ≤ dueNs c then done s1 none 0
        else give s

/-- The ladder of another read on the page of a slot whose next decode result comes in time for this read (R169). -/
def joinable (s : State) (c : Cmd) (slot : Nat) (l : Ladder) : Bool :=
  let x := c.slots[slot]?.getD slotNone
  match cmdOf s l.fn l.sqid l.cid with
  | some o => !sameCmd o c && decide (l.nextEnd + hostStage s c.units ≤ dueNs c) && (match o.slots[l.page]? with
      | some y => slotKey s c.nsid y == slotKey s c.nsid x
      | none => false)
  | none => false

/-- A ladder runs on the page of a slot for another read. -/
def pageLadder (s : State) (c : Cmd) (slot : Nat) : Bool :=
  let x := c.slots[slot]?.getD slotNone
  s.fl.ladders.any fun l => match cmdOf s l.fn l.sqid l.cid with
    | some o => !sameCmd o c && (match o.slots[l.page]? with
        | some y => slotKey s o.nsid y == slotKey s c.nsid x
        | none => false)
    | none => false

/-- A read waits for the result of another read's ladder: it has no work of its own for a slot. -/
def hasJoined (s : State) (o : Cmd) (slot : Nat) : Bool :=
  let own (p : Purpose) : Bool := match p with
    | .hostRead f q i n => f == o.fn && q == o.sqid && i == o.cid && n == slot
    | _ => false
  (ladderOf s o slot).isNone && !s.fl.descs.any (own ·.purpose) && !s.fl.softWaits.any (own ·.desc.purpose) &&
    !s.fl.rebuilds.any fun r => r.fn == o.fn && r.sqid == o.sqid && r.cid == o.cid && r.page == slot

/-- Accepted reads that have joined a ladder of a command on one of its pages (R169), with the slot and the ladder. -/
def joinedReads (s : State) (c : Cmd) : List (Cmd × Nat × Ladder) :=
  (c.slots.zipIdx.filter fun e => !e.1.done).flatMap fun e => match ladderOf s c e.2 with
    | none => []
    | some l => (s.adm.cmds.filter fun o => o.accepted && !sameCmd o c).flatMap fun o =>
      (o.slots.zipIdx.filter fun y => !y.1.done && y.1.route != .recovered && slotKey s o.nsid y.1 == slotKey s c.nsid e.1 &&
        hasJoined s o y.2).map fun y => (o, y.2, l)

/-- A read whose ladder's owner has gone takes the ladder over, or joins the one that another has taken over (R103, R169). -/
def takeLadder (s : State) (o : Cmd) (slot : Nat) (l : Ladder) : State :=
  if pageLadder s o slot && s.fl.ladders.any (joinable s o slot) then s
  else ladderStepWith failRead s o slot
    { l with fn := o.fn, sqid := o.sqid, cid := o.cid, page := slot, nextEnd := now s * 1000, fallback := none, fbEnd := 0 }

/-- Reads that had joined the ladders of a command go on without it. -/
def passLadders (js : List (Cmd × Nat × Ladder)) (s : State) : State :=
  forEach js (fun j s => match cmdOf s j.1.fn j.1.sqid j.1.cid with
    | some o => takeLadder s o j.2.1 j.2.2
    | none => s) s

/-- The flash work of a command ends; reads that have joined its ladders go on. -/
def leaveJoined (s : State) (c : Cmd) : State := passLadders (joinedReads s c) (dropSlotWork s c none)

/-- A command of a function that is reset leaves its reads to run out; reads of other functions that have joined its ladders go on. -/
def leaveReads (s : State) (c : Cmd) : State := passLadders (joinedReads s c) (orphanReads s c)

/-- No route can deliver in time, or the deadline has come (R103): 0xC6, and the pages not recovered enter the Recovery
Table; reads that have joined its ladders go on with them. -/
def noRoute (s : State) (c : Cmd) : State := failRead (leaveJoined s c) c

/-- The next step of a read's ladder (R168); with no route left the read completes (R103). -/
def ladderStep (s : State) (c : Cmd) (slot : Nat) (l : Ladder) : State := ladderStepWith noRoute s c slot l

/-- A page failed to decode for a slot (R168, R169): the read's own ladder goes on with the codewords that still fail (R167); where another read's ladder runs on the page it
joins that one if the next result comes in time, else plans a read-around alone; else its ladder starts. -/
def pageFailed (s : State) (c : Cmd) (slot shift cws : Nat) : State :=
  match ladderOf s c slot with
  | some l => ladderStep s c slot { l with cws := if cws = 0 then l.cws else cws }
  | none =>
    if !pageLadder s c slot then ladderStep s c slot (newLadder s c slot shift cws)
    else if s.fl.ladders.any (joinable s c slot) then s
    else
      let id := s.fl.nextRebuild
      let s := lastRoute s c slot none (noRoute · c)
      { s with fl := { s.fl with rebuilds := s.fl.rebuilds.map fun r => if r.id = id then { r with failed := true } else r } }

/-- A queued or issued first read of a slot. -/
def firstRead (s : State) (o : Cmd) (slot : Nat) : Bool :=
  (ladderOf s o slot).isNone && s.fl.descs.any fun d => match d.purpose with
    | .hostRead f q i n => f == o.fn && q == o.sqid && i == o.cid && n == slot
    | _ => false

/-- The reads of a page that has failed take its data, whatever they have booked: the first result serves them all (R169). A read
whose own first sense is still to come keeps it. -/
def shareResult (s : State) (c : Cmd) (slot : Nat) : State :=
  let x := c.slots[slot]?.getD slotNone
  forEach (s.adm.cmds.filter fun o => o.accepted && !sameCmd o c) (fun o s =>
    forEach (o.slots.zipIdx.filter fun e => !e.1.done && slotKey s o.nsid e.1 == slotKey s c.nsid x && e.1.route != .recovered &&
        !firstRead s o e.2 && (match e.1.route with
          | .readAround _ => (ladderOf s o e.2).isSome
          | _ => true)) (fun e s => match cmdOf s o.fn o.sqid o.cid with
      | some o => slotDone s o e.2
      | none => s) s) s

/-- Plan a slot's read again as a read-around, under the allowance (Table 03.11, Table 06.13). A read whose ladder loses its last route
to a fault completes at its deadline (R173). -/
def rebookAround (s : State) (c : Cmd) (slot : Nat) : State :=
  match ladderOf s c slot with
  | some l => lastRoute s c slot l.fallback id
  | none => lastRoute (updCmd s c fun x => { x with allowance := true }) { c with allowance := true } slot none
      (noRoute · { c with allowance := true })

/-! ### Read-around members (R171, R172) -/

/-- A page that a relocation rebuilt after a failed decode: the hits of its block (R176). Such a rebuild has function 65535, the source
thatch in `sqid`, the target in `cid`, and its target's course and page in `page`. -/
def relocHits (s : State) (r : Rebuild) : State :=
  match (thatch s r.sqid).members[r.target]? with
  | some m => if r.failed then addHits s m.die (blockAt m (r.page / 16)).1 s.prof.refreshHits else s
  | none => s

/-- Hits of the block that a slot's page lies in, for a rebuild after a decode failure (R176). -/
def targetHits (s : State) (c : Cmd) (slot : Nat) : State :=
  match slotPlace s c.nsid (c.slots[slot]?.getD slotNone) with
  | some (_, th, pl) => match th.members[pl.pos]? with
    | some m => addHits s m.die (blockAt m pl.course).1 s.prof.refreshHits
    | none => s
  | none => s

/-- A member of a rebuild has decoded; the last one completes the slot where the rebuilt tag agrees (R171), and the target's block gains hits
when the rebuild followed a decode failure (R176). -/
def memberDone (s : State) (id : Nat) : State :=
  match rebuildOf s id with
  | none => s
  | some r =>
    let r' := { r with waiting := r.waiting - 1 }
    let s := { s with fl := { s.fl with rebuilds := s.fl.rebuilds.map fun x => if x.id = id then r' else x } }
    if 0 < r'.waiting then s
    else match cmdOf s r.fn r.sqid r.cid with
      | none => dropRebuild (if r.fn = 65535 then relocHits s r else s) id
      | some c =>
        let s := match ladderOf s c r.page with
          | some l => addHits s l.die l.block s.prof.refreshHits
          | none => if r.failed then targetHits s c r.page else s
        if !r.sparOff then shareResult (slotDone s c r.page) c r.page
        else noRoute (dropRebuild s id) c

/-- The next stage of a member of a rebuild that failed at a shift: its own ladder without read-around, whose stages go to the
function's meter (R170, R172); `stuck` says what follows with no stage that ends in time. -/
def memberStep (s : State) (id pos shift cws : Nat) (stuck : State → Cmd → State) : State :=
  match rebuildOf s id with
  | none => s
  | some r => match cmdOf s r.fn r.sqid r.cid with
    | none => dropRebuild s id
    | some c =>
      let x := c.slots[r.page]?.getD slotNone
      match slotPlace s c.nsid x with
      | none => noRoute s c
      | some (t, th, pl) => match th.members[pos]? with
        | none => noRoute s c
        | some m =>
          let before := (r.tried.filter fun e => e.1 == pos).map (·.2)
          let tried := if before.isEmpty then [shift] else before
          let due := dueNs c - hostStage s c.units - 500
          match bookFirst s m t pl cws due (tried.headD 0) (stageReq c false (.raMember id pos) (.fabric, id))
              (nextStages s m.die (tried.contains 255) (tried.headD 0) tried) with
          | none => stuck s c
          | some (st, s', endNs) =>
            if endNs ≤ due then
              let new := match st with
                | .soft => [255]
                | .retry k => [255, k]
              let s' := chargeRecovery s' c.fn ((if st = .soft then 2 else 1) * senseEnergy s.prof false (cwCount cws))
              { s' with fl := { s'.fl with rebuilds := s'.fl.rebuilds.map fun y =>
                                  if y.id = id then { y with tried := y.tried ++ (if before.isEmpty then [(pos, shift)] else []) ++
                                                                        new.map fun k => (pos, k) } else y } }
            else stuck s c

/-- A member of a rebuild failed its decode: with no stage left the read completes at once (R172). -/
def memberFailed (s : State) (id pos shift cws : Nat) : State := memberStep s id pos shift cws noRoute

/-- DEADLINE_REACHED (R103, R105, R174): an accepted Read or Copy that has not received its data at its deadline, or at
dl + 500 µs under the allowance, completes with 0xC6. -/
def execDeadlineReached (fn sqid cid : Nat) (s : State) : Host.Outcome State Fault Refusal :=
  .next (match cmdOf s fn sqid cid with
    | some c =>
      let reads := match c.op with
        | .read _ _ _ => true
        | .copy _ _ _ => decide (c.arrived = 0)
        | _ => false
      if c.accepted && reads && !c.slots.all (·.done) && decide (c.dl + (if c.allowance then 500 else 0) ≤ now s) then noRoute s c
      else s
    | none => s)

/-! ### Location tags of a page (R161) -/

/-- The unit at an offset of a thatch: zone offset, or granule of a conventional slot. -/
def unitAt (th : ThatchSt) (off : Nat) : Option (Nat × Nat) :=
  match th.kind with
  | .zone => some (th.nsid, th.zone * zoneUnits + off)
  | _ => match th.granules[off]? with
    | some (some g) => some g
    | _ => none

/-- Offset of the first unit of page `pg` of the yealm that position `pos` holds in course `c`; none for the spar. -/
def pageOffset (p : Profile) (w c pos pg : Nat) : Option Nat :=
  if sparPos w c = pos then none
  else some ((c * ((w - 1) * yealm p) + (pg * (w - 1) + (pos + 2 * w - c % w - 1) % w) * 16384) / 4096)

/-- Course, position and page of the yealm that a page descriptor reads. -/
def descPage (s : State) (th : ThatchSt) (d : Desc) : Option (Nat × Nat × Nat) :=
  (th.members.zipIdx.find? fun e => e.1.die == descDie d).map fun e =>
    let c := match e.1.splices.find? fun sp => sp.block == d.block with
      | some sp => d.wordline + sp.course
      | none => d.wordline
    (c, e.2, d.level * s.prof.planes + ((List.range 4).find? fun p => d.planeMask.testBit p).getD 0)

/-- NSID, unit address and write epoch whose location tag a codeword of a page read must carry (R161); none for a spar, a page that belongs
to no LBA, or a codeword that the read does not want. -/
def tagOf (s : State) (d : Desc) (cw : Nat) : Option (Nat × Nat × Nat) :=
  match d.purpose with
  | .hostRead f q i slot => (cmdOf s f q i).bind fun c =>
    let x := c.slots[slot]?.getD slotNone
    if (nsOf s c.nsid).any (·.zoned) then some (c.nsid, x.unit0 / 4 * 4 + cw, x.epoch)
    else if cw = d.cwFirst then some (c.nsid, x.unit0, x.epoch) else none
  | _ =>
    let th := thatch s d.thatch
    (descPage s th d).bind fun (c, pos, pg) => (pageOffset s.prof th.width c pos pg).bind fun off =>
      (unitAt th (off + cw)).map fun u => (u.1, u.2, epochOf s u.1 u.2)

/-- The codewords of a page read, as a mask, whose location tag is not the one expected (R161); a spar's is the exclusive-or of tags,
which the channel island cannot compare. -/
def tagMisses (s : State) (d : Desc) (found : List FoundTag) : Nat :=
  let off (f : FoundTag) : Bool := decide (d.cwFirst ≤ f.cw) && decide (f.cw ≤ d.cwLast) &&
    (tagOf s d f.cw).any fun e => !tagMatches s e.1 e.2.1 e.2.2 f
  (found.filter off).foldl (fun m f => m ||| 2 ^ f.cw) 0

/-- Fault source `off` of channel `c` (Table 14.1: 8c plus the offset). -/
def chSrc (c off : Nat) : Nat := 8 * c + off

/-- Raise a source of a channel for a die operation. -/
def chFault (s : State) (c off : Nat) (d : Desc) (status : Nat) : State :=
  raiseFault s (chSrc c off) (capOf 4 4 (descDie d + d.seqTag * 2 ^ 32) status (chIsland c))

/-! ### Background passes (R174) -/

/-- Bands in the order of a background pass: the current one, then each neighbour, working outward (R174). -/
def bandsOutward (b : Nat) : List Nat :=
  b :: (List.range 8).flatMap fun i => (if i + 1 ≤ b then [b - (i + 1)] else []) ++ (if b + i + 1 < 8 then [b + i + 1] else [])

/-- Shift sets of a background pass on a die, in order. -/
def passSets (s : State) (d : DieNo) : List Nat :=
  ((bandsOutward (bandOf s.prof (pkgTemp s (diePkg d)))).flatMap (retryList s.prof ·)).eraseDups

/-- Direct stages of a pass on a die: a retry for every set, each followed by a soft stage at that set. -/
def passStages (s : State) (d : DieNo) : List (Bool × Nat) := (passSets s d).flatMap fun k => [(false, k), (true, k)]

/-- A die takes the stages of a background pass: up, with no program or erase in progress or suspended (R174). -/
def passDie (s : State) (d : DieNo) : Bool :=
  dieUp s d && !(dieEntries s d).any fun e => isProgErase e.kind && decide (e.start ≤ now s) && decide (now s < entryEnd e)

/-- Book a stage of a pass on a page of a member, in the background: it opens no window and spends no suspend; its flash energy goes to
meter `fn`. -/
def bookPassStage (s : State) (fn : Nat) (m : MemberSt) (t : Nat) (pl : Place) (st : Bool × Nat) (q : PageReq) : Option State :=
  if !passDie s m.die || (st.1 && !softUp s) then none
  else match bookStage s (if st.1 then .soft else .retry st.2) m t { pl with cw := 0 } 15 ((now s + horizon) * 1000) st.2 q with
    | .booked s _ => some (updMeter s fn fun x =>
        let nj := (if st.1 then 2 else 1) * senseEnergy s.prof false 4
        if fn = 65535 then { x with admitted := x.admitted + nj } else { x with recovery := x.recovery + nj })
    | _ => none

/-- A stage of a pass is outstanding on a member. -/
def passOut (s : State) (nsid page pos : Nat) : Bool :=
  s.fl.descs.any (·.purpose == .pass nsid page pos) || s.fl.softWaits.any (·.desc.purpose == .pass nsid page pos)

/-- Change the pass in progress on a page. -/
def updRun (s : State) (nsid page : Nat) (f : PassRun → PassRun) : State :=
  { s with fl := { s.fl with recovery := s.fl.recovery.map fun x =>
      if x.nsid = nsid && x.page = page && !x.ended then { x with run := x.run.map f } else x } }

/-- The pass on a page at a place as it begins: the direct stages of the page's own member. -/
def newRun (s : State) (th : ThatchSt) (pos : Nat) : PassRun :=
  { around := false, todo := ((th.members[pos]?).map fun m => (pos, passStages s m.die)).toList, got := [] }

/-- What follows when a member has no stage left: after the page's own member the read-around, in which every member runs its hard read and
then the same stages, where the course can be rebuilt; after another one the pass has failed. -/
def turnRun (s : State) (th : ThatchSt) (pos : Nat) (r : PassRun) : PassRun :=
  if r.todo.all (!·.2.isEmpty) then r
  else if r.around || !r.got.isEmpty || !canRebuild s th pos then { r with todo := [] }
  else
    { r with around := true, todo := (th.members.zipIdx.filter (·.2 != pos)).map fun e =>
        (e.2, (false, startShift s e.1.die e.1.block) :: passStages s e.1.die) }

/-- Book what a pass has to run next: one stage of each member at a time; stages for a Soft-Decode island that is away are left out, and
what finds no place waits for the next decision. -/
def goOnPass (s : State) (e : RecEntry) : State :=
  match locPlace s (keyLoc s e.nsid e.page) with
  | none => s
  | some (t, th, pl) =>
    let skip (l : List (Bool × Nat)) : List (Bool × Nat) := if softUp s then l else l.filter (!·.1)
    let s := updRun s e.nsid e.page fun r => turnRun s th pl.pos { r with todo := r.todo.map fun x => (x.1, skip x.2) }
    let todo := (((recoveryOf s e.nsid e.page).bind (·.run)).map (·.todo)).getD []
    if s.eav.powerLoss then s
    else forEach todo (fun x s => match x.2.head?, th.members[x.1]? with
      | some st, some m =>
        if passOut s e.nsid e.page x.1 then s
        else (bookPassStage s e.fn m t { pl with pos := x.1 } st
          { backgroundReq false false (.pass e.nsid e.page x.1) with cls := e.cls }).getD s
      | _, _ => s) s

/-- Go on with the pass of a page. -/
def goOnPage (s : State) (nsid page : Nat) : State :=
  match recoveryOf s nsid page with
  | some e => goOnPass s e
  | none => s

/-- A stage of a pass failed on a member. -/
def passFailed (s : State) (nsid page pos : Nat) : State :=
  goOnPage (updRun s nsid page fun r =>
    { r with todo := r.todo.map fun x => if x.1 = pos then (x.1, x.2.drop 1) else x }) nsid page

/-- A stage of a pass decoded on a member: the page is there, or the read-around has one member more. -/
def passDecoded (s : State) (nsid page pos : Nat) : State :=
  updRun s nsid page fun r =>
    { r with todo := if r.around then r.todo.filter (·.1 != pos) else [], got := r.got ++ [pos] }

/-- The pass in progress has run to its end. -/
def passEnded (s : State) (e : RecEntry) : Bool :=
  e.run.any (·.todo.isEmpty) && !(List.range 16).any fun i => passOut s e.nsid e.page i

/-- The pass in progress has the page: its own member decoded, or every other one did. -/
def passHas (s : State) (e : RecEntry) : Bool :=
  match e.run, locPlace s (keyLoc s e.nsid e.page) with
  | some r, some (_, th, pl) => if r.around then (List.range th.members.length).all fun i => i == pl.pos || r.got.contains i else !r.got.isEmpty
  | _, _ => true

/-- Commands that wait for the recovery of a page (R104), with the slot. -/
def recoveryWaiters (s : State) (nsid page : Nat) : List (Cmd × Nat) :=
  (s.adm.cmds.filter (·.accepted)).flatMap fun c =>
    (c.slots.zipIdx.filter fun e => !e.1.done && e.1.route == .recovered && slotKey s c.nsid e.1 == (nsid, page)).map fun e => (c, e.2)

/-- Mark the written units of a page on the media unrecoverable, with the events that name their LBAs (R104, R174). -/
def markPage (s : State) (nsid page : Nat) : State :=
  let us := (keyUnits s nsid page).filter fun u => unitWritten s u.1 u.2 && (eavesOf s u.1 u.2).isNone
  noteUnrec (forEach us (fun u s => markUnrec s u.1 u.2) s) us

/-- Hits of the block that holds a page. -/
def pageHits (s : State) (nsid page : Nat) : State :=
  match locPlace s (keyLoc s nsid page) with
  | some (_, th, pl) => match th.members[pl.pos]? with
    | some m => addHits s m.die (blockAt m pl.course).1 s.prof.refreshHits
    | none => s
  | none => s

/-- Change the Recovery Table entry of a page. -/
def updRecovery (s : State) (nsid page : Nat) (f : RecEntry → RecEntry) : State :=
  { s with fl := { s.fl with recovery := s.fl.recovery.map fun x =>
      if x.nsid = nsid && x.page = page && !x.ended then f x else x } }

/-- A pass has delivered its page (R104, R174, R175, R176): the entry holds it, its thatch is flagged, the reads that wait go on. -/
def passGives (s : State) (e : RecEntry) : State :=
  let s := updRecovery s e.nsid e.page fun x =>
    { x with recovered := true, passes := x.passes + 1, run := none, seals := pageSeals s e.nsid e.page }
  let s := pageHits s e.nsid e.page
  let s := match keyLoc s e.nsid e.page with
    | some (t, _) => flagRefresh s t
    | none => s
  forEach (recoveryWaiters s e.nsid e.page) (fun w s => match cmdOf s w.1.fn w.1.sqid w.1.cid with
    | some c => slotDone s c w.2
    | none => s) s

/-- A pass has failed (R174): it is repeated after BG_PASS_GAP, and after the last one the LBAs are unrecoverable (R104). -/
def passLoses (s : State) (e : RecEntry) : State :=
  if e.passes + 1 < s.prof.bgPasses then
    updRecovery s e.nsid e.page fun x => { x with passes := x.passes + 1, run := none, nextAt := now s + s.prof.bgPassGap * 1000000 }
  else
    let s := pageHits (markPage s e.nsid e.page) e.nsid e.page
    let waiting := recoveryWaiters s e.nsid e.page
    let s := { s with fl := { s.fl with recovery := s.fl.recovery.erase e } }
    forEach waiting (fun w s => match cmdOf s w.1.fn w.1.sqid w.1.cid with
      | some c => completeCmd (dropSlotWork s c none) c .unrecoveredRead 0 [] []
      | none => s) s

/-- RECOVERY_PASS (R104, R174, R175): when its time has come a background pass on a Recovery Table entry begins; once its stages have
ended, it delivers the page or fails. `tagOk` tells that the page it has read carries its location tags (R161, R171). A page that no
thatch holds any more has no stages. -/
def execRecoveryPass (nsid page : Nat) (tagOk : Bool) (s : State) : Host.Outcome State Fault Refusal :=
  .next (match recoveryOf s nsid page with
    | none => s
    | some e =>
      if e.recovered || decide (now s < e.nextAt) || s.eav.powerLoss then s
      else match e.run, locPlace s (keyLoc s nsid page) with
        | none, some (_, th, pl) => goOnPage (updRecovery s nsid page fun x => { x with run := some (newRun s th pl.pos) }) nsid page
        | some _, some _ => if !passEnded s e then goOnPass s e else if passHas s e && tagOk then passGives s e else passLoses s e
        | _, none => if tagOk then passGives s e else passLoses s e)

/-- HITS_HALVING (R176): every REFRESH_WINDOW hours of operating time. -/
def execHitsHalving (s : State) : Host.Outcome State Fault Refusal :=
  .next (if s.tm.opSeconds < s.fl.hitsHalvedOp + s.prof.refreshWindow * 3600 then s
    else { s with fl := { s.fl with
      hitsHalvedOp := s.tm.opSeconds,
      dies := s.fl.dies.map fun e => (e.1, { e.2 with blocks := e.2.blocks.map fun b => (b.1, { b.2 with hits := b.2.hits / 2 }) }) } })

/-- A closed thatch: the host writes no more to it. -/
def closedThatch (s : State) (th : ThatchSt) : Bool :=
  match th.kind with
  | .convClosed => true
  | .zone => (zone s th.nsid th.zone).st == .full || (zone s th.nsid th.zone).st == .readOnly
  | _ => false

/-- Book the sample of a thatch (R177): of each member in service codeword 0 of the top level of plane 0, on course 0 and on the last
programmed course, at the starting shift, in the background. -/
def bookSamples (s : State) (t : Nat) : State :=
  let th := thatch s t
  let pg := (s.prof.zoneBits - 1) * s.prof.planes
  let one (c : Nat) (e : MemberSt × Nat) (s : State) : State :=
    if !memberUp s e.1 then s
    else ((bookPage s e.1 t { course := c, pos := e.2, page := pg, plane := 0, level := s.prof.zoneBits - 1, cw := 0 } 1
      (backgroundReq false false (.sample t))).map fun r =>
        updMeter r.1 65535 fun m => { m with admitted := m.admitted + senseEnergy s.prof false 1 }).getD s
  forEach [0, th.settled - 1].eraseDups (fun c s => forEach th.members.zipIdx (one c) s) s

/-- RETENTION_SAMPLE (R177): within SAMPLE_HOURS of operating time after a power-on reset every closed thatch is sampled; a sample that
fails or needs high correction flags it, when its senses end, or at once where the command tells that one has failed. -/
def execRetentionSample (t : Nat) (failed : Bool) (s : State) : Host.Outcome State Fault Refusal :=
  .next (match tblFind? t s.fl.thatches with
    | some th =>
      if closedThatch s th && decide (s.tm.opSeconds ≤ s.fl.sampleFrom + s.prof.sampleHours * 3600) && !s.eav.powerLoss then
        let s := bookSamples s t
        if failed then flagRefresh s t else s
      else s
    | none => s)

end Sys2Proof.Machine
end

