-- ==== Sys2Proof/Machine/Media.lean ====
section
/-! DEFINITION. Media operations: background and program bookings (R76, R78, R119, R141), settling (R184 to R186), splicing
(R114), replacement of bad blocks (R110 to R115), die retirement (R125, R126), relocation (R120, R128). -/

namespace Sys2Proof.Machine

/-! ### Booking a program or an erase -/

/-- Earliest start at which a die is free and the tokens fit (R75, R78), tried at `t` and at the end of every booking. -/
def opStart (s : State) (d : DieNo) (t len tokens : Nat) (firm : Bool) : Option Nat :=
  let reserve := if firm then s.prof.bgTokenReserve else 0
  let cands := t :: ((s.fl.calendar.map entryEnd).filter (t ≤ ·)).mergeSort (· ≤ ·)
  let ok (x : Nat) : Bool := decide (x + len ≤ now s + horizon) && tokensFit s x len tokens reserve && (blockers s d x len).isEmpty
  (cands.map fun c => freeStart s d c len).find? ok

/-- Book an operation on a die that takes work and add its descriptor (R75, R139, R155, R156): none when nothing fits. -/
def bookOp (s : State) (d : DieNo) (t len tokens : Nat) (kind : CalKind) (susp : Nat) (firm : Bool) (x : Desc) :
    Option State :=
  if !dieUp s d || decide (32 ≤ (dieEntries s d).length) || freeDescs s (dieCh d) (if firm then .command else .background) == 0 then none
  else match opStart s d t len tokens firm with
    | none => none
    | some st => (if firm then moveBackground s d st len tokens else some s).map fun s =>
      let e : CalEntry := { die := d, start := st, length := len, kind := kind, suspLeft := susp, reads := 0, topClass := 7,
                            tokens := tokens, firm := firm, provisional := false, tag := nextTag s }
      addDesc { s with fl := { s.fl with calendar := s.fl.calendar ++ [e] } }
        { x with ch := dieCh d, slot := d % 128, firm := firm, tokens := tokens, start := st, length := len,
                 planeMask := 2 ^ s.prof.planes - 1 }

/-- Append to the journal tail in both DRAM channels (R120, R147, R187). -/
def journal (s : State) (bytes : Nat) : State := { s with eav := { s.eav with journalTail := s.eav.journalTail + bytes } }

/-- Write the erase-start record of a block (R147). -/
def eraseStart (s : State) (d : DieNo) (k : Nat) : State :=
  if s.fl.eraseStarts.contains (d, k) then s
  else journal { s with fl := { s.fl with eraseStarts := s.fl.eraseStarts ++ [(d, k)] } } 64

/-- Book an erase of a die block (R117: full T_BERS, background), with its start record (R147). `slc` for the pSLC areas. -/
def bookErase (s : State) (d : DieNo) (k : Nat) (slc : Bool) (p : Purpose) : Option State :=
  (bookOp s d (now s + 2) s.prof.tBers s.prof.tokErase .erase s.prof.nSuspE false
    { descDefault with opcode := if slc then 0x21 else 0x20, block := k, purpose := p, thatch := match p with
        | .erase t _ _ => t
        | _ => 0xFFFFFF }).map fun s => eraseStart s d k

/-- Members of a bay that are erasing zone-mode blocks (R117). -/
def bayErasing (s : State) (b : Nat) : Nat := countP (fun d => dieBay (descDie d) == b && d.opcode == 0x20) s.fl.descs

/-- An erase of a block is queued or in progress. -/
def erasing (s : State) (d : DieNo) (k : Nat) : Bool :=
  s.fl.descs.any fun x => descDie x == d && x.block == k && (x.opcode == 0x20 || x.opcode == 0x21)

/-- Microseconds that a 16 KiB chunk of program data takes of its channel (R76). -/
def chunkUs (p : Profile) : Nat := (chunkNs p + 999) / 1000

/-- Earliest place from `t` for a chunk on a channel: microseconds that the occupancy map leaves free, with its tokens (R76, R78). -/
def chunkStart (s : State) (ch t reserve : Nat) : Option Nat :=
  let len := chunkUs s.prof
  let ends := (s.fl.occupancy.map fun e => e.start + e.length) ++ s.fl.calendar.map fun e => (entryEnd e + 15) / 16 * 16
  (t :: (ends.filter (t ≤ ·)).mergeSort (· ≤ ·)).find? fun c =>
    decide (chanStart s ch c len true = c) && tokensFit s c len s.prof.tokXfer reserve && decide (c + len ≤ now s + horizon)

/-- Place the `n` chunks of a program's data, one after the other, before its pass starts (DEDUCED, log entry 94). Answers the time
at which the last one has moved. -/
def placeChunks (s : State) (ch t n reserve : Nat) : Option (State × Nat) :=
  (List.range n).foldl (fun (acc : Option (State × Nat)) _ => acc.bind fun (s, t) => (chunkStart s ch t reserve).map fun x =>
    ({ s with fl := { s.fl with occupancy := s.fl.occupancy ++ [OccEntry.mk ch x (chunkUs s.prof) (nextTag s) true] } },
      x + chunkUs s.prof)) (some (s, t))

/-- Book a program with its data (R76, R141). -/
def bookProgram (s : State) (d : DieNo) (t len tokens chunks : Nat) (kind : CalKind) (firm : Bool) (x : Desc) : Option State :=
  (placeChunks s (dieCh d) t chunks (if firm then s.prof.bgTokenReserve else 0)).bind fun (s, t') =>
    bookOp s d t' len tokens kind s.prof.nSuspP firm x

/-! ### Program order (R184) -/
/-- Last wordline that a thatch's members receive; none when nothing is to be programmed (R42, R184). The copy of a thatch whose zone
is still active holds the courses that have settled in it; the zone's further courses follow once the copy has taken its place
(DEDUCED, log entry 97). -/
def lastCourse (s : State) (th : ThatchSt) : Option Nat :=
  match th.kind with
  | .ready => none
  | .zone => if (zone s th.nsid th.zone).st.isActive then some (s.prof.wordlines - 1) else th.endCourse
  | .target src =>
    let x := thatch s src
    match x.kind with
    | .zone =>
      if (zone s x.nsid x.zone).st.isActive then (if x.settled = 0 then none else some (x.settled - 1)) else x.endCourse
    | _ => some (s.prof.wordlines - 1)
  | .convClosed =>
    if th.granules.isEmpty then none
    else some (min (s.prof.wordlines - 1) ((th.granules.length - 1) / max 1 (courseUnits s.prof th.width)))
  | _ => some (s.prof.wordlines - 1)

/-- Unit offsets of course `c` of a thatch of width `w` that lie at position `pos`; none for the spar. -/
def memberOffsets (p : Profile) (w c pos : Nat) : List Nat :=
  let cu := courseUnits p w
  ((List.range cu).map (c * cu + ·)).filter fun u => (place p w u).pos == pos

/-- A unit's data is in the Eaves Buffer for good: in the copy of every DRAM channel that runs, or its write has completed and one
copy has been lost since (R22, R24). -/
def unitStored (s : State) (e : EavesUnit) : Bool :=
  ((notRunning s 6 || e.inA) && (notRunning s 7 || e.inB) && (e.inA || e.inB)) ||
    ((e.inA || e.inB) && !s.adm.cmds.any fun c => c.accepted && e.cmd == some (c.fn, c.sqid, c.cid) && e.order == c.order)

/-- The data of an offset is at hand for programming: in the Eaves Buffer or the Underlay, or the offset takes filler (R42, R184). -/
def offsetReady (s : State) (th : ThatchSt) (off : Nat) : Bool :=
  match th.kind with
  | .zone =>
    let z := zone s th.nsid th.zone
    if z.wp ≤ off then z.st == .full
    else match eavesOf s th.nsid (th.zone * zoneUnits + off) with
      | some e => unitStored s e
      | none => (mediaOf s th.nsid (th.zone * zoneUnits + off)).isSome
  | _ => match th.granules[off]? with
    | none => false
    | some none => true
    | some (some (n, u)) => match eavesOf s n u with
      | some e => unitStored s e
      | none => true

/-- A descriptor reads a source page for a relocation target. -/
def isReloc (d : Desc) (t : Nat) : Bool :=
  match d.purpose with
  | .relocation dst _ => dst == t
  | _ => false

/-- Source reads of a relocation target that are still outstanding. -/
def relocReads (s : State) (t : Nat) : Bool :=
  s.fl.descs.any (isReloc · t) || s.fl.softWaits.any (isReloc ·.desc t) || s.fl.rebuilds.any fun r => r.fn == 65535 && r.cid == t

/-- The relocation that fills a target. -/
def relocOf (s : State) (t : Nat) : Option Relocation := s.fl.relocations.find? fun r => r.dst == t && !r.abandoned

/-- Relocations that fill a thatch, or have filled it. -/
def relocsInto (s : State) (t : Nat) : List Relocation := s.fl.relocations.filter fun r => (r.dst == t || r.past.contains t) && !r.abandoned

/-- The source data of course `c` of a target is in staging SRAM: read, and read again where a splice needs it (R114). -/
def sourceRead (s : State) (t : Nat) (th : ThatchSt) (c upto : Nat) : Bool :=
  let before (x : Nat) : Bool := decide (c < x) && (decide (c + 1 < x) || !relocReads s t)
  before upto && th.reread.all before

/-- The data members' yealms of a course have passed through the spar accumulator (R184): each has programmed its first pass, or has
begun it. A die that takes no work is passed over. -/
def dataPassed (s : State) (t : Nat) (th : ThatchSt) (c : Nat) : Bool :=
  th.members.zipIdx.all fun e => e.2 == sparPos th.width c || e.1.lost || !dieUp s e.1.die || decide (c < e.1.fog) ||
    s.fl.descs.any fun d => d.st != .queued && (match d.purpose with
      | .program t' p x f => t' == t && p == e.2 && x == c && !f
      | _ => false)

/-- The share of course `c` that position `pos` programs is complete; the spar waits for the whole course, and for the data members'
first passes (R184). Filler after the last course `e` needs no data (R114 step 6). -/
def shareReady (s : State) (t : Nat) (th : ThatchSt) (c pos e : Nat) : Bool :=
  let all (l : List Nat) : Bool := l.all (offsetReady s th)
  let w := th.width
  let own (_ : Unit) : Bool :=
    if sparPos w c = pos then all ((List.range (courseUnits s.prof w)).map (c * courseUnits s.prof w + ·))
    else all (memberOffsets s.prof w c pos)
  let granules (_ : Unit) : Bool := sourceRead s t th c (th.granules.length / max 1 (courseUnits s.prof w))
  decide (e < c) || ((sparPos w c != pos || dataPassed s t th c) && match th.kind with
  | .target src => match (thatch s src).kind with
    | .zone => match relocOf s t with
      | some r => sourceRead s t th c r.course
      | none => false
    | _ => granules ()
  | .convReloc => granules ()
  | .convClosed => if (relocsInto s t).isEmpty then own () else granules ()
  | _ => own ())

/-- Passes of a member that are queued or issued: first passes, fine passes. -/
def queuedPasses (s : State) (t pos : Nat) : Nat × Nat :=
  let mine (fine : Bool) (d : Desc) : Bool := match d.purpose with
    | .program t' p _ f => t' == t && p == pos && f == fine
    | _ => false
  (countP (mine false) s.fl.descs, countP (mine true) s.fl.descs)

/-- Last logical wordline of a member whose thatch ends at course `e`: behind a splice at course s follow s wordlines of filler in the
replacement block (R114 step 6; where the zone ended early they follow its last course, DEDUCED, log entry 92). -/
def memberEnd (m : MemberSt) (e : Nat) : Nat := e + (m.splices.getLast?.map (·.course)).getD 0

/-- Next pass of a member in the order of R184, as (wordline, fine); none when there is none. -/
def nextPass (s : State) (t pos : Nat) (m : MemberSt) (e : Nat) : Option (Nat × Bool) :=
  let q := queuedPasses s t pos
  let f := m.fog + q.1
  let g := m.fine + q.2
  if s.prof.twoPass = 0 then (if f ≤ e then some (f, false) else none)
  else if g + 1 < f then some (g, true)
  else if f ≤ e then some (f, false)
  else if g < f then some (g, true)
  else none

/-- Where a pass's data lies (BUF of Table 06.4): the program cache while it holds the first unit's buffer (R300), else DRAM. -/
def passBuf (s : State) (th : ThatchSt) (x pos : Nat) : Nat :=
  match (memberOffsets s.prof th.width x pos).findSome? fun off => (unitAt th off).bind fun g => eavesOf s g.1 g.2 with
  | none => noBuf
  | some e => match s.buf.cache.find? fun b => b.1 == e.seq with
    | some b => bufHandle s b.2
    | none => eavesBuf s e.seq

/-! ### Settling (R186) -/

/-- Settled wordlines of a member whose thatch ends at course `e`: a wordline settles with the fine pass of the one above it, or as the
last one that the block receives; those below a splice settled on the blocks before (R114). -/
def memberSettled (s : State) (m : MemberSt) (e : Nat) : Nat :=
  let done := if s.prof.twoPass = 0 then m.fog else m.fine
  if memberEnd m e < done then e + 1 else min (e + 1) (max ((m.splices.getLast?.map (·.course)).getD 0) (done - 1))

/-- Zeros are programmed for a unit that DRAM holds as poison: its LBA is marked unrecoverable, with an event (R279, Table 12.4). -/
def poisonSettles (s : State) (nsid u : Nat) : State :=
  let per := match nsOf s nsid with
    | some ns => lbaUnits ns
    | none => 1
  recordEvent (markUnrec s nsid u) 0x0032 3 5 nsid (leBytes 4 nsid ++ leBytes 8 (u / per) ++ leBytes 4 1)

/-- Settle one unit of a thatch (R186): its data lies on the media, its Eaves unit is released once no read pins it. -/
def settleUnit (t : Nat) (off : Nat) (s : State) : State :=
  let th := thatch s t
  match unitAt th off with
  | none => s
  | some (n, u) =>
    let mapped := th.kind == .zone || tblFind? (n, u) s.zns.conv == some (t, off)
    if !mapped then s
    else
      let s : State := { s with fl := { s.fl with media := s.fl.media.map fun m =>
                                  if m.nsid == n && m.unit == u then { m with underlay := false } else m } }
      match s.eav.units.find? fun e => e.nsid == n && e.unit == u && !e.ended && !e.settled with
      | none => s
      | some e =>
        let m : MediaUnit := { nsid := n, unit := u, content := e.content, key := e.key, epoch := e.epoch, region := e.region, underlay := false }
        let s := { s with fl := { s.fl with media := s.fl.media.filter (fun x => !(x.nsid == n && x.unit == u)) ++ [m] } }
        let s := if e.poison then poisonSettles s n u else s
        settleEaves s fun x => x.seq == e.seq

/-- Some unit of a list lies in the Underlay. -/
def inUnderlay (s : State) (nsid : Nat) (us : List Nat) : Bool :=
  s.fl.media.any fun m => m.nsid == nsid && m.underlay && us.contains m.unit

/-- Underlay entries whose course has settled are released (R192). -/
def sweepUnderlay (s : State) (nsid zi : Nat) : State :=
  { s with eav := { s.eav with underlay := s.eav.underlay.filter fun e =>
                      !(e.nsid == nsid && e.zone == zi) || inUnderlay s nsid e.units ||
                        s.eav.underlayMoves.any fun m => m.nsid == nsid && m.zone == zi } }

/-- A yealm of an Underlay log is live (R193): it holds units that have not settled since, or the move that brings them is under way. -/
def yealmLive (s : State) (y : UnderlayYealm) : Bool :=
  inUnderlay s y.nsid y.units || s.eav.underlayMoves.any fun m => m.nsid == y.nsid && m.zone == y.zone

/-- Wordline that the next yealm of an Underlay block takes. -/
def nextWl (s : State) (d : DieNo) (k : Nat) : Nat :=
  (s.eav.underlayLog.filter fun y => y.die == d && y.block == k).foldl (fun a y => max a (y.wl + 1)) 0

/-- Change the compactions of a die that program into a block. -/
def updCompact (s : State) (d : DieNo) (k : Nat) (f : Compaction → Compaction) : State :=
  { s with eav := { s.eav with compactions := s.eav.compactions.map fun c => if c.die == d && c.dst == k then f c else c } }

/-- A list with an element, once. -/
def withOne {α : Type} [BEq α] (l : List α) (a : α) : List α := if l.contains a then l else l ++ [a]

/-- A program that has not run: an Underlay move that loses one starts again later (R191), a compaction books it again (R193), and the
passes queued behind one of a member wait for it, so that they keep their order (R184). -/
def dropMove (s : State) (d : Desc) : State :=
  if d.opcode < 0x10 || 0x13 < d.opcode then s
  else match d.purpose with
  | .underlay n z _ =>
    let (out, left) := s.eav.underlayMoves.partition fun m => m.nsid == n && m.zone == z
    releaseBufs { s with eav := { s.eav with underlayMoves := left } } 2 (sumNat (out.map (·.bufs)))
  | .compact die' k i => updCompact s die' k fun c => { c with unput := withOne c.unput i }
  | .program t pos _ _ =>
    forEach (s.fl.descs.filter fun x => x.st == .queued && x.seqTag != d.seqTag && (match x.purpose with
      | .program t' p _ _ => t' == t && p == pos
      | _ => false)) (fun x s => dropDesc s x 0x33) s
  | _ => s

/-- Units of a namespace that a copy has re-encrypted (R262 step 3): an earlier media key gives way to the current one. -/
def rekeyUnits (s : State) (p : MediaUnit → Bool) : State :=
  let new (m : MediaUnit) : MediaUnit :=
    let cur := (mediaKeyFor s m.nsid none).2
    if p m && sameMedia s m.nsid m.key cur then { m with key := cur } else m
  { s with fl := { s.fl with media := s.fl.media.map new } }

/-- Take a target's granule slot out of use: its data is superseded (Table 05.8). -/
def dropGranule (s : State) (t i : Nat) : State := updThatch s t fun y => { y with granules := vecUpd y.granules i fun _ => none }

/-- Relocation of conventional data (R120, Table 05.8): entries of settled courses are switched to the target, journalled, unless the
granule was written or deallocated since; a recovered page leaves the Recovery Table (R175); a source without valid granules is
released. -/
def switchGranules (s : State) (t a b : Nat) : State :=
  let th := thatch s t
  let srcs := (relocsInto s t).map (·.src)
  let s := forEach ((List.range b).filter (a ≤ ·)) (fun i s =>
    match th.granules[i]? with
    | some (some g) => match tblFind? g s.zns.conv with
      | some (x, j) =>
        if srcs.contains x then
          let s := journal (dropGranule s x j) 64
          let trace := (s.fl.relocTrace.filter fun e => decide (now s < e.1 + 1000000)) ++ [(now s, 1)]
          let s := { s with zns := { s.zns with conv := tblSet g (t, i) s.zns.conv },
                            fl := { s.fl with relocTrace := trace } }
          rekeyUnits s fun m => m.nsid == g.1 && m.unit == g.2
        else if x = t then s
        else dropGranule s t i
      | none => dropGranule s t i
    | _ => s) s
  let s := sweepRecovery s
  forEach srcs (fun x s =>
    if s.zns.conv.any fun e => e.2.1 == x then s
    else releaseThatch { s with fl := { s.fl with relocations := s.fl.relocations.filter fun r => r.src != x } } x) s

/-- Relocation of a zone (R120): its binding is switched to the target, whose data has settled, and the switch is journalled; the
source's blocks join the free pool after the last read that uses them. -/
def switchZone (s : State) (r : Relocation) : State :=
  let th := thatch s r.src
  let s := updThatch s r.dst fun x => { x with kind := .zone, nsid := th.nsid, zone := th.zone, endCourse := th.endCourse, flagged := false }
  let s := updZone (journal s 64) th.nsid th.zone fun z => { z with thatch := some r.dst, memberLost := false, reroofing := false }
  let s := if th.generation = (thatch s r.dst).generation then s
    else rekeyUnits s fun m => m.nsid == th.nsid && m.unit / zoneUnits == th.zone
  let s := endRecovery { s with fl := { s.fl with relocations := s.fl.relocations.erase r } }
    fun e => e.recovered && e.nsid == th.nsid && e.page * 4 / zoneUnits == th.zone
  recordEvent (releaseThatch s r.src) 0x0052 0 0 3 (leBytes 4 r.src ++ leBytes 1 r.order ++ leBytes 1 0)

/-- Recompute how far a thatch has settled and act on it (R120, R186). -/
def settleThatch (s : State) (t : Nat) : State :=
  let th := thatch s t
  match lastCourse s th with
  | none => s
  | some e =>
    let n := (minNat? ((th.members.filter (!·.lost)).map fun m => memberSettled s m e)).getD 0
    if n ≤ th.settled then s
    else
      let cu := courseUnits s.prof th.width
      let offs := (List.range ((n - th.settled) * cu)).map (th.settled * cu + ·)
      let s := updThatch s t fun x => { x with settled := n }
      match th.kind with
      | .target src => match (thatch s src).kind with
        | .zone => if n = e + 1 then match relocOf s t with
            | some r => switchZone s r
            | none => s
          else s
        | _ => switchGranules s t (th.settled * cu) (n * cu)
      | .zone => sweepUnderlay (forEach offs (settleUnit t) s) th.nsid th.zone
      | _ =>
        let s := forEach offs (settleUnit t) s
        if (relocsInto s t).isEmpty then s else switchGranules s t (th.settled * cu) (n * cu)

/-! ### Wear (R130) -/

/-- Count bytes programmed for host data (no order) or for background work of an order of Table 05.3. -/
def wearOf (w : WearSt) (order : Option Nat) (n : Nat) : WearSt :=
  match order with
  | none => { w with host := w.host + n }
  | some o =>
    if o = 4 then { w with reroofing := w.reroofing + n }
    else if o = 3 || o = 6 then { w with refresh := w.refresh + n }
    else { w with relocation := w.relocation + n }

/-- The background work that brings the data of an offset of a thatch, if one does: a granule still mapped to another thatch comes
from that one. -/
def dataOrder (s : State) (t : Nat) (th : ThatchSt) (off : Nat) : Option Nat :=
  match th.kind with
  | .zone => none
  | .target _ => some ((relocOf s t).map (·.order) |>.getD 5)
  | _ => match (th.granules[off]?).getD none with
    | some g => match tblFind? g s.zns.conv with
      | some (x, _) => if x = t then none else some (((relocsInto s t).find? (·.src == x)).map (·.order) |>.getD 5)
      | none => if th.kind = .convReloc then some 5 else none
    | none => if th.kind = .convReloc then some 5 else none

/-- An offset of a thatch takes filler (R42): beyond the write pointer of its zone, or a slot of a conventional thatch that holds no
granule. -/
def isFiller (s : State) (th : ThatchSt) (off : Nat) : Bool :=
  match th.kind with
  | .zone => decide ((zone s th.nsid th.zone).wp ≤ off)
  | .target src => match (thatch s src).kind with
    | .zone => decide ((zone s th.nsid th.zone).wp ≤ off)
    | _ => ((th.granules[off]?).getD none).isNone
  | _ => ((th.granules[off]?).getD none).isNone

/-- Count a programmed yealm under what it serves (R130); a spar counts as its course's first unit. -/
def countPass (s : State) (t : Nat) (th : ThatchSt) (x pos e : Nat) : State :=
  let one (w : WearSt) (off n : Nat) : WearSt :=
    if isFiller s th off then { w with filler := w.filler + n } else wearOf w (dataOrder s t th off) n
  let offs := memberOffsets s.prof th.width x pos
  let w := if e < x then { s.fl.wear with filler := s.fl.wear.filler + yealm s.prof }
    else if offs.isEmpty then one s.fl.wear (x * courseUnits s.prof th.width) (yealm s.prof)
    else offs.foldl (fun w off => one w off 4096) s.fl.wear
  { s with fl := { s.fl with wear := w } }

/-- Flash energy of background work goes to the background meter (R119, R407). -/
def chargeBackground (s : State) (nj : Nat) : State := updMeter s 65535 fun m => { m with admitted := m.admitted + nj }

/-! ### Losing members -/

/-- What a zone does when its thatch loses a member for good (Table 02.5, R45, R126): Full takes substate 0x05, or becomes
Read Only when a course has lost two; an active zone is finished by the controller. -/
def zoneLoses (s : State) (nsid zi t : Nat) : State :=
  let z := zone s nsid zi
  if z.st == .full then
    if 2 ≤ lostInCourse s.prof (thatch s t) 0 then
      zoneChanged (updZone s nsid zi fun y => { y with st := .readOnly, memberLost := true }) nsid zi
    else updZone s nsid zi fun y => { y with memberLost := true }
  else if z.st.isActive then
    updZone (finishZone s nsid zi true) nsid zi fun y => { y with memberLost := true }
  else s

/-- Stop copying into a target: its source reads that no die has begun and its rebuilds go, and the relocation with them. -/
def stopReloc (s : State) (t : Nat) : State :=
  let s := forEach (s.fl.descs.filter fun d => isReloc d t && d.st == .queued) (fun d s => dropDesc s d 0x33) s
  let s := forEach ((s.fl.rebuilds.filter fun r => r.fn == 65535 && r.cid == t).map (·.id)) (fun id s => dropRebuild s id) s
  { s with fl := { s.fl with relocations := s.fl.relocations.filter fun r => r.dst != t } }

/-- A relocation target that loses a die is closed (Table 05.8): a zone's copy starts again in a new target at the next decision; a
conventional one keeps its settled courses, and the rest is copied again. -/
def closeTarget (s : State) (t : Nat) : State :=
  let th := thatch s t
  match th.kind with
  | .target _ => releaseThatch (cancelThatch (updZone (stopReloc s t) th.nsid th.zone fun z => { z with reroofing := false }) t) t
  | _ =>
    let s := updThatch s t fun x => { x with kind := .convClosed, granules := x.granules.take (x.settled * courseUnits s.prof x.width),
                                             reread := none }
    let s := releaseBufs (updThatch s t fun x => { x with bufs := [] }) 2 (sumNat (th.bufs.map (·.2)))
    { s with fl := { s.fl with relocations := s.fl.relocations.map fun r => if r.dst == t then { r with course := 0 } else r } }

/-- Mark the members of a thatch on a die as lost, and let what the thatch backs follow. -/
def loseMember (s : State) (t : Nat) (d : DieNo) : State :=
  let s := updThatch s t fun x => { x with members := x.members.map fun m => if m.die = d then { m with lost := true } else m }
  let th := thatch s t
  match th.kind with
  | .ready => updThatch s t fun x => { x with members := x.members.filter (·.die != d), erasing := x.erasing.filter (· != d) }
  | .zone => settleThatch (zoneLoses s th.nsid th.zone t) t
  | .convHost => closeConv s t
  | .convReloc => closeTarget s t
  | .target _ => closeTarget s t
  | .convClosed => s

/-! ### Pages of a relocation (R120, R127, R128) -/

/-- Units of a thatch that a page holds: four from an offset. -/
def pageUnits (th : ThatchSt) (off : Nat) : List (Nat × Nat) := ((List.range 4).map (off + ·)).filterMap (unitAt th)

/-- Mark units of a page unrecoverable, with an event that names their LBAs; a page that background recovery has delivered is
copied from the Recovery Table instead (R175). -/
def unreadablePage (s : State) (us : List (Nat × Nat)) : State :=
  let us := us.filter fun u =>
    (mediaOf s u.1 u.2).isSome && (eavesOf s u.1 u.2).isNone && !unitBad s u.1 u.2 && !(unitRecovery s u.1 u.2).any (·.recovered)
  noteUnrec (forEach us (fun u s => markUnrec s u.1 u.2) s) us

/-- A source page that cannot be read and cannot be rebuilt (Table 05.8): filler takes its place, and that of the same page of members
that are lost; their LBAs become unrecoverable, and events name them. -/
def relocUnreadable (s : State) (th : ThatchSt) (c pos pg : Nat) : State :=
  let at' := (th.members.zipIdx.filter fun e => e.1.lost || e.2 == pos).map (·.2)
  forEach (at'.filterMap fun i => pageOffset s.prof th.width c i pg) (fun off s => unreadablePage s (pageUnits th off)) s

/-- Course of a target that data read from course `c` of its source goes to. -/
def targetCourse (s : State) (dst c : Nat) : Nat :=
  match (thatch s dst).kind with
  | .target _ => c
  | _ => ((thatch s dst).granules.length - 1) / max 1 (courseUnits s.prof (thatch s dst).width)

/-- The source of a course of a target is to be read again. -/
def readAgain (s : State) (dst c : Nat) : State := updThatch s dst fun x => { x with reread := some (min c (x.reread.getD c)) }

/-- Book the rebuild of a source page from the other members, as background senses (R120); `failed`: a decode of it failed. -/
def relocRebuild (s : State) (src dst c pos pg : Nat) (failed : Bool) : Option State :=
  let th := thatch s src
  let id := s.fl.nextRebuild
  let pl : Place := { course := c, pos := pos, page := pg, plane := pg % s.prof.planes, level := pg / s.prof.planes, cw := 0 }
  let step (acc : Option State) (e : MemberSt × Nat) : Option State :=
    if e.2 = pos then acc
    else acc.bind fun s => (bookPage s e.1 src { pl with pos := e.2 } 4 (backgroundReq false true (.raMember id e.2))).map (·.1)
  if !canRebuild s th pos then none
  else (th.members.zipIdx.foldl step (some s)).map fun s =>
    let r : Rebuild := { id := id, fn := 65535, sqid := src, cid := dst, page := 16 * c + pg, target := pos,
                         waiting := th.width - 1, cws := 4, provisional := false, failed := failed, sparOff := false, tried := [] }
    chargeBackground { s with fl := { s.fl with rebuilds := s.fl.rebuilds ++ [r], nextRebuild := id + 1 } }
      ((th.width - 1) * senseEnergy s.prof false 4)

/-- Book the next direct stage of a background pass for a page that the refresh of a flagged thatch reads, where the Recovery Table had no
room for it (R174): on the page that a descriptor read, `n` stages having been tried; none for another relocation, with no stage left,
or where it finds no place. -/
def nextRelocStage (s : State) (d : Desc) (dst n : Nat) (p : Nat → Purpose) : Option State :=
  let th := thatch s d.thatch
  if !(relocsInto s dst).any (·.order == 3) then none
  else (descPage s th d).bind fun (c, pos, pg) => (th.members[pos]?).bind fun m =>
    let pl : Place := { course := c, pos := pos, page := pg, plane := pg % s.prof.planes, level := pg / s.prof.planes, cw := 0 }
    let left := ((passStages s m.die).zipIdx.drop n).filter fun e => softUp s || !e.1.1
    left.head?.bind fun e => bookPassStage s 65535 m d.thatch pl e.1 (backgroundReq false false (p (e.2 + 1)))

/-- A source page of a relocation failed its direct sense: it is rebuilt from the other members; where a member has been lost for good
it cannot be, and where one is only away the course is read again later. The refresh of a flagged thatch first runs the stages of a
background pass on it, of which `n` have been tried (R174). -/
def relocPageFailed (s : State) (d : Desc) (dst n : Nat) (failed : Bool) : State :=
  let th := thatch s d.thatch
  match descPage s th d, if failed then nextRelocStage s d dst n (.relocation dst) else none with
  | none, _ => s
  | _, some s => s
  | some (c, pos, pg), none =>
    if failed && th.members.zipIdx.any (fun e => e.1.lost && e.2 != pos) then relocUnreadable s th c pos pg
    else match relocRebuild s d.thatch dst c pos pg failed with
      | some s => s
      | none => readAgain s dst (targetCourse s dst c)

/-- A member of a relocation's rebuild did not give its page: after a failed decode the page is unreadable (R120, Table 05.8), after a
fault its course is read again. -/
def relocMemberFailed (s : State) (r : Rebuild) (failed : Bool) : State :=
  let s := dropRebuild s r.id
  if failed then relocUnreadable s (thatch s r.sqid) (r.page / 16) r.target (r.page % 16)
  else readAgain s r.cid (targetCourse s r.cid (r.page / 16))

/-- A member of a relocation's rebuild failed a decode: it runs the stages of a background pass in the refresh of a flagged thatch (R174),
else the page is unreadable. -/
def relocMemberNext (s : State) (d : Desc) (r : Rebuild) (pos : Nat) : State :=
  let n := countP (·.1 == pos) r.tried
  match nextRelocStage s d r.cid n fun _ => .raMember r.id pos with
  | some s => { s with fl := { s.fl with rebuilds := s.fl.rebuilds.map fun y =>
                                 if y.id = r.id then { y with tried := y.tried ++ [(pos, n)] } else y } }
  | none => relocMemberFailed s r true

/-! ### Soft decoding -/

/-- The codewords that a soft stage leaves failed, as a mask: those that do not decode, or whose location tag is not the one expected
(R161). -/
def softBad (s : State) (w : SoftWait) : SoftOutcome → Nat
  | .failed cws => if cws &&& w.cws = 0 then w.cws else cws &&& w.cws
  | .decoded found => tagMisses s w.desc found

/-- The soft decoder's answer for a soft stage (R163, R168, R172); a decoded codeword with another location tag counts as failed and raises
its source (R161). A change of SOFT_ENABLE leaves a stage already decided as it is (R178). -/
def softAnswer (s : State) (ch tag : Nat) (out : SoftOutcome) : State :=
  match s.fl.softWaits.find? fun e => e.desc.ch == ch && e.desc.seqTag == tag with
  | none => s
  | some w =>
    let bad := softBad s w out
    let ok := bad == 0
    let s := match out with
      | .failed _ => s
      | .decoded _ => if ok then s else addHits (chFault s ch 4 w.desc 2) (descDie w.desc) w.desc.block s.prof.refreshHits
    let s := dropHard { s with fl := { s.fl with softWaits := s.fl.softWaits.erase w } } w.desc.purpose
    match w.desc.purpose with
    | .hostRead f q i slot => match cmdOf s f q i with
      | some c =>
        if ok then
          let s := match ladderOf s c slot with
            | some l => addHits s l.die l.block 4
            | none => s
          shareResult (slotDone s c slot) c slot
        else match ladderOf s c slot with
          | some l => ladderStep s c slot { l with cws := bad }
          | none => s
      | none => s
    | .raMember id pos =>
      if ok then memberDone (addHits s (descDie w.desc) w.desc.block 4) id
      else match rebuildOf s id with
        | some r => if r.fn = 65535 then relocMemberNext s w.desc r pos else memberFailed s id pos 0 bad
        | none => s
    | .pass n pg pos =>
      if ok then passDecoded (addHits s (descDie w.desc) w.desc.block 4) n pg pos else passFailed s n pg pos
    | .relocation dst n => if ok then addHits s (descDie w.desc) w.desc.block 4 else relocPageFailed s w.desc dst n true
    | _ => s

/-- The soft decoders have gone: each decode in progress fails, its ladder goes on, and the hard codewords held there are gone (R24,
Table 01.7). -/
def softAway (s : State) : State :=
  let s := forEach s.fl.softWaits (fun w s => softAnswer s w.desc.ch w.desc.seqTag (.failed 0)) s
  { s with fl := { s.fl with softLanes := [], hardWords := [] } }

/-- SOFT_DECODE_RESULT (R163, R168, R172): from a Soft-Decode island that runs; a Stopped one has its clock held (Table 01.2). -/
def execSoftDecodeResult (ch tag : Nat) (out : SoftOutcome) (s : State) : Host.Outcome State Fault Refusal :=
  .next (if isRunning s 8 then softAnswer s ch tag out else s)

/-! ### DUMP programs (R194, R195, R202) -/

/-- Change the running dump. -/
def updDump (s : State) (f : Dump → Dump) : State := { s with eav := { s.eav with dump := s.eav.dump.map f } }

/-- Dies that take Gutter positions: populated and in service, in channel order, so that consecutive positions fall on different
channels (DEDUCED, log entry 117). -/
def dumpDies (s : State) : List DieNo :=
  ((populatedDies s.prof).filter (dieUp s)).mergeSort fun a b => decide (a % 128 < b % 128) || (a % 128 == b % 128 && decide (a ≤ b))

/-- Die block of a Gutter half that holds a position of a die. -/
def gutterBlock (s : State) (d : DieNo) (half at' : Nat) : Nat :=
  (((die s d).blocks.filter fun b => b.2.use == .gutter half).map (·.1))[at' / max 1 s.prof.wordlines]?.getD 0

/-- Queue the next DUMP program of a die, one at a time. -/
def dumpNext (s : State) (d : DieNo) : State :=
  match s.eav.dump with
  | none => s
  | some x =>
    if s.fl.descs.any fun y => descDie y == d && y.dump then s
    else match x.progs.zipIdx.find? fun e => e.1.die == d && !e.1.done with
      | none => s
      | some (g, i) => addDesc s { descDefault with
          ch := dieCh d, slot := d % 128, opcode := 0x13, firm := true, tokens := s.prof.tokProgSlc, dump := true, start := now s + 2,
          length := s.prof.tProgSlc, planeMask := 2 ^ s.prof.planes - 1, block := gutterBlock s d x.half g.at',
          wordline := g.at' % max 1 s.prof.wordlines, buf := (g.units.head?.map (eavesBuf s)).getD noBuf, purpose := .dump i }

/-- The next free Gutter position of a die. -/
def dumpFree (x : Dump) (d : DieNo) : Nat :=
  ((x.progs.filter (·.die == d)).map (·.at') ++ (x.bad.filter (·.1 == d)).map (·.2)).foldl (fun a n => max a (n + 1)) 0

/-- A DUMP program has ended. -/
def dumpDone (s : State) (d : DieNo) (i : Nat) : State :=
  dumpNext (updDump s fun x => { x with progs := vecUpd x.progs i fun g => { g with done := true } }) d

/-- A DUMP program failed: it is repeated at the next free position of the same die, and the header lists the failed one (R195). -/
def dumpFailed (s : State) (d : DieNo) (i : Nat) : State :=
  dumpNext (updDump s fun x => { x with bad := x.bad ++ ((x.progs[i]?).map fun g => (g.die, g.at')).toList,
                                        progs := vecUpd x.progs i fun g => { g with at' := dumpFree x d } }) d

/-- A Gutter die failed during the dump: its later positions go to the next die in rotation, and the header lists them (R202). -/
def dumpDieLost (s : State) (d : DieNo) : State :=
  let ds := dumpDies s
  match ((ds.filter fun x => decide (d % 128 < x % 128) || (d % 128 == x % 128 && decide (d < x))) ++ ds.filter (· != d)).head? with
  | none => s
  | some n =>
    let move (x : Dump) (e : DumpProg × Nat) : Dump :=
      if e.1.die = d && !e.1.done then
        { x with bad := withOne x.bad (d, e.1.at'), progs := vecUpd x.progs e.2 fun g => { g with die := n, at' := dumpFree x n } }
      else x
    dumpNext (updDump s fun x => x.progs.zipIdx.foldl move x) n

/-! ### Work that a fault takes away -/

/-- A member's sense of a read's rebuild was lost to a fault: it is booked again where its die takes work, or the member goes on with
its ladder; with neither the read waits for its deadline (R158, R173). -/
def memberLost (s : State) (d : Desc) (r : Rebuild) (pos : Nat) : State :=
  match cmdOf s r.fn r.sqid r.cid with
  | none => dropRebuild s r.id
  | some c =>
    let x := c.slots[r.page]?.getD slotNone
    if r.tried.any (·.1 == pos) then memberStep s r.id pos 0 (2 ^ (d.cwLast + 1) - 2 ^ d.cwFirst) fun s _ => s
    else match slotPlace s c.nsid x with
      | none => s
      | some (t, th, pl) => match th.members[pos]? with
        | none => s
        | some m => match bookPage s m t pl x.units (stageReq c true (.raMember r.id pos) (.fabric, r.id)) with
          | some (s', se) => if decodeNs s.prof se + 500 + hostStage s c.units ≤ dueNs c then s' else s
          | none => s

/-- A sense that will not deliver its data, because of a fault (Table 06.13, R126): a host read goes by read-around under the
allowance, a rebuild's member and a relocation's page are read again. -/
def workLost (s : State) (d : Desc) : State :=
  match d.purpose with
  | .hostRead f q i slot => match cmdOf s f q i with
    | some c => rebookAround s c slot
    | none => s
  | .raMember id pos => match rebuildOf s id with
    | some r => if r.fn = 65535 then relocMemberFailed s r false else memberLost s d r pos
    | none => s
  | .relocation dst n => relocPageFailed s d dst n false
  | .sample t => flagRefresh s t
  | .compact die' k i => if d.opcode = 0x13 then dropMove s d else updCompact s die' k fun c => { c with unread := withOne c.unread i }
  | .dump _ => dumpDieLost s (descDie d)
  | _ => dropMove s d

/-- Flash energy in nJ of a background program or erase that its die has begun, however it ends (R119): its pass and the transfers of its
data. Background reads are charged when they are booked. -/
def spentEnergy (s : State) (d : Desc) : Nat :=
  let chunks := if d.opcode = 0x13 then s.prof.planes else if d.opcode < 0x20 then s.prof.planes * s.prof.zoneBits else 0
  if d.firm || decide (d.opcode < 0x10) || d.st == .queued then 0
  else (d.tokens * d.length * 1000 + chunks * s.prof.tokXfer * chunkNs s.prof) * 25 / 1000

/-- Complete a descriptor with a status and remove its bookings; an issued one gives its tokens back, and its energy is metered where it
was background work. -/
def closeDesc (s : State) (d : Desc) (status corrected : Nat) : State :=
  let live := match d.st with
    | .queued => 0
    | _ => d.tokens
  let s := chargeBackground (unbook (endDesc s d status corrected) d.seqTag) (spentEnergy s d)
  { s with fl := { s.fl with liveTokens := s.fl.liveTokens - live } }

/-! ### Retiring dies (R125, R126) -/

/-- Event of a row of Table 06.13 that raises no fault source, with its die (its payload is a DESIGN CHOICE, log entries 90 and 91). -/
def channelEvent (s : State) (d : DieNo) (action : Nat) : State :=
  recordEvent s 0x0052 0 0 (chIsland (dieCh d)) (leBytes 4 d ++ leBytes 1 action ++ leBytes 1 1)

/-- Read of the event causes of Table 19.8: 0xC5 is expected when the die's bay has another member out. -/
def dieEvent (s : State) (d : DieNo) (cause : Nat) : State :=
  let c5 := decide (2 ≤ membersOut s (dieBay d))
  recordEvent s 0x0050 3 3 d (leBytes 2 d ++ leBytes 1 cause ++ leBytes 1 (if c5 then 1 else 0))

/-- Retire a die (R125, R126): for good, booked out across the horizon, its work rebooked, its reads ended with 0x21 (Table 07.11), its blocks entered in the GBBT
with cause 0x5 as far as the table holds, its members lost, and the event recorded. -/
def retireDie (s : State) (d : DieNo) (cause : Nat) : State :=
  if (die s d).retired then s
  else
    let x := die s d
    let listed (k p : Nat) : Bool := x.gbbt.any fun e => e.block == k && e.plane == p
    let kept := x.gbbt.map fun e => if e.holdsData then e else { e with cause := 5, opSeconds := s.tm.opSeconds }
    let new := (List.range s.prof.blocksPerPlane).flatMap fun k =>
      ((List.range s.prof.planes).filter (!listed k ·)).map fun p => BadEntry.mk k p 5 false s.tm.opSeconds
    let s := updDie s d fun y => { y with retired := true, timeouts := 0, bd := 0, goodBlocks := 0, spareExtra := [],
                                          spareEnd := y.nextSpare, orphans := [], gbbt := kept ++ new.take (1024 - kept.length) }
    let s := copyTables s d
    let work := s.fl.descs.filter fun w => descDie w == d
    let s := forEach work (fun w s => closeDesc s w (if w.opcode < 0x10 then 0x21 else 0x34) 0) s
    let e : CalEntry := { die := d, start := now s, length := horizon, kind := .outOfService, suspLeft := 0, reads := 0,
                          topClass := 7, tokens := 0, firm := true, provisional := false, tag := nextTag s }
    let s := { s with fl := { s.fl with calendar := s.fl.calendar.filter (·.die != d) ++ [e], nextTag := s.fl.nextTag + 1 } }
    let s := forEach work (fun w s => workLost s w) s
    let ts := (s.fl.thatches.filter fun t => t.2.members.any (·.die == d)).map (·.1)
    let s := forEach ts (fun t s => loseMember s t d) s
    dieEvent s d cause

/-- A GBBT that reached 1,024 entries retires its die (R125). -/
def checkGbbt (s : State) (d : DieNo) : State := if 1024 ≤ (die s d).gbbt.length then retireDie s d 2 else s

/-! ### Replacing blocks (R112 to R115) -/

/-- Underlay block `k` of a die gives way to `k'`: what a compaction was to program into `k` goes to `k'`, and the other live yealms of
`k` are copied forward. -/
def moveLog (s : State) (d : DieNo) (k k' : Nat) : State :=
  let s := forEach (s.fl.descs.filter fun x => x.st == .queued && x.opcode == 0x13 && (match x.purpose with
      | .compact a b _ => a == d && b == k
      | _ => false)) (fun x s => dropDesc s x 0x33) s
  let mine (y : UnderlayYealm) : Bool := y.die == d && y.block == k
  let held (y : UnderlayYealm) : Bool := s.eav.compactions.any fun c => c.die == d && c.dst == k && c.live.any (·.units == y.units)
  let live := s.eav.underlayLog.filter fun y => mine y && yealmLive s y && !held y
  let new : List Compaction := if live.isEmpty then [] else
    [{ die := d, src := k, dst := k', live := live, unread := List.range live.length, wiped := true, unput := List.range live.length }]
  let moved := s.eav.compactions.map fun c =>
    if c.die == d && c.dst == k then { c with dst := k', unput := List.range c.live.length } else c
  { s with eav := { s.eav with
      underlayLog := s.eav.underlayLog.filter (!mine ·), compactions := moved ++ new,
      underlayBlock := s.eav.underlayBlock.map fun e => if e.1 == d && e.2 == k then (e.1, k') else e } }

/-- A block of a pSLC area whose planes of the mask went bad is replaced (R112, R113, R115): the new block is erased for its area, and
the live entries of an Underlay block are copied forward. A die left without one write-protects the device (Table 05.9). -/
def replaceSlc (s : State) (d : DieNo) (k mask cause : Nat) : State :=
  let u := (block s d k).use
  let s := enterPlanes s d k mask cause false
  checkGbbt (match takeReplacement s d u with
    | some (s, k') =>
      let s := updBlock s d k' fun b => { b with erased := false }
      match u with
      | .gutter h => { s with eav := { s.eav with halves := vecUpd s.eav.halves h fun g => if g = .erased then .spent else g } }
      | .underlay =>
        let s := moveLog s d k k'
        (bookErase s d k' true (.eraseSpare d k')).getD s
      | _ => s
    | none =>
      let s := wornRow (updDie s d fun x => { x with slcShort := true }) d 5 true
      setWarning { s with fl := { s.fl with writeProtect := true } } 3) d

/-- Erase a block of a pSLC area, or replace it where a plane block has reached PE_LIMIT_SLC (R113). -/
def eraseSlc (s : State) (d : DieNo) (k : Nat) : State :=
  let worn := wornPlanes s d k s.prof.peLimitSlc
  if worn ≠ 0 then replaceSlc s d k worn 4 else (bookErase s d k true (.eraseSpare d k)).getD s

/-- A free block that a thatch has taken, and that holds no data, went bad: its planes enter the GBBT, a spare block covers it
(R112), and the die's next least-worn free block takes its place (R113, R115). -/
def replaceUnused (s : State) (d : DieNo) (k mask cause : Nat) : State :=
  let owner := s.fl.thatches.find? fun e => e.2.members.any fun m => m.die == d && (m.block == k || m.splices.any (·.block == k))
  let s := coverFree (enterPlanes s d k mask cause false) d
  checkGbbt (match owner with
    | none => s
    | some (t, th) => match takeFree s d (if th.kind == .ready then .ready else .bound) with
      | none => loseMember s t d
      | some (s, k') =>
        let put (m : MemberSt) : MemberSt :=
          { m with block := if m.block = k then k' else m.block,
                   splices := m.splices.map fun sp => if sp.block = k then { sp with block := k' } else sp }
        updThatch s t fun x => { x with
          members := x.members.map fun m => if m.die = d then put m else m,
          erasing := if th.kind == .ready then
              x.erasing.filter (· != d) ++ (if (block s d k').erased then [] else [d]) else x.erasing }) d

/-- Erase a zone-mode block that holds no data, or retire it for wear (R113). -/
def eraseZoneBlock (s : State) (d : DieNo) (k : Nat) (p : Purpose) : State :=
  let worn := wornPlanes s d k s.prof.peLimit
  if worn ≠ 0 then replaceUnused s d k worn 4 else (bookErase s d k false p).getD s

/-- Erase again the blocks of a channel whose erases were sent back (R147, R156): as many as ERASE_PER_BAY allows; the others wait for
the next decision (R117). -/
def bookReturned (s : State) (c : Nat) : State :=
  forEach (chan s c).returned (fun e s =>
    if decide (s.prof.erasePerBay ≤ bayErasing s (dieBay e.1)) then s
    else
      let s := updChan s c fun x => { x with returned := x.returned.erase e }
      if erasing s e.1 e.2 then s
      else match (block s e.1 e.2).use with
        | .gutter _ => eraseSlc s e.1 e.2
        | .underlay => eraseSlc s e.1 e.2
        | _ => eraseZoneBlock s e.1 e.2 (.eraseSpare e.1 e.2)) s

/-- Splice a member after a failed program (R114), or at replay without counting (R199): the courses from the lowest
unsettled one go into a replacement block, from the Eaves Buffer or, in a relocation target, from the source read again. A third
counted splice, or a die without a block, is handled like a die retired during an active zone. -/
def spliceMember (s : State) (t pos course : Nat) (counted : Bool) : State :=
  let th := thatch s t
  match th.members[pos]? with
  | none => s
  | some m =>
    let e := (lastCourse s th).getD (s.prof.wordlines - 1)
    let c := min course (memberSettled s m e)
    let old := (blockAt m course).1
    let s := forEach (s.fl.descs.filter fun d => d.st == .queued && (match d.purpose with
        | .program t' p _ _ => t' == t && p == pos
        | _ => false)) (fun d s => dropDesc s d 0x33) s
    let s := if counted then enterGbbt s m.die old 2 true else s
    let room := !counted || decide (countP (·.counted) m.splices < 2)
    let new := if counted then takeReplacement s m.die .bound else takeErased s m.die .bound
    match room, new with
    | true, some (s, k) =>
      let sp : Splice := { course := c, block := k, counted := counted }
      let s := updThatch s t fun x => { x with members := vecUpd x.members pos fun y =>
        { y with splices := y.splices ++ [sp], fog := c, fine := c, aborted := false } }
      match th.kind with
      | .target _ => readAgain s t c
      | .convReloc => readAgain s t c
      | .convClosed => if (relocsInto s t).isEmpty then s else readAgain s t c
      | _ => s
    | _, _ => loseMember s t m.die

/-! ### Program passes -/

/-- Book the read of one Underlay yealm of a member's course into staging SRAM (R192), from the first or the second copy. -/
def bookStageRead (s : State) (t pos x : Nat) (m : MemberSt) (us : List Nat) (two : Bool) : Option State :=
  let d := underlayDie m.die (if two then 2 else 1)
  (us.head?.bind (underlayAt s d (thatch s t).nsid)).bind fun (blk, wl) =>
    (bookOp s d (now s + 2) s.prof.tRSlc s.prof.tokSense .readGroup 0 false
      { descDefault with opcode := 0x02, block := blk, wordline := wl, thatch := t, purpose := .stage t pos x us two }).map fun s =>
      chargeBackground s (senseEnergy s.prof true 4)

/-- Reads of a member's course into staging SRAM are outstanding. -/
def staging (s : State) (t pos x : Nat) : Bool :=
  s.fl.descs.any fun d => match d.purpose with
    | .stage t' p y _ _ => t' == t && p == pos && y == x
    | _ => false

/-- Units of a member's course that lie in the Underlay and can be read. -/
def stageUnits (s : State) (th : ThatchSt) (x pos : Nat) : List Nat :=
  if th.kind == .zone then
    (((memberOffsets s.prof th.width x pos).map (th.zone * zoneUnits + ·)).filter fun u =>
      (mediaOf s th.nsid u).any (·.underlay) && !unitBad s th.nsid u)
  else []

/-- Read what a first pass needs from the Underlay (R192): one read for each yealm, from the first copy, else from the second. -/
def stageReads (s : State) (t pos x : Nat) (m : MemberSt) (us : List Nat) : State :=
  let n := (thatch s t).nsid
  if staging s t pos x then s
  else
    let two := !us.all fun u => underlayUp s (underlayDie m.die 1) n u
    let d := underlayDie m.die (if two then 2 else 1)
    let groups := (us.map (underlayAt s d n)).eraseDups.map fun l => us.filter fun u => underlayAt s d n u == l
    (groups.foldl (fun acc g => acc.bind fun s => bookStageRead s t pos x m g two) (some s)).getD s

/-- The last read of a member's course has ended: its data is in staging SRAM. -/
def stageDone (s : State) (t pos x : Nat) : State :=
  if staging s t pos x then s else { s with eav := { s.eav with staged := withOne s.eav.staged (t, pos, x) } }

/-- Book the next pass of a member (R141, R184): firm for a thatch that host data fills, background for a relocation
target; a block that is not erased yet is erased first, at most ERASE_PER_BAY members of a bay at a time (R117), or retired for wear
(R113). Data that lies in the Underlay is read into staging SRAM before the first pass (R192). -/
def bookPass (s : State) (t pos : Nat) : State :=
  let th := thatch s t
  match th.members[pos]?, lastCourse s th with
  | some m, some e =>
    match nextPass s t pos m (memberEnd m e) with
    | none => s
    | some (x, fine) =>
      let (blk, wl) := blockAt m x
      let firm := match th.kind with
        | .target _ => false
        | .convReloc => false
        | _ => true
      if m.lost || !dieUp s m.die || (!fine && !shareReady s t th x pos e) then s
      else if !(block s m.die blk).erased && wl = 0 && !fine then
        if erasing s m.die blk || decide (s.prof.erasePerBay ≤ bayErasing s (dieBay m.die)) then s
        else eraseZoneBlock s m.die blk (.eraseSpare m.die blk)
      else
        let us := if fine then [] else stageUnits s th x pos
        if !us.isEmpty && !s.eav.staged.contains (t, pos, x) then stageReads s t pos x m us
        else ((bookProgram s m.die (now s + 2) (if fine then s.prof.tFine else s.prof.tFog) s.prof.tokProg (s.prof.planes * s.prof.zoneBits)
          (if fine then .finePass else .firstPass) firm
          { descDefault with opcode := if s.prof.twoPass = 0 then 0x12 else if fine then 0x11 else 0x10, block := blk, wordline := wl,
                             thatch := t, cls := 7, buf := passBuf s th x pos, dest := (if firm then .fabric else .purlin, t % 2 ^ 24),
                             purpose := .program t pos x fine }).map fun s =>
          { s with eav := { s.eav with staged := s.eav.staged.filter (· != (t, pos, x)) } }).getD s
  | _, _ => s

/-- Order of Table 05.3 of the work that fills a target; none for a thatch that host data fills. -/
def targetOrder (s : State) (t : Nat) : Option Nat :=
  match (thatch s t).kind with
  | .target _ => (relocOf s t).map (·.order)
  | .convReloc => minNat? ((relocsInto s t).map (·.order))
  | .convClosed => minNat? ((relocsInto s t).map (·.order))
  | _ => none

/-- A pass of a member could be booked now. -/
def passWaits (s : State) (t pos : Nat) : Bool :=
  let th := thatch s t
  match th.members[pos]?, lastCourse s th with
  | some m, some e => match nextPass s t pos m (memberEnd m e) with
    | some (x, fine) => !m.lost && dieUp s m.die && (fine || shareReady s t th x pos e)
    | none => false
  | _, _ => false

/-- A target's pass waits while one of more important work could be booked on its channel (R119, Table 05.3). -/
def targetYields (s : State) (t pos : Nat) : Bool :=
  match targetOrder s t, (thatch s t).members[pos]? with
  | some o, some m => s.fl.thatches.any fun e => (targetOrder s e.1).any (fun x => decide (x < o)) &&
      e.2.members.zipIdx.any fun y => dieCh y.1.die == dieCh m.die && passWaits s e.1 y.2
  | _, _ => false

/-- A thatch has data of which one copy has been lost (Table 01.7). -/
def singleCopy (s : State) (t : Nat) : Bool :=
  s.eav.units.any fun e => !e.ended && !e.settled && (e.inA != e.inB) && unitStored s e && (match nsOf s e.nsid with
    | some ns => if ns.zoned then (zone s e.nsid (e.unit / zoneUnits)).thatch == some t
        else (tblFind? (e.nsid, e.unit) s.zns.conv).any (·.1 == t)
    | none => false)

/-- Unsettled data that has one copy is programmed ahead of all other programs (Table 01.7): a pass of another thatch waits while one
of such a thatch can be booked. -/
def passYields (s : State) (t : Nat) : Bool :=
  !(isRunning s 6 && isRunning s 7) && !singleCopy s t && s.fl.thatches.any fun e =>
    singleCopy s e.1 && (List.range e.2.members.length).any (passWaits s e.1)

end Sys2Proof.Machine
end

