-- ==== Sys2Proof/Machine/Flash.lean ====
section
/-! DEFINITION. The flash sequencers: program passes, issue and completion of descriptors, suspend windows, overruns,
time-outs and the token guard (R139 to R149, R158, R161, R162). -/

namespace Sys2Proof.Machine

/-- A descriptor of a channel's store. -/
def descOf (s : State) (ch tag : Nat) : Option Desc := s.fl.descs.find? fun d => d.ch == ch && d.seqTag == tag

/-- Change a descriptor. -/
def updDesc (s : State) (d : Desc) (f : Desc → Desc) : State :=
  { s with fl := { s.fl with descs := s.fl.descs.map fun x => if x.ch == d.ch && x.seqTag == d.seqTag then f x else x } }

/-- Read opcodes of Table 06.5. -/
def isReadOp (o : Nat) : Bool := o == 1 || o == 2 || o == 3

/-- Erase opcodes. -/
def isEraseOp (o : Nat) : Bool := o == 0x20 || o == 0x21

/-- Program opcodes. -/
def isProgOp (o : Nat) : Bool := o == 0x10 || o == 0x11 || o == 0x12 || o == 0x13

/-- Opcodes listed in Table 06.5. -/
def opListed (o : Nat) : Bool :=
  isReadOp o || isProgOp o || isEraseOp o || o == 0x30 || (decide (0x40 ≤ o) && decide (o ≤ 0x45))

/-- Conditions of R140, and a SHIFT_SET from 0x40 to 0xFE (R166). -/
def badDesc (s : State) (d : Desc) : Bool :=
  !opListed d.opcode || !diePopulated s.prof (descDie d) || decide (2 ^ s.prof.planes ≤ d.planeMask) ||
    d.blks.any (fun b => decide (s.prof.blocksPerPlane < b)) || decide (s.prof.wordlines ≤ d.wordline) ||
    (decide (0x40 ≤ d.shiftSet) && decide (d.shiftSet ≤ 0xFE))

/-- The program or erase in progress or suspended on a die. -/
def dieOp (s : State) (d : DieNo) : Option Desc :=
  s.fl.descs.find? fun x => descDie x == d && x.st != .queued && (isProgOp x.opcode || isEraseOp x.opcode)

/-- A read in progress on a die. -/
def dieRead (s : State) (d : DieNo) : Option Desc :=
  s.fl.descs.find? fun x => descDie x == d && isReadOp x.opcode && (match x.st with
    | .issued _ => true
    | _ => false)

/-- A suspended operation. -/
def isSuspended (d : Desc) : Bool :=
  match d.st with
  | .suspended _ => true
  | _ => false

/-- Budget of the token guard (R149): DUMP_TOKEN_BUDGET during a dump, else the budget in effect. -/
def guardBudget (s : State) : Nat := if s.eav.dumpStart.isSome then s.prof.dumpTokenBudget else effectiveBudget s

/-- The erase of a Gutter half, which runs from -40 to 95 °C (R150). -/
def isGutterErase (s : State) (d : Desc) : Bool :=
  match d.purpose with
  | .eraseSpare die' k => match (block s die' k).use with
    | .gutter _ => true
    | _ => false
  | _ => false

/-- A package is within -40 to 95 °C, where DUMP programs and Gutter erases run (R150). -/
def gutterTemp (s : State) (k : Nat × Nat) : Bool := decide (-40 ≤ pkgTemp s k) && decide (pkgTemp s k ≤ 95)

/-- Programs and erases that do not start (R150, R333): with the window closed all but DUMP programs and Gutter erases, at
Critical all but those and the work of Table 05.3 order 1. -/
def writeBlocked (s : State) (d : Desc) : Bool :=
  !d.dump && !(isGutterErase s d && gutterTemp s (diePkg (descDie d))) &&
    (!s.fl.window.isOpen || (s.thm.step == .critical && d.opcode != 0x13 && d.opcode != 0x21))

/-- The die is ready for a descriptor (R141 rules 1 to 3, R145, R146). -/
def dieReadyFor (s : State) (d : Desc) : Bool :=
  let die' := descDie d
  if isReadOp d.opcode then
    (dieRead s die').isNone && (match dieOp s die' with
      | none => true
      | some o => isSuspended o && d.window.isSome)
  else
    (dieRead s die').isNone && (dieOp s die').isNone &&
      !(isProgOp d.opcode && s.fl.descs.any fun x =>
        descDie x == die' && x.block == d.block && isProgOp x.opcode && decide (x.seqTag < d.seqTag)) &&
      !(isEraseOp d.opcode && s.fl.descs.any fun x =>
        descDie x == die' && x.block == d.block && isReadOp x.opcode && x.st == .queued && decide (x.start < d.start))

/-- Members of a provisional rebuild are booked and not issued before the ladder promotes them (R168). -/
def isProvisional (s : State) (d : Desc) : Bool :=
  match d.purpose with
  | .raMember id _ => (rebuildOf s id).any (·.provisional)
  | _ => false

/-- A descriptor stands ahead of another in its die's queue, by START and then by SEQ_TAG (R139). A read inside a suspend window waits
for those of its window alone (R141 rule 1); the senses of a provisional rebuild are passed over (R168), and a window's own
descriptor is the sequencer's (R145). -/
def queuedAhead (s : State) (x d : Desc) : Bool :=
  x.st == .queued && x.opcode != 0x30 && !isProvisional s x && descDie x == descDie d && queueOf x == queueOf d && x.window == d.window &&
    (decide (x.start < d.start) || (x.start == d.start && decide (x.seqTag < d.seqTag)))

/-- The live sum of the token guard (R149): what the dies hold, and TOK_XFER for each channel transfer that its bus carries now (R78). -/
def liveSum (s : State) : Nat :=
  s.fl.liveTokens + s.prof.tokXfer * countP (fun (e : OccEntry) => decide (e.start ≤ now s) && decide (now s < e.start + e.length)) s.fl.occupancy

/-- Tokens allow an issue (R149): FIRM descriptors go ahead of background ones. -/
def tokensAllow (s : State) (d : Desc) : Bool :=
  decide (liveSum s + d.tokens ≤ guardBudget s) && (d.firm || !s.fl.descs.any fun x => x.firm && x.waitSince.isSome)

/-- A read or program that names a block whose erase is in progress or suspended (R146). -/
def interlocked (s : State) (d : Desc) : Bool :=
  !isEraseOp d.opcode && (match dieOp s (descDie d) with
    | some o => isEraseOp o.opcode && o.block == d.block
    | none => false)

/-- PROGRAM_PASS_BOOKING: the program engine books the next pass of a member whose share is complete (R141, R184), while the write window
is open (R150). -/
def execProgramPassBooking (t pos : Nat) (s : State) : Host.Outcome State Fault Refusal :=
  .next (if s.eav.powerLoss || s.eav.replaying || !s.fl.window.isOpen || passYields s t || targetYields s t pos then s else bookPass s t pos)

/-- Issue the die command of a descriptor: tokens held, a read's command now issued to a die (R99), an erase counted with its block incomplete and its record clear (R110, R147,
R166), a programmed block no longer erased. -/
def issueDesc (s : State) (d : Desc) : State :=
  let s := updDesc s d fun x => { x with st := .issued (now s), waitSince := none, issuedAt := now s }
  let s := { s with fl := { s.fl with liveTokens := s.fl.liveTokens + d.tokens } }
  if isReadOp d.opcode then
    { s with adm := { s.adm with cmds := s.adm.cmds.map fun c => if servesCmd s d c then { c with sensed := true } else c } }
  else if isEraseOp d.opcode then
    updBlock (countErase s (descDie d) d.block) (descDie d) d.block fun b =>
      { b with incomplete := true, erased := false, shift := 0, band := 0, valid := false, hits := 0 }
  else if isProgOp d.opcode then updBlock s (descDie d) d.block fun b => { b with erased := false }
  else s

/-- Program data fails its seal check (Table 13.4): a copy's source page is sensed again; what lies in the Eaves Buffer is taken from its
other copy when the pass is booked again. -/
def sealLost (s : State) (d : Desc) : State :=
  match d.purpose with
  | .program t _ x _ => match (thatch s t).kind with
    | .target _ => readAgain s t x
    | .convReloc => readAgain s t x
    | _ => s
  | _ => s

/-- DESCRIPTOR_ISSUE (R139 to R141, R146, R147, R149, R150, R307): the first descriptor of its die's queue, at START, once the die is
ready and tokens allow; `sealOk` is the seal check of program data. -/
def execDescriptorIssue (ch tag : Nat) (sealOk : Bool) (s : State) : Host.Outcome State Fault Refusal :=
  .next (match descOf s ch tag with
    | none => s
    | some d =>
      if d.st != .queued || d.opcode == 0x30 || !isRunning s (chIsland ch) || s.eav.replaying || isProvisional s d ||
          s.fl.descs.any (queuedAhead s · d) then s
      else if badDesc s d then workLost (closeDesc (chFault s ch 1 d 0x37) d 0x37 0) d
      else if !bufOk s (chIsland ch) d.buf then workLost (closeDesc (chFault s ch 6 d 0x37) d 0x37 0) d
      else if now s < d.start then s
      else if (isProgOp d.opcode || isEraseOp d.opcode) && writeBlocked s d then
        closeDesc (dropMove s d) d 0x30 0
      else if interlocked s d then workLost (closeDesc (chFault s ch 2 d 0x32) d 0x32 0) d
      else if !dieReadyFor s d then s
      else if isProgOp d.opcode && !sealOk then sealLost (closeDesc (chFault (dropMove s d) ch 5 d 0x35) d 0x35 0) d
      else if !tokensAllow s d then updDesc s d fun x => { x with waitSince := some (x.waitSince.getD (now s)) }
      else issueDesc s d)

/-! ### Completion (R143, R162) -/

/-- A page read delivered its data: hits (R176), the last-good shift of a retry (R166), the slot or member it serves. -/
def readDone (s : State) (d : Desc) (corrected : Nat) : State :=
  let die' := descDie d
  let s := if s.prof.refreshCorr ≤ corrected then addHits s die' d.block 1 else s
  match d.purpose with
  | .hostRead f q i slot => match cmdOf s f q i with
    | some c =>
      let s := if (ladderOf s c slot).isSome then addHits (keepShift s die' d.block d.shiftSet) die' d.block 4 else s
      shareResult (slotDone s c slot) c slot
    | none => s
  | .raMember id pos =>
    let retried := (rebuildOf s id).any fun r => r.tried.any (·.1 == pos)
    memberDone (if retried then addHits (keepShift s die' d.block d.shiftSet) die' d.block 4 else s) id
  | .sample t => if s.prof.refreshCorr ≤ corrected then flagRefresh s t else s
  | .pass n pg pos => passDecoded (addHits (keepShift s die' d.block d.shiftSet) die' d.block 4) n pg pos
  | .stage t pos x _ _ => stageDone s t pos x
  | _ => s

/-- A read of Underlay data failed on a copy (R192): the second copy is sensed; there is no read-around. -/
def underlayFailed (s : State) (d : Desc) (c : Cmd) (slot : Nat) : State :=
  let x := c.slots[slot]?.getD slotNone
  match slotPlace s c.nsid x with
  | none => noRoute s c
  | some (t, th, pl) => match th.members[pl.pos]? with
    | none => noRoute s c
    | some m =>
      let two := underlayDie m.die 2
      if descDie d = two || !underlayUp s two c.nsid ((firstOnMedia s c.nsid x.unit0 x.units).getD x.unit0) then noRoute s c
      else match bookPage s ⟨two, 0, [], 0, 0, false, false⟩ t pl x.units
          { stageReq c false (.hostRead c.fn c.sqid c.cid slot) (.fabric, slot) with
            slc := true, place := underlayAt s two c.nsid ((firstOnMedia s c.nsid x.unit0 x.units).getD x.unit0) } with
        | some (s', se) => if decodeNs s.prof se + hostStage s c.units ≤ dueNs c then s' else noRoute s c
        | none => noRoute s c

/-- Units whose last Underlay copy has failed are unrecoverable, with the events that name them: the Underlay has no read-around (R192). -/
def underlayGone (s : State) (nsid : Nat) (us : List Nat) : State :=
  noteUnrec (forEach us (fun u s => markUnrec s nsid u) s) (us.map fun u => (nsid, u))

/-- A read of a compaction failed (R193): the yealm's other copy is read; where that fails too its units are lost. -/
def compactFailed (s : State) (d : Desc) (k i : Nat) (die' : DieNo) : State :=
  match (s.eav.compactions.find? fun c => c.die == die' && c.dst == k).bind (·.live[i]?) with
  | none => s
  | some y =>
    let two := s.eav.underlay.findSome? fun e =>
      if e.nsid == y.nsid && y.units.any e.units.contains then some (if e.one = die' then e.two else e.one) else none
    match two.filter (· != descDie d) with
    | none => underlayGone s y.nsid y.units
    | some o => ((y.units.head?.bind (underlayAt s o y.nsid)).bind fun (blk, wl) =>
        bookOp s o (now s + 2) s.prof.tRSlc s.prof.tokSense .readGroup 0 false
          { descDefault with opcode := 0x02, block := blk, wordline := wl, purpose := d.purpose }).getD
        (updCompact s die' k fun c => { c with unread := withOne c.unread i })

/-- Codewords that a read transfers, as a mask. -/
def allCws (d : Desc) : Nat := 2 ^ (d.cwLast + 1) - 2 ^ d.cwFirst

/-- The codewords of a mask of a page read failed their decode (R162, R168, R172). -/
def readFailed (s : State) (d : Desc) (cws : Nat) : State :=
  match d.purpose with
  | .hostRead f q i slot => match cmdOf s f q i with
    | some c => if d.opcode = 2 then underlayFailed s d c slot else pageFailed s c slot d.shiftSet cws
    | none => s
  | .raMember id pos => match rebuildOf s id with
    | some r => if r.fn = 65535 then relocMemberNext s d r pos else memberFailed s id pos d.shiftSet cws
    | none => s
  | .sample t => flagRefresh s t
  | .pass n pg pos => passFailed s n pg pos
  | .relocation dst n => relocPageFailed s d dst n true
  | .stage t pos x us two => match two, (thatch s t).members[pos]? with
    | false, some m => (bookStageRead s t pos x m us true).getD s
    | _, _ => stageDone (underlayGone s (thatch s t).nsid us) t pos x
  | .compact die' k i => compactFailed s d k i die'
  | _ => s

/-- Release the staging buffers of a target's courses that every member has programmed (R120, R302). -/
def freeSources (s : State) (t : Nat) : State :=
  let th := thatch s t
  let n := (minNat? ((th.members.filter (!·.lost)).map (·.fine))).getD 0
  let gone := th.bufs.filter fun e => decide (e.1 < n)
  if gone.isEmpty then s
  else releaseBufs (updThatch s t fun x => { x with bufs := x.bufs.filter fun e => decide (n ≤ e.1) }) 2 (sumNat (gone.map (·.2)))

/-- A program pass completed (R186): the member advances, the last pass of a wordline counts its bytes and the thatch
settles further. -/
def programDone (s : State) (t pos x : Nat) (fine : Bool) : State :=
  let last := fine || s.prof.twoPass == 0
  let th := thatch s t
  let s := updThatch s t fun y => { y with
    members := vecUpd y.members pos fun m => if fine then { m with fine := x + 1 } else if s.prof.twoPass = 0 then
      { m with fog := x + 1, fine := x + 1 } else { m with fog := x + 1 },
    lastCourseOp := opUs s }
  if !last then s
  else
    let e := (lastCourse s th).getD (s.prof.wordlines - 1)
    settleThatch (freeSources (countPass s t th x pos e) t) t

/-- Listed blocks of a use, over all populated dies in service. -/
def blocksOfUse (s : State) (u : BlockUse) : List (DieNo × Nat) :=
  (s.fl.dies.filter fun e => !e.2.retired).flatMap fun e => (e.2.blocks.filter (·.2.use == u)).map fun b => (e.1, b.1)

/-- Write the erase-end record of a block (R147). -/
def eraseEnded (s : State) (d : DieNo) (k : Nat) : State :=
  journal { s with fl := { s.fl with eraseStarts := s.fl.eraseStarts.filter (· != (d, k)) } } 64

/-- An erase completed (R115, R117, R147, R198): the block is erased; a ready thatch waits for one less, a Gutter half
with no block left to erase becomes the ready half. -/
def eraseDone (s : State) (d : Desc) : State :=
  let die' := descDie d
  let s := updBlock (eraseEnded s die' d.block) die' d.block fun b => { b with erased := true, incomplete := false }
  match d.purpose with
  | .erase t dd _ => updThatch s t fun x => { x with erasing := x.erasing.filter (· != dd) }
  | .eraseSpare _ _ => match (block s die' d.block).use with
    | .gutter h =>
      if (blocksOfUse s (.gutter h)).any fun e => !(block s e.1 e.2).erased then s
      else { s with eav := { s.eav with halves := vecUpd s.eav.halves h fun g => if g = .spent then .erased else g } }
    | _ => s
  | _ => s

/-- An erase failed on the planes of a mask (R115, R147): the block enters the GBBT with cause 0x1 and is replaced, one of a pSLC area
under R112. -/
def eraseFailed (s : State) (d : Desc) (planes : Nat) : State :=
  let die' := descDie d
  let s := eraseEnded s die' d.block
  match (block s die' d.block).use with
  | .gutter _ => replaceSlc s die' d.block planes 1
  | .underlay => replaceSlc s die' d.block planes 1
  | _ => replaceUnused s die' d.block planes 1

/-- The Underlay copies of a zone have both been written (R191): the units that the move covers leave the Eaves Buffer, and
the zone takes substate 0x02 unless a write has come meanwhile (R192). -/
def underlayDone (s : State) (nsid zi : Nat) : State :=
  if s.fl.descs.any fun d => d.opcode == 0x13 && (match d.purpose with
      | .underlay n z _ => n == nsid && z == zi
      | _ => false) then s
  else match s.eav.underlayMoves.find? fun m => m.nsid == nsid && m.zone == zi with
    | none => s
    | some mv =>
      let here (e : EavesUnit) : Bool := e.nsid == nsid && e.unit / zoneUnits == zi && !e.ended && !e.settled
      let mine := s.eav.units.filter fun e => here e && mv.seqs.contains e.seq && e.inA && e.inB
      let later := decide (mv.begun < (zone s nsid zi).lastWrite) || s.eav.units.any fun e => here e && !mv.seqs.contains e.seq
      let kept := s.fl.media.filter fun m => !mine.any fun e => e.nsid == m.nsid && e.unit == m.unit
      let new := mine.map fun e => MediaUnit.mk nsid e.unit e.content e.key e.epoch e.region true
      let s := { s with fl := { s.fl with media := kept ++ new },
                        eav := { s.eav with underlayMoves := s.eav.underlayMoves.erase mv } }
      updZone (releaseBufs (endEaves s fun e => mine.any fun x => x.seq == e.seq) 2 mv.bufs) nsid zi fun z => { z with underlay := !later }

/-- Consecutive 0x20 and 0x21 completions of a die (R144); the third retires it (R125). -/
def countTimeout (s : State) (d : DieNo) : State :=
  let s := updDie s d fun x => { x with timeouts := x.timeouts + 1 }
  if 3 ≤ (die s d).timeouts then retireDie s d 1 else s

/-- What a failed or lost program leads to (R114, Table 06.13). A failed Underlay program is repeated by the next move of its zone. -/
def programFailed (s : State) (d : Desc) (planes : Nat) : State :=
  match d.purpose with
  | .program t pos x _ => checkGbbt (spliceMember s t pos x true) (descDie d)
  | .compact _ _ _ => replaceSlc (dropMove s d) (descDie d) d.block planes 2
  | .dump i => dumpFailed s (descDie d) i
  | .underlay _ _ _ => replaceSlc (dropMove s d) (descDie d) d.block planes 2
  | _ => if d.opcode = 0x13 then replaceSlc s (descDie d) d.block planes 2 else s

/-- What an erase cut short leads to (R147): the block is erased again with a full booking before any use, unless it is worn (R113). -/
def eraseLost (s : State) (d : Desc) : State :=
  if d.opcode = 0x21 then eraseSlc s (descDie d) d.block else eraseZoneBlock s (descDie d) d.block d.purpose

/-- What a reset of its die does to an operation that was suspended on it, or running: a program counts as failed, an erase leaves its
block erase-incomplete (Table 06.13). -/
def dieReset (s : State) (die' : DieNo) (but : Nat) : State :=
  forEach (s.fl.descs.filter fun x => descDie x == die' && x.seqTag != but && x.st != .queued) (fun x s =>
    if (descOf s x.ch x.seqTag).isNone then s else
    let s := countTimeout (closeDesc s x 0x20 0) die'
    if isReadOp x.opcode then workLost s x
    else if isProgOp x.opcode then programFailed s x 0
    else if isEraseOp x.opcode then eraseLost s x else s) s

/-- A completion of a die that timed out or does not answer (R144): status 0x20 or 0x21, with the event of Table 06.13; `reset`: the
sequencer has reset the die. -/
def deadDie (s : State) (d : Desc) (status : Nat) (reset : Bool) : State :=
  let s := channelEvent (closeDesc s d status 0) (descDie d) 0x92
  let s := if isReadOp d.opcode || d.dump then workLost s d
    else if isProgOp d.opcode then programFailed s d 0
    else if isEraseOp d.opcode then eraseLost s d else s
  countTimeout (if reset then dieReset s (descDie d) d.seqTag else s) (descDie d)

/-- Count the codewords of a read, and its 0x02 completion if it is one, for its package's rate (R155). -/
def countCodewords (s : State) (d : Desc) (bad : Nat) : State :=
  if isReadOp d.opcode then
    updPkg s (diePkg (descDie d)) fun p => { p with failed := p.failed + bad, codewords := p.codewords + (d.cwLast + 1 - d.cwFirst) }
  else s

/-- A spar codeword of another course was read for a rebuild: the rebuilt tag will not agree (R171). -/
def noteSpar (s : State) (d : Desc) (found : List FoundTag) : State :=
  match d.purpose with
  | .raMember id _ =>
    if found.any fun f => (tagOf s d f.cw).isNone then
      { s with fl := { s.fl with rebuilds := s.fl.rebuilds.map fun r => if r.id = id then { r with sparOff := true } else r } }
    else s
  | _ => s

/-- The Soft-Decode island takes what a channel island sends it (R19, R24). -/
def softReach (s : State) (ch : Nat) : Bool := !notRunning s 8 && !isFenced s (chIsland ch) 8 true

/-- The codewords of a mask whose hard decode failed go to the Soft-Decode island, which holds them for the soft stage (R163). -/
def holdHard (s : State) (d : Desc) (cws : Nat) : State :=
  if s.prof.softEnable = 1 && softReach s d.ch then
    { s with fl := { s.fl with hardWords := s.fl.hardWords.filter (·.purpose != d.purpose) ++ [{ ch := d.ch, tag := d.seqTag, purpose := d.purpose, cws := cws }] } }
  else s

/-- A read completed with a hard decode of all its codewords; a soft stage's planes go to the Soft-Decode
island (R161 to R163), and the stage fails where that island is away or refuses them (R19, R24). -/
def readOk (s : State) (d : Desc) (corrected : Nat) (found : List FoundTag) : State :=
  let misses := tagMisses s d found
  if d.opcode = 3 then
    let s := closeDesc s d 0 0
    let s := { s with fl := { s.fl with softWaits := s.fl.softWaits ++
      [{ desc := d, cws := d.dest.2 }] } }
    if softReach s d.ch then s else softAnswer s d.ch d.seqTag (.failed 0)
  else if misses = 0 then
    readDone (closeDesc (noteSpar s d found) d (if s.prof.refreshCorr ≤ corrected then 1 else 0) corrected) d corrected
  else
    let s := holdHard (chFault (closeDesc s d 2 corrected) d.ch 4 d 2) d misses
    readFailed (addHits s (descDie d) d.block s.prof.refreshHits) d misses

/-- A descriptor's die outcome as a status and its effects. -/
def finishDesc (s : State) (d : Desc) (out : DieOutcome) : State :=
  let die' := descDie d
  if (die s die').lostStatus then deadDie (updDie s die' fun x => { x with lostStatus := false }) d 0x21 false
  else match out with
  | .dieFailure => deadDie s d 0x21 false
  | .readOk corrected found =>
    if isReadOp d.opcode then readOk (countCodewords s d (if tagMisses s d found = 0 then 0 else 1)) d corrected found else s
  | .readFail cws =>
    if isReadOp d.opcode then
        let m := if cws &&& allCws d = 0 then allCws d else cws &&& allCws d
        readFailed (holdHard (closeDesc (countCodewords s d 1) d 2 0) d m) d m
      else s
  | .readErased => if isReadOp d.opcode then readFailed (closeDesc (countCodewords s d 0) d 3 0) d (allCws d) else s
  | .done =>
    if isReadOp d.opcode then s
    else
      let s := closeDesc s d 0 0
      match d.purpose with
      | .program t pos x fine => programDone s t pos x fine
      | .underlay n z _ => underlayDone s n z
      | .dump i => dumpDone s die' i
      | _ => if isEraseOp d.opcode then eraseDone s d else s
  | .failed planes =>
    if isReadOp d.opcode then s
    else if isEraseOp d.opcode then eraseFailed (closeDesc s d 0x11 0) d planes
    else programFailed (closeDesc s d 0x10 0) d planes

/-- A receiving unit of a descriptor's completion token refuses it, because its channel is fenced (R19). -/
def tokenRefused (s : State) (d : Desc) : List DestUnit := (tokenUnits d 0).filter fun u => isFenced s (chIsland d.ch) (unitIsland u) false

/-- DESCRIPTOR_COMPLETION (R143): the die finishes an issued operation. Released thatches whose last read has ended join
the free pool (R43), and held commands are evaluated again. A Stopped channel has its clock held (Table 01.2); a token that a fence
refuses is counted, and the sequencer sends it again (R19; that it does so is DEDUCED, log entry 113). -/
def execDescriptorCompletion (ch tag : Nat) (out : DieOutcome) (s : State) : Host.Outcome State Fault Refusal :=
  .next (match descOf s ch tag with
    | none => s
    | some d => match d.st with
      | .issued _ =>
        if !clockRuns s ch then s
        else match tokenRefused s d with
          | [] => reevaluateAll (sweepThatches (finishDesc s d out))
          | us => forEach us (fun u s => sendToken s (chIsland ch) (unitIsland u) false d.seqTag) s
      | _ => s)

/-! ### Suspend windows (R77, R145) -/

/-- The window entry of a die that starts at a time. -/
def windowOf (s : State) (d : DieNo) (start : Nat) : Option CalEntry :=
  (dieEntries s d).find? fun e => e.kind == .suspendWindow && e.start == start

/-- Suspends an operation may take. -/
def suspendLimit (p : Profile) (d : Desc) : Nat := if isEraseOp d.opcode then p.nSuspE else p.nSuspP

/-- The descriptor of a die's suspend window that starts at a time (R145). -/
def windowDesc (s : State) (d : DieNo) (start : Nat) : Option Desc :=
  s.fl.descs.find? fun x => x.opcode == 0x30 && descDie x == d && x.start == start

/-- Reads of a window that have not been issued complete with 0x31 and are planned again, with an event (Table 06.13). -/
def missWindow (s : State) (d : DieNo) (start : Nat) : State :=
  let s := channelEvent s d 0x93
  forEach (s.fl.descs.filter fun x => descDie x == d && x.st == .queued && x.opcode != 0x30 && x.window == some start)
    (fun x s => workLost (closeDesc s x 0x31 0) x) s

/-- SUSPEND_WINDOW_START (R145): the window's descriptor is issued. The operation in progress is suspended, unless it is suspended
already, is a DUMP program, or has spent its suspends, in which case the window's reads complete with 0x31; nothing is in
progress any more where it has ended. -/
def execSuspendWindowStart (ch die' start : Nat) (s : State) : Host.Outcome State Fault Refusal :=
  let d := 128 * ch + die'
  .next (match windowOf s d start, windowDesc s d start with
    | some w, some x =>
      if now s < w.start || x.st != .queued || !isRunning s (chIsland ch) then s
      else
        let s := updDesc s x fun y => { y with st := .issued (now s), issuedAt := now s }
        match dieOp s d with
        | none => s
        | some o =>
          if isSuspended o || o.dump then s
          else if suspendLimit s.prof o ≤ o.suspends then missWindow (chFault s ch 3 o 0) d start
          else updDesc s o fun x => { x with st := .suspended (now s), suspends := x.suspends + 1 }
    | _, _ => s)

/-- The window of a die ends: its descriptor completes, its calendar entry is freed, the operation resumes, and reads not issued
complete with 0x31 (R145). -/
def endWindow (s : State) (d : DieNo) (w : CalEntry) : State :=
  let s := { s with fl := { s.fl with calendar := s.fl.calendar.erase w } }
  let s := match windowDesc s d w.start with
    | some x => closeDesc s x 0 0
    | none => s
  let s := match dieOp s d with
    | some o => if isSuspended o then updDesc s o fun x => { x with st := .issued (now s) } else s
    | none => s
  missWindow s d w.start

/-- SUSPEND_WINDOW_END (R145): after the last transfer of the window's reads, or at its end, the operation resumes. -/
def execSuspendWindowEnd (ch die' start : Nat) (s : State) : Host.Outcome State Fault Refusal :=
  let d := 128 * ch + die'
  .next (match windowOf s d start with
    | none => s
    | some w =>
      let waiting := s.fl.descs.any fun x => descDie x == d && x.opcode != 0x30 && x.window == some start
      if decide (now s < w.start) || (waiting && decide (now s < entryEnd w)) then s else endWindow s d w)

/-! ### Overruns, time-outs, the token guard -/

/-- Booked length of a descriptor's operation: its calendar entry's, which every suspend window lengthens (R77; DEDUCED, log entry 95). -/
def bookedLength (s : State) (d : Desc) : Nat :=
  match s.fl.calendar.find? fun e => e.tag == d.seqTag && e.die == descDie d && e.kind != .suspendWindow with
  | some e => e.length
  | none => d.length

/-- Senses that wait on a die go by read-around (R144, R145). -/
def waitingAround (s : State) (d : DieNo) : State :=
  forEach (s.fl.descs.filter fun x => descDie x == d && x.st == .queued && x.firm && isReadOp x.opcode)
    (fun x s => workLost (closeDesc s x 0x33 0) x) s

/-- DIE_OVERRUN (R144, Table 06.13): the die is busy past START + LENGTH; the senses waiting on it go by read-around. -/
def execDieOverrun (ch tag : Nat) (s : State) : Host.Outcome State Fault Refusal :=
  .next (match descOf s ch tag with
    | none => s
    | some d =>
      if d.st == .queued || d.overran || !clockRuns s ch || decide (now s ≤ d.start + bookedLength s d) then s
      else waitingAround (chFault (updDesc s d fun x => { x with overran := true }) ch 0 d 0) (descDie d))

/-- DIE_TIMEOUT (R144, Table 06.13): the die is still busy at OVERRUN_LIMIT × LENGTH: Reset LUN and 0x20; `answers` says
whether the die gives a valid status afterwards, else the next descriptor completes with 0x21, though it times out itself. -/
def execDieTimeout (ch tag : Nat) (answers : Bool) (s : State) : Host.Outcome State Fault Refusal :=
  .next (match descOf s ch tag with
    | none => s
    | some d =>
      if d.st == .queued || !clockRuns s ch || decide (now s < d.start + s.prof.overrunLimit * bookedLength s d) then s
      else
        let lost := (die s (descDie d)).lostStatus
        deadDie (updDie s (descDie d) fun x => { x with lostStatus := !answers }) d (if lost then 0x21 else 0x20) true)

/-- TOKEN_GUARD_TIMEOUT (R149): a FIRM descriptor has waited 50 µs for tokens. Source 291 has an event, background bookings
move later, and the reads that wait for tokens go by read-around. -/
def execTokenGuardTimeout (ch tag : Nat) (s : State) : Host.Outcome State Fault Refusal :=
  .next (match descOf s ch tag with
    | none => s
    | some d => match d.waitSince with
      | none => s
      | some t =>
        if !d.firm || d.st != .queued || decide (now s < t + 50) then s
        else
          let s := raiseFault s 291 (capOf 4 3 (descDie d + d.seqTag * 2 ^ 32) 0 (chIsland ch))
          let s := { s with fl := { s.fl with tokenGuardWaits := s.fl.tokenGuardWaits + 1 } }
          let s := forEach (s.fl.calendar.filter fun e => movable s e && overlap (now s) d.length e.start e.length)
            (fun e s => (moveEntry s (now s + d.length) e).getD s) s
          let s := updDesc s d fun x => { x with waitSince := some (now s) }
          forEach (s.fl.descs.filter fun x => x.st == .queued && x.firm && x.waitSince.isSome && isReadOp x.opcode)
            (fun x s => workLost (closeDesc s x 0x33 0) x) s)

end Sys2Proof.Machine
end

