-- ==== Sys2Proof/Machine/Background.lean ====
section
/-! DEFINITION. Background work of the Purlin cluster: its order (R119, Table 05.3), ready thatches (R117), refresh (R124),
reroofing (R127), conventional reclaim (R121 to R123), Underlay (R191 to R193), the journal (R187), SMART (R131). -/

namespace Sys2Proof.Machine

/-- Background work runs: the Management island runs, flash is in service, and neither a dump nor a replay is on. -/
def bgRuns (s : State) : Bool :=
  !mgmtDown s && s.fl.inService && s.fl.geo.built && !s.eav.powerLoss && !s.eav.replaying

/-! ### Order 1: pSLC areas -/

/-- Book the erases of a spent Gutter half (R198); a half whose blocks are all erased is ready. -/
def eraseHalf (s : State) (h : Nat) : State :=
  if vecGet .erased s.eav.halves h ≠ .spent then s
  else
    let todo := (blocksOfUse s (.gutter h)).filter fun e => !(block s e.1 e.2).erased
    if todo.isEmpty then { s with eav := { s.eav with halves := vecUpd s.eav.halves h fun _ => .erased } }
    else forEach (todo.filter fun e => !erasing s e.1 e.2) (fun e s => eraseSlc s e.1 e.2) s

/-! ### Order 2: ready thatches (R113, R117) -/

/-- Book the erases that unbound thatches of a bay wait for, at most ERASE_PER_BAY at a time. A block with a plane block at PE_LIMIT is
retired for wear instead, and the die's next least-worn block takes its place (R113). -/
def bookReadyErases (s : State) (b : Nat) : State :=
  let todo := (s.fl.thatches.filter fun e => e.2.bay == b && e.2.kind == .ready).flatMap fun e => e.2.erasing.map fun d => (e.1, d)
  forEach todo (fun e s =>
    match (thatch s e.1).members.find? (·.die == e.2) with
    | none => s
    | some m =>
      if erasing s m.die m.block || decide (s.prof.erasePerBay ≤ bayErasing s b) then s
      else eraseZoneBlock s m.die m.block (.erase e.1 m.die m.block)) s

/-- An unbound thatch takes the least-worn free block of each die in service that it lacks: it was assembled while that die was out
(R117). -/
def completeReady (s : State) (t : Nat) : State :=
  let ds := ((List.range 16).map (bayDie (thatch s t).bay)).filter fun d => dieUp s d && !(thatch s t).members.any (·.die == d)
  forEach ds (fun d s => match takeFree s d .ready with
    | none => s
    | some (s, k) =>
      let m : MemberSt := { die := d, block := k, splices := [], fog := 0, fine := 0, aborted := false, lost := false }
      updThatch s t fun x => { x with members := (x.members ++ [m]).mergeSort fun a b => decide (a.die ≤ b.die),
                                      erasing := if (block s d k).erased then x.erasing else x.erasing ++ [d] }) s

/-- Keep READY_THATCHES unbound thatches in a bay, with a block of every die in service each (R117). -/
def keepReady (s : State) (b : Nat) : State :=
  let s := forEach (s.fl.thatches.filter fun e => e.2.bay == b && e.2.kind == .ready) (fun e s => completeReady s e.1) s
  let have' := countP (fun e => e.2.bay == b && e.2.kind == .ready) s.fl.thatches
  let s := if have' < s.prof.readyThatches then (assembleReady s b).getD s else s
  bookReadyErases s b

/-! ### Copies: reading the source (R120, R127, R128, R302) -/

/-- Retry in one hour of operating time, with an event (R124). -/
def retryLater (s : State) (t order : Nat) : State :=
  recordEvent (updThatch s t fun x => { x with retryAt := some (opUs s + 3600000000) }) 0x0052 0 0 3
    (leBytes 4 t ++ leBytes 1 order ++ leBytes 1 1)

/-- Book reads of a copy with the staging SRAM of pool 2 that their data takes until the course is programmed (R120, R302): no buffers
means that the copy waits for the next decision. -/
def withBufs (s : State) (dst c n : Nat) (f : State → Option State) : State :=
  match allocBufs s 2 3 n with
  | none => poolFailure s 2
  | some s' => (f (updThatch s' dst fun x => { x with bufs := x.bufs ++ [(c, n)] })).getD s

/-- Read one page of a source, in the background: by direct sense, or by rebuild where its member's die is out (R120). -/
def relocPage (src dst : Nat) (m : MemberSt) (c pos pg : Nat) (acc : Option State) : Option State :=
  acc.bind fun s =>
    if memberUp s m then
      let pl : Place := { course := c, pos := pos, page := pg, plane := pg % s.prof.planes, level := pg / s.prof.planes, cw := 0 }
      (bookPage s m src pl 4 (backgroundReq false false (.relocation dst 0))).map fun r =>
        chargeBackground r.1 (senseEnergy s.prof false 4)
    else relocRebuild s src dst c pos pg false

/-- Book the reads of course `c` of a zone's thatch: its data members; with one member lost every survivor, whose pages the spar
accumulator needs (R127); with two lost the survivors, and the lost members' LBAs become unrecoverable (Table 05.8). -/
def readCourse (s : State) (src dst c : Nat) : Option State :=
  let th := thatch s src
  let pages := List.range (s.prof.planes * s.prof.zoneBits)
  let lost := (th.members.zipIdx.filter (·.1.lost)).map (·.2)
  let live := th.members.zipIdx.filter fun m => !m.1.lost && (!lost.isEmpty || m.2 != sparPos th.width c)
  let waits := !lost.isEmpty && live.any fun m => !memberUp s m.1
  if waits then none
  else
    let s := if lost.length < 2 then s
      else forEach pages (fun pg s => relocUnreadable s th c (lost.headD 0) pg) s
    live.foldl (fun acc m => pages.foldl (fun acc pg => relocPage src dst m.1 c m.2 pg acc) acc) (some s)

/-- Slots of a course of a conventional thatch that hold valid granules. -/
def validSlots (s : State) (th : ThatchSt) (c : Nat) : List Nat :=
  let cu := courseUnits s.prof 16
  ((List.range cu).map (c * cu + ·)).filter fun i => ((th.granules[i]?).getD none).isSome

/-- Book the read of the page that holds a slot of a conventional source; a page that two lost members leave unreadable is given up
(Table 05.8). -/
def readGranulePage (src dst : Nat) (acc : Option State) (off : Nat) : Option State :=
  acc.bind fun s =>
    let th := thatch s src
    let pl := place s.prof 16 off
    match th.members[pl.pos]? with
    | none => some s
    | some m =>
      if m.lost && th.members.zipIdx.any (fun e => e.1.lost && e.2 != pl.pos) then
        some (relocUnreadable s th pl.course pl.pos pl.page)
      else relocPage src dst m pl.course pl.pos pl.page (some s)

/-- Course of a target that is read again for a splice (R114, R128): from the zone's source, or for each granule from the thatch that
still maps it. -/
def rereadCourse (s : State) (dst c : Nat) : State :=
  let th := thatch s dst
  let cu := courseUnits s.prof th.width
  let step (s : State) (upto : Nat) : State :=
    updThatch s dst fun x => { x with reread := if c + 1 < upto then some (c + 1) else none }
  if relocReads s dst then s
  else match th.kind with
    | .target src => match relocOf s dst with
      | some r => withBufs s dst c cu fun s => (readCourse s src dst c).map (step · r.course)
      | none => s
    | _ =>
      let at' := ((List.range cu).map (c * cu + ·)).filterMap fun i =>
        ((th.granules[i]?).getD none).bind fun g => (tblFind? g s.zns.conv).bind fun l => if l.1 = dst then none else some (l.1, l.2 / 4 * 4)
      withBufs s dst c at'.length fun s =>
        (at'.eraseDups.foldl (fun acc l => readGranulePage l.1 dst acc l.2) (some s)).map
          (step · (ceilDiv th.granules.length (max 1 cu)))

/-- Go on with the copy of a zone's thatch: the next course, once the reads of the one before have ended. -/
def copyCourse (s : State) (r : Relocation) : State :=
  match lastCourse s (thatch s r.dst) with
  | none => s
  | some e =>
    if e < r.course || relocReads s r.dst then s
    else withBufs s r.dst r.course (courseUnits s.prof (thatch s r.src).width) fun s =>
      (readCourse s r.src r.dst r.course).map fun s =>
        { s with fl := { s.fl with relocations := s.fl.relocations.map fun x =>
                           if x = r then { x with course := x.course + 1 } else x } }

/-! ### Relocation of zones: orders 3, 4 and 6 (R124, R127) -/

/-- Start the copy of a zone's thatch into a new thatch of the same width (R124, R127), bound by choose_bay with the zone's
hints; the zone's own use of its set is not counted against it (DEDUCED, log entry 38). -/
def startZoneCopy (s : State) (t order : Nat) : State :=
  let th := thatch s t
  let z := zone s th.nsid th.zone
  match nsOf s th.nsid with
  | none => s
  | some ns =>
    let free := updZone s th.nsid th.zone fun y => { y with thatch := none }
    match chooseBay free ns z th.width with
    | none => retryLater s t order
    | some (k, b) => match bindThatch s b th.width k (.target t) th.nsid th.zone (generationOf s th.nsid) with
      | none => retryLater s t order
      | some (s, dst) =>
        let r : Relocation := { src := t, dst := dst, course := 0, order := order, abandoned := false, past := [] }
        let s := { s with fl := { s.fl with relocations := s.fl.relocations ++ [r] } }
        let s := updThatch s t fun x => { x with retryAt := none }
        if order = 4 then updZone s th.nsid th.zone fun y => { y with reroofing := true } else s

/-- Order in which zones are reroofed (R127): descending read heat, descending lifetime class, ascending zone number. -/
def reroofBefore (a b : (Nat × Nat) × ZoneSt) : Bool :=
  decide (heat b.2 < heat a.2) || (heat a.2 == heat b.2 && (decide (lifetime b.2 < lifetime a.2) ||
    (lifetime a.2 == lifetime b.2 && decide (a.1.2 ≤ b.1.2))))

/-- Zones to reroof: Full in substate 0x05, or Read Only with courses still readable (Table 05.8), whose lifetime class is
not skipped. -/
def reroofList (s : State) : List ((Nat × Nat) × ZoneSt) :=
  ((zoneList s).filter fun e => (e.2.st == .full || e.2.st == .readOnly) && e.2.memberLost && !e.2.reroofing &&
    !(decide (1 ≤ lifetime e.2) && decide (lifetime e.2 ≤ s.prof.reroofSkipClass)) &&
    (match e.2.thatch with
      | some t => !relocating s t && (thatch s t).retryAt.all (· ≤ opUs s)
      | none => false)).mergeSort reroofBefore

/-! ### Conventional reclaim: orders 5, 7 and 8 (R121 to R123) -/

/-- The open relocation thatch, opened where there is none (R122). -/
def relocTarget (s : State) : Option (State × Nat) :=
  match s.fl.thatches.find? fun e => e.2.kind == .convReloc with
  | some e => some (s, e.1)
  | none => openConv s .convReloc

/-- Start relocating a conventional thatch (R122, R124); one without valid granules is free at once. -/
def startConvCopy (s : State) (t order : Nat) : State :=
  if validCount (thatch s t) = 0 then releaseThatch s t
  else match relocTarget s with
  | none => retryLater s t order
  | some (s, dst) =>
    let r : Relocation := { src := t, dst := dst, course := 0, order := order, abandoned := false, past := [] }
    { s with fl := { s.fl with relocations := s.fl.relocations ++ [r] } }

/-- A waiting command of class RECLAIM_CLASS comes before foreground reclaim at a pool, or one of a more urgent class waits
there (R91, R123). -/
def reclaimYields (s : State) (d : Draw) : Bool :=
  let mine := sumNat ((s.adm.draws.filter fun e => e.pool == d.pool && e.bay == d.bay && e.fn == 65535).map (·.drawn))
  (waitersOn s d).any fun w => decide (w.cls < s.prof.reclaimClass) ||
    (w.cls == s.prof.reclaimClass &&
      decide (drawnBy s d w.fn w.cls w.write * s.prof.reclaimWeight < mine * weightOf s w.fn w.cls w.write))

/-- Foreground reclaim draws slack for its reads and its programs where the pools hold it (R123). -/
def drawReclaim (s : State) (b dst pages units : Nat) : State :=
  let w := (baySet s 0).promised
  let draws : List Draw :=
    [⟨0, b, pages * pageCost s.prof * mil⟩, ⟨0, dst, writeDieM s.prof w (units * 4096)⟩,
      ⟨2, 0, pages * (s.prof.tokSense * s.prof.tR * 1000 + s.prof.tokXfer * (720 + cwNs s.prof * 4)) * (mil / 1000) +
        writePowerM s.prof w (units * 4096)⟩]
  if draws.any fun d => reclaimYields s d || decide (poolLevel s d < d.amount) then s
  else forEach draws (fun d s =>
    let a := s.adm
    let mine : List SlackDraw := [⟨d.pool, d.bay, 65535, s.prof.reclaimClass, true, d.amount⟩]
    if d.pool = 0 then
      { s with adm := { a with dieSlack := tblSet d.bay (dieSlackLevel s d.bay - d.amount) a.dieSlack, draws := a.draws ++ mine } }
    else { s with adm := { a with powerSlack := a.powerSlack - d.amount, draws := a.draws ++ mine } }) s

/-- Foreground reclaim runs: F is at most CONV_FG_MARK (R123). -/
def foreground (s : State) : Bool := decide (convFree s ≤ s.prof.convFgMark)

/-- Book the reads of the next course of a conventional relocation and give its valid granules slots of the target; a full
target is closed, and the copy goes on in a new one. -/
def copyGranules (s : State) (r : Relocation) : State :=
  let th := thatch s r.src
  let cu := courseUnits s.prof 16
  let slots := validSlots s th r.course
  let dst := thatch s r.dst
  let next (s : State) (f : Relocation → Relocation) : State :=
    { s with fl := { s.fl with relocations := s.fl.relocations.map fun x => if x = r then f x else x } }
  if th.granules.length ≤ r.course * cu || relocReads s r.dst then s
  else if dst.kind != .convReloc || decide (convSlots s < dst.granules.length + slots.length) then
    let s := if dst.kind == .convReloc then closeConv s r.dst else s
    match relocTarget s with
    | some (s, t) => next s fun x => { x with dst := t, past := x.past ++ [r.dst] }
    | none => s
  else
    let pages := (slots.map fun i => i / 4 * 4).eraseDups
    withBufs s r.dst ((dst.granules.length + slots.length - 1) / max 1 cu) slots.length fun s =>
      (pages.foldl (readGranulePage r.src r.dst) (some s)).map fun s =>
        let s := if r.order = 5 then drawReclaim s th.bay dst.bay pages.length slots.length else s
        let s := updThatch s r.dst fun x => { x with granules := x.granules ++ slots.map fun i => (th.granules[i]?).getD none }
        next s fun x => { x with course := x.course + 1 }

/-! ### Underlay (R191 to R193) -/

/-- Idle time of a zone in µs. -/
def zoneIdle (s : State) (z : ZoneSt) : Nat := now s - z.lastWrite

/-- Unsettled units of a zone that are in both Eaves copies. -/
def zoneEaves (s : State) (nsid zi : Nat) : List EavesUnit :=
  s.eav.units.filter fun e => e.nsid == nsid && e.unit / zoneUnits == zi && !e.ended && !e.settled && e.inA && e.inB

/-- The unreserved part of E_eff has less than EAVES_LOW_MARK free (R191). -/
def eavesLow (s : State) : Bool := decide (unreserved s - sharedUsed s < s.prof.eavesLowMark * 67108864)

/-- Zones that could move to the Underlay: active, with data in the Eaves Buffer, and not there yet. -/
def movableZones (s : State) : List ((Nat × Nat) × ZoneSt) :=
  (zoneList s).filter fun e => e.2.st.isActive && !e.2.underlay && e.2.thatch.isSome && !(zoneEaves s e.1.1 e.1.2).isEmpty &&
    !s.eav.underlayMoves.any fun m => m.nsid == e.1.1 && m.zone == e.1.2

/-- A zone is due for its Underlay move (R191, R396): Battened entry, idle for UNDERLAY_IDLE, or the longest idle of those idle for 100 ms while
Eaves space is low. -/
def underlayDue (s : State) (e : (Nat × Nat) × ZoneSt) : Bool :=
  s.bat.entryAt.isSome || decide (s.prof.underlayIdle * 1000 ≤ zoneIdle s e.2) ||
    (eavesLow s && decide (100000 ≤ zoneIdle s e.2) && (movableZones s).all fun x => decide (e.2.lastWrite ≤ x.2.lastWrite))

/-- The writing block of a die's Underlay. -/
def underlayWriting (s : State) (d : DieNo) : Option Nat :=
  match tblFind? d s.eav.underlayBlock with
  | some k => some k
  | none => (((die s d).blocks.filter (·.2.use == .underlay)).map (·.1)).head?

/-- Book one pSLC program with its data on a block of a die. -/
def slcProgram (s : State) (d : DieNo) (k wl : Nat) (p : Purpose) : Option State :=
  bookProgram s d (now s + 2) s.prof.tProgSlc s.prof.tokProgSlc s.prof.planes .slcProgram false
    { descDefault with opcode := 0x13, block := k, wordline := wl, purpose := p }

/-- Book the reads or programs of a compaction that find a place now. -/
def bookEach (s : State) (l : List Nat) (f : State → Nat → Option State) : State × List Nat :=
  l.foldl (fun acc i => match f acc.1 i with
    | some s => (s, acc.2)
    | none => (acc.1, acc.2 ++ [i])) (s, [])

/-- The yealm is read into staging SRAM in the background. -/
def readYealm (c : Compaction) (s : State) (i : Nat) : Option State :=
  (c.live[i]?).bind fun y =>
    (bookOp s c.die (now s + 2) s.prof.tRSlc s.prof.tokSense .readGroup 0 false
      { descDefault with opcode := 0x02, block := y.block, wordline := y.wl, purpose := .compact c.die c.dst i }).map fun s =>
      chargeBackground s (senseEnergy s.prof true 4)

/-- Log a yealm, whose units leave the older yealms of the die. -/
def logYealm (s : State) (y : UnderlayYealm) : State :=
  let old (x : UnderlayYealm) : UnderlayYealm :=
    if x.die == y.die && x.nsid == y.nsid then { x with units := x.units.filter fun u => !y.units.contains u } else x
  { s with eav := { s.eav with underlayLog := s.eav.underlayLog.map old ++ [y] } }

/-- The yealm is programmed into the compaction's block. -/
def putYealm (c : Compaction) (s : State) (i : Nat) : Option State :=
  (c.live[i]?).bind fun y =>
    let wl := nextWl s c.die c.dst
    (slcProgram s c.die c.dst wl (.compact c.die c.dst i)).map fun s => logYealm s { y with block := c.dst, wl := wl }

/-- Reads or programs of a compaction are outstanding. -/
def compacting (s : State) (c : Compaction) : Bool :=
  s.fl.descs.any fun d => match d.purpose with
    | .compact a b _ => a == c.die && b == c.dst
    | _ => false

/-- Start a compaction when a die's writing block is full (R193): of the live yealms of its other block. -/
def startCompaction (s : State) (d : DieNo) : State :=
  match underlayWriting s d, s.eav.compactions.any (·.die == d) with
  | some k, false =>
    match (((die s d).blocks.filter fun b => b.2.use == .underlay && b.1 != k).map (·.1)).head? with
    | none => s
    | some o =>
      if nextWl s d k < s.prof.wordlines then s
      else
        let live := s.eav.underlayLog.filter fun y => y.die == d && y.block == o && yealmLive s y
        let ix := List.range live.length
        { s with eav := { s.eav with compactions := s.eav.compactions ++
                            [{ die := d, src := o, dst := o, live := live, unread := ix, wiped := false, unput := ix }] } }
  | _, _ => s

/-- The data of a compaction is in staging SRAM: its block is erased, or where it is worn replaced (R113), and becomes the writing
block. -/
def wipeBlock (s : State) (c : Compaction) : State :=
  let s := { s with eav := { s.eav with underlayLog := s.eav.underlayLog.filter fun y => !(y.die == c.die && y.block == c.src),
                                        underlayBlock := tblSet c.die c.dst s.eav.underlayBlock } }
  eraseSlc (updCompact s c.die c.dst fun x => { x with wiped := true }) c.die c.dst

/-- Go on with a compaction (R193): reads, then the erase, then programs; each decision books what finds a place. -/
def goOnCompaction (s : State) (c : Compaction) : State :=
  if !dieUp s c.die then s
  else if !c.unread.isEmpty then
    let r := bookEach s c.unread (readYealm c)
    updCompact r.1 c.die c.dst fun x => { x with unread := r.2 }
  else if compacting s c then s
  else if !c.wiped then wipeBlock s c
  else if c.unput.isEmpty then { s with eav := { s.eav with compactions := s.eav.compactions.erase c } }
  else if !(block s c.die c.dst).erased && nextWl s c.die c.dst = 0 then (if erasing s c.die c.dst then s else eraseSlc s c.die c.dst)
  else
    let r := bookEach s c.unput (putYealm c)
    updCompact r.1 c.die c.dst fun x => { x with unput := r.2 }

/-- Compactions of all Underlay logs (R193). -/
def compactUnderlay (s : State) : State :=
  let s := forEach (s.eav.underlayLog.map (·.die)).eraseDups (fun d s => startCompaction s d) s
  forEach s.eav.compactions (fun c s => goOnCompaction s c) s

/-- Book one pSLC program of an Underlay copy on a die (R191): none while its writing block is full or not erased, or its log is being
compacted. -/
def underlayProgram (s : State) (d : DieNo) (nsid zi : Nat) (us : List Nat) (two : Bool) : Option State :=
  match underlayWriting s d with
  | none => none
  | some k =>
    let wl := nextWl s d k
    if s.prof.wordlines ≤ wl || (wl = 0 && !(block s d k).erased) || s.eav.compactions.any (·.die == d) then none
    else (slcProgram s d k wl (.underlay nsid zi two)).map fun s =>
      let s := logYealm s { die := d, block := k, wl := wl, nsid := nsid, zone := zi, units := us }
      { s with eav := { s.eav with underlayBlock := tblSet d k s.eav.underlayBlock } }

/-- Move one member's partial yealm of a course to the Underlay: its units as pSLC yealms on the dies at its position + 1 and + 2. -/
def moveYealm (s : State) (nsid zi : Nat) (m : MemberSt) (c : Nat) (us : List Nat) : Option State :=
  let one := underlayDie m.die 1
  let two := underlayDie m.die 2
  if !dieUp s one || !dieUp s two then none
  else
    let e : UnderlayEntry := { nsid := nsid, zone := zi, course := c, units := us, one := one, two := two }
    let s := { s with eav := { s.eav with underlay := s.eav.underlay.filter (fun x =>
                                 !(x.nsid == nsid && x.zone == zi && x.course == c && x.one == one)) ++ [e] } }
    (piecesOf (pslcYealm s.prof / 4096) us).foldl (fun acc p => acc.bind fun s =>
      (underlayProgram s one nsid zi p false).bind fun s => underlayProgram s two nsid zi p true) (some s)

/-- Move a zone's partial yealms to the Underlay (R191), member by member and course by course, through staging SRAM of pool 2 (R302). -/
def moveUnderlay (s : State) (nsid zi : Nat) : Option State :=
  match (zone s nsid zi).thatch with
  | none => none
  | some t =>
    let th := thatch s t
    let us := zoneEaves s nsid zi
    let at' (e : EavesUnit) : Nat × Nat :=
      let pl := place s.prof th.width (e.unit % zoneUnits)
      (pl.pos, pl.course)
    let step (acc : Option State) (k : Nat × Nat) : Option State := acc.bind fun s => (th.members[k.1]?).bind fun m =>
      moveYealm s nsid zi m k.2 ((us.filter fun e => at' e == k).map (·.unit))
    (allocBufs s 2 3 us.length).bind fun s => ((us.map at').eraseDups.foldl step (some s)).map fun s =>
      { s with eav := { s.eav with underlayMoves := s.eav.underlayMoves ++
                          [{ nsid := nsid, zone := zi, seqs := us.map (·.seq), begun := now s, bufs := us.length }] } }

/-- A due Underlay move (R191), while the write window is open. -/
def tryUnderlay (s : State) (nsid zi : Nat) : State :=
  match (movableZones s).find? fun e => e.1 == (nsid, zi) with
  | some e =>
    if underlayDue s e && s.fl.window.isOpen then
      (match moveUnderlay s nsid zi with
        | some s => s
        | none => if (allocBufs s 2 3 (zoneEaves s nsid zi).length).isNone then poolFailure s 2 else s)
    else s
  | none => s

/-- Live Underlay bytes of a die. -/
def underlayLive (s : State) (d : DieNo) : Nat :=
  pslcYealm s.prof * (countP (fun y => y.die == d && yealmLive s y) s.eav.underlayLog +
    sumNat ((s.eav.compactions.filter (·.die == d)).map (·.unput.length)))

/-- Some die's Underlay is more than UNDERLAY_FULL_MARK live (R193). -/
def underlayFull (s : State) : Bool :=
  ((s.eav.underlayLog.map (·.die)).eraseDups).any fun d =>
    decide (s.prof.underlayFullMark * (2 * pslcBlock s.prof) < 100 * underlayLive s d)

/-- Finish the open zone that has been idle longest while an Underlay is too full (R193). -/
def relieveUnderlay (s : State) : State :=
  if !underlayFull s then s
  else match ((zoneList s).filter fun e => e.2.st.isOpen).foldl (fun best e =>
      match best with
      | none => some e
      | some b => if e.2.lastWrite < b.2.lastWrite then some e else some b) (none : Option ((Nat × Nat) × ZoneSt)) with
    | some e => finishZone s e.1.1 e.1.2 true
    | none => s

/-! ### The decision -/

/-- Drop abandoned copies (Table 05.8): the target's blocks return to the free pool. -/
def dropAbandoned (s : State) : State :=
  forEach (s.fl.relocations.filter (·.abandoned)) (fun r s =>
    let s := stopReloc s r.dst
    match (thatch s r.dst).kind with
    | .target _ => releaseThatch (cancelThatch s r.dst) r.dst
    | _ => s) s

/-- Complete conventional data that found no open thatch takes its slot once there is room (R55, R122). -/
def mapWaiting (s : State) : State :=
  let mine (e : EavesUnit) : Bool :=
    e.zone.isNone && !e.ended && !e.settled && (tblFind? (e.nsid, e.unit) s.zns.conv).isNone &&
      !s.adm.cmds.any fun c => c.accepted && e.cmd == some (c.fn, c.sqid, c.cid) && e.order == c.order
  forEach (s.eav.units.filter mine) (fun e s => convMap s e.nsid e.unit) s

/-- A thatch holds data of an earlier key generation of a namespace whose rollover runs (R262 step 3). -/
def oldGeneration (s : State) (th : ThatchSt) : Bool :=
  match th.kind with
  | .zone => s.sec.rollovers.any (·.1 == th.nsid) && th.generation != generationOf s th.nsid
  | .convClosed => th.granules.any fun g => match g with
    | some (n, u) => s.sec.rollovers.any (·.1 == n) && (mediaOf s n u).any (fun m => m.key != (mediaKeyFor s n none).2)
    | none => false
  | _ => false

/-- A thatch that a refresh can take on (R124): a conventional one, of which a closed one has settled, or one that a zone with settled
data is bound to. -/
def refreshable (s : State) (e : Nat × ThatchSt) : Bool :=
  !e.2.released && !relocating s e.1 && e.2.retryAt.all (· ≤ opUs s) && (match e.2.kind with
    | .zone => decide (0 < e.2.settled) && (zone s e.2.nsid e.2.zone).thatch == some e.1
    | .convClosed => convSettled s e.2
    | .convHost => true
    | .convReloc => true
    | _ => false)

/-- The first thatch that is due for a refresh of an order: flagged (3), or by age or key rollover (6). -/
def refreshDue (s : State) (order : Nat) : Option (Nat × ThatchSt) :=
  s.fl.thatches.find? fun e =>
    (if order = 3 then e.2.flagged else decide (s.prof.retentionHours ≤ ageHours s e.2) || oldGeneration s e.2) && refreshable s e

/-- Start a refresh of a thatch (R124); an open conventional one is closed, and relocated once it has settled. -/
def startRefresh (s : State) (t order : Nat) : State :=
  if !refreshable s (t, thatch s t) then s
  else match (thatch s t).kind with
    | .zone => startZoneCopy s t order
    | .convHost => closeConv s t
    | .convReloc => closeConv s t
    | _ => startConvCopy s t order

/-- A conventional relocation still reads its source; one that only waits for its last courses to settle leaves room for the next
victim, whose granules fill them (R122). -/
def convBusy (s : State) : Bool := s.fl.relocations.any fun r =>
  !r.abandoned && isConv (thatch s r.src).kind && decide (r.course * courseUnits s.prof 16 < (thatch s r.src).granules.length)

/-- Go on with the running copies of some orders; what a splice needs read again comes first, in a closed target too (R114, R128). -/
def runCopies (s : State) (p : Nat → Bool) : State :=
  forEach (s.fl.relocations.filter fun r => p r.order && !r.abandoned) (fun r s =>
    match (r.dst :: r.past).findSome? fun t => (thatch s t).reread.map fun c => (t, c) with
    | some (t, c) => rereadCourse s t c
    | none => match (thatch s r.src).kind with
      | .zone => copyCourse s r
      | _ => copyGranules s r) s

/-- Background reclaim becomes foreground reclaim as F falls (R123). -/
def promoteReclaim (s : State) : State :=
  if foreground s then
    { s with fl := { s.fl with relocations := s.fl.relocations.map fun r => if r.order = 7 then { r with order := 5 } else r } }
  else s

/-- Warm load of R339: pSLC senses of system-area blocks on the dies of packages below 2 °C, within WARM_TOKENS tokens. -/
def warmSenses (s : State) : State :=
  if !s.thm.warmLoad then s
  else forEach ((populatedDies s.prof).filter fun d => dieUp s d && decide (pkgTemp s (diePkg d) < 2)) (fun d s =>
    let held := sumNat ((s.fl.descs.filter fun x => x.purpose == .control && x.opcode == 2).map (·.tokens))
    if s.prof.warmTokens < held + s.prof.tokSense || s.fl.descs.any (fun x => descDie x == d) then s
    else
      let k := (((die s d).blocks.find? fun b => b.2.use == .system).map (·.1)).getD 0
      (bookOp s d (now s + 2) s.prof.tRSlc s.prof.tokSense .readGroup 0 false
        { descDefault with opcode := 0x02, block := k, purpose := .control }).getD s) s

/-- Orders 4 to 8 of Table 05.3, which stop at Hot (R333). -/
def decideLower (s : State) : State :=
  let s := runCopies s (· == 4)
  let s := match reroofList s with
    | e :: _ => match e.2.thatch with
      | some t => startZoneCopy s t 4
      | none => s
    | [] => s
  let s := runCopies (promoteReclaim s) (· == 5)
  let s := if s.zns.conv.isEmpty || convBusy s || !foreground s then s
    else match bestVictim s fun _ => true with
      | some t => startConvCopy s t 5
      | none => s
  let s := runCopies s (· == 6)
  let s := match refreshDue s 6 with
    | some e => startRefresh s e.1 6
    | none => s
  let s := runCopies s (· == 7)
  let s := if s.zns.conv.isEmpty || convBusy s || decide (s.prof.convBgMark ≤ convFree s) then s
    else match bestVictim s fun _ => true with
      | some t => startConvCopy s t 7
      | none => s
  let s := runCopies s (· == 8)
  if convBusy s || !(s.fl.thatches.any fun e => e.2.kind == .convClosed) then s
  else match bestVictim s fun th => decide (0 < wearScore s th) with
    | some t => startConvCopy s t 8
    | none => s

/-- One decision (R119): the warm load, then the kinds of work in the order of Table 05.3, in each order what runs before what starts;
Battened entry leaves only order 1 (R396). -/
def decideWork (s : State) : State :=
  let s := mapWaiting (dropAbandoned (warmSenses (sweepThatches s)))
  let s := eraseHalf (eraseHalf s 0) 1
  let s := relieveUnderlay (compactUnderlay s)
  let s := forEach (movableZones s) (fun e s => tryUnderlay s e.1.1 e.1.2) s
  if s.bat.entryAt.isSome then s else
  let s := forEach (List.range 32) (fun c s => if chRunning s c then bookReturned s c else s) s
  let s := forEach (baysOf s.prof) (fun b s => keepReady s b) s
  let s := forEach s.fl.recovery (fun e s => if e.run.isSome then goOnPage s e.nsid e.page else s) s
  let s := runCopies s (· == 3)
  let s := match refreshDue s 3 with
    | some e => startRefresh s e.1 3
    | none => s
  if s.thm.step == .hot || s.thm.step == .critical then s else decideLower s

/-- BACKGROUND_WORK_DECISION (R119); new values of the media record count from here on (R132). -/
def execBackgroundWorkDecision (s : State) : Host.Outcome State Fault Refusal :=
  .next (if bgRuns s then decideWork (takeDue s 5) else s)

/-- RETENTION_AGE_REFRESH (R124): a thatch whose age has reached RETENTION_HOURS is refreshed. -/
def execRetentionAgeRefresh (t : Nat) (s : State) : Host.Outcome State Fault Refusal :=
  .next (match tblFind? t s.fl.thatches with
    | some th => if bgRuns s && decide (s.prof.retentionHours ≤ ageHours s th) && th.retryAt.isNone then
        startRefresh s t 6 else s
    | none => s)

/-- REFRESH_RETRY_HOURLY (R124): a refresh for which no thatch existed is tried again after an hour of operating time. -/
def execRefreshRetryHourly (t : Nat) (s : State) : Host.Outcome State Fault Refusal :=
  .next (match tblFind? t s.fl.thatches with
    | some th => match th.retryAt with
      | some at' =>
        if bgRuns s && decide (at' ≤ opUs s) && !relocating s t then
          startRefresh (updThatch s t fun x => { x with retryAt := none }) t (if th.flagged then 3 else 6)
        else s
      | none => s
    | none => s)

/-- UNDERLAY_MOVE (R191). -/
def execUnderlayMove (nsid zi : Nat) (s : State) : Host.Outcome State Fault Refusal :=
  .next (if bgRuns s then tryUnderlay s nsid zi else s)

/-- JOURNAL_CHECKPOINT (R187): the journal tail is checkpointed to the system area when it reaches 48 MiB. -/
def execJournalCheckpoint (s : State) : Host.Outcome State Fault Refusal :=
  .next (if bgRuns s && decide (50331648 ≤ s.eav.journalTail) then { s with eav := { s.eav with journalTail := 0 } } else s)

/-- Dies in service of the population (R131): neither retired nor out of service, nor in a package that is. -/
def serviceDies (s : State) : List (Nat × DieSt) :=
  s.fl.dies.filter fun e => diePopulated s.prof e.1 && !e.2.retired && e.2.causeOut.isNone && !(pkg s (diePkg e.1)).out

/-- Sum and number of the erase counts of a die's zone-mode blocks in service, spare blocks included, used or not. -/
def zoneErases (x : DieSt) : Nat × Nat :=
  let zs := x.blocks.filter fun b => match b.2.use with
    | .system => false
    | .gutter _ => false
    | .underlay => false
    | .bad => false
    | _ => true
  let freshSpares := x.spareEnd - x.nextSpare - countP (fun e => decide (x.nextSpare ≤ e.1) && decide (e.1 < x.spareEnd)) x.blocks
  (sumNat (zs.map (·.2.erases)), zs.length + freshCount x + freshSpares)

/-- Mean erase count of a die, rounded down (Table 05.10). -/
def meanErases (x : DieSt) : Nat := (zoneErases x).1 / max 1 (zoneErases x).2

/-- Percentage Used (R131): floor of 100 m / PE_RATED, saturating at 255. -/
def percentUsed (s : State) : Nat :=
  (serviceDies s).foldl (fun a e =>
    let m := zoneErases e.2
    max a (min 255 (100 * m.1 / (max 1 m.2 * max 1 s.prof.peRated)))) 0

/-- Available Spare (R131). -/
def availableSpare (s : State) : Nat :=
  match minNat? ((serviceDies s).map fun e => spareCount e.2) with
  | some p => min 100 (100 * p / max 1 s.prof.spareReserve)
  | none => 100

/-- SMART_UPDATE (R131): the three fields follow the media. Available Spare below 10 sets Critical Warning bit 0, with an event; a set 0
that cannot build a full-width conventional thatch and a mean erase count at PE_RATED have their events (R129). -/
def execSmartUpdate (s : State) : Host.Outcome State Fault Refusal :=
  let spare := availableSpare s
  let s1 := { s with host := { s.host with smart := [percentUsed s, spare, 10] } }
  let s2 := if spare < 10 && !s.fl.spareLow then
      setWarning (recordEvent { s1 with fl := { s1.fl with spareLow := true } } 0x0051 2 0 3 (leBytes 2 0xFFFF ++ leBytes 4 spare)) 0
    else s1
  let s3 := wornRow s2 0 4 (s2.fl.geo.built && decide (0 < convThatches s2) && convBuildable s2 == 0)
  .next (forEach (serviceDies s3) (fun e s => wornRow s e.1 6 (decide (s.prof.peRated * max 1 (zoneErases e.2).2 ≤ (zoneErases e.2).1))) s3)

end Sys2Proof.Machine
end

