-- ==== Sys2Proof/Machine/Capacity.lean ====
section
/-! DEFINITION. Capacities computed again after a change: bays (R72), a function's charges (R69), promised widths (R57, R58,
R129), the Eaves Buffer (R187 to R190, R370, R373), flash power (R334), the link (R206). -/

namespace Sys2Proof.Machine

/-! ### Bays and contracts -/

/-- Event 0x0051 (Table 19.2). -/
def capacityEvent (s : State) (sev bay cap com : Nat) : State :=
  recordEvent s 0x0051 sev 4 bay (leBytes 2 bay ++ leBytes 8 cap ++ leBytes 8 com ++ leBytes 4 (s.eav.eEff / 1048576))

/-- Set or clear the overbooked flag of a bay for its capacity (R72). -/
def flagBay (b : Nat) (s : State) : State :=
  let com := committedDie s s.adm.contracts b / mil
  let cap := bayCapacity s b
  let was := s.adm.overbooked.contains b
  if cap < com then
    if was then s
    else capacityEvent { s with adm := { s.adm with overbooked := s.adm.overbooked ++ [b] } } 3 b cap com
  else { s with adm := { s.adm with overbooked := s.adm.overbooked.filter (· != b) } }

/-- Functions that hold a contract. -/
def contractFns (s : State) : List Nat := (s.adm.contracts.map (·.fn)).eraseDups

/-- Follow the committed charges: the overbooked flag of every bay, then the meters of every function (R69, R72). -/
def recharge (s : State) : State := forEach (contractFns s) (fun f s => rebuildMeters s f) (forEach (baysOf s.prof) flagBay s)

/-- Recompute every bay's capacity, the overbooked flags and the meters (R72). -/
def recomputeBays (s : State) : State :=
  let bays := baysOf s.prof
  let s := { s with adm := { s.adm with bayCapacity := bays.map fun b => (b, computeBayCapacity s b) } }
  recharge s

/-- CAPACITY_RECOMPUTE (R72). -/
def execCapacityRecompute (s : State) : Host.Outcome State Fault Refusal := .next (recomputeBays s)

/-- CONTRACT_CHARGE_RECOMPUTE (R69): the charges of one function, the flags of the bays, and the meters of every function, whose
scaling follows the flags (R72). -/
def execContractChargeRecompute (fn : Nat) (s : State) : Host.Outcome State Fault Refusal :=
  .next (rebuildMeters (recharge s) fn)

/-! ### Promised widths (R57, R58) -/

/-- Set Reset Zone Recommended on the Empty zones of a namespace that report more than the promise (R58). -/
def recommendResets (s : State) (ns : NsSt) : State :=
  let cap := promisedCap s ns
  forEach (List.range (nsZones ns)) (fun z s =>
    let x := zone s ns.nsid z
    if x.st == .empty && !x.rzr && decide (cap < x.cap) then
      zoneChanged (updZone s ns.nsid z fun y => { y with rzr := true }) ns.nsid z
    else s) s

/-- Recompute W_s of a set (R57); where no width from MIN_WIDTH to 16 meets the demand, MIN_WIDTH is held, Critical Warning
bit 2 is set and an event is recorded (Table 05.9; its code is a DESIGN CHOICE, log entry 37). A change of W_s recomputes the charges of the contracts (R69). -/
def recomputeWidth (s : State) (k : Nat) : State :=
  if !setDefined s k then s
  else
    let old := baySet s k
    let w := promisedWidth? s k
    let new := w.getD s.prof.minWidth
    let s := { s with zns := { s.zns with sets := tblSet k { old with promised := new } s.zns.sets } }
    let s := if w.isNone then
        capacityEvent (setWarning s 2) 2 0xFFFF (setCap s k s.prof.minWidth) (setDemand s k s.prof.minWidth)
      else s
    let s := if new = old.promised then s else recharge s
    if new < old.promised then
      forEach (s.zns.namespaces.filter fun ns => ns.zoned && ns.sets.any (·.1 == k)) (fun ns s => recommendResets s ns) s
    else s

/-- PROMISED_WIDTH_RECOMPUTE (R57). -/
def execPromisedWidthRecompute (set : Nat) (s : State) : Host.Outcome State Fault Refusal := .next (recomputeWidth s set)

/-! ### The store (R370) and the dump (R187, R189): volts, watts, joules, seconds as exact fractions -/

/-- Power of the flash tokens: 25 mW each. -/
def tokenWatts (n : Nat) : Rat := (n : Rat) * 25 / 1000

/-- P_STBY in W: N × FLASH_STBY_UA × FLASH_VCC_MAX. -/
def pStby (p : Profile) : Rat := (population p * p.flashStbyUa * p.flashVccMax : Nat) / 1000000000

/-- P_DRAM_DUMP and P_DRAM_ACT in W, from units of 0.25 W. -/
def pDump (p : Profile) : Rat := (p.pDramDump : Rat) / 4
def pAct (p : Profile) : Rat := (p.pDramAct : Rat) / 4

/-- HU_EFFICIENCY as a fraction. -/
def huEff (p : Profile) : Rat := (p.huEfficiency : Rat) / 100

/-- P_dmp (R370) in W. -/
def pDmp (p : Profile) : Rat := (12 + pDump p + pStby p + tokenWatts p.dumpTokenBudget) / huEff p

/-- STORE_FLOOR in V. -/
def storeFloorV (p : Profile) : Rat := (p.storeFloor : Rat) / 10

/-- V_F (R370) in V. -/
def vF (s : State) : Rat :=
  storeFloorV s.prof + (s.sup.esrMohm : Rat) / 1000 * pDmp s.prof / storeFloorV s.prof

/-- C in F. -/
def storeC (s : State) : Rat := (s.sup.capUf : Rat) / 1000000

/-- Store voltage in V that E_eff counts on: V_S, or HU_TARGET − AUDIT_DEPTH from step 1 of an audit to its end (R372). -/
def storeV (s : State) : Rat :=
  match s.sup.audit with
  | .idle => (s.sup.vs : Rat) / 1000
  | _ => ((s.prof.huTarget - s.prof.auditDepth : Nat) : Rat) / 10

/-- E_meas (R370) in J. -/
def eMeas (s : State) : Rat :=
  let v := min (storeV s) ((s.prof.huTarget : Rat) / 10)
  if storeV s ≤ vF s || v ≤ vF s then 0 else storeC s * (v * v - vF s * vF s) / 2

/-- E_dir (R370) in J. -/
def eDir (p : Profile) : Rat := 2 / 1000 * (12 + pDump p + pStby p) / huEff p

/-- The largest millivolt figure whose square does not exceed a square in V², by halving; 65,535 at most. -/
def sqrtMv (v2 : Rat) : Nat :=
  let fits (k : Nat) : Bool := decide (((k * k : Nat) : Rat) / 1000000 ≤ v2)
  (List.range 16).foldl (fun a i => if fits (a + 2 ^ (15 - i)) then a + 2 ^ (15 - i) else a) 0

/-- V_LOW (R370) in mV; the top of the scale without a capacitance. -/
def vLow (s : State) : Nat :=
  if s.sup.capUf = 0 then 65535 else sqrtMv (vF s * vF s + 2 * eDir s.prof / storeC s)

/-- J of R187: 128 MiB. -/
abbrev journalBytes : Nat := 134217728

/-- DRAM channels Running. -/
def dramChannels (s : State) : Nat := (if notRunning s 6 then 0 else 1) + (if notRunning s 7 then 0 else 1)

/-- T_chan of R187 in s. -/
def tChan (p : Profile) (v : Nat) : Rat :=
  (v : Rat) / ((populatedChannels p * 16384 : Nat) : Rat) * (chunkNs p : Rat) / 1000000000

/-- T_die of R187 in s. -/
def tDie (p : Profile) (v : Nat) : Rat :=
  let par := min (population p) ((p.dumpTokenBudget - populatedChannels p * p.tokXfer) / max 1 p.tokProgSlc)
  (v : Rat) / (pslcYealm p : Rat) * (p.tProgSlc : Rat) / 1000000 / (par : Rat)

/-- T_dump of R187 in s with `n` DRAM channels. -/
def tDump (p : Profile) (n v : Nat) : Rat :=
  let tDram : Rat := (v : Rat) / ((n * eavesRate p * 1000000 : Nat) : Rat)
  1 / 10000 + max tDram (max (tChan p v) (tDie p v)) + (p.tProgSlc : Rat) / 1000000 + 2 / 1000

/-- E_req of R189 in J. -/
def eReq (p : Profile) (v : Nat) : Rat :=
  let lead := (26 + tokenWatts p.flashPowerBudget + pAct p) / 10000
  let run := (12 + pDump p + pStby p) * tDump p 2 v
  let prog := (v : Rat) / (pslcYealm p : Rat) * tokenWatts p.tokProgSlc * (p.tProgSlc : Rat) / 1000000
  let xfer := tokenWatts (populatedChannels p * p.tokXfer) * tChan p v
  (lead + run + prog + xfer) / huEff p

/-- A population that can dump: some die, some channel, tokens for one program beside the transfers. -/
def canDump (p : Profile) : Bool :=
  decide (0 < population p) && decide (0 < pslcYealm p) &&
    decide (p.tokProgSlc ≤ p.dumpTokenBudget - populatedChannels p * p.tokXfer) && decide (0 < p.huEfficiency)

/-- Largest multiple of 256 MiB up to 4 GiB that meets a test; 0 where none does. -/
def largestE (ok : Nat → Bool) : Nat := (((List.range 17).reverse.map (· * 268435456)).find? ok).getD 0

/-- E_eff that the time bound alone allows (Table 08.1). -/
def timeEff (p : Profile) : Nat :=
  largestE fun e => canDump p && decide (tDump p 2 (e + journalBytes) ≤ 80 / 1000)

/-- E_eff that the time bound and the energy condition allow (R188, R190). -/
def energyEff (s : State) : Nat :=
  largestE fun e => canDump s.prof && decide (tDump s.prof 2 (e + journalBytes) ≤ 80 / 1000) &&
    decide (2 * eReq s.prof (e + journalBytes) ≤ eMeas s)

/-- E_meas in whole mJ. -/
def eMeasMj (s : State) : Nat := (eMeas s * 1000).floor.toNat

/-- Recompute E_eff (R188), and report a store that holds it below the time bound (R373): source 309 and an event when that
begins, Critical Warning bit 4 while E_eff is 0 for it. -/
def recomputeEaves (s : State) : State :=
  let ready := s.eav.halves.contains .erased
  let e := if ready then energyEff s else 0
  let short := decide (energyEff s < timeEff s.prof)
  let was := s.eav.short
  let old := s.eav.eEff
  let s := { s with eav := { s.eav with eEff := e, short := short } }
  let s := if e != old && decide (e < totalReserved s) then capacityEvent s 3 0xFFFF e (totalReserved s) else s
  let s := if short && !was then
      capacityEvent (raiseFault s 309 (capOf 6 5 0 0 0)) 2 0xFFFF (eMeasMj s) (totalReserved s)
    else s
  if energyEff s = 0 then setWarning s 4
  else if s.host.criticalWarning.getLsbD 4 && decide (0 < e) then
    capacityEvent (clearWarning s 4) 2 0xFFFF (eMeasMj s) (totalReserved s)
  else s

/-- EAVES_EFFECTIVE_RECOMPUTE (R188). -/
def execEavesEffectiveRecompute (s : State) : Host.Outcome State Fault Refusal := .next (recomputeEaves s)

/-! ### Flash power and link -/

/-- Flash power capacity of Table 03.5 from the effective budget (R334). -/
def flashPowerCapacity (s : State) : Nat := (effectiveBudget s - s.prof.bgTokenReserve) * 1000000

/-- FLASH_POWER_CAPACITY_RECOMPUTE (R334). -/
def execFlashPowerCapacityRecompute (s : State) : Host.Outcome State Fault Refusal :=
  .next { s with adm := { s.adm with powerCapacity := flashPowerCapacity s } }

/-- Raw rate of a link speed code in units of 0.5 GT/s (DEDUCED, log entry 39). -/
def rawRate : Nat → Nat
  | 1 => 5
  | 2 => 10
  | 3 => 16
  | 4 => 32
  | 5 => 64
  | 6 => 128
  | _ => 0

/-- Link capacities at a rate and width (R206), in proportion to 64 GT/s on 8 lanes. -/
def setLink (s : State) (rate width : Nat) : State :=
  let x := rawRate rate * width
  { s with adm := { s.adm with linkCapacity := 56000000000 * x / 1024, linkCmds := 13900000 * x / 1024 },
           host := { s.host with rate := rate, width := width, linkBelowFull := !(rate == 6 && width == 8) } }

/-- A rate code and a width that a link can have (Table 09.1). -/
def linkLegal (rate width : Nat) : Bool := decide (1 ≤ rate) && decide (rate ≤ 6) && [1, 2, 4, 8].contains width

/-- FLIT mode is used at 64 GT/s, and at 32 and 16 GT/s when the partner supports it, which no command tells (free value, log entry 124). -/
def flitMode (s : State) (rate : Nat) : Bool := rate == 6 || ((rate == 4 || rate == 5) && fresh s 0 % 2 == 1)

/-- The link trains at the highest rate and width that both ends support, capped by MAX_SPEED and MAX_WIDTH (R205), in L0 and with the
clocks of SRIS; the capacities follow, with an event where the link is below full (R206). -/
def linkTo (s : State) (rate width : Nat) : State :=
  let r := min rate s.prof.maxSpeed
  let w := min width s.prof.maxWidth
  let s := { s with host := { s.host with linkUp := true, link := { s.host.link with power := .l0, flit := flitMode s r, sris := s.prof.sris == 1 } } }
  let s := tickFree (setLink s r w)
  if s.host.linkBelowFull then
    capacityEvent s (if linkShort s then 3 else 2) 0xFFFF s.adm.linkCapacity (committedBytes s.adm.contracts false)
  else s

/-- LINK_CHANGE (R205, R206): the partner directs the link to a rate code 1 to 6 and a width, or the link retrains after a Hot Reset or
DL_Down (R221). Any change records an event. -/
def execLinkChange (rate width : Nat) (s : State) : Host.Outcome State Fault Refusal :=
  .next (if !linkLegal rate width || !(s.host.linkUp || s.pins.perstN) || !isRunning s 1 || s.eav.powerLoss ||
      (s.host.linkUp && min rate s.prof.maxSpeed == s.host.rate && min width s.prof.maxWidth == s.host.width) then s
    else
      let s := linkTo s rate width
      if s.host.linkBelowFull then s
      else capacityEvent s (if linkShort s then 3 else 2) 0xFFFF s.adm.linkCapacity (committedBytes s.adm.contracts false))

end Sys2Proof.Machine
end

