-- ==== Sys2Proof/Machine/Power.lean ====
section
/-! DEFINITION. Power loss, the dump and the Gutter replay (R23, R194 to R202, R336, R366, R367, R374). The dump is one
state from Power Loss to DUMP_COMPLETE; its first 100 µs, up to the freeze, are one step (DESIGN CHOICE, log entry 41). -/

namespace Sys2Proof.Machine

/-! ### Phases -/

/-- Functions become ready at PHASE 5 (R390); the PF alone in form A of the restricted phase (R393). -/
def readyFns (s : State) : State :=
  if s.boot.phase = 5 then
    forEach (presentFns s) (fun f s => updFn s f fun x => { x with rdy := x.ccEn && x.online && !x.cfs }) s
  else if s.boot.phase = 7 && !s.boot.formB then updFn s 0 fun x => { x with rdy := x.ccEn }
  else s

/-- Enter a phase (R387, R392, R395), with event 0x0002 (severity 4 for PHASE 7); the LED blink of PHASE 7 starts off. -/
def enterPhase (s : State) (p reason : Nat) : State :=
  let r := if p = 7 then reason else 0
  let s := { s with boot := { s.boot with phase := p, reason := r, phaseAt := vecUpd s.boot.phaseAt p fun _ => some (now s) } }
  let s := recordEvent s 0x0002 (if p = 7 then 4 else 0) 0 0 (leBytes 1 p ++ leBytes 1 r)
  readyFns (refreshFaultLed (refreshAlive s))

/-! ### Islands -/

/-- Put every island except AON into a state. -/
def allIslands (s : State) (st : IslState) : State :=
  forEach ((List.range 41).map fun i => islIdOf (i + 1)) (fun id s => setIslandState s id st) s

/-- Cores that are not retired go to reset. -/
def coresToReset (keep : Nat) (cs : List CoreSt) : List CoreSt :=
  cs.zipIdx.map fun e => if e.1.st == .retired || e.2 == keep then e.1 else { e.1 with st := .inReset }

/-- The active core that carries the dump: the lowest-numbered one. -/
def dumpCore (s : State) : Nat := (s.flt.cores.findIdx? fun c => c.st == .active).getD s.flt.cores.length

/-- Trip record's bytes 0 to 31 (Table 15.4). -/
def tripBytes (s : State) : List Byte :=
  match s.thm.tripRec with
  | none => zeros 32
  | some r => leBytes 8 r.devTime ++ leBytes 5 r.opSeconds ++ leBytes 3 r.powerCycles ++ leBytes 1 r.sensor ++
      leBytes 1 (twos 8 r.temp) ++ leBytes 1 r.stepBefore ++ leBytes 1 r.outcome ++ leBytes 2 r.trips ++ zeros 10

/-- What follows the dump, or Power Loss where there is none to write: every island but AON is gated and PWR_SEQ_EN falls
(R366); a PWRDIS sequence opens the store path (Table 17.6); a trip drives THERMTRIP_N low with its outcome (Table 15.3). -/
def afterDump (s : State) (outcome : Nat) : State :=
  let s := allIslands s .gated
  let s := { s with eav := { s.eav with afterDump := true, dumpStart := none },
                    sup := { s.sup with seqEn := false, huEn := s.sup.huEn && !s.sup.pwrDis },
                    flt := { s.flt with cores := coresToReset 99 s.flt.cores, ridge := coresToReset 99 s.flt.ridge },
                    host := (linkDown s).host }
  if s.thm.tripped then
    { s with thm := { s.thm with thermtripN := false, tripRec := s.thm.tripRec.map fun r => { r with outcome := outcome } } }
  else s

/-! ### Power Loss -/

/-- There is unsettled data to dump: flash in service at PHASE 5, and no replay running (R200, Table 18.10). -/
def dumpDue (s : State) : Bool := s.fl.inService && s.boot.phase == 5 && !s.eav.replaying

/-- The unit belongs to the dump set (Table 08.3 step 3): in both copies and not released; with one DRAM channel Running,
in that channel's copy; settled data is not dumped (R195). -/
def inDumpSet (s : State) (e : EavesUnit) : Bool :=
  !e.ended && !e.settled && (if notRunning s 6 then e.inB else if notRunning s 7 then e.inA else e.inA && e.inB)

/-- Accepted writes of which some unit had not reached the dump set. -/
def cutWrites (s : State) : List CutWrite :=
  ((s.adm.cmds.filter fun c => c.accepted && c.write && decide (0 < c.units) && !c.dtError && c.endStatus.isNone &&
      countP (fun e => e.order == c.order && e.nsid == c.nsid && e.cmd.isSome && inDumpSet s e) s.eav.units < c.units).map fun c =>
    { nsid := c.nsid, zone := c.zone, first := c.unit0, count := c.units, order := c.order }).mergeSort fun a b => decide (a.order ≤ b.order)

/-- Commands at Power Loss (Table 01.6 step 4): held ones are refused with 0xC7, accepted reads not yet issued complete with
0xC7, those issued with 0xC6 (R103, R179), the others end without a completion when the link goes down. -/
def lossCommands (s : State) : State :=
  let s := forEach (s.adm.cmds.filter (!·.accepted)) (fun c s => refuseCmd s c 0xC7 0x3FFFFF) s
  let s := forEach (s.adm.cmds.filter fun c => c.accepted && !c.write && !c.sensed) (fun c s => powerLossRead s c) s
  let s := forEach (s.adm.cmds.filter fun c => c.accepted && !c.write && decide (0 < c.units)) (fun c s => noRoute s c) s
  { s with adm := { s.adm with cmds := [] } }

/-- One descriptor at Power Loss (Table 01.6 step 5, Table 08.3 step 2): QLC programs and erases are aborted and journalled,
pSLC programs on a die run to their end, everything else is dropped. -/
def lossDesc (d : Desc) (s : State) : State :=
  let running := d.st != .queued
  if running && d.opcode == 0x13 then channelEvent s (descDie d) 0x96
  else
    let s := closeDesc s d 0x36 0
    if !running then s
    else match d.purpose with
      | .program t pos _ _ =>
        let s := updThatch s t fun x => { x with members := vecUpd x.members pos fun m => { m with aborted := true } }
        journal { s with eav := { s.eav with abortedPasses := withOne s.eav.abortedPasses (t, pos) } } 64
      | _ =>
        if d.opcode == 0x20 || d.opcode == 0x21 then
          journal (updBlock s (descDie d) d.block fun b => { b with incomplete := true, erased := false }) 64
        else s

/-- The erased Gutter half that the dump uses; 2 where none is ready. -/
def readyHalf (s : State) : Nat := (s.eav.halves.findIdx? (· == .erased)).getD 2

/-- Whether the copies of an Eaves unit still fit the seal that the Seal Store holds (R195, R310). -/
def sealHolds (e : EavesUnit) : Bool := e.sealed == unitSeal e.key e.unit e.content e.region

/-- The DUMP programs of a dump set in order (Table 08.3 steps 4 and 5): `m` programs with the journal tail, the descriptors and the
metadata regions, then the units, unit i at position i; consecutive programs and positions rotate over the dies (layout: log entry 117). -/
def dumpPlan (p : Profile) (dies : List DieNo) (m : Nat) (seqs : List Nat) : List DumpProg :=
  let n := dies.length
  let first : List DumpProg := (List.range m).map fun j => { die := dies.getD (j % max 1 n) 0, at' := j / max 1 n, units := [], done := false }
  let ofDie (e : DieNo × Nat) : List DumpProg :=
    (piecesOf (pslcYealm p / 4096) ((seqs.zipIdx.filter fun u => u.2 % max 1 n == e.2).map (·.1))).zipIdx.map fun u =>
      { die := e.1, at' := (m + n - 1 - e.2) / max 1 n + u.2, units := u.1, done := false }
  if dies.isEmpty then [] else first ++ dies.zipIdx.flatMap ofDie

/-- Programs that hold the journal tail, the descriptors of 16 bytes and the metadata regions of 64 bytes of `n` units (Table 08.3). -/
def dumpHead (s : State) (n : Nat) : Nat := ceilDiv (s.eav.journalTail + 80 * n) (max 1 (pslcYealm s.prof))

/-- Raise Power Loss and dump (R23, Table 08.3 steps 1 to 4); a unit whose copies fail their seal gets a poison mark (R195). -/
def startDump (s : State) : State :=
  let h := readyHalf s
  let cut := cutWrites s
  let s := { s with eav := { s.eav with dumpSeq := s.eav.dumpSeq + 1, unsafeShutdowns := s.eav.unsafeShutdowns + 1,
                                        halves := vecUpd s.eav.halves h fun _ => .dumping } }
  let s := lossCommands { s with host := { s.host with fetchStopped := true } }
  let s := forEach s.fl.descs lossDesc s
  let units := ((s.eav.units.filter (inDumpSet s)).mergeSort fun a b => decide (a.seq ≤ b.seq)).map fun e =>
    { e with poison := e.poison || !sealHolds e }
  let d : Dump := { seq := s.eav.dumpSeq, half := h, units := units, cut := cut, committed := false,
                    partialMark := false, lastPosition := none, descriptorsDone := false, bad := [], dirs := [],
                    progs := if h < 2 then dumpPlan s.prof (dumpDies s) (dumpHead s units.length) (units.map (·.seq)) else [],
                    marked := ((s.fl.pkgs.filter (·.2.populated)).map (·.1)).filter fun k => !gutterTemp s k }
  let s := forEach [1, 2, 4, 8, 9] (fun id s => setIslandState s id .gated) s
  let s := { s with
    eav := { s.eav with dump := some d, dumpStart := some (now s), dumpStore := s.sup.vs },
    flt := { s.flt with kickExempt := true, cores := coresToReset (dumpCore s) s.flt.cores },
    host := (linkDown s).host,
    hmp := { s.hmp with stopped := true },
    buf := { s.buf with shut := true, cache := [] } }
  forEach (dumpDies s) (fun x s => dumpNext s x) s

/-- A migration stops, with its dual writes; the source rank, which they have kept current, stays in use (Table 12.9). -/
def migrationStops (x : DramCh) : DramCh := { x with migrating := none, migrateOp := none, dualWrite := false }

/-- Raise Power Loss (R23, R297, R336, R355, R364, R374); it is raised once and never cancelled (R197). -/
def raisePowerLoss (s : State) : State :=
  if s.eav.powerLoss then s
  else
    let due := dumpDue s
    let s := { s with eav := { s.eav with powerLoss := true },
                      dram := { s.dram with da := migrationStops s.dram.da, db := migrationStops s.dram.db } }
    let s := airLow s false
    if due then startDump s
    else
      afterDump { s with
        hmp := { s.hmp with stopped := true }
        host := { s.host with fetchStopped := true }
        buf := { s.buf with shut := true, cache := [] } } 0

/-- The hardware switch-over of R367: store path closed, charger and audit load off; an audit under way ends with the
figures it had (Table 17.8). -/
def switchOver (s : State) : State :=
  { s with sup := { s.sup with huEn := true, chgEn := false, auditEn := false, path := 1, chargeSince := none, audit := .idle } }

/-- POWER_LOSS_DETECTED: the comparator finds V12_MAIN below 10.5 V (R23, R367). -/
def execPowerLossDetected (s : State) : Host.Outcome State Fault Refusal :=
  .next (raisePowerLoss (switchOver { s with sup := { s.sup with v12HighSince := none } }))

/-- STORE_LOW: V_S is at or below V_LOW before the directory (R196). The operand is 0 while the descriptors are not
programmed, else one more than the number of unit positions programmed (DESIGN CHOICE, log entry 29). -/
def execStoreLow (lastPosition : Nat) (s : State) : Host.Outcome State Fault Refusal :=
  .next (match s.eav.dump, s.eav.dumpStart with
    | some d, some _ =>
      if d.partialMark || decide (vLow s < s.sup.vs) then s
      else
        let d := { d with partialMark := true, descriptorsDone := decide (0 < lastPosition),
                          lastPosition := some (min d.units.length (lastPosition - 1)) }
        { s with eav := { s.eav with dump := some d } }
    | _, _ => s)

/-- U of a dump in MiB. -/
def dumpMib (d : Dump) : Nat := d.units.length * 4096 / 1048576

/-- CRC-32C of a directory header's fields. -/
def dirCrc (x : GutterDir) : Nat :=
  (crc32c (leBytes 6 x.seq ++ leBytes 4 x.units ++ leBytes 4 x.journal ++ leBytes 4 x.descriptors ++ leBytes 4 x.metadata ++
    x.bad.flatMap (fun b => leBytes 2 b.1 ++ leBytes 4 b.2) ++ leBytes 1 (if x.partialMark then 1 else 0))).toNat

/-- Dies of the two directory copies (Table 08.3 step 6): the lowest die of the lowest channel, and the lowest of another channel, in the
other half where one is populated. -/
def dirDies (ds : List DieNo) : List DieNo :=
  match ds.mergeSort fun a b => decide (a ≤ b) with
  | [] => []
  | a :: rest =>
    let b := match rest.find? fun x => dieCh x / 16 != dieCh a / 16 with
      | some x => some x
      | none => rest.find? fun x => dieCh x != dieCh a
    a :: b.toList

/-- The directory copies of a dump with their commit records (Table 08.3 step 6). -/
def dirCopies (s : State) (d : Dump) : List GutterDir :=
  let n := d.units.length
  (dirDies (dumpDies s)).map fun x =>
    let g : GutterDir := { die := x, seq := d.seq, units := n, journal := s.eav.journalTail, descriptors := 16 * n, metadata := 64 * n,
                           bad := d.bad, partialMark := d.partialMark, crc := 0, committed := true }
    { g with crc := dirCrc g }

/-- A Gutter half that a dump has used holds no erased block until it is erased again (R198). -/
def useHalf (s : State) (h : Nat) : State :=
  forEach (blocksOfUse s (.gutter h)) (fun b s => updBlock s b.1 b.2 fun x => { x with erased := false }) s

/-- DUMP_COMPLETE: the directory and its commit record are written, the dump event recorded, and every island except AON
gated (Table 08.3 steps 6 and 7, Table 01.6 step 9). -/
def execDumpComplete (s : State) : Host.Outcome State Fault Refusal :=
  .next (match s.eav.dump, s.eav.dumpStart with
    | some d, some t =>
      let ok := decide (d.half < 2)
      let s := forEach (s.fl.descs.filter (·.dump)) (fun y s => closeDesc s y 0x00 0) s
      let d := { d with committed := ok, dirs := if ok then dirCopies s d else [],
                        bad := ((s.eav.dump.map (·.bad)).getD d.bad),
                        progs := if d.partialMark then d.progs else d.progs.map fun g => { g with done := true } }
      let s := useHalf s d.half
      let s := { s with eav := { s.eav with dump := some d, halves := vecUpd s.eav.halves d.half fun _ => .holdsDump } }
      let s := recordEvent s 0x0030 3 0 0 (leBytes 4 (dumpMib d) ++ leBytes 4 (now s - t) ++ leBytes 2 s.eav.dumpStore ++
        leBytes 2 s.sup.vs ++ leBytes 1 (if d.partialMark then 1 else 0))
      afterDump s (if d.units.isEmpty then 0 else if d.partialMark || !ok then 2 else 1)
    | _, _ => s)

/-! ### Gutter replay (R198 to R201) -/

/-- Units of a dump whose positions were programmed: all of a dump that ran to its end, those up to the position that the header names
of a partial one, and those of the DUMP programs that had ended where no directory was committed and none was marked (R201). -/
def programmedUnits (d : Dump) : List EavesUnit :=
  if d.half = 2 then []
  else match d.lastPosition with
    | some n => d.units.take n
    | none => if d.committed then d.units
      else d.units.filter fun e => d.progs.any fun g => g.done && g.units.contains e.seq

/-- The descriptors of the dump set were programmed. -/
def descriptorsKnown (d : Dump) : Bool :=
  if d.half = 2 then false
  else if d.partialMark then d.descriptorsDone
  else d.committed || (!d.progs.isEmpty && d.progs.all fun g => g.done || !g.units.isEmpty)

/-- A zone's writes from an acceptance order on are not restored (R199, R201). `bad` lists the orders of its cut writes and
of writes with a lost unit. -/
def zoneCutOrder (bad : List (Nat × Nat × Nat)) (nsid zi : Nat) : Option Nat :=
  minNat? ((bad.filter fun b => b.1 == nsid && b.2.1 == zi).map (·.2.2))

/-- Key of a zone's unit. -/
def unitZone (e : EavesUnit) : Option (Nat × Nat) := e.zone.map fun z => (e.nsid, z)

/-- Report lost LBAs: marks, Critical Warning bit 2, event 0x0032 (R201). -/
def reportLost (s : State) (nsid first count : Nat) : State :=
  let s := forEach ((List.range count).map (first + ·)) (fun u s => markUnrec s nsid u) s
  recordEvent (setWarning s 2) 0x0032 3 5 nsid (leBytes 4 nsid ++ leBytes 8 first ++ leBytes 4 count)

/-- Set the write pointer of a zone to the end of its restored run; a zone that lost acknowledged data is finished, and the
LBAs it lost are marked, up to the last unit of the zone that the dump set held (R199, R201). `lost` are its units not restored, `known` whether the descriptors tell their end. -/
def restoreZone (s : State) (d : Dump) (kept lost : List EavesUnit) (known : Bool) (key : Nat × Nat) : State :=
  let here (e : EavesUnit) : Bool := unitZone e == some key
  let cutAt := minNat? ((d.cut.filter fun c => c.nsid == key.1 && c.zone == some key.2).map (·.first))
  let dropAt := minNat? (((d.units.filter here).filter fun e => !kept.any (·.seq == e.seq)).map (·.unit))
  let z := zone s key.1 key.2
  let base := key.2 * zoneUnits
  let stop := match minNat? (cutAt.toList ++ dropAt.toList) with
    | some u => min z.wp (u - base)
    | none => z.wp
  let back (y : ZoneSt) : ZoneSt :=
    { y with wp := stop, st := if y.st == .full && decide (stop < y.wp) then .closed else y.st }
  let s := if stop < z.wp then updZone s key.1 key.2 back else s
  if !lost.any here then s
  else
    let last := ((d.units.filter here).map (·.unit)).foldl max base
    let stopLba := if known then last + 1 else base + (zone s key.1 key.2).cap
    reportLost (finishZone s key.1 key.2 true) key.1 (base + stop) (stopLba - (base + stop))

/-- Zones that the dump set or its cut writes touch. -/
def dumpZones (d : Dump) : List (Nat × Nat) :=
  (d.units.filterMap unitZone ++ d.cut.filterMap fun c => c.zone.map fun z => (c.nsid, z)).eraseDups

/-- Restore the data of a dump (R198, R199, R201), as the units kept and the units lost. Of a conventional write every granule keeps its
previous data where one of its units is not present. -/
def restoredUnits (d : Dump) : List EavesUnit × List EavesUnit :=
  let have' := programmedUnits d
  let gone := d.units.filter fun e => !have'.any (·.seq == e.seq)
  let badZ := (d.cut.filterMap fun c => c.zone.map fun z => (c.nsid, z, c.order)) ++
    gone.filterMap fun e => e.zone.map fun z => (e.nsid, z, e.order)
  let cutConv := (d.cut.filter (·.zone.isNone)).map (·.order) ++ (gone.filter (·.zone.isNone)).map (·.order)
  let keep (e : EavesUnit) : Bool := match e.zone with
    | some z => match zoneCutOrder badZ e.nsid z with
      | some o => decide (e.order < o)
      | none => true
    | none => !cutConv.contains e.order
  let isCut (e : EavesUnit) : Bool := d.cut.any fun c => c.order == e.order && c.nsid == e.nsid
  let kept := have'.filter keep
  (kept, d.units.filter fun e => !kept.any (·.seq == e.seq) && !isCut e &&
    gone.any fun g => g.nsid == e.nsid && g.zone == e.zone && (if e.zone.isNone then g.order == e.order else decide (g.order ≤ e.order)))

/-- Replay the Gutter (R198 to R201): units back into both copies, write pointers and conventional granules restored, lost
data reported, aborted members spliced, relocation targets discarded (Table 05.8), the half spent, the event recorded. -/
def replayGutter (s : State) (d : Dump) : State :=
  let (kept, lost) := restoredUnits d
  let known := descriptorsKnown d
  let up6 := !notRunning s 6
  let up7 := !notRunning s 7
  let units := kept.map fun e => { e with inA := up6, inB := up7, pins := 0, settled := false, ended := false, cmd := none, sealed := unitSeal e.key e.unit e.content e.region }
  let s := { s with eav := { s.eav with units := units, halves := vecUpd s.eav.halves d.half fun _ => .spent, dump := none } }
  let s := forEach (dumpZones d) (fun k s => restoreZone s d kept lost known k) s
  let conv := lost.filter (·.zone.isNone)
  let s := forEach conv (fun e s => reportLost (convUnmap s e.nsid e.unit) e.nsid e.unit 1) s
  let s := forEach (units.filter (·.poison)) (fun e s => markUnrec s e.nsid e.unit) s
  let lbas := sumNat ((dumpZones d).map fun k => countP (fun e => unitZone e == some k) lost) + conv.length
  recordEvent s 0x0031 2 0 3 (leBytes 6 d.seq ++ leBytes 4 units.length ++ leBytes 8 lbas)

/-- Splice the members with an aborted pass (R199); what the store kept for them is done. -/
def spliceAborted (s : State) : State :=
  let s := forEach s.eav.abortedPasses (fun a s =>
    let th := thatch s a.1
    match th.members[a.2]? with
    | some m => match th.kind with
      | .ready => s
      | .target _ => s
      | .convReloc => s
      | _ => spliceMember s a.1 a.2 (memberSettled s m ((lastCourse s th).getD (s.prof.wordlines - 1))) false
    | none => s) s
  { s with eav := { s.eav with abortedPasses := [] } }

/-- Discard the targets of relocations that had not switched (Table 05.8, R199). -/
def dropTargets (s : State) : State :=
  let isTarget (e : Nat × ThatchSt) : Bool := match e.2.kind with
    | .target _ => true
    | .convReloc => true
    | _ => false
  let ts := (s.fl.thatches.filter isTarget).map (·.1)
  let srcs := s.fl.relocations.map (·.src)
  let s := forEach srcs (fun t s =>
    let th := thatch s t
    updZone s th.nsid th.zone fun z => if th.kind == .zone then { z with reroofing := false } else z) s
  let s := { s with fl := { s.fl with relocations := [] } }
  forEach ts (fun t s =>
    if s.zns.conv.any (fun e => e.2.1 == t) then
      closeConv (updThatch s t fun x =>
        { x with granules := x.granules.take (x.settled * courseUnits s.prof x.width), bufs := [], reread := none }) t
    else dropThatch s t) s

/-- GUTTER_REPLAY (R198): in PHASE 4, from the committed directory or what was programmed; the start-up then goes on to
PHASE 5. -/
def execGutterReplay (s : State) : Host.Outcome State Fault Refusal :=
  .next (if s.boot.phase != 4 || !s.eav.replaying || s.eav.powerLoss then s
    else
      let s := match s.eav.dump with
        | some d => replayGutter s d
        | none => s
      let s := dropTargets (spliceAborted s)
      let s := { s with eav := { s.eav with replaying := false, journalTail := 0 }, fl := { s.fl with inService := true },
                        boot := { s.boot with cleanMark := false, battenedMark := false } }
      recomputeEaves (recomputeBays (enterPhase s 5 0)))

end Sys2Proof.Machine
end

