-- ==== Sys2Proof/Machine/Channels.lean ====
section
/-! DEFINITION. Channel islands: draining, loss and return (R24, R147, R156, R158, R317), bring-up and training (R135, R153,
R154), temperature polls and the write window (R150, R332, R338, R339), recalibration and microcode (R155, R418 to R420). -/

namespace Sys2Proof.Machine

/-! ### Draining and losing a channel -/

/-- A spare-block erase that a channel sends back waits for its return (R156). -/
def keepErase (s : State) (d : Desc) : State :=
  match d.purpose with
  | .eraseSpare a b => updChan s d.ch fun x => { x with returned := if x.returned.contains (a, b) then x.returned else x.returned ++ [(a, b)] }
  | _ => s

/-- Queued descriptors of a channel complete with 0x34 (R156 step 2); their reads go by read-around. -/
def flushChannel (s : State) (c : Nat) : State :=
  forEach (s.fl.descs.filter fun d => d.ch == c && d.st == .queued) (fun d s =>
    workLost (keepErase (dropMove (closeDesc s d 0x34 0) d) d) d) s

/-- Operations in progress on a channel. -/
def channelBusy (s : State) (c : Nat) : Bool := s.fl.descs.any fun d => d.ch == c && d.st != .queued

/-- Remove a descriptor whose sequencer is gone: no completion token. -/
def cutDesc (s : State) (d : Desc) : State :=
  let live := match d.st with
    | .queued => 0
    | _ => d.tokens
  unbook { s with fl := { s.fl with descs := s.fl.descs.filter fun x => !(x.ch == d.ch && x.seqTag == d.seqTag),
                                    liveTokens := s.fl.liveTokens - live } } d.seqTag

/-- What a descriptor leaves when its channel island loses its logic state (Table 06.13): reads go by read-around, a program
pass on a die counts as failed, an erase leaves its block erase-incomplete. -/
def cutWork (d : Desc) (s : State) : State :=
  let s := keepErase (dropMove (cutDesc s d) d) d
  if isReadOp d.opcode then workLost s d
  else if d.st == .queued then s
  else if isProgOp d.opcode then programFailed (channelEvent s (descDie d) 0x95) d 0
  else if isEraseOp d.opcode then channelEvent s (descDie d) 0x94
  else s

/-- A channel island is reset or gated: WP_N low (R134), its registers at their reset values (R18, R151), every descriptor lost. -/
def channelLost (s : State) (c : Nat) (st : IslState) : State :=
  let s := setIslandState s (chIsland c) st
  let s := updChan s c fun x => { x with draining := none, severeDrain := false, wpN := false, rbWait := none, rbDone := false,
                                         sdr0 := chanDefault.sdr0, sdr1 := chanDefault.sdr1, sdr2 := chanDefault.sdr2,
                                         volumes := [], nvDdr3 := false }
  forEach (s.fl.descs.filter (·.ch == c)) cutWork s

/-- The channel island leaves reset: its first wait is for RB_N (Table 06.11 step 3). -/
def releaseChannel (s : State) (c : Nat) : State :=
  updChan s c fun x => { x with rbWait := some (now s), rbDone := false }

/-- The severe reaction holds the island in reset and brings it up again (R317). -/
def severeReset (s : State) (c : Nat) : State := releaseChannel (channelLost s c .heldInReset) c

/-- A channel reports Running (R19, R147, R156): its erase-incomplete blocks and the spare erases sent back are erased
again. -/
def channelReturns (s : State) (c : Nat) : State :=
  let s := setIslandState s (chIsland c) .running
  bookReturned (updChan s c fun x => { x with draining := none, severeDrain := false, rbWait := none, rbDone := false, wpN := true }) c

/-- Start a drain (R156 step 1), with its event (Table 06.13): the Admission Unit books no more on the channel. -/
def startDrain (s : State) (c : Nat) : State :=
  if isRunning s (chIsland c) then
    let s := if (chan s c).draining.isNone then channelEvent s (128 * c) 0x97 else s
    flushChannel (updChan s c fun x => { x with draining := some (x.draining.getD (now s)) }) c
  else s

/-- A channel island has been Stopped for more than 50 µs (R24, Table 01.7): the Admission Unit releases its bookings, and its
reads, queued or in progress, go by read-around; what is in progress on a die runs on. -/
def releaseStopped (s : State) (c : Nat) : State :=
  forEach (s.fl.descs.filter fun d => d.ch == c && (d.st == .queued || isReadOp d.opcode)) (fun d s =>
    workLost (keepErase (dropMove (closeDesc s d 0x34 0) d) d) d) s

/-- An island has been Stopped for exactly 51 µs. -/
def pauseEnds (s : State) (id : Nat) : Bool := (island s id).st == .stopped && (island s id).leftAt.any fun t => t + 51 == now s

/-- The channels that have been Stopped for exactly 51 µs. -/
def longStopped (s : State) : List Nat := (List.range 32).filter fun c => pauseEnds s (chIsland c)

/-- CHANNEL_DRAIN (R156). -/
def execChannelDrain (ch : Nat) (s : State) : Host.Outcome State Fault Refusal := .next (startDrain s ch)

/-- The drain ends: Isolated at firmware's request, held in reset and brought up again after a severe source; a channel that
R317 excludes stays held in reset. -/
def endDrain (s : State) (c : Nat) : State :=
  if (chan s c).severeDrain then
    if s.flt.excludedChannels.contains c then channelLost s c .heldInReset else severeReset s c
  else setIslandState (updChan s c fun x => { x with draining := none }) (chIsland c) .isolated

/-- CHANNEL_DRAIN_COMPLETE (R156 steps 3 and 4, R317). -/
def execChannelDrainComplete (ch : Nat) (s : State) : Host.Outcome State Fault Refusal :=
  .next (if (chan s ch).draining.isNone || channelBusy s ch then s else endDrain (flushChannel s ch) ch)

/-- CHANNEL_DRAIN_TIMEOUT (R317): 16,384 µs have passed. A severe channel is held in reset with what is in progress; a drain
at firmware's request ends in Isolated (DEDUCED, log entry 44). -/
def execChannelDrainTimeout (ch : Nat) (s : State) : Host.Outcome State Fault Refusal :=
  .next (match (chan s ch).draining with
    | some t => if now s < t + 16384 then s else endDrain (flushChannel s ch) ch
    | none => s)

/-- RB_N is stuck low at a channel's bring-up (Table 06.13). -/
def rbStuck (s : State) (c : Nat) : State :=
  recordEvent s 0x0052 0 0 (chIsland c) (leBytes 4 c ++ leBytes 1 0x90 ++ leBytes 1 1)

/-- CHANNEL_RB_WAIT_END (Table 06.11 step 3): RB_N goes high, or 5.0 ms have passed and the sequencer polls Read Status, with an event
(Table 06.13; its payload is a DESIGN CHOICE, log entry 90). -/
def execChannelRbWaitEnd (ch : Nat) (high : Bool) (s : State) : Host.Outcome State Fault Refusal :=
  .next (match (chan s ch).rbWait with
    | some t =>
      let s' := updChan s ch fun x => { x with rbWait := none, rbDone := true }
      if high then s' else if t + 5000 ≤ now s then rbStuck s' ch else s
    | none => s)

/-! ### Packages -/

/-- Populated packages of a channel (R135). -/
def channelPkgs (p : Profile) (c : Nat) : List Nat := (List.range 8).filter fun k => decide (16 * k < diesPerCh p (c / 16))

/-- Die numbers of a package. -/
def pkgDies (p : Profile) (k : Nat × Nat) : List DieNo :=
  ((List.range 16).map fun i => 128 * k.1 + 16 * k.2 + i).filter (diePopulated p)

/-- Packages that the sequencers poll: populated, on a channel that is Running. -/
def polledPkgs (s : State) : List (Nat × Nat) :=
  ((List.range 32).filter fun c => isRunning s (chIsland c)).flatMap fun c => (channelPkgs s.prof c).map fun k => (c, k)

/-- Temperatures that R150 compares. -/
def pollTemps (s : State) : List Int := (polledPkgs s).map (pkgTemp s)

/-- Coldest of a list of temperatures. -/
def minInt (d : Int) (l : List Int) : Int := l.foldl min d

/-- Record a window change (event 0x0041) and act on it: writes held for the window are evaluated again. -/
def setWindow (s : State) (openIt : Bool) : State :=
  if s.fl.window.isOpen == openIt then s
  else
    let ts := pollTemps s
    let s := { s with fl := { s.fl with window := { s.fl.window with isOpen := openIt } } }
    let s := recordEvent s 0x0041 1 0 2 (leBytes 1 (if openIt then 1 else 0) ++ leBytes 1 (twos 8 (minInt 127 ts)) ++
      leBytes 1 (twos 8 (maxInt (-128) ts)))
    if openIt then reevaluateAll s else s

/-- Package temperatures as R150 judges them: closing outside 0 to 85 °C, opening after two polls in 2 to 83 °C. -/
def judgeWindow (s : State) : State :=
  let ts := pollTemps s
  if ts.any fun t => decide (t < 0) || decide (85 < t) then
    setWindow { s with fl := { s.fl with window := { s.fl.window with inRange := 0 } } } false
  else if !ts.isEmpty && ts.all fun t => decide (2 ≤ t) && decide (t ≤ 83) then
    let n := s.fl.window.inRange + 1
    let s := { s with fl := { s.fl with window := { s.fl.window with inRange := n } } }
    if 2 ≤ n then setWindow s true else s
  else { s with fl := { s.fl with window := { s.fl.window with inRange := 0 } } }

/-- Whether the warm load runs (R339), and the end of a Cold Start Warm operation: Success when the window opens; the step
Warm ends it, failed. A warm load that has ended comes back only with an operation or at the next start-up. -/
def updateWarm (s : State) : State :=
  let hot := s.thm.step != .normal
  let s := if s.fl.window.isOpen then { endLong? s s.thm.warmOp hsSuccess 0 with thm := { s.thm with warmOp := none } }
    else if hot then { endLong? s s.thm.warmOp hsConflict 0 with thm := { s.thm with warmOp := none } } else s
  let cold := (pollTemps s).any fun t => decide (t < 2)
  let ended := s.thm.warmEnded || s.fl.window.isOpen || hot
  { s with thm := { s.thm with warmEnded := ended, warmLoad := !s.fl.window.isOpen && !hot &&
      (s.thm.warmOp.isSome || (cold && s.prof.coldWarmAuto == 1 && !ended && decide (s.boot.phase = 5))) } }

/-- Progress of a Cold Start Warm operation: the coldest package's rise from its start value to 2 °C, in percent. -/
def warmProgress (s : State) : State :=
  match s.thm.warmOp with
  | none => s
  | some (x, h) =>
    let t := minInt 127 (pollTemps s)
    let span := 2 - s.thm.warmStart
    progressLong s x h (if span ≤ 0 then 100 else ((100 * (min 2 t - s.thm.warmStart)) / span).toNat)

/-- Queue a control descriptor of the Management island (R139) and run it: it completes within the command that gives what it found. -/
def runControl (s : State) (c slot opcode : Nat) : State :=
  let tag := s.fl.nextTag
  let s := addDesc s { descDefault with ch := c, slot := slot, opcode := opcode, start := now s, dest := (.purlin, 0) }
  match descOf s c tag with
  | some d => closeDesc s d 0x00 0
  | none => s

/-- One package's reading (R150, R332): the second failure in a row raises source 306 with the package's first die. -/
def readPkg (k : Nat × Nat) (r : Option Int) (s : State) : State :=
  match r with
  | some t =>
    let s := updPkg s k fun p => { p with temp := some t, fails := 0 }
    { s with fl := { s.fl with window := { s.fl.window with trace := s.fl.window.trace ++ [(16 * k.1 + k.2, t, (now s : Int))] } } }
  | none =>
    let s := updPkg s k fun p => { p with fails := p.fails + 1 }
    if (pkg s k).fails = 2 then raiseFault s 306 (capOf 4 4 (128 * k.1 + 16 * k.2) 0 (chIsland k.1)) else s

/-- PACKAGE_TEMP_POLL (R150): every 100 ms; a package whose reading is missing was not readable. -/
def execPackageTempPoll (readings : List (Nat × Option Int)) (s : State) : Host.Outcome State Fault Refusal :=
  let due := match s.fl.window.lastPoll with
    | some t => decide (t + 100000 ≤ now s)
    | none => true
  .next (if !due || s.eav.powerLoss || s.boot.phase == 6 then s
    else
      let s := forEach (polledPkgs s) (fun k s => runControl s k.1 (16 * k.2) 0x45) s
      let s := forEach (polledPkgs s) (fun k s => readPkg k ((tblFind? (16 * k.1 + k.2) readings).getD none) s) s
      let tr := s.fl.window.trace.filter fun e => decide ((now s : Int) ≤ e.2.2 + 10000000)
      let s := { s with fl := { s.fl with window := { s.fl.window with trace := tr, lastPoll := some (now s) } } }
      warmProgress (updateWarm (judgeWindow s)))

/-! ### Bring-up (R135, R153, R154) -/

/-- A training's end: the package's figures for R155 start again. -/
def trained (s : State) (k : Nat × Nat) (ok : Bool) : State :=
  updPkg s k fun p =>
    { p with out := !ok, trainTemp := p.temp.getD p.trainTemp, trainAt := now s, recalAt := none, blockedSince := none,
             trainRate := if p.codewords = 0 then 0 else p.failed * 1000000 / p.codewords, failed := 0, codewords := 0 }

/-- One package at bring-up: training (R154), its first TEMP_READ. -/
def bringPkg (c : Nat) (ps : List PkgAnswer) (k : Nat) (s : State) : State :=
  let a := ps.find? fun x => x.pkg == k
  let ok := a.any (·.trained)
  let t := a.bind (·.temp)
  let s := updPkg s (c, k) fun p => { p with populated := true, temp := t, fails := if t.isSome then 0 else 1 }
  trained s (c, k) ok

/-- A die that does not answer, does not match or lies in an untrained package (R135, R154): out for the power cycle, retired at the
third successive one. -/
def dieAbsent (s : State) (d : DieNo) (cause : Nat) : State :=
  let s := updDie s d fun y => { y with mismatches := y.mismatches + 1, causeOut := some cause }
  if 3 ≤ (die s d).mismatches then retireDie s d 6 else dieEvent s d cause

/-- Factory marks as the die carries them, kept until the first geometry build (R111). -/
def factoryMarks (s : State) (x : DieSt) (ms : List (Nat × Nat)) : List BadEntry :=
  if s.fl.geo.built then x.fbbt else ms.map fun m => BadEntry.mk m.1 m.2 0 false 0

/-- One die at bring-up (R135): checked once in a power cycle, but that a die of an untrained package (cause 7) returns with its
package. -/
def bringDie (answers : List DieAnswer) (ps : List PkgAnswer) (d : DieNo) (s : State) : State :=
  let x := die s d
  if x.retired || x.causeOut == some 5 then s
  else match answers.find? fun a => a.slot == d % 128 && a.idMatch && ps.any fun x => x.pkg == d % 128 / 16 && x.profileMatch with
    | none => dieAbsent s d 5
    | some a =>
      if (pkg s (diePkg d)).out then (if x.causeOut == some 7 then s else dieAbsent s d 7)
      else updDie s d fun y => { y with mismatches := 0, causeOut := none, calibrating := false, lostStatus := false,
                                        fbbt := factoryMarks s x a.marks }

/-- Table 06.11 for a channel: it reports Running when a die answers and a package trains (R135, Table 06.13). -/
def bringUp (s : State) (c : Nat) (answers : List DieAnswer) (ps : List PkgAnswer) : State :=
  let ks := channelPkgs s.prof c
  let s := forEach ks (bringPkg c ps) s
  let ds := ks.flatMap fun k => pkgDies s.prof (c, k)
  let s := forEach ds (bringDie answers ps) s
  if ds.any fun d => !dieOut s d then
    let s := useMicrocode (updChan s c fun x => { x with microcode := microcodeVersion s, volumes := ks, nvDdr3 := true })
    channelReturns s c
  else updChan s c fun x => { x with rbWait := none, rbDone := false }

/-- The readings of step 8 count as each package's first poll (R150): one poll in range, however many channels come up. -/
def firstPolls (s : State) : State :=
  let n := s.fl.window.inRange
  if s.fl.window.isOpen then judgeWindow s
  else
    let s := judgeWindow { s with fl := { s.fl with window := { s.fl.window with inRange := 0 } } }
    { s with fl := { s.fl with window := { s.fl.window with inRange := min s.fl.window.inRange (max 1 n) } } }

/-- CHANNEL_BRINGUP (R153): a channel island that has left reset and whose wait for RB_N has ended. -/
def execChannelBringup (ch : Nat) (dies : List DieAnswer) (pkgs : List PkgAnswer) (s : State) : Host.Outcome State Fault Refusal :=
  .next (if 32 ≤ ch || (island s (chIsland ch)).st != .heldInReset || s.flt.excludedChannels.contains ch ||
      !(chan s ch).rbDone || s.eav.powerLoss then s
    else updateWarm (firstPolls (bringUp s ch dies pkgs)))

/-! ### Recalibration (R155, R420) -/

/-- A package is being recalibrated. -/
def recalRuns (s : State) (k : Nat × Nat) : Bool := (pkg s k).recalAt.isSome

/-- Present rate of 0x02 completions per million codewords. -/
def failRate (p : PkgSt) : Nat := if p.codewords = 0 then 0 else p.failed * 1000000 / p.codewords

/-- A Channel Recalibrate names the package. -/
def recalNamed (s : State) (k : Nat × Nat) : Bool :=
  match s.chg.recal with
  | some (_, _, c, mask, _) => c == k.1 && mask.testBit k.2
  | none => false

/-- A recalibration is due (R155): interval, temperature, rate (tripled from a rate above 0, DESIGN CHOICE, log entry 45), or
a Channel Recalibrate. A package out of service is tried again at each interval (R154). -/
def recalDue (s : State) (k : Nat × Nat) : Bool :=
  let p := pkg s k
  p.populated && (recalNamed s k || decide (p.trainAt + s.prof.recalInterval * 1000000 ≤ now s) ||
    (!p.out && (decide (s.prof.recalDelta < (pkgTemp s k - p.trainTemp).natAbs) ||
      (decide (0 < p.trainRate) && decide (3 * p.trainRate ≤ failRate p)))))

/-- R155's conditions: no other package of the half recalibrating, and no bound thatch in the package's 16 bays with a member
out of service; the dies of a package that is itself out do not bar its retry (R154). -/
def recalFree (s : State) (k : Nat × Nat) : Bool :=
  let half := k.1 / 16
  let mine := pkgDies s.prof k
  let bays := mine.map dieBay
  !(s.fl.pkgs.any fun e => e.1.1 / 16 == half && e.2.recalAt.isSome) &&
  !(s.fl.thatches.any fun e => e.2.kind != .ready && bays.contains e.2.bay &&
      e.2.members.any fun m => !((pkg s k).out && mine.contains m.die) && !memberUp s m)

/-- Since when the recalibration of a package has been blocked. -/
def blockedFrom (s : State) (k : Nat × Nat) : Nat := (pkg s k).blockedSince.getD (now s)

/-- A recalibration has been blocked for more than 4 × RECAL_INTERVAL (R155). -/
def recalOverdue (s : State) (k : Nat × Nat) : Bool := decide (blockedFrom s k + 4 * s.prof.recalInterval * 1000000 < now s)

/-- A blocked recalibration (R155): an event when it is overdue, from which time runs anew. -/
def noteBlocked (s : State) (k : Nat × Nat) (late : Bool) : State :=
  let s := updPkg s k fun p => { p with blockedSince := some (if late then now s else blockedFrom s k) }
  if late then recordEvent s 0x0052 0 0 3 (leBytes 4 (16 * k.1 + k.2) ++ leBytes 1 9 ++ leBytes 1 1) else s

/-- A Channel Recalibrate that cannot start within 10 s fails (R420). -/
def recalExpire (s : State) (k : Nat × Nat) : State :=
  match s.chg.recal with
  | some (x, h, _, _, t) =>
    if recalNamed s k && decide (t + 10000000 < now s) then
      endLong { s with chg := { s.chg with recal := none } } x h hsConflict 1
    else s
  | none => s

/-- A blocked recalibration of a package (R155, R420). -/
def recalBlocked (s : State) (k : Nat × Nat) : State := recalExpire (noteBlocked s k (recalOverdue s k)) k

/-- When the last booking of a die ends. -/
def lastBooking (s : State) (d : DieNo) : Nat := ((dieEntries s d).map entryEnd).foldl max (now s)

/-- KIND 0x9 finds an entry and a place within the horizon on each die of a package (R75, R85). -/
def recalFits (s : State) (k : Nat × Nat) : Bool :=
  (pkgDies s.prof k).all fun d => decide ((dieEntries s d).length < 32) && decide (lastBooking s d + 2000 ≤ now s + horizon)

/-- FIRM senses that wait on a die are rebooked as read-around (R85), as far as they find a booking. -/
def clearSenses (s : State) (d : DieNo) : State :=
  forEach (s.fl.descs.filter fun x => descDie x == d && x.st == .queued && x.firm && isReadOp x.opcode) (fun x s =>
    let s' := workLost (closeDesc s x 0x33 0) x
    if s.fl.nextRebuild < s'.fl.nextRebuild then s' else s) s

/-- The package's FIRM senses rebooked, as far as they find a booking. -/
def clearPackage (s : State) (k : Nat × Nat) : State := forEach (pkgDies s.prof k) (fun d s => clearSenses s d) s

/-- Every FIRM sense that waits on a package can be rebooked (R85). -/
def recalClears (s : State) (k : Nat × Nat) : Bool :=
  let s' := clearPackage s k
  !s'.fl.descs.any fun x => (pkgDies s.prof k).contains (descDie x) && x.st == .queued && x.firm && isReadOp x.opcode

/-- Take a package out for recalibration (R155 step 1): KIND 0x9 on each of its dies from the end of its last booking, once its FIRM
senses have been rebooked as read-around (R85). -/
def startRecal (s : State) (k : Nat × Nat) : State :=
  let s := clearPackage (updPkg s k fun p => { p with recalAt := some (now s), blockedSince := none }) k
  forEach (pkgDies s.prof k) (fun d s =>
    let t := lastBooking s d
    let e : CalEntry := { die := d, start := t, length := 2000, kind := .calibration, suspLeft := 0, reads := 0, topClass := 7,
                          tokens := 0, firm := true, provisional := false, tag := nextTag s }
    updDie { s with fl := { s.fl with calendar := s.fl.calendar ++ [e], nextTag := s.fl.nextTag + 1 } } d fun x => { x with calibrating := true }) s

/-- PACKAGE_RECALIBRATION (R155): a package that is due starts where the conditions allow. -/
def execPackageRecalibration (ch pkg' : Nat) (s : State) : Host.Outcome State Fault Refusal :=
  .next (if mgmtDown s || !chRunning s ch || s.eav.powerLoss || recalRuns s (ch, pkg') || !recalDue s (ch, pkg') then s
    else if recalFree s (ch, pkg') && recalFits s (ch, pkg') && recalClears s (ch, pkg') then startRecal s (ch, pkg') else recalBlocked s (ch, pkg'))

/-- A Channel Recalibrate has one package less to do (R420). -/
def recalAdvance (s : State) (k : Nat × Nat) : State :=
  match s.chg.recal with
  | some (x, h, c, mask, _) =>
    if !recalNamed s k then s
    else
      let left := mask - 2 ^ k.2
      if left = 0 then endLong { s with chg := { s.chg with recal := none } } x h hsSuccess 0
      else { s with chg := { s.chg with recal := some (x, h, c, left, now s) } }
  | none => s

/-- A die of a package whose recalibration has ended (R155 step 3): its calibration entries go, and it returns, or goes out with its
package (cause 8). -/
def recalReturn (passed : Bool) (d : DieNo) (s : State) : State :=
  let s := { s with fl := { s.fl with calendar := s.fl.calendar.filter fun e => !(e.die == d && e.kind == .calibration) } }
  let s := updDie s d fun x => { x with calibrating := false, causeOut := if passed && x.causeOut == some 7 then none else x.causeOut }
  if passed || (die s d).retired then s else dieEvent s d 8
/-- PACKAGE_RECAL_DONE (R155 step 3), after the three training steps of R154: the dies return once idle, or the package goes out of service (cause 8). -/
def execPackageRecalDone (ch pkg' : Nat) (passed : Bool) (s : State) : Host.Outcome State Fault Refusal :=
  let k := (ch, pkg')
  .next (if !recalRuns s k || (pkgDies s.prof k).any (fun d => s.fl.descs.any fun x => descDie x == d) then s
    else
      let s := forEach [0, 1, 2] (fun _ s => runControl s ch (16 * pkg') 0x43) s
      let s := trained s k passed
      recalAdvance (forEach (pkgDies s.prof k) (recalReturn passed) s) k)

abbrev ruleRecalibrate : HmpRule := rule 0x0401 (sendPfOobR 1) (some 4)

/-- CHANNEL_RECALIBRATE (R420). -/
def execChannelRecalibrate (q : HmpHdr) (ch pkg' : Nat) (s : State) : Host.Outcome State Fault Refusal :=
  .next (hmpServe s q ruleRecalibrate fun s =>
    let ks := channelPkgs s.prof ch
    if 32 ≤ ch then answer s q 0x0401 hsOutOfRange 0 []
    else if pkg' != 0xFF && decide (8 ≤ pkg') then answer s q 0x0401 hsOutOfRange 1 []
    else if pkg' != 0xFF && !ks.contains pkg' then answer s q 0x0401 hsUnknown 1 []
    else if s.chg.ucLoad.isSome then answer s q 0x0401 hsConflict 3 []
    else if s.chg.recal.isSome then answer s q 0x0401 hsConflict 3 []
    else
      let mask := sumNat ((if pkg' = 0xFF then ks else [pkg']).map (2 ^ ·))
      if mask = 0 then answer s q 0x0401 hsUnknown 0 []
      else startLong s q 0x0401 fun s h => { s with chg := { s.chg with recal := some (q.sender, h, ch, mask, now s) } })

/-! ### Microcode (R418, R419) -/

/-- Bays of a half. -/
def halfBays (s : State) (half : Nat) : List Nat := (baysOf s.prof).filter fun b => b / 128 == half

/-- The condition of R418 that fails for a channel's turn, as its reason. -/
def turnConflict (s : State) (c : Nat) : Option Nat :=
  let half := c / 16
  let chans := (List.range 16).map (16 * half + ·)
  if chans.any (fun x => !isRunning s (chIsland x)) || (halfBays s half).any (fun b => decide (membersUp s b < 16)) then some 1
  else
    let out := setIslandState s (chIsland c) .isolated
    if (halfBays s half).any fun b => decide (15 * 10000 * (100 - s.prof.bgDieShare) < committedDie out s.adm.contracts b / mil) then some 2
    else none

/-- Channels of a mask in a half, lowest first. -/
def maskChannels (mask half : Nat) : List Nat := ((List.range 16).map (16 * half + ·)).filter mask.testBit

/-- End a Channel Microcode Load. -/
def endLoad (s : State) (status detail : Nat) : State :=
  match s.chg.ucLoad with
  | some (x, h, _, _) => endLong { s with chg := { s.chg with ucLoad := none, ucTurnLow := none, ucTurnHigh := none } } x h status detail
  | none => s

/-- Begin the turn of the lowest channel left in a half (Table 20.4 steps 1 and 2), or end the operation with the condition
that fails. -/
def nextTurn (s : State) (half : Nat) : State :=
  match s.chg.ucLoad with
  | none => s
  | some (_, _, _, left) =>
    match maskChannels left half with
    | [] => if half = 0 then { s with chg := { s.chg with ucTurnLow := none } } else { s with chg := { s.chg with ucTurnHigh := none } }
    | c :: _ =>
      match turnConflict s c with
      | some r => endLoad s hsConflict r
      | none =>
        let s := if half = 0 then { s with chg := { s.chg with ucTurnLow := some c } } else { s with chg := { s.chg with ucTurnHigh := some c } }
        startDrain s c

abbrev ruleMicrocode : HmpRule := rule 0x0402 sendPf (some 8)

/-- CHANNEL_MICROCODE_LOAD (R418): both halves start in parallel. -/
def execChannelMicrocodeLoad (q : HmpHdr) (mask : Nat) (s : State) : Host.Outcome State Fault Refusal :=
  .next (hmpServe s q ruleMicrocode fun s =>
    let named := (List.range 32).filter mask.testBit
    if 2 ^ 32 ≤ mask || mask = 0 then answer s q 0x0402 hsOutOfRange 0 []
    else if named.any fun c => diesPerCh s.prof (c / 16) == 0 then answer s q 0x0402 hsUnknown 0 []
    else if s.chg.ucLoad.isSome || s.chg.recal.isSome then startFailed s q 0x0402 hsConflict 3
    else startLong s q 0x0402 fun s h =>
      nextTurn (nextTurn { s with chg := { s.chg with ucLoad := some (q.sender, h, mask, mask) } } 0) 1)

/-- A channel's turn has ended: progress, the next channel, or Success. -/
def turnDone (s : State) (c : Nat) : State :=
  match s.chg.ucLoad with
  | none => s
  | some (x, h, mask, left) =>
    let left := left - 2 ^ c
    let all := countP mask.testBit (List.range 32)
    let done := all - countP left.testBit (List.range 32)
    let s := progressLong { s with chg := { s.chg with ucLoad := some (x, h, mask, left) } } x h (100 * done / max 1 all)
    if left = 0 then endLoad s hsSuccess 0 else nextTurn s (c / 16)

/-- CHANNEL_MICROCODE_TURN (R419): the channel whose turn it is, once nothing runs on it, is isolated, loaded, retrained and
returned to Running; microcode that fails its verification leaves the old one and ends the operation. -/
def execChannelMicrocodeTurn (ch : Nat) (verified : Bool) (pkgs : List PkgAnswer) (s : State) : Host.Outcome State Fault Refusal :=
  .next (if !(s.chg.ucTurnLow == some ch || s.chg.ucTurnHigh == some ch) || channelBusy s ch || mgmtDown s then s
    else
      let s := flushChannel s ch
      if !verified then endLoad (channelReturns s ch) hsSecureRefused 0
      else
        let s := forEach (channelPkgs s.prof ch) (bringPkg ch pkgs) s
        let s := forEach ((channelPkgs s.prof ch).flatMap fun k => pkgDies s.prof (ch, k)) (fun d s =>
          if (pkg s (diePkg d)).out && !(die s d).retired && (die s d).causeOut.isNone then dieAbsent s d 7 else s) s
        let s := useMicrocode (updChan s ch fun x => { x with microcode := microcodeVersion s, volumes := channelPkgs s.prof ch, nvDdr3 := true })
        turnDone (channelReturns s ch) ch)

end Sys2Proof.Machine
end

