-- ==== Sys2Proof/Machine/Thermal.lean ====
section
/-! DEFINITION. Thermal sensing and protection (chapter 15): sensors and zones, device steps, thresholds, the trip, Thermal
Report and Cold Start Warm. -/

namespace Sys2Proof.Machine

/-! ### Zones (Table 15.1) -/

/-- First sensor and number of sensors of a zone. -/
def zoneSensors : Nat → Nat × Nat
  | 0 => (0, 4)
  | 1 => (4, 2)
  | 2 => (6, 4)
  | 3 => (10, 2)
  | 4 => (12, 4)
  | 5 => (16, 2)
  | 6 => (18, 2)
  | 7 => (20, 2)
  | 8 => (22, 2)
  | 9 => (24, 8)
  | 10 => (32, 8)
  | _ => (0, 0)

/-- Zone of a sensor. -/
def sensorZone (i : Nat) : Nat :=
  ((List.range 11).find? fun z => decide ((zoneSensors z).1 ≤ i) && decide (i < (zoneSensors z).1 + (zoneSensors z).2)).getD 0

/-- An on-die sensor. -/
def sensor (s : State) (i : Nat) : SensorSt := vecGet sensorDefault s.thm.sensors i

/-- What a sensor counts for its zone: a failed one reads as Hot (R332). -/
def sensorReads (x : SensorSt) : Int := if x.valid then x.reading else 105

/-- Tj of a zone: the highest reading of its sensors. -/
def zoneTj (s : State) (z : Nat) : Int :=
  let (a, n) := zoneSensors z
  maxInt (-128) ((List.range n).map fun i => sensorReads (sensor s (a + i)))

/-- Highest zone Tj. -/
def topTj (s : State) : Int := maxInt (-128) ((List.range 11).map (zoneTj s))

/-- The zone that reads highest. -/
def topZone (s : State) : Nat := ((List.range 11).find? fun z => decide (zoneTj s z = topTj s)).getD 0

/-- Role of a remote diode (Table 15.6). -/
def remoteRole (p : Profile) (n : Nat) : Nat := profField p 15 (3 * n) 3

/-- Reading of a remote diode: a failed one reads as REMOTE_HOT (R332), one without a role as 0 °C (Table 21.8). -/
def diodeReads (s : State) (n : Nat) : Int :=
  let x := vecGet sensorDefault s.thm.diodes n
  if remoteRole s.prof n = 0 then 0 else if x.valid then x.reading else s.prof.remoteHot

/-! ### Steps (Table 15.2) -/

/-- Order of the steps. -/
def stepRank : ThermalStep → Nat
  | .normal => 0
  | .warm => 1
  | .hot => 2
  | .critical => 3

/-- Step of a rank. -/
def stepOf : Nat → ThermalStep
  | 0 => .normal
  | 1 => .warm
  | 2 => .hot
  | _ => .critical

/-- Threshold of a step. -/
def stepTj : Nat → Int
  | 0 => -128
  | 1 => 95
  | 2 => 105
  | _ => 115

/-- The step that a Tj enters, with band D3 of a DRAM component holding Warm at least (R333). -/
def stepFor (s : State) (tj : Int) : Nat :=
  let k := if 115 ≤ tj then 3 else if 105 ≤ tj then 2 else if 95 ≤ tj then 1 else 0
  if s.thm.d3.any id then max 1 k else k

/-- Temperature thresholds crossed in some function (R335), composite and diodes in kelvin. -/
def thresholdCrossed (s : State) : Bool :=
  let temps := topTj s :: (List.range 8).map (diodeReads s)
  s.host.fns.any fun f => f.2.present && (f.2.feat.thresholds.zip temps).any fun e =>
    let k := e.2 + 273
    e.1.high.any (fun o => decide ((o : Int) ≤ k)) || e.1.low.any (fun u => decide (k ≤ (u : Int)))

/-- Critical Warning bit 1 follows the thresholds and the step (R335). -/
def updateTempWarning (s : State) : State :=
  if thresholdCrossed s || s.thm.step != .normal then setWarning s 1 else clearWarning s 1

/-- Change the device step (R333): event 0x0040; source 305 at Critical; the warm load ends at Warm; held commands are
evaluated again when the step falls. -/
def setStep (s : State) (k : Nat) : State :=
  let old := stepRank s.thm.step
  if k = old then s
  else
    let s := { s with thm := { s.thm with step := stepOf k, belowSince := none } }
    let s := recordEvent s 0x0040 2 0 0 (leBytes 1 old ++ leBytes 1 k ++ leBytes 1 (topZone s) ++ leBytes 1 (twos 8 (topTj s)))
    let s := updateTempWarning s
    let s := if k = 3 then raiseFault s 305 (capOf 6 5 0 0 0) else s
    if old < k then updateWarm s else reevaluateAll s

/-- Device step after a conversion: entry to a higher step at once, and since when Tj lies HYSTERESIS below the present
step's threshold. -/
def judgeStep (s : State) : State :=
  let tj := topTj s
  let k := stepFor s tj
  let cur := stepRank s.thm.step
  let s := if cur < k then setStep s k else s
  let below := decide (tj + (s.prof.hysteresis : Int) ≤ stepTj (stepRank s.thm.step)) && s.thm.step != .normal
  { s with thm := { s.thm with belowSince := if below then some (s.thm.belowSince.getD (now s)) else none } }

/-- THERMAL_STEP_EXIT (R333): Tj has stayed HYSTERESIS below the step's threshold for 100 ms; a lower step is left with it
where the same holds of its threshold. D3 holds Warm. -/
def execThermalStepExit (s : State) : Host.Outcome State Fault Refusal :=
  .next (match s.thm.belowSince with
    | none => s
    | some t =>
      if now s < t + 100000 then s
      else
        let tr := s.thm.tjTrace.filter fun e => decide (now s ≤ e.1 + 100000)
        let hold := if s.thm.d3.any id then 1 else 0
        let stays (k : Nat) : Bool := tr.any fun e => decide (stepTj k < e.2 + (s.prof.hysteresis : Int))
        let k := stepRank s.thm.step - 1
        let k := if 0 < k && !stays k then k - 1 else k
        let k := if 0 < k && !stays k then k - 1 else k
        setStep s (max hold k))

/-! ### The trip (R336) -/

/-- Trip the SL4096 (Table 15.3 steps 1 and 2): latch, record, source 307, Power Loss without switch-over. A dump under way
goes on (Table 15.5). -/
def trip (s : State) (i : Nat) (t : Int) : State :=
  let r : TripRec := { devTime := now s, opSeconds := s.tm.opSeconds, powerCycles := s.tm.powerCycles, sensor := i, temp := t,
                       stepBefore := stepRank s.thm.step, outcome := 0, trips := s.thm.trips + 1 }
  let s := { s with thm := { s.thm with tripped := true, tripAt := some (now s), tripRec := some r, trips := s.thm.trips + 1 } }
  let s := recordEvent (raiseFault s 307 (capOf 6 5 0 0 0)) 0x0042 4 0 0 (tripBytes s)
  if !s.eav.powerLoss then raisePowerLoss s
  else if s.eav.dumpStart.isSome then s
  else afterDump s 0

/-- TRIP_DUMP_TIMEOUT (Table 15.3 step 4): a dump that the trip began still runs at 100 ms; it is marked partial, with what
had been programmed left open (free values), and THERMTRIP_N goes low. -/
def execTripDumpTimeout (s : State) : Host.Outcome State Fault Refusal :=
  .next (match s.thm.tripAt, s.eav.dump, s.eav.dumpStart with
    | some t, some d, some b =>
      if !s.thm.tripped || b < t || now s < t + 100000 then s
      else
        let n := fresh s 0 % (d.units.length + 1)
        let d := { d with partialMark := true, lastPosition := some n, descriptorsDone := decide (0 < n) || fresh s 1 % 2 == 0 }
        let s := { s with eav := { s.eav with dump := some d, halves := vecUpd s.eav.halves d.half fun _ => .holdsDump } }
        afterDump (tickFree s) 2
    | _, _, _ => s)

/-! ### Conversions (R331, R332) -/

/-- A sensor after one conversion, and whether it failed with it. `away` says that it lies more than 25 °C from every other
valid sensor of its zone. -/
def convertSensor (t : Nat) (away : Bool) (x : SensorSt) (r : Option Int) : SensorSt :=
  match r with
  | none => { x with misses := x.misses + 1, goodSince := none, hotCount := 0, valid := x.valid && decide (x.misses + 1 < 2) }
  | some v =>
    if v < -55 || 150 < v then { x with misses := 0, goodSince := none, hotCount := 0, valid := false }
    else
      let dis := if away then x.disagree + 1 else 0
      let bad := decide (10 ≤ dis)
      let since := if bad then none else some (x.goodSince.getD t)
      let back := match since with
        | some g => decide (g + 1000000 ≤ t)
        | none => false
      { x with reading := v, misses := 0, disagree := dis, goodSince := since,
               valid := if x.valid then !bad else back,
               hotCount := if 125 ≤ v then x.hotCount + 1 else 0 }

/-- The sensor lies more than 25 °C from every other valid sensor of its zone. -/
def sensorAway (s : State) (readings : List (Option Int)) (i : Nat) : Bool :=
  let (a, n) := zoneSensors (sensorZone i)
  let peers := ((List.range n).map (a + ·)).filter fun j => j != i && (sensor s j).valid
  match readings.getD i none with
  | none => false
  | some v => !peers.isEmpty && peers.all fun j =>
      let w := (readings.getD j none).getD (sensor s j).reading
      decide (25 < (v - w).natAbs)

/-- The sensors that convert: all of them, or one of each zone in the Battened state (R336). -/
def convertingSensors (s : State) : List Nat :=
  if s.boot.phase = 6 then (List.range 11).map fun z => (zoneSensors z).1 else List.range 40

/-- After a trip: since when every valid sensor has read below TRIP_RESTART (R337). -/
def coolDown (s : State) : State :=
  if !s.thm.tripWait then s
  else
    let cool := s.thm.sensors.all fun x => !x.valid || decide (x.reading < (s.thm.tripRestartCopy : Int))
    { s with thm := { s.thm with coolSince := if cool then some (s.thm.coolSince.getD (now s)) else none } }

/-- The readings of a conversion: a sensor that this one makes invalid raises source 306 (R332). -/
def takeReadings (s : State) (readings : List (Option Int)) : State :=
  let ids := convertingSensors s
  let old := s.thm.sensors
  let new := old.zipIdx.map fun e =>
    if ids.contains e.2 then convertSensor (now s) (sensorAway s readings e.2) e.1 (readings.getD e.2 none) else e.1
  let failed := ids.filter fun i => (vecGet sensorDefault old i).valid && !(vecGet sensorDefault new i).valid
  forEach failed (fun _ s => raiseFault s 306 (capOf 6 5 0 0 0)) { s with thm := { s.thm with sensors := new } }

/-- What follows from the readings: the 100 ms trace, the cool-down after a trip, the device step, the warning bit. -/
def judgeReadings (s : State) : State :=
  let tr := (s.thm.tjTrace.filter fun e => decide (now s ≤ e.1 + 100000)) ++ [(now s, topTj s)]
  updateTempWarning (judgeStep (coolDown { s with thm := { s.thm with tjTrace := tr } }))

/-- A sensor with two readings in a row at the trip temperature trips the device (R336). -/
def tripHot (s : State) (ids : List Nat) : State :=
  if s.thm.tripped then s
  else match ids.find? fun i => (sensor s i).valid && decide (2 ≤ (sensor s i).hotCount) with
    | some i => trip s i (sensor s i).reading
    | none => s

/-- The thermal logic begins a conversion: live values of its record that are due take effect, with the flash power capacity (R334)
and the AON copy of TRIP_RESTART (R337) that follow from them. -/
def applyThermal (s : State) : State :=
  if (dueOf s 15).isEmpty then s
  else
    let s := takeDue s 15
    { s with adm := { s.adm with powerCapacity := flashPowerCapacity s }, thm := { s.thm with tripRestartCopy := s.prof.tripRestart } }

/-- SENSOR_CONVERSION (R331, R332, R336, R342): the readings of the forty on-die sensors. -/
def execSensorConversion (readings : List (Option Int)) (s : State) : Host.Outcome State Fault Refusal :=
  .next (
    let s := applyThermal s
    tripHot (judgeReadings (takeReadings s readings)) (convertingSensors s))

/-- REMOTE_DIODE_CONVERSION (R331, R332): the diodes that have a role. -/
def execRemoteDiodeConversion (readings : List (Option Int)) (s : State) : Host.Outcome State Fault Refusal :=
  let old := s.thm.diodes
  let new := old.zipIdx.map fun e =>
    if remoteRole s.prof e.2 = 0 then e.1 else convertSensor (now s) false e.1 (readings.getD e.2 none)
  let s := { s with thm := { s.thm with diodes := new } }
  let failed := (List.range 8).filter fun i => (vecGet sensorDefault old i).valid && !(vecGet sensorDefault new i).valid
  .next (updateTempWarning (forEach failed (fun _ s => raiseFault s 306 (capOf 6 5 0 0 0)) s))

/-- TRIP_RESTART_RELEASE (R337): the sensors have been cool for 1 s, and the Ridge ROM releases the start-up. -/
def execTripRestartRelease (s : State) : Host.Outcome State Fault Refusal :=
  .next (match s.thm.coolSince with
    | some t => if s.thm.tripWait && decide (t + 1000000 ≤ now s) then
        { s with thm := { s.thm with tripWait := false, coolSince := none } } else s
    | none => s)

/-! ### Haore requests -/

/-- Mask of failed sensors: bits 0 to 39 on-die, 40 to 47 diodes. -/
def failedMask (s : State) : Nat :=
  sumNat (((s.thm.sensors.map (·.valid)) ++ s.thm.diodes.map (·.valid)).zipIdx.map fun e => if e.1 then 0 else 2 ^ e.2)

/-- Thermal Report's 72 bytes (R340). -/
def thermalBytes (s : State) : List Byte :=
  leBytes 8 (now s) ++ leBytes 1 (stepRank s.thm.step) ++ leBytes 1 (if s.fl.window.isOpen then 1 else 0) ++
    ((List.range 11).flatMap fun z => leBytes 1 (twos 8 (zoneTj s z))) ++
    ((List.range 8).flatMap fun n => leBytes 1 (twos 8 (diodeReads s n))) ++
    leBytes 1 (twos 8 (minInt 127 (pollTemps s))) ++ leBytes 1 (twos 8 (maxInt (-128) (pollTemps s))) ++ zeros 1 ++
    leBytes 6 (failedMask s) ++ zeros 2 ++ tripBytes s

abbrev ruleThermal : HmpRule := rule 0x0701 sendAll (some 0)
abbrev ruleWarm : HmpRule := rule 0x0702 (sendPfOobR 4) (some 4)

/-- THERMAL_REPORT (R340). -/
def execThermalReport (q : HmpHdr) (s : State) : Host.Outcome State Fault Refusal :=
  .next (hmpServe s q ruleThermal fun s => reply s q 0x0701 (thermalBytes s))

/-- COLD_START_WARM_START (R339): the operation applies the warm load; with one running already it conflicts (DESIGN CHOICE,
log entry 46). It ends at once where the window is open or the step is Warm or above. -/
def execColdStartWarmStart (q : HmpHdr) (s : State) : Host.Outcome State Fault Refusal :=
  .next (hmpServe s q ruleWarm fun s =>
    if s.thm.warmOp.isSome then answer s q 0x0702 hsConflict 0 []
    else startLong s q 0x0702 fun s h =>
      updateWarm { s with thm := { s.thm with warmOp := some (q.sender, h), warmStart := minInt 127 (pollTemps s) } })

/-- COLD_START_WARM_STOP (R339): action 0 ends the warm load; a running operation ends cancelled (DESIGN CHOICE, log entry
46). -/
def execColdStartWarmStop (q : HmpHdr) (s : State) : Host.Outcome State Fault Refusal :=
  .next (hmpServe s q ruleWarm fun s =>
    let s := endLong? s s.thm.warmOp hsCancelled 0
    hmpDone { s with thm := { s.thm with warmOp := none, warmLoad := false, warmEnded := true } } q 0x0702)

end Sys2Proof.Machine
end

