-- ==== Sys2Proof/Machine/Dram.lean ====
section
/-! DEFINITION. The DRAM subsystem (chapter 12): merge buffer and Fresh map, scrubbing and repair, refresh and panic,
row-disturb throttling, drift and retraining, rank migration, resilvering. -/

namespace Sys2Proof.Machine

/-! ### Channels -/

/-- Island of a DRAM channel. -/
def dramIsland (chB : Bool) : Nat := if chB then 7 else 6

/-- A DRAM channel. -/
def dramCh (s : State) (chB : Bool) : DramCh := if chB then s.dram.db else s.dram.da

/-- Change a DRAM channel. -/
def updDram (s : State) (chB : Bool) (f : DramCh → DramCh) : State :=
  if chB then { s with dram := { s.dram with db := f s.dram.db } } else { s with dram := { s.dram with da := f s.dram.da } }

/-- Channel number, 0 for A. -/
def dramNo (chB : Bool) : Nat := if chB then 1 else 0

/-- The DRAM island serves. -/
def dramRuns (s : State) (chB : Bool) : Bool := isRunning s (dramIsland chB)

/-- A rank. -/
def rankOf (x : DramCh) (r : Nat) : RankSt := vecGet rankDefault x.ranks r

/-- Change a rank. -/
def updRank (s : State) (chB : Bool) (r : Nat) (f : RankSt → RankSt) : State :=
  updDram s chB fun x => { x with ranks := vecUpd x.ranks r f }

/-- The spare rank of a channel (R293). -/
def spareOf (x : DramCh) : Option Nat := x.ranks.findIdx? fun r => r.use == .spare

/-- Bytes below which a channel's regions are held in both channels: the regions before the Loft (Table 12.2). -/
def mirroredBytes (s : State) : Nat := sumNat (s.dram.division.take 5) * 1048576

/-- A byte address lies in a mirrored region. -/
def isMirrored (s : State) (a : Nat) : Bool := decide (a < mirroredBytes s)

/-- Region of a byte address, and its offset there, in the order of Table 12.2 (region 0x09 holds the Loft too). -/
def regionAt (s : State) (a : Nat) : Nat × Nat :=
  let ends := (List.range 4).map fun i => sumNat (s.dram.division.take (i + 1)) * 1048576
  match ends.findIdx? fun e => decide (a < e) with
  | some i => (5 + i, a - (if i = 0 then 0 else ends.getD (i - 1) 0))
  | none => (9, a - ends.getD 3 0)

/-- Granule of a byte address (R281). -/
def granule (a : Nat) : Nat := a / 65536

/-- The Fresh bit of a granule. -/
def isFresh (x : DramCh) (g : Nat) : Bool :=
  (decide (x.filled.1 ≤ g) && decide (g < x.filled.2)) || x.fresh.contains g

/-- Codeword of a byte address. -/
def codeword (a : Nat) : Nat := a / 64

/-- A codeword holds poison (R278). -/
def isPoison (x : DramCh) (cw : Nat) : Bool := x.poison.contains cw

/-- Byte that a read of a channel delivers, merge buffer first (R280, R281); none for poison. -/
def dramRead (s : State) (chB : Bool) (a : Nat) : Option Byte :=
  let x := dramCh s chB
  let merged := match x.merge.find? fun e => e.addr == codeword a with
    | some e => (e.writes.reverse.find? fun w => w.1 == a % 64).map (·.2)
    | none => none
  match merged with
  | some b => some b
  | none =>
    if !isFresh x (granule a) then some 0
    else if isPoison x (codeword a) then none
    else some (Memory.read x.cells a)

/-- Subchannel of a byte address (R272): codewords alternate; in the half-width topology all are in subchannel 0. -/
def subchannel (p : Profile) (a : Nat) : Nat := if p.halfWidth = 1 then 0 else codeword a % 2

/-- A channel can serve an address of a region held in both: it is Running and the Fresh bit is valid (R276). -/
def servesCopy (s : State) (chB : Bool) (a : Nat) : Bool := dramRuns s chB && isFresh (dramCh s chB) (granule a)

/-- The channel that serves a read of a region held in both: by bit 12 of the address, unless only the other can (R276). -/
def servedChannel (s : State) (a : Nat) : Bool :=
  let b := a.testBit 12
  if !servesCopy s b a && servesCopy s (!b) a then !b else b

/-- What a read of a region held in both channels delivers (R276): the served copy's byte, the other copy's where that one is poison;
none where both are. -/
def mirroredRead (s : State) (a : Nat) : Option Byte :=
  let b := servedChannel s a
  match dramRead s b a with
  | some v => some v
  | none => if servesCopy s (!b) a then dramRead s (!b) a else none

/-! ### Merge buffer (R280) -/

/-- The byte mask of an entry is full. -/
def maskFull (e : MergeEntry) : Bool := (List.range 64).all fun i => e.writes.any fun w => w.1 == i

/-- A merge entry leaves the buffer. -/
def dropEntry (e : MergeEntry) (y : DramCh) : DramCh := { y with merge := y.merge.filter fun m => m.addr != e.addr }

/-- A codeword is written whole, and its granule is Fresh (R280, R281): the entry leaves the buffer, poison ends. -/
def cleanCodeword (e : MergeEntry) (ws : List (Nat × Byte)) (y : DramCh) : DramCh :=
  let g := granule (e.addr * 64)
  { dropEntry e y with cells := Memory.putAll y.cells ws, poison := y.poison.filter (· != e.addr),
                       fresh := if isFresh y g then y.fresh else y.fresh ++ [g] }

/-- Write a merge entry back: merged with the old codeword, with zeros where the granule is not fresh, with the other copy's
bytes where the old codeword is poison in a mirrored region; else the codeword becomes poison, unless the mask is full. -/
def writeEntryBack (s : State) (chB : Bool) (e : MergeEntry) : State :=
  let x := dramCh s chB
  let base := e.addr * 64
  let news := e.writes.map fun w => (base + w.1, w.2)
  if maskFull e || !isFresh x (granule base) || !isPoison x e.addr then updDram s chB (cleanCodeword e news)
  else
    let o := dramCh s (!chB)
    if isMirrored s base && dramRuns s (!chB) && isFresh o (granule base) && !isPoison o e.addr then
      updDram s chB (cleanCodeword e ((List.range 64).map (fun i => (base + i, Memory.read o.cells (base + i))) ++ news))
    else updDram s chB (dropEntry e)

/-! ### Ports (R285, R286) -/

/-- A real-time port (Table 12.6): P0 to P2. -/
def realTime (port : Nat) : Bool := decide (port < 3)

/-- Weight of a best-effort port (Table 12.6). -/
def portWeight (port : Nat) : Nat :=
  match port with
  | 3 => 4
  | 4 => 8
  | 6 => 2
  | _ => 1

/-- A port may be served: in panic P3, P5 and P6 are paused, and P4 has one request in eight (R286). -/
def portOpen (x : DramCh) (port : Nat) : Bool :=
  x.panicSince.isNone || realTime port || (port == 4 && decide (7 ≤ x.sinceP4))

/-- The request that a DRAM island serves next (R285): the oldest of a real-time port, else of the best-effort ports the one that has been
served least for its weight, its oldest request first. -/
def nextRequest (x : DramCh) : Option PortReq :=
  match x.waiting.find? fun r => realTime r.port with
  | some r => some r
  | none => (x.waiting.filter fun r => portOpen x r.port).foldl (fun best r =>
      match best with
      | none => some r
      | some b =>
        if vecGet 0 x.served r.port * portWeight b.port < vecGet 0 x.served b.port * portWeight r.port then some r else some b) none

/-- Take narrow writes into the merge buffer: into the codeword's entry or a free one; none while all 128 entries are in use. -/
def mergeTake (x : DramCh) (t addr : Nat) (ws : List (Nat × Byte)) : Option DramCh :=
  if x.merge.any fun e => e.addr == addr then
    some { x with merge := x.merge.map fun e => if e.addr = addr then { e with writes := e.writes ++ ws } else e }
  else if 128 ≤ x.merge.length then none
  else some { x with merge := x.merge ++ [{ addr := addr, writes := ws, since := t }] }

/-- Count a served request of a port. -/
def countServed (port : Nat) (x : DramCh) : DramCh :=
  { x with served := vecUpd x.served port (· + 1), sinceP4 := if port = 4 then 0 else x.sinceP4 + 1 }

/-- Narrow writes of a port: taken, or waiting while the merge buffer is full or an earlier write of the port waits (R280). -/
def takeNarrow (s : State) (chB : Bool) (port addr : Nat) (ws : List (Nat × Byte)) : State :=
  let x := dramCh s chB
  let ws := ws.filter fun w => decide (w.1 < 64)
  if ws.isEmpty || 7 ≤ port then s
  else
    let wait (_ : Unit) : State := updDram s chB fun y => { y with waiting := y.waiting ++ [PortReq.mk port (now s) addr ws] }
    if x.waiting.any (·.port == port) || !portOpen x port then wait ()
    else match mergeTake x (now s) addr ws with
      | some y => updDram s chB fun _ => countServed port y
      | none => wait ()

/-- Serve the waiting writes as far as the merge buffer has room (R280, R285). -/
def serveWaiting (s : State) (chB : Bool) : Nat → State
  | 0 => s
  | n + 1 =>
    let x := dramCh s chB
    match nextRequest x with
    | none => s
    | some r => match mergeTake x (now s) r.addr r.writes with
      | none => s
      | some y => serveWaiting (updDram s chB fun _ => countServed r.port { y with waiting := y.waiting.erase r }) chB n

/-! ### Temperature and refresh (R283, R284, R286) -/

/-- Hottest rank of a channel that is in use or spare. -/
def hottestRank (x : DramCh) : Int := maxInt (-128) ((x.ranks.filter fun r => r.use != .excluded).map (·.temp))

/-- DRAM_TEMP_POLL (R283, R333): rank temperatures. A channel whose hottest component enters band D3 raises its
over-temperature source (DESIGN CHOICE, log entry 48) and holds the device at Warm or above. -/
def execDramTempPoll (chB : Bool) (temps : List Int) (s : State) : Host.Outcome State Fault Refusal :=
  .next (if !dramRuns s chB || s.boot.phase == 6 then s
    else
      let s := updDram s chB fun x => { x with ranks := x.ranks.zipIdx.map fun e => { e.1 with temp := temps.getD e.2 e.1.temp } }
      let hot := decide (95 ≤ hottestRank (dramCh s chB))
      let was := vecGet false s.thm.d3 (dramNo chB)
      let s := { s with thm := { s.thm with d3 := vecUpd s.thm.d3 (dramNo chB) fun _ => hot } }
      let s := if hot && !was then raiseFault s (dramSrc chB 2) (capOf 7 5 0 (dramIsland chB) (dramIsland chB)) else s
      if hot && s.thm.step == .normal then setStep s 1 else s)

/-- tREFI of a rank in hundredths of a µs (Table 12.5). -/
def tRefi (r : RankSt) : Nat := if r.temp < 85 then 390 else 195

/-- DRAM_REFRESH (R283, R286): a same-bank refresh at tREFI; a panic postpones up to four of them, which are caught up with
after it. -/
def execDramRefresh (chB : Bool) (rank bank : Nat) (s : State) : Host.Outcome State Fault Refusal :=
  let x := dramCh s chB
  let r := rankOf x rank
  .next (if !dramRuns s chB || x.ranks.length ≤ rank || r.use == .excluded || r.selfRefresh ||
      decide (100 * (now s - tblGet 0 bank r.lastRefresh) < tRefi r) then s
    else if x.panicSince.isSome && decide (x.postponed < 4) then updDram s chB fun y => { y with postponed := y.postponed + 1 }
    else
      let s := updRank s chB rank fun y => { y with lastRefresh := tblSet bank (now s) y.lastRefresh }
      if x.panicSince.isNone then updDram s chB fun y => { y with postponed := y.postponed - 1 } else s)

/-- DRAM_PANIC_ENTRY (R286). -/
def execDramPanicEntry (chB : Bool) (s : State) : Host.Outcome State Fault Refusal :=
  .next (if !dramRuns s chB || (dramCh s chB).panicSince.isSome then s
    else updDram s chB fun x => { x with panicSince := some (now s), panics := x.panics + 1, panicLongRaised := false })

/-- A real-time request that waits has waited PANIC_LAT / 2, in units of 0.1 µs (R286; DEDUCED, log entry 145). -/
def panicHolds (s : State) (chB : Bool) : Bool :=
  (dramCh s chB).waiting.any fun r => realTime r.port && decide (s.prof.panicLat ≤ 20 * (now s - r.since))

/-- DRAM_PANIC_EXIT (R286): while a real-time request has waited PANIC_LAT / 2 the panic goes on; after it the ports that it paused are
served again. -/
def execDramPanicExit (chB : Bool) (s : State) : Host.Outcome State Fault Refusal :=
  .next (if panicHolds s chB then s
    else serveWaiting (updDram s chB fun x => { x with panicSince := none, panicLongRaised := false }) chB (dramCh s chB).waiting.length)

/-- DRAM_PANIC_LONG (R286): a panic has lasted longer than 100 µs. -/
def execDramPanicLong (chB : Bool) (s : State) : Host.Outcome State Fault Refusal :=
  .next (match (dramCh s chB).panicSince with
    | some t =>
      if now s ≤ t + 100 || (dramCh s chB).panicLongRaised then s
      else raiseFault (updDram s chB fun x => { x with panicLongRaised := true }) (dramSrc chB 3)
        (capOf 7 5 0 (dramIsland chB) (dramIsland chB))
    | none => s)

/-! ### Row disturb (R287, R288) -/

/-- DRAM_RFM (R287): never postponed. -/
def execDramRfm (chB : Bool) (rank bank : Nat) (s : State) : Host.Outcome State Fault Refusal :=
  .next (if !dramRuns s chB || (dramCh s chB).ranks.length ≤ rank || 32 ≤ bank then s
    else updDram s chB fun x => { x with rfms := x.rfms + 1 })

/-- Keep the 16 rows that a port activates most often in a bank (R287). -/
def keepRows (port rank bank : Nat) (l : List RowCount) : List RowCount :=
  let mine := (l.filter fun r => r.port == port && r.rank == rank && r.bank == bank).mergeSort fun a b => decide (b.count ≤ a.count)
  (l.filter fun r => !(r.port == port && r.rank == rank && r.bank == bank)) ++ mine.take 16

/-- ROW_ACT_THROTTLE (R287, R288): the activations of a row by a port in the window. At ROW_ACT_LIMIT × 256 the port's row is
throttled until the window ends, with event 0x0053; port P1 is never throttled. -/
def execRowActThrottle (chB : Bool) (port rank bank row count : Nat) (s : State) : Host.Outcome State Fault Refusal :=
  let same (r : RowCount) : Bool := r.port == port && r.rank == rank && r.bank == bank && r.row == row
  let was := (dramCh s chB).rows.any fun r => same r && r.throttled
  let hit := decide ((dramCh s chB).rowLimit * 256 ≤ count) && port != 1
  .next (if !dramRuns s chB || 7 ≤ port then s
    else
      let new : RowCount := { port := port, rank := rank, bank := bank, row := row, count := count, throttled := was || hit }
      let s := updDram s chB fun x => { x with rows := keepRows port rank bank ((x.rows.filter fun r => !same r) ++ [new]) }
      if hit && !was then
        recordEvent s 0x0053 1 0 (dramIsland chB) (leBytes 1 (dramNo chB) ++ leBytes 1 port ++ leBytes 1 rank ++ leBytes 1 bank ++
          leBytes 4 row ++ leBytes 4 count)
      else s)

/-- ROW_WINDOW_END (R287, R298): the 32 ms refresh window ends, and the next one counts against the ROW_ACT_LIMIT in effect. -/
def execRowWindowEnd (chB : Bool) (s : State) : Host.Outcome State Fault Refusal :=
  .next (updDram s chB fun x => { x with rows := [], rowLimit := s.prof.rowActLimit })

/-- LOFT_FRAME_REPLICATE (R288): port P1 approaches the limit on a frame of a resident page. -/
def execLoftFrameReplicate (nsid page : Nat) (s : State) : Host.Outcome State Fault Refusal :=
  .next (match s.dram.loft.find? fun l => l.nsid == nsid && l.page == page with
    | some l => replicateLoft s l
    | none => s)

/-! ### Losing a channel, resilvering (R282, R297, Table 01.7) -/

/-- Event 0x0052 of a rank: object 256 × channel + rank, action, outcome. -/
def rankEvent (s : State) (chB : Bool) (rank action outcome : Nat) : State :=
  recordEvent s 0x0052 0 0 (dramIsland chB) (leBytes 4 (256 * dramNo chB + rank) ++ leBytes 1 action ++ leBytes 1 outcome)

/-- A migration stops: dual writes end and the source rank stays in use (Table 12.9). -/
def stopMigration (s : State) (chB : Bool) : State :=
  let x := dramCh s chB
  if x.migrating.isNone then s
  else endLong? (updDram s chB fun y => { y with migrating := none, migrateOp := none, dualWrite := false }) x.migrateOp hsConflict 2

/-- A DRAM channel whose content is lost (R281): Fresh map 0, the merge buffer and the poison marks gone, and
another activation count window. -/
def lostContent (limit : Nat) (x : DramCh) : DramCh :=
  { x with cells := [], poison := [], fresh := [], filled := (0, 0), merge := [], panicSince := none, resilvering := false,
           stale := true, rows := [], rowLimit := limit, waiting := [] }

/-- What was held in a DRAM channel is missing (R282): Loft pages there, Eaves copies there. -/
def dropCopies (s : State) (chB : Bool) : State :=
  let loft := (s.dram.loft.map fun l => { l with replicas := l.replicas.filter (· != chB) }).filter fun l => !l.replicas.isEmpty
  let gone (e : EavesUnit) : EavesUnit := if chB then { e with inB := false } else { e with inA := false }
  { s with dram := { s.dram with loft := loft }, eav := { s.eav with units := s.eav.units.map gone } }

/-- A DRAM island leaves Running with its state lost (R281, R282, Table 01.7); a migration in either channel stops. -/
def dramLost (s : State) (chB : Bool) (st : IslState) : State :=
  let s := setIslandState s (dramIsland chB) st
  let s := stopMigration (stopMigration s chB) (!chB)
  dropCopies (updDram s chB (lostContent s.prof.rowActLimit)) chB

/-- A DRAM island returns to Running: stale until it is resilvered (R282). -/
def dramReturns (s : State) (chB : Bool) : State := setIslandState s (dramIsland chB) .running

/-- DRAM_RESILVER (R282): a stale channel that runs again is filled from the other one by port P6. -/
def execDramResilver (chB : Bool) (s : State) : Host.Outcome State Fault Refusal :=
  .next (if dramRuns s chB && (dramCh s chB).stale && dramRuns s (!chB) then
      updDram s chB fun x => { x with resilvering := true }
    else s)

/-- Bytes that a resilver copies from the other channel: those of granules below the limit that are not Fresh here. -/
def resilverBytes (x o : DramCh) (lim : Nat) : List (Nat × Byte) :=
  (Memory.keep (fun a => decide (a < lim) && !isFresh x (granule a)) o.cells).map fun c => (c.1, c.2)

/-- A channel whose mirrored regions, below `lim`, are full copies of the other's again (R282). -/
def resilvered (o : DramCh) (lim : Nat) (x : DramCh) : DramCh :=
  { x with cells := Memory.putAll x.cells (resilverBytes x o lim),
           poison := x.poison ++ o.poison.filter fun w => decide (w * 64 < lim) && !isFresh x (granule (w * 64)) && !x.poison.contains w,
           fresh := x.fresh ++ o.fresh.filter fun g => decide (g * 65536 < lim) && !isFresh x g,
           filled := if x.filled.1 < x.filled.2 then x.filled else o.filled, stale := false, resilvering := false }

/-- Every Eaves unit is in a resilvered channel as it is in the other. -/
def resilverEaves (s : State) (chB : Bool) : State :=
  let both (e : EavesUnit) : EavesUnit := if chB then { e with inB := e.inB || e.inA } else { e with inA := e.inA || e.inB }
  { s with eav := { s.eav with units := s.eav.units.map both } }

/-- DRAM_RESILVER_COMPLETE (R282): the mirrored regions are full copies again. -/
def execDramResilverComplete (chB : Bool) (s : State) : Host.Outcome State Fault Refusal :=
  .next (if !(dramCh s chB).resilvering || !dramRuns s chB || !dramRuns s (!chB) || (dramCh s chB).panicSince.isSome then s
    else resilverEaves (updDram s chB (resilvered (dramCh s (!chB)) (mirroredBytes s))) chB)

/-- A retraining of a rank is due (R290); a rate of 0 at the training does not triple (DESIGN CHOICE, log entry 45). -/
def retrainNeeded (p : Profile) (r : RankSt) : Bool :=
  decide (p.retrainDelta < (r.temp - r.trainTemp).natAbs) || (decide (0 < r.trainRate) && decide (3 * r.trainRate ≤ r.rate))

/-- DRAM_DRIFT_TRACK (R290): one rank's write DQS delay and error rate; a due retraining is noted, with an event where no
spare rank can serve it before the next start-up. Battened pauses it (R397). -/
def execDramDriftTrack (chB : Bool) (rank dqsDelay correctablePerG : Nat) (s : State) : Host.Outcome State Fault Refusal :=
  let x := dramCh s chB
  .next (if !dramRuns s chB || s.boot.phase == 6 || x.ranks.length ≤ rank || (rankOf x rank).use != .inUse then s
    else
      let s := updRank s chB rank fun r => { r with dqs := dqsDelay, rate := correctablePerG }
      let r := rankOf (dramCh s chB) rank
      if r.retrainDue || !retrainNeeded s.prof r then s
      else
        let s := updRank s chB rank fun r => { r with retrainDue := true }
        if (spareOf x).isNone then rankEvent s chB rank 0 1 else s)

/-- A migration runs in some channel. -/
def migrationRuns (s : State) : Bool := s.dram.da.migrating.isSome || s.dram.db.migrating.isSome

/-- Start a migration of a rank onto the spare (R293 step 1). -/
def startMigration (s : State) (chB : Bool) (rank : Nat) (op : Option (Sender × Nat)) : State :=
  match spareOf (dramCh s chB) with
  | some sp => updRank (updDram s chB fun x => { x with migrating := some (rank, sp), migrateOp := op, dualWrite := true }) chB sp
      fun r => { r with selfRefresh := false }
  | none => s

/-- A rank has to be moved: its retraining is due, or a row of it could not be repaired (R296). -/
def migrationDue (x : DramCh) (rank : Nat) : Bool :=
  (rankOf x rank).use == .inUse && ((rankOf x rank).retrainDue || x.noRepair.any (·.1 == rank))

/-- RANK_MIGRATION (R293): a due one, with a spare, the other channel Running and none under way. -/
def execRankMigration (chB : Bool) (rank : Nat) (s : State) : Host.Outcome State Fault Refusal :=
  let x := dramCh s chB
  .next (if dramRuns s chB && dramRuns s (!chB) && !migrationRuns s && (spareOf x).isSome && decide (rank < x.ranks.length) &&
      migrationDue x rank && plannedOk s then startMigration s chB rank none else s)

/-- RANK_MIGRATION_SWAP (R293 steps 3 and 4): the copy is complete. The old rank is retrained with its pending repairs and
becomes the spare; one that fails, or that is out of repair resources, is excluded. -/
def execRankMigrationSwap (chB retrainOk : Bool) (s : State) : Host.Outcome State Fault Refusal :=
  let x := dramCh s chB
  .next (match x.migrating with
    | none => s
    | some (old, sp) =>
      if !dramRuns s chB || x.panicSince.isSome || !plannedOk s then s
      else
        let s := plannedStep s
        let spent := x.noRepair.any (·.1 == old)
        let keep := retrainOk && !spent
        let s := updDram s chB fun y => { y with
          migrating := none, migrateOp := none, dualWrite := false,
          rankMap := y.rankMap.map fun r => if r = old then sp else r,
          noRepair := y.noRepair.filter (·.1 != old),
          excludedRows := y.excludedRows.filter (·.1 != old),
          corrected := y.corrected.filter (·.1.1 != old) }
        let s := updRank s chB sp fun r => { r with use := .inUse }
        let s := updRank s chB old fun r =>
          { r with use := if keep then .spare else .excluded, selfRefresh := keep, retrainDue := false, trainTemp := r.temp,
                   trainRate := r.rate, passes := 0, pendingRepair := if retrainOk then [] else r.pendingRepair }
        let s := rankEvent s chB old 1 (if keep then 0 else 1)
        let s := if retrainOk then s else raiseFault s (dramSrc chB 4) (capOf 7 5 0 (dramIsland chB) (dramIsland chB))
        if retrainOk then endLong? s x.migrateOp hsSuccess 0 else endLong? s x.migrateOp hsInternal (newestSeq s))

abbrev ruleRetrain : HmpRule := rule 0x0403 sendPf (some 4)

/-- DRAM_RANK_RETRAIN (R294): channel 0 is A, 1 is B. The statuses for a rank that is not there, is the spare or is not in use, and for a
channel that is itself not Running, and the order of the checks are the model's (DESIGN CHOICE, log entry 135). -/
def execDramRankRetrain (q : HmpHdr) (channel rank : Nat) (s : State) : Host.Outcome State Fault Refusal :=
  .next (hmpServe s q ruleRetrain fun s =>
    if 1 < channel then rejectWrite s q 0x0403 hsOutOfRange 0 else
    let chB := channel == 1
    let x := dramCh s chB
    match spareOf x with
    | none => answer s q 0x0403 hsConflict 1 []
    | some sp =>
      if x.ranks.length ≤ rank then answer s q 0x0403 hsUnknown 1 []
      else if rank = sp || (rankOf x rank).use != .inUse then answer s q 0x0403 hsOutOfRange 1 []
      else if migrationRuns s || !dramRuns s (!chB) || !dramRuns s chB then answer s q 0x0403 hsConflict 2 []
      else startLong s q 0x0403 fun s h => startMigration s chB rank (some (q.sender, h)))

/-! ### Scrubbing and repair (R295, R296) -/

/-- Rank, bank and row of a byte address. -/
def rowOf (a : Nat) : Nat × Nat × Nat := Config.dramRow (a / 4096)

/-- Corrected codewords of a row within the rolling 24 h. -/
def correctedIn (s : State) (x : DramCh) (r : Nat × Nat × Nat) : List Nat :=
  (tblGet [] r x.corrected).filter fun t => decide (opUs s < t + 86400000000)

/-- The outcome of a codeword read (R277, R278). -/
inductive ReadOutcome where
  | clean
  | corrected
  | uncorrectable
  | poison
  deriving DecidableEq, Repr

/-- The check bytes that a channel stores for a codeword (R277, R278): those of its data and its address, with the poison pattern over them
where it holds poison. -/
def storedCheck (x : DramCh) (cw : Nat) : List Byte :=
  let check := Config.rsCheck ((List.range 64).map fun i => Memory.read x.cells (64 * cw + i)) (cw % 2 ^ 40)
  if isPoison x cw then List.zipWith (· ^^^ ·) check Config.poisonPattern else check

/-- Symbols in error of a word that the pins gave: those whose patterns do not cancel. -/
def symbolErrors (l : List (Nat × Byte)) : Nat :=
  countP (fun i => (l.filter (·.1 == i)).foldl (fun a e => a ^^^ e.2) (0 : Byte) != 0) (List.range 80)

/-- The RS(80,64) decoder on a read of a codeword (R277): the codeword of another address, whose check bytes do not fit, and more than 8
symbols in error are uncorrectable; a poison codeword reports poison. -/
def readCodeword (x : DramCh) (cw : Nat) (w : CodewordRead) : ReadOutcome :=
  if w.holder ≠ cw || 8 < symbolErrors w.errors then .uncorrectable
  else if isPoison x cw then .poison
  else if symbolErrors w.errors = 0 then .clean else .corrected

/-- An element of a list that the spec leaves open (free value). -/
def pickFree {α : Type} (s : State) (l : List α) : Option α := l[fresh s 0 % max 1 l.length]?

/-- Sense again what a slot of an accepted command was to take from DRAM (Table 12.4): by its own page, else by read-around, under the
allowance. -/
def resense (s : State) (c : Cmd) (slot : Nat) : State :=
  let x := c.slots[slot]?.getD slotNone
  let c := { c with allowance := true, slots := vecUpd c.slots slot fun y => { y with done := false } }
  let s := updCmd s c fun _ => c
  let direct : Option State := (slotPlace s c.nsid x).bind fun (t, th, pl) => (th.members[pl.pos]?).bind fun m =>
    if !memberUp s m then none
    else (bookPage s m t pl x.units (stageReq c false (.hostRead c.fn c.sqid c.cid slot) (.fabric, slot))).bind fun (s', se) =>
      if decodeNs s.prof se + hostStage s c.units ≤ dueNs c then some s' else none
  match direct with
  | some s' => s'
  | none => lastRoute s c slot none fun s => noRoute s c

/-- Accepted commands with a slot on a Loft page, with the slot. -/
def loftSlots (s : State) (nsid page : Nat) : List (Cmd × Nat) :=
  (s.adm.cmds.filter fun c => c.accepted && c.nsid == nsid).flatMap fun c =>
    (c.slots.zipIdx.filter fun e => e.1.done && e.1.route == .loft && e.1.unit0 / 4 == page).map fun e => (c, e.2)

/-- Rebook what accepted commands were to take of a page from DRAM. -/
def resenseAll (s : State) (l : List (Cmd × Nat)) : State :=
  forEach l (fun w s => match cmdOf s w.1.fn w.1.sqid w.1.cid with
    | some c => resense s c w.2
    | none => s) s

/-- Drop the Loft page whose frame holds an address; which page that is stays open (free value, log entry 50). Reads that were to take
it book a sense (Tables 03.11 and 12.4). -/
def dropFrame (s : State) (chB : Bool) : State :=
  match pickFree s (s.dram.loft.filter fun l => l.replicas.contains chB) with
  | none => s
  | some p => resenseAll (tickFree (dropLoft s fun l => l.nsid == p.nsid && l.page == p.page)) (loftSlots s p.nsid p.page)

/-- What uses data that is bad in both copies (Table 12.4): an Eaves unit is poisoned, so that its LBAs read as unrecovered and settle as
unrecoverable; a recovered page goes back to background recovery. Which unit or page lies at the address stays open (free
value, log entry 50). -/
def consumeBad (s : State) (a : Nat) : State :=
  match (regionAt s a).1 with
  | 8 => match pickFree s (s.eav.units.filter fun e => !e.ended && !e.poison) with
    | none => s
    | some e =>
      let s := tickFree { s with eav := { s.eav with units := s.eav.units.map fun x => if x.seq = e.seq then { x with poison := true } else x } }
      markPoison s e.nsid e.unit
  | 9 => match pickFree s (s.fl.recovery.filter fun r => r.recovered && !r.ended) with
    | none => s
    | some r =>
      let back (x : RecEntry) : RecEntry := if x = r then { x with recovered := false, passes := 0, nextAt := now s, seals := [] } else x
      let wait (c : Cmd) : Cmd :=
        let hit (x : SlotSt) : Bool := x.done && x.route == .recovered && slotKey s c.nsid x == (r.nsid, r.page)
        if c.accepted && c.slots.any hit then
          { c with allowance := true, slots := c.slots.map fun x => if hit x then { x with done := false } else x }
        else c
      tickFree { s with fl := { s.fl with recovery := s.fl.recovery.map back }, adm := { s.adm with cmds := s.adm.cmds.map wait } }
  | _ => s

/-- A codeword's address under poison. -/
def poisoned (addr : Nat) (x : DramCh) : DramCh := { x with poison := if x.poison.contains addr then x.poison else x.poison ++ [addr] }

/-- Poison a codeword in a channel, and in the other where that one holds a fresh copy (R278, R295). -/
def poisonCopies (s : State) (chB : Bool) (addr : Nat) : State :=
  let s := updDram s chB (poisoned addr)
  if dramRuns s (!chB) && isFresh (dramCh s (!chB)) (granule (addr * 64)) then updDram s (!chB) (poisoned addr) else s

/-- The record of a poisoned codeword: its region, cause 2 and its offset. -/
def poisonRecord (s : State) (addr : Nat) : List Byte :=
  let e := regionAt s (addr * 64)
  leBytes 4 e.1 ++ leBytes 1 2 ++ leBytes 1 1 ++ leBytes 8 e.2

/-- A codeword is bad in both copies (R278, R279, R295): poison in both channels, an event with its region and offset, and what uses the
data. -/
def poisonPut (s : State) (chB : Bool) (addr : Nat) : State :=
  consumeBad (recordEvent (poisonCopies s chB addr) 0x0052 0 0 (dramIsland chB) (poisonRecord (poisonCopies s chB addr) addr)) (addr * 64)

/-- A codeword is bad in both copies: as `poisonPut`, and source 280 + 6d. -/
def poisonBoth (s : State) (chB : Bool) (addr : Nat) : State :=
  raiseFault (poisonPut s chB addr) (dramSrc chB 1) (capOf 7 0 (addr * 64) (dramIsland chB) (dramIsland chB))

/-- A codeword rewritten from the other channel's copy (R276, R295). -/
def rewritten (addr : Nat) (o x : DramCh) : DramCh :=
  { x with cells := Memory.putAll x.cells ((List.range 64).map fun i => (64 * addr + i, Memory.read o.cells (64 * addr + i))),
           poison := x.poison.filter (· != addr) }

/-- SCRUB_READ (R295): port P6 reads one codeword; `reads.other` is what the other channel gives where its copy is needed (R276). -/
def execScrubRead (chB : Bool) (addr : Nat) (reads : ScrubReads) (s : State) : Host.Outcome State Fault Refusal :=
  let x := dramCh s chB
  .next (if !dramRuns s chB || x.panicSince.isSome then s
    else
      let s := updDram s chB fun y => { y with scrubAt := addr + 1 }
      if !isFresh x (granule (addr * 64)) then s
      else match readCodeword x addr reads.own with
        | .clean => s
        | .poison => s
        | .corrected =>
          let r := rowOf (addr * 64)
          updDram s chB fun y => { y with corrected := tblSet r (correctedIn s y r ++ [opUs s]) y.corrected }
        | .uncorrectable =>
          if !isMirrored s (addr * 64) then dropFrame s chB
          else
            let o := dramCh s (!chB)
            let good := match readCodeword o addr reads.other with
              | .clean => true
              | .corrected => true
              | _ => false
            if dramRuns s (!chB) && isFresh o (granule (addr * 64)) && good then
              raiseFault (updDram s chB (rewritten addr o)) (dramSrc chB 0) (capOf 7 0 (addr * 64) (dramIsland chB) (dramIsland chB))
            else poisonBoth s chB addr)

/-- SOFT_PPR (R296): a row with PPR_THRESHOLD corrected codewords is repaired in service, and the hard repair waits for the
rank's next training; without a resource left the row is left unused, source 284 + 6d counts, and the rank is moved. -/
def execSoftPpr (chB : Bool) (rank bank row : Nat) (resourceLeft : Bool) (s : State) : Host.Outcome State Fault Refusal :=
  let x := dramCh s chB
  let due := decide (s.prof.pprThreshold ≤ (correctedIn s x (rank, bank, row)).length)
  .next (if !dramRuns s chB || x.ranks.length ≤ rank || !due || (resourceLeft && !plannedOk s) then s
    else
      let s := updDram s chB fun y => { y with corrected := tblDel (rank, bank, row) y.corrected }
      if resourceLeft then
        rankEvent (updRank (plannedStep s) chB rank fun r => { r with pendingRepair := r.pendingRepair ++ [(bank, row)] }) chB rank 3 0
      else
        let s := updDram s chB fun y => { y with noRepair := if y.noRepair.contains (rank, bank) then y.noRepair else y.noRepair ++ [(rank, bank)],
                                                 excludedRows := y.excludedRows ++ [(rank, bank, row)] }
        let s := rankEvent s chB rank 3 1
        let s := raiseFault s (dramSrc chB 5) (capOf 7 5 0 (dramIsland chB) (dramIsland chB))
        if (spareOf (dramCh s chB)).isSome && dramRuns s (!chB) && !migrationRuns s && (rankOf x rank).use == .inUse then
          startMigration s chB rank none else s)

end Sys2Proof.Machine
end

