-- ==== Sys2Proof/Machine/Airflow.lean ====
section
/-! DEFINITION. The Airflow engine (chapter 16): speed demand, current limits, starts, stalls, the bus clamp, Blower Report
and Blower Service. What the observer and the rotor-frame controllers compute from currents that no command carries is a
free value (log entry 53). -/

namespace Sys2Proof.Machine

/-! ### Demand and limits (R345, R348) -/

/-- Highest reading of the remote diodes with one of the roles; none where no diode has one. -/
def roleReads (s : State) (roles : List Nat) : Option Int :=
  (((List.range 8).filter fun n => roles.contains (remoteRole s.prof n)).map (diodeReads s)).foldl (fun a t =>
    match a with
    | none => some t
    | some u => some (max u t)) none

/-- Control temperature T_c (R345). -/
def controlTemp (s : State) : Int :=
  let t := topTj s - s.prof.tjOffset
  match roleReads s [2, 4] with
  | some r => max r t
  | none => t

/-- Point `j` of CURVE: temperature and percent of SPEED_MAX. -/
def curvePoint (p : Profile) (j : Nat) : Int × Int :=
  (signedOf 8 (profField p 16 (208 + 16 * j) 8), (profField p 16 (216 + 16 * j) 8 : Int))

/-- The points of CURVE up to the first one that repeats the point before it, where the curve ends (R360). -/
def cutCurve : List (Int × Int) → List (Int × Int)
  | a :: b :: l => if a == b then [a] else a :: cutCurve (b :: l)
  | l => l

/-- Percent of SPEED_MAX that CURVE gives at a temperature: linear between the points on either side, the first or last
point's percent outside them (R345), in millionths of a percent. -/
def curvePercent (p : Profile) (t : Int) : Int :=
  let pts := cutCurve ((List.range 8).map (curvePoint p))
  let below := pts.filter fun e => decide (e.1 ≤ t)
  let above := pts.filter fun e => decide (t < e.1)
  match below.getLast?, above.head? with
  | none, some b => b.2 * 1000000
  | some a, none => a.2 * 1000000
  | some a, some b => a.2 * 1000000 + (b.2 - a.2) * 1000000 * (t - a.1) / (b.1 - a.1)
  | none, none => 0

/-- Speed demand in mrpm while the blower is on (R345): SPEED_MAX while the step is Warm or above. -/
def speedDemand (s : State) : Int :=
  if s.thm.step != .normal then (s.prof.speedMax : Int) * 1000
  else curvePercent s.prof (controlTemp s) * s.prof.speedMax / 100000

/-- Row of Table 16.2 (R348): no inlet diode puts the band above 75 °C. -/
def currentBand (s : State) : Nat :=
  match roleReads s [1] with
  | none => 3
  | some t => if t < -20 then 0 else if t < 60 then 1 else if t < 75 then 2 else 3

/-- Current limit in mA (R348): ILIM_COLD for at most 2 s from each start. -/
def currentLimit (s : State) : Int :=
  let f := match currentBand s with
    | 0 => if now s ≤ s.air.startAt + 2000000 then s.prof.ilimCold else 100
    | 1 => 100
    | 2 => s.prof.ilimHot1
    | _ => s.prof.ilimHot2
  (s.prof.iMax * f : Int)

/-- A clamp fault is latched (R352, R356): the latch of source 314. -/
def clampLatched (s : State) : Bool := (faultSrc s 314).severe

/-! ### Changes of state -/

/-- All six outputs low. -/
def pwmLow : List Bool := List.replicate 6 false

/-- All six outputs released to the modulator. -/
def pwmOn : List Bool := List.replicate 6 true

/-- The current loop runs: the outputs are modulated. -/
def turning : BlowerState → Bool
  | .catchSpin => true
  | .starting => true
  | .running => true
  | .braking => true
  | _ => false

/-- Begin a start with a catch-spin (R349): gate driver on, both references zero for 50 ms. -/
def catchSpin (s : State) : State :=
  { s with air := { s.air with st := .catchSpin, pwm := pwmOn, drvEn := true, starts := s.air.starts + 1, startAt := now s,
                               alignAt := none, idRef := 0, iqRef := 0, integ := 0, stallAt := none, driverFaultAt := none,
                               busOv := false, runningSince := none, nonRegen := false } }

/-- Stop driving: the blower coasts, with the gate driver off. -/
def blowerOff (s : State) (st : BlowerState) : State :=
  { s with air := { s.air with st := st, pwm := pwmLow, drvEn := false, alignAt := none, idRef := 0, iqRef := 0, integ := 0,
                               reference := 0, runningSince := none, nonRegen := false } }

/-- A start is wanted and nothing forbids it: outside the warm load and Power Loss, with the island Running, VDDA_AFE in
range (Table 17.3) and a blower on the carrier (R441). -/
def mayStart (s : State) : Bool :=
  s.air.wanted && !s.air.absent && !s.thm.warmLoad && !s.eav.powerLoss && isRunning s 9 && !s.air.stuckClosed && !s.air.stopping &&
    (vecGet railDefault s.sup.rails 10).excursionAt.isNone

/-- Start with a catch-spin where the blower is wanted, else stay off (R344, R351, R354, R355). -/
def restartBlower (s : State) : State :=
  if mayStart s then catchSpin s
  else { blowerOff s .off with air := { (blowerOff s .off).air with stallAt := none, driverFaultAt := none, busOv := false } }

/-- The island starts: its first reading of AFE_VBUS says whether the carrier has a blower (R441). -/
def startJudging (s : State) : State := { s with air := { s.air with judged := false, absent := false } }

/-- The Airflow island returns to Running (R355): a blower that is not locked out or stopped for service starts. -/
def airReturns (s : State) : State :=
  let s := startJudging (setIslandState s 9 .running)
  match s.air.st with
  | .stoppedForService => s
  | .stallLockout => s
  | .driverLockout => s
  | _ => restartBlower s

/-- A standstill start (R350): START_MODE 0 injects at once, START_MODE 1 aligns for 200 ms with 0.5 × I_MAX. -/
def standstill (s : State) : State :=
  let align := s.prof.startMode == 1
  { s with air := { s.air with st := .starting, reference := 0, integ := 0, iqRef := 0, nonRegen := false,
                               alignAt := if align then some (now s) else none,
                               idRef := if align then (s.prof.iMax * 50 : Int) else 0 } }

/-- The service stop is reached (R356): the gate driver low, the island Held in reset, the operation done. -/
def finishStop (s : State) : State :=
  let s := { blowerOff s .stoppedForService with
               air := { (blowerOff s .stoppedForService).air with stopping := false, wanted := false } }
  let op := s.air.serviceOp
  let s := setIslandState { s with air := { s.air with serviceOp := none } } 9 .heldInReset
  endLong? s op hsSuccess 0

/-- Reaction to a stall (R351): outputs low, a restart after 5 s; the third stall without 60 s of running between them is the
lock-out. -/
def stallReact (s : State) : State :=
  let ran := match s.air.runningSince with
    | some t => decide (t + 60000000 ≤ now s)
    | none => false
  let n := if ran then 1 else s.air.stalls + 1
  let lock := decide (3 ≤ n)
  let s := blowerOff s (if lock then .stallLockout else .off)
  let s := { s with air := { s.air with stalls := n, stallAt := if lock then none else some (now s) } }
  let s := if lock then { endLong? s s.air.serviceOp hsConflict 0 with air := { s.air with serviceOp := none } } else s
  if s.air.stopping then finishStop s else s

/-- Declare a stall (R351): source 315 and its reaction. -/
def stallBlower (s : State) : State := stallReact (raiseFault s 315 (capOf 8 5 0 9 9))

/-- Reaction to a driver fault (R344): outputs and gate driver low, a retry 100 ms later. -/
def driverReact (s : State) : State :=
  match s.air.st with
  | .stallLockout => blowerOff s .stallLockout
  | .stoppedForService => blowerOff s .stoppedForService
  | _ => { blowerOff s .driverLockout with air := { (blowerOff s .driverLockout).air with driverFaultAt := some (now s), stallAt := none } }

/-- Reaction to a clamp fault (R352, R354): stuck closed it locks the blower out, else braking goes on without regeneration. -/
def clampReact (s : State) (stuckClosed : Bool) : State :=
  if stuckClosed then
    let s := { s with air := { s.air with stuckClosed := true, driverFaultAt := none, stallAt := none } }
    let s := blowerOff s .driverLockout
    if s.air.stopping then finishStop s else s
  else { s with air := { s.air with nonRegen := s.air.nonRegen || s.air.st == .braking } }

/-! ### Speed loop (R345, R346, R353, R354) -/

/-- A number held within a magnitude. -/
def clampTo (lim x : Int) : Int := max (-lim) (min lim x)

/-- Move a reference to a demand at no more than ACCEL up and DECEL down, per 1 ms step (R346). -/
def rampTo (p : Profile) (ref demand : Int) : Int :=
  if ref < demand then min demand (ref + p.accel) else max demand (ref - p.decel)

/-- Note how long T_c has stayed below T_ON - ON_HYST, and turn on at T_ON or at the step Warm (R345). -/
def judgeDemand (s : State) : State :=
  let t := controlTemp s
  let below := decide (t < s.prof.tOn - (s.prof.onHyst : Int)) && s.thm.step == .normal
  { s with air := { s.air with belowOnSince := if below then some (s.air.belowOnSince.getD (now s)) else none,
                               wanted := s.air.wanted || decide (s.prof.tOn ≤ t) || s.thm.step != .normal } }

/-- Largest integer whose square is at most `n`, for `n` below 2^44. -/
def isqrt (n : Nat) : Nat := (List.range 22).foldr (fun b r => if (r + 2 ^ b) ^ 2 ≤ n then r + 2 ^ b else r) 0

/-- What the limit on the magnitude of the d and q references together leaves for one axis beside `x` on the other (R348). -/
def axisLimit (lim x : Int) : Int := (isqrt (lim.natAbs ^ 2 - x.natAbs ^ 2) : Nat)

/-- The d-axis reference of the speed loop: that of an open-loop start, zero otherwise (R346, R350). -/
def heldD (a : AirSt) : Int := if a.st == .starting then a.idRef else 0

/-- The PI controller of the speed loop (R346): the integrator stops while the limit is reached. While a clamp fault is
latched, a braking current is reduced until the bus draws no negative current, as a free value between it and zero, and the d-axis
takes what the limit leaves (R354). -/
def speedPi (s : State) : State :=
  let a := s.air
  let lim := axisLimit (currentLimit s) (heldD a)
  let err := a.reference - a.speed * 1000
  let want := (err * s.prof.kpSpeed / 1000 + a.integ) / 1000
  let iq := clampTo lim want
  let integ := if iq = want then a.integ + err * s.prof.kiSpeed / 1000000 else a.integ
  let braking := decide (iq < 0 ∧ 0 < a.speed) || decide (0 < iq ∧ a.speed < 0)
  let non := braking && clampLatched s
  let iq' := if non then (if iq < 0 then -((fresh s 1 % (iq.natAbs + 1) : Nat) : Int) else ((fresh s 1 % (iq.natAbs + 1) : Nat) : Int)) else iq
  { s with air := { a with iqRef := iq', integ := integ, nonRegen := non, idRef := if non then axisLimit (currentLimit s) iq' else heldD a } }

/-- HFI_EXIT and CATCH_MIN in rpm. -/
def hfiExitRpm (s : State) : Int := (s.prof.hfiExit * 10 : Int)
def catchMinRpm (s : State) : Int := (s.prof.catchMin * 10 : Int)

/-- Speed steps of a blower that turns under control: backward braking ends within CATCH_MIN in a standstill start, a start
that reaches HFI_EXIT runs, and a falling reference is braking. -/
def stepTurning (s : State) : State :=
  let a := s.air
  match a.st with
  | .braking =>
    if a.speed < -(catchMinRpm s) then speedPi { s with air := { a with reference := 0 } }
    else if a.speed < 0 then standstill s
    else
      let d := if a.stopping then 0 else speedDemand s
      let r := rampTo s.prof a.reference d
      let s := speedPi { s with air := { a with reference := r, st := if d < r then .braking else .running } }
      if a.stopping && r == 0 then finishStop s else s
  | .starting =>
    if a.alignAt.isSome then s
    else
      let r := rampTo s.prof a.reference (if a.stopping then 0 else speedDemand s)
      let s := speedPi { s with air := { a with reference := r } }
      if hfiExitRpm s ≤ s.air.speed then
        { s with air := { s.air with st := .running, runningSince := some (now s), idRef := 0 } }
      else s
  | .running =>
    let d := if a.stopping then 0 else speedDemand s
    let r := rampTo s.prof a.reference d
    let s := speedPi { s with air := { a with reference := r, st := if d < r then .braking else .running } }
    if a.stopping && r == 0 then finishStop s else s
  | _ => s

/-- A Blower Service resume ends with Success once the speed reference is reached (R356). -/
def resumeDone (s : State) : State :=
  if s.air.serviceOp.isSome && !s.air.stopping && s.air.st == .running && decide (s.air.reference ≤ s.air.speed * 1000) then
    { endLong? s s.air.serviceOp hsSuccess 0 with air := { s.air with serviceOp := none } }
  else s

/-- SPEED_LOOP_STEP (R345, R346, R360): every 1 ms while the island runs; new live values of its record count from here on. The observer's speed estimate is a free value. -/
def execSpeedLoopStep (s : State) : Host.Outcome State Fault Refusal :=
  .next (if !isRunning s 9 || s.eav.powerLoss then s
    else
      let s := judgeDemand (takeDue s 16)
      if s.thm.warmLoad then (if turning s.air.st then blowerOff s .off else s)
      else if turning s.air.st then
        let s := if s.air.st == .catchSpin then s else { s with air := { s.air with speed := Config.freeInt s.free } }
        tickFree (resumeDone (stepTurning s))
      else if s.air.st == .off && s.air.stallAt.isNone && !s.air.busOv && mayStart s then catchSpin s
      else s)

/-- BLOWER_OFF_TIMER (R345): T_c has stayed below T_ON - ON_HYST for 30 s. -/
def execBlowerOffTimer (s : State) : Host.Outcome State Fault Refusal :=
  .next (match s.air.belowOnSince with
    | some t =>
      if !isRunning s 9 || !s.air.wanted || s.air.stopping || s.air.serviceOp.isSome || decide (now s < t + 30000000) then s
      else
        let s := { s with air := { s.air with wanted := false } }
        if turning s.air.st then blowerOff s .off else s
    | none => s)

/-! ### Current loop (R346 to R348) -/

/-- Where R347 puts vector `k`: its time in the first half period and in the second, a negative time standing for the
opposite vector. Times in units of 0.1 µs. -/
def shiftVector (tMin t : Nat) : List Int :=
  if tMin ≤ t then [t, t] else [tMin, 2 * (t : Int) - tMin]

/-- CURRENT_LOOP_PERIOD (R346 to R348): the vectors are placed, the d and q controllers give their voltages (free values),
and a phase current above 1.5 × I_MAX drives the outputs low and is a stall. -/
def execCurrentLoopPeriod (t1 t2 : Nat) (phaseMa : Int) (s : State) : Host.Outcome State Fault Refusal :=
  .next (if !isRunning s 9 || !turning s.air.st then s
    else
      let tm := s.prof.tMinSample
      let s := { s with air := { s.air with lastVectors := shiftVector tm t1 ++ shiftVector tm t2, phaseMa := phaseMa,
                                            ud := Config.freeInt (2 * s.free), uq := Config.freeInt (2 * s.free + 1) } }
      let s := tickFree s
      if (s.prof.iMax * 150 : Nat) < phaseMa.natAbs then stallBlower s else s)

/-! ### Starts, stalls and the gate driver (R344, R349 to R351) -/

/-- DRIVER_FAULT (R344): AFE_DRV_FAULT_N goes low. A carrier without a blower raises none (R441). -/
def execDriverFault (s : State) : Host.Outcome State Fault Refusal :=
  .next (if !isRunning s 9 || s.air.absent then s else driverReact (raiseFault s 313 (capOf 8 5 0 9 9)))

/-- DRIVER_FAULT_RETRY (R344): 100 ms after a driver fault; a service stop that the fault met is complete. -/
def execDriverFaultRetry (s : State) : Host.Outcome State Fault Refusal :=
  .next (match s.air.driverFaultAt with
    | some t =>
      if !isRunning s 9 || decide (now s < t + 100000) then s
      else if s.air.stopping then finishStop s
      else if s.air.stuckClosed then { s with air := { s.air with driverFaultAt := none } }
      else restartBlower s
    | none => s)

/-- CATCH_SPIN_END (Table 16.3): 50 ms after the start, on the measured speed; `locked` says whether the observer locked. -/
def execCatchSpinEnd (locked : Bool) (rpm : Int) (s : State) : Host.Outcome State Fault Refusal :=
  .next (if !isRunning s 9 || s.air.st != .catchSpin || decide (now s < s.air.startAt + 50000) then s
    else if !locked then standstill s
    else
      let s := { s with air := { s.air with speed := rpm } }
      if catchMinRpm s ≤ rpm then
        { s with air := { s.air with st := .running, reference := rpm * 1000, runningSince := some (now s) } }
      else if rpm < -(catchMinRpm s) then { s with air := { s.air with st := .braking, reference := 0, nonRegen := clampLatched s } }
      else standstill s)

/-- ALIGN_END (R350): after 200 ms of alignment the current vector turns at the ACCEL ramp. -/
def execAlignEnd (s : State) : Host.Outcome State Fault Refusal :=
  .next (match s.air.alignAt with
    | some t => if !isRunning s 9 || s.air.st != .starting || decide (now s < t + 200000) then s
      else { s with air := { s.air with alignAt := none } }
    | none => s)

/-- BLOWER_STALL (R351): the observer, the slow speed or the overcurrent declares it, or 10 s of a start without HFI_EXIT. -/
def execBlowerStall (cause : StallCause) (s : State) : Host.Outcome State Fault Refusal :=
  .next (if !isRunning s 9 || !turning s.air.st ||
      (cause == .noStart && (decide (now s < s.air.startAt + 10000000) || s.air.st != .starting)) then s
    else stallBlower s)

/-- STALL_RESTART (R351): 5 s after a stall. -/
def execStallRestart (s : State) : Host.Outcome State Fault Refusal :=
  .next (match s.air.stallAt with
    | some t => if !isRunning s 9 || decide (now s < t + 5000000) then s else restartBlower s
    | none => s)

/-! ### Bus clamp (R352, R354) -/

/-- A reading of AFE_VBUS, in mV: the first one since the island started below 2.0 V says that the carrier has no blower, which is off
from then on (R441; DEDUCED, log entry 144). -/
def judgeBus (s : State) (mv : Nat) : State :=
  if s.air.judged then s
  else
    let s := { s with air := { s.air with judged := true, absent := decide (mv < 2000) } }
    if s.air.absent then blowerOff s .off else s

/-- BUS_CLAMP_ON (R352): a reading of AFE_VBUS closes the clamp at CLAMP_ON and opens it at CLAMP_OFF; below CLAMP_OFF a
blower that an overvoltage stopped retries with a catch-spin (R354). -/
def execBusClampOn (mv : Nat) (s : State) : Host.Outcome State Fault Refusal :=
  .next (if !isRunning s 9 then s
    else
      let s := judgeBus s mv
      let set : Bool := if s.prof.clampOn * 100 ≤ mv then true else if mv ≤ s.prof.clampOff * 100 then false else s.air.clamp
      let s := { s with air := { s.air with busMv := mv, clampSince := if set == s.air.clamp then s.air.clampSince else some (now s),
                                            clamp := set } }
      if s.air.busOv && decide (mv < s.prof.clampOff * 100) then restartBlower s else s)

/-- CLAMP_FAULT (R352): feedback missing 20 µs after the clamp closes, or present 20 µs after it opens (stuck closed), which
also locks the blower out; braking goes on without regeneration (R354). -/
def execClampFault (stuckClosed : Bool) (s : State) : Host.Outcome State Fault Refusal :=
  let aged := match s.air.clampSince with
    | some t => decide (t + 20 ≤ now s)
    | none => true
  .next (if !isRunning s 9 || s.air.absent || !aged || s.air.clamp == stuckClosed then s
    else clampReact (raiseFault s 314 (capOf 8 5 0 9 9)) stuckClosed)

/-- BUS_OVERVOLTAGE (R354): AFE_VBUS reaches BUS_OV; the outputs go low and the blower coasts. -/
def execBusOvervoltage (mv : Nat) (s : State) : Host.Outcome State Fault Refusal :=
  .next (if !isRunning s 9 || decide (mv < s.prof.busOv * 100) then s
    else
      let s := { s with air := { s.air with busMv := mv, judged := true } }
      if turning s.air.st then
        let s := blowerOff s .off
        let s := { s with air := { s.air with busOv := true } }
        if s.air.stopping then finishStop s else s
      else { s with air := { s.air with pwm := pwmLow } })

/-! ### Haore requests (R356, R358) -/

/-- State byte of Table 16.4. -/
def blowerCode : BlowerState → Nat
  | .off => 0
  | .catchSpin => 1
  | .starting => 2
  | .running => 3
  | .braking => 4
  | .stoppedForService => 5
  | .stallLockout => 6
  | .driverLockout => 7

/-- The 32 bytes of Blower Report (Table 16.4). The q-axis current is reported as its reference (DEDUCED, log entry 53). -/
def blowerBytes (s : State) : List Byte :=
  let a := s.air
  let flags := (if clampLatched s then 1 else 0) + (if a.clamp then 2 else 0) + (if a.nonRegen then 4 else 0) +
    (if s.thm.step != .normal then 8 else 0)
  leBytes 8 (now s) ++ leBytes 1 (blowerCode a.st) ++ leBytes 1 flags ++ leBytes 2 (a.reference / 1000).toNat ++
    leBytes 2 (twos 16 a.speed) ++ leBytes 2 (twos 16 a.iqRef) ++ leBytes 2 a.busMv ++ leBytes 1 (twos 8 (controlTemp s)) ++
    leBytes 1 (currentBand s) ++ leBytes 4 a.starts ++ zeros 8

abbrev ruleBlowerReport : HmpRule := rule 0x0703 sendPfOob (some 0)
abbrev ruleBlowerService : HmpRule := rule 0x0704 (sendPfOobR 4) (some 4)

/-- BLOWER_REPORT (R358). -/
def execBlowerReport (q : HmpHdr) (s : State) : Host.Outcome State Fault Refusal :=
  .next (hmpServe s q ruleBlowerReport fun s => reply s q 0x0703 (blowerBytes s))

/-- BLOWER_SERVICE_STOP (R356 action 1): ramp to zero, then Held in reset; in reset already, Success and no change. An
earlier resume that still runs ends cancelled, and a second stop while one runs fails with Busy (DESIGN CHOICE, log entry 53). -/
def execBlowerServiceStop (q : HmpHdr) (s : State) : Host.Outcome State Fault Refusal :=
  .next (hmpServe s q ruleBlowerService fun s =>
    if s.air.stopping then startFailed s q 0x0704 hsBusy 0
    else if !isRunning s 9 then startLong s q 0x0704 fun s h => endLong s q.sender h hsSuccess 0
    else startLong s q 0x0704 fun s h =>
      let s := endLong? s s.air.serviceOp hsCancelled 0
      let s := { s with air := { s.air with stopping := true, serviceOp := some (q.sender, h) } }
      match s.air.st with
      | .running => s
      | .braking => if s.air.speed < 0 then finishStop s else s
      | .catchSpin => finishStop s
      | .starting => finishStop s
      | _ => finishStop s)

/-- A measured value within 25 % of a field (R356). -/
def within25 (x f : Nat) : Bool := decide (3 * f ≤ 4 * x) && decide (4 * x ≤ 5 * f)

/-- BLOWER_SERVICE_RESUME (R356 action 2): the island leaves reset, the lock-outs end, the winding is measured and compared;
then a catch-spin start. While the warm load keeps the blower off, it ends at once. -/
def execBlowerServiceResume (q : HmpHdr) (openCircuit : Bool) (rMohm lUh : Nat) (s : State) : Host.Outcome State Fault Refusal :=
  .next (hmpServe s q ruleBlowerService fun s =>
    if s.air.stopping || turning s.air.st then startLong s q 0x0704 fun s h => endLong s q.sender h hsSuccess 0
    else startLong s q 0x0704 fun s h =>
      let s := setIslandState s 9 .running
      let s := { s with air := { s.air with st := .off, stalls := 0, stallAt := none, stuckClosed := false, driverFaultAt := none,
                                            busOv := false, judged := false, absent := false } }
      let hold (s : State) : State := blowerOff s .stoppedForService
      if openCircuit then endLong (raiseFault (hold s) 315 (capOf 8 5 0 9 9)) q.sender h hsConflict 2
      else if !within25 rMohm s.prof.rS || !within25 lUh s.prof.lS then endLong (hold s) q.sender h hsConflict 1
      else if s.thm.warmLoad then endLong s q.sender h hsSuccess 0
      else catchSpin { s with air := { s.air with wanted := true, serviceOp := some (q.sender, h) } })

end Sys2Proof.Machine
end

