-- ==== Sys2Proof/Machine/Alive.lean ====
section
/-! DEFINITION. Fault Collector registers, ALIVE and the fault opcodes (R315, R321, R324, R325, R327). -/

namespace Sys2Proof.Machine

/-- Word `w` of a source bit vector (R315). -/
def srcWord (s : State) (p : FaultSrc → Bool) (w : Nat) : U32 :=
  (List.range 32).foldl (fun a b => if p (faultSrc s (32 * w + b)) then a ||| (1#32 <<< b) else a) 0#32

/-- Take a snapshot (R315): all ten event words and all ten severe words at once. -/
def takeSnapshot (s : State) : State :=
  { s with flt := { s.flt with snapSeq := s.flt.snapSeq + 1, snapTime := now s,
                               fsvSnap := (List.range 10).map (srcWord s (·.bit)),
                               sevSnap := (List.range 10).map (srcWord s (·.severe)) } }

/-- FAULT_SNAP: a write of SNAP (Table 14.4). -/
def execFaultSnap (value : Nat) (s : State) : Host.Outcome State Fault Refusal :=
  .next (if value % 2 = 1 then takeSnapshot s else s)

/-- CORE_KICK: a core kicks only its own bit (R324). -/
def execCoreKick (core value : Nat) (s : State) : Host.Outcome State Fault Refusal :=
  .next (if decide (core < 10) && bits value core 1 == 1 then
      { s with flt := { s.flt with cores := vecUpd s.flt.cores core fun c => { c with lastKick := now s } } }
    else s)

/-- ALIVE_KICK: a Purlin core writes ALIVE_KICK (R327). -/
def execAliveKick (core value : Nat) (s : State) : Host.Outcome State Fault Refusal :=
  .next (if decide (core < 10) && value % 2 == 1 then { s with flt := { s.flt with aliveKick := some (now s) } } else s)

/-- ALIVE_TOGGLE: a half period ends. ALIVE toggles while every condition holds, starting with a rising edge; else it is
low (R327). -/
def execAliveToggle (s : State) : Host.Outcome State Fault Refusal :=
  .next (if aliveOk s then
      { s with flt := { s.flt with aliveRun := true, aliveLevel := if s.flt.aliveRun then !s.flt.aliveLevel else true } }
    else refreshAlive s)

/-- ALIVE_KICK_TIMEOUT: 20 ms without a kick drive ALIVE low (R327). -/
def execAliveKickTimeout (s : State) : Host.Outcome State Fault Refusal := .next (refreshAlive s)

/-- ALIVE state of the Fault Snapshot (R325): 0 stopped by a severe fault, 1 running, 2 not yet started or restricted. Two cases that R325
does not name: ALIVE stopped for a missing kick is 2, a severe source latched in PHASE 7 is 0 (DESIGN CHOICE, log entry 133). -/
def aliveState (s : State) : Nat := if anySevere s then 0 else if s.flt.aliveRun then 1 else 2

/-- Purlin cores in standby. -/
def standbyCores (s : State) : Nat := countP (fun c => c.st == .standby) s.flt.cores

/-- Fault Snapshot response, 96 bytes (R325). -/
def snapshotBytes (s : State) : List Byte :=
  leBytes 8 s.flt.snapTime ++ (s.flt.fsvSnap.flatMap fun w => leBytes 4 w.toNat) ++
    (s.flt.sevSnap.flatMap fun w => leBytes 4 w.toNat) ++ leBytes 1 (serviceClass s) ++ leBytes 1 (aliveState s) ++
    leBytes 1 (activeCores s) ++ leBytes 1 (standbyCores s) ++ leBytes 1 (ridgeIn s) ++ zeros 3

abbrev ruleFaultSnapshot : HmpRule := ⟨0x0601, sendPfOob, true, false, some 0⟩
abbrev ruleThresholdSet : HmpRule := rule 0x0602 (sendPfOobR 3) (some 8)
abbrev ruleFaultClear : HmpRule := rule 0x0603 (sendPfOobR 3) (some 4)
abbrev ruleFirstError : HmpRule := rule 0x0604 sendPfOob (some 2)

/-- FAULT_SNAPSHOT (0x0601): the core takes a snapshot and returns it (DEDUCED, log entry 25); none where the buffer does not take it
(R235). -/
def execFaultSnapshot (q : HmpHdr) (s : State) : Host.Outcome State Fault Refusal :=
  .next (hmpServe s q ruleFaultSnapshot fun s =>
    let s' := takeSnapshot s
    if q.room < (snapshotBytes s').length then reply s q 0x0601 (snapshotBytes s') else reply s' q 0x0601 (snapshotBytes s'))

/-- FAULT_THRESHOLD_SET (0x0602): N and T of a source, taking effect at its next event; a fixed source is a Conflict with
reason 0x0001 (R325). -/
def execFaultThresholdSet (q : HmpHdr) (source n t : Nat) (s : State) : Host.Outcome State Fault Refusal :=
  .next (hmpServe s q ruleThresholdSet fun s =>
    if 320 ≤ source then rejectWrite s q 0x0602 hsOutOfRange 0
    else if 256 ≤ n then rejectWrite s q 0x0602 hsOutOfRange 2
    else if t = 0 || decide (2592000000 < t) then rejectWrite s q 0x0602 hsOutOfRange 4
    else if sourceFixed source then answer s q 0x0602 hsConflict 1 []
    else hmpDone { s with flt := { s.flt with thresholds := tblSet source (n, t) s.flt.thresholds } } q 0x0602)

/-- Clear one source (R325): bit 0 of the flags clears its event bit, count, window and first error; bit 1 its latch. -/
def clearSrc (flags : Nat) (x : FaultSrc) : FaultSrc :=
  let x := if bits flags 0 1 = 1 then { x with bit := false, count := 0, winStart := none, winCount := 0, first := none } else x
  if bits flags 1 1 = 1 then { x with severe := false, scope := 0 } else x

/-- Fault Clear of one source, or of all with 0xFFFF. Critical Warning bit 2 falls with the last latch (DEDUCED, log
entry 26). -/
def clearFaults (s : State) (source flags : Nat) : State :=
  let s := { s with flt := { s.flt with srcs := s.flt.srcs.map fun e =>
                               if source = 0xFFFF || e.1 = source then (e.1, clearSrc flags e.2) else e } }
  refreshFaultLed (if anySevere s then s else clearWarning s 2)

/-- FAULT_CLEAR (0x0603). -/
def execFaultClear (q : HmpHdr) (source flags : Nat) (s : State) : Host.Outcome State Fault Refusal :=
  .next (hmpServe s q ruleFaultClear fun s =>
    if 320 ≤ source && source != 0xFFFF then rejectWrite s q 0x0603 hsOutOfRange 0
    else if 4 ≤ flags then rejectWrite s q 0x0603 hsOutOfRange 2
    else
      hmpDone (recordEvent (clearFaults s source flags) 0x0012 1 1 source
        (leBytes 2 source ++ leBytes 1 flags ++ zeros 1 ++ senderBytes q.sender)) q 0x0603)

/-- FIRST_ERROR_REPORT (0x0604): the 40 bytes of Table 14.2. -/
def execFirstErrorReport (q : HmpHdr) (source : Nat) (s : State) : Host.Outcome State Fault Refusal :=
  .next (hmpServe s q ruleFirstError fun s =>
    if 320 ≤ source then answer s q 0x0604 hsOutOfRange 0 []
    else
      let (n, t) := threshold s source
      reply s q 0x0604 (firstErrorBytes s source ++ leBytes 1 n ++ zeros 3 ++ leBytes 4 t))

end Sys2Proof.Machine
end

