-- ==== Sys2Proof/Machine/Fetch.lean ====
section
/-! DEFINITION. Fetching submission queue entries: round robin over functions and over a function's queues, up to 2^AB entries
a turn (R219). -/

namespace Sys2Proof.Machine

/-- Entries that wait in a submission queue. -/
def waiting (q : SqSt) : Nat := (q.tail + q.size - q.head) % max 1 q.size

/-- The function's controller lets the Host island fetch: ready, not failed, not shut down. -/
def fnFetches (s : State) (f : Nat) : Bool := fnReady s f && !(fnOf s f).cfs && !(fnOf s f).fetchPaused

/-- The Host island fetches at all: link up, PHASE 5 or 7, fetch not stopped by Power Loss or a trip. -/
def hostFetches (s : State) : Bool :=
  s.host.linkUp && isRunning s 1 && (s.boot.phase == 5 || s.boot.phase == 7) && !s.host.fetchStopped && !s.eav.powerLoss

/-- Entries that wait in the admin submission queue of a function. -/
def adminWaiting (x : FnSt) : Nat := (x.adminTail + adminSize x 0 - x.adminHead) % adminSize x 0

/-- Queues of a function with entries waiting; 0 is the admin queue. -/
def queuesPending (s : State) (f : Nat) : List Nat :=
  (if 0 < adminWaiting (fnOf s f) then [0] else []) ++ ((fnOf s f).sqs.filter fun q => decide (0 < waiting q.2)).map (·.1)

/-- The next number after `last` in round robin. -/
def nextInRound (last : Nat) (l : List Nat) : Option Nat :=
  match minNat? (l.filter fun x => decide (last < x)) with
  | some x => some x
  | none => minNat? l

/-- A turn of an admin queue: its entries are the admin commands, which take no class and no deadline (R65). -/
def adminTurn (s : State) (f : Nat) : State :=
  let s := updFn s f fun x => { x with adminHead := (x.adminHead + min (2 ^ x.feat.ab) (adminWaiting x)) % adminSize x 0 }
  { s with host := { s.host with rrFn := f, rrSq := tblSet f 0 s.host.rrSq } }

/-- One turn: up to 2^AB entries of one queue of one function. -/
def fetchTurn (s : State) : State :=
  let fns := (presentFns s).filter fun f => fnFetches s f && !(queuesPending s f).isEmpty
  match nextInRound s.host.rrFn fns with
  | none => s
  | some f => match nextInRound (tblGet 0 f s.host.rrSq) (queuesPending s f) with
    | none => s
    | some 0 => adminTurn s f
    | some k => match tblFind? k (fnOf s f).sqs with
      | none => s
      | some q =>
        let n := min (2 ^ (fnOf s f).feat.ab) (waiting q)
        let cls := tblGet s.prof.defaultClass (f, k) s.adm.bindings
        let got := (List.range n).map fun i => Fetched.mk f k ((q.head + i) % max 1 q.size) cls (now s)
        let s := updFn s f fun x => { x with sqs := tblSet k { q with head := (q.head + n) % max 1 q.size } x.sqs }
        { s with host := { s.host with fetched := s.host.fetched ++ got, rrFn := f, rrSq := tblSet f k s.host.rrSq } }

/-- Fetch until no queue has an entry waiting. -/
def fetchAll (s : State) : State :=
  if !hostFetches s then s
  else
    let n := sumNat (s.host.fns.map fun e => adminWaiting e.2 + sumNat (e.2.sqs.map fun q => waiting q.2))
    (List.range n).foldl (fun s _ => fetchTurn s) s

end Sys2Proof.Machine
end

