-- ==== Sys2Proof/Machine/Resets.lean ====
section
/-! DEFINITION. Resets of functions and of the link (R209, R210, R221 to R223, R244, R261): what a reset of Table 09.10 leaves of a
function's commands, queues, features, mailbox and keys. -/

namespace Sys2Proof.Machine

/-- The reset that reaches a function: a controller reset, an FLR (or the removal of a VF), or a conventional reset. -/
inductive ResetKind where
  | controller
  | flr
  | conventional
  deriving DecidableEq, Repr

/-! ### Commands (R222 steps 1 to 4) -/

/-- The write has taken its place: its zone has advanced, or its data has begun to arrive. A Copy does so once its sources
have been read. -/
def writePlaced (c : Cmd) : Bool :=
  match c.op with
  | .copy _ _ _ => decide (0 < c.arrived)
  | _ => true

/-- An accepted write with units that has taken its place. -/
def placedWrite (c : Cmd) : Bool := c.accepted && c.write && c.endStatus.isNone && decide (0 < c.units) && writePlaced c

/-- A write whose units have all reached both Eaves copies. -/
def wholeWrite (c : Cmd) : Bool := c.arrived == c.units && c.inA == c.units && c.inB == c.units

/-- Remove the data of an accepted write that is not kept: its Eaves units with their buffers and cache entries, and the data
it still awaits from the host. -/
def dropWriteData (s : State) (c : Cmd) : State :=
  let mine (e : EavesUnit) : Bool := e.order == c.order && e.nsid == c.nsid && e.cmd.isSome
  let us := s.eav.units.filter mine
  let staged := countP (fun e => !(e.inA && e.inB)) us
  let seqs := us.map (·.seq)
  let s := releaseBufs s 0 staged
  let await := match c.op with
    | .copy _ _ _ => 0
    | .writeZeroes _ _ _ => 0
    | _ => c.units - c.arrived
  { s with eav := { s.eav with units := s.eav.units.filter fun e => !mine e },
           buf := { s.buf with cache := s.buf.cache.filter fun e => !seqs.contains e.1 },
           adm := { s.adm with hostReadsOpen := s.adm.hostReadsOpen - await } }

/-- Set a zone's write pointer back to the start of the first write not kept. -/
def rewindZone (s : State) (nsid zi stop : Nat) : State :=
  let back (y : ZoneSt) : ZoneSt :=
    { y with wp := stop, st := if y.st == .full && decide (stop < y.wp) then .closed else y.st }
  if stop < (zone s nsid zi).wp then updZone s nsid zi back else s

/-- Keys of the zones that a function's placed writes write. -/
def writeZones (s : State) (f : Nat) : List (Nat × Nat) :=
  ((s.adm.cmds.filter fun c => c.fn == f && placedWrite c).filterMap fun c => c.zone.map fun z => (c.nsid, z)).eraseDups

/-- Drop the writes of a zone from the first one of the function that is not whole (R199, R222, R223): of every function, as
the later ones lie beyond it; another function's write ends with Internal Error (DESIGN CHOICE, log entry 56). -/
def cutZoneWrites (f : Nat) (k : Nat × Nat) (s : State) : State :=
  let here := s.adm.cmds.filter fun c => placedWrite c && c.nsid == k.1 && c.zone == some k.2
  match minNat? ((here.filter fun c => c.fn == f && !wholeWrite c).map (·.order)) with
  | none => s
  | some o =>
    let cut := here.filter fun c => decide (o ≤ c.order)
    let stop := (minNat? (cut.map (·.unit0))).getD 0 - k.2 * zoneUnits
    let s := forEach cut (fun c s =>
      let s := dropWriteData s c
      if c.fn == f then dropCmd s c else completeCmd s c .internalError 0 [] []) s
    rewindZone s k.1 k.2 stop

/-- A function's commands at a reset: zones and conventional writes keep what R199 keeps, held commands are discarded and
counted, the die bookings of reads run out without taking their data. -/
def resetCommands (s : State) (f : Nat) : State :=
  let s := forEach (writeZones s f) (cutZoneWrites f) s
  forEach (s.adm.cmds.filter (·.fn == f)) (fun c s =>
    if !c.accepted then discardCmd s c
    else if placedWrite c then
      dropCmd (if wholeWrite c then s else dropWriteData s c) c
    else dropCmd (leaveReads s c) c) s

/-! ### Haore requests of the function (R237, R244) -/

/-- Requests of a function's stream at a reset: writing requests run to their end and their responses are discarded, reading
requests are dropped, answers not yet posted are discarded with an event. -/
def resetStream (s : State) (st : Stream) : State :=
  let s := forEach (s.hmp.toPost.filter fun p => p.req.stream == st) (fun p s => accessError s (senderFn st.sender) (reqSlot p.req) 2) s
  { s with hmp := { s.hmp with toPost := s.hmp.toPost.filter fun p => p.req.stream != st,
                               answers := s.hmp.answers.filter fun r => !(r.stream == st && r.devtimeDone.isNone),
                               requests := (s.hmp.requests.filter fun q => q.stream != st || writingOp q.opcode).map fun q =>
                                 if q.stream == st then { q with copies := [], discard := true } else q } }

/-- The function of an admin command that waits for the Management island. -/
def waitingFn : AdmHmp → Nat
  | .cancel q _ _ => senderFn q.sender
  | .post a _ _ => a.fn
  | .collect a _ _ _ => a.fn
  | .exchange a _ _ => a.fn

/-- A function's Haore state at a reset: admin commands in progress and held responses go with every reset, the BAR mailbox
only with an FLR or conventional reset. -/
def resetHmp (s : State) (f : Nat) (k : ResetKind) : State :=
  let s := { s with hmp := { s.hmp with collects := s.hmp.collects.filter (·.fn != f), exchanges := s.hmp.exchanges.filter (·.fn != f),
                                        waiting := s.hmp.waiting.filter fun w => waitingFn w != f,
                                        held := s.hmp.held.filter fun r => r.stream.sender != .fn f } }
  let s := resetStream s ⟨.fn f, .admin⟩
  if k = .controller then s
  else updFn (resetStream s ⟨.fn f, .bar⟩) f fun x => { x with mailbox := mailboxDefault }

/-! ### Keys (R261) -/

/-- Clear the Key Per I/O slots and KEK of a function; its commands have ended, so no slot is pinned (Table 11.12). -/
def clearFnKeys (s : State) (f : Nat) : State :=
  { s with sec := { putSlots s.sec (s.sec.slots.filter fun e => !(e.2.state == 3 && e.2.owner == f)) with keks := tblDel f s.sec.keks } }

/-- Clear every Key Per I/O slot and KEK. -/
def clearAllKeys (s : State) : State :=
  { s with sec := { s.sec with slots := s.sec.slots.filter fun e => e.2.state != 3, keks := [] } }

/-! ### The function (R222 step 5) -/

/-- Registers, queues and features of a function after a reset. CFS stays while a device-level fault is latched (R317), or in
form B of the restricted phase (R394). KW_NOTIFY returns to its reset values, and SCRATCH at a conventional reset only
(R213). The configuration space stays at a controller reset (R221). Device state (R209) and the Error Information log stay. -/
def resetFnState (s : State) (k : ResetKind) (x : FnSt) : FnSt :=
  { x with ccEn := false, rdy := false, cfs := cfsLatched s || s.boot.formB, shst := 0, sqs := [], cqs := [],
           adminTail := 0, adminHead := 0, feat := featDefault, aers := [], aerMasked := [], aerPending := [], irqs := [], notify := 0,
           devtimeLatch := if k = .controller then x.devtimeLatch else 0,
           msixPending := if k = .controller then x.msixPending else [],
           msixMasked := if k = .controller then x.msixMasked else [],
           regErr := if k = .controller then x.regErr else 0,
           scratch := if k = .conventional then 0 else x.scratch, fetchPaused := false,
           bar0 := if k = .controller then x.bar0 else [], cfg := if k = .controller then x.cfg else cfgDefault }

/-- A reset reaches a function (R222). A firmware activation runs on, and its completion is discarded (R426). -/
def fnReset (k : ResetKind) (f : Nat) (s : State) : State :=
  let s := resetHmp (resetCommands s f) f k
  let s := { s with host := { s.host with fetched := s.host.fetched.filter (·.fn != f), cqWait := s.host.cqWait.filter (·.1.fn != f) },
                    adm := { s.adm with bindings := s.adm.bindings.filter (·.1.1 != f) } }
  let gone (a : Nat × Nat × Nat) : Nat × Nat × Nat := if a.1 = f then (65536, a.2) else a
  updFn { s with chg := { s.chg with activating := s.chg.activating.map gone } } f (resetFnState s k)

/-- VF function numbers that are present. -/
def presentVfs (s : State) : List Nat := (presentFns s).filter (· != 0)

/-- Clear VF Enable: the VF controllers are reset and removed; their assignments are held (R210, R221). -/
def removeVfs (k : ResetKind) (s : State) : State :=
  let s := forEach (presentVfs s) (fun f s => clearFnKeys (fnReset k f s) f) s
  let s := forEach (presentVfs s) (fun f s => updFn s f fun x => { x with present := false, online := false }) s
  { s with host := { s.host with vfEnabled := false } }

/-- A PF FLR: the PF and all VFs, VF Enable cleared, keys cleared (R221, R261). -/
def resetPf (s : State) (k : ResetKind) : State := clearAllKeys (fnReset k 0 (removeVfs k s))

/-- A conventional reset (R221): every function; the link retrains. Ignored while Power Loss is raised (R223). -/
def conventional (s : State) : State :=
  if s.eav.powerLoss then s
  else resetPf (linkDown s) .conventional

/-! ### The commands -/

/-- PERST_N_DEASSERT (R391): the link trains, except in board test mode (R439); a wake event while Battened comes from its assertion. -/
def execPerstNDeassert (rate width : Nat) (s : State) : Host.Outcome State Fault Refusal :=
  .next (let s := { s with pins := { s.pins with perstN := true } }
    if !isRunning s 1 || s.eav.powerLoss || !linkLegal rate width || s.pins.testMode then s else linkTo s rate width)

/-- CONVENTIONAL_RESET (R221): PERST_N asserted, a Hot Reset or DL_Down. A Battened part wakes (R398). -/
def execConventionalReset (s : State) : Host.Outcome State Fault Refusal :=
  .next (conventional (beginWake s .perst))

/-- PF_FLR (R221). -/
def execPfFlr (s : State) : Host.Outcome State Fault Refusal :=
  .next (if s.eav.powerLoss || !s.host.linkUp then s else resetPf (beginWake s .flr) .flr)

/-- VF_FLR (R221, R261). -/
def execVfFlr (fn : Nat) (s : State) : Host.Outcome State Fault Refusal :=
  .next (if s.eav.powerLoss || !s.host.linkUp || fn = 0 || !(fnOf s fn).present then s
    else clearFnKeys (fnReset .flr fn (beginWake s .flr)) fn)

/-- Queue resources of each VF when VF Enable is set (R210): the held assignments at the same NumVFs, else the default, which replaces them
all. CFS shows a device-level fault (R225). -/
def assignVfs (s : State) (n : Nat) : State :=
  let share := min 128 (16256 / n)
  let s := if n = s.host.lastNumVfs then s
    else { s with host := { s.host with fns := s.host.fns.map fun e => (e.1, { e.2 with vqHeld := 0 }) } }
  forEach ((List.range n).map (· + 1)) (fun f s => updFn s f fun x =>
    { x with present := true, online := true, cfs := cfsLatched s || s.boot.formB, vqAssigned := if n = s.host.lastNumVfs then x.vqHeld else share,
             vqHeld := if n = s.host.lastNumVfs then x.vqHeld else share }) s

/-- VF_ENABLE (R210): VF Enable set with NumVFs from 1 to TOTAL_VFS; in form A of the restricted phase VF controllers stay not
ready. -/
def execVfEnable (numVfs : Nat) (s : State) : Host.Outcome State Fault Refusal :=
  .next (if !s.host.linkUp || s.host.vfEnabled || numVfs = 0 || s.prof.totalVfs < numVfs then s
    else
      let s := assignVfs s numVfs
      { s with host := { s.host with vfEnabled := true, numVfs := numVfs, lastNumVfs := numVfs } })

/-- VF_DISABLE (R221). -/
def execVfDisable (s : State) : Host.Outcome State Fault Refusal :=
  .next (if !s.host.linkUp || !s.host.vfEnabled || s.eav.powerLoss then s else removeVfs .flr s)

/-- CC_ENABLE (R210, R219, R390, R393, R394): the admin queues take the sizes of AQA, and the controller is ready at PHASE 5. A secondary controller that is Offline, a VF in form A of the
restricted phase, and every function in form B fail with CFS. -/
def execCcEnable (fn : Nat) (s : State) : Host.Outcome State Fault Refusal :=
  .next (if !barReachable s fn || (fnOf s fn).ccEn then s
    else
      let s := beginWake s .register
      let s := updFn s fn fun x => { x with ccEn := true, ccAt := now s, cqs := tblSet 0 { cqDefault with size := adminSize x 16 } x.cqs }
      let x := fnOf s fn
      if !x.online || (s.boot.phase == 7 && (fn != 0 || s.boot.formB)) then updFn s fn fun x => { x with cfs := true }
      else if s.boot.phase = 5 || s.boot.phase = 6 || s.boot.phase = 7 then updFn s fn fun x => { x with rdy := !x.cfs }
      else s)

/-- CONTROLLER_RESET (R221, R222): CC.EN from 1 to 0. -/
def execControllerReset (fn : Nat) (s : State) : Host.Outcome State Fault Refusal :=
  .next (if !barReachable s fn || !(fnOf s fn).ccEn then s else fnReset .controller fn (beginWake s .register))

/-- CONTROLLER_SHUTDOWN (R223): the PF's checkpoints the tables and marks the next start clean; a VF's stops fetch and
discards its held commands. -/
def execControllerShutdown (fn : Nat) (s : State) : Host.Outcome State Fault Refusal :=
  .next (if !barReachable s fn || !(fnOf s fn).ccEn then s
    else
      let s := beginWake s .register
      let s := updFn s fn fun x => { x with shst := 2 }
      if fn = 0 then
        { s with boot := { s.boot with cleanMark := s.boot.phase == 5 || s.boot.phase == 6 || s.boot.cleanMark },
                 eav := { s.eav with journalTail := 0 } }
      else
        let s := updFn s fn fun x => { x with fetchPaused := true }
        forEach (s.adm.cmds.filter fun c => c.fn == fn && !c.accepted) (fun c s => discardCmd s c) s)

/-- MSIX_UNMASK (R220): the vector is unmasked and its pending message issued. -/
def execMsixUnmask (fn vector : Nat) (s : State) : Host.Outcome State Fault Refusal :=
  .next (if vectorsOf fn ≤ vector || !(fnOf s fn).present then s
    else
      let was := (fnOf s fn).msixPending.contains vector
      let s := updFn s fn fun x => { x with msixMasked := x.msixMasked.filter (· != vector), msixPending := x.msixPending.filter (· != vector) }
      if was then raiseVector s fn vector else s)

end Sys2Proof.Machine
end

