-- ==== Sys2Proof/Machine/Islands.lean ====
section
/-! DEFINITION. Island state changes, stalls, PLLs and the reference clock (R14, R17 to R20, R320, R383, Table 01.7), and the
failover of Purlin and Ridge cores (R269, R323, R421). -/

namespace Sys2Proof.Machine

/-! ### Losing and returning an island (R18, R19, Table 01.7) -/

/-- The soft decoders are away: each decode in progress fails, and its ladder goes on (Table 01.7). -/
def softLost (s : State) (st : IslState) : State := softAway (setIslandState s 8 st)

/-- Key slots after the Ridge island's reset (R257, R261): media keys come from the key store, Key Per I/O keys and KEKs are
gone. -/
def startKeys (x : SecSt) : SecSt :=
  { x with slots := x.keyStore, keyCache := [], keks := [], regions := [], staged := none, stagedProfile := none }

/-- Haore state after a start-up: requests, answers and handles go; what has been sent stays sent. -/
def startHmp (x : HmpSt) : HmpSt :=
  { hmpReset with journal := x.journal, mctpOut := x.mctpOut, barOut := x.barOut, miOut := x.miOut, mctpEid := x.mctpEid }

/-- The link goes with the Host island, as DL_Down (R221). -/
def linkLost (s : State) : State := resetPf (linkDown s) .conventional

/-- The commands, calendars and bookings that the Admission island holds go with its logic state (Tables 01.1, 01.2); the contracts
are device state (R209) and have empty buckets until it refills them (DESIGN CHOICE, log entry 77). -/
def admissionLost (s : State) : State :=
  let s := forEach s.adm.cmds (fun c s => dropCmd s c) s
  { s with adm := { s.adm with contracts := s.adm.contracts.map fun k => { k with cmdLevel := 0, byteLevel := 0, cmdFull := 0, byteFull := 0 }, draws := [], prevDraws := [] },
           fl := { s.fl with calendar := [], occupancy := [] } }

/-- A copy's target whose source data lay in staging SRAM has it read again. -/
def stagingLost (x : ThatchSt) : ThatchSt :=
  match x.bufs with
  | [] => x
  | b :: _ => { x with bufs := [], reread := some (min b.1 (x.reread.getD b.1)) }

/-- Staging SRAM, the Loft's tags and the spar accumulators go with the Fabric island's logic state. -/
def fabricLost (s : State) : State :=
  { s with buf := bufReset, dram := { s.dram with loft := [] },
           fl := { s.fl with rebuilds := [], thatches := s.fl.thatches.map fun e => (e.1, stagingLost e.2) },
           eav := { s.eav with underlayMoves := s.eav.underlayMoves.map fun m => { m with bufs := 0 } } }

/-- Long operations that the Management island's firmware runs. -/
def managementOps (x : ChangeSt) : List (Sender × Nat) :=
  x.recal.toList.map (fun o => (o.1, o.2.1)) ++ x.ucLoad.toList.map (fun o => (o.1, o.2.1)) ++ x.coreOp.map (fun o => (o.1, o.2.1)) ++ x.qOp

/-- The operations of the Management island go with its logic state: their handles end with Internal Error (DESIGN CHOICE, log
entry 132). Taken requests are run again, or their journalled responses posted again, when it returns (R242, R244). -/
def managementLost (s : State) : State :=
  let s := forEach (managementOps s.chg) (fun o s => endLong s o.1 o.2 hsInternal (newestSeq s)) (resumeHmp s)
  { s with chg := { s.chg with activating := none, rounds := 0, ucLoad := none, ucTurnLow := none, ucTurnHigh := none, recal := none,
                               coreOp := [], qOp := [] } }

/-- What an island other than a channel, a DRAM channel or Soft-Decode loses when it is held in reset or gated (Tables 01.1 and 01.2). -/
def logicLost (s : State) (id : Nat) : State :=
  match id with
  | 1 =>
    let s := { s with sec := { s.sec with keyCache := [] } }
    if s.host.linkUp then linkLost s else s
  | 2 => admissionLost s
  | 3 => managementLost s
  | 4 => { s with sec := { startKeys s.sec with regions := s.sec.regions } }
  | 5 => fabricLost s
  | _ => s

/-- Put an island into a state other than Running, with what that loses: a channel through its drain for Isolated, with its
descriptors otherwise; a DRAM channel with its contents; any other with its logic state. A Stopped channel runs while it drains
towards Isolated (DESIGN CHOICE, log entry 77: the spec does not say how it gets there). -/
def leaveRunning (s : State) (id : Nat) (st : IslState) : State :=
  if 16 ≤ id then
    match st with
    | .isolated =>
      if isRunning s id then startDrain s (id - 16)
      else if (island s id).st == .stopped && !(island s id).fenced then startDrain (setIslandState s id .running) (id - 16)
      else setIslandState s id .isolated
    | .stopped => setIslandState s id .stopped
    | st => channelLost s (id - 16) st
  else if id = 6 || id = 7 then
    match st with
    | .heldInReset => dramLost s (id == 7) st
    | .gated => dramLost s (id == 7) st
    | st => setIslandState s id st
  else if id = 8 then
    match st with
    | .stopped => setIslandState s 8 .stopped
    | st => softLost s st
  else if 3 ≤ stateDepth st then logicLost (setIslandState s id st) id
  else setIslandState s id st

/-- Release an island towards Running: a Stopped one that has kept its logic state runs on at once; a channel that lost its
state waits for RB_N first (Table 06.11); any other reports Running later. A channel excluded by R317 stays where it is. -/
def releaseIsland (s : State) (id : Nat) : State :=
  let i := island s id
  if i.st == .running then s
  else if i.st == .stopped && !i.fenced then setIslandState s id .running
  else if !i.lost then updIsland s id fun i => { i with released := true }
  else if 16 ≤ id then
    if s.flt.excludedChannels.contains (id - 16) then s
    else releaseChannel (updIsland s id fun i => { i with st := .heldInReset }) (id - 16)
  else updIsland s id fun i => { i with st := .heldInReset, released := true }

/-- An island reports Running (R19): its fences lift, and its work goes on. -/
def islandReturns (s : State) (id : Nat) : State :=
  if 16 ≤ id then channelReturns s (id - 16)
  else if id = 6 || id = 7 then dramReturns s (id == 7)
  else if id = 9 then airReturns s
  else
    let s := setIslandState s id .running
    if id = 3 then resumePurlin (kickCores s) else s

/-- Hold an island in reset and release it again (R320, R383). -/
def restartIsland (s : State) (id : Nat) : State := releaseIsland (leaveRunning s id .heldInReset) id

/-- ISLAND_REPORTS_RUNNING (R19): an island that has been released and has not reported yet. -/
def execIslandReportsRunning (island' : Nat) (s : State) : Host.Outcome State Fault Refusal :=
  .next (if islIdValid island' && (island s island').released && !s.eav.powerLoss then islandReturns s island' else s)

/-! ### Requests (R20) -/

/-- States that firmware may set in service (Table 01.1, last column). -/
def firmwareStates (id : Nat) : List IslState :=
  if id = 8 then [.stopped, .isolated, .heldInReset, .gated]
  else if id = 9 then [.isolated, .heldInReset, .gated]
  else if 16 ≤ id then [.stopped, .isolated, .heldInReset, .gated]
  else []

/-- A request lies within its requester's reach (R20): the Ridge core pair may release Management once, at start-up. The AON
island stays Running. -/
def withinReach (s : State) (id : Nat) : Requester × IslState → Bool
  | (.firmware, st) => id != 0 && id != 4 && (st == .running || (firmwareStates id).contains st)
  | (.ridge, st) => id == 4 || (id == 3 && st == .running && (island s 3).st == .heldInReset && decide (s.boot.phase < 5) && !s.isl.ridgeReleased)
  | (.aon, st) => id != 0 || st == .running

/-- Number of a requester in event 0x0022 (DESIGN CHOICE, log entry 23). -/
def requesterNo : Requester → Nat
  | .firmware => 0
  | .ridge => 1
  | .aon => 2

/-- Precedence of a request: AON hardware first, then the deeper state. -/
def requestRank (r : Requester × IslState) : Nat :=
  (match r.1 with
   | .aon => 8
   | _ => 0) + stateDepth r.2

/-- The request that wins (R20). -/
def winner (l : List (Requester × IslState)) : Option (Requester × IslState) :=
  l.foldl (fun a r => match a with
    | none => some r
    | some b => if requestRank b < requestRank r then some r else some b) none

/-- Event 0x0022 of a rejected request. -/
def rejectRequest (s : State) (id : Nat) (r : Requester × IslState) (by' : Nat) : State :=
  recordEvent s 0x0022 1 0 id (leBytes 1 id ++ leBytes 1 (stateDepth r.2) ++ leBytes 1 (requesterNo r.1) ++ leBytes 1 by')

/-- Requests that are not carried out, each with its event. -/
def rejectAll (s : State) (id by' : Nat) (reqs : List (Requester × IslState)) : State :=
  forEach reqs (fun r s => rejectRequest s id r by') s

/-- An island goes to the state that prevailed. -/
def moveIsland (s : State) (id : Nat) (st : IslState) : State :=
  if st == .running then releaseIsland s id else if (island s id).st == st then s else leaveRunning s id st

/-- The Ridge core pair has used its release of Management. -/
def noteRelease (s : State) (id : Nat) (w : Requester × IslState) : State :=
  if id = 3 && w.1 == .ridge then { s with isl := { s.isl with ridgeReleased := true } } else s

/-- ISLAND_STATE_REQUEST (R20): the requests that coincide for one island. A request for the state that prevails is carried out
with the one that prevails, so it has not lost and is not recorded (DESIGN CHOICE, log entry 77: the spec does not say). -/
def execIslandStateRequest (island' : Nat) (reqs : List (Requester × IslState)) (s : State) : Host.Outcome State Fault Refusal :=
  .next (if !islIdValid island' then s
    else
      let ok := reqs.filter (withinReach s island')
      let t := rejectAll s island' 0xFF (reqs.filter fun r => !withinReach s island' r)
      match winner ok with
      | none => t
      | some w => moveIsland (noteRelease (rejectAll t island' (requesterNo w.1) (ok.filter fun r => r.2 != w.2)) island' w) island' w.2)

/-- Source of a stall into an island (Table 14.1). -/
def stallSrc (dst : Nat) : Nat := if dst < 10 then 256 + dst else if dst < 32 then 266 else 267

/-- Handshake channel number of a first-error record: source and destination island, and bit 16 for a data channel (DESIGN CHOICE,
log entry 54). -/
def handshakeNo (src : Nat) (into : ChannelEnd) : Nat := 256 * src + into.island + if into.data then 65536 else 0

/-- The destination is changing state at firmware's request: it drains, or has left Running and fenced the channel (R19, R320). The
control channel from Management to an Isolated island is not fenced (Table 01.2). -/
def changingState (s : State) (src : Nat) (into : ChannelEnd) : Bool :=
  (decide (16 ≤ into.island) && (chan s (into.island - 16)).draining.isSome) || isFenced s src into.island into.data

/-- The wait that a stall row reports is the one already raised: a new one of 50 µs cannot have run since. -/
def sameWait (s : State) (src : Nat) (into : ChannelEnd) : Bool :=
  s.isl.stalls.any fun e => e.src == src && e.into == into && decide (now s < e.since + 50)

/-- HANDSHAKE_STALL (R17): a source has waited 50 µs on one channel; it keeps waiting, and no token is discarded. A wait that
follows an earlier one on the channel, which has cleared meanwhile, is raised again. -/
def execHandshakeStall (src : Nat) (into : ChannelEnd) (s : State) : Host.Outcome State Fault Refusal :=
  .next (if !islIdValid src || !islIdValid into.island || changingState s src into || sameWait s src into then s
    else
      let old := s.isl.stalls.filter fun e => !(e.src == src && e.into == into)
      raiseFault { s with isl := { s.isl with stalls := old ++ [⟨src, into, now s⟩] } } (stallSrc into.island)
        (capOf 0xFF 3 (handshakeNo src into) into.island into.island))

/-- What follows a stall of 1 ms (R320): the destinations that firmware may set in service and the DRAM islands are held in
reset and restarted; a channel by the drain and bring-up of R317. The Management island leaves Running too (Table 01.7); that it is
restarted like the others is DEDUCED (log entry 112). -/
def restartStalled (s : State) (dst : Nat) : State :=
  if 16 ≤ dst then severeChannel s (dst - 16)
  else if [3, 6, 7, 8, 9].contains dst then restartIsland s dst
  else s

/-- HANDSHAKE_STALL_SEVERE (R320): the stall has not cleared 1 ms after it was raised. -/
def execHandshakeStallSevere (src : Nat) (into : ChannelEnd) (s : State) : Host.Outcome State Fault Refusal :=
  .next (match s.isl.stalls.find? fun e => e.src == src && e.into == into with
    | none => s
    | some e =>
      if now s < e.since + 1000 then s
      else
        let s := { s with isl := { s.isl with stalls := s.isl.stalls.erase e } }
        restartStalled (makeSevere s (stallSrc into.island) into.island) into.island)

/-! ### PLLs and the reference clock (R382, R383) -/

/-- Reaction to a PLL that loses lock: the island is held in reset, relocked and restarted. -/
def pllReact (s : State) (id : Nat) : State :=
  if id = 0 || !islIdValid id || !(isRunning s id || (island s id).st == .stopped || (island s id).st == .isolated) then s
  else restartIsland s id

/-- PLL_LOSS_OF_LOCK (R383). A PLL of an island that is held in reset or gated holds no lock to lose. -/
def execPllLossOfLock (island' : Nat) (s : State) : Host.Outcome State Fault Refusal :=
  .next (if island' = 0 || !islIdValid island' || decide (3 ≤ stateDepth (island s island').st) then s
    else pllReact (raiseFault s 311 (capOf 6 5 0 island' island')) island')

/-- Hold an island in reset, if it is not deeper already. -/
def holdInReset (s : State) (id : Nat) : State :=
  if 3 ≤ stateDepth (island s id).st then s else leaveRunning s id .heldInReset

/-- CLK_SYSREF has stopped. -/
def sysrefLost (s : State) : State := { s with isl := { s.isl with sysrefOk := false } }

/-- Reaction to a lost reference clock: every island fed from CLK_SYSREF is held in reset until a device restart. -/
def sysrefReact (s : State) : State :=
  forEach ((List.range 41).map fun i => islIdOf (i + 1)) (fun id s => holdInReset s id) (sysrefLost s)

/-- REFERENCE_CLOCK_LOST (R383): CLK_SYSREF has stopped for 1 µs. -/
def execReferenceClockLost (s : State) : Host.Outcome State Fault Refusal :=
  .next (if !s.isl.sysrefOk then s else sysrefReact (raiseFault s 312 (capOf 6 5 0 0 0)))

/-! ### Cores (R269, R323, R421) -/

/-- A Purlin core. -/
def coreOf (s : State) (i : Nat) : CoreSt := vecGet ⟨.retired, 0, false, false⟩ s.flt.cores i

/-- Change a Purlin core. -/
def updCore (s : State) (i : Nat) (f : CoreSt → CoreSt) : State :=
  { s with flt := { s.flt with cores := vecUpd s.flt.cores i f } }

/-- The standby core that takes over: the lowest-numbered one; during a dump, when the others are in reset, one that is not
retired. -/
def nextStandby (s : State) : Option Nat :=
  match s.flt.cores.findIdx? fun c => c.st == .standby with
  | some k => some k
  | none => if s.eav.dumpStart.isSome then s.flt.cores.findIdx? fun c => c.st == .inReset else none

/-- A core leaves the active state and its work goes to a standby, or is spread over the others (R242, R323 steps 1 to 4). Fewer
than four active cores latch its source as severe. -/
def coreReact (s : State) (i : Nat) (retire : Bool) : State :=
  if (coreOf s i).st == .retired then s
  else
    let was := (coreOf s i).st == .active
    let s := updCore s i fun c => { c with st := .selfTest, retire := c.retire || retire }
    if !was then s
    else
      let s := resumeHmp (match nextStandby s with
        | some k => updCore s k fun c => { c with st := .active, lastKick := now s }
        | none => s)
      if activeCores s < 4 && s.eav.dumpStart.isNone then makeSevere s (292 + i) 3 else s

/-- CORE_WATCHDOG_EXPIRY (R323): 100 µs have passed since an active core's last kick. -/
def execCoreWatchdogExpiry (core : Nat) (s : State) : Host.Outcome State Fault Refusal :=
  .next (if (coreOf s core).st != .active || !isRunning s 3 || decide (now s < (coreOf s core).lastKick + 100) then s
    else coreReact (raiseFault s (292 + core) (capOf 1 5 0 core 3)) core false)

/-- A Ridge core. -/
def ridgeOf (s : State) (i : Nat) : CoreSt := vecGet ⟨.retired, 0, false, false⟩ s.flt.ridge i

/-- Change a Ridge core. -/
def updRidge (s : State) (i : Nat) (f : CoreSt → CoreSt) : State :=
  { s with flt := { s.flt with ridge := vecUpd s.flt.ridge i f } }

/-- The active Ridge core fails and the other takes over (R269); it is tested as a Purlin core is (DEDUCED, log entry 54).
With both out the fault is device-level. -/
def ridgeReact (s : State) (i : Nat) (retire : Bool) : State :=
  if (ridgeOf s i).st == .retired then s
  else
    let was := (ridgeOf s i).st == .active
    let s := updRidge s i fun c => { c with st := .selfTest, retire := c.retire || retire }
    let o := 1 - i
    let s := if was && (ridgeOf s o).st == .standby then updRidge s o fun c => { c with st := .active, lastKick := now s } else s
    if ridgeIn s = 0 then makeSevere s (302 + i) 4 else s

/-- Number of the active Ridge core. -/
def activeRidge (s : State) : Nat := (s.flt.ridge.findIdx? fun c => c.st == .active).getD 0

/-- End the Core Failover operations that wait for a core. -/
def endCoreOps (s : State) (core status detail : Nat) : State :=
  let mine := s.chg.coreOp.filter fun e => e.2.2 == core
  let s := forEach mine (fun e s => endLong s e.1 e.2.1 status detail) s
  { s with chg := { s.chg with coreOp := s.chg.coreOp.filter fun e => e.2.2 != core } }

/-- State of a core after its self-test: standby where it passed, active again where no core is, else retired. -/
def afterTest (c : CoreSt) (ok : Bool) : CoreSt := { c with st := if ok then .standby else .retired, newImage := c.newImage && ok }

/-- CORE_SELF_TEST_DONE (R323 step 3): cores 0 to 9 Purlin, 10 and 11 Ridge. A core that passes, whose source is not severe
and that is not to retire, becomes a standby; where no active Ridge core is left, it serves again. -/
def execCoreSelfTestDone (core : Nat) (passed : Bool) (s : State) : Host.Outcome State Fault Refusal :=
  .next (if core < 10 then
      let c := coreOf s core
      if c.st != .selfTest then s
      else endCoreOps (updCore s core fun c => afterTest c (passed && !c.retire && !(faultSrc s (292 + core)).severe)) core hsSuccess 0
    else if core < 12 then
      let i := core - 10
      let c := ridgeOf s i
      if c.st != .selfTest then s
      else
        let ok := passed && !c.retire && !(faultSrc s (302 + i)).severe
        let lone := (ridgeOf s (1 - i)).st != .active
        let s := updRidge s i fun c => if ok && lone then { c with st := .active, lastKick := now s } else afterTest c ok
        endCoreOps s core hsSuccess 0
    else s)

abbrev ruleFailover : HmpRule := rule 0x0404 (sendPfOobR 1) (some 4)

/-- Conflict of a Core Failover as its reason (R421). A core that is not active leaves the count as it is. -/
def failoverConflict (s : State) (core : Nat) : Option Nat :=
  if s.chg.activating.isSome then some 3
  else if core < 10 then
    let after := activeCores s - (if (coreOf s core).st == .active && (nextStandby s).isNone then 1 else 0)
    if after < 4 then some 1 else none
  else if !coreIn (ridgeOf s (11 - core)) then some 2
  else none

/-- The state of a core by its number in Core Failover. -/
def failoverCore (s : State) (core : Nat) : CoreSt := if core < 10 then coreOf s core else ridgeOf s (core - 10)

/-- Hand a core's work over (R421). -/
def handOver (s : State) (core : Nat) (retire : Bool) : State :=
  if core < 10 then coreReact s core retire else ridgeReact s (core - 10) retire

/-- CORE_FAILOVER_RETURN (R421 action 0): hand over, self-test, return as standby; on a standby core nothing changes. A
retired core cannot be handed over: Unknown Object (DESIGN CHOICE, log entry 54). -/
def execCoreFailoverReturn (q : HmpHdr) (core : Nat) (s : State) : Host.Outcome State Fault Refusal :=
  .next (hmpServe s q ruleFailover fun s =>
    if 12 ≤ core then answer s q 0x0404 hsOutOfRange 0 []
    else
      let c := failoverCore s core
      if c.st == .standby then startLong s q 0x0404 fun s h => endLong s q.sender h hsSuccess 0
      else if c.st == .retired then answer s q 0x0404 hsUnknown 0 []
      else match failoverConflict s core with
        | some r => startFailed s q 0x0404 hsConflict r
        | none => if !plannedOk s then s else startLong (plannedStep s) q 0x0404 fun s h =>
          handOver { s with chg := { s.chg with coreOp := s.chg.coreOp ++ [(q.sender, h, core)] } } core false)

/-- Retire a core at once (R421 action 1). -/
def retireCore (s : State) (core : Nat) : State :=
  if core < 10 then updCore s core fun c => { c with st := .retired, retire := true }
  else updRidge s (core - 10) fun c => { c with st := .retired, retire := true }

/-- CORE_FAILOVER_RETIRE (R421 action 1): hand over and retire, for good (R325). -/
def execCoreFailoverRetire (q : HmpHdr) (core : Nat) (s : State) : Host.Outcome State Fault Refusal :=
  .next (hmpServe s q ruleFailover fun s =>
    if 12 ≤ core then answer s q 0x0404 hsOutOfRange 0 []
    else
      let c := failoverCore s core
      if c.st == .retired then startLong s q 0x0404 fun s h => endLong s q.sender h hsSuccess 0
      else match failoverConflict s core with
        | some r => startFailed s q 0x0404 hsConflict r
        | none => if !plannedOk s then s else startLong (plannedStep s) q 0x0404 fun s h =>
          endLong (endCoreOps (retireCore (handOver s core true) core) core hsSuccess 0) q.sender h hsSuccess 0)

/-! ### Island State Report (R395) -/

/-- The PLLs of an island hold lock: it runs, is only stopped or isolated, and the Host island's are off while Battened
(R397, log entry 11). -/
def pllLocked (s : State) (id : Nat) : Bool :=
  decide (stateDepth (island s id).st < 3) && !(id == 1 && s.boot.phase == 6)

/-- One island byte of Table 18.7. -/
def islandByte (s : State) (id : Nat) : Nat :=
  stateDepth (island s id).st + (if pllLocked s id then 8 else 0) + (if id = 0 && s.tm.onBackup then 16 else 0)

/-- The 88 bytes of Table 18.7. -/
def islandBytes (s : State) : List Byte :=
  leBytes 8 (now s) ++ leBytes 1 s.boot.phase ++ leBytes 1 s.boot.reason ++ leBytes 1 s.boot.startKind ++
    leBytes 1 s.boot.lastReset ++ ((List.range 42).flatMap fun i => leBytes 1 (islandByte s (islIdOf i))) ++ zeros 2 ++
    (s.boot.phaseAt.flatMap fun t => leBytes 4 (match t with
      | some t => t / 1000
      | none => 0xFFFFFFFF))

abbrev ruleIslandReport : HmpRule := rule 0x0407 sendPfOob (some 0)

/-- ISLAND_STATE_REPORT (R395). -/
def execIslandStateReport (q : HmpHdr) (s : State) : Host.Outcome State Fault Refusal :=
  .next (hmpServe s q ruleIslandReport fun s => reply s q 0x0407 (islandBytes s))

end Sys2Proof.Machine
end

