-- ==== Sys2Proof/Machine/Supplies.lean ====
section
/-! DEFINITION. Supplies, charger, health audit, PWRDIS, PMIC and AON clock (chapter 17, R381). -/

namespace Sys2Proof.Machine

/-- Event 0x0060: C in µF, ESR in mΩ, E_meas in mJ. -/
def supplyEvent (s : State) (sev : Nat) : State :=
  recordEvent s 0x0060 sev 0 0 (leBytes 4 s.sup.capUf ++ leBytes 2 s.sup.esrMohm ++ leBytes 4 (eMeasMj s))

/-! ### Rails (R363, R364, Tables 17.2 and 17.3) -/

/-- Nominal voltage in mV, and operating and guard range in percent, of the eleven rails of Table 17.2 in its order. -/
def railSpec (r : Nat) : Nat × Nat × Nat :=
  match r with
  | 0 => (750, 3, 6)
  | 1 => (750, 3, 6)
  | 2 => (850, 3, 6)
  | 3 => (900, 3, 6)
  | 4 => (850, 3, 6)
  | 5 => (1100, 3, 6)
  | 6 => (1100, 3, 6)
  | 7 => (1200, 5, 8)
  | 8 => (1200, 5, 8)
  | 9 => (1800, 5, 8)
  | _ => (1800, 5, 8)

/-- A voltage lies within a percentage of nominal. -/
def withinPct (mv nominal pct : Nat) : Bool :=
  decide (nominal * (100 - pct) ≤ mv * 100) && decide (mv * 100 ≤ nominal * (100 + pct))

/-- Within the operating range. -/
def railOperating (r mv : Nat) : Bool := withinPct mv (railSpec r).1 (railSpec r).2.1

/-- Within the guard range. -/
def railGuarded (r mv : Nat) : Bool := withinPct mv (railSpec r).1 (railSpec r).2.2

/-- A rail's record. -/
def railOf (s : State) (r : Nat) : RailSt := vecGet railDefault s.sup.rails r

/-- Change a rail's record. -/
def updRail (s : State) (r : Nat) (f : RailSt → RailSt) : State :=
  { s with sup := { s.sup with rails := vecUpd s.sup.rails r f } }

/-- Take a reading of a rail: the extremes since the last Supply Report follow it (Table 17.7). -/
def readRail (s : State) (r mv : Nat) : State :=
  updRail s r fun x => { x with reading := mv, lowest := if x.lowest = 0 then mv else min x.lowest mv, highest := max x.highest mv }

/-- RAIL_OUT_OF_RANGE (R363): outside its operating range and inside its guard range; source 308 names the rail in the
capture's detail, and its event is that of the source (R322; DEDUCED, log entry 57). -/
def execRailOutOfRange (rail mv : Nat) (s : State) : Host.Outcome State Fault Refusal :=
  .next (if 11 ≤ rail || railOperating rail mv || !railGuarded rail mv then s
    else
      let s := updRail (readRail s rail mv) rail fun x => { x with badSince := some (x.badSince.getD (now s)) }
      raiseFault s 308 (capOf 6 5 0 rail 0))

/-- Channels of the half that a VCCQ_FL rail feeds. -/
def railChannels (rail : Nat) : List Nat := (List.range 16).map fun i => 16 * (rail - 7) + i

/-- What an excursion leads to (Table 17.3). A short one of VCCQ_FL repeats transfers within the allowance that source 308
gives. -/
def excursionAct (s : State) (rail us : Nat) : State :=
  match rail with
  | 4 => conventional s
  | 5 => if 3 ≤ stateDepth (island s 6).st then s else dramLost s false .heldInReset
  | 6 => if 3 ≤ stateDepth (island s 7).st then s else dramLost s true .heldInReset
  | 7 => if us ≤ 400 then s else forEach ((railChannels 7).filter fun c => isRunning s (chIsland c)) (fun c s => channelLost s c .heldInReset) s
  | 8 => if us ≤ 400 then s else forEach ((railChannels 8).filter fun c => isRunning s (chIsland c)) (fun c s => channelLost s c .heldInReset) s
  | 10 => airLow s false
  | _ => raisePowerLoss s

/-- A rail's reading outside the guard range, and since when. -/
def noteExcursion (s : State) (rail mv us : Nat) : State :=
  let held := decide (us ≤ 400) && (rail == 7 || rail == 8)
  updRail (readRail s rail mv) rail fun x =>
    { x with badSince := some (x.badSince.getD (now s)), excursionAt := if held then x.excursionAt else some (x.excursionAt.getD (now s)) }

/-- RAIL_EXCURSION (R364): outside the guard range for more than 2 µs. -/
def execRailExcursion (rail mv durationUs : Nat) (s : State) : Host.Outcome State Fault Refusal :=
  .next (if 11 ≤ rail || railGuarded rail mv || decide (durationUs ≤ 2) then s
    else excursionAct (raiseFault (noteExcursion s rail mv durationUs) 308 (capOf 6 5 0 rail 0)) rail durationUs)

/-- How long a rail must be back in its operating range before what its excursion stopped goes on, in µs (R364, Table 17.3). -/
def railSettle (rail : Nat) : Nat :=
  match rail with
  | 4 => 1000
  | 5 => 0
  | 6 => 0
  | 7 => 1000
  | 8 => 1000
  | 10 => 0
  | _ => 100000

/-- What goes on once a rail is back (Table 17.3): the link retrains, the DRAM island or the channels of the half are
released, the blower starts. After a dump every island waits for the device restart. -/
def railBack (s : State) (rail : Nat) : State :=
  if s.eav.powerLoss then s
  else match rail with
    | 4 => if s.host.rate = 0 then s else linkTo s s.host.rate s.host.width
    | 5 => releaseIsland s 6
    | 6 => releaseIsland s 7
    | 7 => forEach ((railChannels 7).filter fun c => !isRunning s (chIsland c)) (fun c s => releaseIsland s (chIsland c)) s
    | 8 => forEach ((railChannels 8).filter fun c => !isRunning s (chIsland c)) (fun c s => releaseIsland s (chIsland c)) s
    | 10 => if isRunning s 9 && s.air.st == .off then restartBlower s else s
    | _ => s

/-- RAIL_RETURN_IN_RANGE (R364): the rail has stayed within its operating range for `forUs`. -/
def execRailReturnInRange (rail forUs : Nat) (s : State) : Host.Outcome State Fault Refusal :=
  .next (if 11 ≤ rail || forUs < railSettle rail then s
    else
      let was := (railOf s rail).excursionAt.isSome
      let s := updRail s rail fun x => { x with reading := (railSpec rail).1, badSince := none, excursionAt := none }
      if was then railBack s rail else s)

/-! ### Charger and audit (R370 to R373) -/

/-- HU_TARGET in mV. -/
def targetMv (s : State) : Nat := s.prof.huTarget * 100

/-- An audit runs. -/
def auditing (s : State) : Bool := s.sup.audit != .idle

/-- Unsettled bytes of every function. -/
def unsettledBytes (s : State) : Nat :=
  4096 * (s.eav.units.length + sumNat ((s.adm.cmds.filter fun c => c.accepted && c.write).map fun c => c.units - c.arrived))

/-- End an audit and its long operation; the load off. -/
def endAudit (s : State) (status detail : Nat) : State :=
  let op := s.sup.auditSender
  endLong? { s with sup := { s.sup with audit := .idle, auditSender := none, auditEn := false } } op status detail

/-- Step 1 of an audit: once the unsettled bytes fit the lowered E_eff the charger goes off; after 10 s without that it ends
with Conflict, reason 0x0002. -/
def auditFit (s : State) : State :=
  match s.sup.audit with
  | .waitFit t =>
    if unsettledBytes s ≤ s.eav.eEff then
      { s with sup := { s.sup with audit := .settle (now s), chgEn := false, chargeSince := none } }
    else if t + 10000000 ≤ now s then recomputeEaves (endAudit s hsConflict 2)
    else s
  | _ => s

/-- Start an audit (R372 step 1). -/
def startAudit (s : State) (op : Option (Sender × Nat)) : State :=
  auditFit (recomputeEaves { s with sup := { s.sup with audit := .waitFit (now s), auditSender := op, auditAfterCharge := false } })

/-- The charger's switch points (R371), outside dumps, audits and PWRDIS sequences. -/
def chargeControl (s : State) : State :=
  if !s.sup.profileRead || s.sup.v12 < 11000 || s.eav.dumpStart.isSome || auditing s || s.sup.pwrDis then s
  else if targetMv s ≤ s.sup.vs then
    { s with sup := { s.sup with chgEn := false, chargeSince := none, chargeTimeout := false, charged := true,
                                 auditAfterCharge := s.sup.auditAfterCharge || !s.sup.charged } }
  else if s.sup.vs + 300 < targetMv s && !s.sup.overVolt then
    { s with sup := { s.sup with chgEn := true, chargeSince := some (s.sup.chargeSince.getD (now s)) } }
  else s

/-- The over-voltage check (R371): the store is named as rail 11 in the capture. -/
def overVoltage (s : State) : State :=
  if !s.sup.profileRead then s
  else if targetMv s + 1000 < s.sup.vs || 35500 < s.sup.vs then
    let was := s.sup.overVolt
    let s := { s with sup := { s.sup with overVolt := true, chgEn := false, chargeSince := none } }
    if was then s else raiseFault s 308 (capOf 6 5 0 11 0)
  else if s.sup.vs < targetMv s then { s with sup := { s.sup with overVolt := false } }
  else s

/-- The supply logic ends a conversion: live values of its record that are due have taken effect with it, and E_eff follows
(R188, R379). -/
def afterConversion (due : Bool) (s : State) : State := if due then recomputeEaves s else s

/-- STORE_CONVERSION (R362, R370, R371, R379): V12_MAIN and V_S in mV, every 10 µs; E_meas and V_LOW follow from them. -/
def execStoreConversion (v12 vs : Nat) (s : State) : Host.Outcome State Fault Refusal :=
  .next (
    let due := !(dueOf s 17).isEmpty
    let s := takeDue s 17
    let s := { s with sup := { s.sup with v12 := v12, vs := vs,
                                          v12HighSince := if 11000 ≤ v12 then some (s.sup.v12HighSince.getD (now s)) else none,
                                          path := if s.sup.pwrDis && !s.sup.huEn then 2 else if s.sup.huEn then 1 else 0 } }
    afterConversion due (auditFit (chargeControl (overVoltage s))))

/-- CHARGE_TIMEOUT (R371): CHG_TIMEOUT has passed since the charger was enabled; it keeps charging. -/
def execChargeTimeout (s : State) : Host.Outcome State Fault Refusal :=
  .next (match s.sup.chargeSince with
    | some t =>
      if !s.sup.chgEn || s.sup.chargeTimeout || decide (now s < t + s.prof.chgTimeout * 1000000) then s
      else raiseFault { s with sup := { s.sup with chargeTimeout := true } } 309 (capOf 6 5 0 0 0)
    | none => s)

/-- HOLDUP_AUDIT_DUE (R372): HU_AUDIT_HOURS of operating time since the last one, or the first charge since power-on. Deferred
while Battened (R399). -/
def execHoldupAuditDue (s : State) : Host.Outcome State Fault Refusal :=
  .next (if auditing s || !s.sup.profileRead || s.boot.phase == 6 || s.eav.powerLoss || s.sup.pwrDis ||
      !(s.sup.auditAfterCharge || decide (s.sup.lastAuditOp + s.prof.huAuditHours * 3600 ≤ s.tm.opSeconds)) then s
    else startAudit s none)

/-- AUDIT_LOAD_CONNECT (R372 steps 2 and 3): the charger has been off for 10 ms; `stepUv` is the voltage step in µV. -/
def execAuditLoadConnect (stepUv : Nat) (s : State) : Host.Outcome State Fault Refusal :=
  .next (match s.sup.audit with
    | .settle t =>
      if now s < t + 10000 then s
      else { s with sup := { s.sup with audit := .loadOn (now s) s.sup.vs, auditEn := true, auditStepUv := stepUv } }
    | _ => s)

/-- ESR in mΩ (R372 step 3): the step over V_S / R_AUDIT. -/
def auditEsr (s : State) (v0 : Nat) : Nat := s.sup.auditStepUv * s.prof.rAudit / 10 / max 1 v0

/-- C in µF (R372 step 4): the charge over the fall less the ESR step; a fall within the step leaves C open (free value). -/
def auditCap (s : State) (fallUv chargeNc : Nat) : Nat :=
  if fallUv ≤ s.sup.auditStepUv then fresh s 0 else chargeNc * 1000 / (fallUv - s.sup.auditStepUv)

/-- The load comes off and the charger on (R372 step 5). -/
def auditOver (s : State) : State :=
  { s with sup := { s.sup with auditEn := false, chgEn := true, chargeSince := some (now s), lastAuditOp := s.tm.opSeconds, audited := true } }

/-- AUDIT_MEASUREMENT_END (R372 steps 4 and 5, R373): V_S has fallen by AUDIT_DEPTH, or 2 s have passed. A fall below 10 mV in
2 s, or by AUDIT_DEPTH in less than 1 ms, is a store open or short. -/
def execAuditMeasurementEnd (fallUv chargeNc elapsedUs : Nat) (s : State) : Host.Outcome State Fault Refusal :=
  .next (match s.sup.audit with
    | .loadOn _ v0 =>
      let deep := decide (s.prof.auditDepth * 100000 ≤ fallUv)
      if !deep && decide (elapsedUs < 2000000) then s
      else if (deep && decide (elapsedUs < 1000)) || decide (fallUv < 10000) then
        let s := auditOver { s with sup := { s.sup with capUf := 0, openShort := true } }
        recomputeEaves (setWarning (supplyEvent (endAudit s hsConflict 3) 2) 4)
      else
        let s := auditOver { s with sup := { s.sup with capUf := auditCap s fallUv chargeNc, esrMohm := auditEsr s v0, openShort := false } }
        tickFree (recomputeEaves (supplyEvent (endAudit s hsSuccess 0) 1))
    | _ => s)

/-! ### PWRDIS (R374) -/

/-- PWRDIS: PWR_DIS high for 10 µs, or low. With PWRDIS_EN 0, or before the supply record is read, it is ignored. -/
def execPwrdis (high : Bool) (s : State) : Host.Outcome State Fault Refusal :=
  .next (if !high then { s with sup := { s.sup with pwrDis := false } }
    else if s.prof.pwrdisEn = 0 || !s.sup.profileRead || s.sup.pwrDis then s
    else
      let s := if auditing s then endAudit s hsCancelled 0 else s
      let s := { s with sup := { s.sup with pwrDis := true, chgEn := false, auditEn := false, chargeSince := none,
                                            path := if s.sup.huEn then 1 else 2 } }
      let s := supplyEvent s 1
      if s.eav.afterDump then { s with sup := { s.sup with huEn := false, seqEn := false } } else raisePowerLoss s)

/-! ### PMIC (R375) -/

/-- One transaction with the PMIC: readings, or no acknowledgement (or a bus held for more than 25 ms), which counts in source
310 and holds the last good readings. -/
def pmicRead (s : State) (answer' : Option (List Nat)) : State :=
  match answer' with
  | some r => { s with sup := { s.sup with pmicReadings := r, pmicHeld := false } }
  | none => raiseFault { s with sup := { s.sup with pmicHeld := true } } 310 (capOf 6 0 0 0 0)

/-- PMIC_POLL (R375): every 10 ms, at PMIC_ADDR of the supply record once it is read; not while Battened (R397). -/
def execPmicPoll (answer' : Option (List Nat)) (s : State) : Host.Outcome State Fault Refusal :=
  .next (if !s.sup.profileRead || s.boot.phase == 6 || decide (now s < s.sup.pmicPollAt) then s
    else pmicRead { s with sup := { s.sup with pmicPollAt := now s + 10000 } } answer')

/-- PMIC_ALERT (R375): PWR_ALERT_N is served; it wakes a Battened part (R398). -/
def execPmicAlert (answer' : Option (List Nat)) (s : State) : Host.Outcome State Fault Refusal :=
  .next (if !s.sup.profileRead then s else pmicRead (beginWake s .pwrAlert) answer')

/-! ### AON clock (R381) -/

/-- AON_CRYSTAL_LOSS (R381). -/
def execAonCrystalLoss (s : State) : Host.Outcome State Fault Refusal :=
  .next (if s.tm.onBackup then s
    else recordEvent { s with tm := { s.tm with onBackup := true, crystalLostAt := some (now s) } } 0x0004 2 0 0
      (leBytes 1 0 ++ leBytes 4 0))

/-- AON_CRYSTAL_RESTORED (R381): the crystal has run for 10 ms. -/
def execAonCrystalRestored (s : State) : Host.Outcome State Fault Refusal :=
  .next (match s.tm.onBackup, s.tm.crystalLostAt with
    | true, some t => recordEvent { s with tm := { s.tm with onBackup := false, crystalLostAt := none } } 0x0004 2 0 0
        (leBytes 1 1 ++ leBytes 4 (now s - t))
    | _, _ => s)

/-! ### Haore requests (R376, R377) -/

/-- Store state byte of Table 17.7. -/
def storeFlags (s : State) : Nat :=
  (if s.sup.chgEn then 1 else 0) + (if auditing s then 2 else 0) + (if s.sup.overVolt then 4 else 0) +
    (if s.sup.chargeTimeout then 8 else 0) + (if s.sup.openShort then 16 else 0)

/-- The 84 bytes of Table 17.7. -/
def supplyBytes (s : State) : List Byte :=
  leBytes 8 (now s) ++ leBytes 2 s.sup.v12 ++ leBytes 2 s.sup.vs ++ leBytes 1 s.sup.path ++ leBytes 1 (storeFlags s) ++
    leBytes 2 (vLow s) ++ leBytes 4 (eMeasMj s) ++ leBytes 4 s.sup.capUf ++ leBytes 2 s.sup.esrMohm ++ zeros 2 ++
    leBytes 8 s.sup.lastAuditOp ++ leBytes 4 (s.eav.eEff / 1048576) ++
    (s.sup.rails.flatMap fun r => leBytes 2 r.lowest ++ leBytes 2 r.highest)

abbrev ruleSupplyReport : HmpRule := rule 0x0705 sendPfOob (some 0)
abbrev ruleHoldupAudit : HmpRule := rule 0x0706 (sendPfOobR 5) (some 4)

/-- SUPPLY_REPORT (R376): the rail extremes start again from the present readings. -/
def execSupplyReport (q : HmpHdr) (s : State) : Host.Outcome State Fault Refusal :=
  .next (hmpServe s q ruleSupplyReport fun s =>
    if q.room < 84 then reply s q 0x0705 (supplyBytes s)
    else
      let out := supplyBytes s
      let rails := s.sup.rails.map fun r => { r with lowest := r.reading, highest := r.reading }
      reply { s with sup := { s.sup with rails := rails } } q 0x0705 out)

/-- HOLDUP_AUDIT (R377): action 1 starts an audit; while one runs, Busy (DESIGN CHOICE, log entry 58). -/
def execHoldupAudit (q : HmpHdr) (action : Nat) (s : State) : Host.Outcome State Fault Refusal :=
  .next (hmpServe s q ruleHoldupAudit fun s =>
    if action ≠ 1 then answer s q 0x0706 hsOutOfRange 0 []
    else if auditing s then answer s q 0x0706 hsBusy 0 []
    else if s.sup.vs + 300 < targetMv s || s.sup.v12 < 11000 then startFailed s q 0x0706 hsConflict 1
    else startLong s q 0x0706 fun s h => startAudit s (some (q.sender, h)))

end Sys2Proof.Machine
end

