-- ==== Sys2Proof/Machine/Pools.lean ====
section
/-! DEFINITION. Pool Quota Set and Pool Report (R303 to R305, R313). -/

namespace Sys2Proof.Machine

/-- Range of a pool's reserved count (Table 13.6). -/
def quotaRange : Nat → Nat × Nat
  | 0 => (512, 8192)
  | 1 => (256, 4096)
  | 2 => (128, 4096)
  | _ => (64, 1024)

/-- The buffer record with one reserved count replaced. -/
def withQuota (p : Profile) (pool count : Nat) : Profile := { p with buffer := setBits p.buffer (16 * pool) 16 count }

/-- Sum of the reserved counts. -/
def quotaSum (p : Profile) : Nat := p.resWrite + p.resRead + p.resBg + p.resMgmt

/-- Write a reserved count (R303): no buffer in use is reclaimed; those beyond a lowered count are overflow until they are
released. -/
def setQuota (s : State) (pool count : Nat) : State :=
  updPool { s with prof := withQuota s.prof pool count } pool fun p =>
    { p with fromOverflow := if pool < 2 then p.fromOverflow else max p.fromOverflow (p.inUse - count) }

abbrev ruleQuota : HmpRule := rule 0x0901 sendPf (some 4)
abbrev rulePools : HmpRule := rule 0x0902 sendPfOob (some 0)

/-- POOL_QUOTA_SET (R304). -/
def execPoolQuotaSet (q : HmpHdr) (pool count : Nat) (s : State) : Host.Outcome State Fault Refusal :=
  .next (hmpServe s q ruleQuota fun s =>
    if 4 ≤ pool then rejectWrite s q 0x0901 hsOutOfRange 0
    else if count < (quotaRange pool).1 || (quotaRange pool).2 < count then rejectWrite s q 0x0901 hsOutOfRange 2
    else if 11264 < quotaSum (withQuota s.prof pool count) then answer s q 0x0901 hsConflict 1 []
    else hmpDone (setQuota s pool count) q 0x0901)

/-- Buffers of a pool that are booked now or allocated (Table 13.2). -/
def poolInUse (s : State) (pool : Nat) : Nat := max (poolOf s pool).inUse (bookedAt s pool (now s / 16))

/-- Part of a pool's use drawn from overflow. -/
def poolOverflow (s : State) (pool : Nat) : Nat :=
  (poolOf s pool).fromOverflow + sumNat ((s.buf.bookings.filter fun b =>
    b.pool == pool && decide (b.fromSlot ≤ now s / 16) && decide (now s / 16 ≤ b.toSlot)).map (·.overflow))

/-- The 80 bytes of Pool Report (Table 13.2). -/
def poolBytes (s : State) : List Byte :=
  leBytes 2 (bufferCount - s.buf.allocated.length - s.buf.cache.length) ++ leBytes 2 s.buf.cache.length ++
    leBytes 2 (overflowSize s.prof - overflowUsed s) ++ zeros 2 ++ leBytes 4 s.buf.evictions ++ zeros 4 ++
    (List.range 4).flatMap fun n =>
      leBytes 2 (poolReserve s.prof n) ++ leBytes 2 (poolInUse s n) ++ leBytes 2 (poolOverflow s n) ++
        leBytes 2 (max (poolOf s n).peak (poolInUse s n)) ++ leBytes 4 (poolOf s n).failures ++ zeros 4

/-- POOL_REPORT (R305): the peaks start again. -/
def execPoolReport (q : HmpHdr) (s : State) : Host.Outcome State Fault Refusal :=
  .next (hmpServe s q rulePools fun s =>
    if q.room < 80 then reply s q 0x0902 (poolBytes s)
    else
      let out := poolBytes s
      let pools := s.buf.pools.zipIdx.map fun e => { e.1 with peak := poolInUse s e.2 }
      reply { s with buf := { s.buf with pools := pools } } q 0x0902 out)

end Sys2Proof.Machine
end

