-- ==== Sys2Proof/Machine/Battened.lean ====
section
/-! DEFINITION. The Battened state (R284, R396 to R399): entry, abandonment and wake. -/

namespace Sys2Proof.Machine

/-! ### Entry (R396) -/

/-- A doorbell is pending: an entry waits in a submission queue, or has been fetched and not yet taken. -/
def doorbellPending (s : State) : Bool :=
  !s.host.fetched.isEmpty || s.host.fns.any fun f => f.2.sqs.any fun q => q.2.head != q.2.tail

/-- Steps 1 and 2 are done: no command outstanding, no doorbell pending, no die operation, no unsettled unit. -/
def restingNow (s : State) : Bool :=
  s.adm.cmds.isEmpty && !doorbellPending s && s.fl.descs.isEmpty && s.fl.softWaits.isEmpty && s.eav.units.isEmpty

/-- Islands that Table 18.8 stops: Admission, Management, Ridge, Fabric, DA, DB and the channels. -/
def battenedStops : List Nat := [2, 3, 4, 5, 6, 7] ++ (List.range 32).map chIsland

/-- Ranks of both channels enter or leave self-refresh; a spare that holds no data stays in it (R284). -/
def ranksRest (s : State) (on : Bool) : State :=
  let f (x : DramCh) : DramCh :=
    { x with ranks := x.ranks.map fun r =>
        if r.use == .excluded then r else { r with selfRefresh := on || (r.use == .spare && !x.dualWrite) } }
  { s with dram := { s.dram with da := f s.dram.da, db := f s.dram.db } }

/-- Steps 3 and 4 of the entry: checkpoint and Battened mark, self-refresh, the islands of Table 18.8, PHASE 6. SB_LED_ACT_N
is released; the link goes to L1.2 where it is enabled, else to L1 (R225). -/
def enterBattened (s : State) : State :=
  let s := { s with eav := { s.eav with journalTail := 0 }, boot := { s.boot with battenedMark := true },
                    bat := { s.bat with entryAt := none },
                    pins := { s.pins with ledActN := true } }
  let s := forEach battenedStops (fun id s => if isRunning s id then setIslandState s id .stopped else s) (ranksRest s true)
  let s := enterPhase (setIslandState s 8 .gated) 6 0
  let s := linkPower s (if s.prof.l1ssCap = 1 && (s.host.link.l1ss.testBit 0 || s.host.link.l1ss.testBit 2) then .l12 else .l1)
  recordEvent s 0x0003 0 0 0 (leBytes 1 0 ++ leBytes 1 0)

/-- BATTENED_ENTRY_COMPLETE (R396 steps 2 to 4), within 1 s of the Set Features. -/
def execBattenedEntryComplete (s : State) : Host.Outcome State Fault Refusal :=
  .next (match s.bat.entryAt with
    | some t => if s.boot.phase = 5 && !s.eav.powerLoss && restingNow s && decide (now s < t + 1000000) then enterBattened s else s
    | none => s)

/-- Abandon an entry: power state 0 and an event, with a number for the reason where no wake cause is one (DESIGN CHOICE,
log entry 23). -/
def abandonEntry (s : State) (cause : Nat) : State :=
  if s.bat.entryAt.isNone then s
  else recordEvent { s with bat := { s.bat with entryAt := none, powerState := 0 } } 0x0003 0 0 0
    (leBytes 1 2 ++ leBytes 1 cause)

/-- BATTENED_ENTRY_ABANDON (R396): step 4 not reached within 1 s, or the write window closed while unsettled data is held. -/
def execBattenedEntryAbandon (s : State) : Host.Outcome State Fault Refusal :=
  .next (match s.bat.entryAt with
    | some t =>
      if t + 1000000 ≤ now s then abandonEntry s 7
      else if !s.fl.window.isOpen && !s.eav.units.isEmpty then abandonEntry s 8
      else s
    | none => s)

/-! ### Wake (R398) -/

/-- BATTENED_WAKE (R398, Table 18.9 steps 1 to 3). -/
def execBattenedWake (cause : WakeCause) (s : State) : Host.Outcome State Fault Refusal := .next (beginWake s cause)

/-- BATTENED_WAKE_END (Table 18.9 steps 4 to 6): 4.0 ms after the wake event. The window keeps its state, the Die Calendar
Store restarts its horizon, the ALIVE kick of R327 is due 20 ms later, and fetch resumes. -/
def execBattenedWakeEnd (s : State) : Host.Outcome State Fault Refusal :=
  .next (match s.bat.wakeAt with
    | some t =>
      if now s < t + 4000 || s.boot.phase != 6 then s
      else
        let s := ranksRest s false
        let s := { s with bat := batReset, boot := { s.boot with battenedMark := false }, fl := { s.fl with calendar := [] },
                          flt := { s.flt with aliveKick := s.flt.aliveKick.map fun _ => now s } }
        fetchAll (enterPhase s 5 0)
    | none => s)

end Sys2Proof.Machine
end

