-- ==== Sys2Proof/Machine/Boot.lean ====
section
/-! DEFINITION. Resets of the device and start-up (R12, R27, R31, R38, R137, R197, R250, R251, R264 to R266, R273, R274, R281, R289,
R291, R292, R337, R364, R365, R374, R385 to R393, R456). The commands of Table 18.5 take no time of their own: a start-up is one
step (DESIGN CHOICE, log entry 60). -/

namespace Sys2Proof.Machine

/-! ### What a reset of every island but AON clears (Table 18.4, R385) -/

/-- Cores when the Management and Ridge islands leave reset: the first `n` that are not retired serve, the others stand by. -/
def startCores (t : Nat) (n : Nat) (cs : List CoreSt) : List CoreSt :=
  cs.zipIdx.map fun e =>
    if e.1.st == .retired then e.1
    else
      let before := countP (fun c => c.st != .retired) (cs.take e.2)
      { st := if before < n then .active else .standby, lastKick := t, newImage := false, retire := false }

/-- The functions after the Host island's reset: the PF alone; queue assignments are device state (R209, R210). -/
def startFns (fns : Tbl Nat FnSt) : Tbl Nat FnSt :=
  fns.map fun e => (e.1, if e.1 = 0 then { fnDefault with online := true, present := true, vqAssigned := 128, vqHeld := e.2.vqHeld }
                         else { fnDefault with vqHeld := e.2.vqHeld })

/-- A DRAM channel after its reset: content lost, every Fresh bit 0 (R281); the rank map and the excluded ranks are in the
system area (R292), as are the rows left unused (DEDUCED, log entry 62). -/
def startDramCh (x : DramCh) : DramCh :=
  { dramChDefault with rankMap := x.rankMap, ranks := x.ranks, excludedRows := x.excludedRows, noRepair := x.noRepair }

/-- The flash side after the channel and Management islands' reset: queues, calendars, recovery and window gone; blocks whose
erase has no end record are erase-incomplete (R147). -/
def startFlash (x : FlashSt) : FlashSt :=
  let marked := x.eraseStarts.foldl (fun (ds : Tbl Nat DieSt) e =>
    tblUpd dieDefault e.1 (fun d => { d with blocks := tblUpd blockDefault e.2 (fun b => { b with incomplete := true, erased := false }) d.blocks }) ds) x.dies
  { x with inService := false, dies := marked.map fun e => (e.1, { e.2 with calibrating := false }),
           channels := [], pkgs := x.pkgs.map fun e => (e.1, { pkgDefault with populated := e.2.populated }),
           descs := [], tokens := [], calendar := [], occupancy := [], softLanes := [], softWaits := [], hardWords := [], rebuilds := [],
           ladders := [], recovery := [], eraseStarts := [], liveTokens := 0,
           window := { isOpen := false, inRange := 0, lastPoll := none, trace := [] } }

/-- The Eaves Buffer after the loss of DRAM: a dump stands as the Gutter holds it; unsettled units that no dump holds are
lost, which the replay reports (DEDUCED, log entry 61). -/
def startEaves (s : State) : EavSt :=
  let x := s.eav
  let lost : Dump := { seq := x.dumpSeq, half := 2, units := x.units.filter fun e => !e.ended && !e.settled, cut := cutWrites s,
                       committed := false, partialMark := true, lastPosition := none, descriptorsDone := false, marked := [], progs := [],
                       bad := [], dirs := [] }
  { x with units := [], dump := match x.dump with
             | some d => some d
             | none => if lost.units.isEmpty && lost.cut.isEmpty then none else some lost,
           halves := x.halves.map fun h => if h == .dumping then .holdsDump else h,
           dumpStart := none, powerLoss := false, afterDump := false, replaying := false, underlayMoves := [], compactions := [],
           staged := [], eEff := 0 }

/-- The Admission Unit after its reset: contracts are device state (R209) with full buckets, everything else starts again. -/
def startAdm (x : AdmSt) : AdmSt :=
  { admReset with contracts := x.contracts.map fun k => fullBuckets k, nextOrder := x.nextOrder }

/-- The blower after the Airflow island's reset; a clamp that is stuck closed stays locked out (R352). -/
def startAir (x : AirSt) : AirSt :=
  { airReset with stuckClosed := x.stuckClosed, st := if x.stuckClosed then .driverLockout else .off }

/-- Every island but AON is reset (Table 18.4): PHASE 0, volatile state gone. What the host has received stays received. -/
def resetIslands (s : State) : State :=
  let e := startEaves s
  { s with
    isl := { s.isl with islands := ⟨.running, none, false, false, false⟩ :: List.replicate 41 ⟨.heldInReset, some (now s), true, false, true⟩,
                        handshakes := [], stalls := [], ridgeReleased := false },
    evt := { s.evt with cursorLo := 0, cursorHi := 0, permanentBit := false, notifySeverity := 7, notifyPending := false,
                        snapBusy := false, validSlots := 0, slots := [], snapWait := [] },
    flt := { s.flt with aliveKick := none, recent := [], lastPlannedEnd := none },
    boot := { s.boot with seqRetryAt := none, formB := false },
    bat := batReset,
    tel := { s.tel with classCtr := [], fnCtr := [], ctrStart := now s },
    thm := { s.thm with warmLoad := false, warmOp := none, warmEnded := false, d3 := [false, false] },
    air := startAir s.air,
    dram := { s.dram with da := startDramCh s.dram.da, db := startDramCh s.dram.db, loft := [], heatCtr := [] },
    buf := bufReset,
    host := { hostReset with fns := startFns s.host.fns, posted := s.host.posted, rings := s.host.rings, smart := s.host.smart,
                             criticalWarning := s.host.criticalWarning, lastNumVfs := s.host.lastNumVfs,
                             aerCorrected := s.host.aerCorrected, aerUncorrected := s.host.aerUncorrected },
    hmp := startHmp s.hmp,
    sec := startKeys s.sec,
    chg := { s.chg with activating := none, rounds := 0, ucLoad := none, ucTurnLow := none, ucTurnHigh := none, recal := none,
                        coreOp := [], qShadow := [], convDue := [], qOp := [], rebootAt := none },
    fl := startFlash s.fl,
    eav := e,
    adm := startAdm s.adm }

/-! ### AON power-on reset, AON rail, power-up (R365, R385) -/

/-- AON_POWER_ON_RESET (Table 17.4 steps 1 and 2, Table 18.4): the AON rail comes into range. DevTime restarts, the straps are
sampled; the idle time of a zone counts from here (R191, DEDUCED, log entry 118); AON non-volatile storage, the system area, the Gutter and the SPI NOR survive. A channel that R317 left not Running
is brought up again, and a die out of service for the power cycle answers again (R135). The first start-up after a trip
waits (R337). -/
def execAonPowerOnReset (strapI3c addr1 addr0 testMode : Bool) (s : State) : Host.Outcome State Fault Refusal :=
  .next (
    let tripped := s.thm.tripped || s.thm.tripWait
    let s := { s with tm := { s.tm with devTime := 0, powerCycles := s.tm.powerCycles + 1, onBackup := false, crystalLostAt := none } }
    let s := resetIslands s
    refreshFaultLed { s with
      isl := { s.isl with sysrefOk := true },
      prof := Profile.atReset,
      flt := { s.flt with thresholds := [], snapSeq := 0, fsvSnap := fltReset.fsvSnap, sevSnap := fltReset.sevSnap, snapTime := 0,
                          aliveLevel := false, aliveRun := false, kickExempt := false, excludedChannels := [], lastCie := none },
      boot := { bootReset with lastReset := if s.thm.tripped then 2 else 0, cleanMark := s.boot.cleanMark,
                               battenedMark := s.boot.battenedMark, afterTrip := tripped },
      pins := { pinReset with strapI3c := strapI3c, strapAddr1 := addr1, strapAddr0 := addr0, testMode := testMode },
      sup := { supReset with capUf := s.sup.capUf, esrMohm := s.sup.esrMohm, lastAuditOp := s.sup.lastAuditOp,
                             audited := s.sup.audited, openShort := s.sup.openShort },
      thm := { thmReset with tripRec := s.thm.tripRec, trips := s.thm.trips, tripWait := tripped,
                             tripRestartCopy := s.thm.tripRestartCopy },
      host := { s.host with aerCorrected := 0, aerUncorrected := [], 
                            criticalWarning := BitVec.ofNat 32 ((if s.fl.spareLow then 1 else 0) + (if anySevere s then 4 else 0) +
                              (if s.fl.writeProtect then 8 else 0)) },
      hmp := { s.hmp with mctpEid := 0 },
      zns := { s.zns with zones := s.zns.zones.map fun e => (e.1, { e.2 with lastWrite := 0 }) },
      fl := { s.fl with sampleFrom := s.tm.opSeconds,
                        dies := s.fl.dies.map fun e => (e.1, if e.2.retired then e.2 else { e.2 with causeOut := none }) } })

/-- AON_RAIL_DOWN: the store is exhausted, or V12_MAIN is gone after a PWRDIS sequence (R197, Table 17.6 step 4). Nothing is
powered until the next AON power-on reset: every output is low, and a dump still running ends where it stands. -/
def execAonRailDown (s : State) : Host.Outcome State Fault Refusal :=
  .next (
    let s := allIslands s .gated
    let s := setIslandState s 0 .gated
    { s with sup := { s.sup with huEn := false, chgEn := false, auditEn := false, seqEn := false, pmicGood := false, audit := .idle,
                                 auditSender := none },
             flt := { s.flt with aliveRun := false, aliveLevel := false },
             host := (linkDown s).host,
             pins := { s.pins with ledActN := true, ledFltN := true },
             hmp := { s.hmp with stopped := true } })

/-- Failed attempts after which PWR_SEQ_EN stays low: the first one and three more (R365). -/
abbrev powerUpTries : Nat := 4

/-- The power-up may go on: the AON island runs, no retry is waited for and some is left. -/
def powerUpFree (s : State) : Bool :=
  isRunning s 0 && decide (s.boot.attempts < powerUpTries) && (match s.boot.seqRetryAt with
    | some t => decide (t ≤ now s)
    | none => true)

/-- POWER_UP_RETRY (R365): what the AON island finds at step 5 of Table 17.4. Without PWR_PMIC_GOOD, or with a rail out of range,
PWR_SEQ_EN falls, an event is recorded, and 100 ms later it tries again, three times at most. -/
def execPowerUpRetry (pmicGood railsOk : Bool) (s : State) : Host.Outcome State Fault Refusal :=
  .next (if s.boot.phase != 0 || s.eav.afterDump || !powerUpFree s then s
    else if pmicGood && railsOk then { s with sup := { s.sup with seqEn := true, pmicGood := true } }
    else supplyEvent { s with sup := { s.sup with seqEn := false, pmicGood := pmicGood },
                              boot := { s.boot with attempts := s.boot.attempts + 1, seqRetryAt := some (now s + 100000) } } 1)

/-! ### Device restart (R197, R364, R374, R383, R393) -/

/-- R197's condition: after the dump, V12_MAIN at or above 11.0 V for 100 ms, PWR_DIS low, no trip, and every rail that left its
range back in it (R364). -/
def mayRestart (s : State) : Bool :=
  isRunning s 0 && s.eav.afterDump && !s.thm.tripped && !s.sup.pwrDis &&
    (match s.sup.v12HighSince with
     | some t => decide (t + 100000 ≤ now s)
     | none => false) &&
    s.sup.rails.all fun r => r.badSince.isNone && r.excursionAt.isNone

/-- The condition of a restart cause (Table 18.4). The command for CLK_SYSREF tells that it has run for 1 ms. -/
def restartDue (s : State) : RestartCause → Bool
  | .powerReturn => mayRestart s
  | .railsBack => mayRestart s
  | .pwrdisLow => mayRestart s
  | .sysrefBack => isRunning s 0 && !s.isl.sysrefOk && !s.eav.powerLoss
  | .restrictedCommit => s.boot.phase == 7 && !s.boot.formB && (match s.chg.rebootAt with
    | some t => decide (t ≤ now s)
    | none => false)

/-- What the AON logic resets at a device restart. -/
def restartAon (s : State) (clean : Bool) : State :=
  { s with isl := { s.isl with sysrefOk := true }, sup := { s.sup with huEn := false, path := 0 },
           boot := { s.boot with lastReset := 1, afterTrip := false, attempts := 0, cleanMark := clean, battenedMark := false } }

/-- Restart every island but AON. Only the restart that R393 causes can be clean (R386): any other one clears the marks. -/
def restartDevice (s : State) (clean : Bool) : State :=
  enterPhase (restartAon (resetIslands s) clean) 0 0

/-- DEVICE_RESTART (Table 18.4). -/
def execDeviceRestart (cause : RestartCause) (s : State) : Host.Outcome State Fault Refusal :=
  .next (if restartDue s cause then restartDevice s (cause == .restrictedCommit) else s)

/-- BROWNOUT_RETURN (R197): V12_MAIN has stayed at or above 11.0 V for 100 ms after the dump. -/
def execBrownoutReturn (s : State) : Host.Outcome State Fault Refusal :=
  .next (if restartDue s .powerReturn then restartDevice s false else s)

/-! ### The Board Profile and provisioning -/

/-- Event 0x0021: record, field offset in bytes, old and new value (widths: DESIGN CHOICE, log entry 23). -/
def profileEvent (s : State) (sev record offset old new : Nat) : State :=
  recordEvent s 0x0021 sev 0 4 (leBytes 2 record ++ leBytes 4 offset ++ leBytes 8 old ++ leBytes 8 new)

/-- The Ridge ROM takes a provisioning image while INTEG_LOCK is 0 (R265); the key hashes that it programs are the image's content (free
values, log entry 104). -/
def provision (s : State) : State :=
  if s.sec.integLock then s
  else match imageFor s 5 with
    | some c =>
      let hash (i : Nat) : Nat := fresh s i % 2 ^ 384
      activate (tickFree { s with sec := { s.sec with integLock := true, integKeyHash := [hash 0, hash 1] } }) 5 c.hdr
    | none => s

/-! ### The restricted phase (R392 to R394) -/

/-- Stop in the restricted phase; in form B every function reports CFS and the Purlin cluster does not run. -/
def restrict (s : State) (reason : Nat) (formB : Bool) : State :=
  let s := enterPhase { s with boot := { s.boot with formB := formB } } 7 reason
  if formB then
    let s := forEach (presentFns s) (fun f s => updFn s f fun x => { x with cfs := true, rdy := false }) s
    setIslandState s 3 .heldInReset
  else s

/-! ### DRAM (R273, R274, R281, R288 to R292) -/

/-- Event 0x0054 of a rank: channel, rank, outcome (Table 19.2). -/
def trainEvent (s : State) (chB : Bool) (rank outcome : Nat) : State :=
  recordEvent s 0x0054 (if outcome = 2 || outcome = 4 then 3 else 2) 0 (dramIsland chB)
    (leBytes 1 (dramNo chB) ++ leBytes 1 rank ++ leBytes 1 outcome)

/-- The boot rank of a channel (R388): the first that passes. -/
def bootRank (passed : List Bool) : Option Nat := passed.findIdx? id

/-- A rank at the training of a start-up (R289, R292), with what it was before; the outcome as a number of event 0x0054, where
it is worth one. A rank excluded before returns with its third pass in a row. Pending hard repairs are made. -/
def trainRank (boot : Bool) (ok : Bool) (r : RankSt) : RankSt × Option Nat :=
  let base := { r with trainTemp := r.temp, trainRate := r.rate, lastRefresh := [], selfRefresh := false, retrainDue := false }
  if r.use == .excluded && !boot then
    if !ok then ({ base with passes := 0 }, none)
    else if r.passes + 1 < 3 then ({ base with passes := r.passes + 1 }, some 0)
    else ({ base with use := .inUse, passes := 0, pendingRepair := [] }, some 3)
  else if ok then ({ base with use := if boot then .inUse else r.use, passes := 0, pendingRepair := [] }, none)
  else ({ base with use := .excluded, passes := 0 }, some 2)

/-- The ranks as the last start-up left them, or all in use with the highest as the spare where SPARE_RANK is 1 (R293). -/
def ranksBefore (p : Profile) (x : DramCh) : List RankSt :=
  let n := p.ranks + 1
  if x.ranks.length = n then x.ranks
  else (List.range n).map fun i => { rankDefault with use := if p.spareRank = 1 && i + 1 = n then .spare else .inUse }

/-- The first spare rank. -/
def spareIx (rs : List RankSt) : Option Nat := rs.findIdx? fun r => r.use == .spare

/-- Train a channel (R289, R291, R292): the spare takes the place of the first rank that fails, a rank that returns where
SPARE_RANK is 1 and no spare is left becomes it (DEDUCED, log entry 62), and the boot rank leads the rank map (R388). -/
def trainChannel (s : State) (chB : Bool) (passed : List Bool) (b : Nat) : State :=
  let before := ranksBefore s.prof (dramCh s chB)
  let done := before.zipIdx.map fun e => trainRank (e.2 == b) (passed.getD e.2 false) e.1
  let ranks := done.map (·.1)
  let lost := done.zipIdx.filter fun e => e.1.2 == some 2 && (vecGet rankDefault before e.2).use == .inUse
  let taken := !lost.isEmpty && (spareIx ranks).isSome
  let ranks := match spareIx ranks with
    | some k => if taken then vecUpd ranks k fun r => { r with use := .inUse } else ranks
    | none => ranks
  let back := done.findIdx? fun e => e.2 == some 3
  let ranks := match back with
    | some k => if s.prof.spareRank = 1 && (spareIx ranks).isNone && !taken then vecUpd ranks k fun r => { r with use := .spare } else ranks
    | none => ranks
  let ranks := ranks.map fun r => { r with selfRefresh := r.use == .spare }
  let use := (List.range ranks.length).filter fun i => (vecGet rankDefault ranks i).use == .inUse
  let s := updDram s chB fun x => { x with ranks := ranks, rankMap := b :: use.filter (· != b) }
  let first := lost.head?.map (·.2)
  let taken := taken || (vecGet rankDefault before b).use == .spare
  forEach done.zipIdx (fun e s => match e.1.2 with
    | some o => trainEvent s chB e.2 (if o = 2 && taken && first == some e.2 then 1 else o)
    | none => s) s

/-- MiB of data in a rank (Table 12.1). -/
def rankMib (p : Profile) : Nat := (if p.density = 0 then 16384 else if p.density = 1 then 24576 else 32768) / (if p.halfWidth = 1 then 2 else 1)

/-- Usable MiB of a channel (R273). -/
def usableMib (s : State) (chB : Bool) : Nat := rankMib s.prof * countP (fun r => r.use == .inUse) (dramCh s chB).ranks

/-- MiB of region 0x07 (Table 12.2). -/
def region7Mib (p : Profile) : Nat :=
  let n := population p
  let bpp := p.blocksPerPlane
  let bytes := 640 * 1048576 + 32 * (n / 16) * bpp + convBytes p / 1024 + 4 * n * bpp + 2 * n * p.planes * bpp + 16384 * n
  ceilDiv bytes 67108864 * 64

/-- Division of each channel in MiB (R273), last what remains for the Loft; none where the regions before the Loft do not fit (R274). -/
def divide (p : Profile) (usable : Nat) : Option (List Nat) :=
  let before := [128, 128, region7Mib p, 4176, 80]
  if usable < sumNat before then none
  else
    some (before ++ [usable - sumNat before])

/-- A DRAM channel is up and zero-filled over regions 0x07 and 0x08 (R281). -/
def fillChannel (s : State) (chB : Bool) : State :=
  let d := s.dram.division
  let lo := (d.getD 0 0 + d.getD 1 0) * 16
  updDram s chB fun x => { x with filled := (lo, lo + (d.getD 2 0 + d.getD 3 0) * 16) }

/-! ### The region table (R250, R251) -/

/-- The regions of Table 11.3. The DRAM regions follow a division; where the others lie the spec does not say (free values). -/
def buildRegions (s : State) (d : List Nat) : List Region :=
  let at' (i : Nat) : Nat := sumNat (d.take i) * 256
  let dram (id : Nat) (sec : Bool) (rights i j : Nat) : Region :=
    { id := id, space := 2, secure := sec, rights := rights, base := at' i, limit := at' j - 1 }
  let sized (id space : Nat) (sec : Bool) (rights units : Nat) : Region :=
    { id := id, space := space, secure := sec, rights := rights, base := fresh s (2 * id), limit := fresh s (2 * id) + units - 1 }
  let open' (id space : Nat) (sec : Bool) (rights : Nat) : Region :=
    { id := id, space := space, secure := sec, rights := rights, base := fresh s (2 * id), limit := fresh s (2 * id + 1) }
  [sized 0x00 3 true 0b101 16, sized 0x01 3 true 0b111 512, open' 0x02 6 true 0b011, sized 0x03 5 true 0b011 256,
   open' 0x04 5 false 0b001011, dram 0x05 true 0b101011 0 1, dram 0x06 false 0b011001 1 2,
   dram 0x07 false 0b001011000011000 2 3, dram 0x08 false 0b011011011001000 3 4, dram 0x09 false 0b011011001011000 4 6,
   open' 0x0A 4 false 0b011000, open' 0x0B 6 false 0b011000]

/-- Divide the DRAM (R273); the activation count windows run with ROW_ACT_LIMIT (R298). -/
def placeRegions (s : State) (d : List Nat) : State :=
  let begin (x : DramCh) : DramCh := { x with rowLimit := s.prof.rowActLimit }
  { s with dram := { s.dram with division := d, da := begin s.dram.da, db := begin s.dram.db } }

/-! ### Checks of the Board Profile (R27, R31, R137, R456) -/

/-- Fields bound to the last geometry build (R137) and the two that wait for the next one (R61), with record, byte offset. -/
def boundFields (p : Profile) : List (Nat × Nat × Nat) :=
  [(p.zoneBits, 4, 0), (p.indepPlaneAddr, 4, 0), (p.planes, 4, 0), (p.wordlines, 4, 1), (p.blocksPerPlane, 4, 4),
   (p.diesH0, 6, 0), (p.diesH1, 6, 1)]

/-- The first bound field that differs from the last build, as old value, new value, record and offset. -/
def boundClash (s : State) (p : Profile) : Option (Nat × Nat × Nat × Nat) :=
  if s.zns.namespaces.isEmpty then none
  else ((s.fl.geo.boundProfile.zip (boundFields p)).find? fun e => e.1 != e.2.1).map fun e => (e.1, e.2.1, e.2.2.1, e.2.2.2)

/-- Byte offset and value of the first failing field of a record, or of the field that breaks a rule between fields. -/
def badField (p : Profile) (r : Nat) : Nat × Nat :=
  match firstBadField p r with
  | some f => (f.lo / 8, bits (profRecord p r) f.lo f.width)
  | none => match (ruleChecks p r).find? fun c => !c.1 with
    | some c => (c.2.1 / 8, bits (profRecord p r) c.2.1 c.2.2)
    | none => (0, 0)

/-- A microcode image that MICROCODE_ID names is there and valid (R137). -/
def microcodeOk (s : State) (p : Profile) : Bool :=
  p.microcodeId == 0 || (match imageFor s 3 with
    | some c => c.hdr.imageId == p.microcodeId
    | none => false)

/-- Records of the flash subsystem that fail (R137). -/
def flashBad (s : State) (p : Profile) : List (Nat × Nat) :=
  let bad := ([4, 5, 6].filter fun r => !recordOk p r).map fun r => (r, (badField p r).1)
  let none' := if p.diesH0 = 0 && p.diesH1 = 0 then [(6, 0)] else []
  let micro := if microcodeOk s p then [] else [(4, 38)]
  bad ++ none' ++ micro

/-- Other records that fail (R456). -/
def otherBad (p : Profile) : List Nat := recordIds.filter fun r => !([4, 5, 6].contains r) && !recordOk p r

/-- The profile in effect: a record that fails runs on its reset values (R456); while namespaces exist, SPARE_RESERVE and
CONV_CAPACITY stay those of the last build (R31, R61). -/
def effectiveProfile (s : State) (p : Profile) : Profile :=
  let p := (otherBad p).foldl (fun p r => profSetRecord p r (profRecord Profile.atReset r)) p
  if s.zns.namespaces.isEmpty then p
  else match s.fl.geo.boundProfile.drop 7 with
    | [sr, cc] => profSetRecord p 1 (setBits (setBits p.geometry 0 16 sr) 32 8 cc)
    | _ => p

/-- The loaded fields that wait for the next geometry build. -/
def pendingOf (s : State) (p : Profile) : List Nat :=
  if s.zns.namespaces.isEmpty then [] else [p.spareReserve, p.convCapacity]

/-- Events of the fields that wait (R61, Table 19.2: deferred, severity 1). -/
def deferEvents (s : State) (old new : Profile) : State :=
  let s := if old.spareReserve = new.spareReserve then s else profileEvent s 1 1 0 old.spareReserve new.spareReserve
  if old.convCapacity = new.convCapacity then s else profileEvent s 1 1 4 old.convCapacity new.convCapacity

/-- Limits that a start-up cuts (R38): the default limits of functions that have none of their own. -/
def cutLimits (s : State) : State :=
  let s := { s with zns := { s.zns with startLimit := none } }
  let set := s.zns.limits.filter fun e => decide (e.1 < 256)
  let sum := sumNat (set.map (·.2.1))
  let n := 256 - set.length
  if n = 0 || sum + n * s.prof.activeLimitDefault ≤ 32768 then s
  else
    let a := (32768 - sum) / n
    profileEvent { s with zns := { s.zns with startLimit := some (a, min a s.prof.openLimitDefault) } } 1 1 6 s.prof.activeLimitDefault a

/-! ### Start-up (Table 18.5) -/

/-- The start-up is clean (R386): a mark, no dump with unsettled data in the Gutter, and no device restart but that of R393. -/
def cleanStart (s : State) : Bool :=
  (s.boot.lastReset != 1 || s.boot.cleanMark) && !s.boot.afterTrip && (s.boot.cleanMark || s.boot.battenedMark) &&
    (match s.eav.dump with
     | some d => d.units.isEmpty && d.cut.isEmpty && d.committed
     | none => true)

/-- Steps 1 to 3: rails up, islands out of reset. Cores, ALIVE kick exemption and CFS start again. -/
def releaseIslands (s : State) : State :=
  let kind := if s.boot.afterTrip then 2 else if cleanStart s then 0 else 1
  let s := { s with boot := { s.boot with startKind := kind, attempts := 0, seqRetryAt := none },
                    sup := { s.sup with seqEn := true, pmicGood := true },
                    flt := { s.flt with kickExempt := false, cores := startCores (now s) 8 s.flt.cores,
                                        ridge := startCores (now s) 1 s.flt.ridge } }
  let s := recordEvent s 0x0001 0 0 0 (leBytes 1 kind ++ leBytes 1 s.boot.lastReset)
  let s := forEach [1, 2, 4, 5, 8, 9] (fun id s => setIslandState s id .running) s
  let cfs := cfsLatched s
  forEach (presentFns s) (fun f s => updFn s f fun x => { x with cfs := cfs }) s

/-- Reason of a secure-boot stop in form B, with the image type of its event: Ridge firmware, Board Profile (R266). -/
def bootImages (s : State) : Option (Nat × Nat) :=
  if (imageFor s 1).isNone then some (1, 1)
  else if s.sec.integLock && (imageFor s 4).isNone then some (2, 4)
  else none

/-- Event of an image that is not valid (R266), as 0x0021 with the image type in place of the record (DESIGN CHOICE, log entry
63). -/
def imageEvent (s : State) (t : Nat) : State := profileEvent s 4 (0x100 + t) 0 0 0

/-- The profile that the valid Board Profile image holds, else the reset values. -/
def loadedProfile (s : State) : Profile :=
  if s.sec.integLock then ((imageFor s 4).bind (·.profile)).getD Profile.atReset else Profile.atReset

/-- Boot ranks (R388): a channel in which no rank passes is Gated. -/
def startDram (s : State) (inp : StartupIn) : State :=
  let one (chB : Bool) (passed : List Bool) (s : State) : State :=
    match bootRank passed with
    | some _ => setIslandState s (dramIsland chB) .running
    | none => trainEvent (setIslandState s (dramIsland chB) .gated) chB 0 4
  one true inp.ranksB (one false inp.ranksA s)

/-- Step 8: the other ranks and the division (R289, R273); Critical Warning bit 2 where a channel is away (Table 12.7). -/
def trainAll (s : State) (inp : StartupIn) : State :=
  let one (chB : Bool) (passed : List Bool) (s : State) : State :=
    match bootRank passed with
    | some b => trainChannel s chB passed b
    | none => setWarning s 2
  one true inp.ranksB (one false inp.ranksA s)

/-- The capacity that both channels are divided by. -/
def divideBy (s : State) (inp : StartupIn) : Nat :=
  match (bootRank inp.ranksA).isSome, (bootRank inp.ranksB).isSome with
  | true, true => min (usableMib s false) (usableMib s true)
  | true, false => usableMib s false
  | _, _ => usableMib s true

/-- Steps 10 and 11: bring-up of the populated channels and the checkpoint (R389). -/
def bringFlash (s : State) (inp : StartupIn) : State :=
  let s := forEach ((List.range 32).filter fun c => decide (0 < diesPerCh s.prof (c / 16)) && !s.flt.excludedChannels.contains c)
    (fun c s => match inp.channels.find? fun e => e.1 == c with
      | some e => bringUp s c e.2.1 e.2.2
      | none => bringUp s c [] []) s
  let s := forEach (inp.rbLow.filter fun c => decide (0 < diesPerCh s.prof (c / 16))) (fun c s => rbStuck s c) s
  let s := firstPolls s
  if inp.checkpointOk then s else raiseFault s 318 (capOf 1 5 0 0 3)

/-- Step 12 of a clean start: journal applied, relocation targets dropped, marks cleared, PHASE 5. -/
def cleanReady (s : State) : State :=
  let s := match s.eav.dump with
    | some d => { s with eav := { s.eav with dump := none, halves := vecUpd s.eav.halves d.half fun _ => .spent } }
    | none => s
  let s := dropTargets (spliceAborted s)
  let s := { s with eav := { s.eav with journalTail := 0 }, fl := { s.fl with inService := true },
                    boot := { s.boot with cleanMark := false, battenedMark := false } }
  recomputeEaves (recomputeBays (enterPhase s 5 0))

/-- Steps 10 to 12 once DRAM is divided: flash, and PHASE 5 or the replay. -/
def startDivided (s : State) (inp : StartupIn) (d : List Nat) : State :=
  let s := placeRegions s d
  let s := if isRunning s 6 then fillChannel s false else s
  let s := if isRunning s 7 then fillChannel s true else s
  let s := bringFlash (enterPhase s 3 0) inp
  let s := { s with adm := { s.adm with powerCapacity := flashPowerCapacity s } }
  if s.boot.startKind = 0 then updateWarm (cleanReady s)
  else enterPhase { s with eav := { s.eav with replaying := true } } 4 0

/-- The regions do not fit (R274): the capacity in force and PHASE 7, reason 8. -/
def startUndivided (s : State) : State := restrict (profileEvent s 4 1 4 s.prof.convCapacity s.prof.convCapacity) 8 false

/-- Steps 9 to 12, by the division of DRAM or without one. -/
def startWithDivision (s : State) (inp : StartupIn) (d : Option (List Nat)) : State :=
  match d with
  | none => startUndivided s
  | some d => startDivided s inp d

/-- The division of DRAM at a start (R273). -/
def startDivision (s : State) (inp : StartupIn) : Option (List Nat) := divide s.prof (divideBy s inp)

/-- Steps 8 to 12: DRAM, flash, and PHASE 5 or the replay. -/
def startFlashSide (s : State) (inp : StartupIn) : State :=
  startWithDivision (trainAll s inp) inp (startDivision (trainAll s inp) inp)

/-- Step 7: the Board Profile's records are read and checked, in the order of their restricted reasons: R137 and R33 (0x07), R27
(0x06), the other records (0x09). The AON logic takes the thermal and supply records (R337, R365). -/
def applyProfile (s : State) (p : Profile) (inp : StartupIn) : State :=
  let bad := flashBad s p
  let others := otherBad p
  let old := s.prof
  let eff := effectiveProfile s p
  let s := forEach others (fun r s => profileEvent s 4 r (badField p r).1 0 (badField p r).2) s
  let s := { s with prof := eff,
                    fl := { s.fl with geo := { s.fl.geo with pendingFields := pendingOf s p } },
                    sup := { s.sup with profileRead := !others.contains 17, capUf := if s.sup.audited then s.sup.capUf else eff.huCEol },
                    thm := { s.thm with tripRestartCopy := if others.contains 15 then s.thm.tripRestartCopy else eff.tripRestart } }
  let s := deferEvents s eff p
  match bad, boundClash s p with
  | b :: _, _ => restrict (profileEvent s 4 b.1 b.2 (badField old b.1).2 (badField p b.1).2) 7 false
  | [], some (o, n, r, off) => restrict (profileEvent s 4 r off o n) 7 false
  | [], none =>
    if 2 ^ 31 < 15 * blockData p then restrict (profileEvent s 4 4 0 0 (blockData p)) 6 false
    else if !others.isEmpty then restrict s 9 false
    else startFlashSide (cutLimits s) inp

/-- The images of the Ridge come into use (step 3): the core image and, behind INTEG_LOCK, the integrator's. -/
def useRidgeImages (s : State) : State :=
  match imageFor s 1, imageFor s 4 with
  | some c, some q => activate (if s.sec.integLock then activate s 4 q.hdr else s) 1 c.hdr
  | some c, none => activate s 1 c.hdr
  | _, _ => s

/-- The regions of a board without a Board Profile, where they fit. -/
def startRegions (s : State) (d : Option (List Nat)) : State :=
  match d with
  | some d => placeRegions s d
  | none => s

/-- MiB of a channel that the Board Profile counts as usable before the ranks are trained. -/
def plannedMib (s : State) (p : Profile) (chB : Bool) : Nat :=
  rankMib p * countP (fun r => r.use == .inUse) (ranksBefore p (dramCh s chB))

/-- The Ridge firmware builds the region table (step 4, R250, R251), before the Purlin cluster is released and the ranks are trained: the
DRAM regions by the Board Profile's division of the ranks it has in use (DEDUCED, log entry 136). -/
def buildTable (s : State) (p : Profile) : State :=
  let usable := min (plannedMib s p false) (plannedMib s p true)
  let before := [128, 128, region7Mib p, 4176, 80]
  tickFree { s with sec := { s.sec with regions := buildRegions s (before ++ [usable - sumNat before]) } }

/-- The Board Profile that the Ridge firmware divides DRAM by: reset values before provisioning, else the profile in effect. -/
def tableProfile (s : State) (p : Profile) : Profile := if s.sec.integLock then effectiveProfile s p else Profile.atReset

/-- Before provisioning: reset values of the Board Profile, and PHASE 7, reason 4. -/
def startUnprovisioned (s : State) : State :=
  restrict (startRegions { s with prof := Profile.atReset }
    (divide Profile.atReset (rankMib Profile.atReset * (Profile.atReset.ranks + 1)))) 4 false

/-- Purlin runs from its image: PHASE 1. -/
def startPurlin (s : State) (c : ImageCopy) : State :=
  let s := kickCores (setIslandState (activate s 2 c.hdr) 3 .running)
  enterPhase { s with isl := { s.isl with ridgeReleased := true } } 1 0

/-- From PHASE 1 on, with the Board Profile `p`. -/
def startProfile (s : State) (p : Profile) (inp : StartupIn) : State :=
  if !s.sec.integLock then startUnprovisioned s else applyProfile (enterPhase s 2 0) p inp

/-- From step 5 on: Purlin's image, with the boot ranks trained. -/
def startImages (s : State) (p : Profile) (inp : StartupIn) : State :=
  if !isRunning s 6 && !isRunning s 7 then restrict s 5 true
  else match imageFor s 2 with
    | none => restrict (imageEvent s 2) 3 true
    | some c => startProfile (startPurlin (buildTable s (tableProfile s p)) c) p inp

/-- The start-up once the islands are out of reset. -/
def startUp (s : State) (inp : StartupIn) : State :=
  match bootImages s with
  | some (r, t) => restrict (imageEvent s t) r true
  | none => startImages (startDram (useRidgeImages s) inp) (loadedProfile s) inp

/-- The start-up waits for the power-up (R365), for the sensors after a trip (R337) and for CLK_SYSREF; in board test mode
PHASE stays 0 (R439). -/
def startWaits (s : State) : Bool :=
  s.boot.phase != 0 || !powerUpFree s || s.thm.tripWait || s.thm.tripped || s.eav.afterDump || !s.isl.sysrefOk || s.pins.testMode

/-- STARTUP (Table 18.5): from step 3 to PHASE 5 on a clean start, to PHASE 4 on another, or to the restricted phase. -/
def execStartup (inp : StartupIn) (s : State) : Host.Outcome State Fault Refusal :=
  .next (if startWaits s then s else startUp (provision (releaseIslands s)) inp)

end Sys2Proof.Machine
end

