-- ==== Sys2Proof/Machine/Mailboxes.lean ====
section
/-! DEFINITION. The Haore Mailbox Engine's transports (R227 to R244, Tables 10.1 to 10.5): BAR mailboxes, the admin opcodes 0xC0
to 0xC3, MCTP, and the opcodes 0x0001 to 0x0003 (R243, R246). -/

namespace Sys2Proof.Machine

/-! ### Headers (R229, R230) -/

/-- The 60 header bytes under HDR_CRC. -/
def rawBytes (r : HmpRaw) : List Byte :=
  leBytes 1 r.version ++ leBytes 1 r.flags ++ leBytes 2 r.opcode ++ leBytes 4 r.tag ++ leBytes 2 r.source ++
    leBytes 2 r.status ++ leBytes 4 r.length ++ leBytes 8 r.dataAddr ++ leBytes 4 r.dataSize ++ leBytes 4 r.reserved28 ++
    leBytes 8 r.devtimeRx ++ leBytes 8 r.devtimeDone ++ leBytes 8 r.detail ++ leBytes 4 r.reserved56

/-- HDR_CRC is wrong: on MCTP always checked, in band only when it is not 0 (R230). -/
def crcBad (t : Transport) (r : HmpRaw) : Bool :=
  (t == .mctp || r.crc != 0) && (crc32c (rawBytes r)).toNat != r.crc

/-- Byte offset of the first bad field of a header (R230), in byte order. -/
def headerBad (t : Transport) (r : HmpRaw) : Option Nat :=
  if r.version ≠ 1 then some 0
  else if r.flags ≠ 0 && r.flags ≠ 2 then some 1
  else if r.status ≠ 0 then some 10
  else if t != .bar && r.dataAddr ≠ 0 then some 16
  else if t != .bar && r.dataSize ≠ 0 then some 24
  else if r.reserved28 ≠ 0 then some 28
  else if r.devtimeRx ≠ 0 then some 32
  else if r.devtimeDone ≠ 0 then some 40
  else if r.detail ≠ 0 then some 48
  else if r.reserved56 ≠ 0 then some 56
  else if crcBad t r then some 60
  else none

/-- BARRIER of a header (Table 10.2). -/
def barrierOf (r : HmpRaw) : Bool := r.flags.testBit 1

/-- The request header that the engine hands on: SOURCE and transport are its own (R227). -/
def hdrOf (st : Stream) (r : HmpRaw) (room : Nat) : HmpHdr :=
  { sender := st.sender, transport := st.transport, tag := r.tag, length := r.length, barrier := barrierOf r, room := room }

/-- The newest stored answer of a request that was answered less than 1 s ago, or whose response waits for its posting (R240). -/
def answered (s : State) (st : Stream) (tag : Nat) : Option HmpResp :=
  s.hmp.answers.reverse.find? fun r => r.stream == st && r.tag == tag && (match r.devtimeDone with
    | some t => decide (now s < t + 1000000)
    | none => true)

/-- Forget answers posted 1 s ago or earlier (R240). -/
def pruneAnswers (s : State) : State :=
  { s with hmp := { s.hmp with answers := s.hmp.answers.filter fun r => match r.devtimeDone with
      | some t => decide (now s < t + 1000000)
      | none => true } }

/-- The request that a header makes, as the engine takes it. -/
def rawReq (s : State) (st : Stream) (r : HmpRaw) (payload : List Byte) (dest : RespDest) : HmpReq :=
  { stream := st, tag := r.tag, opcode := r.opcode, length := r.length, payload := payload, barrier := barrierOf r, devtimeRx := now s,
    order := s.hmp.nextOrder, rights := s.prof.oobRights, dest := dest, copies := [], discard := false }

/-- Answer a message that is not executed, at once; requests in flight under its TAG stay as they are. -/
def bounce (s : State) (rq : HmpReq) (status detail : Nat) : State := respond s rq (respTo rq rq.opcode status detail [])

/-- First field of a good header whose value is outside its range (R229, R245): DATA_ADDR not 8-byte aligned, DATA_SIZE above 1,048,576
(DEDUCED, log entry 130). -/
def bufferBad (r : HmpRaw) : Option Nat :=
  if r.dataAddr % 8 ≠ 0 then some 16 else if 1048576 < r.dataSize then some 24 else none

/-- Take a request: a bad header is answered at once (R230), a duplicate of one in flight waits for its answer, one of an answered
request gets a copy (R240), any other joins its stream. -/
def takeRequest (s : State) (st : Stream) (r : HmpRaw) (payload : List Byte) (dest : RespDest) : State :=
  let rq := rawReq s st r payload dest
  let s := pruneAnswers { s with hmp := { s.hmp with nextOrder := s.hmp.nextOrder + 1 } }
  match headerBad st.transport r, bufferBad r with
  | some off, _ => bounce s rq hsInvalidHeader off
  | none, some off => bounce s rq hsOutOfRange off
  | none, none =>
    if (findReq s st r.tag).isSome then
      { s with hmp := { s.hmp with requests := s.hmp.requests.map fun q =>
          if q.stream == st && q.tag == r.tag then { q with copies := q.copies ++ [dest] } else q } }
    else match answered s st r.tag with
      | some a => deliverCopy s rq a dest
      | none => { s with hmp := { s.hmp with requests := s.hmp.requests ++ [rq] } }

/-! ### BAR mailbox (R231 to R236) -/

/-- Change a function's mailbox. -/
def updMailbox (s : State) (f : Nat) (g : MailboxSt → MailboxSt) : State := updFn s f fun x => { x with mailbox := g x.mailbox }

/-- The stream of a function's BAR mailbox. -/
def barStream (f : Nat) : Stream := ⟨.fn f, .bar⟩

/-- Slots of each ring. -/
def ringSlots (m : MailboxSt) : Nat := 2 ^ m.ringOrder.toNat

/-- Steps forward from `a` to `b` in a ring. -/
def ringDist (m : MailboxSt) (a b : Nat) : Nat := (b + ringSlots m - a % ringSlots m) % ringSlots m

/-- A write to BAR2: it wakes a Battened part (R398). -/
def barWrite (s : State) (f : Nat) (g : State → State) : State := if barReachable s f then g (beginWake s .register) else s

/-- ENABLE from 0 to 1 (R232). -/
def enableMailbox (s : State) (f : Nat) : State :=
  if (fnOf s f).mailbox.enable then s
  else updMailbox s f fun m => { m with enable := true, active := true, reqHead := 0, rspTail := 0, reqTail := 0, rspHead := 0, phase := true }

/-- ENABLE from 1 to 0, by the host or by a failed write (R232, R236): ACTIVE clears when IN_FLIGHT is 0. -/
def disableMailbox (s : State) (f : Nat) : State :=
  updMailbox s f fun m => { m with enable := false, active := m.active && decide (0 < m.inFlight) }

/-- MAILBOX_ENABLE (R232). -/
def execMailboxEnable (fn : Nat) (s : State) : Host.Outcome State Fault Refusal :=
  .next (barWrite s fn fun s => enableMailbox s fn)

/-- MAILBOX_DISABLE (R232). -/
def execMailboxDisable (fn : Nat) (s : State) : Host.Outcome State Fault Refusal :=
  .next (barWrite s fn fun s => if (fnOf s fn).mailbox.enable then disableMailbox s fn else s)

/-- Write REQ_TAIL: a value at or above the ring size sets BAD_TAIL and is ignored (R233). -/
def writeReqTail (s : State) (f v : Nat) : State :=
  updMailbox s f fun m => if ringSlots m ≤ v % 1024 then { m with badTail := true } else { m with reqTail := v % 1024 }

/-- Write RSP_HEAD: a value at or above the ring size, or beyond RSP_TAIL, sets BAD_HEAD and is ignored. -/
def writeRspHead (s : State) (f v : Nat) : State :=
  updMailbox s f fun m =>
    if ringSlots m ≤ v % 1024 || ringDist m m.rspHead m.rspTail < ringDist m m.rspHead (v % 1024) then { m with badHead := true }
    else { m with rspHead := v % 1024 }

/-- MAILBOX_REQ_TAIL_WRITE (R233). -/
def execMailboxReqTailWrite (fn value : Nat) (s : State) : Host.Outcome State Fault Refusal :=
  .next (barWrite s fn fun s => writeReqTail s fn value)

/-- MAILBOX_RSP_HEAD_WRITE (Table 10.3). -/
def execMailboxRspHeadWrite (fn value : Nat) (s : State) : Host.Outcome State Fault Refusal :=
  .next (barWrite s fn fun s => writeRspHead s fn value)

/-- Free slots of the response ring. -/
def rspFree (m : MailboxSt) : Nat := ringSlots m - 1 - ringDist m m.rspHead m.rspTail

/-- The engine may take a request (R234, R244): the mailbox is enabled, a request waits, more response slots are free than
requests are in flight, and those are below FN_INFLIGHT. -/
def mayTake (s : State) (f : Nat) : Bool :=
  let m := (fnOf s f).mailbox
  barReachable s f && !hmpStopped s && m.enable && m.reqHead != m.reqTail && decide (m.inFlight < rspFree m) &&
    decide (m.inFlight < s.prof.fnInflight)

/-- DMA_ERROR with its event, naming the ring slot (R236, Table 19.2). -/
def dmaError (s : State) (f slot : Nat) : State :=
  accessError (updMailbox s f fun m => { m with dmaError := true }) f slot 1

/-- The request of a slot that could not be read: TAG and OPCODE of the answer are not known (free values, log entry 64). -/
def lostRequest (s : State) (f slot : Nat) : HmpReq :=
  { stream := barStream f, tag := fresh s 0 % 2 ^ 32, opcode := fresh s 1 % 65536, length := 0, payload := [], barrier := false,
    devtimeRx := now s, order := s.hmp.nextOrder, rights := 0, dest := .bar slot 0 0, copies := [], discard := false }

/-- A slot's response that no duplicate can ask for: it is only posted. -/
def postLost (s : State) (rq : HmpReq) : State :=
  deliverTo { s with hmp := { s.hmp with nextOrder := s.hmp.nextOrder + 1 } } rq false (respTo rq rq.opcode hsDataError 0 [])

/-- MAILBOX_REQUEST_TAKE (R234, R236, R239, R240): the next request slot; a header or payload that cannot be read is answered
with Data Transfer Error. -/
def execMailboxRequestTake (fn : Nat) (raw : Option HmpRaw) (payload : Option (List Byte)) (s : State) :
    Host.Outcome State Fault Refusal :=
  .next (if !mayTake s fn then s
    else
      let slot := (fnOf s fn).mailbox.reqHead
      let s := updMailbox s fn fun m => { m with reqHead := (m.reqHead + 1) % ringSlots m, inFlight := m.inFlight + 1 }
      match raw, payload with
      | none, _ => tickFree (postLost (dmaError s fn slot) (lostRequest s fn slot))
      | some r, none => bounce (dmaError s fn slot) (rawReq s (barStream fn) r [] (.bar slot r.dataAddr r.dataSize)) hsDataError 0
      | some r, some p => takeRequest s (barStream fn) r p (.bar slot r.dataAddr r.dataSize))

/-- Address of response slot `i`: 64 bytes a slot from RSP_BASE (Table 10.3, R233). -/
def rspSlotAddr (m : MailboxSt) (i : Nat) : Nat := m.rspBaseHi.toNat * 2 ^ 32 + m.rspBaseLo.toNat + 64 * i

/-- What the engine writes to host memory for a response (R229, R234): the payload into the request's data buffer, then the header with
the ring's phase into slot RSP_TAIL, both without Relaxed Ordering and ID-Based Ordering. The response of a slot that could not be
read has no data buffer. -/
def barPost (s : State) (f : Nat) (p : Posting) : BarPost :=
  let m := (fnOf s f).mailbox
  let buf := match p.req.dest with
    | .bar _ a n => (a, n)
    | _ => (0, 0)
  let r := doneNow s p.resp
  { fn := f, slotAddr := rspSlotAddr m m.rspTail, header := respHeader r buf.1 buf.2 m.phase, dataAddr := buf.1, payload := r.payload,
    relaxed := false, idBased := false }

/-- A response leaves the mailbox: its stored answer and the copies of it have DEVTIME_DONE from then on, IN_FLIGHT falls, and ACTIVE
with it where the mailbox is disabled. -/
def settleResponse (s : State) (f : Nat) (p : Posting) : State :=
  let done (a : HmpResp) : HmpResp :=
    if a.stream == p.resp.stream && a.tag == p.resp.tag && a.devtimeDone.isNone then { a with devtimeDone := some (now s) } else a
  let s := { s with hmp := { s.hmp with answers := s.hmp.answers.map done,
                                        toPost := (s.hmp.toPost.erase p).map fun x => if x.copy then { x with resp := done x.resp } else x } }
  updMailbox s f fun m =>
    { m with inFlight := m.inFlight - 1, active := m.active && (m.enable || decide (1 < m.inFlight)) }

/-- The response may be posted now: writing requests complete in stream order, Cancel apart (R239). -/
def mayPost (s : State) (p : Posting) : Bool :=
  p.resp.opcode == 0x0003 || !writingOp p.resp.opcode || !s.hmp.toPost.any fun x =>
    x.req.stream == p.req.stream && decide (x.req.order < p.req.order) && writingOp x.resp.opcode && x.resp.opcode != 0x0003

/-- The response to a TAG that waits for its posting on a function's BAR mailbox: that of the request, then its copies. -/
def postingOf (s : State) (f tag : Nat) : Option Posting :=
  s.hmp.toPost.find? fun p => p.req.stream == barStream f && p.resp.tag == tag

/-- MAILBOX_RESPONSE_POST (R234, R236, R239): payload, then header with the ring's phase, then RSP_TAIL; a failed write clears ENABLE. -/
def execMailboxResponsePost (fn tag : Nat) (payloadOk headerOk : Bool) (s : State) : Host.Outcome State Fault Refusal :=
  .next (match postingOf s fn tag with
    | none => s
    | some p =>
      if !barReachable s fn || hmpStopped s || !mayPost s p then s
      else if payloadOk && headerOk then
        let s := { s with hmp := { s.hmp with barOut := s.hmp.barOut ++ [barPost s fn p] } }
        let s := updMailbox (settleResponse s fn p) fn fun m =>
          { m with rspTail := (m.rspTail + 1) % ringSlots m, phase := if m.rspTail + 1 = ringSlots m then !m.phase else m.phase }
        if (fnOf s fn).mailbox.notifyOnResponse then notifyFn s fn else s
      else
        let slot := (fnOf s fn).mailbox.rspTail
        disableMailbox (dmaError (settleResponse s fn p) fn slot) fn)

/-! ### MCTP (R238) -/

/-- Requests of an endpoint taken and not yet answered. -/
def oobTaken (s : State) (eid : Nat) : Nat := countP (fun q => q.stream == Stream.mk (.oob eid) .mctp) s.hmp.requests

/-- The MCTP side answers: the Management island runs, or the Ridge ROM serves form B (R394). -/
def mctpServes (s : State) : Bool :=
  if s.boot.phase == 7 && s.boot.formB then isRunning s 4 && s.boot.reason != 1 else isRunning s 0 && !hmpStopped s

/-- The message is an out-of-band HMP request (R238): type 0x7E, Integrity Check bit 0, vendor ID 0x1F6B. -/
def isHmpMessage (x : MctpSrc) : Bool := x.msgType == 0x7E && !x.ic && x.vendor == 0x1F6B

/-- MCTP_MESSAGE (R238, R240, R244): a message above 2 + 64 + 4,096 bytes is dropped and counted; without an engine to answer
there is no response; over OOB_INFLIGHT the answer is Busy. It wakes a Battened part (R398). A message of another form is no HMP
request and is dropped (DESIGN CHOICE, log entry 128). -/
def execMctpMessage (src : MctpSrc) (size : Nat) (raw : HmpRaw) (payload : List Byte) (s : State) : Host.Outcome State Fault Refusal :=
  .next (if !isHmpMessage src then s else
    let s := beginWake s .mctp
    let st : Stream := ⟨.oob src.eid, .mctp⟩
    if !mctpServes s then s
    else if 4162 < size then { s with hmp := { s.hmp with mctpOversize := s.hmp.mctpOversize + 1 } }
    else if (headerBad .mctp raw).isNone && (findReq s st raw.tag).isNone && (answered s st raw.tag).isNone &&
        decide (s.prof.oobInflight ≤ oobTaken s src.eid) then bounce s (rawReq s st raw payload (.mctp src.msgTag)) hsBusy 0
    else takeRequest s st raw payload (.mctp src.msgTag))

/-- MCTP_ENDPOINT_ID_ASSIGNMENT (R248): with MCTP_EID 0 the bus owner assigns the endpoint ID. -/
def execMctpEndpointIdAssignment (eid : Nat) (s : State) : Host.Outcome State Fault Refusal :=
  .next (if s.prof.mctpEid = 0 && isRunning s 3 then { s with hmp := { s.hmp with mctpEid := eid } } else s)

/-! ### Admin transport (R237) -/

/-- An admin command of a function can have been fetched: its controller serves, the link is up, the function has not been
shut down or failed, and the part is awake. -/
def adminFetch (s : State) (f : Nat) : Bool :=
  s.host.linkUp && fnReady s f && !(fnOf s f).cfs && !(fnOf s f).fetchPaused && s.boot.phase != 6 && !s.eav.powerLoss

/-- An admin HMP command runs: it has been fetched and the Management island serves; while that is not Running it waits (R244). -/
def adminHmp (s : State) (a : AdmHdr) (w : AdmHmp) (g : State → State) : State :=
  if !adminFetch s a.fn then s
  else if hmpStopped s then { s with hmp := { s.hmp with waiting := s.hmp.waiting ++ [w] } }
  else g s

/-- The stream of a function's admin queue. -/
def adminStream (f : Nat) : Stream := ⟨.fn f, .admin⟩

/-- CDW10 is malformed: zero, too short for the header, or above the limit. -/
def dwordsBad (n : Nat) : Bool := decide (n < 16) || decide (262160 < n)

/-- Responses held for a function. -/
def heldFor (s : State) (f : Nat) : List HmpResp := s.hmp.held.filter fun r => r.stream.sender == .fn f

/-- Responses that the SL4096 holds or will hold for a function: held ones, and those of posted requests in flight. -/
def heldOrDue (s : State) (f : Nat) : Nat :=
  (heldFor s f).length + sumNat ((s.hmp.requests.filter fun r => r.stream == adminStream f).map fun r => countP (· == .post) (r.dest :: r.copies))

/-- The body of HMP Post: Busy while 64 responses are held or due, so that never more than 64 are held. -/
def runPost (a : AdmHdr) (dwords : Nat) (raw : Option HmpRaw) (s : State) : State :=
  if dwordsBad dwords then adminDone s a .invalidField 0 []
  else match raw with
    | none => adminDone s a .dataTransferError 0 []
    | some r =>
      if 64 ≤ heldOrDue s a.fn then adminDone s a .success hsBusy []
      else adminDone (takeRequest s (adminStream a.fn) r [] .post) a .success 0 []

/-- HMP_POST (0xC1). -/
def execHmpPost (a : AdmHdr) (dwords : Nat) (raw : Option HmpRaw) (s : State) : Host.Outcome State Fault Refusal :=
  .next (adminHmp s a (.post a dwords raw) (runPost a dwords raw))

/-- The body of HMP Exchange: the response is written over the request, so the buffer's length bounds it. -/
def runExchange (a : AdmHdr) (dwords : Nat) (raw : Option HmpRaw) (s : State) : State :=
  if dwordsBad dwords then adminDone s a .invalidField 0 []
  else match raw with
    | none => adminDone s a .dataTransferError 0 []
    | some r =>
      takeRequest { s with hmp := { s.hmp with exchanges := s.hmp.exchanges ++ [⟨a.fn, a.cid, r.tag⟩] } } (adminStream a.fn) r []
        (.exchange a.cid (4 * dwords - 64))

/-- HMP_EXCHANGE (0xC3). -/
def execHmpExchange (a : AdmHdr) (dwords : Nat) (raw : Option HmpRaw) (s : State) : Host.Outcome State Fault Refusal :=
  .next (adminHmp s a (.exchange a dwords raw) (runExchange a dwords raw))

/-- The held response that a Collect names: by TAG, or the oldest. -/
def heldMatch (s : State) (f tag : Nat) : Option HmpResp :=
  (heldFor s f).find? fun r => tag == 0xFFFFFFFF || r.tag == tag

/-- The body of HMP Collect. CDW12 above 10,000, which the spec gives no answer, is Invalid Field in Command (DESIGN CHOICE, log entry
131). -/
def runCollect (a : AdmHdr) (tag room waitMs : Nat) (s : State) : State :=
  if dwordsBad (room / 4) || 10000 < waitMs then adminDone s a .invalidField 0 []
  else match heldMatch s a.fn tag with
    | some r =>
      if room < 64 + r.payload.length then adminDone s a .success hsTooSmall []
      else adminDone { s with hmp := { s.hmp with held := s.hmp.held.erase r } } a .success (r.status + 2 ^ 31)
        (respHeader r 0 0 false ++ r.payload)
    | none =>
      if waitMs = 0 then adminDone s a .success 0 []
      else { s with hmp := { s.hmp with collects := s.hmp.collects ++ [⟨a.fn, a.cid, tag, room, now s + waitMs * 1000⟩] } }

/-- HMP_COLLECT (0xC2): `room` is the buffer's size in bytes. -/
def execHmpCollect (a : AdmHdr) (tag room waitMs : Nat) (s : State) : Host.Outcome State Fault Refusal :=
  .next (adminHmp s a (.collect a tag room waitMs) (runCollect a tag room waitMs))

/-- HMP_COLLECT_TIMEOUT (R237): CDW12 ms have passed without a matching response. -/
def execHmpCollectTimeout (fn cid : Nat) (s : State) : Host.Outcome State Fault Refusal :=
  .next (match s.hmp.collects.find? fun c => c.fn == fn && c.cid == cid with
    | none => s
    | some c =>
      if now s < c.ends then s
      else adminDone { s with hmp := { s.hmp with collects := s.hmp.collects.erase c } } ⟨fn, cid⟩ .success 0 [])

/-! ### Cancel, Version Query, Operation Status (R243, R246) -/

/-- A request of the stream under a TAG has started: its response waits for its posting, or its long operation runs (R243). -/
def hasStarted (s : State) (st : Stream) (tag : Nat) : Bool :=
  (s.hmp.toPost.any fun p => p.req.stream == st && p.req.tag == tag) ||
    s.hmp.handles.any fun h => h.sender == st.sender && h.transport == st.transport && h.tag == tag && h.state == 0

/-- Outcome of a Cancel (R243), as its status and the state it leaves: a request taken and not started is answered with Cancelled; one
that has started, or whose long operation runs, is Not Cancellable. -/
def cancel (s : State) (q : HmpHdr) (target : Nat) : Nat × State :=
  match findReq s (streamOf q) target with
  | some r => (hsSuccess, answer s { q with tag := target } r.opcode hsCancelled 0 [])
  | none => (if hasStarted s (streamOf q) target then hsNotCancellable else hsUnknown, s)

abbrev ruleCancel : HmpRule := rule 0x0003 sendAll (some 4)

/-- The body of the admin command HMP Cancel. -/
def runCancel (q : HmpHdr) (target cid : Nat) (s : State) : State :=
  let a : AdmHdr := ⟨senderFn q.sender, cid⟩
  match hmpGate s { q with length := 4 } ruleCancel with
  | some (st, _) => adminDone s a .success st []
  | none => adminDone (cancel s q target).2 a .success (cancel s q target).1 []

/-- HMP_CANCEL (R243): the message 0x0003, or admin opcode 0xC0, whose completion carries the status. -/
def execHmpCancel (q : HmpHdr) (target : Nat) (admin : Option Nat) (s : State) : Host.Outcome State Fault Refusal :=
  .next (match admin, q.sender with
    | some cid, .fn f => adminHmp s ⟨f, cid⟩ (.cancel q target cid) (runCancel q target cid)
    | _, _ => hmpServe s q ruleCancel fun s =>
      if (cancel s q target).1 = 0 then hmpDone (cancel s q target).2 q 0x0003
      else answer s q 0x0003 (cancel s q target).1 0 [])

/-- The admin HMP commands that waited for the Management island run, in the order of their arrival (R244). -/
def runWaiting (s : State) : State :=
  if hmpStopped s || s.hmp.waiting.isEmpty then s
  else forEach s.hmp.waiting (fun w s => match w with
    | .cancel q target cid => runCancel q target cid s
    | .post a n raw => runPost a n raw s
    | .collect a tag room ms => runCollect a tag room ms s
    | .exchange a n raw => runExchange a n raw s) { s with hmp := { s.hmp with waiting := [] } }

/-- VERSION of an image as its 8 bytes. -/
def versionBytes (h : Option ImageHdr) : List Byte := leBytes 8 ((h.map (·.version)).getD 0)

abbrev ruleVersion : HmpRule := ⟨0x0001, sendAll, true, false, some 0⟩

/-- The 32 bytes of Version Query (R246). -/
def versionQueryBytes (s : State) : List Byte :=
  leBytes 1 1 ++ leBytes 1 0xA1 ++ leBytes 1 (if s.sec.cryptoDisable then 0 else 1) ++ zeros 1 ++ leBytes 4 1048576 ++
    leBytes 4 4096 ++ versionBytes (tblFind? 2 s.sec.active) ++ zeros 12

/-- VERSION_QUERY (0x0001). -/
def execVersionQuery (q : HmpHdr) (s : State) : Host.Outcome State Fault Refusal :=
  .next (hmpServe s q ruleVersion fun s => reply s q 0x0001 (versionQueryBytes s))

abbrev ruleOperation : HmpRule := ⟨0x0002, sendAll, true, false, some 4⟩

/-- The 16 bytes of Operation Status (R246). -/
def operationBytes (h : HandleSt) : List Byte :=
  leBytes 1 h.state ++ leBytes 1 h.progress ++ leBytes 2 h.opcode ++ leBytes 2 h.status ++ zeros 2 ++ leBytes 8 h.detail

/-- OPERATION_STATUS (0x0002): own handles only. -/
def execOperationStatus (q : HmpHdr) (handle : Nat) (s : State) : Host.Outcome State Fault Refusal :=
  .next (hmpServe s q ruleOperation fun s =>
    match s.hmp.handles.find? fun h => h.sender == q.sender && h.handle == handle with
    | some h => reply s q 0x0002 (operationBytes h)
    | none => answer s q 0x0002 hsUnknown 0 [])

/-- OPERATION_HANDLE_EXPIRY (R241): 1 hour after the operation ended. -/
def execOperationHandleExpiry (sender : Sender) (handle : Nat) (s : State) : Host.Outcome State Fault Refusal :=
  .next { s with hmp := { s.hmp with handles := s.hmp.handles.filter fun h =>
      !(h.sender == sender && h.handle == handle && (match h.endedAt with
        | some t => decide (t + 3600000000 ≤ now s)
        | none => false)) } }

/-- Opcodes of Table 10.6. -/
def hmpOpcodes : List Nat :=
  [0x0001, 0x0002, 0x0003, 0x0101, 0x0102, 0x0103, 0x0104, 0x0201, 0x0202, 0x0301, 0x0302, 0x0303, 0x0401, 0x0402, 0x0403,
   0x0404, 0x0405, 0x0406, 0x0407, 0x0501, 0x0502, 0x0503, 0x0601, 0x0602, 0x0603, 0x0604, 0x0701, 0x0702, 0x0703, 0x0704, 0x0705,
   0x0706, 0x0801, 0x0802, 0x0803, 0x0804, 0x0901, 0x0902]

/-- INVALID_HMP_OPCODE (R245): an opcode outside Table 10.6; before PHASE 5 and in the restricted phase Not Ready comes first
(R244), as for every other request. -/
def execInvalidHmpOpcode (q : HmpHdr) (opcode : Nat) (s : State) : Host.Outcome State Fault Refusal :=
  .next (if hmpOpcodes.contains opcode then s
    else hmpServe s q (rule opcode sendAll none) fun s => answer s q opcode hsInvalidOpcode 0 [])

end Sys2Proof.Machine
end

