-- ==== Sys2Proof/Machine/Build.lean ====
section
/-! DEFINITION. The geometry build (R26 to R31, R111, R112): division of each die's good blocks, T_bay, K, b_d. -/

namespace Sys2Proof.Machine

/-- G_g (R28): Gutter blocks per die, half of them for each Gutter half. -/
def gutterPerDie (p : Profile) : Nat := 2 * ceilDiv 4294967296 (population p * pslcBlock p)

/-- K (R30): conventional thatches per die of a set-0 bay, with `n0` such bays. -/
def convPerDie (p : Profile) (n0 : Nat) : Nat := ceilDiv (5 * convBytes p) (4 * (15 * blockData p) * n0)

/-- Plane blocks (block, plane) of a die with an entry in either bad block table. -/
def badPlanes (p : Profile) (x : DieSt) : List (Nat × Nat) :=
  (((x.fbbt ++ x.gbbt).map fun e => (e.block, e.plane)).eraseDups).filter fun e =>
    decide (e.1 < p.blocksPerPlane) && decide (e.2 < p.planes)

/-- Good plane blocks of a plane. -/
def planeGood (p : Profile) (x : DieSt) (pl : Nat) : Nat := p.blocksPerPlane - countP (fun e => e.2 == pl) (badPlanes p x)

/-- Bad die blocks by number (R109): with one address for all planes, those with a bad plane block; with an address for each plane
the good ones alone have numbers. -/
def badBlocks (p : Profile) (x : DieSt) : List Nat :=
  if p.indepPlaneAddr = 1 then [] else ((badPlanes p x).map (·.1)).eraseDups

/-- G_d (R109): good die blocks; a retired die has none. -/
def goodCount (p : Profile) (x : DieSt) : Nat :=
  if x.retired then 0
  else if p.indepPlaneAddr = 1 then (minNat? ((List.range p.planes).map (planeGood p x))).getD 0
  else p.blocksPerPlane - (badBlocks p x).length

/-- The number after the last die block that has one. -/
def blockEnd (p : Profile) (x : DieSt) : Nat := if p.indepPlaneAddr = 1 then goodCount p x else p.blocksPerPlane

/-- Plane blocks left over in planes with more good ones than G_d (R109), by plane. -/
def leftOver (p : Profile) (x : DieSt) : List (Nat × Nat) :=
  if p.indepPlaneAddr = 0 then []
  else (List.range p.planes).flatMap fun pl =>
    let bads := ((badPlanes p x).filter (·.2 == pl)).map (·.1)
    (List.range (planeGood p x pl - goodCount p x)).map fun i => (pl, nthGood bads (goodCount p x + i))

/-- The block number after `n` good blocks from `start`. -/
def skipBad (bads : List Nat) (start n : Nat) : Nat :=
  (List.range (bads.length + 1)).foldl
    (fun e _ => start + n + countP (fun b => decide (start ≤ b) && decide (b < e)) bads) (start + n)

/-- pSLC blocks of a die: four of the system area, the Gutter's, two of the Underlay (Table 02.2), lowest good ones first
(DESIGN CHOICE, log entry 66). -/
def slcBlocks (p : Profile) (x : DieSt) (gg : Nat) : List Nat :=
  let bads := badBlocks p x
  (List.range (skipBad bads 0 (6 + gg))).filter (!bads.contains ·)

/-- Use of block `k` after a build. -/
def builtUse (bads slc : List Nat) (gg zoneEnd k : Nat) : BlockUse :=
  if bads.contains k then .bad
  else match slc.findIdx? (· == k) with
    | some i =>
      if i < 4 then .system
      else if i < 4 + gg then .gutter (if i - 4 < gg / 2 then 0 else 1)
      else .underlay
    | none => if k < zoneEnd then .free else .spare

/-- Erase counts of the die blocks whose plane blocks have been erased before, under the numbers of this build (R31, R110). -/
def builtErases (p : Profile) (x : DieSt) : Tbl Nat Nat :=
  let bads := badPlanes p x
  let number (pl k : Nat) : Nat :=
    if p.indepPlaneAddr = 1 then k - countP (fun e => e.2 == pl && decide (e.1 < k)) bads else k
  (x.planeErases.filter fun e => !bads.contains (e.1.2, e.1.1) && decide (number e.1.1 e.1.2 < blockEnd p x)).foldl
    (fun t e => tblUpd 0 (number e.1.1 e.1.2) (max e.2) t) []

/-- A die as a build leaves it, with `zones` zone-mode blocks (zone backing and conventional): tables, erase counts and
retirement are kept (R31), the rest of its good blocks is the spare pool, and no block counts as erased. -/
def buildDie (p : Profile) (gg zones : Nat) (x : DieSt) : DieSt :=
  if x.retired then { x with goodBlocks := 0, bd := 0 }
  else
    let bads := badBlocks p x
    let slc := slcBlocks p x gg
    let start := skipBad bads 0 (6 + gg)
    let stop := skipBad bads 0 (6 + gg + zones)
    let use := builtUse bads slc gg stop
    let worn := builtErases p x
    let keys := (bads ++ slc ++ worn.map (·.1)).eraseDups
    let blocks : Tbl Nat BlockSt := keys.map fun k => (k, { blockDefault with use := use k, erases := tblGet 0 k worn })
    { x with goodBlocks := goodCount p x, blocks := blocks, builtBad := badPlanes p x, formed := [], orphans := leftOver p x,
             nextZone := start, zoneEnd := stop, nextSpare := stop, spareEnd := blockEnd p x,
             spareExtra := (blocks.filter (·.2.use == .spare)).map (·.1), bd := zones, slcShort := false }

/-- The first build fills each FBBT from the factory marks; a die with more than 1,024 is retired (R111). -/
def markDies (s : State) : State :=
  if !s.fl.geo.tBay.isEmpty then s
  else forEach (populatedDies s.prof) (fun d s =>
    let s := updDie s d fun x => { x with fbbt := x.fbbt.map fun e => { e with cause := 0, holdsData := false, opSeconds := s.tm.opSeconds } }
    let s := if (die s d).fbbt.isEmpty then s else copyTables s d
    if 1024 < (die s d).fbbt.length then retireDie (updDie s d fun x => { x with fbbt := x.fbbt.take 1024 }) d 4 else s) s

/-- SPARE_RESERVE and CONV_CAPACITY of a Board Profile loaded since the last build take effect (R61). -/
def takePending (s : State) : State :=
  match s.fl.geo.pendingFields with
  | [sr, cc] => { s with prof := profSetRecord s.prof 1 (setBits (setBits s.prof.geometry 0 16 sr) 32 8 cc) }
  | _ => s

/-- Least G_d over the dies of a bay (R29). -/
def bayGood (s : State) (b : Nat) : Nat :=
  (minNat? ((List.range 16).map fun i => goodCount s.prof (die s (bayDie b i)))).getD 0

/-- A bay places its K conventional thatches (R31): enough dies for a thatch, each of them with K blocks beside the other uses.
A retired die of the bay takes no part (DESIGN CHOICE, log entry 66). -/
def convBay (s : State) (gg k b : Nat) : Bool :=
  let ds := ((List.range 16).map (bayDie b)).filter fun d => !(die s d).retired
  decide (s.prof.minWidth ≤ ds.length) && ds.all fun d => decide (6 + gg + s.prof.spareReserve + k ≤ goodCount s.prof (die s d))

/-- T_bay (R29). -/
def tBayOf (s : State) (gg k : Nat) (conv : List Nat) (b : Nat) : Nat :=
  bayGood s b - (6 + gg) - s.prof.spareReserve - (if conv.contains b then k else 0)

/-- The geometry fits (R31): a zone in some bay, the pSLC areas on every die not retired, and K conventional thatches in every
bay of set 0. -/
def buildFits (s : State) (gg k : Nat) (conv : List Nat) (ts : Tbl Nat Nat) : Bool :=
  ts.any (fun e => decide (0 < e.2)) &&
    (populatedDies s.prof).all (fun d => (die s d).retired || decide (6 + gg ≤ goodCount s.prof (die s d))) &&
    (s.prof.convCapacity == 0 || !conv.isEmpty) && conv.all (convBay s gg k)

/-- The geometry with its dies and set widths, nothing bound yet (R28, R31). -/
def putGeometry (s : State) (gg k : Nat) (conv : List Nat) (ts : Tbl Nat Nat) : State :=
  let zones (d : DieNo) : Nat := tblGet 0 (dieBay d) ts + (if conv.contains (dieBay d) then k else 0)
  let s := forEach (populatedDies s.prof) (fun d s => updDie s d (buildDie s.prof gg (zones d))) s
  let geo : GeoSt := { built := true, gutterBlocks := gg, convPerDie := k, convBays := conv, tBay := ts,
                       boundProfile := (boundFields s.prof).map (·.1) ++ [s.prof.spareReserve, s.prof.convCapacity], pendingFields := [] }
  let s := { s with fl := { s.fl with geo := geo, thatches := [], media := [], relocations := [] },
                    eav := { s.eav with halves := [.spent, .spent], dump := none, underlay := [], underlayLog := [], underlayBlock := [],
                                        underlayMoves := [], eEff := 0 } }
  forEach (s.zns.sets.map (·.1)) (fun k s => recomputeWidth s k) s

/-- Build the geometry (R28 to R31); none where it fails, and no part of the build is kept. -/
def buildGeometry (s0 : State) : Option State :=
  let s := markDies (takePending s0)
  let p := s.prof
  let gg := gutterPerDie p
  let set0 := setBays s 0
  let k := convPerDie p set0.length
  let conv := if k = 0 then [] else set0
  let ts : Tbl Nat Nat := (baysOf p).map fun b => (b, tBayOf s gg k conv b)
  if buildFits s gg k conv ts then some (putGeometry s gg k conv ts) else none

end Sys2Proof.Machine
end

