-- ==== Sys2Proof/Machine/Namespaces.lean ====
section
/-! DEFINITION. Namespaces (R31, R51, R54, R55, R208, R214, R257), Format NVM and Sanitize (R214, R263), Function Zone Limits and
bay sets (R38, R52, R53). -/

namespace Sys2Proof.Machine

/-! ### Admin commands -/

/-- An admin command runs (R208, R214, R244, R393): it has been fetched and the Management island runs, else it waits; in form A
of the restricted phase only the commands of R393 are served, and an action reserved to the PF is no opcode of a VF. -/
def adminServe (s : State) (a : AdmHdr) (pfOnly restricted : Bool) (g : State → State) : State :=
  if !adminFetch s a.fn || mgmtDown s then s
  else if s.boot.phase == 7 && !restricted then adminDone s a .commandSequenceError 0 []
  else if pfOnly && a.fn != 0 then adminDone s a .invalidOpcode 0 []
  else g s

/-- An admin command of the function is served: fetched, the Management island running, not turned away by the restricted phase
or as reserved to the PF. -/
def adminPasses (s : State) (a : AdmHdr) (pfOnly restricted : Bool) : Prop :=
  adminFetch s a.fn = true ∧ mgmtDown s = false ∧ (s.boot.phase == 7 && !restricted) = false ∧ (pfOnly && a.fn != 0) = false

/-! ### Function Zone Limits (R38) -/

/-- Sum of the active limits in effect for all functions. -/
def activeLimitSum (s : State) : Nat := sumNat ((List.range 256).map fun f => (limitsOf s f).1)

abbrev ruleZoneLimits : HmpRule := rule 0x0201 sendPf (some 6)
abbrev ruleBaySet : HmpRule := rule 0x0202 sendPf (some 68)

/-- FUNCTION_ZONE_LIMITS (R38). -/
def execFunctionZoneLimits (q : HmpHdr) (fn active opened : Nat) (s : State) : Host.Outcome State Fault Refusal :=
  .next (hmpServe s q ruleZoneLimits fun s =>
    let s' := { s with zns := { s.zns with limits := tblSet fn (active, opened) s.zns.limits } }
    if 255 < fn then rejectWrite s q 0x0201 hsOutOfRange 0
    else if active < opened then answer s q 0x0201 hsConflict 1 []
    else if 32768 < activeLimitSum s' then answer s q 0x0201 hsConflict 2 []
    else hmpDone s' q 0x0201)

/-! ### Bay sets (R52, R53) -/

/-- A map of 256 bits from the numbers of its set bits. -/
def mapOf (l : List Nat) : Nat := (l.filter (· < 256)).eraseDups.foldl (fun a i => a + 2 ^ i) 0

/-- The numbers of the bits set in a map of 256 bits. -/
def bitsOf (m : Nat) : List Nat := (List.range 256).filter fun i => m.testBit i

/-- The sets after set `k` takes the bays of `m`; bays it gives up return to set 0. -/
def withBays (sets : Tbl Nat BaySetSt) (k m : Nat) : Tbl Nat BaySetSt :=
  let was := (tblGet setDefault k sets).bays
  sets.map fun e =>
    if e.1 = k then (e.1, { e.2 with bays := m })
    else
      let left := mapOf ((bitsOf e.2.bays).filter fun b => !m.testBit b)
      (e.1, { e.2 with bays := if e.1 = 0 then mapOf (bitsOf left ++ (bitsOf was).filter fun b => !m.testBit b) else left })

/-- Bays that change their set. -/
def movedBays (old new : Tbl Nat BaySetSt) : List Nat :=
  let owner (t : Tbl Nat BaySetSt) (b : Nat) : Nat := ((t.find? fun e => e.2.bays.testBit b).map (·.1)).getD 0
  (List.range 256).filter fun b => owner old b != owner new b

/-- A bay that may not leave its set (R53, reason 1): it backs a non-Empty zone, or holds a conventional thatch. -/
def bayTied (s : State) (b : Nat) : Bool :=
  (zoneList s).any (fun e => e.2.st != .empty && (match zoneThatch s e.2 with
    | some t => t.bay == b
    | none => false)) || (!s.zns.namespaces.isEmpty && decide (0 < s.fl.geo.convPerDie) && s.fl.geo.convBays.contains b)

/-- Sets whose bays differ. -/
def changedSets (old new : Tbl Nat BaySetSt) : List Nat :=
  (new.filter fun e => (tblGet setDefault e.1 old).bays != e.2.bays).map (·.1)

/-- A set meets its reservations at some width from MIN_WIDTH; without a namespace there are none. -/
def setMeets (s : State) (k : Nat) : Bool := s.zns.namespaces.isEmpty || (promisedWidth? s k).isSome

/-- An attached namespace depends on a grant of set `k` that the new map lacks (reason 4). -/
def grantLost (s : State) (k grants : Nat) : Bool :=
  s.zns.namespaces.any fun ns => ns.zoned && ns.sets.any (·.1 == k) && ns.attached.any fun f => !grants.testBit f

/-- First objection of R53 to a change of the sets, for set `k` with its new exclusive flag and grants. -/
def baySetConflict (s : State) (new : Tbl Nat BaySetSt) (k : Nat) (exclusive : Bool) (grants : Nat) : Option Nat :=
  let s' := { s with zns := { s.zns with sets := new } }
  if (movedBays s.zns.sets new).any (bayTied s) then some 1
  else if (k :: changedSets s.zns.sets new).any fun j => (setDefined s' j || j != k) && !setMeets s' j then some 2
  else if !setDefined s' k && decide (0 < setReserved s k) then some 2
  else if exclusive && decide (1 < (bitsOf grants).length) then some 3
  else if grantLost s k grants then some 4
  else none

/-- The sets change, and the promised widths of those whose bays changed follow (R57). -/
def putSets (s : State) (new : Tbl Nat BaySetSt) : State :=
  forEach (changedSets s.zns.sets new) (fun k s => recomputeWidth s k) { s with zns := { s.zns with sets := new } }

/-- BAY_SET_DEFINE (R52, R53). -/
def execBaySetDefine (q : HmpHdr) (set : Nat) (exclusive : Bool) (bays grants : List Nat) (s : State) :
    Host.Outcome State Fault Refusal :=
  .next (hmpServe s q ruleBaySet fun s =>
    if set = 0 || decide (255 < set) then rejectWrite s q 0x0202 hsOutOfRange 0
    else
      let base := if setDefined s set then s.zns.sets else s.zns.sets ++ [(set, setDefault)]
      let new := tblUpd setDefault set (fun x => { x with exclusive := exclusive, grants := mapOf grants })
        (withBays base set (mapOf bays))
      match baySetConflict s new set exclusive (mapOf grants) with
      | some r => answer s q 0x0202 hsConflict r []
      | none => hmpDone (putSets s new) q 0x0202)

/-- BAY_SET_DELETE: Bay Set Define with the delete flag (R52, R53). -/
def execBaySetDelete (q : HmpHdr) (set : Nat) (s : State) : Host.Outcome State Fault Refusal :=
  .next (hmpServe s q ruleBaySet fun s =>
    if set = 0 || decide (255 < set) then rejectWrite s q 0x0202 hsOutOfRange 0
    else if !setDefined s set then answer s q 0x0202 hsUnknown 0 []
    else
      let new := tblDel set (withBays s.zns.sets set 0)
      match baySetConflict s new set false 0 with
      | some r => answer s q 0x0202 hsConflict r []
      | none => hmpDone (putSets s new) q 0x0202)

/-! ### Media keys (R257, R262, R263) -/

/-- Write the key store into the half not in use (R257): the media keys as they stand. -/
def storeKeys (s : State) : State :=
  let ks := (s.sec.slots.filter fun e => e.2.state == 1 || e.2.state == 2).map fun (e : Nat × KeySlot) => (e.1, { e.2 with pins := 0 })
  { s with sec := { s.sec with keyStore := ks, keyStoreHalf := !s.sec.keyStoreHalf, keyStoreSeq := s.sec.keyStoreSeq + 1 } }

/-- Clear the media key slots and the Key Per I/O slots of a namespace. -/
def clearNsKeys (s : State) (nsid : Nat) : State :=
  { s with sec := putSlots s.sec (s.sec.slots.filter fun e =>
      !(e.1 == 2 * (nsid - 1) || e.1 == 2 * (nsid - 1) + 1 || (e.2.state == 3 && e.2.nsIndex == nsid - 1))) }

/-- Draw a media key with GENERATION 0 into slot 2n (R257): a free value. KZ-SL4096-A1N has no keys. -/
def drawKey (s : State) (nsid : Nat) : State :=
  if s.sec.cryptoDisable then s
  else
    let k : KeySlot := { keySlotDefault with state := 1, nsIndex := nsid - 1, key := fresh s 0 % 2 ^ 512 + 1 }
    storeKeys (tickFree { s with sec := putSlots s.sec (tblSet (2 * (nsid - 1)) k s.sec.slots) })

/-- A rollover of the namespace ends failed (Table 11.12). -/
def endRollover (s : State) (nsid status : Nat) : State :=
  let mine := s.sec.rollovers.filter (·.1 == nsid)
  forEach mine (fun r s => endLong s r.2.1 r.2.2 status 0)
    { s with sec := { s.sec with rollovers := s.sec.rollovers.filter (·.1 != nsid) } }

/-! ### Erasing a namespace (R263 step 4) -/

/-- Zones of a namespace that hold anything. -/
def listedZones (s : State) (nsid : Nat) : List Nat := ((zoneList s).filter fun e => e.1.1 == nsid).map (·.1.2)

/-- Granules of a conventional namespace with data or a mark. -/
def listedGranules (s : State) (nsid : Nat) : List Nat :=
  (((s.zns.conv.filter (·.1.1 == nsid)).map (·.1.2)) ++ ((s.eav.units.filter (·.nsid == nsid)).map (·.unit)) ++
    ((s.fl.media.filter (·.nsid == nsid)).map (·.unit)) ++ ((s.zns.convUnrec ++ s.zns.convPoison).filter (·.1 == nsid)).map (·.2)).eraseDups

/-- Reset every zone, deallocate every granule, and drop Eaves units, Underlay entries and Loft pages of a namespace. -/
def eraseNs (ns : NsSt) (s : State) : State :=
  if ns.zoned then forEach (listedZones s ns.nsid) (fun z s => resetZone s ns z) s
  else forEach (listedGranules s ns.nsid) (fun u s => convClear s ns.nsid u) s

/-- An accepted command of a namespace has not completed. -/
def nsBusy (s : State) (nsid : Nat) : Bool := s.adm.cmds.any fun c => c.accepted && c.nsid == nsid

/-! ### Namespace Management and Attachment -/

/-- The lowest NSID not in use, of 1,024. -/
def freeNsid (s : State) : Option Nat := ((List.range 1024).map (· + 1)).find? fun n => (nsOf s n).isNone

/-- The list of sets that a zoned creation gives: n = 0 reserves every zone in set 0 (R51). -/
def setsFor (nsze lbaf : Nat) (sets : List (Nat × Nat)) : List (Nat × Nat) :=
  if sets.isEmpty then [(0, nsze * (if 3 ≤ lbaf then 4 else 1) / zoneUnits)] else sets

/-- An LBA format of Table 09.9 with a protection information that it offers: 8 bytes of metadata take the 16-bit guard, 64
bytes either guard; types 1 to 3 (R218). -/
def formatOk (f : LbaFormat) : Bool :=
  decide (f.lbaf < 6) && match f.prot with
    | .none => true
    | .guard16 t => decide (f.lbaf % 3 ≠ 0) && decide (1 ≤ t) && decide (t ≤ 3)
    | .guard64 t => f.lbaf % 3 == 2 && decide (1 ≤ t) && decide (t ≤ 3)

/-- Errors of the creation data that do not depend on capacity (R51, R218, Table 02.4). Reservations that do not sum to NSZE / ZSZE,
a list longer than 16 and an undefined set are Invalid Field in Command: R51 names no status for them (DESIGN CHOICE, log entry 79). -/
def createError (s : State) (zoned : Bool) (nsze : Nat) (fmt : LbaFormat) (sets : List (Nat × Nat)) : Option NvmeStatus :=
  let units := nsze * (if 3 ≤ fmt.lbaf then 4 else 1)
  if s.sec.sanitizing then some .sanitizeInProgress
  else if !formatOk fmt then some .invalidFormat
  else if nsze = 0 || decide (16 < sets.length) then some .invalidField
  else if zoned && (decide (units % zoneUnits ≠ 0) || sumNat ((setsFor nsze fmt.lbaf sets).map (·.2)) * zoneUnits != units ||
      sets.any fun e => !setDefined s e.1) then some .invalidField
  else if (freeNsid s).isNone then some .namespaceIdentifierUnavailable
  else none

/-- Bytes of the conventional namespaces. -/
def convUsed (s : State) : Nat := 4096 * sumNat ((s.zns.namespaces.filter (!·.zoned)).map nsUnits)

/-- A namespace fits (R29, R51, R55, Table 05.9): the zones of all namespaces stay within the sum of T_bay and the sets' demands
within their capacities at their promised widths, or the conventional sizes within C. -/
def nsFits (s : State) (ns : NsSt) : Bool :=
  let s' := { s with zns := { s.zns with namespaces := s.zns.namespaces ++ [ns] } }
  if ns.zoned then
    decide (sumNat ((s'.zns.namespaces.filter (·.zoned)).map nsZones) ≤ sumNat (s.fl.geo.tBay.map (·.2))) && ns.sets.all fun e => decide (setDemand s' e.1 (baySet s e.1).promised ≤ setCap s e.1 (baySet s e.1).promised)
  else decide (convUsed s' ≤ convBytes s.prof)

/-- Put a namespace in place: its promised capacity, its media key (R257, R58). -/
def addNs (s : State) (ns : NsSt) : State :=
  let s := { s with zns := { s.zns with namespaces := s.zns.namespaces ++ [ns], created := tblSet ns.nsid (promisedCap s ns) s.zns.created } }
  forEach (ns.sets.map (·.1)) (fun k s => recomputeWidth s k) (drawKey s ns.nsid)

/-- NAMESPACE_CREATE (R51): the geometry is built when the count rises from 0 (R31). -/
def execNamespaceCreate (a : AdmHdr) (zoned : Bool) (nsze : Nat) (fmt : LbaFormat) (sets : List (Nat × Nat)) (s : State) :
    Host.Outcome State Fault Refusal :=
  .next (adminServe s a true false fun s =>
    match createError s zoned nsze fmt sets with
    | some e => adminDone s a e 0 []
    | none =>
      match if s.zns.namespaces.isEmpty then buildGeometry s else some s with
      | none => adminDone (profileEvent s 1 1 0 0 0) a .namespaceInsufficientCapacity 0 []
      | some t =>
        let ns : NsSt := { nsid := (freeNsid s).getD 1, zoned := zoned, nsze := nsze, lbaf := fmt.lbaf, prot := fmt.prot, extended := fmt.extended,
                           sets := if zoned then setsFor nsze fmt.lbaf sets else [], attached := [] }
        if nsFits t ns then adminDone (addNs t ns) a .success ns.nsid []
        else adminDone s a .namespaceInsufficientCapacity 0 [])

/-- Conventional thatches leave when no namespace remains (R53), and no build binds the profile any more (R31). -/
def lastGone (s : State) : State :=
  if !s.zns.namespaces.isEmpty then s
  else
    let s := forEach (s.fl.thatches.filter fun e => isConv e.2.kind) (fun e s => releaseThatch (cancelThatch s e.1) e.1) s
    { s with fl := { s.fl with geo := { s.fl.geo with convBays := [], convPerDie := 0, boundProfile := [] } } }

/-- Withdraw the held commands of a namespace, of one function or of all. -/
def withdrawNs (s : State) (nsid : Nat) (fn? : Option Nat) : State :=
  forEach (s.adm.cmds.filter fun c => !c.accepted && c.nsid == nsid && (match fn? with
    | some f => c.fn == f
    | none => true)) (fun c s => withdrawCmd s c .invalidNamespace) s

/-- Delete a namespace: its data, keys and reservations go; its held commands end with Invalid Namespace or Format (DESIGN
CHOICE, log entry 67). -/
def deleteNs (ns : NsSt) (s : State) : State :=
  let s := endRollover (eraseNs ns (withdrawNs s ns.nsid none)) ns.nsid hsCancelled
  let s := storeKeys (clearNsKeys s ns.nsid)
  let s := { s with sec := { s.sec with kpioOn := s.sec.kpioOn.filter (· != ns.nsid) },
                    zns := { s.zns with namespaces := s.zns.namespaces.filter (·.nsid != ns.nsid),
                                        zones := s.zns.zones.filter (·.1.1 != ns.nsid), created := tblDel ns.nsid s.zns.created } }
  lastGone (forEach (ns.sets.map (·.1)) (fun k s => recomputeWidth s k) s)

/-- NAMESPACE_DELETE (R31): NSID 0xFFFFFFFF names all. It waits for accepted commands of the namespaces. -/
def execNamespaceDelete (a : AdmHdr) (nsid : Nat) (s : State) : Host.Outcome State Fault Refusal :=
  .next (adminServe s a true false fun s =>
    let nss := s.zns.namespaces.filter fun ns => nsid == 0xFFFFFFFF || ns.nsid == nsid
    if s.sec.sanitizing then adminDone s a .sanitizeInProgress 0 []
    else if nss.isEmpty && nsid != 0xFFFFFFFF then adminDone s a .invalidNamespace 0 []
    else if nss.any fun ns => nsBusy s ns.nsid then s
    else adminDone (forEach nss (fun ns s => deleteNs ns (nsChanged s ns.nsid ns.attached)) s) a .success 0 [])

/-- Change a namespace. -/
def updNs (s : State) (nsid : Nat) (g : NsSt → NsSt) : State :=
  { s with zns := { s.zns with namespaces := s.zns.namespaces.map fun ns => if ns.nsid == nsid then g ns else ns } }

/-- Objection to an attachment (R54). -/
def attachError (s : State) (ns : NsSt) (fn : Nat) : Option NvmeStatus :=
  if s.prof.totalVfs < fn then some .controllerListInvalid
  else if attachedTo ns fn then some .namespaceAlreadyAttached
  else if ns.zoned && !ns.attached.isEmpty then some .namespaceIsPrivate
  else if ns.zoned && ns.sets.any fun e => !setGrants s e.1 fn then some .controllerListInvalid
  else none

/-- NAMESPACE_ATTACH (R54). -/
def execNamespaceAttach (a : AdmHdr) (nsid fn : Nat) (s : State) : Host.Outcome State Fault Refusal :=
  .next (adminServe s a true false fun s =>
    match nsOf s nsid with
    | none => adminDone s a .invalidNamespace 0 []
    | some ns => match attachError s ns fn with
      | some e => adminDone s a e 0 []
      | none => adminDone (nsChanged (updNs s nsid fun x => { x with attached := x.attached ++ [fn] }) nsid [fn]) a .success 0 [])

/-- NAMESPACE_DETACH: accepted commands complete normally, held ones end (log entry 67). -/
def execNamespaceDetach (a : AdmHdr) (nsid fn : Nat) (s : State) : Host.Outcome State Fault Refusal :=
  .next (adminServe s a true false fun s =>
    match nsOf s nsid with
    | none => adminDone s a .invalidNamespace 0 []
    | some ns =>
      if s.prof.totalVfs < fn then adminDone s a .controllerListInvalid 0 []
      else if !attachedTo ns fn then adminDone s a .namespaceNotAttached 0 []
      else
        let s := withdrawNs s nsid (some fn)
        adminDone (nsChanged (updNs s nsid fun x => { x with attached := x.attached.filter (· != fn) }) nsid [fn]) a .success 0 [])

/-! ### Format NVM -/

/-- Put an LBA format on an erased namespace: the number of units stays. -/
def reformat (s : State) (ns : NsSt) (fmt : LbaFormat) : State :=
  updNs s ns.nsid fun x => { x with lbaf := fmt.lbaf, prot := fmt.prot, extended := fmt.extended, nsze := nsUnits ns / (if 3 ≤ fmt.lbaf then 4 else 1) }

/-- Errors of a Format NVM that names one namespace. -/
def formatError (s : State) (nsid : Nat) (fmt : LbaFormat) : Option NvmeStatus :=
  if s.sec.sanitizing then some .sanitizeInProgress
  else if nsid = 0xFFFFFFFF then some .invalidField
  else if !formatOk fmt then some .invalidFormat
  else if (nsOf s nsid).isNone then some .invalidNamespace
  else none

/-- Erase a namespace cryptographically (R263 steps 2 to 4). -/
def cryptoErase (ns : NsSt) (s : State) : State :=
  eraseNs ns (drawKey (clearNsKeys (endRollover s ns.nsid hsCancelled) ns.nsid) ns.nsid)

/-- Run a format on its namespace: it waits for the commands accepted before it (R263 step 1). -/
def formatWith (s : State) (a : AdmHdr) (nsid : Nat) (fmt : LbaFormat) (g : NsSt → State → State) : State :=
  match formatError s nsid fmt, nsOf s nsid with
  | some e, _ => adminDone s a e 0 []
  | none, none => adminDone s a .invalidNamespace 0 []
  | none, some ns => if nsBusy s nsid then s else adminDone (nsChanged (reformat (g ns s) ns fmt) nsid ns.attached) a .success 0 []

/-- FORMAT_NVM with SES 2 on a part without keys is Invalid Field (R263). -/
def formatCrypto (s : State) (a : AdmHdr) (nsid : Nat) (fmt : LbaFormat) : State :=
  if s.sec.cryptoDisable then adminDone s a .invalidField 0 [] else formatWith s a nsid fmt cryptoErase

/-- FORMAT_NVM (Table 09.7): SES 0, or 2 as FORMAT_NVM_CRYPTO_ERASE. -/
def execFormatNvm (a : AdmHdr) (nsid : Nat) (fmt : LbaFormat) (ses : Nat) (s : State) : Host.Outcome State Fault Refusal :=
  .next (adminServe s a true false fun s =>
    if ses = 2 then formatCrypto s a nsid fmt
    else if ses ≠ 0 then adminDone s a .invalidField 0 []
    else formatWith s a nsid fmt eraseNs)

/-- FORMAT_NVM_CRYPTO_ERASE (R263). -/
def execFormatNvmCryptoErase (a : AdmHdr) (nsid : Nat) (fmt : LbaFormat) (s : State) : Host.Outcome State Fault Refusal :=
  .next (adminServe s a true false fun s => formatCrypto s a nsid fmt)

/-! ### Sanitize (R263) -/

/-- Start a Sanitize: the command completes, and the erase follows once the commands accepted before it have ended. -/
def startSanitize (s : State) (a : AdmHdr) (blockErase : Bool) : State :=
  if s.sec.sanitizing then adminDone s a .sanitizeInProgress 0 []
  else adminDone { s with sec := { s.sec with sanitizing := true, sanitizeBlock := blockErase, sanitizeState := 2 } } a .success 0 []

/-- SANITIZE_CRYPTO_ERASE: not supported on a part without keys (R263). -/
def execSanitizeCryptoErase (a : AdmHdr) (s : State) : Host.Outcome State Fault Refusal :=
  .next (adminServe s a true false fun s =>
    if s.sec.cryptoDisable then adminDone s a .invalidField 0 [] else startSanitize s a false)

/-- SANITIZE_BLOCK_ERASE (Table 09.7). -/
def execSanitizeBlockErase (a : AdmHdr) (s : State) : Host.Outcome State Fault Refusal :=
  .next (adminServe s a true false fun s => startSanitize s a true)

/-- Erase every block of a die that may hold user data (log entry 68). -/
def eraseBlocks (d : DieNo) (s : State) : State :=
  forEach ((die s d).blocks.filter fun e => !(e.2.erased || e.2.use == .system || e.2.use == .bad))
    (fun e s => updBlock (countErase s d e.1) d e.1 fun b =>
      { b with erased := true, incomplete := false, shift := 0, band := 0, valid := false, hits := 0 }) s

/-- The erase of a Sanitize. -/
def sanitize (s : State) : State :=
  if s.sec.sanitizeBlock then
    let s := forEach s.zns.namespaces eraseNs s
    forEach ((s.fl.dies.filter fun e => !e.2.retired).map (·.1)) eraseBlocks s
  else clearAllKeys (forEach s.zns.namespaces cryptoErase s)

/-- A Sanitize in progress ends once no accepted command remains: its 3 s bound has no row of its own, so it ends in an idle
step (DESIGN CHOICE, log entry 68). -/
def sanitizeTick (s : State) : State :=
  if !s.sec.sanitizing || mgmtDown s || s.eav.powerLoss || decide (s.boot.phase ≠ 5) || s.adm.cmds.any (·.accepted) then s
  else
    let s := sanitize s
    { s with sec := { s.sec with sanitizing := false, sanitizeState := 1 } }

end Sys2Proof.Machine
end

