-- ==== Sys2Proof/Machine/Board.lean ====
section
/-! DEFINITION. The test access port (R439), the LEDs (R440), and NVMe-MI traffic (R214, R238). -/

namespace Sys2Proof.Machine

/-- Instructions that take effect in normal mode too (R439). -/
def tapAlways : TapInstr → Bool
  | .bypass => true
  | .samplePreload => true
  | _ => false

/-- TAP_INSTRUCTION_UPDATE (R439): outside board test mode the other instructions act as BYPASS. -/
def execTapInstructionUpdate (i : TapInstr) (s : State) : Host.Outcome State Fault Refusal :=
  .next { s with pins := { s.pins with tap := if s.pins.testMode || tapAlways i then i else .bypass } }

/-- ACTIVITY_LED_TIMEOUT (R440): 50 ms after the latest I/O completion SB_LED_ACT_N is released. -/
def execActivityLedTimeout (s : State) : Host.Outcome State Fault Refusal :=
  .next (match s.pins.lastCompletion with
    | some t => if t + 50000 ≤ now s then { s with pins := { s.pins with ledActN := true } } else s
    | none => s)

/-- FAULT_LED_BLINK (R440): in PHASE 7 without a severe source SB_LED_FLT_N toggles every 250 ms. -/
def execFaultLedBlink (s : State) : Host.Outcome State Fault Refusal :=
  .next (if s.boot.phase != 7 || anySevere s || !isRunning s 0 || decide (now s < s.pins.faultBlinkAt + 250000) then s
    else { s with pins := { s.pins with ledFltN := !s.pins.ledFltN, faultBlinkAt := now s } })

/-! ### NVMe-MI -/

/-- NVME_MI_SEND (R214): the spec leaves the request's effect to NVMe-MI 2.0 (log entry 73). -/
def execNvmeMiSend (a : AdmHdr) (request : List Byte) (s : State) : Host.Outcome State Fault Refusal :=
  .next (adminServe s a true false fun s =>
    adminDone (tickFree s) a .success (fresh s request.length % 2 ^ 32) [])

/-- NVME_MI_RECEIVE (R214): the response is another standard's: free bytes. -/
def execNvmeMiReceive (a : AdmHdr) (s : State) : Host.Outcome State Fault Refusal :=
  .next (adminServe s a true false fun s => adminDone (tickFree s) a .success (fresh s 0 % 2 ^ 32) (Config.freeBytes s.free))

/-- An NVMe-MI command for the subsystem health data (NVM Subsystem Health Status Poll; the standard's layout, PRESUMED, log entry 74). -/
def isHealthPoll (request : List Byte) : Bool :=
  bits (vecGet 0 request 1).toNat 3 4 == 1 && (vecGet 0 request 4).toNat == 1

/-- Subsystem health data over free bytes (Table 14.5): Drive Functional is cleared by a device-level severe fault, and the Critical
Warning byte, whose bits the standard inverts, shows bit 2. -/
def healthBytes (s : State) : List Byte :=
  let b := padTo 16 (Config.freeBytes s.free)
  let drive := if cfsLatched s then 0 else 32
  let nss := setBits (vecGet 0 b 8).toNat 5 1 (drive / 32)
  b.take 8 ++ leBytes 1 nss ++ leBytes 1 (255 - s.host.criticalWarning.toNat % 256) ++ b.drop 10

/-- NVME_MI_MCTP_MESSAGE (R238): a message of MCTP type 0x04 is answered to its endpoint; it shares the bus with HMP and wakes a
Battened part (R398). -/
def execNvmeMiMctpMessage (eid : Nat) (request : List Byte) (s : State) : Host.Outcome State Fault Refusal :=
  .next (
    let s := beginWake s .mctp
    if !mctpServes s || request.isEmpty then s
    else
      let out := s.hmp.miOut ++ [(eid, if isHealthPoll request then healthBytes s else Config.freeBytes s.free)]
      tickFree { s with hmp := { s.hmp with miOut := out } })

end Sys2Proof.Machine
end

