-- ==== Sys2Proof/Machine/MediaReports.lean ====
section
/-! DEFINITION. Bad Block Report (R111), Media Wear Report (R130), Die Retire (R125). -/

namespace Sys2Proof.Machine

/-- The eight bytes of a bad block table entry (Table 05.2). -/
def badEntryBytes (e : BadEntry) : List Byte :=
  leBytes 8 (e.block % 16384 + e.plane % 4 * 2 ^ 14 + e.cause % 16 * 2 ^ 16 + (if e.holdsData then 2 ^ 20 else 0) +
    e.opSeconds % 2 ^ 40 * 2 ^ 24)

/-- Entries of a table of a die: the FBBT is filled at the first geometry build (R111). -/
def badTable (s : State) (d : DieNo) (table : Nat) : List BadEntry :=
  if table = 1 then (die s d).gbbt else if s.fl.geo.tBay.isEmpty then [] else (die s d).fbbt

abbrev ruleBadBlocks : HmpRule := rule 0x0301 sendAll (some 6)
abbrev ruleWear : HmpRule := rule 0x0302 sendAll (some 4)
abbrev ruleRetire : HmpRule := rule 0x0303 (sendPfOobR 0) (some 2)

/-- BAD_BLOCK_REPORT (R111). -/
def execBadBlockReport (q : HmpHdr) (die table first : Nat) (s : State) : Host.Outcome State Fault Refusal :=
  .next (hmpServe s q ruleBadBlocks fun s =>
    if 4096 ≤ die then answer s q 0x0301 hsOutOfRange 0 []
    else if 2 ≤ table then answer s q 0x0301 hsOutOfRange 2 []
    else if !diePopulated s.prof die then answer s q 0x0301 hsUnknown 0 []
    else
      let es := ((badTable s die table).drop first).take 64
      reply s q 0x0301 (leBytes 2 es.length ++ zeros 6 ++ es.flatMap badEntryBytes))

/-- A member of some thatch on the die is spliced. -/
def dieSpliced (s : State) (d : DieNo) : Bool :=
  s.fl.thatches.any fun t => t.2.members.any fun m => m.die == d && !m.splices.isEmpty

/-- The 16 bytes of a die (Table 05.10). -/
def wearBytes (s : State) (d : DieNo) : List Byte :=
  let x := die s d
  let most := x.blocks.foldl (fun a e => max a e.2.erases) 0
  let flags := (if x.retired then 1 else 0) + (if spareCount x = 0 then 2 else 0) + (if x.slcShort then 4 else 0) +
    (if dieSpliced s d then 8 else 0)
  leBytes 2 d ++ leBytes 2 x.goodBlocks ++ leBytes 2 (spareCount x) ++ leBytes 2 x.bd ++ leBytes 2 (meanErases x) ++
    leBytes 2 most ++ leBytes 2 x.gbbt.length ++ leBytes 1 flags ++ zeros 1

/-- The 64-byte header of Media Wear Report (R130). -/
def wearHeader (w : WearSt) : List Byte :=
  leBytes 8 w.host ++ leBytes 8 w.relocation ++ leBytes 8 w.refresh ++ leBytes 8 w.reroofing ++ leBytes 8 w.filler ++ zeros 24

/-- MEDIA_WEAR_REPORT (R130): one entry for each populated die among the numbers named (DEDUCED, log entry 69). A
count of 0 or above 4,096, for which the spec gives no range, is Field Out Of Range (DESIGN CHOICE, log entry 139). -/
def execMediaWearReport (q : HmpHdr) (first count : Nat) (s : State) : Host.Outcome State Fault Refusal :=
  .next (hmpServe s q ruleWear fun s =>
    if 4096 ≤ first then answer s q 0x0302 hsOutOfRange 0 []
    else if count = 0 || decide (4096 < count) then answer s q 0x0302 hsOutOfRange 2 []
    else
      let ds := (populatedDies s.prof).filter fun d => decide (first ≤ d) && decide (d < first + count)
      reply s q 0x0302 (wearHeader s.fl.wear ++ ds.flatMap (wearBytes s)))

/-- DIE_RETIRE (R125): a retired die answers Success at once; the operation ends with the retirement. -/
def execDieRetire (q : HmpHdr) (die : Nat) (s : State) : Host.Outcome State Fault Refusal :=
  .next (hmpServe s q ruleRetire fun s =>
    if 4096 ≤ die then answer s q 0x0303 hsOutOfRange 0 []
    else if !diePopulated s.prof die then answer s q 0x0303 hsUnknown 0 []
    else if (Sys2Proof.Machine.die s die).retired then hmpDone s q 0x0303
    else if !plannedOk s then s
    else startLong (plannedStep s) q 0x0303 fun s h => endLong (retireDie s die 3) q.sender h hsSuccess 0)

end Sys2Proof.Machine
end

