-- ==== Sys2Proof/Machine/PciSpace.lean ====
section
/-! DEFINITION. The configuration space of a function (R204, R207, R211, R226): identity, BARs, power state, the PCI Express capability, MSI-X,
SR-IOV and L1 PM Substates. The spec names the fields; their layout is that of PCI Express (PRESUMED) and the places of the capabilities a
DESIGN CHOICE (log entry 123). -/

namespace Sys2Proof.Machine

/-- A field at its lowest bit. -/
def field (lo v : Nat) : Nat := v * 2 ^ lo

/-- Device ID and Vendor ID (Table 09.2): a VF reads all ones; its Device ID is in the PF's SR-IOV capability. -/
def cfgId (fn : Nat) : Nat := if fn = 0 then 0x40961F6B else 0xFFFFFFFF

/-- Link Capabilities: MAX_SPEED, MAX_WIDTH, ASPM L1 (Table 09.1). -/
def linkCaps (p : Profile) : Nat := p.maxSpeed + field 4 p.maxWidth + field 10 2

/-- Link Control and Link Status: ASPM, rate and width in use. -/
def linkStatus (s : State) (x : CfgSt) : Nat := x.lnkCtl + field 16 s.host.rate + field 20 s.host.width

/-- The PCI Express, power management and MSI-X capabilities, from 0x40 on. -/
def readCaps (s : State) (fn : Nat) (x : CfgSt) (off : Nat) : Nat :=
  match off with
  | 0x40 => 0x00028010
  | 0x44 => 5 + field 5 1 + field 28 1
  | 0x48 => x.devCtl
  | 0x4C => linkCaps s.prof
  | 0x50 => linkStatus s x
  | 0x64 => field 16 1 + field 17 1
  | 0x68 => x.devCtl2
  | 0x80 => 0x00039001
  | 0x84 => x.pm
  | 0x90 => 0x11 + field 16 (vectorsOf fn - 1)
  | 0x94 => 0x2000
  | 0x98 => 0xA000
  | _ => 0

/-- The PF's SR-IOV capability from 0x140 on (Tables 09.1, 09.2) and its L1 PM Substates capability at 0x180, where L1SS_CAP is 1; the ARI
capability of every function at 0x1A0. -/
def readExtCaps (s : State) (fn off : Nat) : Nat :=
  let l := s.host.link
  if off = 0x1A0 then 0x0001000E
  else if fn ≠ 0 then 0
  else match off with
    | 0x140 => 0x18010010
    | 0x148 => (if s.host.vfEnabled then 1 else 0) + l.sriovCtl
    | 0x14C => s.prof.totalVfs + field 16 s.prof.totalVfs
    | 0x150 => s.host.numVfs
    | 0x154 => 1 + field 16 1
    | 0x158 => field 16 0x4097
    | 0x15C => 0x1F
    | 0x160 => l.pageSize
    | 0x164 => l.vfBar0 % 2 ^ 32 + 4
    | 0x168 => l.vfBar0 / 2 ^ 32
    | 0x16C => l.vfBar2 % 2 ^ 32 + 4
    | 0x170 => l.vfBar2 / 2 ^ 32
    | 0x180 => if s.prof.l1ssCap = 1 then 0x1A01001E else 0
    | 0x184 => if s.prof.l1ssCap = 1 then 0x1F else 0
    | 0x188 => if s.prof.l1ssCap = 1 then l.l1ss else 0
    | _ => 0

/-- A register of a function's configuration space; a VF's own BARs read as zero, those of the SR-IOV capability stand for them. -/
def readConfig (s : State) (fn off : Nat) : U32 :=
  let x := (fnOf s fn).cfg
  let bar (b : Nat) : Nat := if fn = 0 then b % 2 ^ 32 + 4 else 0
  BitVec.ofNat 32 (match off with
    | 0x00 => cfgId fn
    | 0x04 => x.command + field 20 1
    | 0x08 => 0x010802A1
    | 0x10 => bar x.bar0
    | 0x14 => if fn = 0 then x.bar0 / 2 ^ 32 else 0
    | 0x18 => bar x.bar2
    | 0x1C => if fn = 0 then x.bar2 / 2 ^ 32 else 0
    | 0x2C => s.prof.subsysVendor + field 16 s.prof.subsysId
    | 0x34 => 0x40
    | _ => if off < 0x100 then readCaps s fn x off else readExtCaps s fn off)

/-- Put one half of a 64-bit BAR of 64 KiB (R211): its low 16 bits are not writable. -/
def putBar (b v : Nat) (high : Bool) : Nat :=
  if high then b % 2 ^ 32 + v % 2 ^ 32 * 2 ^ 32 else b / 2 ^ 32 * 2 ^ 32 + v % 2 ^ 32 / 65536 * 65536

/-- Keep the writable bits of a register: those of a mask. -/
def keepMask (v mask : Nat) : Nat := v &&& mask

/-- Write a register of the PF's SR-IOV or L1 PM Substates capability. VF Enable and NumVFs have rows of their own (R210, R221). -/
def writeExtCaps (s : State) (off v : Nat) : State :=
  let put (f : LinkSt → LinkSt) : State := { s with host := { s.host with link := f s.host.link } }
  match off with
  | 0x148 => put fun l => { l with sriovCtl := keepMask v 0x18 }
  | 0x160 => if [1, 2, 4, 8, 16].contains v then put fun l => { l with pageSize := v } else s
  | 0x164 => put fun l => { l with vfBar0 := putBar l.vfBar0 v false }
  | 0x168 => put fun l => { l with vfBar0 := putBar l.vfBar0 v true }
  | 0x16C => put fun l => { l with vfBar2 := putBar l.vfBar2 v false }
  | 0x170 => put fun l => { l with vfBar2 := putBar l.vfBar2 v true }
  | 0x188 => if s.prof.l1ssCap = 1 then put fun l => { l with l1ss := keepMask v 0xF } else s
  | _ => s

/-- Write a register of a function's configuration space: MPS and MRRS take 128 to 4,096 bytes; the power state D0 or D3hot (Table 09.1).
Initiate FLR has rows of its own (R221). -/
def writeConfig (s : State) (fn off v : Nat) : State :=
  let put (f : CfgSt → CfgSt) : State := updFn s fn fun x => { x with cfg := f x.cfg }
  match off with
  | 0x04 => put fun x => { x with command := keepMask v 0x0406 }
  | 0x10 => if fn = 0 then put fun x => { x with bar0 := putBar x.bar0 v false } else s
  | 0x14 => if fn = 0 then put fun x => { x with bar0 := putBar x.bar0 v true } else s
  | 0x18 => if fn = 0 then put fun x => { x with bar2 := putBar x.bar2 v false } else s
  | 0x1C => if fn = 0 then put fun x => { x with bar2 := putBar x.bar2 v true } else s
  | 0x48 => if bits v 5 3 ≤ 5 && bits v 12 3 ≤ 5 then put fun x => { x with devCtl := keepMask v 0x791F } else s
  | 0x50 => put fun x => { x with lnkCtl := keepMask v 2 }
  | 0x68 => put fun x => { x with devCtl2 := keepMask v 0x1300 }
  | 0x84 => if bits v 0 2 = 0 || bits v 0 2 = 3 then put fun x => { x with pm := bits v 0 2 } else s
  | _ => if fn = 0 then writeExtCaps s off v else s

/-- Relaxed Ordering and ID-Based Ordering of a function's writes to host memory (Table 09.1): on data writes as the host enables them,
never on completion entries and Verdict Ring entries (R102). -/
def writeOrdering (s : State) (fn : Nat) (data : Bool) : Bool × Bool :=
  let x := (fnOf s fn).cfg
  (data && x.devCtl.testBit 4, data && x.devCtl2.testBit 8)

end Sys2Proof.Machine
end

