-- ==== Sys2Proof/Machine/Recorder.lean ====
section
/-! DEFINITION. The event recorder, the Dormer and the telemetry reports (chapter 19). -/

namespace Sys2Proof.Machine

/-- Every record held, in SEQ order: permanent area, circulating area, AON record cache. -/
def allRecords (s : State) : List EventRec := s.evt.permanent ++ s.evt.circulating ++ s.evt.cache

/-- Records of an area from a SEQ onward (R402, R404). -/
def areaRecords (s : State) (permanent : Bool) (first : Nat) : List EventRec :=
  (allRecords s).filter fun r =>
    decide (first ≤ r.seq) && (if permanent then decide (r.seq < 1024) else decide (oldestSeq s ≤ r.seq))

/-- 256 records wait, or 1 s has passed since the oldest arrived (R402). -/
def pageDue (s : State) : Bool :=
  match s.evt.cache with
  | [] => false
  | r :: _ => decide (256 ≤ s.evt.cache.length) || decide (r.powerCycles < s.tm.powerCycles) ||
      decide (r.devTime + 1000000 ≤ now s)

/-- A record held in the cache for more than 1 s carries FLAGS bit 1 (Table 19.1). -/
def lateFlag (s : State) (r : EventRec) : EventRec :=
  if decide (r.powerCycles < s.tm.powerCycles) || decide (r.devTime + 1000000 < now s) then
    { r with flags := setBits r.flags 1 1 1 }
  else r

/-- Program one page of up to 256 records into both areas (R402), then report dropped records (R403). -/
def programPage (s : State) : State :=
  let page := (s.evt.cache.take 256).map (lateFlag s)
  let circ := s.evt.circulating ++ page.filter fun r => decide (1024 ≤ r.seq)
  let e := { s.evt with
    permanent := s.evt.permanent ++ page.filter (fun (r : EventRec) => decide (r.seq < 1024)),
    circulating := circ.drop (circ.length - 16384), cache := s.evt.cache.drop 256 }
  let n := e.dropped
  let low := (minNat? (s.evt.cache.map (·.severity))).getD 0
  let s := { s with evt := { e with dropped := 0, droppedMax := 0 } }
  if n = 0 then s else recordEvent s 0x0090 2 0 0 (leBytes 4 n ++ leBytes 1 low)

/-- RECORD_PAGE_PROGRAM: `ok` says whether the system area took the page on both dies; a failure counts as source 317 and
the records stay in the cache (R402, R411). Not during a dump (R403), nor while the Purlin cluster, which programs the pages, is away. -/
def execRecordPageProgram (ok : Bool) (s : State) : Host.Outcome State Fault Refusal :=
  .next (if mgmtDown s || !pageDue s || s.eav.dumpStart.isSome then s
    else if ok then programPage s
    else raiseFault s 317 (capOf 1 1 0 3 3))

/-- A cursor that a snapshot rejects (R404). -/
def cursorBad (s : State) (cursor : Nat) (permanent : Bool) : Bool :=
  decide (s.evt.nextSeq ≤ cursor) || (if permanent then decide (1024 ≤ cursor) else decide (cursor < oldestSeq s))

/-- Take the Dormer snapshot (R404): the copy runs while SNAP_BUSY is set. -/
def dormerSnapshot (s : State) (cursor : Nat) (permanent : Bool) : State :=
  { s with evt := { s.evt with cursorLo := BitVec.ofNat 32 cursor, cursorHi := BitVec.ofNat 16 (cursor / 2 ^ 32),
                               permanentBit := permanent, snapBusy := true,
                               snapWait := (areaRecords s permanent cursor).take 511 } }

/-- A register write that the window rejects (R213): register unchanged, bit of KW_REGERR, LAST_OFFSET, event. -/
def rejectRegister (s : State) (fn bit offset : Nat) : State :=
  let s := updFn s fn fun x => { x with regErr := BitVec.ofNat 32 (setBits (setBits x.regErr.toNat bit 1 1) 16 16 offset) }
  recordEvent s 0x0020 2 2 fn (leBytes 2 9 ++ leBytes 4 offset ++ leBytes 2 fn ++ leBytes 2 0)

/-- DORMER_CURSOR_HI_WRITE: CURSOR_HI [15:0] and PERMANENT [31] of the PF's register 0x8014 (R404). -/
def execDormerCursorHiWrite (value : Nat) (s : State) : Host.Outcome State Fault Refusal :=
  let cursor := bits value 0 16 * 2 ^ 32 + s.evt.cursorLo.toNat
  let permanent := bits value 31 1 == 1
  .next (if !barReachable s 0 then s
    else
      let s := beginWake s .register
      if cursorBad s cursor permanent then rejectRegister s 0 1 0x8014 else dormerSnapshot s cursor permanent)

/-- DORMER_SNAPSHOT_DONE: the copy ends; records that left the circulating area meanwhile are not copied (R411). -/
def execDormerSnapshotDone (s : State) : Host.Outcome State Fault Refusal :=
  .next (if !s.evt.snapBusy then s
    else
      let held := s.evt.snapWait.filter fun r => decide (r.seq < 1024) || decide (oldestSeq s ≤ r.seq)
      { s with evt := { s.evt with snapBusy := false, slots := held, validSlots := held.length, snapWait := [] } })

/-- Contents of Dormer slot `i` (offset 0x8040 + 64 i): zero while SNAP_BUSY and from VALID_SLOTS on (R404). -/
def dormerSlot (s : State) (i : Nat) : List Byte :=
  if s.evt.snapBusy then zeros 64
  else match s.evt.slots[i]? with
    | some r => recordBytes64 r
    | none => zeros 64

abbrev ruleDormerPosition : HmpRule := rule 0x0802 sendPf (some 16)
abbrev ruleEventRead : HmpRule := ⟨0x0801, sendPfOob, true, false, some 16⟩
abbrev ruleEnergy : HmpRule := rule 0x0803 sendAll (some 2)
abbrev ruleCounters : HmpRule := rule 0x0804 sendAll (some 2)

/-- DORMER_POSITION (0x0802): the snapshot as a CURSOR_HI write takes it; a rejected cursor is Field Out Of Range with
offset 0 (R405). -/
def execDormerPosition (q : HmpHdr) (cursor : Nat) (permanent : Bool) (s : State) : Host.Outcome State Fault Refusal :=
  .next (hmpServe s q ruleDormerPosition fun s =>
    if cursorBad s cursor permanent then rejectWrite s q 0x0802 hsOutOfRange 0
    else hmpDone (dormerSnapshot s cursor permanent) q 0x0802)

/-- The records Event Read returns: from the first SEQ, of the severity or more, at most `most` (R406). -/
def eventReadRecords (s : State) (first : Nat) (permanent : Bool) (severity most : Nat) : List EventRec :=
  ((areaRecords s permanent first).filter fun r => decide (severity ≤ r.severity)).take most

/-- EVENT_READ (0x0801): area 0 circulating, 1 permanent. -/
def execEventRead (q : HmpHdr) (first area severity most : Nat) (s : State) :
    Host.Outcome State Fault Refusal :=
  .next (hmpServe s q ruleEventRead fun s =>
    let permanent := area == 1
    if 1 < area then answer s q 0x0801 hsOutOfRange 6 [] else
    let rs := eventReadRecords s first permanent severity most
    let left := !permanent && decide (first < oldestSeq s)
    reply s q 0x0801 (leBytes 6 (newestSeq s) ++ leBytes 6 (oldestSeq s) ++ leBytes 2 rs.length ++
      leBytes 1 (if left then 1 else 0) ++ zeros 1 ++ rs.flatMap recordBytes64))

/-- Energy Meter Report response of a function (Table 19.4). -/
def meterBytes (s : State) (fn : Nat) : List Byte :=
  let m := tblGet meterDefault fn s.tel.meters
  leBytes 8 m.admitted ++ leBytes 8 m.recovery ++ leBytes 8 (m.controllerPj / 1000) ++ leBytes 8 m.evaluation ++
    leBytes 8 m.charged ++ leBytes 8 (now s) ++ zeros 16

/-- A function number an HMP request may name. -/
def fnValid (f : Nat) : Bool := decide (f < 256)

/-- ENERGY_METER_REPORT (0x0803): only the PF and out-of-band senders may name 0xFFFF (R407). -/
def execEnergyMeterReport (q : HmpHdr) (fn : Nat) (s : State) : Host.Outcome State Fault Refusal :=
  .next (hmpServe s q ruleEnergy fun s =>
    if !ownFn q.sender fn then answer s q 0x0803 hsNotPermitted 0 []
    else if !fnValid fn && fn != 0xFFFF then answer s q 0x0803 hsUnknown 0 []
    else reply s q 0x0803 (meterBytes s fn))

/-- One class block (Table 19.6). -/
def classBytes (c : ClassCtr) : List Byte :=
  leBytes 8 c.verdict0 ++ leBytes 8 c.verdict1 ++ (c.refused.flatMap (leBytes 8)) ++ leBytes 8 c.deadline ++
    leBytes 8 c.allowance ++ leBytes 8 c.exceeded ++ leBytes 8 c.holdUs ++ leBytes 8 c.bytesRead ++ leBytes 8 c.bytesWritten

/-- Counter Report response, 1,088 bytes (R410). -/
def counterBytes (s : State) (fn : Nat) : List Byte :=
  let c := tblGet fnCtrDefault fn s.tel.fnCtr
  leBytes 8 c.hostLate ++ leBytes 8 c.holdFull ++ leBytes 8 c.beforeAdmission ++ leBytes 8 c.loftReads ++
    leBytes 8 c.readAround ++ leBytes 8 c.discarded ++ leBytes 8 s.tel.ctrStart ++ leBytes 8 c.withdrawn ++
    ((List.range 8).flatMap fun k => classBytes (tblGet classDefault (fn, k) s.tel.classCtr))

/-- COUNTER_REPORT (0x0804). -/
def execCounterReport (q : HmpHdr) (fn : Nat) (s : State) : Host.Outcome State Fault Refusal :=
  .next (hmpServe s q ruleCounters fun s =>
    if !ownFn q.sender fn then answer s q 0x0804 hsNotPermitted 0 []
    else if !fnValid fn then answer s q 0x0804 hsUnknown 0 []
    else reply s q 0x0804 (counterBytes s fn))

end Sys2Proof.Machine
end

