-- ==== Sys2Proof/Machine/HostRegs.lean ====
section
/-! DEFINITION. Doorbells and register accesses of the host (R151, R211 to R213, R219, R220, R231, R398, R404). -/

namespace Sys2Proof.Machine

/-! ### Doorbells -/

/-- SQ_TAIL_DOORBELL (R211, R219): a value or queue that is not there changes nothing (log entry 70). A doorbell wakes a Battened
part (R398) and abandons an entry in progress (R396). -/
def execSqTailDoorbell (fn qid tail : Nat) (s : State) : Host.Outcome State Fault Refusal :=
  .next (if !barReachable s fn then s
    else
      let s := abandonEntry (beginWake s .doorbell) 0
      if qid = 0 then
        if adminSize (fnOf s fn) 0 ≤ tail then s else fetchAll (updFn s fn fun x => { x with adminTail := tail })
      else match tblFind? qid (fnOf s fn).sqs with
        | none => s
        | some q =>
          if q.size ≤ tail then s
          else fetchAll (updFn s fn fun x => { x with sqs := tblSet qid { q with tail := tail } x.sqs }))

/-- Post the completions that wait for a slot of a queue, oldest first, while it has one. -/
def flushCq (s : State) (fn cqid : Nat) : State :=
  let mine := s.host.cqWait.filter fun w => w.1.fn == fn && w.1.cqid == cqid
  forEach mine (fun w s =>
    if cqFull (tblGet cqDefault cqid (fnOf s fn).cqs) then s
    else writeEntry { s with host := { s.host with cqWait := s.host.cqWait.erase w } } w.1 w.2) s

/-- CQ_HEAD_DOORBELL (R211): slots become free. -/
def execCqHeadDoorbell (fn qid head : Nat) (s : State) : Host.Outcome State Fault Refusal :=
  .next (if !barReachable s fn then s
    else
      let s := beginWake s .doorbell
      let q? := if qid = 0 then some (tblGet cqDefault 0 (fnOf s fn).cqs) else tblFind? qid (fnOf s fn).cqs
      match q? with
      | none => s
      | some q =>
        if q.size ≤ head then s
        else flushCq (updFn s fn fun x => { x with cqs := tblSet qid { q with head := head } x.cqs }) fn qid)

/-! ### Reads and unsupported accesses -/

/-- KW_DEVTIME_LO_READ (R213): DevTime is latched. A read wakes nothing (R398). -/
def execKwDevtimeLoRead (fn : Nat) (s : State) : Host.Outcome State Fault Refusal :=
  .next (if barReachable s fn then updFn s fn fun x => { x with devtimeLatch := now s } else s)

/-- UNSUPPORTED_BAR_ACCESS (R211): an access that is not an aligned one of 4 or 8 bytes completes with Unsupported Request and
records event 0x0023. -/
def execUnsupportedBarAccess (fn bar offset size : Nat) (s : State) : Host.Outcome State Fault Refusal :=
  .next (if !barReachable s fn || ((size == 4 || size == 8) && offset % size == 0) || !(bar == 0 || bar == 2) then s
    else accessError { s with host := { s.host with unsupported := s.host.unsupported ++ [(fn, bar, offset)] } } fn offset 0)

/-! ### Register writes -/

/-- Unmask or mask a vector by its MSI-X table entry (R220). -/
def writeMask (s : State) (fn v : Nat) (masked : Bool) : State :=
  let x := fnOf s fn
  if masked then
    updFn s fn fun x => { x with msixMasked := if x.msixMasked.contains v then x.msixMasked else x.msixMasked ++ [v] }
  else
    let was := x.msixPending.contains v
    let s := updFn s fn fun x => { x with msixMasked := x.msixMasked.filter (· != v), msixPending := x.msixPending.filter (· != v) }
    if was then raiseVector s fn v else s

/-- Registers of BAR0 stored whole: CC, AQA, ASQ, ACQ (Table 09.5 fixes the others; NSSR is ignored). -/
def bar0Stored : List Nat := [0x14, 0x24, 0x28, 0x2C, 0x30, 0x34]

/-- A write to BAR0 outside the doorbells: a stored controller register, or the MSI-X table. A write to CC wakes (R398). -/
def writeBar0 (s : State) (fn off v : Nat) : State :=
  let keep (s : State) : State := updFn s fn fun x => { x with bar0 := tblSet off (BitVec.ofNat 32 v) x.bar0 }
  if off = 0x14 then keep (beginWake s .register)
  else if bar0Stored.contains off then keep s
  else if 0x2000 ≤ off && decide (off < 0x2000 + 16 * vectorsOf fn) && off % 4 == 0 then
    if off % 16 = 12 then writeMask (keep s) fn ((off - 0x2000) / 16) (bits v 0 1 == 1) else keep s
  else s

/-- A field of a BAR mailbox that is B-class: rejected while the mailbox runs (R10, R231), then by its range. -/
def writeMailboxB (s : State) (fn off : Nat) (ok : Bool) (g : MailboxSt → MailboxSt) : State :=
  if (fnOf s fn).mailbox.active then rejectRegister s fn 0 off
  else if !ok then rejectRegister s fn 1 off
  else updMailbox s fn g

/-- MAILBOX control register 0x1014: ENABLE and NOTIFY_ON_RESPONSE. -/
def writeMailboxControl (s : State) (fn v : Nat) : State :=
  let s := updMailbox s fn fun m => { m with notifyOnResponse := bits v 1 1 == 1 }
  if bits v 0 1 = 1 then enableMailbox s fn
  else if (fnOf s fn).mailbox.enable then disableMailbox s fn else s

/-- The Dormer window of the PF (Table 19.3). -/
def writeDormer (s : State) (off v : Nat) : State :=
  let e := s.evt
  if off = 0x8010 then { s with evt := { e with cursorLo := BitVec.ofNat 32 v } }
  else if off = 0x8014 then
    let cursor := bits v 0 16 * 2 ^ 32 + e.cursorLo.toNat
    let permanent := bits v 31 1 == 1
    if cursorBad s cursor permanent then rejectRegister s 0 1 0x8014 else dormerSnapshot s cursor permanent
  else if off = 0x8018 then
    { s with evt := { e with notifySeverity := BitVec.ofNat 3 v, notifyPending := e.notifyPending && !(bits v 3 1 == 1) } }
  else s

/-- A write to BAR2 (Tables 09.6, 10.3, 19.3); read-only registers and reserved ranges ignore it (R4, R211). -/
def writeBar2 (s : State) (fn off v : Nat) : State :=
  let w : U32 := BitVec.ofNat 32 v
  let aligned := bits v 0 12 == 0
  if off = 0x14 then updFn s fn fun x => { x with regErr := x.regErr &&& ~~~ (w &&& 3#32) }
  else if off = 0x18 then
    if vectorsOf fn ≤ bits v 0 11 then rejectRegister s fn 1 off
    else updFn s fn fun x => { x with notify := w &&& 0x800007FF#32 }
  else if off = 0x1C then updFn s fn fun x => { x with scratch := w }
  else if off = 0x1000 then writeMailboxB s fn off aligned fun m => { m with reqBaseLo := w }
  else if off = 0x1004 then writeMailboxB s fn off true fun m => { m with reqBaseHi := w }
  else if off = 0x1008 then writeMailboxB s fn off aligned fun m => { m with rspBaseLo := w }
  else if off = 0x100C then writeMailboxB s fn off true fun m => { m with rspBaseHi := w }
  else if off = 0x1010 then
    writeMailboxB s fn off (decide (4 ≤ bits v 0 4) && decide (bits v 0 4 ≤ 10)) fun m => { m with ringOrder := BitVec.ofNat 4 v }
  else if off = 0x1014 then writeMailboxControl s fn v
  else if off = 0x1018 then writeReqTail s fn v
  else if off = 0x1024 then writeRspHead s fn v
  else if off = 0x102C then
    updMailbox s fn fun m => { m with badTail := m.badTail && bits v 0 1 == 0, badHead := m.badHead && bits v 1 1 == 0,
                                      dmaError := m.dmaError && bits v 2 1 == 0 }
  else if fn = 0 && 0x8000 ≤ off then writeDormer s off v
  else s

/-- An SDR timing register of a channel island, written by the Purlin cluster (R151, R152); the control channel to an Isolated island
is not fenced (Table 01.2). -/
def writeChannelReg (s : State) (c off v : Nat) : State :=
  let w : U32 := BitVec.ofNat 32 v
  if off = 0x100 then updChan s c fun x => { x with sdr0 := w &&& 0x3FFFFFFF#32 }
  else if off = 0x104 then updChan s c fun x => { x with sdr1 := w }
  else if off = 0x108 then updChan s c fun x => { x with sdr2 := w &&& 0x7FFFF#32 }
  else s

/-- REGISTER_WRITE (R213): 32 bits at an offset; a 64-bit write is two (log entry 70). -/
def execRegisterWrite (fn : Nat) (space : RegSpace) (offset value : Nat) (s : State) : Host.Outcome State Fault Refusal :=
  .next (let v := value % 2 ^ 32
    match space with
    | .bar0 => if barReachable s fn then writeBar0 s fn offset v else s
    | .bar2 => barWrite s fn fun s => writeBar2 s fn offset v
    | .config => if s.host.linkUp && (fnOf s fn).present && !s.eav.powerLoss then writeConfig s fn offset v else s
    | .channel c => if mgmtDown s || !(chRunning s c || (island s (chIsland c)).st == .isolated && decide (c < 32)) then s else writeChannelReg s c offset v)

end Sys2Proof.Machine
end

