-- ==== Sys2Proof/Machine/Queues.lean ====
section
/-! DEFINITION. I/O queues, Abort, Asynchronous Event Request, virtualization (R96, R101, R210, R214, R219, R220), unsupported
admin opcodes, the aggregation time of interrupt coalescing (R216). -/

namespace Sys2Proof.Machine

/-! ### I/O queues -/

/-- I/O queue pairs assigned to a function (R210). -/
def queuesOf (s : State) (f : Nat) : Nat := if f = 0 then 128 else (fnOf s f).vqAssigned

/-- CREATE_IO_CQ (Table 09.7, R220): `size` is the number of entries. -/
def execCreateIoCq (a : AdmHdr) (qid size vector : Nat) (pc ien : Bool) (s : State) : Host.Outcome State Fault Refusal :=
  .next (adminServe s a false true fun s =>
    let x := fnOf s a.fn
    if !pc then adminDone s a .invalidField 0 []
    else if qid = 0 || decide (min x.feat.numCq (queuesOf s a.fn) < qid) || (tblFind? qid x.cqs).isSome then
      adminDone s a .invalidQueueIdentifier 0 []
    else if size < 2 || decide (4096 < size) then adminDone s a .invalidQueueSize 0 []
    else if ien && decide (vectorsOf a.fn ≤ vector) then adminDone s a .invalidInterruptVector 0 []
    else
      let q : CqSt := { cqDefault with size := size, vector := vector, ien := ien }
      adminDone (updFn s a.fn fun x => { x with cqs := tblSet qid q x.cqs }) a .success 0 [])

/-- CREATE_IO_SQ (Table 09.7, R62): a class binding kept for the queue applies from its first command. -/
def execCreateIoSq (a : AdmHdr) (qid size cqid : Nat) (pc : Bool) (s : State) : Host.Outcome State Fault Refusal :=
  .next (adminServe s a false true fun s =>
    let x := fnOf s a.fn
    if !pc then adminDone s a .invalidField 0 []
    else if cqid = 0 || (tblFind? cqid x.cqs).isNone then adminDone s a .completionQueueInvalid 0 []
    else if qid = 0 || decide (min x.feat.numSq (queuesOf s a.fn) < qid) || (tblFind? qid x.sqs).isSome then
      adminDone s a .invalidQueueIdentifier 0 []
    else if size < 2 || decide (4096 < size) then adminDone s a .invalidQueueSize 0 []
    else adminDone (updFn s a.fn fun x => { x with sqs := tblSet qid ⟨size, cqid, 0, 0⟩ x.sqs }) a .success 0 [])

/-- DELETE_IO_SQ (R96): held commands are withdrawn; the deletion completes once the accepted ones have (log entry 71). -/
def execDeleteIoSq (a : AdmHdr) (qid : Nat) (s : State) : Host.Outcome State Fault Refusal :=
  .next (adminServe s a false true fun s =>
    if qid = 0 || (tblFind? qid (fnOf s a.fn).sqs).isNone then adminDone s a .invalidQueueIdentifier 0 []
    else
      let mine (c : Cmd) : Bool := c.fn == a.fn && c.sqid == qid
      let s := forEach (s.adm.cmds.filter fun c => mine c && !c.accepted) (fun c s => withdrawCmd s c .abortedSqDeletion) s
      if s.adm.cmds.any mine then s
      else
        let s := { s with host := { s.host with fetched := s.host.fetched.filter fun e => !(e.fn == a.fn && e.sqid == qid) } }
        adminDone (updFn s a.fn fun x => { x with sqs := tblDel qid x.sqs }) a .success 0 [])

/-- DELETE_IO_CQ (R101): its Verdict Ring goes with it; a queue that still serves submission queues stays. -/
def execDeleteIoCq (a : AdmHdr) (qid : Nat) (s : State) : Host.Outcome State Fault Refusal :=
  .next (adminServe s a false true fun s =>
    let x := fnOf s a.fn
    if qid = 0 || (tblFind? qid x.cqs).isNone then adminDone s a .invalidQueueIdentifier 0 []
    else if x.sqs.any fun q => q.2.cqid == qid then adminDone s a .invalidQueueDeletion 0 []
    else
      let s := { s with host := { s.host with cqWait := s.host.cqWait.filter fun w => !(w.1.fn == a.fn && w.1.cqid == qid) } }
      adminDone (updFn s a.fn fun x => { x with cqs := tblDel qid x.cqs }) a .success 0 [])

/-- ABORT (R96): a held command is withdrawn, its completion before that of the Abort; Dword 0 bit 0 is 1 where nothing was
aborted. -/
def execAbort (a : AdmHdr) (sqid cid : Nat) (s : State) : Host.Outcome State Fault Refusal :=
  .next (adminServe s a false true fun s =>
    match cmdOf s a.fn sqid cid with
    | some c => if c.accepted then adminDone s a .success 1 [] else adminDone (withdrawCmd s c .abortRequested) a .success 0 []
    | none => adminDone s a .success 1 [])

/-! ### Asynchronous events -/

/-- Deliver events that wait, while a request is outstanding and their type is not masked. -/
def pumpAer (s : State) (f : Nat) : State :=
  (List.range (fnOf s f).aerPending.length).foldl (fun s _ =>
    let x := fnOf s f
    match x.aers, x.aerPending.find? fun e => !x.aerMasked.contains e.1 with
    | cid :: rest, some e =>
      postAer f (updFn s f fun x => { x with aers := rest, aerMasked := x.aerMasked ++ [e.1], aerPending := x.aerPending.erase e })
        cid (e.1 + e.2.1 * 256 + e.2.2 * 65536)
    | _, _ => s) s

/-- ASYNCHRONOUS_EVENT_REQUEST (AERL 7: eight requests). -/
def execAsynchronousEventRequest (a : AdmHdr) (s : State) : Host.Outcome State Fault Refusal :=
  .next (adminServe s a false true fun s =>
    if 8 ≤ (fnOf s a.fn).aers.length then adminDone s a .asyncEventLimit 0 []
    else pumpAer (updFn s a.fn fun x => { x with aers := x.aers ++ [a.cid] }) a.fn)

/-! ### Virtualization Management (R210) -/

/-- The VF of a controller ID: the function number plus 1 (R207); none for the PF or beyond TOTAL_VFS. -/
def vfOf (s : State) (cntlid : Nat) : Option Nat :=
  if 2 ≤ cntlid && decide (cntlid ≤ s.prof.totalVfs + 1) then some (cntlid - 1) else none

/-- VIRT_MGMT_OFFLINE: the controller goes Offline, and its queues with it. -/
def execVirtMgmtOffline (a : AdmHdr) (cntlid : Nat) (s : State) : Host.Outcome State Fault Refusal :=
  .next (adminServe s a true false fun s =>
    match vfOf s cntlid with
    | none => adminDone s a .invalidControllerIdentifier 0 []
    | some f =>
      let s := if (fnOf s f).ccEn then fnReset .controller f s else s
      adminDone (updFn s f fun x => { x with online := false }) a .success 0 [])

/-- Flexible queue resources assigned to the VFs but one. -/
def assignedElse (s : State) (f : Nat) : Nat :=
  sumNat (s.host.fns.map fun e => if e.1 = 0 || e.1 = f then 0 else e.2.vqHeld)

/-- VIRT_MGMT_ASSIGN: to an Offline secondary controller, at most 128 and 16,256 in total. -/
def execVirtMgmtAssign (a : AdmHdr) (cntlid count : Nat) (s : State) : Host.Outcome State Fault Refusal :=
  .next (adminServe s a true false fun s =>
    match vfOf s cntlid with
    | none => adminDone s a .invalidControllerIdentifier 0 []
    | some f =>
      if (fnOf s f).online then adminDone s a .invalidControllerIdentifier 0 []
      else if 128 < count || decide (16256 < assignedElse s f + count) then adminDone s a .invalidResourceIdentifier 0 []
      else adminDone (updFn s f fun x => { x with vqAssigned := count, vqHeld := count }) a .success count [])

/-- VIRT_MGMT_ONLINE: a VF that is not enabled or holds no queue cannot come Online (log entry 71). -/
def execVirtMgmtOnline (a : AdmHdr) (cntlid : Nat) (s : State) : Host.Outcome State Fault Refusal :=
  .next (adminServe s a true false fun s =>
    match vfOf s cntlid with
    | none => adminDone s a .invalidControllerIdentifier 0 []
    | some f =>
      if !(fnOf s f).present || (fnOf s f).vqAssigned = 0 then adminDone s a .invalidSecondaryState 0 []
      else adminDone (updFn s f fun x => { x with online := true, cfs := cfsLatched s || s.boot.formB }) a .success 0 [])

/-! ### Opcodes that are not supported -/

/-- Admin opcodes that every function supports, and those of the PF (Table 09.7). -/
def adminAll : List Nat := [0x00, 0x01, 0x02, 0x04, 0x05, 0x06, 0x08, 0x09, 0x0A, 0x0C, 0x81, 0x82, 0xC0, 0xC1, 0xC2, 0xC3]
def adminPf : List Nat := [0x0D, 0x10, 0x11, 0x15, 0x1C, 0x1D, 0x1E, 0x80, 0x84]

/-- The opcode is one that the function may send. -/
def adminSupported (f opcode : Nat) : Bool := adminAll.contains opcode || (f == 0 && adminPf.contains opcode)

/-- INVALID_ADMIN_OPCODE (R208, R214); a supported opcode has a row of its own. -/
def execInvalidAdminOpcode (a : AdmHdr) (opcode : Nat) (s : State) : Host.Outcome State Fault Refusal :=
  .next (if adminSupported a.fn opcode then s
    else adminServe s a false false fun s => adminDone s a .invalidOpcode 0 [])

/-! ### Interrupt coalescing -/

/-- Completion queues of a function whose aggregation time has run out on a vector; the time counts in 100 µs units. -/
def aggregated (s : State) (f v : Nat) : List Nat :=
  ((fnOf s f).cqs.filter fun q => q.2.vector == v && decide (0 < q.2.pendingIrq) && q.2.irqSince.any fun t =>
    decide (t + 100 * (fnOf s f).feat.coalTime ≤ now s)).map (·.1)

/-- INTERRUPT_AGGREGATION_TIMEOUT (R216). -/
def execInterruptAggregationTimeout (fn vector : Nat) (s : State) : Host.Outcome State Fault Refusal :=
  .next (let ks := aggregated s fn vector
    if ks.isEmpty then s
    else
      let clear (q : CqSt) : CqSt := { q with pendingIrq := 0, irqSince := none }
      raiseVector (updFn s fn fun x => { x with cqs := x.cqs.map fun e => if ks.contains e.1 then (e.1, clear e.2) else e }) fn vector)

end Sys2Proof.Machine
end

