-- ==== Sys2Proof/Machine/Features.lean ====
section
/-! DEFINITION. Set Features and Get Features (R62, R100, R101, R216, R219, R335, R396; Table 09.8). -/

namespace Sys2Proof.Machine

/-- A Set Features command: not served in the restricted phase (R393). -/
def setServe (s : State) (a : AdmHdr) (g : State → State) : State := adminServe s a false false g

/-- Store a feature of a function and complete with Success. -/
def setFeat (s : State) (a : AdmHdr) (g : FeatSt → FeatSt) : State :=
  adminDone (updFn s a.fn fun x => { x with feat := g x.feat }) a .success 0 []

/-- SET_FEATURES_ARBITRATION: AB 0 to 3. -/
def execSetFeaturesArbitration (a : AdmHdr) (ab : Nat) (s : State) : Host.Outcome State Fault Refusal :=
  .next (setServe s a fun s => if 3 < ab then adminDone s a .invalidField 0 [] else setFeat s a fun f => { f with ab := ab })

/-- SET_FEATURES_POWER_MANAGEMENT (R396): the PF asks for power state 1, which starts the Battened entry, or for 0, which ends an
entry in progress. -/
def execSetFeaturesPowerManagement (a : AdmHdr) (ps : Nat) (s : State) : Host.Outcome State Fault Refusal :=
  .next (setServe s a fun s =>
    if a.fn ≠ 0 || decide (1 < ps) then adminDone s a .invalidField 0 []
    else if ps = 0 then adminDone (abandonEntry { s with bat := { s.bat with powerState := 0 } } 9) a .success 0 []
    else adminDone { s with bat := { s.bat with entryAt := some (s.bat.entryAt.getD (now s)), powerState := 1 } } a .success 0 [])

/-- SET_FEATURES_TEMPERATURE_THRESHOLD (R335): sensor 0 is the composite, 1 to 8 the remote diodes, 15 all. -/
def execSetFeaturesTemperatureThreshold (a : AdmHdr) (sensor : Nat) (low : Bool) (kelvin : Nat) (s : State) :
    Host.Outcome State Fault Refusal :=
  .next (setServe s a fun s =>
    let put (t : TempThr) : TempThr := if low then { t with low := some kelvin } else { t with high := some kelvin }
    if sensor = 15 then setFeat s a fun f => { f with thresholds := f.thresholds.map put }
    else if 8 < sensor then adminDone s a .invalidField 0 []
    else setFeat s a fun f => { f with thresholds := vecUpd f.thresholds sensor put })

/-- SET_FEATURES_ERROR_RECOVERY: TLER is stored and unused; DULBE is not supported. -/
def execSetFeaturesErrorRecovery (a : AdmHdr) (tler : Nat) (dulbe : Bool) (s : State) : Host.Outcome State Fault Refusal :=
  .next (setServe s a fun s =>
    if dulbe then adminDone s a .invalidField 0 [] else setFeat s a fun f => { f with tler := tler })

/-- SET_FEATURES_NUMBER_OF_QUEUES: counts less 1 as the command gives them; up to 128 or the function's assignment. -/
def execSetFeaturesNumberOfQueues (a : AdmHdr) (nsqr ncqr : Nat) (s : State) : Host.Outcome State Fault Refusal :=
  .next (setServe s a fun s =>
    let most := queuesOf s a.fn
    if 65535 ≤ nsqr || decide (65535 ≤ ncqr) || most = 0 then adminDone s a .invalidField 0 []
    else if !(fnOf s a.fn).sqs.isEmpty || (fnOf s a.fn).cqs.any (·.1 != 0) then adminDone s a .commandSequenceError 0 []
    else
      let n := min (nsqr + 1) most
      let m := min (ncqr + 1) most
      adminDone (updFn s a.fn fun x => { x with feat := { x.feat with numSq := n, numCq := m } }) a .success
        (n - 1 + (m - 1) * 65536) [])

/-- SET_FEATURES_INTERRUPT_COALESCING: aggregation threshold less 1, and time in 100 µs units. -/
def execSetFeaturesInterruptCoalescing (a : AdmHdr) (thr time : Nat) (s : State) : Host.Outcome State Fault Refusal :=
  .next (setServe s a fun s => setFeat s a fun f => { f with coalThr := thr % 256, coalTime := time % 256 })

/-- SET_FEATURES_INTERRUPT_VECTOR_CONFIG. -/
def execSetFeaturesInterruptVectorConfig (a : AdmHdr) (vector : Nat) (disable : Bool) (s : State) : Host.Outcome State Fault Refusal :=
  .next (setServe s a fun s =>
    if vectorsOf a.fn ≤ vector then adminDone s a .invalidField 0 []
    else setFeat s a fun f =>
      let rest := f.vecNoCoalesce.filter (· != vector)
      { f with vecNoCoalesce := if disable then rest ++ [vector] else rest })

/-- SET_FEATURES_WRITE_ATOMICITY: accepted, and without effect on any command. -/
def execSetFeaturesWriteAtomicity (a : AdmHdr) (dn : Bool) (s : State) : Host.Outcome State Fault Refusal :=
  .next (setServe s a fun s => setFeat s a fun f => { f with atomicDn := dn })

/-- SET_FEATURES_ASYNC_EVENT_CONFIG. -/
def execSetFeaturesAsyncEventConfig (a : AdmHdr) (mask : Nat) (s : State) : Host.Outcome State Fault Refusal :=
  .next (setServe s a fun s => setFeat s a fun f => { f with aecMask := mask % 2 ^ 32 })

/-- SET_FEATURES_TIMESTAMP: milliseconds, counted on from this moment. -/
def execSetFeaturesTimestamp (a : AdmHdr) (ms : Nat) (s : State) : Host.Outcome State Fault Refusal :=
  .next (setServe s a fun s => setFeat s a fun f => { f with timestamp := ms % 2 ^ 48, timestampAt := now s })

/-- SET_FEATURES_HOST_BEHAVIOR_SUPPORT (R100): ACRE. -/
def execSetFeaturesHostBehaviorSupport (a : AdmHdr) (acre : Bool) (s : State) : Host.Outcome State Fault Refusal :=
  .next (setServe s a fun s => setFeat s a fun f => { f with acre := acre })

/-- SET_FEATURES_QUEUE_LATENCY_CLASS (R62): kept also for a queue not yet created. -/
def execSetFeaturesQueueLatencyClass (a : AdmHdr) (sqid cls : Nat) (s : State) : Host.Outcome State Fault Refusal :=
  .next (setServe s a fun s =>
    if sqid = 0 || decide (128 < sqid) then adminDone s a .invalidField 0 []
    else adminDone { s with adm := { s.adm with bindings := tblSet (a.fn, sqid) (cls % 8) s.adm.bindings } } a .success 0 [])

/-- SET_FEATURES_VERDICT_RING (R101). -/
def execSetFeaturesVerdictRing (a : AdmHdr) (cqid : Nat) (enable : Bool) (base : Nat) (s : State) : Host.Outcome State Fault Refusal :=
  .next (setServe s a fun s =>
    match tblFind? cqid (fnOf s a.fn).cqs with
    | none => adminDone s a .invalidField 0 []
    | some q =>
      if cqid = 0 || base % 4096 ≠ 0 then adminDone s a .invalidField 0 []
      else
        let ring := if enable then some base else none
        adminDone (updFn s a.fn fun x => { x with cqs := tblSet cqid { q with ring := ring } x.cqs }) a .success 0 [])

/-- Feature Identifiers of Table 09.8. -/
def featureIds : List Nat := [0x01, 0x02, 0x04, 0x05, 0x07, 0x08, 0x09, 0x0A, 0x0B, 0x0E, 0x16, 0xC1, 0xC2]

/-- SET_FEATURES_UNSUPPORTED (R215, R216); a supported identifier has a row of its own. -/
def execSetFeaturesUnsupported (a : AdmHdr) (fid : Nat) (s : State) : Host.Outcome State Fault Refusal :=
  .next (if featureIds.contains fid then s else setServe s a fun s => adminDone s a .invalidField 0 [])

/-! ### Get Features -/

/-- The class in effect for a queue of the function (R62). -/
def execGetFeaturesQueueLatencyClass (a : AdmHdr) (sqid : Nat) (s : State) : Host.Outcome State Fault Refusal :=
  .next (adminServe s a false true fun s =>
    if sqid = 0 then adminDone s a .invalidField 0 [] else adminDone s a .success (classOf s a.fn sqid) [])

/-- The enable bit of a completion queue's Verdict Ring (R101). For CQID 0 and for a queue that does not exist the spec gives the Get no
answer: Invalid Field, as for the Set (DESIGN CHOICE, log entry 138). -/
def execGetFeaturesVerdictRing (a : AdmHdr) (cqid : Nat) (s : State) : Host.Outcome State Fault Refusal :=
  .next (adminServe s a false true fun s =>
    match tblFind? cqid (fnOf s a.fn).cqs with
    | none => adminDone s a .invalidField 0 []
    | some q => if cqid = 0 then adminDone s a .invalidField 0 [] else adminDone s a .success (if q.ring.isSome then 1 else 0) [])

/-- A temperature threshold as Get Features returns it: sub holds the sensor in bits [3:0], 1 in bits [5:4] for the under
threshold; one never set reads as the end of the scale (PRESUMED, log entry 71). -/
def thresholdValue (f : FeatSt) (sub : Nat) : Option Nat :=
  match f.thresholds[bits sub 0 4]? with
  | none => none
  | some t => some (if bits sub 4 2 = 1 then t.low.getD 0 else t.high.getD 0xFFFF)

/-- Dword 0 and data of a feature; none is Invalid Field. -/
def featureValue (s : State) (f fid sub : Nat) : Option (Nat × List Byte) :=
  let x := (fnOf s f).feat
  if fid = 0x01 then some (x.ab, [])
  else if fid = 0x02 then (if f = 0 then some (s.bat.powerState, []) else none)
  else if fid = 0x04 then (thresholdValue x sub).map fun v => (v, [])
  else if fid = 0x05 then some (x.tler, [])
  else if fid = 0x07 then
    let n := min x.numSq (queuesOf s f)
    let m := min x.numCq (queuesOf s f)
    some (n - 1 + (m - 1) * 65536, [])
  else if fid = 0x08 then some (x.coalThr + x.coalTime * 256, [])
  else if fid = 0x09 then
    (if vectorsOf f ≤ sub then none else some (sub + (if x.vecNoCoalesce.contains sub then 65536 else 0), []))
  else if fid = 0x0A then some (if x.atomicDn then 1 else 0, [])
  else if fid = 0x0B then some (x.aecMask, [])
  else if fid = 0x0E then some (0, leBytes 8 ((x.timestamp + (now s - x.timestampAt) / 1000) % 2 ^ 48))
  else if fid = 0x16 then some (0, padTo 512 [if x.acre then 1 else 0])
  else none

/-- GET_FEATURES (R216). -/
def execGetFeatures (a : AdmHdr) (fid sub : Nat) (s : State) : Host.Outcome State Fault Refusal :=
  .next (adminServe s a false true fun s =>
    match featureValue s a.fn fid sub with
    | some (dw0, data) => adminDone s a .success dw0 data
    | none => adminDone s a .invalidField 0 [])

end Sys2Proof.Machine
end

