-- ==== Sys2Proof/Machine/Change.lean ====
section
/-! DEFINITION. Firmware slots, Firmware Commit, activation without reset (R412 to R417, R426), the SVN floor (R267), and the Board
Profile in service (R8, R9, R11, R422 to R425). -/

namespace Sys2Proof.Machine

/-! ### Board Profile images (R423) -/

/-- The record bytes with an entry's data written over them. -/
def putEntry (p : Profile) (e : ProfEntry) : Profile :=
  profSetRecord p e.record (setBits (profRecord p e.record) (8 * e.first) (8 * e.data.length) (leNat e.data))

/-- A profile with every entry of an image written over it, in image order. -/
def putEntries (p : Profile) (es : List ProfEntry) : Profile := es.foldl putEntry p

/-- A complete profile: every record whole, once, in ascending ID order (R423). -/
def profComplete (i : ProfImage) : Bool :=
  i.entries.map (·.record) == recordIds && i.entries.all fun e => e.first == 0 && e.data.length == recordBytes e.record

/-- Length of data padded to 8 bytes. -/
def padded (n : Nat) : Nat := 8 * ceilDiv n 8

/-- Byte offsets of the entries of an image in the payload of Board Profile Update: after the flags, the 256-byte image header and the
8-byte body header (R423, R424; the offset counts from the payload's first byte, DEDUCED, log entry 75). -/
def entryOffsets (es : List ProfEntry) : List (Nat × ProfEntry) :=
  (es.foldl (fun (a : Nat × List (Nat × ProfEntry)) e => (a.1 + 8 + padded e.data.length, a.2 ++ [(a.1, e)])) (272, [])).2

/-- A stored copy of a staged image; a Board Profile holds the records it brings. -/
def copyOf (h : ImageHdr) (i : Option ProfImage) : ImageCopy :=
  { hdr := h, profile := if h.type = 4 then i.map fun x => putEntries Profile.atReset x.entries else none }

/-- Write an image into the copy B area of its type. -/
def writeB (s : State) (c : ImageCopy) : State := { s with sec := { s.sec with copyB := tblSet c.hdr.type c s.sec.copyB } }

/-- Put a copy, or nothing, in a table. -/
def tblPut (k : Nat) (v : Option ImageCopy) (t : Tbl Nat ImageCopy) : Tbl Nat ImageCopy :=
  match v with
  | some c => tblSet k c t
  | none => tblDel k t

/-- Swap the descriptor of an image type (R415). -/
def swapCopies (s : State) (t : Nat) : State :=
  let a := tblFind? t s.sec.copyA
  let b := tblFind? t s.sec.copyB
  { s with sec := { s.sec with copyA := tblPut t b s.sec.copyA, copyB := tblPut t a s.sec.copyB } }

/-! ### Firmware Image Download and Firmware Commit (R414) -/

/-- FIRMWARE_IMAGE_DOWNLOAD (R266): stage an image in region 0x06. -/
def execFirmwareImageDownload (a : AdmHdr) (img : ImageHdr) (prof : Option ProfImage) (s : State) : Host.Outcome State Fault Refusal :=
  .next (adminServe s a true true fun s =>
    adminDone { s with sec := { s.sec with staged := some img, stagedProfile := prof } } a .success 0 [])

/-- The slot that FS names; FS 0 selects `default'`. -/
def slotOf (fs default' : Nat) : Nat := if fs = 0 then default' else fs

/-- Objection to the staged image (R393, R414): none staged, failed verification, an image that PHASE does not take, a profile that is
not complete (DESIGN CHOICE, log entry 75), or an SVN below the floor. -/
def stagedError (s : State) : Option NvmeStatus :=
  match s.sec.staged with
  | none => some .invalidFirmwareImage
  | some h =>
    if !(decide (1 ≤ h.type) && decide (h.type ≤ 5)) || !h.verified || !keyAllowed s h then some .invalidFirmwareImage
    else if decide (4 ≤ h.type) && s.boot.phase != 7 then some .invalidFirmwareImage
    else if h.type = 4 && !(s.sec.stagedProfile.any profComplete) then some .invalidFirmwareImage
    else if h.svn < svnFloor s h.type then some .firmwareActivationProhibited
    else none

/-- The staged image as a copy. -/
def stagedCopy (s : State) : Option ImageCopy := s.sec.staged.map fun h => copyOf h s.sec.stagedProfile

/-- Run a Firmware Commit: none while an activation runs (R426), and only on the slot that its action takes (Table 20.2). -/
def commitServe (s : State) (a : AdmHdr) (slot want : Nat) (g : State → State) : State :=
  adminServe s a true true fun s =>
    if s.chg.activating.isSome then adminDone s a .commandSequenceError 0 []
    else if slot ≠ want then adminDone s a .invalidFirmwareSlot 0 []
    else g s

/-- Run an action that takes the staged image. -/
def withStaged (s : State) (a : AdmHdr) (g : ImageCopy → State → State) : State :=
  match stagedError s, stagedCopy s with
  | some e, _ => adminDone s a e 0 []
  | none, some c => g c s
  | none, none => adminDone s a .invalidFirmwareImage 0 []

/-- FIRMWARE_COMMIT_REPLACE: action 000b. -/
def execFirmwareCommitReplace (a : AdmHdr) (fs : Nat) (s : State) : Host.Outcome State Fault Refusal :=
  .next (commitServe s a (slotOf fs 2) 2 fun s => withStaged s a fun c s => adminDone (writeB s c) a .success 0 [])

/-- FIRMWARE_COMMIT_NEXT_START: action 001b. -/
def execFirmwareCommitNextStart (a : AdmHdr) (fs : Nat) (s : State) : Host.Outcome State Fault Refusal :=
  .next (commitServe s a (slotOf fs 1) 1 fun s =>
    withStaged s a fun c s => adminDone (swapCopies (writeB s c) c.hdr.type) a .success 0 [])

/-- FIRMWARE_COMMIT_SWAP: action 010b swaps for slot 2 and does nothing for slot 1; it acts on the type staged last, or on Ixene. -/
def execFirmwareCommitSwap (a : AdmHdr) (fs : Nat) (s : State) : Host.Outcome State Fault Refusal :=
  .next (
    let slot := slotOf fs 1
    commitServe s a (if slot = 1 then 2 else slot) 2 fun s =>
      let t := (s.sec.staged.map (·.type)).getD 2
      adminDone (if slot = 1 then s else swapCopies s t) a .success 0 [])

/-! ### Activation without reset (R416, R417) -/

/-- Purlin cores in service. -/
def coresIn (s : State) : Nat := countP coreIn s.flt.cores

/-- Table format of the running Ixene image. -/
def runningFormat (s : State) : Nat := ((tblFind? 2 s.sec.active).map (·.tableFormat)).getD 0

/-- What keeps an activation from writing anything (R416, R417). -/
def firmwareError (s : State) (h : ImageHdr) : Option NvmeStatus :=
  if h.type = 2 then
    if coresIn s < 5 then some .firmwareActivationProhibited
    else if h.tableFormat ≠ runningFormat s then some .invalidFirmwareImage
    else none
  else if h.type = 1 then (if ridgeIn s < 2 then some .firmwareActivationProhibited else none)
  else none

/-- The standby cores start the new image; with no standby, one active core first hands its work to the others (R416 step 3, R417). -/
def startNewImage (s : State) (t : Nat) : State :=
  let fresh' (c : CoreSt) : CoreSt := if c.st == .standby then { c with newImage := true } else c
  if t = 2 then
    let s := if s.flt.cores.any (·.st == .standby) then s
      else match s.flt.cores.findIdx? (·.st == .active) with
        | some i => updCore s i fun c => { c with st := .standby }
        | none => s
    { s with flt := { s.flt with cores := s.flt.cores.map fresh' } }
  else { s with flt := { s.flt with ridge := s.flt.ridge.map fresh' } }

/-- Firmware Activation Starting, to every function that enables it (OAES bit 9; event type and information are the standard's,
PRESUMED, log entry 74). -/
def activationNotice (s : State) : State := asyncAll s 2 1 3 9

/-- FIRMWARE_COMMIT_ACTIVATE: action 011b. In form A of the restricted phase it leads to a device restart 10 ms later (R393); for channel
microcode it is action 001b; for Ridge and Ixene firmware the rounds follow (FIRMWARE_ACTIVATION_ROUND). -/
def execFirmwareCommitActivate (a : AdmHdr) (fs : Nat) (s : State) : Host.Outcome State Fault Refusal :=
  .next (commitServe s a (slotOf fs 1) 1 fun s => withStaged s a fun c s =>
    let write (s : State) : State := swapCopies (writeB s c) c.hdr.type
    if s.boot.phase = 7 then
      adminDone { write s with chg := { s.chg with rebootAt := some (now s + 10000) } } a .success 0 []
    else if 2 < c.hdr.type then adminDone (write s) a .success 0 []
    else match firmwareError s c.hdr with
      | some e => adminDone s a e 0 []
      | none =>
        let s := write (startNewImage s c.hdr.type)
        activationNotice { s with chg := { s.chg with activating := some (a.fn, a.cid, c.hdr.type), rounds := 0 } })

/-- Every standby core with the new image takes over from one active core without it (R416 step 6); the released core starts the new
image and becomes standby. -/
def handRound (cs : List CoreSt) (t : Nat) : List CoreSt :=
  let n := countP (fun c => c.st == .standby && c.newImage) cs
  (cs.foldl (fun (a : Nat × List CoreSt) c =>
    if c.st == .standby && c.newImage then (a.1, a.2 ++ [{ c with st := .active, lastKick := t }])
    else if c.st == .active && !c.newImage && decide (0 < a.1) then (a.1 - 1, a.2 ++ [{ c with st := .standby, newImage := true }])
    else (a.1, a.2 ++ [c])) (min n (countP (fun c => c.st == .active && !c.newImage) cs), [])).2

/-- Standby cores beyond the old-image active ones stay standby. -/
def trimRound (cs : List CoreSt) (t : Nat) : List CoreSt :=
  let old := countP (fun c => c.st == .active && !c.newImage) cs
  let spare := countP (fun c => c.st == .standby && c.newImage) cs - old
  let held := (cs.foldl (fun (a : Nat × List CoreSt) c =>
    if c.st == .standby && c.newImage && decide (0 < a.1) then (a.1 - 1, a.2 ++ [{ c with newImage := false }]) else (a.1, a.2 ++ [c])) (spare, [])).2
  handRound held t

/-- Cores that hold work, of an image type. -/
def coresOf (s : State) (t : Nat) : List CoreSt := if t = 2 then s.flt.cores else s.flt.ridge

/-- Put the cores of an image type back. -/
def putCores (s : State) (t : Nat) (cs : List CoreSt) : State :=
  if t = 2 then { s with flt := { s.flt with cores := cs } } else { s with flt := { s.flt with ridge := cs } }

/-- Event 0x0070 (Table 19.2): image type, old and new VERSION. -/
def activationEvent (s : State) (t old new : Nat) : State := recordEvent s 0x0070 1 0 3 (leBytes 1 t ++ leBytes 8 old ++ leBytes 8 new)

/-- An activation ends: Firmware Commit completes, unless a reset of the PF discarded its completion (R426). -/
def endActivation (s : State) (st : NvmeStatus) : State :=
  match s.chg.activating with
  | none => s
  | some (fn, cid, t) =>
    let s := { s with chg := { s.chg with activating := none, rounds := 0 } }
    let s := putCores s t ((coresOf s t).map fun c => { c with newImage := false })
    if 255 < fn then s else adminDone s ⟨fn, cid⟩ st 0 []

/-- FIRMWARE_ACTIVATION_ROUND (R416 step 6, R417, R426): a round of handovers has ended; the last one ends the activation. `ok` false: a
core on the new image raised its fault source, so the cores hand back and the descriptor is swapped back. -/
def execFirmwareActivationRound (ok : Bool) (s : State) : Host.Outcome State Fault Refusal :=
  .next (match s.chg.activating with
    | none => s
    | some (_, _, t) =>
      let new := (tblFind? t s.sec.copyA).map (·.hdr)
      let newV := (new.map (·.version)).getD 0
      let oldV := ((tblFind? t s.sec.active).map (·.version)).getD 0
      if mgmtDown s || s.eav.powerLoss then s
      else if !ok then endActivation (activationEvent (swapCopies s t) t newV oldV) .internalError
      else if !plannedOk s then s
      else
        let s := putCores (plannedStep s) t (trimRound (coresOf s t) (now s))
        let s := { s with chg := { s.chg with rounds := s.chg.rounds + 1 } }
        if (coresOf s t).any fun c => c.st == .active && !c.newImage then s
        else
          let s := match new with
            | some h => activate s t h
            | none => s
          endActivation (activationEvent s t oldV newV) .success)

/-- SVN_FLOOR_RAISE (R267): an image that has been in use for an hour without a severe fault of its firmware. -/
def execSvnFloorRaise (type : Nat) (s : State) : Host.Outcome State Fault Refusal :=
  .next (match tblFind? type s.sec.active with
    | none => s
    | some h =>
      let since := tblGet s.tm.opSeconds type s.sec.activeSince
      if s.tm.opSeconds < since + 3600 || h.svn ≤ svnFloor s type then s
      else if type ≤ 3 then { s with sec := { s.sec with svnFw := h.svn } }
      else { s with sec := { s.sec with svnProfile := h.svn } })

/-! ### Board Profile Update (R424) -/

/-- A field differs between two profiles. -/
def fieldChanged (p p' : Profile) (f : FieldSpec) : Bool :=
  bits (profRecord p f.record) f.lo f.width != bits (profRecord p' f.record) f.lo f.width

/-- Fields a change writes (R424 rule 1). -/
def writtenFields (p p' : Profile) : List FieldSpec := recordIds.flatMap fun r => (recordFields r).filter (fieldChanged p p')

/-- Byte offset of the first data byte of an image, in image order, that lies in one of the fields. -/
def firstByteIn (es : List ProfEntry) (fs : List FieldSpec) : Option Nat :=
  (entryOffsets es).findSome? fun e =>
    ((List.range e.2.data.length).find? fun i =>
      fs.any fun f => f.record == e.2.record && decide (f.lo < 8 * (e.2.first + i + 1)) && decide (8 * (e.2.first + i) < f.lo + f.width)).map
        fun i => e.1 + 8 + i

/-- An entry names a record of Table 20.5 with its size, and lies within it (DEDUCED for the last, log entry 75). -/
def entryOk (e : ProfEntry) : Bool :=
  recordIds.contains e.record && e.size == recordBytes e.record && decide (e.first + e.data.length ≤ recordBytes e.record)

/-- Written fields that are out of range, change a RsvdP field, or lie in a record whose rules between fields break. -/
def badWritten (p p' : Profile) : List FieldSpec :=
  (writtenFields p p').filter fun f =>
    f.cls == .rsvdP || !fieldInRange f (profRecord p' f.record) || !recordRules p' f.record

/-- The block of a record of Table 20.5 is in service: it has started, and is not held in reset (R10, R422). The geometry build has
been made (R61); the flash subsystem serves; the thermal and the supply logic belong to the AON island, and start when the supply
logic has read its record (R379); the airflow island may be held for a blower service; every other block is an island. -/
def blockRuns (s : State) : Nat → Bool
  | 1 => s.fl.geo.built
  | 2 => decide (stateDepth (island s 2).st < 3)
  | 4 => s.fl.inService
  | 5 => s.fl.inService
  | 6 => s.fl.inService
  | 9 => decide (stateDepth (island s 1).st < 3)
  | 12 => decide (stateDepth (island s 6).st < 3) || decide (stateDepth (island s 7).st < 3)
  | 15 => s.sup.profileRead
  | 16 => decide (stateDepth (island s 9).st < 3)
  | 17 => s.sup.profileRead
  | _ => decide (stateDepth (island s 3).st < 3)

/-- A B field of a running block (R10, R422). -/
def bootOnlyNow (s : State) (f : FieldSpec) : Bool := f.cls == .bootOnly && blockRuns s f.record

/-- The default limits written by a change leave the sum of active limits within 32,768 (R38). -/
def limitsFit (s : State) (p' : Profile) : Bool :=
  let s' := { s with prof := p', zns := { s.zns with startLimit := none } }
  !fieldChanged s.prof p' ⟨1, 48, 16, 0, .live, 0, 0, false⟩ || decide (activeLimitSum s' ≤ 32768)

/-- LOFT_SIZE asks for more than remains after the regions before the Loft (R298). -/
def loftTooLarge (s : State) (p' : Profile) : List FieldSpec :=
  if p'.loftSize ≠ 0xFFFF && decide (vecGet 0 s.dram.division 5 < p'.loftSize * 256) then
    (recordFields 12).filter fun f => f.lo == 48 && fieldChanged s.prof p' f
  else []

/-- First check of R424 that fails, as status and DETAIL. -/
def updateError (s : State) (whole nextStart : Bool) (i : ProfImage) : Option (Nat × Nat) :=
  if !(i.hdr.type == 4 && i.format == 1 && imageValid s 4 i.hdr) then some (hsSecureRefused, 0)
  else if whole && !profComplete i then some (hsConflict, 1)
  else match (entryOffsets i.entries).find? fun e => !entryOk e.2 with
    | some e => some (hsOutOfRange, e.1)
    | none =>
      let p' := putEntries s.prof i.entries
      match firstByteIn i.entries (badWritten s.prof p' ++ loftTooLarge s p') with
      | some off => some (hsOutOfRange, off)
      | none => match if nextStart then none else firstByteIn i.entries ((writtenFields s.prof p').filter (bootOnlyNow s)) with
        | some off => some (hsBootOnly, off)
        | none => if !nextStart && !limitsFit s p' then some (hsConflict, 2) else none

/-- Written fields of one place, with the last value written. -/
def lastWritten (l : List (Nat × Nat × Nat × Nat)) (f : FieldSpec) (v : Nat) : List (Nat × Nat × Nat × Nat) :=
  l.filter (fun x => !(x.1 == f.record && x.2.1 == f.lo)) ++ [(f.record, f.lo, f.width, v)]

/-- A live field that waits for an operation of its block which other commands than the readers of the field begin: MIN_WIDTH for the
next binding (R61), the media record for the next background-work decision (R132), the airflow record for the next speed-loop step
(R360), the thermal and the supply record for the next conversion (R342, R379). -/
def atBoundary (f : FieldSpec) : Bool :=
  f.cls == .live && ([5, 15, 16, 17].contains f.record || (f.record == 1 && f.lo == 16))

/-- Apply one written field: Q into the shadow, where the last value written counts (R8, R9); L at the boundary that the field waits
for, or else at once, since each operation of its block reads it as it begins (R7). -/
def applyField (p' : Profile) (f : FieldSpec) (s : State) : State :=
  let v := bits (profRecord p' f.record) f.lo f.width
  if f.cls = .quiesce then { s with chg := { s.chg with qShadow := lastWritten s.chg.qShadow f v } }
  else if atBoundary f then { s with chg := { s.chg with convDue := lastWritten s.chg.convDue f v } }
  else { s with prof := profSetRecord s.prof f.record (setBits (profRecord s.prof f.record) f.lo f.width v) }

/-- Sources whose override a change touches: their thresholds follow the profile again (R316, R330). -/
def overridesOf (p p' : Profile) : List Nat := (List.range 320).filter fun i => overrideOf p i != overrideOf p' i

/-- What follows from new values in effect: thresholds, default limits, capacities, meters, E_eff (R38, R72, R188,
R316, R334), and the AON copy of TRIP_RESTART (R337). A default active limit written live lifts the cut of R38, whose sum the update
has checked; a default open limit alone stays bounded by it. -/
def settleProfile (old : Profile) (s : State) : State :=
  let touched := overridesOf old s.prof
  let cut := if old.activeLimitDefault != s.prof.activeLimitDefault then none
    else s.zns.startLimit.map fun l => (l.1, min l.1 s.prof.openLimitDefault)
  let s := { s with flt := { s.flt with thresholds := s.flt.thresholds.filter fun e => !touched.contains e.1 },
                    zns := { s.zns with startLimit := cut },
                    adm := { s.adm with powerCapacity := flashPowerCapacity s },
                    thm := { s.thm with tripRestartCopy := s.prof.tripRestart } }
  let s := recomputeEaves (recomputeBays s)
  refreshAlive s

/-- Write a complete profile image into the copy B area and swap (R424 rule 4). -/
def persist (s : State) (i : ProfImage) : State := swapCopies (writeB s (copyOf i.hdr (some i))) 4

/-- Apply an accepted update: fields, then what follows from them, then the image. -/
def applyUpdate (s : State) (keep nextStart : Bool) (i : ProfImage) : State :=
  if nextStart then persist s i
  else
    let p' := putEntries s.prof i.entries
    let old := s.prof
    let s := settleProfile old (forEach (writtenFields old p') (applyField p') s)
    if keep then activate (persist s i) 4 i.hdr else s

/-- The update writes a Q field. -/
def writesQ (s : State) (i : ProfImage) : Bool := (writtenFields s.prof (putEntries s.prof i.entries)).any (·.cls == .quiesce)

/-- Bytes of a signed Board Profile image: header, body of R423 with its data padded to 8 bytes, public key (Table 11.8; the key follows
the body at once, DEDUCED, log entry 134). -/
def imageLength (i : ProfImage) : Nat := 256 + 8 + sumNat (i.entries.map fun e => 8 + 8 * ceilDiv e.data.length 8) + 97

/-- The gate of an update that carries an image: 8 bytes, then the image (R424). -/
abbrev ruleProfileUpdate (i : ProfImage) : HmpRule := rule 0x0406 (sendPfOobR 2) (some (8 + imageLength i))
abbrev ruleProfileRead : HmpRule := rule 0x0405 sendPfOob (some 8)

/-- BOARD_PROFILE_UPDATE (R424): flag bits [7:2] must be zero (R245); it waits while an activation runs (R426). NEXT_START_ONLY writes the image as PERSIST does
(DEDUCED, log entry 75). -/
def execBoardProfileUpdate (q : HmpHdr) (flags _reserved : Nat) (img : ProfImage) (s : State) : Host.Outcome State Fault Refusal :=
  .next (hmpServe s q (ruleProfileUpdate img) fun s =>
    let keep := flags.testBit 0
    let nextStart := flags.testBit 1
    if 3 < flags then rejectWrite s q 0x0406 hsOutOfRange 0
    else if s.chg.activating.isSome then s
    else match updateError s (keep || nextStart) nextStart img with
      | some (st, d) => if st = hsOutOfRange || st = hsBootOnly then rejectWrite s q 0x0406 st d else answer s q 0x0406 st d []
      | none =>
        if !nextStart && writesQ s img then
          startLong s q 0x0406 fun s h =>
            let s := applyUpdate s keep nextStart img
            { s with chg := { s.chg with qOp := s.chg.qOp ++ [(q.sender, h)] } }
        else hmpDone (applyUpdate s keep nextStart img) q 0x0406)

/-- A profile with its pending shadows in place. -/
def withShadows (s : State) (p : Profile) : Profile :=
  s.chg.qShadow.foldl (fun p x => profSetRecord p x.1 (setBits (profRecord p x.1) x.2.1 x.2.2.1 x.2.2.2)) p

/-- Q_FIELD_COMMIT (R8, R9): at a block's quiescent point its shadows commit; with none left the operations of the updates end. -/
def execQFieldCommit (record : Nat) (s : State) : Host.Outcome State Fault Refusal :=
  .next (
    let mine := s.chg.qShadow.filter (·.1 == record)
    if mine.isEmpty then s
    else
      let set (p : Profile) (x : Nat × Nat × Nat × Nat) : Profile := profSetRecord p x.1 (setBits (profRecord p x.1) x.2.1 x.2.2.1 x.2.2.2)
      let s := { s with prof := mine.foldl set s.prof, chg := { s.chg with qShadow := s.chg.qShadow.filter (·.1 != record) } }
      if !s.chg.qShadow.isEmpty then s
      else
        let ops := s.chg.qOp
        forEach ops (fun o s => endLong s o.1 o.2 hsSuccess 0) { s with chg := { s.chg with qOp := [] } })

/-! ### Board Profile Read (R425) -/

/-- The persisted profile; its reset values where there is none (DESIGN CHOICE, log entry 75). -/
def persisted (s : State) : Profile := ((imageFor s 4).bind (·.profile)).getD Profile.atReset

/-- The profile of a view: in effect, with pending shadows, persisted. -/
def viewOf (s : State) (view : Nat) : Profile := if view = 0 then s.prof else if view = 1 then withShadows s s.prof else persisted s

/-- BOARD_PROFILE_READ (0x0405). -/
def execBoardProfileRead (q : HmpHdr) (record view first : Nat) (s : State) : Host.Outcome State Fault Refusal :=
  .next (hmpServe s q ruleProfileRead fun s =>
    if !recordIds.contains record then answer s q 0x0405 hsOutOfRange 0 []
    else if 2 < view then answer s q 0x0405 hsOutOfRange 2 []
    else if recordBytes record ≤ first then answer s q 0x0405 hsOutOfRange 4 []
    else
      let svn := ((imageFor s 4).map (·.hdr.svn)).getD 0
      reply s q 0x0405 (leBytes 2 record ++ leBytes 2 (recordBytes record) ++ leBytes 4 svn ++
        (recordBytesOf (viewOf s view) record).drop first))

end Sys2Proof.Machine
end

