-- ==== Sys2Proof/Machine/ContractCmds.lean ====
section
/-! DEFINITION. Contract Set and Contract Report (R63, R68 to R70, R246), Bay Capacity Report (R71), Calendar Snapshot
(R246, Table 03.9). -/

namespace Sys2Proof.Machine

/-! ### Checks of R68 -/

/-- One demand check: resource code of Table 10.7, bay or half (0xFFFF for the device), demand before and after the change,
capacity, all in millionths of the resource's unit. -/
structure DemandCheck where
  code : Nat
  place : Nat
  before : Nat
  after : Nat
  cap : Int
  deriving DecidableEq, Repr

/-- The check fails: above capacity after the change, which raises the demand. -/
def DemandCheck.fails (c : DemandCheck) : Bool := decide (c.cap < (c.after : Int)) && decide (c.before < c.after)

/-- Bound and hold limit (code 9): the shortfall is in µs. -/
def boundCheck (p : Profile) (k : Contract) : DemandCheck :=
  let low := refMinimum p k.write - k.bound
  let x := if low = 0 then k.hold - k.bound / 4 else low
  { code := 9, place := 0xFFFF, before := 0, after := x * mil, cap := 0 }

/-- Burst sum of R70 for reads of a bay whose bound is at most `d`, in millionths of a die-µs. -/
def readBurst (s : State) (ks : List Contract) (b d : Nat) : Nat :=
  sumNat ((ks.filter fun k => !k.write && decide (k.bound ≤ d)).map fun k =>
    let bs := fnBays s k.fn
    if bs.contains b then spreadOver s.prof bs.length (readDieM s.prof k.cmdRate (rateBytes k)) * k.burst / mil else 0)

/-- Limit of the read burst check: 16 page reads for each page cost of margin above 250 µs (R70). -/
def readBurstLimit (p : Profile) (d : Nat) : Int :=
  16 * (pageCost p : Int) * (1 + ((d : Int) - 250) / (max 1 (pageCost p) : Nat)) * (mil : Nat)

/-- Burst sum of R70 for writes, in millionths of a byte. -/
def writeBurst (ks : List Contract) (d : Nat) : Nat :=
  sumNat ((ks.filter fun k => k.write && decide (k.bound ≤ d)).map fun k => rateBytes k * k.burst)

/-- Limit of the write burst check (R70) at B_E of the profile's channels (R271). -/
def writeBurstLimit (p : Profile) (d : Nat) : Int :=
  (262144 + (eavesRate p : Int) * ((d : Int) - (refMinimum p true : Nat))) * (mil : Nat)

/-- Bays of the function of a contract. -/
def contractBays (s : State) (k : Contract) : List Nat := fnBays s k.fn

/-- Every check of a change from `old` to `new`, which sets contract `k`, in the order of the resource codes (R68). -/
def demandChecks (s : State) (old new : List Contract) (k : Contract) : List DemandCheck :=
  let bays := contractBays s k
  let die := bays.map fun b =>
    DemandCheck.mk 1 b (committedDie s old b) (committedDie s new b) (computeBayCapacity s b * mil)
  let half := [0, 1].map fun h => DemandCheck.mk 2 h (committedHalf s old h) (committedHalf s new h) (halfCapacity s.prof * mil)
  let power := DemandCheck.mk 3 0xFFFF (committedPower s old) (committedPower s new) (s.adm.powerCapacity * mil)
  let cmds (ks : List Contract) : Nat := sumNat ((ks.filter fun x => !x.write).map (·.cmdRate)) * mil
  let link := [DemandCheck.mk 4 0xFFFF (committedBytes old false * mil) (committedBytes new false * mil) (s.adm.linkCapacity * mil),
    DemandCheck.mk 4 0xFFFF (cmds old) (cmds new) (s.adm.linkCmds * mil),
    DemandCheck.mk 5 0xFFFF (committedBytes old true * mil) (committedBytes new true * mil) (s.adm.linkCapacity * mil)]
  let eaves := DemandCheck.mk 6 0xFFFF (committedEaves old * mil) (committedEaves new * mil) (eavesContractBytes s.prof * mil)
  let reads := bays.flatMap fun b => (new.filter fun x => !x.write && (contractBays s x).contains b).map fun x =>
    DemandCheck.mk 7 b (readBurst s old b x.bound) (readBurst s new b x.bound) (readBurstLimit s.prof x.bound)
  let writes := (new.filter (·.write)).map fun x =>
    DemandCheck.mk 8 0xFFFF (writeBurst old x.bound) (writeBurst new x.bound) (writeBurstLimit s.prof x.bound)
  die ++ half ++ [power] ++ link ++ [eaves] ++ reads ++ writes ++ [boundCheck s.prof k]

/-- DETAIL of Contract Overbooked (Table 10.7): header byte 48 the resource, 50 to 51 the place, 52 to 55 the shortfall. -/
def overbookedDetail (c : DemandCheck) : Nat :=
  c.code + c.place * 2 ^ 16 + min (ceilDiv ((c.after : Int) - c.cap).toNat mil) 0xFFFFFFFF * 2 ^ 32

/-! ### Contract Set -/

/-- The tuple of a contract. -/
def sameTuple (fn cls : Nat) (write : Bool) (k : Contract) : Bool := k.fn == fn && k.cls == cls && k.write == write

/-- Put a contract in place of that of its tuple. -/
def withContract (ks : List Contract) (k : Contract) : List Contract :=
  ks.filter (fun x => !sameTuple k.fn k.cls k.write x) ++ [k]

/-- Levels of a set contract (R73): full for a new one; a changed one keeps its levels up to the new depths. -/
def startLevels (ks : List Contract) (k : Contract) : Contract :=
  match ks.find? (sameTuple k.fn k.cls k.write) with
  | some x => { k with cmdLevel := min x.cmdLevel (cmdDepth k), byteLevel := min x.byteLevel (byteDepth k),
                       cmdFull := min x.cmdFull (cmdDepth k), byteFull := min x.byteFull (byteDepth k) }
  | none => fullBuckets k

/-- Contracts changed: the overbooked flags and every meter follow (R72, R73); reservations that now sum to more than E_eff are an
event (R188). -/
def setContracts (s : State) (fn : Nat) (ks : List Contract) : State :=
  let before := totalReserved s
  let s := { s with adm := { s.adm with contracts := ks } }
  let s := forEach (baysOf s.prof) flagBay s
  let s := if s.eav.eEff < totalReserved s && before ≤ s.eav.eEff then capacityEvent s 3 0xFFFF s.eav.eEff (totalReserved s) else s
  forEach (fn :: (contractFns s).filter (· != fn)) (fun f s => rebuildMeters s f) s

/-- First field of a Contract Set outside its range (Table 03.1), as its byte offset. D below the reference minimum and H
above D/4 are the check of code 9 instead (R68). -/
def contractRange (fn cls dir bound cmdRate byteRate burst weight : Nat) : Option Nat :=
  if 255 < fn then some 0
  else if 7 < cls then some 2
  else if 1 < dir then some 3
  else if 4000000 < bound then some 4
  else if cmdRate = 0 || decide (16000000 < cmdRate) then some 12
  else if byteRate = 0 || decide (60000000 < byteRate) then some 16
  else if 1000000 < burst then some 20
  else if weight = 0 || decide (255 < weight) then some 24
  else none

abbrev ruleContractSet : HmpRule := rule 0x0101 sendPf (some 32)
abbrev ruleContractReport : HmpRule := rule 0x0102 sendAll (some 2)
abbrev ruleBayCapacity : HmpRule := rule 0x0103 sendAll (some 4)
abbrev ruleCalendar : HmpRule := rule 0x0104 sendPfOob (some 2)

/-- CONTRACT_SET (R63, R68). -/
def execContractSet (q : HmpHdr) (fn cls dir bound hold cmdRate byteRate burst weight : Nat) (s : State) :
    Host.Outcome State Fault Refusal :=
  .next (hmpServe s q ruleContractSet fun s =>
    match contractRange fn cls dir bound cmdRate byteRate burst weight with
    | some off => rejectWrite s q 0x0101 hsOutOfRange off
    | none =>
      let k : Contract :=
        { fn := fn, cls := cls, write := dir == 1, bound := bound, hold := hold, cmdRate := cmdRate, byteRate := byteRate,
          burst := burst, weight := weight, cmdLevel := 0, byteLevel := 0, cmdFull := 0, byteFull := 0 }
      let old := s.adm.contracts
      let new := withContract old (startLevels old k)
      match (demandChecks s old new k).find? (·.fails) with
      | some c => answer s q 0x0101 hsOverbooked (overbookedDetail c) []
      | none => hmpDone (setContracts s fn new) q 0x0101)

/-- CONTRACT_DELETE (Flags bit 0 of Table 03.1): always accepted (R68), also where the tuple has no contract (DEDUCED, log
entry 65). -/
def execContractDelete (q : HmpHdr) (fn cls dir : Nat) (s : State) : Host.Outcome State Fault Refusal :=
  .next (hmpServe s q ruleContractSet fun s =>
    match contractRange fn cls dir 0 1 1 0 1 with
    | some off => rejectWrite s q 0x0101 hsOutOfRange off
    | none => hmpDone (setContracts s fn (s.adm.contracts.filter fun k => !sameTuple fn cls (dir == 1) k)) q 0x0101)

/-- The 32 bytes of a contract (Table 03.1, Flags zero). -/
def contractBytes (k : Contract) : List Byte :=
  leBytes 2 k.fn ++ leBytes 1 k.cls ++ leBytes 1 (if k.write then 1 else 0) ++ leBytes 4 k.bound ++ leBytes 4 k.hold ++
    leBytes 4 k.cmdRate ++ leBytes 4 k.byteRate ++ leBytes 4 k.burst ++ leBytes 1 k.weight ++ zeros 7

/-- CONTRACT_REPORT (R246). -/
def execContractReport (q : HmpHdr) (fn : Nat) (s : State) : Host.Outcome State Fault Refusal :=
  .next (hmpServe s q ruleContractReport fun s =>
    if 255 < fn then answer s q 0x0102 hsOutOfRange 0 []
    else if !ownFn q.sender fn then answer s q 0x0102 hsNotPermitted 0 []
    else
      let ks := s.adm.contracts.filter (·.fn == fn)
      reply s q 0x0102 (leBytes 2 ks.length ++ zeros 6 ++ ks.flatMap contractBytes))

/-! ### Bay Capacity Report (R71) -/

/-- The sender may see a bay: a VF sees those of the sets granted to it. -/
def seesBay (s : State) (x : Sender) (b : Nat) : Bool :=
  match x with
  | .fn f => f == 0 || setGrants s (bayOwner s b) f
  | .oob _ => true

/-- Read page cost of a bay in units of 0.125 µs (R69, Table 03.7). -/
def pageCostUnits (s : State) (b : Nat) : Nat :=
  let x := 8 * pageCost s.prof
  if membersOut s b = 1 then x * 15 / 8 else x

/-- The 40 bytes of a bay (Table 03.7). -/
def bayBytes (s : State) (b : Nat) : List Byte :=
  let m := membersUp s b
  let flags := (if m < 16 then 1 else 0) + (if (baySet s (bayOwner s b)).exclusive then 2 else 0) +
    (if s.adm.overbooked.contains b then 4 else 0)
  leBytes 2 b ++ leBytes 1 m ++ leBytes 1 flags ++ leBytes 4 (bayCapacity s b) ++
    leBytes 4 (committedDie s s.adm.contracts b / mil) ++ leBytes 4 (halfCapacity s.prof) ++
    leBytes 4 (committedHalf s s.adm.contracts (b / 128) / mil) ++ leBytes 4 (pageCostUnits s b) ++
    leBytes 4 (s.adm.powerCapacity / 1000) ++ leBytes 4 (committedPower s s.adm.contracts / mil / 1000) ++
    leBytes 4 (eavesContractBytes s.prof / 1048576) ++ leBytes 4 (committedEaves s.adm.contracts / 1048576)

/-- BAY_CAPACITY_REPORT (R71). -/
def execBayCapacityReport (q : HmpHdr) (first count : Nat) (s : State) : Host.Outcome State Fault Refusal :=
  .next (hmpServe s q ruleBayCapacity fun s =>
    if 255 < first then answer s q 0x0103 hsOutOfRange 0 []
    else if count = 0 || decide (256 < count) then answer s q 0x0103 hsOutOfRange 2 []
    else
      let bays := (baysOf s.prof).filter fun b => decide (first ≤ b) && decide (b < first + count) && seesBay s q.sender b
      reply s q 0x0103 (leBytes 2 bays.length ++ zeros 6 ++ bays.flatMap (bayBytes s)))

/-! ### Calendar Snapshot (R246) -/

/-- KIND of a calendar entry (Table 03.9). -/
def calCode : CalKind → Nat
  | .readGroup => 1
  | .firstPass => 2
  | .finePass => 3
  | .slcProgram => 4
  | .erase => 5
  | .suspendWindow => 6
  | .raMember => 7
  | .outOfService => 8
  | .calibration => 9

/-- The eight bytes of a calendar entry (Table 03.9). Suspend windows lengthen no operation past 16,383 µs; an entry of an out-of-service die
that is longer shows 16,383 (what LENGTH shows there the spec leaves open: DESIGN CHOICE, log entry 137). -/
def calBytes (e : CalEntry) : List Byte :=
  leBytes 8 (e.start % 16384 + min e.length 16383 * 2 ^ 14 + calCode e.kind * 2 ^ 28 + e.suspLeft % 128 * 2 ^ 32 +
    e.reads % 128 * 2 ^ 39 + e.topClass % 8 * 2 ^ 46 + e.tokens % 16 * 2 ^ 49 + (if e.firm then 2 ^ 53 else 0))

/-- The 32 entries of a die, free ones zero. -/
def calendarBytes (s : State) (d : DieNo) : List Byte := padTo 256 ((dieEntries s d).flatMap calBytes)

/-- CALENDAR_SNAPSHOT (R246): DevTime, then the die's 32 entries. -/
def execCalendarSnapshot (q : HmpHdr) (die : Nat) (s : State) : Host.Outcome State Fault Refusal :=
  .next (hmpServe s q ruleCalendar fun s =>
    if 4096 ≤ die then answer s q 0x0104 hsOutOfRange 0 []
    else if !diePopulated s.prof die then answer s q 0x0104 hsUnknown 0 []
    else reply s q 0x0104 (leBytes 8 (now s) ++ calendarBytes s die))

end Sys2Proof.Machine
end

