-- ==== Sys2Proof/Machine/FaultEvents.lean ====
section
/-! DEFINITION. FAULT_SOURCE_EVENT: an event of any source of Table 14.1 with its capture, and the reaction of the unit that owns
it (R314, R319), as far as the capture names what the reaction acts on (log entry 55). -/

namespace Sys2Proof.Machine

/-- SEQ_TAG of a die source's capture (Table 14.2). -/
def capTag (cap : Capture) : Nat := bits cap.address 32 32

/-- Reaction to an event of a channel source (Table 14.1) on the descriptor that its capture names; none where no such
descriptor is held. -/
def channelReact (s : State) (c off : Nat) (cap : Capture) : State :=
  match descOf s c (capTag cap) with
  | none => s
  | some d =>
    match off with
    | 0 => waitingAround (updDesc s d fun x => { x with overran := true }) (descDie d)
    | 1 => workLost (closeDesc s d 0x37 0) d
    | 2 => workLost (closeDesc s d 0x32 0) d
    | 3 => waitingAround s (descDie d)
    | 4 => if isReadOp d.opcode then readFailed (closeDesc s d 2 0) d (allCws d) else s
    | 5 => if isReadOp d.opcode then workLost (closeDesc s d 0x35 0) d else sealLost (closeDesc (dropMove s d) d 0x35 0) d
    | _ => workLost (closeDesc s d 0x37 0) d

/-- A rank fails in service (R292, R293): excluded, with its event; the spare takes its place where there is one. -/
def excludeRank (s : State) (chB : Bool) (rank : Nat) : State :=
  let x := dramCh s chB
  if x.ranks.length ≤ rank || (rankOf x rank).use == .excluded then s
  else
    let s := stopMigration s chB
    let s := match (rankOf x rank).use, spareOf x with
      | .inUse, some sp => updDram (updRank s chB sp fun r => { r with use := .inUse }) chB fun y =>
          { y with rankMap := y.rankMap.map fun r => if r = rank then sp else r }
      | _, _ => s
    rankEvent (updRank s chB rank fun r => { r with use := .excluded, passes := 0 }) chB rank 1 1

/-- Rank of the address in a capture. -/
def capRank (cap : Capture) : Nat := (Config.dramRow (cap.address / 4096)).1

/-- Reaction to an event of a DRAM source. -/
def dramReact (s : State) (chB : Bool) (off : Nat) (cap : Capture) : State :=
  match off with
  | 1 => poisonPut s chB (codeword cap.address)
  | 4 => excludeRank s chB (capRank cap)
  | 5 => if (spareOf (dramCh s chB)).isSome && dramRuns s (!chB) && !migrationRuns s &&
      (rankOf (dramCh s chB) (capRank cap)).use == .inUse then startMigration s chB (capRank cap) none else s
  | _ => s

/-- Reaction to an event of a device source, 304 on (Table 14.1). -/
def deviceReact (s : State) (i : Nat) (cap : Capture) : State :=
  match i with
  | 304 => conventional s
  | 307 => if s.thm.tripped then s else trip s 0 (topTj s)
  | 309 => recomputeEaves s
  | 310 => { s with sup := { s.sup with pmicHeld := true } }
  | 311 => pllReact s cap.island
  | 312 => sysrefReact s
  | 313 => if isRunning s 9 then driverReact s else s
  | 314 => if isRunning s 9 then clampReact s false else s
  | 315 => if isRunning s 9 && turning s.air.st then stallReact s else s
  | _ => s

/-! ### Region violations (R252, Table 11.4) -/

/-- 4 KiB unit of internal memory that a capture names. -/
def capUnit (cap : Capture) : Nat := cap.address / 4096

/-- The accepted command whose data lies at an address of the Eaves Buffer. -/
def eavesCommand (s : State) (cap : Capture) : Option Cmd :=
  match s.eav.units.find? fun u => decide (eavesBuf s u.seq % 2 ^ 31 = capUnit cap) with
  | some u => s.adm.cmds.find? fun c => c.accepted && c.nsid == u.nsid && decide (c.unit0 ≤ u.unit) && decide (u.unit < c.unit0 + c.units)
  | none => none

/-- The Host DMA accesses a region outside its rights: the command whose data it moved completes with Data Transfer Error. -/
def hostViolation (s : State) (cap : Capture) : State :=
  match eavesCommand s cap with
  | some c => if c.write then endWrite s c .dataTransferError else completeCmd (leaveReads s c) c .dataTransferError 0 [] []
  | none => s

/-- The Fabric or Soft-Decode island accesses a region outside its rights: the descriptor that moves data there fails, and its work is
booked again, a read as read-around, a program from the Eaves Buffer. -/
def transferViolation (s : State) (cap : Capture) : State :=
  let hit (d : Desc) : Bool := d.buf.testBit 31 && decide (d.buf % 2 ^ 31 = capUnit cap)
  match s.fl.descs.find? hit, s.fl.softWaits.find? fun w => hit w.desc with
  | some d, _ => workLost (closeDesc s d 0x37 0) d
  | none, some w => workLost { s with fl := { s.fl with softWaits := s.fl.softWaits.erase w } } w.desc
  | none, none => s

/-- The Ridge island discards a token whose world bit is clear (R249). The capture's address names the island it came from (log entry
103). -/
def discardToken (s : State) (cap : Capture) : State := sendToken s cap.address 4 true 0

/-- Reaction to an event of a source (Table 14.1). -/
def sourceReact (s : State) (i : Nat) (cap : Capture) : State :=
  if i < 256 then channelReact s (i / 8) (i % 8) cap
  else if i = 269 then coreReact (raiseFault s (292 + cap.detail) cap) cap.detail false
  else if i = 268 then hostViolation s cap
  else if i = 270 then if cap.access = 3 then discardToken s cap else ridgeReact s (activeRidge s) false
  else if i = 271 || i = 272 then transferViolation s cap
  else if decide (279 ≤ i) && decide (i ≤ 290) then dramReact s (decide (285 ≤ i)) (dramSrcOff i) cap
  else if decide (292 ≤ i) && decide (i ≤ 301) then coreReact s (i - 292) false
  else if i = 302 || i = 303 then ridgeReact s (i - 302) false
  else deviceReact s i cap

/-- FAULT_SOURCE_EVENT (R314). An index outside Table 14.1 has no event; a Purlin core's violation (269) counts only for a
core that exists. -/
def execFaultSourceEvent (source : Nat) (cap : Capture) (s : State) : Host.Outcome State Fault Refusal :=
  .next (if 320 ≤ source || (source == 269 && decide (10 ≤ cap.detail)) then s
    else if source = 307 && !s.thm.tripped then trip s 0 (topTj s)
    else sourceReact (raiseFault s source cap) source cap)

/-! ### Region checks (R250, R252) -/

/-- The region table gives master `m` the access (0 read, 1 write, 2 execute) to a 4 KiB unit of one of the spaces; an address in no
entry is denied (R250). Masters are numbered as the rights are: 0 Ridge, 1 Purlin, 2 Host DMA, 3 Fabric, 4 channel islands,
5 Soft-Decode. -/
def regionAllows (s : State) (m access : Nat) (spaces : List Nat) (unit : Nat) : Bool :=
  s.sec.regions.any fun r =>
    spaces.contains r.space && decide (r.base ≤ unit) && decide (unit ≤ r.limit) && r.rights.testBit (3 * m + access)

/-- The master behind a DRAM port (Table 12.6); P6 serves the DRAM island itself, which is no master of the table (log entry 103). -/
def portMaster (port : Nat) : Option Nat :=
  if port = 0 || port = 1 || port = 3 then some 3 else if port = 2 then some 4 else if port = 4 then some 1
  else if port = 5 then some 0 else none

/-- A port may write a codeword of a channel. -/
def portMayWrite (s : State) (chB : Bool) (port cw : Nat) : Bool :=
  match portMaster port with
  | some m => regionAllows s m 1 [if chB then 1 else 0, 2] (cw / 64)
  | none => true

/-- World-violation source (Table 14.1) and island of the master behind a port. -/
def portViolation (s : State) (port : Nat) : Nat × Nat :=
  match portMaster port with
  | some 0 => (270, 4)
  | some 1 => (269, 3)
  | some 4 => (chSrc (fresh s 1 % 32) 7, chIsland (fresh s 1 % 32))
  | _ => (271, 5)

/-- A denied write (R252, Table 11.4): dropped, the source of the master's island raised with the address, and its reaction. The
command names neither the Purlin core nor the channel island that wrote (free values, log entry 103). -/
def denyWrite (s : State) (port cw : Nat) : State :=
  let v := portViolation s port
  let cap := capOf ((portMaster port).getD 7) 1 (cw * 64) (if v.1 = 269 then fresh s 0 % 10 else v.2) v.2
  sourceReact (raiseFault (tickFree s) v.1 cap) v.1 cap

/-- A merge entry is written back when its mask is full or 1 µs has passed since its first write, and writes that wait take the
room (R280). -/
def mergeSettle (s : State) (chB : Bool) (addr : Nat) : State :=
  match (dramCh s chB).merge.find? fun e => e.addr == addr with
  | none => s
  | some e =>
    if maskFull e || decide (e.since + 1 ≤ now s) then
      let s := writeEntryBack s chB e
      serveWaiting s chB (dramCh s chB).waiting.length
    else s

/-- MERGE_WRITEBACK (R280, R250): the narrow writes of a port that arrive for a codeword pass the region table and join its entry, which
is then written back if it is due. -/
def execMergeWriteback (chB : Bool) (addr : Nat) (narrow : NarrowWrites) (s : State) : Host.Outcome State Fault Refusal :=
  .next (if !dramRuns s chB then s
    else if !narrow.writes.isEmpty && !portMayWrite s chB narrow.port addr then denyWrite s narrow.port addr
    else mergeSettle (takeNarrow s chB narrow.port addr narrow.writes) chB addr)

end Sys2Proof.Machine
end

