-- ==== Sys2Proof/Machine/IoCmds.lean ====
section
/-! DEFINITION. The I/O commands (R21, R36 to R44, R55, R62 to R67, R80, R86, R214, R259, R393): from fetch to evaluation. -/

namespace Sys2Proof.Machine

/-! ### Before admission -/

/-- The command's queue exists and its controller takes commands; an I/O command of a function that is not ready, while the
link is down, while fetch is stopped, or while Battened (the entry is fetched after the wake, Table 18.9) cannot have been
fetched. -/
def canFetch (s : State) (h : IoHdr) : Bool :=
  s.host.linkUp && fnReady s h.fn && !(fnOf s h.fn).cfs && !(fnOf s h.fn).fetchPaused && s.boot.phase != 6 &&
    h.sqid != 0 && (tblFind? h.sqid (fnOf s h.fn).sqs).isSome

/-- Take the command's fetched entry. -/
def takeFetched (s : State) (h : IoHdr) : State :=
  match fetchedOf s h with
  | some e => { s with host := { s.host with fetched := s.host.fetched.erase e } }
  | none => s

/-- Key of a command (R259): slot number and key; none is Invalid Field in Command. Without inline encryption
(KZ-SL4096-A1N) or a media key slot the units are stored under key 0. -/
def selectKey (s : State) (h : IoHdr) (ns : NsSt) : Option (Option Nat × Nat) :=
  if h.cet = 0 then some (mediaKeyFor s ns.nsid none)
  else if h.cet = 1 && s.sec.kpioOn.contains ns.nsid then
    match s.sec.slots.find? fun e => e.2.state == 3 && e.2.nsIndex == ns.nsid - 1 && e.2.tag == h.cev && e.2.owner == h.fn with
    | some e => some (some e.1, e.2.key)
    | none => none
  else none

/-- Standard errors before admission that do not depend on the addressed blocks (R214, R259, R263, R393): the restricted
phase, a namespace not attached, a sanitize in progress, a zone command to a conventional namespace. -/
def headError (s : State) (h : IoHdr) (zoneCmd : Bool) : Option NvmeStatus :=
  if s.boot.phase = 7 then some .invalidNamespace
  else if s.sec.sanitizing then some .sanitizeInProgress
  else match nsOf s h.nsid with
    | none => some .invalidNamespace
    | some ns =>
      if !attachedTo ns h.fn then some .invalidNamespace
      else if zoneCmd && !ns.zoned then some .invalidOpcode
      else none

/-- Bytes that the transfer of one LBA moves through the data buffer: an extended LBA carries its metadata there (R218). -/
def lbaTransfer (ns : NsSt) : Nat := 4096 * lbaUnits ns + (if ns.extended then metaBytes ns else 0)

/-- Errors of an LBA range of `nlb` blocks: nothing to transfer, more than MDTS (8 MiB, R218; the metadata of extended LBAs counts, the
standard's, PRESUMED, log entry 126), or beyond the namespace. -/
def rangeError (ns : NsSt) (slba nlb : Nat) (moves : Bool) : Option NvmeStatus :=
  if nlb = 0 || (moves && decide (8388608 < nlb * lbaTransfer ns)) then some .invalidField
  else if ns.nsze < slba + nlb then some .lbaOutOfRange
  else none

/-- A zone address must be the first LBA of a zone. -/
def zslbaError (ns : NsSt) (zslba : Nat) : Option NvmeStatus :=
  if ns.nsze ≤ zslba then some .lbaOutOfRange
  else if zslba * lbaUnits ns % zoneUnits ≠ 0 then some .invalidField else none

/-! ### Commands as the Admission Unit takes them -/

/-- A new command (R62, R64 to R67): class of its queue and arrival at its fetch, direction, deadline and hold end. `dmin` in µs;
`charge` bytes charged. -/
def newCmd (s : State) (h : IoHdr) (op : Instr) (write : Bool) (dmin unit0 units charge : Nat) (zone : Option Nat) : Cmd :=
  let (cls, t0) := arrivalOf s h
  let (bound, hold) := boundHold s h.fn cls write
  let key := match nsOf s h.nsid with
    | some ns => (selectKey s h ns).getD (none, 0)
    | none => (none, 0)
  { fn := h.fn, sqid := h.sqid, cid := h.cid, op := op, cls := cls, write := write, t0 := t0,
    dl := t0 + max bound dmin, hend := t0 + hold, accepted := false, acceptedAt := 0, verdict := 0, nsid := h.nsid,
    unit0 := unit0, units := units, bytes := units * 4096, order := 0, zone := zone, slots := [], key := key.2,
    keySlot := key.1, lastReason := 0, hostLate := false, late := 0, arrived := 0, inA := 0, inB := 0, poisoned := false,
    dtError := false, withinContract := false, charge := charge, lba := 0, allowance := false,
    chargeLink := if write then 0 else charge, chargePower := if write then charge * 718567 / 10 else 0, dieCharges := [],
    data := [], epoch := 0, bufs := 0, chans := [], sensed := false, listRead := false, slackWait := false, seq0 := 0, endStatus := none }

/-- Width of the thatch that a command's units lie in. -/
def widthAt (s : State) (nsid : Nat) (zone? : Option Nat) : Nat :=
  match zone? with
  | some zi => match zoneThatch s (zone s nsid zi) with
    | some t => max 2 t.width
    | none => 16
  | none => 16

/-- Width that a bound takes for `n` units from unit `u` (R86): of their thatches the narrowest (DEDUCED, log entry 115). -/
def widthOver (s : State) (ns : NsSt) (u n : Nat) : Nat :=
  if ns.zoned then
    ((List.range ((u + n - 1) / zoneUnits - u / zoneUnits + 1)).map fun i => widthAt s ns.nsid (some (u / zoneUnits + i))).foldl min 16
  else 16

/-- Read sum of a Copy (R86): its source ranges in units, the slots that each touches, the narrowest of their thatches. -/
def copyReadSum (s : State) (ns : NsSt) (src : List (Nat × Nat)) : Nat :=
  sumOfRead s (sumNat (src.map (·.2))) (sumNat (src.map fun e => slotsTouched e.1 e.2))
    ((src.map fun e => widthOver s ns e.1 e.2).foldl min 16)

/-- Admit a fetched command: errors before admission complete it (R102, R259), a command identifier in use already is left
alone, and otherwise it is evaluated (R80). -/
def admitCmd (s : State) (h : IoHdr) (zoneCmd : Bool) (err : NsSt → Option NvmeStatus) (mk : NsSt → Cmd) : State :=
  if !canFetch s h || (cmdOf s h.fn h.sqid h.cid).isSome then s
  else
    let cls := (arrivalOf s h).1
    let s := takeFetched s h
    match headError s h zoneCmd, nsOf s h.nsid with
    | some e, _ => completeEarly s h cls e
    | none, none => completeEarly s h cls .invalidNamespace
    | none, some ns =>
      if (selectKey s h ns).isNone then completeEarly s h cls .invalidField
      else match err ns with
        | some e => completeEarly s h cls e
        | none => evaluate s (mk ns)

/-- Zone index of an LBA of a zoned namespace. -/
def zoneOf (ns : NsSt) (lba : Nat) : Option Nat := if ns.zoned then some (lba * lbaUnits ns / zoneUnits) else none

/-- READ (R80): `nlb` is the count of blocks. -/
def execRead (h : IoHdr) (slba nlb : Nat) (s : State) : Host.Outcome State Fault Refusal :=
  .next (admitCmd s h false (fun ns => rangeError ns slba nlb true) fun ns =>
    let u := slba * lbaUnits ns
    let n := nlb * lbaUnits ns
    newCmd s h (.read h slba nlb) false (up25 (readSum s u n (widthOver s ns u n))) u n (n * 4096) (zoneOf ns slba))

/-- WRITE (R80, R40). -/
def execWrite (h : IoHdr) (slba nlb : Nat) (s : State) : Host.Outcome State Fault Refusal :=
  .next (admitCmd s h false (fun ns => rangeError ns slba nlb true) fun ns =>
    let n := nlb * lbaUnits ns
    newCmd s h (.write h slba nlb) true (up25 (writeSum s (n * 4096))) (slba * lbaUnits ns) n (n * 4096) (zoneOf ns slba))

/-- ZONE_APPEND (R36, R40): its address is the zone's first LBA; the append limit equals MDTS. -/
def execZoneAppend (h : IoHdr) (zslba nlb : Nat) (s : State) : Host.Outcome State Fault Refusal :=
  .next (admitCmd s h true (fun ns => match zslbaError ns zslba with
      | some e => some e
      | none => rangeError ns zslba nlb true) fun ns =>
    let n := nlb * lbaUnits ns
    newCmd s h (.zoneAppend h zslba nlb) true (up25 (writeSum s (n * 4096))) (zslba * lbaUnits ns) n (n * 4096) (zoneOf ns zslba))

/-- WRITE_ZEROES (R36, R55). -/
def execWriteZeroes (h : IoHdr) (slba nlb : Nat) (s : State) : Host.Outcome State Fault Refusal :=
  .next (admitCmd s h false (fun ns => rangeError ns slba nlb false) fun ns =>
    let n := nlb * lbaUnits ns
    newCmd s h (.writeZeroes h slba nlb) true (up25 (writeSum s (n * 4096))) (slba * lbaUnits ns) n (n * 4096) (zoneOf ns slba))

/-- FLUSH (R86). -/
def execFlush (h : IoHdr) (s : State) : Host.Outcome State Fault Refusal :=
  .next (admitCmd s h false (fun _ => none) fun _ => newCmd s h (.flush h) true 25 0 0 0 none)

/-- DATASET_MANAGEMENT_DEALLOCATE (R55, R86). -/
def execDatasetManagementDeallocate (h : IoHdr) (ranges : List (Nat × Nat)) (s : State) : Host.Outcome State Fault Refusal :=
  .next (admitCmd s h false (fun ns => ranges.findSome? fun e => if ns.nsze < e.1 + e.2 then some .lbaOutOfRange else none) fun _ =>
    newCmd s h (.datasetManagementDeallocate h ranges) true (up25 (6500 + 50 * ranges.length)) 0 0 0 none)

/-- COPY (R36, R44): up to 128 source ranges of at most 32,768 blocks, 32,768 blocks in all; beyond them Invalid Field in Command
(DESIGN CHOICE, log entry 79: Table 02.4 gives the limits and no status). -/
def execCopy (h : IoHdr) (sources : List (Nat × Nat)) (sdlba : Nat) (s : State) : Host.Outcome State Fault Refusal :=
  .next (admitCmd s h false (fun ns =>
      let total := sumNat (sources.map (·.2))
      if sources.isEmpty || decide (128 < sources.length) || sources.any (fun e => decide (32768 < e.2)) || decide (32768 < total) then
        some .invalidField
      else if sources.any (fun e => decide (ns.nsze < e.1 + e.2)) then some .lbaOutOfRange
      else rangeError ns sdlba total false) fun ns =>
    let n := sumNat (sources.map (·.2)) * lbaUnits ns
    let u := sdlba * lbaUnits ns
    newCmd s h (.copy h sources sdlba) true (up25 (copyReadSum s ns (sources.map fun e => (e.1 * lbaUnits ns, e.2 * lbaUnits ns)) +
      writeSum s (n * 4096) + 50000)) u n (2 * n * 4096)
      (zoneOf ns sdlba))

/-- A Zone Management Send: on one zone, or with Select All on every zone of the namespace (R44). -/
def zoneSendCmd (s : State) (h : IoHdr) (op : Instr) (zslba : Nat) (all : Bool) (dmin : Nat) : State :=
  admitCmd s h true (fun ns => if all then none else zslbaError ns zslba) fun ns =>
    let c := newCmd s h op true dmin (zslba * lbaUnits ns) 0 0 (if all then none else zoneOf ns zslba)
    match selectAll s c with
    | some zs => newCmd s h op true (up25 ((100 + zs.length) * 1000)) 0 0 0 none
    | none => c

/-- ZONE_OPEN (R38, R86). -/
def execZoneOpen (h : IoHdr) (zslba : Nat) (all : Bool) (s : State) : Host.Outcome State Fault Refusal :=
  .next (zoneSendCmd s h (.zoneOpen h zslba all) zslba all 50)

/-- ZONE_CLOSE (R86). -/
def execZoneClose (h : IoHdr) (zslba : Nat) (all : Bool) (s : State) : Host.Outcome State Fault Refusal :=
  .next (zoneSendCmd s h (.zoneClose h zslba all) zslba all 50)

/-- ZONE_FINISH (R42, R86). -/
def execZoneFinish (h : IoHdr) (zslba : Nat) (all : Bool) (s : State) : Host.Outcome State Fault Refusal :=
  .next (zoneSendCmd s h (.zoneFinish h zslba all) zslba all 75)

/-- ZONE_RESET (R43, R86). -/
def execZoneReset (h : IoHdr) (zslba : Nat) (all : Bool) (s : State) : Host.Outcome State Fault Refusal :=
  .next (zoneSendCmd s h (.zoneReset h zslba all) zslba all 100)

/-- ZONE_OFFLINE (R37, R86). -/
def execZoneOffline (h : IoHdr) (zslba : Nat) (all : Bool) (s : State) : Host.Outcome State Fault Refusal :=
  .next (zoneSendCmd s h (.zoneOffline h zslba all) zslba all 100)

/-- SET_ZONE_DESCRIPTOR_EXTENSION (R46, R47, R86). -/
def execSetZoneDescriptorExtension (h : IoHdr) (zslba : Nat) (ext : List Byte) (s : State) : Host.Outcome State Fault Refusal :=
  .next (admitCmd s h true (fun ns => match zslbaError ns zslba with
      | some e => some e
      | none => if extBad ns ext then some .invalidField else none) fun ns =>
    newCmd s h (.setZoneDescriptorExtension h zslba ext) true 75 (zslba * lbaUnits ns) 0 0 (zoneOf ns zslba))

/-- REPORT_ZONES (R36, R86): `option` holds the reporting option, with Partial Report in bit 8. -/
def execReportZones (h : IoHdr) (slba option maxDesc : Nat) (s : State) : Host.Outcome State Fault Refusal :=
  .next (admitCmd s h true (fun ns => if ns.nsze ≤ slba then some .lbaOutOfRange else if 7 < option % 256 then some .invalidField else none)
    fun ns => newCmd s h (.reportZones h slba option maxDesc) false (up25 (10000 + 50 * reportCount s ns slba option maxDesc)) 0 0 0 none)

/-- EXTENDED_REPORT_ZONES (R46, R86). -/
def execExtendedReportZones (h : IoHdr) (slba option maxDesc : Nat) (s : State) : Host.Outcome State Fault Refusal :=
  .next (admitCmd s h true (fun ns => if ns.nsze ≤ slba then some .lbaOutOfRange else if 7 < option % 256 then some .invalidField else none)
    fun ns => newCmd s h (.extendedReportZones h slba option maxDesc) false (up25 (10000 + 50 * reportCount s ns slba option maxDesc))
      0 0 0 none)

/-- INVALID_IO_OPCODE (R214, R393): an opcode outside the list completes with Invalid Command Opcode. -/
def execInvalidIoOpcode (h : IoHdr) (opcode : Nat) (s : State) : Host.Outcome State Fault Refusal :=
  let listed := [0x00, 0x01, 0x02, 0x08, 0x09, 0x19, 0x79, 0x7A, 0x7D].contains opcode
  .next (if !canFetch s h || listed then s
    else completeEarly (takeFetched s h) h (arrivalOf s h).1 (if s.boot.phase = 7 then .invalidNamespace else .invalidOpcode))

/-! ### Held commands -/

/-- Held commands that wait for backing of a zone, in the order of R84. -/
def bindingWaiters (s : State) (nsid zi : Nat) : List Cmd :=
  (s.adm.cmds.filter fun c => !c.accepted && c.nsid == nsid && c.zone == some zi && c.lastReason == 0xC8).mergeSort fun a b => before a b

/-- THATCH_BINDING_DONE (R39, R48, R49): while the Management island runs, the first held command that waits for backing of this
Empty zone gets a ready thatch that choose_bay gives, under the extension that it sets or that the zone has, and every held
command is evaluated again. Once no command for the zone is left and it is still Empty, the thatch returns to the ready thatches of
the bay (DEDUCED, log entry 86: Table 02.5 binds none to an Empty zone). -/
def execThatchBindingDone (nsid zone' : Nat) (s : State) : Host.Outcome State Fault Refusal :=
  .next (if mgmtDown s || (zone s nsid zone').thatch.isSome then s
    else match nsOf s nsid, bindingWaiters s nsid zone' with
      | none, _ => s
      | _, [] => s
      | some ns, c :: _ => match bindZone s ns zone' (servedZone s c zone') with
        | some s => reevaluateAll s
        | none => s)

/-- HELD_COMMAND_REEVALUATION (R80). -/
def execHeldCommandReevaluation (fn sqid cid : Nat) (s : State) : Host.Outcome State Fault Refusal :=
  .next (resumePurlin (match cmdOf s fn sqid cid with
    | some c => if c.accepted then s else evaluate s c
    | none => s))

/-- HOLD_END_EXPIRY (R94, R96, R97): at the hold end a held command is evaluated once; acceptance wins. -/
def execHoldEndExpiry (fn sqid cid : Nat) (s : State) : Host.Outcome State Fault Refusal :=
  .next (match cmdOf s fn sqid cid with
    | some c => if c.accepted || decide (now s < c.hend) then s else evaluate s c
    | none => s)

/-- SLACK_EPOCH_END (R91, R98): the draws of the ended 10 ms epoch become those of the last completed one. -/
def execSlackEpochEnd (s : State) : Host.Outcome State Fault Refusal :=
  .next (if now s < s.adm.epochStart + 10000 then s
    else { s with adm := { s.adm with prevDraws := if now s < s.adm.epochStart + 20000 then s.adm.draws else [], draws := [],
                                      epochStart := now s / 10000 * 10000 } })

/-- CALENDAR_ENTRY_END (R75): an entry whose end has passed is freed, with the channel time that has passed, and held commands are
evaluated again. A suspend window's entry is freed when its sequencer ends the window (R145). -/
def execCalendarEntryEnd (die start : Nat) (s : State) : Host.Outcome State Fault Refusal :=
  let above (e : CalEntry) : Bool := e.die == die && e.start == start && e.kind != .suspendWindow && decide (entryEnd e ≤ now s)
  .next (if !s.fl.calendar.any above then s
    else reevaluateAll { s with fl := { s.fl with calendar := s.fl.calendar.filter (fun e => !above e),
                                                  occupancy := s.fl.occupancy.filter fun o => decide (now s < o.start + o.length) } })

/-! ### Write data -/

/-- A read request of a command exceeded HOST_READ_LAT before its first completion arrived: the deadline moves by the excess of each
such request, and the command counts once as host-late (R66; that the excesses add up is a DESIGN CHOICE, log entry 87). -/
def readLate (s : State) (c : Cmd) (latencyUs : Nat) : State :=
  let late := latencyUs - s.prof.hostReadLat
  if late = 0 then s
  else
    let s := if c.hostLate then s else updFnCtr s c.fn fun k => { k with hostLate := k.hostLate + 1 }
    updCmd s c fun x => { x with dl := x.dl + late, late := x.late + late, hostLate := true }

/-- HOST_READ_COMPLETION_ARRIVAL (R66, R182, R224): the next units of a write arrive, or the list or extension of a command that is
held or in service, which starts one that was accepted before; lateness beyond HOST_READ_LAT moves the deadline; poisoned units keep a poison mark and log an AER error. -/
def execHostReadCompletionArrival (fn sqid cid latencyUs : Nat) (units poisoned : List Nat) (s : State) :
    Host.Outcome State Fault Refusal :=
  .next (match cmdOf s fn sqid cid with
    | none => s
    | some c =>
      let n := min units.length (c.units - c.arrived)
      if s.eav.powerLoss then s
      else if readsList c then
        let s := updCmd (readLate s c latencyUs) c fun x => { x with listRead := true }
        match cmdOf s fn sqid cid with
        | some x => if x.accepted && listWaits c then startCmd s x else s
        | none => s
      else if !(c.accepted && c.write) || c.endStatus.isSome || n = 0 then s
      else
        let bad := poisoned.filter fun i => decide (i < n)
        let s := if bad.isEmpty then s else { s with host := { s.host with aerUncorrected := s.host.aerUncorrected ++ [fn] } }
        let s := readLate s c latencyUs
        let s := (allocBufs s 0 5 n).getD s
        let placed (s : State) : State := sealBufs s 0 ((s.eav.units.drop (s.eav.units.length - n)).map (·.sealed))
        placed (placeUnits { s with adm := { s.adm with hostReadsOpen := s.adm.hostReadsOpen - n } } c (units.take n) bad))

/-- The next `n` units of a write are in its copy in a DRAM channel (R22, R182): buffers of units in both copies move to the
program cache, and writes complete in their zone's acceptance order. -/
def copyWritten (s : State) (c : Cmd) (chB : Bool) (n : Nat) : State :=
  let mine (e : EavesUnit) : Bool := e.cmd == some (c.fn, c.sqid, c.cid) && e.order == c.order
  let seqs := (((s.eav.units.filter mine).filter fun e => if chB then !e.inB else !e.inA).map (·.seq)).take n
  let us := s.eav.units.map fun e =>
    if seqs.contains e.seq then { e with inA := e.inA || !chB, inB := e.inB || chB } else e
  let both := (us.filter fun e => seqs.contains e.seq && e.inA && e.inB).map (·.seq)
  let fromHost := match c.op with
    | .write _ _ _ => true
    | .zoneAppend _ _ _ => true
    | _ => false
  let s := { s with eav := { s.eav with units := us } }
  let s := if fromHost then cacheBufs s both else s
  let s := updCmd s c fun x => { x with inA := x.inA + (if chB then 0 else n), inB := x.inB + (if chB then n else 0) }
  let conv := s.adm.cmds.filter fun c => writeReady c && c.zone.isNone && decide (0 < c.units) && !c.dtError && c.endStatus.isNone
  flushReady (s.adm.cmds.length + 1) (forEach conv convCommit s)

/-- EAVES_COPY_WRITTEN: a DRAM channel reports the next units of a write. -/
def execEavesCopyWritten (chB : Bool) (fn sqid cid units : Nat) (s : State) : Host.Outcome State Fault Refusal :=
  .next (match cmdOf s fn sqid cid with
    | none => s
    | some c =>
      let n := min units (c.arrived - if chB then c.inB else c.inA)
      if n = 0 || notRunning s (if chB then 7 else 6) then s else copyWritten s c chB n)

end Sys2Proof.Machine
end

