-- ==== Sys2Proof/Machine/Keys.lean ====
section
/-! DEFINITION. Key slots, KEKs and Key Per I/O (R253 to R260), media key rollover (R262), Region Table Report (R250), Security
Send and Receive (R258). -/

namespace Sys2Proof.Machine

/-- Rules of family 0x05: KZ-SL4096-A1N answers Crypto Fused Off (R253). -/
abbrev ruleKeySlot (len : Nat) : HmpRule := ⟨0x0501, sendPfVf, false, true, some len⟩
abbrev ruleSetKpio : HmpRule := ⟨0x0501, sendPf, false, true, some 16⟩
abbrev ruleRollover : HmpRule := ⟨0x0502, sendPf, false, true, some 4⟩
abbrev ruleRegions : HmpRule := ⟨0x0503, sendPfOob, false, true, some 0⟩

/-- Secure World Refused with a reason of Table 11.5. -/
def secureRefused (s : State) (q : HmpHdr) (op reason : Nat) : State := answer s q op hsSecureRefused reason []

/-- The Key Per I/O slot of a tag in a namespace (R259). -/
def tagSlot (s : State) (nsid tag : Nat) : Option (Nat × KeySlot) :=
  s.sec.slots.find? fun e => e.2.state == 3 && e.2.nsIndex == nsid - 1 && e.2.tag == tag

/-- The lowest free slot of 2,048 to 16,383 (R256; which free slot is the Ridge core's choice, log entry 73). -/
def freeKeySlot (s : State) : Option Nat :=
  ((List.range 14336).map (· + 2048)).find? fun n => (tblGet keySlotDefault n s.sec.slots).state == 0

/-- Key Per I/O slots a function holds (R256). -/
def slotsOwned (s : State) (fn : Nat) : Nat := countP (fun e => e.2.state == 3 && e.2.owner == fn) s.sec.slots

/-- First reason of Table 11.5 against an injection (their order: DESIGN CHOICE, log entry 73). The namespace must be attached
to a function other than the PF that names it (R260). -/
def injectRefusal (s : State) (ns : NsSt) (fn tag : Nat) (wrapOk halvesEqual : Bool) : Option Nat :=
  if (fn != 0 && !attachedTo ns fn) || !s.sec.kpioOn.contains ns.nsid then some 5
  else if (tblFind? fn s.sec.keks).isNone then some 2
  else if !wrapOk || halvesEqual then some 1
  else match tagSlot s ns.nsid tag with
    | some e => if e.2.owner = fn then none else some 4
    | none => if s.prof.kpioQuota ≤ slotsOwned s fn then some 3 else none

/-- Put a key under a tag: into the slot that holds the tag, else into a free one. -/
def putKey (s : State) (ns : NsSt) (fn tag key : Nat) : State :=
  let n := match tagSlot s ns.nsid tag with
    | some e => some e.1
    | none => freeKeySlot s
  match n with
  | some n =>
    let old := tblGet keySlotDefault n s.sec.slots
    let k : KeySlot := { state := 3, owner := fn, nsIndex := ns.nsid - 1, tag := tag % 65536, generation := 0, pins := old.pins, key := key % 2 ^ 512 + 1 }
    { s with sec := putSlots s.sec (tblSet n k s.sec.slots) }
  | none => s

/-- KEY_SLOT_INJECT: operation 0 of opcode 0x0501 (R260). -/
def execKeySlotInject (q : HmpHdr) (fn nsid tag : Nat) (wrapOk halvesEqual : Bool) (key : Nat) (s : State) :
    Host.Outcome State Fault Refusal :=
  .next (hmpServe s q (ruleKeySlot 88) fun s =>
    if !ownFn q.sender fn then answer s q 0x0501 hsNotPermitted 0 []
    else if 255 < fn then answer s q 0x0501 hsOutOfRange 0 []
    else match nsOf s nsid with
      | none => answer s q 0x0501 hsUnknown 4 []
      | some ns => match injectRefusal s ns fn tag wrapOk halvesEqual with
        | some r => secureRefused s q 0x0501 r
        | none => hmpDone (putKey s ns fn tag key) q 0x0501)

/-- Clear a tag's slot; commands accepted earlier keep their key (R269). -/
def clearTag (s : State) (nsid tag : Nat) : State :=
  { s with sec := putSlots s.sec (s.sec.slots.filter fun e => !(e.2.state == 3 && e.2.nsIndex == nsid - 1 && e.2.tag == tag)) }

/-- KEY_SLOT_CLEAR: operation 1. A tag that no slot holds is Unknown Object (DEDUCED, log entry 73). -/
def execKeySlotClear (q : HmpHdr) (fn nsid tag : Nat) (s : State) : Host.Outcome State Fault Refusal :=
  .next (hmpServe s q (ruleKeySlot 16) fun s =>
    if !ownFn q.sender fn then answer s q 0x0501 hsNotPermitted 0 []
    else if 255 < fn then answer s q 0x0501 hsOutOfRange 0 []
    else match nsOf s nsid with
      | none => answer s q 0x0501 hsUnknown 4 []
      | some ns =>
        if fn != 0 && !attachedTo ns fn then secureRefused s q 0x0501 5
        else match tagSlot s nsid tag with
          | none => answer s q 0x0501 hsUnknown 4 []
          | some e => if e.2.owner = fn then hmpDone (clearTag s nsid tag) q 0x0501 else secureRefused s q 0x0501 4)

/-- ESTABLISH_KEK: operation 2. The KEK and the 288 bytes of the response come from the random source: free values. -/
def execEstablishKek (q : HmpHdr) (fn : Nat) (onCurve : Bool) (s : State) : Host.Outcome State Fault Refusal :=
  .next (hmpServe s q (ruleKeySlot 112) fun s =>
    if !ownFn q.sender fn then answer s q 0x0501 hsNotPermitted 0 []
    else if 255 < fn then answer s q 0x0501 hsOutOfRange 0 []
    else if !onCurve then secureRefused s q 0x0501 7
    else if q.room < 288 then answer s q 0x0501 hsTooSmall 288 []
    else
      let out := padTo 288 (Config.freeBytes s.free)
      reply (tickFree { s with sec := { s.sec with keks := tblSet fn (fresh s 0) s.sec.keks } }) q 0x0501 out)

/-- SET_KEY_PER_IO: operation 3, the PF's alone; class L, in effect from the next command fetched. -/
def execSetKeyPerIo (q : HmpHdr) (nsid enable : Nat) (s : State) : Host.Outcome State Fault Refusal :=
  .next (hmpServe s q ruleSetKpio fun s =>
    if 1 < enable then rejectWrite s q 0x0501 hsOutOfRange 10
    else match nsOf s nsid with
    | none => answer s q 0x0501 hsUnknown 4 []
    | some _ =>
      let rest := s.sec.kpioOn.filter (· != nsid)
      hmpDone { s with sec := { s.sec with kpioOn := if enable = 1 then rest ++ [nsid] else rest } } q 0x0501)

/-! ### Media key rollover (R262) -/

/-- Step 1 of a rollover: a new media key with the next GENERATION in the namespace's free slot, the old key at STATE 2, the key
store written. -/
def rollKey (s : State) (nsid : Nat) : State :=
  match (mediaSlots s nsid).find? fun e => e.2.state == 1 with
  | none => s
  | some old =>
    let n := if old.1 = 2 * (nsid - 1) then old.1 + 1 else 2 * (nsid - 1)
    let k : KeySlot := { keySlotDefault with state := 1, nsIndex := nsid - 1, generation := (old.2.generation + 1) % 256, key := fresh s 0 % 2 ^ 512 + 1 }
    let slots := tblSet n k (tblSet old.1 { old.2 with state := 2 } s.sec.slots)
    storeKeys (tickFree { s with sec := putSlots s.sec slots })

/-- KEY_ROLLOVER (0x0502). -/
def execKeyRollover (q : HmpHdr) (nsid : Nat) (s : State) : Host.Outcome State Fault Refusal :=
  .next (hmpServe s q ruleRollover fun s =>
    match nsOf s nsid with
    | none => answer s q 0x0502 hsUnknown 0 []
    | some _ =>
      if s.sec.rollovers.any (·.1 == nsid) then secureRefused s q 0x0502 6
      else startLong s q 0x0502 fun s h =>
        let s := rollKey s nsid
        { s with sec := { s.sec with rollovers := s.sec.rollovers ++ [(nsid, q.sender, h)] } })

/-- Keys of the earlier generation of a namespace. -/
def oldKeys (s : State) (nsid : Nat) : List Nat := ((mediaSlots s nsid).filter fun e => e.2.state == 2).map (·.2.key)

/-- No thatch, Eaves unit or Underlay entry of the old generation remains (R262 step 4); a unit of a settled thatch stands for
its thatch. -/
def rolloverDone (s : State) (nsid : Nat) : Bool :=
  let old := oldKeys s nsid
  s.sec.rollovers.any (·.1 == nsid) &&
    !(s.fl.thatches.any fun e => e.2.nsid == nsid && e.2.kind == .zone && e.2.generation != generationOf s nsid) &&
    !(s.eav.units.any fun u => u.nsid == nsid && old.contains u.key) &&
    !(s.fl.media.any fun m => m.nsid == nsid && old.contains m.key)

/-- KEY_ROLLOVER_END (R262 step 4). -/
def execKeyRolloverEnd (nsid : Nat) (s : State) : Host.Outcome State Fault Refusal :=
  .next (if mgmtDown s || !rolloverDone s nsid then s
    else
      let s := { s with sec := putSlots s.sec (s.sec.slots.filter fun e => !(e.2.state == 2 && e.2.nsIndex == nsid - 1)) }
      endRollover (storeKeys s) nsid hsSuccess)

/-! ### Region Table Report (R250) -/

/-- One 16-byte entry (Table 11.2). -/
def regionBytes (r : Region) : List Byte :=
  leBytes 1 r.id ++ leBytes 1 r.space ++ leBytes 1 (if r.secure then 1 else 0) ++ zeros 1 ++ leBytes 4 r.rights ++ leBytes 4 r.base ++
    leBytes 4 r.limit

/-- REGION_TABLE_REPORT (0x0503). -/
def execRegionTableReport (q : HmpHdr) (s : State) : Host.Outcome State Fault Refusal :=
  .next (hmpServe s q ruleRegions fun s =>
    reply s q 0x0503 (leBytes 2 s.sec.regions.length ++ zeros 6 ++ s.sec.regions.flatMap regionBytes))

/-! ### Security Send and Receive (R258) -/

/-- SECURITY_SEND: protocol 0x01 carries a key injection of the sending function under the rules of Key Slot Inject, protocol
0x00 takes no data. A refusal is Access Denied, since the spec leaves the SSC's own statuses to TCG (log entry 73). Protocol 0x01 on
KZ-SL4096-A1N is Invalid Field (Table 22.9). -/
def execSecuritySend (a : AdmHdr) (protocol spsp nsid tag key : Nat) (wrapOk : Bool) (s : State) : Host.Outcome State Fault Refusal :=
  .next (adminServe s a false false fun s =>
    if 1 < protocol || (protocol = 1 && s.sec.cryptoDisable) then adminDone s a .invalidField 0 []
    else if protocol = 0 || spsp = 1 then adminDone s a .success 0 []
    else match nsOf s nsid with
      | none => adminDone s a .accessDenied 0 []
      | some ns => match injectRefusal s ns a.fn tag wrapOk false with
        | some _ => adminDone s a .accessDenied 0 []
        | none => adminDone (putKey s ns a.fn tag key) a .success 0 [])

/-- SECURITY_RECEIVE: the data is another standard's, so its bytes are free values. Protocol 0x01 on KZ-SL4096-A1N answers Level 0 Discovery
(Table 22.9), and is Invalid Field for another SPSP (DESIGN CHOICE, log entry 140). -/
def execSecurityReceive (a : AdmHdr) (protocol spsp : Nat) (s : State) : Host.Outcome State Fault Refusal :=
  .next (adminServe s a false false fun s =>
    if 1 < protocol || (protocol = 1 && s.sec.cryptoDisable && spsp ≠ 1) then adminDone s a .invalidField 0 []
    else adminDone (tickFree s) a .success 0 (Config.freeBytes s.free))

end Sys2Proof.Machine
end

