-- ==== Sys2Proof/Machine/Logs.lean ====
section
/-! DEFINITION. Get Log Page (R60, R131, R217, R410, R414) and Identify (R100, R207, R210, R214, R218, R335, Tables 02.4, 09.9). The
spec gives what the fields hold; their places are the NVMe standard's (PRESUMED, log entry 74), and the bytes of a structure
that the spec gives no value are free values. -/

namespace Sys2Proof.Machine

/-! ### Structures of stated fields over free bytes -/

/-- Write bytes at an offset. -/
def overlay (b : List Byte) (f : Nat × List Byte) : List Byte := b.take f.1 ++ f.2 ++ b.drop (f.1 + f.2.length)

/-- A structure of `n` bytes: free bytes (number `k` of the step) with the stated fields, by offset, over them. -/
def struct (s : State) (k n : Nat) (fields : List (Nat × List Byte)) : List Byte :=
  fields.foldl overlay (padTo n (Config.freeBytes (s.free * 2 ^ 64 + k)))

/-- A structure whose other bytes are zero. -/
def plain (n : Nat) (fields : List (Nat × List Byte)) : List Byte := fields.foldl overlay (zeros n)

/-! ### Log pages -/

/-- Error Information (0x01): the newest 64 errors of the function, SQID at byte 8 and CID at byte 10 of each entry. -/
def errorLogBytes (s : State) (fn : Nat) : List Byte :=
  let es := (fnOf s fn).errorLog
  (List.range 64).flatMap fun i => match es[i]? with
    | some e => struct s i 64 [(8, leBytes 2 e.1), (10, leBytes 2 e.2.1)]
    | none => zeros 64

/-- SMART / Health Information (0x02; R131, R335, R409, Table 09.6): Critical Warning, Composite Temperature, Available Spare and its
threshold, Percentage Used, power cycles, power-on hours, unsafe shutdowns, Temperature Sensors 1 to 8. -/
def smartBytes (s : State) : List Byte :=
  struct s 0 512
    [(0, leBytes 1 s.host.criticalWarning.toNat), (1, leBytes 2 (topTj s + 273).toNat),
     (3, leBytes 1 (vecGet 100 s.host.smart 1)), (4, leBytes 1 (vecGet 10 s.host.smart 2)),
     (5, leBytes 1 (vecGet 0 s.host.smart 0)), (112, leBytes 16 s.tm.powerCycles), (128, leBytes 16 (s.tm.opSeconds / 3600)),
     (144, leBytes 16 s.eav.unsafeShutdowns),
     (200, (List.range 8).flatMap fun n => leBytes 2 (diodeReads s n + 273).toNat)]

/-- VERSION of a stored Ixene image; zero where there is none. -/
def slotVersion (c : Option ImageCopy) : List Byte := leBytes 8 ((c.map (·.hdr.version)).getD 0)

/-- Firmware Slot Information (0x03, R414): slot 1 is copy A and runs. -/
def firmwareLogBytes (s : State) : List Byte :=
  struct s 0 512 [(8, slotVersion (tblFind? 2 s.sec.copyA)), (16, slotVersion (tblFind? 2 s.sec.copyB))]

/-- Data area 1 of a telemetry page (R410): Fault Snapshot, Island State Report, Supply Report; none for a VF, which reads for its
own controller only (R217). -/
def telemetryArea1 (s : State) (fn : Nat) : List Byte :=
  if fn = 0 then snapshotBytes (takeSnapshot s) ++ islandBytes s ++ supplyBytes s else []

/-- Data area 2: the newest 1,024 records; a VF's own (R217). -/
def telemetryArea2 (s : State) (fn : Nat) : List Byte :=
  let rs := (allRecords s).filter fun r => fn = 0 || (r.srcKind == 2 && r.srcNum == fn)
  (rs.drop (rs.length - 1024)).flatMap recordBytes64

/-- Number of 512-byte blocks that bytes fill. -/
def blocksOf (b : List Byte) : Nat := ceilDiv b.length 512

/-- Telemetry Host-Initiated (0x07) and Controller-Initiated (0x08). -/
def telemetryBytes (s : State) (fn lid : Nat) : List Byte :=
  let a := telemetryArea1 s fn
  let b := telemetryArea2 s fn
  struct s 0 512
    [(0, leBytes 1 lid), (8, leBytes 2 (blocksOf a)), (10, leBytes 2 (blocksOf a + blocksOf b)), (12, leBytes 2 (blocksOf a + blocksOf b)),
     (382, leBytes 1 (if s.tel.controllerDataAvailable then 1 else 0))] ++
    padTo (512 * blocksOf a) a ++ padTo (512 * blocksOf b) b

/-- Sanitize Status (0x81, R263). -/
def sanitizeBytes (s : State) : List Byte :=
  let progress := if s.sec.sanitizing then fresh s 1 % 65535 else 65535
  struct s 0 512 [(0, leBytes 2 progress), (2, leBytes 1 s.sec.sanitizeState)]

/-- Changed Zone List (0xBF, R60): zones of namespaces attached to the function. -/
def changedZonesOf (s : State) (fn nsid : Nat) : List Nat :=
  match nsOf s nsid with
  | some ns => if attachedTo ns fn then ((fnOf s fn).changedZones.filter (·.1 == nsid)).map (·.2) else []
  | none => []

/-- The list as bytes: the count, then the first LBA of each zone. -/
def changedZoneBytes (s : State) (fn nsid : Nat) : List Byte :=
  let zs := changedZonesOf s fn nsid
  let lba (z : Nat) : Nat := z * zoneUnits / (match nsOf s nsid with
    | some ns => lbaUnits ns
    | none => 1)
  padTo 4096 (leBytes 2 (if 511 < zs.length then 65535 else zs.length) ++ zeros 6 ++ ((zs.take 511).flatMap fun z => leBytes 8 (lba z)))

/-- Changed Namespace List (0x04): the NSIDs changed since the page was last read, rising, zeros after them. -/
def changedNsBytes (s : State) (fn : Nat) : List Byte :=
  padTo 4096 ((((List.range 1025).filter fun n => (fnOf s fn).changedNs.contains n).take 1024).flatMap (leBytes 4))

/-- Admin opcodes of Table 09.7 that a function supports: Namespace Management and Attachment, firmware, Virtualization Management,
NVMe-MI, Format NVM and Sanitize are the PF's. -/
def adminOpcodes (fn : Nat) : List Nat :=
  [0x00, 0x01, 0x02, 0x04, 0x05, 0x06, 0x08, 0x09, 0x0A, 0x0C, 0x81, 0x82, 0xC0, 0xC1, 0xC2, 0xC3] ++
    (if fn = 0 then [0x0D, 0x10, 0x11, 0x15, 0x1C, 0x1D, 0x1E, 0x80, 0x84] else [])

/-- I/O opcodes of R214: Flush, Write, Read, Write Zeroes, Dataset Management, Copy, Zone Management Send and Receive, Zone Append. -/
def ioOpcodes : List Nat := [0x00, 0x01, 0x02, 0x08, 0x09, 0x19, 0x79, 0x7A, 0x7D]

/-- Commands Supported and Effects (0x05): 256 entries for the admin and 256 for the I/O opcodes, bit 0 (CSUPP) of a supported
one; the spec gives no value for the effects, which are free values. -/
def commandsBytes (s : State) (fn : Nat) : List Byte :=
  let entry (k : Nat) (l : List Nat) (op : Nat) : List Byte :=
    if l.contains op then leBytes 4 (setBits (fresh s (k + op) % 2 ^ 32) 0 1 1) else zeros 4
  padTo 4096 ((List.range 256).flatMap (entry 0 (adminOpcodes fn)) ++ (List.range 256).flatMap (entry 256 ioOpcodes))

/-- Zone Backing entry of a zone (Table 02.12). -/
def backingEntry (s : State) (nsid zi : Nat) : List Byte :=
  let z := zone s nsid zi
  let life := lifetime z
  let promised := (nsOf s nsid).any fun ns => decide (promisedCap s ns < z.cap)
  match zoneThatch s z with
  | none => leBytes 1 (substate s z) ++ leBytes 1 0 ++ leBytes 2 0xFFFF ++ leBytes 2 0xFFFF ++ zeros 4 ++
      leBytes 1 (if promised then 8 else 0) ++ leBytes 1 life ++ zeros 4
  | some t =>
    let narrow := decide (capUnits s.prof t.width < z.cap)
    let around := t.members.any fun m => !memberUp s m
    let flags := (if narrow then 1 else 0) + (if z.underlay then 2 else 0) + (if around then 4 else 0) + (if promised then 8 else 0)
    leBytes 1 (substate s z) ++ leBytes 1 t.width ++ leBytes 2 t.bay ++ leBytes 2 t.set ++ leBytes 2 (programmedCourses t) ++
      leBytes 2 t.settled ++ leBytes 1 flags ++ leBytes 1 life ++ zeros 4

/-- Zone Backing from an offset (R60): the entries that `n` bytes take. -/
def backingBytes (s : State) (ns : NsSt) (offset n : Nat) : List Byte :=
  let first := offset / 16
  let count := if ns.zoned then min (nsZones ns - first) (ceilDiv n 16) else 0
  (((List.range count).map (· + first)).flatMap fun zi => backingEntry s ns.nsid zi).take n

/-- Contents of a log page other than Zone Backing; none for a page the SL4096 does not report. -/
def logBytes (s : State) (fn lid nsid : Nat) : Option (List Byte) :=
  if lid = 0x01 then some (errorLogBytes s fn)
  else if lid = 0x02 then some (smartBytes s)
  else if lid = 0x03 then some (firmwareLogBytes s)
  else if lid = 0x04 then some (changedNsBytes s fn)
  else if lid = 0x05 then some (commandsBytes s fn)
  else if lid = 0x07 || lid = 0x08 then some (telemetryBytes s fn lid)
  else if lid = 0x81 then some (sanitizeBytes s)
  else if lid = 0xBF then some (changedZoneBytes s fn nsid)
  else if lid = 0xC3 then some (counterBytes s fn)
  else if lid = 0xC4 then some (meterBytes s fn)
  else none

/-- Asynchronous event type whose mask reading a log page lifts (the standard's, PRESUMED, log entry 74). -/
def unmaskedBy (lid : Nat) : Option Nat :=
  if lid = 0x01 then some 0 else if lid = 0x02 then some 1 else if lid = 0x03 || lid = 0x04 || lid = 0xBF then some 2 else none

/-- What reading a page changes: the Changed Zone List, the Changed Namespace List and Controller-Initiated Data Available clear, and events of its type may be
posted again. -/
def logRead (s : State) (fn lid nsid : Nat) : State :=
  let s := tickFree s
  let s := if lid = 0xBF then updFn s fn fun x => { x with changedZones := x.changedZones.filter (·.1 != nsid) } else s
  let s := if lid = 0x04 then updFn s fn fun x => { x with changedNs := [] } else s
  let s := if lid = 0x08 && fn = 0 then { s with tel := { s.tel with controllerDataAvailable := false } } else s
  let s := if (lid = 0x07 || lid = 0x08) && fn = 0 then takeSnapshot s else s
  match unmaskedBy lid with
  | some t => pumpAer (updFn s fn fun x => { x with aerMasked := x.aerMasked.filter (· != t) }) fn
  | none => s

/-- GET_LOG_PAGE (R60, R217): the bytes from the offset on; an unknown page is Invalid Log Page (the standard's, log entry 74). -/
def execGetLogPage (a : AdmHdr) (lid nsid offset dwords : Nat) (s : State) : Host.Outcome State Fault Refusal :=
  .next (adminServe s a false true fun s =>
    if lid = 0xC2 then
      match nsOf s nsid with
      | none => adminDone s a .invalidNamespace 0 []
      | some ns =>
        if a.fn ≠ 0 && !attachedTo ns a.fn then adminDone s a .invalidNamespace 0 []
        else if offset % 16 ≠ 0 then adminDone s a .invalidField 0 []
        else adminDone s a .success 0 (backingBytes s ns offset (4 * dwords))
    else match logBytes s a.fn lid nsid with
      | none => adminDone s a .invalidLogPage 0 []
      | some b => logRead (adminDone s a .success 0 ((b.drop offset).take (4 * dwords))) a.fn lid nsid)

/-! ### Identify -/

/-- The namespaces a controller sees: none in the restricted phase (R393). -/
def seenNs (s : State) (fn : Nat) (allocated : Bool) : List NsSt :=
  if s.boot.phase = 7 then [] else s.zns.namespaces.filter fun ns => allocated || attachedTo ns fn

/-- SANICAP (R263): Block Erase, and Crypto Erase except on KZ-SL4096-A1N; no Overwrite. -/
def sanicap (s : State) : Nat := if s.sec.cryptoDisable then 2 else 3

/-- Identify Controller. FRMW: two slots, slot 1 writable, activation without reset (chapter 20). OACS and ONCS name the commands of
Table 09.7 and R214. SGLS: SGLs without Keyed (bit 2) and Bit Bucket (bit 16) descriptors (R218). The power states are those of feature 0x02. -/
def controllerBytes (s : State) (fn : Nat) : List Byte :=
  struct s 0 4096
    [(0, leBytes 2 0x1F6B), (2, leBytes 2 s.prof.subsysVendor), (77, leBytes 1 11), (78, leBytes 2 (fn + 1)),
     (92, leBytes 4 (setBits (setBits (fresh s 2 % 2 ^ 32) 9 1 1) 27 1 1)), (96, leBytes 4 (setBits (fresh s 1 % 2 ^ 32) 19 1 0)),
     (128, leBytes 2 1 ++ leBytes 2 10 ++ leBytes 2 100), (256, leBytes 2 0xCF), (259, leBytes 1 7), (260, leBytes 1 0x14),
     (262, leBytes 1 63), (263, leBytes 1 1), (265, leBytes 1 0), (266, leBytes 2 368 ++ leBytes 2 388 ++ leBytes 2 1),
     (328, leBytes 1 (sanicap s)), (516, leBytes 4 1024), (520, leBytes 2 0x14C), (525, leBytes 1 0), (528, leBytes 2 2047), (534, leBytes 2 3),
     (536, leBytes 4 (setBits (setBits (setBits (fresh s 3 % 2 ^ 32) 0 2 1) 2 1 0) 16 1 0)),
     (2048, leBytes 2 2600), (2080, leBytes 2 90), (2083, leBytes 1 2), (2088, leBytes 4 4000)]

/-- LBA formats of Table 09.9: metadata bytes and the exponent of the data bytes. -/
def lbaFormats : List (Nat × Nat) := [(0, 12), (8, 12), (64, 12), (0, 14), (8, 14), (64, 14)]

/-- DPS of a namespace: the type of its protection information, which takes the last bytes of the metadata (R218). -/
def dpsOf (ns : NsSt) : Nat :=
  match ns.prot with
  | .none => 0
  | .guard16 t => t
  | .guard64 t => t

/-- Identify Namespace: NSZE, the six formats, the format in use, MC, DPC, DPS, NMIC, NAWUPF, and the Copy limits of Table 02.4 (R36, R199,
R218). -/
def namespaceBytes (s : State) (ns : NsSt) : List Byte :=
  struct s 0 4096
    ([(0, leBytes 8 ns.nsze), (25, leBytes 1 5), (26, leBytes 1 (setBits (setBits (fresh s 1 % 256) 0 4 ns.lbaf) 4 1 (if ns.extended then 1 else 0))),
      (27, leBytes 1 3), (28, leBytes 1 0x17), (29, leBytes 1 (dpsOf ns)),
      (74, leBytes 2 32768), (76, leBytes 4 32768), (80, leBytes 1 127),
      (36, leBytes 2 (if 3 ≤ ns.lbaf then 511 else 2047)),
      (128, lbaFormats.flatMap fun f => leBytes 2 f.1 ++ leBytes 1 f.2 ++ leBytes 1 (fresh s 3 % 4))] ++
     (if ns.zoned then [(30, leBytes 1 (setBits (fresh s 2 % 256) 0 1 0))] else []))

/-- Identify Namespace of the Zoned Namespace Command Set (Table 02.4): ZOC, OZCS, MAR, MOR, RRL, FRL, and ZSZE and the extension size of
each format. -/
def zonedBytes (s : State) (ns : NsSt) : List Byte :=
  let l := limitsOf s (ns.attached.headD 0)
  struct s 0 4096
    [(0, leBytes 2 1 ++ leBytes 2 1 ++ leBytes 4 (l.1 + 2 ^ 32 - 1) ++ leBytes 4 (l.2 + 2 ^ 32 - 1) ++ leBytes 4 0 ++ leBytes 4 0),
     (2816, lbaFormats.flatMap fun f => leBytes 8 (if f.2 = 12 then 524288 else 131072) ++ leBytes 1 1 ++ zeros 7)]

/-- A list of numbers of `w` bytes, after the count where there is one, in 4,096 bytes. -/
def idList (w : Nat) (count : Bool) (l : List Nat) : List Byte :=
  padTo 4096 ((if count then leBytes 2 l.length else []) ++ l.flatMap (leBytes w))

/-- NSIDs above the one named, of the namespaces that meet a test, rising. -/
def nsidsAbove (l : List NsSt) (nsid : Nat) (p : NsSt → Bool) : List Nat :=
  (((List.range 1024).map (· + 1)).filter fun n => decide (nsid < n) && l.any fun ns => ns.nsid == n && p ns).take 1024

/-- Controller IDs of a subsystem's functions or of those a namespace is attached to (R207). -/
def controllerIds (s : State) (p : Nat → Bool) : List Nat := ((List.range (s.prof.totalVfs + 1)).filter p).map (· + 1)

/-- Primary Controller Capabilities (R210): queue resources only, at most 128 for one VF; the flexible interrupt pool is empty. -/
def primaryCaps (s : State) : List Byte :=
  let given := sumNat ((List.range 255).map fun i => queuesOf s (i + 1))
  struct s 0 4096
    [(0, leBytes 2 1), (4, leBytes 1 1), (32, leBytes 4 16256), (36, leBytes 4 given), (42, leBytes 2 128), (44, leBytes 2 128), (64, leBytes 4 0)]

/-- Secondary Controller List (R210): one 32-byte entry for each VF of TOTAL_VFS from the controller ID named on. -/
def secondaryList (s : State) (cntlid : Nat) : List Byte :=
  let vs := ((List.range s.prof.totalVfs).map (· + 1)).filter fun f => decide (cntlid ≤ f + 1)
  let vs := vs.take 127
  padTo 4096 (leBytes 1 vs.length ++ zeros 31 ++ (vs.flatMap fun f =>
    plain 32 [(0, leBytes 2 (f + 1)), (2, leBytes 2 1), (4, leBytes 1 (if (fnOf s f).online then 1 else 0)), (8, leBytes 2 f),
      (10, leBytes 2 (queuesOf s f)), (12, leBytes 2 64)]))

/-- A namespace structure: for a namespace the controller sees, zeros for a valid NSID it does not see, none for an invalid one. -/
def nsStruct (l : List NsSt) (nsid : Nat) (g : NsSt → List Byte) : Except NvmeStatus (List Byte) :=
  match l.find? (·.nsid == nsid) with
  | some ns => .ok (g ns)
  | none => if nsid = 0 || decide (1024 < nsid) then .error .invalidNamespace else .ok (zeros 4096)

/-- The structure of a CNS value (Table 09.7). -/
def identifyBytes (s : State) (fn cns csi nsid cntid : Nat) : Except NvmeStatus (List Byte) :=
  let seen := seenNs s fn false
  let all := seenNs s fn true
  let zoned (ns : NsSt) : Bool := ns.zoned
  if cns = 0x00 then nsStruct seen nsid (namespaceBytes s)
  else if cns = 0x01 then .ok (controllerBytes s fn)
  else if cns = 0x02 then .ok (idList 4 false (nsidsAbove seen nsid fun _ => true))
  else if cns = 0x03 then nsStruct seen nsid fun _ => struct s 0 4096 []
  else if cns = 0x05 then nsStruct seen nsid fun ns => if csi = 2 && ns.zoned then zonedBytes s ns else struct s 0 4096 []
  else if cns = 0x06 then .ok (if csi = 2 then struct s 0 4096 [(0, leBytes 1 0)] else struct s 0 4096 [])
  else if cns = 0x07 then .ok (idList 4 false (nsidsAbove seen nsid fun ns => zoned ns == (csi == 2)))
  else if cns = 0x08 then nsStruct seen nsid fun ns =>
    struct s 0 4096 (if ns.zoned then [(1, leBytes 1 (setBits (fresh s 1 % 256) 0 1 0))] else [])
  else if cns = 0x10 then .ok (idList 4 false (nsidsAbove all nsid fun _ => true))
  else if cns = 0x11 then nsStruct all nsid (namespaceBytes s)
  else if cns = 0x12 then .ok (idList 2 true (controllerIds s fun f => decide (cntid ≤ f + 1) && all.any fun ns => ns.nsid == nsid && attachedTo ns f))
  else if cns = 0x13 then .ok (idList 2 true (controllerIds s fun f => decide (cntid ≤ f + 1)))
  else if cns = 0x14 then .ok (primaryCaps s)
  else if cns = 0x15 then .ok (secondaryList s cntid)
  else if cns = 0x1C then .ok (padTo 4096 (leBytes 8 5))
  else .error .invalidField

/-- IDENTIFY (R214): any other CNS is Invalid Field. -/
def execIdentify (a : AdmHdr) (cns csi nsid cntid : Nat) (s : State) : Host.Outcome State Fault Refusal :=
  .next (adminServe s a false true fun s =>
    match identifyBytes s a.fn cns csi nsid cntid with
    | .ok b => adminDone (tickFree s) a .success 0 b
    | .error e => adminDone s a e 0 [])

end Sys2Proof.Machine
end

