-- ==== Sys2Proof/Machine/Dispatch.lean ====
section
/-! DEFINITION. One arm per command: a direct call of its meaning. -/

namespace Sys2Proof.Machine

def exec (i : Instr) (s : State) : Host.Outcome State Fault Refusal :=
  match i with
  | .sqTailDoorbell x0 x1 x2 => Sys2Proof.Machine.execSqTailDoorbell x0 x1 x2 s
  | .cqHeadDoorbell x0 x1 x2 => Sys2Proof.Machine.execCqHeadDoorbell x0 x1 x2 s
  | .read x0 x1 x2 => Sys2Proof.Machine.execRead x0 x1 x2 s
  | .write x0 x1 x2 => Sys2Proof.Machine.execWrite x0 x1 x2 s
  | .zoneAppend x0 x1 x2 => Sys2Proof.Machine.execZoneAppend x0 x1 x2 s
  | .writeZeroes x0 x1 x2 => Sys2Proof.Machine.execWriteZeroes x0 x1 x2 s
  | .flush x0 => Sys2Proof.Machine.execFlush x0 s
  | .datasetManagementDeallocate x0 x1 => Sys2Proof.Machine.execDatasetManagementDeallocate x0 x1 s
  | .copy x0 x1 x2 => Sys2Proof.Machine.execCopy x0 x1 x2 s
  | .zoneOpen x0 x1 x2 => Sys2Proof.Machine.execZoneOpen x0 x1 x2 s
  | .zoneClose x0 x1 x2 => Sys2Proof.Machine.execZoneClose x0 x1 x2 s
  | .zoneFinish x0 x1 x2 => Sys2Proof.Machine.execZoneFinish x0 x1 x2 s
  | .zoneReset x0 x1 x2 => Sys2Proof.Machine.execZoneReset x0 x1 x2 s
  | .zoneOffline x0 x1 x2 => Sys2Proof.Machine.execZoneOffline x0 x1 x2 s
  | .setZoneDescriptorExtension x0 x1 x2 => Sys2Proof.Machine.execSetZoneDescriptorExtension x0 x1 x2 s
  | .reportZones x0 x1 x2 x3 => Sys2Proof.Machine.execReportZones x0 x1 x2 x3 s
  | .extendedReportZones x0 x1 x2 x3 => Sys2Proof.Machine.execExtendedReportZones x0 x1 x2 x3 s
  | .invalidIoOpcode x0 x1 => Sys2Proof.Machine.execInvalidIoOpcode x0 x1 s
  | .thatchBindingDone x0 x1 => Sys2Proof.Machine.execThatchBindingDone x0 x1 s
  | .heldCommandReevaluation x0 x1 x2 => Sys2Proof.Machine.execHeldCommandReevaluation x0 x1 x2 s
  | .holdEndExpiry x0 x1 x2 => Sys2Proof.Machine.execHoldEndExpiry x0 x1 x2 s
  | .slackEpochEnd => Sys2Proof.Machine.execSlackEpochEnd s
  | .calendarEntryEnd x0 x1 => Sys2Proof.Machine.execCalendarEntryEnd x0 x1 s
  | .eavesCopyWritten x0 x1 x2 x3 x4 => Sys2Proof.Machine.execEavesCopyWritten x0 x1 x2 x3 x4 s
  | .programPassBooking x0 x1 => Sys2Proof.Machine.execProgramPassBooking x0 x1 s
  | .descriptorIssue x0 x1 x2 => Sys2Proof.Machine.execDescriptorIssue x0 x1 x2 s
  | .descriptorCompletion x0 x1 x2 => Sys2Proof.Machine.execDescriptorCompletion x0 x1 x2 s
  | .suspendWindowStart x0 x1 x2 => Sys2Proof.Machine.execSuspendWindowStart x0 x1 x2 s
  | .suspendWindowEnd x0 x1 x2 => Sys2Proof.Machine.execSuspendWindowEnd x0 x1 x2 s
  | .dieOverrun x0 x1 => Sys2Proof.Machine.execDieOverrun x0 x1 s
  | .dieTimeout x0 x1 x2 => Sys2Proof.Machine.execDieTimeout x0 x1 x2 s
  | .tokenGuardTimeout x0 x1 => Sys2Proof.Machine.execTokenGuardTimeout x0 x1 s
  | .deadlineReached x0 x1 x2 => Sys2Proof.Machine.execDeadlineReached x0 x1 x2 s
  | .recoveryPass x0 x1 x2 => Sys2Proof.Machine.execRecoveryPass x0 x1 x2 s
  | .backgroundWorkDecision => Sys2Proof.Machine.execBackgroundWorkDecision s
  | .retentionAgeRefresh x0 => Sys2Proof.Machine.execRetentionAgeRefresh x0 s
  | .refreshRetryHourly x0 => Sys2Proof.Machine.execRefreshRetryHourly x0 s
  | .hitsHalving => Sys2Proof.Machine.execHitsHalving s
  | .retentionSample x0 x1 => Sys2Proof.Machine.execRetentionSample x0 x1 s
  | .underlayMove x0 x1 => Sys2Proof.Machine.execUnderlayMove x0 x1 s
  | .journalCheckpoint => Sys2Proof.Machine.execJournalCheckpoint s
  | .smartUpdate => Sys2Proof.Machine.execSmartUpdate s
  | .packageRecalibration x0 x1 => Sys2Proof.Machine.execPackageRecalibration x0 x1 s
  | .packageRecalDone x0 x1 x2 => Sys2Proof.Machine.execPackageRecalDone x0 x1 x2 s
  | .channelDrain x0 => Sys2Proof.Machine.execChannelDrain x0 s
  | .channelDrainComplete x0 => Sys2Proof.Machine.execChannelDrainComplete x0 s
  | .channelDrainTimeout x0 => Sys2Proof.Machine.execChannelDrainTimeout x0 s
  | .channelBringup x0 x1 x2 => Sys2Proof.Machine.execChannelBringup x0 x1 x2 s
  | .channelRbWaitEnd x0 x1 => Sys2Proof.Machine.execChannelRbWaitEnd x0 x1 s
  | .packageTempPoll x0 => Sys2Proof.Machine.execPackageTempPoll x0 s
  | .islandStateRequest x0 x1 => Sys2Proof.Machine.execIslandStateRequest x0 x1 s
  | .islandReportsRunning x0 => Sys2Proof.Machine.execIslandReportsRunning x0 s
  | .handshakeStall x0 x1 => Sys2Proof.Machine.execHandshakeStall x0 x1 s
  | .handshakeStallSevere x0 x1 => Sys2Proof.Machine.execHandshakeStallSevere x0 x1 s
  | .capacityRecompute => Sys2Proof.Machine.execCapacityRecompute s
  | .contractChargeRecompute x0 => Sys2Proof.Machine.execContractChargeRecompute x0 s
  | .promisedWidthRecompute x0 => Sys2Proof.Machine.execPromisedWidthRecompute x0 s
  | .eavesEffectiveRecompute => Sys2Proof.Machine.execEavesEffectiveRecompute s
  | .flashPowerCapacityRecompute => Sys2Proof.Machine.execFlashPowerCapacityRecompute s
  | .linkChange x0 x1 => Sys2Proof.Machine.execLinkChange x0 x1 s
  | .powerLossDetected => Sys2Proof.Machine.execPowerLossDetected s
  | .storeLow x0 => Sys2Proof.Machine.execStoreLow x0 s
  | .dumpComplete => Sys2Proof.Machine.execDumpComplete s
  | .brownoutReturn => Sys2Proof.Machine.execBrownoutReturn s
  | .gutterReplay => Sys2Proof.Machine.execGutterReplay s
  | .aonPowerOnReset x0 x1 x2 x3 => Sys2Proof.Machine.execAonPowerOnReset x0 x1 x2 x3 s
  | .powerUpRetry x0 x1 => Sys2Proof.Machine.execPowerUpRetry x0 x1 s
  | .startup x0 => Sys2Proof.Machine.execStartup x0 s
  | .tripRestartRelease => Sys2Proof.Machine.execTripRestartRelease s
  | .deviceRestart x0 => Sys2Proof.Machine.execDeviceRestart x0 s
  | .railOutOfRange x0 x1 => Sys2Proof.Machine.execRailOutOfRange x0 x1 s
  | .railExcursion x0 x1 x2 => Sys2Proof.Machine.execRailExcursion x0 x1 x2 s
  | .pwrdis x0 => Sys2Proof.Machine.execPwrdis x0 s
  | .storeConversion x0 x1 => Sys2Proof.Machine.execStoreConversion x0 x1 s
  | .chargeTimeout => Sys2Proof.Machine.execChargeTimeout s
  | .holdupAuditDue => Sys2Proof.Machine.execHoldupAuditDue s
  | .auditLoadConnect x0 => Sys2Proof.Machine.execAuditLoadConnect x0 s
  | .auditMeasurementEnd x0 x1 x2 => Sys2Proof.Machine.execAuditMeasurementEnd x0 x1 x2 s
  | .pmicPoll x0 => Sys2Proof.Machine.execPmicPoll x0 s
  | .pmicAlert x0 => Sys2Proof.Machine.execPmicAlert x0 s
  | .aonCrystalLoss => Sys2Proof.Machine.execAonCrystalLoss s
  | .aonCrystalRestored => Sys2Proof.Machine.execAonCrystalRestored s
  | .pllLossOfLock x0 => Sys2Proof.Machine.execPllLossOfLock x0 s
  | .referenceClockLost => Sys2Proof.Machine.execReferenceClockLost s
  | .sensorConversion x0 => Sys2Proof.Machine.execSensorConversion x0 s
  | .thermalStepExit => Sys2Proof.Machine.execThermalStepExit s
  | .tripDumpTimeout => Sys2Proof.Machine.execTripDumpTimeout s
  | .remoteDiodeConversion x0 => Sys2Proof.Machine.execRemoteDiodeConversion x0 s
  | .faultSourceEvent x0 x1 => Sys2Proof.Machine.execFaultSourceEvent x0 x1 s
  | .coreWatchdogExpiry x0 => Sys2Proof.Machine.execCoreWatchdogExpiry x0 s
  | .coreSelfTestDone x0 x1 => Sys2Proof.Machine.execCoreSelfTestDone x0 x1 s
  | .aliveToggle => Sys2Proof.Machine.execAliveToggle s
  | .aliveKickTimeout => Sys2Proof.Machine.execAliveKickTimeout s
  | .aliveKick x0 x1 => Sys2Proof.Machine.execAliveKick x0 x1 s
  | .coreKick x0 x1 => Sys2Proof.Machine.execCoreKick x0 x1 s
  | .faultSnap x0 => Sys2Proof.Machine.execFaultSnap x0 s
  | .dramTempPoll x0 x1 => Sys2Proof.Machine.execDramTempPoll x0 x1 s
  | .dramRefresh x0 x1 x2 => Sys2Proof.Machine.execDramRefresh x0 x1 x2 s
  | .dramDriftTrack x0 x1 x2 x3 => Sys2Proof.Machine.execDramDriftTrack x0 x1 x2 x3 s
  | .dramPanicEntry x0 => Sys2Proof.Machine.execDramPanicEntry x0 s
  | .dramPanicExit x0 => Sys2Proof.Machine.execDramPanicExit x0 s
  | .dramPanicLong x0 => Sys2Proof.Machine.execDramPanicLong x0 s
  | .dramRfm x0 x1 x2 => Sys2Proof.Machine.execDramRfm x0 x1 x2 s
  | .rowActThrottle x0 x1 x2 x3 x4 x5 => Sys2Proof.Machine.execRowActThrottle x0 x1 x2 x3 x4 x5 s
  | .loftFrameReplicate x0 x1 => Sys2Proof.Machine.execLoftFrameReplicate x0 x1 s
  | .rowWindowEnd x0 => Sys2Proof.Machine.execRowWindowEnd x0 s
  | .mergeWriteback x0 x1 x2 => Sys2Proof.Machine.execMergeWriteback x0 x1 x2 s
  | .scrubRead x0 x1 x2 => Sys2Proof.Machine.execScrubRead x0 x1 x2 s
  | .softPpr x0 x1 x2 x3 x4 => Sys2Proof.Machine.execSoftPpr x0 x1 x2 x3 x4 s
  | .rankMigration x0 x1 => Sys2Proof.Machine.execRankMigration x0 x1 s
  | .rankMigrationSwap x0 x1 => Sys2Proof.Machine.execRankMigrationSwap x0 x1 s
  | .dramResilver x0 => Sys2Proof.Machine.execDramResilver x0 s
  | .dramResilverComplete x0 => Sys2Proof.Machine.execDramResilverComplete x0 s
  | .speedLoopStep => Sys2Proof.Machine.execSpeedLoopStep s
  | .currentLoopPeriod x0 x1 x2 => Sys2Proof.Machine.execCurrentLoopPeriod x0 x1 x2 s
  | .driverFault => Sys2Proof.Machine.execDriverFault s
  | .driverFaultRetry => Sys2Proof.Machine.execDriverFaultRetry s
  | .catchSpinEnd x0 x1 => Sys2Proof.Machine.execCatchSpinEnd x0 x1 s
  | .alignEnd => Sys2Proof.Machine.execAlignEnd s
  | .blowerStall x0 => Sys2Proof.Machine.execBlowerStall x0 s
  | .stallRestart => Sys2Proof.Machine.execStallRestart s
  | .blowerOffTimer => Sys2Proof.Machine.execBlowerOffTimer s
  | .busClampOn x0 => Sys2Proof.Machine.execBusClampOn x0 s
  | .clampFault x0 => Sys2Proof.Machine.execClampFault x0 s
  | .busOvervoltage x0 => Sys2Proof.Machine.execBusOvervoltage x0 s
  | .battenedEntryComplete => Sys2Proof.Machine.execBattenedEntryComplete s
  | .battenedEntryAbandon => Sys2Proof.Machine.execBattenedEntryAbandon s
  | .battenedWake x0 => Sys2Proof.Machine.execBattenedWake x0 s
  | .battenedWakeEnd => Sys2Proof.Machine.execBattenedWakeEnd s
  | .recordPageProgram x0 => Sys2Proof.Machine.execRecordPageProgram x0 s
  | .svnFloorRaise x0 => Sys2Proof.Machine.execSvnFloorRaise x0 s
  | .keyRolloverEnd x0 => Sys2Proof.Machine.execKeyRolloverEnd x0 s
  | .operationHandleExpiry x0 x1 => Sys2Proof.Machine.execOperationHandleExpiry x0 x1 s
  | .perstNDeassert x0 x1 => Sys2Proof.Machine.execPerstNDeassert x0 x1 s
  | .conventionalReset => Sys2Proof.Machine.execConventionalReset s
  | .pfFlr => Sys2Proof.Machine.execPfFlr s
  | .vfFlr x0 => Sys2Proof.Machine.execVfFlr x0 s
  | .vfEnable x0 => Sys2Proof.Machine.execVfEnable x0 s
  | .vfDisable => Sys2Proof.Machine.execVfDisable s
  | .ccEnable x0 => Sys2Proof.Machine.execCcEnable x0 s
  | .controllerReset x0 => Sys2Proof.Machine.execControllerReset x0 s
  | .controllerShutdown x0 => Sys2Proof.Machine.execControllerShutdown x0 s
  | .msixUnmask x0 x1 => Sys2Proof.Machine.execMsixUnmask x0 x1 s
  | .kwDevtimeLoRead x0 => Sys2Proof.Machine.execKwDevtimeLoRead x0 s
  | .registerWrite x0 x1 x2 x3 => Sys2Proof.Machine.execRegisterWrite x0 x1 x2 x3 s
  | .unsupportedBarAccess x0 x1 x2 x3 => Sys2Proof.Machine.execUnsupportedBarAccess x0 x1 x2 x3 s
  | .dormerCursorHiWrite x0 => Sys2Proof.Machine.execDormerCursorHiWrite x0 s
  | .dormerSnapshotDone => Sys2Proof.Machine.execDormerSnapshotDone s
  | .mailboxEnable x0 => Sys2Proof.Machine.execMailboxEnable x0 s
  | .mailboxDisable x0 => Sys2Proof.Machine.execMailboxDisable x0 s
  | .mailboxReqTailWrite x0 x1 => Sys2Proof.Machine.execMailboxReqTailWrite x0 x1 s
  | .mailboxRspHeadWrite x0 x1 => Sys2Proof.Machine.execMailboxRspHeadWrite x0 x1 s
  | .mailboxRequestTake x0 x1 x2 => Sys2Proof.Machine.execMailboxRequestTake x0 x1 x2 s
  | .mailboxResponsePost x0 x1 x2 x3 => Sys2Proof.Machine.execMailboxResponsePost x0 x1 x2 x3 s
  | .mctpMessage x0 x1 x2 x3 => Sys2Proof.Machine.execMctpMessage x0 x1 x2 x3 s
  | .hmpCancel x0 x1 x2 => Sys2Proof.Machine.execHmpCancel x0 x1 x2 s
  | .hmpPost x0 x1 x2 => Sys2Proof.Machine.execHmpPost x0 x1 x2 s
  | .hmpCollect x0 x1 x2 x3 => Sys2Proof.Machine.execHmpCollect x0 x1 x2 x3 s
  | .hmpCollectTimeout x0 x1 => Sys2Proof.Machine.execHmpCollectTimeout x0 x1 s
  | .hmpExchange x0 x1 x2 => Sys2Proof.Machine.execHmpExchange x0 x1 x2 s
  | .versionQuery x0 => Sys2Proof.Machine.execVersionQuery x0 s
  | .operationStatus x0 x1 => Sys2Proof.Machine.execOperationStatus x0 x1 s
  | .contractSet x0 x1 x2 x3 x4 x5 x6 x7 x8 x9 => Sys2Proof.Machine.execContractSet x0 x1 x2 x3 x4 x5 x6 x7 x8 x9 s
  | .contractDelete x0 x1 x2 x3 => Sys2Proof.Machine.execContractDelete x0 x1 x2 x3 s
  | .contractReport x0 x1 => Sys2Proof.Machine.execContractReport x0 x1 s
  | .bayCapacityReport x0 x1 x2 => Sys2Proof.Machine.execBayCapacityReport x0 x1 x2 s
  | .calendarSnapshot x0 x1 => Sys2Proof.Machine.execCalendarSnapshot x0 x1 s
  | .functionZoneLimits x0 x1 x2 x3 => Sys2Proof.Machine.execFunctionZoneLimits x0 x1 x2 x3 s
  | .baySetDefine x0 x1 x2 x3 x4 => Sys2Proof.Machine.execBaySetDefine x0 x1 x2 x3 x4 s
  | .baySetDelete x0 x1 => Sys2Proof.Machine.execBaySetDelete x0 x1 s
  | .badBlockReport x0 x1 x2 x3 => Sys2Proof.Machine.execBadBlockReport x0 x1 x2 x3 s
  | .mediaWearReport x0 x1 x2 => Sys2Proof.Machine.execMediaWearReport x0 x1 x2 s
  | .dieRetire x0 x1 => Sys2Proof.Machine.execDieRetire x0 x1 s
  | .channelRecalibrate x0 x1 x2 => Sys2Proof.Machine.execChannelRecalibrate x0 x1 x2 s
  | .channelMicrocodeLoad x0 x1 => Sys2Proof.Machine.execChannelMicrocodeLoad x0 x1 s
  | .channelMicrocodeTurn x0 x1 x2 => Sys2Proof.Machine.execChannelMicrocodeTurn x0 x1 x2 s
  | .dramRankRetrain x0 x1 x2 => Sys2Proof.Machine.execDramRankRetrain x0 x1 x2 s
  | .coreFailoverReturn x0 x1 => Sys2Proof.Machine.execCoreFailoverReturn x0 x1 s
  | .coreFailoverRetire x0 x1 => Sys2Proof.Machine.execCoreFailoverRetire x0 x1 s
  | .boardProfileRead x0 x1 x2 x3 => Sys2Proof.Machine.execBoardProfileRead x0 x1 x2 x3 s
  | .boardProfileUpdate x0 x1 x2 x3 => Sys2Proof.Machine.execBoardProfileUpdate x0 x1 x2 x3 s
  | .qFieldCommit x0 => Sys2Proof.Machine.execQFieldCommit x0 s
  | .islandStateReport x0 => Sys2Proof.Machine.execIslandStateReport x0 s
  | .keySlotInject x0 x1 x2 x3 x4 x5 x6 => Sys2Proof.Machine.execKeySlotInject x0 x1 x2 x3 x4 x5 x6 s
  | .keySlotClear x0 x1 x2 x3 => Sys2Proof.Machine.execKeySlotClear x0 x1 x2 x3 s
  | .establishKek x0 x1 x2 => Sys2Proof.Machine.execEstablishKek x0 x1 x2 s
  | .setKeyPerIo x0 x1 x2 => Sys2Proof.Machine.execSetKeyPerIo x0 x1 x2 s
  | .keyRollover x0 x1 => Sys2Proof.Machine.execKeyRollover x0 x1 s
  | .regionTableReport x0 => Sys2Proof.Machine.execRegionTableReport x0 s
  | .faultSnapshot x0 => Sys2Proof.Machine.execFaultSnapshot x0 s
  | .faultThresholdSet x0 x1 x2 x3 => Sys2Proof.Machine.execFaultThresholdSet x0 x1 x2 x3 s
  | .faultClear x0 x1 x2 => Sys2Proof.Machine.execFaultClear x0 x1 x2 s
  | .firstErrorReport x0 x1 => Sys2Proof.Machine.execFirstErrorReport x0 x1 s
  | .thermalReport x0 => Sys2Proof.Machine.execThermalReport x0 s
  | .coldStartWarmStart x0 => Sys2Proof.Machine.execColdStartWarmStart x0 s
  | .coldStartWarmStop x0 => Sys2Proof.Machine.execColdStartWarmStop x0 s
  | .blowerReport x0 => Sys2Proof.Machine.execBlowerReport x0 s
  | .blowerServiceStop x0 => Sys2Proof.Machine.execBlowerServiceStop x0 s
  | .blowerServiceResume x0 x1 x2 x3 => Sys2Proof.Machine.execBlowerServiceResume x0 x1 x2 x3 s
  | .supplyReport x0 => Sys2Proof.Machine.execSupplyReport x0 s
  | .holdupAudit x0 x1 => Sys2Proof.Machine.execHoldupAudit x0 x1 s
  | .eventRead x0 x1 x2 x3 x4 => Sys2Proof.Machine.execEventRead x0 x1 x2 x3 x4 s
  | .dormerPosition x0 x1 x2 => Sys2Proof.Machine.execDormerPosition x0 x1 x2 s
  | .energyMeterReport x0 x1 => Sys2Proof.Machine.execEnergyMeterReport x0 x1 s
  | .counterReport x0 x1 => Sys2Proof.Machine.execCounterReport x0 x1 s
  | .poolQuotaSet x0 x1 x2 => Sys2Proof.Machine.execPoolQuotaSet x0 x1 x2 s
  | .poolReport x0 => Sys2Proof.Machine.execPoolReport x0 s
  | .invalidHmpOpcode x0 x1 => Sys2Proof.Machine.execInvalidHmpOpcode x0 x1 s
  | .createIoCq x0 x1 x2 x3 x4 x5 => Sys2Proof.Machine.execCreateIoCq x0 x1 x2 x3 x4 x5 s
  | .createIoSq x0 x1 x2 x3 x4 => Sys2Proof.Machine.execCreateIoSq x0 x1 x2 x3 x4 s
  | .deleteIoSq x0 x1 => Sys2Proof.Machine.execDeleteIoSq x0 x1 s
  | .deleteIoCq x0 x1 => Sys2Proof.Machine.execDeleteIoCq x0 x1 s
  | .getLogPage x0 x1 x2 x3 x4 => Sys2Proof.Machine.execGetLogPage x0 x1 x2 x3 x4 s
  | .identify x0 x1 x2 x3 x4 => Sys2Proof.Machine.execIdentify x0 x1 x2 x3 x4 s
  | .abort x0 x1 x2 => Sys2Proof.Machine.execAbort x0 x1 x2 s
  | .asynchronousEventRequest x0 => Sys2Proof.Machine.execAsynchronousEventRequest x0 s
  | .setFeaturesArbitration x0 x1 => Sys2Proof.Machine.execSetFeaturesArbitration x0 x1 s
  | .setFeaturesPowerManagement x0 x1 => Sys2Proof.Machine.execSetFeaturesPowerManagement x0 x1 s
  | .setFeaturesTemperatureThreshold x0 x1 x2 x3 => Sys2Proof.Machine.execSetFeaturesTemperatureThreshold x0 x1 x2 x3 s
  | .setFeaturesErrorRecovery x0 x1 x2 => Sys2Proof.Machine.execSetFeaturesErrorRecovery x0 x1 x2 s
  | .setFeaturesNumberOfQueues x0 x1 x2 => Sys2Proof.Machine.execSetFeaturesNumberOfQueues x0 x1 x2 s
  | .setFeaturesInterruptCoalescing x0 x1 x2 => Sys2Proof.Machine.execSetFeaturesInterruptCoalescing x0 x1 x2 s
  | .setFeaturesInterruptVectorConfig x0 x1 x2 => Sys2Proof.Machine.execSetFeaturesInterruptVectorConfig x0 x1 x2 s
  | .setFeaturesWriteAtomicity x0 x1 => Sys2Proof.Machine.execSetFeaturesWriteAtomicity x0 x1 s
  | .setFeaturesAsyncEventConfig x0 x1 => Sys2Proof.Machine.execSetFeaturesAsyncEventConfig x0 x1 s
  | .setFeaturesTimestamp x0 x1 => Sys2Proof.Machine.execSetFeaturesTimestamp x0 x1 s
  | .setFeaturesHostBehaviorSupport x0 x1 => Sys2Proof.Machine.execSetFeaturesHostBehaviorSupport x0 x1 s
  | .setFeaturesQueueLatencyClass x0 x1 x2 => Sys2Proof.Machine.execSetFeaturesQueueLatencyClass x0 x1 x2 s
  | .setFeaturesVerdictRing x0 x1 x2 x3 => Sys2Proof.Machine.execSetFeaturesVerdictRing x0 x1 x2 x3 s
  | .setFeaturesUnsupported x0 x1 => Sys2Proof.Machine.execSetFeaturesUnsupported x0 x1 s
  | .getFeaturesQueueLatencyClass x0 x1 => Sys2Proof.Machine.execGetFeaturesQueueLatencyClass x0 x1 s
  | .getFeaturesVerdictRing x0 x1 => Sys2Proof.Machine.execGetFeaturesVerdictRing x0 x1 s
  | .getFeatures x0 x1 x2 => Sys2Proof.Machine.execGetFeatures x0 x1 x2 s
  | .namespaceCreate x0 x1 x2 x3 x4 => Sys2Proof.Machine.execNamespaceCreate x0 x1 x2 x3 x4 s
  | .namespaceDelete x0 x1 => Sys2Proof.Machine.execNamespaceDelete x0 x1 s
  | .namespaceAttach x0 x1 x2 => Sys2Proof.Machine.execNamespaceAttach x0 x1 x2 s
  | .namespaceDetach x0 x1 x2 => Sys2Proof.Machine.execNamespaceDetach x0 x1 x2 s
  | .formatNvm x0 x1 x2 x3 => Sys2Proof.Machine.execFormatNvm x0 x1 x2 x3 s
  | .formatNvmCryptoErase x0 x1 x2 => Sys2Proof.Machine.execFormatNvmCryptoErase x0 x1 x2 s
  | .sanitizeCryptoErase x0 => Sys2Proof.Machine.execSanitizeCryptoErase x0 s
  | .sanitizeBlockErase x0 => Sys2Proof.Machine.execSanitizeBlockErase x0 s
  | .firmwareImageDownload x0 x1 x2 => Sys2Proof.Machine.execFirmwareImageDownload x0 x1 x2 s
  | .firmwareCommitReplace x0 x1 => Sys2Proof.Machine.execFirmwareCommitReplace x0 x1 s
  | .firmwareCommitNextStart x0 x1 => Sys2Proof.Machine.execFirmwareCommitNextStart x0 x1 s
  | .firmwareCommitSwap x0 x1 => Sys2Proof.Machine.execFirmwareCommitSwap x0 x1 s
  | .firmwareCommitActivate x0 x1 => Sys2Proof.Machine.execFirmwareCommitActivate x0 x1 s
  | .virtMgmtOffline x0 x1 => Sys2Proof.Machine.execVirtMgmtOffline x0 x1 s
  | .virtMgmtAssign x0 x1 x2 => Sys2Proof.Machine.execVirtMgmtAssign x0 x1 x2 s
  | .virtMgmtOnline x0 x1 => Sys2Proof.Machine.execVirtMgmtOnline x0 x1 s
  | .nvmeMiSend x0 x1 => Sys2Proof.Machine.execNvmeMiSend x0 x1 s
  | .nvmeMiReceive x0 => Sys2Proof.Machine.execNvmeMiReceive x0 s
  | .securitySend x0 x1 x2 x3 x4 x5 x6 => Sys2Proof.Machine.execSecuritySend x0 x1 x2 x3 x4 x5 x6 s
  | .securityReceive x0 x1 x2 => Sys2Proof.Machine.execSecurityReceive x0 x1 x2 s
  | .invalidAdminOpcode x0 x1 => Sys2Proof.Machine.execInvalidAdminOpcode x0 x1 s
  | .hostReadCompletionArrival x0 x1 x2 x3 x4 x5 => Sys2Proof.Machine.execHostReadCompletionArrival x0 x1 x2 x3 x4 x5 s
  | .softDecodeResult x0 x1 x2 => Sys2Proof.Machine.execSoftDecodeResult x0 x1 x2 s
  | .railReturnInRange x0 x1 => Sys2Proof.Machine.execRailReturnInRange x0 x1 s
  | .aonRailDown => Sys2Proof.Machine.execAonRailDown s
  | .firmwareActivationRound x0 => Sys2Proof.Machine.execFirmwareActivationRound x0 s
  | .nvmeMiMctpMessage x0 x1 => Sys2Proof.Machine.execNvmeMiMctpMessage x0 x1 s
  | .mctpEndpointIdAssignment x0 => Sys2Proof.Machine.execMctpEndpointIdAssignment x0 s
  | .activityLedTimeout => Sys2Proof.Machine.execActivityLedTimeout s
  | .faultLedBlink => Sys2Proof.Machine.execFaultLedBlink s
  | .interruptAggregationTimeout x0 x1 => Sys2Proof.Machine.execInterruptAggregationTimeout x0 x1 s
  | .tapInstructionUpdate x0 => Sys2Proof.Machine.execTapInstructionUpdate x0 s

end Sys2Proof.Machine
end

