-- ==== Sys2Proof/Machine/Tick.lean ====
section
/-! DEFINITION. One microsecond of the block's own clock (R12, R13, R73, R90, R333, R334): what the step does when no command
waits (DESIGN CHOICE, log entry 36). -/

namespace Sys2Proof.Machine

/-- Time advances by 1 µs (R12, R13). -/
def tickTime (t : TimeSt) : TimeSt :=
  if t.subUs + 1 < 1000000 then { t with devTime := t.devTime + 1, subUs := t.subUs + 1 }
  else { t with devTime := t.devTime + 1, subUs := 0, opSeconds := t.opSeconds + 1 }

/-- Refill in effect of a contract's byte bucket, per second: cut in proportion while power or the link is short of what
contracts commit (R206, R334). -/
def byteRefill (s : State) (k : Contract) : Nat :=
  if k.write && powerShort s then
    rateBytes k * (s.adm.powerCapacity * mil) / max 1 (committedPower s (s.adm.contracts.filter (·.write)))
  else if !k.write && linkBytesShort s then rateBytes k * s.adm.linkCapacity / max 1 (committedBytes s.adm.contracts false)
  else rateBytes k

/-- Refill in effect of a contract's command bucket, per second: cut in proportion while the link is short of commands (R206). -/
def cmdRefill (s : State) (k : Contract) : Nat :=
  if !k.write && linkCmdsShort s then k.cmdRate * s.adm.linkCmds / max 1 (committedCmds s.adm.contracts) else k.cmdRate

/-- The slack pools refill (R90), except from Hot on (Table 15.2). -/
def refillSlack (s : State) : State :=
  match s.thm.step with
  | .hot => s
  | .critical => s
  | _ =>
    let a := s.adm
    { s with adm := { a with
        dieSlack := a.dieSlack.map fun e => (e.1, min (dieSlackDepth s e.1) (e.2 + dieSlackRefill s e.1)),
        linkSlack := min linkSlackDepth (a.linkSlack + linkSlackRefill s),
        powerSlack := min powerSlackDepth (a.powerSlack + powerSlackRefill s) } }

/-- Buckets and meters refill (R73), the DRAM channels drain the write backlog (R22: 43 GB/s, half at half width), and
releases older than 10 ms leave the average of R98. -/
def refill (s : State) : State :=
  let a := s.adm
  let drain := eavesRate s.prof
  { s with adm := { a with
      contracts := a.contracts.map fun k =>
        { k with cmdLevel := min (cmdDepth k) (k.cmdLevel + cmdRefill s k), byteLevel := min (byteDepth k) (k.byteLevel + byteRefill s k),
                 cmdFull := min (cmdDepth k) (k.cmdFull + k.cmdRate), byteFull := min (byteDepth k) (k.byteFull + rateBytes k) },
      meters := a.meters.map fun m => { m with level := min m.depth (m.level + m.rate), fullLevel := min m.fullDepth (m.fullLevel + m.fullRate) },
      backlog := a.backlog - drain,
      releases := a.releases.filter fun e => decide (now s ≤ e.1 + 10000) } }

/-- The channels whose pause has just exceeded 50 µs lose their bookings (R24). -/
def endPauses (s : State) : State :=
  let s := when' (pauseEnds s 8) softAway s
  let s := when' (pauseEnds s 9) (airLow · false) s
  forEach (longStopped s) (fun c s => releaseStopped s c) s

/-- One idle step: time, refills, pauses that have grown too long, the admin commands and key loads that waited for the Management and Ridge islands, and the
end of a Sanitize. While the AON rail is down no clock
runs. -/
def idle (s : State) : State :=
  if isRunning s 0 then sanitizeTick (runWaiting (loadWaiting (endPauses (refill (refillSlack { s with tm := tickTime s.tm }))))) else s

end Sys2Proof.Machine
end

