-- ==== Sys2Proof/Safety.lean ====
section
/-! DEFINITION. What a safe run is, and the words in which the statements speak of an answer or a completion. -/

namespace Sys2Proof.Machine

/-- An outcome that is a next state. -/
def Completes (o : Host.Outcome State Fault Refusal) : Prop := ∃ s, o = .next s

/-- A state from which the next step completes. -/
def SafeStep (s : State) : Prop := Completes (step s)

/-- A function as posting on its admin queue leaves it: only interrupts, the Error Information log and queue 0 may differ. -/
def SameFn (x y : FnSt) : Prop :=
  y = { x with cqs := y.cqs, irqs := y.irqs, msixPending := y.msixPending, errorLog := y.errorLog } ∧
    ∀ k, k ≠ 0 → tblFind? k y.cqs = tblFind? k x.cqs

/-- From `s` to `t` only completions have been posted on admin queues: nothing but the list of posted or waiting entries, the
queue's place and the interrupt differs. -/
def PostedOnly (s t : State) : Prop :=
  t = { s with host := { s.host with fns := t.host.fns, posted := t.host.posted, rings := t.host.rings, cqWait := t.host.cqWait } } ∧
    ∀ f, SameFn (fnOf s f) (fnOf t f)

/-- From `s` to `t` only a request has been answered: nothing but the mailbox engine's requests and answers differs, and
what a completion that carries the answer changes. -/
def AnsweredOnly (s t : State) : Prop :=
  PostedOnly { s with hmp := { s.hmp with requests := t.hmp.requests, toPost := t.hmp.toPost, answers := t.hmp.answers,
                                           held := t.hmp.held, exchanges := t.hmp.exchanges, collects := t.hmp.collects,
                                           mctpOut := t.hmp.mctpOut, journal := t.hmp.journal } } t

/-- A completion of an admin command is newly posted, with its DNR bit (R455). -/
def AdminPosted (s t : State) (a : AdmHdr) (st : NvmeStatus) (dw0 : Nat) (data : List Byte) : Prop :=
  ∃ e ∈ t.host.posted.drop s.host.posted.length,
    e.fn = a.fn ∧ e.sqid = 0 ∧ e.cid = a.cid ∧ e.status = st ∧ e.dnr = dnrOf st ∧ e.dw0 = dw0 ∧ e.data = data

/-- The function's admin completion queue takes an entry: the controller is ready, the link up, a slot free and none waiting. -/
def AdminRoom (s : State) (f : Nat) : Prop :=
  ((fnOf s f).ccEn && (fnOf s f).rdy) = true ∧ s.host.linkUp = true ∧ cqFull (tblGet cqDefault 0 (fnOf s f).cqs) = false ∧
    (s.host.cqWait.any fun w => w.1.fn == f && w.1.cqid == 0) = false

/-- An admin command is served and its completion can be posted. -/
def AdminServed (s : State) (a : AdmHdr) (pfOnly restricted : Bool) : Prop := adminPasses s a pfOnly restricted ∧ AdminRoom s a.fn

/-- A command that is accepted at its evaluation in s (R80, R89, R93): plan a within its contract, or plan b within it or from slack,
books; `t` and `d` are the state and the command as its acceptance leaves them. -/
def AcceptedNow (s : State) (c : Cmd) (t : State) (d : Cmd) : Prop :=
  let a := planService s c true
  let b := planService s c false
  s.eav.powerLoss = false ∧ a.degraded = false ∧
    ((a.reason = 0 ∧ withinContract s a.cmd = true ∧ acceptance s a true = (t, d)) ∨
     ((a.reason ≠ 0 ∨ withinContract s a.cmd = false) ∧ b.reason = 0 ∧
       ((withinContract s b.cmd = true ∧ acceptance s b true = (t, d)) ∨
        (withinContract s b.cmd = false ∧ slackGrant s b.cmd = true ∧ acceptance s b false = (t, d)))))

/-- The command answers a next state in which its completion is posted and which is otherwise `s'`. -/
def AdminCompletes (o : Host.Outcome State Fault Refusal) (s s' : State) (a : AdmHdr) (st : NvmeStatus) (dw0 : Nat)
    (data : List Byte) : Prop :=
  ∃ t, o = .next t ∧ PostedOnly s' t ∧ AdminPosted s t a st dw0 data

/-- A request of the mailbox protocol is served: the gate passes, and no reset of the function has discarded its response. -/
def HmpServed (s : State) (q : HmpHdr) (r : HmpRule) : Prop :=
  hmpPasses s q r ∧ discarded s q = false

/-- A response to the request is new, and in the journal where the request writes (R242). -/
def HmpAnswered (s t : State) (q : HmpHdr) (op status detail : Nat) (payload : List Byte) : Prop :=
  let is (r : HmpResp) : Prop :=
    r.stream = streamOf q ∧ r.tag = q.tag ∧ r.opcode = op ∧ r.status = status ∧ r.detail = detail ∧ r.payload = payload
  (∃ r ∈ t.hmp.answers.drop s.hmp.answers.length, is r) ∧ (writingOp op = true → ∃ r ∈ t.hmp.journal, is r)

/-- The command answers a next state in which the request has that response and which is otherwise `s'`. -/
def HmpAnswers (o : Host.Outcome State Fault Refusal) (s s' : State) (q : HmpHdr) (op status detail : Nat) (payload : List Byte) :
    Prop :=
  ∃ t, o = .next t ∧ AnsweredOnly s' t ∧ HmpAnswered s t q op status detail payload

/-- A reading request is answered with its payload, or with Buffer Too Small and the size required (R235), and changes nothing. -/
def HmpReports (o : Host.Outcome State Fault Refusal) (s : State) (q : HmpHdr) (op : Nat) (payload : List Byte) : Prop :=
  if q.room < payload.length then HmpAnswers o s s q op 0x0016 payload.length [] else HmpAnswers o s s q op 0 0 payload

/-- A writing request is applied: answered with Success, the state otherwise `s'`. -/
def HmpApplies (o : Host.Outcome State Fault Refusal) (s s' : State) (q : HmpHdr) (op : Nat) : Prop :=
  HmpAnswers o s s' q op 0 0 []

/-- A long operation starts (R241): Started with a new handle in DETAIL, and `f` applied to the state with that handle. -/
def HmpStarts (o : Host.Outcome State Fault Refusal) (s : State) (q : HmpHdr) (op : Nat) (f : State → Nat → State) : Prop :=
  HmpAnswers o s (f (withHandle s q op) s.hmp.nextHandle) q op 0x0001 s.hmp.nextHandle []

/-- The request header of a mailbox command that the gate of chapter 10 stands before, and what its opcode requires. -/
def hmpOf : Instr → Option (HmpHdr × HmpRule)
  | .hmpCancel q _ none => some (q, ruleCancel)
  | .versionQuery q => some (q, ruleVersion)
  | .operationStatus q _ => some (q, ruleOperation)
  | .contractSet q _ _ _ _ _ _ _ _ _ => some (q, ruleContractSet)
  | .contractDelete q _ _ _ => some (q, ruleContractSet)
  | .contractReport q _ => some (q, ruleContractReport)
  | .bayCapacityReport q _ _ => some (q, ruleBayCapacity)
  | .calendarSnapshot q _ => some (q, ruleCalendar)
  | .functionZoneLimits q _ _ _ => some (q, ruleZoneLimits)
  | .baySetDefine q _ _ _ _ => some (q, ruleBaySet)
  | .baySetDelete q _ => some (q, ruleBaySet)
  | .badBlockReport q _ _ _ => some (q, ruleBadBlocks)
  | .mediaWearReport q _ _ => some (q, ruleWear)
  | .dieRetire q _ => some (q, ruleRetire)
  | .channelRecalibrate q _ _ => some (q, ruleRecalibrate)
  | .channelMicrocodeLoad q _ => some (q, ruleMicrocode)
  | .dramRankRetrain q _ _ => some (q, ruleRetrain)
  | .coreFailoverReturn q _ => some (q, ruleFailover)
  | .coreFailoverRetire q _ => some (q, ruleFailover)
  | .boardProfileRead q _ _ _ => some (q, ruleProfileRead)
  | .boardProfileUpdate q _ _ img => some (q, ruleProfileUpdate img)
  | .islandStateReport q => some (q, ruleIslandReport)
  | .keySlotInject q _ _ _ _ _ _ => some (q, ruleKeySlot 88)
  | .keySlotClear q _ _ _ => some (q, ruleKeySlot 16)
  | .establishKek q _ _ => some (q, ruleKeySlot 112)
  | .setKeyPerIo q _ _ => some (q, ruleSetKpio)
  | .keyRollover q _ => some (q, ruleRollover)
  | .regionTableReport q => some (q, ruleRegions)
  | .faultSnapshot q => some (q, ruleFaultSnapshot)
  | .faultThresholdSet q _ _ _ => some (q, ruleThresholdSet)
  | .faultClear q _ _ => some (q, ruleFaultClear)
  | .firstErrorReport q _ => some (q, ruleFirstError)
  | .thermalReport q => some (q, ruleThermal)
  | .coldStartWarmStart q => some (q, ruleWarm)
  | .coldStartWarmStop q => some (q, ruleWarm)
  | .blowerReport q => some (q, ruleBlowerReport)
  | .blowerServiceStop q => some (q, ruleBlowerService)
  | .blowerServiceResume q _ _ _ => some (q, ruleBlowerService)
  | .supplyReport q => some (q, ruleSupplyReport)
  | .holdupAudit q _ => some (q, ruleHoldupAudit)
  | .eventRead q _ _ _ _ => some (q, ruleEventRead)
  | .dormerPosition q _ _ => some (q, ruleDormerPosition)
  | .energyMeterReport q _ => some (q, ruleEnergy)
  | .counterReport q _ => some (q, ruleCounters)
  | .poolQuotaSet q _ _ => some (q, ruleQuota)
  | .poolReport q => some (q, rulePools)
  | _ => none

/-- The header of an admin command that the gate of `adminServe` stands before; whether it is reserved to the PF, and whether
form A of the restricted phase serves it (R393). -/
def adminOf : Instr → Option (AdmHdr × Bool × Bool)
  | .createIoCq a _ _ _ _ _ => some (a, false, true)
  | .createIoSq a _ _ _ _ => some (a, false, true)
  | .deleteIoSq a _ => some (a, false, true)
  | .deleteIoCq a _ => some (a, false, true)
  | .getLogPage a _ _ _ _ => some (a, false, true)
  | .identify a _ _ _ _ => some (a, false, true)
  | .abort a _ _ => some (a, false, true)
  | .asynchronousEventRequest a => some (a, false, true)
  | .setFeaturesArbitration a _ => some (a, false, false)
  | .setFeaturesPowerManagement a _ => some (a, false, false)
  | .setFeaturesTemperatureThreshold a _ _ _ => some (a, false, false)
  | .setFeaturesErrorRecovery a _ _ => some (a, false, false)
  | .setFeaturesNumberOfQueues a _ _ => some (a, false, false)
  | .setFeaturesInterruptCoalescing a _ _ => some (a, false, false)
  | .setFeaturesInterruptVectorConfig a _ _ => some (a, false, false)
  | .setFeaturesWriteAtomicity a _ => some (a, false, false)
  | .setFeaturesAsyncEventConfig a _ => some (a, false, false)
  | .setFeaturesTimestamp a _ => some (a, false, false)
  | .setFeaturesHostBehaviorSupport a _ => some (a, false, false)
  | .setFeaturesQueueLatencyClass a _ _ => some (a, false, false)
  | .setFeaturesVerdictRing a _ _ _ => some (a, false, false)
  | .getFeaturesQueueLatencyClass a _ => some (a, false, true)
  | .getFeaturesVerdictRing a _ => some (a, false, true)
  | .getFeatures a _ _ => some (a, false, true)
  | .namespaceCreate a _ _ _ _ => some (a, true, false)
  | .namespaceDelete a _ => some (a, true, false)
  | .namespaceAttach a _ _ => some (a, true, false)
  | .namespaceDetach a _ _ => some (a, true, false)
  | .formatNvm a _ _ _ => some (a, true, false)
  | .formatNvmCryptoErase a _ _ => some (a, true, false)
  | .sanitizeCryptoErase a => some (a, true, false)
  | .sanitizeBlockErase a => some (a, true, false)
  | .firmwareImageDownload a _ _ => some (a, true, true)
  | .firmwareCommitReplace a _ => some (a, true, true)
  | .firmwareCommitNextStart a _ => some (a, true, true)
  | .firmwareCommitSwap a _ => some (a, true, true)
  | .firmwareCommitActivate a _ => some (a, true, true)
  | .virtMgmtOffline a _ => some (a, true, false)
  | .virtMgmtAssign a _ _ => some (a, true, false)
  | .virtMgmtOnline a _ => some (a, true, false)
  | .nvmeMiSend a _ => some (a, true, false)
  | .nvmeMiReceive a => some (a, true, false)
  | .securitySend a _ _ _ _ _ _ => some (a, false, false)
  | .securityReceive a _ _ => some (a, false, false)
  | _ => none

end Sys2Proof.Machine
end

