-- ==== Sys2Proof/Certificates/Slice0/Obligations.lean ====
section
/-! DEFINITION. The statements about the model, one `def Obligations.<Name> : Prop` each. `HmpServed` and `AdminServed` say when
a request or an admin command is served; the outcomes are said with the words of Safety. -/

open Sys2Proof Sys2Proof.Machine

/-! ### The step and the queue -/

/-- The block takes its commands first in, first out: a step with a command at the front of the queue is that command's effect on
the state with the rest of the queue. -/
def Obligations.StepRunsFrontCommand : Prop :=
  ∀ (c : Instr) (rest : List Instr) (s : State), s.pending = c :: rest → step s = exec c { s with pending := rest }

/-- Every command in every state answers a next state; none touches the queue of commands that wait or programs the fuses
CRYPTO_DISABLE and KAZOK_REVOKE. With no command waiting the block idles: one microsecond of DevTime while the Always-On island
runs (R12; what an idle step does is the model's choice, log entry 36). -/
def Obligations.EveryStepCompletes : Prop :=
  (∀ (c : Instr) (s : State), ∃ t, exec c s = .next t ∧ t.pending = s.pending ∧
     t.sec.cryptoDisable = s.sec.cryptoDisable ∧ t.sec.kazokRevoke = s.sec.kazokRevoke) ∧
  (∀ s : State, s.pending = [] → ∃ t, step s = .next t ∧ t.pending = [] ∧
     t.tm.devTime = (if isRunning s 0 then s.tm.devTime + 1 else s.tm.devTime) ∧
     t.dram.da.cells = s.dram.da.cells ∧ t.dram.db.cells = s.dram.db.cells)

/-- DevTime (R12) starts at zero when the Always-On island comes out of its power-on reset, and no other command, the other resets
among them, clears or adjusts it; no step takes it back. -/
def Obligations.DevTimeIsMonotone : Prop :=
  (∀ (a b c d : Bool) (s : State), ∃ t, exec (.aonPowerOnReset a b c d) s = .next t ∧ t.tm.devTime = 0) ∧
    (∀ (i : Instr) (s t : State), (∀ a b c d, i ≠ .aonPowerOnReset a b c d) → exec i s = .next t → t.tm.devTime = s.tm.devTime) ∧
    ∀ s t : State, (∀ a b c d rest, s.pending ≠ .aonPowerOnReset a b c d :: rest) → step s = .next t → s.tm.devTime ≤ t.tm.devTime

/-- The contents of both DRAM channels keep their canonical form at every step. The canonical form is one: two contents in it that
read the same at every address are equal. -/
def Obligations.DramContentsKeepForm : Prop :=
  (∀ s t : State, Memory.wf s.dram.da.cells = true → Memory.wf s.dram.db.cells = true → step s = .next t →
     Memory.wf t.dram.da.cells = true ∧ Memory.wf t.dram.db.cells = true) ∧
  (∀ m n : List Host.Cell, Memory.wf m = true → Memory.wf n = true → (∀ x, Memory.read m x = Memory.read n x) → m = n)

/-- The machine right after reset (R12, R51, R188, R212, R281, R387, R439, Tables 09.6, 14.4, 18.5): contents in their canonical
form and nothing listed, DevTime 0, PHASE 0, the AON island alone Running, the link down, the Board Profile at its reset values,
BYPASS selected, E_eff 0, bay set 0 with every bay, and no command waiting. -/
def Obligations.ResetForm : Prop :=
  Memory.wf State.reset.dram.da.cells = true ∧ Memory.wf State.reset.dram.db.cells = true ∧ (∀ a, Memory.read State.reset.dram.da.cells a = 0) ∧
  now State.reset = 0 ∧ State.reset.boot.phase = 0 ∧ (∀ i, islIdValid i = true → (isRunning State.reset i = true ↔ i = 0)) ∧
  State.reset.host.linkUp = false ∧ State.reset.prof = Profile.atReset ∧ State.reset.pins.tap = .bypass ∧ State.reset.eav.eEff = 0 ∧
  (baySet State.reset 0).bays = 2 ^ 256 - 1 ∧ State.reset.pending = [] ∧ State.reset.flt.snapSeq = 0 ∧ State.reset.flt.aliveRun = false ∧
  (fnOf State.reset 0).regErr = 0 ∧ (fnOf State.reset 0).notify = 0 ∧ (fnOf State.reset 0).scratch = 0 ∧
  (∀ g, isFresh State.reset.dram.da g = false ∧ isFresh State.reset.dram.db g = false) ∧
  ∀ nbits w : Nat, decodeTableWord nbits w = none ∧ State.reset.withFetchWord nbits w = State.reset

/-! ### The gates (chapters 09 and 10) -/

/-- Table 10.5 (R244), R245, R394: a mailbox request is not executed, and nothing but its answer changes, when its sender may not
use the opcode (Not Permitted), on a part without crypto (Crypto Fused Off), before PHASE 5 (Not Ready, with PHASE in DETAIL)
unless the opcode is an early one, and with another LENGTH than its message has (Invalid Length); while the Management island
takes no requests it waits, and so it does behind an earlier request of its stream, a writing request behind an earlier one of
another stream for the same object (R239; which opcodes touch one object is the model's choice, log entry 100), and a request of
family 0x05 until a Ridge core serves (R253). Table 10.6 (R245) and R208: who may send each opcode. A control opcode over MCTP needs
its bit of OOB_RIGHTS, as that field was when the engine took the request (R248). -/
def Obligations.MailboxGate : Prop :=
  (∀ (i : Instr) (q : HmpHdr) (r : HmpRule) (s : State), hmpOf i = some (q, r) → (s.boot.phase == 7 && s.boot.formB) = false →
     (hmpStopped s = true → exec i s = .next s) ∧
     (outOfTurn s q r.op = true ∨ behindOther s q r.op = true ∨ awaitsRidge s r.op = true → exec i s = .next s) ∧
     (hmpStopped s = false → outOfTurn s q r.op = false → behindOther s q r.op = false → awaitsRidge s r.op = false → discarded s q = false →
       let rights := (reqOf s q r.op).rights
       (permitted rights r.who q.sender = false → HmpAnswers (exec i s) s s q r.op 0x0011 0 []) ∧
       (permitted rights r.who q.sender = true →
         (r.crypto = true → s.sec.cryptoDisable = true → HmpAnswers (exec i s) s s q r.op 0x0022 0 []) ∧
         ((r.crypto && s.sec.cryptoDisable) = false →
           (r.early = false → s.boot.phase < 5 → HmpAnswers (exec i s) s s q r.op 0x001C s.boot.phase []) ∧
           (s.boot.phase = 5 → ∀ n, r.len = some n → q.length ≠ n → HmpAnswers (exec i s) s s q r.op 0x0013 n []))))) ∧
  (∀ (i : Instr) (q : HmpHdr) (r : HmpRule) (w : Nat), hmpOf i = some (q, r) →
     (r.op ∈ [0x0101, 0x0201, 0x0202, 0x0402, 0x0403, 0x0502, 0x0802, 0x0901] →
       (∀ f, permitted w r.who (.fn f) = decide (f = 0)) ∧ ∀ k, permitted w r.who (.oob k) = false) ∧
     (r.op ∈ [0x0104, 0x0405, 0x0407, 0x0503, 0x0601, 0x0604, 0x0703, 0x0705, 0x0801, 0x0902] →
       (∀ f, permitted w r.who (.fn f) = decide (f = 0)) ∧ ∀ k, permitted w r.who (.oob k) = true) ∧
     (r.op ∈ [0x0001, 0x0002, 0x0003, 0x0102, 0x0103, 0x0301, 0x0302, 0x0701, 0x0803, 0x0804] → ∀ x, permitted w r.who x = true) ∧
     (∀ b, (r.op, b) ∈ [(0x0303, 0), (0x0401, 1), (0x0404, 1), (0x0406, 2), (0x0602, 3), (0x0603, 3), (0x0702, 4), (0x0704, 4), (0x0706, 5)] →
       (∀ f, permitted w r.who (.fn f) = decide (f = 0)) ∧ ∀ k, permitted w r.who (.oob k) = w.testBit b))

/-- R208, R214, R393: an admin command waits until it has been fetched and the Management island runs; an action of Table 09.3
sent by a VF completes with Invalid Command Opcode, a command that form A of the restricted phase does not serve with Command
Sequence Error, and nothing changes. -/
def Obligations.AdminGate : Prop :=
  ∀ (i : Instr) (a : AdmHdr) (pfOnly restricted : Bool) (s : State), adminOf i = some (a, pfOnly, restricted) →
    (adminFetch s a.fn = false ∨ mgmtDown s = true → exec i s = .next s) ∧
    (adminFetch s a.fn = true → mgmtDown s = false → AdminRoom s a.fn →
      (s.boot.phase = 7 → restricted = false → AdminCompletes (exec i s) s s a .commandSequenceError 0 []) ∧
      (s.boot.phase ≠ 7 → pfOnly = true → a.fn ≠ 0 → AdminCompletes (exec i s) s s a .invalidOpcode 0 []))

/-! ### Features, queues and namespaces (chapter 09) -/

/-- Set Features (Table 09.8, R62, R100, R216): each feature is stored in the submitting function, and the command completes with
Success; Number of Queues also returns what was granted. -/
def Obligations.SetFeaturesStore : Prop :=
  ∀ (s : State) (a : AdmHdr), AdminServed s a false false →
    let put (g : FeatSt → FeatSt) : State := updFn s a.fn fun x => { x with feat := g x.feat }
    let ok (c : Instr) (g : FeatSt → FeatSt) : Prop := AdminCompletes (exec c s) s (put g) a .success 0 []
    (∀ ab, ab ≤ 3 → ok (.setFeaturesArbitration a ab) fun f => { f with ab := ab }) ∧
    (∀ t, ok (.setFeaturesErrorRecovery a t false) fun f => { f with tler := t }) ∧
    (∀ thr time, thr < 256 → time < 256 →
      ok (.setFeaturesInterruptCoalescing a thr time) fun f => { f with coalThr := thr, coalTime := time }) ∧
    (∀ v, v < vectorsOf a.fn → ∃ l, ok (.setFeaturesInterruptVectorConfig a v true) (fun f => { f with vecNoCoalesce := l }) ∧ v ∈ l) ∧
    (∀ v, v < vectorsOf a.fn → ∃ l, ok (.setFeaturesInterruptVectorConfig a v false) (fun f => { f with vecNoCoalesce := l }) ∧ v ∉ l) ∧
    (∀ d, ok (.setFeaturesWriteAtomicity a d) fun f => { f with atomicDn := d }) ∧
    (∀ m, m < 2 ^ 32 → ok (.setFeaturesAsyncEventConfig a m) fun f => { f with aecMask := m }) ∧
    (∀ ms, ms < 2 ^ 48 → ok (.setFeaturesTimestamp a ms) fun f => { f with timestamp := ms, timestampAt := now s }) ∧
    (∀ b, ok (.setFeaturesHostBehaviorSupport a b) fun f => { f with acre := b }) ∧
    (∀ n u k, n ≤ 8 → ok (.setFeaturesTemperatureThreshold a n u k) fun f => { f with thresholds := f.thresholds.modify n fun t =>
      if u then { t with low := some k } else { t with high := some k } }) ∧
    (∀ n m, n < 128 → m < 128 → a.fn = 0 → (fnOf s 0).sqs = [] → (∀ q ∈ (fnOf s 0).cqs, q.1 = 0) →
      AdminCompletes (exec (.setFeaturesNumberOfQueues a n m) s) s (put fun f => { f with numSq := n + 1, numCq := m + 1 })
        a .success (n + m * 65536) [])

/-- Set Features with state outside the function (R62, R101, R396): the class of a queue, the Verdict Ring of a completion queue,
and power state 1, from which the Battened entry starts. Features and fields that are not supported (R215, R216): Invalid Field in
Command, and nothing changes. -/
def Obligations.SetFeaturesChecked : Prop :=
  (∀ (s : State) (a : AdmHdr), AdminServed s a false false →
     (∀ q cls, 0 < q → q ≤ 128 → cls < 8 → ∃ b, AdminCompletes (exec (.setFeaturesQueueLatencyClass a q cls) s) s
       { s with adm := { s.adm with bindings := b } } a .success 0 [] ∧ tblFind? (a.fn, q) b = some cls ∧
       ∀ k, k ≠ (a.fn, q) → tblFind? k b = tblFind? k s.adm.bindings) ∧
     (∀ k q base, 0 < k → base % 4096 = 0 → tblFind? k (fnOf s a.fn).cqs = some q → ∃ f, AdminCompletes
       (exec (.setFeaturesVerdictRing a k true base) s) s (updFn s a.fn fun x => { x with cqs := f }) a .success 0 [] ∧
       tblFind? k f = some { q with ring := some base } ∧ ∀ j, j ≠ k → tblFind? j f = tblFind? j (fnOf s a.fn).cqs) ∧
     (a.fn = 0 → s.bat.entryAt = none → AdminCompletes (exec (.setFeaturesPowerManagement a 1) s) s
       { s with bat := { s.bat with entryAt := some (now s), powerState := 1 } } a .success 0 []) ∧
     (a.fn = 0 → s.bat.entryAt = none → AdminCompletes (exec (.setFeaturesPowerManagement a 0) s) s
       { s with bat := { s.bat with powerState := 0 } } a .success 0 [])) ∧
  (∀ (s : State) (a : AdmHdr), AdminServed s a false false →
     let bad (c : Instr) : Prop := AdminCompletes (exec c s) s s a .invalidField 0 []
     (∀ fid, fid ∉ featureIds → bad (.setFeaturesUnsupported a fid)) ∧
     (∀ ab, 3 < ab → bad (.setFeaturesArbitration a ab)) ∧
     (∀ t, bad (.setFeaturesErrorRecovery a t true)) ∧
     (∀ n u k, 8 < n → n ≠ 15 → bad (.setFeaturesTemperatureThreshold a n u k)) ∧
     (∀ v d, vectorsOf a.fn ≤ v → bad (.setFeaturesInterruptVectorConfig a v d)) ∧
     (∀ ps, a.fn ≠ 0 ∨ 1 < ps → bad (.setFeaturesPowerManagement a ps)) ∧
     (∀ q cls, q = 0 ∨ 128 < q → bad (.setFeaturesQueueLatencyClass a q cls)) ∧
     (∀ k e base, tblFind? k (fnOf s a.fn).cqs = none → bad (.setFeaturesVerdictRing a k e base)))

/-- Get Features (R62, R101, R216) returns the value in effect and changes nothing, in the restricted phase as well. -/
def Obligations.GetFeaturesReturn : Prop :=
  ∀ (s : State) (a : AdmHdr), AdminServed s a false true →
    let x := (fnOf s a.fn).feat
    let gives (c : Instr) (v : Nat) (d : List Byte) : Prop := AdminCompletes (exec c s) s s a .success v d
    (∀ q, 0 < q → gives (.getFeaturesQueueLatencyClass a q) (classOf s a.fn q) []) ∧
    (∀ k q, 0 < k → tblFind? k (fnOf s a.fn).cqs = some q →
      gives (.getFeaturesVerdictRing a k) (if q.ring.isSome then 1 else 0) []) ∧
    gives (.getFeatures a 0x01 0) x.ab [] ∧
    gives (.getFeatures a 0x05 0) x.tler [] ∧
    gives (.getFeatures a 0x08 0) (x.coalThr + x.coalTime * 256) [] ∧
    gives (.getFeatures a 0x0A 0) (if x.atomicDn then 1 else 0) [] ∧
    gives (.getFeatures a 0x0B 0) x.aecMask [] ∧
    (∀ sub, AdminCompletes (exec (.getFeatures a 0x1D sub) s) s s a .invalidField 0 [])

/-- Create and Delete I/O Queue, Abort and Asynchronous Event Request (Table 09.7, R62, R96, R101, R210): a queue is created
within the limits that were granted, a completion queue that still serves a submission queue stays, a held command is withdrawn,
eight event requests may be outstanding. Opcodes that are not supported (R208, R214, R245): Invalid Command Opcode for an admin
command, Invalid Opcode for a mailbox request, and nothing else changes; an aggregated interrupt is raised when its time ends
(R216). -/
def Obligations.QueueCommands : Prop :=
  (∀ (s : State) (a : AdmHdr), AdminServed s a false true →
     let x := fnOf s a.fn
     (∀ qid size vector ien, 0 < qid → qid ≤ min x.feat.numCq (queuesOf s a.fn) → tblFind? qid x.cqs = none → 2 ≤ size → size ≤ 4096 →
       (ien = true → vector < vectorsOf a.fn) → ∃ l, AdminCompletes (exec (.createIoCq a qid size vector true ien) s) s
         (updFn s a.fn fun x => { x with cqs := l }) a .success 0 [] ∧
         tblFind? qid l = some { cqDefault with size := size, vector := vector, ien := ien } ∧
         ∀ k, k ≠ qid → tblFind? k l = tblFind? k x.cqs) ∧
     (∀ qid size cqid, 0 < qid → qid ≤ min x.feat.numSq (queuesOf s a.fn) → tblFind? qid x.sqs = none → 2 ≤ size → size ≤ 4096 →
       0 < cqid → (tblFind? cqid x.cqs).isSome = true → ∃ l, AdminCompletes (exec (.createIoSq a qid size cqid true) s) s
         (updFn s a.fn fun x => { x with sqs := l }) a .success 0 [] ∧ tblFind? qid l = some ⟨size, cqid, 0, 0⟩ ∧
         ∀ k, k ≠ qid → tblFind? k l = tblFind? k x.sqs) ∧
     (∀ qid size cqid, cqid = 0 ∨ tblFind? cqid x.cqs = none →
       AdminCompletes (exec (.createIoSq a qid size cqid true) s) s s a .completionQueueInvalid 0 []) ∧
     (∀ qid, 0 < qid → (tblFind? qid x.sqs).isSome = true → (∀ c ∈ s.adm.cmds, ¬(c.fn = a.fn ∧ c.sqid = qid)) →
       AdminCompletes (exec (.deleteIoSq a qid) s) s
         (updFn { s with host := { s.host with fetched := s.host.fetched.filter fun e => !(e.fn == a.fn && e.sqid == qid) } } a.fn
           fun x => { x with sqs := tblDel qid x.sqs }) a .success 0 []) ∧
     (∀ qid, 0 < qid → (tblFind? qid x.cqs).isSome = true → (∀ q ∈ x.sqs, q.2.cqid ≠ qid) →
       AdminCompletes (exec (.deleteIoCq a qid) s) s
         (updFn { s with host := { s.host with cqWait := s.host.cqWait.filter fun w => !(w.1.fn == a.fn && w.1.cqid == qid) } } a.fn
           fun x => { x with cqs := tblDel qid x.cqs }) a .success 0 []) ∧
     (∀ qid q, 0 < qid → (tblFind? qid x.cqs).isSome = true → q ∈ x.sqs → q.2.cqid = qid →
       AdminCompletes (exec (.deleteIoCq a qid) s) s s a .invalidQueueDeletion 0 []) ∧
     (∀ sqid cid, (∀ c, cmdOf s a.fn sqid cid = some c → c.accepted = true) →
       AdminCompletes (exec (.abort a sqid cid) s) s s a .success 1 []) ∧
     (∀ sqid cid c, cmdOf s a.fn sqid cid = some c → c.accepted = false →
       exec (.abort a sqid cid) s = .next (adminDone (withdrawCmd s c .abortRequested) a .success 0 [])) ∧
     (8 ≤ x.aers.length → AdminCompletes (exec (.asynchronousEventRequest a) s) s s a .asyncEventLimit 0 []) ∧
     (x.aers.length < 8 → x.aerPending = [] → exec (.asynchronousEventRequest a) s =
       .next (updFn s a.fn fun x => { x with aers := x.aers ++ [a.cid] })) ∧
     (∀ e, x.aers = [] → x.aerPending = [e] → e.1 ∉ x.aerMasked → exec (.asynchronousEventRequest a) s =
       .next (postAer a.fn (updFn (updFn s a.fn fun x => { x with aers := x.aers ++ [a.cid] }) a.fn fun x =>
         { x with aers := [], aerMasked := x.aerMasked ++ [e.1], aerPending := [] }) a.cid (e.1 + e.2.1 * 256 + e.2.2 * 65536)))) ∧
  ((∀ (s : State) (a : AdmHdr) (op : Nat), AdminServed s a false false → adminSupported a.fn op = false →
     AdminCompletes (exec (.invalidAdminOpcode a op) s) s s a .invalidOpcode 0 []) ∧
   (∀ (s : State) (q : HmpHdr) (op : Nat), HmpServed s q (rule op sendAll none) → op ∉ hmpOpcodes →
     HmpAnswers (exec (.invalidHmpOpcode q op) s) s s q op 0x0010 0 []) ∧
   ∀ (s : State) (f v : Nat), aggregated s f v ≠ [] →
     let cleared (e : Nat × CqSt) : Nat × CqSt := (e.1, { e.2 with pendingIrq := 0, irqSince := none })
     exec (.interruptAggregationTimeout f v) s = .next (raiseVector (updFn s f fun x =>
       { x with cqs := x.cqs.map fun e => if (aggregated s f v).contains e.1 then cleared e else e }) f v))

/-- Virtualization Management (R207, R210): only the PF takes a secondary controller Offline, assigns it queues while it is
Offline, and brings it Online; the controller ID is the function number plus 1. -/
def Obligations.VirtualizationManagement : Prop :=
  ∀ (s : State) (a : AdmHdr) (f : Nat), AdminServed s a true false → 0 < f → f ≤ s.prof.totalVfs →
    ((fnOf s f).ccEn = false → AdminCompletes (exec (.virtMgmtOffline a (f + 1)) s) s
      (updFn s f fun x => { x with online := false }) a .success 0 []) ∧
    ((fnOf s f).ccEn = true → exec (.virtMgmtOffline a (f + 1)) s =
      .next (adminDone (updFn (fnReset .controller f s) f fun x => { x with online := false }) a .success 0 [])) ∧
    (∀ n, (fnOf s f).online = false → n ≤ 128 → assignedElse s f + n ≤ 16256 →
      AdminCompletes (exec (.virtMgmtAssign a (f + 1) n) s) s (updFn s f fun x => { x with vqAssigned := n, vqHeld := n }) a .success n []) ∧
    (∀ n, (fnOf s f).online = true → AdminCompletes (exec (.virtMgmtAssign a (f + 1) n) s) s s a .invalidControllerIdentifier 0 []) ∧
    (∀ n, (fnOf s f).online = false → 128 < n ∨ 16256 < assignedElse s f + n →
      AdminCompletes (exec (.virtMgmtAssign a (f + 1) n) s) s s a .invalidResourceIdentifier 0 []) ∧
    ((fnOf s f).present = true → (fnOf s f).vqAssigned ≠ 0 → AdminCompletes (exec (.virtMgmtOnline a (f + 1)) s) s
      (updFn s f fun x => { x with online := true, cfs := cfsLatched s || s.boot.formB }) a .success 0 []) ∧
    (∀ n k, n ≤ 1 ∨ s.prof.totalVfs + 1 < n →
      AdminCompletes (exec (.virtMgmtOffline a n) s) s s a .invalidControllerIdentifier 0 [] ∧
      AdminCompletes (exec (.virtMgmtAssign a n k) s) s s a .invalidControllerIdentifier 0 [] ∧
      AdminCompletes (exec (.virtMgmtOnline a n) s) s s a .invalidControllerIdentifier 0 [])

/-- Namespace Management (R31, R51, R55, R214): a creation that fits its bay sets or the conventional region adds one namespace
that is attached to no function, under the lowest free NSID, which it returns, the first one after the geometry is built; one that
does not fit completes with Namespace Insufficient Capacity; a deletion waits for accepted commands. Namespace Attachment (R54): a
zoned namespace attaches to one function, which must hold grants for every set in its list; a held command of a namespace that is
detached is withdrawn. The functions concerned find the namespace in their Changed Namespace List (R217; the list itself is presumed,
log entry 125). -/
def Obligations.NamespacesAndFunctions : Prop :=
  (∀ (s : State) (a : AdmHdr) (zoned : Bool) (nsze n : Nat) (fmt : LbaFormat) (sets : List (Nat × Nat)), AdminServed s a true false →
     s.sec.sanitizing = false → freeNsid s = some n →
     let ns : NsSt := { nsid := n, zoned := zoned, nsze := nsze, lbaf := fmt.lbaf, prot := fmt.prot, extended := fmt.extended,
                        sets := if zoned then setsFor nsze fmt.lbaf sets else [], attached := [] }
     let create := Instr.namespaceCreate a zoned nsze fmt sets
     let built := if s.zns.namespaces.isEmpty then buildGeometry s else some s
     (∀ t, createError s zoned nsze fmt sets = none → built = some t →
       (nsFits t ns = true → exec create s = .next (adminDone (addNs t ns) a .success n [])) ∧
       (nsFits t ns = false → AdminCompletes (exec create s) s s a .namespaceInsufficientCapacity 0 [])) ∧
     (createError s zoned nsze fmt sets = none → built = none →
       exec create s = .next (adminDone (profileEvent s 1 1 0 0 0) a .namespaceInsufficientCapacity 0 [])) ∧
     (6 ≤ fmt.lbaf ∨ (fmt.lbaf % 3 = 0 ∧ fmt.prot ≠ .none) → AdminCompletes (exec create s) s s a .invalidFormat 0 []) ∧
     (formatOk fmt = true → nsze = 0 ∨ 16 < sets.length ∨ (zoned = true ∧ nsze * (if 3 ≤ fmt.lbaf then 4 else 1) % zoneUnits ≠ 0) →
       AdminCompletes (exec create s) s s a .invalidField 0 []) ∧
     (∀ x, (nsOf s x).isSome = true → nsBusy s x = false → x ≠ 0xFFFFFFFF →
       exec (.namespaceDelete a x) s = .next (adminDone (forEach (s.zns.namespaces.filter fun y => y.nsid == x)
         (fun y s => deleteNs y (nsChanged s y.nsid y.attached)) s) a .success 0 [])) ∧
     (∀ x, nsOf s x = none → x ≠ 0xFFFFFFFF → AdminCompletes (exec (.namespaceDelete a x) s) s s a .invalidNamespace 0 []) ∧
     (∀ x, (nsOf s x).isSome = true → nsBusy s x = true → exec (.namespaceDelete a x) s = .next s)) ∧
  (∀ (s : State) (a : AdmHdr) (nsid f : Nat) (ns : NsSt), AdminServed s a true false → nsOf s nsid = some ns →
     let bad (c : Instr) (e : NvmeStatus) : Prop := AdminCompletes (exec c s) s s a e 0 []
     (f ≤ s.prof.totalVfs → f ∉ ns.attached → (ns.zoned = true → ns.attached = [] ∧ ∀ e ∈ ns.sets, setGrants s e.1 f = true) →
       exec (.namespaceAttach a nsid f) s = .next (adminDone
         (nsChanged (updNs s nsid fun x => { x with attached := x.attached ++ [f] }) nsid [f]) a .success 0 [])) ∧
     (f ≤ s.prof.totalVfs → f ∈ ns.attached → bad (.namespaceAttach a nsid f) .namespaceAlreadyAttached) ∧
     (f ≤ s.prof.totalVfs → f ∉ ns.attached → ns.zoned = true → ns.attached ≠ [] → bad (.namespaceAttach a nsid f) .namespaceIsPrivate) ∧
     (f ≤ s.prof.totalVfs → ns.attached = [] → ns.zoned = true → (∃ e ∈ ns.sets, setGrants s e.1 f = false) →
       bad (.namespaceAttach a nsid f) .controllerListInvalid) ∧
     (s.prof.totalVfs < f → bad (.namespaceAttach a nsid f) .controllerListInvalid ∧ bad (.namespaceDetach a nsid f) .controllerListInvalid) ∧
     (f ≤ s.prof.totalVfs → f ∈ ns.attached → exec (.namespaceDetach a nsid f) s = .next (adminDone
       (nsChanged (updNs (withdrawNs s nsid (some f)) nsid fun x => { x with attached := x.attached.filter (· != f) }) nsid [f])
       a .success 0 [])) ∧
     (f ≤ s.prof.totalVfs → f ∉ ns.attached → bad (.namespaceDetach a nsid f) .namespaceNotAttached) ∧
     (∀ x, nsOf s x = none → bad (.namespaceAttach a x f) .invalidNamespace ∧ bad (.namespaceDetach a x f) .invalidNamespace)) ∧
  ∀ (s : State) (n f : Nat), (fnOf s f).aers = [] → n ∈ (fnOf (nsChanged s n [f]) f).changedNs

/-- Format NVM and Sanitize (R214, R263): a format waits for the commands accepted before it, erases one namespace, with its keys
under SES 2, and puts the new format on it; a Sanitize starts at once and ends later; a part without keys has neither Crypto
Erase. -/
def Obligations.FormatAndSanitize : Prop :=
  ∀ (s : State) (a : AdmHdr), AdminServed s a true false →
    let bad (c : Instr) (e : NvmeStatus) : Prop := AdminCompletes (exec c s) s s a e 0 []
    (s.sec.sanitizing = false → ∀ n f ns, nsOf s n = some ns → n < 0xFFFFFFFF → formatOk f = true →
      (nsBusy s n = true → exec (.formatNvm a n f 0) s = .next s) ∧
      (nsBusy s n = false → exec (.formatNvm a n f 0) s =
        .next (adminDone (nsChanged (reformat (eraseNs ns s) ns f) n ns.attached) a .success 0 [])) ∧
      (nsBusy s n = false → s.sec.cryptoDisable = false →
        exec (.formatNvmCryptoErase a n f) s =
          .next (adminDone (nsChanged (reformat (cryptoErase ns s) ns f) n ns.attached) a .success 0 []))) ∧
    (∀ n f, exec (.formatNvm a n f 2) s = exec (.formatNvmCryptoErase a n f) s) ∧
    (∀ n f ses, ses ≠ 0 → ses ≠ 2 → bad (.formatNvm a n f ses) .invalidField) ∧
    (∀ n f, s.sec.cryptoDisable = true → bad (.formatNvmCryptoErase a n f) .invalidField ∧ bad (.sanitizeCryptoErase a) .invalidField) ∧
    (s.sec.sanitizing = false →
      (∀ f, bad (.formatNvm a 0xFFFFFFFF f 0) .invalidField) ∧ (∀ n f, n ≠ 0xFFFFFFFF → 6 ≤ f.lbaf → bad (.formatNvm a n f 0) .invalidFormat) ∧
      (∀ n f, n ≠ 0xFFFFFFFF → formatOk f = true → nsOf s n = none → bad (.formatNvm a n f 0) .invalidNamespace)) ∧
    (s.sec.sanitizing = true → ∀ n f, bad (.formatNvm a n f 0) .sanitizeInProgress ∧ bad (.sanitizeBlockErase a) .sanitizeInProgress) ∧
    (s.sec.sanitizing = false →
      AdminCompletes (exec (.sanitizeBlockErase a) s) s
        { s with sec := { s.sec with sanitizing := true, sanitizeBlock := true, sanitizeState := 2 } } a .success 0 [] ∧
      (s.sec.cryptoDisable = false → AdminCompletes (exec (.sanitizeCryptoErase a) s) s
        { s with sec := { s.sec with sanitizing := true, sanitizeBlock := false, sanitizeState := 2 } } a .success 0 []))

/-- Function Zone Limits and Bay Set Define (R38, R52, R53): each takes effect as a whole, or is rejected with Conflict and the
reason code of the first objection, or with Field Out Of Range. -/
def Obligations.ZoneLimitsAndBaySets : Prop :=
  (∀ (s : State) (q : HmpHdr) (f active opened : Nat), HmpServed s q ruleZoneLimits → f < 256 →
    let s' := { s with zns := { s.zns with limits := tblSet f (active, opened) s.zns.limits } }
    (active < opened → HmpAnswers (exec (.functionZoneLimits q f active opened) s) s s q 0x0201 0x0021 1 []) ∧
    (opened ≤ active → 32768 < activeLimitSum s' → HmpAnswers (exec (.functionZoneLimits q f active opened) s) s s q 0x0201 0x0021 2 []) ∧
    (opened ≤ active → activeLimitSum s' ≤ 32768 → HmpApplies (exec (.functionZoneLimits q f active opened) s) s s' q 0x0201)) ∧
  (∀ (s : State) (q : HmpHdr) (k : Nat) (ex : Bool) (bays grants : List Nat), HmpServed s q ruleBaySet → 0 < k → k < 256 →
    let new := tblUpd setDefault k (fun x => { x with exclusive := ex, grants := mapOf grants })
      (withBays (if setDefined s k then s.zns.sets else s.zns.sets ++ [(k, setDefault)]) k (mapOf bays))
    (∀ r, baySetConflict s new k ex (mapOf grants) = some r → HmpAnswers (exec (.baySetDefine q k ex bays grants) s) s s q 0x0202 0x0021 r []) ∧
    (baySetConflict s new k ex (mapOf grants) = none → exec (.baySetDefine q k ex bays grants) s = .next (hmpDone (putSets s new) q 0x0202)) ∧
    (setDefined s k = false → HmpAnswers (exec (.baySetDelete q k) s) s s q 0x0202 0x001B 0 []) ∧
    (setDefined s k = true → ∀ r, baySetConflict s (tblDel k (withBays s.zns.sets k 0)) k false 0 = some r →
      HmpAnswers (exec (.baySetDelete q k) s) s s q 0x0202 0x0021 r []) ∧
    (setDefined s k = true → baySetConflict s (tblDel k (withBays s.zns.sets k 0)) k false 0 = none →
      exec (.baySetDelete q k) s = .next (hmpDone (putSets s (tblDel k (withBays s.zns.sets k 0))) q 0x0202)))

/-- Security Send and Receive and NVMe-MI (R214, R238, R258): protocol 0x01 carries a key injection of the sending function; what
another standard defines comes back as free bytes (log entry 73); a protocol that is not supported is Invalid Field in Command; an
NVMe-MI message over MCTP wakes a Battened part (R398) and is answered to its endpoint. Get Log Page and Identify (R60, R214, R217): the bytes of the page from the
offset on, a read of page 0x02 or another maskable page letting its event be reported again; the Zone Backing page takes offsets
that are multiples of 16 and an attached namespace; an Identify structure has 4,096 bytes of which those the spec leaves to the
standard are free. -/
def Obligations.LogsSecurityAndIdentify : Prop :=
  ((∀ (s : State) (a : AdmHdr), AdminServed s a false false →
     (∀ p spsp n t k w, 1 < p → AdminCompletes (exec (.securitySend a p spsp n t k w) s) s s a .invalidField 0 []) ∧
     (∀ spsp n t k w, AdminCompletes (exec (.securitySend a 0 spsp n t k w) s) s s a .success 0 []) ∧
     (s.sec.cryptoDisable = false → ∀ spsp n t k w ns, spsp ≠ 1 → nsOf s n = some ns →
       (injectRefusal s ns a.fn t w false = none →
         AdminCompletes (exec (.securitySend a 1 spsp n t k w) s) s (putKey s ns a.fn t k) a .success 0 []) ∧
       (injectRefusal s ns a.fn t w false ≠ none → AdminCompletes (exec (.securitySend a 1 spsp n t k w) s) s s a .accessDenied 0 [])) ∧
     (∀ p spsp, 1 < p → AdminCompletes (exec (.securityReceive a p spsp) s) s s a .invalidField 0 []) ∧
     (s.sec.cryptoDisable = false → ∀ p spsp, p ≤ 1 → ∃ d, AdminCompletes (exec (.securityReceive a p spsp) s) s (tickFree s) a .success 0 d)) ∧
   (∀ (s : State) (a : AdmHdr), AdminServed s a true false →
     (∀ r, ∃ v, AdminCompletes (exec (.nvmeMiSend a r) s) s (tickFree s) a .success v []) ∧
     ∃ v d, AdminCompletes (exec (.nvmeMiReceive a) s) s (tickFree s) a .success v d) ∧
   ∀ (s₀ : State) (e : Nat) (r : List Byte), let s := beginWake s₀ .mctp
     (mctpServes s = true → r ≠ [] → ∃ d, exec (.nvmeMiMctpMessage e r) s₀ =
       .next (tickFree { s with hmp := { s.hmp with miOut := s.hmp.miOut ++ [(e, d)] } }) ∧ (isHealthPoll r = true → d = healthBytes s)) ∧
     (mctpServes s = false ∨ r = [] → exec (.nvmeMiMctpMessage e r) s₀ = .next s)) ∧
  (∀ (s : State) (a : AdmHdr), AdminServed s a false true →
     (∀ lid n off dw b, lid ≠ 0xC2 → logBytes s a.fn lid n = some b → exec (.getLogPage a lid n off dw) s =
       .next (logRead (adminDone s a .success 0 ((b.drop off).take (4 * dw))) a.fn lid n)) ∧
     (∀ lid n off dw, lid ≠ 0xC2 → logBytes s a.fn lid n = none →
       AdminCompletes (exec (.getLogPage a lid n off dw) s) s s a .invalidLogPage 0 []) ∧
     (∀ n off dw ns, nsOf s n = some ns → a.fn = 0 ∨ attachedTo ns a.fn = true →
       (off % 16 = 0 → AdminCompletes (exec (.getLogPage a 0xC2 n off dw) s) s s a .success 0 (backingBytes s ns off (4 * dw))) ∧
       (off % 16 ≠ 0 → AdminCompletes (exec (.getLogPage a 0xC2 n off dw) s) s s a .invalidField 0 [])) ∧
     (∀ n off dw, nsOf s n = none → AdminCompletes (exec (.getLogPage a 0xC2 n off dw) s) s s a .invalidNamespace 0 []) ∧
     (∀ cns csi n c b, identifyBytes s a.fn cns csi n c = .ok b → AdminCompletes (exec (.identify a cns csi n c) s) s (tickFree s) a .success 0 b) ∧
     (∀ cns csi n c e, identifyBytes s a.fn cns csi n c = .error e → AdminCompletes (exec (.identify a cns csi n c) s) s s a e 0 []) ∧
     (∀ csi n c, AdminCompletes (exec (.identify a 0x1D csi n c) s) s s a .invalidField 0 []))

/-! ### Changes in service (chapters 11 and 20) -/

/-- Firmware Image Download and Firmware Commit (R393, R414, R415, Table 20.2): the staged image is written into the copy B area
of its type, and action 001b also swaps the descriptor; a slot that the action does not take is Invalid Firmware Slot; an image
that fails its checks is not written. Activation without reset (R416, R417, R426) and the SVN floor (R267): Firmware Commit stays
unanswered while rounds of handovers run; too few cores or another table format keep it from writing anything; the last round, or
a failed one, ends it. -/
def Obligations.FirmwareImages : Prop :=
  (∀ (s : State) (a : AdmHdr), AdminServed s a true true → s.boot.phase ≠ 7 →
     let put (x y : Tbl Nat ImageCopy) : State := { s with sec := { s.sec with copyA := x, copyB := y } }
     let bad (c : Instr) (e : NvmeStatus) : Prop := AdminCompletes (exec c s) s s a e 0 []
     (∀ img prof, AdminCompletes (exec (.firmwareImageDownload a img prof) s) s
       { s with sec := { s.sec with staged := some img, stagedProfile := prof } } a .success 0 []) ∧
     (s.chg.activating = none →
       (∀ h, s.sec.staged = some h → h.type ∈ [1, 2, 3] → h.verified = true → keyAllowed s h = true → svnFloor s h.type ≤ h.svn →
         let b := tblSet h.type ⟨h, none⟩ s.sec.copyB
         (∀ fs, fs = 0 ∨ fs = 2 → AdminCompletes (exec (.firmwareCommitReplace a fs) s) s (put s.sec.copyA b) a .success 0 []) ∧
         (∀ fs, fs = 0 ∨ fs = 1 → AdminCompletes (exec (.firmwareCommitNextStart a fs) s) s
           (put (tblSet h.type ⟨h, none⟩ s.sec.copyA) (tblPut h.type (tblFind? h.type s.sec.copyA) b)) a .success 0 []) ∧
         AdminCompletes (exec (.firmwareCommitSwap a 2) s) s
           (put (tblPut h.type (tblFind? h.type s.sec.copyB) s.sec.copyA) (tblPut h.type (tblFind? h.type s.sec.copyA) s.sec.copyB))
           a .success 0 []) ∧
       (∀ h, s.sec.staged = some h → h.type = 4 ∨ h.type = 5 ∨ h.verified = false →
         bad (.firmwareCommitReplace a 2) .invalidFirmwareImage ∧ bad (.firmwareCommitNextStart a 1) .invalidFirmwareImage ∧
           bad (.firmwareCommitActivate a 1) .invalidFirmwareImage) ∧
       (∀ h, s.sec.staged = some h → h.type ∈ [1, 2, 3] → h.verified = true → keyAllowed s h = true → h.svn < svnFloor s h.type →
         bad (.firmwareCommitReplace a 2) .firmwareActivationProhibited ∧ bad (.firmwareCommitNextStart a 1) .firmwareActivationProhibited ∧
           bad (.firmwareCommitActivate a 1) .firmwareActivationProhibited) ∧
       AdminCompletes (exec (.firmwareCommitSwap a 1) s) s s a .success 0 [] ∧
       bad (.firmwareCommitReplace a 1) .invalidFirmwareSlot ∧ bad (.firmwareCommitNextStart a 2) .invalidFirmwareSlot ∧
       bad (.firmwareCommitActivate a 2) .invalidFirmwareSlot) ∧
     (s.chg.activating.isSome = true → ∀ fs, bad (.firmwareCommitReplace a fs) .commandSequenceError ∧
       bad (.firmwareCommitNextStart a fs) .commandSequenceError ∧ bad (.firmwareCommitSwap a fs) .commandSequenceError ∧
       bad (.firmwareCommitActivate a fs) .commandSequenceError)) ∧
  ((∀ (s : State) (a : AdmHdr) (h : ImageHdr), AdminServed s a true true → s.boot.phase ≠ 7 → s.chg.activating = none →
     stagedError s = none → s.sec.staged = some h → h.type ∈ [1, 2, 3] →
     let wrote (s : State) : State := swapCopies (writeB s ⟨h, none⟩) h.type
     (h.type = 3 → AdminCompletes (exec (.firmwareCommitActivate a 1) s) s (wrote s) a .success 0 []) ∧
     (h.type = 2 → coresIn s < 5 → AdminCompletes (exec (.firmwareCommitActivate a 1) s) s s a .firmwareActivationProhibited 0 []) ∧
     (h.type = 2 → 5 ≤ coresIn s → h.tableFormat ≠ runningFormat s →
       AdminCompletes (exec (.firmwareCommitActivate a 1) s) s s a .invalidFirmwareImage 0 []) ∧
     (h.type = 1 → ridgeIn s < 2 → AdminCompletes (exec (.firmwareCommitActivate a 1) s) s s a .firmwareActivationProhibited 0 []) ∧
     (h.type = 2 ∧ 5 ≤ coresIn s ∧ h.tableFormat = runningFormat s ∨ h.type = 1 ∧ 2 ≤ ridgeIn s →
       ∃ t, exec (.firmwareCommitActivate a 1) s = .next t ∧ t.chg.activating = some (a.fn, a.cid, h.type) ∧ t.chg.rounds = 0 ∧
         t.sec = (wrote s).sec)) ∧
   (∀ (s : State) (fn cid t : Nat), s.chg.activating = some (fn, cid, t) → mgmtDown s = false → s.eav.powerLoss = false →
     let new := (tblFind? t s.sec.copyA).map (·.hdr)
     let newV := (new.map (·.version)).getD 0
     let oldV := ((tblFind? t s.sec.active).map (·.version)).getD 0
     let after := putCores (plannedStep s) t (trimRound (coresOf s t) (now s))
     let round : State := { after with chg := { after.chg with rounds := after.chg.rounds + 1 } }
     exec (.firmwareActivationRound false) s = .next (endActivation (activationEvent (swapCopies s t) t newV oldV) .internalError) ∧
     (plannedOk s = false → exec (.firmwareActivationRound true) s = .next s) ∧
     (plannedOk s = true → ((coresOf round t).any fun c => c.st == .active && !c.newImage) = true →
       exec (.firmwareActivationRound true) s = .next round) ∧
     (plannedOk s = true → ((coresOf round t).any fun c => c.st == .active && !c.newImage) = false → ∀ h, new = some h →
       exec (.firmwareActivationRound true) s = .next (endActivation (activationEvent (activate round t h) t oldV newV) .success))) ∧
   (∀ (s : State) (type : Nat) (h : ImageHdr), tblFind? type s.sec.active = some h →
     (tblGet s.tm.opSeconds type s.sec.activeSince + 3600 ≤ s.tm.opSeconds → svnFloor s type < h.svn →
       exec (.svnFloorRaise type) s = .next
         { s with sec := if type ≤ 3 then { s.sec with svnFw := h.svn } else { s.sec with svnProfile := h.svn } }) ∧
     (s.tm.opSeconds < tblGet s.tm.opSeconds type s.sec.activeSince + 3600 ∨ h.svn ≤ svnFloor s type →
       exec (.svnFloorRaise type) s = .next s)))

/-- Board Profile Update, its commit, and Board Profile Read (R8, R9, R10, R424, R425): an update is checked in full before any
field changes; L fields apply at once, those of the thermal and supply records with their block's next conversion, Q fields at
their block's quiescent point, which ends the operation; flag bits [7:2] that are not zero are Field Out Of Range (R245); a read
returns the record of the view that it names. -/
def Obligations.BoardProfile : Prop :=
  (∀ (s : State) (q : HmpHdr) (flags z : Nat) (i : ProfImage), HmpServed s q (ruleProfileUpdate i) → 3 < flags →
    exec (.boardProfileUpdate q flags z i) s = .next (rejectWrite s q 0x0406 0x0014 0)) ∧
  (∀ (s : State) (q : HmpHdr) (keep nextStart : Bool) (z : Nat) (i : ProfImage), HmpServed s q (ruleProfileUpdate i) →
    let go := exec (.boardProfileUpdate q (keep.toNat + 2 * nextStart.toNat) z i) s
    (s.chg.activating.isSome = true → go = .next s) ∧
    (s.chg.activating = none → imageValid s 4 i.hdr = false → HmpAnswers go s s q 0x0406 0x0023 0 []) ∧
    (s.chg.activating = none → i.hdr.type = 4 → i.format = 1 → imageValid s 4 i.hdr = true → keep = true ∨ nextStart = true →
      profComplete i = false → HmpAnswers go s s q 0x0406 0x0021 1 []) ∧
    (s.chg.activating = none → ∀ d, updateError s (keep || nextStart) nextStart i = some (0x0015, d) →
      go = .next (rejectWrite s q 0x0406 0x0015 d)) ∧
    (s.chg.activating = none → updateError s (keep || nextStart) nextStart i = none →
      (nextStart = true ∨ writesQ s i = false → go = .next (hmpDone (applyUpdate s keep nextStart i) q 0x0406)) ∧
      (nextStart = false → writesQ s i = true → liveHandles s q.sender < 64 → go = .next (startLong s q 0x0406 fun s h =>
        let s := applyUpdate s keep false i
        { s with chg := { s.chg with qOp := s.chg.qOp ++ [(q.sender, h)] } })))) ∧
  (∀ (s : State) (r lo w v : Nat), s.chg.qShadow = [(r, lo, w, v)] → s.chg.qOp = [] → exec (.qFieldCommit r) s = .next
    { s with prof := profSetRecord s.prof r (setBits (profRecord s.prof r) lo w v), chg := { s.chg with qShadow := [] } }) ∧
  (∀ (s : State) (r : Nat), (∀ x ∈ s.chg.qShadow, x.1 ≠ r) → exec (.qFieldCommit r) s = .next s) ∧
  ∀ (s : State) (q : HmpHdr) (r view first : Nat), HmpServed s q ruleProfileRead →
    (r ∈ recordIds → view ≤ 2 → first < recordBytes r → ∀ p, p = viewOf s view → HmpReports (exec (.boardProfileRead q r view first) s) s q 0x0405
      (leBytes 2 r ++ leBytes 2 (recordBytes r) ++ leBytes 4 (((imageFor s 4).map (·.hdr.svn)).getD 0) ++
        (recordBytesOf p r).drop first)) ∧
    (r ∉ recordIds → HmpAnswers (exec (.boardProfileRead q r view first) s) s s q 0x0405 0x0014 0 []) ∧
    (r ∈ recordIds → 2 < view → HmpAnswers (exec (.boardProfileRead q r view first) s) s s q 0x0405 0x0014 2 [])

/-- Key Slot Inject, Clear and Set Key Per I/O (R256, R259, R260, Table 11.5): a refusal is Secure World Refused with its reason;
an accepted key is put under its tag, owned by its function, with GENERATION 0 (a key of the model is its number plus 1, log entry
120); a clear empties the tag's slot. KEKs and media key
rollover (R257, R261, R262): an established KEK comes from the random source, and a public key off the curve is refused with
reason 7; a rollover draws a media key of the next GENERATION and ends when nothing of the old one remains; the key
cache keeps no slot whose key changes (R255). -/
def Obligations.KeySlotsAndKeks : Prop :=
  ((∀ (s : State) (q : HmpHdr) (f nsid tag key : Nat) (w eq : Bool) (ns : NsSt), HmpServed s q (ruleKeySlot 88) → f < 256 → nsOf s nsid = some ns →
     let go := exec (.keySlotInject q f nsid tag w eq key) s
     (ownFn q.sender f = false → HmpAnswers go s s q 0x0501 0x0011 0 []) ∧
     (ownFn q.sender f = true → ∀ r, injectRefusal s ns f tag w eq = some r → HmpAnswers go s s q 0x0501 0x0023 r []) ∧
     (ownFn q.sender f = true → injectRefusal s ns f tag w eq = none → HmpApplies go s (putKey s ns f tag key) q 0x0501 ∧
       ∀ n, tagSlot s ns.nsid tag = none → freeKeySlot s = some n →
         tblFind? n (putKey s ns f tag key).sec.slots = some { state := 3, owner := f, nsIndex := ns.nsid - 1, tag := tag % 65536,
                                                               generation := 0, pins := (tblGet keySlotDefault n s.sec.slots).pins,
                                                               key := key % 2 ^ 512 + 1 })) ∧
   (∀ (s : State) (ns : NsSt) (f tag : Nat), attachedTo ns f = true → f ≠ 0 → s.sec.kpioOn.contains ns.nsid = true →
     (tblFind? f s.sec.keks = none → ∀ w e, injectRefusal s ns f tag w e = some 2) ∧
     (tblFind? f s.sec.keks ≠ none → ∀ e, injectRefusal s ns f tag false e = some 1 ∧ injectRefusal s ns f tag true true = some 1) ∧
     (tblFind? f s.sec.keks ≠ none → ∀ x, tagSlot s ns.nsid tag = some x → x.2.owner ≠ f → injectRefusal s ns f tag true false = some 4) ∧
     (tblFind? f s.sec.keks ≠ none → tagSlot s ns.nsid tag = none → s.prof.kpioQuota ≤ slotsOwned s f →
       injectRefusal s ns f tag true false = some 3)) ∧
   (∀ (s : State) (q : HmpHdr) (f nsid tag : Nat) (ns : NsSt), HmpServed s q (ruleKeySlot 16) → f < 256 → nsOf s nsid = some ns →
     ownFn q.sender f = true → f = 0 ∨ attachedTo ns f = true → ∀ x, tagSlot s nsid tag = some x →
     (x.2.owner = f → HmpApplies (exec (.keySlotClear q f nsid tag) s) s (clearTag s nsid tag) q 0x0501 ∧ tagSlot (clearTag s nsid tag) nsid tag = none) ∧
     (x.2.owner ≠ f → HmpAnswers (exec (.keySlotClear q f nsid tag) s) s s q 0x0501 0x0023 4 [])) ∧
   (∀ (s : State) (q : HmpHdr) (nsid b : Nat), HmpServed s q ruleSetKpio →
     (b ≤ 1 → ∀ ns, nsOf s nsid = some ns → ∃ l, HmpApplies (exec (.setKeyPerIo q nsid b) s) s { s with sec := { s.sec with kpioOn := l } } q 0x0501 ∧
       (nsid ∈ l ↔ b = 1) ∧ ∀ x, x ≠ nsid → (x ∈ l ↔ x ∈ s.sec.kpioOn)) ∧
     (b ≤ 1 → nsOf s nsid = none → HmpAnswers (exec (.setKeyPerIo q nsid b) s) s s q 0x0501 0x001B 4 []) ∧
     (1 < b → exec (.setKeyPerIo q nsid b) s = .next (rejectWrite s q 0x0501 0x0014 10)))) ∧
  ((∀ (s : State) (q : HmpHdr) (f : Nat), HmpServed s q (ruleKeySlot 112) → f < 256 →
     let go (b : Bool) := exec (.establishKek q f b) s
     (ownFn q.sender f = false → ∀ b, HmpAnswers (go b) s s q 0x0501 0x0011 0 []) ∧
     (ownFn q.sender f = true →
       HmpAnswers (go false) s s q 0x0501 0x0023 7 [] ∧ (q.room < 288 → HmpAnswers (go true) s s q 0x0501 0x0016 288 []) ∧
       (288 ≤ q.room → ∃ t d, go true = .next t ∧ d.length = 288 ∧ HmpAnswered s t q 0x0501 0 0 d ∧
         t.sec = { s.sec with keks := tblSet f (fresh s 0) s.sec.keks } ∧ t.free = s.free + 1))) ∧
   (∀ (s : State) (q : HmpHdr) (nsid : Nat), HmpServed s q ruleRollover →
     (nsOf s nsid = none → HmpAnswers (exec (.keyRollover q nsid) s) s s q 0x0502 0x001B 0 []) ∧
     (∀ ns, nsOf s nsid = some ns → (∃ r ∈ s.sec.rollovers, r.1 = nsid) → HmpAnswers (exec (.keyRollover q nsid) s) s s q 0x0502 0x0023 6 []) ∧
     (∀ ns, nsOf s nsid = some ns → (∀ r ∈ s.sec.rollovers, r.1 ≠ nsid) → liveHandles s q.sender < 64 →
       HmpStarts (exec (.keyRollover q nsid) s) s q 0x0502 fun s h =>
         let s := rollKey s nsid
         { s with sec := { s.sec with rollovers := s.sec.rollovers ++ [(nsid, q.sender, h)] } })) ∧
   (∀ (s : State) (nsid : Nat) (old : Nat × KeySlot), (mediaSlots s nsid).find? (fun e => e.2.state == 1) = some old →
     let n := if old.1 = 2 * (nsid - 1) then old.1 + 1 else 2 * (nsid - 1)
     (tblFind? n (rollKey s nsid).sec.slots).map (fun k => (k.state, k.generation, k.key)) = some (1, (old.2.generation + 1) % 256, fresh s 0 % 2 ^ 512 + 1) ∧
       tblFind? old.1 (rollKey s nsid).sec.slots = some { old.2 with state := 2 }) ∧
   ∀ (s : State) (nsid : Nat), mgmtDown s = false →
     (rolloverDone s nsid = false → exec (.keyRolloverEnd nsid) s = .next s) ∧
     (rolloverDone s nsid = true → exec (.keyRolloverEnd nsid) s = .next (endRollover (storeKeys
       { s with sec := putSlots s.sec (s.sec.slots.filter fun e => !(e.2.state == 2 && e.2.nsIndex == nsid - 1)) }) nsid 0)) ∧
     ∀ (x : SecSt) (slots : Tbl Nat KeySlot), (putSlots x slots).slots = slots ∧
       ∀ k ∈ (putSlots x slots).keyCache, (tblFind? k slots).map (·.key) = (tblFind? k x.slots).map (·.key))

/-! ### Mailbox messages (chapters 10, 14 and 19) -/

/-- Writes to a function's BAR mailbox (R231 to R233, Table 10.3): ENABLE starts both rings at 0 with the expected PHASE 1;
clearing it leaves ACTIVE until IN_FLIGHT is 0; a tail beyond the ring sets BAD_TAIL, a head beyond the ring or RSP_TAIL sets
BAD_HEAD, and the write is ignored; a write wakes a Battened part first (R398); without link, function or power no write arrives. The engine's request and response rings
(R230, R234, R236, R240, R244): it takes the next request only with a response slot reserved and below FN_INFLIGHT; a good header
joins the stream with its DEVTIME_RX, one that cannot be read is answered with Data Transfer Error (the TAG of an unreadable header
is not known: free, log entry 64), a bad one is answered with the offset of its first bad field (so is a data buffer that is not
aligned or too large: the status is the model's, log entry 130), a duplicate waits for the same answer; a writing response waits for
those of its stream's earlier writing requests (R239); a posted response is written to the request's data buffer and its ring slot and
advances RSP_TAIL, inverting PHASE where it wraps. -/
def Obligations.MailboxRings : Prop :=
  (∀ (s : State) (f v : Nat),
     let w := beginWake s .register
     let m := (fnOf w f).mailbox
     let put (m' : MailboxSt) : Host.Outcome State Fault Refusal := .next (updMailbox w f fun _ => m')
     (s.boot.phase ≠ 6 → w = s) ∧
     (barReachable s f = true →
       (m.enable = false → exec (.mailboxEnable f) s =
         put { m with enable := true, active := true, reqHead := 0, rspTail := 0, reqTail := 0, rspHead := 0, phase := true }) ∧
       (m.enable = true → exec (.mailboxEnable f) s = .next w) ∧
       (m.enable = true → exec (.mailboxDisable f) s = put { m with enable := false, active := m.active && decide (0 < m.inFlight) }) ∧
       (m.enable = false → exec (.mailboxDisable f) s = .next w) ∧
       (v < ringSlots m → v < 1024 → exec (.mailboxReqTailWrite f v) s = put { m with reqTail := v }) ∧
       (ringSlots m ≤ v → v < 1024 → exec (.mailboxReqTailWrite f v) s = put { m with badTail := true }) ∧
       (v < ringSlots m → v < 1024 → ringDist m m.rspHead v ≤ ringDist m m.rspHead m.rspTail →
         exec (.mailboxRspHeadWrite f v) s = put { m with rspHead := v }) ∧
       (v < 1024 → ringSlots m ≤ v ∨ ringDist m m.rspHead m.rspTail < ringDist m m.rspHead v →
         exec (.mailboxRspHeadWrite f v) s = put { m with badHead := true })) ∧
     (barReachable s f = false → exec (.mailboxEnable f) s = .next s ∧ exec (.mailboxDisable f) s = .next s ∧
       exec (.mailboxReqTailWrite f v) s = .next s ∧ exec (.mailboxRspHeadWrite f v) s = .next s)) ∧
  ((∀ (s : State) (f : Nat) (r : HmpRaw) (p : List Byte), mayTake s f = true →
     let m := (fnOf s f).mailbox
     let took := updMailbox s f fun m => { m with reqHead := (m.reqHead + 1) % ringSlots m, inFlight := m.inFlight + 1 }
     let go := exec (.mailboxRequestTake f (some r) (some p)) s
     let dest : RespDest := .bar m.reqHead r.dataAddr r.dataSize
     let joined (payload : List Byte) : HmpReq :=
       { stream := barStream f, tag := r.tag, opcode := r.opcode, length := r.length, payload := payload, barrier := r.flags.testBit 1,
         devtimeRx := now s, order := s.hmp.nextOrder, rights := s.prof.oobRights, dest := dest, copies := [], discard := false }
     let read := pruneAnswers { took with hmp := { took.hmp with nextOrder := s.hmp.nextOrder + 1 } }
     (∀ off, headerBad .bar r = some off → go = .next (bounce read (joined p) 0x0012 off)) ∧
     (headerBad .bar r = none →
       (r.dataAddr % 8 ≠ 0 → go = .next (bounce read (joined p) 0x0014 16)) ∧
       (r.dataAddr % 8 = 0 → 1048576 < r.dataSize → go = .next (bounce read (joined p) 0x0014 24)) ∧
       (r.dataAddr % 8 = 0 → r.dataSize ≤ 1048576 →
         (findReq s (barStream f) r.tag = none → answered s (barStream f) r.tag = none →
           ∃ t, go = .next t ∧ (fnOf t f).mailbox = { m with reqHead := (m.reqHead + 1) % ringSlots m, inFlight := m.inFlight + 1 } ∧
             t.hmp.requests = s.hmp.requests ++ [joined p]) ∧
         (∀ x, findReq s (barStream f) r.tag = some x → ∃ t, go = .next t ∧
           t.hmp.requests = s.hmp.requests.map fun y =>
             if y.stream == barStream f && y.tag == r.tag then { y with copies := y.copies ++ [dest] } else y))) ∧
     exec (.mailboxRequestTake f (some r) none) s = .next (bounce (dmaError took f m.reqHead) (joined []) 0x001A 0) ∧
     ∀ q, exec (.mailboxRequestTake f none q) s =
       .next (tickFree (postLost (dmaError took f m.reqHead) (lostRequest took f m.reqHead)))) ∧
   (∀ (s : State) (f : Nat) (r : Option HmpRaw) (p : Option (List Byte)), mayTake s f = false →
     exec (.mailboxRequestTake f r p) s = .next s) ∧
   (∀ (s : State) (f : Nat), mayTake s f = true ↔ barReachable s f = true ∧ hmpStopped s = false ∧ (fnOf s f).mailbox.enable = true ∧
     (fnOf s f).mailbox.reqHead ≠ (fnOf s f).mailbox.reqTail ∧ (fnOf s f).mailbox.inFlight < rspFree (fnOf s f).mailbox ∧
     (fnOf s f).mailbox.inFlight < s.prof.fnInflight) ∧
   ∀ (s : State) (f tag : Nat) (r : Posting), postingOf s f tag = some r →
     barReachable s f = true → hmpStopped s = false →
     (mayPost s r = false → ∀ a b, exec (.mailboxResponsePost f tag a b) s = .next s) ∧
     (mayPost s r = true → let m := (fnOf s f).mailbox
     (m.notifyOnResponse = false → ∃ t, exec (.mailboxResponsePost f tag true true) s = .next t ∧ (fnOf t f).mailbox =
       { m with rspTail := (m.rspTail + 1) % ringSlots m, phase := if m.rspTail + 1 = ringSlots m then !m.phase else m.phase,
                inFlight := m.inFlight - 1, active := m.active && (m.enable || decide (1 < m.inFlight)) } ∧
       t.hmp.barOut = s.hmp.barOut ++ [barPost s f r]) ∧
     ∀ a b, (a && b) = false → exec (.mailboxResponsePost f tag a b) s =
       .next (disableMailbox (dmaError (settleResponse s f r) f m.rspTail) f)))

/-- MCTP (R238, R240, R244, R248): a request message has type 0x7E, Integrity Check bit 0 and vendor ID 0x1F6B; one above 4,162
bytes is dropped and counted, one beyond OOB_INFLIGHT is answered with Busy, one with a bad header with Invalid Header, any other
good request joins its endpoint's stream; without an engine to serve it nothing happens, nor does anything for a message of another
form (the model's choice, log entry 128); a message wakes a Battened part first (R398); the bus owner assigns the endpoint ID where MCTP_EID is 0. The admin transport (R237,
R244, Table 10.4): Post completes when the request is taken, or with Busy while 64 responses are held or due; Exchange completes with
its response; Collect delivers a held response and removes it, keeps one that its buffer does not take, or waits CDW12 ms; a malformed
length is Invalid Field in Command, and so is a CDW12 above 10,000 (the model's choice, log entry 131); while the Management island is
not Running the four commands wait. -/
def Obligations.MctpAndAdminTransport : Prop :=
  ((∀ (s₀ : State) (e mt size : Nat) (r : HmpRaw) (p : List Byte),
     let s := beginWake s₀ .mctp
     let go := exec (.mctpMessage { eid := e, msgTag := mt, msgType := 0x7E, ic := false, vendor := 0x1F6B } size r p) s₀
     let st : Stream := ⟨.oob e, .mctp⟩
     let joined : HmpReq :=
       { stream := st, tag := r.tag, opcode := r.opcode, length := r.length, payload := p, barrier := r.flags.testBit 1,
         devtimeRx := now s, order := s.hmp.nextOrder, rights := s.prof.oobRights, dest := .mctp mt, copies := [], discard := false }
     (mctpServes s = false → go = .next s) ∧
     (mctpServes s = true → 4162 < size → go = .next { s with hmp := { s.hmp with mctpOversize := s.hmp.mctpOversize + 1 } }) ∧
     (mctpServes s = true → size ≤ 4162 →
       (∀ off, headerBad .mctp r = some off →
         go = .next (bounce (pruneAnswers { s with hmp := { s.hmp with nextOrder := s.hmp.nextOrder + 1 } }) joined 0x0012 off)) ∧
       (headerBad .mctp r = none → findReq s st r.tag = none → answered s st r.tag = none →
         (s.prof.oobInflight ≤ oobTaken s e → go = .next (bounce s joined 0x0017 0)) ∧
         (oobTaken s e < s.prof.oobInflight → ∃ t, go = .next t ∧ t.hmp.requests = s.hmp.requests ++ [joined])))) ∧
   (∀ (s : State) (src : MctpSrc) (size : Nat) (r : HmpRaw) (p : List Byte), src.msgType ≠ 0x7E ∨ src.ic = true ∨ src.vendor ≠ 0x1F6B →
     exec (.mctpMessage src size r p) s = .next s) ∧
   ∀ (s : State) (e : Nat),
     (s.prof.mctpEid = 0 → isRunning s 3 = true → exec (.mctpEndpointIdAssignment e) s = .next { s with hmp := { s.hmp with mctpEid := e } }) ∧
     (s.prof.mctpEid ≠ 0 → exec (.mctpEndpointIdAssignment e) s = .next s)) ∧
  (∀ (s : State) (a : AdmHdr), adminFetch s a.fn = true → hmpStopped s = false → AdminRoom s a.fn →
     let joined (r : HmpRaw) (dest : RespDest) : HmpReq :=
       { stream := adminStream a.fn, tag := r.tag, opcode := r.opcode, length := r.length, payload := [], barrier := r.flags.testBit 1,
         devtimeRx := now s, order := s.hmp.nextOrder, rights := s.prof.oobRights, dest := dest, copies := [], discard := false }
     let fresh (r : HmpRaw) : Prop := headerBad .admin r = none ∧ findReq s (adminStream a.fn) r.tag = none ∧
       answered s (adminStream a.fn) r.tag = none
     (∀ n raw, n < 16 ∨ 262160 < n → AdminCompletes (exec (.hmpPost a n raw) s) s s a .invalidField 0 [] ∧
       AdminCompletes (exec (.hmpExchange a n raw) s) s s a .invalidField 0 []) ∧
     (∀ n, 16 ≤ n → n ≤ 262160 → AdminCompletes (exec (.hmpPost a n none) s) s s a .dataTransferError 0 [] ∧
       AdminCompletes (exec (.hmpExchange a n none) s) s s a .dataTransferError 0 []) ∧
     (∀ n r, 16 ≤ n → n ≤ 262160 → 64 ≤ heldOrDue s a.fn → AdminCompletes (exec (.hmpPost a n (some r)) s) s s a .success 0x0017 []) ∧
     (∀ n r, 16 ≤ n → n ≤ 262160 → heldOrDue s a.fn < 64 → fresh r → ∃ u, u.hmp.requests = s.hmp.requests ++ [joined r .post] ∧
       exec (.hmpPost a n (some r)) s = .next (adminDone u a .success 0 [])) ∧
     (∀ n r, 16 ≤ n → n ≤ 262160 → fresh r → ∃ u, exec (.hmpExchange a n (some r)) s = .next u ∧
       u.hmp.requests = s.hmp.requests ++ [joined r (.exchange a.cid (4 * n - 64))] ∧ u.hmp.exchanges = s.hmp.exchanges ++ [⟨a.fn, a.cid, r.tag⟩]) ∧
     (∀ tag room ms, room < 64 ∨ 1048643 < room ∨ 10000 < ms →
       AdminCompletes (exec (.hmpCollect a tag room ms) s) s s a .invalidField 0 []) ∧
     (∀ tag room ms, 64 ≤ room → room ≤ 1048640 → ms ≤ 10000 →
       (∀ r, heldMatch s a.fn tag = some r → 64 + r.payload.length ≤ room → AdminCompletes (exec (.hmpCollect a tag room ms) s) s
         { s with hmp := { s.hmp with held := s.hmp.held.erase r } } a .success (r.status + 2 ^ 31) (respHeader r 0 0 false ++ r.payload)) ∧
       (∀ r, heldMatch s a.fn tag = some r → room < 64 + r.payload.length →
         AdminCompletes (exec (.hmpCollect a tag room ms) s) s s a .success 0x0016 []) ∧
       (heldMatch s a.fn tag = none → ms = 0 → AdminCompletes (exec (.hmpCollect a tag room ms) s) s s a .success 0 []) ∧
       (heldMatch s a.fn tag = none → 0 < ms → exec (.hmpCollect a tag room ms) s = .next
         { s with hmp := { s.hmp with collects := s.hmp.collects ++ [⟨a.fn, a.cid, tag, room, now s + ms * 1000⟩] } })) ∧
     (∀ c, (s.hmp.collects.find? fun c => c.fn == a.fn && c.cid == a.cid) = some c →
       (c.ends ≤ now s → AdminCompletes (exec (.hmpCollectTimeout a.fn a.cid) s) s
         { s with hmp := { s.hmp with collects := s.hmp.collects.erase c } } a .success 0 []) ∧
       (now s < c.ends → exec (.hmpCollectTimeout a.fn a.cid) s = .next s))) ∧
  ∀ (s : State) (a : AdmHdr), adminFetch s a.fn = true → hmpStopped s = true →
    let waits (w : AdmHmp) : State := { s with hmp := { s.hmp with waiting := s.hmp.waiting ++ [w] } }
    (∀ n r, exec (.hmpPost a n r) s = .next (waits (.post a n r)) ∧ exec (.hmpExchange a n r) s = .next (waits (.exchange a n r))) ∧
    (∀ tag room ms, exec (.hmpCollect a tag room ms) s = .next (waits (.collect a tag room ms))) ∧
    ∀ q n, q.sender = .fn a.fn → exec (.hmpCancel q n (some a.cid)) s = .next (waits (.cancel q n a.cid))

/-- Operation Status, HMP Cancel and the end of a handle (R241, R243, R246): a sender sees its own handles; a request that has not
been started is answered with Cancelled; one that has started (its response is to be posted, or its long operation runs) is Not
Cancellable, any other Unknown Object; a handle leaves 1 hour
after its operation ended, and not before. -/
def Obligations.OperationsAndCancel : Prop :=
  (∀ (s : State) (q : HmpHdr) (n : Nat), HmpServed s q ruleOperation →
    (∀ h, (s.hmp.handles.find? fun h => h.sender == q.sender && h.handle == n) = some h →
      HmpReports (exec (.operationStatus q n) s) s q 0x0002 (leBytes 1 h.state ++ leBytes 1 h.progress ++ leBytes 2 h.opcode ++
        leBytes 2 h.status ++ zeros 2 ++ leBytes 8 h.detail)) ∧
    ((∀ h ∈ s.hmp.handles, ¬(h.sender = q.sender ∧ h.handle = n)) → HmpAnswers (exec (.operationStatus q n) s) s s q 0x0002 0x001B 0 [])) ∧
  (∀ (s : State) (q : HmpHdr) (n : Nat), HmpServed s q ruleCancel →
    let go := exec (.hmpCancel q n none) s
    (∀ r, findReq s (streamOf q) n = some r → go = .next (hmpDone (answer s { q with tag := n } r.opcode 0x0018 0 []) q 0x0003)) ∧
    (findReq s (streamOf q) n = none →
      ((∃ p ∈ s.hmp.toPost, p.req.stream = streamOf q ∧ p.req.tag = n) ∨
        (∃ h ∈ s.hmp.handles, h.sender = q.sender ∧ h.transport = q.transport ∧ h.tag = n ∧ h.state = 0) →
          HmpAnswers go s s q 0x0003 0x0019 0 []) ∧
      ((∀ p ∈ s.hmp.toPost, ¬(p.req.stream = streamOf q ∧ p.req.tag = n)) →
        (∀ h ∈ s.hmp.handles, ¬(h.sender = q.sender ∧ h.transport = q.transport ∧ h.tag = n ∧ h.state = 0)) →
          HmpAnswers go s s q 0x0003 0x001B 0 []))) ∧
  (∀ (s : State) (q : HmpHdr) (f cid n : Nat), q.sender = .fn f → adminFetch s f = true → hmpStopped s = false → AdminRoom s f →
    s.boot.phase = 5 →
      (∀ r, findReq s (streamOf q) n = some r →
        exec (.hmpCancel q n (some cid)) s = .next (adminDone (answer s { q with tag := n } r.opcode 0x0018 0 []) ⟨f, cid⟩ .success 0 [])) ∧
      (findReq s (streamOf q) n = none →
        (hasStarted s (streamOf q) n = true → AdminCompletes (exec (.hmpCancel q n (some cid)) s) s s ⟨f, cid⟩ .success 0x0019 []) ∧
        (hasStarted s (streamOf q) n = false → AdminCompletes (exec (.hmpCancel q n (some cid)) s) s s ⟨f, cid⟩ .success 0x001B []))) ∧
  ∀ (s : State) (x : Sender) (n : Nat), ∃ hs, exec (.operationHandleExpiry x n) s = .next { s with hmp := { s.hmp with handles := hs } } ∧
    ∀ h, h ∈ hs ↔ h ∈ s.hmp.handles ∧ (h.sender = x → h.handle = n → ∀ t, h.endedAt = some t → now s < t + 3600000000)

/-- Reports that change nothing: Version Query, Region Table Report, Island State Report, Thermal Report and Blower Report (R246,
R340, R358, R395, Tables 11.2, 16.4, 18.7), of 32 bytes, 16 bytes an entry, 88, 72 and 32 bytes. Supply Report (R376, Table 17.7):
84 bytes; once it is delivered each rail's extremes start again from its present reading. -/
def Obligations.PlantReports : Prop :=
  ((∀ (s : State) (q : HmpHdr), HmpServed s q ruleVersion → HmpReports (exec (.versionQuery q) s) s q 0x0001
     (leBytes 1 1 ++ leBytes 1 0xA1 ++ leBytes 1 (if s.sec.cryptoDisable then 0 else 1) ++ zeros 1 ++ leBytes 4 1048576 ++
       leBytes 4 4096 ++ versionBytes (tblFind? 2 s.sec.active) ++ zeros 12)) ∧
   (∀ (s : State) (q : HmpHdr), HmpServed s q ruleRegions → HmpReports (exec (.regionTableReport q) s) s q 0x0503
     (leBytes 2 s.sec.regions.length ++ zeros 6 ++ s.sec.regions.flatMap regionBytes)) ∧
   (∀ (s : State) (q : HmpHdr), HmpServed s q ruleIslandReport → HmpReports (exec (.islandStateReport q) s) s q 0x0407
     (leBytes 8 (now s) ++ leBytes 1 s.boot.phase ++ leBytes 1 s.boot.reason ++ leBytes 1 s.boot.startKind ++
       leBytes 1 s.boot.lastReset ++ ((List.range 42).flatMap fun i => leBytes 1 (islandByte s (islIdOf i))) ++ zeros 2 ++
       (s.boot.phaseAt.flatMap fun t => leBytes 4 (match t with
         | some t => t / 1000
         | none => 0xFFFFFFFF)))) ∧
   (∀ (s : State) (q : HmpHdr), HmpServed s q ruleThermal → HmpReports (exec (.thermalReport q) s) s q 0x0701 (thermalBytes s)) ∧
   (∀ (s : State) (q : HmpHdr), HmpServed s q ruleBlowerReport → HmpReports (exec (.blowerReport q) s) s q 0x0703 (blowerBytes s)) ∧
   (∀ r, (regionBytes r).length = 16) ∧ ∀ s, (thermalBytes s).length = 72 ∧ (blowerBytes s).length = 32) ∧
  (∀ (s : State) (q : HmpHdr), HmpServed s q ruleSupplyReport → s.sup.rails.length = 11 →
     (supplyBytes s).length = 84 ∧
     (q.room < 84 → HmpAnswers (exec (.supplyReport q) s) s s q 0x0705 0x0016 84 []) ∧
     (84 ≤ q.room → HmpAnswers (exec (.supplyReport q) s) s
       { s with sup := { s.sup with rails := s.sup.rails.map fun r => { r with lowest := r.reading, highest := r.reading } } } q 0x0705 0 0
       (supplyBytes s)))

/-- Event Read, Dormer Position, Energy Meter Report and Counter Report (R402, R404 to R407, R410, Tables 19.1, 19.3, 19.4, 19.6):
the records of an area in order, with the newest and the oldest SEQ, any other area is Field Out Of Range; a meter or the counters of a function, a VF's own only. -/
def Obligations.TelemetryReports : Prop :=
  (∀ (s : State) (q : HmpHdr) (first area severity most : Nat), HmpServed s q ruleEventRead →
    let rs := ((areaRecords s (area == 1) first).filter fun r => decide (severity ≤ r.severity)).take most
    (area < 2 → HmpReports (exec (.eventRead q first area severity most) s) s q 0x0801 (leBytes 6 (newestSeq s) ++ leBytes 6 (oldestSeq s) ++
      leBytes 2 rs.length ++ leBytes 1 (if area = 0 ∧ first < oldestSeq s then 1 else 0) ++ zeros 1 ++ rs.flatMap recordBytes64)) ∧
    (2 ≤ area → HmpAnswers (exec (.eventRead q first area severity most) s) s s q 0x0801 0x0014 6 []) ∧
    ∀ r, (recordBytes64 r).length = 64) ∧
  (∀ (s : State) (q : HmpHdr) (cursor : Nat) (permanent : Bool), HmpServed s q ruleDormerPosition →
    (cursorBad s cursor permanent = true → exec (.dormerPosition q cursor permanent) s = .next (rejectWrite s q 0x0802 0x0014 0)) ∧
    (cursorBad s cursor permanent = false → HmpApplies (exec (.dormerPosition q cursor permanent) s) s
      (dormerSnapshot s cursor permanent) q 0x0802)) ∧
  (∀ (s : State) (q : HmpHdr) (f : Nat), HmpServed s q ruleEnergy →
    (ownFn q.sender f = true → f < 256 ∨ f = 0xFFFF → HmpReports (exec (.energyMeterReport q f) s) s q 0x0803 (meterBytes s f)) ∧
    (ownFn q.sender f = false → HmpAnswers (exec (.energyMeterReport q f) s) s s q 0x0803 0x0011 0 []) ∧
    (ownFn q.sender f = true → 256 ≤ f → f ≠ 0xFFFF → HmpAnswers (exec (.energyMeterReport q f) s) s s q 0x0803 0x001B 0 [])) ∧
  (∀ (s : State) (q : HmpHdr) (f : Nat), HmpServed s q ruleCounters →
    (ownFn q.sender f = true → f < 256 → HmpReports (exec (.counterReport q f) s) s q 0x0804 (counterBytes s f)) ∧
    (ownFn q.sender f = false → HmpAnswers (exec (.counterReport q f) s) s s q 0x0804 0x0011 0 []) ∧
    (ownFn q.sender f = true → 256 ≤ f → HmpAnswers (exec (.counterReport q f) s) s s q 0x0804 0x001B 0 [])) ∧
  ∀ s f, (meterBytes s f).length = 64

/-- Contract Report, Bay Capacity Report and Calendar Snapshot (R71, R246, Tables 03.1, 03.7, 03.9): each returns its entries, of
32, 40 and 8 bytes, and changes nothing; a number out of range is answered with its offset, a die that is not populated with
Unknown Object, another function's contracts of a VF with Not Permitted. Bad Block Report, Media Wear Report and Die Retire (R111,
R125, R130, Tables 05.2, 05.10): 64 entries of 8 bytes, one entry of 16 bytes for each populated die; a retirement is a planned
step and a long operation, and a retired die answers Success at once. -/
def Obligations.CapacityAndMediaReports : Prop :=
  ((∀ (s : State) (q : HmpHdr) (fn : Nat), HmpServed s q ruleContractReport →
     let ks := s.adm.contracts.filter (·.fn == fn)
     (fn < 256 → ownFn q.sender fn = true → HmpReports (exec (.contractReport q fn) s) s q 0x0102
       (leBytes 2 ks.length ++ zeros 6 ++ ks.flatMap contractBytes)) ∧
     (fn < 256 → ownFn q.sender fn = false → HmpAnswers (exec (.contractReport q fn) s) s s q 0x0102 0x0011 0 []) ∧
     (256 ≤ fn → HmpAnswers (exec (.contractReport q fn) s) s s q 0x0102 0x0014 0 [])) ∧
   (∀ (s : State) (q : HmpHdr) (first count : Nat), HmpServed s q ruleBayCapacity →
     let bays := (baysOf s.prof).filter fun b => decide (first ≤ b) && decide (b < first + count) && seesBay s q.sender b
     (first < 256 → 0 < count → count ≤ 256 → HmpReports (exec (.bayCapacityReport q first count) s) s q 0x0103
       (leBytes 2 bays.length ++ zeros 6 ++ bays.flatMap (bayBytes s))) ∧
     (256 ≤ first → HmpAnswers (exec (.bayCapacityReport q first count) s) s s q 0x0103 0x0014 0 []) ∧
     (first < 256 → count = 0 ∨ 256 < count → HmpAnswers (exec (.bayCapacityReport q first count) s) s s q 0x0103 0x0014 2 [])) ∧
   (∀ (s : State) (q : HmpHdr) (d : Nat), HmpServed s q ruleCalendar →
     (d < 4096 → diePopulated s.prof d = true → HmpReports (exec (.calendarSnapshot q d) s) s q 0x0104
       (leBytes 8 (now s) ++ calendarBytes s d)) ∧
     (d < 4096 → diePopulated s.prof d = false → HmpAnswers (exec (.calendarSnapshot q d) s) s s q 0x0104 0x001B 0 []) ∧
     (4096 ≤ d → HmpAnswers (exec (.calendarSnapshot q d) s) s s q 0x0104 0x0014 0 [])) ∧
   (∀ s b, (bayBytes s b).length = 40) ∧ (∀ k, (contractBytes k).length = 32) ∧ ∀ e, (calBytes e).length = 8) ∧
  ((∀ (s : State) (q : HmpHdr) (d table first : Nat), HmpServed s q ruleBadBlocks →
     let es := ((badTable s d table).drop first).take 64
     (d < 4096 → table < 2 → diePopulated s.prof d = true → HmpReports (exec (.badBlockReport q d table first) s) s q 0x0301
       (leBytes 2 es.length ++ zeros 6 ++ es.flatMap badEntryBytes)) ∧
     (d < 4096 → table < 2 → diePopulated s.prof d = false →
       HmpAnswers (exec (.badBlockReport q d table first) s) s s q 0x0301 0x001B 0 []) ∧
     (4096 ≤ d → HmpAnswers (exec (.badBlockReport q d table first) s) s s q 0x0301 0x0014 0 []) ∧
     (d < 4096 → 2 ≤ table → HmpAnswers (exec (.badBlockReport q d table first) s) s s q 0x0301 0x0014 2 [])) ∧
   (∀ (s : State) (q : HmpHdr) (first count : Nat), HmpServed s q ruleWear →
     let ds := (populatedDies s.prof).filter fun d => decide (first ≤ d) && decide (d < first + count)
     (first < 4096 → 0 < count → count ≤ 4096 → HmpReports (exec (.mediaWearReport q first count) s) s q 0x0302
       (wearHeader s.fl.wear ++ ds.flatMap (wearBytes s))) ∧
     (4096 ≤ first → HmpAnswers (exec (.mediaWearReport q first count) s) s s q 0x0302 0x0014 0 [])) ∧
   (∀ (s : State) (q : HmpHdr) (d : Nat), HmpServed s q ruleRetire →
     (d < 4096 → diePopulated s.prof d = true → (die s d).retired = true → HmpApplies (exec (.dieRetire q d) s) s s q 0x0303) ∧
     (d < 4096 → diePopulated s.prof d = true → (die s d).retired = false → plannedOk s = false → exec (.dieRetire q d) s = .next s) ∧
     (d < 4096 → diePopulated s.prof d = true → (die s d).retired = false → plannedOk s = true → exec (.dieRetire q d) s =
       .next (startLong (plannedStep s) q 0x0303 fun s h => endLong (retireDie s d 3) q.sender h 0 0)) ∧
     (d < 4096 → diePopulated s.prof d = false → HmpAnswers (exec (.dieRetire q d) s) s s q 0x0303 0x001B 0 []) ∧
     (4096 ≤ d → HmpAnswers (exec (.dieRetire q d) s) s s q 0x0303 0x0014 0 [])) ∧
   (∀ e, (badEntryBytes e).length = 8) ∧ (∀ s d, (wearBytes s d).length = 16) ∧ ∀ w, (wearHeader w).length = 64)

/-- Contract Set (R63, R68, R73, Table 10.7): a field out of range is answered with its offset; the first check that fails, in the
order of the resource codes, gives Contract Overbooked with the resource, the place and the shortfall; an accepted change replaces
the contract of its tuple, whose depths start full when it is new; a deletion is always accepted. -/
def Obligations.ContractSet : Prop :=
  ∀ (s : State) (q : HmpHdr) (fn cls dir bound hold cmds bytes burst weight : Nat), HmpServed s q ruleContractSet →
    let go := exec (.contractSet q fn cls dir bound hold cmds bytes burst weight) s
    let k : Contract := { fn := fn, cls := cls, write := dir == 1, bound := bound, hold := hold, cmdRate := cmds, byteRate := bytes,
                          burst := burst, weight := weight, cmdLevel := 0, byteLevel := 0, cmdFull := 0, byteFull := 0 }
    let new := withContract s.adm.contracts (startLevels s.adm.contracts k)
    let valid := fn < 256 ∧ cls < 8 ∧ dir < 2 ∧ bound ≤ 4000000 ∧ 0 < cmds ∧ cmds ≤ 16000000 ∧ 0 < bytes ∧ bytes ≤ 60000000 ∧
      burst ≤ 1000000 ∧ 0 < weight ∧ weight < 256
    (∀ c, valid → (demandChecks s s.adm.contracts new k).find? (·.fails) = some c →
      HmpAnswers go s s q 0x0101 0x0020 (overbookedDetail c) []) ∧
    (valid → (∀ c ∈ demandChecks s s.adm.contracts new k, c.after ≤ c.cap ∨ c.after ≤ c.before) →
      go = .next (hmpDone (setContracts s fn new) q 0x0101)) ∧
    (256 ≤ fn → go = .next (rejectWrite s q 0x0101 0x0014 0)) ∧
    (fn < 256 → 8 ≤ cls → go = .next (rejectWrite s q 0x0101 0x0014 2)) ∧
    (∀ x ∈ new, sameTuple fn cls (dir == 1) x = true → x = startLevels s.adm.contracts k) ∧
    (fn < 256 → cls < 8 → dir < 2 → exec (.contractDelete q fn cls dir) s = .next (hmpDone (setContracts s fn
      (s.adm.contracts.filter fun x => !sameTuple fn cls (dir == 1) x)) q 0x0101))

/-- Pool Quota Set and Pool Report (R303 to R305, R313): a reserved count within its range and the sum of 11,264 is written, and
what a pool uses beyond it is overflow until released; the report of 80 bytes starts the peaks again. -/
def Obligations.BufferPools : Prop :=
  (∀ (s : State) (q : HmpHdr) (pool count : Nat), HmpServed s q ruleQuota →
    let go := exec (.poolQuotaSet q pool count) s
    let fits := (quotaRange pool).1 ≤ count ∧ count ≤ (quotaRange pool).2
    (4 ≤ pool → go = .next (rejectWrite s q 0x0901 0x0014 0)) ∧
    (pool < 4 → ¬fits → go = .next (rejectWrite s q 0x0901 0x0014 2)) ∧
    (pool < 4 → fits → 11264 < quotaSum (withQuota s.prof pool count) → HmpAnswers go s s q 0x0901 0x0021 1 []) ∧
    (pool < 4 → fits → quotaSum (withQuota s.prof pool count) ≤ 11264 →
      HmpApplies go s (setQuota s pool count) q 0x0901 ∧ (setQuota s pool count).prof.buffer = setBits s.prof.buffer (16 * pool) 16 count)) ∧
  (∀ (s : State) (q : HmpHdr), HmpServed s q rulePools →
    (q.room < 80 → HmpAnswers (exec (.poolReport q) s) s s q 0x0902 0x0016 80 []) ∧
    (80 ≤ q.room → ∃ ps, HmpAnswers (exec (.poolReport q) s) s { s with buf := { s.buf with pools := ps } } q 0x0902 0 0 (poolBytes s) ∧
      ps.length = s.buf.pools.length ∧ ∀ i (h : i < ps.length), ps[i].peak = poolInUse s i)) ∧
  ∀ s, (poolBytes s).length = 80

/-! ### The host link (chapter 09) -/

/-- Doorbells (R211, R219): a valid tail is stored and the new entries are fetched, the admin queue's too, within its AQA size; a
valid head frees slots, into which waiting
completions are written; a value beyond the queue, or a queue that is not there, changes nothing else (log entry 70); a doorbell
wakes a Battened part, and a tail doorbell abandons an entry in progress (R396, R398). Register accesses
(R4, R10, R151, R211 to R213, R231, Tables 09.6, 10.3): each register keeps what its fields hold, RW1C bits clear where 1 is
written, a B field of a running mailbox is rejected, a read of KW_DEVTIME_LO latches DevTime, an access of another size or
alignment completes with Unsupported Request and is recorded; writes to reserved offsets are ignored; the registers of a channel
island that is Isolated are still written (R17). -/
def Obligations.DoorbellsAndRegisters : Prop :=
  (∀ (s : State) (f k v : Nat), barReachable s f = false → exec (.sqTailDoorbell f k v) s = .next s ∧ exec (.cqHeadDoorbell f k v) s = .next s ∧
     exec (.kwDevtimeLoRead f) s = .next s ∧ (∀ bar off size, exec (.unsupportedBarAccess f bar off size) s = .next s) ∧
     (∀ off, exec (.registerWrite f .bar2 off v) s = .next s ∧ exec (.registerWrite f .bar0 off v) s = .next s)) ∧
  (∀ s : State, s.boot.phase ≠ 6 → s.bat.entryAt = none → ∀ c n, beginWake s c = s ∧ abandonEntry (beginWake s c) n = s) ∧
  (∀ (s₀ : State) (f k v : Nat), barReachable s₀ f = true →
     let s := abandonEntry (beginWake s₀ .doorbell) 0
     let x := fnOf s f
     let go := exec (.sqTailDoorbell f k v) s₀
     (k = 0 → v < adminSize x 0 → go = .next (fetchAll (updFn s f fun x => { x with adminTail := v }))) ∧
     (k = 0 → adminSize x 0 ≤ v → go = .next s) ∧
     (bits (tblGet 0 0x24 x.bar0).toNat 0 12 ≠ 0 → adminSize x 0 = bits (tblGet 0 0x24 x.bar0).toNat 0 12 + 1) ∧
     (∀ q, 0 < k → tblFind? k x.sqs = some q → v < q.size →
       go = .next (fetchAll (updFn s f fun x => { x with sqs := tblSet k { q with tail := v } x.sqs }))) ∧
     (∀ q, 0 < k → tblFind? k x.sqs = some q → q.size ≤ v → go = .next s) ∧
     (0 < k → tblFind? k x.sqs = none → go = .next s)) ∧
  (∀ (s₀ : State) (f k v : Nat), barReachable s₀ f = true →
     let s := beginWake s₀ .doorbell
     let x := fnOf s f
     let go := exec (.cqHeadDoorbell f k v) s₀
     let cq? := if k = 0 then some (tblGet cqDefault 0 x.cqs) else tblFind? k x.cqs
     (∀ q, cq? = some q → v < q.size →
       let t := updFn s f fun x => { x with cqs := tblSet k { q with head := v } x.cqs }
       go = .next (flushCq t f k) ∧ ((∀ w ∈ s.host.cqWait, ¬(w.1.fn = f ∧ w.1.cqid = k)) → go = .next t)) ∧
     (∀ q, cq? = some q → q.size ≤ v → go = .next s) ∧
     (cq? = none → go = .next s)) ∧
  (∀ (s₀ : State) (f v : Nat), barReachable s₀ f = true → v < 2 ^ 32 →
     let s := beginWake s₀ .register
     let go (off : Nat) := exec (.registerWrite f .bar2 off v) s₀
     let w : U32 := BitVec.ofNat 32 v
     let m := (fnOf s f).mailbox
     let cleared (m : MailboxSt) : MailboxSt :=
       { m with badTail := m.badTail && bits v 0 1 == 0, badHead := m.badHead && bits v 1 1 == 0, dmaError := m.dmaError && bits v 2 1 == 0 }
     go 0x14 = .next (updFn s f fun x => { x with regErr := x.regErr &&& ~~~(w &&& 3#32) }) ∧
     (bits v 0 11 < vectorsOf f → go 0x18 = .next (updFn s f fun x => { x with notify := w &&& 0x800007FF#32 })) ∧
     (vectorsOf f ≤ bits v 0 11 → go 0x18 = .next (rejectRegister s f 1 0x18)) ∧
     go 0x1C = .next (updFn s f fun x => { x with scratch := w }) ∧
     (m.active = false → v % 4096 = 0 → go 0x1000 = .next (updMailbox s f fun m => { m with reqBaseLo := w }) ∧
       go 0x1008 = .next (updMailbox s f fun m => { m with rspBaseLo := w })) ∧
     (m.active = false → v % 4096 ≠ 0 → go 0x1000 = .next (rejectRegister s f 1 0x1000) ∧ go 0x1008 = .next (rejectRegister s f 1 0x1008)) ∧
     (m.active = false → go 0x1004 = .next (updMailbox s f fun m => { m with reqBaseHi := w }) ∧
       go 0x100C = .next (updMailbox s f fun m => { m with rspBaseHi := w })) ∧
     (m.active = false → 4 ≤ v % 16 → v % 16 ≤ 10 → go 0x1010 = .next (updMailbox s f fun m => { m with ringOrder := BitVec.ofNat 4 v })) ∧
     (m.active = true → ∀ off ∈ [0x1000, 0x1004, 0x1008, 0x100C, 0x1010], go off = .next (rejectRegister s f 0 off)) ∧
     go 0x102C = .next (updMailbox s f cleared) ∧
     (∀ off, 0x1030 ≤ off → off < 0x5000 → go off = .next s) ∧
     (f = 0 → go 0x8010 = .next { s with evt := { s.evt with cursorLo := w } }) ∧
     exec (.registerWrite f .bar0 0x24 v) s₀ = .next (updFn s₀ f fun x => { x with bar0 := tblSet 0x24 w x.bar0 }) ∧
     exec (.kwDevtimeLoRead f) s₀ = .next (updFn s₀ f fun x => { x with devtimeLatch := now s }) ∧
     (∀ bar off size, bar = 0 ∨ bar = 2 → (size ≠ 4 ∧ size ≠ 8) ∨ off % size ≠ 0 →
       exec (.unsupportedBarAccess f bar off size) s₀ = .next (accessError
         { s₀ with host := { s₀.host with unsupported := s₀.host.unsupported ++ [(f, bar, off)] } } f off 0))) ∧
  ∀ (s : State) (f c v : Nat), v < 2 ^ 32 → mgmtDown s = false → chRunning s c = true ∨ (c < 32 ∧ (island s (chIsland c)).st = .isolated) →
    exec (.registerWrite f (.channel c) 0x104 v) s = .next (updChan s c fun x => { x with sdr1 := BitVec.ofNat 32 v })

/-- Resets of functions (R209, R210, R221 to R223, R261): a controller reset leaves registers, queues and features of the function
at their reset values and its commands gone; an FLR also the mailbox and its keys; the PF's takes every VF with it; shutdown of
the PF marks the next start clean; a Battened part wakes first; enabling makes the controller ready at PHASE 5. The link, conventional reset, VF Enable and
interrupts (R206, R210, R220, R221, R223, R391): the link trains at no more than MAX_SPEED and MAX_WIDTH; a conventional reset is
ignored while Power Loss is raised; VF Enable gives each VF its assignment, clearing it removes the VFs; unmasking a vector issues
its pending message. -/
def Obligations.FunctionResetsAndLink : Prop :=
  ((∀ (s : State) (f : Nat),
     let w := beginWake s .register
     let adminCq (x : FnSt) : Tbl Nat CqSt := tblSet 0 { cqDefault with size := adminSize x 16 } x.cqs
     (barReachable s f = false → exec (.controllerReset f) s = .next s ∧ exec (.ccEnable f) s = .next s ∧ exec (.controllerShutdown f) s = .next s) ∧
     (barReachable s f = true →
       ((fnOf s f).ccEn = true → exec (.controllerReset f) s = .next (fnReset .controller f w) ∧ exec (.ccEnable f) s = .next s) ∧
       ((fnOf s f).ccEn = false → exec (.controllerReset f) s = .next s ∧ exec (.controllerShutdown f) s = .next s) ∧
       ((fnOf s f).ccEn = false → (fnOf w f).online = true → (fnOf w f).cfs = false → w.boot.phase = 5 →
         exec (.ccEnable f) s = .next (updFn w f fun x => { x with ccEn := true, ccAt := now w, rdy := true, cqs := adminCq x })) ∧
       ((fnOf s f).ccEn = false → (fnOf w f).online = false →
         exec (.ccEnable f) s = .next (updFn w f fun x => { x with ccEn := true, ccAt := now w, cfs := true, cqs := adminCq x })) ∧
       (f = 0 → (fnOf s 0).ccEn = true → w.boot.phase = 5 ∨ w.boot.phase = 6 → exec (.controllerShutdown 0) s = .next
         { updFn w 0 fun x => { x with shst := 2 } with boot := { w.boot with cleanMark := true }, eav := { w.eav with journalTail := 0 } }) ∧
       (0 < f → (fnOf s f).ccEn = true → exec (.controllerShutdown f) s = .next (forEach (w.adm.cmds.filter fun c => c.fn == f && !c.accepted)
         (fun c s => discardCmd s c) (updFn w f fun x => { x with shst := 2, fetchPaused := true })))) ∧
     (s.eav.powerLoss = false → s.host.linkUp = true →
       (0 < f → (fnOf s f).present = true → exec (.vfFlr f) s = .next (clearFnKeys (fnReset .flr f (beginWake s .flr)) f)) ∧
       (f = 0 ∨ (fnOf s f).present = false → exec (.vfFlr f) s = .next s) ∧
       exec .pfFlr s = .next (resetPf (beginWake s .flr) .flr)) ∧
     (s.boot.phase ≠ 6 → ∀ c, beginWake s c = s)) ∧
   ∀ (s : State) (f : Nat) (k : ResetKind), let t := fnReset k f s
     (fnOf t f).sqs = [] ∧ (fnOf t f).cqs = [] ∧ (fnOf t f).ccEn = false ∧ (fnOf t f).rdy = false ∧ (fnOf t f).feat = featDefault ∧
       (fnOf t f).aers = [] ∧ (∀ b ∈ t.adm.bindings, b.1.1 ≠ f) ∧ (k ≠ .controller → (fnOf t f).mailbox = mailboxDefault)) ∧
  (∀ (s : State) (n f : Nat),
     (∀ rate width, isRunning s 1 = true → s.eav.powerLoss = false → width ∈ [1, 2, 4, 8] → 0 < rate → rate ≤ 6 → s.pins.testMode = false →
       let up := { s with pins := { s.pins with perstN := true } }
       exec (.perstNDeassert rate width) s = .next (linkTo up rate width) ∧
       (linkTo up rate width).host.linkUp = true ∧ (linkTo up rate width).host.link.power = .l0 ∧
       (linkTo up rate width).host.rate = min rate s.prof.maxSpeed ∧ (linkTo up rate width).host.width = min width s.prof.maxWidth) ∧
     (let w := beginWake s .perst
      (w.eav.powerLoss = false → exec .conventionalReset s = .next
        (resetPf { w with host := { w.host with linkUp := false, link := linkDefault } } .conventional)) ∧
      (w.eav.powerLoss = true → exec .conventionalReset s = .next w)) ∧
     (s.eav.powerLoss = true ∨ s.host.linkUp = false → exec .pfFlr s = .next s ∧ exec (.vfFlr f) s = .next s ∧ exec .vfDisable s = .next s) ∧
     (s.host.linkUp = true → s.host.vfEnabled = false → 0 < n → n ≤ s.prof.totalVfs → exec (.vfEnable n) s = .next
       { assignVfs s n with host := { (assignVfs s n).host with vfEnabled := true, numVfs := n, lastNumVfs := n } }) ∧
     (0 < f → f ≤ n → n ≠ s.host.lastNumVfs → let x := fnOf (assignVfs s n) f
       x.present = true ∧ x.online = true ∧ x.vqAssigned = min 128 (16256 / n)) ∧
     (n = 0 ∨ s.prof.totalVfs < n → exec (.vfEnable n) s = .next s) ∧
     (s.host.linkUp = true → s.host.vfEnabled = true → s.eav.powerLoss = false →
       exec .vfDisable s = .next (removeVfs .flr s) ∧ (removeVfs .flr s).host.vfEnabled = false) ∧
     (∀ v, v < vectorsOf f → (fnOf s f).present = true →
       let t := updFn s f fun x => { x with msixMasked := x.msixMasked.filter (· != v), msixPending := x.msixPending.filter (· != v) }
       (v ∈ (fnOf s f).msixPending → exec (.msixUnmask f v) s = .next (raiseVector t f v)) ∧
       (v ∉ (fnOf s f).msixPending → exec (.msixUnmask f v) s = .next t)))

/-! ### I/O commands and admission (chapters 02 to 04) -/

/-- An I/O command that passes the checks before admission is evaluated (R36, R44, R55, R64 to R67, R80, R86, R214, R259), with
its class, direction, deadline, units and zone; the fetched entry is taken from the host. What each command does when it is accepted
at once (R37, R38, R40, R43, R44, R46, R55, R81): a Flush, a report and a Zone Management Send complete; a Deallocate and a Set
Zone Descriptor Extension wait for the ranges or the extension (R66); a Read whose slots are all served returns its data, and otherwise
waits for them; a write advances its zone and reads its data from the host,
Write Zeroes brings zeroes into the Eaves Buffer; a Copy reads its sources, then writes. Errors before admission (R36, R102,
R214, R259, R263, R393): the command completes with its standard error and is not evaluated; an entry that cannot have been
fetched, or whose identifier is in use, has no effect. -/
def Obligations.IoCommandsAreEvaluated : Prop :=
  (∀ (s : State) (h : IoHdr) (ns : NsSt), canFetch s h = true → cmdOf s h.fn h.sqid h.cid = none → s.boot.phase ≠ 7 →
     s.sec.sanitizing = false → nsOf s h.nsid = some ns → attachedTo ns h.fn = true → (selectKey s h ns).isSome = true →
     let l := lbaUnits ns
     let goes (op : Instr) (write : Bool) (dmin u n charge : Nat) (z : Option Nat) : Prop :=
       exec op s = .next (evaluate (takeFetched s h) (newCmd s h op write dmin u n charge z))
     let fits (slba n : Nat) : Prop := 0 < n ∧ slba + n ≤ ns.nsze
     let starts (z : Nat) : Prop := z < ns.nsze ∧ z * l % zoneUnits = 0
     (∀ a n, fits a n → n * l ≤ 2048 → goes (.read h a n) false (up25 (readSum s (a * l) (n * l) (widthOver s ns (a * l) (n * l)))) (a * l)
       (n * l) (n * l * 4096) (zoneOf ns a)) ∧
     (∀ a n, fits a n → n * l ≤ 2048 → goes (.write h a n) true (up25 (writeSum s (n * l * 4096))) (a * l) (n * l) (n * l * 4096) (zoneOf ns a)) ∧
     (∀ a n, fits a n → goes (.writeZeroes h a n) true (up25 (writeSum s (n * l * 4096))) (a * l) (n * l) (n * l * 4096) (zoneOf ns a)) ∧
     goes (.flush h) true 25 0 0 0 none ∧
     (∀ rs, (∀ e ∈ rs, e.1 + e.2 ≤ ns.nsze) → goes (.datasetManagementDeallocate h rs) true (up25 (6500 + 50 * rs.length)) 0 0 0 none) ∧
     (∀ src d, src ≠ [] → src.length ≤ 128 → (∀ e ∈ src, e.2 ≤ 32768 ∧ e.1 + e.2 ≤ ns.nsze) → sumNat (src.map (·.2)) ≤ 32768 →
       fits d (sumNat (src.map (·.2))) → let n := sumNat (src.map (·.2)) * l
       goes (.copy h src d) true (up25 (copyReadSum s ns (src.map fun e => (e.1 * l, e.2 * l)) + writeSum s (n * 4096) + 50000)) (d * l) n
         (2 * n * 4096) (zoneOf ns d)) ∧
     (ns.zoned = true →
       (∀ z n, starts z → fits z n → n * l ≤ 2048 →
         goes (.zoneAppend h z n) true (up25 (writeSum s (n * l * 4096))) (z * l) (n * l) (n * l * 4096) (zoneOf ns z)) ∧
       (∀ z, starts z → goes (.zoneOpen h z false) true 50 (z * l) 0 0 (zoneOf ns z) ∧ goes (.zoneClose h z false) true 50 (z * l) 0 0 (zoneOf ns z) ∧
         goes (.zoneFinish h z false) true 75 (z * l) 0 0 (zoneOf ns z) ∧ goes (.zoneReset h z false) true 100 (z * l) 0 0 (zoneOf ns z) ∧
         goes (.zoneOffline h z false) true 100 (z * l) 0 0 (zoneOf ns z)) ∧
       (∀ z e, starts z → extBad ns e = false → goes (.setZoneDescriptorExtension h z e) true 75 (z * l) 0 0 (zoneOf ns z)) ∧
       (∀ a o m, a < ns.nsze → o % 256 ≤ 7 → let n := reportCount s ns a o m
         goes (.reportZones h a o m) false (up25 (10000 + 50 * n)) 0 0 0 none ∧
         goes (.extendedReportZones h a o m) false (up25 (10000 + 50 * n)) 0 0 0 none)) ∧
     (∀ op w d u n ch z, let c := newCmd s h op w d u n ch z
       c.fn = h.fn ∧ c.sqid = h.sqid ∧ c.cid = h.cid ∧ c.op = op ∧ c.write = w ∧ c.cls = (arrivalOf s h).1 ∧ c.t0 = (arrivalOf s h).2 ∧
         c.dl = c.t0 + max (boundHold s h.fn c.cls w).1 d ∧ c.hend = c.t0 + (boundHold s h.fn c.cls w).2 ∧ c.accepted = false ∧
         c.unit0 = u ∧ c.units = n ∧ c.bytes = n * 4096 ∧ c.charge = ch ∧ c.zone = z) ∧
     (∀ e, fetchedOf s h = some e → arrivalOf s h = (e.cls, e.at')) ∧
     (fetchedOf s h = none → arrivalOf s h = (classOf s h.fn h.sqid, now s)) ∧
     let meets (op : Instr) (write : Bool) (dmin u n charge : Nat) (z : Option Nat) (then' : State → Cmd → Prop) : Prop :=
       ∀ t d, AcceptedNow (takeFetched s h) (newCmd s h op write dmin u n charge z) t d → then' t d
     (∀ a n, fits a n → n * l ≤ 2048 →
       meets (.read h a n) false (up25 (readSum s (a * l) (n * l) (widthOver s ns (a * l) (n * l)))) (a * l) (n * l) (n * l * 4096) (zoneOf ns a)
         fun t d => readOffline t d = false →
           ((∀ x ∈ d.slots, x.done = true) → (∀ v ∈ d.data, v ≠ none) → (∀ x ∈ d.slots, x.route ≠ .unrecoverable) →
             exec (.read h a n) s = .next (completeCmd t d .success 0 [] d.data)) ∧
           ((∃ x ∈ d.slots, x.done = false) → exec (.read h a n) s = .next t)) ∧
     (∀ a n, fits a n → n * l ≤ 2048 →
       meets (.write h a n) true (up25 (writeSum s (n * l * 4096))) (a * l) (n * l) (n * l * 4096) (zoneOf ns a)
         fun t d => zoneWriteError t d = none → ∃ t', exec (.write h a n) s = .next t' ∧ t'.adm.hostReadsOpen = t.adm.hostReadsOpen + n * l ∧
           t'.adm.backlog = t.adm.backlog + n * l * 4096 ∧ ∀ zi, zoneOf ns a = some zi → t'.zns = (advanceZone t h.fn h.nsid zi (n * l)).zns) ∧
     (∀ a n, fits a n →
       meets (.writeZeroes h a n) true (up25 (writeSum s (n * l * 4096))) (a * l) (n * l) (n * l * 4096) (zoneOf ns a)
         fun t d => zoneWriteError t d = none → ∃ t', exec (.writeZeroes h a n) s = .next t' ∧
           t'.adm.backlog = t.adm.backlog + n * l * 4096 ∧ ∃ us, t'.eav.units = t.eav.units ++ us ∧ us.length = n * l ∧ ∀ e ∈ us, e.content = 0) ∧
     meets (.flush h) true 25 0 0 0 none (fun t d => exec (.flush h) s = .next (completeCmd t d .success 0 [] [])) ∧
     (∀ rs, (∀ e ∈ rs, e.1 + e.2 ≤ ns.nsze) → meets (.datasetManagementDeallocate h rs) true (up25 (6500 + 50 * rs.length)) 0 0 0 none
       fun t d => listWaits d = true ∧ exec (.datasetManagementDeallocate h rs) s = .next t) ∧
     (∀ src a, src ≠ [] → src.length ≤ 128 → (∀ e ∈ src, e.2 ≤ 32768 ∧ e.1 + e.2 ≤ ns.nsze) → sumNat (src.map (·.2)) ≤ 32768 →
       fits a (sumNat (src.map (·.2))) → let n := sumNat (src.map (·.2)) * l
       meets (.copy h src a) true (up25 (copyReadSum s ns (src.map fun e => (e.1 * l, e.2 * l)) + writeSum s (n * 4096) + 50000)) (a * l) n
         (2 * n * 4096) (zoneOf ns a)
         fun t d => zoneWriteError t d = none → readOffline t d = false → let p := takeCopyBufs t d
           ((∃ x ∈ p.2.slots, x.done = false) → exec (.copy h src a) s = .next p.1) ∧
           ((∀ x ∈ p.2.slots, x.done = true) → (∀ v ∈ p.2.data, v ≠ none) → (∀ x ∈ p.2.slots, x.route ≠ .unrecoverable) →
             exec (.copy h src a) s = .next (finishCopy p.1 p.2))) ∧
     (ns.zoned = true →
       (∀ z n, starts z → fits z n → n * l ≤ 2048 →
         meets (.zoneAppend h z n) true (up25 (writeSum s (n * l * 4096))) (z * l) (n * l) (n * l * 4096) (zoneOf ns z)
           fun t d => zoneWriteError t d = none → ∃ t', exec (.zoneAppend h z n) s = .next t' ∧
             t'.adm.hostReadsOpen = t.adm.hostReadsOpen + n * l ∧ t'.adm.backlog = t.adm.backlog + n * l * 4096 ∧
             ∀ zi, zoneOf ns z = some zi → t'.zns = (advanceZone t h.fn h.nsid zi (n * l)).zns) ∧
       (∀ (z dmin : Nat) (op : Instr) (all : Bool), (op = .zoneOpen h z all ∧ dmin = 50) ∨ (op = .zoneClose h z all ∧ dmin = 50) ∨
           (op = .zoneFinish h z all ∧ dmin = 75) ∨ (op = .zoneReset h z all ∧ dmin = 100) ∨ (op = .zoneOffline h z all ∧ dmin = 100) →
         (all = false → starts z → ∀ zi, zoneOf ns z = some zi → meets op true dmin (z * l) 0 0 (some zi) fun t d => ∀ ns', nsOf t h.nsid = some ns' →
           exec op s = .next (completeCmd (zoneAction t ns' d zi).1 d (zoneAction t ns' d zi).2 0 [] [])) ∧
         (all = true → ∀ zs, selectAll s (newCmd s h op true dmin (z * l) 0 0 none) = some zs →
           goes op true (up25 ((100 + zs.length) * 1000)) 0 0 0 none ∧
           meets op true (up25 ((100 + zs.length) * 1000)) 0 0 0 none fun t d => ∀ ns' zs', nsOf t h.nsid = some ns' → selectAll t d = some zs' →
             (∀ k, op ≠ .zoneOpen h k true) ∨ openZones t h.fn + zs'.length ≤ (limitsOf t h.fn).2 →
             exec op s = .next (completeCmd (forEach zs' (fun zi u => (zoneAction u ns' d zi).1) t) d .success 0 [] []))) ∧
       (∀ z e, starts z → extBad ns e = false → ∀ zi, zoneOf ns z = some zi → meets (.setZoneDescriptorExtension h z e) true 75 (z * l) 0 0 (some zi)
         fun t d => listWaits d = true ∧ exec (.setZoneDescriptorExtension h z e) s = .next t) ∧
       (∀ a o m, a < ns.nsze → o % 256 ≤ 7 → let n := reportCount s ns a o m
         (meets (.reportZones h a o m) false (up25 (10000 + 50 * n)) 0 0 0 none fun t d => ∀ ns', nsOf t h.nsid = some ns' →
           exec (.reportZones h a o m) s = .next (completeCmd t d .success 0 (zoneReport t ns' a o m false) [])) ∧
         (meets (.extendedReportZones h a o m) false (up25 (10000 + 50 * n)) 0 0 0 none fun t d => ∀ ns', nsOf t h.nsid = some ns' →
           exec (.extendedReportZones h a o m) s = .next (completeCmd t d .success 0 (zoneReport t ns' a o m true) []))))) ∧
  (∀ (s : State) (h : IoHdr),
     (canFetch s h = false → (∀ a n, exec (.read h a n) s = .next s ∧ exec (.write h a n) s = .next s) ∧ exec (.flush h) s = .next s ∧
       ∀ op, exec (.invalidIoOpcode h op) s = .next s) ∧
     (canFetch s h = true → cmdOf s h.fn h.sqid h.cid = none →
       let early (c : Instr) (e : NvmeStatus) : Prop := exec c s = .next (completeEarly (takeFetched s h) h (arrivalOf s h).1 e)
       (s.boot.phase = 7 → ∀ a n, early (.read h a n) .invalidNamespace ∧ early (.write h a n) .invalidNamespace ∧ early (.flush h) .invalidNamespace) ∧
       (s.boot.phase ≠ 7 → s.sec.sanitizing = true → ∀ a n, early (.read h a n) .sanitizeInProgress ∧ early (.write h a n) .sanitizeInProgress) ∧
       (s.boot.phase ≠ 7 → s.sec.sanitizing = false →
         (nsOf s h.nsid = none → ∀ a n, early (.read h a n) .invalidNamespace ∧ early (.zoneReset h a false) .invalidNamespace) ∧
         (∀ ns, nsOf s h.nsid = some ns → attachedTo ns h.fn = false → ∀ a n, early (.read h a n) .invalidNamespace) ∧
         (∀ ns, nsOf s h.nsid = some ns → attachedTo ns h.fn = true →
           (ns.zoned = false → ∀ a n, early (.zoneAppend h a n) .invalidOpcode ∧ early (.zoneReset h a false) .invalidOpcode ∧
             early (.reportZones h a 0 n) .invalidOpcode) ∧
           (selectKey s h ns = none → ∀ a n, early (.read h a n) .invalidField) ∧
           ((selectKey s h ns).isSome = true → ∀ a n,
             (0 < n → n * lbaUnits ns ≤ 2048 → ns.nsze < a + n → early (.read h a n) .lbaOutOfRange ∧ early (.write h a n) .lbaOutOfRange) ∧
             (2048 < n * lbaUnits ns → early (.read h a n) .invalidField ∧ early (.write h a n) .invalidField)))) ∧
       (s.boot.phase ≠ 7 → ∀ op, op ∉ [0x00, 0x01, 0x02, 0x08, 0x09, 0x19, 0x79, 0x7A, 0x7D] → early (.invalidIoOpcode h op) .invalidOpcode)))

/-- One evaluation (R80, R94, R95): refused with 0xC7 under Power Loss and with 0xC5 where the bay is degraded; accepted when its
plan books and its contract or slack covers it; otherwise held until its hold end, or refused there or without a hold or a free
entry; the reason of a command under a contract that neither plan serves is plan a's (the model's choice, log entry 85). What an
accepted command does at once (R36, R40, R43, R55, R81, R103): commands without die work complete; a read whose
slots are all served returns its data, or Unrecovered Read Error; a write advances its zone, or meets the zone's error in its turn among the zone's writes (R182; that a Read of an
Offline zone meets Zone Is Offline is presumed, log entry 34); a Deallocate or a Set Zone Descriptor Extension waits for the ranges or
the extension that it reads from the host (R66). -/
def Obligations.EvaluationStartsCommands : Prop :=
  (∀ (s : State) (c : Cmd), let a := planService s c true
     let b := planService s c false
     (s.eav.powerLoss = true → evaluate s c = refuseCmd s c 0xC7 noHint) ∧
     (s.eav.powerLoss = false →
       (a.degraded = true → evaluate s c = refuseCmd s c 0xC5 noHint) ∧
       (a.degraded = false → a.reason = 0 → withinContract s a.cmd = true → evaluate s c = acceptCmd s a true) ∧
       (a.degraded = false → (a.reason ≠ 0 ∨ withinContract s a.cmd = false) →
         (b.reason = 0 → withinContract s b.cmd = true → evaluate s c = acceptCmd s b true) ∧
         (b.reason = 0 → withinContract s b.cmd = false →
           (slackGrant s b.cmd = true → evaluate s c = acceptCmd s b false) ∧
           (slackGrant s b.cmd = false →
             evaluate s c = holdOrRefuse s { b.cmd with slots := [], slackWait := true } (overReason s b.cmd).1 (overReason s b.cmd).2)) ∧
         (b.reason ≠ 0 →
           (contractOf s c.fn c.cls c.write = none → evaluate s c = holdOrRefuse { s with buf := b.st.buf } { c with slackWait := false } b.reason b.hint) ∧
           ((contractOf s c.fn c.cls c.write).isSome = true →
             (a.reason ≠ 0 → evaluate s c = holdOrRefuse { s with buf := a.st.buf } { c with slackWait := false } a.reason a.hint) ∧
             (a.reason = 0 → evaluate s c =
               holdOrRefuse s { a.cmd with slots := [], slackWait := true } (overReason s a.cmd).1 (overReason s a.cmd).2))))) ∧
     (∀ t d, AcceptedNow s c t d → evaluate s c = startCmd t d) ∧
     (∀ r hint, (c.hend ≤ now s ∨ c.hend = c.t0 → holdOrRefuse s c r hint = refuseCmd (noteFullStore s c r) c r hint) ∧
       (r ≠ 0xC2 → noteFullStore s c r = s) ∧
       (now s < c.hend → c.hend ≠ c.t0 → cmdOf s c.fn c.sqid c.cid = none → holdFree s c.fn = true →
         let w := { c with lastReason := r, chans := planChannels s c }
         holdOrRefuse s c r hint = { s with adm := { s.adm with cmds := s.adm.cmds ++ [{ w with allowance := c.allowance || lateAffected s w }] } }) ∧
       (now s < c.hend → c.hend ≠ c.t0 → cmdOf s c.fn c.sqid c.cid = none → holdFree s c.fn = false →
         holdOrRefuse s c r hint = refuseCmd (updFnCtr s c.fn fun k => { k with holdFull := k.holdFull + 1 }) c r hint))) ∧
  (∀ (s : State) (c : Cmd) (h : IoHdr),
     (c.op = .flush h → startCmd s c = completeCmd s c .success 0 [] []) ∧
     (∀ rs, c.op = .datasetManagementDeallocate h rs → (listWaits c = true ↔ c.listRead = false) ∧
       (c.listRead = true → startCmd s c = completeCmd (deallocate s c rs) c .success 0 [] []) ∧ (c.listRead = false → startCmd s c = s)) ∧
     (∀ z e zi ns, c.op = .setZoneDescriptorExtension h z e → c.zone = some zi → nsOf s c.nsid = some ns → mgmtDown s = false →
       (c.listRead = true → startCmd s c = completeCmd (zoneAction s ns c zi).1 c (zoneAction s ns c zi).2 0 [] []) ∧
       (c.listRead = false → startCmd s c = s)) ∧
     (∀ a o m ns, nsOf s c.nsid = some ns →
       (c.op = .reportZones h a o m → startCmd s c = completeCmd s c .success 0 (zoneReport s ns a o m false) []) ∧
       (c.op = .extendedReportZones h a o m → startCmd s c = completeCmd s c .success 0 (zoneReport s ns a o m true) [])) ∧
     (∀ a n, c.op = .read h a n → readOffline s c = true → startCmd s c = completeCmd s c .zoneOffline 0 [] []) ∧
     (∀ a n, c.op = .read h a n → readOffline s c = false →
       ((∀ x ∈ c.slots, x.done = true) → (∀ v ∈ c.data, v ≠ none) → (∀ x ∈ c.slots, x.route ≠ .unrecoverable) →
         startCmd s c = completeCmd s c .success 0 [] c.data) ∧
       ((∀ x ∈ c.slots, x.done = true) → (∃ x ∈ c.slots, x.route = .unrecoverable) → ∃ t, startCmd s c = completeCmd t c .unrecoveredRead 0 [] [] ∧
         t.adm = s.adm) ∧
       ((∃ x ∈ c.slots, x.done = false) → startCmd s c = s)) ∧
     (∀ a n src e, c.op = .write h a n ∨ c.op = .zoneAppend h a n ∨ c.op = .writeZeroes h a n ∨ c.op = .copy h src a →
       zoneWriteError s c = some e → startCmd s c = endWrite s c e) ∧
     (∀ e, s.adm.cmds = [c] → c.accepted = true → c.write = true → 0 < c.units →
       endWrite s c e = completeCmd (updCmd s c fun x => { x with endStatus := some e }) { c with endStatus := some e } e 0 [] []) ∧
     (∀ a n, c.op = .write h a n → c.zone = none → (startCmd s c).adm.hostReadsOpen = s.adm.hostReadsOpen + c.units ∧
       (startCmd s c).adm.backlog = s.adm.backlog + c.bytes ∧ (startCmd s c).boot.cleanMark = false))

/-- Zone Management Send on one zone (R36 to R39, R42, R43, R46, R47): the state that each action gives, and Invalid Zone State
Transition from a state that the action does not take. -/
def Obligations.ZoneActions : Prop :=
  ∀ (s : State) (ns : NsSt) (c : Cmd) (h : IoHdr) (z zi : Nat), let st := (zone s ns.nsid zi).st
    let now' (x : State × NvmeStatus) : ZoneState × NvmeStatus := ((zone x.1 ns.nsid zi).st, x.2)
    let bad : State × NvmeStatus := (s, .invalidZoneTransition)
    (c.op = .zoneOpen h z false →
      (st = .explicitOpen → zoneAction s ns c zi = (s, .success)) ∧ (st = .full ∨ st = .readOnly ∨ st = .offline → zoneAction s ns c zi = bad) ∧
      (st = .empty ∨ st = .closed ∨ st = .implicitOpen →
        (∀ e, activationError s c.fn (zone s ns.nsid zi) true = some e → zoneAction s ns c zi = (s, e)) ∧
        (activationError s c.fn (zone s ns.nsid zi) true = none → now' (zoneAction s ns c zi) = (.explicitOpen, .success)))) ∧
    (c.op = .zoneClose h z false →
      (st = .implicitOpen ∨ st = .explicitOpen → now' (zoneAction s ns c zi) = (.closed, .success)) ∧
      (st = .closed → zoneAction s ns c zi = (s, .success)) ∧
      (st = .empty ∨ st = .full ∨ st = .readOnly ∨ st = .offline → zoneAction s ns c zi = bad)) ∧
    (c.op = .zoneFinish h z false →
      (st = .full → zoneAction s ns c zi = (s, .success)) ∧ (st = .readOnly ∨ st = .offline → zoneAction s ns c zi = bad) ∧
      (st = .empty ∨ st = .implicitOpen ∨ st = .explicitOpen ∨ st = .closed →
        zoneAction s ns c zi = (finishZone s ns.nsid zi false, .success))) ∧
    (c.op = .zoneReset h z false →
      (st = .readOnly ∨ st = .offline → zoneAction s ns c zi = bad) ∧
      (st ≠ .readOnly → st ≠ .offline → zoneAction s ns c zi = (resetZone s ns zi, .success))) ∧
    (c.op = .zoneOffline h z false →
      (st = .readOnly → zoneAction s ns c zi = (offlineZone s ns.nsid zi, .success)) ∧ (st = .offline → zoneAction s ns c zi = (s, .success)) ∧
      (st ≠ .readOnly → st ≠ .offline → zoneAction s ns c zi = bad)) ∧
    (∀ e, c.op = .setZoneDescriptorExtension h z e →
      (st ≠ .empty → zoneAction s ns c zi = bad) ∧
      (st = .empty → activationError s c.fn (zone s ns.nsid zi) false = none → now' (zoneAction s ns c zi) = (.closed, .success) ∧
        (zone (zoneAction s ns c zi).1 ns.nsid zi).ext = some (padTo 64 e)))

/-- Events of admission (R39, R75, R80, R84, R91, R94, R96): a held command is evaluated again on a change and once at its hold
end, an accepted one is not; the first of the held commands that wait for backing of an Empty zone has a thatch bound to it, and
every held command is evaluated (a zone that stays Empty with no command for it has none bound); an ended calendar entry that is no suspend window is freed; the draws of an ended epoch become
those of the last completed one. Write data (R22, R66, R182, R224): data that arrives later than HOST_READ_LAT moves the deadline
by the excess and is counted once (that the excesses of several requests add up is the model's choice, log entry 87); a range list or
an extension starts the command that was accepted before it came; the units,
the poisoned ones marked, enter the Eaves Buffer; what a DRAM channel reports as written counts in that copy. -/
def Obligations.AdmissionAndWrites : Prop :=
  ((∀ (s : State) (f q i : Nat) (c : Cmd), cmdOf s f q i = some c →
     (c.accepted = false → exec (.heldCommandReevaluation f q i) s = .next (resumePurlin (evaluate s c)) ∧
       ∀ t d, AcceptedNow s c t d → exec (.heldCommandReevaluation f q i) s = .next (resumePurlin (startCmd t d)) ∧
         (c.hend ≤ now s → exec (.holdEndExpiry f q i) s = .next (startCmd t d))) ∧
     (c.accepted = true → exec (.heldCommandReevaluation f q i) s = .next (resumePurlin s) ∧ exec (.holdEndExpiry f q i) s = .next s) ∧
     (c.accepted = false → c.hend ≤ now s → exec (.holdEndExpiry f q i) s = .next (evaluate s c)) ∧
     (now s < c.hend → exec (.holdEndExpiry f q i) s = .next s)) ∧
   (∀ (s : State) (n z : Nat), (∀ c, c ∈ bindingWaiters s n z ↔
       c ∈ s.adm.cmds ∧ c.accepted = false ∧ c.nsid = n ∧ c.zone = some z ∧ c.lastReason = 0xC8) ∧
     (mgmtDown s = true ∨ bindingWaiters s n z = [] → exec (.thatchBindingDone n z) s = .next s) ∧
     ∀ c l ns, bindingWaiters s n z = c :: l → mgmtDown s = false → (zone s n z).thatch = none → nsOf s n = some ns →
       (∀ t, bindZone s ns z (servedZone s c z) = some t → exec (.thatchBindingDone n z) s = .next (reevaluateAll t) ∧
         (zone t ns.nsid z).thatch.isSome = true ∧ ((zone t ns.nsid z).st = .empty →
           (∀ x ∈ t.adm.cmds, ¬(x.nsid = ns.nsid ∧ x.zone = some z)) → (zone (unbindEmpty t ns.nsid z) ns.nsid z).thatch = none)) ∧
       (bindZone s ns z (servedZone s c z) = none → exec (.thatchBindingDone n z) s = .next s)) ∧
   (∀ s : State, let ended : State := { s with adm := { s.adm with prevDraws := s.adm.draws, draws := [], epochStart := now s / 10000 * 10000 } }
     (now s < s.adm.epochStart + 10000 → exec .slackEpochEnd s = .next s) ∧
     (s.adm.epochStart + 10000 ≤ now s → now s < s.adm.epochStart + 20000 → exec .slackEpochEnd s = .next ended) ∧
     (s.adm.epochStart + 20000 ≤ now s → exec .slackEpochEnd s = .next { ended with adm := { ended.adm with prevDraws := [] } })) ∧
   ∀ (s : State) (d a : Nat),
     let gone (e : CalEntry) : Bool := e.die == d && e.start == a && e.kind != .suspendWindow && decide (a + e.length ≤ now s)
     (s.fl.calendar.any gone = false → exec (.calendarEntryEnd d a) s = .next s) ∧
     (s.fl.calendar.any gone = true → exec (.calendarEntryEnd d a) s = .next (reevaluateAll
       { s with fl := { s.fl with calendar := s.fl.calendar.filter (fun e => !gone e),
                                  occupancy := s.fl.occupancy.filter fun o => decide (now s < o.start + o.length) } }))) ∧
  ((∀ (s : State) (f q i lat : Nat) (us bad : List Nat) (c : Cmd), cmdOf s f q i = some c → s.eav.powerLoss = false →
     let n := us.length
     let placed (t : State) : State := sealBufs t 0 ((t.eav.units.drop (t.eav.units.length - n)).map (·.sealed))
     let taken (t : State) (marks : List Nat) : State :=
       let t := readLate t c lat
       let t := (allocBufs t 0 5 n).getD t
       placed (placeUnits { t with adm := { t.adm with hostReadsOpen := t.adm.hostReadsOpen - n } } c us marks)
     (readsList c = true → let read := updCmd (readLate s c lat) c fun x => { x with listRead := true }
       ((c.accepted && listWaits c) = false → exec (.hostReadCompletionArrival f q i lat us bad) s = .next read) ∧
       (c.accepted = true → listWaits c = true → let excess := lat - s.prof.hostReadLat
         exec (.hostReadCompletionArrival f q i lat us bad) s = .next (startCmd read (if excess = 0 then { c with listRead := true }
           else { c with dl := c.dl + excess, late := c.late + excess, hostLate := true, listRead := true })))) ∧
     (readsList c = false → c.accepted = true → c.write = true → c.endStatus = none → 0 < n → n ≤ c.units - c.arrived →
       exec (.hostReadCompletionArrival f q i lat us []) s = .next (taken s []) ∧
       ((∀ k ∈ bad, k < n) → bad ≠ [] → exec (.hostReadCompletionArrival f q i lat us bad) s =
         .next (taken { s with host := { s.host with aerUncorrected := s.host.aerUncorrected ++ [f] } } bad))) ∧
     (readsList c = false → c.accepted = false ∨ c.write = false ∨ c.endStatus ≠ none ∨ us = [] →
       exec (.hostReadCompletionArrival f q i lat us bad) s = .next s)) ∧
   (∀ (s : State) (f q i lat : Nat) (us bad : List Nat), cmdOf s f q i = none ∨ s.eav.powerLoss = true →
     exec (.hostReadCompletionArrival f q i lat us bad) s = .next s) ∧
   (∀ (s : State) (c : Cmd) (lat : Nat), let late := lat - s.prof.hostReadLat
     let counted := if c.hostLate then s else updFnCtr s c.fn fun k => { k with hostLate := k.hostLate + 1 }
     (lat ≤ s.prof.hostReadLat → readLate s c lat = s) ∧
     (s.prof.hostReadLat < lat → readLate s c lat =
       updCmd counted c fun x => { x with dl := x.dl + late, late := x.late + late, hostLate := true })) ∧
   (∀ (s : State) (f q i n : Nat) (b : Bool) (c : Cmd), cmdOf s f q i = some c → notRunning s (if b then 7 else 6) = false →
     (0 < n → n ≤ c.arrived - (if b then c.inB else c.inA) → exec (.eavesCopyWritten b f q i n) s = .next (copyWritten s c b n)) ∧
     (c.arrived ≤ (if b then c.inB else c.inA) → exec (.eavesCopyWritten b f q i n) s = .next s)) ∧
   ∀ (s : State) (f q i n : Nat) (b : Bool), cmdOf s f q i = none ∨ notRunning s (if b then 7 else 6) = true →
     exec (.eavesCopyWritten b f q i n) s = .next s)

/-! ### Flash (chapters 05 to 08) -/

/-- Reads at their deadline and the background recovery of pages (R103 to R105, R174, R175): a read without its data at its
deadline, or 500 µs later under the allowance, completes with 0xC6 and is gone, and so does a Copy that still reads, after which the
writes that waited behind it go on. A pass before its time, under Power Loss or on a recovered page does nothing; one whose time has
come begins with the direct stages of the page's own member; while its stages run it goes on; a pass that has ended with the page
delivers it, with its seals, and flags its thatch; one without it waits for the next pass, and after the last one the page's units are
unrecoverable and the entry ends. -/
def Obligations.DeadlineAndPasses : Prop :=
  (∀ (s : State) (f q i : Nat) (c : Cmd), cmdOf s f q i = some c →
    (∃ h a n, c.op = .read h a n) ∨ (∃ h src d, c.op = .copy h src d ∧ c.arrived = 0) →
    let at' := c.dl + (if c.allowance then 500 else 0)
    (c.accepted = true → (∃ x ∈ c.slots, x.done = false) → at' ≤ now s → ∃ t, let done := completeCmd t c (.vendor 0xC6) 0 [] []
      exec (.deadlineReached f q i) s = .next (if c.write then flushReady (done.adm.cmds.length + 1) done else done) ∧
        ∀ x ∈ done.adm.cmds, sameCmd x c = false) ∧
    (now s < at' ∨ c.accepted = false ∨ (∀ x ∈ c.slots, x.done = true) → exec (.deadlineReached f q i) s = .next s)) ∧
  (∀ (s : State) (f q i : Nat), cmdOf s f q i = none → exec (.deadlineReached f q i) s = .next s) ∧
  (∀ (s : State) (n p : Nat) (e : RecEntry), recoveryOf s n p = some e →
    let go (ok : Bool) := exec (.recoveryPass n p ok) s
    (∀ ok, e.recovered = true ∨ now s < e.nextAt ∨ s.eav.powerLoss = true → go ok = .next s) ∧
    (e.recovered = false → e.nextAt ≤ now s → s.eav.powerLoss = false →
      (∀ t off ok, keyLoc s n p = some (t, off) →
        let pl := place s.prof (thatch s t).width off
        let begun : PassRun :=
          { around := false, todo := (((thatch s t).members[pl.pos]?).map fun m => (pl.pos, passStages s m.die)).toList, got := [] }
        (e.run = none → go ok = .next (goOnPage (updRecovery s n p fun x => { x with run := some begun }) n p)) ∧
        (∀ r, e.run = some r →
          (passEnded s e = false → go ok = .next (goOnPass s e)) ∧
          (passEnded s e = true → (passHas s e && ok) = true → go ok = .next (passGives s e)) ∧
          (passEnded s e = true → (passHas s e && ok) = false → go ok = .next (passLoses s e)))) ∧
      (keyLoc s n p = none → go true = .next (passGives s e) ∧ go false = .next (passLoses s e)))) ∧
  (∀ (s : State) (n p : Nat) (ok : Bool), recoveryOf s n p = none → exec (.recoveryPass n p ok) s = .next s) ∧
  (∀ (s : State) (e : RecEntry), recoveryOf s e.nsid e.page = some e →
    (e.passes + 1 < s.prof.bgPasses → passLoses s e = updRecovery s e.nsid e.page fun x =>
      { x with passes := x.passes + 1, run := none, nextAt := now s + s.prof.bgPassGap * 1000000 }) ∧
    ((∀ c ∈ s.adm.cmds, ∀ x ∈ c.slots, x.route ≠ .recovered) →
      (s.prof.bgPasses ≤ e.passes + 1 → passLoses s e =
        let marked := pageHits (markPage s e.nsid e.page) e.nsid e.page
        { marked with fl := { marked.fl with recovery := marked.fl.recovery.erase e } }) ∧
      ((passGives s e).adm = s.adm ∧ (passGives s e).fl.recovery = (updRecovery s e.nsid e.page fun x =>
          { x with recovered := true, passes := x.passes + 1, run := none, seals := pageSeals s e.nsid e.page }).fl.recovery ∧
        ∀ t off, keyLoc s e.nsid e.page = some (t, off) → (thatch (passGives s e) t).flagged = true)))

/-- Soft-decode results, recovery hits and retention samples (R161, R163, R166, R168, R172, R176, R177): only a Running Soft-Decode island
answers; a soft stage whose codewords all decode, with the location tags expected, adds four hits to its block and serves the slot, or
the member of a rebuild; one that leaves codewords failed takes the next step of the ladder for them; hits stop at 255 and flag the
thatch at REFRESH_HITS; they halve every REFRESH_WINDOW hours; within SAMPLE_HOURS the senses of a closed thatch's sample are booked,
and a failed sample flags it. -/
def Obligations.SoftDecodeAndHits : Prop :=
  (∀ (s : State) (ch tag : Nat) (out : SoftOutcome),
    isRunning s 8 = false ∨ (∀ e ∈ s.fl.softWaits, ¬(e.desc.ch = ch ∧ e.desc.seqTag = tag)) →
      exec (.softDecodeResult ch tag out) s = .next s) ∧
  (∀ (s : State) (ch tag : Nat) (w : SoftWait), isRunning s 8 = true →
    (s.fl.softWaits.find? fun e => e.desc.ch == ch && e.desc.seqTag == tag) = some w →
    let ended (s : State) : State := dropHard { s with fl := { s.fl with softWaits := s.fl.softWaits.erase w } } w.desc.purpose
    let go (out : SoftOutcome) := exec (.softDecodeResult ch tag out) s
    let good (found : List FoundTag) : Prop := tagMisses s w.desc found = 0
    let left (cws : Nat) : Nat := if cws &&& w.cws = 0 then w.cws else cws &&& w.cws
    let wrong : State := addHits (chFault s ch 4 w.desc 2) (descDie w.desc) w.desc.block s.prof.refreshHits
    (∀ f q i slot c, w.desc.purpose = .hostRead f q i slot → cmdOf s f q i = some c →
      (∀ found, good found → ladderOf s c slot = none → go (.decoded found) = .next (shareResult (slotDone (ended s) c slot) c slot)) ∧
      (∀ l, ladderOf s c slot = some l →
        (∀ found, good found → go (.decoded found) = .next (shareResult (slotDone (addHits (ended s) l.die l.block 4) c slot) c slot)) ∧
        (∀ cws, w.cws ≠ 0 → go (.failed cws) = .next (ladderStep (ended s) c slot { l with cws := left cws })) ∧
        ∀ found, ¬good found → go (.decoded found) = .next (ladderStep (ended wrong) c slot { l with cws := tagMisses s w.desc found }))) ∧
    (∀ id pos, w.desc.purpose = .raMember id pos →
      (∀ found, good found → go (.decoded found) = .next (memberDone (addHits (ended s) (descDie w.desc) w.desc.block 4) id)) ∧
      ∀ r cws, w.cws ≠ 0 → rebuildOf s id = some r → r.fn ≠ 65535 → go (.failed cws) = .next (memberFailed (ended s) id pos 0 (left cws))) ∧
    (∀ n p pos, w.desc.purpose = .pass n p pos →
      (∀ found, good found → go (.decoded found) = .next (passDecoded (addHits (ended s) (descDie w.desc) w.desc.block 4) n p pos)) ∧
      ∀ cws, w.cws ≠ 0 → go (.failed cws) = .next (passFailed (ended s) n p pos))) ∧
  (∀ (s : State) (d k n : Nat), (block (addHits s d k n) d k).hits = min 255 ((block s d k).hits + n) ∧
    (min 255 ((block s d k).hits + n) < s.prof.refreshHits → (addHits s d k n).fl.thatches = s.fl.thatches)) ∧
  (∀ s : State,
    (s.tm.opSeconds < s.fl.hitsHalvedOp + s.prof.refreshWindow * 3600 → exec .hitsHalving s = .next s) ∧
    (s.fl.hitsHalvedOp + s.prof.refreshWindow * 3600 ≤ s.tm.opSeconds → ∃ ds, let t : State :=
        { s with fl := { s.fl with hitsHalvedOp := s.tm.opSeconds, dies := ds } }
      exec .hitsHalving s = .next t ∧ ∀ d k, block t d k = { block s d k with hits := (block s d k).hits / 2 })) ∧
  ∀ (s : State) (n : Nat) (th : ThatchSt),
    (tblFind? n s.fl.thatches = some th → closedThatch s th = true → s.eav.powerLoss = false →
      s.tm.opSeconds ≤ s.fl.sampleFrom + s.prof.sampleHours * 3600 →
        exec (.retentionSample n false) s = .next (bookSamples s n) ∧ exec (.retentionSample n true) s = .next (flagRefresh (bookSamples s n) n)) ∧
    (∀ bad, tblFind? n s.fl.thatches = none ∨ s.eav.powerLoss = true ∨ s.fl.sampleFrom + s.prof.sampleHours * 3600 < s.tm.opSeconds ∨
      (tblFind? n s.fl.thatches = some th ∧ closedThatch s th = false) → exec (.retentionSample n bad) s = .next s) ∧
    (tblFind? n s.fl.thatches = some th → tblFind? n (flagRefresh s n).fl.thatches = some { th with flagged := true }) ∧
    (closedThatch s th = true ↔ th.kind = .convClosed ∨
      (th.kind = .zone ∧ ((zone s th.nsid th.zone).st = .full ∨ (zone s th.nsid th.zone).st = .readOnly)))

/-- Issue and completion of die descriptors (R139 to R141, R143, R145 to R147, R149, R184, R307, Table 06.6): no descriptor issues
before its START or ahead of one that stands before it in its die's queue; a program or erase that a closed window blocks completes
with 0x30, a program whose seal check fails with 0x35, a buffer number of another island's or of no buffer with 0x37; one that the
tokens do not allow waits; an issued one holds its tokens, and an erase marks its block; only an issued one completes, while its
channel's clock is not held (R18), and held commands are then evaluated again; a token that a fence refuses is counted there (R19; that
it is sent again is the model's reading, log entry 113). A pass is booked while the write window is open and no more important
one waits (R119, R150). -/
def Obligations.DescriptorsIssueAndComplete : Prop :=
  (∀ (s : State) (ch tag : Nat) (d : Desc), descOf s ch tag = some d → d.st = .queued → d.opcode ≠ 0x30 → isRunning s (chIsland ch) = true →
    s.eav.replaying = false → isProvisional s d = false →
    let go (ok : Bool) := exec (.descriptorIssue ch tag ok) s
    ((∃ x ∈ s.fl.descs, queuedAhead s x d = true) → ∀ ok, go ok = .next s) ∧
    ((∀ x ∈ s.fl.descs, queuedAhead s x d = false) →
      (badDesc s d = true → ∀ ok, go ok = .next (workLost (closeDesc (chFault s ch 1 d 0x37) d 0x37 0) d)) ∧
      (badDesc s d = false → bufOk s (chIsland ch) d.buf = false → ∀ ok, go ok = .next (workLost (closeDesc (chFault s ch 6 d 0x37) d 0x37 0) d)) ∧
      (badDesc s d = false → bufOk s (chIsland ch) d.buf = true →
        (now s < d.start → ∀ ok, go ok = .next s) ∧
        (d.start ≤ now s →
          ((isProgOp d.opcode || isEraseOp d.opcode) = true → writeBlocked s d = true → ∀ ok, go ok = .next (closeDesc (dropMove s d) d 0x30 0)) ∧
          (((isProgOp d.opcode || isEraseOp d.opcode) && writeBlocked s d) = false →
            (interlocked s d = true → ∀ ok, go ok = .next (workLost (closeDesc (chFault s ch 2 d 0x32) d 0x32 0) d)) ∧
            (interlocked s d = false → dieReadyFor s d = false → ∀ ok, go ok = .next s) ∧
            (interlocked s d = false → dieReadyFor s d = true →
              (isProgOp d.opcode = true → go false = .next (sealLost (closeDesc (chFault (dropMove s d) ch 5 d 0x35) d 0x35 0) d)) ∧
              (tokensAllow s d = false → go true = .next (updDesc s d fun x => { x with waitSince := some (x.waitSince.getD (now s)) })) ∧
              (tokensAllow s d = true → go true = .next (issueDesc s d) ∧ (issueDesc s d).fl.liveTokens = s.fl.liveTokens + d.tokens))))))) ∧
  (∀ (s : State) (ch tag : Nat) (out : DieOutcome),
    (∀ d t, descOf s ch tag = some d → d.st = .issued t →
      ((island s (chIsland ch)).st = .stopped → exec (.descriptorCompletion ch tag out) s = .next s) ∧
      ((island s (chIsland ch)).st ≠ .stopped →
        ((∀ u ∈ tokenUnits d 0, isFenced s (chIsland d.ch) (unitIsland u) false = false) →
          exec (.descriptorCompletion ch tag out) s = .next (reevaluateAll (sweepThatches (finishDesc s d out)))) ∧
        ∀ u, tokenUnits d 0 = [u] → isFenced s (chIsland d.ch) (unitIsland u) false = true →
          exec (.descriptorCompletion ch tag out) s = .next (sendToken s (chIsland ch) (unitIsland u) false d.seqTag))) ∧
    (descOf s ch tag = none → exec (.descriptorCompletion ch tag out) s = .next s) ∧
    (∀ d, descOf s ch tag = some d → d.st = .queued → exec (.descriptorCompletion ch tag out) s = .next s)) ∧
  (∀ (s : State) (d : Desc), (die s (descDie d)).lostStatus = false → ∀ planes,
    finishDesc s d .dieFailure = deadDie s d 0x21 false ∧
    (isReadOp d.opcode = true → finishDesc s d .readErased = readFailed (closeDesc (countCodewords s d 0) d 3 0) d (allCws d) ∧
      finishDesc s d (.readFail (allCws d)) = readFailed (holdHard (closeDesc (countCodewords s d 1) d 2 0) d (allCws d)) d (allCws d)) ∧
    (isReadOp d.opcode = false → isEraseOp d.opcode = true → finishDesc s d (.failed planes) = eraseFailed (closeDesc s d 0x11 0) d planes) ∧
    (isReadOp d.opcode = false → isEraseOp d.opcode = false →
      finishDesc s d (.failed planes) = programFailed (closeDesc s d 0x10 0) d planes ∧
      (∀ t pos x fine, d.purpose = .program t pos x fine → finishDesc s d .done = programDone (closeDesc s d 0 0) t pos x fine))) ∧
  (∀ (s : State) (d : Desc) (t : Nat), d.st = .issued t → ∀ status corrected, let u := closeDesc s d status corrected
    u.fl.liveTokens = s.fl.liveTokens - d.tokens ∧ (∀ x ∈ u.fl.descs, x.ch = d.ch → x.seqTag ≠ d.seqTag) ∧
    ∃ k, u.fl.tokens = s.fl.tokens ++ [k] ∧ k.ch = d.ch ∧ k.seqTag = d.seqTag ∧ k.status = status ∧ k.maxCorrected = min corrected 255) ∧
  ∀ (s : State) (t pos : Nat),
    (s.eav.powerLoss = false → s.eav.replaying = false → s.fl.window.isOpen = true → passYields s t = false → targetYields s t pos = false →
      exec (.programPassBooking t pos) s = .next (bookPass s t pos) ∧
      ∀ m e x, (thatch s t).members[pos]? = some m → lastCourse s (thatch s t) = some e → nextPass s t pos m (memberEnd m e) = some (x, true) →
        m.lost = false → dieUp s m.die = true → (∀ src, (thatch s t).kind ≠ .target src) → (thatch s t).kind ≠ .convReloc → ∀ u,
        bookProgram s m.die (now s + 2) s.prof.tFine s.prof.tokProg (s.prof.planes * s.prof.zoneBits) .finePass true
          { descDefault with opcode := if s.prof.twoPass = 0 then 0x12 else 0x11, block := (blockAt m x).1, wordline := (blockAt m x).2,
                             thatch := t, cls := 7, buf := passBuf s (thatch s t) x pos, dest := (.fabric, t % 2 ^ 24),
                             purpose := .program t pos x true } = some u → exec (.programPassBooking t pos) s =
            .next { u with eav := { u.eav with staged := u.eav.staged.filter (· != (t, pos, x)) } }) ∧
    (s.eav.powerLoss = true ∨ s.eav.replaying = true ∨ s.fl.window.isOpen = false ∨ passYields s t = true ∨ targetYields s t pos = true → exec (.programPassBooking t pos) s = .next s)

/-- Suspend windows, overruns, time-outs and the token guard (R77, R144, R145, R149, Table 06.13): a window's descriptor is issued at
its time and suspends the operation in progress, unless its suspends are spent, and the operation resumes at the window's end, when
the window's own entry is freed; a die that runs past its booked length, which a window lengthens (log entry 95), or to OVERRUN_LIMIT
times it, raises its source, and one that times out is reset and completes with 0x20, or 0x21 where it had no valid status (R144); a FIRM descriptor that has waited 50 µs for tokens raises source 291, and is counted. -/
def Obligations.WindowsAndTimeouts : Prop :=
  (∀ (s : State) (ch dn a : Nat) (w : CalEntry), windowOf s (128 * ch + dn) a = some w →
    (∀ x, windowDesc s (128 * ch + dn) a = some x →
      (now s < w.start ∨ x.st ≠ .queued ∨ isRunning s (chIsland ch) = false → exec (.suspendWindowStart ch dn a) s = .next s) ∧
      (w.start ≤ now s → x.st = .queued → isRunning s (chIsland ch) = true →
        let u := updDesc s x fun y => { y with st := .issued (now s), issuedAt := now s }
        (dieOp u (128 * ch + dn) = none → exec (.suspendWindowStart ch dn a) s = .next u) ∧
        ∀ o, dieOp u (128 * ch + dn) = some o →
          (isSuspended o = true ∨ o.dump = true → exec (.suspendWindowStart ch dn a) s = .next u) ∧
          (isSuspended o = false → o.dump = false →
            (o.suspends < suspendLimit s.prof o → exec (.suspendWindowStart ch dn a) s =
              .next (updDesc u o fun x => { x with st := .suspended (now s), suspends := x.suspends + 1 })) ∧
            (suspendLimit s.prof o ≤ o.suspends → exec (.suspendWindowStart ch dn a) s =
              .next (missWindow (chFault u ch 3 o 0) (128 * ch + dn) a))))) ∧
    (let waits := s.fl.descs.any fun x => descDie x == 128 * ch + dn && x.opcode != 0x30 && x.window == some a
     (now s < w.start → exec (.suspendWindowEnd ch dn a) s = .next s) ∧
     (waits = true → now s < entryEnd w → exec (.suspendWindowEnd ch dn a) s = .next s) ∧
     (w.start ≤ now s → waits = false ∨ entryEnd w ≤ now s → exec (.suspendWindowEnd ch dn a) s = .next (endWindow s (128 * ch + dn) w)))) ∧
  (∀ (s : State) (dn : Nat) (w : CalEntry) (o : Desc),
    let t : State := { s with fl := { s.fl with calendar := s.fl.calendar.erase w } }
    windowDesc t dn w.start = none → dieOp t dn = some o → isSuspended o = true →
      endWindow s dn w = missWindow (updDesc t o fun x => { x with st := .issued (now s) }) dn w.start) ∧
  (∀ (s : State) (ch dn a : Nat), windowOf s (128 * ch + dn) a = none →
    exec (.suspendWindowStart ch dn a) s = .next s ∧ exec (.suspendWindowEnd ch dn a) s = .next s) ∧
  (∀ (s : State) (ch tag : Nat) (d : Desc), descOf s ch tag = some d →
    (d.st = .queued ∨ (island s (chIsland ch)).st = .stopped ∨ now s ≤ d.start + bookedLength s d → exec (.dieOverrun ch tag) s = .next s) ∧
    (d.st ≠ .queued → (island s (chIsland ch)).st ≠ .stopped → d.overran = false → d.start + bookedLength s d < now s →
      ∃ t, t = chFault (updDesc s d fun x => { x with overran := true }) ch 0 d 0 ∧
      exec (.dieOverrun ch tag) s = .next (forEach (t.fl.descs.filter fun x => descDie x == descDie d && x.st == .queued && x.firm && isReadOp x.opcode)
        (fun x s => workLost (closeDesc s x 0x33 0) x) t)) ∧
    (d.st = .queued ∨ (island s (chIsland ch)).st = .stopped ∨ now s < d.start + s.prof.overrunLimit * bookedLength s d → ∀ b, exec (.dieTimeout ch tag b) s = .next s) ∧
    (d.st ≠ .queued → (island s (chIsland ch)).st ≠ .stopped → d.start + s.prof.overrunLimit * bookedLength s d ≤ now s → ∀ answers,
      exec (.dieTimeout ch tag answers) s = .next (deadDie (updDie s (descDie d) fun x => { x with lostStatus := !answers }) d
        (if (die s (descDie d)).lostStatus then 0x21 else 0x20) true))) ∧
  (∀ (s : State) (ch tag : Nat) (d : Desc) (t : Nat), descOf s ch tag = some d → d.waitSince = some t → d.firm = true → d.st = .queued →
    (now s < t + 50 → exec (.tokenGuardTimeout ch tag) s = .next s) ∧
    (t + 50 ≤ now s →
      let r := raiseFault s 291 (capOf 4 3 (descDie d + d.seqTag * 2 ^ 32) 0 (chIsland ch))
      let u : State := { r with fl := { r.fl with tokenGuardWaits := r.fl.tokenGuardWaits + 1 } }
      let v := updDesc u d fun x => { x with waitSince := some (now u) }
      (∀ e ∈ u.fl.calendar, movable u e = false) → exec (.tokenGuardTimeout ch tag) s =
        .next (forEach (v.fl.descs.filter fun x => x.st == .queued && x.firm && x.waitSince.isSome && isReadOp x.opcode)
          (fun x s => workLost (closeDesc s x 0x33 0) x) v))) ∧
  ∀ (s : State) (ch tag : Nat) (d : Desc), descOf s ch tag = some d → d.waitSince = none → exec (.tokenGuardTimeout ch tag) s = .next s

/-- Background work (R119, R124, R131, R187, R191, Table 05.3): while the Management island runs, flash is in service and neither
a dump nor a replay is on, a decision serves the work in its order, a thatch as old as RETENTION_HOURS is refreshed, a refresh
that found no thatch is tried again after its hour, an Underlay move is made, a journal tail of 48 MiB is checkpointed; otherwise
none of it happens. SMART data follow the media. -/
def Obligations.BackgroundWork : Prop :=
  ∀ s : State,
    (bgRuns s = false → exec .backgroundWorkDecision s = .next s ∧ exec .journalCheckpoint s = .next s ∧
      ∀ t n z, exec (.retentionAgeRefresh t) s = .next s ∧ exec (.refreshRetryHourly t) s = .next s ∧ exec (.underlayMove n z) s = .next s) ∧
    (bgRuns s = true →
      exec .backgroundWorkDecision s = .next (decideWork (takeDue s 5)) ∧
      (50331648 ≤ s.eav.journalTail → exec .journalCheckpoint s = .next { s with eav := { s.eav with journalTail := 0 } }) ∧
      (s.eav.journalTail < 50331648 → exec .journalCheckpoint s = .next s) ∧
      (∀ n z, exec (.underlayMove n z) s = .next (tryUnderlay s n z) ∧
        ∀ e t, (movableZones s).find? (fun e => e.1 == (n, z)) = some e → underlayDue s e = true → s.fl.window.isOpen = true →
          moveUnderlay s n z = some t → exec (.underlayMove n z) s = .next t ∧
            ∃ l k, t.eav.underlayMoves = l ++ [k] ∧ k.nsid = n ∧ k.zone = z ∧ k.bufs = (zoneEaves s n z).length) ∧
      (∀ t th, tblFind? t s.fl.thatches = some th → relocating s t = false →
        (th.retryAt = none → s.prof.retentionHours ≤ ageHours s th → exec (.retentionAgeRefresh t) s = .next (startRefresh s t 6)) ∧
        (ageHours s th < s.prof.retentionHours → exec (.retentionAgeRefresh t) s = .next s) ∧
        (∀ a, th.retryAt = some a → opUs s < a → exec (.refreshRetryHourly t) s = .next s) ∧
        (∀ a, th.retryAt = some a → a ≤ opUs s → exec (.refreshRetryHourly t) s =
          .next (startRefresh (updThatch s t fun x => { x with retryAt := none }) t (if th.flagged then 3 else 6))) ∧
        (refreshable s (t, thatch s t) = true → (thatch s t).kind = .zone → ∀ o, o ≠ 4 → ∀ ns k b u dst, nsOf s (thatch s t).nsid = some ns →
          chooseBay (updZone s (thatch s t).nsid (thatch s t).zone fun y => { y with thatch := none }) ns
            (zone s (thatch s t).nsid (thatch s t).zone) (thatch s t).width = some (k, b) →
          bindThatch s b (thatch s t).width k (.target t) (thatch s t).nsid (thatch s t).zone (generationOf s (thatch s t).nsid) = some (u, dst) →
          (startRefresh s t o).fl.relocations = u.fl.relocations ++ [⟨t, dst, 0, o, false, []⟩]))) ∧
    (∃ t, exec .smartUpdate s = .next t ∧ t.host.smart = [percentUsed s, availableSpare s, 10] ∧
      (availableSpare s < 10 → t.fl.spareLow = true) ∧ (10 ≤ availableSpare s → t.host.criticalWarning = s.host.criticalWarning))

/-- Capacities computed again (R57, R69, R72, R73): a bay's capacity is that of its members in service, and it is flagged as
overbooked just while the committed die time exceeds it; a function's meters are those of its bays, none above its depth; a set's
promised width meets its demand, and no wider one does. E_eff, the flash power capacity and the link (R188, R206, R334): E_eff is
a multiple of 256 MiB, at most 4 GiB, and 0 without an erased Gutter half; the power capacity follows the effective budget; the
link trains at the rate and width asked for, capped by MAX_SPEED and MAX_WIDTH (R205), its capacities are in proportion to them, and a
change is recorded; a rate or width that no link has, or a link that cannot train, changes nothing. -/
def Obligations.CapacitiesFollow : Prop :=
  ((∀ s : State, ∃ t, exec .capacityRecompute s = .next t ∧ t.adm.contracts = s.adm.contracts ∧ ∀ b ∈ baysOf s.prof,
     bayCapacity t b = membersUp s b * 10000 * (100 - s.prof.bgDieShare) ∧
     (b ∈ t.adm.overbooked ↔ computeBayCapacity s b < committedDie s s.adm.contracts b / mil)) ∧
   (∀ (s : State) (f : Nat), ∃ t, exec (.contractChargeRecompute f) s = .next t ∧
     (∀ m ∈ t.adm.meters, (m.fn = f ∨ ∃ k ∈ s.adm.contracts, k.fn = m.fn) → m.bay ∈ fnBays s m.fn ∧ m.level ≤ m.depth) ∧
     (∀ m, m.fn ≠ f → (∀ k ∈ s.adm.contracts, k.fn ≠ m.fn) → (m ∈ t.adm.meters ↔ m ∈ s.adm.meters)) ∧
     (∀ k ∈ s.adm.contracts, ∀ b ∈ fnBays s k.fn, ∃ m ∈ t.adm.meters, m.fn = k.fn ∧ m.bay = b) ∧
     (∀ b ∈ baysOf s.prof, b ∈ t.adm.overbooked ↔ bayCapacity s b < committedDie s s.adm.contracts b / mil)) ∧
   (∀ (s : State) (k : Nat),
     (setDefined s k = false → exec (.promisedWidthRecompute k) s = .next s) ∧
     (setDefined s k = true → ∃ t, exec (.promisedWidthRecompute k) s = .next t ∧
       (baySet t k).promised = (promisedWidth? s k).getD s.prof.minWidth ∧ t.zns.namespaces = s.zns.namespaces)) ∧
   ∀ (s : State) (k w : Nat), promisedWidth? s k = some w → s.prof.minWidth ≤ w ∧ w ≤ 16 ∧ setDemand s k w ≤ setCap s k w ∧
     ∀ v, w < v → v ≤ 16 → setCap s k v < setDemand s k v) ∧
  ((∀ s : State, ∃ t, exec .eavesEffectiveRecompute s = .next t ∧ t.eav.eEff = (if .erased ∈ s.eav.halves then energyEff s else 0) ∧
     t.eav.eEff % 268435456 = 0 ∧ t.eav.eEff ≤ 4294967296 ∧ t.eav.units = s.eav.units) ∧
   (∀ s : State, exec .flashPowerCapacityRecompute s = .next { s with adm := { s.adm with
     powerCapacity := (effectiveBudget s - s.prof.bgTokenReserve) * 1000000 } }) ∧
   ∀ (s : State) (r w : Nat),
     let r' := min r s.prof.maxSpeed
     let w' := min w s.prof.maxWidth
     let t := linkTo s r w
     (linkLegal r w = false ∨ isRunning s 1 = false ∨ s.eav.powerLoss = true ∨ (s.host.linkUp = false ∧ s.pins.perstN = false) ∨
       (s.host.linkUp = true ∧ r' = s.host.rate ∧ w' = s.host.width) → exec (.linkChange r w) s = .next s) ∧
     (linkLegal r w = true → isRunning s 1 = true → s.eav.powerLoss = false →
       (s.host.linkUp = false ∧ s.pins.perstN = true) ∨ (s.host.linkUp = true ∧ (r' ≠ s.host.rate ∨ w' ≠ s.host.width)) →
       (¬(r' = 6 ∧ w' = 8) → exec (.linkChange r w) s = .next t) ∧
       (r' = 6 ∧ w' = 8 → exec (.linkChange r w) s = .next (capacityEvent t (if linkShort t then 3 else 2) 0xFFFF t.adm.linkCapacity
         (committedBytes t.adm.contracts false)))) ∧
     t.host.linkUp = true ∧ t.host.rate = r' ∧ t.host.width = w' ∧ (t.host.linkBelowFull = true ↔ ¬(r' = 6 ∧ w' = 8)) ∧
     t.adm.linkCapacity = 56000000000 * (rawRate r' * w') / 1024 ∧ t.adm.linkCmds = 13900000 * (rawRate r' * w') / 1024)

/-- Power loss, the dump and its replay (R23, R196 to R200, R367, Table 08.3): the store path closes and Power Loss is raised,
once; a partial mark names the last position programmed (the operand's coding is the model's choice, log entry 29); a dump that has a
Gutter half is committed and fills it, all its programs done but in a partial one, and only the Always-On island keeps running; a
replay ends in PHASE 5 with flash in service. -/
def Obligations.PowerLossAndReplay : Prop :=
  (∀ s : State, let t := switchOver { s with sup := { s.sup with v12HighSince := none } }
    (s.eav.powerLoss = true → exec .powerLossDetected s = .next t) ∧
    (∃ u, exec .powerLossDetected s = .next u ∧ u.eav.powerLoss = true ∧ u.sup.path = 1 ∧ u.sup.chgEn = false ∧ u.sup.auditEn = false ∧
      (s.eav.powerLoss = false → u.host.linkUp = false ∧ u.hmp.stopped = true))) ∧
  (∀ (s : State) (d : Dump) (t p : Nat), s.eav.dump = some d → s.eav.dumpStart = some t →
    (d.partialMark = true ∨ vLow s < s.sup.vs → exec (.storeLow p) s = .next s) ∧
    (d.partialMark = false → s.sup.vs ≤ vLow s → exec (.storeLow p) s = .next { s with eav := { s.eav with
      dump := some { d with partialMark := true, descriptorsDone := decide (0 < p), lastPosition := some (min d.units.length (p - 1)) } } }) ∧
    ∃ u e, exec .dumpComplete s = .next u ∧ u.eav.dump = some e ∧ e.units = d.units ∧ e.partialMark = d.partialMark ∧
      (e.committed = true ↔ d.half < 2) ∧ (d.partialMark = false → ∀ g ∈ e.progs, g.done = true) ∧
      u.eav.halves = vecUpd s.eav.halves d.half (fun _ => .holdsDump) ∧ u.eav.dumpStart = none ∧ u.host.linkUp = false ∧
      u.sup.seqEn = false ∧ (s.isl.islands.length = 42 → ∀ i, islIdValid i = true → i ≠ 0 → isRunning u i = false)) ∧
  (∀ s : State, s.eav.dump = none ∨ s.eav.dumpStart = none → exec .dumpComplete s = .next s ∧ ∀ p, exec (.storeLow p) s = .next s) ∧
  ∀ s : State,
    (s.boot.phase ≠ 4 ∨ s.eav.replaying = false ∨ s.eav.powerLoss = true → exec .gutterReplay s = .next s) ∧
    (s.boot.phase = 4 → s.eav.replaying = true → s.eav.powerLoss = false → ∃ t, exec .gutterReplay s = .next t ∧ t.eav.replaying = false ∧
      t.fl.inService = true ∧ t.boot.phase = 5 ∧ t.boot.cleanMark = false)

/-- Draining and bringing up a channel (R135, R153, R156, R317, Tables 06.11, 06.13): a drain of a Running channel is noted by an event
(its payload is the model's choice, log entry 91), sends the queued descriptors back and ends when nothing is in progress, or at
16,384 µs; it ends in Isolated at firmware's request, and after a severe source the island is held in reset and, unless R317 excludes
it, released again; bring-up waits for RB_N, or 5.0 ms, which an event records (its payload too, log entry 90); a channel on which a
die is then in service returns, and one without stays as it is. -/
def Obligations.ChannelDrainAndBringup : Prop :=
  (∀ (s : State) (c : Nat),
    let begun (s : State) : State := flushChannel (updChan s c fun x => { x with draining := some (x.draining.getD (now s)) }) c
    (isRunning s (chIsland c) = true →
      ((chan s c).draining = none → exec (.channelDrain c) s = .next (begun (channelEvent s (128 * c) 0x97))) ∧
      ((chan s c).draining.isSome = true → exec (.channelDrain c) s = .next (begun s))) ∧
    (isRunning s (chIsland c) = false → exec (.channelDrain c) s = .next s) ∧
    ((chan s c).draining = none → exec (.channelDrainComplete c) s = .next s ∧ exec (.channelDrainTimeout c) s = .next s) ∧
    (∀ t, (chan s c).draining = some t →
      (channelBusy s c = true → exec (.channelDrainComplete c) s = .next s) ∧
      (channelBusy s c = false → exec (.channelDrainComplete c) s = .next (endDrain (flushChannel s c) c)) ∧
      (now s < t + 16384 → exec (.channelDrainTimeout c) s = .next s) ∧
      (t + 16384 ≤ now s → exec (.channelDrainTimeout c) s = .next (endDrain (flushChannel s c) c))) ∧
    (((chan s c).severeDrain = false → endDrain s c = setIslandState (updChan s c fun x => { x with draining := none }) (chIsland c) .isolated) ∧
     ((chan s c).severeDrain = true →
      (c ∈ s.flt.excludedChannels → endDrain s c = channelLost s c .heldInReset) ∧
      (c ∉ s.flt.excludedChannels → endDrain s c = releaseChannel (channelLost s c .heldInReset) c))) ∧
    (∀ t, (chan s c).rbWait = some t →
      exec (.channelRbWaitEnd c true) s = .next (updChan s c fun x => { x with rbWait := none, rbDone := true }) ∧
      (t + 5000 ≤ now s → exec (.channelRbWaitEnd c false) s = .next (recordEvent (updChan s c fun x => { x with rbWait := none, rbDone := true })
        0x0052 0 0 (chIsland c) (leBytes 4 c ++ leBytes 1 0x90 ++ leBytes 1 1))) ∧
      (now s < t + 5000 → exec (.channelRbWaitEnd c false) s = .next s)) ∧
    ((chan s c).rbWait = none → ∀ high, exec (.channelRbWaitEnd c high) s = .next s)) ∧
  (∀ (s : State) (c : Nat) (ds : List DieAnswer) (ps : List PkgAnswer),
    (32 ≤ c ∨ (island s (chIsland c)).st ≠ .heldInReset ∨ (chan s c).rbDone = false ∨ c ∈ s.flt.excludedChannels ∨ s.eav.powerLoss = true →
      exec (.channelBringup c ds ps) s = .next s) ∧
    (c < 32 → (island s (chIsland c)).st = .heldInReset → (chan s c).rbDone = true → c ∉ s.flt.excludedChannels → s.eav.powerLoss = false →
      exec (.channelBringup c ds ps) s = .next (updateWarm (firstPolls (bringUp s c ds ps))))) ∧
  ∀ (s : State) (c : Nat) (ds : List DieAnswer) (ps : List PkgAnswer),
    let trained := forEach (channelPkgs s.prof c) (bringPkg c ps) s
    let dies := (channelPkgs s.prof c).flatMap fun k => pkgDies trained.prof (c, k)
    let brought := forEach dies (bringDie ds ps) trained
    ((∃ d ∈ dies, dieOut brought d = false) → bringUp s c ds ps = channelReturns (useMicrocode (updChan brought c fun x =>
      { x with microcode := microcodeVersion brought, volumes := channelPkgs s.prof c, nvDdr3 := true })) c) ∧
    ((∀ d ∈ dies, dieOut brought d = true) → bringUp s c ds ps = updChan brought c fun x => { x with rbWait := none, rbDone := false })

/-- Package temperatures, the write window and recalibration (R150, R154, R155, R332, R420): a poll is due every 100 ms and reads each
polled package; a temperature outside 0 to 85 °C closes the window, the second poll in a row with all in 2 to 83 °C opens it, and a
change is event 0x0041; a due package starts where the half allows, or is noted as blocked; once its dies are idle it is trained, and
is out of service just where the training failed; a recalibration names one package or every populated one. Channel microcode (R418,
R419, Table 20.4): a load starts both halves; with another load or recalibration running it fails with reason 3; a turn begins unless
R418's conditions fail; one whose microcode fails its verification keeps the old and ends the operation with Secure World Refused; one
that passes trains the packages, takes an untrained one's dies out, and goes on to the next channel. -/
def Obligations.PackagesAndMicrocode : Prop :=
  ((∀ (s : State) (rs : List (Nat × Option Int)),
     let due : Prop := ∀ t, s.fl.window.lastPoll = some t → t + 100000 ≤ now s
     let reading (k : Nat × Nat) : Option Int := (tblFind? (16 * k.1 + k.2) rs).getD none
     (¬due ∨ s.eav.powerLoss = true ∨ s.boot.phase = 6 → exec (.packageTempPoll rs) s = .next s) ∧
     (due → s.eav.powerLoss = false → s.boot.phase ≠ 6 →
       let sent := forEach (polledPkgs s) (fun k t => runControl t k.1 (16 * k.2) 0x45) s
       let read := forEach (polledPkgs sent) (fun k t => readPkg k (reading k) t) sent
       let recent := read.fl.window.trace.filter fun e => decide ((now read : Int) ≤ e.2.2 + 10000000)
       let polled : State := { read with fl := { read.fl with window := { read.fl.window with trace := recent, lastPoll := some (now read) } } }
       exec (.packageTempPoll rs) s = .next (warmProgress (updateWarm (judgeWindow polled))))) ∧
   (∀ (s : State) (k : Nat × Nat), (∀ t, (pkg (readPkg k (some t) s) k).temp = some t ∧ (pkg (readPkg k (some t) s) k).fails = 0) ∧
     ((pkg s k).fails = 1 → ∃ u, readPkg k none s = raiseFault u 306 (capOf 4 4 (128 * k.1 + 16 * k.2) 0 (chIsland k.1)) ∧
       (pkg u k).fails = 2) ∧
     ((pkg s k).fails ≠ 1 → (pkg (readPkg k none s) k).fails = (pkg s k).fails + 1)) ∧
   (∀ s : State,
     let note (isOpen : Nat) : List Byte := leBytes 1 isOpen ++ leBytes 1 (twos 8 (minInt 127 (pollTemps s))) ++
       leBytes 1 (twos 8 (maxInt (-128) (pollTemps s)))
     let judged (n : Nat) (isOpen : Bool) : State := { s with fl := { s.fl with window := { s.fl.window with inRange := n, isOpen := isOpen } } }
     ((∃ t ∈ pollTemps s, t < 0 ∨ 85 < t) →
       (s.fl.window.isOpen = true → judgeWindow s = recordEvent (judged 0 false) 0x0041 1 0 2 (note 0)) ∧
       (s.fl.window.isOpen = false → judgeWindow s = judged 0 false)) ∧
     (pollTemps s ≠ [] → (∀ t ∈ pollTemps s, 2 ≤ t ∧ t ≤ 83) →
       (s.fl.window.inRange = 0 → judgeWindow s = judged 1 s.fl.window.isOpen) ∧
       (1 ≤ s.fl.window.inRange → s.fl.window.isOpen = true → judgeWindow s = judged (s.fl.window.inRange + 1) true) ∧
       (1 ≤ s.fl.window.inRange → s.fl.window.isOpen = false →
         judgeWindow s = reevaluateAll (recordEvent (judged (s.fl.window.inRange + 1) true) 0x0041 1 0 2 (note 1))))) ∧
   (∀ (s : State) (c p : Nat),
     (mgmtDown s = true ∨ chRunning s c = false ∨ s.eav.powerLoss = true ∨ recalRuns s (c, p) = true ∨ recalDue s (c, p) = false →
       exec (.packageRecalibration c p) s = .next s) ∧
     (mgmtDown s = false → chRunning s c = true → s.eav.powerLoss = false → recalRuns s (c, p) = false → recalDue s (c, p) = true →
       (recalFree s (c, p) = true → recalFits s (c, p) = true → recalClears s (c, p) = true →
         exec (.packageRecalibration c p) s = .next (startRecal s (c, p))) ∧
       (recalFree s (c, p) = false ∨ recalFits s (c, p) = false ∨ recalClears s (c, p) = false →
         exec (.packageRecalibration c p) s = .next (recalBlocked s (c, p)))) ∧
     (∀ ok, recalRuns s (c, p) = false ∨ (∃ x ∈ s.fl.descs, descDie x ∈ pkgDies s.prof (c, p)) → exec (.packageRecalDone c p ok) s = .next s) ∧
     (∀ ok, recalRuns s (c, p) = true → (∀ x ∈ s.fl.descs, descDie x ∉ pkgDies s.prof (c, p)) →
       let stepped := forEach [0, 1, 2] (fun _ t => runControl t c (16 * p) 0x43) s
       exec (.packageRecalDone c p ok) s = .next (recalAdvance (forEach (pkgDies (trained stepped (c, p) ok).prof (c, p)) (recalReturn ok)
         (trained stepped (c, p) ok)) (c, p)))) ∧
   (∀ (s : State) (k : Nat × Nat) (ok : Bool), (pkg (trained s k ok) k).out = !ok ∧ (pkg (trained s k ok) k).recalAt = none ∧
     (pkg (trained s k ok) k).trainAt = now s) ∧
   (∀ (s : State) (d : DieNo) (ok : Bool), (die (recalReturn ok d s) d).calibrating = false ∧
     ∀ e ∈ (recalReturn ok d s).fl.calendar, e.die = d → e.kind ≠ .calibration) ∧
   ∀ (s : State) (q : HmpHdr) (c p : Nat), HmpServed s q ruleRecalibrate →
     let go := exec (.channelRecalibrate q c p) s
     let named := if p = 0xFF then channelPkgs s.prof c else [p]
     (32 ≤ c → HmpAnswers go s s q 0x0401 0x0014 0 []) ∧
     (c < 32 → 8 ≤ p → p ≠ 0xFF → HmpAnswers go s s q 0x0401 0x0014 1 []) ∧
     (c < 32 → p < 8 → p ∉ channelPkgs s.prof c → HmpAnswers go s s q 0x0401 0x001B 1 []) ∧
     (c < 32 → p = 0xFF ∨ p ∈ channelPkgs s.prof c →
       (s.chg.ucLoad.isSome = true ∨ s.chg.recal.isSome = true → HmpAnswers go s s q 0x0401 0x0021 3 []) ∧
       (s.chg.ucLoad = none → s.chg.recal = none →
         (named = [] → HmpAnswers go s s q 0x0401 0x001B 0 []) ∧
         (named ≠ [] → liveHandles s q.sender < 64 → HmpStarts go s q 0x0401 fun s h => { s with chg := { s.chg with
           recal := some (q.sender, h, c, sumNat (named.map (2 ^ ·)), now s) } })))) ∧
  ((∀ (s : State) (q : HmpHdr) (mask : Nat), HmpServed s q ruleMicrocode →
     (mask = 0 ∨ 2 ^ 32 ≤ mask → HmpAnswers (exec (.channelMicrocodeLoad q mask) s) s s q 0x0402 0x0014 0 []) ∧
     (0 < mask → mask < 2 ^ 32 → (∃ c, c < 32 ∧ mask.testBit c = true ∧ diesPerCh s.prof (c / 16) = 0) →
       HmpAnswers (exec (.channelMicrocodeLoad q mask) s) s s q 0x0402 0x001B 0 []) ∧
     (0 < mask → mask < 2 ^ 32 → (∀ c, c < 32 → mask.testBit c = true → diesPerCh s.prof (c / 16) ≠ 0) →
       (s.chg.ucLoad.isSome = true ∨ s.chg.recal.isSome = true →
         exec (.channelMicrocodeLoad q mask) s = .next (startFailed s q 0x0402 0x0021 3)) ∧
       (s.chg.ucLoad = none → s.chg.recal = none → liveHandles s q.sender < 64 →
         HmpStarts (exec (.channelMicrocodeLoad q mask) s) s q 0x0402 fun s h =>
           nextTurn (nextTurn { s with chg := { s.chg with ucLoad := some (q.sender, h, mask, mask) } } 0) 1))) ∧
   (∀ (s : State) (half c : Nat) (rest : List Nat) (l : Sender × Nat × Nat × Nat), s.chg.ucLoad = some l →
     maskChannels l.2.2.2 half = c :: rest →
     (∀ r, turnConflict s c = some r → nextTurn s half = endLoad s 0x0021 r) ∧
     (turnConflict s c = none → nextTurn s half = startDrain (if half = 0 then { s with chg := { s.chg with ucTurnLow := some c } }
       else { s with chg := { s.chg with ucTurnHigh := some c } }) c)) ∧
   ∀ (s : State) (c : Nat) (ps : List PkgAnswer),
     (s.chg.ucTurnLow ≠ some c → s.chg.ucTurnHigh ≠ some c → ∀ ok, exec (.channelMicrocodeTurn c ok ps) s = .next s) ∧
     (channelBusy s c = true ∨ mgmtDown s = true → ∀ ok, exec (.channelMicrocodeTurn c ok ps) s = .next s) ∧
     (s.chg.ucTurnLow = some c ∨ s.chg.ucTurnHigh = some c → channelBusy s c = false → mgmtDown s = false →
       let idle := flushChannel s c
       exec (.channelMicrocodeTurn c false ps) s = .next (endLoad (channelReturns idle c) 0x0023 0) ∧
       let brought := forEach (channelPkgs idle.prof c) (bringPkg c ps) idle
       let dies := (channelPkgs brought.prof c).flatMap fun k => pkgDies brought.prof (c, k)
       let out := forEach dies (fun d t =>
         if (pkg t (diePkg d)).out && !(die t d).retired && (die t d).causeOut.isNone then dieAbsent t d 7 else t) brought
       exec (.channelMicrocodeTurn c true ps) s = .next (turnDone (channelReturns (useMicrocode (updChan out c fun x =>
         { x with microcode := microcodeVersion out, volumes := channelPkgs out.prof c, nvDdr3 := true })) c) c)))

/-! ### Thermal, DRAM and airflow (chapters 12, 15 and 16) -/

/-- Steps and the trip (R333, R336, R337, Tables 15.2, 15.3): a step is left once Tj has stayed HYSTERESIS below its threshold for
100 ms, for the highest step whose threshold it has not stayed below, and not below Warm while a DRAM component is in band D3; a
higher step is entered at once; a conversion trips just for the first valid sensor at 125 °C in two conversions, and not again; a dump
of the trip that still runs at 100 ms is marked partial, and THERMTRIP_N goes low; the wait after a trip is over once the sensors have
been cool for 1 s. -/
def Obligations.ThermalSteps : Prop :=
  (∀ s : State,
    (s.thm.belowSince = none → exec .thermalStepExit s = .next s) ∧
    (∀ t, s.thm.belowSince = some t → now s < t + 100000 → exec .thermalStepExit s = .next s) ∧
    (∀ t, s.thm.belowSince = some t → t + 100000 ≤ now s →
      let stays (k : Nat) : Prop := ∃ e ∈ s.thm.tjTrace, now s ≤ e.1 + 100000 ∧ stepTj k < e.2 + (s.prof.hysteresis : Int)
      let least := if true ∈ s.thm.d3 then 1 else 0
      (s.thm.step = .normal ∨ s.thm.step = .warm → exec .thermalStepExit s = .next (setStep s least)) ∧
      (s.thm.step = .hot → (stays 1 → exec .thermalStepExit s = .next (setStep s 1)) ∧
        (¬stays 1 → exec .thermalStepExit s = .next (setStep s least))) ∧
      (s.thm.step = .critical → (stays 2 → exec .thermalStepExit s = .next (setStep s 2)) ∧
        (¬stays 2 → stays 1 → exec .thermalStepExit s = .next (setStep s 1)) ∧
        (¬stays 2 → ¬stays 1 → exec .thermalStepExit s = .next (setStep s least))))) ∧
  (stepTj 1 = 95 ∧ stepTj 2 = 105 ∧ stepTj 3 = 115 ∧ ∀ s : State, setStep s (stepRank s.thm.step) = s) ∧
  (∀ s : State, stepRank s.thm.step < stepFor s (topTj s) → ∃ b, judgeStep s =
    { setStep s (stepFor s (topTj s)) with thm := { (setStep s (stepFor s (topTj s))).thm with belowSince := b } }) ∧
  (∀ (s : State) (rs : List (Option Int)), let t := applyThermal s
    exec (.sensorConversion rs) s = .next (tripHot (judgeReadings (takeReadings t rs)) (convertingSensors t)) ∧ (dueOf s 15 = [] → t = s)) ∧
  (∀ (s : State) (ids : List Nat),
    let hot (i : Nat) : Prop := (sensor s i).valid = true ∧ 2 ≤ (sensor s i).hotCount
    ((∀ i ∈ ids, ¬hot i) ∨ s.thm.tripped = true → tripHot s ids = s) ∧
    ∀ a i b, ids = a ++ i :: b → (∀ x ∈ a, ¬hot x) → hot i → s.thm.tripped = false → tripHot s ids = trip s i (sensor s i).reading) ∧
  (∀ s : State,
    (s.thm.tripped = false ∨ s.thm.tripAt = none ∨ s.eav.dumpStart = none ∨ s.eav.dump = none → exec .tripDumpTimeout s = .next s) ∧
    (∀ t d b, s.thm.tripped = true → s.thm.tripAt = some t → s.eav.dump = some d → s.eav.dumpStart = some b →
      (b < t ∨ now s < t + 100000 → exec .tripDumpTimeout s = .next s) ∧
      (t ≤ b → t + 100000 ≤ now s → ∃ u e, exec .tripDumpTimeout s = .next u ∧ u.eav.dump = some e ∧ e.partialMark = true ∧ e.units = d.units ∧
        u.thm.thermtripN = false ∧ u.eav.dumpStart = none ∧ u.sup.seqEn = false))) ∧
  ∀ s : State,
    (∀ t, s.thm.coolSince = some t → s.thm.tripWait = true → t + 1000000 ≤ now s →
      exec .tripRestartRelease s = .next { s with thm := { s.thm with tripWait := false, coolSince := none } }) ∧
    (s.thm.coolSince = none ∨ s.thm.tripWait = false → exec .tripRestartRelease s = .next s) ∧
    ∀ t, s.thm.coolSince = some t → now s < t + 1000000 → exec .tripRestartRelease s = .next s

/-- Conversions, diodes and Cold Start Warm (R331, R332, R336, R339): two missed conversions, a reading outside -55 to 150 °C, or ten
readings in a row away from its zone make a sensor invalid, and 1 s of correct readings makes it valid again; a reading of 125 °C or
more counts towards the trip; a failed sensor reads as Hot; a diode without a role is not read, and one that fails raises source 306;
the warm load starts as a long operation, one at a time (a second request conflicts, log entry 46), and ends when it is stopped (the
operation cancelled, log entry 46 too), and when the window opens or the step is Warm. -/
def Obligations.SensorsAndWarmLoad : Prop :=
  (∀ (t : Nat) (away : Bool) (x : SensorSt),
    (convertSensor t away x none).valid = (x.valid && decide (x.misses = 0)) ∧ (convertSensor t away x none).hotCount = 0 ∧
    (∀ v : Int, v < -55 ∨ 150 < v → (convertSensor t away x (some v)).valid = false) ∧
    (∀ v : Int, -55 ≤ v → v ≤ 150 → let y := convertSensor t away x (some v)
      let apart := if away then x.disagree + 1 else 0
      y.reading = v ∧ y.disagree = apart ∧ (x.valid = true → (y.valid = true ↔ apart < 10)) ∧
      (x.valid = false → (y.valid = true ↔ apart < 10 ∧ ∃ g, x.goodSince = some g ∧ g + 1000000 ≤ t)) ∧
      (125 ≤ v → y.hotCount = x.hotCount + 1) ∧ (v < 125 → y.hotCount = 0))) ∧
  (∀ x : SensorSt, x.valid = false → sensorReads x = 105) ∧
  (∀ (s : State) (rs : List (Option Int)), s.thm.diodes.length = 8 → (∀ n, n < 8 → remoteRole s.prof n = 0) →
    exec (.remoteDiodeConversion rs) s = .next (updateTempWarning s)) ∧
  (∀ (s : State) (rs : List (Option Int)),
    let converted := s.thm.diodes.zipIdx.map fun e =>
      if remoteRole s.prof e.2 = 0 then e.1 else convertSensor (now s) false e.1 (rs.getD e.2 none)
    let failed := (List.range 8).filter fun i => (vecGet sensorDefault s.thm.diodes i).valid && !(vecGet sensorDefault converted i).valid
    exec (.remoteDiodeConversion rs) s = .next (updateTempWarning (forEach failed (fun _ t => raiseFault t 306 (capOf 6 5 0 0 0))
      { s with thm := { s.thm with diodes := converted } }))) ∧
  (∀ s : State, let t := updateWarm s
    (s.fl.window.isOpen = true ∨ s.thm.step ≠ .normal → t.thm.warmOp = none ∧ t.thm.warmLoad = false ∧ t.thm.warmEnded = true) ∧
    (s.fl.window.isOpen = false → s.thm.step = .normal → s.thm.warmOp.isSome = true → t.thm.warmLoad = true ∧ t.thm.warmOp = s.thm.warmOp)) ∧
  ∀ (s : State) (q : HmpHdr), HmpServed s q ruleWarm →
    (s.thm.warmOp.isSome = true → HmpAnswers (exec (.coldStartWarmStart q) s) s s q 0x0702 0x0021 0 []) ∧
    (s.thm.warmOp = none → liveHandles s q.sender < 64 → HmpStarts (exec (.coldStartWarmStart q) s) s q 0x0702 fun s h =>
      updateWarm { s with thm := { s.thm with warmOp := some (q.sender, h), warmStart := minInt 127 (pollTemps s) } }) ∧
    let off (t : State) : State := { t with thm := { t.thm with warmOp := none, warmLoad := false, warmEnded := true } }
    (s.thm.warmOp = none → HmpApplies (exec (.coldStartWarmStop q) s) s (off s) q 0x0702) ∧
    ∀ x h, s.thm.warmOp = some (x, h) → exec (.coldStartWarmStop q) s = .next (hmpDone (off (endLong s x h 0x0018 0)) q 0x0702)

/-- Accesses, refresh and panic (R250, R252, R280, R281, R283, R285 to R287, R295): a write outside the region table's rights is denied; narrow
writes that fill a codeword's mask are written back at once, and others once 1 µs has passed; one that finds no room waits in its
port's queue; a granule whose Fresh bit is 0 reads as zeros; a refresh is due at tREFI, up to four are
postponed while the channel panics and made up for after it; a panic longer than 100 µs raises its source once; an RFM is counted; a row
at the window's ROW_ACT_LIMIT × 256 (R298) is throttled, but for port P1, until the window ends, which an event records; a frame of a
Loft page is copied to its own channel where one is free, else to the other, up to four times (R288). In a channel that does not run, no
access, refresh, RFM, panic entry, row count, poll, drift, resilvering, migration, scrub or repair does anything. -/
def Obligations.DramAccesses : Prop :=
  (∀ (s : State) (chB : Bool), dramRuns s chB = false → ∀ (a b r n k p : Nat) (ws : List (Nat × Byte)) (ts : List Int) (o o' : CodewordRead) (ok : Bool),
    exec (.mergeWriteback chB a ⟨p, ws⟩) s = .next s ∧ exec (.dramTempPoll chB ts) s = .next s ∧ exec (.dramRefresh chB r b) s = .next s ∧
    exec (.dramPanicEntry chB) s = .next s ∧ exec (.dramRfm chB r b) s = .next s ∧ exec (.rowActThrottle chB a r b n k) s = .next s ∧
    exec (.dramResilver chB) s = .next s ∧ exec (.dramDriftTrack chB r n k) s = .next s ∧ exec (.rankMigration chB r) s = .next s ∧
    exec (.scrubRead chB a ⟨o, o'⟩) s = .next s ∧ exec (.softPpr chB r b n ok) s = .next s) ∧
  (∀ (s : State) (chB : Bool) (p a : Nat) (ws : List (Nat × Byte)), dramRuns s chB = true →
    let t := takeNarrow s chB p a ws
    (ws ≠ [] → portMayWrite s chB p a = false → exec (.mergeWriteback chB a ⟨p, ws⟩) s = .next (denyWrite s p a)) ∧
    (ws = [] ∨ portMayWrite s chB p a = true → exec (.mergeWriteback chB a ⟨p, ws⟩) s = .next (mergeSettle t chB a))) ∧
  (∀ (s : State) (chB : Bool) (a : Nat),
    (((dramCh s chB).merge.find? fun e => e.addr == a) = none → mergeSettle s chB a = s) ∧
    ∀ e, ((dramCh s chB).merge.find? fun e => e.addr == a) = some e →
      let back := writeEntryBack s chB e
      (maskFull e = true ∨ e.since + 1 ≤ now s → mergeSettle s chB a = serveWaiting back chB (dramCh back chB).waiting.length) ∧
      (maskFull e = false → now s < e.since + 1 → mergeSettle s chB a = s)) ∧
  (∀ (s : State) (chB : Bool) (p a : Nat) (ws : List (Nat × Byte)), p < 7 → ws ≠ [] → (∀ w ∈ ws, w.1 < 64) →
    let free := (∀ x ∈ (dramCh s chB).waiting, x.port ≠ p) ∧ portOpen (dramCh s chB) p = true
    (free → ∀ y, mergeTake (dramCh s chB) (now s) a ws = some y → takeNarrow s chB p a ws = updDram s chB fun _ => countServed p y) ∧
    (¬free ∨ mergeTake (dramCh s chB) (now s) a ws = none → takeNarrow s chB p a ws =
      updDram s chB fun y => { y with waiting := y.waiting ++ [⟨p, now s, a, ws⟩] })) ∧
  (∀ (s : State) (chB : Bool) (p a : Nat), (∀ m, portMaster p = some m → ∀ r ∈ s.sec.regions, ¬(r.base ≤ a / 64 ∧ a / 64 ≤ r.limit)) →
    (portMaster p).isSome = true → portMayWrite s chB p a = false) ∧
  (∀ (s : State) (chB : Bool) (e : MergeEntry), ∀ x ∈ (dramCh (writeEntryBack s chB e) chB).merge, x.addr ≠ e.addr) ∧
  (∀ (s : State) (chB : Bool) (a : Nat), (dramCh s chB).merge = [] → isFresh (dramCh s chB) (granule a) = false → dramRead s chB a = some 0) ∧
  (∀ (s : State) (chB : Bool) (r b : Nat), (dramCh s chB).ranks.length ≤ r ∨ (rankOf (dramCh s chB) r).use = .excluded ∨
      (rankOf (dramCh s chB) r).selfRefresh = true → exec (.dramRefresh chB r b) s = .next s) ∧
  (∀ (s : State) (chB : Bool) (r b : Nat), dramRuns s chB = true → r < (dramCh s chB).ranks.length → (rankOf (dramCh s chB) r).use ≠ .excluded →
      (rankOf (dramCh s chB) r).selfRefresh = false →
    let refreshed := updRank s chB r fun y => { y with lastRefresh := tblSet b (now s) y.lastRefresh }
    (100 * (now s - tblGet 0 b (rankOf (dramCh s chB) r).lastRefresh) < tRefi (rankOf (dramCh s chB) r) →
      exec (.dramRefresh chB r b) s = .next s) ∧
    (tRefi (rankOf (dramCh s chB) r) ≤ 100 * (now s - tblGet 0 b (rankOf (dramCh s chB) r).lastRefresh) →
      ((dramCh s chB).panicSince.isSome = true → (dramCh s chB).postponed < 4 →
        exec (.dramRefresh chB r b) s = .next (updDram s chB fun y => { y with postponed := y.postponed + 1 })) ∧
      ((dramCh s chB).panicSince.isSome = true → 4 ≤ (dramCh s chB).postponed → exec (.dramRefresh chB r b) s = .next refreshed) ∧
      ((dramCh s chB).panicSince = none →
        exec (.dramRefresh chB r b) s = .next (updDram refreshed chB fun y => { y with postponed := y.postponed - 1 })))) ∧
  (∀ x : RankSt, tRefi x = if x.temp < 85 then 390 else 195) ∧
  (∀ (s : State) (chB : Bool),
    (dramRuns s chB = true → (dramCh s chB).panicSince = none → exec (.dramPanicEntry chB) s =
      .next (updDram s chB fun x => { x with panicSince := some (now s), panics := x.panics + 1, panicLongRaised := false })) ∧
    ((dramCh s chB).panicSince.isSome = true → exec (.dramPanicEntry chB) s = .next s) ∧
    (panicHolds s chB = true ↔ ∃ r ∈ (dramCh s chB).waiting, realTime r.port = true ∧ s.prof.panicLat ≤ 20 * (now s - r.since)) ∧
    (panicHolds s chB = true → exec (.dramPanicExit chB) s = .next s) ∧
    (panicHolds s chB = false → exec (.dramPanicExit chB) s = .next (serveWaiting
      (updDram s chB fun x => { x with panicSince := none, panicLongRaised := false }) chB (dramCh s chB).waiting.length)) ∧
    ((dramCh s chB).panicSince = none → exec (.dramPanicLong chB) s = .next s) ∧
    (∀ t, (dramCh s chB).panicSince = some t →
      (now s ≤ t + 100 ∨ (dramCh s chB).panicLongRaised = true → exec (.dramPanicLong chB) s = .next s) ∧
      (t + 100 < now s → (dramCh s chB).panicLongRaised = false → exec (.dramPanicLong chB) s = .next (raiseFault
        (updDram s chB fun x => { x with panicLongRaised := true }) (if chB then 288 else 282) (capOf 7 5 0 (dramIsland chB) (dramIsland chB))))) ∧
    (∀ r b, dramRuns s chB = true → r < (dramCh s chB).ranks.length → b < 32 →
      exec (.dramRfm chB r b) s = .next (updDram s chB fun x => { x with rfms := x.rfms + 1 })) ∧
    (∀ r b, (dramCh s chB).ranks.length ≤ r ∨ 32 ≤ b → exec (.dramRfm chB r b) s = .next s) ∧
    exec (.rowWindowEnd chB) s = .next (updDram s chB fun x => { x with rows := [], rowLimit := s.prof.rowActLimit }) ∧
    (∀ p r b row n, 7 ≤ p → exec (.rowActThrottle chB p r b row n) s = .next s) ∧
    (∀ p r b row n, dramRuns s chB = true → p < 7 →
      let same (x : RowCount) : Bool := x.port == p && x.rank == r && x.bank == b && x.row == row
      let was := (dramCh s chB).rows.any fun x => same x && x.throttled
      let hit := decide ((dramCh s chB).rowLimit * 256 ≤ n) && p != 1
      let counted := updDram s chB fun x => { x with rows := keepRows p r b ((x.rows.filter fun x => !same x) ++ [⟨p, r, b, row, n, was || hit⟩]) }
      (hit = false ∨ was = true → exec (.rowActThrottle chB p r b row n) s = .next counted) ∧
      (hit = true → was = false → exec (.rowActThrottle chB p r b row n) s = .next (recordEvent counted 0x0053 1 0 (dramIsland chB)
        (leBytes 1 (dramNo chB) ++ leBytes 1 p ++ leBytes 1 r ++ leBytes 1 b ++ leBytes 4 row ++ leBytes 4 n))))) ∧
  ∀ (s : State) (n p : Nat),
    ((s.dram.loft.find? fun l => l.nsid == n && l.page == p) = none → exec (.loftFrameReplicate n p) s = .next s) ∧
    ∀ l, (s.dram.loft.find? fun l => l.nsid == n && l.page == p) = some l →
      exec (.loftFrameReplicate n p) s = .next (replicateLoft s l) ∧ (4 ≤ l.replicas.length → replicateLoft s l = s) ∧
      (l.replicas.length < 4 →
        let room (chB : Bool) : Prop := loftUsed s chB < loftFrames s ∧ notRunning s (dramIsland chB) = false
        let copied (chB : Bool) : State := { s with dram := { s.dram with loft := s.dram.loft.map fun x =>
          if x.nsid = l.nsid ∧ x.page = l.page then { x with replicas := x.replicas ++ [chB] } else x } }
        (room l.chB → replicateLoft s l = copied l.chB) ∧ (¬room l.chB → room (!l.chB) → replicateLoft s l = copied (!l.chB)) ∧
        (¬room l.chB → ¬room (!l.chB) → replicateLoft s l = s))

/-- Ranks, resilvering and scrubbing (R278, R282, R283, R290, R293 to R296, Table 12.9): a stale channel is filled from the other;
a channel at 95 °C or more raises its source as it gets there (the model's choice, log entry 48) and holds the device at Warm; a rank that
drifted is to be retrained, which an event records where no spare can serve it; a migration uses the spare and the other channel, the
swap makes the old rank the spare or excludes it; a bad codeword is repaired from the other copy or poisoned; a row with PPR_THRESHOLD
corrected codewords is repaired, or left unused with its source and its rank moved where no resource is left. A retrain
request without a spare conflicts (reason 1), and with a migration or a channel that does not run (reason 2); the answers for a channel
or a rank that is not there, the spare and a rank not in use are the model's choice (log entry 135). -/
def Obligations.DramRanks : Prop :=
  (∀ (s : State) (chB : Bool), dramRuns s chB = true →
    ((dramCh s chB).stale = true → dramRuns s (!chB) = true → exec (.dramResilver chB) s = .next (updDram s chB fun x => { x with resilvering := true })) ∧
    ((dramCh s chB).stale = false ∨ dramRuns s (!chB) = false → exec (.dramResilver chB) s = .next s) ∧
    ((dramCh s chB).resilvering = false ∨ dramRuns s (!chB) = false ∨ (dramCh s chB).panicSince.isSome = true →
      exec (.dramResilverComplete chB) s = .next s) ∧
    ((dramCh s chB).resilvering = true → dramRuns s (!chB) = true → (dramCh s chB).panicSince = none →
      exec (.dramResilverComplete chB) s = .next (resilverEaves (updDram s chB (resilvered (dramCh s (!chB)) (mirroredBytes s))) chB) ∧
      (∀ o lim, (resilvered o lim (dramCh s chB)).stale = false ∧ (resilvered o lim (dramCh s chB)).resilvering = false)) ∧
    (s.boot.phase = 6 → (∀ ts, exec (.dramTempPoll chB ts) s = .next s) ∧ ∀ r dqs rate, exec (.dramDriftTrack chB r dqs rate) s = .next s) ∧
    (∀ ts, s.boot.phase ≠ 6 →
      let temped (x : DramCh) : DramCh := { x with ranks := x.ranks.zipIdx.map fun e => { e.1 with temp := ts.getD e.2 e.1.temp } }
      let t := updDram s chB temped
      let hot (b : Bool) : State := { t with thm := { t.thm with d3 := vecUpd s.thm.d3 (dramNo chB) fun _ => b } }
      let warm (u : State) : State := if u.thm.step = .normal then setStep u 1 else u
      (hottestRank (temped (dramCh s chB)) < 95 → exec (.dramTempPoll chB ts) s = .next (hot false)) ∧
      (95 ≤ hottestRank (temped (dramCh s chB)) →
        (vecGet false s.thm.d3 (dramNo chB) = true → exec (.dramTempPoll chB ts) s = .next (warm (hot true))) ∧
        (vecGet false s.thm.d3 (dramNo chB) = false → exec (.dramTempPoll chB ts) s = .next (warm (raiseFault (hot true) (if chB then 287 else 281)
          (capOf 7 5 0 (dramIsland chB) (dramIsland chB))))))) ∧
    (∀ r dqs rate, (dramCh s chB).ranks.length ≤ r ∨ (rankOf (dramCh s chB) r).use ≠ .inUse → exec (.dramDriftTrack chB r dqs rate) s = .next s) ∧
    (∀ r dqs rate, s.boot.phase ≠ 6 → r < (dramCh s chB).ranks.length → (rankOf (dramCh s chB) r).use = .inUse →
      let y : RankSt := { rankOf (dramCh s chB) r with dqs := dqs, rate := rate }
      let t := updRank s chB r fun r => { r with dqs := dqs, rate := rate }
      (retrainNeeded s.prof y = false ∨ y.retrainDue = true → exec (.dramDriftTrack chB r dqs rate) s = .next t) ∧
      (retrainNeeded s.prof y = true → y.retrainDue = false →
        let due := updRank t chB r fun r => { r with retrainDue := true }
        ((spareOf (dramCh s chB)).isSome = true → exec (.dramDriftTrack chB r dqs rate) s = .next due) ∧
        (spareOf (dramCh s chB) = none → exec (.dramDriftTrack chB r dqs rate) s = .next (rankEvent due chB r 0 1)))) ∧
    (∀ r, spareOf (dramCh s chB) = none ∨ (dramCh s chB).ranks.length ≤ r → exec (.rankMigration chB r) s = .next s) ∧
    (∀ r sp, spareOf (dramCh s chB) = some sp → r < (dramCh s chB).ranks.length →
      (dramRuns s (!chB) = true → migrationRuns s = false → migrationDue (dramCh s chB) r = true → plannedOk s = true →
        exec (.rankMigration chB r) s = .next (startMigration s chB r none) ∧
        (dramCh (startMigration s chB r none) chB).migrating = some (r, sp) ∧ (dramCh (startMigration s chB r none) chB).dualWrite = true) ∧
      (dramRuns s (!chB) = false ∨ migrationRuns s = true ∨ migrationDue (dramCh s chB) r = false ∨ plannedOk s = false →
        exec (.rankMigration chB r) s = .next s)) ∧
    (∀ a o o', (dramCh s chB).panicSince.isSome = true → exec (.scrubRead chB a ⟨o, o'⟩) s = .next s) ∧
    (∀ a o o', (dramCh s chB).panicSince = none → isFresh (dramCh s chB) (granule (a * 64)) = false ∨
        readCodeword (dramCh s chB) a o = .poison ∨ readCodeword (dramCh s chB) a o = .clean →
      exec (.scrubRead chB a ⟨o, o'⟩) s = .next (updDram s chB fun y => { y with scrubAt := a + 1 })) ∧
    (∀ a o o', (dramCh s chB).panicSince = none → isFresh (dramCh s chB) (granule (a * 64)) = true →
      let t := updDram s chB fun y => { y with scrubAt := a + 1 }
      let count (y : DramCh) : DramCh := { y with corrected := tblSet (rowOf (a * 64)) (correctedIn t y (rowOf (a * 64)) ++ [opUs t]) y.corrected }
      let other := readCodeword (dramCh s (!chB)) a o'
      (readCodeword (dramCh s chB) a o = .corrected → exec (.scrubRead chB a ⟨o, o'⟩) s = .next (updDram t chB count)) ∧
      (readCodeword (dramCh s chB) a o = .uncorrectable →
        (isMirrored s (a * 64) = false → exec (.scrubRead chB a ⟨o, o'⟩) s = .next (dropFrame t chB)) ∧
        (isMirrored s (a * 64) = true →
          (dramRuns s (!chB) = false ∨ isFresh (dramCh s (!chB)) (granule (a * 64)) = false ∨ other = .poison ∨ other = .uncorrectable →
            exec (.scrubRead chB a ⟨o, o'⟩) s = .next (poisonBoth t chB a)) ∧
          (dramRuns s (!chB) = true → isFresh (dramCh s (!chB)) (granule (a * 64)) = true → other = .clean ∨ other = .corrected →
            exec (.scrubRead chB a ⟨o, o'⟩) s = .next (raiseFault (updDram t chB (rewritten a (dramCh s (!chB))))
              (if chB then 285 else 279) (capOf 7 0 (a * 64) (dramIsland chB) (dramIsland chB))))))) ∧
    (∀ r b row ok, (dramCh s chB).ranks.length ≤ r ∨ (correctedIn s (dramCh s chB) (r, b, row)).length < s.prof.pprThreshold →
      exec (.softPpr chB r b row ok) s = .next s) ∧
    (∀ r b row, r < (dramCh s chB).ranks.length → s.prof.pprThreshold ≤ (correctedIn s (dramCh s chB) (r, b, row)).length →
      let counted := updDram s chB fun y => { y with corrected := tblDel (r, b, row) y.corrected }
      (plannedOk s = false → exec (.softPpr chB r b row true) s = .next s) ∧
      (plannedOk s = true → exec (.softPpr chB r b row true) s =
        .next (rankEvent (updRank (plannedStep counted) chB r fun x => { x with pendingRepair := x.pendingRepair ++ [(b, row)] }) chB r 3 0)) ∧
      let unused := updDram counted chB fun y => { y with noRepair := if (r, b) ∈ y.noRepair then y.noRepair else y.noRepair ++ [(r, b)],
                                                          excludedRows := y.excludedRows ++ [(r, b, row)] }
      let raised := raiseFault (rankEvent unused chB r 3 1) (if chB then 290 else 284) (capOf 7 5 0 (dramIsland chB) (dramIsland chB))
      exec (.softPpr chB r b row false) s = .next (if (spareOf (dramCh raised chB)).isSome ∧ dramRuns raised (!chB) = true ∧
        migrationRuns raised = false ∧ (rankOf (dramCh s chB) r).use = .inUse then startMigration raised chB r none else raised))) ∧
  (∀ (s : State) (chB ok : Bool),
    ((dramCh s chB).migrating = none ∨ dramRuns s chB = false ∨ (dramCh s chB).panicSince.isSome = true ∨ plannedOk s = false →
      exec (.rankMigrationSwap chB ok) s = .next s) ∧
    (∀ old sp, (dramCh s chB).migrating = some (old, sp) → old ≠ sp → dramRuns s chB = true → (dramCh s chB).panicSince = none → plannedOk s = true →
      old < (dramCh s chB).ranks.length → sp < (dramCh s chB).ranks.length →
      let keeps := ok = true ∧ ∀ x ∈ (dramCh s chB).noRepair, x.1 ≠ old
      ∃ t, exec (.rankMigrationSwap chB ok) s = .next t ∧ (dramCh t chB).migrating = none ∧
        (dramCh t chB).dualWrite = false ∧ (rankOf (dramCh t chB) sp).use = .inUse ∧
        (keeps → (rankOf (dramCh t chB) old).use = .spare ∧ (rankOf (dramCh t chB) old).selfRefresh = true) ∧
        (¬keeps → (rankOf (dramCh t chB) old).use = .excluded) ∧
        (dramCh t chB).rankMap = (dramCh s chB).rankMap.map fun r => if r = old then sp else r)) ∧
  ∀ (s : State) (q : HmpHdr) (c r : Nat), HmpServed s q ruleRetrain →
    let go := exec (.dramRankRetrain q c r) s
    let chB := c == 1
    (1 < c → go = .next (rejectWrite s q 0x0403 0x0014 0)) ∧
    (c < 2 →
    (spareOf (dramCh s chB) = none → HmpAnswers go s s q 0x0403 0x0021 1 []) ∧
    ∀ sp, spareOf (dramCh s chB) = some sp →
      ((dramCh s chB).ranks.length ≤ r → HmpAnswers go s s q 0x0403 0x001B 1 []) ∧
      (r < (dramCh s chB).ranks.length → r = sp ∨ (rankOf (dramCh s chB) r).use ≠ .inUse → HmpAnswers go s s q 0x0403 0x0014 1 []) ∧
      (r < (dramCh s chB).ranks.length → r ≠ sp → (rankOf (dramCh s chB) r).use = .inUse →
        (migrationRuns s = true ∨ dramRuns s chB = false ∨ dramRuns s (!chB) = false → HmpAnswers go s s q 0x0403 0x0021 2 []) ∧
        (migrationRuns s = false → dramRuns s chB = true → dramRuns s (!chB) = true → liveHandles s q.sender < 64 →
          HmpStarts go s q 0x0403 fun s h => startMigration s chB r (some (q.sender, h)))))

/-- Faults, stalls and starts (R344, R349 to R352, R354, Tables 16.1, 16.3): a driver fault drives the outputs and the gate driver
low and is retried after 100 ms, or ends a service stop; a stall is restarted after 5 s, the third one without 60 s of running locks the
blower out; a restart is a catch-spin where the blower is wanted and nothing forbids it, else the blower stays off; the clamp closes at
CLAMP_ON and opens at CLAMP_OFF, and its feedback is judged 20 µs later; an overvoltage makes the blower coast until the bus is below
CLAMP_OFF. A first reading of the bus below 2.0 V says that the carrier has no blower: it is off, does not start, and no driver or clamp
fault is raised (R441). While the island does not run none of it happens. -/
def Obligations.BlowerProtection : Prop :=
  (∀ s : State, isRunning s 9 = false → ∀ (a b : Nat) (x : Int) (l : Bool) (c : StallCause),
    exec .speedLoopStep s = .next s ∧ exec .blowerOffTimer s = .next s ∧ exec (.currentLoopPeriod a b x) s = .next s ∧
    exec .driverFault s = .next s ∧ exec .driverFaultRetry s = .next s ∧ exec (.catchSpinEnd l x) s = .next s ∧ exec .alignEnd s = .next s ∧
    exec (.blowerStall c) s = .next s ∧ exec .stallRestart s = .next s ∧ exec (.busClampOn a) s = .next s ∧ exec (.clampFault l) s = .next s ∧
    exec (.busOvervoltage a) s = .next s) ∧
  (∀ s : State, isRunning s 9 = true →
    (s.air.absent = true → exec .driverFault s = .next s ∧ ∀ b, exec (.clampFault b) s = .next s) ∧
    (s.air.absent = false → exec .driverFault s = .next (driverReact (raiseFault s 313 (capOf 8 5 0 9 9)))) ∧
    (∀ t, s.air.driverFaultAt = some t →
      (now s < t + 100000 → exec .driverFaultRetry s = .next s) ∧
      (t + 100000 ≤ now s → (s.air.stopping = true → exec .driverFaultRetry s = .next (finishStop s)) ∧
        (s.air.stopping = false → s.air.stuckClosed = true →
          exec .driverFaultRetry s = .next { s with air := { s.air with driverFaultAt := none } }) ∧
        (s.air.stopping = false → s.air.stuckClosed = false → exec .driverFaultRetry s = .next (restartBlower s)))) ∧
    (s.air.driverFaultAt = none → exec .driverFaultRetry s = .next s) ∧
    (∀ t, s.air.stallAt = some t → (now s < t + 5000000 → exec .stallRestart s = .next s) ∧
      (t + 5000000 ≤ now s → exec .stallRestart s = .next (restartBlower s))) ∧
    (s.air.stallAt = none → exec .stallRestart s = .next s) ∧
    (∀ c, turning s.air.st = true → c ≠ .noStart → exec (.blowerStall c) s = .next (stallReact (raiseFault s 315 (capOf 8 5 0 9 9)))) ∧
    (turning s.air.st = true → (now s < s.air.startAt + 10000000 ∨ s.air.st ≠ .starting) → exec (.blowerStall .noStart) s = .next s) ∧
    (s.air.st = .starting → s.air.startAt + 10000000 ≤ now s →
      exec (.blowerStall .noStart) s = .next (stallReact (raiseFault s 315 (capOf 8 5 0 9 9)))) ∧
    (∀ c, turning s.air.st = false → exec (.blowerStall c) s = .next s) ∧
    (∀ mv,
      let t := judgeBus s mv
      let clampSet : Bool := if s.prof.clampOn * 100 ≤ mv then true else if mv ≤ s.prof.clampOff * 100 then false else t.air.clamp
      let since := if clampSet = t.air.clamp then t.air.clampSince else some (now s)
      let read : State := { t with air := { t.air with busMv := mv, clampSince := since, clamp := clampSet } }
      (s.air.judged = true → t = s) ∧
      (s.air.judged = false → t.air.judged = true ∧ (t.air.absent = true ↔ mv < 2000) ∧
        (mv < 2000 → t.air.st = .off ∧ t.air.drvEn = false ∧ t.air.pwm = pwmLow)) ∧
      (s.air.busOv = false ∨ s.prof.clampOff * 100 ≤ mv → exec (.busClampOn mv) s = .next read) ∧
      (s.air.busOv = true → mv < s.prof.clampOff * 100 → exec (.busClampOn mv) s = .next (restartBlower read))) ∧
    (∀ b, s.air.absent = false → s.air.clamp ≠ b → (∀ t, s.air.clampSince = some t → t + 20 ≤ now s) →
      exec (.clampFault b) s = .next (clampReact (raiseFault s 314 (capOf 8 5 0 9 9)) b)) ∧
    (∀ b, s.air.clamp = b ∨ (∃ t, s.air.clampSince = some t ∧ now s < t + 20) → exec (.clampFault b) s = .next s) ∧
    (∀ mv, mv < s.prof.busOv * 100 → exec (.busOvervoltage mv) s = .next s) ∧
    (∀ mv, s.prof.busOv * 100 ≤ mv → turning s.air.st = true →
      let off := blowerOff { s with air := { s.air with busMv := mv, judged := true } } .off
      let coasts : State := { off with air := { off.air with busOv := true } }
      coasts.air.pwm = pwmLow ∧ coasts.air.drvEn = false ∧ coasts.air.st = .off ∧
      (s.air.stopping = false → exec (.busOvervoltage mv) s = .next coasts) ∧
      (s.air.stopping = true → exec (.busOvervoltage mv) s = .next (finishStop coasts))) ∧
    (∀ mv, s.prof.busOv * 100 ≤ mv → turning s.air.st = false →
      exec (.busOvervoltage mv) s = .next { s with air := { s.air with busMv := mv, judged := true, pwm := pwmLow } })) ∧
  (∀ s : State, (driverReact s).air.pwm = pwmLow ∧ (driverReact s).air.drvEn = false ∧
    (s.air.st ≠ .stallLockout → s.air.st ≠ .stoppedForService → (driverReact s).air.st = .driverLockout ∧
      (driverReact s).air.driverFaultAt = some (now s))) ∧
  (∀ s : State, s.air.stopping = false →
    let ran := ∃ t, s.air.runningSince = some t ∧ t + 60000000 ≤ now s
    (stallReact s).air.pwm = pwmLow ∧ (stallReact s).air.drvEn = false ∧
    (ran → (stallReact s).air.st = .off ∧ (stallReact s).air.stalls = 1 ∧ (stallReact s).air.stallAt = some (now s)) ∧
    (¬ran → s.air.stalls < 2 → (stallReact s).air.st = .off ∧ (stallReact s).air.stalls = s.air.stalls + 1 ∧
      (stallReact s).air.stallAt = some (now s)) ∧
    (¬ran → 2 ≤ s.air.stalls → (stallReact s).air.st = .stallLockout ∧ (stallReact s).air.stallAt = none)) ∧
  ∀ s : State, (s.air.absent = true → mayStart s = false) ∧
    (mayStart s = true → (restartBlower s).air.st = .catchSpin ∧ (restartBlower s).air.startAt = now s ∧
      (restartBlower s).air.drvEn = true ∧ (restartBlower s).air.starts = s.air.starts + 1) ∧
    (mayStart s = false → (restartBlower s).air.st = .off ∧ (restartBlower s).air.drvEn = false ∧ (restartBlower s).air.pwm = pwmLow)

/-- Loops and start modes (R345 to R350, R354, R360): the vectors are shifted as the sampling needs, a phase current above 1.5 × I_MAX
is a stall; the voltages and the speed estimate are the controllers' and the observer's (free values, log entry 53); a speed step takes
the live values of its record that are due, the speed reference moves at no more than ACCEL and DECEL, and the current reference stays
within the current limit; the blower is turned off once T_c has stayed below T_ON - ON_HYST for 30 s; alignment ends after 200 ms; a
catch-spin ends after 50 ms by the measured speed. Blower Service (R356): a stop is a long operation, at once done for a blower that
does not run forward; stopped already, Success and no change; a second stop while one runs fails with Busy, and a stop cancels a resume
that still runs (the model's choices, log entry 53); a resume compares the winding and starts with a catch-spin, and fails with reason 1
or 2 where the winding differs or is open; of a blower that turns, Success and no change. -/
def Obligations.BlowerLoopsAndService : Prop :=
  ((∀ (s : State) (t1 t2 : Nat) (ma : Int), isRunning s 9 = true →
     (turning s.air.st = false → exec (.currentLoopPeriod t1 t2 ma) s = .next s) ∧
     (turning s.air.st = true →
       let t := tickFree { s with air := { s.air with
         lastVectors := shiftVector s.prof.tMinSample t1 ++ shiftVector s.prof.tMinSample t2, phaseMa := ma,
         ud := Config.freeInt (2 * s.free), uq := Config.freeInt (2 * s.free + 1) } }
       (ma.natAbs ≤ s.prof.iMax * 150 → exec (.currentLoopPeriod t1 t2 ma) s = .next t) ∧
       (s.prof.iMax * 150 < ma.natAbs → exec (.currentLoopPeriod t1 t2 ma) s = .next (stallBlower t)))) ∧
   (∀ m t : Nat, (m ≤ t → shiftVector m t = [(t : Int), (t : Int)]) ∧ (t < m → shiftVector m t = [(m : Int), 2 * (t : Int) - m])) ∧
   (∀ s : State, isRunning s 9 = true → s.eav.powerLoss = false → let u := judgeDemand (takeDue s 16)
     (s.thm.warmLoad = true → turning s.air.st = true → exec .speedLoopStep s = .next (blowerOff u .off)) ∧
     (s.thm.warmLoad = true → turning s.air.st = false → exec .speedLoopStep s = .next u) ∧
     (s.thm.warmLoad = false →
       (s.air.st = .catchSpin → exec .speedLoopStep s = .next (tickFree (resumeDone u))) ∧
       (s.air.st = .starting ∨ s.air.st = .running ∨ s.air.st = .braking → exec .speedLoopStep s =
         .next (tickFree (resumeDone (stepTurning { u with air := { u.air with speed := Config.freeInt u.free } })))) ∧
       (s.air.st = .off → s.air.stallAt = none → s.air.busOv = false → exec .speedLoopStep s = .next (if mayStart u then catchSpin u else u)) ∧
       (turning s.air.st = false → s.air.st ≠ .off ∨ s.air.stallAt.isSome = true ∨ s.air.busOv = true → exec .speedLoopStep s = .next u))) ∧
   (∀ s : State, s.air.st = .running → s.air.stopping = false → let t := stepTurning s
     t.air.reference = rampTo s.prof s.air.reference (speedDemand s) ∧ (t.air.st = .braking ↔ speedDemand s < t.air.reference) ∧
       (t.air.iqRef).natAbs ≤ (currentLimit s).natAbs ∧ (clampLatched s = false → t.air.idRef = 0)) ∧
   (∀ s : State, s.eav.powerLoss = true → exec .speedLoopStep s = .next s) ∧
   (∀ (p : Profile) (r d : Int), (r < d → rampTo p r d ≤ r + p.accel ∧ rampTo p r d ≤ d ∧ r ≤ rampTo p r d) ∧
     (d ≤ r → r - p.decel ≤ rampTo p r d ∧ d ≤ rampTo p r d ∧ rampTo p r d ≤ r)) ∧
   (∀ s : State, s.thm.step ≠ .normal → speedDemand s = (s.prof.speedMax : Int) * 1000) ∧
   (∀ s : State,
     (s.air.belowOnSince = none → exec .blowerOffTimer s = .next s) ∧
     (s.air.wanted = false ∨ s.air.stopping = true ∨ s.air.serviceOp.isSome = true → exec .blowerOffTimer s = .next s) ∧
     ∀ t, s.air.belowOnSince = some t → (now s < t + 30000000 → exec .blowerOffTimer s = .next s) ∧
       (t + 30000000 ≤ now s → isRunning s 9 = true → s.air.wanted = true → s.air.stopping = false → s.air.serviceOp = none →
         let u : State := { s with air := { s.air with wanted := false } }
         (turning s.air.st = true → exec .blowerOffTimer s = .next (blowerOff u .off)) ∧
         (turning s.air.st = false → exec .blowerOffTimer s = .next u))) ∧
   (∀ (s : State) (t : Nat), s.air.alignAt = some t →
     (now s < t + 200000 ∨ s.air.st ≠ .starting → exec .alignEnd s = .next s) ∧
     (t + 200000 ≤ now s → s.air.st = .starting → isRunning s 9 = true →
       exec .alignEnd s = .next { s with air := { s.air with alignAt := none } })) ∧
   (∀ s : State, s.air.alignAt = none → exec .alignEnd s = .next s) ∧
   (∀ (s : State) (b : Bool) (rpm : Int), s.air.st ≠ .catchSpin → exec (.catchSpinEnd b rpm) s = .next s) ∧
   ∀ (s : State) (rpm : Int), isRunning s 9 = true → s.air.st = .catchSpin →
     (now s < s.air.startAt + 50000 → ∀ b, exec (.catchSpinEnd b rpm) s = .next s) ∧
     (s.air.startAt + 50000 ≤ now s →
       exec (.catchSpinEnd false rpm) s = .next (standstill s) ∧ (standstill s).air.st = .starting ∧
       (catchMinRpm s ≤ rpm → exec (.catchSpinEnd true rpm) s = .next { s with air := { s.air with
         speed := rpm, st := .running, reference := rpm * 1000, runningSince := some (now s) } }) ∧
       (rpm < -(catchMinRpm s) → exec (.catchSpinEnd true rpm) s = .next { s with air := { s.air with
         speed := rpm, st := .braking, reference := 0, nonRegen := clampLatched s } }) ∧
       (-(catchMinRpm s) ≤ rpm → rpm < catchMinRpm s → exec (.catchSpinEnd true rpm) s =
         .next (standstill { s with air := { s.air with speed := rpm } })))) ∧
  (∀ (s : State) (q : HmpHdr), HmpServed s q ruleBlowerService →
     (s.air.stopping = true → exec (.blowerServiceStop q) s = .next (startFailed s q 0x0704 0x0017 0)) ∧
     (s.air.stopping = false → isRunning s 9 = false → liveHandles s q.sender < 64 →
       HmpStarts (exec (.blowerServiceStop q) s) s q 0x0704 fun s h => endLong s q.sender h 0 0) ∧
     (s.air.stopping = false → isRunning s 9 = true → liveHandles s q.sender < 64 →
       let stop (s : State) (h : Nat) : State :=
         let t := endLong? s s.air.serviceOp 0x0018 0
         { t with air := { t.air with stopping := true, serviceOp := some (q.sender, h) } }
       (s.air.st = .running ∨ (s.air.st = .braking ∧ 0 ≤ s.air.speed) → HmpStarts (exec (.blowerServiceStop q) s) s q 0x0704 stop) ∧
       (s.air.st ≠ .running → s.air.st ≠ .braking ∨ s.air.speed < 0 →
         HmpStarts (exec (.blowerServiceStop q) s) s q 0x0704 fun s h => finishStop (stop s h))) ∧
     (∀ s : State, (finishStop s).air.st = .stoppedForService ∧ (finishStop s).air.wanted = false ∧ (finishStop s).air.stopping = false) ∧
     (∀ (o : Bool) (r l : Nat), liveHandles s q.sender < 64 →
       (s.air.stopping = true ∨ turning s.air.st = true → HmpStarts (exec (.blowerServiceResume q o r l) s) s q 0x0704
         fun s h => endLong s q.sender h 0 0) ∧
       (s.air.stopping = false → turning s.air.st = false →
         let back (s : State) : State := { setIslandState s 9 .running with air := { (setIslandState s 9 .running).air with
           st := .off, stalls := 0, stallAt := none, stuckClosed := false, driverFaultAt := none, busOv := false, judged := false,
           absent := false } }
         (o = true → HmpStarts (exec (.blowerServiceResume q o r l) s) s q 0x0704 fun s h =>
           endLong (raiseFault (blowerOff (back s) .stoppedForService) 315 (capOf 8 5 0 9 9)) q.sender h 0x0021 2) ∧
         (o = false → within25 r s.prof.rS = false ∨ within25 l s.prof.lS = false → HmpStarts (exec (.blowerServiceResume q o r l) s) s q 0x0704
           fun s h => endLong (blowerOff (back s) .stoppedForService) q.sender h 0x0021 1) ∧
         (o = false → within25 r s.prof.rS = true → within25 l s.prof.lS = true → s.thm.warmLoad = true →
           HmpStarts (exec (.blowerServiceResume q o r l) s) s q 0x0704 fun s h => endLong (back s) q.sender h 0 0) ∧
         (o = false → within25 r s.prof.rS = true → within25 l s.prof.lS = true → s.thm.warmLoad = false →
           HmpStarts (exec (.blowerServiceResume q o r l) s) s q 0x0704 fun s h =>
             let t := back s
             catchSpin { t with air := { t.air with wanted := true, serviceOp := some (q.sender, h) } }))) ∧
     ∀ x f : Nat, (within25 x f = true ↔ 3 * f ≤ 4 * x ∧ 4 * x ≤ 5 * f))

/-! ### Faults, islands, supplies, start-up and recorder (chapters 01, 11, 14, 17 to 19, 21) -/

/-- The Fault Collector (R314 to R316, R324, R327, Table 14.4): SNAP copies all event and severe words; a core kicks its own
watchdog bit only; ALIVE toggles while its conditions hold and is low otherwise; an event latches its bit and its first error, a
source that is fixed becomes severe at it, and the source's reaction of Table 14.1 follows; a source outside that table has no event.
Fault commands (R315, R325, R330, Table 14.2): a snapshot takes all event words and all severe words at once and returns 96 bytes, or
with less room is not taken; a threshold is written unless its source is fixed; a clear takes back event bits, counts and first errors,
latches, or both, and is recorded as event 0x0012; the first-error record has 40 bytes. -/
def Obligations.FaultCollector : Prop :=
  ((∀ (s : State) (v : Nat),
     let word (p : FaultSrc → Bool) : List U32 := (List.range 10).map (srcWord s p)
     let snap : FltSt := { s.flt with snapSeq := s.flt.snapSeq + 1, snapTime := now s, fsvSnap := word (·.bit), sevSnap := word (·.severe) }
     (v % 2 = 1 → exec (.faultSnap v) s = .next { s with flt := snap }) ∧
     (v % 2 = 0 → exec (.faultSnap v) s = .next s)) ∧
   (∀ (s : State) (p : FaultSrc → Bool) (w b : Nat), b < 32 → (srcWord s p w).getLsbD b = p (faultSrc s (32 * w + b))) ∧
   (∀ (s : State) (k v : Nat),
     (k < 10 → bits v k 1 = 1 → exec (.coreKick k v) s =
       .next { s with flt := { s.flt with cores := vecUpd s.flt.cores k fun c => { c with lastKick := now s } } }) ∧
     (10 ≤ k ∨ bits v k 1 = 0 → exec (.coreKick k v) s = .next s) ∧
     (k < 10 → v % 2 = 1 → exec (.aliveKick k v) s = .next { s with flt := { s.flt with aliveKick := some (now s) } }) ∧
     (10 ≤ k ∨ v % 2 = 0 → exec (.aliveKick k v) s = .next s)) ∧
   (∀ s : State,
     (aliveOk s = true → exec .aliveToggle s =
       .next { s with flt := { s.flt with aliveRun := true, aliveLevel := !(s.flt.aliveRun && s.flt.aliveLevel) } } ∧
       exec .aliveKickTimeout s = .next s) ∧
     (aliveOk s = false → ∀ c ∈ [Instr.aliveToggle, Instr.aliveKickTimeout],
       exec c s = .next { s with flt := { s.flt with aliveRun := false, aliveLevel := false } }) ∧
     (aliveOk s = true → anySevere s = false ∧ s.boot.phase ≠ 0 ∧ s.boot.phase ≠ 7 ∧ s.pins.testMode = false ∧
       (s.flt.kickExempt = false → s.boot.phase ≠ 6 → ∃ t, s.flt.aliveKick = some t ∧ now s ≤ t + 20000))) ∧
   (∀ (s : State) (i : Nat) (cap : Capture),
     (320 ≤ i → exec (.faultSourceEvent i cap) s = .next s) ∧
     (10 ≤ cap.detail → exec (.faultSourceEvent 269 cap) s = .next s) ∧
     (s.thm.tripped = false → exec (.faultSourceEvent 307 cap) s = .next (trip s 0 (topTj s))) ∧
     (i < 320 → i ≠ 269 ∨ cap.detail < 10 → i ≠ 307 ∨ s.thm.tripped = true →
       exec (.faultSourceEvent i cap) s = .next (sourceReact (raiseFault s i cap) i cap))) ∧
   (∀ (s : State) (i c off : Nat) (cap : Capture), let react := sourceReact s i cap
     (i < 256 → react = channelReact s (i / 8) (i % 8) cap) ∧
     (∀ d, descOf s c (capTag cap) = some d →
       channelReact s c 0 cap = waitingAround (updDesc s d fun x => { x with overran := true }) (descDie d) ∧
       channelReact s c 2 cap = workLost (closeDesc s d 0x32 0) d ∧ channelReact s c 3 cap = waitingAround s (descDie d) ∧
       (off = 1 ∨ off = 6 ∨ off = 7 → channelReact s c off cap = workLost (closeDesc s d 0x37 0) d)) ∧
     (descOf s c (capTag cap) = none → channelReact s c off cap = s) ∧
     (i ∈ [268, 269, 270, 271, 272] → react = if i = 268 then hostViolation s cap
       else if i = 269 then coreReact (raiseFault s (292 + cap.detail) cap) cap.detail false
       else if i = 270 then (if cap.access = 3 then discardToken s cap else ridgeReact s (activeRidge s) false) else transferViolation s cap) ∧
     (279 ≤ i → i ≤ 290 → react = dramReact s (decide (285 ≤ i)) ((i - 279) % 6) cap) ∧
     (292 ≤ i → i ≤ 301 → react = coreReact s (i - 292) false) ∧ (i = 302 ∨ i = 303 → react = ridgeReact s (i - 302) false) ∧
     sourceReact s 304 cap = conventional s ∧ sourceReact s 309 cap = recomputeEaves s ∧
     sourceReact s 310 cap = { s with sup := { s.sup with pmicHeld := true } } ∧
     sourceReact s 311 cap = pllReact s cap.island ∧ sourceReact s 312 cap = sysrefReact s ∧
     (isRunning s 9 = true → sourceReact s 313 cap = driverReact s ∧ sourceReact s 314 cap = clampReact s false ∧
       (turning s.air.st = true → sourceReact s 315 cap = stallReact s)) ∧
     ((256 ≤ i ∧ i < 268) ∨ (272 < i ∧ i < 279) ∨ i ∈ [291, 305, 306, 308, 316, 317, 318, 319] → react = s)) ∧
   ∀ (s : State) (i : Nat) (cap : Capture), i < 320 → isRunning s 0 = true → (faultSrc s i).severe = false →
     let t := countFault s i cap
     (faultSrc t i).bit = true ∧ (faultSrc t i).count = min ((faultSrc s i).count + 1) 0xFFFFFFFF ∧
     ((faultSrc s i).first = none → (faultSrc t i).first = some ⟨cap, now s⟩) ∧
     (∀ e, (faultSrc s i).first = some e → (faultSrc t i).first = some e) ∧
     (severeAtFirst i cap.island = true → (faultSrc t i).severe = true)) ∧
  ((∀ (s : State) (q : HmpHdr), HmpServed s q ruleFaultSnapshot → (snapshotBytes (takeSnapshot s)).length = 96 ∧
     (96 ≤ q.room → HmpAnswers (exec (.faultSnapshot q) s) s
       { s with flt := { s.flt with snapSeq := s.flt.snapSeq + 1, snapTime := now s, fsvSnap := (List.range 10).map (srcWord s (·.bit)),
                                    sevSnap := (List.range 10).map (srcWord s (·.severe)) } } q 0x0601 0 0 (snapshotBytes (takeSnapshot s))) ∧
     (q.room < 96 → HmpAnswers (exec (.faultSnapshot q) s) s s q 0x0601 0x0016 96 [])) ∧
   (∀ (s : State) (q : HmpHdr) (i n t : Nat), HmpServed s q ruleThresholdSet →
     let go := exec (.faultThresholdSet q i n t) s
     (i < 320 → n < 256 → 0 < t → t ≤ 2592000000 →
       (sourceFixed i = true → HmpAnswers go s s q 0x0602 0x0021 1 []) ∧
       (sourceFixed i = false →
         HmpApplies go s { s with flt := { s.flt with thresholds := tblSet i (n, t) s.flt.thresholds } } q 0x0602 ∧
         threshold { s with flt := { s.flt with thresholds := tblSet i (n, t) s.flt.thresholds } } i = (n, t))) ∧
     (320 ≤ i → go = .next (rejectWrite s q 0x0602 0x0014 0)) ∧ (i < 320 → 256 ≤ n → go = .next (rejectWrite s q 0x0602 0x0014 2)) ∧
     (i < 320 → n < 256 → t = 0 ∨ 2592000000 < t → go = .next (rejectWrite s q 0x0602 0x0014 4))) ∧
   (∀ (s : State) (q : HmpHdr) (i flags : Nat), HmpServed s q ruleFaultClear →
     (i < 320 ∨ i = 0xFFFF → flags < 4 → exec (.faultClear q i flags) s = .next (hmpDone (recordEvent (clearFaults s i flags) 0x0012 1 1 i
       (leBytes 2 i ++ leBytes 1 flags ++ zeros 1 ++ senderBytes q.sender)) q 0x0603)) ∧
     (320 ≤ i → i ≠ 0xFFFF → exec (.faultClear q i flags) s = .next (rejectWrite s q 0x0603 0x0014 0)) ∧
     (i < 320 ∨ i = 0xFFFF → 4 ≤ flags → exec (.faultClear q i flags) s = .next (rejectWrite s q 0x0603 0x0014 2))) ∧
   (∀ (s : State) (i k flags : Nat), i = k ∨ i = 0xFFFF → let x := faultSrc (clearFaults s i flags) k
     (flags % 2 = 1 → x.bit = false ∧ x.count = 0 ∧ x.first = none) ∧ (flags / 2 % 2 = 1 → x.severe = false) ∧
     (flags % 2 = 0 → x.bit = (faultSrc s k).bit ∧ x.first = (faultSrc s k).first) ∧ (flags / 2 % 2 = 0 → x.severe = (faultSrc s k).severe)) ∧
   (∀ (s : State) (q : HmpHdr) (i : Nat), HmpServed s q ruleFirstError →
     (i < 320 → HmpReports (exec (.firstErrorReport q i) s) s q 0x0604
       (firstErrorBytes s i ++ leBytes 1 (threshold s i).1 ++ zeros 3 ++ leBytes 4 (threshold s i).2)) ∧
     (320 ≤ i → HmpAnswers (exec (.firstErrorReport q i) s) s s q 0x0604 0x0014 0 [])) ∧
   ∀ s i, (firstErrorBytes s i).length = 32)

/-- Islands (R17 to R20, R320, R382, R383, Tables 01.1, 01.7): a released island that reports Running runs, unless Power Loss is
raised; of the requests within their requesters' reach the deepest is carried out, AON hardware first, and every other one for another state
(those for the same state have not lost, log entry 77) is rejected with an event; a wait of 50 µs raises its source, once for each wait,
and a stall of 1 ms makes it severe, drains a channel, and restarts a DRAM, Soft-Decode, Airflow or Management island (the last is
deduced, log entry 112); a lost PLL lock restarts its island, a lost CLK_SYSREF holds every island in reset. -/
def Obligations.IslandChanges : Prop :=
  (∀ (s : State) (i : Nat),
    (islIdValid i = true → (island s i).released = true → s.eav.powerLoss = false → exec (.islandReportsRunning i) s = .next (islandReturns s i)) ∧
    (islIdValid i = false ∨ (island s i).released = false ∨ s.eav.powerLoss = true → exec (.islandReportsRunning i) s = .next s) ∧
    (∀ reqs, islIdValid i = false → exec (.islandStateRequest i reqs) s = .next s) ∧
    (∀ r, islIdValid i = true →
      (withinReach s i r = true → exec (.islandStateRequest i [r]) s = .next (moveIsland (noteRelease s i r) i r.2)) ∧
      (withinReach s i r = false → exec (.islandStateRequest i [r]) s = .next (rejectRequest s i r 0xFF))) ∧
    (∀ reqs, islIdValid i = true →
      let ok := reqs.filter (withinReach s i)
      let t := rejectAll s i 0xFF (reqs.filter fun r => !withinReach s i r)
      (ok = [] → exec (.islandStateRequest i reqs) s = .next t) ∧
      (∀ w, winner ok = some w → exec (.islandStateRequest i reqs) s =
        .next (moveIsland (noteRelease (rejectAll t i (requesterNo w.1) (ok.filter fun r => r.2 != w.2)) i w) i w.2))) ∧
    (∀ reqs : List (Requester × IslState), (reqs ≠ [] → (winner reqs).isSome = true) ∧
      ∀ w, winner reqs = some w → w ∈ reqs ∧ ∀ r ∈ reqs, requestRank r ≤ requestRank w) ∧
    (∀ r reqs n, rejectAll s i n [] = s ∧ rejectAll s i n (r :: reqs) = rejectAll (rejectRequest s i r n) i n reqs) ∧
    (∀ st, st ≠ .running → moveIsland s i st = if (island s i).st = st then s else leaveRunning s i st) ∧
    (∀ r, withinReach s 0 (.firmware, r) = false ∧ withinReach s 4 (.firmware, r) = false) ∧
    (∀ r, r ≠ .running → withinReach s 1 (.firmware, r) = false ∧ withinReach s 2 (.firmware, r) = false ∧
      withinReach s 6 (.firmware, r) = false ∧ withinReach s 7 (.firmware, r) = false)) ∧
  (∀ (s : State) (a : Nat) (c : ChannelEnd), islIdValid a = true → islIdValid c.island = true → let b := c.island
    (changingState s a c = true ∨ (∃ e ∈ s.isl.stalls, e.src = a ∧ e.into = c ∧ now s < e.since + 50) → exec (.handshakeStall a c) s = .next s) ∧
    (changingState s a c = false → (∀ e ∈ s.isl.stalls, e.src = a → e.into = c → e.since + 50 ≤ now s) → exec (.handshakeStall a c) s = .next
      (raiseFault { s with isl := { s.isl with stalls := s.isl.stalls.filter (fun e => !(e.src == a && e.into == c)) ++ [⟨a, c, now s⟩] } }
        (if b < 10 then 256 + b else if b < 32 then 266 else 267) (capOf 0xFF 3 (handshakeNo a c) b b))) ∧
    (∀ e, (s.isl.stalls.find? fun e => e.src == a && e.into == c) = some e →
      (now s < e.since + 1000 → exec (.handshakeStallSevere a c) s = .next s) ∧
      (e.since + 1000 ≤ now s → exec (.handshakeStallSevere a c) s = .next (restartStalled (makeSevere
        { s with isl := { s.isl with stalls := s.isl.stalls.erase e } } (stallSrc b) b) b))) ∧
    ((s.isl.stalls.find? fun e => e.src == a && e.into == c) = none → exec (.handshakeStallSevere a c) s = .next s)) ∧
  (∀ (s : State) (a : Nat) (c : ChannelEnd), islIdValid a = false ∨ islIdValid c.island = false → exec (.handshakeStall a c) s = .next s) ∧
  (∀ (s : State) (b : Nat), (16 ≤ b → restartStalled s b = severeChannel s (b - 16)) ∧
    (b = 3 ∨ b = 6 ∨ b = 7 ∨ b = 8 ∨ b = 9 → restartStalled s b = releaseIsland (leaveRunning s b .heldInReset) b) ∧
    (b < 3 ∨ b = 4 ∨ b = 5 → restartStalled s b = s)) ∧
  (∀ (s : State) (i : Nat),
    (i = 0 ∨ islIdValid i = false ∨ (island s i).st = .heldInReset ∨ (island s i).st = .gated → exec (.pllLossOfLock i) s = .next s) ∧
    (0 < i → islIdValid i = true → (island s i).st = .running ∨ (island s i).st = .stopped ∨ (island s i).st = .isolated →
      exec (.pllLossOfLock i) s = .next (pllReact (raiseFault s 311 (capOf 6 5 0 i i)) i)) ∧
    (s.isl.sysrefOk = false → exec .referenceClockLost s = .next s) ∧
    (s.isl.sysrefOk = true → exec .referenceClockLost s = .next (sysrefReact (raiseFault s 312 (capOf 6 5 0 0 0)))) ∧
    sysrefReact s = forEach ((List.range 41).map fun i => islIdOf (i + 1)) (fun id t =>
      if 3 ≤ stateDepth (island t id).st then t else leaveRunning t id .heldInReset) { s with isl := { s.isl with sysrefOk := false } } ∧
    pllReact s i = if i = 0 ∨ islIdValid i = false ∨ ((island s i).st ≠ .running ∧ (island s i).st ≠ .stopped ∧ (island s i).st ≠ .isolated)
      then s else releaseIsland (leaveRunning s i .heldInReset) i) ∧
  ∀ (s : State) (i : Nat) (st : IslState), islIdValid i = true → s.isl.islands.length = 42 →
    (island (setIslandState s i st) i).st = st ∧ (st = .running → (island (setIslandState s i st) i).fenced = false) ∧
    (st ≠ .running → st ≠ .stopped → (island (setIslandState s i st) i).fenced = true)

/-- Cores (R269, R323, R325, R421): a core 100 µs after its last kick is handed over with its source, to the first standby or spread
over the others; one that passes its self-test and is not to retire stands by, or serves where no Ridge core does, any other is retired;
Core Failover hands a core over at a planned step, and fails with reason 1 to 3 where too few cores would be left or an activation runs;
on a standby core a return, on a retired one a retirement changes nothing, and a retired one cannot return (the model's choice, log
entry 54). -/
def Obligations.CoreFailovers : Prop :=
  (∀ (s : State) (k : Nat),
    ((coreOf s k).st ≠ .active ∨ isRunning s 3 = false ∨ now s < (coreOf s k).lastKick + 100 → exec (.coreWatchdogExpiry k) s = .next s) ∧
    ((coreOf s k).st = .active → isRunning s 3 = true → (coreOf s k).lastKick + 100 ≤ now s →
      exec (.coreWatchdogExpiry k) s = .next (coreReact (raiseFault s (292 + k) (capOf 1 5 0 k 3)) k false)) ∧
    (∀ ok, 12 ≤ k → exec (.coreSelfTestDone k ok) s = .next s) ∧
    (∀ ok, k < 10 → (coreOf s k).st ≠ .selfTest → exec (.coreSelfTestDone k ok) s = .next s) ∧
    (∀ ok, k < 10 → k < s.flt.cores.length → (coreOf s k).st = .selfTest → ∃ t, exec (.coreSelfTestDone k ok) s = .next t ∧
      (ok = true → (coreOf s k).retire = false → (faultSrc s (292 + k)).severe = false → (coreOf t k).st = .standby) ∧
      (ok = false ∨ (coreOf s k).retire = true ∨ (faultSrc s (292 + k)).severe = true → (coreOf t k).st = .retired) ∧
      ∀ e ∈ t.chg.coreOp, e.2.2 ≠ k) ∧
    (∀ ok, k < 2 → (ridgeOf s k).st ≠ .selfTest → exec (.coreSelfTestDone (10 + k) ok) s = .next s) ∧
    (∀ ok, k < 2 → s.flt.ridge.length = 2 → (ridgeOf s k).st = .selfTest → ∃ t, exec (.coreSelfTestDone (10 + k) ok) s = .next t ∧
      let back := ok = true ∧ (ridgeOf s k).retire = false ∧ (faultSrc s (302 + k)).severe = false
      (back → (ridgeOf s (1 - k)).st = .active → (ridgeOf t k).st = .standby) ∧
      (back → (ridgeOf s (1 - k)).st ≠ .active → (ridgeOf t k).st = .active ∧ (ridgeOf t k).lastKick = now s) ∧
      (¬back → (ridgeOf t k).st = .retired))) ∧
  (∀ (s : State) (k : Nat) (retire : Bool),
    ((coreOf s k).st = .retired → coreReact s k retire = s) ∧
    ((coreOf s k).st = .active → k < s.flt.cores.length → ∀ n, s.flt.cores.findIdx? (fun c => c.st == .standby) = some n →
      4 ≤ activeCores s → (coreOf (coreReact s k retire) k).st = .selfTest ∧ (coreOf (coreReact s k retire) n).st = .active ∧
        activeCores (coreReact s k retire) = activeCores s) ∧
    ((coreOf s k).st = .active → k < s.flt.cores.length → (∀ c ∈ s.flt.cores, c.st ≠ .standby) → s.eav.dumpStart = none → 5 ≤ activeCores s →
      (coreOf (coreReact s k retire) k).st = .selfTest ∧ activeCores (coreReact s k retire) + 1 = activeCores s)) ∧
  ∀ (s : State) (q : HmpHdr) (k : Nat), HmpServed s q ruleFailover →
    (12 ≤ k → HmpAnswers (exec (.coreFailoverReturn q k) s) s s q 0x0404 0x0014 0 [] ∧
      HmpAnswers (exec (.coreFailoverRetire q k) s) s s q 0x0404 0x0014 0 []) ∧
    (k < 12 → liveHandles s q.sender < 64 →
      ((failoverCore s k).st = .standby → HmpStarts (exec (.coreFailoverReturn q k) s) s q 0x0404 fun s h => endLong s q.sender h 0 0) ∧
      ((failoverCore s k).st = .retired → HmpAnswers (exec (.coreFailoverReturn q k) s) s s q 0x0404 0x001B 0 [] ∧
        HmpStarts (exec (.coreFailoverRetire q k) s) s q 0x0404 fun s h => endLong s q.sender h 0 0) ∧
      ((failoverCore s k).st ≠ .retired →
        let back := exec (.coreFailoverReturn q k) s
        let retired := exec (.coreFailoverRetire q k) s
        (∀ r, failoverConflict s k = some r → retired = .next (startFailed s q 0x0404 0x0021 r) ∧
          ((failoverCore s k).st ≠ .standby → back = .next (startFailed s q 0x0404 0x0021 r))) ∧
        (failoverConflict s k = none → plannedOk s = true →
          ((failoverCore s k).st ≠ .standby → HmpStarts back (plannedStep s) q 0x0404 fun s h =>
            handOver { s with chg := { s.chg with coreOp := s.chg.coreOp ++ [(q.sender, h, k)] } } k false) ∧
          HmpStarts retired (plannedStep s) q 0x0404 fun s h =>
            endLong (endCoreOps (retireCore (handOver s k true) k) k 0 0) q.sender h 0 0) ∧
        (failoverConflict s k = none → plannedOk s = false → retired = .next s ∧ ((failoverCore s k).st ≠ .standby → back = .next s)))) ∧
    failoverConflict s k = (if s.chg.activating.isSome then some 3
      else if k < 10 then (if activeCores s - (if (coreOf s k).st = .active ∧ nextStandby s = none then 1 else 0) < 4 then some 1 else none)
      else if (ridgeOf s (11 - k)).st = .active ∨ (ridgeOf s (11 - k)).st = .standby then none else some 2)

/-- Rails, store and charger (R362 to R364, R370, R371, Tables 17.2, 17.3): a rail outside its operating range and inside its
guard range raises source 308 and nothing else; an excursion of more than 2 µs has its effect by the rail; a rail back for its
time ends it; the charger goes on 0.3 V below HU_TARGET with V12_MAIN at 11.0 V and off at HU_TARGET; a charge that lasts
CHG_TIMEOUT raises source 309 once. -/
def Obligations.RailsAndStore : Prop :=
  (∀ (s : State) (r mv us : Nat),
    (11 ≤ r → exec (.railOutOfRange r mv) s = .next s ∧ exec (.railExcursion r mv us) s = .next s ∧ exec (.railReturnInRange r us) s = .next s) ∧
    (railOperating r mv = true ∨ railGuarded r mv = false → exec (.railOutOfRange r mv) s = .next s) ∧
    (r < 11 → railOperating r mv = false → railGuarded r mv = true → exec (.railOutOfRange r mv) s =
      .next (raiseFault (updRail (readRail s r mv) r fun x => { x with badSince := some (x.badSince.getD (now s)) }) 308 (capOf 6 5 0 r 0))) ∧
    (railGuarded r mv = true ∨ us ≤ 2 → exec (.railExcursion r mv us) s = .next s) ∧
    (railGuarded r mv = false → 2 < us →
      let t := raiseFault (noteExcursion s r mv us) 308 (capOf 6 5 0 r 0)
      let go := exec (.railExcursion r mv us) s
      let away (chB : Bool) : State := if 3 ≤ stateDepth (island t (dramIsland chB)).st then t else dramLost t chB .heldInReset
      (r < 4 ∨ r = 9 → go = .next (raisePowerLoss t)) ∧ (r = 4 → go = .next (conventional t)) ∧ (r = 5 → go = .next (away false)) ∧
      (r = 6 → go = .next (away true)) ∧ (r = 10 → go = .next (airLow t false)) ∧ (r = 7 ∨ r = 8 → us ≤ 400 → go = .next t) ∧
      (r = 7 ∨ r = 8 → 400 < us → go = .next (forEach ((railChannels r).filter fun c => isRunning t (chIsland c))
        (fun c u => channelLost u c .heldInReset) t))) ∧
    (r < 11 → us < railSettle r → exec (.railReturnInRange r us) s = .next s) ∧
    (r < 11 → railSettle r ≤ us →
      let t := updRail s r fun x => { x with reading := (railSpec r).1, badSince := none, excursionAt := none }
      ((railOf s r).excursionAt = none → exec (.railReturnInRange r us) s = .next t) ∧
      ((railOf s r).excursionAt.isSome = true → exec (.railReturnInRange r us) s = .next (railBack t r)))) ∧
  (∀ mv, (railGuarded 1 mv = true ↔ 705 ≤ mv ∧ mv ≤ 795) ∧ (railOperating 7 mv = true ↔ 1140 ≤ mv ∧ mv ≤ 1260)) ∧
  (∀ (s : State) (v12 vs : Nat), ∃ t, exec (.storeConversion v12 vs) s = .next t ∧ t.sup.v12 = v12 ∧ t.sup.vs = vs ∧
    (v12 < 11000 → t.sup.v12HighSince = none) ∧ (11000 ≤ v12 → t.sup.v12HighSince = some (s.sup.v12HighSince.getD (now s)))) ∧
  (∀ s : State, s.sup.profileRead = false ∨ s.sup.v12 < 11000 ∨ s.eav.dumpStart.isSome = true ∨ s.sup.audit ≠ .idle ∨ s.sup.pwrDis = true ∨
    (s.sup.vs < s.prof.huTarget * 100 ∧ s.sup.overVolt = true) → chargeControl s = s) ∧
  (∀ s : State, s.sup.profileRead = true → 11000 ≤ s.sup.v12 → s.eav.dumpStart = none → s.sup.audit = .idle → s.sup.pwrDis = false →
    (s.prof.huTarget * 100 ≤ s.sup.vs → (chargeControl s).sup.chgEn = false ∧ (chargeControl s).sup.chargeSince = none) ∧
    (s.sup.vs + 300 < s.prof.huTarget * 100 → s.sup.overVolt = false → (chargeControl s).sup.chgEn = true ∧
      (chargeControl s).sup.chargeSince = some (s.sup.chargeSince.getD (now s))) ∧
    (s.sup.vs < s.prof.huTarget * 100 → s.prof.huTarget * 100 ≤ s.sup.vs + 300 → chargeControl s = s)) ∧
  ∀ s : State,
    (s.sup.chargeSince = none → exec .chargeTimeout s = .next s) ∧
    ∀ t, s.sup.chargeSince = some t →
      (s.sup.chgEn = false ∨ s.sup.chargeTimeout = true ∨ now s < t + s.prof.chgTimeout * 1000000 → exec .chargeTimeout s = .next s) ∧
      (s.sup.chgEn = true → s.sup.chargeTimeout = false → t + s.prof.chgTimeout * 1000000 ≤ now s →
        exec .chargeTimeout s = .next (raiseFault { s with sup := { s.sup with chargeTimeout := true } } 309 (capOf 6 5 0 0 0)))

/-- The hold-up audit (R372, R373, R377): due by operating time or after the first charge, and not while Battened, in Power Loss
or with PWR_DIS high; the load goes on 10 ms after the charger went off; a fall by AUDIT_DEPTH, or 2 s, ends it with C and ESR
measured, a store open or short with C at 0 and Critical Warning bit 4. The request starts it, fails with reason 1 while the store or
V12_MAIN is too low, and is turned away while one runs (log entry 58). -/
def Obligations.HoldupAudits : Prop :=
  (∀ s : State,
    let due := s.sup.auditAfterCharge = true ∨ s.sup.lastAuditOp + s.prof.huAuditHours * 3600 ≤ s.tm.opSeconds
    (s.sup.audit = .idle → s.sup.profileRead = true → s.boot.phase ≠ 6 → s.eav.powerLoss = false → s.sup.pwrDis = false → due →
      exec .holdupAuditDue s = .next (startAudit s none)) ∧
    (s.sup.audit ≠ .idle ∨ s.sup.profileRead = false ∨ s.boot.phase = 6 ∨ s.eav.powerLoss = true ∨ s.sup.pwrDis = true ∨ ¬due →
      exec .holdupAuditDue s = .next s)) ∧
  (∀ (s : State) (uv t : Nat), s.sup.audit = .settle t →
    (now s < t + 10000 → exec (.auditLoadConnect uv) s = .next s) ∧
    (t + 10000 ≤ now s → exec (.auditLoadConnect uv) s =
      .next { s with sup := { s.sup with audit := .loadOn (now s) s.sup.vs, auditEn := true, auditStepUv := uv } })) ∧
  (∀ (s : State) (uv : Nat), (∀ t, s.sup.audit ≠ .settle t) → exec (.auditLoadConnect uv) s = .next s) ∧
  (∀ (s : State) (fall nc us : Nat), (∀ t v, s.sup.audit ≠ .loadOn t v) → exec (.auditMeasurementEnd fall nc us) s = .next s) ∧
  (∀ (s : State) (fall nc us t v : Nat), s.sup.audit = .loadOn t v →
    let fell := s.prof.auditDepth * 100000 ≤ fall
    let open' := (fell ∧ us < 1000) ∨ fall < 10000
    (¬fell → us < 2000000 → exec (.auditMeasurementEnd fall nc us) s = .next s) ∧
    (fell ∨ 2000000 ≤ us → open' → ∃ u, exec (.auditMeasurementEnd fall nc us) s = .next u ∧
      u.sup.audit = .idle ∧ u.sup.capUf = 0 ∧ u.sup.openShort = true ∧ u.sup.auditEn = false ∧ u.sup.chgEn = true ∧
      u.host.criticalWarning.getLsbD 4 = true) ∧
    (fell ∨ 2000000 ≤ us → ¬open' → ∃ u, exec (.auditMeasurementEnd fall nc us) s = .next u ∧ u.sup.audit = .idle ∧
      (s.sup.auditStepUv < fall → u.sup.capUf = nc * 1000 / (fall - s.sup.auditStepUv)) ∧
      u.sup.esrMohm = s.sup.auditStepUv * s.prof.rAudit / 10 / max 1 v ∧ u.sup.openShort = false ∧ u.sup.lastAuditOp = s.tm.opSeconds)) ∧
  ∀ (s : State) (q : HmpHdr) (a : Nat), HmpServed s q ruleHoldupAudit →
    (a ≠ 1 → HmpAnswers (exec (.holdupAudit q a) s) s s q 0x0706 0x0014 0 []) ∧
    (a = 1 → s.sup.audit ≠ .idle → HmpAnswers (exec (.holdupAudit q a) s) s s q 0x0706 0x0017 0 []) ∧
    (a = 1 → s.sup.audit = .idle → s.sup.vs + 300 < s.prof.huTarget * 100 ∨ s.sup.v12 < 11000 →
      exec (.holdupAudit q a) s = .next (startFailed s q 0x0706 0x0021 1)) ∧
    (a = 1 → s.sup.audit = .idle → s.prof.huTarget * 100 ≤ s.sup.vs + 300 → 11000 ≤ s.sup.v12 →
      exec (.holdupAudit q a) s = .next (startLong s q 0x0706 fun s h => startAudit s (some (q.sender, h))))

/-- PWR_DIS, the PMIC and the Always-On clock (R374, R375, R381): a sequence starts once, with PWRDIS_EN 1 and the supply record
read, and ends an audit (after a dump it opens the store path at once); a poll is due every 10 ms; an alert wakes a Battened part and is
served; an answer is kept, none counts in source 310 and holds the last readings; a
loss of the crystal puts the island on its backup, its return ends that, each with an event and no fault source. -/
def Obligations.PowerDisablePmicAndClock : Prop :=
  (∀ s : State,
    exec (.pwrdis false) s = .next { s with sup := { s.sup with pwrDis := false } } ∧
    (s.prof.pwrdisEn = 0 ∨ s.sup.profileRead = false ∨ s.sup.pwrDis = true → exec (.pwrdis true) s = .next s) ∧
    (s.prof.pwrdisEn ≠ 0 → s.sup.profileRead = true → s.sup.pwrDis = false →
      let ended := if s.sup.audit = .idle then s else endAudit s 0x0018 0
      let off : SupSt := { ended.sup with pwrDis := true, chgEn := false, auditEn := false, chargeSince := none,
                                          path := if ended.sup.huEn then 1 else 2 }
      let t := supplyEvent { ended with sup := off } 1
      (s.eav.afterDump = false → exec (.pwrdis true) s = .next (raisePowerLoss t)) ∧
      (s.eav.afterDump = true → exec (.pwrdis true) s = .next { t with sup := { t.sup with huEn := false, seqEn := false } }))) ∧
  (∀ (s : State) (r : List Nat), s.sup.profileRead = true →
    (s.boot.phase = 6 ∨ now s < s.sup.pmicPollAt → ∀ a, exec (.pmicPoll a) s = .next s) ∧
    (s.boot.phase ≠ 6 → s.sup.pmicPollAt ≤ now s →
      exec (.pmicPoll (some r)) s = .next { s with sup := { s.sup with pmicPollAt := now s + 10000, pmicReadings := r, pmicHeld := false } } ∧
      exec (.pmicPoll none) s = .next (raiseFault { s with sup := { s.sup with pmicPollAt := now s + 10000, pmicHeld := true } } 310
        (capOf 6 0 0 0 0))) ∧
    let w := beginWake s .pwrAlert
    exec (.pmicAlert (some r)) s = .next { w with sup := { w.sup with pmicReadings := r, pmicHeld := false } } ∧
    exec (.pmicAlert none) s = .next (raiseFault { w with sup := { w.sup with pmicHeld := true } } 310 (capOf 6 0 0 0 0)) ∧
    (s.boot.phase ≠ 6 → w = s)) ∧
  (∀ (s : State) (a : Option (List Nat)), s.sup.profileRead = false → exec (.pmicPoll a) s = .next s ∧ exec (.pmicAlert a) s = .next s) ∧
  ∀ s : State,
    (s.tm.onBackup = true → exec .aonCrystalLoss s = .next s ∧ ∀ t, s.tm.crystalLostAt = some t → exec .aonCrystalRestored s = .next (recordEvent
      { s with tm := { s.tm with onBackup := false, crystalLostAt := none } } 0x0004 2 0 0 (leBytes 1 1 ++ leBytes 4 (now s - t)))) ∧
    (s.tm.crystalLostAt = none → exec .aonCrystalRestored s = .next s) ∧
    (s.tm.onBackup = false → exec .aonCrystalRestored s = .next s ∧ exec .aonCrystalLoss s = .next (recordEvent
      { s with tm := { s.tm with onBackup := true, crystalLostAt := some (now s) } } 0x0004 2 0 0 (leBytes 1 0 ++ leBytes 4 0))) ∧
    ∀ t, exec .aonCrystalLoss s = .next t ∨ exec .aonCrystalRestored s = .next t → t.flt = s.flt

/-- The Battened state (R284, R396 to R399, Table 18.9): an entry completes at PHASE 5 once nothing is outstanding, within 1 s; it
is given up at 1 s, or when the write window closes over unsettled data, with power state 0; a wake begins while Battened only and
ends 4.0 ms later, at PHASE 5 with no entry pending. -/
def Obligations.BattenedEntryAndWake : Prop :=
  (∀ s : State, s.bat.entryAt = none → exec .battenedEntryComplete s = .next s ∧ exec .battenedEntryAbandon s = .next s) ∧
  (∀ (s : State) (t : Nat), s.bat.entryAt = some t →
    (s.boot.phase = 5 → s.eav.powerLoss = false → restingNow s = true → now s < t + 1000000 →
      exec .battenedEntryComplete s = .next (enterBattened s)) ∧
    (s.boot.phase ≠ 5 ∨ s.eav.powerLoss = true ∨ restingNow s = false ∨ t + 1000000 ≤ now s → exec .battenedEntryComplete s = .next s) ∧
    (t + 1000000 ≤ now s → exec .battenedEntryAbandon s = .next (abandonEntry s 7)) ∧
    (now s < t + 1000000 → s.fl.window.isOpen = false → s.eav.units ≠ [] → exec .battenedEntryAbandon s = .next (abandonEntry s 8)) ∧
    (now s < t + 1000000 → s.fl.window.isOpen = true ∨ s.eav.units = [] → exec .battenedEntryAbandon s = .next s) ∧
    ∀ c, (abandonEntry s c).bat.entryAt = none ∧ (abandonEntry s c).bat.powerState = 0 ∧ (abandonEntry s c).boot = s.boot) ∧
  (∀ s : State, isRunning s 0 = true → s.isl.islands.length = 42 → (enterBattened s).boot.phase = 6 ∧ (enterBattened s).boot.battenedMark = true ∧
    (enterBattened s).eav.journalTail = 0 ∧ (enterBattened s).pins.ledActN = true ∧ (island (enterBattened s) 8).st = .gated ∧
    ∀ i ∈ battenedStops, isRunning (enterBattened s) i = false) ∧
  (∀ (s : State) (c : WakeCause),
    (s.boot.phase ≠ 6 ∨ s.bat.wakeAt.isSome = true → exec (.battenedWake c) s = .next s) ∧
    (s.boot.phase = 6 → s.bat.wakeAt = none → ∃ t, exec (.battenedWake c) s = .next t ∧ t.bat.wakeAt = some (now s) ∧
      t.bat.wakeCause = some c ∧ (s.isl.islands.length = 42 → isRunning t 8 = true))) ∧
  ∀ s : State,
    (s.bat.wakeAt = none → exec .battenedWakeEnd s = .next s) ∧
    ∀ t, s.bat.wakeAt = some t →
      (now s < t + 4000 ∨ s.boot.phase ≠ 6 → exec .battenedWakeEnd s = .next s) ∧
      (t + 4000 ≤ now s → s.boot.phase = 6 →
        let r := ranksRest s false
        let kick := s.flt.aliveKick.map fun _ => now s
        let t : State := { r with bat := batReset, boot := { s.boot with battenedMark := false }, fl := { s.fl with calendar := [] } }
        exec .battenedWakeEnd s = .next (fetchAll (enterPhase { t with flt := { s.flt with aliveKick := kick } } 5 0)))

/-- Resets of the device (R12, R13, R197, R337, R365, R385, R438, R439, Tables 18.4, 18.5): the AON power-on reset restarts
DevTime, counts a power cycle, samples the straps and holds every other island in reset, and keeps what is fused, stored or
recorded (a zone's idle time counts from here, log entry 118); without the rail nothing runs; a failed power-up is tried again 100 ms later, four times in all; a device restart keeps
DevTime and starts again at PHASE 0, when its cause holds. -/
def Obligations.DeviceResets : Prop :=
  (∀ (s : State) (a b c d : Bool), ∃ t, exec (.aonPowerOnReset a b c d) s = .next t ∧ t.tm.devTime = 0 ∧
    t.tm.powerCycles = s.tm.powerCycles + 1 ∧ t.tm.opSeconds = s.tm.opSeconds ∧ t.boot.phase = 0 ∧
    (t.pins.strapI3c = a ∧ t.pins.strapAddr1 = b ∧ t.pins.strapAddr0 = c ∧ t.pins.testMode = d ∧ t.pins.tap = .bypass) ∧
    (∀ i, islIdValid i = true → (isRunning t i = true ↔ i = 0)) ∧ t.host.linkUp = false ∧ t.flt.aliveRun = false ∧ t.flt.aliveLevel = false ∧
    t.prof = Profile.atReset ∧ t.boot.lastReset = (if s.thm.tripped then 2 else 0) ∧ t.thm.tripWait = (s.thm.tripped || s.thm.tripWait) ∧
    t.dram.da.fresh = [] ∧ t.dram.db.fresh = [] ∧ t.sec.slots = s.sec.keyStore ∧ t.sec.keks = [] ∧ t.sec.svnFw = s.sec.svnFw ∧
    t.evt.permanent = s.evt.permanent ∧ t.evt.circulating = s.evt.circulating ∧ t.evt.nextSeq = s.evt.nextSeq ∧ t.flt.srcs = s.flt.srcs ∧
    t.zns.namespaces = s.zns.namespaces ∧ t.zns.zones = s.zns.zones.map (fun e => (e.1, { e.2 with lastWrite := 0 })) ∧ t.adm.cmds = [] ∧
    t.adm.contracts.map (·.bound) = s.adm.contracts.map (·.bound)) ∧
  (∀ s : State, s.isl.islands.length = 42 → ∃ t, exec .aonRailDown s = .next t ∧ (∀ i, islIdValid i = true → isRunning t i = false) ∧
    t.sup.huEn = false ∧ t.sup.chgEn = false ∧ t.sup.seqEn = false ∧ t.flt.aliveLevel = false ∧ t.host.linkUp = false ∧ t.tm = s.tm) ∧
  (∀ s : State,
    (s.boot.phase ≠ 0 ∨ s.eav.afterDump = true ∨ powerUpFree s = false → ∀ a b, exec (.powerUpRetry a b) s = .next s) ∧
    (s.boot.phase = 0 → s.eav.afterDump = false → powerUpFree s = true →
      exec (.powerUpRetry true true) s = .next { s with sup := { s.sup with seqEn := true, pmicGood := true } } ∧
      ∀ a, ∃ t, exec (.powerUpRetry a false) s = .next t ∧ t.sup.seqEn = false ∧ t.boot.attempts = s.boot.attempts + 1 ∧
        t.boot.seqRetryAt = some (now s + 100000)) ∧
    (powerUpFree s = true ↔ isRunning s 0 = true ∧ s.boot.attempts < 4 ∧ ∀ t, s.boot.seqRetryAt = some t → t ≤ now s)) ∧
  (∀ (s : State) (c : RestartCause),
    (restartDue s c = false → exec (.deviceRestart c) s = .next s) ∧
    (restartDue s c = true → ∃ t, exec (.deviceRestart c) s = .next t ∧ t.tm = s.tm ∧ t.boot.phase = 0 ∧ t.boot.lastReset = 1 ∧
      t.bat = batReset ∧ t.host.linkUp = false ∧ t.adm.cmds = [] ∧ t.prof = s.prof ∧ t.isl.sysrefOk = true ∧
      (t.boot.cleanMark = true ↔ c = .restrictedCommit))) ∧
  (∀ s : State, (mayRestart s = false → exec .brownoutReturn s = .next s) ∧
    (mayRestart s = true → exec .brownoutReturn s = .next (restartDevice s false)) ∧
    (mayRestart s = true → s.eav.afterDump = true ∧ s.thm.tripped = false ∧ s.sup.pwrDis = false ∧
      ∃ t, s.sup.v12HighSince = some t ∧ t + 100000 ≤ now s))

/-- Start-up (R264 to R266, R273, R274, R337, R386 to R393, R439, Tables 18.5, 18.6): it waits in board test mode, after a trip,
without CLK_SYSREF, after a dump, and for a retry of the power-up; without a valid Ridge image, and where an integrator has
provisioned the part without a valid Board Profile, it stops in form B of the restricted phase; regions that do not fit DRAM stop
it with reason 8; a clean start reaches PHASE 5, any other the replay. -/
def Obligations.StartUps : Prop :=
  (∀ (s : State) (i : StartupIn),
    (s.boot.phase ≠ 0 ∨ s.pins.testMode = true ∨ s.thm.tripWait = true ∨ s.isl.sysrefOk = false ∨ s.eav.afterDump = true ∨ powerUpFree s = false →
      exec (.startup i) s = .next s) ∧
    (startWaits s = false →
      let p := provision (releaseIslands s)
      exec (.startup i) s = .next (startUp p i) ∧
      (imageFor p 1 = none → ∃ t, exec (.startup i) s = .next t ∧ t.boot.phase = 7 ∧ t.boot.reason = 1 ∧ t.boot.formB = true) ∧
      ((imageFor p 1).isSome = true → p.sec.integLock = true → imageFor p 4 = none →
        ∃ t, exec (.startup i) s = .next t ∧ t.boot.phase = 7 ∧ t.boot.reason = 2 ∧ t.boot.formB = true)) ∧
    (s.sec.integLock = true → provision (releaseIslands s) = releaseIslands s)) ∧
  (∀ (s : State) (i : StartupIn), startDivision (trainAll s i) i = none →
    (startFlashSide s i).boot.phase = 7 ∧ (startFlashSide s i).boot.reason = 8 ∧ (startFlashSide s i).fl = (trainAll s i).fl) ∧
  (∀ (s : State) (i : StartupIn) (d : List Nat),
    (s.boot.startKind = 0 → (startDivided s i d).boot.phase = 5) ∧
    (s.boot.startKind ≠ 0 → (startDivided s i d).boot.phase = 4 ∧ (startDivided s i d).eav.replaying = true)) ∧
  (∀ s : State, (releaseIslands s).boot.startKind = if s.boot.afterTrip then 2 else if cleanStart s then 0 else 1) ∧
  ∀ (p : Profile) (usable : Nat) (d : List Nat), divide p usable = some d → d.take 2 = [128, 128] ∧ d.length = 6 ∧ sumNat d ≤ usable

/-- The test access port, the LEDs and the recorder (R402 to R404, R411, R438 to R440): outside board test mode the other
instructions act as BYPASS; SB_LED_ACT_N is released 50 ms after the latest completion; SB_LED_FLT_N toggles every 250 ms in PHASE
7 without a severe source; a due page of records goes into both areas while the Management island's Purlin cluster, which programs it,
is there; a cursor takes a snapshot unless it is beyond what is held, and its write wakes a Battened part first; the snapshot ends with the slots that are still held. -/
def Obligations.BoardAndRecorder : Prop :=
  (∀ (s : State) (i : TapInstr),
    (s.pins.testMode = true ∨ i = .bypass ∨ i = .samplePreload → exec (.tapInstructionUpdate i) s = .next { s with pins := { s.pins with tap := i } }) ∧
    (s.pins.testMode = false → i ≠ .bypass → i ≠ .samplePreload →
      exec (.tapInstructionUpdate i) s = .next { s with pins := { s.pins with tap := .bypass } }) ∧
    (s.pins.testMode = true → aliveOk s = false)) ∧
  (∀ s : State,
    (s.pins.lastCompletion = none → exec .activityLedTimeout s = .next s) ∧
    (∀ t, s.pins.lastCompletion = some t → (now s < t + 50000 → exec .activityLedTimeout s = .next s) ∧
      (t + 50000 ≤ now s → exec .activityLedTimeout s = .next { s with pins := { s.pins with ledActN := true } })) ∧
    (s.boot.phase = 7 → anySevere s = false → isRunning s 0 = true → s.pins.faultBlinkAt + 250000 ≤ now s →
      exec .faultLedBlink s = .next { s with pins := { s.pins with ledFltN := !s.pins.ledFltN, faultBlinkAt := now s } }) ∧
    (s.boot.phase ≠ 7 ∨ anySevere s = true ∨ isRunning s 0 = false ∨ now s < s.pins.faultBlinkAt + 250000 → exec .faultLedBlink s = .next s)) ∧
  (∀ s : State,
    (mgmtDown s = true ∨ pageDue s = false ∨ s.eav.dumpStart.isSome = true → ∀ ok, exec (.recordPageProgram ok) s = .next s) ∧
    (mgmtDown s = false → pageDue s = true → s.eav.dumpStart = none →
      exec (.recordPageProgram false) s = .next (raiseFault s 317 (capOf 1 1 0 3 3)) ∧
      (s.evt.dropped = 0 → s.evt.circulating.length + 256 ≤ 16384 →
        let page := (s.evt.cache.take 256).map (lateFlag s)
        exec (.recordPageProgram true) s = .next { s with evt := { s.evt with
          permanent := s.evt.permanent ++ page.filter (fun r => decide (r.seq < 1024)),
          circulating := s.evt.circulating ++ page.filter (fun r => decide (1024 ≤ r.seq)), cache := s.evt.cache.drop 256, droppedMax := 0 } }))) ∧
  (∀ (s : State) (v : Nat),
    (barReachable s 0 = false → exec (.dormerCursorHiWrite v) s = .next s) ∧
    (barReachable s 0 = true →
      let cursor := v % 65536 * 2 ^ 32 + s.evt.cursorLo.toNat
      let w := beginWake s .register
      let rejected := exec (.dormerCursorHiWrite v) s = .next (rejectRegister w 0 1 0x8014)
      (w.evt.nextSeq ≤ cursor → rejected) ∧
      (cursor < w.evt.nextSeq → bits v 31 1 = 0 → cursor < oldestSeq w → rejected) ∧
      (cursor < w.evt.nextSeq → bits v 31 1 = 0 → oldestSeq w ≤ cursor →
        exec (.dormerCursorHiWrite v) s = .next (dormerSnapshot w cursor false)) ∧
      (cursor < w.evt.nextSeq → bits v 31 1 = 1 → cursor < 1024 → exec (.dormerCursorHiWrite v) s = .next (dormerSnapshot w cursor true)) ∧
      (cursor < w.evt.nextSeq → bits v 31 1 = 1 → 1024 ≤ cursor → rejected)) ∧
    (s.boot.phase ≠ 6 → beginWake s .register = s)) ∧
  ∀ s : State,
    (s.evt.snapBusy = false → exec .dormerSnapshotDone s = .next s) ∧
    (s.evt.snapBusy = true →
      let held := s.evt.snapWait.filter fun r => decide (r.seq < 1024) || decide (oldestSeq s ≤ r.seq)
      exec .dormerSnapshotDone s = .next { s with evt := { s.evt with
        snapBusy := false, slots := held, validSlots := held.length, snapWait := [] } }) ∧
    (s.evt.snapBusy = true → ∀ i, dormerSlot s i = zeros 64)

/-- While the AON record cache is full, a new record of severity 2 or more replaces the oldest of severity 0 or 1, and any other
new record is dropped; the number dropped is recorded as 0x0090 when there is room; the record of a Power Loss, a trip or a severe
fault is always kept, and during a dump only the AON island adds records (R403). -/
def Obligations.FullRecordCache : Prop :=
  (∀ (s : State) (code sev kind num : Nat) (p : List Byte), isRunning s 0 = true →
    let t := recordEvent s code sev kind num p
    let r : EventRec := ⟨s.evt.nextSeq, code, s.tm.opSeconds, s.tm.powerCycles, now s, kind, num, sev,
      (if s.evt.nextSeq < 1024 then 1 else 0) + (if s.tm.onBackup then 4 else 0), p.take 32⟩
    let added := t.evt.nextSeq = s.evt.nextSeq + 1
    (s.eav.dumpStart.isSome = true → aonCode code = false → t = s) ∧
    (s.eav.dumpStart = none ∨ aonCode code = true →
      (s.evt.cache.length < 512 → added ∧ t.evt.cache = s.evt.cache ++ [r]) ∧
      (512 ≤ s.evt.cache.length → 2 ≤ sev → ∀ a x b, s.evt.cache = a ++ x :: b → x.severity ≤ 1 → (∀ y ∈ a, 2 ≤ y.severity) →
        added ∧ t.evt.cache = a ++ b ++ [r]) ∧
      (512 ≤ s.evt.cache.length → sev ≤ 1 ∨ (∀ y ∈ s.evt.cache, 2 ≤ y.severity) → keptCode code = false →
        t.evt.cache = s.evt.cache ∧ t.evt.nextSeq = s.evt.nextSeq ∧ t.evt.dropped = s.evt.dropped + 1) ∧
      (512 ≤ s.evt.cache.length → keptCode code = true → (∃ y ∈ s.evt.cache, keptCode y.code = false) → added ∧ r ∈ t.evt.cache))) ∧
  (∀ code ∈ [0x0011, 0x0030, 0x0042], keptCode code = true) ∧
  ∀ s : State, isRunning s 0 = true → mgmtDown s = false → s.eav.dumpStart = none → pageDue s = true → 0 < s.evt.dropped → s.evt.cache.length ≤ 512 →
    ∃ t, exec (.recordPageProgram true) s = .next t ∧ t.evt.dropped = 0 ∧ ∃ r ∈ t.evt.cache, r.code = 0x0090 ∧ r.severity = 2 ∧
      r.payload.take 4 = leBytes 4 s.evt.dropped

/-! ### Geometry (chapter 02) -/

/-- In course c, the spar is at position c mod w, and data member m, from 0 to w − 2, is at position (c + 1 + m) mod w (R34): one
position each; and bay b lies in half h = b div 128 at die slot k = b mod 128, its member at position i on channel 16h + i, in
package k div 16 (R32). -/
def Obligations.StripePositions : Prop :=
  (∀ w c : Nat, 2 ≤ w → sparPos w c = c % w ∧ (∀ m, m ≤ w - 2 → memberPos w c m = (c + 1 + m) % w ∧ memberPos w c m ≠ sparPos w c ∧
    ∀ n, n ≤ w - 2 → memberPos w c m = memberPos w c n → m = n)) ∧
  ∀ b i : Nat, b < 256 → i < 16 →
    let h := b / 128
    let k := b % 128
    dieCh (bayDie b i) = 16 * h + i ∧ bayDie b i % 128 = k ∧ dieBay (bayDie b i) = b ∧
      diePkg (bayDie b i) = (16 * h + i, k / 16) ∧ bayDie b i % 16 = k % 16
end

