-- ==== Sys2Proof/Laws/Containers.lean ====
section
/-! SUPPORT. Laws of the plain containers: a table read after a write, and vectors. -/

namespace Sys2Proof.Machine

variable {κ α : Type} [DecidableEq κ]

@[simp] theorem tblFind?_tblSet_self (k : κ) (v : α) (t : Tbl κ α) : tblFind? k (tblSet k v t) = some v := by
  induction t with
  | nil => simp [tblSet, tblFind?]
  | cons e t ih => by_cases h : k = e.1 <;> simp [tblSet, tblFind?, h, ih]

theorem tblFind?_tblSet_ne {k j : κ} (h : j ≠ k) (v : α) (t : Tbl κ α) : tblFind? j (tblSet k v t) = tblFind? j t := by
  induction t with
  | nil => simp [tblSet, tblFind?, h]
  | cons e t ih =>
    by_cases hk : k = e.1
    · simp [tblSet, tblFind?, ← hk, h]
    · by_cases hj : j = e.1 <;> simp [tblSet, tblFind?, hk, hj, ih]

theorem tblFind?_tblSet (k j : κ) (v : α) (t : Tbl κ α) :
    tblFind? j (tblSet k v t) = if j = k then some v else tblFind? j t := by
  by_cases h : j = k
  · simp [h]
  · simp [h, tblFind?_tblSet_ne]

theorem tblGet_tblSet (d : α) (k j : κ) (v : α) (t : Tbl κ α) :
    tblGet d j (tblSet k v t) = if j = k then v else tblGet d j t := by
  by_cases h : j = k <;> simp [tblGet, h, tblFind?_tblSet]

@[simp] theorem tblGet_tblUpd_self (d : α) (k : κ) (f : α → α) (t : Tbl κ α) :
    tblGet d k (tblUpd d k f t) = f (tblGet d k t) := by simp [tblUpd, tblGet_tblSet]

theorem tblGet_tblUpd (d : α) (k j : κ) (f : α → α) (t : Tbl κ α) :
    tblGet d j (tblUpd d k f t) = if j = k then f (tblGet d k t) else tblGet d j t := by simp [tblUpd, tblGet_tblSet]

theorem tblFind?_tblUpd_ne (d : α) {k j : κ} (h : j ≠ k) (f : α → α) (t : Tbl κ α) :
    tblFind? j (tblUpd d k f t) = tblFind? j t := by simp [tblUpd, tblFind?_tblSet_ne h]

@[simp] theorem length_vecUpd (l : List α) (i : Nat) (f : α → α) : (vecUpd l i f).length = l.length := by simp [vecUpd]

theorem vecGet_vecUpd_self (d : α) (l : List α) (i : Nat) (f : α → α) (h : i < l.length) :
    vecGet d (vecUpd l i f) i = f (vecGet d l i) := by simp [vecGet, vecUpd, h]

theorem vecGet_vecUpd_ne (d : α) (l : List α) {i j : Nat} (f : α → α) (h : i ≠ j) : vecGet d (vecUpd l i f) j = vecGet d l j := by
  simp [vecGet, vecUpd, List.getD, h]

end Sys2Proof.Machine
end

