-- ==== Sys2Proof/Laws/KeptBase.lean ====
section
/-! SUPPORT. `Kept`: time, both DRAM contents, the fuses and the queue unchanged; how it goes through lets, folds and choices. -/

set_option linter.all false

namespace Sys2Proof.Machine

/-- What most of the model leaves alone: time, both DRAM contents, the two fuses and the queue of commands. -/
abbrev Kept (s t : State) : Prop := t.tm.devTime = s.tm.devTime ∧ t.dram.da.cells = s.dram.da.cells ∧ t.dram.db.cells = s.dram.db.cells ∧ t.sec.cryptoDisable = s.sec.cryptoDisable ∧ t.sec.kazokRevoke = s.sec.kazokRevoke ∧ t.pending = s.pending
theorem Kept.trans {s t u : State} (h : Kept s t) (h' : Kept t u) : Kept s u := ⟨(h'.1).trans (h.1), (h'.2.1).trans (h.2.1), (h'.2.2.1).trans (h.2.2.1), (h'.2.2.2.1).trans (h.2.2.2.1), (h'.2.2.2.2.1).trans (h.2.2.2.2.1), (h'.2.2.2.2.2).trans (h.2.2.2.2.2)⟩
theorem Kept.refl (s : State) : Kept s s := ⟨rfl, rfl, rfl, rfl, rfl, rfl⟩
theorem Kept.getD {s : State} {o : Option State} (h : ∀ r, o = some r → Kept s r) : Kept s (o.getD s) := by
  cases o with
  | none => exact Kept.refl s
  | some r => exact h r rfl
theorem Kept.ite {s a b : State} {c : Prop} [Decidable c] (ha : Kept s a) (hb : Kept s b) : Kept s (if c then a else b) := by
  split
  · exact ha
  · exact hb
theorem Kept.cut {s t u : State} (h : Kept s t) (k : Kept s t → Kept s u) : Kept s u := k h
theorem forEach_kept {α : Type} (l : List α) (f : α → State → State) (s : State) (h : ∀ a s, Kept s (f a s)) : Kept s (forEach l f s) := by
  unfold forEach
  induction l generalizing s with
  | nil => exact Kept.refl s
  | cons a l ih => exact (h a s).trans (ih _)
theorem foldl_kept {α : Type} (l : List α) (f : State → α → State) (s : State) (h : ∀ s a, Kept s (f s a)) : Kept s (l.foldl f s) := by
  induction l generalizing s with
  | nil => exact Kept.refl s
  | cons a l ih => exact (h s a).trans (ih _)
@[simp] theorem forEach_devTime {α : Type} (l : List α) (f : α → State → State) (s : State) (h : ∀ a s, (f a s).tm.devTime = s.tm.devTime) : (forEach l f s).tm.devTime = s.tm.devTime := by
  unfold forEach
  induction l generalizing s with
  | nil => rfl
  | cons a l ih => simp [ih, h]
@[simp] theorem foldl_devTime {α : Type} (l : List α) (f : State → α → State) (s : State) (h : ∀ s a, (f s a).tm.devTime = s.tm.devTime) : (l.foldl f s).tm.devTime = s.tm.devTime := by
  induction l generalizing s with
  | nil => rfl
  | cons a l ih => simp [ih, h]
theorem if_devTime (c : Prop) [Decidable c] (s t : State) : (if c then s else t).tm.devTime = if c then s.tm.devTime else t.tm.devTime := by split <;> rfl
@[simp] theorem forEach_da {α : Type} (l : List α) (f : α → State → State) (s : State) (h : ∀ a s, (f a s).dram.da.cells = s.dram.da.cells) : (forEach l f s).dram.da.cells = s.dram.da.cells := by
  unfold forEach
  induction l generalizing s with
  | nil => rfl
  | cons a l ih => simp [ih, h]
@[simp] theorem foldl_da {α : Type} (l : List α) (f : State → α → State) (s : State) (h : ∀ s a, (f s a).dram.da.cells = s.dram.da.cells) : (l.foldl f s).dram.da.cells = s.dram.da.cells := by
  induction l generalizing s with
  | nil => rfl
  | cons a l ih => simp [ih, h]
theorem if_da (c : Prop) [Decidable c] (s t : State) : (if c then s else t).dram.da.cells = if c then s.dram.da.cells else t.dram.da.cells := by split <;> rfl
@[simp] theorem forEach_db {α : Type} (l : List α) (f : α → State → State) (s : State) (h : ∀ a s, (f a s).dram.db.cells = s.dram.db.cells) : (forEach l f s).dram.db.cells = s.dram.db.cells := by
  unfold forEach
  induction l generalizing s with
  | nil => rfl
  | cons a l ih => simp [ih, h]
@[simp] theorem foldl_db {α : Type} (l : List α) (f : State → α → State) (s : State) (h : ∀ s a, (f s a).dram.db.cells = s.dram.db.cells) : (l.foldl f s).dram.db.cells = s.dram.db.cells := by
  induction l generalizing s with
  | nil => rfl
  | cons a l ih => simp [ih, h]
theorem if_db (c : Prop) [Decidable c] (s t : State) : (if c then s else t).dram.db.cells = if c then s.dram.db.cells else t.dram.db.cells := by split <;> rfl
@[simp] theorem forEach_crypto {α : Type} (l : List α) (f : α → State → State) (s : State) (h : ∀ a s, (f a s).sec.cryptoDisable = s.sec.cryptoDisable) : (forEach l f s).sec.cryptoDisable = s.sec.cryptoDisable := by
  unfold forEach
  induction l generalizing s with
  | nil => rfl
  | cons a l ih => simp [ih, h]
@[simp] theorem foldl_crypto {α : Type} (l : List α) (f : State → α → State) (s : State) (h : ∀ s a, (f s a).sec.cryptoDisable = s.sec.cryptoDisable) : (l.foldl f s).sec.cryptoDisable = s.sec.cryptoDisable := by
  induction l generalizing s with
  | nil => rfl
  | cons a l ih => simp [ih, h]
theorem if_crypto (c : Prop) [Decidable c] (s t : State) : (if c then s else t).sec.cryptoDisable = if c then s.sec.cryptoDisable else t.sec.cryptoDisable := by split <;> rfl
@[simp] theorem forEach_kazok {α : Type} (l : List α) (f : α → State → State) (s : State) (h : ∀ a s, (f a s).sec.kazokRevoke = s.sec.kazokRevoke) : (forEach l f s).sec.kazokRevoke = s.sec.kazokRevoke := by
  unfold forEach
  induction l generalizing s with
  | nil => rfl
  | cons a l ih => simp [ih, h]
@[simp] theorem foldl_kazok {α : Type} (l : List α) (f : State → α → State) (s : State) (h : ∀ s a, (f s a).sec.kazokRevoke = s.sec.kazokRevoke) : (l.foldl f s).sec.kazokRevoke = s.sec.kazokRevoke := by
  induction l generalizing s with
  | nil => rfl
  | cons a l ih => simp [ih, h]
theorem if_kazok (c : Prop) [Decidable c] (s t : State) : (if c then s else t).sec.kazokRevoke = if c then s.sec.kazokRevoke else t.sec.kazokRevoke := by split <;> rfl
@[simp] theorem forEach_pending {α : Type} (l : List α) (f : α → State → State) (s : State) (h : ∀ a s, (f a s).pending = s.pending) : (forEach l f s).pending = s.pending := by
  unfold forEach
  induction l generalizing s with
  | nil => rfl
  | cons a l ih => simp [ih, h]
@[simp] theorem foldl_pending {α : Type} (l : List α) (f : State → α → State) (s : State) (h : ∀ s a, (f s a).pending = s.pending) : (l.foldl f s).pending = s.pending := by
  induction l generalizing s with
  | nil => rfl
  | cons a l ih => simp [ih, h]
theorem if_pending (c : Prop) [Decidable c] (s t : State) : (if c then s else t).pending = if c then s.pending else t.pending := by split <;> rfl

end Sys2Proof.Machine
end

