-- ==== Sys2Proof/Laws/KeptAdmission.lean ====
section
/-! SUPPORT. `Kept` for the shared operations and the Admission Unit. -/

set_option linter.all false

namespace Sys2Proof.Machine

/-! ### Ops -/

@[simp] theorem tickFree_kept (s : State) : Kept s (tickFree s) := by
  unfold tickFree
  (repeat' split) <;> simp [Kept]

@[simp] theorem takeDue_kept (s : State) (r : Nat) : Kept s (takeDue s r) := by
  unfold takeDue
  (repeat' split) <;> simp [Kept]

@[simp] theorem updIsland_kept (s : State) (id : Nat) (f : Island → Island) : Kept s (updIsland s id f) := by
  unfold updIsland
  (repeat' split) <;> simp [Kept]

@[simp] theorem airLow_kept (s : State) (gated : Bool) : Kept s (airLow s gated) := by
  unfold airLow
  (repeat' split) <;> simp [Kept]

@[simp] theorem setHandshake_kept (s : State) (h : Handshake) : Kept s (setHandshake s h) := by
  unfold setHandshake
  (repeat' split) <;> simp [Kept]

@[simp] theorem sendToken_kept (s : State) (src dst : Nat) (data : Bool) (tag : Nat) : Kept s (sendToken s src dst data tag) := by
  unfold sendToken
  dsimp only
  (repeat' split) <;> simp [Kept]

@[simp] theorem fenceChannels_kept (s : State) (id : Nat) : Kept s (fenceChannels s id) := by
  unfold fenceChannels
  (repeat' split) <;> simp [Kept]

@[simp] theorem takeTokens_kept (s : State) (id : Nat) : Kept s (takeTokens s id) := by
  unfold takeTokens
  (repeat' split) <;> simp [Kept]

@[simp] theorem writeProtect_kept (s : State) (id : Nat) : Kept s (writeProtect s id) := by
  unfold writeProtect
  (repeat' split) <;> simp [Kept]

@[simp] theorem setIslandState_kept (s : State) (id : Nat) (st : IslState) : Kept s (setIslandState s id st) := by
  unfold setIslandState
  (repeat' split) <;> simp [Kept]

@[simp] theorem updFn_kept (s : State) (f : Nat) (g : FnSt → FnSt) : Kept s (updFn s f g) := by
  unfold updFn
  (repeat' split) <;> simp [Kept]

@[simp] theorem raiseVector_kept (s : State) (f v : Nat) : Kept s (raiseVector s f v) := by
  unfold raiseVector
  (repeat' split) <;> simp [Kept]

@[simp] theorem notifyFn_kept (s : State) (f : Nat) : Kept s (notifyFn s f) := by
  unfold notifyFn
  (repeat' split) <;> simp [Kept]

@[simp] theorem appendRecord_kept (s : State) (code sev kind num : Nat) (payload : List Byte) : Kept s (appendRecord s code sev kind num payload) := by
  unfold appendRecord
  dsimp only
  (repeat' split) <;> simp [Kept]

@[simp] theorem dropRecord_kept (s : State) (sev : Nat) : Kept s (dropRecord s sev) := by
  unfold dropRecord
  (repeat' split) <;> simp [Kept]

@[simp] theorem recordEvent_kept (s : State) (code sev kind num : Nat) (payload : List Byte) : Kept s (recordEvent s code sev kind num payload) := by
  unfold recordEvent
  dsimp only
  (repeat' split) <;> simp [Kept]

@[simp] theorem kickCores_kept (s : State) : Kept s (kickCores s) := by
  unfold kickCores
  (repeat' split) <;> simp [Kept]

@[simp] theorem linkDown_kept (s : State) : Kept s (linkDown s) := by
  unfold linkDown
  (repeat' split) <;> simp [Kept]

@[simp] theorem linkPower_kept (s : State) (p : LinkPower) : Kept s (linkPower s p) := by
  unfold linkPower
  (repeat' split) <;> simp [Kept]

@[simp] theorem beginWake_kept (s : State) (cause : WakeCause) : Kept s (beginWake s cause) := by
  simp [beginWake, Kept, when', if_devTime, if_da, if_db, if_crypto, if_kazok, if_pending]

@[simp] theorem completionIrq_kept (s : State) (fn cqid : Nat) : Kept s (completionIrq s fn cqid) := by
  unfold completionIrq
  dsimp only
  (repeat' split) <;> simp [Kept]

@[simp] theorem writeEntry_kept (s : State) (c : Completion) (v : Option VerdictInfo) : Kept s (writeEntry s c v) := by
  unfold writeEntry
  (repeat' split) <;> simp [Kept]

@[simp] theorem postEntry_kept (s : State) (c : Completion) (v : Option VerdictInfo) : Kept s (postEntry s c v) := by
  unfold postEntry
  dsimp only
  (repeat' split) <;> simp [Kept]

@[simp] theorem logError_kept (s : State) (fn sqid cid : Nat) (st : NvmeStatus) : Kept s (logError s fn sqid cid st) := by
  unfold logError
  (repeat' split) <;> simp [Kept]

@[simp] theorem postCompletion_kept (s : State) (fn sqid cid : Nat) (st : NvmeStatus) (dw0 : Nat) (data : List Byte) (units : List (Option Nat)) (v : Option VerdictInfo) : Kept s (postCompletion s fn sqid cid st dw0 data units v) := by
  unfold postCompletion
  (repeat' split) <;> simp [Kept]

@[simp] theorem adminDone_kept (s : State) (a : AdmHdr) (st : NvmeStatus) (dw0 : Nat) (data : List Byte) : Kept s (adminDone s a st dw0 data) := by
  unfold adminDone
  (repeat' split) <;> simp [Kept]

@[simp] theorem postAer_kept (f : Nat) (s : State) (cid dw0 : Nat) : Kept s (postAer f s cid dw0) := by
  unfold postAer
  (repeat' split) <;> simp [Kept]

@[simp] theorem asyncEvent_kept (s : State) (f type info log enable g : Nat) : Kept s (asyncEvent s f type info log enable (postAer g)) := by
  unfold asyncEvent
  dsimp only
  split
  · simp [Kept]
  · split <;> simp [Kept]

@[simp] theorem asyncAll_kept (s : State) (type info log enable : Nat) : Kept s (asyncAll s type info log enable) := by
  simp [asyncAll, Kept]

@[simp] theorem setWarning_kept (s : State) (bit : Nat) : Kept s (setWarning s bit) := by
  unfold setWarning
  split <;> simp [Kept]

@[simp] theorem clearWarning_kept (s : State) (bit : Nat) : Kept s (clearWarning s bit) := by
  unfold clearWarning
  (repeat' split) <;> simp [Kept]

@[simp] theorem updMeter_kept (s : State) (fn : Nat) (g : Meter → Meter) : Kept s (updMeter s fn g) := by
  unfold updMeter
  (repeat' split) <;> simp [Kept]

@[simp] theorem updClass_kept (s : State) (fn cls : Nat) (g : ClassCtr → ClassCtr) : Kept s (updClass s fn cls g) := by
  unfold updClass
  (repeat' split) <;> simp [Kept]

@[simp] theorem updFnCtr_kept (s : State) (fn : Nat) (g : FnCtr → FnCtr) : Kept s (updFnCtr s fn g) := by
  unfold updFnCtr
  (repeat' split) <;> simp [Kept]

@[simp] theorem accessError_kept (s : State) (fn offset kind : Nat) : Kept s (accessError s fn offset kind) := by
  unfold accessError
  (repeat' split) <;> simp [Kept]

/-! ### Faults -/

@[simp] theorem updSrc_kept (s : State) (i : Nat) (f : FaultSrc → FaultSrc) : Kept s (updSrc s i f) := by
  unfold updSrc
  (repeat' split) <;> simp [Kept]

@[simp] theorem refreshAlive_kept (s : State) : Kept s (refreshAlive s) := by
  unfold refreshAlive
  (repeat' split) <;> simp [Kept]

@[simp] theorem refreshFaultLed_kept (s : State) : Kept s (refreshFaultLed s) := by
  unfold refreshFaultLed
  (repeat' split) <;> simp [Kept]

@[simp] theorem updChan_kept (s : State) (c : Nat) (f : ChanSt → ChanSt) : Kept s (updChan s c f) := by
  unfold updChan
  (repeat' split) <;> simp [Kept]

@[simp] theorem severeChannel_kept (s : State) (c : Nat) : Kept s (severeChannel s c) := by
  unfold severeChannel
  dsimp only
  (repeat' split) <;> simp [Kept]

@[simp] theorem reportSevere_kept (s : State) (scope : Nat) : Kept s (reportSevere s scope) := by
  unfold reportSevere
  (repeat' split) <;> simp [Kept]

@[simp] theorem restartHour_kept (s : State) (i : Nat) : Kept s (restartHour s i) := by
  unfold restartHour
  (repeat' split) <;> simp [Kept]

@[simp] theorem makeSevere_kept (s : State) (i isl : Nat) : Kept s (makeSevere s i isl) := by
  unfold makeSevere
  (repeat' split) <;> simp [Kept]

@[simp] theorem countFault_kept (s : State) (i : Nat) (cap : Capture) : Kept s (countFault s i cap) := by
  unfold countFault
  dsimp only
  (repeat' split) <;> simp [Kept]

@[simp] theorem markAffected_kept (s : State) (i isl : Nat) : Kept s (markAffected s i isl) := by
  unfold markAffected
  (repeat' split) <;> simp [Kept]

@[simp] theorem noteLate_kept (s : State) (c : Cmd) : Kept s (noteLate s c) := by
  unfold noteLate
  (repeat' split) <;> simp [Kept]

@[simp] theorem multipleFault_kept (s : State) (i : Nat) (cap : Capture) : Kept s (multipleFault s i cap) := by
  unfold multipleFault
  (repeat' split) <;> simp [Kept]

@[simp] theorem plannedStep_kept (s : State) : Kept s (plannedStep s) := by
  unfold plannedStep
  (repeat' split) <;> simp [Kept]

@[simp] theorem raiseFault_kept (s : State) (i : Nat) (cap : Capture) : Kept s (raiseFault s i cap) := by
  unfold raiseFault
  (repeat' split) <;> simp [Kept]

/-! ### HmpOps -/

@[simp] theorem keepAnswer_kept (s : State) (r : HmpResp) : Kept s (keepAnswer s r) := by
  unfold keepAnswer
  (repeat' split) <;> simp [Kept]

@[simp] theorem holdAnswer_kept (s : State) (r : HmpResp) : Kept s (holdAnswer s r) := by
  unfold holdAnswer
  (repeat' split) <;> simp [Kept]

@[simp] theorem endExchange_kept (s : State) (fn : Nat) (w : AdmWait) (r : HmpResp) : Kept s (endExchange s fn w r) := by
  unfold endExchange
  (repeat' split) <;> simp [Kept]

@[simp] theorem endCollect_kept (s : State) (fn : Nat) (c : CollectSt) (r : HmpResp) : Kept s (endCollect s fn c r) := by
  unfold endCollect
  (repeat' split) <;> simp [Kept]

@[simp] theorem deliverPost_kept (s : State) (fn : Nat) (r : HmpResp) : Kept s (deliverPost s fn r) := by
  unfold deliverPost
  (repeat' split) <;> simp [Kept]

@[simp] theorem deliverExchange_kept (s : State) (fn cid : Nat) (r : HmpResp) : Kept s (deliverExchange s fn cid r) := by
  unfold deliverExchange
  (repeat' split) <;> simp [Kept]

@[simp] theorem deliverTo_kept (s : State) (rq : HmpReq) (copy : Bool) (r : HmpResp) : Kept s (deliverTo s rq copy r) := by
  unfold deliverTo
  (repeat' split) <;> simp [Kept]

@[simp] theorem deliverCopy_kept (s : State) (rq : HmpReq) (r : HmpResp) (d : RespDest) : Kept s (deliverCopy s rq r d) := by
  unfold deliverCopy
  (repeat' split) <;> simp [Kept]

@[simp] theorem dropReq_kept (s : State) (st : Stream) (tag : Nat) : Kept s (dropReq s st tag) := by
  unfold dropReq
  (repeat' split) <;> simp [Kept]

@[simp] theorem journalled_kept (s : State) (r : HmpResp) : Kept s (journalled s r) := by
  unfold journalled
  (repeat' split) <;> simp [Kept]

@[simp] theorem respond_kept (s : State) (rq : HmpReq) (r : HmpResp) : Kept s (respond s rq r) := by
  unfold respond
  dsimp only
  (repeat' split) <;> simp [Kept]

@[simp] theorem answer_kept (s : State) (q : HmpHdr) (op status detail : Nat) (payload : List Byte) : Kept s (answer s q op status detail payload) := by
  unfold answer
  (repeat' split) <;> simp [Kept]

@[simp] theorem reply_kept (s : State) (q : HmpHdr) (op : Nat) (payload : List Byte) : Kept s (reply s q op payload) := by
  unfold reply
  (repeat' split) <;> simp [Kept]

@[simp] theorem hmpDone_kept (s : State) (q : HmpHdr) (op : Nat) : Kept s (hmpDone s q op) := by
  unfold hmpDone
  (repeat' split) <;> simp [Kept]

@[simp] theorem rejectWrite_kept (s : State) (q : HmpHdr) (op status offset : Nat) : Kept s (rejectWrite s q op status offset) := by
  unfold rejectWrite
  (repeat' split) <;> simp [Kept]

@[simp] theorem hmpServe_devTime (s : State) (q : HmpHdr) (r : HmpRule) (body : State → State) (h : ∀ s, (body s).tm.devTime = s.tm.devTime) : (hmpServe s q r body).tm.devTime = s.tm.devTime := by
  unfold hmpServe
  (repeat' split) <;> simp [h]

@[simp] theorem hmpServe_da (s : State) (q : HmpHdr) (r : HmpRule) (body : State → State) (h : ∀ s, (body s).dram.da.cells = s.dram.da.cells) : (hmpServe s q r body).dram.da.cells = s.dram.da.cells := by
  unfold hmpServe
  (repeat' split) <;> simp [h]

@[simp] theorem hmpServe_db (s : State) (q : HmpHdr) (r : HmpRule) (body : State → State) (h : ∀ s, (body s).dram.db.cells = s.dram.db.cells) : (hmpServe s q r body).dram.db.cells = s.dram.db.cells := by
  unfold hmpServe
  (repeat' split) <;> simp [h]

@[simp] theorem hmpServe_crypto (s : State) (q : HmpHdr) (r : HmpRule) (body : State → State) (h : ∀ s, (body s).sec.cryptoDisable = s.sec.cryptoDisable) : (hmpServe s q r body).sec.cryptoDisable = s.sec.cryptoDisable := by
  unfold hmpServe
  (repeat' split) <;> simp [h]

@[simp] theorem hmpServe_kazok (s : State) (q : HmpHdr) (r : HmpRule) (body : State → State) (h : ∀ s, (body s).sec.kazokRevoke = s.sec.kazokRevoke) : (hmpServe s q r body).sec.kazokRevoke = s.sec.kazokRevoke := by
  unfold hmpServe
  (repeat' split) <;> simp [h]

@[simp] theorem hmpServe_pending (s : State) (q : HmpHdr) (r : HmpRule) (body : State → State) (h : ∀ s, (body s).pending = s.pending) : (hmpServe s q r body).pending = s.pending := by
  unfold hmpServe
  (repeat' split) <;> simp [h]

@[simp] theorem withHandle_kept (s : State) (q : HmpHdr) (op : Nat) : Kept s (withHandle s q op) := by
  unfold withHandle
  (repeat' split) <;> simp [Kept]

@[simp] theorem startLong_devTime (s : State) (q : HmpHdr) (op : Nat) (f : State → Nat → State) (h : ∀ s n, (f s n).tm.devTime = s.tm.devTime) : (startLong s q op f).tm.devTime = s.tm.devTime := by
  unfold startLong
  split <;> simp [h]

@[simp] theorem startLong_da (s : State) (q : HmpHdr) (op : Nat) (f : State → Nat → State) (h : ∀ s n, (f s n).dram.da.cells = s.dram.da.cells) : (startLong s q op f).dram.da.cells = s.dram.da.cells := by
  unfold startLong
  split <;> simp [h]

@[simp] theorem startLong_db (s : State) (q : HmpHdr) (op : Nat) (f : State → Nat → State) (h : ∀ s n, (f s n).dram.db.cells = s.dram.db.cells) : (startLong s q op f).dram.db.cells = s.dram.db.cells := by
  unfold startLong
  split <;> simp [h]

@[simp] theorem startLong_crypto (s : State) (q : HmpHdr) (op : Nat) (f : State → Nat → State) (h : ∀ s n, (f s n).sec.cryptoDisable = s.sec.cryptoDisable) : (startLong s q op f).sec.cryptoDisable = s.sec.cryptoDisable := by
  unfold startLong
  split <;> simp [h]

@[simp] theorem startLong_kazok (s : State) (q : HmpHdr) (op : Nat) (f : State → Nat → State) (h : ∀ s n, (f s n).sec.kazokRevoke = s.sec.kazokRevoke) : (startLong s q op f).sec.kazokRevoke = s.sec.kazokRevoke := by
  unfold startLong
  split <;> simp [h]

@[simp] theorem startLong_pending (s : State) (q : HmpHdr) (op : Nat) (f : State → Nat → State) (h : ∀ s n, (f s n).pending = s.pending) : (startLong s q op f).pending = s.pending := by
  unfold startLong
  split <;> simp [h]

@[simp] theorem endLong_kept (s : State) (x : Sender) (h status detail : Nat) : Kept s (endLong s x h status detail) := by
  unfold endLong
  (repeat' split) <;> simp [Kept]

@[simp] theorem startFailed_kept (s : State) (q : HmpHdr) (op status detail : Nat) : Kept s (startFailed s q op status detail) := by
  unfold startFailed
  (repeat' split) <;> simp [Kept]

@[simp] theorem endLong_q_kept (s : State) (o : Option (Sender × Nat)) (status detail : Nat) : Kept s (endLong? s o status detail) := by
  unfold endLong?
  (repeat' split) <;> simp [Kept]

@[simp] theorem progressLong_kept (s : State) (x : Sender) (h pct : Nat) : Kept s (progressLong s x h pct) := by
  unfold progressLong
  (repeat' split) <;> simp [Kept]

@[simp] theorem resumeHmp_kept (s : State) : Kept s (resumeHmp s) := by
  unfold resumeHmp
  (repeat' split) <;> simp [Kept]

/-! ### Geo -/

@[simp] theorem updDie_kept (s : State) (d : DieNo) (f : DieSt → DieSt) : Kept s (updDie s d f) := by
  unfold updDie
  (repeat' split) <;> simp [Kept]

@[simp] theorem updPkg_kept (s : State) (k : Nat × Nat) (f : PkgSt → PkgSt) : Kept s (updPkg s k f) := by
  unfold updPkg
  (repeat' split) <;> simp [Kept]

@[simp] theorem updBlock_kept (s : State) (d : DieNo) (k : Nat) (f : BlockSt → BlockSt) : Kept s (updBlock s d k f) := by
  unfold updBlock
  (repeat' split) <;> simp [Kept]

@[simp] theorem countErase_kept (s : State) (d : DieNo) (k : Nat) : Kept s (countErase s d k) := by
  unfold countErase
  (repeat' split) <;> simp [Kept]

@[simp] theorem updThatch_kept (s : State) (t : Nat) (f : ThatchSt → ThatchSt) : Kept s (updThatch s t f) := by
  unfold updThatch
  (repeat' split) <;> simp [Kept]

@[simp] theorem updZone_kept (s : State) (nsid z : Nat) (f : ZoneSt → ZoneSt) : Kept s (updZone s nsid z f) := by
  unfold updZone
  (repeat' split) <;> simp [Kept]

@[simp] theorem zoneChanged_kept (s : State) (nsid z : Nat) : Kept s (zoneChanged s nsid z) := by
  unfold zoneChanged
  (repeat' split) <;> simp [Kept]

@[simp] theorem nsChanged_kept (s : State) (nsid : Nat) (fns : List Nat) : Kept s (nsChanged s nsid fns) := by
  unfold nsChanged
  (repeat' split) <;> simp [Kept]

/-! ### Contracts -/

@[simp] theorem rebuildMeters_kept (s : State) (fn : Nat) : Kept s (rebuildMeters s fn) := by
  unfold rebuildMeters
  (repeat' split) <;> simp [Kept]

@[simp] theorem takeDraw_kept (c : Cmd) (d : Draw) (s : State) : Kept s (takeDraw c d s) := by
  unfold takeDraw
  (repeat' split) <;> simp [Kept]

@[simp] theorem chargeContract_kept (s : State) (c : Cmd) : Kept s (chargeContract s c) := by
  unfold chargeContract
  (repeat' split) <;> simp [Kept]

/-! ### BufOps -/

@[simp] theorem updPool_kept (s : State) (pool : Nat) (f : PoolSt → PoolSt) : Kept s (updPool s pool f) := by
  unfold updPool
  (repeat' split) <;> simp [Kept]

theorem bookBuffers_kept {s : State} {pool n t e : Nat} {c : Cmd} {r} (h : bookBuffers s pool n t e c = some r) : Kept s r := by
  unfold bookBuffers at h
  dsimp only at h
  split at h
  · cases h
  · split at h
    · cases h
      simp [Kept]
    · split at h
      · cases h
      · cases h
        simp [Kept]

@[simp] theorem poolFailure_kept (s : State) (pool : Nat) : Kept s (poolFailure s pool) := by
  unfold poolFailure
  (repeat' split) <;> simp [Kept]

@[simp] theorem evictCache_kept (s : State) (n : Nat) : Kept s (evictCache s n) := by
  unfold evictCache
  (repeat' split) <;> simp [Kept]

theorem allocBufs_kept {s : State} {pool owner n : Nat} {r} (h : allocBufs s pool owner n = some r) : Kept s r := by
  unfold allocBufs at h
  dsimp only at h
  (repeat' split at h) <;> first | (cases h; done) | (cases h; simp [Kept])

@[simp] theorem allocBufs_getD_kept (s : State) (p o n : Nat) : Kept s ((allocBufs s p o n).getD s) := by
  cases h : allocBufs s p o n with
  | none => exact Kept.refl s
  | some t => exact allocBufs_kept h

@[simp] theorem releaseBufs_kept (s : State) (pool n : Nat) : Kept s (releaseBufs s pool n) := by
  unfold releaseBufs
  (repeat' split) <;> simp [Kept]

@[simp] theorem cacheBufs_kept (s : State) (seqs : List Nat) : Kept s (cacheBufs s seqs) := by
  unfold cacheBufs
  (repeat' split) <;> simp [Kept]

@[simp] theorem sealBufs_kept (s : State) (pool : Nat) (l : List Nat) : Kept s (sealBufs s pool l) := by
  induction l generalizing s with
  | nil => exact Kept.refl s
  | cons x xs ih =>
    unfold sealBufs
    dsimp only
    split
    · exact Kept.trans ⟨rfl, rfl, rfl, rfl, rfl, rfl⟩ (ih _)
    · exact Kept.refl s

/-! ### CmdOps -/

@[simp] theorem endRecovery_kept (s : State) (p : RecEntry → Bool) : Kept s (endRecovery s p) := by
  unfold endRecovery
  (repeat' split) <;> simp [Kept]

@[simp] theorem sweepRecovery_kept (s : State) : Kept s (sweepRecovery s) := by
  unfold sweepRecovery
  (repeat' split) <;> simp [Kept]

@[simp] theorem pinSlot_kept (nsid : Nat) (add : Nat → Nat) (x : SlotSt) (s : State) : Kept s (pinSlot nsid add x s) := by
  unfold pinSlot
  (repeat' split) <;> simp [Kept]

@[simp] theorem sweepEaves_kept (s : State) : Kept s (sweepEaves s) := by
  unfold sweepEaves
  dsimp only
  (repeat' split) <;> simp [Kept]

@[simp] theorem trimLoft_kept (s : State) : Kept s (trimLoft s) := by
  unfold trimLoft
  repeat' first
    | with_reducible assumption
    | with_reducible exact Kept.refl _
    | (extract_lets +onlyGivenNames x; first
        | (refine Kept.cut (t := x) ?_ ?_; rotate_left 1; intro hx; clear_value x; rotate_left 1; subst x)
        | subst x)
    | with_reducible refine forEach_kept _ _ _ ?_
    | with_reducible refine Kept.trans ?_ (forEach_kept _ _ _ ?_)
    | split
    | intro _
    | (simp [Kept, *]; done)
    | dsimp only

@[simp] theorem unbindEmpty_kept (s : State) (nsid z : Nat) : Kept s (unbindEmpty s nsid z) := by
  unfold unbindEmpty
  (repeat' split) <;> simp [Kept]

@[simp] theorem dropCmd_kept (s : State) (c : Cmd) : Kept s (dropCmd s c) := by
  unfold dropCmd
  repeat' first
    | with_reducible assumption
    | with_reducible exact Kept.refl _
    | (extract_lets +onlyGivenNames x; first
        | (refine Kept.cut (t := x) ?_ ?_; rotate_left 1; intro hx; clear_value x; rotate_left 1; subst x)
        | subst x)
    | with_reducible refine forEach_kept _ _ _ ?_
    | with_reducible refine Kept.trans ?_ (forEach_kept _ _ _ ?_)
    | split
    | intro _
    | (simp [Kept, *]; done)
    | dsimp only

@[simp] theorem updCmd_kept (s : State) (c : Cmd) (g : Cmd → Cmd) : Kept s (updCmd s c g) := by
  unfold updCmd
  (repeat' split) <;> simp [Kept]

@[simp] theorem ioPost_kept (s : State) (fn sqid cid : Nat) (st : NvmeStatus) (dw0 : Nat) (data : List Byte) (units : List (Option Nat)) (v : VerdictInfo) : Kept s (ioPost s fn sqid cid st dw0 data units v) := by
  unfold ioPost
  (repeat' split) <;> simp [Kept]

@[simp] theorem completeCmd_kept (s : State) (c : Cmd) (st : NvmeStatus) (dw0 : Nat) (data : List Byte) (units : List (Option Nat)) : Kept s (completeCmd s c st dw0 data units) := by
  unfold completeCmd
  (repeat' split) <;> simp [Kept]

@[simp] theorem refuseCmd_kept (s : State) (c : Cmd) (code hint : Nat) : Kept s (refuseCmd s c code hint) := by
  unfold refuseCmd
  (repeat' split) <;> simp [Kept]

@[simp] theorem withdrawCmd_kept (s : State) (c : Cmd) (st : NvmeStatus) : Kept s (withdrawCmd s c st) := by
  unfold withdrawCmd
  (repeat' split) <;> simp [Kept]

@[simp] theorem powerLossRead_kept (s : State) (c : Cmd) : Kept s (powerLossRead s c) := by
  unfold powerLossRead
  (repeat' split) <;> simp [Kept]

@[simp] theorem completeEarly_kept (s : State) (h : IoHdr) (cls : Nat) (st : NvmeStatus) : Kept s (completeEarly s h cls st) := by
  unfold completeEarly
  (repeat' split) <;> simp [Kept]

@[simp] theorem discardCmd_kept (s : State) (c : Cmd) : Kept s (discardCmd s c) := by
  unfold discardCmd
  (repeat' split) <;> simp [Kept]

theorem flushReady_kept (n : Nat) (s : State) : Kept s (flushReady n s) := by
  induction n generalizing s with
  | zero => exact Kept.refl s
  | succ n ih =>
    unfold flushReady
    split
    · exact (completeCmd_kept ..).trans (ih _)
    · exact Kept.refl s

@[simp] theorem endWrite_kept (s : State) (c : Cmd) (st : NvmeStatus) : Kept s (endWrite s c st) :=
  (updCmd_kept ..).trans (flushReady_kept ..)

/-! ### Plan -/

theorem optFold_kept {α : Type} (f : Option State → α → Option State) (s0 : State)
    (hf : ∀ acc a, (∀ r, acc = some r → Kept s0 r) → ∀ r, f acc a = some r → Kept s0 r) (l : List α) (acc : Option State)
    (h : ∀ r, acc = some r → Kept s0 r) : ∀ r, l.foldl f acc = some r → Kept s0 r := by
  induction l generalizing acc with
  | nil => exact h
  | cons a l ih => exact ih _ (hf acc a h)

theorem moveEntry_kept {s : State} {t : Nat} {e : CalEntry} {r} (h : moveEntry s t e = some r) : Kept s r := by
  unfold moveEntry at h
  simp only [Option.bind_eq_some_iff, Option.map_eq_some_iff] at h
  obtain ⟨_, h0, h⟩ := h
  (repeat' split at h) <;> first
    | (cases h; done)
    | (cases h; exact Kept.refl _)
    | (cases h; simp [Kept]; done)

theorem moveBackground_kept {s : State} {d : DieNo} {t len tokens : Nat} {r} (h : moveBackground s d t len tokens = some r) : Kept s r := by
  unfold moveBackground at h
  dsimp only at h
  obtain ⟨s2, h1, rfl⟩ := Option.map_eq_some_iff.1 h
  refine Kept.trans (t := s2) ?_ (by simp [Kept])
  refine optFold_kept _ s ?_ _ _ ?_ _ h1
  · intro acc e ha r hr
    obtain ⟨s1, h2, h3⟩ := Option.bind_eq_some_iff.1 hr
    exact (ha _ h2).trans (moveEntry_kept h3)
  · intro r hr
    cases hr
    simp [Kept]

theorem lengthenOp_kept {s : State} {op : CalEntry} {by' spend reserve : Nat} {r} (h : lengthenOp s op by' spend reserve = some r) : Kept s r := by
  unfold lengthenOp at h
  split at h
  · cases h
  · obtain ⟨s2, h1, rfl⟩ := Option.map_eq_some_iff.1 h
    exact (moveBackground_kept h1).trans (by simp [Kept])

theorem bookWay_kept {s : State} {q : SenseReq} {way : SenseWay} {r} (h : bookWay s q way = some r) : Kept s r.1 := by
  unfold bookWay at h
  cases way <;> dsimp only at h <;> replace h := (Option.ite_none_left_eq_some.1 h).2
  · obtain ⟨s2, h1, rfl⟩ := Option.map_eq_some_iff.1 h
    exact Kept.trans (by simp [Kept]) ((moveBackground_kept h1).trans (by simp [Kept]))
  · obtain ⟨s2, h1, rfl⟩ := Option.map_eq_some_iff.1 h
    exact Kept.trans (by simp [Kept]) ((lengthenOp_kept h1).trans (by simp [Kept]))
  · obtain ⟨s2, h1, rfl⟩ := Option.map_eq_some_iff.1 h
    exact Kept.trans (by simp [Kept]) ((lengthenOp_kept h1).trans (by simp [Kept]))

theorem bookSense_kept {s : State} {q : SenseReq} {r} (h : bookSense s q = some r) : Kept s r.1 := by
  unfold bookSense at h
  split at h
  · cases h
  · have : ∀ (l : List SenseWay) (acc : Option (State × Sense)), (∀ r, acc = some r → Kept s r.1) →
        ∀ r, l.foldl (fun r w => r.or (bookWay s q w)) acc = some r → Kept s r.1 := by
      intro l
      induction l with
      | nil => exact fun _ h => h
      | cons w l ih =>
        intro acc ha
        refine ih _ ?_
        intro r hr
        cases acc with
        | none => exact bookWay_kept hr
        | some a => exact ha r hr
    exact this _ none (by intro r hr; cases hr) _ h

@[simp] theorem sendDesc_kept (s : State) (ch opcode tag : Nat) : Kept s (sendDesc s ch opcode tag) := by
  unfold sendDesc
  (repeat' split) <;> simp [Kept]

@[simp] theorem addDesc_kept (s : State) (d : Desc) : Kept s (addDesc s d) := by
  unfold addDesc
  simp [Kept]

@[simp] theorem addRead_kept (s : State) (d : Desc) (se : Sense) : Kept s (addRead s d se) := by
  unfold addRead
  (repeat' split) <;> simp [Kept]

/-! ### Loft -/

@[simp] theorem dropLoft_kept (s : State) (p : LoftPage → Bool) : Kept s (dropLoft s p) := by
  unfold dropLoft
  (repeat' split) <;> simp [Kept]

@[simp] theorem putPage_kept (s : State) (new : LoftPage) : Kept s (putPage s new) := by
  unfold putPage
  (repeat' split) <;> simp [Kept]

@[simp] theorem insertLoft_kept (s : State) (nsid page : Nat) : Kept s (insertLoft s nsid page) := by
  simp [insertLoft, Kept, when', if_devTime, if_da, if_db, if_crypto, if_kazok, if_pending]

@[simp] theorem noteRead_kept (s : State) (nsid page : Nat) : Kept s (noteRead s nsid page) := by
  unfold noteRead
  dsimp only
  (repeat' split) <;> simp [Kept]

@[simp] theorem replicateLoft_kept (s : State) (l : LoftPage) : Kept s (replicateLoft s l) := by
  unfold replicateLoft
  dsimp only
  (repeat' split) <;> simp [Kept]

/-! ### Blocks -/

@[simp] theorem setBlock_kept (s : State) (d : DieNo) (k : Nat) (b : BlockSt) : Kept s (setBlock s d k b) := by
  unfold setBlock
  (repeat' split) <;> simp [Kept]

theorem takeFree_kept {s : State} {d : DieNo} {u : BlockUse} {r} (h : takeFree s d u = some r) : Kept s r.1 := by
  unfold takeFree at h
  split at h
  · cases h
    simp [Kept]
  · cases h

theorem takeErased_kept {s : State} {d : DieNo} {u : BlockUse} {r} (h : takeErased s d u = some r) : Kept s r.1 := by
  unfold takeErased at h
  dsimp only at h
  split at h
  · cases h
    simp [Kept]
  · exact takeFree_kept h

@[simp] theorem wearEvent_kept (s : State) (obj row : Nat) : Kept s (wearEvent s obj row) := by
  unfold wearEvent
  (repeat' split) <;> simp [Kept]

@[simp] theorem wornRow_kept (s : State) (obj row : Nat) (on : Bool) : Kept s (wornRow s obj row on) := by
  unfold wornRow
  dsimp only
  (repeat' split) <;> simp [Kept]

theorem takeSpare_kept {s : State} {d : DieNo} {u : BlockUse} {r} (h : takeSpare s d u = some r) : Kept s r.1 := by
  unfold takeSpare at h
  dsimp only at h
  split at h
  · cases h
    simp [Kept]
  · split at h
    · cases h
      simp [Kept]
    · cases h

theorem takeReplacement_kept {s : State} {d : DieNo} {u : BlockUse} {r} (h : takeReplacement s d u = some r) : Kept s r.1 := by
  unfold takeReplacement at h
  split at h
  · rename_i h'
    cases h
    exact takeSpare_kept h'
  · split at h
    · rename_i h'
      cases h
      exact (takeFree_kept h').trans (by simp [Kept])
    · cases h

@[simp] theorem coverFree_kept (s : State) (d : DieNo) : Kept s (coverFree s d) := by
  unfold coverFree
  split
  · rename_i h
    exact takeSpare_kept h
  · simp [Kept]

@[simp] theorem copyTables_kept (s : State) (d : DieNo) : Kept s (copyTables s d) := by
  unfold copyTables
  (repeat' split) <;> simp [Kept]

@[simp] theorem formBlock_kept (s : State) (d : DieNo) : Kept s (formBlock s d) := by
  unfold formBlock
  dsimp only
  (repeat' split) <;> simp [Kept]

@[simp] theorem enterPlanes_kept (s : State) (d : DieNo) (k mask cause : Nat) (holds : Bool) : Kept s (enterPlanes s d k mask cause holds) := by
  unfold enterPlanes
  (repeat' split) <;> simp [Kept]

@[simp] theorem enterGbbt_kept (s : State) (d : DieNo) (k cause : Nat) (holds : Bool) : Kept s (enterGbbt s d k cause holds) := by
  unfold enterGbbt
  (repeat' split) <;> simp [Kept]

@[simp] theorem freeBlock_kept (s : State) (d : DieNo) (k : Nat) : Kept s (freeBlock s d k) := by
  unfold freeBlock
  (repeat' split) <;> simp [Kept]

theorem bindThatch_kept {s : State} {b w k : Nat} {kind : ThatchKind} {nsid z gen : Nat} {r} (h : bindThatch s b w k kind nsid z gen = some r) : Kept s r.1 := by
  unfold bindThatch at h
  dsimp only at h
  (repeat' split at h) <;> first
    | (cases h; done)
    | (cases h; exact Kept.refl _)
    | (cases h; simp [Kept]; done)

theorem bindZone_kept {s : State} {ns : NsSt} {zi : Nat} {z : ZoneSt} {r} (h : bindZone s ns zi z = some r) : Kept s r := by
  unfold bindZone at h
  obtain ⟨w, -, h⟩ := List.exists_of_findSome?_eq_some h
  split at h
  · obtain ⟨r', h1, rfl⟩ := Option.map_eq_some_iff.1 h
    exact (bindThatch_kept h1).trans (by simp [Kept])
  · cases h

theorem assembleStep_kept (s : State) (ds : List DieNo)
    (acc : Option (State × List MemberSt × List DieNo)) (h : ∀ r, acc = some r → Kept s r.1) :
    ∀ r, ds.foldl (fun acc d => match acc with
      | none => none
      | some (s, ms, es) => match takeFree s d .ready with
        | none => none
        | some (s, k) => some (s, ms ++ [{ die := d, block := k, splices := [], fog := 0, fine := 0, aborted := false, lost := false }],
            if (block s d k).erased then es else es ++ [d])) acc = some r → Kept s r.1 := by
  induction ds generalizing acc with
  | nil => exact h
  | cons d ds ih =>
    refine ih _ ?_
    intro r hr
    dsimp only at hr
    split at hr
    · cases hr
    · rename_i s' ms es
      split at hr
      · cases hr
      · rename_i s'' k h'
        cases hr
        exact (h (s', ms, es) rfl).trans (takeFree_kept h')

theorem assembleReady_kept {s : State} {b : Nat} {r} (h : assembleReady s b = some r) : Kept s r := by
  unfold assembleReady at h
  dsimp only at h
  split at h
  · cases h
  · split at h
    · cases h
    · rename_i h'
      have := assembleStep_kept s _ _ (by intro r hr; cases hr; simp [Kept]) _ h'
      cases h
      exact this.trans (by simp [Kept])

theorem openConv_kept {s : State} {kind : ThatchKind} {r} (h : openConv s kind = some r) : Kept s r.1 := by
  unfold openConv at h
  dsimp only at h
  (repeat' split at h) <;> first
    | (cases h; done)
    | (cases h; exact Kept.refl _)
    | (cases h; simp [Kept]; done)
    | (exact assembleReady_kept h)
    | (exact (assembleReady_kept h).trans (by simp [Kept]))
    | (refine Kept.trans ?_ (assembleReady_kept h); simp [Kept]; done)
    | (cases h; exact assembleReady_kept (by assumption))
    | (cases h; exact (assembleReady_kept (by assumption)).trans (by simp [Kept]))
    | (exact (assembleReady_kept (by assumption)).trans (assembleReady_kept h))

@[simp] theorem convUnmap_kept (s : State) (nsid u : Nat) : Kept s (convUnmap s nsid u) := by
  unfold convUnmap
  (repeat' split) <;> simp [Kept]

@[simp] theorem convMap_kept (s : State) (nsid u : Nat) : Kept s (convMap s nsid u) := by
  unfold convMap
  dsimp only
  split
  · simp [Kept]
  · rename_i s' t h
    have : Kept (convUnmap s nsid u) s' := by
      split at h
      · cases h
        simp [Kept]
      · exact openConv_kept h
    have h0 : Kept s (convUnmap s nsid u) := by simp [Kept]
    exact (h0.trans this).trans (by simp [Kept])

@[simp] theorem closeConv_kept (s : State) (t : Nat) : Kept s (closeConv s t) := by
  unfold closeConv
  (repeat' split) <;> simp [Kept]

@[simp] theorem leaveService_kept (s : State) (d : DieNo) (k : Nat) : Kept s (leaveService s d k) := by
  unfold leaveService
  (repeat' split) <;> simp [Kept]

@[simp] theorem dropThatch_kept (s : State) (t : Nat) : Kept s (dropThatch s t) := by
  simp [dropThatch, Kept, when', if_devTime, if_da, if_db, if_crypto, if_kazok, if_pending]

@[simp] theorem releaseThatch_kept (s : State) (t : Nat) : Kept s (releaseThatch s t) := by
  unfold releaseThatch
  (repeat' split) <;> simp [Kept]

@[simp] theorem sweepThatches_kept (s : State) : Kept s (sweepThatches s) := by
  simp [sweepThatches, Kept, when', if_devTime, if_da, if_db, if_crypto, if_kazok, if_pending]

/-! ### ZoneOps -/

@[simp] theorem unbook_kept (s : State) (tag : Nat) : Kept s (unbook s tag) := by
  unfold unbook
  (repeat' split) <;> simp [Kept]

@[simp] theorem endDesc_kept (s : State) (d : Desc) (status corrected : Nat) : Kept s (endDesc s d status corrected) := by
  unfold endDesc
  (repeat' split) <;> simp [Kept]

@[simp] theorem dropDesc_kept (s : State) (d : Desc) (status : Nat) : Kept s (dropDesc s d status) := by
  unfold dropDesc
  (repeat' split) <;> simp [Kept]

@[simp] theorem cancelThatch_kept (s : State) (t : Nat) : Kept s (cancelThatch s t) := by
  unfold cancelThatch
  (repeat' split) <;> simp [Kept]

@[simp] theorem endEaves_kept (s : State) (p : EavesUnit → Bool) : Kept s (endEaves s p) := by
  unfold endEaves
  (repeat' split) <;> simp [Kept]

@[simp] theorem settleEaves_kept (s : State) (p : EavesUnit → Bool) : Kept s (settleEaves s p) := by
  unfold settleEaves
  (repeat' split) <;> simp [Kept]

@[simp] theorem dropMedia_kept (s : State) (p : MediaUnit → Bool) : Kept s (dropMedia s p) := by
  unfold dropMedia
  (repeat' split) <;> simp [Kept]

@[simp] theorem convClear_kept (s : State) (nsid u : Nat) : Kept s (convClear s nsid u) := by
  unfold convClear
  (repeat' split) <;> simp [Kept]

@[simp] theorem markPoison_kept (s : State) (nsid u : Nat) : Kept s (markPoison s nsid u) := by
  unfold markPoison
  (repeat' split) <;> simp [Kept]

@[simp] theorem markUnrec_kept (s : State) (nsid u : Nat) : Kept s (markUnrec s nsid u) := by
  unfold markUnrec
  (repeat' split) <;> simp [Kept]

@[simp] theorem noteUnrec_kept (s : State) (us : List (Nat × Nat)) : Kept s (noteUnrec s us) := by
  unfold noteUnrec
  (repeat' split) <;> simp [Kept]

@[simp] theorem clearMarks_kept (s : State) (nsid u : Nat) : Kept s (clearMarks s nsid u) := by
  unfold clearMarks
  (repeat' split) <;> simp [Kept]

@[simp] theorem placeUnit_kept (c : Cmd) (u content : Nat) (poison inBoth : Bool) (s : State) : Kept s (placeUnit c u content poison inBoth s) := by
  unfold placeUnit
  repeat' first
    | with_reducible assumption
    | with_reducible exact Kept.refl _
    | (extract_lets +onlyGivenNames x; first
        | (refine Kept.cut (t := x) ?_ ?_; rotate_left 1; intro hx; clear_value x; rotate_left 1; subst x)
        | subst x)
    | split
    | intro _
    | (simp [Kept, *]; done)

    | dsimp only

@[simp] theorem convCommit_kept (c : Cmd) (s : State) : Kept s (convCommit c s) := by
  unfold convCommit
  repeat' first
    | with_reducible assumption
    | with_reducible exact Kept.refl _
    | (extract_lets +onlyGivenNames x; first
        | (refine Kept.cut (t := x) ?_ ?_; rotate_left 1; intro hx; clear_value x; rotate_left 1; subst x)
        | subst x)
    | with_reducible refine forEach_kept _ _ _ ?_
    | with_reducible refine Kept.trans ?_ (forEach_kept _ _ _ ?_)
    | split
    | intro _
    | (simp [Kept, *]; done)

    | dsimp only

@[simp] theorem finishZone_kept (s : State) (nsid zi : Nat) (zfc : Bool) : Kept s (finishZone s nsid zi zfc) := by
  unfold finishZone
  dsimp only
  (repeat' split) <;> simp [Kept]

@[simp] theorem makeRoom_kept (s : State) (fn : Nat) : Kept s (makeRoom s fn) := by
  unfold makeRoom
  (repeat' split) <;> simp [Kept]

@[simp] theorem resetZone_kept (s : State) (ns : NsSt) (zi : Nat) : Kept s (resetZone s ns zi) := by
  unfold resetZone
  dsimp only
  (repeat' split) <;> simp [Kept]

@[simp] theorem offlineZone_kept (s : State) (nsid zi : Nat) : Kept s (offlineZone s nsid zi) := by
  unfold offlineZone
  dsimp only
  (repeat' split) <;> simp [Kept]

@[simp] theorem advanceZone_kept (s : State) (fn nsid zi n : Nat) : Kept s (advanceZone s fn nsid zi n) := by
  unfold advanceZone
  dsimp only
  (repeat' split) <;> simp [Kept]

/-! ### Admit -/

@[simp] theorem planFail_kept (s : State) (c : Cmd) (reason hint : Nat) : Kept s (planFail s c reason hint).st := by
  unfold planFail
  (repeat' split) <;> simp [Kept]

theorem bookPage_kept {s : State} {m : MemberSt} {t : Nat} {pl : Place} {n : Nat} {q : PageReq} {r} (h : bookPage s m t pl n q = some r) : Kept s r.1 := by
  unfold bookPage at h
  obtain ⟨r', h1, rfl⟩ := Option.map_eq_some_iff.1 h
  exact (bookSense_kept h1).trans (by simp [Kept])

theorem optFold2_kept {α β : Type} (f : Option (State × β) → α → Option (State × β)) (s0 : State)
    (hf : ∀ acc a, (∀ r, acc = some r → Kept s0 r.1) → ∀ r, f acc a = some r → Kept s0 r.1) (l : List α) (acc : Option (State × β))
    (h : ∀ r, acc = some r → Kept s0 r.1) : ∀ r, l.foldl f acc = some r → Kept s0 r.1 := by
  induction l generalizing acc with
  | nil => exact h
  | cons a l ih => exact ih _ (hf acc a h)

theorem bookAround_kept {s : State} {c : Cmd} {slot t : Nat} {th : ThatchSt} {pl : Place} {n : Nat} {prov : Bool}
    {req : Purpose → DestUnit × Nat → PageReq} {r} (h : bookAround s c slot t th pl n prov req = some r) : Kept s r.1 := by
  unfold bookAround at h
  dsimp only at h
  split at h
  · cases h
  · split at h
    · cases h
    · rename_i h'
      have := optFold2_kept _ s ?_ _ _ ?_ _ h'
      · cases h
        exact Kept.trans this (by simp [Kept])
      · intro acc a ha r hr
        split at hr
        · exact ha r hr
        · split at hr
          · cases hr
          · split at hr
            · rename_i h3
              cases hr
              exact (ha _ rfl).trans (bookPage_kept h3)
            · cases hr
      · intro r hr
        cases hr
        exact Kept.refl s

theorem planSlot_kept (c : Cmd) (total : Nat) (mo : Bool) (acc : Acc) (e : Nat × Nat) : Kept acc.st (planSlot c total mo acc e).st := by
  unfold planSlot
  dsimp only
  (repeat' split) <;> first
    | exact Kept.refl _
    | exact bookPage_kept (by assumption)
    | exact bookAround_kept (by assumption)

@[simp] theorem planSlots_kept (s : State) (c : Cmd) (mo : Bool) : Kept s (planSlots s c mo).st := by
  unfold planSlots
  have : ∀ (t : Nat) (l : List (Nat × Nat)) (acc : Acc), Kept s acc.st → Kept s (l.foldl (planSlot c t mo) acc).st := by
    intro t l
    induction l with
    | nil => exact fun _ h => h
    | cons e l ih => exact fun acc h => ih _ (h.trans (planSlot_kept ..))
  exact this _ _ _ (Kept.refl s)

theorem foldFst_kept {α β : Type} (l : List α) (f : State × β → α → State × β) (b : State × β) (h : ∀ b a, Kept b.1 (f b a).1) :
    Kept b.1 (l.foldl f b).1 := by
  induction l generalizing b with
  | nil => exact Kept.refl _
  | cons a l ih => exact (h b a).trans (ih _)

@[simp] theorem planRead_kept (s : State) (c : Cmd) (pool : Option Nat) (mayOpen : Bool) : Kept s (planRead s c pool mayOpen).st := by
  unfold planRead planFail
  cases pool <;> dsimp only <;> (repeat' split) <;> first
    | exact Kept.refl _
    | (simp [Kept]; done)
    | refine (planSlots_kept s c mayOpen).trans (foldFst_kept _ _ ((planSlots s c mayOpen).st, 0) fun b a => ?_)
  all_goals
    first
      | exact Kept.refl _
      | (split
         · rename_i h
           exact bookBuffers_kept h
         · exact Kept.refl _)

@[simp] theorem planSpace_kept (s : State) (c : Cmd) (host : Bool) : Kept s (planSpace s c host).st := by
  unfold planSpace planFail
  (repeat' split) <;> first
    | exact Kept.refl _
    | exact bookBuffers_kept (by assumption)
    | (simp [Kept]; done)

theorem planTime_kept (s0 s : State) (c : Cmd) (r : PlanRes) (hs : Kept s0 s) (h : Kept s0 r.st) : Kept s0 (planTime s c r).st := by
  unfold planTime planFail
  (repeat' split) <;> assumption

@[simp] theorem planWrite_kept (s : State) (c : Cmd) : Kept s (planWrite s c).st := by
  unfold planWrite planFail
  (repeat' split) <;> first
    | exact Kept.refl _
    | exact planTime_kept _ _ _ _ (Kept.refl _) (planSpace_kept ..)

@[simp] theorem planCopy_kept (s : State) (c : Cmd) (mayOpen : Bool) : Kept s (planCopy s c mayOpen).st := by
  unfold planCopy planFail
  dsimp only
  (repeat' split) <;> first
    | exact Kept.refl _
    | exact planSpace_kept ..
    | exact planTime_kept _ _ _ _ (Kept.refl _) (planRead_kept ..)

theorem planOther_kept (s : State) (c : Cmd) : Kept s (planOther s c).st := by
  unfold planOther planFail
  (repeat' split) <;> exact Kept.refl _

@[simp] theorem planService_kept (s : State) (c : Cmd) (mo : Bool) : Kept s (planService s c mo).st := by
  unfold planService
  split
  · exact planRead_kept ..
  · exact planWrite_kept ..
  · exact planWrite_kept ..
  · exact planWrite_kept ..
  · exact planCopy_kept ..
  · exact planOther_kept ..

/-! ### Serve -/

@[simp] theorem placeUnits_kept (s : State) (c : Cmd) (contents : List Nat) (bad : List Nat) : Kept s (placeUnits s c contents bad) := by
  unfold placeUnits
  (repeat' split) <;> simp [Kept]

@[simp] theorem finishCopy_kept (s : State) (c : Cmd) : Kept s (finishCopy s c) := by
  unfold finishCopy
  dsimp only
  (repeat' split) <;> simp [Kept]

@[simp] theorem writePoison_kept (s : State) (c : Cmd) : Kept s (writePoison s c) := by
  unfold writePoison
  (repeat' split) <;> simp [Kept]

@[simp] theorem finishRead_kept (s : State) (c : Cmd) : Kept s (finishRead s c) := by
  unfold finishRead
  dsimp only
  (repeat' split) <;> simp [Kept]

@[simp] theorem zoneAction_kept (s : State) (ns : NsSt) (c : Cmd) (zi : Nat) : Kept s (zoneAction s ns c zi).1 := by
  unfold zoneAction
  dsimp only
  (repeat' split) <;> simp [Kept]

@[simp] theorem zoneSend_kept (s : State) (c : Cmd) : Kept s (zoneSend s c) := by
  unfold zoneSend
  dsimp only
  (repeat' split) <;> simp [Kept]

@[simp] theorem deallocate_kept (s : State) (c : Cmd) (ranges : List (Nat × Nat)) : Kept s (deallocate s c ranges) := by
  unfold deallocate
  (repeat' split) <;> simp [Kept]

@[simp] theorem startWrite_kept (s : State) (c : Cmd) : Kept s (startWrite s c) := by
  unfold startWrite
  dsimp only
  (repeat' split) <;> simp [Kept]

@[simp] theorem takeCopyBufs_kept (s : State) (c : Cmd) : Kept s (takeCopyBufs s c).1 := by
  unfold takeCopyBufs
  repeat' first
    | with_reducible assumption
    | with_reducible exact Kept.refl _
    | exact allocBufs_kept (by assumption)
    | (extract_lets +onlyGivenNames x; first
        | (refine Kept.cut (t := x) ?_ ?_; rotate_left 1; intro hx; clear_value x; rotate_left 1; subst x)
        | subst x)
    | with_reducible refine forEach_kept _ _ _ ?_
    | with_reducible refine Kept.trans ?_ (forEach_kept _ _ _ ?_)
    | refine Kept.trans (allocBufs_kept (by assumption)) ?_
    | split
    | intro _
    | (simp [Kept, *]; done)
    | dsimp only

@[simp] theorem startCmd_kept (s : State) (c : Cmd) : Kept s (startCmd s c) := by
  unfold startCmd
  dsimp only
  (repeat' split) <;> simp [Kept]

@[simp] theorem enterCmd_kept (s : State) (c : Cmd) : Kept s (enterCmd s c) := by
  unfold enterCmd
  (repeat' split) <;> simp [Kept]

@[simp] theorem loadWaiting_kept (s : State) : Kept s (loadWaiting s) := by
  unfold loadWaiting
  dsimp only
  (repeat' split) <;> simp [Kept]

@[simp] theorem pinKey_kept (s : State) (c : Cmd) : Kept s (pinKey s c) := by
  unfold pinKey
  (repeat' split) <;> simp [Kept]

@[simp] theorem countRoutes_kept (s : State) (c : Cmd) : Kept s (countRoutes s c) := by
  unfold countRoutes
  (repeat' split) <;> simp [Kept]

theorem acceptance_kept (s0 : State) (r : PlanRes) (within : Bool) (h : Kept s0 r.st) : Kept s0 (acceptance s0 r within).1 := by
  refine h.trans ?_
  unfold acceptance
  dsimp only
  split <;> simp [Kept]

theorem acceptCmd_kept (s0 : State) (r : PlanRes) (within : Bool) (h : Kept s0 r.st) : Kept s0 (acceptCmd s0 r within) :=
  (acceptance_kept s0 r within h).trans (startCmd_kept ..)

@[simp] theorem holdCmd_kept (s : State) (c : Cmd) (reason : Nat) : Kept s (holdCmd s c reason) := by
  unfold holdCmd
  dsimp only
  (repeat' split) <;> simp [Kept]

@[simp] theorem noteFullStore_kept (s : State) (c : Cmd) (reason : Nat) : Kept s (noteFullStore s c reason) := by
  unfold noteFullStore
  (repeat' split) <;> simp [Kept]

@[simp] theorem holdOrRefuse_kept (s : State) (c : Cmd) (reason hint : Nat) : Kept s (holdOrRefuse s c reason hint) := by
  unfold holdOrRefuse
  dsimp only
  (repeat' split) <;> simp [Kept]

@[simp] theorem evaluate_kept (s : State) (c : Cmd) : Kept s (evaluate s c) := by
  unfold evaluate
  dsimp only
  (repeat' split) <;> first
    | exact acceptCmd_kept _ _ _ (planService_kept ..)
    | (simp [Kept]; done)
    | exact Kept.trans (by simp [Kept]) (holdOrRefuse_kept ..)

@[simp] theorem resumePurlin_kept (s : State) : Kept s (resumePurlin s) := by
  unfold resumePurlin
  refine forEach_kept _ _ _ ?_
  intro c s
  split
  · exact Kept.refl s
  · split
    · exact (takeCopyBufs_kept ..).trans (Kept.ite (finishRead_kept ..) (Kept.refl _))
    · exact zoneSend_kept ..
    · exact Kept.refl s

@[simp] theorem reevaluateAll_kept (s : State) : Kept s (reevaluateAll s) := by
  unfold reevaluateAll
  refine (resumePurlin_kept s).trans ?_
  refine forEach_kept _ _ _ ?_
  intro a s
  (repeat' split) <;> simp [Kept]

end Sys2Proof.Machine
end

