-- ==== Sys2Proof/Laws/KeptMedia.lean ====
section
/-! SUPPORT. `Kept` for recovery, media and background work. -/

set_option linter.all false

namespace Sys2Proof.Machine

/-! ### Recovery -/

@[simp] theorem flagRefresh_kept (s : State) (t : Nat) : Kept s (flagRefresh s t) := by
  unfold flagRefresh
  (repeat' split) <;> simp [Kept]

@[simp] theorem addHits_kept (s : State) (d : DieNo) (k n : Nat) : Kept s (addHits s d k n) := by
  unfold addHits
  dsimp only
  (repeat' split) <;> simp [Kept]

@[simp] theorem keepShift_kept (s : State) (d : DieNo) (k shift : Nat) : Kept s (keepShift s d k shift) := by
  unfold keepShift
  (repeat' split) <;> simp [Kept]

@[simp] theorem dropHard_kept (s : State) (p : Purpose) : Kept s (dropHard s p) := by
  unfold dropHard
  (repeat' split) <;> simp [Kept]

@[simp] theorem dropRebuild_kept (s : State) (id : Nat) : Kept s (dropRebuild s id) := by
  unfold dropRebuild
  (repeat' split) <;> simp [Kept]

@[simp] theorem releaseFallback_kept (s : State) (l : Ladder) : Kept s (releaseFallback s l) := by
  unfold releaseFallback
  (repeat' split) <;> simp [Kept]

@[simp] theorem setLadder_kept (s : State) (l : Ladder) : Kept s (setLadder s l) := by
  unfold setLadder
  (repeat' split) <;> simp [Kept]

@[simp] theorem dropSlotWork_kept (s : State) (c : Cmd) (slot? : Option Nat) : Kept s (dropSlotWork s c slot?) := by
  unfold dropSlotWork
  (repeat' split) <;> simp [Kept]

@[simp] theorem orphanReads_kept (s : State) (c : Cmd) : Kept s (orphanReads s c) := by
  unfold orphanReads
  (repeat' split) <;> simp [Kept]

@[simp] theorem slotDone_kept (s : State) (c : Cmd) (slot : Nat) : Kept s (slotDone s c slot) := by
  rw [slotDone.eq_1]
  refine Kept.ite (Kept.refl s) ?_
  refine (dropSlotWork_kept s c (some slot)).trans ?_
  refine (allocBufs_getD_kept _ 1 5 (c.slots[slot]?.getD slotNone).units).trans ?_
  refine (sealBufs_kept _ 1 (slotSeals (dropSlotWork s c (some slot)) c (c.slots[slot]?.getD slotNone))).trans ?_
  refine (updCmd_kept _ c fun y => { y with slots := vecUpd y.slots slot fun z => { z with done := true } }).trans ?_
  refine (noteRead_kept _ c.nsid ((c.slots[slot]?.getD slotNone).unit0 / 4)).trans ?_
  dsimp only
  (repeat' split) <;> first
    | exact finishRead_kept ..
    | exact Kept.refl _

@[simp] theorem enterRecovery_kept (s : State) (c : Cmd) (x : SlotSt) : Kept s (enterRecovery s c x) := by
  unfold enterRecovery
  dsimp only
  (repeat' split) <;> simp [Kept]

@[simp] theorem failRead_kept (s : State) (c : Cmd) : Kept s (failRead s c) := by
  unfold failRead
  dsimp only
  have h : Kept s (completeCmd (forEach (c.slots.filter fun x => !x.done) (fun x s => enterRecovery s c x) (dropSlotWork s c none)) c (.vendor 0xC6) 0 [] []) :=
    (dropSlotWork_kept s c none).trans ((forEach_kept _ _ _ fun x s => enterRecovery_kept s c x).trans (completeCmd_kept ..))
  split
  · exact h.trans (flushReady_kept ..)
  · exact h

@[simp] theorem chargeRecovery_kept (s : State) (fn nj : Nat) : Kept s (chargeRecovery s fn nj) := by
  unfold chargeRecovery
  simp [Kept]

theorem bookStage_kept {s : State} {st : Stage} {m : MemberSt} {t : Nat} {pl : Place} {cws dl start : Nat} {q : PageReq} {u e}
    (h : bookStage s st m t pl cws dl start q = .booked u e) : Kept s u := by
  unfold bookStage at h
  dsimp only at h
  split at h
  · cases h
  · rename_i h'
    refine (bookSense_kept h').trans ?_
    cases st <;> dsimp only at h <;> (repeat' split at h) <;> first
      | (cases h; done)
      | (cases h; simp [Kept])

theorem bookFirst_kept {s : State} {m : MemberSt} {t : Nat} {pl : Place} {cws dl start : Nat} {q : PageReq} {l : List Stage} {r}
    (h : bookFirst s m t pl cws dl start q l = some r) : Kept s r.2.1 := by
  induction l with
  | nil => cases h
  | cons st l ih =>
    unfold bookFirst at h
    split at h
    · rename_i h'
      cases h
      exact bookStage_kept h'
    · exact ih h
    · cases h

@[simp] theorem lastRoute_kept (s : State) (c : Cmd) (slot : Nat) (fallback : Option Nat) (g : State → State) (hg : ∀ s, Kept s (g s)) :
    Kept s (lastRoute s c slot fallback g) := by
  unfold lastRoute
  dsimp only
  (repeat' split) <;> first
    | (simp [Kept]; done)
    | exact hg _
    | exact (bookAround_kept (by assumption)).trans (by simp [Kept])

theorem atTime_back {s s1 s2 : State} {x : Nat} (h1 : Kept s s1) (h2 : Kept (atTime s1 x) s2) : Kept s (atTime s2 (now s)) := by
  obtain ⟨-, a, b, c, d, e⟩ := h1
  obtain ⟨-, a', b', c', d', e'⟩ := h2
  exact ⟨rfl, a'.trans a, b'.trans b, c'.trans c, d'.trans d, e'.trans e⟩

theorem ladderStepWith_kept (fail : State → Cmd → State) (hf : ∀ s c, Kept s (fail s c)) (s : State) (c : Cmd) (slot : Nat) (l0 : Ladder) :
    Kept s (ladderStepWith fail s c slot l0) := by
  unfold ladderStepWith
  have e : ∀ l : Ladder, Kept s (lastRoute (setLadder s l) c slot l.fallback (fail · c)) := fun l =>
    (setLadder_kept s l).trans (lastRoute_kept _ _ _ _ _ fun s => hf s c)
  dsimp only
  (repeat' split) <;> first
    | exact hf ..
    | exact e _
    | exact (atTime_back (bookFirst_kept (by assumption)) (bookAround_kept (by assumption))).trans (by simp [Kept])
    | exact (bookFirst_kept (by assumption)).trans (by simp [Kept])

@[simp] theorem takeLadder_kept (s : State) (o : Cmd) (slot : Nat) (l : Ladder) : Kept s (takeLadder s o slot l) := by
  unfold takeLadder
  split
  · exact Kept.refl s
  · exact ladderStepWith_kept _ failRead_kept ..

@[simp] theorem passLadders_kept (js : List (Cmd × Nat × Ladder)) (s : State) : Kept s (passLadders js s) := by
  unfold passLadders
  repeat' first
    | with_reducible assumption
    | with_reducible exact Kept.refl _
    | (extract_lets +onlyGivenNames x; first
        | (refine Kept.cut (t := x) ?_ ?_; rotate_left 1; intro hx; clear_value x; rotate_left 1; subst x)
        | subst x)
    | with_reducible refine forEach_kept _ _ _ ?_
    | with_reducible refine Kept.trans ?_ (forEach_kept _ _ _ ?_)
    | split
    | intro _
    | (simp [Kept, *]; done)
    | dsimp only

@[simp] theorem leaveJoined_kept (s : State) (c : Cmd) : Kept s (leaveJoined s c) := by
  unfold leaveJoined
  (repeat' split) <;> simp [Kept]

@[simp] theorem leaveReads_kept (s : State) (c : Cmd) : Kept s (leaveReads s c) := by
  unfold leaveReads
  (repeat' split) <;> simp [Kept]

@[simp] theorem noRoute_kept (s : State) (c : Cmd) : Kept s (noRoute s c) := by
  unfold noRoute
  (repeat' split) <;> simp [Kept]

@[simp] theorem noRouteStep_kept (s : State) (c : Cmd) (slot : Nat) (fb : Option Nat) : Kept s (lastRoute s c slot fb fun s => noRoute s c) :=
  lastRoute_kept _ _ _ _ _ fun s => noRoute_kept s c

@[simp] theorem ladderStep_kept (s : State) (c : Cmd) (slot : Nat) (l : Ladder) : Kept s (ladderStep s c slot l) :=
  ladderStepWith_kept _ noRoute_kept ..

@[simp] theorem pageFailed_kept (s : State) (c : Cmd) (slot shift cws : Nat) : Kept s (pageFailed s c slot shift cws) := by
  unfold pageFailed
  (repeat' split) <;> first
    | exact ladderStep_kept ..
    | exact Kept.refl _
    | exact noRouteStep_kept ..

@[simp] theorem shareResult_kept (s : State) (c : Cmd) (slot : Nat) : Kept s (shareResult s c slot) := by
  unfold shareResult
  dsimp only
  refine forEach_kept _ _ _ fun o s => forEach_kept _ _ _ fun e s => ?_
  split <;> simp [Kept]

@[simp] theorem rebookAround_kept (s : State) (c : Cmd) (slot : Nat) : Kept s (rebookAround s c slot) := by
  unfold rebookAround
  split
  · exact lastRoute_kept _ _ _ _ _ fun s => Kept.refl s
  · exact (updCmd_kept ..).trans (noRouteStep_kept ..)

@[simp] theorem relocHits_kept (s : State) (r : Rebuild) : Kept s (relocHits s r) := by
  unfold relocHits
  (repeat' split) <;> simp [Kept]

@[simp] theorem targetHits_kept (s : State) (c : Cmd) (slot : Nat) : Kept s (targetHits s c slot) := by
  unfold targetHits
  (repeat' split) <;> simp [Kept]

@[simp] theorem memberDone_kept (s : State) (id : Nat) : Kept s (memberDone s id) := by
  unfold memberDone
  dsimp only
  (repeat' split) <;> simp [Kept]

@[simp] theorem memberStep_kept (s : State) (id pos shift cws : Nat) (g : State → Cmd → State) (hg : ∀ s c, Kept s (g s c)) :
    Kept s (memberStep s id pos shift cws g) := by
  unfold memberStep
  dsimp only
  (repeat' split) <;> first
    | exact Kept.refl _
    | exact dropRebuild_kept ..
    | exact noRoute_kept ..
    | exact hg _ _
    | exact (bookFirst_kept (by assumption)).trans (by simp [Kept])

@[simp] theorem memberFailed_kept (s : State) (id pos shift cws : Nat) : Kept s (memberFailed s id pos shift cws) :=
  memberStep_kept _ _ _ _ _ _ noRoute_kept

@[simp] theorem chFault_kept (s : State) (c off : Nat) (d : Desc) (status : Nat) : Kept s (chFault s c off d status) := by
  unfold chFault
  (repeat' split) <;> simp [Kept]

theorem bookPassStage_kept {s : State} {fn : Nat} {m : MemberSt} {t : Nat} {pl : Place} {st : Bool × Nat} {q : PageReq} {r}
    (h : bookPassStage s fn m t pl st q = some r) : Kept s r := by
  unfold bookPassStage at h
  split at h
  · cases h
  · split at h
    · rename_i h'
      cases h
      exact (bookStage_kept h').trans (updMeter_kept ..)
    · cases h

@[simp] theorem updRun_kept (s : State) (nsid page : Nat) (f : PassRun → PassRun) : Kept s (updRun s nsid page f) := by
  unfold updRun
  (repeat' split) <;> simp [Kept]

@[simp] theorem goOnPass_kept (s : State) (e : RecEntry) : Kept s (goOnPass s e) := by
  unfold goOnPass
  repeat' first
    | with_reducible assumption
    | with_reducible exact Kept.refl _
    | exact bookPassStage_kept (by assumption)
    | (extract_lets +onlyGivenNames x; first
        | (refine Kept.cut (t := x) ?_ ?_; rotate_left 1; intro hx; clear_value x; rotate_left 1; subst x)
        | subst x)
    | with_reducible refine forEach_kept _ _ _ ?_
    | with_reducible refine Kept.trans ?_ (forEach_kept _ _ _ ?_)
    | refine Kept.trans (bookPassStage_kept (by assumption)) ?_
    | with_reducible refine Kept.getD ?_
    | with_reducible refine Kept.trans ?_ (Kept.getD ?_)
    | split
    | intro _
    | (simp [Kept, *]; done)
    | dsimp only

@[simp] theorem goOnPage_kept (s : State) (nsid page : Nat) : Kept s (goOnPage s nsid page) := by
  unfold goOnPage
  (repeat' split) <;> simp [Kept]

@[simp] theorem passFailed_kept (s : State) (nsid page pos : Nat) : Kept s (passFailed s nsid page pos) := by
  unfold passFailed
  (repeat' split) <;> simp [Kept]

@[simp] theorem passDecoded_kept (s : State) (nsid page pos : Nat) : Kept s (passDecoded s nsid page pos) := by
  unfold passDecoded
  (repeat' split) <;> simp [Kept]

@[simp] theorem markPage_kept (s : State) (nsid page : Nat) : Kept s (markPage s nsid page) := by
  unfold markPage
  dsimp only
  (repeat' split) <;> simp [Kept]

@[simp] theorem pageHits_kept (s : State) (nsid page : Nat) : Kept s (pageHits s nsid page) := by
  unfold pageHits
  (repeat' split) <;> simp [Kept]

@[simp] theorem updRecovery_kept (s : State) (nsid page : Nat) (f : RecEntry → RecEntry) : Kept s (updRecovery s nsid page f) := by
  unfold updRecovery
  (repeat' split) <;> simp [Kept]

@[simp] theorem passGives_kept (s : State) (e : RecEntry) : Kept s (passGives s e) := by
  unfold passGives
  repeat' first
    | with_reducible assumption
    | with_reducible exact Kept.refl _
    | (extract_lets +onlyGivenNames x; first
        | (refine Kept.cut (t := x) ?_ ?_; rotate_left 1; intro hx; clear_value x; rotate_left 1; subst x)
        | subst x)
    | with_reducible refine forEach_kept _ _ _ ?_
    | with_reducible refine Kept.trans ?_ (forEach_kept _ _ _ ?_)
    | split
    | intro _
    | (simp [Kept, *]; done)
    | dsimp only

@[simp] theorem passLoses_kept (s : State) (e : RecEntry) : Kept s (passLoses s e) := by
  unfold passLoses
  repeat' first
    | with_reducible assumption
    | with_reducible exact Kept.refl _
    | (extract_lets +onlyGivenNames x; first
        | (refine Kept.cut (t := x) ?_ ?_; rotate_left 1; intro hx; clear_value x; rotate_left 1; subst x)
        | subst x)
    | with_reducible refine forEach_kept _ _ _ ?_
    | with_reducible refine Kept.trans ?_ (forEach_kept _ _ _ ?_)
    | split
    | intro _
    | (simp [Kept, *]; done)
    | dsimp only

@[simp] theorem bookSamples_kept (s : State) (t : Nat) : Kept s (bookSamples s t) := by
  unfold bookSamples
  refine forEach_kept _ _ _ fun c s => forEach_kept _ _ _ fun e s => ?_
  dsimp only
  split
  · exact Kept.refl s
  · refine Kept.getD fun r hr => ?_
    obtain ⟨a, h1, rfl⟩ := Option.map_eq_some_iff.1 hr
    exact (bookPage_kept h1).trans (updMeter_kept ..)

/-! ### Media -/

theorem bookOp_kept {s : State} {d : DieNo} {t len tok : Nat} {k : CalKind} {su : Nat} {firm : Bool} {x : Desc} {r}
    (h : bookOp s d t len tok k su firm x = some r) : Kept s r := by
  unfold bookOp at h
  cases firm
  · simp only [Bool.false_eq_true, if_false, if_true] at h
    split at h
    · cases h
    · split at h
      · cases h
      · cases h
        exact Kept.trans ⟨rfl, rfl, rfl, rfl, rfl, rfl⟩ (addDesc_kept ..)
  · simp only [if_true] at h
    split at h
    · cases h
    · split at h
      · cases h
      · obtain ⟨s2, h1, rfl⟩ := Option.map_eq_some_iff.1 h
        exact (moveBackground_kept h1).trans (Kept.trans ⟨rfl, rfl, rfl, rfl, rfl, rfl⟩ (addDesc_kept ..))

@[simp] theorem journal_kept (s : State) (bytes : Nat) : Kept s (journal s bytes) := by
  unfold journal
  (repeat' split) <;> simp [Kept]

@[simp] theorem eraseStart_kept (s : State) (d : DieNo) (k : Nat) : Kept s (eraseStart s d k) := by
  unfold eraseStart
  (repeat' split) <;> simp [Kept]

@[simp] theorem bookOp_getD_kept (s : State) (d : DieNo) (t len tok : Nat) (k : CalKind) (su : Nat) (firm : Bool) (x : Desc) :
    Kept s ((bookOp s d t len tok k su firm x).getD s) := Kept.getD fun _ h => bookOp_kept h

theorem bookOp_else_kept {s s' : State} (h : Kept s s') {d : DieNo} {t len tok : Nat} {k : CalKind} {su : Nat} {firm : Bool} {x : Desc} :
    Kept s ((bookOp s' d t len tok k su firm x).getD s) := by
  cases h' : bookOp s' d t len tok k su firm x with
  | none => exact Kept.refl s
  | some r => exact h.trans (bookOp_kept h')

theorem bookErase_kept {s : State} {d : DieNo} {k : Nat} {slc : Bool} {p : Purpose} {r} (h : bookErase s d k slc p = some r) :
    Kept s r := by
  unfold bookErase at h
  obtain ⟨y, h1, rfl⟩ := Option.map_eq_some_iff.1 h
  exact (bookOp_kept h1).trans (eraseStart_kept ..)

theorem placeChunks_kept {s : State} {ch t n reserve : Nat} {r} (h : placeChunks s ch t n reserve = some r) : Kept s r.1 := by
  unfold placeChunks at h
  refine optFold2_kept _ s ?_ _ _ ?_ _ h
  · intro acc a ha r hr
    obtain ⟨x, h1, h2⟩ := Option.bind_eq_some_iff.1 hr
    obtain ⟨y, h3, rfl⟩ := Option.map_eq_some_iff.1 h2
    exact (ha x h1).trans ⟨rfl, rfl, rfl, rfl, rfl, rfl⟩
  · intro r hr
    cases hr
    exact Kept.refl s

theorem bookProgram_kept {s : State} {d : DieNo} {t len tok n : Nat} {k : CalKind} {firm : Bool} {x : Desc} {r}
    (h : bookProgram s d t len tok n k firm x = some r) : Kept s r := by
  unfold bookProgram at h
  obtain ⟨y, h1, h2⟩ := Option.bind_eq_some_iff.1 h
  exact (placeChunks_kept h1).trans (bookOp_kept h2)

@[simp] theorem poisonSettles_kept (s : State) (nsid u : Nat) : Kept s (poisonSettles s nsid u) := by
  unfold poisonSettles
  (repeat' split) <;> simp [Kept]

@[simp] theorem settleUnit_kept (t : Nat) (off : Nat) (s : State) : Kept s (settleUnit t off s) := by
  unfold settleUnit
  dsimp only
  (repeat' split) <;> simp [Kept]

@[simp] theorem sweepUnderlay_kept (s : State) (nsid zi : Nat) : Kept s (sweepUnderlay s nsid zi) := by
  unfold sweepUnderlay
  (repeat' split) <;> simp [Kept]

@[simp] theorem updCompact_kept (s : State) (d : DieNo) (k : Nat) (f : Compaction → Compaction) : Kept s (updCompact s d k f) := by
  unfold updCompact
  (repeat' split) <;> simp [Kept]

@[simp] theorem dropMove_kept (s : State) (d : Desc) : Kept s (dropMove s d) := by
  unfold dropMove
  (repeat' split) <;> simp [Kept]

@[simp] theorem rekeyUnits_kept (s : State) (p : MediaUnit → Bool) : Kept s (rekeyUnits s p) := by
  unfold rekeyUnits
  (repeat' split) <;> simp [Kept]

@[simp] theorem dropGranule_kept (s : State) (t i : Nat) : Kept s (dropGranule s t i) := by
  unfold dropGranule
  (repeat' split) <;> simp [Kept]

@[simp] theorem switchGranules_kept (s : State) (t a b : Nat) : Kept s (switchGranules s t a b) := by
  unfold switchGranules
  dsimp only
  refine Kept.trans (forEach_kept _ _ _ ?_) (forEach_kept _ _ _ ?_)
  · intro i s
    (repeat' split) <;> simp [Kept]
  · intro x s
    split <;> simp [Kept]

@[simp] theorem switchZone_kept (s : State) (r : Relocation) : Kept s (switchZone s r) := by
  unfold switchZone
  dsimp only
  (repeat' split) <;> simp [Kept]

@[simp] theorem settleThatch_kept (s : State) (t : Nat) : Kept s (settleThatch s t) := by
  unfold settleThatch
  dsimp only
  (repeat' split) <;> simp [Kept]

@[simp] theorem countPass_kept (s : State) (t : Nat) (th : ThatchSt) (x pos e : Nat) : Kept s (countPass s t th x pos e) := by
  unfold countPass
  (repeat' split) <;> simp [Kept]

@[simp] theorem chargeBackground_kept (s : State) (nj : Nat) : Kept s (chargeBackground s nj) := by
  unfold chargeBackground
  (repeat' split) <;> simp [Kept]

@[simp] theorem zoneLoses_kept (s : State) (nsid zi t : Nat) : Kept s (zoneLoses s nsid zi t) := by
  unfold zoneLoses
  dsimp only
  (repeat' split) <;> simp [Kept]

@[simp] theorem stopReloc_kept (s : State) (t : Nat) : Kept s (stopReloc s t) := by
  unfold stopReloc
  (repeat' split) <;> simp [Kept]

@[simp] theorem closeTarget_kept (s : State) (t : Nat) : Kept s (closeTarget s t) := by
  unfold closeTarget
  dsimp only
  (repeat' split) <;> simp [Kept]

@[simp] theorem loseMember_kept (s : State) (t : Nat) (d : DieNo) : Kept s (loseMember s t d) := by
  unfold loseMember
  dsimp only
  (repeat' split) <;> simp [Kept]

@[simp] theorem unreadablePage_kept (s : State) (us : List (Nat × Nat)) : Kept s (unreadablePage s us) := by
  unfold unreadablePage
  dsimp only
  (repeat' split) <;> simp [Kept]

@[simp] theorem relocUnreadable_kept (s : State) (th : ThatchSt) (c pos pg : Nat) : Kept s (relocUnreadable s th c pos pg) := by
  unfold relocUnreadable
  (repeat' split) <;> simp [Kept]

@[simp] theorem readAgain_kept (s : State) (dst c : Nat) : Kept s (readAgain s dst c) := by
  unfold readAgain
  (repeat' split) <;> simp [Kept]

theorem relocRebuild_kept {s : State} {src dst c pos pg : Nat} {failed : Bool} {r} (h : relocRebuild s src dst c pos pg failed = some r) :
    Kept s r := by
  unfold relocRebuild at h
  dsimp only at h
  split at h
  · cases h
  · obtain ⟨s2, h1, rfl⟩ := Option.map_eq_some_iff.1 h
    refine Kept.trans (t := s2) ?_ (Kept.trans ⟨rfl, rfl, rfl, rfl, rfl, rfl⟩ (chargeBackground_kept ..))
    refine optFold_kept _ s ?_ _ _ ?_ _ h1
    · intro acc a ha r hr
      split at hr
      · exact ha r hr
      · obtain ⟨x, h2, h3⟩ := Option.bind_eq_some_iff.1 hr
        obtain ⟨y, h4, rfl⟩ := Option.map_eq_some_iff.1 h3
        exact (ha x h2).trans (bookPage_kept h4)
    · intro r hr
      cases hr
      exact Kept.refl s

theorem nextRelocStage_kept {s : State} {d : Desc} {dst n : Nat} {p : Nat → Purpose} {r}
    (h : nextRelocStage s d dst n p = some r) : Kept s r := by
  unfold nextRelocStage at h
  dsimp only at h
  split at h
  · cases h
  · obtain ⟨_, _, h⟩ := Option.bind_eq_some_iff.1 h
    obtain ⟨_, _, h⟩ := Option.bind_eq_some_iff.1 h
    obtain ⟨_, _, h⟩ := Option.bind_eq_some_iff.1 h
    exact bookPassStage_kept h

@[simp] theorem relocPageFailed_kept (s : State) (d : Desc) (dst n : Nat) (failed : Bool) : Kept s (relocPageFailed s d dst n failed) := by
  unfold relocPageFailed
  dsimp only
  split
  · exact Kept.refl s
  · rename_i h _
    split at h
    · exact nextRelocStage_kept h
    · cases h
  · split
    · simp [Kept]
    · split
      · exact relocRebuild_kept (by assumption)
      · simp [Kept]

@[simp] theorem relocMemberFailed_kept (s : State) (r : Rebuild) (failed : Bool) : Kept s (relocMemberFailed s r failed) := by
  unfold relocMemberFailed
  dsimp only
  (repeat' split) <;> simp [Kept]

@[simp] theorem relocMemberNext_kept (s : State) (d : Desc) (r : Rebuild) (pos : Nat) : Kept s (relocMemberNext s d r pos) := by
  unfold relocMemberNext
  repeat' first
    | with_reducible assumption
    | with_reducible exact Kept.refl _
    | exact nextRelocStage_kept (by assumption)
    | (extract_lets +onlyGivenNames x; first
        | (refine Kept.cut (t := x) ?_ ?_; rotate_left 1; intro hx; clear_value x; rotate_left 1; subst x)
        | subst x)
    | with_reducible refine forEach_kept _ _ _ ?_
    | with_reducible refine Kept.trans ?_ (forEach_kept _ _ _ ?_)
    | refine Kept.trans (nextRelocStage_kept (by assumption)) ?_
    | split
    | intro _
    | (simp [Kept, *]; done)
    | dsimp only

@[simp] theorem softAnswer_kept (s : State) (ch tag : Nat) (out : SoftOutcome) : Kept s (softAnswer s ch tag out) := by
  unfold softAnswer
  repeat' first
    | exact Kept.refl _
    | with_reducible refine Kept.ite ?_ ?_
    | (simp [Kept]; done)
    | split
    | dsimp only

@[simp] theorem softAway_kept (s : State) : Kept s (softAway s) := by
  unfold softAway
  dsimp only
  (repeat' split) <;> simp [Kept]

@[simp] theorem updDump_kept (s : State) (f : Dump → Dump) : Kept s (updDump s f) := by
  unfold updDump
  (repeat' split) <;> simp [Kept]

@[simp] theorem dumpNext_kept (s : State) (d : DieNo) : Kept s (dumpNext s d) := by
  unfold dumpNext
  (repeat' split) <;> simp [Kept]

@[simp] theorem dumpDone_kept (s : State) (d : DieNo) (i : Nat) : Kept s (dumpDone s d i) := by
  unfold dumpDone
  (repeat' split) <;> simp [Kept]

@[simp] theorem dumpFailed_kept (s : State) (d : DieNo) (i : Nat) : Kept s (dumpFailed s d i) := by
  unfold dumpFailed
  (repeat' split) <;> simp [Kept]

@[simp] theorem dumpDieLost_kept (s : State) (d : DieNo) : Kept s (dumpDieLost s d) := by
  unfold dumpDieLost
  dsimp only
  (repeat' split) <;> simp [Kept]

@[simp] theorem memberLost_kept (s : State) (d : Desc) (r : Rebuild) (pos : Nat) : Kept s (memberLost s d r pos) := by
  unfold memberLost
  dsimp only
  (repeat' split) <;> first
    | exact Kept.refl _
    | exact dropRebuild_kept ..
    | exact memberStep_kept _ _ _ _ _ _ (fun s c => Kept.refl s)
    | exact bookPage_kept (by assumption)

@[simp] theorem workLost_kept (s : State) (d : Desc) : Kept s (workLost s d) := by
  unfold workLost
  repeat' first
    | exact Kept.refl _
    | with_reducible refine Kept.ite ?_ ?_
    | (simp [Kept]; done)
    | split
    | dsimp only

@[simp] theorem closeDesc_kept (s : State) (d : Desc) (status corrected : Nat) : Kept s (closeDesc s d status corrected) := by
  unfold closeDesc
  (repeat' split) <;> simp [Kept]

@[simp] theorem channelEvent_kept (s : State) (d : DieNo) (action : Nat) : Kept s (channelEvent s d action) := by
  unfold channelEvent
  (repeat' split) <;> simp [Kept]

@[simp] theorem dieEvent_kept (s : State) (d : DieNo) (cause : Nat) : Kept s (dieEvent s d cause) := by
  unfold dieEvent
  (repeat' split) <;> simp [Kept]

@[simp] theorem retireDie_kept (s : State) (d : DieNo) (cause : Nat) : Kept s (retireDie s d cause) := by
  unfold retireDie
  (repeat' split) <;> simp [Kept]

@[simp] theorem checkGbbt_kept (s : State) (d : DieNo) : Kept s (checkGbbt s d) := by
  unfold checkGbbt
  (repeat' split) <;> simp [Kept]

@[simp] theorem moveLog_kept (s : State) (d : DieNo) (k k' : Nat) : Kept s (moveLog s d k k') := by
  unfold moveLog
  (repeat' split) <;> simp [Kept]

@[simp] theorem replaceSlc_kept (s : State) (d : DieNo) (k mask cause : Nat) : Kept s (replaceSlc s d k mask cause) := by
  unfold replaceSlc
  extract_lets +onlyGivenNames u s1
  have h1 : Kept s s1 := enterPlanes_kept s d k mask cause false
  clear_value s1
  refine Kept.trans ?_ (checkGbbt_kept _ _)
  rcases h : takeReplacement s1 d u with _ | ⟨s2, k'⟩
  rotate_left 1
  · dsimp -zeta only
    extract_lets +onlyGivenNames s3
    have h3 : Kept s s3 := (h1.trans (takeReplacement_kept h)).trans (updBlock_kept _ d k' fun b => { b with erased := false })
    clear_value s3
    clear_value u
    cases u
    all_goals dsimp only
    all_goals try exact h3
    · refine Kept.trans h3 (Kept.trans (moveLog_kept s3 d k k') (Kept.getD fun r h => bookErase_kept h))
  · dsimp -zeta only
    extract_lets +onlyGivenNames s4
    have h4 : Kept s s4 := (h1.trans (updDie_kept _ d _)).trans (wornRow_kept ..)
    clear_value s4
    exact Kept.trans h4 (Kept.trans ⟨rfl, rfl, rfl, rfl, rfl, rfl⟩ (setWarning_kept ..))

@[simp] theorem eraseSlc_kept (s : State) (d : DieNo) (k : Nat) : Kept s (eraseSlc s d k) := by
  unfold eraseSlc
  dsimp only
  split
  · exact replaceSlc_kept ..
  · exact Kept.getD fun r h => bookErase_kept h

@[simp] theorem replaceUnused_kept (s : State) (d : DieNo) (k mask cause : Nat) : Kept s (replaceUnused s d k mask cause) := by
  unfold replaceUnused
  extract_lets +onlyGivenNames ow s1
  have h1 : Kept s s1 := (enterPlanes_kept s d k mask cause false).trans (coverFree_kept _ d)
  clear_value s1
  refine Kept.trans ?_ (checkGbbt_kept _ _)
  clear_value ow
  rcases ow with _ | ⟨t, th⟩
  · exact h1
  · dsimp only
    split
    · exact h1.trans (loseMember_kept ..)
    · exact (h1.trans (takeFree_kept (by assumption))).trans (updThatch_kept ..)

@[simp] theorem eraseZoneBlock_kept (s : State) (d : DieNo) (k : Nat) (p : Purpose) : Kept s (eraseZoneBlock s d k p) := by
  unfold eraseZoneBlock
  repeat' first
    | with_reducible assumption
    | with_reducible exact Kept.refl _
    | exact bookErase_kept (by assumption)
    | (extract_lets +onlyGivenNames x; first
        | (refine Kept.cut (t := x) ?_ ?_; rotate_left 1; intro hx; clear_value x; rotate_left 1; subst x)
        | subst x)
    | with_reducible refine forEach_kept _ _ _ ?_
    | with_reducible refine Kept.trans ?_ (forEach_kept _ _ _ ?_)
    | refine Kept.trans (bookErase_kept (by assumption)) ?_
    | with_reducible refine Kept.getD ?_
    | with_reducible refine Kept.trans ?_ (Kept.getD ?_)
    | split
    | intro _
    | (simp [Kept, *]; done)
    | dsimp only

@[simp] theorem bookReturned_kept (s : State) (c : Nat) : Kept s (bookReturned s c) := by
  unfold bookReturned
  repeat' first
    | with_reducible assumption
    | with_reducible exact Kept.refl _
    | (extract_lets +onlyGivenNames x; first
        | (refine Kept.cut (t := x) ?_ ?_; rotate_left 1; intro hx; clear_value x; rotate_left 1; subst x)
        | subst x)
    | with_reducible refine forEach_kept _ _ _ ?_
    | with_reducible refine Kept.trans ?_ (forEach_kept _ _ _ ?_)
    | split
    | intro _
    | (simp [Kept, *]; done)
    | dsimp only

@[simp] theorem spliceMember_kept (s : State) (t pos course : Nat) (counted : Bool) : Kept s (spliceMember s t pos course counted) := by
  unfold spliceMember
  extract_lets +onlyGivenNames th
  split
  · exact Kept.refl s
  · rename_i m _
    extract_lets +onlyGivenNames e c old s1 s2 room new
    have h1 : Kept s s1 := forEach_kept _ _ _ fun a s => dropDesc_kept s a 0x33
    have h2 : Kept s s2 := Kept.ite (h1.trans (enterGbbt_kept ..)) h1
    have h3 : ∀ r, new = some r → Kept s2 r.1 := by
      intro r h
      cases counted
      · exact takeErased_kept h
      · exact takeReplacement_kept h
    clear_value new s2 room
    rcases new with _ | ⟨s3, k⟩
    · cases room <;> exact h2.trans (loseMember_kept ..)
    · cases room
      · exact h2.trans (loseMember_kept ..)
      have h := h3 _ rfl
      dsimp -zeta only
      extract_lets +onlyGivenNames sp s4
      have h4 : Kept s s4 := (h2.trans h).trans (updThatch_kept ..)
      clear_value s4
      (repeat' split) <;> first
        | exact h4
        | exact h4.trans (readAgain_kept ..)

theorem bookStageRead_kept {s : State} {t pos x : Nat} {m : MemberSt} {us : List Nat} {two : Bool} {r}
    (h : bookStageRead s t pos x m us two = some r) : Kept s r := by
  unfold bookStageRead at h
  obtain ⟨e, _, h⟩ := Option.bind_eq_some_iff.1 h
  obtain ⟨s1, h1, rfl⟩ := Option.map_eq_some_iff.1 h
  exact (bookOp_kept h1).trans (chargeBackground_kept ..)

@[simp] theorem stageReads_kept (s : State) (t pos x : Nat) (m : MemberSt) (us : List Nat) : Kept s (stageReads s t pos x m us) := by
  unfold stageReads
  dsimp only
  split
  · exact Kept.refl s
  · refine Kept.getD fun r hr => ?_
    refine optFold_kept _ s ?_ _ _ ?_ _ hr
    · intro acc a ha r hr
      obtain ⟨s1, h1, h2⟩ := Option.bind_eq_some_iff.1 hr
      exact (ha _ h1).trans (bookStageRead_kept h2)
    · intro r hr
      cases hr
      exact Kept.refl s

@[simp] theorem stageDone_kept (s : State) (t pos x : Nat) : Kept s (stageDone s t pos x) := by
  unfold stageDone
  (repeat' split) <;> simp [Kept]

@[simp] theorem bookErase_getD_kept (s : State) (d : DieNo) (k : Nat) (slc : Bool) (p : Purpose) :
    Kept s ((bookErase s d k slc p).getD s) := Kept.getD fun _ h => bookErase_kept h

@[simp] theorem bookProgram_getD_kept (s : State) (d : DieNo) (t len tok n : Nat) (k : CalKind) (firm : Bool) (x : Desc) :
    Kept s ((bookProgram s d t len tok n k firm x).getD s) := Kept.getD fun _ h => bookProgram_kept h

@[simp] theorem bookPass_kept (s : State) (t pos : Nat) : Kept s (bookPass s t pos) := by
  unfold bookPass
  extract_lets +onlyGivenNames th
  split
  · split
    · exact Kept.refl s
    · rename_i x fine _
      dsimp only
      generalize hu : (if fine = true then ([] : List Nat) else stageUnits s th x pos) = us
      split
      · exact Kept.refl s
      · split
        · split
          · exact Kept.refl s
          · simp [Kept]
        · split
          · exact stageReads_kept ..
          · refine Kept.getD fun r hr => ?_
            obtain ⟨s1, h1, rfl⟩ := Option.map_eq_some_iff.1 hr
            exact (bookProgram_kept h1).trans ⟨rfl, rfl, rfl, rfl, rfl, rfl⟩
  · exact Kept.refl s

/-! ### Flash -/

@[simp] theorem updDesc_kept (s : State) (d : Desc) (f : Desc → Desc) : Kept s (updDesc s d f) := by
  unfold updDesc
  (repeat' split) <;> simp [Kept]

@[simp] theorem issueDesc_kept (s : State) (d : Desc) : Kept s (issueDesc s d) := by
  unfold issueDesc
  (repeat' split) <;> simp [Kept]

@[simp] theorem sealLost_kept (s : State) (d : Desc) : Kept s (sealLost s d) := by
  unfold sealLost
  (repeat' split) <;> simp [Kept]

@[simp] theorem readDone_kept (s : State) (d : Desc) (corrected : Nat) : Kept s (readDone s d corrected) := by
  unfold readDone
  dsimp only
  (repeat' split) <;> simp [Kept]

@[simp] theorem underlayFailed_kept (s : State) (d : Desc) (c : Cmd) (slot : Nat) : Kept s (underlayFailed s d c slot) := by
  unfold underlayFailed
  dsimp only
  split
  · exact noRoute_kept ..
  · split
    · exact noRoute_kept ..
    · split
      · exact noRoute_kept ..
      · split
        · split
          · exact bookPage_kept (by assumption)
          · exact noRoute_kept ..
        · exact noRoute_kept ..

@[simp] theorem underlayGone_kept (s : State) (nsid : Nat) (us : List Nat) : Kept s (underlayGone s nsid us) := by
  unfold underlayGone
  (repeat' split) <;> simp [Kept]

@[simp] theorem compactFailed_kept (s : State) (d : Desc) (k i : Nat) (die' : DieNo) : Kept s (compactFailed s d k i die') := by
  unfold compactFailed
  dsimp only
  split
  · exact Kept.refl s
  · split
    · simp [Kept]
    · rename_i x _ _
      have h : ∀ (o : Option State) (e : State), (∀ r, o = some r → Kept s r) → Kept s e → Kept s (o.getD e) := by
        intro o e h1 h2
        cases o
        · exact h2
        · exact h1 _ rfl
      refine h _ _ (fun r hr => ?_) (updCompact_kept ..)
      obtain ⟨_, _, h2⟩ := Option.bind_eq_some_iff.1 hr
      exact bookOp_kept h2

@[simp] theorem readFailed_kept (s : State) (d : Desc) (cws : Nat) : Kept s (readFailed s d cws) := by
  unfold readFailed
  repeat' first
    | with_reducible assumption
    | with_reducible exact Kept.refl _
    | exact bookStageRead_kept (by assumption)
    | (extract_lets +onlyGivenNames x; first
        | (refine Kept.cut (t := x) ?_ ?_; rotate_left 1; intro hx; clear_value x; rotate_left 1; subst x)
        | subst x)
    | with_reducible refine forEach_kept _ _ _ ?_
    | with_reducible refine Kept.trans ?_ (forEach_kept _ _ _ ?_)
    | refine Kept.trans (bookStageRead_kept (by assumption)) ?_
    | with_reducible refine Kept.getD ?_
    | with_reducible refine Kept.trans ?_ (Kept.getD ?_)
    | split
    | intro _
    | (simp [Kept, *]; done)
    | dsimp only

@[simp] theorem freeSources_kept (s : State) (t : Nat) : Kept s (freeSources s t) := by
  unfold freeSources
  dsimp only
  (repeat' split) <;> simp [Kept]

@[simp] theorem programDone_kept (s : State) (t pos x : Nat) (fine : Bool) : Kept s (programDone s t pos x fine) := by
  unfold programDone
  dsimp only
  (repeat' split) <;> simp [Kept]

@[simp] theorem eraseEnded_kept (s : State) (d : DieNo) (k : Nat) : Kept s (eraseEnded s d k) := by
  unfold eraseEnded
  (repeat' split) <;> simp [Kept]

@[simp] theorem eraseDone_kept (s : State) (d : Desc) : Kept s (eraseDone s d) := by
  unfold eraseDone
  dsimp only
  (repeat' split) <;> simp [Kept]

@[simp] theorem eraseFailed_kept (s : State) (d : Desc) (planes : Nat) : Kept s (eraseFailed s d planes) := by
  unfold eraseFailed
  dsimp only
  (repeat' split) <;> simp [Kept]

@[simp] theorem underlayDone_kept (s : State) (nsid zi : Nat) : Kept s (underlayDone s nsid zi) := by
  unfold underlayDone
  (repeat' split) <;> simp [Kept]

@[simp] theorem countTimeout_kept (s : State) (d : DieNo) : Kept s (countTimeout s d) := by
  unfold countTimeout
  dsimp only
  (repeat' split) <;> simp [Kept]

@[simp] theorem programFailed_kept (s : State) (d : Desc) (planes : Nat) : Kept s (programFailed s d planes) := by
  unfold programFailed
  (repeat' split) <;> simp [Kept]

@[simp] theorem eraseLost_kept (s : State) (d : Desc) : Kept s (eraseLost s d) := by
  unfold eraseLost
  (repeat' split) <;> simp [Kept]

@[simp] theorem dieReset_kept (s : State) (die' : DieNo) (but : Nat) : Kept s (dieReset s die' but) := by
  unfold dieReset
  repeat' first
    | with_reducible assumption
    | with_reducible exact Kept.refl _
    | (extract_lets +onlyGivenNames x; first
        | (refine Kept.cut (t := x) ?_ ?_; rotate_left 1; intro hx; clear_value x; rotate_left 1; subst x)
        | subst x)
    | with_reducible refine forEach_kept _ _ _ ?_
    | with_reducible refine Kept.trans ?_ (forEach_kept _ _ _ ?_)
    | split
    | intro _
    | (simp [Kept, *]; done)
    | dsimp only

@[simp] theorem deadDie_kept (s : State) (d : Desc) (status : Nat) (reset : Bool) : Kept s (deadDie s d status reset) := by
  unfold deadDie
  (repeat' split) <;> simp [Kept]

@[simp] theorem countCodewords_kept (s : State) (d : Desc) (bad : Nat) : Kept s (countCodewords s d bad) := by
  unfold countCodewords
  (repeat' split) <;> simp [Kept]

@[simp] theorem noteSpar_kept (s : State) (d : Desc) (found : List FoundTag) : Kept s (noteSpar s d found) := by
  unfold noteSpar
  (repeat' split) <;> simp [Kept]

@[simp] theorem holdHard_kept (s : State) (d : Desc) (cws : Nat) : Kept s (holdHard s d cws) := by
  unfold holdHard
  (repeat' split) <;> simp [Kept]

@[simp] theorem readOk_kept (s : State) (d : Desc) (corrected : Nat) (found : List FoundTag) : Kept s (readOk s d corrected found) := by
  unfold readOk
  dsimp only
  (repeat' split) <;> simp [Kept]

@[simp] theorem finishDesc_kept (s : State) (d : Desc) (out : DieOutcome) : Kept s (finishDesc s d out) := by
  unfold finishDesc
  dsimp only
  (repeat' split) <;> simp [Kept]

@[simp] theorem missWindow_kept (s : State) (d : DieNo) (start : Nat) : Kept s (missWindow s d start) := by
  unfold missWindow
  (repeat' split) <;> simp [Kept]

@[simp] theorem endWindow_kept (s : State) (d : DieNo) (w : CalEntry) : Kept s (endWindow s d w) := by
  unfold endWindow
  dsimp only
  (repeat' split) <;> simp [Kept]

@[simp] theorem waitingAround_kept (s : State) (d : DieNo) : Kept s (waitingAround s d) := by
  unfold waitingAround
  exact forEach_kept _ _ _ fun x s => (closeDesc_kept ..).trans (workLost_kept ..)

/-! ### Background -/

@[simp] theorem eraseHalf_kept (s : State) (h : Nat) : Kept s (eraseHalf s h) := by
  unfold eraseHalf
  repeat' first
    | with_reducible assumption
    | with_reducible exact Kept.refl _
    | (extract_lets +onlyGivenNames x; first
        | (refine Kept.cut (t := x) ?_ ?_; rotate_left 1; intro hx; clear_value x; rotate_left 1; subst x)
        | subst x)
    | with_reducible refine forEach_kept _ _ _ ?_
    | with_reducible refine Kept.trans ?_ (forEach_kept _ _ _ ?_)
    | split
    | intro _
    | (simp [Kept, *]; done)
    | (have := bookErase_kept ‹bookErase _ _ _ _ _ = some _›; (try dsimp only at this); simp [Kept, *]; done)
    | dsimp only

@[simp] theorem bookReadyErases_kept (s : State) (b : Nat) : Kept s (bookReadyErases s b) := by
  unfold bookReadyErases
  repeat' first
    | with_reducible assumption
    | with_reducible exact Kept.refl _
    | (extract_lets +onlyGivenNames x; first
        | (refine Kept.cut (t := x) ?_ ?_; rotate_left 1; intro hx; clear_value x; rotate_left 1; subst x)
        | subst x)
    | with_reducible refine forEach_kept _ _ _ ?_
    | with_reducible refine Kept.trans ?_ (forEach_kept _ _ _ ?_)
    | split
    | intro _
    | (simp [Kept, *]; done)
    | (have := takeFree_kept ‹takeFree _ _ _ = some _›; (try dsimp only at this); simp [Kept, *]; done)
    | (have := bookErase_kept ‹bookErase _ _ _ _ _ = some _›; (try dsimp only at this); simp [Kept, *]; done)
    | dsimp only

@[simp] theorem completeReady_kept (s : State) (t : Nat) : Kept s (completeReady s t) := by
  unfold completeReady
  repeat' first
    | with_reducible assumption
    | with_reducible exact Kept.refl _
    | exact takeFree_kept (by assumption)
    | (extract_lets +onlyGivenNames x; first
        | (refine Kept.cut (t := x) ?_ ?_; rotate_left 1; intro hx; clear_value x; rotate_left 1; subst x)
        | subst x)
    | with_reducible refine forEach_kept _ _ _ ?_
    | with_reducible refine Kept.trans ?_ (forEach_kept _ _ _ ?_)
    | refine Kept.trans (takeFree_kept (by assumption)) ?_
    | split
    | intro _
    | (simp [Kept, *]; done)
    | dsimp only

@[simp] theorem assembleReady_getD_kept (s : State) (b : Nat) : Kept s ((assembleReady s b).getD s) :=
  Kept.getD fun _ h => assembleReady_kept h

@[simp] theorem keepReady_kept (s : State) (b : Nat) : Kept s (keepReady s b) := by
  unfold keepReady
  dsimp only
  split <;> simp [Kept]

@[simp] theorem retryLater_kept (s : State) (t order : Nat) : Kept s (retryLater s t order) := by
  unfold retryLater
  (repeat' split) <;> simp [Kept]

theorem withBufs_kept (s : State) (dst c n : Nat) (f : State → Option State) (hf : ∀ s r, f s = some r → Kept s r) :
    Kept s (withBufs s dst c n f) := by
  unfold withBufs
  split
  · exact poolFailure_kept ..
  · exact Kept.getD fun r h => ((allocBufs_kept (by assumption)).trans (updThatch_kept ..)).trans (hf _ _ h)

theorem relocPage_kept {src dst : Nat} {m : MemberSt} {c pos pg : Nat} {acc : Option State} {r}
    (h : relocPage src dst m c pos pg acc = some r) : ∃ s, acc = some s ∧ Kept s r := by
  unfold relocPage at h
  obtain ⟨s, h1, h2⟩ := Option.bind_eq_some_iff.1 h
  refine ⟨s, h1, ?_⟩
  split at h2
  · obtain ⟨x, h3, rfl⟩ := Option.map_eq_some_iff.1 h2
    exact (bookPage_kept h3).trans (chargeBackground_kept ..)
  · exact relocRebuild_kept h2

theorem readCourse_kept {s : State} {src dst c : Nat} {r} (h : readCourse s src dst c = some r) : Kept s r := by
  unfold readCourse at h
  extract_lets th pages lost live waits s1 at h
  have h1 : Kept s s1 := Kept.ite (Kept.refl s) (forEach_kept _ _ _ fun a s => relocUnreadable_kept ..)
  clear_value s1
  split at h
  · cases h
  · refine optFold_kept _ s ?_ _ _ ?_ _ h
    · intro acc a ha r hr
      refine optFold_kept _ s ?_ _ _ ha _ hr
      intro acc b hb r hr
      obtain ⟨x, hx, hk⟩ := relocPage_kept hr
      exact (hb x hx).trans hk
    · intro r hr
      cases hr
      exact h1

theorem readGranulePage_kept {src dst : Nat} {acc : Option State} {off : Nat} {r}
    (h : readGranulePage src dst acc off = some r) : ∃ s, acc = some s ∧ Kept s r := by
  unfold readGranulePage at h
  obtain ⟨s, h1, h2⟩ := Option.bind_eq_some_iff.1 h
  refine ⟨s, h1, ?_⟩
  dsimp only at h2
  split at h2
  · cases h2
    exact Kept.refl _
  · split at h2
    · cases h2
      exact relocUnreadable_kept ..
    · obtain ⟨x, hx, hk⟩ := relocPage_kept h2
      cases hx
      exact hk

@[simp] theorem rereadCourse_kept (s : State) (dst c : Nat) : Kept s (rereadCourse s dst c) := by
  unfold rereadCourse
  dsimp only
  split
  · exact Kept.refl s
  · split
    · split
      · refine withBufs_kept _ _ _ _ _ fun s t h => ?_
        obtain ⟨s1, h1, rfl⟩ := Option.map_eq_some_iff.1 h
        exact (readCourse_kept h1).trans (updThatch_kept ..)
      · exact Kept.refl s
    · refine withBufs_kept _ _ _ _ _ fun s t h => ?_
      obtain ⟨s1, h1, rfl⟩ := Option.map_eq_some_iff.1 h
      refine Kept.trans ?_ (updThatch_kept ..)
      refine optFold_kept _ s ?_ _ _ ?_ _ h1
      · intro acc a ha r hr
        obtain ⟨x, hx, hk⟩ := readGranulePage_kept hr
        exact (ha x hx).trans hk
      · intro r hr
        cases hr
        exact Kept.refl s

@[simp] theorem copyCourse_kept (s : State) (r : Relocation) : Kept s (copyCourse s r) := by
  unfold copyCourse
  split
  · exact Kept.refl s
  · split
    · exact Kept.refl s
    · refine withBufs_kept _ _ _ _ _ fun s t h => ?_
      obtain ⟨s1, h1, rfl⟩ := Option.map_eq_some_iff.1 h
      exact (readCourse_kept h1).trans ⟨rfl, rfl, rfl, rfl, rfl, rfl⟩

@[simp] theorem startZoneCopy_kept (s : State) (t order : Nat) : Kept s (startZoneCopy s t order) := by
  unfold startZoneCopy
  repeat' first
    | with_reducible assumption
    | with_reducible exact Kept.refl _
    | (extract_lets +onlyGivenNames x; first
        | (refine Kept.cut (t := x) ?_ ?_; rotate_left 1; intro hx; clear_value x; rotate_left 1; subst x)
        | subst x)
    | split
    | intro _
    | (simp [Kept, *]; done)
    | (have := bindThatch_kept ‹bindThatch _ _ _ _ _ _ _ _ = some _›; (try dsimp only at this); simp [Kept, *]; done)
    | dsimp only

theorem relocTarget_kept {s : State} {r} (h : relocTarget s = some r) : Kept s r.1 := by
  unfold relocTarget at h
  split at h
  · cases h
    exact Kept.refl s
  · exact openConv_kept h

@[simp] theorem startConvCopy_kept (s : State) (t order : Nat) : Kept s (startConvCopy s t order) := by
  unfold startConvCopy
  repeat' first
    | with_reducible assumption
    | with_reducible exact Kept.refl _
    | exact relocTarget_kept (by assumption)
    | (extract_lets +onlyGivenNames x; first
        | (refine Kept.cut (t := x) ?_ ?_; rotate_left 1; intro hx; clear_value x; rotate_left 1; subst x)
        | subst x)
    | with_reducible refine forEach_kept _ _ _ ?_
    | with_reducible refine Kept.trans ?_ (forEach_kept _ _ _ ?_)
    | refine Kept.trans (relocTarget_kept (by assumption)) ?_
    | split
    | intro _
    | (simp [Kept, *]; done)
    | dsimp only

@[simp] theorem drawReclaim_kept (s : State) (b dst pages units : Nat) : Kept s (drawReclaim s b dst pages units) := by
  unfold drawReclaim
  repeat' first
    | with_reducible assumption
    | with_reducible exact Kept.refl _
    | (extract_lets +onlyGivenNames x; first
        | (refine Kept.cut (t := x) ?_ ?_; rotate_left 1; intro hx; clear_value x; rotate_left 1; subst x)
        | subst x)
    | with_reducible refine forEach_kept _ _ _ ?_
    | with_reducible refine Kept.trans ?_ (forEach_kept _ _ _ ?_)
    | split
    | intro _
    | (simp [Kept, *]; done)
    | dsimp only

theorem granulePages_kept {s : State} {src dst : Nat} {l : List Nat} {r}
    (h : l.foldl (readGranulePage src dst) (some s) = some r) : Kept s r := by
  refine optFold_kept _ s ?_ _ _ ?_ _ h
  · intro acc a ha r hr
    obtain ⟨x, hx, hk⟩ := readGranulePage_kept hr
    exact (ha x hx).trans hk
  · intro r hr
    cases hr
    exact Kept.refl s

@[simp] theorem copyGranules_kept (s : State) (r : Relocation) : Kept s (copyGranules s r) := by
  unfold copyGranules
  extract_lets th cu slots dst next s1 s2
  have hn : ∀ s f, Kept s (next s f) := fun s f => ⟨rfl, rfl, rfl, rfl, rfl, rfl⟩
  clear_value next
  split
  · exact Kept.refl s
  · split
    · have h1 : Kept s s1 := Kept.ite (closeConv_kept ..) (Kept.refl s)
      split
      · exact (h1.trans (relocTarget_kept (by assumption))).trans (hn ..)
      · exact h1
    · refine withBufs_kept _ _ _ _ _ fun s t h => ?_
      obtain ⟨s1, h1, rfl⟩ := Option.map_eq_some_iff.1 h
      refine Kept.trans (granulePages_kept h1) ?_
      refine Kept.trans ?_ (hn ..)
      refine Kept.trans ?_ (updThatch_kept ..)
      exact Kept.ite (drawReclaim_kept ..) (Kept.refl _)

theorem slcProgram_kept {s : State} {d : DieNo} {k wl : Nat} {p : Purpose} {r} (h : slcProgram s d k wl p = some r) : Kept s r :=
  bookProgram_kept h

theorem readYealm_kept {c : Compaction} {s : State} {i : Nat} {r} (h : readYealm c s i = some r) : Kept s r := by
  unfold readYealm at h
  obtain ⟨_, _, h⟩ := Option.bind_eq_some_iff.1 h
  obtain ⟨s1, h1, rfl⟩ := Option.map_eq_some_iff.1 h
  exact (bookOp_kept h1).trans (chargeBackground_kept ..)

@[simp] theorem logYealm_kept (s : State) (y : UnderlayYealm) : Kept s (logYealm s y) := by
  unfold logYealm
  (repeat' split) <;> simp [Kept]

theorem bookEach_kept (s : State) (l : List Nat) (f : State → Nat → Option State) (h : ∀ s i r, f s i = some r → Kept s r) :
    Kept s (bookEach s l f).1 := by
  unfold bookEach
  refine foldFst_kept _ _ (s, _) fun b a => ?_
  split
  · exact h _ _ _ (by assumption)
  · exact Kept.refl _

theorem putYealm_kept {c : Compaction} {s : State} {i : Nat} {r} (h : putYealm c s i = some r) : Kept s r := by
  unfold putYealm at h
  obtain ⟨_, _, h⟩ := Option.bind_eq_some_iff.1 h
  obtain ⟨s1, h1, rfl⟩ := Option.map_eq_some_iff.1 h
  exact (slcProgram_kept h1).trans (logYealm_kept ..)

@[simp] theorem startCompaction_kept (s : State) (d : DieNo) : Kept s (startCompaction s d) := by
  unfold startCompaction
  (repeat' split) <;> simp [Kept]

@[simp] theorem wipeBlock_kept (s : State) (c : Compaction) : Kept s (wipeBlock s c) := by
  unfold wipeBlock
  (repeat' split) <;> simp [Kept]

@[simp] theorem goOnCompaction_kept (s : State) (c : Compaction) : Kept s (goOnCompaction s c) := by
  unfold goOnCompaction
  have a : ∀ l g, Kept s (updCompact (bookEach s l (readYealm c)).1 c.die c.dst g) := fun l g =>
    (bookEach_kept _ _ _ fun _ _ _ h => readYealm_kept h).trans (updCompact_kept ..)
  have b : ∀ l g, Kept s (updCompact (bookEach s l (putYealm c)).1 c.die c.dst g) := fun l g =>
    (bookEach_kept _ _ _ fun _ _ _ h => putYealm_kept h).trans (updCompact_kept ..)
  refine Kept.ite (Kept.refl s) (Kept.ite (a _ _) (Kept.ite (Kept.refl s) (Kept.ite (wipeBlock_kept ..) (Kept.ite ?_ (Kept.ite ?_ (b _ _))))))
  · exact ⟨rfl, rfl, rfl, rfl, rfl, rfl⟩
  · exact Kept.ite (Kept.refl s) (eraseSlc_kept ..)

@[simp] theorem compactUnderlay_kept (s : State) : Kept s (compactUnderlay s) := by
  unfold compactUnderlay
  (repeat' split) <;> simp [Kept]

theorem underlayProgram_kept {s : State} {d : DieNo} {nsid zi : Nat} {us : List Nat} {two : Bool} {r}
    (h : underlayProgram s d nsid zi us two = some r) : Kept s r := by
  unfold underlayProgram at h
  split at h
  · cases h
  · rename_i k _
    dsimp only at h
    split at h
    · cases h
    · obtain ⟨s2, h1, rfl⟩ := Option.map_eq_some_iff.1 h
      exact (slcProgram_kept h1).trans (Kept.trans (t := logYealm s2 { die := d, block := k, wl := nextWl s d k, nsid := nsid, zone := zi, units := us }) (logYealm_kept ..) ⟨rfl, rfl, rfl, rfl, rfl, rfl⟩)

theorem moveYealm_kept {s : State} {nsid zi : Nat} {m : MemberSt} {c : Nat} {us : List Nat} {r}
    (h : moveYealm s nsid zi m c us = some r) : Kept s r := by
  unfold moveYealm at h
  dsimp only at h
  split at h
  · cases h
  · refine optFold_kept _ s ?_ _ _ ?_ _ h
    · intro acc p ha r hr
      obtain ⟨x, h5, h6⟩ := Option.bind_eq_some_iff.1 hr
      obtain ⟨y, h7, h8⟩ := Option.bind_eq_some_iff.1 h6
      exact ((ha x h5).trans (underlayProgram_kept h7)).trans (underlayProgram_kept h8)
    · intro r hr
      cases hr
      exact ⟨rfl, rfl, rfl, rfl, rfl, rfl⟩

theorem moveUnderlay_kept {s : State} {nsid zi : Nat} {r} (h : moveUnderlay s nsid zi = some r) : Kept s r := by
  unfold moveUnderlay at h
  split at h
  · cases h
  · dsimp only at h
    obtain ⟨s1, h1, h2⟩ := Option.bind_eq_some_iff.1 h
    obtain ⟨s2, h3, rfl⟩ := Option.map_eq_some_iff.1 h2
    refine Kept.trans (t := s2) (Kept.trans (allocBufs_kept h1) ?_) ⟨rfl, rfl, rfl, rfl, rfl, rfl⟩
    refine optFold_kept _ s1 ?_ _ _ ?_ _ h3
    · intro acc a ha r hr
      obtain ⟨x, h5, h6⟩ := Option.bind_eq_some_iff.1 hr
      obtain ⟨y, _, h8⟩ := Option.bind_eq_some_iff.1 h6
      exact (ha x h5).trans (moveYealm_kept h8)
    · intro r hr
      cases hr
      exact Kept.refl s1

@[simp] theorem moveUnderlay_getD_kept (s : State) (nsid zi : Nat) : Kept s ((moveUnderlay s nsid zi).getD s) :=
  Kept.getD fun _ h => moveUnderlay_kept h

@[simp] theorem tryUnderlay_kept (s : State) (nsid zi : Nat) : Kept s (tryUnderlay s nsid zi) := by
  unfold tryUnderlay
  repeat' first
    | with_reducible assumption
    | with_reducible exact Kept.refl _
    | exact moveUnderlay_kept (by assumption)
    | exact allocBufs_kept (by assumption)
    | (extract_lets +onlyGivenNames x; first
        | (refine Kept.cut (t := x) ?_ ?_; rotate_left 1; intro hx; clear_value x; rotate_left 1; subst x)
        | subst x)
    | with_reducible refine forEach_kept _ _ _ ?_
    | with_reducible refine Kept.trans ?_ (forEach_kept _ _ _ ?_)
    | refine Kept.trans (moveUnderlay_kept (by assumption)) ?_
    | refine Kept.trans (allocBufs_kept (by assumption)) ?_
    | split
    | intro _
    | (simp [Kept, *]; done)
    | dsimp only

@[simp] theorem relieveUnderlay_kept (s : State) : Kept s (relieveUnderlay s) := by
  unfold relieveUnderlay
  (repeat' split) <;> simp [Kept]

@[simp] theorem dropAbandoned_kept (s : State) : Kept s (dropAbandoned s) := by
  unfold dropAbandoned
  repeat' first
    | with_reducible assumption
    | with_reducible exact Kept.refl _
    | (extract_lets +onlyGivenNames x; first
        | (refine Kept.cut (t := x) ?_ ?_; rotate_left 1; intro hx; clear_value x; rotate_left 1; subst x)
        | subst x)
    | with_reducible refine forEach_kept _ _ _ ?_
    | with_reducible refine Kept.trans ?_ (forEach_kept _ _ _ ?_)
    | split
    | intro _
    | (simp [Kept, *]; done)
    | dsimp only

@[simp] theorem mapWaiting_kept (s : State) : Kept s (mapWaiting s) := by
  unfold mapWaiting
  (repeat' split) <;> simp [Kept]

@[simp] theorem startRefresh_kept (s : State) (t order : Nat) : Kept s (startRefresh s t order) := by
  unfold startRefresh
  (repeat' split) <;> simp [Kept]

@[simp] theorem runCopies_kept (s : State) (p : Nat → Bool) : Kept s (runCopies s p) := by
  unfold runCopies
  repeat' first
    | with_reducible assumption
    | with_reducible exact Kept.refl _
    | (extract_lets +onlyGivenNames x; first
        | (refine Kept.cut (t := x) ?_ ?_; rotate_left 1; intro hx; clear_value x; rotate_left 1; subst x)
        | subst x)
    | with_reducible refine forEach_kept _ _ _ ?_
    | with_reducible refine Kept.trans ?_ (forEach_kept _ _ _ ?_)
    | split
    | intro _
    | (simp [Kept, *]; done)
    | dsimp only

@[simp] theorem promoteReclaim_kept (s : State) : Kept s (promoteReclaim s) := by
  unfold promoteReclaim
  (repeat' split) <;> simp [Kept]

@[simp] theorem warmSenses_kept (s : State) : Kept s (warmSenses s) := by
  unfold warmSenses
  repeat' first
    | with_reducible assumption
    | with_reducible exact Kept.refl _
    | (extract_lets +onlyGivenNames x; first
        | (refine Kept.cut (t := x) ?_ ?_; rotate_left 1; intro hx; clear_value x; rotate_left 1; subst x)
        | subst x)
    | with_reducible refine forEach_kept _ _ _ ?_
    | with_reducible refine Kept.trans ?_ (forEach_kept _ _ _ ?_)
    | split
    | intro _
    | (simp [Kept, *]; done)
    | (have := bookOp_kept ‹bookOp _ _ _ _ _ _ _ _ _ = some _›; (try dsimp only at this); simp [Kept, *]; done)
    | dsimp only

@[simp] theorem decideLower_kept (s : State) : Kept s (decideLower s) := by
  unfold decideLower
  repeat' first
    | with_reducible assumption
    | with_reducible exact Kept.refl _
    | (extract_lets +onlyGivenNames x; first
        | (refine Kept.cut (t := x) ?_ ?_; rotate_left 1; intro hx; clear_value x; rotate_left 1; subst x)
        | subst x)
    | with_reducible refine forEach_kept _ _ _ ?_
    | with_reducible refine Kept.trans ?_ (forEach_kept _ _ _ ?_)
    | split
    | intro _
    | (simp [Kept, *]; done)
    | dsimp only

@[simp] theorem decideWork_kept (s : State) : Kept s (decideWork s) := by
  unfold decideWork
  extract_lets +onlyGivenNames s1
  have h1 : Kept s s1 := by simp [s1, Kept]
  clear_value s1
  extract_lets +onlyGivenNames s2
  have h2 : Kept s s2 := h1.trans (by simp [s2, Kept])
  clear_value s2
  extract_lets +onlyGivenNames s3
  have h3 : Kept s s3 := h2.trans (by simp [s3, Kept])
  clear_value s3
  extract_lets +onlyGivenNames s4
  have h4 : Kept s s4 := h3.trans (forEach_kept _ _ _ fun _ _ => tryUnderlay_kept ..)
  clear_value s4
  refine Kept.ite h4 ?_
  extract_lets +onlyGivenNames s5
  have h5 : Kept s s5 := h4.trans (by
    simp only [s5]
    refine forEach_kept _ _ _ fun c s => ?_
    split
    · exact bookReturned_kept ..
    · exact Kept.refl _)
  clear_value s5
  extract_lets +onlyGivenNames s6
  have h6 : Kept s s6 := h5.trans (forEach_kept _ _ _ fun _ _ => keepReady_kept ..)
  clear_value s6
  extract_lets +onlyGivenNames s7
  have h7 : Kept s s7 := h6.trans (forEach_kept _ _ _ fun e s => by
    split
    · exact goOnPage_kept ..
    · exact Kept.refl _)
  clear_value s7
  extract_lets +onlyGivenNames s8
  have h8 : Kept s s8 := h7.trans (runCopies_kept ..)
  clear_value s8
  extract_lets +onlyGivenNames s9
  have h9 : Kept s s9 := h8.trans (by
    simp only [s9]
    split <;> simp [Kept])
  clear_value s9
  exact Kept.ite h9 (h9.trans (decideLower_kept ..))

/-! ### Capacity -/

@[simp] theorem capacityEvent_kept (s : State) (sev bay cap com : Nat) : Kept s (capacityEvent s sev bay cap com) := by
  unfold capacityEvent
  (repeat' split) <;> simp [Kept]

@[simp] theorem flagBay_kept (b : Nat) (s : State) : Kept s (flagBay b s) := by
  unfold flagBay
  repeat' first
    | with_reducible assumption
    | with_reducible exact Kept.refl _
    | (extract_lets +onlyGivenNames x; first
        | (refine Kept.cut (t := x) ?_ ?_; rotate_left 1; intro hx; clear_value x; rotate_left 1; subst x)
        | subst x)
    | split
    | intro _
    | (simp [Kept, *]; done)

    | dsimp only

@[simp] theorem recharge_kept (s : State) : Kept s (recharge s) := by
  unfold recharge
  (repeat' split) <;> simp [Kept]

@[simp] theorem recomputeBays_kept (s : State) : Kept s (recomputeBays s) := by
  unfold recomputeBays
  (repeat' split) <;> simp [Kept]

@[simp] theorem recommendResets_kept (s : State) (ns : NsSt) : Kept s (recommendResets s ns) := by
  unfold recommendResets
  repeat' first
    | with_reducible assumption
    | with_reducible exact Kept.refl _
    | (extract_lets +onlyGivenNames x; first
        | (refine Kept.cut (t := x) ?_ ?_; rotate_left 1; intro hx; clear_value x; rotate_left 1; subst x)
        | subst x)
    | with_reducible refine forEach_kept _ _ _ ?_
    | with_reducible refine Kept.trans ?_ (forEach_kept _ _ _ ?_)
    | split
    | intro _
    | (simp [Kept, *]; done)

    | dsimp only

@[simp] theorem recomputeWidth_kept (s : State) (k : Nat) : Kept s (recomputeWidth s k) := by
  unfold recomputeWidth
  repeat' first
    | with_reducible assumption
    | with_reducible exact Kept.refl _
    | (extract_lets +onlyGivenNames x; first
        | (refine Kept.cut (t := x) ?_ ?_; rotate_left 1; intro hx; clear_value x; rotate_left 1; subst x)
        | subst x)
    | with_reducible refine forEach_kept _ _ _ ?_
    | with_reducible refine Kept.trans ?_ (forEach_kept _ _ _ ?_)
    | split
    | intro _
    | (simp [Kept, *]; done)

    | dsimp only

@[simp] theorem recomputeEaves_kept (s : State) : Kept s (recomputeEaves s) := by
  unfold recomputeEaves
  repeat' first
    | with_reducible assumption
    | with_reducible exact Kept.refl _
    | (extract_lets +onlyGivenNames x; first
        | (refine Kept.cut (t := x) ?_ ?_; rotate_left 1; intro hx; clear_value x; rotate_left 1; subst x)
        | subst x)
    | split
    | intro _
    | (simp [Kept, *]; done)

    | dsimp only

@[simp] theorem setLink_kept (s : State) (rate width : Nat) : Kept s (setLink s rate width) := by
  unfold setLink
  (repeat' split) <;> simp [Kept]

@[simp] theorem linkTo_kept (s : State) (rate width : Nat) : Kept s (linkTo s rate width) := by
  unfold linkTo
  dsimp only
  (repeat' split) <;> simp [Kept]

end Sys2Proof.Machine
end

