-- ==== Sys2Proof/Laws/KeptPlant.lean ====
section
/-! SUPPORT. `Kept` for power, channels, DRAM, airflow, resets and start-up. -/

set_option linter.all false

namespace Sys2Proof.Machine

/-! ### Power -/

@[simp] theorem readyFns_kept (s : State) : Kept s (readyFns s) := by
  unfold readyFns
  (repeat' split) <;> simp [Kept]

@[simp] theorem enterPhase_kept (s : State) (p reason : Nat) : Kept s (enterPhase s p reason) := by
  unfold enterPhase
  (repeat' split) <;> simp [Kept]

@[simp] theorem allIslands_kept (s : State) (st : IslState) : Kept s (allIslands s st) := by
  unfold allIslands
  (repeat' split) <;> simp [Kept]

@[simp] theorem afterDump_kept (s : State) (outcome : Nat) : Kept s (afterDump s outcome) := by
  unfold afterDump
  repeat' first
    | with_reducible assumption
    | with_reducible exact Kept.refl _
    | (extract_lets +onlyGivenNames x; first
        | (refine Kept.cut (t := x) ?_ ?_; rotate_left 1; intro hx; clear_value x; rotate_left 1; subst x)
        | subst x)
    | split
    | intro _
    | (simp [Kept, *]; done)

    | dsimp only

@[simp] theorem lossCommands_kept (s : State) : Kept s (lossCommands s) := by
  unfold lossCommands
  (repeat' split) <;> simp [Kept]

@[simp] theorem lossDesc_kept (d : Desc) (s : State) : Kept s (lossDesc d s) := by
  unfold lossDesc
  repeat' first
    | with_reducible assumption
    | with_reducible exact Kept.refl _
    | (extract_lets +onlyGivenNames x; first
        | (refine Kept.cut (t := x) ?_ ?_; rotate_left 1; intro hx; clear_value x; rotate_left 1; subst x)
        | subst x)
    | split
    | intro _
    | (simp [Kept, *]; done)

    | dsimp only

@[simp] theorem startDump_kept (s : State) : Kept s (startDump s) := by
  unfold startDump
  (repeat' split) <;> simp [Kept]

@[simp] theorem raisePowerLoss_kept (s : State) : Kept s (raisePowerLoss s) := by
  unfold raisePowerLoss migrationStops
  repeat' first
    | with_reducible assumption
    | with_reducible exact Kept.refl _
    | (extract_lets +onlyGivenNames x; first
        | (refine Kept.cut (t := x) ?_ ?_; rotate_left 1; intro hx; clear_value x; rotate_left 1; subst x)
        | subst x)
    | split
    | intro _
    | (simp [Kept, *]; done)

    | dsimp only

@[simp] theorem switchOver_kept (s : State) : Kept s (switchOver s) := by
  unfold switchOver
  (repeat' split) <;> simp [Kept]

@[simp] theorem useHalf_kept (s : State) (h : Nat) : Kept s (useHalf s h) := by
  unfold useHalf
  (repeat' split) <;> simp [Kept]

@[simp] theorem reportLost_kept (s : State) (nsid first count : Nat) : Kept s (reportLost s nsid first count) := by
  unfold reportLost
  (repeat' split) <;> simp [Kept]

@[simp] theorem restoreZone_kept (s : State) (d : Dump) (kept lost : List EavesUnit) (known : Bool) (key : Nat × Nat) : Kept s (restoreZone s d kept lost known key) := by
  unfold restoreZone
  repeat' first
    | with_reducible assumption
    | with_reducible exact Kept.refl _
    | (extract_lets +onlyGivenNames x; first
        | (refine Kept.cut (t := x) ?_ ?_; rotate_left 1; intro hx; clear_value x; rotate_left 1; subst x)
        | subst x)
    | split
    | intro _
    | (simp [Kept, *]; done)

    | dsimp only

@[simp] theorem replayGutter_kept (s : State) (d : Dump) : Kept s (replayGutter s d) := by
  unfold replayGutter
  (repeat' split) <;> simp [Kept]

@[simp] theorem spliceAborted_kept (s : State) : Kept s (spliceAborted s) := by
  unfold spliceAborted
  repeat' first
    | with_reducible assumption
    | with_reducible exact Kept.refl _
    | (extract_lets +onlyGivenNames x; first
        | (refine Kept.cut (t := x) ?_ ?_; rotate_left 1; intro hx; clear_value x; rotate_left 1; subst x)
        | subst x)
    | with_reducible refine forEach_kept _ _ _ ?_
    | with_reducible refine Kept.trans ?_ (forEach_kept _ _ _ ?_)
    | split
    | intro _
    | (simp [Kept, *]; done)

    | dsimp only

@[simp] theorem dropTargets_kept (s : State) : Kept s (dropTargets s) := by
  unfold dropTargets
  repeat' first
    | with_reducible assumption
    | with_reducible exact Kept.refl _
    | (extract_lets +onlyGivenNames x; first
        | (refine Kept.cut (t := x) ?_ ?_; rotate_left 1; intro hx; clear_value x; rotate_left 1; subst x)
        | subst x)
    | with_reducible refine forEach_kept _ _ _ ?_
    | with_reducible refine Kept.trans ?_ (forEach_kept _ _ _ ?_)
    | split
    | intro _
    | (simp [Kept, *]; done)

    | dsimp only

/-! ### Images -/

@[simp] theorem activate_kept (s : State) (t : Nat) (h : ImageHdr) : Kept s (activate s t h) := by
  unfold activate
  (repeat' split) <;> simp [Kept]

@[simp] theorem useMicrocode_kept (s : State) : Kept s (useMicrocode s) := by
  unfold useMicrocode
  (repeat' split) <;> simp [Kept]

/-! ### Channels -/

@[simp] theorem keepErase_kept (s : State) (d : Desc) : Kept s (keepErase s d) := by
  unfold keepErase
  (repeat' split) <;> simp [Kept]

@[simp] theorem flushChannel_kept (s : State) (c : Nat) : Kept s (flushChannel s c) := by
  unfold flushChannel
  (repeat' split) <;> simp [Kept]

@[simp] theorem cutDesc_kept (s : State) (d : Desc) : Kept s (cutDesc s d) := by
  unfold cutDesc
  (repeat' split) <;> simp [Kept]

@[simp] theorem cutWork_kept (d : Desc) (s : State) : Kept s (cutWork d s) := by
  unfold cutWork
  (repeat' split) <;> simp [Kept]

@[simp] theorem channelLost_kept (s : State) (c : Nat) (st : IslState) : Kept s (channelLost s c st) := by
  unfold channelLost
  (repeat' split) <;> simp [Kept]

@[simp] theorem releaseChannel_kept (s : State) (c : Nat) : Kept s (releaseChannel s c) := by
  unfold releaseChannel
  (repeat' split) <;> simp [Kept]

@[simp] theorem severeReset_kept (s : State) (c : Nat) : Kept s (severeReset s c) := by
  unfold severeReset
  (repeat' split) <;> simp [Kept]

@[simp] theorem channelReturns_kept (s : State) (c : Nat) : Kept s (channelReturns s c) := by
  unfold channelReturns
  repeat' first
    | with_reducible assumption
    | with_reducible exact Kept.refl _
    | (extract_lets +onlyGivenNames x; first
        | (refine Kept.cut (t := x) ?_ ?_; rotate_left 1; intro hx; clear_value x; rotate_left 1; subst x)
        | subst x)
    | with_reducible refine forEach_kept _ _ _ ?_
    | with_reducible refine Kept.trans ?_ (forEach_kept _ _ _ ?_)
    | split
    | intro _
    | (simp [Kept, *]; done)
    | (have := bookErase_kept ‹bookErase _ _ _ _ _ = some _›; (try dsimp only at this); simp [Kept, *]; done)
    | dsimp only

@[simp] theorem startDrain_kept (s : State) (c : Nat) : Kept s (startDrain s c) := by
  unfold startDrain
  (repeat' split) <;> simp [Kept]

@[simp] theorem releaseStopped_kept (s : State) (c : Nat) : Kept s (releaseStopped s c) := by
  unfold releaseStopped
  (repeat' split) <;> simp [Kept]

@[simp] theorem endDrain_kept (s : State) (c : Nat) : Kept s (endDrain s c) := by
  unfold endDrain
  (repeat' split) <;> simp [Kept]

@[simp] theorem rbStuck_kept (s : State) (c : Nat) : Kept s (rbStuck s c) := by
  unfold rbStuck
  (repeat' split) <;> simp [Kept]

@[simp] theorem setWindow_kept (s : State) (openIt : Bool) : Kept s (setWindow s openIt) := by
  unfold setWindow
  (repeat' split) <;> simp [Kept]

@[simp] theorem judgeWindow_kept (s : State) : Kept s (judgeWindow s) := by
  unfold judgeWindow
  repeat' first
    | with_reducible assumption
    | with_reducible exact Kept.refl _
    | (extract_lets +onlyGivenNames x; first
        | (refine Kept.cut (t := x) ?_ ?_; rotate_left 1; intro hx; clear_value x; rotate_left 1; subst x)
        | subst x)
    | split
    | intro _
    | (simp [Kept, *]; done)

    | dsimp only

@[simp] theorem updateWarm_kept (s : State) : Kept s (updateWarm s) := by
  unfold updateWarm
  repeat' first
    | with_reducible assumption
    | with_reducible exact Kept.refl _
    | (extract_lets +onlyGivenNames x; first
        | (refine Kept.cut (t := x) ?_ ?_; rotate_left 1; intro hx; clear_value x; rotate_left 1; subst x)
        | subst x)
    | split
    | intro _
    | (simp [Kept, *]; done)

    | dsimp only

@[simp] theorem warmProgress_kept (s : State) : Kept s (warmProgress s) := by
  unfold warmProgress
  (repeat' split) <;> simp [Kept]

@[simp] theorem runControl_kept (s : State) (c slot opcode : Nat) : Kept s (runControl s c slot opcode) := by
  unfold runControl
  dsimp only
  (repeat' split) <;> simp [Kept]

@[simp] theorem readPkg_kept (k : Nat × Nat) (r : Option Int) (s : State) : Kept s (readPkg k r s) := by
  unfold readPkg
  repeat' first
    | with_reducible assumption
    | with_reducible exact Kept.refl _
    | (extract_lets +onlyGivenNames x; first
        | (refine Kept.cut (t := x) ?_ ?_; rotate_left 1; intro hx; clear_value x; rotate_left 1; subst x)
        | subst x)
    | split
    | intro _
    | (simp [Kept, *]; done)

    | dsimp only

@[simp] theorem trained_kept (s : State) (k : Nat × Nat) (ok : Bool) : Kept s (trained s k ok) := by
  unfold trained
  (repeat' split) <;> simp [Kept]

@[simp] theorem bringPkg_kept (c : Nat) (ps : List PkgAnswer) (k : Nat) (s : State) : Kept s (bringPkg c ps k s) := by
  unfold bringPkg
  (repeat' split) <;> simp [Kept]

@[simp] theorem dieAbsent_kept (s : State) (d : DieNo) (cause : Nat) : Kept s (dieAbsent s d cause) := by
  unfold dieAbsent
  dsimp only
  (repeat' split) <;> simp [Kept]

@[simp] theorem bringDie_kept (answers : List DieAnswer) (ps : List PkgAnswer) (d : DieNo) (s : State) : Kept s (bringDie answers ps d s) := by
  unfold bringDie
  repeat' first
    | with_reducible assumption
    | with_reducible exact Kept.refl _
    | (extract_lets +onlyGivenNames x; first
        | (refine Kept.cut (t := x) ?_ ?_; rotate_left 1; intro hx; clear_value x; rotate_left 1; subst x)
        | subst x)
    | split
    | intro _
    | (simp [Kept, *]; done)

    | dsimp only

@[simp] theorem bringUp_kept (s : State) (c : Nat) (answers : List DieAnswer) (ps : List PkgAnswer) : Kept s (bringUp s c answers ps) := by
  unfold bringUp
  repeat' first
    | with_reducible assumption
    | with_reducible exact Kept.refl _
    | (extract_lets +onlyGivenNames x; first
        | (refine Kept.cut (t := x) ?_ ?_; rotate_left 1; intro hx; clear_value x; rotate_left 1; subst x)
        | subst x)
    | with_reducible refine forEach_kept _ _ _ ?_
    | with_reducible refine Kept.trans ?_ (forEach_kept _ _ _ ?_)
    | split
    | intro _
    | (simp [Kept, *]; done)

    | dsimp only

@[simp] theorem firstPolls_kept (s : State) : Kept s (firstPolls s) := by
  unfold firstPolls
  (repeat' split) <;> simp [Kept]

@[simp] theorem noteBlocked_kept (s : State) (k : Nat × Nat) (late : Bool) : Kept s (noteBlocked s k late) := by
  unfold noteBlocked
  (repeat' split) <;> simp [Kept]

@[simp] theorem recalExpire_kept (s : State) (k : Nat × Nat) : Kept s (recalExpire s k) := by
  unfold recalExpire
  (repeat' split) <;> simp [Kept]

@[simp] theorem recalBlocked_kept (s : State) (k : Nat × Nat) : Kept s (recalBlocked s k) := by
  unfold recalBlocked
  (repeat' split) <;> simp [Kept]

@[simp] theorem clearSenses_kept (s : State) (d : DieNo) : Kept s (clearSenses s d) := by
  unfold clearSenses
  repeat' first
    | with_reducible assumption
    | with_reducible exact Kept.refl _
    | (extract_lets +onlyGivenNames x; first
        | (refine Kept.cut (t := x) ?_ ?_; rotate_left 1; intro hx; clear_value x; rotate_left 1; subst x)
        | subst x)
    | with_reducible refine forEach_kept _ _ _ ?_
    | with_reducible refine Kept.trans ?_ (forEach_kept _ _ _ ?_)
    | split
    | intro _
    | (simp [Kept, *]; done)
    | dsimp only

@[simp] theorem clearPackage_kept (s : State) (k : Nat × Nat) : Kept s (clearPackage s k) := by
  unfold clearPackage
  (repeat' split) <;> simp [Kept]

@[simp] theorem startRecal_kept (s : State) (k : Nat × Nat) : Kept s (startRecal s k) := by
  unfold startRecal
  (repeat' split) <;> simp [Kept]

@[simp] theorem recalReturn_kept (passed : Bool) (d : DieNo) (s : State) : Kept s (recalReturn passed d s) := by
  unfold recalReturn
  repeat' first
    | with_reducible assumption
    | with_reducible exact Kept.refl _
    | (extract_lets +onlyGivenNames x; first
        | (refine Kept.cut (t := x) ?_ ?_; rotate_left 1; intro hx; clear_value x; rotate_left 1; subst x)
        | subst x)
    | split
    | intro _
    | (simp [Kept, *]; done)

@[simp] theorem recalAdvance_kept (s : State) (k : Nat × Nat) : Kept s (recalAdvance s k) := by
  unfold recalAdvance
  repeat' first
    | with_reducible assumption
    | with_reducible exact Kept.refl _
    | (extract_lets +onlyGivenNames x; first
        | (refine Kept.cut (t := x) ?_ ?_; rotate_left 1; intro hx; clear_value x; rotate_left 1; subst x)
        | subst x)
    | split
    | intro _
    | (simp [Kept, *]; done)

    | dsimp only

@[simp] theorem endLoad_kept (s : State) (status detail : Nat) : Kept s (endLoad s status detail) := by
  unfold endLoad
  (repeat' split) <;> simp [Kept]

@[simp] theorem nextTurn_kept (s : State) (half : Nat) : Kept s (nextTurn s half) := by
  unfold nextTurn
  (repeat' split) <;> simp [Kept]

@[simp] theorem turnDone_kept (s : State) (c : Nat) : Kept s (turnDone s c) := by
  unfold turnDone
  repeat' first
    | with_reducible assumption
    | with_reducible exact Kept.refl _
    | (extract_lets +onlyGivenNames x; first
        | (refine Kept.cut (t := x) ?_ ?_; rotate_left 1; intro hx; clear_value x; rotate_left 1; subst x)
        | subst x)
    | split
    | intro _
    | (simp [Kept, *]; done)

    | dsimp only

/-! ### Thermal -/

@[simp] theorem updateTempWarning_kept (s : State) : Kept s (updateTempWarning s) := by
  unfold updateTempWarning
  (repeat' split) <;> simp [Kept]

@[simp] theorem setStep_kept (s : State) (k : Nat) : Kept s (setStep s k) := by
  unfold setStep
  repeat' first
    | with_reducible assumption
    | with_reducible exact Kept.refl _
    | (extract_lets +onlyGivenNames x; first
        | (refine Kept.cut (t := x) ?_ ?_; rotate_left 1; intro hx; clear_value x; rotate_left 1; subst x)
        | subst x)
    | split
    | intro _
    | (simp [Kept, *]; done)

    | dsimp only

@[simp] theorem judgeStep_kept (s : State) : Kept s (judgeStep s) := by
  unfold judgeStep
  repeat' first
    | with_reducible assumption
    | with_reducible exact Kept.refl _
    | (extract_lets +onlyGivenNames x; first
        | (refine Kept.cut (t := x) ?_ ?_; rotate_left 1; intro hx; clear_value x; rotate_left 1; subst x)
        | subst x)
    | split
    | intro _
    | (simp [Kept, *]; done)

    | dsimp only

@[simp] theorem trip_kept (s : State) (i : Nat) (t : Int) : Kept s (trip s i t) := by
  unfold trip
  repeat' first
    | with_reducible assumption
    | with_reducible exact Kept.refl _
    | (extract_lets +onlyGivenNames x; first
        | (refine Kept.cut (t := x) ?_ ?_; rotate_left 1; intro hx; clear_value x; rotate_left 1; subst x)
        | subst x)
    | split
    | intro _
    | (simp [Kept, *]; done)

    | dsimp only

@[simp] theorem coolDown_kept (s : State) : Kept s (coolDown s) := by
  unfold coolDown
  (repeat' split) <;> simp [Kept]

@[simp] theorem takeReadings_kept (s : State) (readings : List (Option Int)) : Kept s (takeReadings s readings) := by
  unfold takeReadings
  (repeat' split) <;> simp [Kept]

@[simp] theorem judgeReadings_kept (s : State) : Kept s (judgeReadings s) := by
  unfold judgeReadings
  (repeat' split) <;> simp [Kept]

@[simp] theorem tripHot_kept (s : State) (ids : List Nat) : Kept s (tripHot s ids) := by
  unfold tripHot
  (repeat' split) <;> simp [Kept]

@[simp] theorem applyThermal_kept (s : State) : Kept s (applyThermal s) := by
  unfold applyThermal
  (repeat' split) <;> simp [Kept]

/-! ### Dram -/

theorem mergeTake_cells {x y : DramCh} {t addr : Nat} {ws : List (Nat × Byte)} (h : mergeTake x t addr ws = some y) : y.cells = x.cells := by
  unfold mergeTake at h
  split at h
  · cases h; rfl
  · split at h
    · cases h
    · cases h; rfl

theorem updDram_set_kept (s : State) (b : Bool) (y : DramCh) (h : y.cells = (dramCh s b).cells) : Kept s (updDram s b fun _ => y) := by
  cases b
  · exact ⟨rfl, h, rfl, rfl, rfl, rfl⟩
  · exact ⟨rfl, rfl, h, rfl, rfl, rfl⟩

theorem updDram_kept (s : State) (b : Bool) (f : DramCh → DramCh) (h : ∀ x, (f x).cells = x.cells) : Kept s (updDram s b f) := by
  cases b
  · exact ⟨rfl, h _, rfl, rfl, rfl, rfl⟩
  · exact ⟨rfl, rfl, h _, rfl, rfl, rfl⟩

@[simp] theorem updDram_da (s : State) (b : Bool) (f : DramCh → DramCh) (h : ∀ x, (f x).cells = x.cells) :
    (updDram s b f).dram.da.cells = s.dram.da.cells := by cases b <;> simp [updDram, h]

@[simp] theorem updDram_db (s : State) (b : Bool) (f : DramCh → DramCh) (h : ∀ x, (f x).cells = x.cells) :
    (updDram s b f).dram.db.cells = s.dram.db.cells := by cases b <;> simp [updDram, h]

@[simp] theorem updDram_devTime (s : State) (b : Bool) (f : DramCh → DramCh) : (updDram s b f).tm.devTime = s.tm.devTime := by
  cases b <;> rfl

@[simp] theorem updDram_crypto (s : State) (b : Bool) (f : DramCh → DramCh) : (updDram s b f).sec.cryptoDisable = s.sec.cryptoDisable := by
  cases b <;> rfl

@[simp] theorem updDram_kazok (s : State) (b : Bool) (f : DramCh → DramCh) : (updDram s b f).sec.kazokRevoke = s.sec.kazokRevoke := by
  cases b <;> rfl

@[simp] theorem updDram_pending (s : State) (b : Bool) (f : DramCh → DramCh) : (updDram s b f).pending = s.pending := by
  cases b <;> rfl

@[simp] theorem updRank_kept (s : State) (chB : Bool) (r : Nat) (f : RankSt → RankSt) : Kept s (updRank s chB r f) := by
  unfold updRank
  (repeat' split) <;> simp [Kept]

@[simp] theorem takeNarrow_kept (s : State) (chB : Bool) (port addr : Nat) (ws : List (Nat × Byte)) : Kept s (takeNarrow s chB port addr ws) := by
  unfold takeNarrow
  dsimp only
  (repeat' split) <;> first
    | exact Kept.refl s
    | exact updDram_kept _ _ _ fun _ => rfl
    | (rename_i h; exact updDram_set_kept _ _ _ (Eq.trans (by rfl) (mergeTake_cells h)))

@[simp] theorem serveWaiting_kept (n : Nat) (s : State) (chB : Bool) : Kept s (serveWaiting s chB n) := by
  induction n generalizing s with
  | zero => exact Kept.refl s
  | succ n ih =>
    unfold serveWaiting
    dsimp only
    split
    · exact Kept.refl s
    · split
      · exact Kept.refl s
      · refine Kept.trans ?_ (ih _)
        exact updDram_set_kept _ _ _ (mergeTake_cells (by assumption) :)

@[simp] theorem rankEvent_kept (s : State) (chB : Bool) (rank action outcome : Nat) : Kept s (rankEvent s chB rank action outcome) := by
  unfold rankEvent
  (repeat' split) <;> simp [Kept]

@[simp] theorem stopMigration_kept (s : State) (chB : Bool) : Kept s (stopMigration s chB) := by
  unfold stopMigration
  repeat' first
    | with_reducible assumption
    | with_reducible exact Kept.refl _
    | (extract_lets +onlyGivenNames x; first
        | (refine Kept.cut (t := x) ?_ ?_; rotate_left 1; intro hx; clear_value x; rotate_left 1; subst x)
        | subst x)
    | split
    | intro _
    | (simp [Kept, *]; done)

    | dsimp only

@[simp] theorem dropCopies_kept (s : State) (chB : Bool) : Kept s (dropCopies s chB) := by
  unfold dropCopies
  (repeat' split) <;> simp [Kept]

@[simp] theorem dramReturns_kept (s : State) (chB : Bool) : Kept s (dramReturns s chB) := by
  unfold dramReturns
  (repeat' split) <;> simp [Kept]

@[simp] theorem resilverEaves_kept (s : State) (chB : Bool) : Kept s (resilverEaves s chB) := by
  unfold resilverEaves
  (repeat' split) <;> simp [Kept]

@[simp] theorem startMigration_kept (s : State) (chB : Bool) (rank : Nat) (op : Option (Sender × Nat)) : Kept s (startMigration s chB rank op) := by
  unfold startMigration
  (repeat' split) <;> simp [Kept]

@[simp] theorem resense_kept (s : State) (c : Cmd) (slot : Nat) : Kept s (resense s c slot) := by
  unfold resense
  extract_lets x c' s1 direct
  have h1 : Kept s s1 := updCmd_kept ..
  have h2 : ∀ r, direct = some r → Kept s1 r := by
    intro r h
    simp only [direct] at h
    obtain ⟨a, _, h3⟩ := Option.bind_eq_some_iff.1 h
    obtain ⟨m, _, h4⟩ := Option.bind_eq_some_iff.1 h3
    split at h4
    · cases h4
    · obtain ⟨b, h5, h6⟩ := Option.bind_eq_some_iff.1 h4
      split at h6
      · cases h6
        exact bookPage_kept h5
      · cases h6
  clear_value direct s1
  split
  · exact h1.trans (h2 _ rfl)
  · exact h1.trans (lastRoute_kept _ _ _ _ _ fun s => noRoute_kept ..)

@[simp] theorem resenseAll_kept (s : State) (l : List (Cmd × Nat)) : Kept s (resenseAll s l) := by
  unfold resenseAll
  repeat' first
    | with_reducible assumption
    | with_reducible exact Kept.refl _
    | (extract_lets +onlyGivenNames x; first
        | (refine Kept.cut (t := x) ?_ ?_; rotate_left 1; intro hx; clear_value x; rotate_left 1; subst x)
        | subst x)
    | with_reducible refine forEach_kept _ _ _ ?_
    | with_reducible refine Kept.trans ?_ (forEach_kept _ _ _ ?_)
    | split
    | intro _
    | (simp [Kept, *]; done)
    | dsimp only

@[simp] theorem dropFrame_kept (s : State) (chB : Bool) : Kept s (dropFrame s chB) := by
  unfold dropFrame
  repeat' first
    | with_reducible assumption
    | with_reducible exact Kept.refl _
    | (extract_lets +onlyGivenNames x; first
        | (refine Kept.cut (t := x) ?_ ?_; rotate_left 1; intro hx; clear_value x; rotate_left 1; subst x)
        | subst x)
    | split
    | intro _
    | (simp [Kept, *]; done)

    | dsimp only

@[simp] theorem consumeBad_kept (s : State) (a : Nat) : Kept s (consumeBad s a) := by
  unfold consumeBad
  (repeat' split) <;> simp [Kept]

@[simp] theorem poisonCopies_kept (s : State) (chB : Bool) (addr : Nat) : Kept s (poisonCopies s chB addr) := by
  have h : ∀ x, (poisoned addr x).cells = x.cells := fun _ => rfl
  unfold poisonCopies
  dsimp only
  split <;> simp [Kept, h]

@[simp] theorem poisonPut_kept (s : State) (chB : Bool) (addr : Nat) : Kept s (poisonPut s chB addr) := by
  unfold poisonPut
  (repeat' split) <;> simp [Kept]

@[simp] theorem poisonBoth_kept (s : State) (chB : Bool) (addr : Nat) : Kept s (poisonBoth s chB addr) := by
  unfold poisonBoth
  (repeat' split) <;> simp [Kept]

/-! ### Airflow -/

@[simp] theorem catchSpin_kept (s : State) : Kept s (catchSpin s) := by
  unfold catchSpin
  repeat' first
    | with_reducible assumption
    | with_reducible exact Kept.refl _
    | (extract_lets +onlyGivenNames x; first
        | (refine Kept.cut (t := x) ?_ ?_; rotate_left 1; intro hx; clear_value x; rotate_left 1; subst x)
        | subst x)
    | split
    | intro _
    | (simp [Kept, *]; done)

    | dsimp only

@[simp] theorem blowerOff_kept (s : State) (st : BlowerState) : Kept s (blowerOff s st) := by
  unfold blowerOff
  repeat' first
    | with_reducible assumption
    | with_reducible exact Kept.refl _
    | (extract_lets +onlyGivenNames x; first
        | (refine Kept.cut (t := x) ?_ ?_; rotate_left 1; intro hx; clear_value x; rotate_left 1; subst x)
        | subst x)
    | split
    | intro _
    | (simp [Kept, *]; done)

    | dsimp only

@[simp] theorem judgeBus_kept (s : State) (mv : Nat) : Kept s (judgeBus s mv) := by
  unfold judgeBus
  split
  · exact Kept.refl s
  · dsimp only
    split
    · exact Kept.trans (by simp [Kept]) (blowerOff_kept _ _)
    · simp [Kept]

@[simp] theorem restartBlower_kept (s : State) : Kept s (restartBlower s) := by
  unfold restartBlower
  repeat' first
    | with_reducible assumption
    | with_reducible exact Kept.refl _
    | (extract_lets +onlyGivenNames x; first
        | (refine Kept.cut (t := x) ?_ ?_; rotate_left 1; intro hx; clear_value x; rotate_left 1; subst x)
        | subst x)
    | split
    | intro _
    | (simp [Kept, *]; done)

    | dsimp only

@[simp] theorem startJudging_kept (s : State) : Kept s (startJudging s) := by
  unfold startJudging
  simp [Kept]

@[simp] theorem airReturns_kept (s : State) : Kept s (airReturns s) := by
  unfold airReturns
  repeat' first
    | with_reducible assumption
    | with_reducible exact Kept.refl _
    | (extract_lets +onlyGivenNames x; first
        | (refine Kept.cut (t := x) ?_ ?_; rotate_left 1; intro hx; clear_value x; rotate_left 1; subst x)
        | subst x)
    | split
    | intro _
    | (simp [Kept, *]; done)

    | dsimp only

@[simp] theorem standstill_kept (s : State) : Kept s (standstill s) := by
  unfold standstill
  repeat' first
    | with_reducible assumption
    | with_reducible exact Kept.refl _
    | (extract_lets +onlyGivenNames x; first
        | (refine Kept.cut (t := x) ?_ ?_; rotate_left 1; intro hx; clear_value x; rotate_left 1; subst x)
        | subst x)
    | split
    | intro _
    | (simp [Kept, *]; done)

    | dsimp only

@[simp] theorem finishStop_kept (s : State) : Kept s (finishStop s) := by
  unfold finishStop
  repeat' first
    | with_reducible assumption
    | with_reducible exact Kept.refl _
    | (extract_lets +onlyGivenNames x; first
        | (refine Kept.cut (t := x) ?_ ?_; rotate_left 1; intro hx; clear_value x; rotate_left 1; subst x)
        | subst x)
    | split
    | intro _
    | (simp [Kept, *]; done)

    | dsimp only

@[simp] theorem stallReact_kept (s : State) : Kept s (stallReact s) := by
  unfold stallReact
  repeat' first
    | with_reducible assumption
    | with_reducible exact Kept.refl _
    | (extract_lets +onlyGivenNames x; first
        | (refine Kept.cut (t := x) ?_ ?_; rotate_left 1; intro hx; clear_value x; rotate_left 1; subst x)
        | subst x)
    | split
    | intro _
    | (simp [Kept, *]; done)

    | dsimp only

@[simp] theorem stallBlower_kept (s : State) : Kept s (stallBlower s) := by
  unfold stallBlower
  repeat' first
    | with_reducible assumption
    | with_reducible exact Kept.refl _
    | (extract_lets +onlyGivenNames x; first
        | (refine Kept.cut (t := x) ?_ ?_; rotate_left 1; intro hx; clear_value x; rotate_left 1; subst x)
        | subst x)
    | split
    | intro _
    | (simp [Kept, *]; done)

    | dsimp only

@[simp] theorem driverReact_kept (s : State) : Kept s (driverReact s) := by
  unfold driverReact
  repeat' first
    | with_reducible assumption
    | with_reducible exact Kept.refl _
    | (extract_lets +onlyGivenNames x; first
        | (refine Kept.cut (t := x) ?_ ?_; rotate_left 1; intro hx; clear_value x; rotate_left 1; subst x)
        | subst x)
    | split
    | intro _
    | (simp [Kept, *]; done)

    | dsimp only

@[simp] theorem clampReact_kept (s : State) (stuckClosed : Bool) : Kept s (clampReact s stuckClosed) := by
  unfold clampReact
  repeat' first
    | with_reducible assumption
    | with_reducible exact Kept.refl _
    | (extract_lets +onlyGivenNames x; first
        | (refine Kept.cut (t := x) ?_ ?_; rotate_left 1; intro hx; clear_value x; rotate_left 1; subst x)
        | subst x)
    | split
    | intro _
    | (simp [Kept, *]; done)

    | dsimp only

@[simp] theorem judgeDemand_kept (s : State) : Kept s (judgeDemand s) := by
  unfold judgeDemand
  repeat' first
    | with_reducible assumption
    | with_reducible exact Kept.refl _
    | (extract_lets +onlyGivenNames x; first
        | (refine Kept.cut (t := x) ?_ ?_; rotate_left 1; intro hx; clear_value x; rotate_left 1; subst x)
        | subst x)
    | split
    | intro _
    | (simp [Kept, *]; done)

    | dsimp only

@[simp] theorem speedPi_kept (s : State) : Kept s (speedPi s) := by
  unfold speedPi
  repeat' first
    | with_reducible assumption
    | with_reducible exact Kept.refl _
    | (extract_lets +onlyGivenNames x; first
        | (refine Kept.cut (t := x) ?_ ?_; rotate_left 1; intro hx; clear_value x; rotate_left 1; subst x)
        | subst x)
    | split
    | intro _
    | (simp [Kept, *]; done)

    | dsimp only

@[simp] theorem stepTurning_kept (s : State) : Kept s (stepTurning s) := by
  unfold stepTurning
  repeat' first
    | with_reducible assumption
    | with_reducible exact Kept.refl _
    | (extract_lets +onlyGivenNames x; first
        | (refine Kept.cut (t := x) ?_ ?_; rotate_left 1; intro hx; clear_value x; rotate_left 1; subst x)
        | subst x)
    | split
    | intro _
    | (simp [Kept, *]; done)

    | dsimp only

@[simp] theorem resumeDone_kept (s : State) : Kept s (resumeDone s) := by
  unfold resumeDone
  repeat' first
    | with_reducible assumption
    | with_reducible exact Kept.refl _
    | (extract_lets +onlyGivenNames x; first
        | (refine Kept.cut (t := x) ?_ ?_; rotate_left 1; intro hx; clear_value x; rotate_left 1; subst x)
        | subst x)
    | split
    | intro _
    | (simp [Kept, *]; done)

    | dsimp only

end Sys2Proof.Machine
end

