-- ==== Sys2Proof/Laws/KeptHost.lean ====
section
/-! SUPPORT. `Kept` for the functions of the host, mailbox and administration side. -/

set_option linter.all false

namespace Sys2Proof.Machine

/-! ### Alive -/

@[simp] theorem takeSnapshot_kept (s : State) : Kept s (takeSnapshot s) := by
  unfold takeSnapshot
  (repeat' split) <;> simp [Kept]

@[simp] theorem clearFaults_kept (s : State) (source flags : Nat) : Kept s (clearFaults s source flags) := by
  unfold clearFaults
  repeat' first
    | with_reducible assumption
    | with_reducible exact Kept.refl _
    | (extract_lets +onlyGivenNames x; first
        | (refine Kept.cut (t := x) ?_ ?_; rotate_left 1; intro hx; clear_value x; rotate_left 1; subst x)
        | subst x)
    | split
    | intro _
    | (simp [Kept, *]; done)

    | dsimp only

/-! ### Resets -/

@[simp] theorem dropWriteData_kept (s : State) (c : Cmd) : Kept s (dropWriteData s c) := by
  unfold dropWriteData
  repeat' first
    | with_reducible assumption
    | with_reducible exact Kept.refl _
    | (extract_lets +onlyGivenNames x; first
        | (refine Kept.cut (t := x) ?_ ?_; rotate_left 1; intro hx; clear_value x; rotate_left 1; subst x)
        | subst x)
    | split
    | intro _
    | (simp [Kept, *]; done)

    | dsimp only

@[simp] theorem rewindZone_kept (s : State) (nsid zi stop : Nat) : Kept s (rewindZone s nsid zi stop) := by
  unfold rewindZone
  repeat' first
    | with_reducible assumption
    | with_reducible exact Kept.refl _
    | (extract_lets +onlyGivenNames x; first
        | (refine Kept.cut (t := x) ?_ ?_; rotate_left 1; intro hx; clear_value x; rotate_left 1; subst x)
        | subst x)
    | split
    | intro _
    | (simp [Kept, *]; done)

    | dsimp only

@[simp] theorem cutZoneWrites_kept (f : Nat) (k : Nat × Nat) (s : State) : Kept s (cutZoneWrites f k s) := by
  unfold cutZoneWrites
  repeat' first
    | with_reducible assumption
    | with_reducible exact Kept.refl _
    | (extract_lets +onlyGivenNames x; first
        | (refine Kept.cut (t := x) ?_ ?_; rotate_left 1; intro hx; clear_value x; rotate_left 1; subst x)
        | subst x)
    | with_reducible refine forEach_kept _ _ _ ?_
    | with_reducible refine Kept.trans ?_ (forEach_kept _ _ _ ?_)
    | split
    | intro _
    | (simp [Kept, *]; done)

    | dsimp only

@[simp] theorem resetCommands_kept (s : State) (f : Nat) : Kept s (resetCommands s f) := by
  unfold resetCommands
  repeat' first
    | with_reducible assumption
    | with_reducible exact Kept.refl _
    | (extract_lets +onlyGivenNames x; first
        | (refine Kept.cut (t := x) ?_ ?_; rotate_left 1; intro hx; clear_value x; rotate_left 1; subst x)
        | subst x)
    | with_reducible refine forEach_kept _ _ _ ?_
    | with_reducible refine Kept.trans ?_ (forEach_kept _ _ _ ?_)
    | split
    | intro _
    | (simp [Kept, *]; done)

    | dsimp only

@[simp] theorem resetStream_kept (s : State) (st : Stream) : Kept s (resetStream s st) := by
  unfold resetStream
  repeat' first
    | with_reducible assumption
    | with_reducible exact Kept.refl _
    | (extract_lets +onlyGivenNames x; first
        | (refine Kept.cut (t := x) ?_ ?_; rotate_left 1; intro hx; clear_value x; rotate_left 1; subst x)
        | subst x)
    | with_reducible refine forEach_kept _ _ _ ?_
    | with_reducible refine Kept.trans ?_ (forEach_kept _ _ _ ?_)
    | split
    | intro _
    | (simp [Kept, *]; done)

    | dsimp only

@[simp] theorem resetHmp_kept (s : State) (f : Nat) (k : ResetKind) : Kept s (resetHmp s f k) := by
  unfold resetHmp
  repeat' first
    | with_reducible assumption
    | with_reducible exact Kept.refl _
    | (extract_lets +onlyGivenNames x; first
        | (refine Kept.cut (t := x) ?_ ?_; rotate_left 1; intro hx; clear_value x; rotate_left 1; subst x)
        | subst x)
    | split
    | intro _
    | (simp [Kept, *]; done)

    | dsimp only

@[simp] theorem clearFnKeys_kept (s : State) (f : Nat) : Kept s (clearFnKeys s f) := by
  unfold clearFnKeys putSlots
  repeat' first
    | with_reducible assumption
    | with_reducible exact Kept.refl _
    | (extract_lets +onlyGivenNames x; first
        | (refine Kept.cut (t := x) ?_ ?_; rotate_left 1; intro hx; clear_value x; rotate_left 1; subst x)
        | subst x)
    | split
    | intro _
    | (simp [Kept, *]; done)

    | dsimp only

@[simp] theorem clearAllKeys_kept (s : State) : Kept s (clearAllKeys s) := by
  unfold clearAllKeys
  repeat' first
    | with_reducible assumption
    | with_reducible exact Kept.refl _
    | (extract_lets +onlyGivenNames x; first
        | (refine Kept.cut (t := x) ?_ ?_; rotate_left 1; intro hx; clear_value x; rotate_left 1; subst x)
        | subst x)
    | split
    | intro _
    | (simp [Kept, *]; done)

    | dsimp only

@[simp] theorem fnReset_kept (k : ResetKind) (f : Nat) (s : State) : Kept s (fnReset k f s) := by
  unfold fnReset
  repeat' first
    | with_reducible assumption
    | with_reducible exact Kept.refl _
    | (extract_lets +onlyGivenNames x; first
        | (refine Kept.cut (t := x) ?_ ?_; rotate_left 1; intro hx; clear_value x; rotate_left 1; subst x)
        | subst x)
    | split
    | intro _
    | (simp [Kept, *]; done)

    | dsimp only

@[simp] theorem removeVfs_kept (k : ResetKind) (s : State) : Kept s (removeVfs k s) := by
  unfold removeVfs
  (repeat' split) <;> simp [Kept]

@[simp] theorem resetPf_kept (s : State) (k : ResetKind) : Kept s (resetPf s k) := by
  unfold resetPf
  (repeat' split) <;> simp [Kept]

@[simp] theorem conventional_kept (s : State) : Kept s (conventional s) := by
  unfold conventional
  (repeat' split) <;> simp [Kept]

@[simp] theorem assignVfs_kept (s : State) (n : Nat) : Kept s (assignVfs s n) := by
  unfold assignVfs
  repeat' first
    | with_reducible assumption
    | with_reducible exact Kept.refl _
    | (extract_lets +onlyGivenNames x; first
        | (refine Kept.cut (t := x) ?_ ?_; rotate_left 1; intro hx; clear_value x; rotate_left 1; subst x)
        | subst x)
    | with_reducible refine forEach_kept _ _ _ ?_
    | with_reducible refine Kept.trans ?_ (forEach_kept _ _ _ ?_)
    | split
    | intro _
    | (simp [Kept, *]; done)

    | dsimp only

/-! ### Islands -/

@[simp] theorem softLost_kept (s : State) (st : IslState) : Kept s (softLost s st) := by
  unfold softLost
  repeat' first
    | with_reducible assumption
    | with_reducible exact Kept.refl _
    | (extract_lets +onlyGivenNames x; first
        | (refine Kept.cut (t := x) ?_ ?_; rotate_left 1; intro hx; clear_value x; rotate_left 1; subst x)
        | subst x)
    | with_reducible refine forEach_kept _ _ _ ?_
    | with_reducible refine Kept.trans ?_ (forEach_kept _ _ _ ?_)
    | split
    | intro _
    | (simp [Kept, *]; done)

    | dsimp only

@[simp] theorem linkLost_kept (s : State) : Kept s (linkLost s) := by
  unfold linkLost
  (repeat' split) <;> simp [Kept]

@[simp] theorem admissionLost_kept (s : State) : Kept s (admissionLost s) := by
  unfold admissionLost
  (repeat' split) <;> simp [Kept]

@[simp] theorem fabricLost_kept (s : State) : Kept s (fabricLost s) := by
  unfold fabricLost
  (repeat' split) <;> simp [Kept]

@[simp] theorem managementLost_kept (s : State) : Kept s (managementLost s) := by
  unfold managementLost
  (repeat' split) <;> simp [Kept]

theorem keyCache_kept (s : State) : Kept s { s with sec := { s.sec with keyCache := [] } } := ⟨rfl, rfl, rfl, rfl, rfl, rfl⟩

theorem startKeys_kept (s : State) : Kept s { s with sec := { startKeys s.sec with regions := s.sec.regions } } :=
  ⟨rfl, rfl, rfl, rfl, rfl, rfl⟩

theorem linkLostIf_kept (s : State) : Kept s (if s.host.linkUp then linkLost s else s) := Kept.ite (linkLost_kept s) (Kept.refl s)

@[simp] theorem logicLost_kept (s : State) (id : Nat) : Kept s (logicLost s id) := by
  unfold logicLost
  split
  · exact (keyCache_kept s).trans (linkLostIf_kept _)
  · exact admissionLost_kept s
  · exact managementLost_kept s
  · exact startKeys_kept s
  · exact fabricLost_kept s
  · exact Kept.refl s

@[simp] theorem releaseIsland_kept (s : State) (id : Nat) : Kept s (releaseIsland s id) := by
  unfold releaseIsland
  repeat' first
    | with_reducible assumption
    | with_reducible exact Kept.refl _
    | (extract_lets +onlyGivenNames x; first
        | (refine Kept.cut (t := x) ?_ ?_; rotate_left 1; intro hx; clear_value x; rotate_left 1; subst x)
        | subst x)
    | split
    | intro _
    | (simp [Kept, *]; done)

    | dsimp only

@[simp] theorem islandReturns_kept (s : State) (id : Nat) : Kept s (islandReturns s id) := by
  unfold islandReturns
  repeat' first
    | with_reducible assumption
    | with_reducible exact Kept.refl _
    | (extract_lets +onlyGivenNames x; first
        | (refine Kept.cut (t := x) ?_ ?_; rotate_left 1; intro hx; clear_value x; rotate_left 1; subst x)
        | subst x)
    | split
    | intro _
    | (simp [Kept, *]; done)

    | dsimp only

@[simp] theorem rejectRequest_kept (s : State) (id : Nat) (r : Requester × IslState) (by' : Nat) : Kept s (rejectRequest s id r by') := by
  unfold rejectRequest
  repeat' first
    | with_reducible assumption
    | with_reducible exact Kept.refl _
    | (extract_lets +onlyGivenNames x; first
        | (refine Kept.cut (t := x) ?_ ?_; rotate_left 1; intro hx; clear_value x; rotate_left 1; subst x)
        | subst x)
    | split
    | intro _
    | (simp [Kept, *]; done)

    | dsimp only

@[simp] theorem rejectAll_kept (s : State) (id by' : Nat) (reqs : List (Requester × IslState)) : Kept s (rejectAll s id by' reqs) := by
  unfold rejectAll
  repeat' first
    | with_reducible assumption
    | with_reducible exact Kept.refl _
    | (extract_lets +onlyGivenNames x; first
        | (refine Kept.cut (t := x) ?_ ?_; rotate_left 1; intro hx; clear_value x; rotate_left 1; subst x)
        | subst x)
    | with_reducible refine forEach_kept _ _ _ ?_
    | with_reducible refine Kept.trans ?_ (forEach_kept _ _ _ ?_)
    | split
    | intro _
    | (simp [Kept, *]; done)

    | dsimp only

@[simp] theorem noteRelease_kept (s : State) (id : Nat) (w : Requester × IslState) : Kept s (noteRelease s id w) := by
  unfold noteRelease
  (repeat' split) <;> simp [Kept]

@[simp] theorem sysrefLost_kept (s : State) : Kept s (sysrefLost s) := by
  unfold sysrefLost
  repeat' first
    | with_reducible assumption
    | with_reducible exact Kept.refl _
    | (extract_lets +onlyGivenNames x; first
        | (refine Kept.cut (t := x) ?_ ?_; rotate_left 1; intro hx; clear_value x; rotate_left 1; subst x)
        | subst x)
    | split
    | intro _
    | (simp [Kept, *]; done)

    | dsimp only

@[simp] theorem updCore_kept (s : State) (i : Nat) (f : CoreSt → CoreSt) : Kept s (updCore s i f) := by
  unfold updCore
  repeat' first
    | with_reducible assumption
    | with_reducible exact Kept.refl _
    | (extract_lets +onlyGivenNames x; first
        | (refine Kept.cut (t := x) ?_ ?_; rotate_left 1; intro hx; clear_value x; rotate_left 1; subst x)
        | subst x)
    | split
    | intro _
    | (simp [Kept, *]; done)

    | dsimp only

@[simp] theorem coreReact_kept (s : State) (i : Nat) (retire : Bool) : Kept s (coreReact s i retire) := by
  unfold coreReact
  repeat' first
    | with_reducible assumption
    | with_reducible exact Kept.refl _
    | (extract_lets +onlyGivenNames x; first
        | (refine Kept.cut (t := x) ?_ ?_; rotate_left 1; intro hx; clear_value x; rotate_left 1; subst x)
        | subst x)
    | split
    | intro _
    | (simp [Kept, *]; done)

    | dsimp only

@[simp] theorem updRidge_kept (s : State) (i : Nat) (f : CoreSt → CoreSt) : Kept s (updRidge s i f) := by
  unfold updRidge
  repeat' first
    | with_reducible assumption
    | with_reducible exact Kept.refl _
    | (extract_lets +onlyGivenNames x; first
        | (refine Kept.cut (t := x) ?_ ?_; rotate_left 1; intro hx; clear_value x; rotate_left 1; subst x)
        | subst x)
    | split
    | intro _
    | (simp [Kept, *]; done)

    | dsimp only

@[simp] theorem ridgeReact_kept (s : State) (i : Nat) (retire : Bool) : Kept s (ridgeReact s i retire) := by
  unfold ridgeReact
  repeat' first
    | with_reducible assumption
    | with_reducible exact Kept.refl _
    | (extract_lets +onlyGivenNames x; first
        | (refine Kept.cut (t := x) ?_ ?_; rotate_left 1; intro hx; clear_value x; rotate_left 1; subst x)
        | subst x)
    | split
    | intro _
    | (simp [Kept, *]; done)

    | dsimp only

@[simp] theorem endCoreOps_kept (s : State) (core status detail : Nat) : Kept s (endCoreOps s core status detail) := by
  unfold endCoreOps
  repeat' first
    | with_reducible assumption
    | with_reducible exact Kept.refl _
    | (extract_lets +onlyGivenNames x; first
        | (refine Kept.cut (t := x) ?_ ?_; rotate_left 1; intro hx; clear_value x; rotate_left 1; subst x)
        | subst x)
    | with_reducible refine forEach_kept _ _ _ ?_
    | with_reducible refine Kept.trans ?_ (forEach_kept _ _ _ ?_)
    | split
    | intro _
    | (simp [Kept, *]; done)

    | dsimp only

@[simp] theorem handOver_kept (s : State) (core : Nat) (retire : Bool) : Kept s (handOver s core retire) := by
  unfold handOver
  repeat' first
    | with_reducible assumption
    | with_reducible exact Kept.refl _
    | (extract_lets +onlyGivenNames x; first
        | (refine Kept.cut (t := x) ?_ ?_; rotate_left 1; intro hx; clear_value x; rotate_left 1; subst x)
        | subst x)
    | split
    | intro _
    | (simp [Kept, *]; done)

    | dsimp only

@[simp] theorem retireCore_kept (s : State) (core : Nat) : Kept s (retireCore s core) := by
  unfold retireCore
  repeat' first
    | with_reducible assumption
    | with_reducible exact Kept.refl _
    | (extract_lets +onlyGivenNames x; first
        | (refine Kept.cut (t := x) ?_ ?_; rotate_left 1; intro hx; clear_value x; rotate_left 1; subst x)
        | subst x)
    | split
    | intro _
    | (simp [Kept, *]; done)

    | dsimp only

/-! ### Supplies -/

@[simp] theorem supplyEvent_kept (s : State) (sev : Nat) : Kept s (supplyEvent s sev) := by
  unfold supplyEvent
  repeat' first
    | with_reducible assumption
    | with_reducible exact Kept.refl _
    | (extract_lets +onlyGivenNames x; first
        | (refine Kept.cut (t := x) ?_ ?_; rotate_left 1; intro hx; clear_value x; rotate_left 1; subst x)
        | subst x)
    | split
    | intro _
    | (simp [Kept, *]; done)

    | dsimp only

@[simp] theorem updRail_kept (s : State) (r : Nat) (f : RailSt → RailSt) : Kept s (updRail s r f) := by
  unfold updRail
  repeat' first
    | with_reducible assumption
    | with_reducible exact Kept.refl _
    | (extract_lets +onlyGivenNames x; first
        | (refine Kept.cut (t := x) ?_ ?_; rotate_left 1; intro hx; clear_value x; rotate_left 1; subst x)
        | subst x)
    | split
    | intro _
    | (simp [Kept, *]; done)

    | dsimp only

@[simp] theorem readRail_kept (s : State) (r mv : Nat) : Kept s (readRail s r mv) := by
  unfold readRail
  repeat' first
    | with_reducible assumption
    | with_reducible exact Kept.refl _
    | (extract_lets +onlyGivenNames x; first
        | (refine Kept.cut (t := x) ?_ ?_; rotate_left 1; intro hx; clear_value x; rotate_left 1; subst x)
        | subst x)
    | split
    | intro _
    | (simp [Kept, *]; done)

    | dsimp only

@[simp] theorem noteExcursion_kept (s : State) (rail mv us : Nat) : Kept s (noteExcursion s rail mv us) := by
  unfold noteExcursion
  repeat' first
    | with_reducible assumption
    | with_reducible exact Kept.refl _
    | (extract_lets +onlyGivenNames x; first
        | (refine Kept.cut (t := x) ?_ ?_; rotate_left 1; intro hx; clear_value x; rotate_left 1; subst x)
        | subst x)
    | split
    | intro _
    | (simp [Kept, *]; done)

    | dsimp only

@[simp] theorem railBack_kept (s : State) (rail : Nat) : Kept s (railBack s rail) := by
  unfold railBack
  repeat' first
    | with_reducible assumption
    | with_reducible exact Kept.refl _
    | (extract_lets +onlyGivenNames x; first
        | (refine Kept.cut (t := x) ?_ ?_; rotate_left 1; intro hx; clear_value x; rotate_left 1; subst x)
        | subst x)
    | with_reducible refine forEach_kept _ _ _ ?_
    | with_reducible refine Kept.trans ?_ (forEach_kept _ _ _ ?_)
    | split
    | intro _
    | (simp [Kept, *]; done)

    | dsimp only

@[simp] theorem endAudit_kept (s : State) (status detail : Nat) : Kept s (endAudit s status detail) := by
  unfold endAudit
  repeat' first
    | with_reducible assumption
    | with_reducible exact Kept.refl _
    | (extract_lets +onlyGivenNames x; first
        | (refine Kept.cut (t := x) ?_ ?_; rotate_left 1; intro hx; clear_value x; rotate_left 1; subst x)
        | subst x)
    | split
    | intro _
    | (simp [Kept, *]; done)

    | dsimp only

@[simp] theorem auditFit_kept (s : State) : Kept s (auditFit s) := by
  unfold auditFit
  repeat' first
    | with_reducible assumption
    | with_reducible exact Kept.refl _
    | (extract_lets +onlyGivenNames x; first
        | (refine Kept.cut (t := x) ?_ ?_; rotate_left 1; intro hx; clear_value x; rotate_left 1; subst x)
        | subst x)
    | split
    | intro _
    | (simp [Kept, *]; done)

    | dsimp only

@[simp] theorem startAudit_kept (s : State) (op : Option (Sender × Nat)) : Kept s (startAudit s op) := by
  unfold startAudit
  repeat' first
    | with_reducible assumption
    | with_reducible exact Kept.refl _
    | (extract_lets +onlyGivenNames x; first
        | (refine Kept.cut (t := x) ?_ ?_; rotate_left 1; intro hx; clear_value x; rotate_left 1; subst x)
        | subst x)
    | split
    | intro _
    | (simp [Kept, *]; done)

    | dsimp only

@[simp] theorem chargeControl_kept (s : State) : Kept s (chargeControl s) := by
  unfold chargeControl
  repeat' first
    | with_reducible assumption
    | with_reducible exact Kept.refl _
    | (extract_lets +onlyGivenNames x; first
        | (refine Kept.cut (t := x) ?_ ?_; rotate_left 1; intro hx; clear_value x; rotate_left 1; subst x)
        | subst x)
    | split
    | intro _
    | (simp [Kept, *]; done)

    | dsimp only

@[simp] theorem overVoltage_kept (s : State) : Kept s (overVoltage s) := by
  unfold overVoltage
  repeat' first
    | with_reducible assumption
    | with_reducible exact Kept.refl _
    | (extract_lets +onlyGivenNames x; first
        | (refine Kept.cut (t := x) ?_ ?_; rotate_left 1; intro hx; clear_value x; rotate_left 1; subst x)
        | subst x)
    | split
    | intro _
    | (simp [Kept, *]; done)

    | dsimp only

@[simp] theorem afterConversion_kept (due : Bool) (s : State) : Kept s (afterConversion due s) := by
  unfold afterConversion
  (repeat' split) <;> simp [Kept]

@[simp] theorem auditOver_kept (s : State) : Kept s (auditOver s) := by
  unfold auditOver
  repeat' first
    | with_reducible assumption
    | with_reducible exact Kept.refl _
    | (extract_lets +onlyGivenNames x; first
        | (refine Kept.cut (t := x) ?_ ?_; rotate_left 1; intro hx; clear_value x; rotate_left 1; subst x)
        | subst x)
    | split
    | intro _
    | (simp [Kept, *]; done)

    | dsimp only

@[simp] theorem pmicRead_kept (s : State) (answer' : Option (List Nat)) : Kept s (pmicRead s answer') := by
  unfold pmicRead
  repeat' first
    | with_reducible assumption
    | with_reducible exact Kept.refl _
    | (extract_lets +onlyGivenNames x; first
        | (refine Kept.cut (t := x) ?_ ?_; rotate_left 1; intro hx; clear_value x; rotate_left 1; subst x)
        | subst x)
    | split
    | intro _
    | (simp [Kept, *]; done)

    | dsimp only

/-! ### Pools -/

@[simp] theorem setQuota_kept (s : State) (pool count : Nat) : Kept s (setQuota s pool count) := by
  unfold setQuota
  (repeat' split) <;> simp [Kept]

/-! ### Fetch -/

@[simp] theorem adminTurn_kept (s : State) (f : Nat) : Kept s (adminTurn s f) := by
  unfold adminTurn
  (repeat' split) <;> simp [Kept]

@[simp] theorem fetchTurn_kept (s : State) : Kept s (fetchTurn s) := by
  unfold fetchTurn
  repeat' first
    | with_reducible assumption
    | with_reducible exact Kept.refl _
    | (extract_lets +onlyGivenNames x; first
        | (refine Kept.cut (t := x) ?_ ?_; rotate_left 1; intro hx; clear_value x; rotate_left 1; subst x)
        | subst x)
    | split
    | intro _
    | (simp [Kept, *]; done)

    | dsimp only

@[simp] theorem fetchAll_kept (s : State) : Kept s (fetchAll s) := by
  unfold fetchAll
  (repeat' split) <;> simp [Kept]

/-! ### Battened -/

@[simp] theorem ranksRest_kept (s : State) (on : Bool) : Kept s (ranksRest s on) := by
  unfold ranksRest
  (repeat' split) <;> simp [Kept]

@[simp] theorem enterBattened_kept (s : State) : Kept s (enterBattened s) := by
  unfold enterBattened
  repeat' first
    | with_reducible assumption
    | with_reducible exact Kept.refl _
    | (extract_lets +onlyGivenNames x; first
        | (refine Kept.cut (t := x) ?_ ?_; rotate_left 1; intro hx; clear_value x; rotate_left 1; subst x)
        | subst x)
    | with_reducible refine forEach_kept _ _ _ ?_
    | with_reducible refine Kept.trans ?_ (forEach_kept _ _ _ ?_)
    | split
    | intro _
    | (simp [Kept, *]; done)

    | dsimp only

@[simp] theorem abandonEntry_kept (s : State) (cause : Nat) : Kept s (abandonEntry s cause) := by
  unfold abandonEntry
  (repeat' split) <;> simp [Kept]

/-! ### Boot -/

@[simp] theorem restartAon_kept (s : State) (clean : Bool) : Kept s (restartAon s clean) := by
  unfold restartAon
  repeat' first
    | with_reducible assumption
    | with_reducible exact Kept.refl _
    | (extract_lets +onlyGivenNames x; first
        | (refine Kept.cut (t := x) ?_ ?_; rotate_left 1; intro hx; clear_value x; rotate_left 1; subst x)
        | subst x)
    | split
    | intro _
    | (simp [Kept, *]; done)

    | dsimp only

@[simp] theorem profileEvent_kept (s : State) (sev record offset old new : Nat) : Kept s (profileEvent s sev record offset old new) := by
  unfold profileEvent
  repeat' first
    | with_reducible assumption
    | with_reducible exact Kept.refl _
    | (extract_lets +onlyGivenNames x; first
        | (refine Kept.cut (t := x) ?_ ?_; rotate_left 1; intro hx; clear_value x; rotate_left 1; subst x)
        | subst x)
    | split
    | intro _
    | (simp [Kept, *]; done)

    | dsimp only

@[simp] theorem provision_kept (s : State) : Kept s (provision s) := by
  unfold provision
  repeat' first
    | with_reducible assumption
    | with_reducible exact Kept.refl _
    | (extract_lets +onlyGivenNames x; first
        | (refine Kept.cut (t := x) ?_ ?_; rotate_left 1; intro hx; clear_value x; rotate_left 1; subst x)
        | subst x)
    | split
    | intro _
    | (simp [Kept, *]; done)

    | dsimp only

@[simp] theorem restrict_kept (s : State) (reason : Nat) (formB : Bool) : Kept s (restrict s reason formB) := by
  unfold restrict
  repeat' first
    | with_reducible assumption
    | with_reducible exact Kept.refl _
    | (extract_lets +onlyGivenNames x; first
        | (refine Kept.cut (t := x) ?_ ?_; rotate_left 1; intro hx; clear_value x; rotate_left 1; subst x)
        | subst x)
    | with_reducible refine forEach_kept _ _ _ ?_
    | with_reducible refine Kept.trans ?_ (forEach_kept _ _ _ ?_)
    | split
    | intro _
    | (simp [Kept, *]; done)

    | dsimp only

@[simp] theorem trainEvent_kept (s : State) (chB : Bool) (rank outcome : Nat) : Kept s (trainEvent s chB rank outcome) := by
  unfold trainEvent
  repeat' first
    | with_reducible assumption
    | with_reducible exact Kept.refl _
    | (extract_lets +onlyGivenNames x; first
        | (refine Kept.cut (t := x) ?_ ?_; rotate_left 1; intro hx; clear_value x; rotate_left 1; subst x)
        | subst x)
    | split
    | intro _
    | (simp [Kept, *]; done)

    | dsimp only

@[simp] theorem trainChannel_kept (s : State) (chB : Bool) (passed : List Bool) (b : Nat) : Kept s (trainChannel s chB passed b) := by
  unfold trainChannel
  repeat' first
    | with_reducible assumption
    | with_reducible exact Kept.refl _
    | (extract_lets +onlyGivenNames x; first
        | (refine Kept.cut (t := x) ?_ ?_; rotate_left 1; intro hx; clear_value x; rotate_left 1; subst x)
        | subst x)
    | with_reducible refine forEach_kept _ _ _ ?_
    | with_reducible refine Kept.trans ?_ (forEach_kept _ _ _ ?_)
    | split
    | intro _
    | (simp [Kept, *]; done)

    | dsimp only

@[simp] theorem fillChannel_kept (s : State) (chB : Bool) : Kept s (fillChannel s chB) := by
  unfold fillChannel
  repeat' first
    | with_reducible assumption
    | with_reducible exact Kept.refl _
    | (extract_lets +onlyGivenNames x; first
        | (refine Kept.cut (t := x) ?_ ?_; rotate_left 1; intro hx; clear_value x; rotate_left 1; subst x)
        | subst x)
    | split
    | intro _
    | (simp [Kept, *]; done)

    | dsimp only

@[simp] theorem placeRegions_kept (s : State) (d : List Nat) : Kept s (placeRegions s d) := by
  unfold placeRegions
  repeat' first
    | with_reducible assumption
    | with_reducible exact Kept.refl _
    | (extract_lets +onlyGivenNames x; first
        | (refine Kept.cut (t := x) ?_ ?_; rotate_left 1; intro hx; clear_value x; rotate_left 1; subst x)
        | subst x)
    | split
    | intro _
    | (simp [Kept, *]; done)

    | dsimp only

@[simp] theorem deferEvents_kept (s : State) (old new : Profile) : Kept s (deferEvents s old new) := by
  unfold deferEvents
  repeat' first
    | with_reducible assumption
    | with_reducible exact Kept.refl _
    | (extract_lets +onlyGivenNames x; first
        | (refine Kept.cut (t := x) ?_ ?_; rotate_left 1; intro hx; clear_value x; rotate_left 1; subst x)
        | subst x)
    | split
    | intro _
    | (simp [Kept, *]; done)

    | dsimp only

@[simp] theorem cutLimits_kept (s : State) : Kept s (cutLimits s) := by
  unfold cutLimits
  repeat' first
    | with_reducible assumption
    | with_reducible exact Kept.refl _
    | (extract_lets +onlyGivenNames x; first
        | (refine Kept.cut (t := x) ?_ ?_; rotate_left 1; intro hx; clear_value x; rotate_left 1; subst x)
        | subst x)
    | split
    | intro _
    | (simp [Kept, *]; done)

    | dsimp only

@[simp] theorem releaseIslands_kept (s : State) : Kept s (releaseIslands s) := by
  unfold releaseIslands
  repeat' first
    | with_reducible assumption
    | with_reducible exact Kept.refl _
    | (extract_lets +onlyGivenNames x; first
        | (refine Kept.cut (t := x) ?_ ?_; rotate_left 1; intro hx; clear_value x; rotate_left 1; subst x)
        | subst x)
    | with_reducible refine forEach_kept _ _ _ ?_
    | with_reducible refine Kept.trans ?_ (forEach_kept _ _ _ ?_)
    | split
    | intro _
    | (simp [Kept, *]; done)

    | dsimp only

@[simp] theorem imageEvent_kept (s : State) (t : Nat) : Kept s (imageEvent s t) := by
  unfold imageEvent
  repeat' first
    | with_reducible assumption
    | with_reducible exact Kept.refl _
    | (extract_lets +onlyGivenNames x; first
        | (refine Kept.cut (t := x) ?_ ?_; rotate_left 1; intro hx; clear_value x; rotate_left 1; subst x)
        | subst x)
    | split
    | intro _
    | (simp [Kept, *]; done)

    | dsimp only

@[simp] theorem startDram_kept (s : State) (inp : StartupIn) : Kept s (startDram s inp) := by
  unfold startDram
  repeat' first
    | with_reducible assumption
    | with_reducible exact Kept.refl _
    | (extract_lets +onlyGivenNames x; first
        | (refine Kept.cut (t := x) ?_ ?_; rotate_left 1; intro hx; clear_value x; rotate_left 1; subst x)
        | subst x)
    | split
    | intro _
    | (simp [Kept, *]; done)

    | dsimp only

@[simp] theorem trainAll_kept (s : State) (inp : StartupIn) : Kept s (trainAll s inp) := by
  unfold trainAll
  repeat' first
    | with_reducible assumption
    | with_reducible exact Kept.refl _
    | (extract_lets +onlyGivenNames x; first
        | (refine Kept.cut (t := x) ?_ ?_; rotate_left 1; intro hx; clear_value x; rotate_left 1; subst x)
        | subst x)
    | split
    | intro _
    | (simp [Kept, *]; done)

    | dsimp only

@[simp] theorem bringFlash_kept (s : State) (inp : StartupIn) : Kept s (bringFlash s inp) := by
  unfold bringFlash
  repeat' first
    | with_reducible assumption
    | with_reducible exact Kept.refl _
    | (extract_lets +onlyGivenNames x; first
        | (refine Kept.cut (t := x) ?_ ?_; rotate_left 1; intro hx; clear_value x; rotate_left 1; subst x)
        | subst x)
    | with_reducible refine forEach_kept _ _ _ ?_
    | with_reducible refine Kept.trans ?_ (forEach_kept _ _ _ ?_)
    | split
    | intro _
    | (simp [Kept, *]; done)

    | dsimp only

@[simp] theorem cleanReady_kept (s : State) : Kept s (cleanReady s) := by
  unfold cleanReady
  repeat' first
    | with_reducible assumption
    | with_reducible exact Kept.refl _
    | (extract_lets +onlyGivenNames x; first
        | (refine Kept.cut (t := x) ?_ ?_; rotate_left 1; intro hx; clear_value x; rotate_left 1; subst x)
        | subst x)
    | split
    | intro _
    | (simp [Kept, *]; done)

    | dsimp only

@[simp] theorem startDivided_kept (s : State) (inp : StartupIn) (d : List Nat) : Kept s (startDivided s inp d) := by
  unfold startDivided
  dsimp only
  (repeat' split) <;> simp [Kept]

@[simp] theorem startUndivided_kept (s : State) : Kept s (startUndivided s) := by
  unfold startUndivided
  (repeat' split) <;> simp [Kept]

@[simp] theorem startWithDivision_kept (s : State) (inp : StartupIn) (o : Option (List Nat)) :
    Kept s (startWithDivision s inp o) := by
  cases o with
  | none => exact startUndivided_kept s
  | some d => exact startDivided_kept s inp d

@[simp] theorem startFlashSide_kept (s : State) (inp : StartupIn) : Kept s (startFlashSide s inp) := by
  unfold startFlashSide
  repeat' first
    | with_reducible assumption
    | with_reducible exact Kept.refl _
    | (extract_lets +onlyGivenNames x; first
        | (refine Kept.cut (t := x) ?_ ?_; rotate_left 1; intro hx; clear_value x; rotate_left 1; subst x)
        | subst x)
    | split
    | intro _
    | (simp [Kept, *]; done)

    | dsimp only

@[simp] theorem applyProfile_kept (s : State) (p : Profile) (inp : StartupIn) : Kept s (applyProfile s p inp) := by
  unfold applyProfile
  extract_lets bad others old eff s1 x1 x2 x3 x4 s2 s3
  have h1 : Kept s s1 := forEach_kept _ _ _ fun _ _ => profileEvent_kept ..
  clear_value s1
  have h2 : Kept s s2 := h1
  clear_value s2
  have h3 : Kept s s3 := h2.trans (deferEvents_kept ..)
  clear_value s3 bad others
  generalize boundClash s3 p = o
  cases bad with
  | cons b l => exact h3.trans ((profileEvent_kept ..).trans (restrict_kept ..))
  | nil => cases o with
    | some e => exact h3.trans ((profileEvent_kept ..).trans (restrict_kept ..))
    | none =>
      dsimp only
      split
      · exact h3.trans ((profileEvent_kept ..).trans (restrict_kept ..))
      · split
        · exact h3.trans (restrict_kept ..)
        · exact h3.trans ((cutLimits_kept ..).trans (startFlashSide_kept ..))

@[simp] theorem useRidgeImages_kept (s : State) : Kept s (useRidgeImages s) := by
  unfold useRidgeImages
  repeat' first
    | with_reducible assumption
    | with_reducible exact Kept.refl _
    | (extract_lets +onlyGivenNames x; first
        | (refine Kept.cut (t := x) ?_ ?_; rotate_left 1; intro hx; clear_value x; rotate_left 1; subst x)
        | subst x)
    | split
    | intro _
    | (simp [Kept, *]; done)

    | dsimp only

@[simp] theorem startRegions_kept (s : State) (d : Option (List Nat)) : Kept s (startRegions s d) := by
  unfold startRegions
  repeat' first
    | with_reducible assumption
    | with_reducible exact Kept.refl _
    | (extract_lets +onlyGivenNames x; first
        | (refine Kept.cut (t := x) ?_ ?_; rotate_left 1; intro hx; clear_value x; rotate_left 1; subst x)
        | subst x)
    | split
    | intro _
    | (simp [Kept, *]; done)

    | dsimp only

@[simp] theorem buildTable_kept (s : State) (p : Profile) : Kept s (buildTable s p) := by
  unfold buildTable
  (repeat' split) <;> simp [Kept]

@[simp] theorem startUnprovisioned_kept (s : State) : Kept s (startUnprovisioned s) := by
  unfold startUnprovisioned
  repeat' first
    | with_reducible assumption
    | with_reducible exact Kept.refl _
    | (extract_lets +onlyGivenNames x; first
        | (refine Kept.cut (t := x) ?_ ?_; rotate_left 1; intro hx; clear_value x; rotate_left 1; subst x)
        | subst x)
    | split
    | intro _
    | (simp [Kept, *]; done)

    | dsimp only

@[simp] theorem startPurlin_kept (s : State) (c : ImageCopy) : Kept s (startPurlin s c) := by
  unfold startPurlin
  repeat' first
    | with_reducible assumption
    | with_reducible exact Kept.refl _
    | (extract_lets +onlyGivenNames x; first
        | (refine Kept.cut (t := x) ?_ ?_; rotate_left 1; intro hx; clear_value x; rotate_left 1; subst x)
        | subst x)
    | split
    | intro _
    | (simp [Kept, *]; done)

    | dsimp only

@[simp] theorem startProfile_kept (s : State) (p : Profile) (inp : StartupIn) : Kept s (startProfile s p inp) := by
  unfold startProfile
  repeat' first
    | with_reducible assumption
    | with_reducible exact Kept.refl _
    | (extract_lets +onlyGivenNames x; first
        | (refine Kept.cut (t := x) ?_ ?_; rotate_left 1; intro hx; clear_value x; rotate_left 1; subst x)
        | subst x)
    | split
    | intro _
    | (simp [Kept, *]; done)

    | dsimp only

@[simp] theorem startImages_kept (s : State) (p : Profile) (inp : StartupIn) : Kept s (startImages s p inp) := by
  unfold startImages
  (repeat' split) <;> simp [Kept]

@[simp] theorem startUp_kept (s : State) (inp : StartupIn) : Kept s (startUp s inp) := by
  unfold startUp
  (repeat' split) <;> simp [Kept]

/-! ### Mailboxes -/

@[simp] theorem pruneAnswers_kept (s : State) : Kept s (pruneAnswers s) := by
  unfold pruneAnswers
  (repeat' split) <;> simp [Kept]

@[simp] theorem bounce_kept (s : State) (rq : HmpReq) (status detail : Nat) : Kept s (bounce s rq status detail) := by
  unfold bounce
  (repeat' split) <;> simp [Kept]

@[simp] theorem takeRequest_kept (s : State) (st : Stream) (r : HmpRaw) (payload : List Byte) (dest : RespDest) : Kept s (takeRequest s st r payload dest) := by
  unfold takeRequest
  repeat' first
    | with_reducible assumption
    | with_reducible exact Kept.refl _
    | (extract_lets +onlyGivenNames x; first
        | (refine Kept.cut (t := x) ?_ ?_; rotate_left 1; intro hx; clear_value x; rotate_left 1; subst x)
        | subst x)
    | split
    | intro _
    | (simp [Kept, *]; done)

    | dsimp only

@[simp] theorem updMailbox_kept (s : State) (f : Nat) (g : MailboxSt → MailboxSt) : Kept s (updMailbox s f g) := by
  unfold updMailbox
  (repeat' split) <;> simp [Kept]

@[simp] theorem barWrite_devTime (s : State) (f : Nat) (g : State → State) (h : ∀ s, (g s).tm.devTime = s.tm.devTime) : (barWrite s f g).tm.devTime = s.tm.devTime := by
  unfold barWrite
  (repeat' split) <;> simp [h]

@[simp] theorem barWrite_da (s : State) (f : Nat) (g : State → State) (h : ∀ s, (g s).dram.da.cells = s.dram.da.cells) : (barWrite s f g).dram.da.cells = s.dram.da.cells := by
  unfold barWrite
  (repeat' split) <;> simp [h]

@[simp] theorem barWrite_db (s : State) (f : Nat) (g : State → State) (h : ∀ s, (g s).dram.db.cells = s.dram.db.cells) : (barWrite s f g).dram.db.cells = s.dram.db.cells := by
  unfold barWrite
  (repeat' split) <;> simp [h]

@[simp] theorem barWrite_crypto (s : State) (f : Nat) (g : State → State) (h : ∀ s, (g s).sec.cryptoDisable = s.sec.cryptoDisable) : (barWrite s f g).sec.cryptoDisable = s.sec.cryptoDisable := by
  unfold barWrite
  (repeat' split) <;> simp [h]

@[simp] theorem barWrite_kazok (s : State) (f : Nat) (g : State → State) (h : ∀ s, (g s).sec.kazokRevoke = s.sec.kazokRevoke) : (barWrite s f g).sec.kazokRevoke = s.sec.kazokRevoke := by
  unfold barWrite
  (repeat' split) <;> simp [h]

@[simp] theorem barWrite_pending (s : State) (f : Nat) (g : State → State) (h : ∀ s, (g s).pending = s.pending) : (barWrite s f g).pending = s.pending := by
  unfold barWrite
  (repeat' split) <;> simp [h]

@[simp] theorem enableMailbox_kept (s : State) (f : Nat) : Kept s (enableMailbox s f) := by
  unfold enableMailbox
  (repeat' split) <;> simp [Kept]

@[simp] theorem disableMailbox_kept (s : State) (f : Nat) : Kept s (disableMailbox s f) := by
  unfold disableMailbox
  (repeat' split) <;> simp [Kept]

@[simp] theorem writeReqTail_kept (s : State) (f v : Nat) : Kept s (writeReqTail s f v) := by
  unfold writeReqTail
  (repeat' split) <;> simp [Kept]

@[simp] theorem writeRspHead_kept (s : State) (f v : Nat) : Kept s (writeRspHead s f v) := by
  unfold writeRspHead
  (repeat' split) <;> simp [Kept]

@[simp] theorem dmaError_kept (s : State) (f slot : Nat) : Kept s (dmaError s f slot) := by
  unfold dmaError
  (repeat' split) <;> simp [Kept]

@[simp] theorem postLost_kept (s : State) (rq : HmpReq) : Kept s (postLost s rq) := by
  unfold postLost
  (repeat' split) <;> simp [Kept]

@[simp] theorem settleResponse_kept (s : State) (f : Nat) (p : Posting) : Kept s (settleResponse s f p) := by
  unfold settleResponse
  (repeat' split) <;> simp [Kept]

@[simp] theorem runPost_kept (a : AdmHdr) (dwords : Nat) (raw : Option HmpRaw) (s : State) : Kept s (runPost a dwords raw s) := by
  unfold runPost
  repeat' first
    | with_reducible assumption
    | with_reducible exact Kept.refl _
    | (extract_lets +onlyGivenNames x; first
        | (refine Kept.cut (t := x) ?_ ?_; rotate_left 1; intro hx; clear_value x; rotate_left 1; subst x)
        | subst x)
    | with_reducible refine forEach_kept _ _ _ ?_
    | with_reducible refine Kept.trans ?_ (forEach_kept _ _ _ ?_)
    | split
    | intro _
    | (simp [Kept, *]; done)
    | dsimp only

@[simp] theorem runExchange_kept (a : AdmHdr) (dwords : Nat) (raw : Option HmpRaw) (s : State) : Kept s (runExchange a dwords raw s) := by
  unfold runExchange
  dsimp only
  (repeat' split) <;> simp [Kept]

@[simp] theorem runCollect_kept (a : AdmHdr) (tag room waitMs : Nat) (s : State) : Kept s (runCollect a tag room waitMs s) := by
  unfold runCollect
  (repeat' split) <;> simp [Kept]

@[simp] theorem adminHmp_devTime (s : State) (a : AdmHdr) (w : AdmHmp) (g : State → State) (h : ∀ s, (g s).tm.devTime = s.tm.devTime) : (adminHmp s a w g).tm.devTime = s.tm.devTime := by
  unfold adminHmp
  split
  · rfl
  · split
    · rfl
    · exact h s

@[simp] theorem adminHmp_da (s : State) (a : AdmHdr) (w : AdmHmp) (g : State → State) (h : ∀ s, (g s).dram.da.cells = s.dram.da.cells) : (adminHmp s a w g).dram.da.cells = s.dram.da.cells := by
  unfold adminHmp
  split
  · rfl
  · split
    · rfl
    · exact h s

@[simp] theorem adminHmp_db (s : State) (a : AdmHdr) (w : AdmHmp) (g : State → State) (h : ∀ s, (g s).dram.db.cells = s.dram.db.cells) : (adminHmp s a w g).dram.db.cells = s.dram.db.cells := by
  unfold adminHmp
  split
  · rfl
  · split
    · rfl
    · exact h s

@[simp] theorem adminHmp_crypto (s : State) (a : AdmHdr) (w : AdmHmp) (g : State → State) (h : ∀ s, (g s).sec.cryptoDisable = s.sec.cryptoDisable) : (adminHmp s a w g).sec.cryptoDisable = s.sec.cryptoDisable := by
  unfold adminHmp
  split
  · rfl
  · split
    · rfl
    · exact h s

@[simp] theorem adminHmp_kazok (s : State) (a : AdmHdr) (w : AdmHmp) (g : State → State) (h : ∀ s, (g s).sec.kazokRevoke = s.sec.kazokRevoke) : (adminHmp s a w g).sec.kazokRevoke = s.sec.kazokRevoke := by
  unfold adminHmp
  split
  · rfl
  · split
    · rfl
    · exact h s

@[simp] theorem adminHmp_pending (s : State) (a : AdmHdr) (w : AdmHmp) (g : State → State) (h : ∀ s, (g s).pending = s.pending) : (adminHmp s a w g).pending = s.pending := by
  unfold adminHmp
  split
  · rfl
  · split
    · rfl
    · exact h s

@[simp] theorem cancel_kept (s : State) (q : HmpHdr) (target : Nat) : Kept s (cancel s q target).2 := by
  unfold cancel
  (repeat' split) <;> simp [Kept]

@[simp] theorem runCancel_kept (q : HmpHdr) (target cid : Nat) (s : State) : Kept s (runCancel q target cid s) := by
  unfold runCancel
  (repeat' split) <;> simp [Kept]

@[simp] theorem runWaiting_kept (s : State) : Kept s (runWaiting s) := by
  unfold runWaiting
  repeat' first
    | with_reducible assumption
    | with_reducible exact Kept.refl _
    | (extract_lets +onlyGivenNames x; first
        | (refine Kept.cut (t := x) ?_ ?_; rotate_left 1; intro hx; clear_value x; rotate_left 1; subst x)
        | subst x)
    | with_reducible refine forEach_kept _ _ _ ?_
    | with_reducible refine Kept.trans ?_ (forEach_kept _ _ _ ?_)
    | split
    | intro _
    | (simp [Kept, *]; done)
    | dsimp only

/-! ### Build -/

@[simp] theorem markDies_kept (s : State) : Kept s (markDies s) := by
  unfold markDies
  repeat' first
    | with_reducible assumption
    | with_reducible exact Kept.refl _
    | (extract_lets +onlyGivenNames x; first
        | (refine Kept.cut (t := x) ?_ ?_; rotate_left 1; intro hx; clear_value x; rotate_left 1; subst x)
        | subst x)
    | with_reducible refine forEach_kept _ _ _ ?_
    | with_reducible refine Kept.trans ?_ (forEach_kept _ _ _ ?_)
    | split
    | intro _
    | (simp [Kept, *]; done)

    | dsimp only

@[simp] theorem takePending_kept (s : State) : Kept s (takePending s) := by
  unfold takePending
  (repeat' split) <;> simp [Kept]

@[simp] theorem putGeometry_kept (s : State) (gg k : Nat) (conv : List Nat) (ts : Tbl Nat Nat) : Kept s (putGeometry s gg k conv ts) := by
  unfold putGeometry
  (repeat' split) <;> simp [Kept]

theorem buildGeometry_kept {s : State} {r} (h : buildGeometry s = some r) : Kept s r := by
  unfold buildGeometry at h
  extract_lets s1 p gg set0 k conv ts at h
  have h1 : Kept s s1 := (takePending_kept ..).trans (markDies_kept ..)
  clear_value conv ts k gg set0 p s1
  split at h
  · injection h with h
    subst h
    exact h1.trans (putGeometry_kept s1 gg k conv ts)
  · cases h

/-! ### Namespaces -/

@[simp] theorem adminServe_devTime (s : State) (a : AdmHdr) (p r : Bool) (body : State → State) (h : ∀ s, (body s).tm.devTime = s.tm.devTime) : (adminServe s a p r body).tm.devTime = s.tm.devTime := by
  unfold adminServe
  (repeat' split) <;> simp [h]

@[simp] theorem adminServe_da (s : State) (a : AdmHdr) (p r : Bool) (body : State → State) (h : ∀ s, (body s).dram.da.cells = s.dram.da.cells) : (adminServe s a p r body).dram.da.cells = s.dram.da.cells := by
  unfold adminServe
  (repeat' split) <;> simp [h]

@[simp] theorem adminServe_db (s : State) (a : AdmHdr) (p r : Bool) (body : State → State) (h : ∀ s, (body s).dram.db.cells = s.dram.db.cells) : (adminServe s a p r body).dram.db.cells = s.dram.db.cells := by
  unfold adminServe
  (repeat' split) <;> simp [h]

@[simp] theorem adminServe_crypto (s : State) (a : AdmHdr) (p r : Bool) (body : State → State) (h : ∀ s, (body s).sec.cryptoDisable = s.sec.cryptoDisable) : (adminServe s a p r body).sec.cryptoDisable = s.sec.cryptoDisable := by
  unfold adminServe
  (repeat' split) <;> simp [h]

@[simp] theorem adminServe_kazok (s : State) (a : AdmHdr) (p r : Bool) (body : State → State) (h : ∀ s, (body s).sec.kazokRevoke = s.sec.kazokRevoke) : (adminServe s a p r body).sec.kazokRevoke = s.sec.kazokRevoke := by
  unfold adminServe
  (repeat' split) <;> simp [h]

@[simp] theorem adminServe_pending (s : State) (a : AdmHdr) (p r : Bool) (body : State → State) (h : ∀ s, (body s).pending = s.pending) : (adminServe s a p r body).pending = s.pending := by
  unfold adminServe
  (repeat' split) <;> simp [h]

@[simp] theorem putSets_kept (s : State) (new : Tbl Nat BaySetSt) : Kept s (putSets s new) := by
  unfold putSets
  repeat' first
    | with_reducible assumption
    | with_reducible exact Kept.refl _
    | (extract_lets +onlyGivenNames x; first
        | (refine Kept.cut (t := x) ?_ ?_; rotate_left 1; intro hx; clear_value x; rotate_left 1; subst x)
        | subst x)
    | with_reducible refine forEach_kept _ _ _ ?_
    | with_reducible refine Kept.trans ?_ (forEach_kept _ _ _ ?_)
    | split
    | intro _
    | (simp [Kept, *]; done)

    | dsimp only

@[simp] theorem storeKeys_kept (s : State) : Kept s (storeKeys s) := by
  unfold storeKeys
  repeat' first
    | with_reducible assumption
    | with_reducible exact Kept.refl _
    | (extract_lets +onlyGivenNames x; first
        | (refine Kept.cut (t := x) ?_ ?_; rotate_left 1; intro hx; clear_value x; rotate_left 1; subst x)
        | subst x)
    | split
    | intro _
    | (simp [Kept, *]; done)

    | dsimp only

@[simp] theorem clearNsKeys_kept (s : State) (nsid : Nat) : Kept s (clearNsKeys s nsid) := by
  unfold clearNsKeys
  repeat' first
    | exact Kept.refl _
    | with_reducible refine Kept.ite ?_ ?_
    | (simp [Kept]; done)
    | split
    | dsimp only

@[simp] theorem drawKey_kept (s : State) (nsid : Nat) : Kept s (drawKey s nsid) := by
  unfold drawKey
  repeat' first
    | exact Kept.refl _
    | with_reducible refine Kept.ite ?_ ?_
    | (simp [Kept]; done)
    | split
    | dsimp only

@[simp] theorem endRollover_kept (s : State) (nsid status : Nat) : Kept s (endRollover s nsid status) := by
  unfold endRollover
  repeat' first
    | with_reducible assumption
    | with_reducible exact Kept.refl _
    | (extract_lets +onlyGivenNames x; first
        | (refine Kept.cut (t := x) ?_ ?_; rotate_left 1; intro hx; clear_value x; rotate_left 1; subst x)
        | subst x)
    | with_reducible refine forEach_kept _ _ _ ?_
    | with_reducible refine Kept.trans ?_ (forEach_kept _ _ _ ?_)
    | split
    | intro _
    | (simp [Kept, *]; done)

    | dsimp only

@[simp] theorem eraseNs_kept (ns : NsSt) (s : State) : Kept s (eraseNs ns s) := by
  unfold eraseNs
  repeat' first
    | with_reducible assumption
    | with_reducible exact Kept.refl _
    | (extract_lets +onlyGivenNames x; first
        | (refine Kept.cut (t := x) ?_ ?_; rotate_left 1; intro hx; clear_value x; rotate_left 1; subst x)
        | subst x)
    | with_reducible refine forEach_kept _ _ _ ?_
    | with_reducible refine Kept.trans ?_ (forEach_kept _ _ _ ?_)
    | split
    | intro _
    | (simp [Kept, *]; done)

    | dsimp only

@[simp] theorem addNs_kept (s : State) (ns : NsSt) : Kept s (addNs s ns) := by
  unfold addNs
  repeat' first
    | with_reducible assumption
    | with_reducible exact Kept.refl _
    | (extract_lets +onlyGivenNames x; first
        | (refine Kept.cut (t := x) ?_ ?_; rotate_left 1; intro hx; clear_value x; rotate_left 1; subst x)
        | subst x)
    | with_reducible refine forEach_kept _ _ _ ?_
    | with_reducible refine Kept.trans ?_ (forEach_kept _ _ _ ?_)
    | split
    | intro _
    | (simp [Kept, *]; done)

    | dsimp only

@[simp] theorem lastGone_kept (s : State) : Kept s (lastGone s) := by
  unfold lastGone
  repeat' first
    | with_reducible assumption
    | with_reducible exact Kept.refl _
    | (extract_lets +onlyGivenNames x; first
        | (refine Kept.cut (t := x) ?_ ?_; rotate_left 1; intro hx; clear_value x; rotate_left 1; subst x)
        | subst x)
    | with_reducible refine forEach_kept _ _ _ ?_
    | with_reducible refine Kept.trans ?_ (forEach_kept _ _ _ ?_)
    | split
    | intro _
    | (simp [Kept, *]; done)

    | dsimp only

@[simp] theorem withdrawNs_kept (s : State) (nsid : Nat) (fn? : Option Nat) : Kept s (withdrawNs s nsid fn?) := by
  unfold withdrawNs
  repeat' first
    | with_reducible assumption
    | with_reducible exact Kept.refl _
    | (extract_lets +onlyGivenNames x; first
        | (refine Kept.cut (t := x) ?_ ?_; rotate_left 1; intro hx; clear_value x; rotate_left 1; subst x)
        | subst x)
    | with_reducible refine forEach_kept _ _ _ ?_
    | with_reducible refine Kept.trans ?_ (forEach_kept _ _ _ ?_)
    | split
    | intro _
    | (simp [Kept, *]; done)

    | dsimp only

@[simp] theorem deleteNs_kept (ns : NsSt) (s : State) : Kept s (deleteNs ns s) := by
  unfold deleteNs
  repeat' first
    | with_reducible assumption
    | with_reducible exact Kept.refl _
    | (extract_lets +onlyGivenNames x; first
        | (refine Kept.cut (t := x) ?_ ?_; rotate_left 1; intro hx; clear_value x; rotate_left 1; subst x)
        | subst x)
    | with_reducible refine forEach_kept _ _ _ ?_
    | with_reducible refine Kept.trans ?_ (forEach_kept _ _ _ ?_)
    | split
    | intro _
    | (simp [Kept, *]; done)

    | dsimp only

@[simp] theorem updNs_kept (s : State) (nsid : Nat) (g : NsSt → NsSt) : Kept s (updNs s nsid g) := by
  unfold updNs
  repeat' first
    | with_reducible assumption
    | with_reducible exact Kept.refl _
    | (extract_lets +onlyGivenNames x; first
        | (refine Kept.cut (t := x) ?_ ?_; rotate_left 1; intro hx; clear_value x; rotate_left 1; subst x)
        | subst x)
    | split
    | intro _
    | (simp [Kept, *]; done)

    | dsimp only

@[simp] theorem reformat_kept (s : State) (ns : NsSt) (fmt : LbaFormat) : Kept s (reformat s ns fmt) := by
  unfold reformat
  (repeat' split) <;> simp [Kept]

@[simp] theorem cryptoErase_kept (ns : NsSt) (s : State) : Kept s (cryptoErase ns s) := by
  unfold cryptoErase
  repeat' first
    | with_reducible assumption
    | with_reducible exact Kept.refl _
    | (extract_lets +onlyGivenNames x; first
        | (refine Kept.cut (t := x) ?_ ?_; rotate_left 1; intro hx; clear_value x; rotate_left 1; subst x)
        | subst x)
    | split
    | intro _
    | (simp [Kept, *]; done)

    | dsimp only

theorem formatWith_keptF (s : State) (a : AdmHdr) (nsid : Nat) (fmt : LbaFormat) (g : NsSt → State → State) (h : ∀ ns s, Kept s (g ns s)) :
    Kept s (formatWith s a nsid fmt g) := by
  unfold formatWith
  split
  · exact adminDone_kept ..
  · exact adminDone_kept ..
  · rename_i ns _ _
    split
    · exact Kept.refl s
    · exact (((h ns s).trans (reformat_kept (g ns s) ns fmt)).trans (nsChanged_kept ..)).trans (adminDone_kept _ a .success 0 [])

@[simp] theorem formatCrypto_kept (s : State) (a : AdmHdr) (nsid : Nat) (fmt : LbaFormat) : Kept s (formatCrypto s a nsid fmt) := by
  unfold formatCrypto
  split
  · exact adminDone_kept s a .invalidField 0 []
  · exact formatWith_keptF s a nsid fmt cryptoErase cryptoErase_kept

@[simp] theorem startSanitize_kept (s : State) (a : AdmHdr) (blockErase : Bool) : Kept s (startSanitize s a blockErase) := by
  unfold startSanitize
  repeat' first
    | with_reducible assumption
    | with_reducible exact Kept.refl _
    | (extract_lets +onlyGivenNames x; first
        | (refine Kept.cut (t := x) ?_ ?_; rotate_left 1; intro hx; clear_value x; rotate_left 1; subst x)
        | subst x)
    | split
    | intro _
    | (simp [Kept, *]; done)

    | dsimp only

@[simp] theorem eraseBlocks_kept (d : DieNo) (s : State) : Kept s (eraseBlocks d s) := by
  unfold eraseBlocks
  (repeat' split) <;> simp [Kept]

@[simp] theorem sanitize_kept (s : State) : Kept s (sanitize s) := by
  unfold sanitize
  repeat' first
    | with_reducible assumption
    | with_reducible exact Kept.refl _
    | (extract_lets +onlyGivenNames x; first
        | (refine Kept.cut (t := x) ?_ ?_; rotate_left 1; intro hx; clear_value x; rotate_left 1; subst x)
        | subst x)
    | with_reducible refine forEach_kept _ _ _ ?_
    | with_reducible refine Kept.trans ?_ (forEach_kept _ _ _ ?_)
    | split
    | intro _
    | (simp [Kept, *]; done)

    | dsimp only

@[simp] theorem sanitizeTick_kept (s : State) : Kept s (sanitizeTick s) := by
  unfold sanitizeTick
  repeat' first
    | with_reducible assumption
    | with_reducible exact Kept.refl _
    | (extract_lets +onlyGivenNames x; first
        | (refine Kept.cut (t := x) ?_ ?_; rotate_left 1; intro hx; clear_value x; rotate_left 1; subst x)
        | subst x)
    | split
    | intro _
    | (simp [Kept, *]; done)

    | dsimp only

/-! ### PciSpace -/

@[simp] theorem writeExtCaps_kept (s : State) (off v : Nat) : Kept s (writeExtCaps s off v) := by
  unfold writeExtCaps
  (repeat' split) <;> simp [Kept]

@[simp] theorem writeConfig_kept (s : State) (fn off v : Nat) : Kept s (writeConfig s fn off v) := by
  unfold writeConfig
  (repeat' split) <;> simp [Kept]

/-! ### Recorder -/

@[simp] theorem programPage_kept (s : State) : Kept s (programPage s) := by
  unfold programPage
  repeat' first
    | with_reducible assumption
    | with_reducible exact Kept.refl _
    | (extract_lets +onlyGivenNames x; first
        | (refine Kept.cut (t := x) ?_ ?_; rotate_left 1; intro hx; clear_value x; rotate_left 1; subst x)
        | subst x)
    | split
    | intro _
    | (simp [Kept, *]; done)

    | dsimp only

@[simp] theorem dormerSnapshot_kept (s : State) (cursor : Nat) (permanent : Bool) : Kept s (dormerSnapshot s cursor permanent) := by
  unfold dormerSnapshot
  (repeat' split) <;> simp [Kept]

@[simp] theorem rejectRegister_kept (s : State) (fn bit offset : Nat) : Kept s (rejectRegister s fn bit offset) := by
  unfold rejectRegister
  (repeat' split) <;> simp [Kept]

/-! ### HostRegs -/

@[simp] theorem flushCq_kept (s : State) (fn cqid : Nat) : Kept s (flushCq s fn cqid) := by
  unfold flushCq
  repeat' first
    | with_reducible assumption
    | with_reducible exact Kept.refl _
    | (extract_lets +onlyGivenNames x; first
        | (refine Kept.cut (t := x) ?_ ?_; rotate_left 1; intro hx; clear_value x; rotate_left 1; subst x)
        | subst x)
    | with_reducible refine forEach_kept _ _ _ ?_
    | with_reducible refine Kept.trans ?_ (forEach_kept _ _ _ ?_)
    | split
    | intro _
    | (simp [Kept, *]; done)

    | dsimp only

@[simp] theorem writeMask_kept (s : State) (fn v : Nat) (masked : Bool) : Kept s (writeMask s fn v masked) := by
  unfold writeMask
  repeat' first
    | with_reducible assumption
    | with_reducible exact Kept.refl _
    | (extract_lets +onlyGivenNames x; first
        | (refine Kept.cut (t := x) ?_ ?_; rotate_left 1; intro hx; clear_value x; rotate_left 1; subst x)
        | subst x)
    | split
    | intro _
    | (simp [Kept, *]; done)

    | dsimp only

@[simp] theorem writeBar0_kept (s : State) (fn off v : Nat) : Kept s (writeBar0 s fn off v) := by
  unfold writeBar0
  (repeat' split) <;> simp [Kept]

@[simp] theorem writeMailboxB_kept (s : State) (fn off : Nat) (ok : Bool) (g : MailboxSt → MailboxSt) : Kept s (writeMailboxB s fn off ok g) := by
  unfold writeMailboxB
  (repeat' split) <;> simp [Kept]

@[simp] theorem writeMailboxControl_kept (s : State) (fn v : Nat) : Kept s (writeMailboxControl s fn v) := by
  unfold writeMailboxControl
  repeat' first
    | with_reducible assumption
    | with_reducible exact Kept.refl _
    | (extract_lets +onlyGivenNames x; first
        | (refine Kept.cut (t := x) ?_ ?_; rotate_left 1; intro hx; clear_value x; rotate_left 1; subst x)
        | subst x)
    | split
    | intro _
    | (simp [Kept, *]; done)

    | dsimp only

@[simp] theorem writeDormer_kept (s : State) (off v : Nat) : Kept s (writeDormer s off v) := by
  unfold writeDormer
  repeat' first
    | with_reducible assumption
    | with_reducible exact Kept.refl _
    | (extract_lets +onlyGivenNames x; first
        | (refine Kept.cut (t := x) ?_ ?_; rotate_left 1; intro hx; clear_value x; rotate_left 1; subst x)
        | subst x)
    | split
    | intro _
    | (simp [Kept, *]; done)

    | dsimp only

@[simp] theorem writeBar2_kept (s : State) (fn off v : Nat) : Kept s (writeBar2 s fn off v) := by
  simp [writeBar2, Kept, when', if_devTime, if_da, if_db, if_crypto, if_kazok, if_pending]

@[simp] theorem writeChannelReg_kept (s : State) (c off v : Nat) : Kept s (writeChannelReg s c off v) := by
  unfold writeChannelReg
  (repeat' split) <;> simp [Kept]

/-! ### Queues -/

@[simp] theorem pumpAer_kept (s : State) (f : Nat) : Kept s (pumpAer s f) := by
  unfold pumpAer
  refine foldl_kept _ _ _ fun s _ => ?_
  dsimp only
  split
  · exact (updFn_kept ..).trans (postAer_kept ..)
  · exact Kept.refl s

/-! ### Features -/

@[simp] theorem setServe_devTime (s : State) (a : AdmHdr) (body : State → State) (h : ∀ s, (body s).tm.devTime = s.tm.devTime) : (setServe s a body).tm.devTime = s.tm.devTime := by
  unfold setServe
  simp [h]

@[simp] theorem setServe_da (s : State) (a : AdmHdr) (body : State → State) (h : ∀ s, (body s).dram.da.cells = s.dram.da.cells) : (setServe s a body).dram.da.cells = s.dram.da.cells := by
  unfold setServe
  simp [h]

@[simp] theorem setServe_db (s : State) (a : AdmHdr) (body : State → State) (h : ∀ s, (body s).dram.db.cells = s.dram.db.cells) : (setServe s a body).dram.db.cells = s.dram.db.cells := by
  unfold setServe
  simp [h]

@[simp] theorem setServe_crypto (s : State) (a : AdmHdr) (body : State → State) (h : ∀ s, (body s).sec.cryptoDisable = s.sec.cryptoDisable) : (setServe s a body).sec.cryptoDisable = s.sec.cryptoDisable := by
  unfold setServe
  simp [h]

@[simp] theorem setServe_kazok (s : State) (a : AdmHdr) (body : State → State) (h : ∀ s, (body s).sec.kazokRevoke = s.sec.kazokRevoke) : (setServe s a body).sec.kazokRevoke = s.sec.kazokRevoke := by
  unfold setServe
  simp [h]

@[simp] theorem setServe_pending (s : State) (a : AdmHdr) (body : State → State) (h : ∀ s, (body s).pending = s.pending) : (setServe s a body).pending = s.pending := by
  unfold setServe
  simp [h]

@[simp] theorem setFeat_kept (s : State) (a : AdmHdr) (g : FeatSt → FeatSt) : Kept s (setFeat s a g) := by
  unfold setFeat
  (repeat' split) <;> simp [Kept]

/-! ### Change -/

@[simp] theorem writeB_kept (s : State) (c : ImageCopy) : Kept s (writeB s c) := by
  unfold writeB
  repeat' first
    | with_reducible assumption
    | with_reducible exact Kept.refl _
    | (extract_lets +onlyGivenNames x; first
        | (refine Kept.cut (t := x) ?_ ?_; rotate_left 1; intro hx; clear_value x; rotate_left 1; subst x)
        | subst x)
    | split
    | intro _
    | (simp [Kept, *]; done)

    | dsimp only

@[simp] theorem swapCopies_kept (s : State) (t : Nat) : Kept s (swapCopies s t) := by
  unfold swapCopies
  repeat' first
    | with_reducible assumption
    | with_reducible exact Kept.refl _
    | (extract_lets +onlyGivenNames x; first
        | (refine Kept.cut (t := x) ?_ ?_; rotate_left 1; intro hx; clear_value x; rotate_left 1; subst x)
        | subst x)
    | split
    | intro _
    | (simp [Kept, *]; done)

    | dsimp only

@[simp] theorem commitServe_devTime (s : State) (a : AdmHdr) (slot want : Nat) (g : State → State) (h : ∀ s, (g s).tm.devTime = s.tm.devTime) : (commitServe s a slot want g).tm.devTime = s.tm.devTime := by
  unfold commitServe
  refine adminServe_devTime _ _ _ _ _ fun s => ?_
  (repeat' split) <;> simp [h]

@[simp] theorem commitServe_da (s : State) (a : AdmHdr) (slot want : Nat) (g : State → State) (h : ∀ s, (g s).dram.da.cells = s.dram.da.cells) : (commitServe s a slot want g).dram.da.cells = s.dram.da.cells := by
  unfold commitServe
  refine adminServe_da _ _ _ _ _ fun s => ?_
  (repeat' split) <;> simp [h]

@[simp] theorem commitServe_db (s : State) (a : AdmHdr) (slot want : Nat) (g : State → State) (h : ∀ s, (g s).dram.db.cells = s.dram.db.cells) : (commitServe s a slot want g).dram.db.cells = s.dram.db.cells := by
  unfold commitServe
  refine adminServe_db _ _ _ _ _ fun s => ?_
  (repeat' split) <;> simp [h]

@[simp] theorem commitServe_crypto (s : State) (a : AdmHdr) (slot want : Nat) (g : State → State) (h : ∀ s, (g s).sec.cryptoDisable = s.sec.cryptoDisable) : (commitServe s a slot want g).sec.cryptoDisable = s.sec.cryptoDisable := by
  unfold commitServe
  refine adminServe_crypto _ _ _ _ _ fun s => ?_
  (repeat' split) <;> simp [h]

@[simp] theorem commitServe_kazok (s : State) (a : AdmHdr) (slot want : Nat) (g : State → State) (h : ∀ s, (g s).sec.kazokRevoke = s.sec.kazokRevoke) : (commitServe s a slot want g).sec.kazokRevoke = s.sec.kazokRevoke := by
  unfold commitServe
  refine adminServe_kazok _ _ _ _ _ fun s => ?_
  (repeat' split) <;> simp [h]

@[simp] theorem commitServe_pending (s : State) (a : AdmHdr) (slot want : Nat) (g : State → State) (h : ∀ s, (g s).pending = s.pending) : (commitServe s a slot want g).pending = s.pending := by
  unfold commitServe
  refine adminServe_pending _ _ _ _ _ fun s => ?_
  (repeat' split) <;> simp [h]

@[simp] theorem withStaged_devTime (s : State) (a : AdmHdr) (g : ImageCopy → State → State) (h : ∀ c s, (g c s).tm.devTime = s.tm.devTime) : (withStaged s a g).tm.devTime = s.tm.devTime := by
  unfold withStaged
  (repeat' split) <;> simp [h]

@[simp] theorem withStaged_da (s : State) (a : AdmHdr) (g : ImageCopy → State → State) (h : ∀ c s, (g c s).dram.da.cells = s.dram.da.cells) : (withStaged s a g).dram.da.cells = s.dram.da.cells := by
  unfold withStaged
  (repeat' split) <;> simp [h]

@[simp] theorem withStaged_db (s : State) (a : AdmHdr) (g : ImageCopy → State → State) (h : ∀ c s, (g c s).dram.db.cells = s.dram.db.cells) : (withStaged s a g).dram.db.cells = s.dram.db.cells := by
  unfold withStaged
  (repeat' split) <;> simp [h]

@[simp] theorem withStaged_crypto (s : State) (a : AdmHdr) (g : ImageCopy → State → State) (h : ∀ c s, (g c s).sec.cryptoDisable = s.sec.cryptoDisable) : (withStaged s a g).sec.cryptoDisable = s.sec.cryptoDisable := by
  unfold withStaged
  (repeat' split) <;> simp [h]

@[simp] theorem withStaged_kazok (s : State) (a : AdmHdr) (g : ImageCopy → State → State) (h : ∀ c s, (g c s).sec.kazokRevoke = s.sec.kazokRevoke) : (withStaged s a g).sec.kazokRevoke = s.sec.kazokRevoke := by
  unfold withStaged
  (repeat' split) <;> simp [h]

@[simp] theorem withStaged_pending (s : State) (a : AdmHdr) (g : ImageCopy → State → State) (h : ∀ c s, (g c s).pending = s.pending) : (withStaged s a g).pending = s.pending := by
  unfold withStaged
  (repeat' split) <;> simp [h]

@[simp] theorem startNewImage_kept (s : State) (t : Nat) : Kept s (startNewImage s t) := by
  unfold startNewImage
  repeat' first
    | with_reducible assumption
    | with_reducible exact Kept.refl _
    | (extract_lets +onlyGivenNames x; first
        | (refine Kept.cut (t := x) ?_ ?_; rotate_left 1; intro hx; clear_value x; rotate_left 1; subst x)
        | subst x)
    | split
    | intro _
    | (simp [Kept, *]; done)

    | dsimp only

@[simp] theorem activationNotice_kept (s : State) : Kept s (activationNotice s) := by
  unfold activationNotice
  repeat' first
    | with_reducible assumption
    | with_reducible exact Kept.refl _
    | (extract_lets +onlyGivenNames x; first
        | (refine Kept.cut (t := x) ?_ ?_; rotate_left 1; intro hx; clear_value x; rotate_left 1; subst x)
        | subst x)
    | split
    | intro _
    | (simp [Kept, *]; done)

    | dsimp only

@[simp] theorem putCores_kept (s : State) (t : Nat) (cs : List CoreSt) : Kept s (putCores s t cs) := by
  unfold putCores
  repeat' first
    | with_reducible assumption
    | with_reducible exact Kept.refl _
    | (extract_lets +onlyGivenNames x; first
        | (refine Kept.cut (t := x) ?_ ?_; rotate_left 1; intro hx; clear_value x; rotate_left 1; subst x)
        | subst x)
    | split
    | intro _
    | (simp [Kept, *]; done)

    | dsimp only

@[simp] theorem activationEvent_kept (s : State) (t old new : Nat) : Kept s (activationEvent s t old new) := by
  unfold activationEvent
  repeat' first
    | with_reducible assumption
    | with_reducible exact Kept.refl _
    | (extract_lets +onlyGivenNames x; first
        | (refine Kept.cut (t := x) ?_ ?_; rotate_left 1; intro hx; clear_value x; rotate_left 1; subst x)
        | subst x)
    | split
    | intro _
    | (simp [Kept, *]; done)

    | dsimp only

@[simp] theorem endActivation_kept (s : State) (st : NvmeStatus) : Kept s (endActivation s st) := by
  unfold endActivation
  repeat' first
    | with_reducible assumption
    | with_reducible exact Kept.refl _
    | (extract_lets +onlyGivenNames x; first
        | (refine Kept.cut (t := x) ?_ ?_; rotate_left 1; intro hx; clear_value x; rotate_left 1; subst x)
        | subst x)
    | split
    | intro _
    | (simp [Kept, *]; done)

    | dsimp only

@[simp] theorem applyField_kept (p' : Profile) (f : FieldSpec) (s : State) : Kept s (applyField p' f s) := by
  unfold applyField
  repeat' first
    | with_reducible assumption
    | with_reducible exact Kept.refl _
    | (extract_lets +onlyGivenNames x; first
        | (refine Kept.cut (t := x) ?_ ?_; rotate_left 1; intro hx; clear_value x; rotate_left 1; subst x)
        | subst x)
    | split
    | intro _
    | (simp [Kept, *]; done)

    | dsimp only

@[simp] theorem settleProfile_kept (old : Profile) (s : State) : Kept s (settleProfile old s) := by
  unfold settleProfile
  repeat' first
    | with_reducible assumption
    | with_reducible exact Kept.refl _
    | (extract_lets +onlyGivenNames x; first
        | (refine Kept.cut (t := x) ?_ ?_; rotate_left 1; intro hx; clear_value x; rotate_left 1; subst x)
        | subst x)
    | with_reducible refine forEach_kept _ _ _ ?_
    | with_reducible refine Kept.trans ?_ (forEach_kept _ _ _ ?_)
    | split
    | intro _
    | (simp [Kept, *]; done)

    | dsimp only

@[simp] theorem persist_kept (s : State) (i : ProfImage) : Kept s (persist s i) := by
  unfold persist
  repeat' first
    | with_reducible assumption
    | with_reducible exact Kept.refl _
    | (extract_lets +onlyGivenNames x; first
        | (refine Kept.cut (t := x) ?_ ?_; rotate_left 1; intro hx; clear_value x; rotate_left 1; subst x)
        | subst x)
    | split
    | intro _
    | (simp [Kept, *]; done)

    | dsimp only

@[simp] theorem applyUpdate_kept (s : State) (keep nextStart : Bool) (i : ProfImage) : Kept s (applyUpdate s keep nextStart i) := by
  unfold applyUpdate
  repeat' first
    | with_reducible assumption
    | with_reducible exact Kept.refl _
    | (extract_lets +onlyGivenNames x; first
        | (refine Kept.cut (t := x) ?_ ?_; rotate_left 1; intro hx; clear_value x; rotate_left 1; subst x)
        | subst x)
    | with_reducible refine forEach_kept _ _ _ ?_
    | with_reducible refine Kept.trans ?_ (forEach_kept _ _ _ ?_)
    | split
    | intro _
    | (simp [Kept, *]; done)

    | dsimp only

/-! ### ContractCmds -/

@[simp] theorem setContracts_kept (s : State) (fn : Nat) (ks : List Contract) : Kept s (setContracts s fn ks) := by
  unfold setContracts
  dsimp only
  (repeat' split) <;> simp [Kept]

/-! ### FaultEvents -/

@[simp] theorem channelReact_kept (s : State) (c off : Nat) (cap : Capture) : Kept s (channelReact s c off cap) := by
  unfold channelReact
  (repeat' split) <;> simp [Kept]

@[simp] theorem excludeRank_kept (s : State) (chB : Bool) (rank : Nat) : Kept s (excludeRank s chB rank) := by
  unfold excludeRank
  repeat' first
    | with_reducible assumption
    | with_reducible exact Kept.refl _
    | (extract_lets +onlyGivenNames x; first
        | (refine Kept.cut (t := x) ?_ ?_; rotate_left 1; intro hx; clear_value x; rotate_left 1; subst x)
        | subst x)
    | split
    | intro _
    | (simp [Kept, *]; done)

    | dsimp only

@[simp] theorem dramReact_kept (s : State) (chB : Bool) (off : Nat) (cap : Capture) : Kept s (dramReact s chB off cap) := by
  unfold dramReact
  (repeat' split) <;> simp [Kept]

@[simp] theorem hostViolation_kept (s : State) (cap : Capture) : Kept s (hostViolation s cap) := by
  unfold hostViolation
  (repeat' split) <;> simp [Kept]

@[simp] theorem transferViolation_kept (s : State) (cap : Capture) : Kept s (transferViolation s cap) := by
  unfold transferViolation
  dsimp only
  (repeat' split) <;> simp [Kept]

@[simp] theorem discardToken_kept (s : State) (cap : Capture) : Kept s (discardToken s cap) := by
  unfold discardToken
  (repeat' split) <;> simp [Kept]

/-! ### IoCmds -/

@[simp] theorem takeFetched_kept (s : State) (h : IoHdr) : Kept s (takeFetched s h) := by
  unfold takeFetched
  (repeat' split) <;> simp [Kept]

@[simp] theorem admitCmd_kept (s : State) (h : IoHdr) (zoneCmd : Bool) (err : NsSt → Option NvmeStatus) (mk : NsSt → Cmd) : Kept s (admitCmd s h zoneCmd err mk) := by
  unfold admitCmd
  repeat' first
    | with_reducible assumption
    | with_reducible exact Kept.refl _
    | (extract_lets +onlyGivenNames x; first
        | (refine Kept.cut (t := x) ?_ ?_; rotate_left 1; intro hx; clear_value x; rotate_left 1; subst x)
        | subst x)
    | split
    | intro _
    | (simp [Kept, *]; done)

    | dsimp only

@[simp] theorem zoneSendCmd_kept (s : State) (h : IoHdr) (op : Instr) (zslba : Nat) (all : Bool) (dmin : Nat) : Kept s (zoneSendCmd s h op zslba all dmin) := by
  unfold zoneSendCmd
  (repeat' split) <;> simp [Kept]

@[simp] theorem readLate_kept (s : State) (c : Cmd) (latencyUs : Nat) : Kept s (readLate s c latencyUs) := by
  unfold readLate
  dsimp only
  (repeat' split) <;> simp [Kept]

@[simp] theorem copyWritten_kept (s : State) (c : Cmd) (chB : Bool) (n : Nat) : Kept s (copyWritten s c chB n) := by
  unfold copyWritten
  extract_lets mine seqs us both fromHost q0 s1 s2 s3 conv
  have h1 : Kept s s1 := ⟨rfl, rfl, rfl, rfl, rfl, rfl⟩
  have h2 : Kept s s2 := Kept.ite (h1.trans (cacheBufs_kept ..)) h1
  have h3 : Kept s s3 := h2.trans (updCmd_kept ..)
  exact h3.trans ((forEach_kept conv convCommit s3 fun c s => convCommit_kept c s).trans (flushReady_kept _ _))

/-! ### Keys -/

@[simp] theorem secureRefused_kept (s : State) (q : HmpHdr) (op reason : Nat) : Kept s (secureRefused s q op reason) := by
  unfold secureRefused
  repeat' first
    | with_reducible assumption
    | with_reducible exact Kept.refl _
    | (extract_lets +onlyGivenNames x; first
        | (refine Kept.cut (t := x) ?_ ?_; rotate_left 1; intro hx; clear_value x; rotate_left 1; subst x)
        | subst x)
    | split
    | intro _
    | (simp [Kept, *]; done)

    | dsimp only

@[simp] theorem putKey_kept (s : State) (ns : NsSt) (fn tag key : Nat) : Kept s (putKey s ns fn tag key) := by
  unfold putKey
  dsimp only
  split
  · exact ⟨rfl, rfl, rfl, rfl, rfl, rfl⟩
  · exact Kept.refl s

@[simp] theorem clearTag_kept (s : State) (nsid tag : Nat) : Kept s (clearTag s nsid tag) := by
  unfold clearTag
  repeat' first
    | exact Kept.refl _
    | with_reducible refine Kept.ite ?_ ?_
    | (simp [Kept]; done)
    | split
    | dsimp only

@[simp] theorem rollKey_kept (s : State) (nsid : Nat) : Kept s (rollKey s nsid) := by
  unfold rollKey
  repeat' first
    | exact Kept.refl _
    | with_reducible refine Kept.ite ?_ ?_
    | (simp [Kept]; done)
    | split
    | dsimp only

/-! ### Logs -/

@[simp] theorem logRead_kept (s : State) (fn lid nsid : Nat) : Kept s (logRead s fn lid nsid) := by
  unfold logRead
  repeat' first
    | with_reducible assumption
    | with_reducible exact Kept.refl _
    | (extract_lets +onlyGivenNames x; first
        | (refine Kept.cut (t := x) ?_ ?_; rotate_left 1; intro hx; clear_value x; rotate_left 1; subst x)
        | subst x)
    | split
    | intro _
    | (simp [Kept, *]; done)

    | dsimp only

/-! ### Tick -/

@[simp] theorem refillSlack_kept (s : State) : Kept s (refillSlack s) := by
  unfold refillSlack
  (repeat' split) <;> simp [Kept]

@[simp] theorem refill_kept (s : State) : Kept s (refill s) := by
  unfold refill
  (repeat' split) <;> simp [Kept]

@[simp] theorem endPauses_kept (s : State) : Kept s (endPauses s) := by
  unfold endPauses
  dsimp only
  refine Kept.trans ?_ (forEach_kept _ _ _ fun c s => releaseStopped_kept ..)
  refine Kept.trans (t := when' (pauseEnds s 8) softAway s) (Kept.ite (softAway_kept s) (Kept.refl s)) (Kept.ite (airLow_kept _ _) (Kept.refl _))

end Sys2Proof.Machine
end

