-- ==== Sys2Proof/Laws/KeptServe.lean ====
section
/-! SUPPORT. `Kept` through the gates that serve a request. -/

set_option linter.all false

namespace Sys2Proof.Machine

theorem hmpServe_keptF (s : State) (q : HmpHdr) (r : HmpRule) (body : State → State) (h : ∀ s, Kept s (body s)) : Kept s (hmpServe s q r body) := ⟨hmpServe_devTime s q r body (fun s => (h s).1), hmpServe_da s q r body (fun s => (h s).2.1), hmpServe_db s q r body (fun s => (h s).2.2.1), hmpServe_crypto s q r body (fun s => (h s).2.2.2.1), hmpServe_kazok s q r body (fun s => (h s).2.2.2.2.1), hmpServe_pending s q r body (fun s => (h s).2.2.2.2.2)⟩
theorem startLong_keptF (s : State) (q : HmpHdr) (op : Nat) (f : State → Nat → State) (h : ∀ s n, Kept s (f s n)) : Kept s (startLong s q op f) := ⟨startLong_devTime s q op f (fun s n => (h s n).1), startLong_da s q op f (fun s n => (h s n).2.1), startLong_db s q op f (fun s n => (h s n).2.2.1), startLong_crypto s q op f (fun s n => (h s n).2.2.2.1), startLong_kazok s q op f (fun s n => (h s n).2.2.2.2.1), startLong_pending s q op f (fun s n => (h s n).2.2.2.2.2)⟩
theorem adminServe_keptF (s : State) (a : AdmHdr) (p r : Bool) (body : State → State) (h : ∀ s, Kept s (body s)) : Kept s (adminServe s a p r body) := ⟨adminServe_devTime s a p r body (fun s => (h s).1), adminServe_da s a p r body (fun s => (h s).2.1), adminServe_db s a p r body (fun s => (h s).2.2.1), adminServe_crypto s a p r body (fun s => (h s).2.2.2.1), adminServe_kazok s a p r body (fun s => (h s).2.2.2.2.1), adminServe_pending s a p r body (fun s => (h s).2.2.2.2.2)⟩
theorem adminHmp_keptF (s : State) (a : AdmHdr) (w : AdmHmp) (body : State → State) (h : ∀ s, Kept s (body s)) : Kept s (adminHmp s a w body) := ⟨adminHmp_devTime s a w body (fun s => (h s).1), adminHmp_da s a w body (fun s => (h s).2.1), adminHmp_db s a w body (fun s => (h s).2.2.1), adminHmp_crypto s a w body (fun s => (h s).2.2.2.1), adminHmp_kazok s a w body (fun s => (h s).2.2.2.2.1), adminHmp_pending s a w body (fun s => (h s).2.2.2.2.2)⟩
theorem setServe_keptF (s : State) (a : AdmHdr) (body : State → State) (h : ∀ s, Kept s (body s)) : Kept s (setServe s a body) := ⟨setServe_devTime s a body (fun s => (h s).1), setServe_da s a body (fun s => (h s).2.1), setServe_db s a body (fun s => (h s).2.2.1), setServe_crypto s a body (fun s => (h s).2.2.2.1), setServe_kazok s a body (fun s => (h s).2.2.2.2.1), setServe_pending s a body (fun s => (h s).2.2.2.2.2)⟩
theorem barWrite_keptF (s : State) (f : Nat) (g : State → State) (h : ∀ s, Kept s (g s)) : Kept s (barWrite s f g) := ⟨barWrite_devTime s f g (fun s => (h s).1), barWrite_da s f g (fun s => (h s).2.1), barWrite_db s f g (fun s => (h s).2.2.1), barWrite_crypto s f g (fun s => (h s).2.2.2.1), barWrite_kazok s f g (fun s => (h s).2.2.2.2.1), barWrite_pending s f g (fun s => (h s).2.2.2.2.2)⟩
theorem commitServe_keptF (s : State) (a : AdmHdr) (slot want : Nat) (g : State → State) (h : ∀ s, Kept s (g s)) : Kept s (commitServe s a slot want g) := ⟨commitServe_devTime s a slot want g (fun s => (h s).1), commitServe_da s a slot want g (fun s => (h s).2.1), commitServe_db s a slot want g (fun s => (h s).2.2.1), commitServe_crypto s a slot want g (fun s => (h s).2.2.2.1), commitServe_kazok s a slot want g (fun s => (h s).2.2.2.2.1), commitServe_pending s a slot want g (fun s => (h s).2.2.2.2.2)⟩
theorem withStaged_keptF (s : State) (a : AdmHdr) (g : ImageCopy → State → State) (h : ∀ c s, Kept s (g c s)) : Kept s (withStaged s a g) := ⟨withStaged_devTime s a g (fun c s => (h c s).1), withStaged_da s a g (fun c s => (h c s).2.1), withStaged_db s a g (fun c s => (h c s).2.2.1), withStaged_crypto s a g (fun c s => (h c s).2.2.2.1), withStaged_kazok s a g (fun c s => (h c s).2.2.2.2.1), withStaged_pending s a g (fun c s => (h c s).2.2.2.2.2)⟩

end Sys2Proof.Machine
end

