-- ==== Sys2Proof/Laws/KeptRowsA.lean ====
section
/-! SUPPORT. Each command answers a next state that is `Kept`: one lemma per command, part 1. -/

set_option linter.all false

namespace Sys2Proof.Machine

/-! ### Recovery -/

theorem execDeadlineReached_kept (fn sqid cid : Nat) (s : State) : ∃ u, execDeadlineReached fn sqid cid s = .next u ∧ Kept s u := by
  refine ⟨_, rfl, ?_⟩
  repeat' first
    | with_reducible assumption
    | with_reducible exact Kept.refl _
    | (extract_lets +onlyGivenNames x; first
        | (refine Kept.cut (t := x) ?_ ?_; rotate_left 1; intro hx; clear_value x; rotate_left 1; subst x)
        | subst x)
    | split
    | intro _
    | (simp [Kept, *]; done)
    | dsimp only

theorem execRecoveryPass_kept (nsid page : Nat) (recovered : Bool) (s : State) : ∃ u, execRecoveryPass nsid page recovered s = .next u ∧ Kept s u := by
  refine ⟨_, rfl, ?_⟩
  repeat' first
    | with_reducible assumption
    | with_reducible exact Kept.refl _
    | (extract_lets +onlyGivenNames x; first
        | (refine Kept.cut (t := x) ?_ ?_; rotate_left 1; intro hx; clear_value x; rotate_left 1; subst x)
        | subst x)
    | with_reducible refine forEach_kept _ _ _ ?_
    | with_reducible refine Kept.trans ?_ (forEach_kept _ _ _ ?_)
    | split
    | intro _
    | (simp [Kept, *]; done)
    | dsimp only

theorem execHitsHalving_kept (s : State) : ∃ u, execHitsHalving s = .next u ∧ Kept s u := by
  refine ⟨_, rfl, ?_⟩
  (repeat' split) <;> simp [Kept]

theorem execRetentionSample_kept (t : Nat) (failed : Bool) (s : State) : ∃ u, execRetentionSample t failed s = .next u ∧ Kept s u := by
  refine ⟨_, rfl, ?_⟩
  (repeat' split) <;> simp [Kept]

/-! ### Media -/

theorem execSoftDecodeResult_kept (ch tag : Nat) (out : SoftOutcome) (s : State) : ∃ u, execSoftDecodeResult ch tag out s = .next u ∧ Kept s u := by
  refine ⟨_, rfl, ?_⟩
  (repeat' split) <;> simp [Kept]

/-! ### Flash -/

theorem execProgramPassBooking_kept (t pos : Nat) (s : State) : ∃ u, execProgramPassBooking t pos s = .next u ∧ Kept s u := by
  refine ⟨_, rfl, ?_⟩
  (repeat' split) <;> simp [Kept]

theorem execDescriptorIssue_kept (ch tag : Nat) (sealOk : Bool) (s : State) : ∃ u, execDescriptorIssue ch tag sealOk s = .next u ∧ Kept s u := by
  refine ⟨_, rfl, ?_⟩
  (repeat' split) <;> simp [Kept]

theorem execDescriptorCompletion_kept (ch tag : Nat) (out : DieOutcome) (s : State) : ∃ u, execDescriptorCompletion ch tag out s = .next u ∧ Kept s u := by
  refine ⟨_, rfl, ?_⟩
  (repeat' split) <;> simp [Kept]

theorem execSuspendWindowStart_kept (ch die' start : Nat) (s : State) : ∃ u, execSuspendWindowStart ch die' start s = .next u ∧ Kept s u := by
  refine ⟨_, rfl, ?_⟩
  dsimp only
  (repeat' split) <;> simp [Kept]

theorem execSuspendWindowEnd_kept (ch die' start : Nat) (s : State) : ∃ u, execSuspendWindowEnd ch die' start s = .next u ∧ Kept s u := by
  refine ⟨_, rfl, ?_⟩
  repeat' first
    | with_reducible assumption
    | with_reducible exact Kept.refl _
    | (extract_lets +onlyGivenNames x; first
        | (refine Kept.cut (t := x) ?_ ?_; rotate_left 1; intro hx; clear_value x; rotate_left 1; subst x)
        | subst x)
    | split
    | intro _
    | (simp [Kept, *]; done)
    | dsimp only

theorem execDieOverrun_kept (ch tag : Nat) (s : State) : ∃ u, execDieOverrun ch tag s = .next u ∧ Kept s u := by
  refine ⟨_, rfl, ?_⟩
  (repeat' split) <;> simp [Kept]

theorem execDieTimeout_kept (ch tag : Nat) (answers : Bool) (s : State) : ∃ u, execDieTimeout ch tag answers s = .next u ∧ Kept s u := by
  refine ⟨_, rfl, ?_⟩
  (repeat' split) <;> simp [Kept]

theorem execTokenGuardTimeout_kept (ch tag : Nat) (s : State) : ∃ u, execTokenGuardTimeout ch tag s = .next u ∧ Kept s u := by
  refine ⟨_, rfl, ?_⟩
  repeat' first
    | with_reducible assumption
    | with_reducible exact Kept.refl _
    | exact moveEntry_kept (by assumption)
    | (extract_lets +onlyGivenNames x; first
        | (refine Kept.cut (t := x) ?_ ?_; rotate_left 1; intro hx; clear_value x; rotate_left 1; subst x)
        | subst x)
    | with_reducible refine forEach_kept _ _ _ ?_
    | with_reducible refine Kept.trans ?_ (forEach_kept _ _ _ ?_)
    | refine Kept.trans (moveEntry_kept (by assumption)) ?_
    | with_reducible refine Kept.getD ?_
    | with_reducible refine Kept.trans ?_ (Kept.getD ?_)
    | split
    | intro _
    | (simp [Kept, *]; done)
    | dsimp only

/-! ### Background -/

theorem execBackgroundWorkDecision_kept (s : State) : ∃ u, execBackgroundWorkDecision s = .next u ∧ Kept s u := by
  refine ⟨_, rfl, ?_⟩
  (repeat' split) <;> simp [Kept]

theorem execRetentionAgeRefresh_kept (t : Nat) (s : State) : ∃ u, execRetentionAgeRefresh t s = .next u ∧ Kept s u := by
  refine ⟨_, rfl, ?_⟩
  (repeat' split) <;> simp [Kept]

theorem execRefreshRetryHourly_kept (t : Nat) (s : State) : ∃ u, execRefreshRetryHourly t s = .next u ∧ Kept s u := by
  refine ⟨_, rfl, ?_⟩
  (repeat' split) <;> simp [Kept]

theorem execUnderlayMove_kept (nsid zi : Nat) (s : State) : ∃ u, execUnderlayMove nsid zi s = .next u ∧ Kept s u := by
  refine ⟨_, rfl, ?_⟩
  (repeat' split) <;> simp [Kept]

theorem execJournalCheckpoint_kept (s : State) : ∃ u, execJournalCheckpoint s = .next u ∧ Kept s u := by
  refine ⟨_, rfl, ?_⟩
  (repeat' split) <;> simp [Kept]

theorem execSmartUpdate_kept (s : State) : ∃ u, execSmartUpdate s = .next u ∧ Kept s u := by
  refine ⟨_, rfl, ?_⟩
  (repeat' split) <;> simp [Kept]

/-! ### Capacity -/

theorem execCapacityRecompute_kept (s : State) : ∃ u, execCapacityRecompute s = .next u ∧ Kept s u := by
  refine ⟨_, rfl, ?_⟩
  simp [Kept]

theorem execContractChargeRecompute_kept (fn : Nat) (s : State) : ∃ u, execContractChargeRecompute fn s = .next u ∧ Kept s u := by
  refine ⟨_, rfl, ?_⟩
  simp [Kept]

theorem execPromisedWidthRecompute_kept (set : Nat) (s : State) : ∃ u, execPromisedWidthRecompute set s = .next u ∧ Kept s u := by
  refine ⟨_, rfl, ?_⟩
  simp [Kept]

theorem execEavesEffectiveRecompute_kept (s : State) : ∃ u, execEavesEffectiveRecompute s = .next u ∧ Kept s u := by
  refine ⟨_, rfl, ?_⟩
  simp [Kept]

theorem execFlashPowerCapacityRecompute_kept (s : State) : ∃ u, execFlashPowerCapacityRecompute s = .next u ∧ Kept s u := by
  refine ⟨_, rfl, ?_⟩
  simp [Kept]

theorem execLinkChange_kept (rate width : Nat) (s : State) : ∃ u, execLinkChange rate width s = .next u ∧ Kept s u := by
  refine ⟨_, rfl, ?_⟩
  dsimp only
  (repeat' split) <;> simp [Kept]

/-! ### Power -/

theorem execPowerLossDetected_kept (s : State) : ∃ u, execPowerLossDetected s = .next u ∧ Kept s u := by
  refine ⟨_, rfl, ?_⟩
  simp [Kept]

theorem execStoreLow_kept (lastPosition : Nat) (s : State) : ∃ u, execStoreLow lastPosition s = .next u ∧ Kept s u := by
  refine ⟨_, rfl, ?_⟩
  (repeat' split) <;> simp [Kept]

theorem execDumpComplete_kept (s : State) : ∃ u, execDumpComplete s = .next u ∧ Kept s u := by
  refine ⟨_, rfl, ?_⟩
  (repeat' split) <;> simp [Kept]

theorem execGutterReplay_kept (s : State) : ∃ u, execGutterReplay s = .next u ∧ Kept s u := by
  refine ⟨_, rfl, ?_⟩
  (repeat' split) <;> simp [Kept]

/-! ### Channels -/

theorem execChannelDrain_kept (ch : Nat) (s : State) : ∃ u, execChannelDrain ch s = .next u ∧ Kept s u := by
  refine ⟨_, rfl, ?_⟩
  simp [Kept]

theorem execChannelDrainComplete_kept (ch : Nat) (s : State) : ∃ u, execChannelDrainComplete ch s = .next u ∧ Kept s u := by
  refine ⟨_, rfl, ?_⟩
  (repeat' split) <;> simp [Kept]

theorem execChannelDrainTimeout_kept (ch : Nat) (s : State) : ∃ u, execChannelDrainTimeout ch s = .next u ∧ Kept s u := by
  refine ⟨_, rfl, ?_⟩
  (repeat' split) <;> simp [Kept]

theorem execChannelRbWaitEnd_kept (ch : Nat) (high : Bool) (s : State) : ∃ u, execChannelRbWaitEnd ch high s = .next u ∧ Kept s u := by
  refine ⟨_, rfl, ?_⟩
  (repeat' split) <;> simp [Kept]

theorem execPackageTempPoll_kept (readings : List (Nat × Option Int)) (s : State) : ∃ u, execPackageTempPoll readings s = .next u ∧ Kept s u := by
  refine ⟨_, rfl, ?_⟩
  (repeat' split) <;> simp [Kept]

theorem execChannelBringup_kept (ch : Nat) (dies : List DieAnswer) (pkgs : List PkgAnswer) (s : State) : ∃ u, execChannelBringup ch dies pkgs s = .next u ∧ Kept s u := by
  refine ⟨_, rfl, ?_⟩
  (repeat' split) <;> simp [Kept]

theorem execPackageRecalibration_kept (ch pkg' : Nat) (s : State) : ∃ u, execPackageRecalibration ch pkg' s = .next u ∧ Kept s u := by
  refine ⟨_, rfl, ?_⟩
  (repeat' split) <;> simp [Kept]

theorem execPackageRecalDone_kept (ch pkg' : Nat) (passed : Bool) (s : State) : ∃ u, execPackageRecalDone ch pkg' passed s = .next u ∧ Kept s u := by
  refine ⟨_, rfl, ?_⟩
  repeat' first
    | with_reducible assumption
    | with_reducible exact Kept.refl _
    | (extract_lets +onlyGivenNames x; first
        | (refine Kept.cut (t := x) ?_ ?_; rotate_left 1; intro hx; clear_value x; rotate_left 1; subst x)
        | subst x)
    | with_reducible refine forEach_kept _ _ _ ?_
    | with_reducible refine Kept.trans ?_ (forEach_kept _ _ _ ?_)
    | split
    | intro _
    | (simp [Kept, *]; done)
    | dsimp only

theorem execChannelRecalibrate_kept (q : HmpHdr) (ch pkg' : Nat) (s : State) : ∃ u, execChannelRecalibrate q ch pkg' s = .next u ∧ Kept s u := by
  refine ⟨_, rfl, ?_⟩
  repeat' first
    | with_reducible assumption
    | with_reducible exact Kept.refl _
    | (extract_lets +onlyGivenNames x; first
        | (refine Kept.cut (t := x) ?_ ?_; rotate_left 1; intro hx; clear_value x; rotate_left 1; subst x)
        | subst x)
    | with_reducible refine hmpServe_keptF _ _ _ _ ?_
    | with_reducible refine startLong_keptF _ _ _ _ ?_
    | split
    | intro _
    | (simp [Kept, *]; done)
    | dsimp only

theorem execChannelMicrocodeLoad_kept (q : HmpHdr) (mask : Nat) (s : State) : ∃ u, execChannelMicrocodeLoad q mask s = .next u ∧ Kept s u := by
  refine ⟨_, rfl, ?_⟩
  repeat' first
    | with_reducible assumption
    | with_reducible exact Kept.refl _
    | (extract_lets +onlyGivenNames x; first
        | (refine Kept.cut (t := x) ?_ ?_; rotate_left 1; intro hx; clear_value x; rotate_left 1; subst x)
        | subst x)
    | with_reducible refine hmpServe_keptF _ _ _ _ ?_
    | with_reducible refine startLong_keptF _ _ _ _ ?_
    | split
    | intro _
    | (simp [Kept, *]; done)
    | dsimp only

theorem execChannelMicrocodeTurn_kept (ch : Nat) (verified : Bool) (pkgs : List PkgAnswer) (s : State) : ∃ u, execChannelMicrocodeTurn ch verified pkgs s = .next u ∧ Kept s u := by
  refine ⟨_, rfl, ?_⟩
  repeat' first
    | with_reducible assumption
    | with_reducible exact Kept.refl _
    | (extract_lets +onlyGivenNames x; first
        | (refine Kept.cut (t := x) ?_ ?_; rotate_left 1; intro hx; clear_value x; rotate_left 1; subst x)
        | subst x)
    | with_reducible refine forEach_kept _ _ _ ?_
    | with_reducible refine Kept.trans ?_ (forEach_kept _ _ _ ?_)
    | split
    | intro _
    | (simp [Kept, *]; done)
    | dsimp only

/-! ### Thermal -/

theorem execThermalStepExit_kept (s : State) : ∃ u, execThermalStepExit s = .next u ∧ Kept s u := by
  refine ⟨_, rfl, ?_⟩
  (repeat' split) <;> simp [Kept]

theorem execTripDumpTimeout_kept (s : State) : ∃ u, execTripDumpTimeout s = .next u ∧ Kept s u := by
  refine ⟨_, rfl, ?_⟩
  (repeat' split) <;> simp [Kept]

theorem execSensorConversion_kept (readings : List (Option Int)) (s : State) : ∃ u, execSensorConversion readings s = .next u ∧ Kept s u := by
  refine ⟨_, rfl, ?_⟩
  simp [Kept]

theorem execRemoteDiodeConversion_kept (readings : List (Option Int)) (s : State) : ∃ u, execRemoteDiodeConversion readings s = .next u ∧ Kept s u := by
  refine ⟨_, rfl, ?_⟩
  simp [Kept]

theorem execTripRestartRelease_kept (s : State) : ∃ u, execTripRestartRelease s = .next u ∧ Kept s u := by
  refine ⟨_, rfl, ?_⟩
  (repeat' split) <;> simp [Kept]

theorem execThermalReport_kept (q : HmpHdr) (s : State) : ∃ u, execThermalReport q s = .next u ∧ Kept s u := by
  refine ⟨_, rfl, ?_⟩
  exact hmpServe_keptF _ _ _ _ fun s => reply_kept ..

theorem execColdStartWarmStart_kept (q : HmpHdr) (s : State) : ∃ u, execColdStartWarmStart q s = .next u ∧ Kept s u := by
  refine ⟨_, rfl, ?_⟩
  repeat' first
    | with_reducible assumption
    | with_reducible exact Kept.refl _
    | (extract_lets +onlyGivenNames x; first
        | (refine Kept.cut (t := x) ?_ ?_; rotate_left 1; intro hx; clear_value x; rotate_left 1; subst x)
        | subst x)
    | with_reducible refine hmpServe_keptF _ _ _ _ ?_
    | with_reducible refine startLong_keptF _ _ _ _ ?_
    | split
    | intro _
    | (simp [Kept, *]; done)
    | dsimp only

theorem execColdStartWarmStop_kept (q : HmpHdr) (s : State) : ∃ u, execColdStartWarmStop q s = .next u ∧ Kept s u := by
  refine ⟨_, rfl, ?_⟩
  repeat' first
    | with_reducible assumption
    | with_reducible exact Kept.refl _
    | (extract_lets +onlyGivenNames x; first
        | (refine Kept.cut (t := x) ?_ ?_; rotate_left 1; intro hx; clear_value x; rotate_left 1; subst x)
        | subst x)
    | with_reducible refine hmpServe_keptF _ _ _ _ ?_
    | split
    | intro _
    | (simp [Kept, *]; done)
    | dsimp only

/-! ### Dram -/

theorem execDramTempPoll_kept (chB : Bool) (temps : List Int) (s : State) : ∃ u, execDramTempPoll chB temps s = .next u ∧ Kept s u := by
  refine ⟨_, rfl, ?_⟩
  repeat' first
    | with_reducible assumption
    | with_reducible exact Kept.refl _
    | (extract_lets +onlyGivenNames x; first
        | (refine Kept.cut (t := x) ?_ ?_; rotate_left 1; intro hx; clear_value x; rotate_left 1; subst x)
        | subst x)
    | split
    | intro _
    | (simp [Kept, *]; done)
    | dsimp only

theorem execDramRefresh_kept (chB : Bool) (rank bank : Nat) (s : State) : ∃ u, execDramRefresh chB rank bank s = .next u ∧ Kept s u := by
  refine ⟨_, rfl, ?_⟩
  (repeat' split) <;> simp [Kept]

theorem execDramPanicEntry_kept (chB : Bool) (s : State) : ∃ u, execDramPanicEntry chB s = .next u ∧ Kept s u := by
  refine ⟨_, rfl, ?_⟩
  (repeat' split) <;> simp [Kept]

theorem execDramPanicExit_kept (chB : Bool) (s : State) : ∃ u, execDramPanicExit chB s = .next u ∧ Kept s u := by
  refine ⟨_, rfl, ?_⟩
  split
  · exact Kept.refl s
  · refine Kept.trans ?_ (serveWaiting_kept ..)
    exact updDram_kept _ _ _ fun _ => rfl

theorem execDramPanicLong_kept (chB : Bool) (s : State) : ∃ u, execDramPanicLong chB s = .next u ∧ Kept s u := by
  refine ⟨_, rfl, ?_⟩
  (repeat' split) <;> simp [Kept]

theorem execDramRfm_kept (chB : Bool) (rank bank : Nat) (s : State) : ∃ u, execDramRfm chB rank bank s = .next u ∧ Kept s u := by
  refine ⟨_, rfl, ?_⟩
  (repeat' split) <;> simp [Kept]

theorem execRowActThrottle_kept (chB : Bool) (port rank bank row count : Nat) (s : State) : ∃ u, execRowActThrottle chB port rank bank row count s = .next u ∧ Kept s u := by
  refine ⟨_, rfl, ?_⟩
  (repeat' split) <;> simp [Kept]

theorem execRowWindowEnd_kept (chB : Bool) (s : State) : ∃ u, execRowWindowEnd chB s = .next u ∧ Kept s u := by
  refine ⟨_, rfl, ?_⟩
  simp [Kept]

theorem execLoftFrameReplicate_kept (nsid page : Nat) (s : State) : ∃ u, execLoftFrameReplicate nsid page s = .next u ∧ Kept s u := by
  refine ⟨_, rfl, ?_⟩
  (repeat' split) <;> simp [Kept]

theorem execDramResilver_kept (chB : Bool) (s : State) : ∃ u, execDramResilver chB s = .next u ∧ Kept s u := by
  refine ⟨_, rfl, ?_⟩
  (repeat' split) <;> simp [Kept]

theorem execDramDriftTrack_kept (chB : Bool) (rank dqsDelay correctablePerG : Nat) (s : State) : ∃ u, execDramDriftTrack chB rank dqsDelay correctablePerG s = .next u ∧ Kept s u := by
  refine ⟨_, rfl, ?_⟩
  repeat' first
    | with_reducible assumption
    | with_reducible exact Kept.refl _
    | (extract_lets +onlyGivenNames x; first
        | (refine Kept.cut (t := x) ?_ ?_; rotate_left 1; intro hx; clear_value x; rotate_left 1; subst x)
        | subst x)
    | split
    | intro _
    | (simp [Kept, *]; done)
    | dsimp only

theorem execRankMigration_kept (chB : Bool) (rank : Nat) (s : State) : ∃ u, execRankMigration chB rank s = .next u ∧ Kept s u := by
  refine ⟨_, rfl, ?_⟩
  (repeat' split) <;> simp [Kept]

theorem execRankMigrationSwap_kept (chB retrainOk : Bool) (s : State) : ∃ u, execRankMigrationSwap chB retrainOk s = .next u ∧ Kept s u := by
  refine ⟨_, rfl, ?_⟩
  (repeat' split) <;> simp [Kept]

theorem execDramRankRetrain_kept (q : HmpHdr) (channel rank : Nat) (s : State) : ∃ u, execDramRankRetrain q channel rank s = .next u ∧ Kept s u := by
  refine ⟨_, rfl, ?_⟩
  repeat' first
    | with_reducible assumption
    | with_reducible exact Kept.refl _
    | (extract_lets +onlyGivenNames x; first
        | (refine Kept.cut (t := x) ?_ ?_; rotate_left 1; intro hx; clear_value x; rotate_left 1; subst x)
        | subst x)
    | with_reducible refine hmpServe_keptF _ _ _ _ ?_
    | with_reducible refine startLong_keptF _ _ _ _ ?_
    | split
    | intro _
    | (simp [Kept, *]; done)
    | dsimp only

theorem execSoftPpr_kept (chB : Bool) (rank bank row : Nat) (resourceLeft : Bool) (s : State) : ∃ u, execSoftPpr chB rank bank row resourceLeft s = .next u ∧ Kept s u := by
  refine ⟨_, rfl, ?_⟩
  repeat' first
    | with_reducible assumption
    | with_reducible exact Kept.refl _
    | (extract_lets +onlyGivenNames x; first
        | (refine Kept.cut (t := x) ?_ ?_; rotate_left 1; intro hx; clear_value x; rotate_left 1; subst x)
        | subst x)
    | split
    | intro _
    | (simp [Kept, *]; done)
    | dsimp only

/-! ### Airflow -/

theorem execSpeedLoopStep_kept (s : State) : ∃ u, execSpeedLoopStep s = .next u ∧ Kept s u := by
  refine ⟨_, rfl, ?_⟩
  repeat' first
    | with_reducible assumption
    | with_reducible exact Kept.refl _
    | (extract_lets +onlyGivenNames x; first
        | (refine Kept.cut (t := x) ?_ ?_; rotate_left 1; intro hx; clear_value x; rotate_left 1; subst x)
        | subst x)
    | split
    | intro _
    | (simp [Kept, *]; done)
    | dsimp only

theorem execBlowerOffTimer_kept (s : State) : ∃ u, execBlowerOffTimer s = .next u ∧ Kept s u := by
  refine ⟨_, rfl, ?_⟩
  repeat' first
    | with_reducible assumption
    | with_reducible exact Kept.refl _
    | (extract_lets +onlyGivenNames x; first
        | (refine Kept.cut (t := x) ?_ ?_; rotate_left 1; intro hx; clear_value x; rotate_left 1; subst x)
        | subst x)
    | split
    | intro _
    | (simp [Kept, *]; done)
    | dsimp only

theorem execCurrentLoopPeriod_kept (t1 t2 : Nat) (phaseMa : Int) (s : State) : ∃ u, execCurrentLoopPeriod t1 t2 phaseMa s = .next u ∧ Kept s u := by
  refine ⟨_, rfl, ?_⟩
  repeat' first
    | with_reducible assumption
    | with_reducible exact Kept.refl _
    | (extract_lets +onlyGivenNames x; first
        | (refine Kept.cut (t := x) ?_ ?_; rotate_left 1; intro hx; clear_value x; rotate_left 1; subst x)
        | subst x)
    | split
    | intro _
    | (simp [Kept, *]; done)
    | dsimp only

theorem execDriverFault_kept (s : State) : ∃ u, execDriverFault s = .next u ∧ Kept s u := by
  refine ⟨_, rfl, ?_⟩
  (repeat' split) <;> simp [Kept]

theorem execDriverFaultRetry_kept (s : State) : ∃ u, execDriverFaultRetry s = .next u ∧ Kept s u := by
  refine ⟨_, rfl, ?_⟩
  (repeat' split) <;> simp [Kept]

theorem execCatchSpinEnd_kept (locked : Bool) (rpm : Int) (s : State) : ∃ u, execCatchSpinEnd locked rpm s = .next u ∧ Kept s u := by
  refine ⟨_, rfl, ?_⟩
  repeat' first
    | with_reducible assumption
    | with_reducible exact Kept.refl _
    | (extract_lets +onlyGivenNames x; first
        | (refine Kept.cut (t := x) ?_ ?_; rotate_left 1; intro hx; clear_value x; rotate_left 1; subst x)
        | subst x)
    | split
    | intro _
    | (simp [Kept, *]; done)
    | dsimp only

theorem execAlignEnd_kept (s : State) : ∃ u, execAlignEnd s = .next u ∧ Kept s u := by
  refine ⟨_, rfl, ?_⟩
  (repeat' split) <;> simp [Kept]

theorem execBlowerStall_kept (cause : StallCause) (s : State) : ∃ u, execBlowerStall cause s = .next u ∧ Kept s u := by
  refine ⟨_, rfl, ?_⟩
  (repeat' split) <;> simp [Kept]

theorem execStallRestart_kept (s : State) : ∃ u, execStallRestart s = .next u ∧ Kept s u := by
  refine ⟨_, rfl, ?_⟩
  (repeat' split) <;> simp [Kept]

theorem execBusClampOn_kept (mv : Nat) (s : State) : ∃ u, execBusClampOn mv s = .next u ∧ Kept s u := by
  refine ⟨_, rfl, ?_⟩
  repeat' first
    | with_reducible assumption
    | with_reducible exact Kept.refl _
    | (extract_lets +onlyGivenNames x; first
        | (refine Kept.cut (t := x) ?_ ?_; rotate_left 1; intro hx; clear_value x; rotate_left 1; subst x)
        | subst x)
    | split
    | intro _
    | (simp [Kept, *]; done)
    | dsimp only

theorem execClampFault_kept (stuckClosed : Bool) (s : State) : ∃ u, execClampFault stuckClosed s = .next u ∧ Kept s u := by
  refine ⟨_, rfl, ?_⟩
  (repeat' split) <;> simp [Kept]

theorem execBusOvervoltage_kept (mv : Nat) (s : State) : ∃ u, execBusOvervoltage mv s = .next u ∧ Kept s u := by
  refine ⟨_, rfl, ?_⟩
  repeat' first
    | with_reducible assumption
    | with_reducible exact Kept.refl _
    | (extract_lets +onlyGivenNames x; first
        | (refine Kept.cut (t := x) ?_ ?_; rotate_left 1; intro hx; clear_value x; rotate_left 1; subst x)
        | subst x)
    | split
    | intro _
    | (simp [Kept, *]; done)
    | dsimp only

theorem execBlowerReport_kept (q : HmpHdr) (s : State) : ∃ u, execBlowerReport q s = .next u ∧ Kept s u := by
  refine ⟨_, rfl, ?_⟩
  exact hmpServe_keptF _ _ _ _ fun s => reply_kept ..

theorem execBlowerServiceStop_kept (q : HmpHdr) (s : State) : ∃ u, execBlowerServiceStop q s = .next u ∧ Kept s u := by
  refine ⟨_, rfl, ?_⟩
  repeat' first
    | with_reducible assumption
    | with_reducible exact Kept.refl _
    | (extract_lets +onlyGivenNames x; first
        | (refine Kept.cut (t := x) ?_ ?_; rotate_left 1; intro hx; clear_value x; rotate_left 1; subst x)
        | subst x)
    | with_reducible refine hmpServe_keptF _ _ _ _ ?_
    | with_reducible refine startLong_keptF _ _ _ _ ?_
    | split
    | intro _
    | (simp [Kept, *]; done)
    | dsimp only

theorem execBlowerServiceResume_kept (q : HmpHdr) (openCircuit : Bool) (rMohm lUh : Nat) (s : State) : ∃ u, execBlowerServiceResume q openCircuit rMohm lUh s = .next u ∧ Kept s u := by
  refine ⟨_, rfl, ?_⟩
  repeat' first
    | with_reducible assumption
    | with_reducible exact Kept.refl _
    | (extract_lets +onlyGivenNames x; first
        | (refine Kept.cut (t := x) ?_ ?_; rotate_left 1; intro hx; clear_value x; rotate_left 1; subst x)
        | subst x)
    | with_reducible refine hmpServe_keptF _ _ _ _ ?_
    | with_reducible refine startLong_keptF _ _ _ _ ?_
    | split
    | intro _
    | (simp [Kept, *]; done)
    | dsimp only

/-! ### Alive -/

theorem execFaultSnap_kept (value : Nat) (s : State) : ∃ u, execFaultSnap value s = .next u ∧ Kept s u := by
  refine ⟨_, rfl, ?_⟩
  (repeat' split) <;> simp [Kept]

theorem execCoreKick_kept (core value : Nat) (s : State) : ∃ u, execCoreKick core value s = .next u ∧ Kept s u := by
  refine ⟨_, rfl, ?_⟩
  (repeat' split) <;> simp [Kept]

theorem execAliveKick_kept (core value : Nat) (s : State) : ∃ u, execAliveKick core value s = .next u ∧ Kept s u := by
  refine ⟨_, rfl, ?_⟩
  (repeat' split) <;> simp [Kept]

theorem execAliveToggle_kept (s : State) : ∃ u, execAliveToggle s = .next u ∧ Kept s u := by
  refine ⟨_, rfl, ?_⟩
  (repeat' split) <;> simp [Kept]

theorem execAliveKickTimeout_kept (s : State) : ∃ u, execAliveKickTimeout s = .next u ∧ Kept s u := by
  refine ⟨_, rfl, ?_⟩
  simp [Kept]

theorem execFaultSnapshot_kept (q : HmpHdr) (s : State) : ∃ u, execFaultSnapshot q s = .next u ∧ Kept s u := by
  refine ⟨_, rfl, ?_⟩
  repeat' first
    | with_reducible assumption
    | with_reducible exact Kept.refl _
    | (extract_lets +onlyGivenNames x; first
        | (refine Kept.cut (t := x) ?_ ?_; rotate_left 1; intro hx; clear_value x; rotate_left 1; subst x)
        | subst x)
    | with_reducible refine hmpServe_keptF _ _ _ _ ?_
    | split
    | intro _
    | (simp [Kept, *]; done)
    | dsimp only

theorem execFaultThresholdSet_kept (q : HmpHdr) (source n t : Nat) (s : State) : ∃ u, execFaultThresholdSet q source n t s = .next u ∧ Kept s u := by
  refine ⟨_, rfl, ?_⟩
  repeat' first
    | with_reducible assumption
    | with_reducible exact Kept.refl _
    | (extract_lets +onlyGivenNames x; first
        | (refine Kept.cut (t := x) ?_ ?_; rotate_left 1; intro hx; clear_value x; rotate_left 1; subst x)
        | subst x)
    | with_reducible refine hmpServe_keptF _ _ _ _ ?_
    | split
    | intro _
    | (simp [Kept, *]; done)
    | dsimp only

theorem execFaultClear_kept (q : HmpHdr) (source flags : Nat) (s : State) : ∃ u, execFaultClear q source flags s = .next u ∧ Kept s u := by
  refine ⟨_, rfl, ?_⟩
  repeat' first
    | with_reducible assumption
    | with_reducible exact Kept.refl _
    | (extract_lets +onlyGivenNames x; first
        | (refine Kept.cut (t := x) ?_ ?_; rotate_left 1; intro hx; clear_value x; rotate_left 1; subst x)
        | subst x)
    | with_reducible refine hmpServe_keptF _ _ _ _ ?_
    | split
    | intro _
    | (simp [Kept, *]; done)
    | dsimp only

theorem execFirstErrorReport_kept (q : HmpHdr) (source : Nat) (s : State) : ∃ u, execFirstErrorReport q source s = .next u ∧ Kept s u := by
  refine ⟨_, rfl, ?_⟩
  refine hmpServe_keptF _ _ _ _ fun s => ?_
  split
  · exact answer_kept ..
  · exact reply_kept ..

/-! ### Resets -/

theorem execPerstNDeassert_kept (rate width : Nat) (s : State) : ∃ u, execPerstNDeassert rate width s = .next u ∧ Kept s u := by
  refine ⟨_, rfl, ?_⟩
  repeat' first
    | with_reducible assumption
    | with_reducible exact Kept.refl _
    | (extract_lets +onlyGivenNames x; first
        | (refine Kept.cut (t := x) ?_ ?_; rotate_left 1; intro hx; clear_value x; rotate_left 1; subst x)
        | subst x)
    | split
    | intro _
    | (simp [Kept, *]; done)
    | dsimp only

theorem execConventionalReset_kept (s : State) : ∃ u, execConventionalReset s = .next u ∧ Kept s u := by
  refine ⟨_, rfl, ?_⟩
  simp [Kept]

theorem execPfFlr_kept (s : State) : ∃ u, execPfFlr s = .next u ∧ Kept s u := by
  refine ⟨_, rfl, ?_⟩
  split
  · exact Kept.refl s
  · exact (beginWake_kept ..).trans (resetPf_kept ..)

theorem execVfFlr_kept (fn : Nat) (s : State) : ∃ u, execVfFlr fn s = .next u ∧ Kept s u := by
  refine ⟨_, rfl, ?_⟩
  split
  · exact Kept.refl s
  · exact (beginWake_kept ..).trans ((fnReset_kept ..).trans (clearFnKeys_kept ..))

theorem execVfEnable_kept (numVfs : Nat) (s : State) : ∃ u, execVfEnable numVfs s = .next u ∧ Kept s u := by
  refine ⟨_, rfl, ?_⟩
  (repeat' split) <;> simp [Kept]

theorem execVfDisable_kept (s : State) : ∃ u, execVfDisable s = .next u ∧ Kept s u := by
  refine ⟨_, rfl, ?_⟩
  split
  · exact Kept.refl s
  · exact removeVfs_kept ..

theorem execCcEnable_kept (fn : Nat) (s : State) : ∃ u, execCcEnable fn s = .next u ∧ Kept s u := by
  refine ⟨_, rfl, ?_⟩
  repeat' first
    | with_reducible assumption
    | with_reducible exact Kept.refl _
    | (extract_lets +onlyGivenNames x; first
        | (refine Kept.cut (t := x) ?_ ?_; rotate_left 1; intro hx; clear_value x; rotate_left 1; subst x)
        | subst x)
    | split
    | intro _
    | (simp [Kept, *]; done)
    | dsimp only

theorem execControllerReset_kept (fn : Nat) (s : State) : ∃ u, execControllerReset fn s = .next u ∧ Kept s u := by
  refine ⟨_, rfl, ?_⟩
  split
  · exact Kept.refl s
  · exact (beginWake_kept ..).trans (fnReset_kept ..)

theorem execControllerShutdown_kept (fn : Nat) (s : State) : ∃ u, execControllerShutdown fn s = .next u ∧ Kept s u := by
  refine ⟨_, rfl, ?_⟩
  (repeat' split) <;> simp [Kept]

theorem execMsixUnmask_kept (fn vector : Nat) (s : State) : ∃ u, execMsixUnmask fn vector s = .next u ∧ Kept s u := by
  refine ⟨_, rfl, ?_⟩
  repeat' first
    | with_reducible assumption
    | with_reducible exact Kept.refl _
    | (extract_lets +onlyGivenNames x; first
        | (refine Kept.cut (t := x) ?_ ?_; rotate_left 1; intro hx; clear_value x; rotate_left 1; subst x)
        | subst x)
    | split
    | intro _
    | (simp [Kept, *]; done)
    | dsimp only

end Sys2Proof.Machine
end

