-- ==== Sys2Proof/Laws/KeptRowsB.lean ====
section
/-! SUPPORT. Each command answers a next state that is `Kept`: one lemma per command, part 2. -/

set_option linter.all false

namespace Sys2Proof.Machine

/-! ### Islands -/

theorem execIslandReportsRunning_kept (island' : Nat) (s : State) : ∃ u, execIslandReportsRunning island' s = .next u ∧ Kept s u := by
  refine ⟨_, rfl, ?_⟩
  (repeat' split) <;> simp [Kept]

theorem execHandshakeStall_kept (src : Nat) (into : ChannelEnd) (s : State) : ∃ u, execHandshakeStall src into s = .next u ∧ Kept s u := by
  refine ⟨_, rfl, ?_⟩
  (repeat' split) <;> simp [Kept]

theorem execCoreWatchdogExpiry_kept (core : Nat) (s : State) : ∃ u, execCoreWatchdogExpiry core s = .next u ∧ Kept s u := by
  refine ⟨_, rfl, ?_⟩
  (repeat' split) <;> simp [Kept]

theorem execCoreSelfTestDone_kept (core : Nat) (passed : Bool) (s : State) : ∃ u, execCoreSelfTestDone core passed s = .next u ∧ Kept s u := by
  refine ⟨_, rfl, ?_⟩
  repeat' first
    | with_reducible assumption
    | with_reducible exact Kept.refl _
    | (extract_lets +onlyGivenNames x; first
        | (refine Kept.cut (t := x) ?_ ?_; rotate_left 1; intro hx; clear_value x; rotate_left 1; subst x)
        | subst x)
    | split
    | intro _
    | (simp [Kept, *]; done)
    | dsimp only

theorem execCoreFailoverReturn_kept (q : HmpHdr) (core : Nat) (s : State) : ∃ u, execCoreFailoverReturn q core s = .next u ∧ Kept s u := by
  refine ⟨_, rfl, ?_⟩
  repeat' first
    | with_reducible assumption
    | with_reducible exact Kept.refl _
    | (extract_lets +onlyGivenNames x; first
        | (refine Kept.cut (t := x) ?_ ?_; rotate_left 1; intro hx; clear_value x; rotate_left 1; subst x)
        | subst x)
    | with_reducible refine hmpServe_keptF _ _ _ _ ?_
    | with_reducible refine startLong_keptF _ _ _ _ ?_
    | split
    | intro _
    | (simp [Kept, *]; done)
    | dsimp only

theorem execCoreFailoverRetire_kept (q : HmpHdr) (core : Nat) (s : State) : ∃ u, execCoreFailoverRetire q core s = .next u ∧ Kept s u := by
  refine ⟨_, rfl, ?_⟩
  repeat' first
    | with_reducible assumption
    | with_reducible exact Kept.refl _
    | (extract_lets +onlyGivenNames x; first
        | (refine Kept.cut (t := x) ?_ ?_; rotate_left 1; intro hx; clear_value x; rotate_left 1; subst x)
        | subst x)
    | with_reducible refine hmpServe_keptF _ _ _ _ ?_
    | with_reducible refine startLong_keptF _ _ _ _ ?_
    | split
    | intro _
    | (simp [Kept, *]; done)
    | dsimp only

theorem execIslandStateReport_kept (q : HmpHdr) (s : State) : ∃ u, execIslandStateReport q s = .next u ∧ Kept s u := by
  refine ⟨_, rfl, ?_⟩
  repeat' first
    | with_reducible assumption
    | with_reducible exact Kept.refl _
    | (extract_lets +onlyGivenNames x; first
        | (refine Kept.cut (t := x) ?_ ?_; rotate_left 1; intro hx; clear_value x; rotate_left 1; subst x)
        | subst x)
    | with_reducible refine hmpServe_keptF _ _ _ _ ?_
    | split
    | intro _
    | (simp [Kept, *]; done)
    | dsimp only

/-! ### Supplies -/

theorem execRailOutOfRange_kept (rail mv : Nat) (s : State) : ∃ u, execRailOutOfRange rail mv s = .next u ∧ Kept s u := by
  refine ⟨_, rfl, ?_⟩
  (repeat' split) <;> simp [Kept]

theorem execRailReturnInRange_kept (rail forUs : Nat) (s : State) : ∃ u, execRailReturnInRange rail forUs s = .next u ∧ Kept s u := by
  refine ⟨_, rfl, ?_⟩
  repeat' first
    | with_reducible assumption
    | with_reducible exact Kept.refl _
    | (extract_lets +onlyGivenNames x; first
        | (refine Kept.cut (t := x) ?_ ?_; rotate_left 1; intro hx; clear_value x; rotate_left 1; subst x)
        | subst x)
    | split
    | intro _
    | (simp [Kept, *]; done)
    | dsimp only

theorem execStoreConversion_kept (v12 vs : Nat) (s : State) : ∃ u, execStoreConversion v12 vs s = .next u ∧ Kept s u := by
  refine ⟨_, rfl, ?_⟩
  simp [Kept]

theorem execChargeTimeout_kept (s : State) : ∃ u, execChargeTimeout s = .next u ∧ Kept s u := by
  refine ⟨_, rfl, ?_⟩
  (repeat' split) <;> simp [Kept]

theorem execHoldupAuditDue_kept (s : State) : ∃ u, execHoldupAuditDue s = .next u ∧ Kept s u := by
  refine ⟨_, rfl, ?_⟩
  (repeat' split) <;> simp [Kept]

theorem execAuditLoadConnect_kept (stepUv : Nat) (s : State) : ∃ u, execAuditLoadConnect stepUv s = .next u ∧ Kept s u := by
  refine ⟨_, rfl, ?_⟩
  (repeat' split) <;> simp [Kept]

theorem execAuditMeasurementEnd_kept (fallUv chargeNc elapsedUs : Nat) (s : State) : ∃ u, execAuditMeasurementEnd fallUv chargeNc elapsedUs s = .next u ∧ Kept s u := by
  refine ⟨_, rfl, ?_⟩
  repeat' first
    | with_reducible assumption
    | with_reducible exact Kept.refl _
    | (extract_lets +onlyGivenNames x; first
        | (refine Kept.cut (t := x) ?_ ?_; rotate_left 1; intro hx; clear_value x; rotate_left 1; subst x)
        | subst x)
    | split
    | intro _
    | (simp [Kept, *]; done)
    | dsimp only

theorem execPwrdis_kept (high : Bool) (s : State) : ∃ u, execPwrdis high s = .next u ∧ Kept s u := by
  refine ⟨_, rfl, ?_⟩
  repeat' first
    | with_reducible assumption
    | with_reducible exact Kept.refl _
    | (extract_lets +onlyGivenNames x; first
        | (refine Kept.cut (t := x) ?_ ?_; rotate_left 1; intro hx; clear_value x; rotate_left 1; subst x)
        | subst x)
    | split
    | intro _
    | (simp [Kept, *]; done)
    | dsimp only

theorem execPmicPoll_kept (answer' : Option (List Nat)) (s : State) : ∃ u, execPmicPoll answer' s = .next u ∧ Kept s u := by
  refine ⟨_, rfl, ?_⟩
  (repeat' split) <;> simp [Kept]

theorem execPmicAlert_kept (answer' : Option (List Nat)) (s : State) : ∃ u, execPmicAlert answer' s = .next u ∧ Kept s u := by
  refine ⟨_, rfl, ?_⟩
  (repeat' split) <;> simp [Kept]

theorem execAonCrystalLoss_kept (s : State) : ∃ u, execAonCrystalLoss s = .next u ∧ Kept s u := by
  refine ⟨_, rfl, ?_⟩
  (repeat' split) <;> simp [Kept]

theorem execAonCrystalRestored_kept (s : State) : ∃ u, execAonCrystalRestored s = .next u ∧ Kept s u := by
  refine ⟨_, rfl, ?_⟩
  (repeat' split) <;> simp [Kept]

theorem execSupplyReport_kept (q : HmpHdr) (s : State) : ∃ u, execSupplyReport q s = .next u ∧ Kept s u := by
  refine ⟨_, rfl, ?_⟩
  refine hmpServe_keptF _ _ _ _ fun s => ?_
  split
  · exact reply_kept ..
  · exact Kept.trans (t := { s with sup := _ }) ⟨rfl, rfl, rfl, rfl, rfl, rfl⟩ (reply_kept ..)

theorem execHoldupAudit_kept (q : HmpHdr) (action : Nat) (s : State) : ∃ u, execHoldupAudit q action s = .next u ∧ Kept s u := by
  refine ⟨_, rfl, ?_⟩
  repeat' first
    | with_reducible assumption
    | with_reducible exact Kept.refl _
    | (extract_lets +onlyGivenNames x; first
        | (refine Kept.cut (t := x) ?_ ?_; rotate_left 1; intro hx; clear_value x; rotate_left 1; subst x)
        | subst x)
    | with_reducible refine hmpServe_keptF _ _ _ _ ?_
    | with_reducible refine startLong_keptF _ _ _ _ ?_
    | split
    | intro _
    | (simp [Kept, *]; done)
    | dsimp only

/-! ### Pools -/

theorem execPoolQuotaSet_kept (q : HmpHdr) (pool count : Nat) (s : State) : ∃ u, execPoolQuotaSet q pool count s = .next u ∧ Kept s u := by
  refine ⟨_, rfl, ?_⟩
  repeat' first
    | with_reducible assumption
    | with_reducible exact Kept.refl _
    | (extract_lets +onlyGivenNames x; first
        | (refine Kept.cut (t := x) ?_ ?_; rotate_left 1; intro hx; clear_value x; rotate_left 1; subst x)
        | subst x)
    | with_reducible refine hmpServe_keptF _ _ _ _ ?_
    | split
    | intro _
    | (simp [Kept, *]; done)
    | dsimp only

theorem execPoolReport_kept (q : HmpHdr) (s : State) : ∃ u, execPoolReport q s = .next u ∧ Kept s u := by
  refine ⟨_, rfl, ?_⟩
  repeat' first
    | with_reducible assumption
    | with_reducible exact Kept.refl _
    | (extract_lets +onlyGivenNames x; first
        | (refine Kept.cut (t := x) ?_ ?_; rotate_left 1; intro hx; clear_value x; rotate_left 1; subst x)
        | subst x)
    | with_reducible refine hmpServe_keptF _ _ _ _ ?_
    | split
    | intro _
    | (simp [Kept, *]; done)
    | dsimp only

/-! ### Battened -/

theorem execBattenedEntryComplete_kept (s : State) : ∃ u, execBattenedEntryComplete s = .next u ∧ Kept s u := by
  refine ⟨_, rfl, ?_⟩
  split
  · split
    · exact enterBattened_kept s
    · exact Kept.refl s
  · exact Kept.refl s

theorem execBattenedEntryAbandon_kept (s : State) : ∃ u, execBattenedEntryAbandon s = .next u ∧ Kept s u := by
  refine ⟨_, rfl, ?_⟩
  (repeat' split) <;> simp [Kept]

theorem execBattenedWake_kept (cause : WakeCause) (s : State) : ∃ u, execBattenedWake cause s = .next u ∧ Kept s u := by
  refine ⟨_, rfl, ?_⟩
  simp [Kept]

theorem execBattenedWakeEnd_kept (s : State) : ∃ u, execBattenedWakeEnd s = .next u ∧ Kept s u := by
  refine ⟨_, rfl, ?_⟩
  (repeat' split) <;> simp [Kept]

/-! ### Boot -/

theorem execAonRailDown_kept (s : State) : ∃ u, execAonRailDown s = .next u ∧ Kept s u := by
  refine ⟨_, rfl, ?_⟩
  simp [Kept]

theorem execPowerUpRetry_kept (pmicGood railsOk : Bool) (s : State) : ∃ u, execPowerUpRetry pmicGood railsOk s = .next u ∧ Kept s u := by
  refine ⟨_, rfl, ?_⟩
  (repeat' split) <;> simp [Kept]

theorem execStartup_kept (inp : StartupIn) (s : State) : ∃ u, execStartup inp s = .next u ∧ Kept s u := by
  refine ⟨_, rfl, ?_⟩
  (repeat' split) <;> simp [Kept]

/-! ### Mailboxes -/

theorem execMailboxEnable_kept (fn : Nat) (s : State) : ∃ u, execMailboxEnable fn s = .next u ∧ Kept s u := by
  refine ⟨_, rfl, ?_⟩
  repeat' first
    | with_reducible assumption
    | with_reducible exact Kept.refl _
    | (extract_lets +onlyGivenNames x; first
        | (refine Kept.cut (t := x) ?_ ?_; rotate_left 1; intro hx; clear_value x; rotate_left 1; subst x)
        | subst x)
    | with_reducible refine barWrite_keptF _ _ _ ?_
    | split
    | intro _
    | (simp [Kept, *]; done)
    | dsimp only

theorem execMailboxDisable_kept (fn : Nat) (s : State) : ∃ u, execMailboxDisable fn s = .next u ∧ Kept s u := by
  refine ⟨_, rfl, ?_⟩
  repeat' first
    | with_reducible assumption
    | with_reducible exact Kept.refl _
    | (extract_lets +onlyGivenNames x; first
        | (refine Kept.cut (t := x) ?_ ?_; rotate_left 1; intro hx; clear_value x; rotate_left 1; subst x)
        | subst x)
    | with_reducible refine barWrite_keptF _ _ _ ?_
    | split
    | intro _
    | (simp [Kept, *]; done)
    | dsimp only

theorem execMailboxReqTailWrite_kept (fn value : Nat) (s : State) : ∃ u, execMailboxReqTailWrite fn value s = .next u ∧ Kept s u := by
  refine ⟨_, rfl, ?_⟩
  repeat' first
    | with_reducible assumption
    | with_reducible exact Kept.refl _
    | (extract_lets +onlyGivenNames x; first
        | (refine Kept.cut (t := x) ?_ ?_; rotate_left 1; intro hx; clear_value x; rotate_left 1; subst x)
        | subst x)
    | with_reducible refine barWrite_keptF _ _ _ ?_
    | split
    | intro _
    | (simp [Kept, *]; done)
    | dsimp only

theorem execMailboxRspHeadWrite_kept (fn value : Nat) (s : State) : ∃ u, execMailboxRspHeadWrite fn value s = .next u ∧ Kept s u := by
  refine ⟨_, rfl, ?_⟩
  repeat' first
    | with_reducible assumption
    | with_reducible exact Kept.refl _
    | (extract_lets +onlyGivenNames x; first
        | (refine Kept.cut (t := x) ?_ ?_; rotate_left 1; intro hx; clear_value x; rotate_left 1; subst x)
        | subst x)
    | with_reducible refine barWrite_keptF _ _ _ ?_
    | split
    | intro _
    | (simp [Kept, *]; done)
    | dsimp only

theorem execMailboxRequestTake_kept (fn : Nat) (raw : Option HmpRaw) (payload : Option (List Byte)) (s : State) : ∃ u, execMailboxRequestTake fn raw payload s = .next u ∧ Kept s u := by
  refine ⟨_, rfl, ?_⟩
  (repeat' split) <;> simp [Kept]

theorem execMailboxResponsePost_kept (fn tag : Nat) (payloadOk headerOk : Bool) (s : State) : ∃ u, execMailboxResponsePost fn tag payloadOk headerOk s = .next u ∧ Kept s u := by
  refine ⟨_, rfl, ?_⟩
  repeat' first
    | with_reducible assumption
    | with_reducible exact Kept.refl _
    | (extract_lets +onlyGivenNames x; first
        | (refine Kept.cut (t := x) ?_ ?_; rotate_left 1; intro hx; clear_value x; rotate_left 1; subst x)
        | subst x)
    | split
    | intro _
    | (simp [Kept, *]; done)
    | dsimp only

theorem execMctpMessage_kept (src : MctpSrc) (size : Nat) (raw : HmpRaw) (payload : List Byte) (s : State) : ∃ u, execMctpMessage src size raw payload s = .next u ∧ Kept s u := by
  refine ⟨_, rfl, ?_⟩
  repeat' first
    | with_reducible assumption
    | with_reducible exact Kept.refl _
    | (extract_lets +onlyGivenNames x; first
        | (refine Kept.cut (t := x) ?_ ?_; rotate_left 1; intro hx; clear_value x; rotate_left 1; subst x)
        | subst x)
    | split
    | intro _
    | (simp [Kept, *]; done)
    | dsimp only

theorem execMctpEndpointIdAssignment_kept (eid : Nat) (s : State) : ∃ u, execMctpEndpointIdAssignment eid s = .next u ∧ Kept s u := by
  refine ⟨_, rfl, ?_⟩
  (repeat' split) <;> simp [Kept]

theorem execHmpPost_kept (a : AdmHdr) (dwords : Nat) (raw : Option HmpRaw) (s : State) : ∃ u, execHmpPost a dwords raw s = .next u ∧ Kept s u := by
  refine ⟨_, rfl, ?_⟩
  repeat' first
    | with_reducible assumption
    | with_reducible exact Kept.refl _
    | (extract_lets +onlyGivenNames x; first
        | (refine Kept.cut (t := x) ?_ ?_; rotate_left 1; intro hx; clear_value x; rotate_left 1; subst x)
        | subst x)
    | with_reducible refine adminHmp_keptF _ _ _ ?_
    | split
    | intro _
    | (simp [Kept, *]; done)
    | dsimp only

theorem execHmpExchange_kept (a : AdmHdr) (dwords : Nat) (raw : Option HmpRaw) (s : State) : ∃ u, execHmpExchange a dwords raw s = .next u ∧ Kept s u := by
  refine ⟨_, rfl, ?_⟩
  repeat' first
    | with_reducible assumption
    | with_reducible exact Kept.refl _
    | (extract_lets +onlyGivenNames x; first
        | (refine Kept.cut (t := x) ?_ ?_; rotate_left 1; intro hx; clear_value x; rotate_left 1; subst x)
        | subst x)
    | with_reducible refine adminHmp_keptF _ _ _ ?_
    | split
    | intro _
    | (simp [Kept, *]; done)
    | dsimp only

theorem execHmpCollect_kept (a : AdmHdr) (tag room waitMs : Nat) (s : State) : ∃ u, execHmpCollect a tag room waitMs s = .next u ∧ Kept s u := by
  refine ⟨_, rfl, ?_⟩
  repeat' first
    | with_reducible assumption
    | with_reducible exact Kept.refl _
    | (extract_lets +onlyGivenNames x; first
        | (refine Kept.cut (t := x) ?_ ?_; rotate_left 1; intro hx; clear_value x; rotate_left 1; subst x)
        | subst x)
    | with_reducible refine adminHmp_keptF _ _ _ ?_
    | split
    | intro _
    | (simp [Kept, *]; done)
    | dsimp only

theorem execHmpCollectTimeout_kept (fn cid : Nat) (s : State) : ∃ u, execHmpCollectTimeout fn cid s = .next u ∧ Kept s u := by
  refine ⟨_, rfl, ?_⟩
  (repeat' split) <;> simp [Kept]

theorem execHmpCancel_kept (q : HmpHdr) (target : Nat) (admin : Option Nat) (s : State) : ∃ u, execHmpCancel q target admin s = .next u ∧ Kept s u := by
  refine ⟨_, rfl, ?_⟩
  repeat' first
    | with_reducible assumption
    | with_reducible exact Kept.refl _
    | (extract_lets +onlyGivenNames x; first
        | (refine Kept.cut (t := x) ?_ ?_; rotate_left 1; intro hx; clear_value x; rotate_left 1; subst x)
        | subst x)
    | with_reducible refine hmpServe_keptF _ _ _ _ ?_
    | with_reducible refine adminHmp_keptF _ _ _ ?_
    | split
    | intro _
    | (simp [Kept, *]; done)
    | dsimp only

theorem execVersionQuery_kept (q : HmpHdr) (s : State) : ∃ u, execVersionQuery q s = .next u ∧ Kept s u := by
  refine ⟨_, rfl, ?_⟩
  repeat' first
    | with_reducible assumption
    | with_reducible exact Kept.refl _
    | (extract_lets +onlyGivenNames x; first
        | (refine Kept.cut (t := x) ?_ ?_; rotate_left 1; intro hx; clear_value x; rotate_left 1; subst x)
        | subst x)
    | with_reducible refine hmpServe_keptF _ _ _ _ ?_
    | split
    | intro _
    | (simp [Kept, *]; done)
    | dsimp only

theorem execOperationStatus_kept (q : HmpHdr) (handle : Nat) (s : State) : ∃ u, execOperationStatus q handle s = .next u ∧ Kept s u := by
  refine ⟨_, rfl, ?_⟩
  repeat' first
    | with_reducible assumption
    | with_reducible exact Kept.refl _
    | (extract_lets +onlyGivenNames x; first
        | (refine Kept.cut (t := x) ?_ ?_; rotate_left 1; intro hx; clear_value x; rotate_left 1; subst x)
        | subst x)
    | with_reducible refine hmpServe_keptF _ _ _ _ ?_
    | split
    | intro _
    | (simp [Kept, *]; done)
    | dsimp only

theorem execOperationHandleExpiry_kept (sender : Sender) (handle : Nat) (s : State) : ∃ u, execOperationHandleExpiry sender handle s = .next u ∧ Kept s u := by
  refine ⟨_, rfl, ?_⟩
  simp [Kept]

theorem execInvalidHmpOpcode_kept (q : HmpHdr) (opcode : Nat) (s : State) : ∃ u, execInvalidHmpOpcode q opcode s = .next u ∧ Kept s u := by
  refine ⟨_, rfl, ?_⟩
  repeat' first
    | with_reducible assumption
    | with_reducible exact Kept.refl _
    | (extract_lets +onlyGivenNames x; first
        | (refine Kept.cut (t := x) ?_ ?_; rotate_left 1; intro hx; clear_value x; rotate_left 1; subst x)
        | subst x)
    | with_reducible refine hmpServe_keptF _ _ _ _ ?_
    | split
    | intro _
    | (simp [Kept, *]; done)
    | dsimp only

/-! ### Namespaces -/

theorem execFunctionZoneLimits_kept (q : HmpHdr) (fn active opened : Nat) (s : State) : ∃ u, execFunctionZoneLimits q fn active opened s = .next u ∧ Kept s u := by
  refine ⟨_, rfl, ?_⟩
  repeat' first
    | with_reducible assumption
    | with_reducible exact Kept.refl _
    | (extract_lets +onlyGivenNames x; first
        | (refine Kept.cut (t := x) ?_ ?_; rotate_left 1; intro hx; clear_value x; rotate_left 1; subst x)
        | subst x)
    | with_reducible refine hmpServe_keptF _ _ _ _ ?_
    | split
    | intro _
    | (simp [Kept, *]; done)
    | dsimp only

theorem execBaySetDefine_kept (q : HmpHdr) (set : Nat) (exclusive : Bool) (bays grants : List Nat) (s : State) : ∃ u, execBaySetDefine q set exclusive bays grants s = .next u ∧ Kept s u := by
  refine ⟨_, rfl, ?_⟩
  repeat' first
    | with_reducible assumption
    | with_reducible exact Kept.refl _
    | (extract_lets +onlyGivenNames x; first
        | (refine Kept.cut (t := x) ?_ ?_; rotate_left 1; intro hx; clear_value x; rotate_left 1; subst x)
        | subst x)
    | with_reducible refine hmpServe_keptF _ _ _ _ ?_
    | split
    | intro _
    | (simp [Kept, *]; done)
    | dsimp only

theorem execBaySetDelete_kept (q : HmpHdr) (set : Nat) (s : State) : ∃ u, execBaySetDelete q set s = .next u ∧ Kept s u := by
  refine ⟨_, rfl, ?_⟩
  repeat' first
    | with_reducible assumption
    | with_reducible exact Kept.refl _
    | (extract_lets +onlyGivenNames x; first
        | (refine Kept.cut (t := x) ?_ ?_; rotate_left 1; intro hx; clear_value x; rotate_left 1; subst x)
        | subst x)
    | with_reducible refine hmpServe_keptF _ _ _ _ ?_
    | split
    | intro _
    | (simp [Kept, *]; done)
    | dsimp only

theorem execNamespaceCreate_kept (a : AdmHdr) (zoned : Bool) (nsze : Nat) (fmt : LbaFormat) (sets : List (Nat × Nat)) (s : State) : ∃ u, execNamespaceCreate a zoned nsze fmt sets s = .next u ∧ Kept s u := by
  refine ⟨_, rfl, ?_⟩
  refine adminServe_keptF _ _ _ _ _ fun s => ?_
  split
  · exact adminDone_kept ..
  · split
    · exact (profileEvent_kept ..).trans (adminDone_kept ..)
    · rename_i h
      dsimp only
      have ht : Kept s ‹State› := by
        split at h
        · exact buildGeometry_kept h
        · cases h
          exact Kept.refl s
      exact Kept.ite (ht.trans ((addNs_kept ..).trans (adminDone_kept ..))) (adminDone_kept ..)

theorem execNamespaceDelete_kept (a : AdmHdr) (nsid : Nat) (s : State) : ∃ u, execNamespaceDelete a nsid s = .next u ∧ Kept s u := by
  refine ⟨_, rfl, ?_⟩
  repeat' first
    | with_reducible assumption
    | with_reducible exact Kept.refl _
    | (extract_lets +onlyGivenNames x; first
        | (refine Kept.cut (t := x) ?_ ?_; rotate_left 1; intro hx; clear_value x; rotate_left 1; subst x)
        | subst x)
    | with_reducible refine adminServe_keptF _ _ _ _ _ ?_
    | with_reducible refine forEach_kept _ _ _ ?_
    | with_reducible refine Kept.trans ?_ (forEach_kept _ _ _ ?_)
    | split
    | intro _
    | (simp [Kept, *]; done)
    | dsimp only

theorem execNamespaceAttach_kept (a : AdmHdr) (nsid fn : Nat) (s : State) : ∃ u, execNamespaceAttach a nsid fn s = .next u ∧ Kept s u := by
  refine ⟨_, rfl, ?_⟩
  repeat' first
    | with_reducible assumption
    | with_reducible exact Kept.refl _
    | (extract_lets +onlyGivenNames x; first
        | (refine Kept.cut (t := x) ?_ ?_; rotate_left 1; intro hx; clear_value x; rotate_left 1; subst x)
        | subst x)
    | with_reducible refine adminServe_keptF _ _ _ _ _ ?_
    | split
    | intro _
    | (simp [Kept, *]; done)
    | dsimp only

theorem execNamespaceDetach_kept (a : AdmHdr) (nsid fn : Nat) (s : State) : ∃ u, execNamespaceDetach a nsid fn s = .next u ∧ Kept s u := by
  refine ⟨_, rfl, ?_⟩
  repeat' first
    | with_reducible assumption
    | with_reducible exact Kept.refl _
    | (extract_lets +onlyGivenNames x; first
        | (refine Kept.cut (t := x) ?_ ?_; rotate_left 1; intro hx; clear_value x; rotate_left 1; subst x)
        | subst x)
    | with_reducible refine adminServe_keptF _ _ _ _ _ ?_
    | split
    | intro _
    | (simp [Kept, *]; done)
    | dsimp only

theorem execFormatNvm_kept (a : AdmHdr) (nsid : Nat) (fmt : LbaFormat) (ses : Nat) (s : State) : ∃ u, execFormatNvm a nsid fmt ses s = .next u ∧ Kept s u := by
  refine ⟨_, rfl, ?_⟩
  repeat' first
    | with_reducible assumption
    | with_reducible exact Kept.refl _
    | (extract_lets +onlyGivenNames x; first
        | (refine Kept.cut (t := x) ?_ ?_; rotate_left 1; intro hx; clear_value x; rotate_left 1; subst x)
        | subst x)
    | with_reducible refine forEach_kept _ _ _ ?_
    | with_reducible refine Kept.trans ?_ (forEach_kept _ _ _ ?_)
    | with_reducible refine adminServe_keptF _ _ _ _ _ ?_
    | with_reducible refine formatWith_keptF _ _ _ _ _ ?_
    | split
    | intro _
    | (simp [Kept, *]; done)
    | dsimp only

theorem execFormatNvmCryptoErase_kept (a : AdmHdr) (nsid : Nat) (fmt : LbaFormat) (s : State) : ∃ u, execFormatNvmCryptoErase a nsid fmt s = .next u ∧ Kept s u := by
  refine ⟨_, rfl, ?_⟩
  (repeat' split) <;> simp [Kept]

theorem execSanitizeCryptoErase_kept (a : AdmHdr) (s : State) : ∃ u, execSanitizeCryptoErase a s = .next u ∧ Kept s u := by
  refine ⟨_, rfl, ?_⟩
  repeat' first
    | with_reducible assumption
    | with_reducible exact Kept.refl _
    | (extract_lets +onlyGivenNames x; first
        | (refine Kept.cut (t := x) ?_ ?_; rotate_left 1; intro hx; clear_value x; rotate_left 1; subst x)
        | subst x)
    | with_reducible refine adminServe_keptF _ _ _ _ _ ?_
    | split
    | intro _
    | (simp [Kept, *]; done)
    | dsimp only

theorem execSanitizeBlockErase_kept (a : AdmHdr) (s : State) : ∃ u, execSanitizeBlockErase a s = .next u ∧ Kept s u := by
  refine ⟨_, rfl, ?_⟩
  repeat' first
    | with_reducible assumption
    | with_reducible exact Kept.refl _
    | (extract_lets +onlyGivenNames x; first
        | (refine Kept.cut (t := x) ?_ ?_; rotate_left 1; intro hx; clear_value x; rotate_left 1; subst x)
        | subst x)
    | with_reducible refine adminServe_keptF _ _ _ _ _ ?_
    | split
    | intro _
    | (simp [Kept, *]; done)
    | dsimp only

/-! ### Board -/

theorem execTapInstructionUpdate_kept (i : TapInstr) (s : State) : ∃ u, execTapInstructionUpdate i s = .next u ∧ Kept s u := by
  refine ⟨_, rfl, ?_⟩
  simp [Kept]

theorem execActivityLedTimeout_kept (s : State) : ∃ u, execActivityLedTimeout s = .next u ∧ Kept s u := by
  refine ⟨_, rfl, ?_⟩
  (repeat' split) <;> simp [Kept]

theorem execFaultLedBlink_kept (s : State) : ∃ u, execFaultLedBlink s = .next u ∧ Kept s u := by
  refine ⟨_, rfl, ?_⟩
  (repeat' split) <;> simp [Kept]

theorem execNvmeMiSend_kept (a : AdmHdr) (request : List Byte) (s : State) : ∃ u, execNvmeMiSend a request s = .next u ∧ Kept s u := by
  refine ⟨_, rfl, ?_⟩
  repeat' first
    | with_reducible assumption
    | with_reducible exact Kept.refl _
    | (extract_lets +onlyGivenNames x; first
        | (refine Kept.cut (t := x) ?_ ?_; rotate_left 1; intro hx; clear_value x; rotate_left 1; subst x)
        | subst x)
    | with_reducible refine adminServe_keptF _ _ _ _ _ ?_
    | split
    | intro _
    | (simp [Kept, *]; done)
    | dsimp only

theorem execNvmeMiReceive_kept (a : AdmHdr) (s : State) : ∃ u, execNvmeMiReceive a s = .next u ∧ Kept s u := by
  refine ⟨_, rfl, ?_⟩
  repeat' first
    | with_reducible assumption
    | with_reducible exact Kept.refl _
    | (extract_lets +onlyGivenNames x; first
        | (refine Kept.cut (t := x) ?_ ?_; rotate_left 1; intro hx; clear_value x; rotate_left 1; subst x)
        | subst x)
    | with_reducible refine adminServe_keptF _ _ _ _ _ ?_
    | split
    | intro _
    | (simp [Kept, *]; done)
    | dsimp only

theorem execNvmeMiMctpMessage_kept (eid : Nat) (request : List Byte) (s : State) : ∃ u, execNvmeMiMctpMessage eid request s = .next u ∧ Kept s u := by
  refine ⟨_, rfl, ?_⟩
  repeat' first
    | with_reducible assumption
    | with_reducible exact Kept.refl _
    | (extract_lets +onlyGivenNames x; first
        | (refine Kept.cut (t := x) ?_ ?_; rotate_left 1; intro hx; clear_value x; rotate_left 1; subst x)
        | subst x)
    | split
    | intro _
    | (simp [Kept, *]; done)
    | dsimp only

/-! ### MediaReports -/

theorem execBadBlockReport_kept (q : HmpHdr) (die table first : Nat) (s : State) : ∃ u, execBadBlockReport q die table first s = .next u ∧ Kept s u := by
  refine ⟨_, rfl, ?_⟩
  repeat' first
    | with_reducible assumption
    | with_reducible exact Kept.refl _
    | (extract_lets +onlyGivenNames x; first
        | (refine Kept.cut (t := x) ?_ ?_; rotate_left 1; intro hx; clear_value x; rotate_left 1; subst x)
        | subst x)
    | with_reducible refine hmpServe_keptF _ _ _ _ ?_
    | split
    | intro _
    | (simp [Kept, *]; done)
    | dsimp only

theorem execMediaWearReport_kept (q : HmpHdr) (first count : Nat) (s : State) : ∃ u, execMediaWearReport q first count s = .next u ∧ Kept s u := by
  refine ⟨_, rfl, ?_⟩
  repeat' first
    | with_reducible assumption
    | with_reducible exact Kept.refl _
    | (extract_lets +onlyGivenNames x; first
        | (refine Kept.cut (t := x) ?_ ?_; rotate_left 1; intro hx; clear_value x; rotate_left 1; subst x)
        | subst x)
    | with_reducible refine hmpServe_keptF _ _ _ _ ?_
    | split
    | intro _
    | (simp [Kept, *]; done)
    | dsimp only

theorem execDieRetire_kept (q : HmpHdr) (die : Nat) (s : State) : ∃ u, execDieRetire q die s = .next u ∧ Kept s u := by
  refine ⟨_, rfl, ?_⟩
  repeat' first
    | with_reducible assumption
    | with_reducible exact Kept.refl _
    | (extract_lets +onlyGivenNames x; first
        | (refine Kept.cut (t := x) ?_ ?_; rotate_left 1; intro hx; clear_value x; rotate_left 1; subst x)
        | subst x)
    | with_reducible refine hmpServe_keptF _ _ _ _ ?_
    | with_reducible refine startLong_keptF _ _ _ _ ?_
    | split
    | intro _
    | (simp [Kept, *]; done)
    | dsimp only

/-! ### Recorder -/

theorem execRecordPageProgram_kept (ok : Bool) (s : State) : ∃ u, execRecordPageProgram ok s = .next u ∧ Kept s u := by
  refine ⟨_, rfl, ?_⟩
  (repeat' split) <;> simp [Kept]

theorem execDormerCursorHiWrite_kept (value : Nat) (s : State) : ∃ u, execDormerCursorHiWrite value s = .next u ∧ Kept s u := by
  refine ⟨_, rfl, ?_⟩
  repeat' first
    | with_reducible assumption
    | with_reducible exact Kept.refl _
    | (extract_lets +onlyGivenNames x; first
        | (refine Kept.cut (t := x) ?_ ?_; rotate_left 1; intro hx; clear_value x; rotate_left 1; subst x)
        | subst x)
    | split
    | intro _
    | (simp [Kept, *]; done)
    | dsimp only

theorem execDormerSnapshotDone_kept (s : State) : ∃ u, execDormerSnapshotDone s = .next u ∧ Kept s u := by
  refine ⟨_, rfl, ?_⟩
  (repeat' split) <;> simp [Kept]

theorem execDormerPosition_kept (q : HmpHdr) (cursor : Nat) (permanent : Bool) (s : State) : ∃ u, execDormerPosition q cursor permanent s = .next u ∧ Kept s u := by
  refine ⟨_, rfl, ?_⟩
  repeat' first
    | with_reducible assumption
    | with_reducible exact Kept.refl _
    | (extract_lets +onlyGivenNames x; first
        | (refine Kept.cut (t := x) ?_ ?_; rotate_left 1; intro hx; clear_value x; rotate_left 1; subst x)
        | subst x)
    | with_reducible refine hmpServe_keptF _ _ _ _ ?_
    | split
    | intro _
    | (simp [Kept, *]; done)
    | dsimp only

theorem execEventRead_kept (q : HmpHdr) (first area severity most : Nat) (s : State) : ∃ u, execEventRead q first area severity most s = .next u ∧ Kept s u := by
  refine ⟨_, rfl, ?_⟩
  repeat' first
    | with_reducible assumption
    | with_reducible exact Kept.refl _
    | (extract_lets +onlyGivenNames x; first
        | (refine Kept.cut (t := x) ?_ ?_; rotate_left 1; intro hx; clear_value x; rotate_left 1; subst x)
        | subst x)
    | with_reducible refine hmpServe_keptF _ _ _ _ ?_
    | split
    | intro _
    | (simp [Kept, *]; done)
    | dsimp only

theorem execEnergyMeterReport_kept (q : HmpHdr) (fn : Nat) (s : State) : ∃ u, execEnergyMeterReport q fn s = .next u ∧ Kept s u := by
  refine ⟨_, rfl, ?_⟩
  repeat' first
    | with_reducible assumption
    | with_reducible exact Kept.refl _
    | (extract_lets +onlyGivenNames x; first
        | (refine Kept.cut (t := x) ?_ ?_; rotate_left 1; intro hx; clear_value x; rotate_left 1; subst x)
        | subst x)
    | with_reducible refine hmpServe_keptF _ _ _ _ ?_
    | split
    | intro _
    | (simp [Kept, *]; done)
    | dsimp only

theorem execCounterReport_kept (q : HmpHdr) (fn : Nat) (s : State) : ∃ u, execCounterReport q fn s = .next u ∧ Kept s u := by
  refine ⟨_, rfl, ?_⟩
  repeat' first
    | with_reducible assumption
    | with_reducible exact Kept.refl _
    | (extract_lets +onlyGivenNames x; first
        | (refine Kept.cut (t := x) ?_ ?_; rotate_left 1; intro hx; clear_value x; rotate_left 1; subst x)
        | subst x)
    | with_reducible refine hmpServe_keptF _ _ _ _ ?_
    | split
    | intro _
    | (simp [Kept, *]; done)
    | dsimp only

/-! ### HostRegs -/

theorem execSqTailDoorbell_kept (fn qid tail : Nat) (s : State) : ∃ u, execSqTailDoorbell fn qid tail s = .next u ∧ Kept s u := by
  refine ⟨_, rfl, ?_⟩
  repeat' first
    | with_reducible assumption
    | with_reducible exact Kept.refl _
    | (extract_lets +onlyGivenNames x; first
        | (refine Kept.cut (t := x) ?_ ?_; rotate_left 1; intro hx; clear_value x; rotate_left 1; subst x)
        | subst x)
    | split
    | intro _
    | (simp [Kept, *]; done)
    | dsimp only

theorem execCqHeadDoorbell_kept (fn qid head : Nat) (s : State) : ∃ u, execCqHeadDoorbell fn qid head s = .next u ∧ Kept s u := by
  refine ⟨_, rfl, ?_⟩
  repeat' first
    | with_reducible assumption
    | with_reducible exact Kept.refl _
    | (extract_lets +onlyGivenNames x; first
        | (refine Kept.cut (t := x) ?_ ?_; rotate_left 1; intro hx; clear_value x; rotate_left 1; subst x)
        | subst x)
    | split
    | intro _
    | (simp [Kept, *]; done)
    | dsimp only

theorem execKwDevtimeLoRead_kept (fn : Nat) (s : State) : ∃ u, execKwDevtimeLoRead fn s = .next u ∧ Kept s u := by
  refine ⟨_, rfl, ?_⟩
  (repeat' split) <;> simp [Kept]

theorem execUnsupportedBarAccess_kept (fn bar offset size : Nat) (s : State) : ∃ u, execUnsupportedBarAccess fn bar offset size s = .next u ∧ Kept s u := by
  refine ⟨_, rfl, ?_⟩
  (repeat' split) <;> simp [Kept]

theorem execRegisterWrite_kept (fn : Nat) (space : RegSpace) (offset value : Nat) (s : State) : ∃ u, execRegisterWrite fn space offset value s = .next u ∧ Kept s u := by
  refine ⟨_, rfl, ?_⟩
  repeat' first
    | with_reducible assumption
    | with_reducible exact Kept.refl _
    | (extract_lets +onlyGivenNames x; first
        | (refine Kept.cut (t := x) ?_ ?_; rotate_left 1; intro hx; clear_value x; rotate_left 1; subst x)
        | subst x)
    | with_reducible refine barWrite_keptF _ _ _ ?_
    | split
    | intro _
    | (simp [Kept, *]; done)
    | dsimp only

/-! ### Queues -/

theorem execCreateIoCq_kept (a : AdmHdr) (qid size vector : Nat) (pc ien : Bool) (s : State) : ∃ u, execCreateIoCq a qid size vector pc ien s = .next u ∧ Kept s u := by
  refine ⟨_, rfl, ?_⟩
  repeat' first
    | with_reducible assumption
    | with_reducible exact Kept.refl _
    | (extract_lets +onlyGivenNames x; first
        | (refine Kept.cut (t := x) ?_ ?_; rotate_left 1; intro hx; clear_value x; rotate_left 1; subst x)
        | subst x)
    | with_reducible refine adminServe_keptF _ _ _ _ _ ?_
    | split
    | intro _
    | (simp [Kept, *]; done)
    | dsimp only

theorem execCreateIoSq_kept (a : AdmHdr) (qid size cqid : Nat) (pc : Bool) (s : State) : ∃ u, execCreateIoSq a qid size cqid pc s = .next u ∧ Kept s u := by
  refine ⟨_, rfl, ?_⟩
  repeat' first
    | with_reducible assumption
    | with_reducible exact Kept.refl _
    | (extract_lets +onlyGivenNames x; first
        | (refine Kept.cut (t := x) ?_ ?_; rotate_left 1; intro hx; clear_value x; rotate_left 1; subst x)
        | subst x)
    | with_reducible refine adminServe_keptF _ _ _ _ _ ?_
    | split
    | intro _
    | (simp [Kept, *]; done)
    | dsimp only

theorem execDeleteIoSq_kept (a : AdmHdr) (qid : Nat) (s : State) : ∃ u, execDeleteIoSq a qid s = .next u ∧ Kept s u := by
  refine ⟨_, rfl, ?_⟩
  repeat' first
    | with_reducible assumption
    | with_reducible exact Kept.refl _
    | (extract_lets +onlyGivenNames x; first
        | (refine Kept.cut (t := x) ?_ ?_; rotate_left 1; intro hx; clear_value x; rotate_left 1; subst x)
        | subst x)
    | with_reducible refine adminServe_keptF _ _ _ _ _ ?_
    | with_reducible refine forEach_kept _ _ _ ?_
    | with_reducible refine Kept.trans ?_ (forEach_kept _ _ _ ?_)
    | split
    | intro _
    | (simp [Kept, *]; done)
    | dsimp only

theorem execDeleteIoCq_kept (a : AdmHdr) (qid : Nat) (s : State) : ∃ u, execDeleteIoCq a qid s = .next u ∧ Kept s u := by
  refine ⟨_, rfl, ?_⟩
  repeat' first
    | with_reducible assumption
    | with_reducible exact Kept.refl _
    | (extract_lets +onlyGivenNames x; first
        | (refine Kept.cut (t := x) ?_ ?_; rotate_left 1; intro hx; clear_value x; rotate_left 1; subst x)
        | subst x)
    | with_reducible refine adminServe_keptF _ _ _ _ _ ?_
    | split
    | intro _
    | (simp [Kept, *]; done)
    | dsimp only

theorem execAbort_kept (a : AdmHdr) (sqid cid : Nat) (s : State) : ∃ u, execAbort a sqid cid s = .next u ∧ Kept s u := by
  refine ⟨_, rfl, ?_⟩
  repeat' first
    | with_reducible assumption
    | with_reducible exact Kept.refl _
    | (extract_lets +onlyGivenNames x; first
        | (refine Kept.cut (t := x) ?_ ?_; rotate_left 1; intro hx; clear_value x; rotate_left 1; subst x)
        | subst x)
    | with_reducible refine adminServe_keptF _ _ _ _ _ ?_
    | split
    | intro _
    | (simp [Kept, *]; done)
    | dsimp only

theorem execAsynchronousEventRequest_kept (a : AdmHdr) (s : State) : ∃ u, execAsynchronousEventRequest a s = .next u ∧ Kept s u := by
  refine ⟨_, rfl, ?_⟩
  repeat' first
    | with_reducible assumption
    | with_reducible exact Kept.refl _
    | (extract_lets +onlyGivenNames x; first
        | (refine Kept.cut (t := x) ?_ ?_; rotate_left 1; intro hx; clear_value x; rotate_left 1; subst x)
        | subst x)
    | with_reducible refine adminServe_keptF _ _ _ _ _ ?_
    | split
    | intro _
    | (simp [Kept, *]; done)
    | dsimp only

theorem execVirtMgmtOffline_kept (a : AdmHdr) (cntlid : Nat) (s : State) : ∃ u, execVirtMgmtOffline a cntlid s = .next u ∧ Kept s u := by
  refine ⟨_, rfl, ?_⟩
  refine adminServe_keptF _ _ _ _ _ fun s => ?_
  split
  · exact adminDone_kept ..
  · dsimp only
    split
    · exact (fnReset_kept ..).trans ((updFn_kept ..).trans (adminDone_kept ..))
    · exact (updFn_kept ..).trans (adminDone_kept ..)

theorem execVirtMgmtAssign_kept (a : AdmHdr) (cntlid count : Nat) (s : State) : ∃ u, execVirtMgmtAssign a cntlid count s = .next u ∧ Kept s u := by
  refine ⟨_, rfl, ?_⟩
  repeat' first
    | with_reducible assumption
    | with_reducible exact Kept.refl _
    | (extract_lets +onlyGivenNames x; first
        | (refine Kept.cut (t := x) ?_ ?_; rotate_left 1; intro hx; clear_value x; rotate_left 1; subst x)
        | subst x)
    | with_reducible refine adminServe_keptF _ _ _ _ _ ?_
    | split
    | intro _
    | (simp [Kept, *]; done)
    | dsimp only

theorem execVirtMgmtOnline_kept (a : AdmHdr) (cntlid : Nat) (s : State) : ∃ u, execVirtMgmtOnline a cntlid s = .next u ∧ Kept s u := by
  refine ⟨_, rfl, ?_⟩
  repeat' first
    | with_reducible assumption
    | with_reducible exact Kept.refl _
    | (extract_lets +onlyGivenNames x; first
        | (refine Kept.cut (t := x) ?_ ?_; rotate_left 1; intro hx; clear_value x; rotate_left 1; subst x)
        | subst x)
    | with_reducible refine adminServe_keptF _ _ _ _ _ ?_
    | split
    | intro _
    | (simp [Kept, *]; done)
    | dsimp only

theorem execInvalidAdminOpcode_kept (a : AdmHdr) (opcode : Nat) (s : State) : ∃ u, execInvalidAdminOpcode a opcode s = .next u ∧ Kept s u := by
  refine ⟨_, rfl, ?_⟩
  repeat' first
    | with_reducible assumption
    | with_reducible exact Kept.refl _
    | (extract_lets +onlyGivenNames x; first
        | (refine Kept.cut (t := x) ?_ ?_; rotate_left 1; intro hx; clear_value x; rotate_left 1; subst x)
        | subst x)
    | with_reducible refine adminServe_keptF _ _ _ _ _ ?_
    | split
    | intro _
    | (simp [Kept, *]; done)
    | dsimp only

theorem execInterruptAggregationTimeout_kept (fn vector : Nat) (s : State) : ∃ u, execInterruptAggregationTimeout fn vector s = .next u ∧ Kept s u := by
  refine ⟨_, rfl, ?_⟩
  repeat' first
    | with_reducible assumption
    | with_reducible exact Kept.refl _
    | (extract_lets +onlyGivenNames x; first
        | (refine Kept.cut (t := x) ?_ ?_; rotate_left 1; intro hx; clear_value x; rotate_left 1; subst x)
        | subst x)
    | split
    | intro _
    | (simp [Kept, *]; done)
    | dsimp only

/-! ### Features -/

theorem execSetFeaturesArbitration_kept (a : AdmHdr) (ab : Nat) (s : State) : ∃ u, execSetFeaturesArbitration a ab s = .next u ∧ Kept s u := by
  refine ⟨_, rfl, ?_⟩
  repeat' first
    | with_reducible assumption
    | with_reducible exact Kept.refl _
    | (extract_lets +onlyGivenNames x; first
        | (refine Kept.cut (t := x) ?_ ?_; rotate_left 1; intro hx; clear_value x; rotate_left 1; subst x)
        | subst x)
    | with_reducible refine setServe_keptF _ _ _ ?_
    | split
    | intro _
    | (simp [Kept, *]; done)
    | dsimp only

theorem execSetFeaturesPowerManagement_kept (a : AdmHdr) (ps : Nat) (s : State) : ∃ u, execSetFeaturesPowerManagement a ps s = .next u ∧ Kept s u := by
  refine ⟨_, rfl, ?_⟩
  repeat' first
    | with_reducible assumption
    | with_reducible exact Kept.refl _
    | (extract_lets +onlyGivenNames x; first
        | (refine Kept.cut (t := x) ?_ ?_; rotate_left 1; intro hx; clear_value x; rotate_left 1; subst x)
        | subst x)
    | with_reducible refine setServe_keptF _ _ _ ?_
    | split
    | intro _
    | (simp [Kept, *]; done)
    | dsimp only

theorem execSetFeaturesTemperatureThreshold_kept (a : AdmHdr) (sensor : Nat) (low : Bool) (kelvin : Nat) (s : State) : ∃ u, execSetFeaturesTemperatureThreshold a sensor low kelvin s = .next u ∧ Kept s u := by
  refine ⟨_, rfl, ?_⟩
  repeat' first
    | with_reducible assumption
    | with_reducible exact Kept.refl _
    | (extract_lets +onlyGivenNames x; first
        | (refine Kept.cut (t := x) ?_ ?_; rotate_left 1; intro hx; clear_value x; rotate_left 1; subst x)
        | subst x)
    | with_reducible refine setServe_keptF _ _ _ ?_
    | split
    | intro _
    | (simp [Kept, *]; done)
    | dsimp only

theorem execSetFeaturesErrorRecovery_kept (a : AdmHdr) (tler : Nat) (dulbe : Bool) (s : State) : ∃ u, execSetFeaturesErrorRecovery a tler dulbe s = .next u ∧ Kept s u := by
  refine ⟨_, rfl, ?_⟩
  repeat' first
    | with_reducible assumption
    | with_reducible exact Kept.refl _
    | (extract_lets +onlyGivenNames x; first
        | (refine Kept.cut (t := x) ?_ ?_; rotate_left 1; intro hx; clear_value x; rotate_left 1; subst x)
        | subst x)
    | with_reducible refine setServe_keptF _ _ _ ?_
    | split
    | intro _
    | (simp [Kept, *]; done)
    | dsimp only

theorem execSetFeaturesNumberOfQueues_kept (a : AdmHdr) (nsqr ncqr : Nat) (s : State) : ∃ u, execSetFeaturesNumberOfQueues a nsqr ncqr s = .next u ∧ Kept s u := by
  refine ⟨_, rfl, ?_⟩
  repeat' first
    | with_reducible assumption
    | with_reducible exact Kept.refl _
    | (extract_lets +onlyGivenNames x; first
        | (refine Kept.cut (t := x) ?_ ?_; rotate_left 1; intro hx; clear_value x; rotate_left 1; subst x)
        | subst x)
    | with_reducible refine setServe_keptF _ _ _ ?_
    | split
    | intro _
    | (simp [Kept, *]; done)
    | dsimp only

theorem execSetFeaturesInterruptCoalescing_kept (a : AdmHdr) (thr time : Nat) (s : State) : ∃ u, execSetFeaturesInterruptCoalescing a thr time s = .next u ∧ Kept s u := by
  refine ⟨_, rfl, ?_⟩
  repeat' first
    | with_reducible assumption
    | with_reducible exact Kept.refl _
    | (extract_lets +onlyGivenNames x; first
        | (refine Kept.cut (t := x) ?_ ?_; rotate_left 1; intro hx; clear_value x; rotate_left 1; subst x)
        | subst x)
    | with_reducible refine setServe_keptF _ _ _ ?_
    | split
    | intro _
    | (simp [Kept, *]; done)
    | dsimp only

theorem execSetFeaturesInterruptVectorConfig_kept (a : AdmHdr) (vector : Nat) (disable : Bool) (s : State) : ∃ u, execSetFeaturesInterruptVectorConfig a vector disable s = .next u ∧ Kept s u := by
  refine ⟨_, rfl, ?_⟩
  repeat' first
    | with_reducible assumption
    | with_reducible exact Kept.refl _
    | (extract_lets +onlyGivenNames x; first
        | (refine Kept.cut (t := x) ?_ ?_; rotate_left 1; intro hx; clear_value x; rotate_left 1; subst x)
        | subst x)
    | with_reducible refine setServe_keptF _ _ _ ?_
    | split
    | intro _
    | (simp [Kept, *]; done)
    | dsimp only

theorem execSetFeaturesWriteAtomicity_kept (a : AdmHdr) (dn : Bool) (s : State) : ∃ u, execSetFeaturesWriteAtomicity a dn s = .next u ∧ Kept s u := by
  refine ⟨_, rfl, ?_⟩
  repeat' first
    | with_reducible assumption
    | with_reducible exact Kept.refl _
    | (extract_lets +onlyGivenNames x; first
        | (refine Kept.cut (t := x) ?_ ?_; rotate_left 1; intro hx; clear_value x; rotate_left 1; subst x)
        | subst x)
    | with_reducible refine setServe_keptF _ _ _ ?_
    | split
    | intro _
    | (simp [Kept, *]; done)
    | dsimp only

theorem execSetFeaturesAsyncEventConfig_kept (a : AdmHdr) (mask : Nat) (s : State) : ∃ u, execSetFeaturesAsyncEventConfig a mask s = .next u ∧ Kept s u := by
  refine ⟨_, rfl, ?_⟩
  repeat' first
    | with_reducible assumption
    | with_reducible exact Kept.refl _
    | (extract_lets +onlyGivenNames x; first
        | (refine Kept.cut (t := x) ?_ ?_; rotate_left 1; intro hx; clear_value x; rotate_left 1; subst x)
        | subst x)
    | with_reducible refine setServe_keptF _ _ _ ?_
    | split
    | intro _
    | (simp [Kept, *]; done)
    | dsimp only

theorem execSetFeaturesTimestamp_kept (a : AdmHdr) (ms : Nat) (s : State) : ∃ u, execSetFeaturesTimestamp a ms s = .next u ∧ Kept s u := by
  refine ⟨_, rfl, ?_⟩
  repeat' first
    | with_reducible assumption
    | with_reducible exact Kept.refl _
    | (extract_lets +onlyGivenNames x; first
        | (refine Kept.cut (t := x) ?_ ?_; rotate_left 1; intro hx; clear_value x; rotate_left 1; subst x)
        | subst x)
    | with_reducible refine setServe_keptF _ _ _ ?_
    | split
    | intro _
    | (simp [Kept, *]; done)
    | dsimp only

theorem execSetFeaturesHostBehaviorSupport_kept (a : AdmHdr) (acre : Bool) (s : State) : ∃ u, execSetFeaturesHostBehaviorSupport a acre s = .next u ∧ Kept s u := by
  refine ⟨_, rfl, ?_⟩
  repeat' first
    | with_reducible assumption
    | with_reducible exact Kept.refl _
    | (extract_lets +onlyGivenNames x; first
        | (refine Kept.cut (t := x) ?_ ?_; rotate_left 1; intro hx; clear_value x; rotate_left 1; subst x)
        | subst x)
    | with_reducible refine setServe_keptF _ _ _ ?_
    | split
    | intro _
    | (simp [Kept, *]; done)
    | dsimp only

theorem execSetFeaturesQueueLatencyClass_kept (a : AdmHdr) (sqid cls : Nat) (s : State) : ∃ u, execSetFeaturesQueueLatencyClass a sqid cls s = .next u ∧ Kept s u := by
  refine ⟨_, rfl, ?_⟩
  repeat' first
    | with_reducible assumption
    | with_reducible exact Kept.refl _
    | (extract_lets +onlyGivenNames x; first
        | (refine Kept.cut (t := x) ?_ ?_; rotate_left 1; intro hx; clear_value x; rotate_left 1; subst x)
        | subst x)
    | with_reducible refine setServe_keptF _ _ _ ?_
    | split
    | intro _
    | (simp [Kept, *]; done)
    | dsimp only

theorem execSetFeaturesVerdictRing_kept (a : AdmHdr) (cqid : Nat) (enable : Bool) (base : Nat) (s : State) : ∃ u, execSetFeaturesVerdictRing a cqid enable base s = .next u ∧ Kept s u := by
  refine ⟨_, rfl, ?_⟩
  repeat' first
    | with_reducible assumption
    | with_reducible exact Kept.refl _
    | (extract_lets +onlyGivenNames x; first
        | (refine Kept.cut (t := x) ?_ ?_; rotate_left 1; intro hx; clear_value x; rotate_left 1; subst x)
        | subst x)
    | with_reducible refine setServe_keptF _ _ _ ?_
    | split
    | intro _
    | (simp [Kept, *]; done)
    | dsimp only

theorem execSetFeaturesUnsupported_kept (a : AdmHdr) (fid : Nat) (s : State) : ∃ u, execSetFeaturesUnsupported a fid s = .next u ∧ Kept s u := by
  refine ⟨_, rfl, ?_⟩
  repeat' first
    | with_reducible assumption
    | with_reducible exact Kept.refl _
    | (extract_lets +onlyGivenNames x; first
        | (refine Kept.cut (t := x) ?_ ?_; rotate_left 1; intro hx; clear_value x; rotate_left 1; subst x)
        | subst x)
    | with_reducible refine setServe_keptF _ _ _ ?_
    | split
    | intro _
    | (simp [Kept, *]; done)
    | dsimp only

theorem execGetFeaturesQueueLatencyClass_kept (a : AdmHdr) (sqid : Nat) (s : State) : ∃ u, execGetFeaturesQueueLatencyClass a sqid s = .next u ∧ Kept s u := by
  refine ⟨_, rfl, ?_⟩
  repeat' first
    | with_reducible assumption
    | with_reducible exact Kept.refl _
    | (extract_lets +onlyGivenNames x; first
        | (refine Kept.cut (t := x) ?_ ?_; rotate_left 1; intro hx; clear_value x; rotate_left 1; subst x)
        | subst x)
    | with_reducible refine adminServe_keptF _ _ _ _ _ ?_
    | split
    | intro _
    | (simp [Kept, *]; done)
    | dsimp only

theorem execGetFeaturesVerdictRing_kept (a : AdmHdr) (cqid : Nat) (s : State) : ∃ u, execGetFeaturesVerdictRing a cqid s = .next u ∧ Kept s u := by
  refine ⟨_, rfl, ?_⟩
  repeat' first
    | with_reducible assumption
    | with_reducible exact Kept.refl _
    | (extract_lets +onlyGivenNames x; first
        | (refine Kept.cut (t := x) ?_ ?_; rotate_left 1; intro hx; clear_value x; rotate_left 1; subst x)
        | subst x)
    | with_reducible refine adminServe_keptF _ _ _ _ _ ?_
    | split
    | intro _
    | (simp [Kept, *]; done)
    | dsimp only

theorem execGetFeatures_kept (a : AdmHdr) (fid sub : Nat) (s : State) : ∃ u, execGetFeatures a fid sub s = .next u ∧ Kept s u := by
  refine ⟨_, rfl, ?_⟩
  repeat' first
    | with_reducible assumption
    | with_reducible exact Kept.refl _
    | (extract_lets +onlyGivenNames x; first
        | (refine Kept.cut (t := x) ?_ ?_; rotate_left 1; intro hx; clear_value x; rotate_left 1; subst x)
        | subst x)
    | with_reducible refine adminServe_keptF _ _ _ _ _ ?_
    | split
    | intro _
    | (simp [Kept, *]; done)
    | dsimp only

/-! ### Change -/

theorem execFirmwareImageDownload_kept (a : AdmHdr) (img : ImageHdr) (prof : Option ProfImage) (s : State) : ∃ u, execFirmwareImageDownload a img prof s = .next u ∧ Kept s u := by
  refine ⟨_, rfl, ?_⟩
  repeat' first
    | with_reducible assumption
    | with_reducible exact Kept.refl _
    | (extract_lets +onlyGivenNames x; first
        | (refine Kept.cut (t := x) ?_ ?_; rotate_left 1; intro hx; clear_value x; rotate_left 1; subst x)
        | subst x)
    | with_reducible refine adminServe_keptF _ _ _ _ _ ?_
    | split
    | intro _
    | (simp [Kept, *]; done)
    | dsimp only

theorem execFirmwareCommitReplace_kept (a : AdmHdr) (fs : Nat) (s : State) : ∃ u, execFirmwareCommitReplace a fs s = .next u ∧ Kept s u := by
  refine ⟨_, rfl, ?_⟩
  repeat' first
    | with_reducible assumption
    | with_reducible exact Kept.refl _
    | (extract_lets +onlyGivenNames x; first
        | (refine Kept.cut (t := x) ?_ ?_; rotate_left 1; intro hx; clear_value x; rotate_left 1; subst x)
        | subst x)
    | with_reducible refine commitServe_keptF _ _ _ _ _ ?_
    | with_reducible refine withStaged_keptF _ _ _ ?_
    | split
    | intro _
    | (simp [Kept, *]; done)
    | dsimp only

theorem execFirmwareCommitNextStart_kept (a : AdmHdr) (fs : Nat) (s : State) : ∃ u, execFirmwareCommitNextStart a fs s = .next u ∧ Kept s u := by
  refine ⟨_, rfl, ?_⟩
  repeat' first
    | with_reducible assumption
    | with_reducible exact Kept.refl _
    | (extract_lets +onlyGivenNames x; first
        | (refine Kept.cut (t := x) ?_ ?_; rotate_left 1; intro hx; clear_value x; rotate_left 1; subst x)
        | subst x)
    | with_reducible refine commitServe_keptF _ _ _ _ _ ?_
    | with_reducible refine withStaged_keptF _ _ _ ?_
    | split
    | intro _
    | (simp [Kept, *]; done)
    | dsimp only

theorem execFirmwareCommitSwap_kept (a : AdmHdr) (fs : Nat) (s : State) : ∃ u, execFirmwareCommitSwap a fs s = .next u ∧ Kept s u := by
  refine ⟨_, rfl, ?_⟩
  repeat' first
    | with_reducible assumption
    | with_reducible exact Kept.refl _
    | (extract_lets +onlyGivenNames x; first
        | (refine Kept.cut (t := x) ?_ ?_; rotate_left 1; intro hx; clear_value x; rotate_left 1; subst x)
        | subst x)
    | with_reducible refine commitServe_keptF _ _ _ _ _ ?_
    | split
    | intro _
    | (simp [Kept, *]; done)
    | dsimp only

theorem execFirmwareCommitActivate_kept (a : AdmHdr) (fs : Nat) (s : State) : ∃ u, execFirmwareCommitActivate a fs s = .next u ∧ Kept s u := by
  refine ⟨_, rfl, ?_⟩
  repeat' first
    | with_reducible assumption
    | with_reducible exact Kept.refl _
    | (extract_lets +onlyGivenNames x; first
        | (refine Kept.cut (t := x) ?_ ?_; rotate_left 1; intro hx; clear_value x; rotate_left 1; subst x)
        | subst x)
    | with_reducible refine commitServe_keptF _ _ _ _ _ ?_
    | with_reducible refine withStaged_keptF _ _ _ ?_
    | split
    | intro _
    | (simp [Kept, *]; done)
    | dsimp only

theorem execFirmwareActivationRound_kept (ok : Bool) (s : State) : ∃ u, execFirmwareActivationRound ok s = .next u ∧ Kept s u := by
  refine ⟨_, rfl, ?_⟩
  repeat' first
    | with_reducible assumption
    | with_reducible exact Kept.refl _
    | (extract_lets +onlyGivenNames x; first
        | (refine Kept.cut (t := x) ?_ ?_; rotate_left 1; intro hx; clear_value x; rotate_left 1; subst x)
        | subst x)
    | split
    | intro _
    | (simp [Kept, *]; done)
    | dsimp only

theorem execSvnFloorRaise_kept (type : Nat) (s : State) : ∃ u, execSvnFloorRaise type s = .next u ∧ Kept s u := by
  refine ⟨_, rfl, ?_⟩
  repeat' first
    | with_reducible assumption
    | with_reducible exact Kept.refl _
    | (extract_lets +onlyGivenNames x; first
        | (refine Kept.cut (t := x) ?_ ?_; rotate_left 1; intro hx; clear_value x; rotate_left 1; subst x)
        | subst x)
    | split
    | intro _
    | (simp [Kept, *]; done)
    | dsimp only

theorem execBoardProfileUpdate_kept (q : HmpHdr) (flags _reserved : Nat) (img : ProfImage) (s : State) : ∃ u, execBoardProfileUpdate q flags _reserved img s = .next u ∧ Kept s u := by
  refine ⟨_, rfl, ?_⟩
  repeat' first
    | with_reducible assumption
    | with_reducible exact Kept.refl _
    | (extract_lets +onlyGivenNames x; first
        | (refine Kept.cut (t := x) ?_ ?_; rotate_left 1; intro hx; clear_value x; rotate_left 1; subst x)
        | subst x)
    | with_reducible refine hmpServe_keptF _ _ _ _ ?_
    | with_reducible refine startLong_keptF _ _ _ _ ?_
    | split
    | intro _
    | (simp [Kept, *]; done)
    | dsimp only

theorem execQFieldCommit_kept (record : Nat) (s : State) : ∃ u, execQFieldCommit record s = .next u ∧ Kept s u := by
  refine ⟨_, rfl, ?_⟩
  repeat' first
    | with_reducible assumption
    | with_reducible exact Kept.refl _
    | (extract_lets +onlyGivenNames x; first
        | (refine Kept.cut (t := x) ?_ ?_; rotate_left 1; intro hx; clear_value x; rotate_left 1; subst x)
        | subst x)
    | with_reducible refine forEach_kept _ _ _ ?_
    | with_reducible refine Kept.trans ?_ (forEach_kept _ _ _ ?_)
    | split
    | intro _
    | (simp [Kept, *]; done)
    | dsimp only

theorem execBoardProfileRead_kept (q : HmpHdr) (record view first : Nat) (s : State) : ∃ u, execBoardProfileRead q record view first s = .next u ∧ Kept s u := by
  refine ⟨_, rfl, ?_⟩
  repeat' first
    | with_reducible assumption
    | with_reducible exact Kept.refl _
    | (extract_lets +onlyGivenNames x; first
        | (refine Kept.cut (t := x) ?_ ?_; rotate_left 1; intro hx; clear_value x; rotate_left 1; subst x)
        | subst x)
    | with_reducible refine hmpServe_keptF _ _ _ _ ?_
    | split
    | intro _
    | (simp [Kept, *]; done)
    | dsimp only

/-! ### ContractCmds -/

theorem execContractSet_kept (q : HmpHdr) (fn cls dir bound hold cmdRate byteRate burst weight : Nat) (s : State) : ∃ u, execContractSet q fn cls dir bound hold cmdRate byteRate burst weight s = .next u ∧ Kept s u := by
  refine ⟨_, rfl, ?_⟩
  refine hmpServe_keptF _ _ _ _ fun s => ?_
  split
  · exact rejectWrite_kept ..
  · dsimp only
    split
    · exact answer_kept ..
    · exact (setContracts_kept ..).trans (hmpDone_kept ..)

theorem execContractDelete_kept (q : HmpHdr) (fn cls dir : Nat) (s : State) : ∃ u, execContractDelete q fn cls dir s = .next u ∧ Kept s u := by
  refine ⟨_, rfl, ?_⟩
  repeat' first
    | with_reducible assumption
    | with_reducible exact Kept.refl _
    | (extract_lets +onlyGivenNames x; first
        | (refine Kept.cut (t := x) ?_ ?_; rotate_left 1; intro hx; clear_value x; rotate_left 1; subst x)
        | subst x)
    | with_reducible refine hmpServe_keptF _ _ _ _ ?_
    | split
    | intro _
    | (simp [Kept, *]; done)
    | dsimp only

theorem execContractReport_kept (q : HmpHdr) (fn : Nat) (s : State) : ∃ u, execContractReport q fn s = .next u ∧ Kept s u := by
  refine ⟨_, rfl, ?_⟩
  repeat' first
    | with_reducible assumption
    | with_reducible exact Kept.refl _
    | (extract_lets +onlyGivenNames x; first
        | (refine Kept.cut (t := x) ?_ ?_; rotate_left 1; intro hx; clear_value x; rotate_left 1; subst x)
        | subst x)
    | with_reducible refine hmpServe_keptF _ _ _ _ ?_
    | split
    | intro _
    | (simp [Kept, *]; done)
    | dsimp only

theorem execBayCapacityReport_kept (q : HmpHdr) (first count : Nat) (s : State) : ∃ u, execBayCapacityReport q first count s = .next u ∧ Kept s u := by
  refine ⟨_, rfl, ?_⟩
  repeat' first
    | with_reducible assumption
    | with_reducible exact Kept.refl _
    | (extract_lets +onlyGivenNames x; first
        | (refine Kept.cut (t := x) ?_ ?_; rotate_left 1; intro hx; clear_value x; rotate_left 1; subst x)
        | subst x)
    | with_reducible refine hmpServe_keptF _ _ _ _ ?_
    | split
    | intro _
    | (simp [Kept, *]; done)
    | dsimp only

theorem execCalendarSnapshot_kept (q : HmpHdr) (die : Nat) (s : State) : ∃ u, execCalendarSnapshot q die s = .next u ∧ Kept s u := by
  refine ⟨_, rfl, ?_⟩
  repeat' first
    | with_reducible assumption
    | with_reducible exact Kept.refl _
    | (extract_lets +onlyGivenNames x; first
        | (refine Kept.cut (t := x) ?_ ?_; rotate_left 1; intro hx; clear_value x; rotate_left 1; subst x)
        | subst x)
    | with_reducible refine hmpServe_keptF _ _ _ _ ?_
    | split
    | intro _
    | (simp [Kept, *]; done)
    | dsimp only

/-! ### IoCmds -/

theorem execRead_kept (h : IoHdr) (slba nlb : Nat) (s : State) : ∃ u, execRead h slba nlb s = .next u ∧ Kept s u := by
  refine ⟨_, rfl, ?_⟩
  simp [Kept]

theorem execWrite_kept (h : IoHdr) (slba nlb : Nat) (s : State) : ∃ u, execWrite h slba nlb s = .next u ∧ Kept s u := by
  refine ⟨_, rfl, ?_⟩
  simp [Kept]

theorem execZoneAppend_kept (h : IoHdr) (zslba nlb : Nat) (s : State) : ∃ u, execZoneAppend h zslba nlb s = .next u ∧ Kept s u := by
  refine ⟨_, rfl, ?_⟩
  simp [Kept]

theorem execWriteZeroes_kept (h : IoHdr) (slba nlb : Nat) (s : State) : ∃ u, execWriteZeroes h slba nlb s = .next u ∧ Kept s u := by
  refine ⟨_, rfl, ?_⟩
  simp [Kept]

theorem execFlush_kept (h : IoHdr) (s : State) : ∃ u, execFlush h s = .next u ∧ Kept s u := by
  refine ⟨_, rfl, ?_⟩
  simp [Kept]

theorem execDatasetManagementDeallocate_kept (h : IoHdr) (ranges : List (Nat × Nat)) (s : State) : ∃ u, execDatasetManagementDeallocate h ranges s = .next u ∧ Kept s u := by
  refine ⟨_, rfl, ?_⟩
  simp [Kept]

theorem execCopy_kept (h : IoHdr) (sources : List (Nat × Nat)) (sdlba : Nat) (s : State) : ∃ u, execCopy h sources sdlba s = .next u ∧ Kept s u := by
  refine ⟨_, rfl, ?_⟩
  simp [Kept]

theorem execZoneOpen_kept (h : IoHdr) (zslba : Nat) (all : Bool) (s : State) : ∃ u, execZoneOpen h zslba all s = .next u ∧ Kept s u := by
  refine ⟨_, rfl, ?_⟩
  simp [Kept]

theorem execZoneClose_kept (h : IoHdr) (zslba : Nat) (all : Bool) (s : State) : ∃ u, execZoneClose h zslba all s = .next u ∧ Kept s u := by
  refine ⟨_, rfl, ?_⟩
  simp [Kept]

theorem execZoneFinish_kept (h : IoHdr) (zslba : Nat) (all : Bool) (s : State) : ∃ u, execZoneFinish h zslba all s = .next u ∧ Kept s u := by
  refine ⟨_, rfl, ?_⟩
  simp [Kept]

theorem execZoneReset_kept (h : IoHdr) (zslba : Nat) (all : Bool) (s : State) : ∃ u, execZoneReset h zslba all s = .next u ∧ Kept s u := by
  refine ⟨_, rfl, ?_⟩
  simp [Kept]

theorem execZoneOffline_kept (h : IoHdr) (zslba : Nat) (all : Bool) (s : State) : ∃ u, execZoneOffline h zslba all s = .next u ∧ Kept s u := by
  refine ⟨_, rfl, ?_⟩
  simp [Kept]

theorem execSetZoneDescriptorExtension_kept (h : IoHdr) (zslba : Nat) (ext : List Byte) (s : State) : ∃ u, execSetZoneDescriptorExtension h zslba ext s = .next u ∧ Kept s u := by
  refine ⟨_, rfl, ?_⟩
  simp [Kept]

theorem execReportZones_kept (h : IoHdr) (slba option maxDesc : Nat) (s : State) : ∃ u, execReportZones h slba option maxDesc s = .next u ∧ Kept s u := by
  refine ⟨_, rfl, ?_⟩
  simp [Kept]

theorem execExtendedReportZones_kept (h : IoHdr) (slba option maxDesc : Nat) (s : State) : ∃ u, execExtendedReportZones h slba option maxDesc s = .next u ∧ Kept s u := by
  refine ⟨_, rfl, ?_⟩
  simp [Kept]

theorem execInvalidIoOpcode_kept (h : IoHdr) (opcode : Nat) (s : State) : ∃ u, execInvalidIoOpcode h opcode s = .next u ∧ Kept s u := by
  refine ⟨_, rfl, ?_⟩
  (repeat' split) <;> simp [Kept]

theorem execThatchBindingDone_kept (nsid zone' : Nat) (s : State) : ∃ u, execThatchBindingDone nsid zone' s = .next u ∧ Kept s u := by
  refine ⟨_, rfl, ?_⟩
  split
  · exact Kept.refl s
  · split
    · exact Kept.refl s
    · exact Kept.refl s
    · split
      · exact (bindZone_kept (by assumption)).trans (reevaluateAll_kept _)
      · exact Kept.refl s

theorem execHeldCommandReevaluation_kept (fn sqid cid : Nat) (s : State) : ∃ u, execHeldCommandReevaluation fn sqid cid s = .next u ∧ Kept s u := by
  refine ⟨_, rfl, ?_⟩
  (repeat' split) <;> simp [Kept]

theorem execHoldEndExpiry_kept (fn sqid cid : Nat) (s : State) : ∃ u, execHoldEndExpiry fn sqid cid s = .next u ∧ Kept s u := by
  refine ⟨_, rfl, ?_⟩
  (repeat' split) <;> simp [Kept]

theorem execSlackEpochEnd_kept (s : State) : ∃ u, execSlackEpochEnd s = .next u ∧ Kept s u := by
  refine ⟨_, rfl, ?_⟩
  (repeat' split) <;> simp [Kept]

theorem execCalendarEntryEnd_kept (die start : Nat) (s : State) : ∃ u, execCalendarEntryEnd die start s = .next u ∧ Kept s u := by
  refine ⟨_, rfl, ?_⟩
  (repeat' split) <;> simp [Kept]

theorem execHostReadCompletionArrival_kept (fn sqid cid latencyUs : Nat) (units poisoned : List Nat) (s : State) : ∃ u, execHostReadCompletionArrival fn sqid cid latencyUs units poisoned s = .next u ∧ Kept s u := by
  refine ⟨_, rfl, ?_⟩
  repeat' first
    | with_reducible assumption
    | with_reducible exact Kept.refl _
    | (extract_lets +onlyGivenNames x; first
        | (refine Kept.cut (t := x) ?_ ?_; rotate_left 1; intro hx; clear_value x; rotate_left 1; subst x)
        | subst x)
    | split
    | intro _
    | (simp [Kept, *]; done)
    | (have := allocBufs_kept ‹allocBufs _ _ _ _ = some _›; (try dsimp only at this); simp [Kept, *]; done)
    | dsimp only

theorem execEavesCopyWritten_kept (chB : Bool) (fn sqid cid units : Nat) (s : State) : ∃ u, execEavesCopyWritten chB fn sqid cid units s = .next u ∧ Kept s u := by
  refine ⟨_, rfl, ?_⟩
  split
  · exact Kept.refl s
  · dsimp only
    exact Kept.ite (Kept.refl s) (copyWritten_kept ..)

/-! ### Keys -/

theorem execKeySlotInject_kept (q : HmpHdr) (fn nsid tag : Nat) (wrapOk halvesEqual : Bool) (key : Nat) (s : State) : ∃ u, execKeySlotInject q fn nsid tag wrapOk halvesEqual key s = .next u ∧ Kept s u := by
  refine ⟨_, rfl, ?_⟩
  repeat' first
    | with_reducible assumption
    | with_reducible exact Kept.refl _
    | (extract_lets +onlyGivenNames x; first
        | (refine Kept.cut (t := x) ?_ ?_; rotate_left 1; intro hx; clear_value x; rotate_left 1; subst x)
        | subst x)
    | with_reducible refine hmpServe_keptF _ _ _ _ ?_
    | split
    | intro _
    | (simp [Kept, *]; done)
    | dsimp only

theorem execKeySlotClear_kept (q : HmpHdr) (fn nsid tag : Nat) (s : State) : ∃ u, execKeySlotClear q fn nsid tag s = .next u ∧ Kept s u := by
  refine ⟨_, rfl, ?_⟩
  repeat' first
    | with_reducible assumption
    | with_reducible exact Kept.refl _
    | (extract_lets +onlyGivenNames x; first
        | (refine Kept.cut (t := x) ?_ ?_; rotate_left 1; intro hx; clear_value x; rotate_left 1; subst x)
        | subst x)
    | with_reducible refine hmpServe_keptF _ _ _ _ ?_
    | split
    | intro _
    | (simp [Kept, *]; done)
    | dsimp only

theorem execEstablishKek_kept (q : HmpHdr) (fn : Nat) (onCurve : Bool) (s : State) : ∃ u, execEstablishKek q fn onCurve s = .next u ∧ Kept s u := by
  refine ⟨_, rfl, ?_⟩
  repeat' first
    | with_reducible assumption
    | with_reducible exact Kept.refl _
    | (extract_lets +onlyGivenNames x; first
        | (refine Kept.cut (t := x) ?_ ?_; rotate_left 1; intro hx; clear_value x; rotate_left 1; subst x)
        | subst x)
    | with_reducible refine hmpServe_keptF _ _ _ _ ?_
    | split
    | intro _
    | (simp [Kept, *]; done)
    | dsimp only

theorem execSetKeyPerIo_kept (q : HmpHdr) (nsid enable : Nat) (s : State) : ∃ u, execSetKeyPerIo q nsid enable s = .next u ∧ Kept s u := by
  refine ⟨_, rfl, ?_⟩
  repeat' first
    | with_reducible assumption
    | with_reducible exact Kept.refl _
    | (extract_lets +onlyGivenNames x; first
        | (refine Kept.cut (t := x) ?_ ?_; rotate_left 1; intro hx; clear_value x; rotate_left 1; subst x)
        | subst x)
    | with_reducible refine hmpServe_keptF _ _ _ _ ?_
    | split
    | intro _
    | (simp [Kept, *]; done)
    | dsimp only

theorem execKeyRollover_kept (q : HmpHdr) (nsid : Nat) (s : State) : ∃ u, execKeyRollover q nsid s = .next u ∧ Kept s u := by
  refine ⟨_, rfl, ?_⟩
  repeat' first
    | with_reducible assumption
    | with_reducible exact Kept.refl _
    | (extract_lets +onlyGivenNames x; first
        | (refine Kept.cut (t := x) ?_ ?_; rotate_left 1; intro hx; clear_value x; rotate_left 1; subst x)
        | subst x)
    | with_reducible refine hmpServe_keptF _ _ _ _ ?_
    | with_reducible refine startLong_keptF _ _ _ _ ?_
    | split
    | intro _
    | (simp [Kept, *]; done)
    | dsimp only

theorem execKeyRolloverEnd_kept (nsid : Nat) (s : State) : ∃ u, execKeyRolloverEnd nsid s = .next u ∧ Kept s u := by
  refine ⟨_, rfl, ?_⟩
  split
  · exact Kept.refl s
  · refine Kept.trans ?_ (endRollover_kept ..)
    refine Kept.trans ?_ (storeKeys_kept ..)
    exact ⟨rfl, rfl, rfl, rfl, rfl, rfl⟩

theorem execRegionTableReport_kept (q : HmpHdr) (s : State) : ∃ u, execRegionTableReport q s = .next u ∧ Kept s u := by
  refine ⟨_, rfl, ?_⟩
  repeat' first
    | with_reducible assumption
    | with_reducible exact Kept.refl _
    | (extract_lets +onlyGivenNames x; first
        | (refine Kept.cut (t := x) ?_ ?_; rotate_left 1; intro hx; clear_value x; rotate_left 1; subst x)
        | subst x)
    | with_reducible refine hmpServe_keptF _ _ _ _ ?_
    | split
    | intro _
    | (simp [Kept, *]; done)
    | dsimp only

theorem execSecuritySend_kept (a : AdmHdr) (protocol spsp nsid tag key : Nat) (wrapOk : Bool) (s : State) : ∃ u, execSecuritySend a protocol spsp nsid tag key wrapOk s = .next u ∧ Kept s u := by
  refine ⟨_, rfl, ?_⟩
  repeat' first
    | with_reducible assumption
    | with_reducible exact Kept.refl _
    | (extract_lets +onlyGivenNames x; first
        | (refine Kept.cut (t := x) ?_ ?_; rotate_left 1; intro hx; clear_value x; rotate_left 1; subst x)
        | subst x)
    | with_reducible refine adminServe_keptF _ _ _ _ _ ?_
    | split
    | intro _
    | (simp [Kept, *]; done)
    | dsimp only

theorem execSecurityReceive_kept (a : AdmHdr) (protocol spsp : Nat) (s : State) : ∃ u, execSecurityReceive a protocol spsp s = .next u ∧ Kept s u := by
  refine ⟨_, rfl, ?_⟩
  repeat' first
    | with_reducible assumption
    | with_reducible exact Kept.refl _
    | (extract_lets +onlyGivenNames x; first
        | (refine Kept.cut (t := x) ?_ ?_; rotate_left 1; intro hx; clear_value x; rotate_left 1; subst x)
        | subst x)
    | with_reducible refine adminServe_keptF _ _ _ _ _ ?_
    | split
    | intro _
    | (simp [Kept, *]; done)
    | dsimp only

/-! ### Logs -/

theorem execGetLogPage_kept (a : AdmHdr) (lid nsid offset dwords : Nat) (s : State) : ∃ u, execGetLogPage a lid nsid offset dwords s = .next u ∧ Kept s u := by
  refine ⟨_, rfl, ?_⟩
  repeat' first
    | with_reducible assumption
    | with_reducible exact Kept.refl _
    | (extract_lets +onlyGivenNames x; first
        | (refine Kept.cut (t := x) ?_ ?_; rotate_left 1; intro hx; clear_value x; rotate_left 1; subst x)
        | subst x)
    | with_reducible refine adminServe_keptF _ _ _ _ _ ?_
    | split
    | intro _
    | (simp [Kept, *]; done)
    | dsimp only

theorem execIdentify_kept (a : AdmHdr) (cns csi nsid cntid : Nat) (s : State) : ∃ u, execIdentify a cns csi nsid cntid s = .next u ∧ Kept s u := by
  refine ⟨_, rfl, ?_⟩
  repeat' first
    | with_reducible assumption
    | with_reducible exact Kept.refl _
    | (extract_lets +onlyGivenNames x; first
        | (refine Kept.cut (t := x) ?_ ?_; rotate_left 1; intro hx; clear_value x; rotate_left 1; subst x)
        | subst x)
    | with_reducible refine adminServe_keptF _ _ _ _ _ ?_
    | split
    | intro _
    | (simp [Kept, *]; done)
    | dsimp only

end Sys2Proof.Machine
end

