-- ==== Sys2Proof/Laws/Memory.lean ====
section
/-! SUPPORT. The content of a DRAM channel: reads after writes, and that every operation keeps the canonical form. -/

namespace Sys2Proof

/-- The form as a proposition about a list that is not empty. -/
theorem Memory.wf_cons {a : Nat} {b : Byte} {m : List Host.Cell} :
    Memory.wf ((a, b) :: m) = true ↔ b ≠ 0 ∧ (∀ c ∈ m, a < c.1) ∧ Memory.wf m = true := by
  simp [Memory.wf, and_assoc]

theorem Memory.put_above {m : List Host.Cell} {x a : Nat} (v : Byte) (ha : a < x) (h : ∀ c ∈ m, a < c.1) :
    ∀ c ∈ Memory.put m x v, a < c.1 := by
  induction m with
  | nil =>
    intro c hc
    unfold Memory.put at hc
    split at hc
    · cases hc
    · obtain rfl := List.mem_singleton.1 hc
      exact ha
  | cons e m ih =>
    obtain ⟨k, b⟩ := e
    have hm := ih fun c hc => h c (List.mem_cons_of_mem _ hc)
    intro c hc
    unfold Memory.put at hc
    split at hc
    · split at hc
      · exact h c hc
      · obtain rfl | hc := List.mem_cons.1 hc
        · exact ha
        · exact h c hc
    · split at hc
      · split at hc
        · exact h c (List.mem_cons_of_mem _ hc)
        · obtain rfl | hc := List.mem_cons.1 hc
          · exact ha
          · exact h c (List.mem_cons_of_mem _ hc)
      · obtain rfl | hc := List.mem_cons.1 hc
        · exact h _ (List.mem_cons_self ..)
        · exact hm c hc

/-- A write keeps the canonical form. -/
theorem Memory.put_wf {m : List Host.Cell} (x : Nat) (v : Byte) (h : Memory.wf m = true) : Memory.wf (Memory.put m x v) = true := by
  induction m with
  | nil =>
    unfold Memory.put
    split
    · rfl
    · exact Memory.wf_cons.2 ⟨by assumption, by simp, rfl⟩
  | cons e m ih =>
    obtain ⟨k, b⟩ := e
    obtain ⟨hb, ht, hw⟩ := Memory.wf_cons.1 h
    unfold Memory.put
    split
    · rename_i hx
      split
      · exact h
      · refine Memory.wf_cons.2 ⟨by assumption, ?_, h⟩
        intro c hc
        obtain rfl | hc := List.mem_cons.1 hc
        · exact hx
        · exact Nat.lt_trans hx (ht c hc)
    · split
      · rename_i hx
        split
        · exact hw
        · exact Memory.wf_cons.2 ⟨by assumption, hx ▸ ht, hw⟩
      · exact Memory.wf_cons.2 ⟨hb, Memory.put_above v (by omega) ht, ih hw⟩

/-- So do writes one after the other. -/
theorem Memory.putAll_wf (m : List Host.Cell) (ws : List (Nat × Byte)) (h : Memory.wf m = true) :
    Memory.wf (Memory.putAll m ws) = true := by
  unfold Memory.putAll
  induction ws generalizing m with
  | nil => exact h
  | cons w ws ih => exact ih _ (Memory.put_wf w.1 w.2 h)

theorem Memory.keep_above {p : Nat → Bool} {m : List Host.Cell} {a : Nat} (h : ∀ c ∈ m, a < c.1) :
    ∀ c ∈ Memory.keep p m, a < c.1 := by
  induction m with
  | nil => exact h
  | cons e m ih =>
    have hm := ih fun c hc => h c (List.mem_cons_of_mem _ hc)
    unfold Memory.keep
    split
    · intro c hc
      obtain rfl | hc := List.mem_cons.1 hc
      · exact h _ (List.mem_cons_self ..)
      · exact hm c hc
    · exact hm

/-- Keeping only some addresses keeps the canonical form. -/
theorem Memory.keep_wf (p : Nat → Bool) {m : List Host.Cell} (h : Memory.wf m = true) : Memory.wf (Memory.keep p m) = true := by
  induction m with
  | nil => rfl
  | cons e m ih =>
    obtain ⟨k, b⟩ := e
    obtain ⟨hb, ht, hw⟩ := Memory.wf_cons.1 h
    unfold Memory.keep
    split
    · exact Memory.wf_cons.2 ⟨hb, Memory.keep_above ht, ih hw⟩
    · exact ih hw

theorem Memory.read_above {m : List Host.Cell} {x : Nat} (h : ∀ c ∈ m, x < c.1) : Memory.read m x = 0 := by
  induction m with
  | nil => rfl
  | cons e m ih =>
    obtain ⟨k, b⟩ := e
    have hk : x < k := h (k, b) (List.mem_cons_self ..)
    unfold Memory.read
    rw [if_neg (by omega)]
    exact ih fun c hc => h c (List.mem_cons_of_mem _ hc)

/-- A byte that was written reads as written. -/
theorem Memory.read_put_same {m : List Host.Cell} (x : Nat) (v : Byte) (h : Memory.wf m = true) :
    Memory.read (Memory.put m x v) x = v := by
  induction m with
  | nil =>
    unfold Memory.put
    split
    · simp_all [Memory.read]
    · simp [Memory.read]
  | cons e m ih =>
    obtain ⟨k, b⟩ := e
    obtain ⟨-, ht, hw⟩ := Memory.wf_cons.1 h
    unfold Memory.put
    split
    · split
      · rename_i hx hv
        rw [hv]
        refine Memory.read_above fun c hc => ?_
        obtain rfl | hc := List.mem_cons.1 hc
        · exact hx
        · exact Nat.lt_trans hx (ht c hc)
      · simp [Memory.read]
    · split
      · rename_i hx
        subst hx
        split
        · rename_i hv
          rw [hv]
          exact Memory.read_above ht
        · simp [Memory.read]
      · have hk : k ≠ x := by omega
        simp [Memory.read, hk, ih hw]

/-- Every other byte reads as before. -/
theorem Memory.read_put_other {m : List Host.Cell} {x y : Nat} (v : Byte) (hy : y ≠ x) :
    Memory.read (Memory.put m x v) y = Memory.read m y := by
  induction m with
  | nil =>
    unfold Memory.put
    split <;> simp [Memory.read, Ne.symm hy]
  | cons e m ih =>
    obtain ⟨k, b⟩ := e
    unfold Memory.put
    split
    · split <;> simp [Memory.read, Ne.symm hy]
    · split
      · rename_i hx
        subst hx
        split <;> simp [Memory.read, Ne.symm hy]
      · simp [Memory.read, ih]

end Sys2Proof
end

