-- ==== Sys2Proof/Laws/KeptDram.lean ====
section
/-! SUPPORT. The commands that write a DRAM content, or time: they keep the canonical form of both contents. -/

set_option linter.all false

namespace Sys2Proof.Machine

/-- What every command but the AON power-on reset keeps: time, the fuses, the queue, and the form of both DRAM contents. -/
abbrev Keeps (s t : State) : Prop :=
  t.tm.devTime = s.tm.devTime ∧ t.sec.cryptoDisable = s.sec.cryptoDisable ∧ t.sec.kazokRevoke = s.sec.kazokRevoke ∧
    t.pending = s.pending ∧ (Memory.wf s.dram.da.cells = true → Memory.wf t.dram.da.cells = true) ∧
    (Memory.wf s.dram.db.cells = true → Memory.wf t.dram.db.cells = true)

theorem Kept.keeps {s t : State} (h : Kept s t) : Keeps s t :=
  ⟨h.1, h.2.2.2.1, h.2.2.2.2.1, h.2.2.2.2.2, fun w => h.2.1 ▸ w, fun w => h.2.2.1 ▸ w⟩

theorem Keeps.refl (s : State) : Keeps s s := ⟨rfl, rfl, rfl, rfl, id, id⟩

theorem Keeps.trans {s t u : State} (h : Keeps s t) (h' : Keeps t u) : Keeps s u :=
  ⟨h'.1.trans h.1, h'.2.1.trans h.2.1, h'.2.2.1.trans h.2.2.1, h'.2.2.2.1.trans h.2.2.2.1,
    fun w => h'.2.2.2.2.1 (h.2.2.2.2.1 w), fun w => h'.2.2.2.2.2 (h.2.2.2.2.2 w)⟩

theorem Keeps.ite {s a b : State} {c : Prop} [Decidable c] (ha : Keeps s a) (hb : Keeps s b) : Keeps s (if c then a else b) := by
  split
  · exact ha
  · exact hb

theorem forEach_keeps {α : Type} (l : List α) (f : α → State → State) (s : State) (h : ∀ a s, Keeps s (f a s)) :
    Keeps s (forEach l f s) := by
  unfold forEach
  induction l generalizing s with
  | nil => exact Keeps.refl s
  | cons a l ih => exact (h a s).trans (ih _)

theorem updDram_keeps (s : State) (b : Bool) (f : DramCh → DramCh)
    (h : ∀ x, Memory.wf x.cells = true → Memory.wf (f x).cells = true) : Keeps s (updDram s b f) := by
  cases b
  · exact ⟨rfl, rfl, rfl, rfl, h _, id⟩
  · exact ⟨rfl, rfl, rfl, rfl, id, h _⟩

theorem cleanCodeword_wf (e : MergeEntry) (ws : List (Nat × Byte)) (x : DramCh) (h : Memory.wf x.cells = true) :
    Memory.wf (cleanCodeword e ws x).cells = true := Memory.putAll_wf _ _ h
theorem writeEntryBack_keeps (s : State) (b : Bool) (e : MergeEntry) : Keeps s (writeEntryBack s b e) := by
  unfold writeEntryBack
  dsimp only
  split
  · exact updDram_keeps _ _ _ (cleanCodeword_wf _ _)
  · split
    · exact updDram_keeps _ _ _ (cleanCodeword_wf _ _)
    · exact updDram_keeps _ _ _ fun x h => h

theorem dropCopies_keeps (s : State) (b : Bool) : Keeps s (dropCopies s b) := ⟨rfl, rfl, rfl, rfl, fun h => h, fun h => h⟩
theorem dramLost_keeps (s : State) (b : Bool) (st : IslState) : Keeps s (dramLost s b st) :=
  ((setIslandState_kept ..).trans ((stopMigration_kept ..).trans (stopMigration_kept ..))).keeps.trans
    ((updDram_keeps _ _ (lostContent _) fun _ _ => rfl).trans (dropCopies_keeps ..))

theorem leaveRunning_keeps (s : State) (id : Nat) (st : IslState) : Keeps s (leaveRunning s id st) := by
  unfold leaveRunning
  split
  · split
    · split
      · exact (startDrain_kept ..).keeps
      · split
        · exact ((setIslandState_kept ..).trans (startDrain_kept ..)).keeps
        · exact (setIslandState_kept ..).keeps
    · exact (setIslandState_kept ..).keeps
    · exact (channelLost_kept ..).keeps
  · split
    · split
      · exact dramLost_keeps ..
      · exact dramLost_keeps ..
      · exact (setIslandState_kept ..).keeps
    · split
      · split
        · exact (setIslandState_kept ..).keeps
        · exact (softLost_kept ..).keeps
      · split
        · exact ((setIslandState_kept ..).trans (logicLost_kept ..)).keeps
        · exact (setIslandState_kept ..).keeps

theorem restartIsland_keeps (s : State) (id : Nat) : Keeps s (restartIsland s id) :=
  (leaveRunning_keeps s id .heldInReset).trans (releaseIsland_kept (leaveRunning s id .heldInReset) id).keeps

theorem restartStalled_keeps (s : State) (dst : Nat) : Keeps s (restartStalled s dst) := by
  unfold restartStalled
  split
  · exact (severeChannel_kept ..).keeps
  · split
    · exact restartIsland_keeps ..
    · exact Keeps.refl s

theorem pllReact_keeps (s : State) (id : Nat) : Keeps s (pllReact s id) := by
  unfold pllReact
  split
  · exact Keeps.refl s
  · exact restartIsland_keeps ..

theorem holdInReset_keeps (s : State) (id : Nat) : Keeps s (holdInReset s id) :=
  Keeps.ite (Keeps.refl s) (leaveRunning_keeps s id .heldInReset)

theorem sysrefReact_keeps (s : State) : Keeps s (sysrefReact s) := by
  unfold sysrefReact
  generalize (List.range 41).map (fun i => islIdOf (i + 1)) = l
  exact (sysrefLost_kept s).keeps.trans (forEach_keeps l (fun id s => holdInReset s id) (sysrefLost s) fun id s => holdInReset_keeps s id)

theorem deviceReact_keeps (s : State) (i : Nat) (cap : Capture) : Keeps s (deviceReact s i cap) := by
  unfold deviceReact
  split
  · exact (conventional_kept ..).keeps
  · exact Keeps.ite (Keeps.refl s) (trip_kept ..).keeps
  · exact (recomputeEaves_kept ..).keeps
  · exact ⟨rfl, rfl, rfl, rfl, fun h => h, fun h => h⟩
  · exact pllReact_keeps ..
  · exact sysrefReact_keeps ..
  · exact Keeps.ite (driverReact_kept ..).keeps (Keeps.refl s)
  · exact Keeps.ite (clampReact_kept ..).keeps (Keeps.refl s)
  · exact Keeps.ite (stallReact_kept ..).keeps (Keeps.refl s)
  · exact Keeps.refl s
theorem sourceReact_keeps (s : State) (i : Nat) (cap : Capture) : Keeps s (sourceReact s i cap) := by
  unfold sourceReact
  exact Keeps.ite (channelReact_kept ..).keeps (Keeps.ite ((raiseFault_kept ..).trans (coreReact_kept ..)).keeps
    (Keeps.ite (hostViolation_kept ..).keeps (Keeps.ite (Keeps.ite (discardToken_kept ..).keeps (ridgeReact_kept ..).keeps)
      (Keeps.ite (transferViolation_kept ..).keeps (Keeps.ite (dramReact_kept ..).keeps (Keeps.ite (coreReact_kept ..).keeps
        (Keeps.ite (ridgeReact_kept ..).keeps (deviceReact_keeps ..))))))))

theorem excursionAct_keeps (s : State) (rail us : Nat) : Keeps s (excursionAct s rail us) := by
  unfold excursionAct
  split
  · exact (conventional_kept ..).keeps
  · exact Keeps.ite (Keeps.refl s) (dramLost_keeps ..)
  · exact Keeps.ite (Keeps.refl s) (dramLost_keeps ..)
  · exact Keeps.ite (Keeps.refl s) (forEach_kept _ _ _ fun _ _ => channelLost_kept ..).keeps
  · exact Keeps.ite (Keeps.refl s) (forEach_kept _ _ _ fun _ _ => channelLost_kept ..).keeps
  · exact (airLow_kept ..).keeps
  · exact (raisePowerLoss_kept ..).keeps

theorem resetIslands_keeps (s : State) : Keeps s (resetIslands s) := ⟨rfl, rfl, rfl, rfl, fun _ => rfl, fun _ => rfl⟩


theorem restartDevice_keeps (s : State) (clean : Bool) : Keeps s (restartDevice s clean) :=
  (resetIslands_keeps s).trans ((restartAon_kept ..).trans (enterPhase_kept ..)).keeps

theorem denyWrite_keeps (s : State) (port cw : Nat) : Keeps s (denyWrite s port cw) := by
  unfold denyWrite
  dsimp only
  exact ((tickFree_kept ..).trans (raiseFault_kept ..)).keeps.trans (sourceReact_keeps ..)

theorem mergeSettle_keeps (s : State) (b : Bool) (addr : Nat) : Keeps s (mergeSettle s b addr) := by
  unfold mergeSettle
  split
  · exact Keeps.refl s
  · split
    · exact (writeEntryBack_keeps ..).trans (serveWaiting_kept ..).keeps
    · exact Keeps.refl s

theorem execMergeWriteback_keeps (chB : Bool) (addr : Nat) (w : NarrowWrites) (s : State) :
    ∃ u, execMergeWriteback chB addr w s = .next u ∧ Keeps s u := by
  refine ⟨_, rfl, ?_⟩
  split
  · exact Keeps.refl s
  · split
    · exact denyWrite_keeps ..
    · exact (takeNarrow_kept ..).keeps.trans (mergeSettle_keeps ..)

/-- A scrub read rewrites an uncorrectable codeword from the other channel's copy (R295). -/
theorem execScrubRead_keeps (chB : Bool) (addr : Nat) (r : ScrubReads) (s : State) :
    ∃ u, execScrubRead chB addr r s = .next u ∧ Keeps s u := by
  refine ⟨_, rfl, ?_⟩
  have h1 : Keeps s (updDram s chB fun y => { y with scrubAt := addr + 1 }) := updDram_keeps _ _ _ fun x h => h
  dsimp only
  split
  · exact Keeps.refl s
  · revert h1
    generalize (updDram s chB fun y => { y with scrubAt := addr + 1 }) = s1
    intro h1
    split
    · exact h1
    · refine h1.trans ?_
      split
      · exact Keeps.refl _
      · exact Keeps.refl _
      · exact updDram_keeps _ _ _ fun x h => h
      · split
        · exact (dropFrame_kept ..).keeps
        · exact Keeps.ite ((updDram_keeps _ _ _ fun x h => Memory.putAll_wf _ _ h).trans (raiseFault_kept ..).keeps)
            (poisonBoth_kept ..).keeps

theorem resilverEaves_keeps (s : State) (b : Bool) : Keeps s (resilverEaves s b) := ⟨rfl, rfl, rfl, rfl, fun h => h, fun h => h⟩
theorem resilvered_wf (o : DramCh) (lim : Nat) (x : DramCh) (h : Memory.wf x.cells = true) :
    Memory.wf (resilvered o lim x).cells = true := Memory.putAll_wf _ _ h
theorem execDramResilverComplete_keeps (chB : Bool) (s : State) :
    ∃ u, execDramResilverComplete chB s = .next u ∧ Keeps s u :=
  ⟨_, rfl, Keeps.ite (Keeps.refl s) ((updDram_keeps _ _ _ (resilvered_wf _ _)).trans (resilverEaves_keeps ..))⟩

theorem execHandshakeStallSevere_keeps (src : Nat) (into : ChannelEnd) (s : State) :
    ∃ u, execHandshakeStallSevere src into s = .next u ∧ Keeps s u := by
  refine ⟨_, rfl, ?_⟩
  split
  · exact Keeps.refl s
  · rename_i e _
    have h : Keeps s { s with isl := { s.isl with stalls := s.isl.stalls.erase e } } := ⟨rfl, rfl, rfl, rfl, fun h => h, fun h => h⟩
    exact Keeps.ite (Keeps.refl s) (h.trans ((makeSevere_kept ..).keeps.trans (restartStalled_keeps ..)))


theorem moveIsland_keeps (s : State) (id : Nat) (st : IslState) : Keeps s (moveIsland s id st) :=
  Keeps.ite (releaseIsland_kept ..).keeps (Keeps.ite (Keeps.refl s) (leaveRunning_keeps ..))
theorem execIslandStateRequest_keeps (island' : Nat) (reqs : List (Requester × IslState)) (s : State) :
    ∃ u, execIslandStateRequest island' reqs s = .next u ∧ Keeps s u := by
  refine ⟨_, rfl, Keeps.ite (Keeps.refl s) ?_⟩
  dsimp only
  cases winner (reqs.filter (withinReach s island')) with
  | none => exact (rejectAll_kept ..).keeps
  | some w => exact ((rejectAll_kept ..).trans ((rejectAll_kept ..).trans (noteRelease_kept ..))).keeps.trans (moveIsland_keeps ..)

theorem execPllLossOfLock_keeps (island' : Nat) (s : State) : ∃ u, execPllLossOfLock island' s = .next u ∧ Keeps s u := by
  refine ⟨_, rfl, ?_⟩
  split
  · exact Keeps.refl s
  · exact (raiseFault_kept ..).keeps.trans (pllReact_keeps ..)

theorem execReferenceClockLost_keeps (s : State) : ∃ u, execReferenceClockLost s = .next u ∧ Keeps s u := by
  refine ⟨_, rfl, ?_⟩
  split
  · exact Keeps.refl s
  · exact (raiseFault_kept ..).keeps.trans (sysrefReact_keeps ..)

theorem execRailExcursion_keeps (rail mv us : Nat) (s : State) : ∃ u, execRailExcursion rail mv us s = .next u ∧ Keeps s u :=
  ⟨_, rfl, Keeps.ite (Keeps.refl s) (((noteExcursion_kept ..).trans (raiseFault_kept ..)).keeps.trans (excursionAct_keeps ..))⟩

theorem execBrownoutReturn_keeps (s : State) : ∃ u, execBrownoutReturn s = .next u ∧ Keeps s u := by
  refine ⟨_, rfl, ?_⟩
  split
  · exact restartDevice_keeps ..
  · exact Keeps.refl s

theorem execDeviceRestart_keeps (cause : RestartCause) (s : State) : ∃ u, execDeviceRestart cause s = .next u ∧ Keeps s u := by
  refine ⟨_, rfl, ?_⟩
  split
  · exact restartDevice_keeps ..
  · exact Keeps.refl s

theorem execFaultSourceEvent_keeps (source : Nat) (cap : Capture) (s : State) :
    ∃ u, execFaultSourceEvent source cap s = .next u ∧ Keeps s u := by
  refine ⟨_, rfl, ?_⟩
  split
  · exact Keeps.refl s
  · split
    · exact (trip_kept ..).keeps
    · exact (raiseFault_kept ..).keeps.trans (sourceReact_keeps ..)

/-- The AON power-on reset starts time again (R12) and keeps the fuses, the queue and the form of both DRAM contents. -/
theorem execAonPowerOnReset_keeps (a b c d : Bool) (s : State) : ∃ u, execAonPowerOnReset a b c d s = .next u ∧
    u.tm.devTime = 0 ∧ Keeps { s with tm := { s.tm with devTime := 0 } } u := by
  refine ⟨_, rfl, ?_, ?_⟩
  · exact (refreshFaultLed_kept _).1
  · exact Keeps.trans (t := { s with tm := { s.tm with devTime := 0, powerCycles := s.tm.powerCycles + 1, onBackup := false, crystalLostAt := none } })
      ⟨rfl, rfl, rfl, rfl, fun h => h, fun h => h⟩ ((resetIslands_keeps _).trans (refreshFaultLed_kept _).keeps)

theorem tickTime_devTime (t : TimeSt) : (tickTime t).devTime = t.devTime + 1 := by
  unfold tickTime
  split <;> rfl

/-- What an idle step keeps: it counts one microsecond while the AON rail is up. -/
theorem idle_kept (s : State) : (idle s).tm.devTime = (if isRunning s 0 then s.tm.devTime + 1 else s.tm.devTime) ∧
    Kept { s with tm := { s.tm with devTime := (idle s).tm.devTime } } (idle s) := by
  unfold idle
  split
  · have k : Kept { s with tm := tickTime s.tm }
        (sanitizeTick (runWaiting (loadWaiting (endPauses (refill (refillSlack { s with tm := tickTime s.tm })))))) :=
      (refillSlack_kept _).trans ((refill_kept _).trans ((endPauses_kept _).trans ((loadWaiting_kept _).trans
        ((runWaiting_kept _).trans (sanitizeTick_kept _)))))
    generalize sanitizeTick (runWaiting (loadWaiting (endPauses (refill (refillSlack { s with tm := tickTime s.tm }))))) = u at k
    exact ⟨k.1.trans (tickTime_devTime s.tm), rfl, k.2⟩
  · exact ⟨rfl, Kept.refl s⟩

end Sys2Proof.Machine
end

