-- ==== Sys2Proof/Laws/Posting.lean ====
section
/-! SUPPORT. What posting a completion on an admin queue and answering a mailbox request can do. -/

namespace Sys2Proof.Machine

/-! ### Functions -/

@[simp] theorem fnOf_updFn_self (s : State) (f : Nat) (g : FnSt → FnSt) : fnOf (updFn s f g) f = g (fnOf s f) := by
  simp [fnOf, updFn]

theorem fnOf_updFn (s : State) (f f' : Nat) (g : FnSt → FnSt) :
    fnOf (updFn s f g) f' = if f' = f then g (fnOf s f) else fnOf s f' := by
  simp [fnOf, updFn, tblGet_tblUpd]

/-! ### Only posted -/

theorem SameFn.refl (x : FnSt) : SameFn x x := ⟨rfl, fun _ _ => rfl⟩

theorem SameFn.trans {x y z : FnSt} (h : SameFn x y) (h' : SameFn y z) : SameFn x z := by
  obtain ⟨h1, h2⟩ := h
  obtain ⟨h3, h4⟩ := h'
  refine ⟨?_, fun k hk => (h4 k hk).trans (h2 k hk)⟩
  rw [h3, h1]

theorem PostedOnly.refl (s : State) : PostedOnly s s := ⟨rfl, fun _ => SameFn.refl _⟩

theorem PostedOnly.trans {s t u : State} (h : PostedOnly s t) (h' : PostedOnly t u) : PostedOnly s u := by
  obtain ⟨h1, h2⟩ := h
  obtain ⟨h3, h4⟩ := h'
  refine ⟨?_, fun f => (h2 f).trans (h4 f)⟩
  rw [h3, h1]

theorem postedOnly_updFn (s : State) (f : Nat) (g : FnSt → FnSt) (h : SameFn (fnOf s f) (g (fnOf s f))) :
    PostedOnly s (updFn s f g) := by
  refine ⟨rfl, fun f' => ?_⟩
  rw [fnOf_updFn]
  by_cases e : f' = f
  · simpa [e] using h
  · simpa [e] using SameFn.refl _

theorem raiseVector_postedOnly (s : State) (f v : Nat) : PostedOnly s (raiseVector s f v) := by
  apply postedOnly_updFn
  split <;> exact ⟨rfl, fun _ _ => rfl⟩

theorem completionIrq_postedOnly (s : State) (f : Nat) : PostedOnly s (completionIrq s f 0) := by
  unfold completionIrq
  extract_lets x q
  split
  · exact PostedOnly.refl s
  · simp only [if_true, decide_true, Bool.true_or]
    refine PostedOnly.trans (postedOnly_updFn s f _ ⟨rfl, fun k hk => ?_⟩) (raiseVector_postedOnly _ _ _)
    simp [tblFind?_tblUpd_ne _ hk]

theorem writeEntry_postedOnly (s : State) (c : Completion) (v : Option VerdictInfo) (h : c.cqid = 0) :
    PostedOnly s (writeEntry s c v) := by
  unfold writeEntry
  rw [h]
  have h1 : ∀ l m, PostedOnly s { s with host := { s.host with rings := l, posted := m } } :=
    fun _ _ => ⟨rfl, fun _ => SameFn.refl _⟩
  refine ((h1 _ _).trans (postedOnly_updFn _ c.fn _ ⟨rfl, fun k hk => ?_⟩)).trans (completionIrq_postedOnly _ _)
  simp [tblFind?_tblSet_ne hk]

theorem postEntry_postedOnly (s : State) (c : Completion) (v : Option VerdictInfo) (h : c.cqid = 0) :
    PostedOnly s (postEntry s c v) := by
  unfold postEntry
  extract_lets x
  split
  · exact PostedOnly.refl s
  · split
    · split
      · exact ⟨rfl, fun _ => SameFn.refl _⟩
      · exact writeEntry_postedOnly s c v h
    · exact writeEntry_postedOnly s c v h

theorem logError_postedOnly (s : State) (fn sqid cid : Nat) (st : NvmeStatus) : PostedOnly s (logError s fn sqid cid st) := by
  unfold logError
  split
  · exact postedOnly_updFn s fn _ ⟨rfl, fun _ _ => rfl⟩
  · exact PostedOnly.refl s

theorem postCompletion_admin (s : State) (fn cid : Nat) (st : NvmeStatus) (dw0 : Nat) (data : List Byte)
    (units : List (Option Nat)) : postCompletion s fn 0 cid st dw0 data units none =
      postEntry (logError s fn 0 cid st) (completionOf s fn 0 cid st dw0 data units 0) none := rfl

theorem postCompletion_postedOnly (s : State) (fn cid : Nat) (st : NvmeStatus) (dw0 : Nat) (data : List Byte)
    (units : List (Option Nat)) : PostedOnly s (postCompletion s fn 0 cid st dw0 data units none) := by
  rw [postCompletion_admin]
  exact (logError_postedOnly ..).trans (postEntry_postedOnly _ _ _ rfl)

theorem adminDone_postedOnly (s : State) (a : AdmHdr) (st : NvmeStatus) (dw0 : Nat) (data : List Byte) :
    PostedOnly s (adminDone s a st dw0 data) := postCompletion_postedOnly ..

/-! ### The entry -/

@[simp] theorem updFn_posted (s : State) (f : Nat) (g : FnSt → FnSt) : (updFn s f g).host.posted = s.host.posted := rfl

@[simp] theorem raiseVector_posted (s : State) (f v : Nat) : (raiseVector s f v).host.posted = s.host.posted := rfl

@[simp] theorem completionIrq_posted (s : State) (f c : Nat) : (completionIrq s f c).host.posted = s.host.posted := by
  unfold completionIrq
  extract_lets x q
  split
  · rfl
  · split <;> rfl

theorem writeEntry_posted (s : State) (c : Completion) (v : Option VerdictInfo) :
    ∃ e ∈ (writeEntry s c v).host.posted.drop s.host.posted.length,
      e.fn = c.fn ∧ e.sqid = c.sqid ∧ e.cid = c.cid ∧ e.status = c.status ∧ e.dnr = c.dnr ∧ e.dw0 = c.dw0 ∧ e.data = c.data := by
  have e := completionIrq_posted
  unfold writeEntry
  extract_lets q ring entry q'
  rw [e, updFn_posted]
  exact ⟨entry, by rw [List.drop_left]; exact List.mem_singleton.2 rfl, rfl, rfl, rfl, rfl, rfl, rfl, rfl⟩

theorem postEntry_room (s : State) (c : Completion) (v : Option VerdictInfo) (h : c.cqid = 0) (r : AdminRoom s c.fn) :
    postEntry s c v = writeEntry s c v := by
  obtain ⟨r1, r2, r3, r4⟩ := r
  unfold postEntry
  simp only [r1, r2, h]
  cases e : tblFind? 0 (fnOf s c.fn).cqs with
  | none => simp
  | some q =>
    have : tblGet cqDefault 0 (fnOf s c.fn).cqs = q := by simp [tblGet, e]
    rw [this] at r3
    simp [r3, r4]

theorem AdminRoom.of_eq {s t : State} {f : Nat} (r : AdminRoom s f) (h1 : (fnOf t f).ccEn = (fnOf s f).ccEn)
    (h2 : (fnOf t f).rdy = (fnOf s f).rdy) (h3 : t.host.linkUp = s.host.linkUp)
    (h4 : tblFind? 0 (fnOf t f).cqs = tblFind? 0 (fnOf s f).cqs) (h5 : t.host.cqWait = s.host.cqWait) : AdminRoom t f := by
  unfold AdminRoom tblGet at *
  rw [h1, h2, h3, h4, h5]
  exact r

@[simp] theorem updFn_linkUp (s : State) (f : Nat) (g : FnSt → FnSt) : (updFn s f g).host.linkUp = s.host.linkUp := rfl

@[simp] theorem updFn_cqWait (s : State) (f : Nat) (g : FnSt → FnSt) : (updFn s f g).host.cqWait = s.host.cqWait := rfl

theorem AdminRoom.updFn {s : State} {f : Nat} (r : AdminRoom s f) (f' : Nat) (g : FnSt → FnSt)
    (h : f' = f → (g (fnOf s f)).ccEn = (fnOf s f).ccEn ∧ (g (fnOf s f)).rdy = (fnOf s f).rdy ∧
      tblFind? 0 (g (fnOf s f)).cqs = tblFind? 0 (fnOf s f).cqs) : AdminRoom (updFn s f' g) f := by
  by_cases e : f = f'
  · subst e
    obtain ⟨h1, h2, h3⟩ := h rfl
    apply r.of_eq <;> simp [h1, h2, h3]
  · apply r.of_eq <;> simp [fnOf_updFn, e]

theorem AdminRoom.logError {s : State} {f : Nat} (r : AdminRoom s f) (sqid cid : Nat) (st : NvmeStatus) :
    AdminRoom (logError s f sqid cid st) f := by
  unfold Machine.logError
  split
  · exact r.updFn f _ fun _ => ⟨rfl, rfl, rfl⟩
  · exact r

@[simp] theorem logError_posted (s : State) (fn sqid cid : Nat) (st : NvmeStatus) :
    (logError s fn sqid cid st).host.posted = s.host.posted := by
  unfold logError
  split <;> rfl

/-- What completing an admin command does where the queue takes an entry. -/
theorem adminDone_posted (s : State) (a : AdmHdr) (st : NvmeStatus) (dw0 : Nat) (data : List Byte) (r : AdminRoom s a.fn) :
    AdminPosted s (adminDone s a st dw0 data) a st dw0 data := by
  have h := writeEntry_posted (logError s a.fn 0 a.cid st) (completionOf s a.fn 0 a.cid st dw0 data [] 0) none
  rw [← postEntry_room _ _ _ rfl (r.logError 0 a.cid st), ← postCompletion_admin, logError_posted] at h
  exact h

theorem adminDone_completes {o : Host.Outcome State Fault Refusal} {s s' : State} {a : AdmHdr} {st : NvmeStatus} {dw0 : Nat}
    {data : List Byte} (ho : o = .next (adminDone s' a st dw0 data)) (hp : s'.host.posted = s.host.posted)
    (r : AdminRoom s' a.fn) : AdminCompletes o s s' a st dw0 data :=
  ⟨_, ho, adminDone_postedOnly .., by
    have := adminDone_posted s' a st dw0 data r
    unfold AdminPosted at this ⊢
    rwa [hp] at this⟩

theorem adminServe_passes {s : State} {a : AdmHdr} {p r : Bool} (h : adminPasses s a p r) (g : State → State) :
    adminServe s a p r g = g s := by
  obtain ⟨h1, h2, h3, h4⟩ := h
  simp [adminServe, h1, h2, h3, h4]

end Sys2Proof.Machine
end

