-- ==== Sys2Proof/Laws/Mailbox.lean ====
section
/-! SUPPORT. What answering a mailbox request can do, and what serving one amounts to. -/

namespace Sys2Proof.Machine

theorem AnsweredOnly.refl (s : State) : AnsweredOnly s s := PostedOnly.refl s

theorem AnsweredOnly.trans {s t u : State} (h : AnsweredOnly s t) (h' : AnsweredOnly t u) : AnsweredOnly s u := by
  obtain ⟨h1, h2⟩ := h
  obtain ⟨h3, h4⟩ := h'
  refine ⟨?_, fun f => (h2 f).trans (h4 f)⟩
  rw [h3, h1]

theorem PostedOnly.answered {s t : State} (h : PostedOnly s t) : AnsweredOnly s t := by
  obtain ⟨h1, h2⟩ := h
  refine ⟨?_, h2⟩
  rw [h1]

/-- A change of the engine's requests and answers alone. -/
theorem answeredOnly_hmp (s : State) (r : List HmpReq) (p : List Posting) (a d : List HmpResp) (x : List AdmWait) (c : List CollectSt)
    (m : List MctpOut) (j : List HmpResp) : AnsweredOnly s { s with hmp := { s.hmp with
      requests := r, toPost := p, answers := a, held := d, exchanges := x, collects := c, mctpOut := m, journal := j } } :=
  ⟨rfl, fun _ => SameFn.refl _⟩

theorem keepAnswer_answeredOnly (s : State) (r : HmpResp) : AnsweredOnly s (keepAnswer s r) :=
  answeredOnly_hmp s _ _ _ _ _ _ _ _

theorem journalled_answeredOnly (s : State) (r : HmpResp) : AnsweredOnly s (journalled s r) := by
  unfold journalled
  split
  · exact answeredOnly_hmp s _ _ _ _ _ _ _ _
  · exact AnsweredOnly.refl s

/-! ### The answers kept -/

@[simp] theorem postEntry_hmp (s : State) (c : Completion) (v : Option VerdictInfo) : (postEntry s c v).hmp = s.hmp := by
  have hi : ∀ u f k, (completionIrq u f k).hmp = u.hmp := by
    intro u f k
    unfold completionIrq
    extract_lets x q
    split
    · rfl
    · split <;> rfl
  have hw : (writeEntry s c v).hmp = s.hmp := by
    unfold writeEntry
    extract_lets q ring entry q'
    rw [hi]
    rfl
  unfold postEntry
  extract_lets x
  split
  · rfl
  · split <;> split <;> first | rfl | exact hw

@[simp] theorem logError_hmp (s : State) (fn sqid cid : Nat) (st : NvmeStatus) : (logError s fn sqid cid st).hmp = s.hmp := by
  unfold logError
  split <;> rfl

@[simp] theorem postCompletion_hmp (s : State) (fn sqid cid : Nat) (st : NvmeStatus) (dw0 : Nat) (data : List Byte)
    (units : List (Option Nat)) (v : Option VerdictInfo) : (postCompletion s fn sqid cid st dw0 data units v).hmp = s.hmp := by
  unfold postCompletion
  extract_lets hint
  split <;> simp

@[simp] theorem adminDone_hmp (s : State) (a : AdmHdr) (st : NvmeStatus) (dw0 : Nat) (data : List Byte) :
    (adminDone s a st dw0 data).hmp = s.hmp := postCompletion_hmp ..

/-- A delivery: the engine's lists of what is due, held or sent and what completes with it differ; no answer or journal entry is
touched. -/
abbrev Delivered (s t : State) : Prop :=
  AnsweredOnly s t ∧ t.hmp.answers = s.hmp.answers ∧ t.hmp.journal = s.hmp.journal

theorem Delivered.trans {s t u : State} (h : Delivered s t) (h' : Delivered t u) : Delivered s u :=
  ⟨h.1.trans h'.1, h'.2.1.trans h.2.1, h'.2.2.trans h.2.2⟩

theorem delivered_hmp (s : State) (p : List Posting) (d : List HmpResp) (x : List AdmWait) (c : List CollectSt) (m : List MctpOut) :
    Delivered s { s with hmp := { s.hmp with toPost := p, held := d, exchanges := x, collects := c, mctpOut := m } } :=
  ⟨answeredOnly_hmp s _ _ _ _ _ _ _ _, rfl, rfl⟩

theorem postCompletion_delivered (s : State) (fn cid : Nat) (st : NvmeStatus) (dw0 : Nat) (data : List Byte) :
    Delivered s (postCompletion s fn 0 cid st dw0 data [] none) :=
  ⟨(postCompletion_postedOnly ..).answered, by simp, by simp⟩

theorem endExchange_delivered (s : State) (fn : Nat) (w : AdmWait) (r : HmpResp) : Delivered s (endExchange s fn w r) :=
  (delivered_hmp s _ _ _ _ _).trans (postCompletion_delivered ..)

theorem endCollect_delivered (s : State) (fn : Nat) (c : CollectSt) (r : HmpResp) : Delivered s (endCollect s fn c r) := by
  have h : ∀ d, Delivered s { s with hmp := { s.hmp with held := d, collects := s.hmp.collects.erase c } } := fun d =>
    delivered_hmp s _ _ _ _ _
  unfold endCollect
  split
  · exact (h (s.hmp.held ++ [r])).trans (postCompletion_delivered ..)
  · exact (h s.hmp.held).trans (postCompletion_delivered ..)

theorem deliverPost_delivered (s : State) (fn : Nat) (r : HmpResp) : Delivered s (deliverPost s fn r) := by
  unfold deliverPost
  split
  · exact endCollect_delivered ..
  · exact delivered_hmp s _ _ _ _ _

theorem deliverExchange_delivered (s : State) (fn cid : Nat) (r : HmpResp) : Delivered s (deliverExchange s fn cid r) := by
  unfold deliverExchange
  split
  · exact endExchange_delivered ..
  · exact ⟨AnsweredOnly.refl s, rfl, rfl⟩

theorem deliverTo_delivered (s : State) (rq : HmpReq) (copy : Bool) (r : HmpResp) : Delivered s (deliverTo s rq copy r) := by
  unfold deliverTo
  split
  · exact delivered_hmp s _ _ _ _ _
  · exact delivered_hmp s _ _ _ _ _
  · exact deliverPost_delivered ..
  · exact deliverExchange_delivered ..

theorem forEach_delivered {α : Type} (l : List α) (f : α → State → State) (s : State) (h : ∀ a s, Delivered s (f a s)) :
    Delivered s (forEach l f s) := by
  unfold forEach
  induction l generalizing s with
  | nil => exact ⟨AnsweredOnly.refl s, rfl, rfl⟩
  | cons a l ih => exact (h a s).trans (ih _)

/-- What responding does: one answer is stored, in the journal too where the request writes, and it is delivered. -/
theorem respond_effect (s : State) (rq : HmpReq) (r : HmpResp) :
    AnsweredOnly s (respond s rq r) ∧
      (∃ r', (respond s rq r).hmp.answers = s.hmp.answers ++ [r'] ∧ r'.stream = r.stream ∧ r'.tag = r.tag ∧ r'.opcode = r.opcode ∧
        r'.status = r.status ∧ r'.detail = r.detail ∧ r'.payload = r.payload) ∧
      (writingOp r.opcode = true → r ∈ (respond s rq r).hmp.journal) := by
  unfold respond
  extract_lets u
  have hu : AnsweredOnly s u := (journalled_answeredOnly s r).trans (keepAnswer_answeredOnly _ _)
  have ha : u.hmp.answers = s.hmp.answers ++ [storedResp s rq r] := by
    simp only [u, keepAnswer, journalled]
    split <;> rfl
  have hj : writingOp r.opcode = true → r ∈ u.hmp.journal := by
    intro w
    simp only [u, keepAnswer, journalled, w, if_true]
    exact List.mem_append_right _ (List.mem_singleton.2 rfl)
  clear_value u
  have hd := (deliverTo_delivered u { rq with copies := [] } false r).trans
    (forEach_delivered rq.copies (fun d s => deliverCopy s rq r d) _ fun d s => deliverTo_delivered ..)
  refine ⟨hu.trans hd.1, ⟨storedResp s rq r, hd.2.1.trans ha, ?_⟩, fun w => hd.2.2 ▸ hj w⟩
  unfold storedResp
  split <;> exact ⟨rfl, rfl, rfl, rfl, rfl, rfl⟩

/-- The request that a header stands for has the header's stream and TAG. -/
theorem reqOf_stream (s : State) (q : HmpHdr) (op : Nat) : (reqOf s q op).stream = streamOf q ∧ (reqOf s q op).tag = q.tag := by
  unfold reqOf
  split
  · rename_i r h
    have h' := List.find?_some h
    simpa using h'
  · exact ⟨rfl, rfl⟩

/-- What answering a request does where no reset has discarded its response. -/
theorem answer_effect (s : State) (q : HmpHdr) (op status detail : Nat) (payload : List Byte) (h : discarded s q = false) :
    AnsweredOnly s (answer s q op status detail payload) ∧
      HmpAnswered s (answer s q op status detail payload) q op status detail payload := by
  unfold answer
  extract_lets rq s'
  simp only [h, Bool.false_eq_true, if_false]
  have h1 : AnsweredOnly s s' := answeredOnly_hmp s _ _ _ _ _ _ _ _
  have ha : s'.hmp.answers = s.hmp.answers := rfl
  have hq : rq.stream = streamOf q ∧ rq.tag = q.tag := reqOf_stream s q op
  clear_value s' rq
  obtain ⟨h2, ⟨r', hr, e1, e2, e3⟩, hj⟩ := respond_effect s' rq (respTo rq op status detail payload)
  refine ⟨h1.trans h2, ⟨r', ?_, e1.trans hq.1, e2.trans hq.2, e3⟩, fun w => ⟨_, hj w, hq.1, hq.2, rfl, rfl, rfl, rfl⟩⟩
  rw [hr, ha]
  simp

/-! ### The shapes of an outcome -/

theorem answer_answers {o : Host.Outcome State Fault Refusal} {s s' : State} {q : HmpHdr} {op status detail : Nat}
    {payload : List Byte} (ho : o = .next (answer s' q op status detail payload)) (hd : discarded s' q = false)
    (ha : s'.hmp.answers = s.hmp.answers) : HmpAnswers o s s' q op status detail payload := by
  obtain ⟨h1, h2⟩ := answer_effect s' q op status detail payload hd
  refine ⟨_, ho, h1, ?_⟩
  unfold HmpAnswered at h2 ⊢
  rwa [ha] at h2

theorem reply_reports {o : Host.Outcome State Fault Refusal} {s : State} {q : HmpHdr} {op : Nat} {payload : List Byte}
    (ho : o = .next (reply s q op payload)) (hd : discarded s q = false) : HmpReports o s q op payload := by
  unfold reply at ho
  unfold HmpReports
  split
  · rename_i h
    rw [if_pos h] at ho
    exact answer_answers ho hd rfl
  · rename_i h
    rw [if_neg h] at ho
    exact answer_answers ho hd rfl

theorem hmpDone_applies {o : Host.Outcome State Fault Refusal} {s s' : State} {q : HmpHdr} {op : Nat}
    (ho : o = .next (hmpDone s' q op)) (hd : discarded s' q = false) (ha : s'.hmp.answers = s.hmp.answers) :
    HmpApplies o s s' q op := answer_answers ho hd ha

theorem startLong_starts {o : Host.Outcome State Fault Refusal} {s : State} {q : HmpHdr} {op : Nat} {f : State → Nat → State}
    (ho : o = .next (startLong s q op f)) (hl : liveHandles s q.sender < 64)
    (hd : discarded (f (withHandle s q op) s.hmp.nextHandle) q = false)
    (ha : (f (withHandle s q op) s.hmp.nextHandle).hmp.answers = s.hmp.answers) : HmpStarts o s q op f := by
  unfold startLong at ho
  rw [if_neg (Nat.not_le.2 hl)] at ho
  exact answer_answers ho hd ha

theorem hmpServe_served {s : State} {q : HmpHdr} {r : HmpRule} (h : HmpServed s q r) (body : State → State) :
    hmpServe s q r body = body s := by
  obtain ⟨⟨h1, h2, h3, h4, h5, h6⟩, -⟩ := h
  simp [hmpServe, h1, h2, h3, h4, h5, h6]

end Sys2Proof.Machine
end

