-- ==== Sys2Proof/Laws/Plant.lean ====
section
/-! SUPPORT. What the current limit of the two axes can do (R348). -/

namespace Sys2Proof.Machine

theorem isqrt_sq_le (n : Nat) : isqrt n ^ 2 ≤ n := by
  have step : ∀ l : List Nat, (l.foldr (fun b r => if (r + 2 ^ b) ^ 2 ≤ n then r + 2 ^ b else r) 0) ^ 2 ≤ n := by
    intro l
    induction l with
    | nil => simp
    | cons b l ih =>
      simp only [List.foldr_cons]
      split
      · assumption
      · exact ih
  exact step _

/-- A number whose square lies within another's square is no greater. -/
theorem le_of_sq_le {a b : Nat} (h : a ^ 2 ≤ b ^ 2) : a ≤ b :=
  Nat.le_of_not_lt fun lt => Nat.not_le_of_lt (Nat.pow_lt_pow_left lt (by decide)) h

theorem axisLimit_natAbs (lim x : Int) : (axisLimit lim x).natAbs = isqrt (lim.natAbs ^ 2 - x.natAbs ^ 2) := by
  unfold axisLimit
  exact Int.natAbs_natCast _

/-- What is left for one axis never exceeds the limit. -/
theorem axisLimit_natAbs_le (lim x : Int) : (axisLimit lim x).natAbs ≤ lim.natAbs := by
  rw [axisLimit_natAbs]
  exact le_of_sq_le (Nat.le_trans (isqrt_sq_le _) (Nat.sub_le _ _))

/-- A reference and its axis limit together lie within the limit. -/
theorem axisLimit_sq_add_le (lim x : Int) (h : x.natAbs ≤ lim.natAbs) : (axisLimit lim x).natAbs ^ 2 + x.natAbs ^ 2 ≤ lim.natAbs ^ 2 := by
  rw [axisLimit_natAbs]
  exact Nat.le_trans (Nat.add_le_add_right (isqrt_sq_le _) _) (Nat.le_of_eq (Nat.sub_add_cancel (Nat.pow_le_pow_left h 2)))

end Sys2Proof.Machine
end

