-- ==== Sys2Proof/Laws/State.lean ====
section
/-! SUPPORT. What each named update of one entry leaves alone: every other part of the state. -/

namespace Sys2Proof.Machine

/-! ### updIsland -/

@[simp] theorem updIsland_tm (s : State) (i : Nat) (f : Island → Island) : (updIsland s i f).tm = s.tm := rfl
@[simp] theorem updIsland_evt (s : State) (i : Nat) (f : Island → Island) : (updIsland s i f).evt = s.evt := rfl
@[simp] theorem updIsland_flt (s : State) (i : Nat) (f : Island → Island) : (updIsland s i f).flt = s.flt := rfl
@[simp] theorem updIsland_boot (s : State) (i : Nat) (f : Island → Island) : (updIsland s i f).boot = s.boot := rfl
@[simp] theorem updIsland_bat (s : State) (i : Nat) (f : Island → Island) : (updIsland s i f).bat = s.bat := rfl
@[simp] theorem updIsland_tel (s : State) (i : Nat) (f : Island → Island) : (updIsland s i f).tel = s.tel := rfl
@[simp] theorem updIsland_pins (s : State) (i : Nat) (f : Island → Island) : (updIsland s i f).pins = s.pins := rfl
@[simp] theorem updIsland_sup (s : State) (i : Nat) (f : Island → Island) : (updIsland s i f).sup = s.sup := rfl
@[simp] theorem updIsland_thm (s : State) (i : Nat) (f : Island → Island) : (updIsland s i f).thm = s.thm := rfl
@[simp] theorem updIsland_air (s : State) (i : Nat) (f : Island → Island) : (updIsland s i f).air = s.air := rfl
@[simp] theorem updIsland_dram (s : State) (i : Nat) (f : Island → Island) : (updIsland s i f).dram = s.dram := rfl
@[simp] theorem updIsland_buf (s : State) (i : Nat) (f : Island → Island) : (updIsland s i f).buf = s.buf := rfl
@[simp] theorem updIsland_host (s : State) (i : Nat) (f : Island → Island) : (updIsland s i f).host = s.host := rfl
@[simp] theorem updIsland_hmp (s : State) (i : Nat) (f : Island → Island) : (updIsland s i f).hmp = s.hmp := rfl
@[simp] theorem updIsland_sec (s : State) (i : Nat) (f : Island → Island) : (updIsland s i f).sec = s.sec := rfl
@[simp] theorem updIsland_chg (s : State) (i : Nat) (f : Island → Island) : (updIsland s i f).chg = s.chg := rfl
@[simp] theorem updIsland_prof (s : State) (i : Nat) (f : Island → Island) : (updIsland s i f).prof = s.prof := rfl
@[simp] theorem updIsland_fl (s : State) (i : Nat) (f : Island → Island) : (updIsland s i f).fl = s.fl := rfl
@[simp] theorem updIsland_eav (s : State) (i : Nat) (f : Island → Island) : (updIsland s i f).eav = s.eav := rfl
@[simp] theorem updIsland_zns (s : State) (i : Nat) (f : Island → Island) : (updIsland s i f).zns = s.zns := rfl
@[simp] theorem updIsland_adm (s : State) (i : Nat) (f : Island → Island) : (updIsland s i f).adm = s.adm := rfl
@[simp] theorem updIsland_free (s : State) (i : Nat) (f : Island → Island) : (updIsland s i f).free = s.free := rfl
@[simp] theorem updIsland_pending (s : State) (i : Nat) (f : Island → Island) : (updIsland s i f).pending = s.pending := rfl

/-! ### setHandshake -/

@[simp] theorem setHandshake_tm (s : State) (h : Handshake) : (setHandshake s h).tm = s.tm := rfl
@[simp] theorem setHandshake_evt (s : State) (h : Handshake) : (setHandshake s h).evt = s.evt := rfl
@[simp] theorem setHandshake_flt (s : State) (h : Handshake) : (setHandshake s h).flt = s.flt := rfl
@[simp] theorem setHandshake_boot (s : State) (h : Handshake) : (setHandshake s h).boot = s.boot := rfl
@[simp] theorem setHandshake_bat (s : State) (h : Handshake) : (setHandshake s h).bat = s.bat := rfl
@[simp] theorem setHandshake_tel (s : State) (h : Handshake) : (setHandshake s h).tel = s.tel := rfl
@[simp] theorem setHandshake_pins (s : State) (h : Handshake) : (setHandshake s h).pins = s.pins := rfl
@[simp] theorem setHandshake_sup (s : State) (h : Handshake) : (setHandshake s h).sup = s.sup := rfl
@[simp] theorem setHandshake_thm (s : State) (h : Handshake) : (setHandshake s h).thm = s.thm := rfl
@[simp] theorem setHandshake_air (s : State) (h : Handshake) : (setHandshake s h).air = s.air := rfl
@[simp] theorem setHandshake_dram (s : State) (h : Handshake) : (setHandshake s h).dram = s.dram := rfl
@[simp] theorem setHandshake_buf (s : State) (h : Handshake) : (setHandshake s h).buf = s.buf := rfl
@[simp] theorem setHandshake_host (s : State) (h : Handshake) : (setHandshake s h).host = s.host := rfl
@[simp] theorem setHandshake_hmp (s : State) (h : Handshake) : (setHandshake s h).hmp = s.hmp := rfl
@[simp] theorem setHandshake_sec (s : State) (h : Handshake) : (setHandshake s h).sec = s.sec := rfl
@[simp] theorem setHandshake_chg (s : State) (h : Handshake) : (setHandshake s h).chg = s.chg := rfl
@[simp] theorem setHandshake_prof (s : State) (h : Handshake) : (setHandshake s h).prof = s.prof := rfl
@[simp] theorem setHandshake_fl (s : State) (h : Handshake) : (setHandshake s h).fl = s.fl := rfl
@[simp] theorem setHandshake_eav (s : State) (h : Handshake) : (setHandshake s h).eav = s.eav := rfl
@[simp] theorem setHandshake_zns (s : State) (h : Handshake) : (setHandshake s h).zns = s.zns := rfl
@[simp] theorem setHandshake_adm (s : State) (h : Handshake) : (setHandshake s h).adm = s.adm := rfl
@[simp] theorem setHandshake_free (s : State) (h : Handshake) : (setHandshake s h).free = s.free := rfl
@[simp] theorem setHandshake_pending (s : State) (h : Handshake) : (setHandshake s h).pending = s.pending := rfl

/-! ### updSrc -/

@[simp] theorem updSrc_tm (s : State) (i : Nat) (f : FaultSrc → FaultSrc) : (updSrc s i f).tm = s.tm := rfl
@[simp] theorem updSrc_evt (s : State) (i : Nat) (f : FaultSrc → FaultSrc) : (updSrc s i f).evt = s.evt := rfl
@[simp] theorem updSrc_isl (s : State) (i : Nat) (f : FaultSrc → FaultSrc) : (updSrc s i f).isl = s.isl := rfl
@[simp] theorem updSrc_boot (s : State) (i : Nat) (f : FaultSrc → FaultSrc) : (updSrc s i f).boot = s.boot := rfl
@[simp] theorem updSrc_bat (s : State) (i : Nat) (f : FaultSrc → FaultSrc) : (updSrc s i f).bat = s.bat := rfl
@[simp] theorem updSrc_tel (s : State) (i : Nat) (f : FaultSrc → FaultSrc) : (updSrc s i f).tel = s.tel := rfl
@[simp] theorem updSrc_pins (s : State) (i : Nat) (f : FaultSrc → FaultSrc) : (updSrc s i f).pins = s.pins := rfl
@[simp] theorem updSrc_sup (s : State) (i : Nat) (f : FaultSrc → FaultSrc) : (updSrc s i f).sup = s.sup := rfl
@[simp] theorem updSrc_thm (s : State) (i : Nat) (f : FaultSrc → FaultSrc) : (updSrc s i f).thm = s.thm := rfl
@[simp] theorem updSrc_air (s : State) (i : Nat) (f : FaultSrc → FaultSrc) : (updSrc s i f).air = s.air := rfl
@[simp] theorem updSrc_dram (s : State) (i : Nat) (f : FaultSrc → FaultSrc) : (updSrc s i f).dram = s.dram := rfl
@[simp] theorem updSrc_buf (s : State) (i : Nat) (f : FaultSrc → FaultSrc) : (updSrc s i f).buf = s.buf := rfl
@[simp] theorem updSrc_host (s : State) (i : Nat) (f : FaultSrc → FaultSrc) : (updSrc s i f).host = s.host := rfl
@[simp] theorem updSrc_hmp (s : State) (i : Nat) (f : FaultSrc → FaultSrc) : (updSrc s i f).hmp = s.hmp := rfl
@[simp] theorem updSrc_sec (s : State) (i : Nat) (f : FaultSrc → FaultSrc) : (updSrc s i f).sec = s.sec := rfl
@[simp] theorem updSrc_chg (s : State) (i : Nat) (f : FaultSrc → FaultSrc) : (updSrc s i f).chg = s.chg := rfl
@[simp] theorem updSrc_prof (s : State) (i : Nat) (f : FaultSrc → FaultSrc) : (updSrc s i f).prof = s.prof := rfl
@[simp] theorem updSrc_fl (s : State) (i : Nat) (f : FaultSrc → FaultSrc) : (updSrc s i f).fl = s.fl := rfl
@[simp] theorem updSrc_eav (s : State) (i : Nat) (f : FaultSrc → FaultSrc) : (updSrc s i f).eav = s.eav := rfl
@[simp] theorem updSrc_zns (s : State) (i : Nat) (f : FaultSrc → FaultSrc) : (updSrc s i f).zns = s.zns := rfl
@[simp] theorem updSrc_adm (s : State) (i : Nat) (f : FaultSrc → FaultSrc) : (updSrc s i f).adm = s.adm := rfl
@[simp] theorem updSrc_free (s : State) (i : Nat) (f : FaultSrc → FaultSrc) : (updSrc s i f).free = s.free := rfl
@[simp] theorem updSrc_pending (s : State) (i : Nat) (f : FaultSrc → FaultSrc) : (updSrc s i f).pending = s.pending := rfl

/-! ### updCore -/

@[simp] theorem updCore_tm (s : State) (i : Nat) (f : CoreSt → CoreSt) : (updCore s i f).tm = s.tm := rfl
@[simp] theorem updCore_evt (s : State) (i : Nat) (f : CoreSt → CoreSt) : (updCore s i f).evt = s.evt := rfl
@[simp] theorem updCore_isl (s : State) (i : Nat) (f : CoreSt → CoreSt) : (updCore s i f).isl = s.isl := rfl
@[simp] theorem updCore_boot (s : State) (i : Nat) (f : CoreSt → CoreSt) : (updCore s i f).boot = s.boot := rfl
@[simp] theorem updCore_bat (s : State) (i : Nat) (f : CoreSt → CoreSt) : (updCore s i f).bat = s.bat := rfl
@[simp] theorem updCore_tel (s : State) (i : Nat) (f : CoreSt → CoreSt) : (updCore s i f).tel = s.tel := rfl
@[simp] theorem updCore_pins (s : State) (i : Nat) (f : CoreSt → CoreSt) : (updCore s i f).pins = s.pins := rfl
@[simp] theorem updCore_sup (s : State) (i : Nat) (f : CoreSt → CoreSt) : (updCore s i f).sup = s.sup := rfl
@[simp] theorem updCore_thm (s : State) (i : Nat) (f : CoreSt → CoreSt) : (updCore s i f).thm = s.thm := rfl
@[simp] theorem updCore_air (s : State) (i : Nat) (f : CoreSt → CoreSt) : (updCore s i f).air = s.air := rfl
@[simp] theorem updCore_dram (s : State) (i : Nat) (f : CoreSt → CoreSt) : (updCore s i f).dram = s.dram := rfl
@[simp] theorem updCore_buf (s : State) (i : Nat) (f : CoreSt → CoreSt) : (updCore s i f).buf = s.buf := rfl
@[simp] theorem updCore_host (s : State) (i : Nat) (f : CoreSt → CoreSt) : (updCore s i f).host = s.host := rfl
@[simp] theorem updCore_hmp (s : State) (i : Nat) (f : CoreSt → CoreSt) : (updCore s i f).hmp = s.hmp := rfl
@[simp] theorem updCore_sec (s : State) (i : Nat) (f : CoreSt → CoreSt) : (updCore s i f).sec = s.sec := rfl
@[simp] theorem updCore_chg (s : State) (i : Nat) (f : CoreSt → CoreSt) : (updCore s i f).chg = s.chg := rfl
@[simp] theorem updCore_prof (s : State) (i : Nat) (f : CoreSt → CoreSt) : (updCore s i f).prof = s.prof := rfl
@[simp] theorem updCore_fl (s : State) (i : Nat) (f : CoreSt → CoreSt) : (updCore s i f).fl = s.fl := rfl
@[simp] theorem updCore_eav (s : State) (i : Nat) (f : CoreSt → CoreSt) : (updCore s i f).eav = s.eav := rfl
@[simp] theorem updCore_zns (s : State) (i : Nat) (f : CoreSt → CoreSt) : (updCore s i f).zns = s.zns := rfl
@[simp] theorem updCore_adm (s : State) (i : Nat) (f : CoreSt → CoreSt) : (updCore s i f).adm = s.adm := rfl
@[simp] theorem updCore_free (s : State) (i : Nat) (f : CoreSt → CoreSt) : (updCore s i f).free = s.free := rfl
@[simp] theorem updCore_pending (s : State) (i : Nat) (f : CoreSt → CoreSt) : (updCore s i f).pending = s.pending := rfl

/-! ### updRidge -/

@[simp] theorem updRidge_tm (s : State) (i : Nat) (f : CoreSt → CoreSt) : (updRidge s i f).tm = s.tm := rfl
@[simp] theorem updRidge_evt (s : State) (i : Nat) (f : CoreSt → CoreSt) : (updRidge s i f).evt = s.evt := rfl
@[simp] theorem updRidge_isl (s : State) (i : Nat) (f : CoreSt → CoreSt) : (updRidge s i f).isl = s.isl := rfl
@[simp] theorem updRidge_boot (s : State) (i : Nat) (f : CoreSt → CoreSt) : (updRidge s i f).boot = s.boot := rfl
@[simp] theorem updRidge_bat (s : State) (i : Nat) (f : CoreSt → CoreSt) : (updRidge s i f).bat = s.bat := rfl
@[simp] theorem updRidge_tel (s : State) (i : Nat) (f : CoreSt → CoreSt) : (updRidge s i f).tel = s.tel := rfl
@[simp] theorem updRidge_pins (s : State) (i : Nat) (f : CoreSt → CoreSt) : (updRidge s i f).pins = s.pins := rfl
@[simp] theorem updRidge_sup (s : State) (i : Nat) (f : CoreSt → CoreSt) : (updRidge s i f).sup = s.sup := rfl
@[simp] theorem updRidge_thm (s : State) (i : Nat) (f : CoreSt → CoreSt) : (updRidge s i f).thm = s.thm := rfl
@[simp] theorem updRidge_air (s : State) (i : Nat) (f : CoreSt → CoreSt) : (updRidge s i f).air = s.air := rfl
@[simp] theorem updRidge_dram (s : State) (i : Nat) (f : CoreSt → CoreSt) : (updRidge s i f).dram = s.dram := rfl
@[simp] theorem updRidge_buf (s : State) (i : Nat) (f : CoreSt → CoreSt) : (updRidge s i f).buf = s.buf := rfl
@[simp] theorem updRidge_host (s : State) (i : Nat) (f : CoreSt → CoreSt) : (updRidge s i f).host = s.host := rfl
@[simp] theorem updRidge_hmp (s : State) (i : Nat) (f : CoreSt → CoreSt) : (updRidge s i f).hmp = s.hmp := rfl
@[simp] theorem updRidge_sec (s : State) (i : Nat) (f : CoreSt → CoreSt) : (updRidge s i f).sec = s.sec := rfl
@[simp] theorem updRidge_chg (s : State) (i : Nat) (f : CoreSt → CoreSt) : (updRidge s i f).chg = s.chg := rfl
@[simp] theorem updRidge_prof (s : State) (i : Nat) (f : CoreSt → CoreSt) : (updRidge s i f).prof = s.prof := rfl
@[simp] theorem updRidge_fl (s : State) (i : Nat) (f : CoreSt → CoreSt) : (updRidge s i f).fl = s.fl := rfl
@[simp] theorem updRidge_eav (s : State) (i : Nat) (f : CoreSt → CoreSt) : (updRidge s i f).eav = s.eav := rfl
@[simp] theorem updRidge_zns (s : State) (i : Nat) (f : CoreSt → CoreSt) : (updRidge s i f).zns = s.zns := rfl
@[simp] theorem updRidge_adm (s : State) (i : Nat) (f : CoreSt → CoreSt) : (updRidge s i f).adm = s.adm := rfl
@[simp] theorem updRidge_free (s : State) (i : Nat) (f : CoreSt → CoreSt) : (updRidge s i f).free = s.free := rfl
@[simp] theorem updRidge_pending (s : State) (i : Nat) (f : CoreSt → CoreSt) : (updRidge s i f).pending = s.pending := rfl

/-! ### updMeter -/

@[simp] theorem updMeter_tm (s : State) (n : Nat) (g : Meter → Meter) : (updMeter s n g).tm = s.tm := rfl
@[simp] theorem updMeter_evt (s : State) (n : Nat) (g : Meter → Meter) : (updMeter s n g).evt = s.evt := rfl
@[simp] theorem updMeter_isl (s : State) (n : Nat) (g : Meter → Meter) : (updMeter s n g).isl = s.isl := rfl
@[simp] theorem updMeter_flt (s : State) (n : Nat) (g : Meter → Meter) : (updMeter s n g).flt = s.flt := rfl
@[simp] theorem updMeter_boot (s : State) (n : Nat) (g : Meter → Meter) : (updMeter s n g).boot = s.boot := rfl
@[simp] theorem updMeter_bat (s : State) (n : Nat) (g : Meter → Meter) : (updMeter s n g).bat = s.bat := rfl
@[simp] theorem updMeter_pins (s : State) (n : Nat) (g : Meter → Meter) : (updMeter s n g).pins = s.pins := rfl
@[simp] theorem updMeter_sup (s : State) (n : Nat) (g : Meter → Meter) : (updMeter s n g).sup = s.sup := rfl
@[simp] theorem updMeter_thm (s : State) (n : Nat) (g : Meter → Meter) : (updMeter s n g).thm = s.thm := rfl
@[simp] theorem updMeter_air (s : State) (n : Nat) (g : Meter → Meter) : (updMeter s n g).air = s.air := rfl
@[simp] theorem updMeter_dram (s : State) (n : Nat) (g : Meter → Meter) : (updMeter s n g).dram = s.dram := rfl
@[simp] theorem updMeter_buf (s : State) (n : Nat) (g : Meter → Meter) : (updMeter s n g).buf = s.buf := rfl
@[simp] theorem updMeter_host (s : State) (n : Nat) (g : Meter → Meter) : (updMeter s n g).host = s.host := rfl
@[simp] theorem updMeter_hmp (s : State) (n : Nat) (g : Meter → Meter) : (updMeter s n g).hmp = s.hmp := rfl
@[simp] theorem updMeter_sec (s : State) (n : Nat) (g : Meter → Meter) : (updMeter s n g).sec = s.sec := rfl
@[simp] theorem updMeter_chg (s : State) (n : Nat) (g : Meter → Meter) : (updMeter s n g).chg = s.chg := rfl
@[simp] theorem updMeter_prof (s : State) (n : Nat) (g : Meter → Meter) : (updMeter s n g).prof = s.prof := rfl
@[simp] theorem updMeter_fl (s : State) (n : Nat) (g : Meter → Meter) : (updMeter s n g).fl = s.fl := rfl
@[simp] theorem updMeter_eav (s : State) (n : Nat) (g : Meter → Meter) : (updMeter s n g).eav = s.eav := rfl
@[simp] theorem updMeter_zns (s : State) (n : Nat) (g : Meter → Meter) : (updMeter s n g).zns = s.zns := rfl
@[simp] theorem updMeter_adm (s : State) (n : Nat) (g : Meter → Meter) : (updMeter s n g).adm = s.adm := rfl
@[simp] theorem updMeter_free (s : State) (n : Nat) (g : Meter → Meter) : (updMeter s n g).free = s.free := rfl
@[simp] theorem updMeter_pending (s : State) (n : Nat) (g : Meter → Meter) : (updMeter s n g).pending = s.pending := rfl

/-! ### updClass -/

@[simp] theorem updClass_tm (s : State) (n c : Nat) (g : ClassCtr → ClassCtr) : (updClass s n c g).tm = s.tm := rfl
@[simp] theorem updClass_evt (s : State) (n c : Nat) (g : ClassCtr → ClassCtr) : (updClass s n c g).evt = s.evt := rfl
@[simp] theorem updClass_isl (s : State) (n c : Nat) (g : ClassCtr → ClassCtr) : (updClass s n c g).isl = s.isl := rfl
@[simp] theorem updClass_flt (s : State) (n c : Nat) (g : ClassCtr → ClassCtr) : (updClass s n c g).flt = s.flt := rfl
@[simp] theorem updClass_boot (s : State) (n c : Nat) (g : ClassCtr → ClassCtr) : (updClass s n c g).boot = s.boot := rfl
@[simp] theorem updClass_bat (s : State) (n c : Nat) (g : ClassCtr → ClassCtr) : (updClass s n c g).bat = s.bat := rfl
@[simp] theorem updClass_pins (s : State) (n c : Nat) (g : ClassCtr → ClassCtr) : (updClass s n c g).pins = s.pins := rfl
@[simp] theorem updClass_sup (s : State) (n c : Nat) (g : ClassCtr → ClassCtr) : (updClass s n c g).sup = s.sup := rfl
@[simp] theorem updClass_thm (s : State) (n c : Nat) (g : ClassCtr → ClassCtr) : (updClass s n c g).thm = s.thm := rfl
@[simp] theorem updClass_air (s : State) (n c : Nat) (g : ClassCtr → ClassCtr) : (updClass s n c g).air = s.air := rfl
@[simp] theorem updClass_dram (s : State) (n c : Nat) (g : ClassCtr → ClassCtr) : (updClass s n c g).dram = s.dram := rfl
@[simp] theorem updClass_buf (s : State) (n c : Nat) (g : ClassCtr → ClassCtr) : (updClass s n c g).buf = s.buf := rfl
@[simp] theorem updClass_host (s : State) (n c : Nat) (g : ClassCtr → ClassCtr) : (updClass s n c g).host = s.host := rfl
@[simp] theorem updClass_hmp (s : State) (n c : Nat) (g : ClassCtr → ClassCtr) : (updClass s n c g).hmp = s.hmp := rfl
@[simp] theorem updClass_sec (s : State) (n c : Nat) (g : ClassCtr → ClassCtr) : (updClass s n c g).sec = s.sec := rfl
@[simp] theorem updClass_chg (s : State) (n c : Nat) (g : ClassCtr → ClassCtr) : (updClass s n c g).chg = s.chg := rfl
@[simp] theorem updClass_prof (s : State) (n c : Nat) (g : ClassCtr → ClassCtr) : (updClass s n c g).prof = s.prof := rfl
@[simp] theorem updClass_fl (s : State) (n c : Nat) (g : ClassCtr → ClassCtr) : (updClass s n c g).fl = s.fl := rfl
@[simp] theorem updClass_eav (s : State) (n c : Nat) (g : ClassCtr → ClassCtr) : (updClass s n c g).eav = s.eav := rfl
@[simp] theorem updClass_zns (s : State) (n c : Nat) (g : ClassCtr → ClassCtr) : (updClass s n c g).zns = s.zns := rfl
@[simp] theorem updClass_adm (s : State) (n c : Nat) (g : ClassCtr → ClassCtr) : (updClass s n c g).adm = s.adm := rfl
@[simp] theorem updClass_free (s : State) (n c : Nat) (g : ClassCtr → ClassCtr) : (updClass s n c g).free = s.free := rfl
@[simp] theorem updClass_pending (s : State) (n c : Nat) (g : ClassCtr → ClassCtr) : (updClass s n c g).pending = s.pending := rfl

/-! ### updFnCtr -/

@[simp] theorem updFnCtr_tm (s : State) (n : Nat) (g : FnCtr → FnCtr) : (updFnCtr s n g).tm = s.tm := rfl
@[simp] theorem updFnCtr_evt (s : State) (n : Nat) (g : FnCtr → FnCtr) : (updFnCtr s n g).evt = s.evt := rfl
@[simp] theorem updFnCtr_isl (s : State) (n : Nat) (g : FnCtr → FnCtr) : (updFnCtr s n g).isl = s.isl := rfl
@[simp] theorem updFnCtr_flt (s : State) (n : Nat) (g : FnCtr → FnCtr) : (updFnCtr s n g).flt = s.flt := rfl
@[simp] theorem updFnCtr_boot (s : State) (n : Nat) (g : FnCtr → FnCtr) : (updFnCtr s n g).boot = s.boot := rfl
@[simp] theorem updFnCtr_bat (s : State) (n : Nat) (g : FnCtr → FnCtr) : (updFnCtr s n g).bat = s.bat := rfl
@[simp] theorem updFnCtr_pins (s : State) (n : Nat) (g : FnCtr → FnCtr) : (updFnCtr s n g).pins = s.pins := rfl
@[simp] theorem updFnCtr_sup (s : State) (n : Nat) (g : FnCtr → FnCtr) : (updFnCtr s n g).sup = s.sup := rfl
@[simp] theorem updFnCtr_thm (s : State) (n : Nat) (g : FnCtr → FnCtr) : (updFnCtr s n g).thm = s.thm := rfl
@[simp] theorem updFnCtr_air (s : State) (n : Nat) (g : FnCtr → FnCtr) : (updFnCtr s n g).air = s.air := rfl
@[simp] theorem updFnCtr_dram (s : State) (n : Nat) (g : FnCtr → FnCtr) : (updFnCtr s n g).dram = s.dram := rfl
@[simp] theorem updFnCtr_buf (s : State) (n : Nat) (g : FnCtr → FnCtr) : (updFnCtr s n g).buf = s.buf := rfl
@[simp] theorem updFnCtr_host (s : State) (n : Nat) (g : FnCtr → FnCtr) : (updFnCtr s n g).host = s.host := rfl
@[simp] theorem updFnCtr_hmp (s : State) (n : Nat) (g : FnCtr → FnCtr) : (updFnCtr s n g).hmp = s.hmp := rfl
@[simp] theorem updFnCtr_sec (s : State) (n : Nat) (g : FnCtr → FnCtr) : (updFnCtr s n g).sec = s.sec := rfl
@[simp] theorem updFnCtr_chg (s : State) (n : Nat) (g : FnCtr → FnCtr) : (updFnCtr s n g).chg = s.chg := rfl
@[simp] theorem updFnCtr_prof (s : State) (n : Nat) (g : FnCtr → FnCtr) : (updFnCtr s n g).prof = s.prof := rfl
@[simp] theorem updFnCtr_fl (s : State) (n : Nat) (g : FnCtr → FnCtr) : (updFnCtr s n g).fl = s.fl := rfl
@[simp] theorem updFnCtr_eav (s : State) (n : Nat) (g : FnCtr → FnCtr) : (updFnCtr s n g).eav = s.eav := rfl
@[simp] theorem updFnCtr_zns (s : State) (n : Nat) (g : FnCtr → FnCtr) : (updFnCtr s n g).zns = s.zns := rfl
@[simp] theorem updFnCtr_adm (s : State) (n : Nat) (g : FnCtr → FnCtr) : (updFnCtr s n g).adm = s.adm := rfl
@[simp] theorem updFnCtr_free (s : State) (n : Nat) (g : FnCtr → FnCtr) : (updFnCtr s n g).free = s.free := rfl
@[simp] theorem updFnCtr_pending (s : State) (n : Nat) (g : FnCtr → FnCtr) : (updFnCtr s n g).pending = s.pending := rfl

/-! ### updRail -/

@[simp] theorem updRail_tm (s : State) (r : Nat) (f : RailSt → RailSt) : (updRail s r f).tm = s.tm := rfl
@[simp] theorem updRail_evt (s : State) (r : Nat) (f : RailSt → RailSt) : (updRail s r f).evt = s.evt := rfl
@[simp] theorem updRail_isl (s : State) (r : Nat) (f : RailSt → RailSt) : (updRail s r f).isl = s.isl := rfl
@[simp] theorem updRail_flt (s : State) (r : Nat) (f : RailSt → RailSt) : (updRail s r f).flt = s.flt := rfl
@[simp] theorem updRail_boot (s : State) (r : Nat) (f : RailSt → RailSt) : (updRail s r f).boot = s.boot := rfl
@[simp] theorem updRail_bat (s : State) (r : Nat) (f : RailSt → RailSt) : (updRail s r f).bat = s.bat := rfl
@[simp] theorem updRail_tel (s : State) (r : Nat) (f : RailSt → RailSt) : (updRail s r f).tel = s.tel := rfl
@[simp] theorem updRail_pins (s : State) (r : Nat) (f : RailSt → RailSt) : (updRail s r f).pins = s.pins := rfl
@[simp] theorem updRail_thm (s : State) (r : Nat) (f : RailSt → RailSt) : (updRail s r f).thm = s.thm := rfl
@[simp] theorem updRail_air (s : State) (r : Nat) (f : RailSt → RailSt) : (updRail s r f).air = s.air := rfl
@[simp] theorem updRail_dram (s : State) (r : Nat) (f : RailSt → RailSt) : (updRail s r f).dram = s.dram := rfl
@[simp] theorem updRail_buf (s : State) (r : Nat) (f : RailSt → RailSt) : (updRail s r f).buf = s.buf := rfl
@[simp] theorem updRail_host (s : State) (r : Nat) (f : RailSt → RailSt) : (updRail s r f).host = s.host := rfl
@[simp] theorem updRail_hmp (s : State) (r : Nat) (f : RailSt → RailSt) : (updRail s r f).hmp = s.hmp := rfl
@[simp] theorem updRail_sec (s : State) (r : Nat) (f : RailSt → RailSt) : (updRail s r f).sec = s.sec := rfl
@[simp] theorem updRail_chg (s : State) (r : Nat) (f : RailSt → RailSt) : (updRail s r f).chg = s.chg := rfl
@[simp] theorem updRail_prof (s : State) (r : Nat) (f : RailSt → RailSt) : (updRail s r f).prof = s.prof := rfl
@[simp] theorem updRail_fl (s : State) (r : Nat) (f : RailSt → RailSt) : (updRail s r f).fl = s.fl := rfl
@[simp] theorem updRail_eav (s : State) (r : Nat) (f : RailSt → RailSt) : (updRail s r f).eav = s.eav := rfl
@[simp] theorem updRail_zns (s : State) (r : Nat) (f : RailSt → RailSt) : (updRail s r f).zns = s.zns := rfl
@[simp] theorem updRail_adm (s : State) (r : Nat) (f : RailSt → RailSt) : (updRail s r f).adm = s.adm := rfl
@[simp] theorem updRail_free (s : State) (r : Nat) (f : RailSt → RailSt) : (updRail s r f).free = s.free := rfl
@[simp] theorem updRail_pending (s : State) (r : Nat) (f : RailSt → RailSt) : (updRail s r f).pending = s.pending := rfl

/-! ### updPool -/

@[simp] theorem updPool_tm (s : State) (p : Nat) (f : PoolSt → PoolSt) : (updPool s p f).tm = s.tm := rfl
@[simp] theorem updPool_evt (s : State) (p : Nat) (f : PoolSt → PoolSt) : (updPool s p f).evt = s.evt := rfl
@[simp] theorem updPool_isl (s : State) (p : Nat) (f : PoolSt → PoolSt) : (updPool s p f).isl = s.isl := rfl
@[simp] theorem updPool_flt (s : State) (p : Nat) (f : PoolSt → PoolSt) : (updPool s p f).flt = s.flt := rfl
@[simp] theorem updPool_boot (s : State) (p : Nat) (f : PoolSt → PoolSt) : (updPool s p f).boot = s.boot := rfl
@[simp] theorem updPool_bat (s : State) (p : Nat) (f : PoolSt → PoolSt) : (updPool s p f).bat = s.bat := rfl
@[simp] theorem updPool_tel (s : State) (p : Nat) (f : PoolSt → PoolSt) : (updPool s p f).tel = s.tel := rfl
@[simp] theorem updPool_pins (s : State) (p : Nat) (f : PoolSt → PoolSt) : (updPool s p f).pins = s.pins := rfl
@[simp] theorem updPool_sup (s : State) (p : Nat) (f : PoolSt → PoolSt) : (updPool s p f).sup = s.sup := rfl
@[simp] theorem updPool_thm (s : State) (p : Nat) (f : PoolSt → PoolSt) : (updPool s p f).thm = s.thm := rfl
@[simp] theorem updPool_air (s : State) (p : Nat) (f : PoolSt → PoolSt) : (updPool s p f).air = s.air := rfl
@[simp] theorem updPool_dram (s : State) (p : Nat) (f : PoolSt → PoolSt) : (updPool s p f).dram = s.dram := rfl
@[simp] theorem updPool_host (s : State) (p : Nat) (f : PoolSt → PoolSt) : (updPool s p f).host = s.host := rfl
@[simp] theorem updPool_hmp (s : State) (p : Nat) (f : PoolSt → PoolSt) : (updPool s p f).hmp = s.hmp := rfl
@[simp] theorem updPool_sec (s : State) (p : Nat) (f : PoolSt → PoolSt) : (updPool s p f).sec = s.sec := rfl
@[simp] theorem updPool_chg (s : State) (p : Nat) (f : PoolSt → PoolSt) : (updPool s p f).chg = s.chg := rfl
@[simp] theorem updPool_prof (s : State) (p : Nat) (f : PoolSt → PoolSt) : (updPool s p f).prof = s.prof := rfl
@[simp] theorem updPool_fl (s : State) (p : Nat) (f : PoolSt → PoolSt) : (updPool s p f).fl = s.fl := rfl
@[simp] theorem updPool_eav (s : State) (p : Nat) (f : PoolSt → PoolSt) : (updPool s p f).eav = s.eav := rfl
@[simp] theorem updPool_zns (s : State) (p : Nat) (f : PoolSt → PoolSt) : (updPool s p f).zns = s.zns := rfl
@[simp] theorem updPool_adm (s : State) (p : Nat) (f : PoolSt → PoolSt) : (updPool s p f).adm = s.adm := rfl
@[simp] theorem updPool_free (s : State) (p : Nat) (f : PoolSt → PoolSt) : (updPool s p f).free = s.free := rfl
@[simp] theorem updPool_pending (s : State) (p : Nat) (f : PoolSt → PoolSt) : (updPool s p f).pending = s.pending := rfl

/-! ### updFn -/

@[simp] theorem updFn_tm (s : State) (n : Nat) (g : FnSt → FnSt) : (updFn s n g).tm = s.tm := rfl
@[simp] theorem updFn_evt (s : State) (n : Nat) (g : FnSt → FnSt) : (updFn s n g).evt = s.evt := rfl
@[simp] theorem updFn_isl (s : State) (n : Nat) (g : FnSt → FnSt) : (updFn s n g).isl = s.isl := rfl
@[simp] theorem updFn_flt (s : State) (n : Nat) (g : FnSt → FnSt) : (updFn s n g).flt = s.flt := rfl
@[simp] theorem updFn_boot (s : State) (n : Nat) (g : FnSt → FnSt) : (updFn s n g).boot = s.boot := rfl
@[simp] theorem updFn_bat (s : State) (n : Nat) (g : FnSt → FnSt) : (updFn s n g).bat = s.bat := rfl
@[simp] theorem updFn_tel (s : State) (n : Nat) (g : FnSt → FnSt) : (updFn s n g).tel = s.tel := rfl
@[simp] theorem updFn_pins (s : State) (n : Nat) (g : FnSt → FnSt) : (updFn s n g).pins = s.pins := rfl
@[simp] theorem updFn_sup (s : State) (n : Nat) (g : FnSt → FnSt) : (updFn s n g).sup = s.sup := rfl
@[simp] theorem updFn_thm (s : State) (n : Nat) (g : FnSt → FnSt) : (updFn s n g).thm = s.thm := rfl
@[simp] theorem updFn_air (s : State) (n : Nat) (g : FnSt → FnSt) : (updFn s n g).air = s.air := rfl
@[simp] theorem updFn_dram (s : State) (n : Nat) (g : FnSt → FnSt) : (updFn s n g).dram = s.dram := rfl
@[simp] theorem updFn_buf (s : State) (n : Nat) (g : FnSt → FnSt) : (updFn s n g).buf = s.buf := rfl
@[simp] theorem updFn_hmp (s : State) (n : Nat) (g : FnSt → FnSt) : (updFn s n g).hmp = s.hmp := rfl
@[simp] theorem updFn_sec (s : State) (n : Nat) (g : FnSt → FnSt) : (updFn s n g).sec = s.sec := rfl
@[simp] theorem updFn_chg (s : State) (n : Nat) (g : FnSt → FnSt) : (updFn s n g).chg = s.chg := rfl
@[simp] theorem updFn_prof (s : State) (n : Nat) (g : FnSt → FnSt) : (updFn s n g).prof = s.prof := rfl
@[simp] theorem updFn_fl (s : State) (n : Nat) (g : FnSt → FnSt) : (updFn s n g).fl = s.fl := rfl
@[simp] theorem updFn_eav (s : State) (n : Nat) (g : FnSt → FnSt) : (updFn s n g).eav = s.eav := rfl
@[simp] theorem updFn_zns (s : State) (n : Nat) (g : FnSt → FnSt) : (updFn s n g).zns = s.zns := rfl
@[simp] theorem updFn_adm (s : State) (n : Nat) (g : FnSt → FnSt) : (updFn s n g).adm = s.adm := rfl
@[simp] theorem updFn_free (s : State) (n : Nat) (g : FnSt → FnSt) : (updFn s n g).free = s.free := rfl
@[simp] theorem updFn_pending (s : State) (n : Nat) (g : FnSt → FnSt) : (updFn s n g).pending = s.pending := rfl

/-! ### updMailbox -/

@[simp] theorem updMailbox_tm (s : State) (n : Nat) (g : MailboxSt → MailboxSt) : (updMailbox s n g).tm = s.tm := rfl
@[simp] theorem updMailbox_evt (s : State) (n : Nat) (g : MailboxSt → MailboxSt) : (updMailbox s n g).evt = s.evt := rfl
@[simp] theorem updMailbox_isl (s : State) (n : Nat) (g : MailboxSt → MailboxSt) : (updMailbox s n g).isl = s.isl := rfl
@[simp] theorem updMailbox_flt (s : State) (n : Nat) (g : MailboxSt → MailboxSt) : (updMailbox s n g).flt = s.flt := rfl
@[simp] theorem updMailbox_boot (s : State) (n : Nat) (g : MailboxSt → MailboxSt) : (updMailbox s n g).boot = s.boot := rfl
@[simp] theorem updMailbox_bat (s : State) (n : Nat) (g : MailboxSt → MailboxSt) : (updMailbox s n g).bat = s.bat := rfl
@[simp] theorem updMailbox_tel (s : State) (n : Nat) (g : MailboxSt → MailboxSt) : (updMailbox s n g).tel = s.tel := rfl
@[simp] theorem updMailbox_pins (s : State) (n : Nat) (g : MailboxSt → MailboxSt) : (updMailbox s n g).pins = s.pins := rfl
@[simp] theorem updMailbox_sup (s : State) (n : Nat) (g : MailboxSt → MailboxSt) : (updMailbox s n g).sup = s.sup := rfl
@[simp] theorem updMailbox_thm (s : State) (n : Nat) (g : MailboxSt → MailboxSt) : (updMailbox s n g).thm = s.thm := rfl
@[simp] theorem updMailbox_air (s : State) (n : Nat) (g : MailboxSt → MailboxSt) : (updMailbox s n g).air = s.air := rfl
@[simp] theorem updMailbox_dram (s : State) (n : Nat) (g : MailboxSt → MailboxSt) : (updMailbox s n g).dram = s.dram := rfl
@[simp] theorem updMailbox_buf (s : State) (n : Nat) (g : MailboxSt → MailboxSt) : (updMailbox s n g).buf = s.buf := rfl
@[simp] theorem updMailbox_hmp (s : State) (n : Nat) (g : MailboxSt → MailboxSt) : (updMailbox s n g).hmp = s.hmp := rfl
@[simp] theorem updMailbox_sec (s : State) (n : Nat) (g : MailboxSt → MailboxSt) : (updMailbox s n g).sec = s.sec := rfl
@[simp] theorem updMailbox_chg (s : State) (n : Nat) (g : MailboxSt → MailboxSt) : (updMailbox s n g).chg = s.chg := rfl
@[simp] theorem updMailbox_prof (s : State) (n : Nat) (g : MailboxSt → MailboxSt) : (updMailbox s n g).prof = s.prof := rfl
@[simp] theorem updMailbox_fl (s : State) (n : Nat) (g : MailboxSt → MailboxSt) : (updMailbox s n g).fl = s.fl := rfl
@[simp] theorem updMailbox_eav (s : State) (n : Nat) (g : MailboxSt → MailboxSt) : (updMailbox s n g).eav = s.eav := rfl
@[simp] theorem updMailbox_zns (s : State) (n : Nat) (g : MailboxSt → MailboxSt) : (updMailbox s n g).zns = s.zns := rfl
@[simp] theorem updMailbox_adm (s : State) (n : Nat) (g : MailboxSt → MailboxSt) : (updMailbox s n g).adm = s.adm := rfl
@[simp] theorem updMailbox_free (s : State) (n : Nat) (g : MailboxSt → MailboxSt) : (updMailbox s n g).free = s.free := rfl
@[simp] theorem updMailbox_pending (s : State) (n : Nat) (g : MailboxSt → MailboxSt) : (updMailbox s n g).pending = s.pending := rfl

/-! ### updDie -/

@[simp] theorem updDie_tm (s : State) (d : DieNo) (f : DieSt → DieSt) : (updDie s d f).tm = s.tm := rfl
@[simp] theorem updDie_evt (s : State) (d : DieNo) (f : DieSt → DieSt) : (updDie s d f).evt = s.evt := rfl
@[simp] theorem updDie_isl (s : State) (d : DieNo) (f : DieSt → DieSt) : (updDie s d f).isl = s.isl := rfl
@[simp] theorem updDie_flt (s : State) (d : DieNo) (f : DieSt → DieSt) : (updDie s d f).flt = s.flt := rfl
@[simp] theorem updDie_boot (s : State) (d : DieNo) (f : DieSt → DieSt) : (updDie s d f).boot = s.boot := rfl
@[simp] theorem updDie_bat (s : State) (d : DieNo) (f : DieSt → DieSt) : (updDie s d f).bat = s.bat := rfl
@[simp] theorem updDie_tel (s : State) (d : DieNo) (f : DieSt → DieSt) : (updDie s d f).tel = s.tel := rfl
@[simp] theorem updDie_pins (s : State) (d : DieNo) (f : DieSt → DieSt) : (updDie s d f).pins = s.pins := rfl
@[simp] theorem updDie_sup (s : State) (d : DieNo) (f : DieSt → DieSt) : (updDie s d f).sup = s.sup := rfl
@[simp] theorem updDie_thm (s : State) (d : DieNo) (f : DieSt → DieSt) : (updDie s d f).thm = s.thm := rfl
@[simp] theorem updDie_air (s : State) (d : DieNo) (f : DieSt → DieSt) : (updDie s d f).air = s.air := rfl
@[simp] theorem updDie_dram (s : State) (d : DieNo) (f : DieSt → DieSt) : (updDie s d f).dram = s.dram := rfl
@[simp] theorem updDie_buf (s : State) (d : DieNo) (f : DieSt → DieSt) : (updDie s d f).buf = s.buf := rfl
@[simp] theorem updDie_host (s : State) (d : DieNo) (f : DieSt → DieSt) : (updDie s d f).host = s.host := rfl
@[simp] theorem updDie_hmp (s : State) (d : DieNo) (f : DieSt → DieSt) : (updDie s d f).hmp = s.hmp := rfl
@[simp] theorem updDie_sec (s : State) (d : DieNo) (f : DieSt → DieSt) : (updDie s d f).sec = s.sec := rfl
@[simp] theorem updDie_chg (s : State) (d : DieNo) (f : DieSt → DieSt) : (updDie s d f).chg = s.chg := rfl
@[simp] theorem updDie_prof (s : State) (d : DieNo) (f : DieSt → DieSt) : (updDie s d f).prof = s.prof := rfl
@[simp] theorem updDie_eav (s : State) (d : DieNo) (f : DieSt → DieSt) : (updDie s d f).eav = s.eav := rfl
@[simp] theorem updDie_zns (s : State) (d : DieNo) (f : DieSt → DieSt) : (updDie s d f).zns = s.zns := rfl
@[simp] theorem updDie_adm (s : State) (d : DieNo) (f : DieSt → DieSt) : (updDie s d f).adm = s.adm := rfl
@[simp] theorem updDie_free (s : State) (d : DieNo) (f : DieSt → DieSt) : (updDie s d f).free = s.free := rfl
@[simp] theorem updDie_pending (s : State) (d : DieNo) (f : DieSt → DieSt) : (updDie s d f).pending = s.pending := rfl

/-! ### updPkg -/

@[simp] theorem updPkg_tm (s : State) (k : Nat × Nat) (f : PkgSt → PkgSt) : (updPkg s k f).tm = s.tm := rfl
@[simp] theorem updPkg_evt (s : State) (k : Nat × Nat) (f : PkgSt → PkgSt) : (updPkg s k f).evt = s.evt := rfl
@[simp] theorem updPkg_isl (s : State) (k : Nat × Nat) (f : PkgSt → PkgSt) : (updPkg s k f).isl = s.isl := rfl
@[simp] theorem updPkg_flt (s : State) (k : Nat × Nat) (f : PkgSt → PkgSt) : (updPkg s k f).flt = s.flt := rfl
@[simp] theorem updPkg_boot (s : State) (k : Nat × Nat) (f : PkgSt → PkgSt) : (updPkg s k f).boot = s.boot := rfl
@[simp] theorem updPkg_bat (s : State) (k : Nat × Nat) (f : PkgSt → PkgSt) : (updPkg s k f).bat = s.bat := rfl
@[simp] theorem updPkg_tel (s : State) (k : Nat × Nat) (f : PkgSt → PkgSt) : (updPkg s k f).tel = s.tel := rfl
@[simp] theorem updPkg_pins (s : State) (k : Nat × Nat) (f : PkgSt → PkgSt) : (updPkg s k f).pins = s.pins := rfl
@[simp] theorem updPkg_sup (s : State) (k : Nat × Nat) (f : PkgSt → PkgSt) : (updPkg s k f).sup = s.sup := rfl
@[simp] theorem updPkg_thm (s : State) (k : Nat × Nat) (f : PkgSt → PkgSt) : (updPkg s k f).thm = s.thm := rfl
@[simp] theorem updPkg_air (s : State) (k : Nat × Nat) (f : PkgSt → PkgSt) : (updPkg s k f).air = s.air := rfl
@[simp] theorem updPkg_dram (s : State) (k : Nat × Nat) (f : PkgSt → PkgSt) : (updPkg s k f).dram = s.dram := rfl
@[simp] theorem updPkg_buf (s : State) (k : Nat × Nat) (f : PkgSt → PkgSt) : (updPkg s k f).buf = s.buf := rfl
@[simp] theorem updPkg_host (s : State) (k : Nat × Nat) (f : PkgSt → PkgSt) : (updPkg s k f).host = s.host := rfl
@[simp] theorem updPkg_hmp (s : State) (k : Nat × Nat) (f : PkgSt → PkgSt) : (updPkg s k f).hmp = s.hmp := rfl
@[simp] theorem updPkg_sec (s : State) (k : Nat × Nat) (f : PkgSt → PkgSt) : (updPkg s k f).sec = s.sec := rfl
@[simp] theorem updPkg_chg (s : State) (k : Nat × Nat) (f : PkgSt → PkgSt) : (updPkg s k f).chg = s.chg := rfl
@[simp] theorem updPkg_prof (s : State) (k : Nat × Nat) (f : PkgSt → PkgSt) : (updPkg s k f).prof = s.prof := rfl
@[simp] theorem updPkg_eav (s : State) (k : Nat × Nat) (f : PkgSt → PkgSt) : (updPkg s k f).eav = s.eav := rfl
@[simp] theorem updPkg_zns (s : State) (k : Nat × Nat) (f : PkgSt → PkgSt) : (updPkg s k f).zns = s.zns := rfl
@[simp] theorem updPkg_adm (s : State) (k : Nat × Nat) (f : PkgSt → PkgSt) : (updPkg s k f).adm = s.adm := rfl
@[simp] theorem updPkg_free (s : State) (k : Nat × Nat) (f : PkgSt → PkgSt) : (updPkg s k f).free = s.free := rfl
@[simp] theorem updPkg_pending (s : State) (k : Nat × Nat) (f : PkgSt → PkgSt) : (updPkg s k f).pending = s.pending := rfl

/-! ### updBlock -/

@[simp] theorem updBlock_tm (s : State) (d : DieNo) (k : Nat) (f : BlockSt → BlockSt) : (updBlock s d k f).tm = s.tm := rfl
@[simp] theorem updBlock_evt (s : State) (d : DieNo) (k : Nat) (f : BlockSt → BlockSt) : (updBlock s d k f).evt = s.evt := rfl
@[simp] theorem updBlock_isl (s : State) (d : DieNo) (k : Nat) (f : BlockSt → BlockSt) : (updBlock s d k f).isl = s.isl := rfl
@[simp] theorem updBlock_flt (s : State) (d : DieNo) (k : Nat) (f : BlockSt → BlockSt) : (updBlock s d k f).flt = s.flt := rfl
@[simp] theorem updBlock_boot (s : State) (d : DieNo) (k : Nat) (f : BlockSt → BlockSt) : (updBlock s d k f).boot = s.boot := rfl
@[simp] theorem updBlock_bat (s : State) (d : DieNo) (k : Nat) (f : BlockSt → BlockSt) : (updBlock s d k f).bat = s.bat := rfl
@[simp] theorem updBlock_tel (s : State) (d : DieNo) (k : Nat) (f : BlockSt → BlockSt) : (updBlock s d k f).tel = s.tel := rfl
@[simp] theorem updBlock_pins (s : State) (d : DieNo) (k : Nat) (f : BlockSt → BlockSt) : (updBlock s d k f).pins = s.pins := rfl
@[simp] theorem updBlock_sup (s : State) (d : DieNo) (k : Nat) (f : BlockSt → BlockSt) : (updBlock s d k f).sup = s.sup := rfl
@[simp] theorem updBlock_thm (s : State) (d : DieNo) (k : Nat) (f : BlockSt → BlockSt) : (updBlock s d k f).thm = s.thm := rfl
@[simp] theorem updBlock_air (s : State) (d : DieNo) (k : Nat) (f : BlockSt → BlockSt) : (updBlock s d k f).air = s.air := rfl
@[simp] theorem updBlock_dram (s : State) (d : DieNo) (k : Nat) (f : BlockSt → BlockSt) : (updBlock s d k f).dram = s.dram := rfl
@[simp] theorem updBlock_buf (s : State) (d : DieNo) (k : Nat) (f : BlockSt → BlockSt) : (updBlock s d k f).buf = s.buf := rfl
@[simp] theorem updBlock_host (s : State) (d : DieNo) (k : Nat) (f : BlockSt → BlockSt) : (updBlock s d k f).host = s.host := rfl
@[simp] theorem updBlock_hmp (s : State) (d : DieNo) (k : Nat) (f : BlockSt → BlockSt) : (updBlock s d k f).hmp = s.hmp := rfl
@[simp] theorem updBlock_sec (s : State) (d : DieNo) (k : Nat) (f : BlockSt → BlockSt) : (updBlock s d k f).sec = s.sec := rfl
@[simp] theorem updBlock_chg (s : State) (d : DieNo) (k : Nat) (f : BlockSt → BlockSt) : (updBlock s d k f).chg = s.chg := rfl
@[simp] theorem updBlock_prof (s : State) (d : DieNo) (k : Nat) (f : BlockSt → BlockSt) : (updBlock s d k f).prof = s.prof := rfl
@[simp] theorem updBlock_eav (s : State) (d : DieNo) (k : Nat) (f : BlockSt → BlockSt) : (updBlock s d k f).eav = s.eav := rfl
@[simp] theorem updBlock_zns (s : State) (d : DieNo) (k : Nat) (f : BlockSt → BlockSt) : (updBlock s d k f).zns = s.zns := rfl
@[simp] theorem updBlock_adm (s : State) (d : DieNo) (k : Nat) (f : BlockSt → BlockSt) : (updBlock s d k f).adm = s.adm := rfl
@[simp] theorem updBlock_free (s : State) (d : DieNo) (k : Nat) (f : BlockSt → BlockSt) : (updBlock s d k f).free = s.free := rfl
@[simp] theorem updBlock_pending (s : State) (d : DieNo) (k : Nat) (f : BlockSt → BlockSt) : (updBlock s d k f).pending = s.pending := rfl

/-! ### updThatch -/

@[simp] theorem updThatch_tm (s : State) (t : Nat) (f : ThatchSt → ThatchSt) : (updThatch s t f).tm = s.tm := rfl
@[simp] theorem updThatch_evt (s : State) (t : Nat) (f : ThatchSt → ThatchSt) : (updThatch s t f).evt = s.evt := rfl
@[simp] theorem updThatch_isl (s : State) (t : Nat) (f : ThatchSt → ThatchSt) : (updThatch s t f).isl = s.isl := rfl
@[simp] theorem updThatch_flt (s : State) (t : Nat) (f : ThatchSt → ThatchSt) : (updThatch s t f).flt = s.flt := rfl
@[simp] theorem updThatch_boot (s : State) (t : Nat) (f : ThatchSt → ThatchSt) : (updThatch s t f).boot = s.boot := rfl
@[simp] theorem updThatch_bat (s : State) (t : Nat) (f : ThatchSt → ThatchSt) : (updThatch s t f).bat = s.bat := rfl
@[simp] theorem updThatch_tel (s : State) (t : Nat) (f : ThatchSt → ThatchSt) : (updThatch s t f).tel = s.tel := rfl
@[simp] theorem updThatch_pins (s : State) (t : Nat) (f : ThatchSt → ThatchSt) : (updThatch s t f).pins = s.pins := rfl
@[simp] theorem updThatch_sup (s : State) (t : Nat) (f : ThatchSt → ThatchSt) : (updThatch s t f).sup = s.sup := rfl
@[simp] theorem updThatch_thm (s : State) (t : Nat) (f : ThatchSt → ThatchSt) : (updThatch s t f).thm = s.thm := rfl
@[simp] theorem updThatch_air (s : State) (t : Nat) (f : ThatchSt → ThatchSt) : (updThatch s t f).air = s.air := rfl
@[simp] theorem updThatch_dram (s : State) (t : Nat) (f : ThatchSt → ThatchSt) : (updThatch s t f).dram = s.dram := rfl
@[simp] theorem updThatch_buf (s : State) (t : Nat) (f : ThatchSt → ThatchSt) : (updThatch s t f).buf = s.buf := rfl
@[simp] theorem updThatch_host (s : State) (t : Nat) (f : ThatchSt → ThatchSt) : (updThatch s t f).host = s.host := rfl
@[simp] theorem updThatch_hmp (s : State) (t : Nat) (f : ThatchSt → ThatchSt) : (updThatch s t f).hmp = s.hmp := rfl
@[simp] theorem updThatch_sec (s : State) (t : Nat) (f : ThatchSt → ThatchSt) : (updThatch s t f).sec = s.sec := rfl
@[simp] theorem updThatch_chg (s : State) (t : Nat) (f : ThatchSt → ThatchSt) : (updThatch s t f).chg = s.chg := rfl
@[simp] theorem updThatch_prof (s : State) (t : Nat) (f : ThatchSt → ThatchSt) : (updThatch s t f).prof = s.prof := rfl
@[simp] theorem updThatch_eav (s : State) (t : Nat) (f : ThatchSt → ThatchSt) : (updThatch s t f).eav = s.eav := rfl
@[simp] theorem updThatch_zns (s : State) (t : Nat) (f : ThatchSt → ThatchSt) : (updThatch s t f).zns = s.zns := rfl
@[simp] theorem updThatch_adm (s : State) (t : Nat) (f : ThatchSt → ThatchSt) : (updThatch s t f).adm = s.adm := rfl
@[simp] theorem updThatch_free (s : State) (t : Nat) (f : ThatchSt → ThatchSt) : (updThatch s t f).free = s.free := rfl
@[simp] theorem updThatch_pending (s : State) (t : Nat) (f : ThatchSt → ThatchSt) : (updThatch s t f).pending = s.pending := rfl

/-! ### updChan -/

@[simp] theorem updChan_tm (s : State) (c : Nat) (f : ChanSt → ChanSt) : (updChan s c f).tm = s.tm := rfl
@[simp] theorem updChan_evt (s : State) (c : Nat) (f : ChanSt → ChanSt) : (updChan s c f).evt = s.evt := rfl
@[simp] theorem updChan_isl (s : State) (c : Nat) (f : ChanSt → ChanSt) : (updChan s c f).isl = s.isl := rfl
@[simp] theorem updChan_flt (s : State) (c : Nat) (f : ChanSt → ChanSt) : (updChan s c f).flt = s.flt := rfl
@[simp] theorem updChan_boot (s : State) (c : Nat) (f : ChanSt → ChanSt) : (updChan s c f).boot = s.boot := rfl
@[simp] theorem updChan_bat (s : State) (c : Nat) (f : ChanSt → ChanSt) : (updChan s c f).bat = s.bat := rfl
@[simp] theorem updChan_tel (s : State) (c : Nat) (f : ChanSt → ChanSt) : (updChan s c f).tel = s.tel := rfl
@[simp] theorem updChan_pins (s : State) (c : Nat) (f : ChanSt → ChanSt) : (updChan s c f).pins = s.pins := rfl
@[simp] theorem updChan_sup (s : State) (c : Nat) (f : ChanSt → ChanSt) : (updChan s c f).sup = s.sup := rfl
@[simp] theorem updChan_thm (s : State) (c : Nat) (f : ChanSt → ChanSt) : (updChan s c f).thm = s.thm := rfl
@[simp] theorem updChan_air (s : State) (c : Nat) (f : ChanSt → ChanSt) : (updChan s c f).air = s.air := rfl
@[simp] theorem updChan_dram (s : State) (c : Nat) (f : ChanSt → ChanSt) : (updChan s c f).dram = s.dram := rfl
@[simp] theorem updChan_buf (s : State) (c : Nat) (f : ChanSt → ChanSt) : (updChan s c f).buf = s.buf := rfl
@[simp] theorem updChan_host (s : State) (c : Nat) (f : ChanSt → ChanSt) : (updChan s c f).host = s.host := rfl
@[simp] theorem updChan_hmp (s : State) (c : Nat) (f : ChanSt → ChanSt) : (updChan s c f).hmp = s.hmp := rfl
@[simp] theorem updChan_sec (s : State) (c : Nat) (f : ChanSt → ChanSt) : (updChan s c f).sec = s.sec := rfl
@[simp] theorem updChan_chg (s : State) (c : Nat) (f : ChanSt → ChanSt) : (updChan s c f).chg = s.chg := rfl
@[simp] theorem updChan_prof (s : State) (c : Nat) (f : ChanSt → ChanSt) : (updChan s c f).prof = s.prof := rfl
@[simp] theorem updChan_eav (s : State) (c : Nat) (f : ChanSt → ChanSt) : (updChan s c f).eav = s.eav := rfl
@[simp] theorem updChan_zns (s : State) (c : Nat) (f : ChanSt → ChanSt) : (updChan s c f).zns = s.zns := rfl
@[simp] theorem updChan_adm (s : State) (c : Nat) (f : ChanSt → ChanSt) : (updChan s c f).adm = s.adm := rfl
@[simp] theorem updChan_free (s : State) (c : Nat) (f : ChanSt → ChanSt) : (updChan s c f).free = s.free := rfl
@[simp] theorem updChan_pending (s : State) (c : Nat) (f : ChanSt → ChanSt) : (updChan s c f).pending = s.pending := rfl

/-! ### updDesc -/

@[simp] theorem updDesc_tm (s : State) (d : Desc) (f : Desc → Desc) : (updDesc s d f).tm = s.tm := rfl
@[simp] theorem updDesc_evt (s : State) (d : Desc) (f : Desc → Desc) : (updDesc s d f).evt = s.evt := rfl
@[simp] theorem updDesc_isl (s : State) (d : Desc) (f : Desc → Desc) : (updDesc s d f).isl = s.isl := rfl
@[simp] theorem updDesc_flt (s : State) (d : Desc) (f : Desc → Desc) : (updDesc s d f).flt = s.flt := rfl
@[simp] theorem updDesc_boot (s : State) (d : Desc) (f : Desc → Desc) : (updDesc s d f).boot = s.boot := rfl
@[simp] theorem updDesc_bat (s : State) (d : Desc) (f : Desc → Desc) : (updDesc s d f).bat = s.bat := rfl
@[simp] theorem updDesc_tel (s : State) (d : Desc) (f : Desc → Desc) : (updDesc s d f).tel = s.tel := rfl
@[simp] theorem updDesc_pins (s : State) (d : Desc) (f : Desc → Desc) : (updDesc s d f).pins = s.pins := rfl
@[simp] theorem updDesc_sup (s : State) (d : Desc) (f : Desc → Desc) : (updDesc s d f).sup = s.sup := rfl
@[simp] theorem updDesc_thm (s : State) (d : Desc) (f : Desc → Desc) : (updDesc s d f).thm = s.thm := rfl
@[simp] theorem updDesc_air (s : State) (d : Desc) (f : Desc → Desc) : (updDesc s d f).air = s.air := rfl
@[simp] theorem updDesc_dram (s : State) (d : Desc) (f : Desc → Desc) : (updDesc s d f).dram = s.dram := rfl
@[simp] theorem updDesc_buf (s : State) (d : Desc) (f : Desc → Desc) : (updDesc s d f).buf = s.buf := rfl
@[simp] theorem updDesc_host (s : State) (d : Desc) (f : Desc → Desc) : (updDesc s d f).host = s.host := rfl
@[simp] theorem updDesc_hmp (s : State) (d : Desc) (f : Desc → Desc) : (updDesc s d f).hmp = s.hmp := rfl
@[simp] theorem updDesc_sec (s : State) (d : Desc) (f : Desc → Desc) : (updDesc s d f).sec = s.sec := rfl
@[simp] theorem updDesc_chg (s : State) (d : Desc) (f : Desc → Desc) : (updDesc s d f).chg = s.chg := rfl
@[simp] theorem updDesc_prof (s : State) (d : Desc) (f : Desc → Desc) : (updDesc s d f).prof = s.prof := rfl
@[simp] theorem updDesc_eav (s : State) (d : Desc) (f : Desc → Desc) : (updDesc s d f).eav = s.eav := rfl
@[simp] theorem updDesc_zns (s : State) (d : Desc) (f : Desc → Desc) : (updDesc s d f).zns = s.zns := rfl
@[simp] theorem updDesc_adm (s : State) (d : Desc) (f : Desc → Desc) : (updDesc s d f).adm = s.adm := rfl
@[simp] theorem updDesc_free (s : State) (d : Desc) (f : Desc → Desc) : (updDesc s d f).free = s.free := rfl
@[simp] theorem updDesc_pending (s : State) (d : Desc) (f : Desc → Desc) : (updDesc s d f).pending = s.pending := rfl

/-! ### updZone -/

@[simp] theorem updZone_tm (s : State) (nsid z : Nat) (f : ZoneSt → ZoneSt) : (updZone s nsid z f).tm = s.tm := rfl
@[simp] theorem updZone_evt (s : State) (nsid z : Nat) (f : ZoneSt → ZoneSt) : (updZone s nsid z f).evt = s.evt := rfl
@[simp] theorem updZone_isl (s : State) (nsid z : Nat) (f : ZoneSt → ZoneSt) : (updZone s nsid z f).isl = s.isl := rfl
@[simp] theorem updZone_flt (s : State) (nsid z : Nat) (f : ZoneSt → ZoneSt) : (updZone s nsid z f).flt = s.flt := rfl
@[simp] theorem updZone_boot (s : State) (nsid z : Nat) (f : ZoneSt → ZoneSt) : (updZone s nsid z f).boot = s.boot := rfl
@[simp] theorem updZone_bat (s : State) (nsid z : Nat) (f : ZoneSt → ZoneSt) : (updZone s nsid z f).bat = s.bat := rfl
@[simp] theorem updZone_tel (s : State) (nsid z : Nat) (f : ZoneSt → ZoneSt) : (updZone s nsid z f).tel = s.tel := rfl
@[simp] theorem updZone_pins (s : State) (nsid z : Nat) (f : ZoneSt → ZoneSt) : (updZone s nsid z f).pins = s.pins := rfl
@[simp] theorem updZone_sup (s : State) (nsid z : Nat) (f : ZoneSt → ZoneSt) : (updZone s nsid z f).sup = s.sup := rfl
@[simp] theorem updZone_thm (s : State) (nsid z : Nat) (f : ZoneSt → ZoneSt) : (updZone s nsid z f).thm = s.thm := rfl
@[simp] theorem updZone_air (s : State) (nsid z : Nat) (f : ZoneSt → ZoneSt) : (updZone s nsid z f).air = s.air := rfl
@[simp] theorem updZone_dram (s : State) (nsid z : Nat) (f : ZoneSt → ZoneSt) : (updZone s nsid z f).dram = s.dram := rfl
@[simp] theorem updZone_buf (s : State) (nsid z : Nat) (f : ZoneSt → ZoneSt) : (updZone s nsid z f).buf = s.buf := rfl
@[simp] theorem updZone_host (s : State) (nsid z : Nat) (f : ZoneSt → ZoneSt) : (updZone s nsid z f).host = s.host := rfl
@[simp] theorem updZone_hmp (s : State) (nsid z : Nat) (f : ZoneSt → ZoneSt) : (updZone s nsid z f).hmp = s.hmp := rfl
@[simp] theorem updZone_sec (s : State) (nsid z : Nat) (f : ZoneSt → ZoneSt) : (updZone s nsid z f).sec = s.sec := rfl
@[simp] theorem updZone_chg (s : State) (nsid z : Nat) (f : ZoneSt → ZoneSt) : (updZone s nsid z f).chg = s.chg := rfl
@[simp] theorem updZone_prof (s : State) (nsid z : Nat) (f : ZoneSt → ZoneSt) : (updZone s nsid z f).prof = s.prof := rfl
@[simp] theorem updZone_fl (s : State) (nsid z : Nat) (f : ZoneSt → ZoneSt) : (updZone s nsid z f).fl = s.fl := rfl
@[simp] theorem updZone_eav (s : State) (nsid z : Nat) (f : ZoneSt → ZoneSt) : (updZone s nsid z f).eav = s.eav := rfl
@[simp] theorem updZone_adm (s : State) (nsid z : Nat) (f : ZoneSt → ZoneSt) : (updZone s nsid z f).adm = s.adm := rfl
@[simp] theorem updZone_free (s : State) (nsid z : Nat) (f : ZoneSt → ZoneSt) : (updZone s nsid z f).free = s.free := rfl
@[simp] theorem updZone_pending (s : State) (nsid z : Nat) (f : ZoneSt → ZoneSt) : (updZone s nsid z f).pending = s.pending := rfl

/-! ### updNs -/

@[simp] theorem updNs_tm (s : State) (nsid : Nat) (g : NsSt → NsSt) : (updNs s nsid g).tm = s.tm := rfl
@[simp] theorem updNs_evt (s : State) (nsid : Nat) (g : NsSt → NsSt) : (updNs s nsid g).evt = s.evt := rfl
@[simp] theorem updNs_isl (s : State) (nsid : Nat) (g : NsSt → NsSt) : (updNs s nsid g).isl = s.isl := rfl
@[simp] theorem updNs_flt (s : State) (nsid : Nat) (g : NsSt → NsSt) : (updNs s nsid g).flt = s.flt := rfl
@[simp] theorem updNs_boot (s : State) (nsid : Nat) (g : NsSt → NsSt) : (updNs s nsid g).boot = s.boot := rfl
@[simp] theorem updNs_bat (s : State) (nsid : Nat) (g : NsSt → NsSt) : (updNs s nsid g).bat = s.bat := rfl
@[simp] theorem updNs_tel (s : State) (nsid : Nat) (g : NsSt → NsSt) : (updNs s nsid g).tel = s.tel := rfl
@[simp] theorem updNs_pins (s : State) (nsid : Nat) (g : NsSt → NsSt) : (updNs s nsid g).pins = s.pins := rfl
@[simp] theorem updNs_sup (s : State) (nsid : Nat) (g : NsSt → NsSt) : (updNs s nsid g).sup = s.sup := rfl
@[simp] theorem updNs_thm (s : State) (nsid : Nat) (g : NsSt → NsSt) : (updNs s nsid g).thm = s.thm := rfl
@[simp] theorem updNs_air (s : State) (nsid : Nat) (g : NsSt → NsSt) : (updNs s nsid g).air = s.air := rfl
@[simp] theorem updNs_dram (s : State) (nsid : Nat) (g : NsSt → NsSt) : (updNs s nsid g).dram = s.dram := rfl
@[simp] theorem updNs_buf (s : State) (nsid : Nat) (g : NsSt → NsSt) : (updNs s nsid g).buf = s.buf := rfl
@[simp] theorem updNs_host (s : State) (nsid : Nat) (g : NsSt → NsSt) : (updNs s nsid g).host = s.host := rfl
@[simp] theorem updNs_hmp (s : State) (nsid : Nat) (g : NsSt → NsSt) : (updNs s nsid g).hmp = s.hmp := rfl
@[simp] theorem updNs_sec (s : State) (nsid : Nat) (g : NsSt → NsSt) : (updNs s nsid g).sec = s.sec := rfl
@[simp] theorem updNs_chg (s : State) (nsid : Nat) (g : NsSt → NsSt) : (updNs s nsid g).chg = s.chg := rfl
@[simp] theorem updNs_prof (s : State) (nsid : Nat) (g : NsSt → NsSt) : (updNs s nsid g).prof = s.prof := rfl
@[simp] theorem updNs_fl (s : State) (nsid : Nat) (g : NsSt → NsSt) : (updNs s nsid g).fl = s.fl := rfl
@[simp] theorem updNs_eav (s : State) (nsid : Nat) (g : NsSt → NsSt) : (updNs s nsid g).eav = s.eav := rfl
@[simp] theorem updNs_adm (s : State) (nsid : Nat) (g : NsSt → NsSt) : (updNs s nsid g).adm = s.adm := rfl
@[simp] theorem updNs_free (s : State) (nsid : Nat) (g : NsSt → NsSt) : (updNs s nsid g).free = s.free := rfl
@[simp] theorem updNs_pending (s : State) (nsid : Nat) (g : NsSt → NsSt) : (updNs s nsid g).pending = s.pending := rfl

/-! ### updCmd -/

@[simp] theorem updCmd_tm (s : State) (c : Cmd) (g : Cmd → Cmd) : (updCmd s c g).tm = s.tm := rfl
@[simp] theorem updCmd_evt (s : State) (c : Cmd) (g : Cmd → Cmd) : (updCmd s c g).evt = s.evt := rfl
@[simp] theorem updCmd_isl (s : State) (c : Cmd) (g : Cmd → Cmd) : (updCmd s c g).isl = s.isl := rfl
@[simp] theorem updCmd_flt (s : State) (c : Cmd) (g : Cmd → Cmd) : (updCmd s c g).flt = s.flt := rfl
@[simp] theorem updCmd_boot (s : State) (c : Cmd) (g : Cmd → Cmd) : (updCmd s c g).boot = s.boot := rfl
@[simp] theorem updCmd_bat (s : State) (c : Cmd) (g : Cmd → Cmd) : (updCmd s c g).bat = s.bat := rfl
@[simp] theorem updCmd_tel (s : State) (c : Cmd) (g : Cmd → Cmd) : (updCmd s c g).tel = s.tel := rfl
@[simp] theorem updCmd_pins (s : State) (c : Cmd) (g : Cmd → Cmd) : (updCmd s c g).pins = s.pins := rfl
@[simp] theorem updCmd_sup (s : State) (c : Cmd) (g : Cmd → Cmd) : (updCmd s c g).sup = s.sup := rfl
@[simp] theorem updCmd_thm (s : State) (c : Cmd) (g : Cmd → Cmd) : (updCmd s c g).thm = s.thm := rfl
@[simp] theorem updCmd_air (s : State) (c : Cmd) (g : Cmd → Cmd) : (updCmd s c g).air = s.air := rfl
@[simp] theorem updCmd_dram (s : State) (c : Cmd) (g : Cmd → Cmd) : (updCmd s c g).dram = s.dram := rfl
@[simp] theorem updCmd_buf (s : State) (c : Cmd) (g : Cmd → Cmd) : (updCmd s c g).buf = s.buf := rfl
@[simp] theorem updCmd_host (s : State) (c : Cmd) (g : Cmd → Cmd) : (updCmd s c g).host = s.host := rfl
@[simp] theorem updCmd_hmp (s : State) (c : Cmd) (g : Cmd → Cmd) : (updCmd s c g).hmp = s.hmp := rfl
@[simp] theorem updCmd_sec (s : State) (c : Cmd) (g : Cmd → Cmd) : (updCmd s c g).sec = s.sec := rfl
@[simp] theorem updCmd_chg (s : State) (c : Cmd) (g : Cmd → Cmd) : (updCmd s c g).chg = s.chg := rfl
@[simp] theorem updCmd_prof (s : State) (c : Cmd) (g : Cmd → Cmd) : (updCmd s c g).prof = s.prof := rfl
@[simp] theorem updCmd_fl (s : State) (c : Cmd) (g : Cmd → Cmd) : (updCmd s c g).fl = s.fl := rfl
@[simp] theorem updCmd_eav (s : State) (c : Cmd) (g : Cmd → Cmd) : (updCmd s c g).eav = s.eav := rfl
@[simp] theorem updCmd_zns (s : State) (c : Cmd) (g : Cmd → Cmd) : (updCmd s c g).zns = s.zns := rfl
@[simp] theorem updCmd_free (s : State) (c : Cmd) (g : Cmd → Cmd) : (updCmd s c g).free = s.free := rfl
@[simp] theorem updCmd_pending (s : State) (c : Cmd) (g : Cmd → Cmd) : (updCmd s c g).pending = s.pending := rfl

/-! ### updDram -/

@[simp] theorem updDram_tm (s : State) (c : Bool) (f : DramCh → DramCh) : (updDram s c f).tm = s.tm := by cases c <;> rfl
@[simp] theorem updDram_evt (s : State) (c : Bool) (f : DramCh → DramCh) : (updDram s c f).evt = s.evt := by cases c <;> rfl
@[simp] theorem updDram_isl (s : State) (c : Bool) (f : DramCh → DramCh) : (updDram s c f).isl = s.isl := by cases c <;> rfl
@[simp] theorem updDram_flt (s : State) (c : Bool) (f : DramCh → DramCh) : (updDram s c f).flt = s.flt := by cases c <;> rfl
@[simp] theorem updDram_boot (s : State) (c : Bool) (f : DramCh → DramCh) : (updDram s c f).boot = s.boot := by cases c <;> rfl
@[simp] theorem updDram_bat (s : State) (c : Bool) (f : DramCh → DramCh) : (updDram s c f).bat = s.bat := by cases c <;> rfl
@[simp] theorem updDram_tel (s : State) (c : Bool) (f : DramCh → DramCh) : (updDram s c f).tel = s.tel := by cases c <;> rfl
@[simp] theorem updDram_pins (s : State) (c : Bool) (f : DramCh → DramCh) : (updDram s c f).pins = s.pins := by cases c <;> rfl
@[simp] theorem updDram_sup (s : State) (c : Bool) (f : DramCh → DramCh) : (updDram s c f).sup = s.sup := by cases c <;> rfl
@[simp] theorem updDram_thm (s : State) (c : Bool) (f : DramCh → DramCh) : (updDram s c f).thm = s.thm := by cases c <;> rfl
@[simp] theorem updDram_air (s : State) (c : Bool) (f : DramCh → DramCh) : (updDram s c f).air = s.air := by cases c <;> rfl
@[simp] theorem updDram_buf (s : State) (c : Bool) (f : DramCh → DramCh) : (updDram s c f).buf = s.buf := by cases c <;> rfl
@[simp] theorem updDram_host (s : State) (c : Bool) (f : DramCh → DramCh) : (updDram s c f).host = s.host := by cases c <;> rfl
@[simp] theorem updDram_hmp (s : State) (c : Bool) (f : DramCh → DramCh) : (updDram s c f).hmp = s.hmp := by cases c <;> rfl
@[simp] theorem updDram_sec (s : State) (c : Bool) (f : DramCh → DramCh) : (updDram s c f).sec = s.sec := by cases c <;> rfl
@[simp] theorem updDram_chg (s : State) (c : Bool) (f : DramCh → DramCh) : (updDram s c f).chg = s.chg := by cases c <;> rfl
@[simp] theorem updDram_prof (s : State) (c : Bool) (f : DramCh → DramCh) : (updDram s c f).prof = s.prof := by cases c <;> rfl
@[simp] theorem updDram_fl (s : State) (c : Bool) (f : DramCh → DramCh) : (updDram s c f).fl = s.fl := by cases c <;> rfl
@[simp] theorem updDram_eav (s : State) (c : Bool) (f : DramCh → DramCh) : (updDram s c f).eav = s.eav := by cases c <;> rfl
@[simp] theorem updDram_zns (s : State) (c : Bool) (f : DramCh → DramCh) : (updDram s c f).zns = s.zns := by cases c <;> rfl
@[simp] theorem updDram_adm (s : State) (c : Bool) (f : DramCh → DramCh) : (updDram s c f).adm = s.adm := by cases c <;> rfl
@[simp] theorem updDram_free (s : State) (c : Bool) (f : DramCh → DramCh) : (updDram s c f).free = s.free := by cases c <;> rfl

/-! ### updRank -/

@[simp] theorem updRank_tm (s : State) (c : Bool) (r : Nat) (f : RankSt → RankSt) : (updRank s c r f).tm = s.tm := by cases c <;> rfl
@[simp] theorem updRank_evt (s : State) (c : Bool) (r : Nat) (f : RankSt → RankSt) : (updRank s c r f).evt = s.evt := by cases c <;> rfl
@[simp] theorem updRank_isl (s : State) (c : Bool) (r : Nat) (f : RankSt → RankSt) : (updRank s c r f).isl = s.isl := by cases c <;> rfl
@[simp] theorem updRank_flt (s : State) (c : Bool) (r : Nat) (f : RankSt → RankSt) : (updRank s c r f).flt = s.flt := by cases c <;> rfl
@[simp] theorem updRank_boot (s : State) (c : Bool) (r : Nat) (f : RankSt → RankSt) : (updRank s c r f).boot = s.boot := by cases c <;> rfl
@[simp] theorem updRank_bat (s : State) (c : Bool) (r : Nat) (f : RankSt → RankSt) : (updRank s c r f).bat = s.bat := by cases c <;> rfl
@[simp] theorem updRank_tel (s : State) (c : Bool) (r : Nat) (f : RankSt → RankSt) : (updRank s c r f).tel = s.tel := by cases c <;> rfl
@[simp] theorem updRank_pins (s : State) (c : Bool) (r : Nat) (f : RankSt → RankSt) : (updRank s c r f).pins = s.pins := by cases c <;> rfl
@[simp] theorem updRank_sup (s : State) (c : Bool) (r : Nat) (f : RankSt → RankSt) : (updRank s c r f).sup = s.sup := by cases c <;> rfl
@[simp] theorem updRank_thm (s : State) (c : Bool) (r : Nat) (f : RankSt → RankSt) : (updRank s c r f).thm = s.thm := by cases c <;> rfl
@[simp] theorem updRank_air (s : State) (c : Bool) (r : Nat) (f : RankSt → RankSt) : (updRank s c r f).air = s.air := by cases c <;> rfl
@[simp] theorem updRank_buf (s : State) (c : Bool) (r : Nat) (f : RankSt → RankSt) : (updRank s c r f).buf = s.buf := by cases c <;> rfl
@[simp] theorem updRank_host (s : State) (c : Bool) (r : Nat) (f : RankSt → RankSt) : (updRank s c r f).host = s.host := by cases c <;> rfl
@[simp] theorem updRank_hmp (s : State) (c : Bool) (r : Nat) (f : RankSt → RankSt) : (updRank s c r f).hmp = s.hmp := by cases c <;> rfl
@[simp] theorem updRank_sec (s : State) (c : Bool) (r : Nat) (f : RankSt → RankSt) : (updRank s c r f).sec = s.sec := by cases c <;> rfl
@[simp] theorem updRank_chg (s : State) (c : Bool) (r : Nat) (f : RankSt → RankSt) : (updRank s c r f).chg = s.chg := by cases c <;> rfl
@[simp] theorem updRank_prof (s : State) (c : Bool) (r : Nat) (f : RankSt → RankSt) : (updRank s c r f).prof = s.prof := by cases c <;> rfl
@[simp] theorem updRank_fl (s : State) (c : Bool) (r : Nat) (f : RankSt → RankSt) : (updRank s c r f).fl = s.fl := by cases c <;> rfl
@[simp] theorem updRank_eav (s : State) (c : Bool) (r : Nat) (f : RankSt → RankSt) : (updRank s c r f).eav = s.eav := by cases c <;> rfl
@[simp] theorem updRank_zns (s : State) (c : Bool) (r : Nat) (f : RankSt → RankSt) : (updRank s c r f).zns = s.zns := by cases c <;> rfl
@[simp] theorem updRank_adm (s : State) (c : Bool) (r : Nat) (f : RankSt → RankSt) : (updRank s c r f).adm = s.adm := by cases c <;> rfl
@[simp] theorem updRank_free (s : State) (c : Bool) (r : Nat) (f : RankSt → RankSt) : (updRank s c r f).free = s.free := by cases c <;> rfl
@[simp] theorem updRank_pending (s : State) (c : Bool) (r : Nat) (f : RankSt → RankSt) : (updRank s c r f).pending = s.pending := by cases c <;> rfl

end Sys2Proof.Machine
end

