-- ==== Sys2Proof/Machine/Balls.lean ====
section
/-! DEFINITION. Balls, pad groups, pad states and connections (R427 to R437): what each ball carries, which supply powers it, and the level that the
pad ring gives it in a state. No row of the command table reads a pad; these functions say what a state shows outside. -/

namespace Sys2Proof.Machine

/-! ### Rows (R427) -/

/-- Letters that name rows, in order: I, O, Q, R, S, X and Z are never used. -/
def rowLetters : List Char := "ABCDEFGHJKLMNPTUVWY".toList

/-- Row name of an index from 1 to 46 (Table 21.1). -/
def rowName (i : Nat) : List Char :=
  let k := i - 1
  (if 2 ≤ k / 19 then ['B'] else if k / 19 = 1 then ['A'] else []) ++ [rowLetters.getD (k % 19) '?']

/-! ### Signals -/

/-- Signals of a flash channel (R133, Table 21.3). -/
inductive FlashPin where
  | dq (n : Nat)
  | dqsT
  | dqsC
  | reT
  | reC
  | weN
  | ale
  | cle
  | ceN (n : Nat)
  | wpN
  | rbN
  deriving DecidableEq, Repr

/-- Signals of a DRAM channel (R431); `y` is the subchannel. -/
inductive DramPin where
  | dq (y n : Nat)
  | cb (y n : Nat)
  | dqsT (y lane : Nat)
  | dqsC (y lane : Nat)
  | ca (y n : Nat)
  | csN (y n : Nat)
  | ckT (y : Nat)
  | ckC (y : Nat)
  | alertN (y : Nat)
  | resetN
  | zq
  deriving DecidableEq, Repr

/-- Signals of the PCIe area (R432). -/
inductive PciePin where
  | rxP (lane : Nat)
  | rxN (lane : Nat)
  | txP (lane : Nat)
  | txN (lane : Nat)
  | refclkT
  | refclkC
  | perstN
  | clkreqN
  | resref
  deriving DecidableEq, Repr

/-- Signals of the low-speed area (Table 21.5). -/
inductive LowPin where
  | clkSysrefT | clkSysrefC | clkAonXi | clkAonXo
  | sbAlive | sbThermtripN | sbLedActN | sbLedFltN
  | spiClk | spiCsN | spiIo (n : Nat)
  | mgtScl | mgtSda | mgtAlertN
  | pwrDis | pwrScl | pwrSda | pwrAlertN | pwrPmicGood | pwrSeqEn | pwrHuEn | pwrChgEn | pwrAuditEn | pwrV12Sns | pwrHuSns
  | tstTck | tstTms | tstTdi | tstTdo | tstTrstN | tstMode
  | strapSmbAddr (n : Nat) | strapMgtI3c
  | fchZq (half : Nat)
  | thsP (n : Nat) | thsN (n : Nat)
  | afePwm (n : Nat) | afeDrvEn | afeDrvFaultN | afeClamp | afeClampFb | afeIsnsP | afeIsnsN | afeVbus
  | rsvd
  deriving DecidableEq, Repr

/-- What a ball carries: a rail of Table 17.2 by its place there, ground, or a signal. -/
inductive Ball where
  | vss
  | vssaAfe
  | rail (r : Nat)
  | flash (channel : Nat) (pin : FlashPin)
  | dram (chB : Bool) (pin : DramPin)
  | pcie (pin : PciePin)
  | low (pin : LowPin)
  deriving DecidableEq, Repr

/-! ### Flash balls (R429, R430) -/

/-- Pattern of channel 00 at row 1 to 4 and column offset 0 to 4 (Table 21.3); none is its VSS ball. -/
def flashPattern (row col : Nat) : Option FlashPin :=
  match row, col with
  | 1, 0 => some (.dq 0)
  | 1, 1 => some (.dq 1)
  | 1, 2 => some .dqsT
  | 1, 3 => some (.dq 2)
  | 1, 4 => some (.dq 3)
  | 2, 0 => some (.dq 4)
  | 2, 1 => some (.dq 5)
  | 2, 2 => some .dqsC
  | 2, 3 => some (.dq 6)
  | 2, 4 => some (.dq 7)
  | 3, 0 => some .reT
  | 3, 1 => some .reC
  | 3, 3 => some .weN
  | 3, 4 => some .ale
  | 4, 0 => some .cle
  | 4, 1 => some (.ceN 0)
  | 4, 2 => some (.ceN 1)
  | 4, 3 => some .wpN
  | 4, 4 => some .rbN
  | _, _ => none

/-- Row of the pattern and channel of a flash row: 1 to 8 for half 0, 39 to 46 for half 1 (R429). -/
def flashRow (row : Nat) : Nat × Nat :=
  if row ≤ 8 then ((row - 1) % 4 + 1, (row - 1) / 4 * 8)
  else ((row - 39) % 4 + 1, 16 + (1 - (row - 39) / 4) * 8)

/-- A ball of a flash area at columns 4 to 43. -/
def flashBall (row col : Nat) : Ball :=
  match flashPattern (flashRow row).1 ((col - 4) % 5) with
  | some p => .flash ((flashRow row).2 + (col - 4) / 5) p
  | none => .vss

/-- A ball of a flash supply corner (R430). -/
def cornerBall (row col : Nat) : Ball :=
  if (row + col) % 2 = 1 then .vss else if row ≤ 8 then .rail 7 else .rail 8

/-! ### DRAM balls (R431) -/

/-- Rows of byte lanes 0 to 4 of a DRAM subchannel at column 1 to 5 (Table 21.4, with its exceptions); `rail` is its VDDQ. -/
def laneBall (chB : Bool) (y lane row col : Nat) : Ball :=
  let bit (n : Nat) : Ball := .dram chB (if lane = 4 then .cb y n else .dq y (8 * lane + n))
  let vddq : Ball := .rail (if chB then 6 else 5)
  match row, col with
  | 0, 1 => bit 0
  | 0, 2 => bit 1
  | 0, 3 => if lane = 4 then vddq else if lane = 3 && y == 1 then .dram chB .resetN else .vss
  | 0, 4 => bit 2
  | 0, 5 => bit 3
  | 1, 1 => vddq
  | 1, 2 => .dram chB (.dqsT y lane)
  | 1, 3 => .dram chB (.dqsC y lane)
  | 1, 4 => if lane = 4 then .dram chB (.alertN y) else .vss
  | 1, 5 => vddq
  | 2, 1 => bit 4
  | 2, 2 => bit 5
  | 2, 3 => if lane = 4 then vddq else if lane = 3 && y == 1 then .dram chB .zq else .vss
  | 2, 4 => bit 6
  | 2, 5 => bit 7
  | _, _ => .vss

/-- Command rows AU to AY of a DRAM subchannel at column 1 to 5 (Table 21.4). -/
def commandBall (chB : Bool) (y row col : Nat) : Ball :=
  match row, col with
  | 1, 3 => .dram chB (.ckT y)
  | 1, 4 => .dram chB (.ckC y)
  | 3, 1 => .dram chB (.ca y 13)
  | 0, c => .dram chB (.ca y (c - 1))
  | 1, 5 => .dram chB (.ca y 7)
  | 1, c => .dram chB (.ca y (c + 4))
  | 2, c => .dram chB (.ca y (c + 7))
  | _, c => .dram chB (.csN y (c - 2))

/-- A ball of a DRAM area by DA's columns 1 to 10; rows are 20 to 38. -/
def dramBall (chB : Bool) (row col : Nat) : Ball :=
  let y := (col - 1) / 5
  let c := (col - 1) % 5 + 1
  if row < 35 then laneBall chB y ((row - 20) / 3) ((row - 20) % 3) c else commandBall chB y (row - 35) c

/-! ### PCIe, low-speed and core balls (R432 to R434) -/

/-- A ball of the PCIe area: rows 9 to 19, columns 1 to 10. -/
def pcieBall (row col : Nat) : Ball :=
  if (col = 8 || col = 9) && row ≤ 18 then .rail 4
  else match row, col with
    | 9, 1 => .pcie .refclkT
    | 9, 2 => .pcie .refclkC
    | 9, 4 => .pcie .perstN
    | 9, 5 => .pcie .clkreqN
    | 9, 7 => .pcie .resref
    | 9, _ => .vss
    | r, c =>
      if 17 < r then .vss
      else match c with
        | 1 => .pcie (.rxP (r - 10))
        | 2 => .pcie (.rxN (r - 10))
        | 4 => .pcie (.txP (r - 10))
        | 5 => .pcie (.txN (r - 10))
        | _ => .vss

/-- The ten balls of a row of Table 21.5, from column 37 on. -/
def lowRow (row : Nat) : List Ball :=
  let s (p : LowPin) : Ball := .low p
  let ths (a : Nat) : List Ball :=
    [s (.thsP a), s (.thsN a), s (.thsP (a + 1)), s (.thsN (a + 1)), .vss, s (.thsP (a + 2)), s (.thsN (a + 2)),
     s (.thsP (a + 3)), s (.thsN (a + 3)), .rail 9]
  match row with
  | 9 => [s .clkSysrefT, s .clkSysrefC, .vss, s .clkAonXi, s .clkAonXo, .rail 0, .rail 0, .vss, s .sbAlive, s .sbThermtripN]
  | 10 => [s .spiClk, s .spiCsN, s (.spiIo 0), s (.spiIo 1), s (.spiIo 2), s (.spiIo 3), .rail 9, s .sbLedActN, s .sbLedFltN, s .pwrDis]
  | 11 => [s .mgtScl, s .mgtSda, s .mgtAlertN, .rail 9, s .pwrScl, s .pwrSda, s .pwrAlertN, s .pwrPmicGood, s .pwrSeqEn, s .pwrHuEn]
  | 12 => [s .pwrChgEn, s .pwrAuditEn, .rail 9, s .pwrV12Sns, .vss, s .pwrHuSns, .vss, s .tstTck, s .tstTms, s .tstTdi]
  | 13 => [s .tstTdo, s .tstTrstN, s .tstMode, .rail 9, s (.strapSmbAddr 0), s (.strapSmbAddr 1), s .strapMgtI3c, s (.fchZq 0),
           s (.fchZq 1), .vss]
  | 14 => ths 0
  | 15 => ths 4
  | 16 => [s (.afePwm 0), s (.afePwm 1), s (.afePwm 2), s (.afePwm 3), s (.afePwm 4), s (.afePwm 5), .rail 9, s .afeDrvEn,
           s .afeDrvFaultN, s .afeClamp]
  | 17 => [s .afeClampFb, .rail 9, .rail 10, .rail 10, s .afeIsnsP, s .afeIsnsN, .vssaAfe, s .afeVbus, .vssaAfe, .vss]
  | 18 => List.replicate 10 (s .rsvd)
  | 19 => List.replicate 9 (s .rsvd) ++ [.vss]
  | _ => []

/-- A ball of the core area: rows 9 to 38, columns 11 to 36 (R434). -/
def coreBall (row col : Nat) : Ball :=
  if decide (13 ≤ row ∧ row ≤ 32) && decide (12 ≤ col ∧ (col - 12) % 3 = 0) then .rail 1
  else if row = 11 && col ≤ 22 then .rail 2
  else if row = 36 && 25 ≤ col then .rail 2
  else if (row = 23 || row = 24) && [22, 23, 25, 26].contains col then .rail 3
  else .vss

/-- What the ball at a row index and column carries (R428 to R434); none outside the 46 by 46 array. -/
def ball (row col : Nat) : Option Ball :=
  if row < 1 || 46 < row || col < 1 || 46 < col then none
  else some (
    if row ≤ 8 || 39 ≤ row then (if col < 4 || 43 < col then cornerBall row col else flashBall row col)
    else if 11 ≤ col && col ≤ 36 then coreBall row col
    else if row ≤ 19 then (if col ≤ 10 then pcieBall row col else (lowRow row).getD (col - 37) .vss)
    else if col ≤ 10 then dramBall false row col
    else dramBall true row (47 - col))

/-! ### Pad groups (R435) -/

/-- What powers a pad: a rail of Table 17.2, or the AON island's own pad supply. -/
inductive PadGroup where
  | rail (r : Nat)
  | aon
  deriving DecidableEq, Repr

/-- Pad group of a low-speed signal: every PWR_, SB_ and STRAP_ signal, TST_MODE and the crystal pads are the AON island's. -/
def lowGroup : LowPin → PadGroup
  | .clkSysrefT => .rail 3
  | .clkSysrefC => .rail 3
  | .afeIsnsP => .rail 10
  | .afeIsnsN => .rail 10
  | .afeVbus => .rail 10
  | .clkAonXi | .clkAonXo | .sbAlive | .sbThermtripN | .sbLedActN | .sbLedFltN | .pwrDis | .pwrScl | .pwrSda | .pwrAlertN
  | .pwrPmicGood | .pwrSeqEn | .pwrHuEn | .pwrChgEn | .pwrAuditEn | .pwrV12Sns | .pwrHuSns | .tstMode | .strapSmbAddr _
  | .strapMgtI3c => .aon
  | .fchZq h => .rail (7 + h)
  | _ => .rail 9

/-- Pad group of a ball; power and ground balls have none. -/
def padGroup : Ball → Option PadGroup
  | .flash c _ => some (.rail (7 + c / 16))
  | .dram chB _ => some (.rail (if chB then 6 else 5))
  | .pcie .refclkT => some (.rail 3)
  | .pcie .refclkC => some (.rail 3)
  | .pcie _ => some (.rail 4)
  | .low p => some (lowGroup p)
  | _ => none

/-- The supply of a group is up: VDD_AON while the AON island runs, every other rail while PWR_SEQ_EN lets the PMIC raise it. -/
def groupUp (s : State) : PadGroup → Bool
  | .aon => isRunning s 0
  | .rail 0 => isRunning s 0
  | .rail _ => isRunning s 0 && s.sup.seqEn

/-- Pads that may be driven while they are unpowered (R435). -/
def failSafe : Ball → Bool
  | .pcie .perstN => true
  | .pcie .clkreqN => true
  | .low .mgtScl | .low .mgtSda | .low .mgtAlertN | .low .pwrScl | .low .pwrSda | .low .pwrAlertN | .low .pwrDis | .low .pwrPmicGood
  | .low .sbAlive | .low .sbThermtripN | .low .sbLedActN | .low .sbLedFltN => true
  | _ => false

/-! ### Pad states (R436, Table 21.6) -/

/-- What a pad shows or takes. `asUnit`: what its interface carries at the moment. -/
inductive PadState where
  | highZ
  | failSafe
  | low
  | high
  | released
  | electricalIdle
  | linkIdle (st : LinkPower)
  | ignored
  | sampled
  | converted
  | active
  | asUnit
  deriving DecidableEq, Repr

/-- A level. -/
def padLevel (b : Bool) : PadState := if b then .high else .low

/-- An open-drain output that sinks while its signal is low. -/
def padDrain (level : Bool) : PadState := if level then .released else .low

/-- Island that owns a pad. -/
def padOwner : Ball → Nat
  | .flash c _ => chIsland c
  | .dram chB _ => if chB then 7 else 6
  | .pcie _ => 1
  | .low p => match p with
    | .spiClk | .spiCsN | .spiIo _ => 4
    | .mgtScl | .mgtSda | .mgtAlertN => 3
    | .afePwm _ | .afeDrvEn | .afeDrvFaultN | .afeClamp | .afeClampFb | .afeIsnsP | .afeIsnsN | .afeVbus => 9
    | _ => 0
  | _ => 0

/-- Reset column of Table 21.6. -/
def padReset : Ball → PadState
  | .flash _ p => match p with
    | .reT => .high
    | .reC => .low
    | .weN => .high
    | .ceN _ => .high
    | .ale => .low
    | .cle => .low
    | .wpN => .low
    | .rbN => .ignored
    | _ => .highZ
  | .dram _ p => match p with
    | .csN _ _ => .high
    | .ca _ _ => .low
    | .ckT _ => .low
    | .ckC _ => .high
    | .alertN _ => .ignored
    | .resetN => .low
    | _ => .highZ
  | .pcie p => match p with
    | .perstN => .sampled
    | .clkreqN => .released
    | .refclkT => .active
    | .refclkC => .active
    | .resref => .highZ
    | _ => .electricalIdle
  | .low p => match p with
    | .spiClk => .low
    | .spiCsN => .high
    | .mgtScl | .mgtSda | .mgtAlertN | .pwrScl | .pwrSda | .sbAlive | .sbThermtripN | .sbLedActN | .sbLedFltN => .released
    | .pwrHuEn | .pwrChgEn | .pwrAuditEn | .pwrSeqEn | .afePwm _ | .afeDrvEn | .afeClamp => .low
    | .pwrDis | .afeDrvFaultN | .afeClampFb => .ignored
    | .strapSmbAddr _ | .strapMgtI3c | .tstMode => .sampled
    | .clkSysrefT | .clkSysrefC | .clkAonXi | .clkAonXo => .active
    | _ => .highZ
  | _ => .highZ

/-- Outputs of the AON island and the Airflow island while these run: what State holds for them. -/
def padDriven (s : State) : LowPin → PadState
  | .pwrHuEn => padLevel s.sup.huEn
  | .pwrChgEn => padLevel s.sup.chgEn
  | .pwrAuditEn => padLevel s.sup.auditEn
  | .pwrSeqEn => padLevel s.sup.seqEn
  | .sbAlive => padDrain s.flt.aliveLevel
  | .sbThermtripN => padDrain s.thm.thermtripN
  | .sbLedActN => padDrain s.pins.ledActN
  | .sbLedFltN => padDrain s.pins.ledFltN
  | .afePwm n => if vecGet false s.air.pwm n then .asUnit else .low
  | .afeDrvEn => padLevel s.air.drvEn
  | .afeClamp => padLevel s.air.clamp
  | .afeIsnsP | .afeIsnsN | .afeVbus | .pwrV12Sns | .pwrHuSns | .thsP _ | .thsN _ => .converted
  | .pwrPmicGood | .pwrDis | .pwrAlertN | .afeDrvFaultN | .afeClampFb | .clkSysrefT | .clkSysrefC | .clkAonXi | .clkAonXo => .active
  | .strapSmbAddr _ | .strapMgtI3c | .tstMode => .ignored
  | .rsvd => .highZ
  | _ => .asUnit

/-- Battened column of Table 21.6. -/
def padBattened (s : State) (b : Ball) : PadState :=
  match b with
  | .dram _ .resetN => .high
  | .flash _ _ => padReset b
  | .dram _ _ => padReset b
  | .pcie p => match p with
    | .perstN => .sampled
    | .clkreqN => if s.host.link.power == .l12 then .released else .low
    | .refclkT => .active
    | .refclkC => .active
    | .resref => .highZ
    | _ => .linkIdle s.host.link.power
  | .low p => match p with
    | .spiClk | .spiCsN | .spiIo _ | .mgtScl | .mgtSda | .mgtAlertN | .tstTck | .tstTms | .tstTdi | .tstTdo | .tstTrstN => padReset b
    | .pwrScl | .pwrSda => .released
    | p => padDriven s p
  | _ => .highZ

/-- The state of a pad: unpowered, in reset with its island, Battened, or in service. -/
def padState (s : State) (b : Ball) : PadState :=
  match padGroup b with
  | none => .active
  | some g =>
    if !groupUp s g then (if failSafe b then .failSafe else .highZ)
    else if 3 ≤ stateDepth (island s (padOwner b)).st then padReset b
    else if s.boot.phase = 6 then padBattened s b
    else match b with
      | .low p => padDriven s p
      | .pcie .perstN => .sampled
      | .pcie .clkreqN => if s.host.link.power == .l12 then .released else .low
      | _ => .asUnit

/-! ### Pulls and connections (R436, R437) -/

/-- A pull resistor to the pad's supply or to ground, in kΩ. -/
structure Pull where
  up : Bool
  kohm : Nat
  deriving DecidableEq, Repr

/-- Internal pull of a pad (Table 21.6, 50 kΩ each). -/
def internalPull : Ball → Option Pull
  | .flash _ .rbN => some ⟨true, 50⟩
  | .dram _ (.alertN _) => some ⟨true, 50⟩
  | .low p => match p with
    | .spiCsN | .spiIo _ | .afeDrvFaultN | .tstTck | .tstTms | .tstTdi => some ⟨true, 50⟩
    | .afePwm _ | .afeDrvEn | .afeClamp | .afeClampFb | .strapSmbAddr _ | .strapMgtI3c | .tstMode | .tstTrstN | .rsvd => some ⟨false, 50⟩
    | _ => none
  | _ => none

/-- Resistance in kΩ of the pull that the carrier puts on a ball, least and most, with whether it pulls up (R437 items 4 and 5). -/
def carrierPull : Ball → Option (Bool × Nat × Nat)
  | .dram _ .resetN => some (false, 10, 10)
  | .flash _ .wpN => some (false, 10, 10)
  | .flash _ .rbN => some (true, 2, 10)
  | .low p => match p with
    | .afeDrvEn | .afePwm _ => some (false, 10, 10)
    | .spiCsN | .sbAlive | .sbThermtripN => some (true, 10, 10)
    | _ => none
  | _ => none

/-- Calibration resistor of a ball to VSS, in Ω (R437 item 2). -/
def calOhm : Ball → Option Nat
  | .dram _ .zq => some 240
  | .low (.fchZq _) => some 300
  | .pcie .resref => some 200
  | _ => none

/-- Subchannel of a DRAM signal. -/
def dramSub : DramPin → Nat
  | .dq y _ | .cb y _ | .dqsT y _ | .dqsC y _ | .ca y _ | .csN y _ | .ckT y | .ckC y | .alertN y => y
  | _ => 0

/-- Balls that the carrier leaves or may leave unconnected (R437 items 7 and 8). -/
def mayFloat (p : Profile) : Ball → Bool
  | .flash c _ => diesPerCh p (c / 16) == 0
  | .dram _ x => p.halfWidth == 1 && dramSub x == 1
  | .low x => match x with
    | .rsvd => true
    | .thsP n => remoteRole p n == 0
    | .thsN n => remoteRole p n == 0
    | .tstTck | .tstTms | .tstTdi | .tstTdo => true
    | _ => false
  | _ => false

end Sys2Proof.Machine
end

