-- ==== Sys2Proof/Machine/Ratings.lean ====
section
/-! DEFINITION. Electrical ratings, power by mode, cooling and package (R442 to R453): the figures of chapter 22, and whether a state
lies within them. No row of the command table reads one. -/

namespace Sys2Proof.Machine

/-! ### Absolute maximum ratings (R442, Table 22.1) -/

/-- Absolute maximum of a rail of Table 17.2 in mV; the minimum is -300 mV. -/
def railAbsMax : Nat → Nat
  | 0 => 900
  | 1 => 900
  | 2 => 1000
  | 3 => 1050
  | 4 => 1000
  | 5 => 1300
  | 6 => 1300
  | 7 => 1400
  | 8 => 1400
  | _ => 2100

/-- Pads of the 3.6 V tolerant types. -/
def tolerant : Ball → Bool
  | .pcie .perstN => true
  | .low p => match p with
    | .pwrPmicGood | .pwrDis | .pwrAlertN | .pwrScl | .pwrSda | .sbAlive | .sbThermtripN | .sbLedActN | .sbLedFltN => true
    | _ => false
  | _ => false

/-- Absolute range of a signal pad in mV, its group's supply at `supply` mV (0 while it is unpowered). -/
def padAbsRange (supply : Nat) (b : Ball) : Int × Int :=
  if failSafe b || tolerant b then (-300, 4000)
  else match b with
    | .low .pwrV12Sns => (-300, 2100)
    | .low .pwrHuSns => (-300, 2100)
    | .low .afeVbus => (-300, 2100)
    | .low .afeIsnsP => (-500, 1000)
    | .low .afeIsnsN => (-500, 1000)
    | _ => (-300, min 2100 ((supply : Int) + 300))

/-- Junction and storage temperature, absolute, in °C. -/
abbrev junctionAbs : Int × Int := (-40, 130)
abbrev storageAbs : Int × Int := (-55, 150)

/-! ### Operating conditions (R443, R444) -/

/-- Every rail lies within its operating range and Tj from -40 to 110 °C: with the clock inputs of Table 18.1, the manual's figures
hold (R443). -/
def figuresHold (s : State) : Bool :=
  s.sup.rails.zipIdx.all (fun r => railOperating r.2 r.1.reading) && decide (-40 ≤ topTj s) && decide (topTj s ≤ 110) &&
    s.isl.sysrefOk && !s.tm.onBackup

/-- Between 110 °C and the trip the SL4096 works on under the thermal steps (R444). -/
def worksHot (s : State) : Bool := decide (110 < topTj s) && decide (topTj s < 125)

/-- Inlet temperatures of the drive in °C (R443). -/
abbrev inletRange : Int × Int := (-40, 85)

/-! ### DC levels and analogue inputs (R445, R446) -/

/-- Input thresholds of a digital pad in mV, highest low and lowest high level, VDD_IO18 at `io` mV (Table 22.2); the pads of
interfaces that other standards set have none here. -/
def inputLevels (io : Nat) : Ball → Option (Nat × Nat)
  | .pcie .perstN => some (500, 1200)
  | .pcie .clkreqN => some (500, 1200)
  | .low p => match p with
    | .pwrPmicGood | .pwrDis | .pwrAlertN | .sbAlive | .sbThermtripN | .pwrScl | .pwrSda => some (500, 1200)
    | .mgtScl | .mgtSda => some (540, 1260)
    | .strapSmbAddr _ | .strapMgtI3c | .tstMode => some (630, 1170)
    | .spiIo _ | .tstTck | .tstTms | .tstTdi | .tstTrstN | .afeDrvFaultN | .afeClampFb => some (35 * io / 100, 65 * io / 100)
    | _ => none
  | _ => none

/-- Voltage at the pin in µV of a sensed voltage in mV, by the carrier's divider (Table 17.1, Table 16.1); the 10.5 V comparator trips
at 1.3125 V. -/
def sensePin : LowPin → Nat → Option Nat
  | .pwrV12Sns, mv => some (mv * 1000 / 8)
  | .pwrHuSns, mv => some (mv * 1000 / 24)
  | .afeVbus, mv => some (mv * 1000 / 20)
  | _, _ => none

/-- Accuracy of an analogue reading in parts per thousand (Table 22.3). -/
def senseAccuracy : LowPin → Option Nat
  | .pwrV12Sns => some 5
  | .pwrHuSns => some 5
  | .afeVbus => some 10
  | .afeIsnsP => some 10
  | .afeIsnsN => some 10
  | _ => none

/-! ### AC timing (R447, Table 22.4) -/

/-- Clocked interfaces. -/
inductive BusClock where
  | spiDescriptor
  | spiService (divider : Nat)
  | smbus
  | i3cSdr
  | boardI2c
  | testClock
  deriving DecidableEq, Repr

/-- Highest clock of an interface in kHz; SPI NOR in service runs at 800 MHz / DIVIDER, at most 133.3 MHz. -/
def maxClock : BusClock → Nat
  | .spiDescriptor => 25000
  | .spiService d => min 133333 (800000 / max 1 d)
  | .smbus => 400
  | .i3cSdr => 12500
  | .boardI2c => 400
  | .testClock => 25000

/-- PCIE_PERST_N assertion that the Host island must see, its glitch filter, SMBus stretching and the board I²C limit, in µs. -/
abbrev perstMinUs : Nat := 100
abbrev perstFilterUs : Nat := 1
abbrev smbusStretchUs : Nat := 1000
abbrev boardI2cLimitUs : Nat := 25000

/-! ### Power by mode and cooling (R448, R449) -/

/-- Modes of Table 22.5. -/
inductive PowerMode where
  | battened
  | aonAlone
  | restrictedB
  | activeIdle
  | sustainedWrite
  | sequentialRead
  | randomRead
  | anyWorkload
  | dump
  deriving DecidableEq, Repr

/-- Typical and maximum power of a mode in mW; any workload has a maximum only. -/
def modePower : PowerMode → Option Nat × Nat
  | .battened => (some 900, 1600)
  | .aonAlone => (some 50, 100)
  | .restrictedB => (some 2800, 4500)
  | .activeIdle => (some 5000, 8000)
  | .sustainedWrite => (some 18500, 22500)
  | .sequentialRead => (some 20000, 24000)
  | .randomRead => (some 22000, 26000)
  | .anyWorkload => (none, 26000)
  | .dump => (some 9000, 12000)

/-- Mode of a state, as far as the state alone tells it: a workload is `anyWorkload`, no command outstanding `activeIdle`. -/
def powerMode (s : State) : PowerMode :=
  if s.eav.dumpStart.isSome then .dump
  else if s.eav.afterDump || s.thm.tripped then .aonAlone
  else if s.boot.phase = 6 then .battened
  else if s.boot.phase = 7 && s.boot.formB then .restrictedB
  else if s.adm.cmds.isEmpty && s.fl.descs.isEmpty then .activeIdle
  else .anyWorkload

/-- The controller draws no more than this, in mW. -/
def powerLimit (s : State) : Nat := (modePower (powerMode s)).2

/-- Step of the VDD_CORE current that the PMIC must hold when an island is ungated or a Battened wake occurs, in mA. -/
abbrev coreStepMa : Nat := 8000

/-- Package figures in m°C/W: θJC, θJB, ΨJT, θJA (Table 22.6). -/
abbrev thetaJc : Nat := 60
abbrev thetaJb : Nat := 2000
abbrev psiJt : Nat := 40
abbrev thetaJa : Nat := 8500

/-- A cooling path of `theta` m°C/W from junction to inlet holds the highest zone Tj at or below 110 °C at 26 W (R449). -/
def coolingHolds (inlet : Int) (theta : Nat) : Bool := decide (inlet * 1000 + 26 * theta ≤ 110000)

/-! ### Package and ordering (R450 to R453) -/

/-- Package dimensions in µm: body, pitch, outer ball centre to body edge, ball, stand-off, height, lid, coplanarity (Table 22.7). -/
structure PackageDims where
  body : Nat
  balls : Nat
  pitch : Nat
  edge : Nat
  ballSize : Nat
  standOff : Nat
  height : Nat
  lid : Nat
  coplanarity : Nat
  deriving DecidableEq, Repr

/-- The package of both ordering codes. -/
def packageDims : PackageDims :=
  { body := 47500, balls := 46, pitch := 1000, edge := 1250, ballSize := 600, standOff := 400, height := 3250, lid := 44000, coplanarity := 200 }

/-- Moisture sensitivity level, peak reflow temperature in °C and number of reflows (R452). -/
abbrev moistureLevel : Nat := 3
abbrev reflowPeak : Nat := 250
abbrev reflowCount : Nat := 3

/-- A package whose floor life has run out is baked: hours and °C (R452). -/
abbrev bake : Nat × Nat := (24, 125)

/-- The ordering code that the part's crypto fuse tells (Table 22.8). -/
def orderingCode (cryptoDisabled : Bool) : String := if cryptoDisabled then "KZ-SL4096-A1N" else "KZ-SL4096-A1I"

end Sys2Proof.Machine
end

