-- ==== Sys2Proof/Machine/RegRead.lean ====
section
/-! DEFINITION. What a read of a register returns (R151, R211 to R213, R231, R324, R404): Tables 06.9, 09.5, 09.6, 10.3, 14.4 and 19.3, the
MSI-X table and its Pending Bit Array. No command brings a read whose value changes the block but that of KW_DEVTIME_LO
(log entry 101). -/

namespace Sys2Proof.Machine

/-- Place a field of a register: its value at its lowest bit. -/
def at' (lo v : Nat) : Nat := v * 2 ^ lo

/-- A flag as a bit. -/
def flag (b : Bool) : Nat := if b then 1 else 0

/-- A 32-bit value of a register. -/
def word (v : Nat) : U32 := BitVec.ofNat 32 v

/-- CAP of every function (Table 09.5; the places of its fields are PRESUMED from the NVM Express Base specification, log entry 101):
MQES 4,095, CQR, TO 20, CSS bits 0 and 6, MPSMAX 4, CRWMS. -/
def capValue : Nat := 4095 + at' 16 1 + at' 24 20 + at' 37 1 + at' 43 1 + at' 52 4 + at' 59 1

/-- CSTS: RDY, CFS, SHST (R213, R317). -/
def cstsValue (x : FnSt) : Nat := flag x.rdy + at' 1 (flag x.cfs) + at' 2 x.shst

/-- Pending bits `32 i` to `32 i + 31` of the Pending Bit Array. -/
def pbaWord (x : FnSt) (i : Nat) : Nat :=
  sumNat ((List.range 32).map fun b => at' b (flag (x.msixPending.contains (32 * i + b))))

/-- A register of BAR0; none for one whose value this spec leaves to the NVM Express specification. -/
def readBar0 (s : State) (fn off : Nat) : Option U32 :=
  let x := fnOf s fn
  if off = 0x00 then some (word capValue)
  else if off = 0x04 then some (word (capValue / 2 ^ 32))
  else if off = 0x08 then some 0x00020100#32
  else if off = 0x1C then some (word (cstsValue x))
  else if bar0Stored.contains off then some (tblGet 0 off x.bar0)
  else if decide (0x2000 ≤ off) && decide (off < 0x2000 + 16 * vectorsOf fn) then
    if off % 16 = 12 then some (word (flag (x.msixMasked.contains ((off - 0x2000) / 16)))) else some (tblGet 0 off x.bar0)
  else if decide (0xA000 ≤ off) && decide (8 * (off - 0xA000) < vectorsOf fn) then some (word (pbaWord x ((off - 0xA000) / 4)))
  else if off < 0x1408 then none
  else some 0

/-- KW_ID (Table 09.6). -/
def kwId (s : State) : Nat := 0x01 + at' 8 0xA1 + at' 16 (flag (!s.sec.cryptoDisable))

/-- KW_STATE (Table 09.6). -/
def kwState (s : State) : Nat :=
  s.boot.phase + at' 4 (flag s.fl.writeProtect) + at' 5 (flag (anySevere s)) + at' 6 (flag s.eav.short) +
    at' 7 (flag s.host.linkBelowFull) + at' 8 s.host.rate + at' 11 s.host.width

/-- The Kazok window (Table 09.6). -/
def readWindow (s : State) (fn off : Nat) : U32 :=
  let x := fnOf s fn
  match off with
  | 0x00 => word (kwId s)
  | 0x04 => word (fn + at' 8 x.vqAssigned)
  | 0x08 => word (now s)
  | 0x0C => word (x.devtimeLatch / 2 ^ 32)
  | 0x10 => word (kwState s)
  | 0x14 => x.regErr
  | 0x18 => x.notify
  | 0x1C => x.scratch
  | _ => 0

/-- The BAR mailbox (Table 10.3). -/
def readMailbox (s : State) (fn off : Nat) : U32 :=
  let m := (fnOf s fn).mailbox
  match off with
  | 0x1000 => m.reqBaseLo
  | 0x1004 => m.reqBaseHi
  | 0x1008 => m.rspBaseLo
  | 0x100C => m.rspBaseHi
  | 0x1010 => m.ringOrder.setWidth 32
  | 0x1014 => word (flag m.enable + at' 1 (flag m.notifyOnResponse))
  | 0x1018 => word m.reqTail
  | 0x101C => word m.reqHead
  | 0x1020 => word m.rspTail
  | 0x1024 => word m.rspHead
  | 0x1028 => word (flag m.active + at' 1 (flag (mgmtDown s)) + at' 8 m.inFlight)
  | 0x102C => word (flag m.badTail + at' 1 (flag m.badHead) + at' 2 (flag m.dmaError))
  | _ => 0

/-- The Dormer window (Table 19.3), and its slots from 0x8040. -/
def readDormer (s : State) (off : Nat) : U32 :=
  let e := s.evt
  match off with
  | 0x8000 => word (newestSeq s)
  | 0x8004 => word (newestSeq s / 2 ^ 32)
  | 0x8008 => word (oldestSeq s)
  | 0x800C => word (oldestSeq s / 2 ^ 32)
  | 0x8010 => e.cursorLo
  | 0x8014 => word (e.cursorHi.toNat + at' 31 (flag e.permanentBit))
  | 0x8018 => word (e.notifySeverity.toNat + at' 3 (flag e.notifyPending) + at' 4 (flag e.snapBusy))
  | 0x801C => word e.validSlots
  | _ => if off < 0x8040 then 0
    else word (leNat (((dormerSlot s ((off - 0x8040) / 64)).drop ((off - 0x8040) % 64)).take 4))

/-- A register of BAR2; reserved ranges read as zero (R211). -/
def readBar2 (s : State) (fn off : Nat) : U32 :=
  if off < 0x1000 then readWindow s fn off
  else if off < 0x5000 then readMailbox s fn off
  else if fn = 0 && decide (0x8000 ≤ off) then readDormer s off
  else 0

/-- An SDR timing register of a channel island (Table 06.9). -/
def readChannelReg (s : State) (c off : Nat) : U32 :=
  let x := chan s c
  match off with
  | 0x100 => x.sdr0
  | 0x104 => x.sdr1
  | 0x108 => x.sdr2
  | _ => 0

/-- A Fault Collector register (Table 14.4), as a Purlin core reads it; the write-only ones read as zero. -/
def readFault (s : State) (off : Nat) : U32 :=
  if off = 0x404 then word s.flt.snapSeq.toNat
  else if decide (0x408 ≤ off) && decide (off < 0x430) && off % 4 == 0 then vecGet 0 s.flt.fsvSnap ((off - 0x408) / 4)
  else if decide (0x430 ≤ off) && decide (off < 0x458) && off % 4 == 0 then vecGet 0 s.flt.sevSnap ((off - 0x430) / 4)
  else if off = 0x458 then word (flag s.flt.aliveRun + at' 1 (serviceClass s))
  else 0

/-- What a 32-bit read at an offset of a register space returns; none for a register whose value this spec does not give. -/
def regRead (s : State) (fn : Nat) (space : RegSpace) (off : Nat) : Option U32 :=
  match space with
  | .bar0 => readBar0 s fn off
  | .bar2 => some (readBar2 s fn off)
  | .config => some (readConfig s fn off)
  | .channel c => some (readChannelReg s c off)

end Sys2Proof.Machine
end

