-- ==== Sys2Proof/WellFormed.lean ====
section
/-! DEFINITION. Well-formed commands: every operand within the range that the spec gives its kind. -/

namespace Sys2Proof

/-- A function number (R207). -/
def wfFn (f : Nat) : Bool := decide (f < 256)

/-- A channel (Table 01.1). -/
def wfCh (c : Nat) : Bool := decide (c < 32)

/-- An island ID (Table 01.1). -/
def islandNo (i : Nat) : Bool := decide (i < 10) || (decide (16 ≤ i) && decide (i < 48))

/-- A die number (R246). -/
def wfDie (d : Nat) : Bool := decide (d < 4096)

/-- A header of an I/O command (R219, R259). -/
def IoHdr.wf (h : IoHdr) : Bool :=
  wfFn h.fn && decide (1 ≤ h.sqid) && decide (h.sqid ≤ 128) && decide (h.cid < 65536) && decide (h.cet < 16) &&
    decide (h.cev < 65536)

/-- A header of an admin command. -/
def AdmHdr.wf (a : AdmHdr) : Bool := wfFn a.fn && decide (a.cid < 65536)

/-- The sender of an HMP request: a function, or an MCTP endpoint ID (R227). -/
def Sender.wf : Sender → Bool
  | .fn f => wfFn f
  | .oob e => decide (e < 256)

/-- An HMP request: in-band senders use the in-band transports and endpoints use MCTP (Table 10.1). -/
def HmpHdr.wf (q : HmpHdr) : Bool :=
  q.sender.wf && decide (q.tag < 2 ^ 32) && decide (q.length < 2 ^ 32) &&
    (match q.sender, q.transport with
     | .fn _, .mctp => false
     | .oob _, .bar => false
     | .oob _, .admin => false
     | _, _ => true)

/-- A well-formed command. -/
def Instr.wf : Instr → Bool
  | .sqTailDoorbell fn qid _ => wfFn fn && decide (qid ≤ 65535)
  | .cqHeadDoorbell fn qid _ => wfFn fn && decide (qid ≤ 65535)
  | .read h _ _ => h.wf
  | .write h _ _ => h.wf
  | .zoneAppend h _ _ => h.wf
  | .writeZeroes h _ _ => h.wf
  | .flush h => h.wf
  | .datasetManagementDeallocate h _ => h.wf
  | .copy h _ _ => h.wf
  | .zoneOpen h _ _ => h.wf
  | .zoneClose h _ _ => h.wf
  | .zoneFinish h _ _ => h.wf
  | .zoneReset h _ _ => h.wf
  | .zoneOffline h _ _ => h.wf
  | .setZoneDescriptorExtension h _ _ => h.wf
  | .reportZones h _ _ _ => h.wf
  | .extendedReportZones h _ _ _ => h.wf
  | .invalidIoOpcode h _ => h.wf
  | .thatchBindingDone _ _ => true
  | .heldCommandReevaluation fn _ cid => wfFn fn && decide (cid < 65536)
  | .holdEndExpiry fn _ cid => wfFn fn && decide (cid < 65536)
  | .slackEpochEnd => true
  | .calendarEntryEnd die _ => wfDie die
  | .eavesCopyWritten _ fn _ cid _ => wfFn fn && decide (cid < 65536)
  | .programPassBooking _ _ => true
  | .descriptorIssue ch _ _ => wfCh ch
  | .descriptorCompletion ch _ _ => wfCh ch
  | .suspendWindowStart ch die _ => wfCh ch && wfDie die
  | .suspendWindowEnd ch die _ => wfCh ch && wfDie die
  | .dieOverrun ch _ => wfCh ch
  | .dieTimeout ch _ _ => wfCh ch
  | .tokenGuardTimeout ch _ => wfCh ch
  | .deadlineReached fn _ cid => wfFn fn && decide (cid < 65536)
  | .recoveryPass _ _ _ => true
  | .backgroundWorkDecision => true
  | .retentionAgeRefresh _ => true
  | .refreshRetryHourly _ => true
  | .hitsHalving => true
  | .retentionSample _ _ => true
  | .underlayMove _ _ => true
  | .journalCheckpoint => true
  | .smartUpdate => true
  | .packageRecalibration ch pkg => wfCh ch && decide (pkg < 256)
  | .packageRecalDone ch pkg _ => wfCh ch && decide (pkg < 256)
  | .channelDrain ch => wfCh ch
  | .channelDrainComplete ch => wfCh ch
  | .channelDrainTimeout ch => wfCh ch
  | .channelBringup ch _ _ => wfCh ch
  | .channelRbWaitEnd ch _ => wfCh ch
  | .packageTempPoll _ => true
  | .islandStateRequest island _ => islandNo island
  | .islandReportsRunning island => islandNo island
  | .handshakeStall _ _ => true
  | .handshakeStallSevere _ _ => true
  | .capacityRecompute => true
  | .contractChargeRecompute fn => wfFn fn
  | .promisedWidthRecompute _ => true
  | .eavesEffectiveRecompute => true
  | .flashPowerCapacityRecompute => true
  | .linkChange _ _ => true
  | .powerLossDetected => true
  | .storeLow _ => true
  | .dumpComplete => true
  | .brownoutReturn => true
  | .gutterReplay => true
  | .aonPowerOnReset _ _ _ _ => true
  | .powerUpRetry _ _ => true
  | .startup _ => true
  | .tripRestartRelease => true
  | .deviceRestart _ => true
  | .railOutOfRange rail _ => decide (rail < 11)
  | .railExcursion rail _ _ => decide (rail < 11)
  | .pwrdis _ => true
  | .storeConversion _ _ => true
  | .chargeTimeout => true
  | .holdupAuditDue => true
  | .auditLoadConnect _ => true
  | .auditMeasurementEnd _ _ _ => true
  | .pmicPoll _ => true
  | .pmicAlert _ => true
  | .aonCrystalLoss => true
  | .aonCrystalRestored => true
  | .pllLossOfLock island => islandNo island
  | .referenceClockLost => true
  | .sensorConversion _ => true
  | .thermalStepExit => true
  | .tripDumpTimeout => true
  | .remoteDiodeConversion _ => true
  | .faultSourceEvent source _ => decide (source < 65536)
  | .coreWatchdogExpiry core => decide (core < 12)
  | .coreSelfTestDone core _ => decide (core < 12)
  | .aliveToggle => true
  | .aliveKickTimeout => true
  | .aliveKick core _ => decide (core < 12)
  | .coreKick core _ => decide (core < 12)
  | .faultSnap _ => true
  | .dramTempPoll _ _ => true
  | .dramRefresh _ rank _ => decide (rank < 256)
  | .dramDriftTrack _ rank _ _ => decide (rank < 256)
  | .dramPanicEntry _ => true
  | .dramPanicExit _ => true
  | .dramPanicLong _ => true
  | .dramRfm _ rank _ => decide (rank < 256)
  | .rowActThrottle _ _ rank _ _ _ => decide (rank < 256)
  | .loftFrameReplicate _ _ => true
  | .rowWindowEnd _ => true
  | .mergeWriteback _ _ _ => true
  | .scrubRead _ _ _ => true
  | .softPpr _ rank _ _ _ => decide (rank < 256)
  | .rankMigration _ rank => decide (rank < 256)
  | .rankMigrationSwap _ _ => true
  | .dramResilver _ => true
  | .dramResilverComplete _ => true
  | .speedLoopStep => true
  | .currentLoopPeriod _ _ _ => true
  | .driverFault => true
  | .driverFaultRetry => true
  | .catchSpinEnd _ _ => true
  | .alignEnd => true
  | .blowerStall _ => true
  | .stallRestart => true
  | .blowerOffTimer => true
  | .busClampOn _ => true
  | .clampFault _ => true
  | .busOvervoltage _ => true
  | .battenedEntryComplete => true
  | .battenedEntryAbandon => true
  | .battenedWake _ => true
  | .battenedWakeEnd => true
  | .recordPageProgram _ => true
  | .svnFloorRaise _ => true
  | .keyRolloverEnd _ => true
  | .operationHandleExpiry sender _ => sender.wf
  | .perstNDeassert _ _ => true
  | .conventionalReset => true
  | .pfFlr => true
  | .vfFlr fn => wfFn fn
  | .vfEnable _ => true
  | .vfDisable => true
  | .ccEnable fn => wfFn fn
  | .controllerReset fn => wfFn fn
  | .controllerShutdown fn => wfFn fn
  | .msixUnmask fn _ => wfFn fn
  | .kwDevtimeLoRead fn => wfFn fn
  | .registerWrite fn _ _ _ => wfFn fn
  | .unsupportedBarAccess fn _ _ _ => wfFn fn
  | .dormerCursorHiWrite _ => true
  | .dormerSnapshotDone => true
  | .mailboxEnable fn => wfFn fn
  | .mailboxDisable fn => wfFn fn
  | .mailboxReqTailWrite fn _ => wfFn fn
  | .mailboxRspHeadWrite fn _ => wfFn fn
  | .mailboxRequestTake fn _ _ => wfFn fn
  | .mailboxResponsePost fn _ _ _ => wfFn fn
  | .mctpMessage src _ _ _ => decide (src.eid < 256) && decide (src.msgTag < 8) && decide (src.msgType < 128) && decide (src.vendor < 65536)
  | .hmpCancel q _ admin => q.wf && (match admin with
      | some cid => decide (cid < 65536) && q.transport == .admin
      | none => true)
  | .hmpPost a _ _ => a.wf
  | .hmpCollect a _ _ _ => a.wf
  | .hmpCollectTimeout fn cid => wfFn fn && decide (cid < 65536)
  | .hmpExchange a _ _ => a.wf
  | .versionQuery q => q.wf
  | .operationStatus q _ => q.wf
  | .contractSet q fn cls _ _ _ _ _ _ _ => q.wf && decide (fn < 65536) && decide (cls < 65536)
  | .contractDelete q fn cls _ => q.wf && decide (fn < 65536) && decide (cls < 65536)
  | .contractReport q fn => q.wf && decide (fn < 65536)
  | .bayCapacityReport q _ _ => q.wf
  | .calendarSnapshot q die => q.wf && decide (die < 65536)
  | .functionZoneLimits q fn _ _ => q.wf && decide (fn < 65536)
  | .baySetDefine q _ _ _ _ => q.wf
  | .baySetDelete q _ => q.wf
  | .badBlockReport q die _ _ => q.wf && decide (die < 65536)
  | .mediaWearReport q _ _ => q.wf
  | .dieRetire q die => q.wf && decide (die < 65536)
  | .channelRecalibrate q ch pkg => q.wf && decide (ch < 65536) && decide (pkg < 65536)
  | .channelMicrocodeLoad q _ => q.wf
  | .channelMicrocodeTurn ch _ _ => wfCh ch
  | .dramRankRetrain q _ rank => q.wf && decide (rank < 65536)
  | .coreFailoverReturn q core => q.wf && decide (core < 65536)
  | .coreFailoverRetire q core => q.wf && decide (core < 65536)
  | .boardProfileRead q _ _ _ => q.wf
  | .boardProfileUpdate q _ _ _ => q.wf
  | .qFieldCommit _ => true
  | .islandStateReport q => q.wf
  | .keySlotInject q fn _ _ _ _ _ => q.wf && decide (fn < 65536)
  | .keySlotClear q fn _ _ => q.wf && decide (fn < 65536)
  | .establishKek q fn _ => q.wf && decide (fn < 65536)
  | .setKeyPerIo q _ _ => q.wf
  | .keyRollover q _ => q.wf
  | .regionTableReport q => q.wf
  | .faultSnapshot q => q.wf
  | .faultThresholdSet q source _ _ => q.wf && decide (source < 65536)
  | .faultClear q source _ => q.wf && decide (source < 65536)
  | .firstErrorReport q source => q.wf && decide (source < 65536)
  | .thermalReport q => q.wf
  | .coldStartWarmStart q => q.wf
  | .coldStartWarmStop q => q.wf
  | .blowerReport q => q.wf
  | .blowerServiceStop q => q.wf
  | .blowerServiceResume q _ _ _ => q.wf
  | .supplyReport q => q.wf
  | .holdupAudit q _ => q.wf
  | .eventRead q _ _ _ _ => q.wf
  | .dormerPosition q _ _ => q.wf
  | .energyMeterReport q fn => q.wf && decide (fn < 65536)
  | .counterReport q fn => q.wf && decide (fn < 65536)
  | .poolQuotaSet q pool _ => q.wf && decide (pool < 65536)
  | .poolReport q => q.wf
  | .invalidHmpOpcode q _ => q.wf
  | .createIoCq a qid _ _ _ _ => a.wf && decide (qid ≤ 65535)
  | .createIoSq a qid _ _ _ => a.wf && decide (qid ≤ 65535)
  | .deleteIoSq a qid => a.wf && decide (qid ≤ 65535)
  | .deleteIoCq a qid => a.wf && decide (qid ≤ 65535)
  | .getLogPage a _ _ _ _ => a.wf
  | .identify a _ _ _ _ => a.wf
  | .abort a _ cid => a.wf && decide (cid < 65536)
  | .asynchronousEventRequest a => a.wf
  | .setFeaturesArbitration a _ => a.wf
  | .setFeaturesPowerManagement a _ => a.wf
  | .setFeaturesTemperatureThreshold a _ _ _ => a.wf
  | .setFeaturesErrorRecovery a _ _ => a.wf
  | .setFeaturesNumberOfQueues a _ _ => a.wf
  | .setFeaturesInterruptCoalescing a _ _ => a.wf
  | .setFeaturesInterruptVectorConfig a _ _ => a.wf
  | .setFeaturesWriteAtomicity a _ => a.wf
  | .setFeaturesAsyncEventConfig a _ => a.wf
  | .setFeaturesTimestamp a _ => a.wf
  | .setFeaturesHostBehaviorSupport a _ => a.wf
  | .setFeaturesQueueLatencyClass a _ cls => a.wf && decide (cls < 256)
  | .setFeaturesVerdictRing a _ _ _ => a.wf
  | .setFeaturesUnsupported a _ => a.wf
  | .getFeaturesQueueLatencyClass a _ => a.wf
  | .getFeaturesVerdictRing a _ => a.wf
  | .getFeatures a _ _ => a.wf
  | .namespaceCreate a _ _ _ _ => a.wf
  | .namespaceDelete a _ => a.wf
  | .namespaceAttach a _ fn => a.wf && wfFn fn
  | .namespaceDetach a _ fn => a.wf && wfFn fn
  | .formatNvm a _ _ _ => a.wf
  | .formatNvmCryptoErase a _ _ => a.wf
  | .sanitizeCryptoErase a => a.wf
  | .sanitizeBlockErase a => a.wf
  | .firmwareImageDownload a _ _ => a.wf
  | .firmwareCommitReplace a _ => a.wf
  | .firmwareCommitNextStart a _ => a.wf
  | .firmwareCommitSwap a _ => a.wf
  | .firmwareCommitActivate a _ => a.wf
  | .virtMgmtOffline a _ => a.wf
  | .virtMgmtAssign a _ _ => a.wf
  | .virtMgmtOnline a _ => a.wf
  | .nvmeMiSend a _ => a.wf
  | .nvmeMiReceive a => a.wf
  | .securitySend a _ _ _ _ _ _ => a.wf
  | .securityReceive a _ _ => a.wf
  | .invalidAdminOpcode a _ => a.wf
  | .hostReadCompletionArrival fn _ cid _ _ _ => wfFn fn && decide (cid < 65536)
  | .softDecodeResult ch _ _ => wfCh ch
  | .railReturnInRange rail _ => decide (rail < 11)
  | .aonRailDown => true
  | .firmwareActivationRound _ => true
  | .nvmeMiMctpMessage endpoint _ => decide (endpoint < 256)
  | .mctpEndpointIdAssignment endpoint => decide (endpoint < 256)
  | .activityLedTimeout => true
  | .faultLedBlink => true
  | .interruptAggregationTimeout fn _ => wfFn fn
  | .tapInstructionUpdate _ => true

end Sys2Proof
end

