-- ==== Sys2Proof/Tests/Slice0.lean ====
section
/-! SUPPORT. Witnesses for the hypotheses of the statements, the WellFormed smoke test, and small checks against the figures of the spec. -/

set_option maxRecDepth 30000
set_option exponentiation.threshold 20000
open Sys2Proof Sys2Proof.Machine Host
namespace Sys2Proof.Tests
/-! ### States and requests for the witnesses -/

/-- A part that has started: PHASE 5, every island Running, the link up, functions 0 and 1 enabled with an I/O queue pair each,
a zoned namespace (1) and a conventional one (2), and the supply on its store path's ready side. -/
def awake : State :=
  let fn : FnSt := { fnDefault with online := true, present := true, vqAssigned := 128, ccEn := true, rdy := true,
                                    sqs := [(1, ⟨8, 1, 0, 0⟩)], cqs := [(1, { cqDefault with size := 8 })] }
  { State.reset with
    tm := { tmReset with devTime := 100000000, opSeconds := 100 }
    isl := { islReset with islands := List.replicate 42 ⟨.running, none, false, false, false⟩ }
    boot := { bootReset with phase := 5 }
    zns := { znsReset with namespaces := [⟨1, true, 1048576, 0, .none, false, [(0, 2)], [0]⟩, ⟨2, false, 1024, 0, .none, false, [], [0]⟩] }
    sec := { secReset with slots := [(0, { keySlotDefault with state := 1, nsIndex := 0 }), (2, { keySlotDefault with state := 1, nsIndex := 1 })] }
    sup := { supReset with profileRead := true, v12 := 12000, vs := 33000, huEn := true }
    host := { hostReset with linkUp := true, rate := 6, width := 4, fns := [(0, fn), (1, fn)] } }

/-- A request of the PF through its BAR mailbox. -/
def req (len : Nat) : HmpHdr := { sender := .fn 0, transport := .bar, tag := 1, length := len, barrier := false, room := 4096 }

/-- An I/O command header of the PF for namespace `n`. -/
def io (n : Nat) : IoHdr := { fn := 0, sqid := 1, cid := 9, nsid := n, cet := 0, cev := 0 }

/-- An admin command header of the PF. -/
def adm : AdmHdr := ⟨0, 7⟩

/-- `awake` with the DevTime set. -/
def at' (t : Nat) : State := { awake with tm := { awake.tm with devTime := t } }

/-- A command of the PF on namespace 2, `accepted` or held. -/
def cmd (op : Instr) (write accepted : Bool) : Cmd := { newCmd awake (io 2) op write 100 0 1 4096 none with accepted := accepted }

/-- `awake` with one command. -/
def withCmd (c : Cmd) : State := { awake with adm := { awake.adm with cmds := [c] } }

/-- A request of the PF's BAR mailbox in its stream. -/
def joined (tag : Nat) : HmpReq := ⟨⟨.fn 0, .bar⟩, tag, 1, 0, [], false, 0, 0, 0, .bar 0 0 4096, [], false⟩

/-- `awake` with eight dies on each channel of half 0 alone. -/
def small : State := { awake with prof := { awake.prof with channel := setBits (setBits awake.prof.channel 0 8 8) 8 8 0 } }

/-! ### Witnesses: a state and operands that meet the hypotheses of each statement -/

theorem witness_StepRunsFrontCommand :
    ({ awake with pending := [.capacityRecompute, .smartUpdate] } : State).pending = Instr.capacityRecompute :: [.smartUpdate] := rfl

theorem witness_EveryStepCompletes : awake.pending = [] := rfl

theorem witness_DevTimeIsMonotone : (∀ a b c d rest, awake.pending ≠ .aonPowerOnReset a b c d :: rest) ∧
    ∀ a b c d, Instr.conventionalReset ≠ .aonPowerOnReset a b c d :=
  ⟨(by intro a b c d r h; cases h), (by intro a b c d h; cases h)⟩

theorem witness_DramContentsKeepForm : Memory.wf awake.dram.da.cells = true ∧ Memory.wf [⟨0, 1⟩, ⟨5, 255⟩] = true := by decide

theorem witness_MailboxGate :
    (awake.boot.phase == 7 && awake.boot.formB) = false ∧ hmpStopped awake = false ∧ outOfTurn awake (req 0) 1 = false ∧
    discarded awake (req 0) = false ∧ permitted 0 sendAll (.fn 0) = true ∧ permitted 0 sendPf (.fn 1) = false ∧
    hmpOf (.versionQuery (req 0)) = some (req 0, ruleVersion) ∧ ruleVersion.len = some 0 ∧ (req 8).length ≠ 0 ∧
    hmpStopped State.reset = true ∧ ruleRegions.crypto = true ∧ ruleWarm.early = false ∧
    outOfTurn { awake with hmp := { awake.hmp with requests := [joined 2, joined 1] } } (req 0) 1 = true ∧
    behindOther awake (req 0) 1 = false ∧ awaitsRidge awake 0x0503 = false ∧
    awaitsRidge { awake with flt := { awake.flt with ridge := [] } } 0x0503 = true ∧
    behindOther { awake with hmp := { awake.hmp with requests :=
      [{ joined 2 with opcode := 0x0402, stream := ⟨.fn 0, .admin⟩ }, { joined 1 with opcode := 0x0303, devtimeRx := 1 }] } } (req 2) 0x0303 = true ∧
    hmpOf (.establishKek (req 112) 0 true) = some (req 112, ruleKeySlot 112) := by decide

theorem witness_AdminGate : adminOf (.virtMgmtOnline ⟨1, 7⟩ 2) = some (⟨1, 7⟩, true, false) ∧ adminFetch awake 1 = true ∧ mgmtDown awake = false ∧
    AdminRoom awake 1 ∧ awake.boot.phase ≠ 7 ∧ adminFetch State.reset 1 = false ∧
    adminFetch { awake with boot := { awake.boot with phase := 7 } } 0 = true := by unfold AdminRoom; decide

theorem witness_served_admin : AdminServed awake adm false false ∧ AdminServed awake adm true false ∧ AdminServed awake adm false true ∧
    AdminServed awake adm true true ∧ AdminServed awake ⟨1, 7⟩ false true := by unfold AdminServed adminPasses AdminRoom; decide

theorem witness_SetFeatures : (127 : Nat) < vectorsOf adm.fn ∧ vectorsOf adm.fn ≤ 2048 ∧ 8 ∉ ([] : List Nat) ∧ 3 ∉ featureIds ∧
    (fnOf { awake with host := { awake.host with fns := [] } } 0).sqs = [] ∧ (tblFind? 1 (fnOf awake 0).cqs).isSome = true ∧
    tblFind? 2 (fnOf awake 0).cqs = none ∧ awake.bat.entryAt = none := by decide

theorem witness_QueueCommands :
    tblFind? 2 (fnOf awake 0).cqs = none ∧ 2 ≤ min (fnOf awake 0).feat.numCq (queuesOf awake 0) ∧ tblFind? 2 (fnOf awake 0).sqs = none ∧
    (tblFind? 1 (fnOf awake 0).sqs).isSome = true ∧ (∀ c ∈ awake.adm.cmds, ¬(c.fn = 0 ∧ c.sqid = 1)) ∧
    (1, ⟨8, 1, 0, 0⟩) ∈ (fnOf awake 0).sqs ∧ (∀ q ∈ (fnOf (updFn awake 0 fun x => { x with sqs := [] }) 0).sqs, q.2.cqid ≠ 1) ∧
    cmdOf (withCmd (cmd (.flush (io 2)) true false)) 0 1 9 = some (cmd (.flush (io 2)) true false) ∧ cmdOf awake 0 1 9 = none ∧
    8 ≤ (fnOf (updFn awake 0 fun x => { x with aers := [1, 2, 3, 4, 5, 6, 7, 8] }) 0).aers.length ∧ (fnOf awake 0).aers.length < 8 ∧
    (2 : Nat) ∉ (fnOf (updFn awake 0 fun x => { x with aerPending := [(2, 0, 0)] }) 0).aerMasked ∧
    adminSupported 0 0x99 = false ∧ 0x0004 ∉ hmpOpcodes ∧
    aggregated (updFn awake 0 fun x => { x with cqs := [(1, { cqDefault with size := 8, ien := true, pendingIrq := 1, irqSince := some 0 })] }) 0 0
      ≠ [] := by decide

theorem witness_VirtualizationManagement :
    (255 : Nat) ≤ awake.prof.totalVfs ∧ (fnOf awake 1).ccEn = true ∧ (fnOf State.reset 1).ccEn = false ∧ (fnOf State.reset 1).online = false ∧
    assignedElse State.reset 1 + 128 ≤ 16256 ∧ (fnOf awake 1).online = true ∧ (fnOf awake 1).present = true ∧ (fnOf awake 1).vqAssigned ≠ 0 := by
  decide

theorem witness_NamespacesAndFunctions :
    awake.sec.sanitizing = false ∧ freeNsid awake = some 3 ∧ createError awake false 16 ⟨5, .none, false⟩ [] = none ∧ (nsOf awake 1).isSome = true ∧
    nsBusy awake 1 = false ∧ nsBusy (withCmd (cmd (.flush (io 2)) true true)) 2 = true ∧ nsOf awake 3 = none ∧
    (nsOf awake 2).any (fun ns => ! ns.zoned && ns.attached.contains 0 && !ns.attached.contains 1) = true ∧
    (nsOf (updNs awake 1 fun x => { x with attached := [] }) 1).any (fun ns => ns.zoned && ns.attached.isEmpty) = true ∧
    (fnOf awake 1).aers = [] ∧ formatOk ⟨5, .none, false⟩ = true ∧ setGrants awake 0 255 = true ∧ setGrants awake 9 0 = false ∧ (255 : Nat) ≤ awake.prof.totalVfs := by decide

theorem witness_FormatAndSanitize :
    (nsOf awake 1).isSome = true ∧ nsBusy awake 1 = false ∧ nsOf awake 3 = none ∧ awake.sec.cryptoDisable = false ∧
    awake.sec.sanitizing = false ∧ nsBusy (withCmd (cmd (.flush (io 2)) true true)) 2 = true := by decide

theorem witness_ZoneLimitsAndBaySets : HmpServed awake (req 6) ruleZoneLimits ∧ HmpServed awake (req 68) ruleBaySet ∧
    activeLimitSum { awake with zns := { awake.zns with limits := tblSet 255 (128, 128) awake.zns.limits } } ≤ 32768 ∧
    32768 < activeLimitSum { awake with zns := { awake.zns with limits := tblSet 255 (129, 128) awake.zns.limits } } ∧
    setDefined awake 255 = false := by unfold HmpServed hmpPasses; decide

/-- `awake` with bay set 255 over bay 0 alone. -/
def set255 : State := { small with zns := { awake.zns with namespaces := [], sets := [(255, { setDefault with bays := 1 })] } }

theorem witness_baySets : setDefined set255 255 = true ∧
    (baySetConflict set255 (tblDel 255 (withBays set255.zns.sets 255 0)) 255 false 0).isSome = false := by decide

/-- Every request rule that a statement names serves a request of the PF with the length that it asks for. -/
theorem witness_served_requests :
    (∀ r ∈ [ruleBlowerReport, ruleBlowerService, ruleFaultSnapshot, ruleThresholdSet, ruleFaultClear, ruleFirstError,
            ruleProfileRead, ruleRecalibrate, ruleMicrocode, ruleContractSet, ruleContractReport, ruleBayCapacity, ruleCalendar, ruleRetrain,
            ruleFailover, ruleIslandReport, ruleKeySlot 88, ruleKeySlot 16, ruleKeySlot 112, ruleSetKpio, ruleRollover, ruleRegions, ruleCancel,
            ruleVersion, ruleOperation, ruleBadBlocks, ruleWear, ruleRetire, ruleZoneLimits, ruleBaySet, ruleQuota, rulePools,
            ruleDormerPosition, ruleEventRead, ruleEnergy, ruleCounters, ruleSupplyReport, ruleHoldupAudit, ruleThermal, ruleWarm,
            rule 0x0004 sendAll none],
      HmpServed awake (req (r.len.getD 0)) r) := by unfold HmpServed hmpPasses; decide

/-- `awake` with Key Per I/O on for namespace 2 and a KEK of the PF. -/
def keyed : State := { awake with sec := { awake.sec with kpioOn := [2], keks := [(0, 3), (1, 4)] } }

theorem witness_LogsSecurityAndIdentify :
    (nsOf keyed 2).any (fun ns => (injectRefusal keyed ns 0 5 true false).isNone && (injectRefusal keyed ns 1 5 true false).isSome) = true ∧
    mctpServes awake = true ∧ mctpServes State.reset = false ∧ isHealthPoll [] = false ∧
    (logBytes awake 0 0x02 0).isSome = true ∧ (logBytes awake 0 0xAA 0).isNone = true ∧ (logBytes awake 0 0x02 0).isSome = true ∧
    (identifyBytes awake 0 0x01 0 0 0).isOk = true ∧ (identifyBytes awake 0 0x1D 0 9 0).isOk = false ∧ mctpServes (beginWake awake .mctp) = true := by decide

/-- `awake` with an image staged. -/
def staged (type svn : Nat) (good : Bool) : State :=
  { awake with sec := { awake.sec with staged := some { type := type, keyIndex := 0, imageId := 1, svn := svn, version := 2, verified := good,
                                                        tableFormat := 1, revoke := 0 }, svnFw := 5 } }

theorem witness_FirmwareImages :
    (staged 2 5 true).chg.activating = none ∧ ((staged 2 5 true).sec.staged.any fun h => h.verified && keyAllowed (staged 2 5 true) h &&
      decide (svnFloor (staged 2 5 true) 2 ≤ h.svn)) = true ∧
    ((staged 2 4 true).sec.staged.any fun h => decide (h.svn < svnFloor (staged 2 4 true) h.type)) = true ∧
    ((staged 1 5 false).sec.staged.any fun h => !h.verified) = true ∧
    stagedError (staged 3 5 true) = none ∧ 5 ≤ coresIn awake ∧ 2 ≤ ridgeIn awake ∧ runningFormat (staged 2 5 true) = 0 ∧
    coresIn { awake with flt := { awake.flt with cores := List.replicate 4 ⟨.active, 0, false, false⟩ } } < 5 := by decide

theorem witness_activation :
    let s : State := { awake with chg := { awake.chg with activating := some (0, 7, 2) }, sec := { awake.sec with
      active := [(2, { type := 2, keyIndex := 0, imageId := 1, svn := 1, version := 2, verified := true, tableFormat := 1, revoke := 0 })] } }
    s.chg.activating = some (0, 7, 2) ∧ mgmtDown s = false ∧ s.eav.powerLoss = false ∧ plannedOk s = true ∧
    plannedOk { s with flt := { s.flt with lastPlannedEnd := some (now s) } } = false ∧ svnFloor s 2 < 1 ∧
    tblGet s.tm.opSeconds 2 s.sec.activeSince + 3600 ≤ s.tm.opSeconds + 3600 ∧
    (coresOf s 2).any (fun c => c.st == .active && !c.newImage) = true := by decide

/-- A Board Profile image with one entry. -/
def profImg (record first : Nat) (data : List Byte) : ProfImage := { hdr := (factoryImage 4).hdr, entries := [⟨record, recordBytes record, first, data⟩], format := 1 }

/-- `awake` on a part that an integrator has provisioned. -/
def locked : State := { awake with sec := { awake.sec with integLock := true } }

theorem witness_served_update : let r := ruleProfileUpdate (profImg 3 0 [5])
    HmpServed locked (req (r.len.getD 0)) r := by unfold HmpServed hmpPasses; decide

/-- An update of an L field, of a Q field, of a B field, and of a value out of range. -/
theorem witness_BoardProfile :
    locked.chg.activating = none ∧ updateError locked false false (profImg 3 0 [5]) = none ∧ writesQ locked (profImg 3 0 [5]) = false ∧
    (updateError locked false false (profImg 3 0 [65])).isSome = true ∧ (updateError { locked with fl := { locked.fl with geo := { locked.fl.geo with built := true } } } false false (profImg 1 0 [33])).isSome = true ∧
    updateError locked false false (profImg 1 0 [33]) = none ∧
    updateError locked false false (profImg 16 46 [0x58]) = none ∧ writesQ locked (profImg 16 46 [0x57]) = true ∧
    profComplete (profImg 3 0 [5]) = false ∧ imageValid locked 4 (profImg 3 0 [5]).hdr = true ∧
    imageValid locked 4 { (profImg 3 0 [5]).hdr with verified := false } = false ∧ 17 ∈ recordIds ∧ 18 ∉ recordIds ∧ (15 : Nat) < recordBytes 17 := by
  decide

theorem witness_KeySlotsAndKeks :
    (nsOf keyed 2).any (fun ns => ownFn (.fn 0) 0 && (injectRefusal keyed ns 0 5 true false).isNone && (injectRefusal keyed ns 0 5 false false).isSome &&
      (tagSlot keyed 2 5).isNone) = true ∧
    ownFn (.fn 1) 0 = false ∧ tblFind? 1 keyed.sec.keks ≠ none ∧ tblFind? 2 keyed.sec.keks = none ∧
    (tagSlot { keyed with sec := { keyed.sec with slots := [(7, { keySlotDefault with state := 3, owner := 1, nsIndex := 1, tag := 5 })] } } 2 5).any
      (·.2.owner != 0) = true ∧
    (∀ r ∈ awake.sec.rollovers, r.1 ≠ 1) ∧ liveHandles awake (.fn 0) < 64 ∧ ((mediaSlots awake 1).find? fun e => e.2.state == 1).isSome = true ∧
    rolloverDone awake 1 = false ∧
    rolloverDone { awake with sec := { awake.sec with rollovers := [(1, .fn 0, 1)] } } 1 = true := by decide

/-- `awake` with the PF's mailbox running, `n` requests waiting in its ring of 16 slots. -/
def mailbox (n : Nat) : State := updMailbox awake 0 fun m => { m with enable := true, active := true, reqTail := n }

/-- A good request header. -/
def raw : HmpRaw := { version := 1, flags := 0, opcode := 1, tag := 5, source := 0, status := 0, length := 0, dataAddr := 0, dataSize := 0,
                      reserved28 := 0, devtimeRx := 0, devtimeDone := 0, detail := 0, reserved56 := 0, crc := 0 }

theorem witness_MailboxRings :
    barReachable awake 0 = true ∧ barReachable State.reset 0 = false ∧ (15 : Nat) < ringSlots (fnOf (mailbox 1) 0).mailbox ∧
    mayTake (mailbox 1) 0 = true ∧ mayTake (mailbox 0) 0 = false ∧ (fnOf awake 0).mailbox.enable = false ∧
    ringDist (fnOf (mailbox 1) 0).mailbox 0 1 ≤ 1 ∧ headerBad .bar raw = none ∧ headerBad .bar { raw with flags := 1 } = some 1 ∧
    headerBad .bar { raw with dataAddr := 4 } = none ∧ headerBad .bar { raw with dataSize := 1048577 } = none ∧ beginWake awake .register = awake ∧
    findReq (mailbox 1) (barStream 0) 5 = none ∧ answered (mailbox 1) (barStream 0) 5 = none ∧
    (findReq { mailbox 1 with hmp := { awake.hmp with requests := [joined 5] } } (barStream 0) 5).isSome = true := by decide

/-- An answer to tag 5 of the stream that is still to be posted. -/
def reply (st : Stream) : HmpResp := { stream := st, tag := 5, opcode := 1, status := 0, detail := 0, payload := [], devtimeRx := 0, devtimeDone := none }

/-- `awake` with the mailbox engine's part set. -/
def withHmp (f : HmpSt → HmpSt) : State := { mailbox 1 with hmp := f awake.hmp }

/-- Responses that wait for their posting on the PF's mailbox: `n` of them to writing requests, tags 5 upwards. -/
def posting (n : Nat) : State := withHmp fun h => { h with toPost := (List.range n).map fun i =>
  ⟨{ joined (5 + i) with order := i, opcode := 0x0501 }, { reply (barStream 0) with tag := 5 + i, opcode := 0x0501 }, false⟩ }

theorem witness_mailboxResponse :
    ((postingOf (posting 2) 0 5).any fun p => mayPost (posting 2) p) = true ∧ ((postingOf (posting 2) 0 6).any fun p => !mayPost (posting 2) p) = true ∧
    barReachable (posting 2) 0 = true ∧ hmpStopped (posting 2) = false ∧ (fnOf (posting 2) 0).mailbox.notifyOnResponse = false := by decide

theorem witness_MctpAndAdminTransport :
    mctpServes awake = true ∧ headerBad .mctp { raw with crc := (crc32c (rawBytes raw)).toNat } = none ∧
    findReq awake ⟨.oob 8, .mctp⟩ 5 = none ∧ answered awake ⟨.oob 8, .mctp⟩ 5 = none ∧ oobTaken awake 8 < awake.prof.oobInflight ∧
    awake.prof.oobInflight ≤ oobTaken (withHmp fun h => { h with requests := [1, 2, 3, 4].map fun t =>
      { joined t with stream := ⟨.oob 8, .mctp⟩ } }) 8 ∧ awake.prof.mctpEid = 0 ∧ isRunning awake 3 = true := by decide

/-- An endpoint's message tag 2 that is a request. -/
theorem witness_mctp : let s := beginWake awake .mctp
    mctpServes s = true ∧ headerBad .mctp { raw with crc := (crc32c (rawBytes raw)).toNat } = none ∧ headerBad .mctp raw = some 60 ∧
    findReq s ⟨.oob 8, .mctp⟩ 5 = none ∧ answered s ⟨.oob 8, .mctp⟩ 5 = none ∧ oobTaken s 8 < s.prof.oobInflight ∧
    mctpServes (beginWake State.reset .mctp) = false ∧ isHmpMessage ⟨8, 2, 0x7E, false, 0x1F6B⟩ = true ∧
    (({ eid := 8, msgTag := 2, msgType := 0x7D, ic := false, vendor := 0x1F6B } : MctpSrc).msgType ≠ 0x7E) := by decide

theorem witness_adminTransport :
    adminFetch awake 0 = true ∧ hmpStopped awake = false ∧ AdminRoom awake 0 ∧ headerBad .admin raw = none ∧
    findReq awake (adminStream 0) 5 = none ∧ answered awake (adminStream 0) 5 = none ∧ heldOrDue awake 0 < 64 ∧
    64 ≤ heldOrDue (withHmp fun h => { h with held := List.replicate 64 (reply (adminStream 0)) }) 0 ∧
    heldMatch awake 0 5 = none ∧ heldMatch (withHmp fun h => { h with held := [reply (adminStream 0)] }) 0 5 = some (reply (adminStream 0)) ∧
    64 + (reply (adminStream 0)).payload.length ≤ 64 ∧ (65 : Nat) < 64 + [0, 0].length ∧
    (let c : CollectSt := ⟨0, 7, 5, 64, 100000000⟩
     ((withHmp fun h => { h with collects := [c] }).hmp.collects.find? fun c => c.fn == 0 && c.cid == 7) = some c ∧
       c.ends ≤ now awake ∧ now awake < { c with ends := 100000001 }.ends) ∧
    adminFetch (withHmp fun h => { h with stopped := true }) 0 = true ∧ hmpStopped (withHmp fun h => { h with stopped := true }) = true := by
  unfold AdminRoom; decide

theorem witness_OperationsAndCancel :
    let h : HandleSt := ⟨.fn 0, .bar, 5, 3, 1, 0, 0, 0, 0, none⟩
    let long : State := withHmp fun x => { x with handles := [h] }
    ([h].find? fun h => h.sender == (req 4).sender && h.handle == 3) = some h ∧ (∀ h ∈ awake.hmp.handles, ¬(h.sender = .fn 0 ∧ h.handle = 3)) ∧
    (findReq (withHmp fun h => { h with requests := [joined 5] }) (streamOf (req 4)) 5).isSome = true ∧
    findReq long (streamOf (req 4)) 5 = none ∧ hasStarted long (streamOf (req 4)) 5 = true ∧ hasStarted awake (streamOf (req 4)) 5 = false ∧
    (∃ p ∈ (posting 1).hmp.toPost, p.req.stream = streamOf (req 4) ∧ p.req.tag = 5) ∧
    (∃ h ∈ long.hmp.handles, h.sender = (req 4).sender ∧ h.transport = (req 4).transport ∧ h.tag = 5 ∧ h.state = 0) ∧
    findReq awake (streamOf (req 4)) 5 = none ∧ (∀ p ∈ awake.hmp.toPost, ¬(p.req.stream = streamOf (req 4) ∧ p.req.tag = 5)) ∧
    awake.boot.phase = 5 ∧ (now awake < { h with endedAt := some 99000000 }.endedAt.getD 0 + 3600000000) := by decide

theorem witness_Reports :
    awake.sup.rails.length = 11 ∧ (supplyBytes awake).length ≤ (req 0).room ∧ cursorBad awake 0 false = true ∧
    cursorBad { awake with evt := { awake.evt with nextSeq := 1024 } } 1023 true = false ∧ ownFn (.fn 0) 255 = true ∧ ownFn (.fn 1) 0 = false ∧
    diePopulated awake.prof 4095 = true ∧ diePopulated { awake.prof with channel := 0 } 4095 = false ∧ (die awake 4095).retired = false ∧
    plannedOk awake = true ∧ 128 ≤ (List.range 128).length := by decide

theorem witness_ContractSet :
    let k : Contract := ⟨0, 0, false, 4000000, 0, 1, 1, 0, 255, 0, 0, 0, 0⟩
    let full : State := { small with adm := { small.adm with linkCapacity := 0 } }
    ((demandChecks small [] (withContract [] (startLevels [] k)) k).find? (·.fails)).isNone = true ∧
    ((demandChecks full [] (withContract [] (startLevels [] k)) k).find? (·.fails)).isSome = true := by decide

theorem witness_BufferPools : (∀ p ∈ [0, 1, 2, 3], (quotaRange p).1 ≤ (quotaRange p).2) ∧ 3 < 4 ∧
    quotaSum (withQuota awake.prof 0 (quotaRange 0).1) ≤ 11264 ∧
    11264 < quotaSum (withQuota (withQuota awake.prof 0 (quotaRange 0).2) 1 (quotaRange 1).2) := by decide

theorem witness_DoorbellsAndRegisters :
    barReachable awake 0 = true ∧ barReachable State.reset 0 = false ∧ 0 < adminSize (fnOf awake 0) 0 ∧
    (island (updIsland awake 47 fun x => { x with st := .isolated }) (chIsland 31)).st = .isolated ∧ awake.boot.phase ≠ 6 ∧ awake.bat.entryAt = none ∧ tblFind? 1 (fnOf awake 0).sqs = some ⟨8, 1, 0, 0⟩ ∧ 7 < 8 ∧
    tblFind? 2 (fnOf awake 0).sqs = none ∧ (∀ w ∈ awake.host.cqWait, ¬(w.1.fn = 0 ∧ w.1.cqid = 1)) ∧ (fnOf awake 0).mailbox.active = false ∧
    (fnOf (mailbox 1) 0).mailbox.active = true ∧ bits 2047 0 11 < vectorsOf 0 ∧ vectorsOf 1 ≤ bits 64 0 11 ∧ chRunning awake 31 = true ∧
    mgmtDown awake = false ∧ ((4 : Nat) ≠ 4 ∧ (4 : Nat) ≠ 8 ∨ 2 % 4 ≠ 0) := by decide

theorem witness_FunctionResetsAndLink :
    barReachable State.reset 1 = false ∧ barReachable awake 1 = true ∧ (fnOf (updFn awake 0 fun x => { x with ccEn := false }) 0).ccEn = false ∧
    (beginWake awake .register).boot.phase = 5 ∧ (fnOf (beginWake awake .register) 0).online = true ∧ (fnOf awake 2).online = false ∧
    (fnOf awake 0).cfs = false ∧ awake.host.linkUp = true ∧ State.reset.host.linkUp = false ∧
    { awake.host with vfEnabled := true }.vfEnabled = true ∧
    (fnOf awake 1).ccEn = true ∧ (fnOf awake 1).present = true ∧ (fnOf awake 2).present = false ∧
    (fnOf (fnReset .controller 0 awake) 0).ccEn = false ∧ (fnOf (fnReset .controller 0 awake) 0).online = true ∧
    (fnOf (fnReset .controller 0 awake) 0).cfs = false ∧ isRunning awake 1 = true ∧ awake.pins.testMode = false ∧
    awake.host.vfEnabled = false ∧ 255 ≤ awake.prof.totalVfs ∧ awake.host.lastNumVfs ≠ 255 ∧
    (2047 : Nat) < vectorsOf 0 ∧ 3 ∈ (fnOf (updFn awake 0 fun x => { x with msixPending := [3] }) 0).msixPending ∧
    3 ∉ (fnOf awake 0).msixPending := by decide

theorem witness_IoCommandsAreEvaluated :
    canFetch awake (io 1) = true ∧ canFetch State.reset (io 1) = false ∧ cmdOf awake 0 1 9 = none ∧
    (nsOf awake 1).any (fun ns => attachedTo ns 0 && (selectKey awake (io 1) ns).isSome && !attachedTo ns 1 && ns.zoned &&
      decide (524288 * lbaUnits ns % zoneUnits = 0 ∧ 524288 < ns.nsze) && !extBad ns (zeros 64)) = true ∧
    (nsOf awake 2).any (fun ns => (selectKey awake { io 2 with cet := 1 } ns).isNone && !ns.zoned &&
      decide (2048 * lbaUnits ns ≤ 2048 ∧ 512 + 512 ≤ ns.nsze ∧ 2048 < 2049 * lbaUnits ns)) = true ∧
    nsOf awake 3 = none ∧ 7 % 256 ≤ 7 ∧ sumNat ([(0, 512), (512, 512)].map (·.2)) ≤ 32768 := by decide

/-- A command that no service is open to. -/
def longWrite : Cmd := { cmd (.write (io 2) 0 1) true false with hend := awake.tm.devTime + 50 }

theorem witness_EvaluationStartsCommands :
    awake.eav.powerLoss = false ∧ (planService awake (cmd (.flush (io 2)) true false) true).degraded = false ∧
    (planService awake (cmd (.flush (io 2)) true false) true).reason = 0 ∧
    withinContract awake (planService awake (cmd (.flush (io 2)) true false) true).cmd = false ∧
    slackGrant awake (planService awake (cmd (.flush (io 2)) true false) false).cmd = true ∧
    (planService awake (cmd (.write (io 2) 0 1) true false) false).reason ≠ 0 ∧
    now awake < longWrite.hend ∧ longWrite.hend ≠ longWrite.t0 ∧ holdFree awake 0 = true ∧ cmdOf awake 0 1 9 = none := by decide

/-- `awake` with zone 0 of namespace 1 in state `st`. -/
def zoned (st : ZoneState) : State :=
  { awake with zns := { awake.zns with zones := [((1, 0), { zoneDefault 524288 with st := st })] } }

theorem witness_ZoneActions :
    (∀ st ∈ [ZoneState.empty, .implicitOpen, .explicitOpen, .closed, .full, .readOnly, .offline], (zone (zoned st) 1 0).st = st) ∧
    activationError (zoned .empty) 0 (zone (zoned .empty) 1 0) true = none ∧
    activationError { zoned .empty with zns := { (zoned .empty).zns with limits := [(0, (0, 0))] } } 0 (zone (zoned .empty) 1 0) true ≠ none ∧
    (cmd (.zoneOpen (io 1) 0 false) true true).op = .zoneOpen (io 1) 0 false := by decide

/-- A command held for a thatch of zone 0 of namespace 1. -/
def waiting : Cmd := { cmd (.zoneAppend (io 1) 0 1) true false with nsid := 1, zone := some 0, lastReason := 0xC8, hend := 100000050 }

theorem witness_AdmissionAndWrites :
    cmdOf (withCmd waiting) 0 1 9 = some waiting ∧ waiting.accepted = false ∧ now (withCmd waiting) < waiting.hend ∧
    waiting.hend ≤ now { withCmd waiting with tm := { awake.tm with devTime := 100000050 } } ∧ mgmtDown (withCmd waiting) = false ∧
    (zone (withCmd waiting) 1 0).thatch = none ∧
    (now (at' 9999) < (at' 9999).adm.epochStart + 10000) ∧ ((at' 10000).adm.epochStart + 10000 ≤ now (at' 10000)) ∧
    now (at' 19999) < (at' 19999).adm.epochStart + 20000 ∧ (at' 20000).adm.epochStart + 20000 ≤ now (at' 20000) ∧
    let w := { cmd (.write (io 2) 0 4) true true with units := 4, arrived := 1 }
    cmdOf (withCmd w) 0 1 9 = some w ∧ w.accepted = true ∧ w.write = true ∧ [7, 8, 9].length ≤ w.units - w.arrived ∧
    notRunning (withCmd w) 6 = false ∧ notRunning (withCmd w) 7 = false ∧ 1 ≤ w.arrived - w.inB := by decide

/-- An entry of die 3's calendar. -/
def entry (start len : Nat) (kind : CalKind) : CalEntry := ⟨3, start, len, kind, 0, 0, 0, 0, true, false, 1⟩

theorem witness_calendarEnd :
    let s : State := { awake with fl := { awake.fl with calendar := [entry 99999000 1000 .readGroup] } }
    let gone (a : Nat) (e : CalEntry) : Bool := e.die == 3 && e.start == a && decide (a + e.length ≤ now s)
    s.fl.calendar.any (gone 99999000) = true ∧ s.fl.calendar.any (gone 99999001) = false := by decide

/-- An accepted read of the PF that still waits for a slot, with its deadline now. -/
def lateRead : Cmd := { cmd (.read (io 2) 0 1) false true with dl := 100000000, slots := [⟨0, 1, .direct 3, false, false, none, [], 0⟩] }

/-- Thatch 4 of 16 members, of kind `k`. -/
def thatch4 (k : ThatchKind) : ThatchSt :=
  { thatchDefault with kind := k, members := (List.range 16).map fun i => ⟨128 * i, 9, [], 100, 100, false, false⟩, settled := 100 }

/-- The entry of the first page of thatch 4, a conventional one, under background recovery. -/
def underway (passes next : Nat) (run : Option PassRun) : RecEntry := ⟨0, 4 * 2 ^ 32, passes, next, false, 0, 0, [], 0, run, false⟩

/-- `awake` with thatch 4 and a recovery entry. -/
def recovering (e : RecEntry) : State :=
  { awake with fl := { awake.fl with recovery := [e], thatches := [(4, thatch4 .convClosed)] } }

theorem witness_DeadlineAndPasses :
    cmdOf (withCmd lateRead) 0 1 9 = some lateRead ∧ lateRead.accepted = true ∧ (lateRead.slots.any (!·.done)) = true ∧
    lateRead.dl + (if lateRead.allowance then 500 else 0) ≤ now (withCmd lateRead) ∧
    now (withCmd { lateRead with dl := 100000001 }) < 100000001 ∧
    (cmdOf (withCmd { lateRead with op := .copy (io 2) [(0, 1)] 8, write := true }) 0 1 9).any (fun c => decide (c.arrived = 0)) = true := by decide

theorem witness_recoveryPass :
    let e := underway 1 100000000 none
    let s := recovering e
    recoveryOf s 0 (4 * 2 ^ 32) = some e ∧ e.recovered = false ∧ e.nextAt ≤ now s ∧ s.eav.powerLoss = false ∧
    keyLoc s 0 (4 * 2 ^ 32) = some (4, 0) ∧ e.run = none ∧ now s < (underway 1 100000001 none).nextAt ∧
    keyLoc awake 0 (4 * 2 ^ 32) = none ∧ recoveryOf awake 0 (4 * 2 ^ 32) = none ∧
    1 + 1 < awake.prof.bgPasses ∧ awake.prof.bgPasses ≤ 2 + 1 ∧ (∀ c ∈ s.adm.cmds, ∀ x ∈ c.slots, x.route ≠ .recovered) := by decide

theorem witness_passEnds :
    let going := underway 1 100000000 (some ⟨false, [(0, [(false, 0)])], []⟩)
    let direct := underway 1 100000000 (some ⟨false, [], [0]⟩)
    let lost := underway 1 100000000 (some ⟨true, [], []⟩)
    passEnded (recovering going) going = false ∧ passEnded (recovering direct) direct = true ∧ passHas (recovering direct) direct = true ∧
    passEnded (recovering lost) lost = true ∧ passHas (recovering lost) lost = false := by decide

/-- A descriptor with tag 7 on die 3 of channel 0. -/
def desc (opcode : Nat) (st : DescState) (start : Nat) : Desc :=
  { ch := 0, seqTag := 7, opcode := opcode, slot := 3, firm := true, tokens := 2, cls := 0, dump := false, start := start, length := 75,
    planeMask := 1, shiftSet := 0, block := 9, blks := [], wordline := 0, level := 0, cwFirst := 0, cwLast := 0, thatch := 0, buf := noBuf, dest := (.fabric, 0),
    purpose := .control, st := st, queuedAt := 0, issuedAt := 0,
    suspends := 0, overran := false, waitSince := none, window := none }

/-- A soft stage of die 3 under tag 7 with codeword 0, for `p`. -/
def softWait (p : Purpose) : SoftWait := ⟨{ desc 3 (.issued 0) 0 with purpose := p }, 1⟩

/-- `awake` with `lateRead`, a ladder for its slot 0, a rebuild for the PF and soft stages for `p`. -/
def soft (p : Purpose) (ladders : List Ladder) : State :=
  { withCmd lateRead with fl := { awake.fl with softWaits := [softWait p], ladders := ladders,
                                                rebuilds := [⟨5, 0, 0, 1, 9, 0, 15, 1, false, false, false, []⟩] } }

/-- A ladder of slot 0 of `lateRead` on block 9 of die 3. -/
def ladder : Ladder := ⟨0, 1, 9, 0, 3, 9, 0, 1, false, 0, [], none, 0⟩

/-- Its tag answered as written, and as a foreign page's. -/
theorem witness_SoftDecodeAndHits :
    let p : Purpose := .hostRead 0 1 9 0
    let s := soft p [ladder]
    isRunning s 8 = true ∧ (s.fl.softWaits.find? fun e => e.desc.ch == 0 && e.desc.seqTag == 7) = some (softWait p) ∧
    cmdOf s 0 1 9 = some lateRead ∧ ladderOf s lateRead 0 = some ladder ∧ ladderOf (soft p []) lateRead 0 = none ∧
    tagMisses s (softWait p).desc [⟨0, 2, 0, 0⟩] = 0 ∧ tagMisses s (softWait p).desc [⟨0, 1, 0, 0⟩] ≠ 0 ∧ (softWait p).cws ≠ 0 ∧
    isRunning State.reset 8 = false := by decide

theorem witness_softMembers :
    (softWait (.raMember 5 2)).desc.purpose = .raMember 5 2 ∧ tagMisses (soft (.raMember 5 2) []) (softWait (.raMember 5 2)).desc [] = 0 ∧
    (rebuildOf (soft (.raMember 5 2) []) 5).any (fun r => r.fn != 65535) = true ∧ (softWait (.pass 0 0 2)).desc.purpose = .pass 0 0 2 := by decide

theorem witness_hitsAndSamples :
    let s := recovering (underway 1 0 none)
    min 255 ((block s 3 9).hits + 7) < s.prof.refreshHits ∧
    s.fl.hitsHalvedOp + s.prof.refreshWindow * 3600 ≤ { s with tm := { s.tm with opSeconds := 604800 } }.tm.opSeconds ∧
    s.tm.opSeconds < s.fl.hitsHalvedOp + s.prof.refreshWindow * 3600 ∧ tblFind? 4 s.fl.thatches = some (thatch4 .convClosed) ∧
    closedThatch s (thatch4 .convClosed) = true ∧ closedThatch s (thatch4 .convHost) = false ∧ closedThatch s (thatch4 .zone) = false ∧
    s.tm.opSeconds ≤ s.fl.sampleFrom + s.prof.sampleHours * 3600 ∧ s.fl.sampleFrom + s.prof.sampleHours * 3600 < 86401 := by decide

/-- `awake` with these descriptors, the write window open. -/
def withDescs (ds : List Desc) : State :=
  { awake with fl := { awake.fl with descs := ds, window := { awake.fl.window with isOpen := true } } }

/-- `s` with island `i` in state `st`, fenced or not. -/
def withIsl (s : State) (i : Nat) (st : IslState) (fenced : Bool) : State :=
  updIsland s i fun _ => ⟨st, none, fenced, false, false⟩

theorem witness_DescriptorsIssueAndComplete :
    let d := desc 1 .queued 100000000
    let s := withDescs [d]
    descOf s 0 7 = some d ∧ chRunning s 0 = true ∧ s.eav.replaying = false ∧ isProvisional s d = false ∧ badDesc s d = false ∧
    d.start ≤ now s ∧ now s < (desc 1 .queued 100000001).start ∧ badDesc s { d with planeMask := 16 } = true ∧
    interlocked s d = false ∧ dieReadyFor s d = true ∧ tokensAllow s d = true ∧ tokensAllow s { d with tokens := 100000 } = false ∧
    writeBlocked s (desc 0x10 .queued 0) = false ∧ writeBlocked (withDescs [] |> fun s => { s with fl := { s.fl with window :=
      { s.fl.window with isOpen := false } } }) (desc 0x10 .queued 0) = true ∧
    interlocked (withDescs [{ desc 0x20 (.issued 0) 0 with seqTag := 6 }]) d = true ∧
    dieReadyFor (withDescs [{ desc 0x10 (.issued 0) 0 with seqTag := 6 }]) d = false ∧
    (desc 0x10 (.issued 3) 0).st = .issued 3 ∧ s.eav.powerLoss = false ∧ bufOk s (chIsland 0) d.buf = true ∧ bufOk s (chIsland 0) 5 = false ∧
    (∀ x ∈ s.fl.descs, queuedAhead s x d = false) ∧ queuedAhead s (desc 1 .queued 99999999) d = true := by decide

theorem witness_descriptorCompletion :
    let d := desc 1 (.issued 5) 0
    let s := withDescs [d]
    descOf s 0 7 = some d ∧ (island s (chIsland 0)).st ≠ .stopped ∧ (island (withIsl s (chIsland 0) .stopped false) (chIsland 0)).st = .stopped ∧
    (∀ u ∈ tokenUnits d 0, isFenced s (chIsland d.ch) (unitIsland u) false = false) ∧ tokenUnits d 0 = [.fabric] ∧
    isFenced (withIsl s 5 .isolated true) (chIsland d.ch) (unitIsland .fabric) false = true ∧ descOf awake 0 7 = none ∧
    (die s (descDie d)).lostStatus = false := by decide

/-- `awake` with the write window open and thatch 4 on dies of sixteen channels, its members at course 100. -/
def passing : State :=
  { awake with fl := { awake.fl with window := { awake.fl.window with isOpen := true }, thatches := [(4, thatch4 .convHost)] } }

theorem witness_programPass :
    let s := { passing with fl := { passing.fl with thatches := [(4, { thatch4 .convHost with members := (List.range 16).map fun i =>
      ⟨128 * i, 9, [], 100, 98, false, false⟩ })] } }
    passYields s 4 = false ∧ targetYields s 4 0 = false ∧ (thatch s 4).members[0]? = some ⟨0, 9, [], 100, 98, false, false⟩ ∧
    lastCourse s (thatch s 4) = some 383 ∧ nextPass s 4 0 ⟨0, 9, [], 100, 98, false, false⟩ (memberEnd ⟨0, 9, [], 100, 98, false, false⟩ 383) = some (98, true) ∧
    dieUp s 0 = true ∧ (bookProgram s 0 (now s + 2) s.prof.tFine s.prof.tokProg (s.prof.planes * s.prof.zoneBits) .finePass true descDefault).isSome = true := by
  decide +kernel

theorem witness_WindowsAndTimeouts :
    let o := desc 0x20 (.issued 99999000) 99999000
    let s (o : Desc) : State := { withDescs [o] with fl := { (withDescs [o]).fl with calendar := [entry 100000000 500 .suspendWindow] } }
    windowOf (s o) (128 * 0 + 3) 100000000 = some (entry 100000000 500 .suspendWindow) ∧ dieOp (s o) 3 = some o ∧ isSuspended o = false ∧
    o.suspends < suspendLimit awake.prof o ∧ suspendLimit awake.prof o ≤ 127 ∧
    isSuspended (desc 0x20 (.suspended 5) 0) = true ∧ dieOp (s (desc 0x20 (.suspended 5) 0)) 3 = some (desc 0x20 (.suspended 5) 0) ∧
    now (s o) < entryEnd (entry 100000000 500 .suspendWindow) ∧ windowOf awake 3 0 = none ∧
    o.start + o.length < now (s o) ∧ now (s o) ≤ (desc 0x20 (.issued 0) 99999925).start + 75 ∧
    o.start + awake.prof.overrunLimit * o.length ≤ now (s o) ∧ now (s o) < 99999851 + awake.prof.overrunLimit * 75 ∧
    o.start + bookedLength (s o) o < now (s o) ∧ windowDesc (s o) 3 100000000 = none ∧ isRunning (s o) (chIsland 0) = true ∧ o.overran = false ∧
    (island (s o) (chIsland 0)).st ≠ .stopped := by decide

/-- A window's own descriptor, queued at its start. -/
theorem witness_windowDesc :
    let o := desc 0x20 (.issued 99999000) 99999000
    let x := { desc 0x30 .queued 100000000 with seqTag := 8 }
    let s : State := { withDescs [o, x] with fl := { (withDescs [o, x]).fl with calendar := [entry 100000000 500 .suspendWindow] } }
    windowDesc s 3 100000000 = some x ∧ (entry 100000000 500 .suspendWindow).start ≤ now s ∧ x.st = .queued ∧ o.dump = false ∧
    dieOp (updDesc s x fun y => { y with st := .issued (now s), issuedAt := now s }) 3 = some o ∧
    (s.fl.descs.any fun x => descDie x == 3 && x.opcode != 0x30 && x.window == some 100000000) = false := by decide

theorem witness_tokenGuard :
    let d : Desc := { desc 0x10 .queued 0 with waitSince := some 99999950 }
    descOf (withDescs [d]) 0 7 = some d ∧ 99999950 + 50 ≤ now (withDescs [d]) ∧ now (withDescs [d]) < 99999951 + 50 ∧ isReadOp d.opcode = false ∧
    ∀ e ∈ (raiseFault (withDescs [d]) 291 (capOf 4 3 (descDie d + d.seqTag * 2 ^ 32) 0 (chIsland 0))).fl.calendar, movable awake e = false := by
  decide

/-- `awake` with the geometry built, flash in service and one zone thatch. -/
def backing : State :=
  { awake with fl := { awake.fl with inService := true, geo := { awake.fl.geo with built := true },
                                     thatches := [(4, { thatchDefault with kind := .zone })] } }

theorem witness_BackgroundWork :
    bgRuns awake = false ∧ bgRuns backing = true ∧ (tblFind? 4 backing.fl.thatches).isSome = true ∧ relocating backing 4 = false ∧
    (thatchDefault.retryAt = none) ∧ ageHours backing { thatchDefault with kind := .zone } < backing.prof.retentionHours ∧
    backing.prof.retentionHours ≤ ageHours { backing with tm := { backing.tm with opSeconds := 5184000 } } { thatchDefault with kind := .zone } ∧
    opUs backing < 100000001 ∧ 100000000 ≤ opUs backing := by decide

/-- `awake` with zone 0 of namespace 1 open on thatch 4, which has settled courses; `ready` is a ready thatch of its bay. -/
def backed (ready : ThatchSt) (us : List EavesUnit) : State :=
  { awake with zns := { awake.zns with zones := [((1, 0), { zoneDefault 524288 with st := .explicitOpen, thatch := some 4 })] }
               fl := { awake.fl with inService := true, window := { awake.fl.window with isOpen := true }, geo := { awake.fl.geo with built := true },
                                     dies := [(256, { dieDefault with blocks := [(7, { blockDefault with use := .underlay, erased := true })] }),
                                              (384, { dieDefault with blocks := [(7, { blockDefault with use := .underlay, erased := true })] })],
                                     thatches := [(4, { thatch4 .zone with nsid := 1 }), (5, ready)] }
               eav := { awake.eav with eEff := 2 ^ 30, units := us, underlayBlock := [(256, 7), (384, 7)] } }

/-- A unit of zone 0 in both Eaves copies. -/
def inEaves : EavesUnit :=
  ⟨0, 0, 1, 0, some 0, 0, 0, 0, 0, true, true, false, 0, false, false, none, 0, [], 0⟩

theorem witness_underlayMove :
    let s := backed thatchDefault [inEaves]
    bgRuns s = true ∧ (((movableZones s).find? fun e => e.1 == (1, 0)).any fun e => underlayDue s e) = true ∧ s.fl.window.isOpen = true ∧
    (moveUnderlay s 1 0).isSome = true := by decide

theorem witness_startRefresh :
    let s := backed { thatch4 .ready with members := (List.range 16).map fun i => ⟨128 * i, 10, [], 0, 0, false, false⟩ } []
    refreshable s (4, thatch s 4) = true ∧ (thatch s 4).kind = .zone ∧
    ((nsOf s 1).bind fun ns => (chooseBay (updZone s 1 0 fun y => { y with thatch := none }) ns (zone s 1 0) 16).map fun x =>
      (bindThatch s x.2 16 x.1 (.target 4) 1 0 (generationOf s 1)).isSome) = some true := by decide

theorem witness_CapacitiesFollow : setDefined awake 0 = true ∧ setDefined awake 9 = false ∧ awake.host.linkUp = true ∧
    State.reset.host.linkUp = false ∧ (6 ≠ awake.host.rate ∨ 8 ≠ awake.host.width) ∧ linkLegal 6 8 = true ∧ linkLegal 6 3 = false ∧
    isRunning awake 1 = true ∧ (min 6 awake.prof.maxSpeed = 6 ∧ min 8 awake.prof.maxWidth = 8) ∧ ¬(min 5 awake.prof.maxSpeed = 6 ∧ min 8 awake.prof.maxWidth = 8) := by
  decide

/-- `awake` with a dump into half 1 running. -/
def dumping : State :=
  { awake with eav := { awake.eav with powerLoss := true, dumpStart := some 99999000,
                                       dump := some ⟨1, 1, [], [], false, false, none, false, [], [], [], []⟩ }, sup := { awake.sup with vs := 0 } }

theorem witness_PowerLossAndReplay :
    awake.isl.islands.length = 42 ∧
    awake.eav.powerLoss = false ∧ dumping.eav.dump.any (fun d => !d.partialMark && decide (d.half < 2)) = true ∧ dumping.sup.vs ≤ vLow dumping ∧
    awake.eav.dumpStart = none ∧
    let r : State := { awake with boot := { awake.boot with phase := 4 }, eav := { awake.eav with replaying := true } }
    r.boot.phase = 4 ∧ r.eav.replaying = true ∧ r.eav.powerLoss = false := by decide

/-- `awake` with channel 31 as given and its island in state `st`. -/
def channel (st : IslState) (x : ChanSt) : State :=
  { awake with isl := { awake.isl with islands := (List.range 42).map fun i => ⟨if i = 41 then st else .running, none, false, false, false⟩ }
               fl := { awake.fl with channels := [(31, x)] } }

theorem witness_ChannelDrainAndBringup :
    isRunning awake (chIsland 31) = true ∧ isRunning (channel .isolated chanDefault) (chIsland 31) = false ∧ (chan awake 31).draining = none ∧
    (chan (channel .running { chanDefault with draining := some 99983616 }) 31).draining = some 99983616 ∧ 99983616 + 16384 ≤ now awake ∧
    now awake < 99983617 + 16384 ∧ channelBusy awake 31 = false ∧ channelBusy (withDescs [desc 1 (.issued 0) 0]) 0 = true ∧
    (chan (channel .heldInReset { chanDefault with rbWait := some 99995000 }) 31).rbWait = some 99995000 ∧ 99995000 + 5000 ≤ now awake ∧
    (island (channel .heldInReset { chanDefault with rbDone := true }) (chIsland 31)).st = .heldInReset ∧
    (chan (channel .heldInReset { chanDefault with rbDone := true }) 31).rbDone = true ∧ awake.flt.excludedChannels.contains 31 = false ∧
    (chan (channel .running { chanDefault with severeDrain := true }) 31).severeDrain = true ∧
    ({ awake.flt with excludedChannels := [31] } : FltSt).excludedChannels.contains 31 = true := by decide

/-- Every die of a channel, and none, out of service. -/
theorem witness_channelBringup :
    let dies := (channelPkgs awake.prof 31).flatMap fun k => pkgDies awake.prof (31, k)
    (∃ d ∈ dies, dieOut awake d = false) ∧
    ∀ d ∈ dies, dieOut { awake with fl := { awake.fl with pkgs := (List.range 8).map fun p => ((31, p), { pkgDefault with out := true }) } } d = true := by decide

/-- `awake` with package 0 of channel 31 as given. -/
def package (x : PkgSt) : State := { awake with fl := { awake.fl with pkgs := [((31, 0), x)] } }

/-- A populated package, trained at DevTime `t`, at 40 °C. -/
def trainedAt (t : Nat) : PkgSt := { pkgDefault with populated := true, trainAt := t, temp := some 40, trainTemp := 40 }

theorem witness_PackagesAndMicrocode :
    awake.fl.window.lastPoll.all (fun t => decide (t + 100000 ≤ now awake)) = true ∧ polledPkgs State.reset = [] ∧
    recalRuns (package (trainedAt 0)) (31, 0) = false ∧
    recalDue (package { trainedAt 100000000 with temp := some (40 + awake.prof.recalDelta + 1) }) (31, 0) = true ∧
    recalDue (package (trainedAt 100000000)) (31, 0) = false ∧
    recalRuns (package { trainedAt 0 with recalAt := some 5 }) (31, 0) = true ∧
    recalFree (package (trainedAt 0)) (31, 0) = true ∧
    (∀ x ∈ (package { trainedAt 0 with recalAt := some 5 }).fl.descs, descDie x ∉ pkgDies awake.prof (31, 0)) ∧
    7 ∈ channelPkgs awake.prof 31 ∧ 7 ∉ channelPkgs { awake.prof with channel := 0 } 31 ∧ awake.chg.ucLoad = none ∧ awake.chg.recal = none ∧
    liveHandles awake (.fn 0) < 64 ∧ (2 ^ 32 - 1).testBit 31 = true ∧ (∀ c, c < 32 → diesPerCh awake.prof (c / 16) ≠ 0) ∧
    maskChannels (2 ^ 31) 1 = [31] := by decide

/-- The window's judgement at its bounds, and the clauses of a recalibration. -/
theorem witness_windowAndRecal :
    let at' (t : Int) : State :=
      { awake with isl := { awake.isl with islands := (List.range 42).map fun i => ⟨if i = 41 then .running else .isolated, none, false, false, false⟩ }
                   fl := { awake.fl with pkgs := (List.range 8).map fun p => ((31, p), { trainedAt 0 with temp := some t, fails := 1 }) } }
    (∃ t ∈ pollTemps (at' (-1)), t < 0) ∧ (∃ t ∈ pollTemps (at' 86), 85 < t) ∧ pollTemps (at' 2) ≠ [] ∧ (∀ t ∈ pollTemps (at' 2), 2 ≤ t ∧ t ≤ 83) ∧
    (∀ t ∈ pollTemps (at' 83), 2 ≤ t ∧ t ≤ 83) ∧ awake.fl.window.inRange = 0 ∧ (pkg (at' 2) (31, 0)).fails = 1 ∧
    recalFits (package (trainedAt 0)) (31, 0) = true ∧ recalClears (package (trainedAt 0)) (31, 0) = true := by decide

theorem witness_microcodeTurn :
    let s : State := { awake with chg := { awake.chg with ucLoad := some (.fn 0, 1, 1, 1), ucTurnLow := some 0 } }
    s.chg.ucTurnLow = some 0 ∧ channelBusy s 0 = false ∧ mgmtDown s = false ∧
    let u := flushChannel s 0
    let b := forEach (channelPkgs u.prof 0) (bringPkg 0 ((List.range 8).map fun k => ⟨k, true, true, some 40⟩)) u
    channelPkgs b.prof 0 ≠ [] ∧ ∀ k ∈ channelPkgs b.prof 0, ∀ d ∈ pkgDies b.prof (0, k), (pkg b (diePkg d)).out = true → (die b d).retired = true := by decide

/-- `awake` with the thermal part set. -/
def warmed (f : ThmSt → ThmSt) : State := { awake with thm := f awake.thm }

theorem witness_ThermalSteps :
    (warmed fun t => { t with belowSince := some 99900000 }).thm.belowSince = some 99900000 ∧ 99900000 + 100000 ≤ now awake ∧ now awake < 99900001 + 100000 ∧
    (warmed fun t => { t with step := .warm }).thm.step = .warm ∧ (∀ b ∈ awake.thm.d3, b = false) ∧
    true ∈ (warmed fun t => { t with step := .warm, d3 := [false, true] }).thm.d3 ∧
    (∃ e ∈ (warmed fun t => { t with step := .critical, tjTrace := [(99900000, 104)] }).thm.tjTrace, now awake ≤ e.1 + 100000 ∧
      105 < e.2 + (awake.prof.hysteresis : Int)) ∧
    stepRank awake.thm.step < stepFor awake 95 ∧ stepFor awake 94 = 0 ∧ stepFor awake 105 = 2 ∧ stepFor awake 115 = 3 := by decide

theorem witness_trip :
    let t := judgeReadings (takeReadings awake [some 25])
    t.thm.tripped = false ∧ (∀ i ∈ convertingSensors awake, (sensor t i).valid = false ∨ (sensor t i).hotCount < 2) ∧
    (let h : State := { awake with thm := { awake.thm with sensors := vecUpd awake.thm.sensors 0 fun x => { x with hotCount := 1 } } }
     ((convertingSensors h).find? fun i => (sensor (judgeReadings (takeReadings h [some 125])) i).valid &&
       decide (2 ≤ (sensor (judgeReadings (takeReadings h [some 125])) i).hotCount)) = some 0) ∧
    (let d := { dumping with thm := { awake.thm with tripped := true, tripAt := some 99900000 }, eav := { dumping.eav with dumpStart := some 99900000 } }
     d.thm.tripAt = some 99900000 ∧ d.eav.dumpStart = some 99900000 ∧ d.eav.dump.isSome = true) ∧
    (warmed fun t => { t with coolSince := some 99000000, tripWait := true }).thm.coolSince = some 99000000 ∧
    99000000 + 1000000 ≤ now awake ∧ now awake < 99000001 + 1000000 := by decide

theorem witness_SensorsAndWarmLoad :
    sensorDefault.valid = true ∧ { sensorDefault with valid := false }.valid = false ∧ awake.thm.diodes.length = 8 ∧ (∀ n, n < 8 → remoteRole awake.prof n = 0) ∧
    awake.thm.warmOp = none ∧ awake.fl.window.isOpen = false ∧ awake.thm.step = .normal ∧ liveHandles awake (.fn 0) < 64 := by decide

/-- `awake` with DRAM channel DA as given, two ranks in use and a spare. -/
def dram (f : DramCh → DramCh) : State :=
  let rank (u : RankUse) : RankSt := { rankDefault with use := u }
  updDram awake false fun x => f { x with ranks := [rank .inUse, rank .inUse, rank .spare], rankMap := [0, 1] }

/-- A codeword with all its 64 bytes written. -/
def fullEntry : MergeEntry := ⟨0, (List.range 64).map fun i => (i, 0), 100000000⟩

theorem witness_DramAccesses :
    dramRuns (dram id) false = true ∧ dramRuns State.reset false = false ∧ maskFull fullEntry = true ∧ maskFull { fullEntry with writes := [(0, 1)] } = false ∧
    ((dramCh (dram fun x => { x with merge := [fullEntry] }) false).merge.find? fun e => e.addr == 0) = some fullEntry ∧
    fullEntry.since + 1 ≤ now (at' 100000001) ∧ now awake < fullEntry.since + 1 ∧
    (dramCh (dram id) false).merge = [] ∧ isFresh (dramCh (dram id) false) 0 = false ∧
    (rankOf (dramCh (dram id) false) 1).use = .inUse ∧ (rankOf (dramCh (dram id) false) 1).selfRefresh = false ∧
    tRefi (rankOf (dramCh (dram id) false) 1) ≤ 100 * (now (dram id) - tblGet 0 31 (rankOf (dramCh (dram id) false) 1).lastRefresh) ∧
    (dramCh (dram fun x => { x with panicSince := some 99999900 }) false).panicSince = some 99999900 ∧
    now awake ≤ 99999900 + 100 ∧ 99999899 + 100 < now awake ∧ (dramCh (dram id) false).postponed < 4 ∧
    (∀ x ∈ (dramCh (dram id) false).rows, ¬(x.port = 6 ∧ x.rank = 1 ∧ x.bank = 31)) ∧ 2047 < awake.prof.rowActLimit * 256 ∧
    awake.prof.rowActLimit * 256 ≤ 2048 ∧ panicHolds (dram id) false = false ∧
    panicHolds (dram fun x => { x with waiting := [⟨0, now awake - 1, 0, [(0, 1)]⟩] }) false = true ∧
    panicHolds (dram fun x => { x with waiting := [⟨0, now awake, 0, [(0, 1)]⟩] }) false = false := by decide

theorem witness_loft : let l : LoftPage := ⟨2, 0, false, [false, true, false, true], 0, 0, [], 0⟩
    (([l] : List LoftPage).find? fun l => l.nsid == 2 && l.page == 0) = some l ∧ 4 ≤ l.replicas.length ∧
    (awake.dram.loft.find? fun l => l.nsid == 2 && l.page == 0) = none := by decide

theorem witness_DramRanks :
    dramRuns (dram id) true = true ∧ (dramCh (dram fun x => { x with stale := true }) false).stale = true ∧
    (dramCh (dram fun x => { x with resilvering := true }) false).panicSince = none ∧ hottestRank (dramCh (dram id) false) < 95 ∧
    spareOf (dramCh (dram id) false) = some 2 ∧ migrationRuns (dram id) = false ∧ plannedOk (dram id) = true ∧
    (let due := dram fun x => { x with noRepair := [(1, 0)] }
     migrationDue (dramCh due false) 1 = true ∧ migrationDue (dramCh due false) 0 = false) ∧
    retrainNeeded awake.prof { rankDefault with trainRate := 1, rate := 2 } = false ∧
    retrainNeeded awake.prof { rankDefault with trainRate := 1, rate := 3 } = true ∧
    (let f := dram fun x => { x with fresh := [0] }
     isFresh (dramCh f false) (granule 0) = true ∧ isPoison (dramCh f false) 0 = false) ∧
    isMirrored (dram id) 0 = false ∧
    (let c := dram fun x => { x with corrected := [((1, 0, 7), [1, 2, 3, 4])] }
     c.prof.pprThreshold ≤ (correctedIn c (dramCh c false) (1, 0, 7)).length ∧ (correctedIn c (dramCh c false) (1, 0, 8)).length < c.prof.pprThreshold) ∧
    (let m := dram fun x => { x with migrating := some (1, 2) }
     (dramCh m false).migrating = some (1, 2) ∧ (dramCh m false).migrateOp = none ∧ 2 < (dramCh m false).ranks.length ∧
     ∀ x ∈ (dramCh m false).noRepair, x.1 ≠ 1) := by decide

/-- The reads of a scrub, a channel's temperatures and ranks, and room for a Loft frame. -/
theorem witness_scrubAndPoll :
    let f := dram fun x => { x with fresh := [0] }
    let clean : CodewordRead := ⟨0, []⟩
    readCodeword (dramCh f false) 0 clean = .clean ∧ readCodeword (dramCh f false) 0 ⟨1, []⟩ = .uncorrectable ∧
    readCodeword (dramCh f false) 0 ⟨0, [(0, 1)]⟩ = .corrected ∧ isFresh (dramCh f true) (granule 0) = false ∧
    95 ≤ hottestRank { dramCh f false with ranks := [{ rankDefault with use := .inUse, temp := 95 }] } ∧
    hottestRank { dramCh f false with ranks := [{ rankDefault with use := .inUse, temp := 94 }] } < 95 ∧ vecGet false awake.thm.d3 0 = false ∧
    (rankOf (dramCh f false) 0).use = .inUse ∧ (rankOf (dramCh f false) 2).use ≠ .inUse ∧ (dramCh f false).ranks.length = 3 ∧
    spareOf (dramCh awake false) = none ∧
    loftUsed { awake with dram := { awake.dram with division := [128, 128, 4992, 4176, 80, 88800] } } false <
      loftFrames { awake with dram := { awake.dram with division := [128, 128, 4992, 4176, 80, 88800] } } ∧
    notRunning awake (dramIsland false) = false ∧ ¬ loftUsed awake false < loftFrames { awake with dram := { awake.dram with division := [] } } := by decide

/-- `awake` with the blower as given. -/
def blower (f : AirSt → AirSt) : State := { awake with air := f awake.air }

theorem witness_BlowerProtection :
    isRunning State.reset 9 = false ∧ isRunning awake 9 = true ∧ (blower fun x => { x with driverFaultAt := some 99900000 }).air.driverFaultAt = some 99900000 ∧
    99900000 + 100000 ≤ now awake ∧ now awake < 99900001 + 100000 ∧ awake.air.stopping = false ∧ awake.air.stuckClosed = false ∧
    95000000 + 5000000 ≤ now awake ∧ now awake < 95000001 + 5000000 ∧ turning .running = true ∧ turning .off = false ∧
    90000000 + 10000000 ≤ now awake ∧ now awake < 90000001 + 10000000 ∧ awake.air.busOv = false ∧ awake.prof.clampOn * 100 ≤ 14500 ∧
    13800 ≤ awake.prof.clampOff * 100 ∧ 99999980 + 20 ≤ now awake ∧ now awake < 99999981 + 20 ∧ awake.prof.busOv * 100 ≤ 16000 ∧
    15999 < awake.prof.busOv * 100 ∧ 40000000 + 60000000 ≤ now awake ∧ awake.air.runningSince = none ∧ awake.air.stalls < 2 ∧
    13799 < awake.prof.clampOff * 100 ∧ (blower fun x => { x with busOv := true }).air.busOv = true ∧ awake.air.clamp ≠ true ∧
    (∀ t, awake.air.clampSince = some t → t + 20 ≤ now awake) ∧ mayStart awake = false ∧
    (blower fun x => { x with wanted := true }).air.stallAt = none ∧ mayStart (blower fun x => { x with wanted := true }) = true ∧
    awake.air.judged = false ∧ awake.air.absent = false ∧ (judgeBus (blower fun x => { x with st := .running }) 1999).air.absent = true ∧
    (judgeBus awake 2000).air.absent = false ∧ (blower fun x => { x with judged := true }).air.judged = true ∧ clampLatched awake = false := by decide

/-- The limit of both axes together (R348), and a curve that ends at its first repeated point (R360). -/
theorem test_blower_figures :
    axisLimit 5000 3000 = 4000 ∧ axisLimit 5000 0 = 5000 ∧ cutCurve [(35, 25), (45, 40), (45, 40), (90, 100)] = [(35, 25), (45, 40)] ∧
    curvePercent Profile.atReset 40 = 32500000 ∧ curvePercent Profile.atReset 90 = 100000000 := by decide

theorem witness_BlowerLoopsAndService :
    (-9000 : Int).natAbs ≤ awake.prof.iMax * 150 ∧ awake.prof.iMax * 150 < (9001 : Int).natAbs ∧ awake.prof.tMinSample ≤ 20 ∧ 19 < awake.prof.tMinSample ∧
    awake.thm.warmLoad = false ∧ awake.eav.powerLoss = false ∧ (blower fun x => { x with st := .running }).air.serviceOp = none ∧
    mayStart (judgeDemand awake) = false ∧ turning .stoppedForService = false ∧ (blower fun x => { x with stopping := true }).air.stopping = true ∧
    (blower fun x => { x with st := .braking, speed := 0 }).air.speed = 0 ∧ isRunning (withIsl awake 9 .heldInReset true) 9 = false ∧
    (warmed fun t => { t with warmLoad := true }).thm.warmLoad = true ∧ liveHandles awake (.fn 0) < 64 ∧
    (warmed fun t => { t with step := .hot }).thm.step ≠ .normal ∧ 70000000 + 30000000 ≤ now awake ∧ now awake < 70000001 + 30000000 ∧
    (blower fun x => { x with alignAt := some 99800000, st := .starting }).air.alignAt = some 99800000 ∧ 99800000 + 200000 ≤ now awake ∧
    99950000 + 50000 ≤ now awake ∧ now awake < 99950001 + 50000 ∧ catchMinRpm awake ≤ 100000 ∧ -100000 < -(catchMinRpm awake) ∧ 0 < catchMinRpm awake ∧
    within25 450 awake.prof.rS = true ∧ within25 1000 awake.prof.rS = false ∧ within25 200 awake.prof.lS = true ∧ awake.air.stopping = false := by decide

/-- `awake` with a stall from island 4 into island 6 raised at `t`. -/
def stalled (t : Nat) : State := { awake with isl := { awake.isl with stalls := [⟨4, ⟨6, true⟩, t⟩] } }

theorem witness_FaultCollector :
    1 % 2 = 1 ∧ bits 512 9 1 = 1 ∧ bits 512 8 1 = 0 ∧ aliveOk awake = false ∧
    aliveOk { awake with flt := { awake.flt with aliveKick := some 99980000 } } = true ∧
    aliveOk { awake with flt := { awake.flt with aliveKick := some 99979999 } } = false ∧ isRunning awake 0 = true ∧
    (faultSrc awake 319).severe = false ∧ (faultSrc awake 319).first = none ∧ awake.thm.tripped = false ∧ 319 ∉ [307, 309, 310, 311, 312, 313, 314, 315] ∧
    aliveOk { awake with boot := { awake.boot with phase := 6 }, flt := { awake.flt with aliveKick := none, kickExempt := true } } = true ∧
    descOf (withDescs [desc 1 .queued 0]) 0 (capTag (capOf 4 3 (3 + 7 * 2 ^ 32) 0 16)) = some (desc 1 .queued 0) ∧ descOf awake 0 7 = none ∧
    isRunning awake 9 = true ∧ (faultSrc (countFault awake 319 (capOf 1 1 0 3 3)) 319).first.isSome = true ∧ sourceFixed 0 = false ∧
    severeAtFirst 311 0 = true ∧ severeAtFirst 291 0 = false ∧ sourceFixed 307 = true ∧ sourceFixed 291 = false ∧ 96 ≤ (req 0).room := by decide

theorem witness_IslandChanges :
    islIdValid 47 = true ∧ islIdValid 10 = false ∧
    (island { awake with isl := { awake.isl with islands := List.replicate 42 ⟨.heldInReset, none, true, true, true⟩ } } 47).released = true ∧
    withinReach awake 4 (.ridge, .heldInReset) = true ∧ withinReach awake 4 (.firmware, .isolated) = false ∧
    withinReach awake 5 (.aon, .heldInReset) = true ∧ requestRank (.firmware, .running) ≤ requestRank (.aon, .heldInReset) ∧
    withinReach awake 5 (.firmware, .running) = true ∧ changingState awake 4 ⟨6, true⟩ = false ∧
    changingState (withIsl awake 41 .isolated true) 3 ⟨41, false⟩ = false ∧ changingState (withIsl awake 41 .isolated true) 3 ⟨41, true⟩ = true ∧ (∀ e ∈ awake.isl.stalls, ¬(e.src = 4 ∧ e.into = ⟨6, true⟩)) ∧
    ((stalled 99999000).isl.stalls.find? fun e => e.src == 4 && e.into == ⟨6, true⟩) = some ⟨4, ⟨6, true⟩, 99999000⟩ ∧ 99999000 + 1000 ≤ now awake ∧
    now awake < 99999001 + 1000 ∧ (island awake 8).st = .running ∧ awake.isl.sysrefOk = true ∧ awake.isl.islands.length = 42 := by decide

/-- `awake` with core `k` in a state and last kicked at `t`. -/
def core (k : Nat) (st : CoreState) (t : Nat) : State :=
  { awake with flt := { awake.flt with cores := vecUpd awake.flt.cores k fun c => { c with st := st, lastKick := t } } }

theorem witness_CoreFailovers :
    (coreOf (core 7 .active 99999900) 7).st = .active ∧ (coreOf (core 7 .active 99999900) 7).lastKick + 100 ≤ now awake ∧
    now awake < (coreOf (core 7 .active 99999901) 7).lastKick + 100 ∧ (coreOf (core 7 .selfTest 0) 7).st = .selfTest ∧
    (coreOf (core 7 .selfTest 0) 7).retire = false ∧ (faultSrc awake 299).severe = false ∧ (ridgeOf awake 1).st ≠ .selfTest ∧
    awake.flt.cores.findIdx? (fun c => c.st == .standby) = some 8 ∧ 4 ≤ activeCores awake ∧ (failoverCore awake 11).st = .standby ∧
    (failoverCore (core 7 .retired 0) 7).st = .retired ∧ (failoverCore awake 7).st = .active ∧ failoverConflict awake 7 = none ∧
    failoverConflict { awake with chg := { awake.chg with activating := some (0, 7, 2) } } 7 ≠ none ∧ plannedOk awake = true ∧
    liveHandles awake (.fn 0) < 64 := by decide

theorem witness_RailsAndStore :
    railOperating 1 750 = true ∧ (∃ mv ∈ [705, 706, 795], railOperating 1 mv = false ∧ railGuarded 1 mv = true) ∧ railGuarded 1 704 = false ∧
    railOperating 10 0 = false ∧ railGuarded 10 0 = false ∧ railSettle 10 ≤ 1000000 ∧ 0 < railSettle 0 ∧ (railOf awake 10).excursionAt = none ∧
    (railOf (updRail awake 10 fun x => { x with excursionAt := some 1 }) 10).excursionAt.isSome = true ∧ awake.sup.profileRead = true ∧
    11000 ≤ awake.sup.v12 ∧ awake.eav.dumpStart = none ∧ awake.sup.audit = .idle ∧ awake.sup.pwrDis = false ∧
    awake.prof.huTarget * 100 ≤ awake.sup.vs ∧ 32699 + 300 < awake.prof.huTarget * 100 ∧ 32999 < awake.prof.huTarget * 100 ∧
    awake.prof.huTarget * 100 ≤ 32700 + 300 ∧ awake.sup.overVolt = false ∧ 70000000 + awake.prof.chgTimeout * 1000000 ≤ now awake ∧
    now awake < 70000001 + awake.prof.chgTimeout * 1000000 := by decide

theorem witness_HoldupAudits :
    awake.sup.audit = .idle ∧ awake.sup.profileRead = true ∧ awake.boot.phase ≠ 6 ∧
    awake.sup.lastAuditOp + awake.prof.huAuditHours * 3600 ≤ { awake with tm := { awake.tm with opSeconds := 86400 } }.tm.opSeconds ∧
    ¬ (awake.sup.auditAfterCharge = true ∨ awake.sup.lastAuditOp + awake.prof.huAuditHours * 3600 ≤ awake.tm.opSeconds) ∧
    { awake.sup with audit := .settle 99990000 }.audit = .settle 99990000 ∧ 99990000 + 10000 ≤ now awake ∧ now awake < 99990001 + 10000 ∧
    999999 < awake.prof.auditDepth * 100000 ∧ awake.prof.auditDepth * 100000 ≤ 1000000 ∧ awake.prof.huTarget * 100 ≤ awake.sup.vs + 300 ∧
    11000 ≤ awake.sup.v12 := by decide

theorem witness_PowerDisablePmicAndClock :
    awake.prof.pwrdisEn = 1 ∧ awake.sup.pwrDis = false ∧ awake.eav.afterDump = false ∧ awake.sup.pmicPollAt ≤ now awake ∧
    now awake < { awake.sup with pmicPollAt := 100000001 }.pmicPollAt ∧ awake.tm.onBackup = false ∧
    { awake.tm with onBackup := true, crystalLostAt := some 5 }.onBackup = true ∧ State.reset.sup.profileRead = false := by decide

/-- `awake` with a Battened entry begun at `t`. -/
def entering (t : Nat) : State := { awake with bat := { awake.bat with entryAt := some t } }

theorem witness_BattenedEntryAndWake :
    (entering 99000001).bat.entryAt = some 99000001 ∧ restingNow (entering 0) = true ∧ restingNow (withCmd waiting) = false ∧
    now awake < 99000001 + 1000000 ∧ 99000000 + 1000000 ≤ now awake ∧ awake.fl.window.isOpen = false ∧ awake.eav.units = [] ∧
    isRunning awake 0 = true ∧ awake.isl.islands.length = 42 ∧ awake.bat.wakeAt = none ∧ 99996000 + 4000 ≤ now awake ∧ now awake < 99996001 + 4000 ∧
    (entering 0).boot.phase = 5 ∧
    (let b : State := { awake with boot := { awake.boot with phase := 6 } }
     b.boot.phase = 6 ∧ b.bat.wakeAt = none) := by decide

/-- A part that has dumped, its supply back since `t`. -/
def dumped (t : Nat) : State := { awake with eav := { awake.eav with afterDump := true }, sup := { awake.sup with v12HighSince := some t } }

theorem witness_DeviceResets :
    State.reset.isl.islands.length = 42 ∧ State.reset.boot.phase = 0 ∧ State.reset.eav.afterDump = false ∧ powerUpFree State.reset = true ∧
    powerUpFree { State.reset with boot := { bootReset with attempts := 4 } } = false ∧
    powerUpFree { State.reset with boot := { bootReset with seqRetryAt := some 100000 } } = false ∧ mayRestart (dumped 99900000) = true ∧
    mayRestart (dumped 99900001) = false ∧ restartDue (dumped 99900000) .powerReturn = true ∧ restartDue awake .powerReturn = false ∧
    (dumped 0).eav.powerLoss = false := by decide

theorem witness_StartUps :
    startWaits State.reset = false ∧ startWaits awake = true ∧
    (let l : State := { State.reset with sec := { secReset with integLock := true } }
     l.sec.integLock = true ∧ (imageFor l 1).isSome = true ∧ (imageFor { l with sec := { l.sec with copyA := [] } } 1) = none ∧
     (imageFor { l with sec := { l.sec with copyA := [(1, factoryImage 1)] } } 4) = none ∧
     (imageFor (provision (releaseIslands l)) 1).isSome = true ∧ (provision (releaseIslands l)).sec.integLock = true ∧
     imageFor (provision (releaseIslands { l with sec := { l.sec with copyA := [] } })) 1 = none ∧
     imageFor (provision (releaseIslands { l with sec := { l.sec with copyA := [(1, factoryImage 1)] } })) 4 = none) ∧
    divide awake.prof 0 = none ∧ (divide awake.prof 65536).isSome = true ∧ State.reset.boot.startKind = 0 := by decide

/-- A record of severity `sev`. -/
def record (seq code sev : Nat) : EventRec := ⟨seq, code, 0, 0, 0, 1, 0, sev, 0, []⟩

/-- `awake` with `n` records of severity 2 in the cache, and one of severity 1 at the front where asked. -/
def fullCache (front : Bool) (n : Nat) : State :=
  { awake with evt := { awake.evt with cache := (if front then [record 0 0x0090 1] else []) ++ List.replicate n (record 1 0x0090 2), dropped := 1 } }

theorem witness_BoardAndRecorder :
    { awake.pins with testMode := true }.testMode = true ∧ awake.pins.lastCompletion = none ∧ 99950000 + 50000 ≤ now awake ∧
    now awake < 99950001 + 50000 ∧ anySevere awake = false ∧ isRunning awake 0 = true ∧ awake.pins.faultBlinkAt + 250000 ≤ now awake ∧
    pageDue awake = false ∧ pageDue (fullCache false 256) = true ∧ awake.eav.dumpStart = none ∧ awake.evt.circulating.length + 256 ≤ 16384 ∧
    awake.host.linkUp = true ∧ (fnOf awake 0).present = true ∧ awake.evt.nextSeq ≤ 0 % 65536 * 2 ^ 32 + awake.evt.cursorLo.toNat ∧
    (let e : State := { awake with evt := { awake.evt with nextSeq := 1 } }
     0 % 65536 * 2 ^ 32 + e.evt.cursorLo.toNat < e.evt.nextSeq ∧ bits 0 31 1 = 0 ∧ bits 2147483648 31 1 = 1) ∧
    barReachable awake 0 = true ∧ barReachable State.reset 0 = false ∧ (beginWake awake .register).evt = awake.evt ∧
    awake.evt.snapBusy = false ∧ { awake.evt with snapBusy := true }.snapBusy = true ∧ mgmtDown awake = false := by decide

theorem witness_FullRecordCache :
    isRunning awake 0 = true ∧ aonCode 0x0050 = false ∧ aonCode 0x0011 = true ∧ keptCode 0x0090 = false ∧ keptCode 0x0011 = true ∧
    awake.evt.cache.length < 512 ∧ 512 ≤ (fullCache true 511).evt.cache.length ∧
    (fullCache true 511).evt.cache = [] ++ record 0 0x0090 1 :: List.replicate 511 (record 1 0x0090 2) ∧
    512 ≤ (fullCache false 512).evt.cache.length ∧ (∀ y ∈ (fullCache false 512).evt.cache, 2 ≤ y.severity) ∧
    (∃ y ∈ (fullCache false 512).evt.cache, keptCode y.code = false) ∧ pageDue (fullCache false 256) = true ∧ 0 < (fullCache false 256).evt.dropped := by
  decide

theorem witness_StripePositions : 2 ≤ 16 ∧ 14 ≤ 16 - 2 ∧ 255 < 256 ∧ 15 < 16 := by decide

/-! ### Ill-formed commands are refused -/

theorem wf_functions : (Instr.vfFlr 255).wf = true ∧ (Instr.vfFlr 256).wf = false ∧ (Instr.contractReport (req 2) 65536).wf = false := by decide

theorem wf_channels : (Instr.channelDrain 31).wf = true ∧ (Instr.channelDrain 32).wf = false := by decide

theorem wf_islands : (Instr.pllLossOfLock 9).wf = true ∧ (Instr.pllLossOfLock 10).wf = false ∧ (Instr.pllLossOfLock 15).wf = false ∧
    (Instr.pllLossOfLock 47).wf = true ∧ (Instr.pllLossOfLock 48).wf = false := by decide

theorem wf_dies : (Instr.calendarEntryEnd 4095 0).wf = true ∧ (Instr.calendarEntryEnd 4096 0).wf = false ∧ (Instr.dieRetire (req 2) 65536).wf = false := by
  decide

theorem wf_ioHeaders : (io 1).wf = true ∧ { io 1 with fn := 256 }.wf = false ∧ { io 1 with sqid := 0 }.wf = false ∧ { io 1 with sqid := 128 }.wf = true ∧
    { io 1 with sqid := 129 }.wf = false ∧ { io 1 with cid := 65536 }.wf = false ∧ { io 1 with cet := 16 }.wf = false ∧
    { io 1 with cev := 65536 }.wf = false ∧ (Instr.read { io 1 with sqid := 0 } 0 1).wf = false := by decide

theorem wf_adminHeaders : (⟨255, 65535⟩ : AdmHdr).wf = true ∧ (⟨256, 0⟩ : AdmHdr).wf = false ∧ (⟨0, 65536⟩ : AdmHdr).wf = false ∧
    (Instr.sanitizeBlockErase ⟨256, 0⟩).wf = false ∧ (Instr.namespaceAttach adm 1 256).wf = false ∧
    (Instr.createIoCq adm 65536 2 0 true false).wf = false ∧ (Instr.setFeaturesQueueLatencyClass adm 1 256).wf = false := by decide

theorem wf_requests : (req 0).wf = true ∧ { req 0 with sender := .fn 256 }.wf = false ∧ { req 0 with tag := 2 ^ 32 }.wf = false ∧
    { req 0 with length := 2 ^ 32 }.wf = false ∧ { req 0 with transport := .mctp }.wf = false ∧
    { req 0 with sender := .oob 255, transport := .mctp }.wf = true ∧ { req 0 with sender := .oob 256, transport := .mctp }.wf = false ∧
    { req 0 with sender := .oob 8 }.wf = false ∧ { req 0 with sender := .oob 8, transport := .admin }.wf = false ∧
    (Instr.hmpCancel (req 4) 1 (some 3)).wf = false ∧ (Instr.hmpCancel { req 4 with transport := .admin } 1 (some 3)).wf = true := by decide

theorem wf_others : (Instr.railOutOfRange 11 0).wf = false ∧ (Instr.coreKick 12 0).wf = false ∧ (Instr.coreKick 11 0).wf = true ∧
    (Instr.firstErrorReport (req 2) 65536).wf = false ∧ (Instr.dramRefresh false 256 0).wf = false ∧ (Instr.sqTailDoorbell 0 65536 0).wf = false ∧
    (Instr.packageRecalibration 0 256).wf = false ∧ (Instr.deadlineReached 0 1 65536).wf = false ∧ (Instr.poolQuotaSet (req 4) 65536 0).wf = false ∧
    (Instr.mctpEndpointIdAssignment 256).wf = false := by decide

/-! ### Small checks -/

/-- The next state of an outcome. -/
def next (o : Outcome State Fault Refusal) : State := match o with
  | .next t => t
  | _ => State.reset

/-- R34, R35: the worked example of chapter 02, the first slot of a segment at zone offset 1,000 MiB. -/
theorem test_place : place Profile.atReset 16 256000 = { course := 266, pos := 5, page := 10, plane := 2, level := 2, cw := 0 } ∧ sparPos 16 266 = 10 := by
  decide

/-- Table 02.3: two Gutter blocks per die and K = 15. -/
theorem test_geometry : gutterPerDie Profile.atReset = 2 ∧ convPerDie Profile.atReset 256 = 15 := by decide

/-- Table 12.3: the division of a channel of 98,304 MiB. -/
theorem test_division : divide Profile.atReset 98304 = some [128, 128, 4992, 4176, 80, 88800] := by decide

/-- Table 03.17: flash power of contracts A and B, and the Eaves bytes of C. -/
theorem test_contracts :
    chargePower awake ⟨0, 2, false, 2500, 400, 8000, 32768000, 500, 10, 0, 0, 0, 0⟩ = 510505280000000 ∧
    chargePower awake ⟨3, 0, false, 300, 50, 200000, 800000, 200, 1, 0, 0, 0, 0⟩ = 59018000000000 ∧
    committedEaves [⟨3, 3, true, 2000, 500, 16000, 1600000, 1000, 1, 0, 0, 0, 0⟩] = 163840000 := by decide

/-- Chapter 16's worked example: t_1 of 1.2 µs is lengthened to 2.0 µs and made up for in the second half. -/
theorem test_shift : shiftVector 20 12 = [20, 4] ∧ shiftVector 20 60 = [60, 60] ∧ shiftVector 20 6 = [20, -8] := by decide

/-- Figure check of CRC-32C (R3): the standard check value of the nine digits. -/
theorem test_crc : crc32c ([49, 50, 51, 52, 53, 54, 55, 56, 57] : List Byte) = 0xE3069283#32 := by decide

theorem test_queue_order :
    (next (step { awake with pending := [.tapInstructionUpdate .bypass, .capacityRecompute] })).pending = [.capacityRecompute] := by decide

theorem test_tap_outside_test_mode : (next (exec (.tapInstructionUpdate .extest) awake)).pins.tap = .bypass ∧
    (next (exec (.tapInstructionUpdate .samplePreload) awake)).pins.tap = .samplePreload := by decide

theorem test_feature : (fnOf (next (exec (.setFeaturesArbitration adm 3) awake)) 0).feat.ab = 3 ∧
    (fnOf (next (exec (.setFeaturesArbitration adm 4) awake)) 0).feat.ab = 0 := by decide

theorem test_scratch : (fnOf (next (exec (.registerWrite 0 .bar2 0x1C 0x12345678) awake)) 0).scratch = 0x12345678#32 := by decide

theorem test_regErr_rw1c : (fnOf (next (exec (.registerWrite 0 .bar2 0x14 1) (updFn awake 0 fun x => { x with regErr := 3#32 }))) 0).regErr = 2#32 := by
  decide

theorem test_snap_even : (next (exec (.faultSnap 2) awake)).flt.snapSeq = 0 ∧ (next (exec (.faultSnap 1) awake)).flt.snapSeq = 1 := by decide

theorem test_fault_severe_at_first : (faultSrc (next (exec (.faultSourceEvent 318 (capOf 1 1 0 3 3)) awake)) 318).severe = true := by decide

theorem test_not_permitted : (next (exec (.contractDelete { req 32 with sender := .fn 1 } 0 0 0) awake)).hmp.answers.map (·.status) = [0x0011] := by decide

theorem test_invalid_length : (next (exec (.versionQuery (req 8)) awake)).hmp.answers.map (fun r => (r.status, r.detail)) = [(0x0013, 0)] := by decide

theorem test_zone_reset : ((zoneAction (zoned .full) ⟨1, true, 1048576, 0, .none, false, [(0, 2)], [0]⟩ (cmd (.zoneReset (io 1) 0 false) true true) 0).1.zns.zones.map
    (·.2.st)) = [.empty] := by decide

theorem test_rail_guard : (next (exec (.railExcursion 1 704 2) awake)).sup.path = 0 ∧ (next (exec (.railExcursion 1 704 3) awake)).eav.powerLoss = true := by
  decide

theorem test_aon_reset : (next (exec (.aonPowerOnReset true false true false) awake)).tm.devTime = 0 ∧
    (next (exec (.aonPowerOnReset true false true false) awake)).tm.powerCycles = 1 := by decide

/-! ### Witnesses: commands that are accepted at once -/

/-- A command that is accepted at once, as a check. -/
def acceptable (s : State) (c : Cmd) : Bool :=
  let a := planService s c true
  let b := planService s c false
  !s.eav.powerLoss && !a.degraded && ((a.reason == 0 && withinContract s a.cmd) || (b.reason == 0 && (withinContract s b.cmd || slackGrant s b.cmd)))

theorem acceptable_accepted {s : State} {c : Cmd} (h : acceptable s c = true) : ∃ t d, AcceptedNow s c t d := by
  unfold AcceptedNow
  simp only [acceptable, Bool.and_eq_true, Bool.or_eq_true, Bool.not_eq_true', beq_iff_eq] at h
  obtain ⟨⟨h1, h2⟩, h3⟩ := h
  by_cases ha : (planService s c true).reason = 0 ∧ withinContract s (planService s c true).cmd = true
  · exact ⟨_, _, h1, h2, .inl ⟨ha.1, ha.2, rfl⟩⟩
  · rcases h3 with h3 | ⟨h3, h4⟩
    · exact absurd h3 ha
    · have hn : (planService s c true).reason ≠ 0 ∨ withinContract s (planService s c true).cmd = false := by
        by_cases hr : (planService s c true).reason = 0
        · exact .inr (by simpa using fun hw => ha ⟨hr, hw⟩)
        · exact .inl hr
      by_cases hw : withinContract s (planService s c false).cmd = true
      · exact ⟨_, _, h1, h2, .inr ⟨hn, h3, .inl ⟨hw, rfl⟩⟩⟩
      · have hf : withinContract s (planService s c false).cmd = false := by simpa using hw
        exact ⟨_, _, h1, h2, .inr ⟨hn, h3, .inr ⟨hf, h4.resolve_left hw, rfl⟩⟩⟩

/-- `awake` with zone 0 of namespace 1 open on a thatch of full width, the write window open and the Eaves Buffer in service. -/
def openZone : State :=
  { awake with zns := { awake.zns with zones := [((1, 0), { zoneDefault 524288 with st := .explicitOpen, thatch := some 4 })] }
               fl := { awake.fl with inService := true, window := { awake.fl.window with isOpen := true },
                                     thatches := [(4, { thatchDefault with kind := .zone, members := List.replicate 16 ⟨0, 0, [], 0, 0, false, false⟩ })] }
               eav := { awake.eav with eEff := 2 ^ 30 } }

/-- A new command of the PF in `openZone`. -/
def fresh' (n : Nat) (op : Instr) (write : Bool) (dmin u units charge : Nat) (z : Option Nat) : Cmd :=
  newCmd openZone (io n) op write dmin u units charge z

theorem witness_accepted_reads :
    acceptable (takeFetched openZone (io 2)) (fresh' 2 (.read (io 2) 0 1) false (up25 (readSum openZone 0 1 16)) 0 1 4096 none) = true ∧
    acceptable (takeFetched openZone (io 1)) (fresh' 1 (.reportZones (io 1) 0 0 64) false (up25 10050) 0 0 0 none) = true ∧
    (∃ ns, nsOf openZone 2 = some ns ∧ attachedTo ns 0 = true) ∧ readOffline openZone (fresh' 2 (.read (io 2) 0 1) false 100 0 1 4096 none) = false ∧
    canFetch openZone (io 2) = true ∧ openZone.sec.sanitizing = false := by
  refine ⟨by decide, by decide, ⟨_, rfl, by decide⟩, by decide, by decide, by decide⟩

theorem witness_accepted_writes :
    acceptable (takeFetched openZone (io 1)) (fresh' 1 (.write (io 1) 0 1) true (up25 (writeSum openZone 4096)) 0 1 4096 (some 0)) = true ∧
    acceptable (takeFetched openZone (io 1)) (fresh' 1 (.zoneAppend (io 1) 0 1) true (up25 (writeSum openZone 4096)) 0 1 4096 (some 0)) = true ∧
    acceptable (takeFetched openZone (io 1)) (fresh' 1 (.writeZeroes (io 1) 0 1) true (up25 (writeSum openZone 4096)) 0 1 4096 (some 0)) = true ∧
    acceptable (takeFetched openZone (io 1)) (fresh' 1 (.copy (io 1) [(0, 1)] 0) true
      (up25 (readSum openZone 0 1 16 + writeSum openZone 4096 + 50000)) 0 1 8192 (some 0)) = true ∧
    zoneWriteError openZone (fresh' 1 (.write (io 1) 0 1) true 25 0 1 4096 (some 0)) = none ∧ zoneOf ⟨1, true, 1048576, 0, .none, false, [(0, 2)], [0]⟩ 0 = some 0 := by
  refine ⟨by decide, by decide, by decide, by decide, by decide, by decide⟩

theorem witness_accepted_others :
    acceptable (takeFetched openZone (io 2)) (fresh' 2 (.flush (io 2)) true 25 0 0 0 none) = true ∧
    acceptable (takeFetched openZone (io 2)) (fresh' 2 (.datasetManagementDeallocate (io 2) [(0, 1)]) true (up25 6550) 0 0 0 none) = true ∧
    acceptable (takeFetched openZone (io 1)) (fresh' 1 (.zoneReset (io 1) 0 false) true 100 0 0 0 (some 0)) = true ∧
    acceptable (takeFetched openZone (io 1)) (fresh' 1 (.setZoneDescriptorExtension (io 1) 0 []) true 75 0 0 0 (some 0)) = true ∧
    mgmtDown openZone = false ∧ ((selectAll openZone (fresh' 1 (.zoneFinish (io 1) 0 true) true 75 0 0 0 none)).map (·.length)) = some 1 ∧
    acceptable (takeFetched openZone (io 1)) (fresh' 1 (.zoneFinish (io 1) 0 true) true (up25 101000) 0 0 0 none) = true := by
  refine ⟨by decide, by decide, by decide, by decide, by decide, by decide, by decide⟩

theorem witness_AcceptedNow : ∃ t d, AcceptedNow (takeFetched openZone (io 2)) (fresh' 2 (.flush (io 2)) true 25 0 0 0 none) t d :=
  acceptable_accepted witness_accepted_others.1

/-- A command under a contract that neither plan serves. -/
theorem witness_contractRefusal :
    let s : State := { awake with adm := { awake.adm with contracts := [⟨0, classOf awake 0 1, true, 300, 0, 1, 1, 0, 255, 0, 0, 0, 0⟩] } }
    let c := newCmd s (io 2) (.write (io 2) 0 1) true 100 0 1 4096 none
    (contractOf s c.fn c.cls c.write).isSome = true ∧ (planService s c true).reason ≠ 0 ∧ (planService s c false).reason ≠ 0 ∧
    (planService s c true).degraded = false := by decide

theorem witness_narrowWrites :
    portMayWrite (dram id) false 0 0 = false ∧ portMayWrite (dram id) false 6 0 = true ∧ (portMaster 0).isSome = true ∧
    portOpen (dramCh (dram id) false) 6 = true ∧ (dramCh (dram id) false).waiting = [] ∧ (mergeTake (dramCh (dram id) false) 0 5 [(63, 1)]).isSome = true ∧
    (mergeTake (dramCh (dram fun x => { x with merge := (List.range 128).map fun i => ⟨i, [(0, 1)], 0⟩ }) false) 0 128 [(0, 1)]).isNone = true := by
  decide

theorem witness_dieQueue :
    queuedAhead awake (desc 1 .queued 5) (desc 1 .queued 6) = true ∧ queuedAhead awake (desc 1 .queued 6) (desc 1 .queued 6) = false ∧
    bufOk awake 16 noBuf = true ∧ bufOk awake 16 0 = false ∧ passYields awake 4 = false ∧
    passYields { awake with isl := { awake.isl with islands := (List.range 42).map fun i =>
      ⟨if i = 6 then .heldInReset else .running, none, false, false, false⟩ } } 4 = false := by decide

/-- The worked example of chapter 21: FCH23_RB_N is BH43, FCH12_DQ0 is E24, DDB_S1_DQS_T[2] is AH40. -/
theorem test_balls :
    ball 46 43 = some (.flash 23 .rbN) ∧ rowName 46 = ['B', 'H'] ∧ ball 5 24 = some (.flash 12 (.dq 0)) ∧ rowName 5 = ['E'] ∧
    ball 27 40 = some (.dram true (.dqsT 1 2)) ∧ rowName 27 = ['A', 'H'] ∧ ball 1 3 = some (.rail 7) ∧ ball 23 22 = some (.rail 3) ∧
    ball 9 46 = some (.low .sbThermtripN) ∧ ball 47 1 = none := by decide

/-- Pads at reset and while awake (Table 21.6). -/
theorem test_pads :
    padState State.reset (.flash 0 .wpN) = .highZ ∧ padState State.reset (.low .pwrHuEn) = .low ∧ padState State.reset (.low .sbThermtripN) = .released ∧
    padState awake (.flash 0 .wpN) = .highZ ∧
    padState { awake with sup := { awake.sup with seqEn := true } } (.flash 0 .wpN) = .asUnit ∧ padReset (.flash 0 .reT) = .high ∧ coolingHolds 85 450 = true ∧ coolingHolds 85 970 = false := by
  decide

end Sys2Proof.Tests
end

namespace Sys2Proof.Machine

/-! ### Time, the queue and the fuses: what the dispatch to a command keeps, and a step (R12) -/

theorem next_keeps {o : Host.Outcome State Fault Refusal} {s : State} (h : ∃ u, o = .next u ∧ Kept s u) :
    ∃ u, o = .next u ∧ Keeps s u := by
  obtain ⟨u, ho, hu⟩ := h
  exact ⟨u, ho, hu.keeps⟩

/-- Every command but the AON power-on reset answers a next state that keeps DevTime, the fuses, the queue and the form of both
DRAM contents. -/
theorem exec_keeps (i : Instr) (s : State) (h : ∀ a b c d, i ≠ .aonPowerOnReset a b c d) :
    ∃ u, exec i s = .next u ∧ Keeps s u := by
  cases i with
  | sqTailDoorbell => exact next_keeps (execSqTailDoorbell_kept ..)
  | cqHeadDoorbell => exact next_keeps (execCqHeadDoorbell_kept ..)
  | read => exact next_keeps (execRead_kept ..)
  | write => exact next_keeps (execWrite_kept ..)
  | zoneAppend => exact next_keeps (execZoneAppend_kept ..)
  | writeZeroes => exact next_keeps (execWriteZeroes_kept ..)
  | flush => exact next_keeps (execFlush_kept ..)
  | datasetManagementDeallocate => exact next_keeps (execDatasetManagementDeallocate_kept ..)
  | copy => exact next_keeps (execCopy_kept ..)
  | zoneOpen => exact next_keeps (execZoneOpen_kept ..)
  | zoneClose => exact next_keeps (execZoneClose_kept ..)
  | zoneFinish => exact next_keeps (execZoneFinish_kept ..)
  | zoneReset => exact next_keeps (execZoneReset_kept ..)
  | zoneOffline => exact next_keeps (execZoneOffline_kept ..)
  | setZoneDescriptorExtension => exact next_keeps (execSetZoneDescriptorExtension_kept ..)
  | reportZones => exact next_keeps (execReportZones_kept ..)
  | extendedReportZones => exact next_keeps (execExtendedReportZones_kept ..)
  | invalidIoOpcode => exact next_keeps (execInvalidIoOpcode_kept ..)
  | thatchBindingDone => exact next_keeps (execThatchBindingDone_kept ..)
  | heldCommandReevaluation => exact next_keeps (execHeldCommandReevaluation_kept ..)
  | holdEndExpiry => exact next_keeps (execHoldEndExpiry_kept ..)
  | slackEpochEnd => exact next_keeps (execSlackEpochEnd_kept ..)
  | calendarEntryEnd => exact next_keeps (execCalendarEntryEnd_kept ..)
  | eavesCopyWritten => exact next_keeps (execEavesCopyWritten_kept ..)
  | programPassBooking => exact next_keeps (execProgramPassBooking_kept ..)
  | descriptorIssue => exact next_keeps (execDescriptorIssue_kept ..)
  | descriptorCompletion => exact next_keeps (execDescriptorCompletion_kept ..)
  | suspendWindowStart => exact next_keeps (execSuspendWindowStart_kept ..)
  | suspendWindowEnd => exact next_keeps (execSuspendWindowEnd_kept ..)
  | dieOverrun => exact next_keeps (execDieOverrun_kept ..)
  | dieTimeout => exact next_keeps (execDieTimeout_kept ..)
  | tokenGuardTimeout => exact next_keeps (execTokenGuardTimeout_kept ..)
  | deadlineReached => exact next_keeps (execDeadlineReached_kept ..)
  | recoveryPass => exact next_keeps (execRecoveryPass_kept ..)
  | backgroundWorkDecision => exact next_keeps (execBackgroundWorkDecision_kept ..)
  | retentionAgeRefresh => exact next_keeps (execRetentionAgeRefresh_kept ..)
  | refreshRetryHourly => exact next_keeps (execRefreshRetryHourly_kept ..)
  | hitsHalving => exact next_keeps (execHitsHalving_kept ..)
  | retentionSample => exact next_keeps (execRetentionSample_kept ..)
  | underlayMove => exact next_keeps (execUnderlayMove_kept ..)
  | journalCheckpoint => exact next_keeps (execJournalCheckpoint_kept ..)
  | smartUpdate => exact next_keeps (execSmartUpdate_kept ..)
  | packageRecalibration => exact next_keeps (execPackageRecalibration_kept ..)
  | packageRecalDone => exact next_keeps (execPackageRecalDone_kept ..)
  | channelDrain => exact next_keeps (execChannelDrain_kept ..)
  | channelDrainComplete => exact next_keeps (execChannelDrainComplete_kept ..)
  | channelDrainTimeout => exact next_keeps (execChannelDrainTimeout_kept ..)
  | channelBringup => exact next_keeps (execChannelBringup_kept ..)
  | channelRbWaitEnd => exact next_keeps (execChannelRbWaitEnd_kept ..)
  | packageTempPoll => exact next_keeps (execPackageTempPoll_kept ..)
  | islandStateRequest => exact execIslandStateRequest_keeps ..
  | islandReportsRunning => exact next_keeps (execIslandReportsRunning_kept ..)
  | handshakeStall => exact next_keeps (execHandshakeStall_kept ..)
  | handshakeStallSevere => exact execHandshakeStallSevere_keeps ..
  | capacityRecompute => exact next_keeps (execCapacityRecompute_kept ..)
  | contractChargeRecompute => exact next_keeps (execContractChargeRecompute_kept ..)
  | promisedWidthRecompute => exact next_keeps (execPromisedWidthRecompute_kept ..)
  | eavesEffectiveRecompute => exact next_keeps (execEavesEffectiveRecompute_kept ..)
  | flashPowerCapacityRecompute => exact next_keeps (execFlashPowerCapacityRecompute_kept ..)
  | linkChange => exact next_keeps (execLinkChange_kept ..)
  | powerLossDetected => exact next_keeps (execPowerLossDetected_kept ..)
  | storeLow => exact next_keeps (execStoreLow_kept ..)
  | dumpComplete => exact next_keeps (execDumpComplete_kept ..)
  | brownoutReturn => exact execBrownoutReturn_keeps ..
  | gutterReplay => exact next_keeps (execGutterReplay_kept ..)
  | aonPowerOnReset a b c d => exact absurd rfl (h a b c d)
  | powerUpRetry => exact next_keeps (execPowerUpRetry_kept ..)
  | startup => exact next_keeps (execStartup_kept ..)
  | tripRestartRelease => exact next_keeps (execTripRestartRelease_kept ..)
  | deviceRestart => exact execDeviceRestart_keeps ..
  | railOutOfRange => exact next_keeps (execRailOutOfRange_kept ..)
  | railExcursion => exact execRailExcursion_keeps ..
  | pwrdis => exact next_keeps (execPwrdis_kept ..)
  | storeConversion => exact next_keeps (execStoreConversion_kept ..)
  | chargeTimeout => exact next_keeps (execChargeTimeout_kept ..)
  | holdupAuditDue => exact next_keeps (execHoldupAuditDue_kept ..)
  | auditLoadConnect => exact next_keeps (execAuditLoadConnect_kept ..)
  | auditMeasurementEnd => exact next_keeps (execAuditMeasurementEnd_kept ..)
  | pmicPoll => exact next_keeps (execPmicPoll_kept ..)
  | pmicAlert => exact next_keeps (execPmicAlert_kept ..)
  | aonCrystalLoss => exact next_keeps (execAonCrystalLoss_kept ..)
  | aonCrystalRestored => exact next_keeps (execAonCrystalRestored_kept ..)
  | pllLossOfLock => exact execPllLossOfLock_keeps ..
  | referenceClockLost => exact execReferenceClockLost_keeps ..
  | sensorConversion => exact next_keeps (execSensorConversion_kept ..)
  | thermalStepExit => exact next_keeps (execThermalStepExit_kept ..)
  | tripDumpTimeout => exact next_keeps (execTripDumpTimeout_kept ..)
  | remoteDiodeConversion => exact next_keeps (execRemoteDiodeConversion_kept ..)
  | faultSourceEvent => exact execFaultSourceEvent_keeps ..
  | coreWatchdogExpiry => exact next_keeps (execCoreWatchdogExpiry_kept ..)
  | coreSelfTestDone => exact next_keeps (execCoreSelfTestDone_kept ..)
  | aliveToggle => exact next_keeps (execAliveToggle_kept ..)
  | aliveKickTimeout => exact next_keeps (execAliveKickTimeout_kept ..)
  | aliveKick => exact next_keeps (execAliveKick_kept ..)
  | coreKick => exact next_keeps (execCoreKick_kept ..)
  | faultSnap => exact next_keeps (execFaultSnap_kept ..)
  | dramTempPoll => exact next_keeps (execDramTempPoll_kept ..)
  | dramRefresh => exact next_keeps (execDramRefresh_kept ..)
  | dramDriftTrack => exact next_keeps (execDramDriftTrack_kept ..)
  | dramPanicEntry => exact next_keeps (execDramPanicEntry_kept ..)
  | dramPanicExit => exact next_keeps (execDramPanicExit_kept ..)
  | dramPanicLong => exact next_keeps (execDramPanicLong_kept ..)
  | dramRfm => exact next_keeps (execDramRfm_kept ..)
  | rowActThrottle => exact next_keeps (execRowActThrottle_kept ..)
  | loftFrameReplicate => exact next_keeps (execLoftFrameReplicate_kept ..)
  | rowWindowEnd => exact next_keeps (execRowWindowEnd_kept ..)
  | mergeWriteback => exact execMergeWriteback_keeps ..
  | scrubRead => exact execScrubRead_keeps ..
  | softPpr => exact next_keeps (execSoftPpr_kept ..)
  | rankMigration => exact next_keeps (execRankMigration_kept ..)
  | rankMigrationSwap => exact next_keeps (execRankMigrationSwap_kept ..)
  | dramResilver => exact next_keeps (execDramResilver_kept ..)
  | dramResilverComplete => exact execDramResilverComplete_keeps ..
  | speedLoopStep => exact next_keeps (execSpeedLoopStep_kept ..)
  | currentLoopPeriod => exact next_keeps (execCurrentLoopPeriod_kept ..)
  | driverFault => exact next_keeps (execDriverFault_kept ..)
  | driverFaultRetry => exact next_keeps (execDriverFaultRetry_kept ..)
  | catchSpinEnd => exact next_keeps (execCatchSpinEnd_kept ..)
  | alignEnd => exact next_keeps (execAlignEnd_kept ..)
  | blowerStall => exact next_keeps (execBlowerStall_kept ..)
  | stallRestart => exact next_keeps (execStallRestart_kept ..)
  | blowerOffTimer => exact next_keeps (execBlowerOffTimer_kept ..)
  | busClampOn => exact next_keeps (execBusClampOn_kept ..)
  | clampFault => exact next_keeps (execClampFault_kept ..)
  | busOvervoltage => exact next_keeps (execBusOvervoltage_kept ..)
  | battenedEntryComplete => exact next_keeps (execBattenedEntryComplete_kept ..)
  | battenedEntryAbandon => exact next_keeps (execBattenedEntryAbandon_kept ..)
  | battenedWake => exact next_keeps (execBattenedWake_kept ..)
  | battenedWakeEnd => exact next_keeps (execBattenedWakeEnd_kept ..)
  | recordPageProgram => exact next_keeps (execRecordPageProgram_kept ..)
  | svnFloorRaise => exact next_keeps (execSvnFloorRaise_kept ..)
  | keyRolloverEnd => exact next_keeps (execKeyRolloverEnd_kept ..)
  | operationHandleExpiry => exact next_keeps (execOperationHandleExpiry_kept ..)
  | perstNDeassert => exact next_keeps (execPerstNDeassert_kept ..)
  | conventionalReset => exact next_keeps (execConventionalReset_kept ..)
  | pfFlr => exact next_keeps (execPfFlr_kept ..)
  | vfFlr => exact next_keeps (execVfFlr_kept ..)
  | vfEnable => exact next_keeps (execVfEnable_kept ..)
  | vfDisable => exact next_keeps (execVfDisable_kept ..)
  | ccEnable => exact next_keeps (execCcEnable_kept ..)
  | controllerReset => exact next_keeps (execControllerReset_kept ..)
  | controllerShutdown => exact next_keeps (execControllerShutdown_kept ..)
  | msixUnmask => exact next_keeps (execMsixUnmask_kept ..)
  | kwDevtimeLoRead => exact next_keeps (execKwDevtimeLoRead_kept ..)
  | registerWrite => exact next_keeps (execRegisterWrite_kept ..)
  | unsupportedBarAccess => exact next_keeps (execUnsupportedBarAccess_kept ..)
  | dormerCursorHiWrite => exact next_keeps (execDormerCursorHiWrite_kept ..)
  | dormerSnapshotDone => exact next_keeps (execDormerSnapshotDone_kept ..)
  | mailboxEnable => exact next_keeps (execMailboxEnable_kept ..)
  | mailboxDisable => exact next_keeps (execMailboxDisable_kept ..)
  | mailboxReqTailWrite => exact next_keeps (execMailboxReqTailWrite_kept ..)
  | mailboxRspHeadWrite => exact next_keeps (execMailboxRspHeadWrite_kept ..)
  | mailboxRequestTake => exact next_keeps (execMailboxRequestTake_kept ..)
  | mailboxResponsePost => exact next_keeps (execMailboxResponsePost_kept ..)
  | mctpMessage => exact next_keeps (execMctpMessage_kept ..)
  | hmpCancel => exact next_keeps (execHmpCancel_kept ..)
  | hmpPost => exact next_keeps (execHmpPost_kept ..)
  | hmpCollect => exact next_keeps (execHmpCollect_kept ..)
  | hmpCollectTimeout => exact next_keeps (execHmpCollectTimeout_kept ..)
  | hmpExchange => exact next_keeps (execHmpExchange_kept ..)
  | versionQuery => exact next_keeps (execVersionQuery_kept ..)
  | operationStatus => exact next_keeps (execOperationStatus_kept ..)
  | contractSet => exact next_keeps (execContractSet_kept ..)
  | contractDelete => exact next_keeps (execContractDelete_kept ..)
  | contractReport => exact next_keeps (execContractReport_kept ..)
  | bayCapacityReport => exact next_keeps (execBayCapacityReport_kept ..)
  | calendarSnapshot => exact next_keeps (execCalendarSnapshot_kept ..)
  | functionZoneLimits => exact next_keeps (execFunctionZoneLimits_kept ..)
  | baySetDefine => exact next_keeps (execBaySetDefine_kept ..)
  | baySetDelete => exact next_keeps (execBaySetDelete_kept ..)
  | badBlockReport => exact next_keeps (execBadBlockReport_kept ..)
  | mediaWearReport => exact next_keeps (execMediaWearReport_kept ..)
  | dieRetire => exact next_keeps (execDieRetire_kept ..)
  | channelRecalibrate => exact next_keeps (execChannelRecalibrate_kept ..)
  | channelMicrocodeLoad => exact next_keeps (execChannelMicrocodeLoad_kept ..)
  | channelMicrocodeTurn => exact next_keeps (execChannelMicrocodeTurn_kept ..)
  | dramRankRetrain => exact next_keeps (execDramRankRetrain_kept ..)
  | coreFailoverReturn => exact next_keeps (execCoreFailoverReturn_kept ..)
  | coreFailoverRetire => exact next_keeps (execCoreFailoverRetire_kept ..)
  | boardProfileRead => exact next_keeps (execBoardProfileRead_kept ..)
  | boardProfileUpdate q flags z img => exact next_keeps (execBoardProfileUpdate_kept q flags z img s)
  | qFieldCommit => exact next_keeps (execQFieldCommit_kept ..)
  | islandStateReport => exact next_keeps (execIslandStateReport_kept ..)
  | keySlotInject => exact next_keeps (execKeySlotInject_kept ..)
  | keySlotClear => exact next_keeps (execKeySlotClear_kept ..)
  | establishKek => exact next_keeps (execEstablishKek_kept ..)
  | setKeyPerIo => exact next_keeps (execSetKeyPerIo_kept ..)
  | keyRollover => exact next_keeps (execKeyRollover_kept ..)
  | regionTableReport => exact next_keeps (execRegionTableReport_kept ..)
  | faultSnapshot => exact next_keeps (execFaultSnapshot_kept ..)
  | faultThresholdSet => exact next_keeps (execFaultThresholdSet_kept ..)
  | faultClear => exact next_keeps (execFaultClear_kept ..)
  | firstErrorReport => exact next_keeps (execFirstErrorReport_kept ..)
  | thermalReport => exact next_keeps (execThermalReport_kept ..)
  | coldStartWarmStart => exact next_keeps (execColdStartWarmStart_kept ..)
  | coldStartWarmStop => exact next_keeps (execColdStartWarmStop_kept ..)
  | blowerReport => exact next_keeps (execBlowerReport_kept ..)
  | blowerServiceStop => exact next_keeps (execBlowerServiceStop_kept ..)
  | blowerServiceResume => exact next_keeps (execBlowerServiceResume_kept ..)
  | supplyReport => exact next_keeps (execSupplyReport_kept ..)
  | holdupAudit => exact next_keeps (execHoldupAudit_kept ..)
  | eventRead => exact next_keeps (execEventRead_kept ..)
  | dormerPosition => exact next_keeps (execDormerPosition_kept ..)
  | energyMeterReport => exact next_keeps (execEnergyMeterReport_kept ..)
  | counterReport => exact next_keeps (execCounterReport_kept ..)
  | poolQuotaSet => exact next_keeps (execPoolQuotaSet_kept ..)
  | poolReport => exact next_keeps (execPoolReport_kept ..)
  | invalidHmpOpcode => exact next_keeps (execInvalidHmpOpcode_kept ..)
  | createIoCq => exact next_keeps (execCreateIoCq_kept ..)
  | createIoSq => exact next_keeps (execCreateIoSq_kept ..)
  | deleteIoSq => exact next_keeps (execDeleteIoSq_kept ..)
  | deleteIoCq => exact next_keeps (execDeleteIoCq_kept ..)
  | getLogPage => exact next_keeps (execGetLogPage_kept ..)
  | identify => exact next_keeps (execIdentify_kept ..)
  | abort => exact next_keeps (execAbort_kept ..)
  | asynchronousEventRequest => exact next_keeps (execAsynchronousEventRequest_kept ..)
  | setFeaturesArbitration => exact next_keeps (execSetFeaturesArbitration_kept ..)
  | setFeaturesPowerManagement => exact next_keeps (execSetFeaturesPowerManagement_kept ..)
  | setFeaturesTemperatureThreshold => exact next_keeps (execSetFeaturesTemperatureThreshold_kept ..)
  | setFeaturesErrorRecovery => exact next_keeps (execSetFeaturesErrorRecovery_kept ..)
  | setFeaturesNumberOfQueues => exact next_keeps (execSetFeaturesNumberOfQueues_kept ..)
  | setFeaturesInterruptCoalescing => exact next_keeps (execSetFeaturesInterruptCoalescing_kept ..)
  | setFeaturesInterruptVectorConfig => exact next_keeps (execSetFeaturesInterruptVectorConfig_kept ..)
  | setFeaturesWriteAtomicity => exact next_keeps (execSetFeaturesWriteAtomicity_kept ..)
  | setFeaturesAsyncEventConfig => exact next_keeps (execSetFeaturesAsyncEventConfig_kept ..)
  | setFeaturesTimestamp => exact next_keeps (execSetFeaturesTimestamp_kept ..)
  | setFeaturesHostBehaviorSupport => exact next_keeps (execSetFeaturesHostBehaviorSupport_kept ..)
  | setFeaturesQueueLatencyClass => exact next_keeps (execSetFeaturesQueueLatencyClass_kept ..)
  | setFeaturesVerdictRing => exact next_keeps (execSetFeaturesVerdictRing_kept ..)
  | setFeaturesUnsupported => exact next_keeps (execSetFeaturesUnsupported_kept ..)
  | getFeaturesQueueLatencyClass => exact next_keeps (execGetFeaturesQueueLatencyClass_kept ..)
  | getFeaturesVerdictRing => exact next_keeps (execGetFeaturesVerdictRing_kept ..)
  | getFeatures => exact next_keeps (execGetFeatures_kept ..)
  | namespaceCreate => exact next_keeps (execNamespaceCreate_kept ..)
  | namespaceDelete => exact next_keeps (execNamespaceDelete_kept ..)
  | namespaceAttach => exact next_keeps (execNamespaceAttach_kept ..)
  | namespaceDetach => exact next_keeps (execNamespaceDetach_kept ..)
  | formatNvm => exact next_keeps (execFormatNvm_kept ..)
  | formatNvmCryptoErase => exact next_keeps (execFormatNvmCryptoErase_kept ..)
  | sanitizeCryptoErase => exact next_keeps (execSanitizeCryptoErase_kept ..)
  | sanitizeBlockErase => exact next_keeps (execSanitizeBlockErase_kept ..)
  | firmwareImageDownload => exact next_keeps (execFirmwareImageDownload_kept ..)
  | firmwareCommitReplace => exact next_keeps (execFirmwareCommitReplace_kept ..)
  | firmwareCommitNextStart => exact next_keeps (execFirmwareCommitNextStart_kept ..)
  | firmwareCommitSwap => exact next_keeps (execFirmwareCommitSwap_kept ..)
  | firmwareCommitActivate => exact next_keeps (execFirmwareCommitActivate_kept ..)
  | virtMgmtOffline => exact next_keeps (execVirtMgmtOffline_kept ..)
  | virtMgmtAssign => exact next_keeps (execVirtMgmtAssign_kept ..)
  | virtMgmtOnline => exact next_keeps (execVirtMgmtOnline_kept ..)
  | nvmeMiSend => exact next_keeps (execNvmeMiSend_kept ..)
  | nvmeMiReceive => exact next_keeps (execNvmeMiReceive_kept ..)
  | securitySend => exact next_keeps (execSecuritySend_kept ..)
  | securityReceive => exact next_keeps (execSecurityReceive_kept ..)
  | invalidAdminOpcode => exact next_keeps (execInvalidAdminOpcode_kept ..)
  | hostReadCompletionArrival => exact next_keeps (execHostReadCompletionArrival_kept ..)
  | softDecodeResult => exact next_keeps (execSoftDecodeResult_kept ..)
  | railReturnInRange => exact next_keeps (execRailReturnInRange_kept ..)
  | aonRailDown => exact next_keeps (execAonRailDown_kept ..)
  | firmwareActivationRound => exact next_keeps (execFirmwareActivationRound_kept ..)
  | nvmeMiMctpMessage => exact next_keeps (execNvmeMiMctpMessage_kept ..)
  | mctpEndpointIdAssignment => exact next_keeps (execMctpEndpointIdAssignment_kept ..)
  | activityLedTimeout => exact next_keeps (execActivityLedTimeout_kept ..)
  | faultLedBlink => exact next_keeps (execFaultLedBlink_kept ..)
  | interruptAggregationTimeout => exact next_keeps (execInterruptAggregationTimeout_kept ..)
  | tapInstructionUpdate => exact next_keeps (execTapInstructionUpdate_kept ..)

theorem exec_aonPowerOnReset_keeps (a b c d : Bool) (s : State) : ∃ u, exec (.aonPowerOnReset a b c d) s = .next u ∧
    u.tm.devTime = 0 ∧ Keeps { s with tm := { s.tm with devTime := 0 } } u := execAonPowerOnReset_keeps a b c d s

theorem step_pending_cons {s : State} {c : Instr} {rest : List Instr} (h : s.pending = c :: rest) :
    step s = exec c { s with pending := rest } := by
  unfold step
  rw [h]

theorem step_pending_nil {s : State} (h : s.pending = []) : step s = .next (idle s) := by
  unfold step
  rw [h]

theorem exec_devTime {i : Instr} {s t : State} (hi : ∀ a b c d, i ≠ .aonPowerOnReset a b c d) (h : exec i s = .next t) :
    t.tm.devTime = s.tm.devTime := by
  obtain ⟨u, hu, hk, -⟩ := exec_keeps i s hi
  rw [hu] at h
  cases h
  exact hk

theorem idle_devTime_ge (s : State) : s.tm.devTime ≤ (idle s).tm.devTime := by
  rw [(idle_kept s).1]
  split <;> omega

/-- Settles O3: only the AON power-on reset writes DevTime, and an idle step only counts it up. -/
theorem devTimeIsMonotone : Obligations.DevTimeIsMonotone := by
  refine ⟨fun a b c d s => ?_, fun i s t hi h => exec_devTime hi h, fun s t hs h => ?_⟩
  · obtain ⟨u, hu, h0, -⟩ := exec_aonPowerOnReset_keeps a b c d s
    exact ⟨u, hu, h0⟩
  · cases hp : s.pending with
    | nil =>
      rw [step_pending_nil hp] at h
      cases h
      exact idle_devTime_ge s
    | cons c rest =>
      rw [step_pending_cons hp] at h
      exact Nat.le_of_eq (exec_devTime (fun a b x d hc => hs a b x d rest (hc ▸ hp)) h).symm

/-- Settles O1, by the branch of `step` for a queue that is not empty. -/
theorem stepRunsFrontCommand : Obligations.StepRunsFrontCommand := fun _ _ _ h => step_pending_cons h

/-- The queue and the fuses under every command, the AON power-on reset among them. -/
theorem exec_pending_fuses (i : Instr) (s : State) : ∃ t, exec i s = .next t ∧ t.pending = s.pending ∧
    t.sec.cryptoDisable = s.sec.cryptoDisable ∧ t.sec.kazokRevoke = s.sec.kazokRevoke := by
  by_cases hi : ∃ a b c d, i = .aonPowerOnReset a b c d
  · obtain ⟨a, b, c, d, rfl⟩ := hi
    obtain ⟨u, hu, -, -, hc, hk, hp, -⟩ := exec_aonPowerOnReset_keeps a b c d s
    exact ⟨u, hu, hp, hc, hk⟩
  · obtain ⟨u, hu, -, hc, hk, hp, -⟩ := exec_keeps i s fun a b c d h => hi ⟨a, b, c, d, h⟩
    exact ⟨u, hu, hp, hc, hk⟩

/-- Settles O2: every arm of the dispatch answers a next state, and an idle step counts one microsecond. -/
theorem everyStepCompletes : Obligations.EveryStepCompletes := by
  refine ⟨exec_pending_fuses, fun s hp => ?_⟩
  obtain ⟨htime, -, hda, hdb, -, -, hq⟩ := idle_kept s
  exact ⟨idle s, step_pending_nil hp, hq.trans hp, htime, hda, hdb⟩

end Sys2Proof.Machine

namespace Sys2Proof.Machine

/-! ### Board Profile Update and Read (R8, R9, R424, R425) -/

theorem exec_boardProfileUpdate (q : HmpHdr) (flags z : Nat) (i : ProfImage) (s : State) :
    exec (.boardProfileUpdate q flags z i) s = execBoardProfileUpdate q flags z i s := rfl

theorem exec_qFieldCommit (r : Nat) (s : State) : exec (.qFieldCommit r) s = execQFieldCommit r s := rfl

theorem exec_boardProfileRead (q : HmpHdr) (r view first : Nat) (s : State) :
    exec (.boardProfileRead q r view first) s = execBoardProfileRead q r view first s := rfl

section BoardProfileUpdate

variable {s : State} {q : HmpHdr} {i : ProfImage} (z : Nat) {keep nextStart : Bool}

/-- The two flags of an update as its flag byte gives them, with bits [7:2] zero. -/
theorem updateFlags_read (keep nextStart : Bool) : keep.toNat + 2 * nextStart.toNat ≤ 3 ∧
    (keep.toNat + 2 * nextStart.toNat).testBit 0 = keep ∧ (keep.toNat + 2 * nextStart.toNat).testBit 1 = nextStart := by
  cases keep <;> cases nextStart <;> decide

theorem exec_boardProfileUpdate_reserved (h : HmpServed s q (ruleProfileUpdate i)) {flags : Nat} (hf : 3 < flags) :
    exec (.boardProfileUpdate q flags z i) s = .next (rejectWrite s q 0x0406 0x0014 0) := by
  simp [exec_boardProfileUpdate, execBoardProfileUpdate, hmpServe_served h, hf]

theorem exec_boardProfileUpdate_waits (h : HmpServed s q (ruleProfileUpdate i)) (ha : s.chg.activating.isSome = true) :
    exec (.boardProfileUpdate q (keep.toNat + 2 * nextStart.toNat) z i) s = .next s := by
  simp [exec_boardProfileUpdate, execBoardProfileUpdate, hmpServe_served h, Nat.not_lt.2 (updateFlags_read keep nextStart).1, ha]

/-- An update that may be tested, by what its test (R424) finds and by whether it has to wait for a quiescent point. -/
theorem exec_boardProfileUpdate_tested (h : HmpServed s q (ruleProfileUpdate i)) (ha : s.chg.activating = none) :
    let go := exec (.boardProfileUpdate q (keep.toNat + 2 * nextStart.toNat) z i) s
    (∀ st d, updateError s (keep || nextStart) nextStart i = some (st, d) →
      go = .next (if st = hsOutOfRange ∨ st = hsBootOnly then rejectWrite s q 0x0406 st d else answer s q 0x0406 st d [])) ∧
    (updateError s (keep || nextStart) nextStart i = none →
      go = .next (if (!nextStart && writesQ s i) = true then
          startLong s q 0x0406 fun s h =>
            let s := applyUpdate s keep nextStart i
            { s with chg := { s.chg with qOp := s.chg.qOp ++ [(q.sender, h)] } }
        else hmpDone (applyUpdate s keep nextStart i) q 0x0406)) := by
  obtain ⟨hle, h0, h1⟩ := updateFlags_read keep nextStart
  constructor
  · intro st d he
    simp [exec_boardProfileUpdate, execBoardProfileUpdate, hmpServe_served h, Nat.not_lt.2 hle, h0, h1, ha, he]
  · intro he
    simp [exec_boardProfileUpdate, execBoardProfileUpdate, hmpServe_served h, Nat.not_lt.2 hle, h0, h1, ha, he]

/-- The signature and the format come first among the tests of an update (R424). -/
theorem updateError_image {whole next : Bool} (hv : imageValid s 4 i.hdr = false) :
    updateError s whole next i = some (hsSecureRefused, 0) := by
  simp [updateError, hv]

theorem updateError_incomplete {whole next : Bool} (ht : i.hdr.type = 4) (hf : i.format = 1) (hv : imageValid s 4 i.hdr = true)
    (hw : whole = true) (hc : profComplete i = false) : updateError s whole next i = some (hsConflict, 1) := by
  simp [updateError, ht, hf, hv, hw, hc]

/-- A refusal that is neither of a field's range nor of its class is an answer alone. -/
theorem boardProfileUpdate_answers (h : HmpServed s q (ruleProfileUpdate i)) (ha : s.chg.activating = none) {st d : Nat}
    (hst : st ≠ hsOutOfRange ∧ st ≠ hsBootOnly) (he : updateError s (keep || nextStart) nextStart i = some (st, d)) :
    HmpAnswers (exec (.boardProfileUpdate q (keep.toNat + 2 * nextStart.toNat) z i) s) s s q 0x0406 st d [] := by
  have ho := (exec_boardProfileUpdate_tested z h ha).1 st d he
  rw [if_neg (not_or.2 hst)] at ho
  exact answer_answers ho h.2 rfl

end BoardProfileUpdate

/-- The only pending shadow of its block commits at the block's quiescent point, where no operation waits for it. -/
theorem exec_qFieldCommit_single {s : State} {r lo w v : Nat} (hs : s.chg.qShadow = [(r, lo, w, v)]) (ho : s.chg.qOp = []) :
    exec (.qFieldCommit r) s = .next
      { s with prof := profSetRecord s.prof r (setBits (profRecord s.prof r) lo w v), chg := { s.chg with qShadow := [] } } := by
  simp [exec_qFieldCommit, execQFieldCommit, hs, ho, forEach]

theorem exec_qFieldCommit_other {s : State} {r : Nat} (h : ∀ x ∈ s.chg.qShadow, x.1 ≠ r) : exec (.qFieldCommit r) s = .next s := by
  have hnone : s.chg.qShadow.filter (·.1 == r) = [] := by simpa using h
  simp [exec_qFieldCommit, execQFieldCommit, hnone]

section BoardProfileRead

variable {s : State} {q : HmpHdr} {r view : Nat} (first : Nat)

theorem boardProfileRead_reports (h : HmpServed s q ruleProfileRead) (hr : r ∈ recordIds) (hv : view ≤ 2)
    (hf : first < recordBytes r) : HmpReports (exec (.boardProfileRead q r view first) s) s q 0x0405
      (leBytes 2 r ++ leBytes 2 (recordBytes r) ++ leBytes 4 (((imageFor s 4).map (·.hdr.svn)).getD 0) ++
        (recordBytesOf (viewOf s view) r).drop first) := by
  refine reply_reports ?_ h.2
  simp [exec_boardProfileRead, execBoardProfileRead, hmpServe_served h, hr, Nat.not_lt.2 hv, Nat.not_le.2 hf]

theorem boardProfileRead_unknown (h : HmpServed s q ruleProfileRead) (hr : r ∉ recordIds) :
    HmpAnswers (exec (.boardProfileRead q r view first) s) s s q 0x0405 hsOutOfRange 0 [] := by
  refine answer_answers ?_ h.2 rfl
  simp [exec_boardProfileRead, execBoardProfileRead, hmpServe_served h, hr]

theorem boardProfileRead_badView (h : HmpServed s q ruleProfileRead) (hr : r ∈ recordIds) (hv : 2 < view) :
    HmpAnswers (exec (.boardProfileRead q r view first) s) s s q 0x0405 hsOutOfRange 2 [] := by
  refine answer_answers ?_ h.2 rfl
  simp [exec_boardProfileRead, execBoardProfileRead, hmpServe_served h, hr, hv]

end BoardProfileRead

/-- Settles O18: the tests of an update in the order of R424, the commit of a shadow, and the three views of a read. -/
theorem boardProfile : Obligations.BoardProfile := by
  refine ⟨fun s q flags z i h hf => exec_boardProfileUpdate_reserved z h hf, fun s q keep nextStart z i h => ?_,
    fun s r lo w v hs ho => exec_qFieldCommit_single hs ho, fun s r h => exec_qFieldCommit_other h, fun s q r view first h => ?_⟩
  · refine ⟨fun ha => exec_boardProfileUpdate_waits z h ha, fun ha hv => ?_, fun ha ht hf hv hw hc => ?_,
      fun ha d he => ?_, fun ha he => ?_⟩
    · exact boardProfileUpdate_answers z h ha (by decide) (updateError_image hv)
    · exact boardProfileUpdate_answers z h ha (by decide) (updateError_incomplete ht hf hv (by simpa using hw) hc)
    · exact (exec_boardProfileUpdate_tested z h ha).1 0x0015 d he
    · have ho := (exec_boardProfileUpdate_tested z h ha).2 he
      refine ⟨fun hnow => ?_, fun hn hq _ => ?_⟩
      · have hwait : (!nextStart && writesQ s i) = false := by
          rcases hnow with hn | hq
          · rw [hn, Bool.not_true, Bool.false_and]
          · rw [hq, Bool.and_false]
        rwa [hwait, if_neg Bool.false_ne_true] at ho
      · subst hn
        have hwait : (!false && writesQ s i) = true := by rw [hq, Bool.not_false, Bool.and_self]
        rwa [if_pos hwait] at ho
  · exact ⟨fun hr hv hf p hp => hp ▸ boardProfileRead_reports first h hr hv hf, fun hr => boardProfileRead_unknown first h hr,
      fun hr hv => boardProfileRead_badView first h hr hv⟩

end Sys2Proof.Machine

namespace Sys2Proof.Machine

/-! ### Doorbells (R211, R219, R396, R398) -/

theorem exec_sqTailDoorbell (f k v : Nat) (s : State) : exec (.sqTailDoorbell f k v) s = execSqTailDoorbell f k v s := rfl

theorem exec_cqHeadDoorbell (f k v : Nat) (s : State) : exec (.cqHeadDoorbell f k v) s = execCqHeadDoorbell f k v s := rfl

theorem beginWake_awake {s : State} (h : s.boot.phase ≠ 6) (c : WakeCause) : beginWake s c = s := by
  simp [beginWake, h]

theorem abandonEntry_none {s : State} (h : s.bat.entryAt = none) (n : Nat) : abandonEntry s n = s := by
  simp [abandonEntry, h]

/-- AQA counts from 0 (R219). -/
theorem adminSize_of_field {x : FnSt} {lo : Nat} (h : bits (tblGet 0 0x24 x.bar0).toNat lo 12 ≠ 0) :
    adminSize x lo = bits (tblGet 0 0x24 x.bar0).toNat lo 12 + 1 := by
  unfold adminSize
  split
  · contradiction
  · rfl

section Doorbells

variable {s₀ : State} {f : Nat} (h : barReachable s₀ f = true) (v : Nat)

include h

theorem exec_sqTailDoorbell_admin :
    let s := abandonEntry (beginWake s₀ .doorbell) 0
    exec (.sqTailDoorbell f 0 v) s₀ = .next
      (if adminSize (fnOf s f) 0 ≤ v then s else fetchAll (updFn s f fun x => { x with adminTail := v })) := by
  simp [exec_sqTailDoorbell, execSqTailDoorbell, h]

theorem exec_sqTailDoorbell_queue {k : Nat} (hk : 0 < k) {q : SqSt} :
    let s := abandonEntry (beginWake s₀ .doorbell) 0
    tblFind? k (fnOf s f).sqs = some q → exec (.sqTailDoorbell f k v) s₀ = .next
      (if q.size ≤ v then s else fetchAll (updFn s f fun x => { x with sqs := tblSet k { q with tail := v } x.sqs })) := by
  intro s hq
  simp only [s] at hq
  simp [exec_sqTailDoorbell, execSqTailDoorbell, h, Nat.ne_of_gt hk, hq, s]

theorem exec_sqTailDoorbell_absent {k : Nat} (hk : 0 < k) :
    let s := abandonEntry (beginWake s₀ .doorbell) 0
    tblFind? k (fnOf s f).sqs = none → exec (.sqTailDoorbell f k v) s₀ = .next s := by
  intro s hq
  simp only [s] at hq
  simp [exec_sqTailDoorbell, execSqTailDoorbell, h, Nat.ne_of_gt hk, hq, s]

end Doorbells

/-- A freed slot changes nothing else where no completion waits for its queue. -/
theorem flushCq_none {s : State} {f k : Nat} (h : ∀ w ∈ s.host.cqWait, ¬(w.1.fn = f ∧ w.1.cqid = k)) : flushCq s f k = s := by
  have hnone : (s.host.cqWait.filter fun w => w.1.fn == f && w.1.cqid == k) = [] := by simpa using h
  simp [flushCq, hnone, forEach]

/-- The completion queue that a head doorbell names: an admin queue is there without being listed (R219). -/
def headQueue (x : FnSt) (k : Nat) : Option CqSt := if k = 0 then some (tblGet cqDefault 0 x.cqs) else tblFind? k x.cqs

theorem exec_cqHeadDoorbell_queue {s₀ : State} {f k : Nat} (h : barReachable s₀ f = true) (v : Nat) {q : CqSt}
    (hq : headQueue (fnOf (beginWake s₀ .doorbell) f) k = some q) : exec (.cqHeadDoorbell f k v) s₀ = .next
      (if q.size ≤ v then beginWake s₀ .doorbell
        else flushCq (updFn (beginWake s₀ .doorbell) f fun x => { x with cqs := tblSet k { q with head := v } x.cqs }) f k) := by
  unfold headQueue at hq
  simp [exec_cqHeadDoorbell, execCqHeadDoorbell, h, hq]

theorem exec_cqHeadDoorbell_absent {s₀ : State} {f k : Nat} (h : barReachable s₀ f = true) (v : Nat)
    (hq : headQueue (fnOf (beginWake s₀ .doorbell) f) k = none) : exec (.cqHeadDoorbell f k v) s₀ = .next (beginWake s₀ .doorbell) := by
  unfold headQueue at hq
  simp [exec_cqHeadDoorbell, execCqHeadDoorbell, h, hq]

/-! ### Register accesses (R4, R10, R211 to R213, R231, Tables 09.6, 10.3) -/

theorem exec_registerWrite (f : Nat) (r : RegSpace) (off v : Nat) (s : State) :
    exec (.registerWrite f r off v) s = execRegisterWrite f r off v s := rfl

theorem exec_kwDevtimeLoRead (f : Nat) (s : State) : exec (.kwDevtimeLoRead f) s = execKwDevtimeLoRead f s := rfl

theorem exec_unsupportedBarAccess (f bar off size : Nat) (s : State) :
    exec (.unsupportedBarAccess f bar off size) s = execUnsupportedBarAccess f bar off size s := rfl

theorem bits_zero_lo (v w : Nat) : bits v 0 w = v % 2 ^ w := by simp [bits]

/-- A write of 32 bits to BAR2 of a function that a host access reaches. -/
theorem exec_registerWrite_bar2 {s : State} {f v : Nat} (h : barReachable s f = true) (hv : v < 2 ^ 32) (off : Nat) :
    exec (.registerWrite f .bar2 off v) s = .next (writeBar2 (beginWake s .register) f off v) := by
  simp only [exec_registerWrite, execRegisterWrite, Nat.mod_eq_of_lt hv]
  simp [barWrite, h]

theorem exec_registerWrite_aqa {s : State} {f v : Nat} (h : barReachable s f = true) (hv : v < 2 ^ 32) :
    exec (.registerWrite f .bar0 0x24 v) s = .next (updFn s f fun x => { x with bar0 := tblSet 0x24 (BitVec.ofNat 32 v) x.bar0 }) := by
  simp only [exec_registerWrite, execRegisterWrite, Nat.mod_eq_of_lt hv]
  simp [h, writeBar0, bar0Stored]

theorem exec_registerWrite_sdr1 {s : State} {c v : Nat} (f : Nat) (hv : v < 2 ^ 32) (hm : mgmtDown s = false)
    (hc : chRunning s c = true ∨ (c < 32 ∧ (island s (chIsland c)).st = .isolated)) :
    exec (.registerWrite f (.channel c) 0x104 v) s = .next (updChan s c fun x => { x with sdr1 := BitVec.ofNat 32 v }) := by
  simp only [exec_registerWrite, execRegisterWrite, Nat.mod_eq_of_lt hv]
  rcases hc with hrun | ⟨hlt, hiso⟩
  · simp [hm, hrun, writeChannelReg]
  · simp [hm, hlt, hiso, writeChannelReg]

theorem exec_unsupportedBarAccess_recorded {s : State} {f bar off size : Nat} (h : barReachable s f = true) (hb : bar = 0 ∨ bar = 2)
    (hs : (size ≠ 4 ∧ size ≠ 8) ∨ off % size ≠ 0) : exec (.unsupportedBarAccess f bar off size) s = .next (accessError
      { s with host := { s.host with unsupported := s.host.unsupported ++ [(f, bar, off)] } } f off 0) := by
  have hbar : (bar == 0 || bar == 2) = true := by simpa using hb
  have hsize : ((size == 4 || size == 8) && off % size == 0) = false := by
    rcases hs with ⟨h4, h8⟩ | ho
    · simp [h4, h8]
    · simp [ho]
  simp [exec_unsupportedBarAccess, execUnsupportedBarAccess, h, hbar, hsize]

/-- The latch of DevTime takes the time of the read, which wakes nothing (R213, R398). -/
theorem exec_kwDevtimeLoRead_latch {s : State} {f : Nat} (h : barReachable s f = true) : exec (.kwDevtimeLoRead f) s = .next
    (updFn s f fun x => { x with devtimeLatch := now (beginWake s .register) }) := by
  have hnow : now (beginWake s .register) = now s := (beginWake_kept s .register).1
  simp [exec_kwDevtimeLoRead, execKwDevtimeLoRead, h, hnow]

/-- The Dormer window is the PF's (Table 19.3). -/
theorem writeBar2_cursorLo (s : State) {f : Nat} (hf : f = 0) (v : Nat) :
    writeBar2 s f 0x8010 v = { s with evt := { s.evt with cursorLo := BitVec.ofNat 32 v } } := by
  simp [writeBar2, hf, writeDormer]

section Bar2

variable (s : State) (f v : Nat)

/-- A B field of a running mailbox is rejected (R10, R231). -/
theorem writeBar2_mailbox_running {off : Nat} (ha : (fnOf s f).mailbox.active = true)
    (ho : off ∈ [0x1000, 0x1004, 0x1008, 0x100C, 0x1010]) : writeBar2 s f off v = rejectRegister s f 0 off := by
  simp only [List.mem_cons, List.not_mem_nil, or_false] at ho
  rcases ho with rfl | rfl | rfl | rfl | rfl <;> simp [writeBar2, writeMailboxB, ha]

/-- The registers reserved from 0x1030 on ignore a write (R4). -/
theorem writeBar2_reserved {off : Nat} (hlo : 0x1030 ≤ off) (hhi : off < 0x5000) : writeBar2 s f off v = s := by
  have hne (n : Nat) (hn : n < 0x1030) : off ≠ n := by omega
  have hdormer : ¬0x8000 ≤ off := by omega
  simp [writeBar2, hne, hdormer]

/-- The ring bases of a mailbox that does not run. -/
theorem writeBar2_bases (ha : (fnOf s f).mailbox.active = false) (hv : v % 4096 = 0) :
    writeBar2 s f 0x1000 v = updMailbox s f (fun m => { m with reqBaseLo := BitVec.ofNat 32 v }) ∧
      writeBar2 s f 0x1008 v = updMailbox s f (fun m => { m with rspBaseLo := BitVec.ofNat 32 v }) := by
  simp [writeBar2, writeMailboxB, ha, bits_zero_lo, hv]

theorem writeBar2_bases_misaligned (ha : (fnOf s f).mailbox.active = false) (hv : v % 4096 ≠ 0) :
    writeBar2 s f 0x1000 v = rejectRegister s f 1 0x1000 ∧ writeBar2 s f 0x1008 v = rejectRegister s f 1 0x1008 := by
  simp [writeBar2, writeMailboxB, ha, bits_zero_lo, hv]

theorem writeBar2_bases_high (ha : (fnOf s f).mailbox.active = false) :
    writeBar2 s f 0x1004 v = updMailbox s f (fun m => { m with reqBaseHi := BitVec.ofNat 32 v }) ∧
      writeBar2 s f 0x100C v = updMailbox s f (fun m => { m with rspBaseHi := BitVec.ofNat 32 v }) := by
  simp [writeBar2, writeMailboxB, ha]

theorem writeBar2_ringOrder (ha : (fnOf s f).mailbox.active = false) (hlo : 4 ≤ v % 16) (hhi : v % 16 ≤ 10) :
    writeBar2 s f 0x1010 v = updMailbox s f fun m => { m with ringOrder := BitVec.ofNat 4 v } := by
  simp [writeBar2, writeMailboxB, ha, bits_zero_lo, hlo, hhi]

theorem writeBar2_notify (hv : bits v 0 11 < vectorsOf f) :
    writeBar2 s f 0x18 v = updFn s f fun x => { x with notify := BitVec.ofNat 32 v &&& 0x800007FF#32 } := by
  simp [writeBar2, Nat.not_le.2 hv]

theorem writeBar2_notify_rejected (hv : vectorsOf f ≤ bits v 0 11) : writeBar2 s f 0x18 v = rejectRegister s f 1 0x18 := by
  simp [writeBar2, hv]

end Bar2

/-- Settles O28: the doorbells, then each register by the write that reaches it. -/
theorem doorbellsAndRegisters : Obligations.DoorbellsAndRegisters := by
  refine ⟨fun s f k v h => ?_, fun s hp he c n => ?_, fun s₀ f k v h => ?_, fun s₀ f k v h => ?_, fun s₀ f v h hv => ?_,
    fun s f c v hv hm hc => exec_registerWrite_sdr1 f hv hm hc⟩
  · exact ⟨by simp [exec_sqTailDoorbell, execSqTailDoorbell, h], by simp [exec_cqHeadDoorbell, execCqHeadDoorbell, h],
      by simp [exec_kwDevtimeLoRead, execKwDevtimeLoRead, h],
      fun bar off size => by simp [exec_unsupportedBarAccess, execUnsupportedBarAccess, h],
      fun off => by simp [exec_registerWrite, execRegisterWrite, barWrite, h]⟩
  · rw [beginWake_awake hp]
    exact ⟨rfl, abandonEntry_none he n⟩
  · intro s x go
    refine ⟨fun hk hlt => ?_, fun hk hge => ?_, adminSize_of_field, fun q hk hq hlt => ?_, fun q hk hq hge => ?_,
      fun hk hq => exec_sqTailDoorbell_absent h v hk hq⟩
    · subst hk
      exact (exec_sqTailDoorbell_admin h v).trans (by rw [if_neg (Nat.not_le.2 hlt)])
    · subst hk
      exact (exec_sqTailDoorbell_admin h v).trans (by rw [if_pos hge])
    · exact (exec_sqTailDoorbell_queue h v hk hq).trans (by rw [if_neg (Nat.not_le.2 hlt)])
    · exact (exec_sqTailDoorbell_queue h v hk hq).trans (by rw [if_pos hge])
  · intro s x go cq?
    refine ⟨fun q hq hlt => ?_, fun q hq hge => ?_, fun hq => exec_cqHeadDoorbell_absent h v hq⟩
    · have hgo := (exec_cqHeadDoorbell_queue h v hq).trans (by rw [if_neg (Nat.not_le.2 hlt)])
      exact ⟨hgo, fun hw => hgo.trans (congrArg _ (flushCq_none hw))⟩
    · exact (exec_cqHeadDoorbell_queue h v hq).trans (by rw [if_pos hge])
  · intro s go w m cleared
    have hgo {off : Nat} {t : State} (ht : writeBar2 s f off v = t) : go off = .next t :=
      (exec_registerWrite_bar2 h hv off).trans (congrArg _ ht)
    refine ⟨hgo rfl, fun hn => hgo (writeBar2_notify s f v hn), fun hn => hgo (writeBar2_notify_rejected s f v hn), hgo rfl,
      fun ha hb => ?_, fun ha hb => ?_, fun ha => ?_, fun ha hlo hhi => hgo (writeBar2_ringOrder s f v ha hlo hhi),
      fun ha off ho => hgo (writeBar2_mailbox_running s f v ha ho), hgo rfl, fun off hlo hhi => hgo (writeBar2_reserved s f v hlo hhi),
      fun hf => hgo (writeBar2_cursorLo s hf v), exec_registerWrite_aqa h hv, exec_kwDevtimeLoRead_latch h,
      fun bar off size hb hs => exec_unsupportedBarAccess_recorded h hb hs⟩
    · obtain ⟨hreq, hrsp⟩ := writeBar2_bases s f v ha hb
      exact ⟨hgo hreq, hgo hrsp⟩
    · obtain ⟨hreq, hrsp⟩ := writeBar2_bases_misaligned s f v ha hb
      exact ⟨hgo hreq, hgo hrsp⟩
    · obtain ⟨hreq, hrsp⟩ := writeBar2_bases_high s f v ha
      exact ⟨hgo hreq, hgo hrsp⟩

end Sys2Proof.Machine

namespace Sys2Proof.Machine

/-! ### Islands: the one that runs after a reset, and one island Gated (R14, R18) -/

theorem islIndex_eq_zero_iff (i : Nat) : islIndex i = 0 ↔ i = 0 := by
  unfold islIndex
  split <;> omega

theorem islIndex_lt {i : Nat} (hi : islIdValid i = true) : islIndex i < 42 := by
  simp only [islIdValid, Bool.or_eq_true, Bool.and_eq_true, decide_eq_true_eq] at hi
  unfold islIndex
  split <;> omega

theorem islIdOf_islIndex {i : Nat} (hi : islIdValid i = true) : islIdOf (islIndex i) = i := by
  simp only [islIdValid, Bool.or_eq_true, Bool.and_eq_true, decide_eq_true_eq] at hi
  unfold islIdOf islIndex
  by_cases h : i < 10
  · simp [h]
  · simp only [h, if_false]
    rw [if_neg (by omega)]
    omega

/-- In an island list whose head runs and whose other places hold one island that does not run, the AON island alone is Running. -/
theorem isRunning_iff_aon {s : State} {a x : Island} {n : Nat} (hs : s.isl.islands = a :: List.replicate n x)
    (ha : a.st = .running) (hx : x.st ≠ .running) (i : Nat) : isRunning s i = true ↔ i = 0 := by
  have hother (k : Nat) : (vecGet islDefault (List.replicate n x) k).st ≠ .running := by
    by_cases hk : k < n
    · simpa [vecGet, List.getD, hk] using hx
    · simp [vecGet, List.getD, hk, islDefault]
  rw [← islIndex_eq_zero_iff i]
  simp only [isRunning, island, hs, beq_iff_eq]
  cases islIndex i with
  | zero => simpa [vecGet] using ha
  | succ k => simpa [vecGet] using hother k

theorem isRunning_congr {s t : State} (h : t.isl = s.isl) (i : Nat) : isRunning t i = isRunning s i := by
  unfold isRunning island
  rw [h]

/-- The record of an island that is Gated at `time`. -/
def gatedIsland (time : Nat) (x : Island) : Island :=
  { x with st := .gated, leftAt := some (x.leftAt.getD time), fenced := true, released := false, lost := true }

@[simp] theorem writeProtect_isl (s : State) (i : Nat) : (writeProtect s i).isl = s.isl := by
  unfold writeProtect
  split <;> rfl

@[simp] theorem writeProtect_tm (s : State) (i : Nat) : (writeProtect s i).tm = s.tm := by
  unfold writeProtect
  split <;> rfl

theorem setIslandState_gated_islands (s : State) (i : Nat) :
    (setIslandState s i .gated).isl.islands = vecUpd s.isl.islands (islIndex i) (gatedIsland (now s)) := by
  have hlost (x : Island) : (x.lost || IslState.gated != .isolated) = true := by simp
  simp only [setIslandState, hlost]
  split <;> exact congrArg IslSt.islands (writeProtect_isl _ i)

theorem setIslandState_gated_tm (s : State) (i : Nat) : (setIslandState s i .gated).tm = s.tm := by
  simp only [setIslandState]
  split <;> exact writeProtect_tm _ i

/-- A Gated island is not Running, and the others stay as they were. -/
theorem isRunning_setIslandState_gated (s : State) (i j : Nat) :
    isRunning (setIslandState s i .gated) j = (isRunning s j && islIndex j != islIndex i) := by
  simp only [isRunning, island, setIslandState_gated_islands]
  by_cases h : islIndex j = islIndex i
  · by_cases hl : islIndex i < s.isl.islands.length
    · simp [h, vecGet_vecUpd_self, hl, gatedIsland]
    · simp [h, vecGet, vecUpd, List.getD, hl, islDefault]
  · simp [vecGet_vecUpd_ne _ _ _ (Ne.symm h), h]

/-- Settles O5: the values of the reset state, and the one island that runs. -/
theorem resetForm : Obligations.ResetForm := by
  refine ⟨rfl, rfl, fun _ => rfl, rfl, rfl, fun i _ => isRunning_iff_aon rfl rfl (by decide) i, rfl, rfl, rfl, rfl, rfl, rfl, rfl, rfl,
    rfl, rfl, rfl, fun g => ?_, fun _ _ => ⟨rfl, rfl⟩⟩
  have hfresh : isFresh dramChDefault g = false := by simp [isFresh, dramChDefault]
  exact ⟨hfresh, hfresh⟩

/-! ### AON power-on reset -/

/-- The steady fault LED writes the level of SB_LED_FLT_N alone. -/
theorem refreshFaultLed_eq (s : State) : refreshFaultLed s = { s with pins := { s.pins with
    ledFltN := if anySevere s then false else if s.boot.phase = 7 then s.pins.ledFltN else true } } := by
  unfold refreshFaultLed
  split
  · rfl
  · split <;> rfl

theorem resetIslands_islands (s : State) : ∃ x : Island, x.st ≠ .running ∧
    (resetIslands s).isl.islands = ⟨.running, none, false, false, false⟩ :: List.replicate 41 x :=
  ⟨⟨.heldInReset, some (now s), true, false, true⟩, nofun, rfl⟩

/-- The contracts are device state (R209): only their buckets are filled. -/
theorem startAdm_bounds (x : AdmSt) : (startAdm x).contracts.map (·.bound) = x.contracts.map (·.bound) := by
  simp [startAdm, fullBuckets, Function.comp_def]

/-! ### The AON rail down (R197) -/

/-- Islands put into Gated one after another: each of them and each that did not run before is not Running. -/
theorem isRunning_forEach_gated (l : List Nat) (s : State) (j : Nat) (h : j ∈ l ∨ isRunning s j = false) :
    isRunning (forEach l (fun id s => setIslandState s id .gated) s) j = false := by
  unfold forEach
  induction l generalizing s with
  | nil => simpa using h
  | cons i l ih =>
    refine ih _ ?_
    rw [isRunning_setIslandState_gated]
    rcases h with hm | hr
    · rcases List.mem_cons.1 hm with rfl | hl
      · exact .inr (by simp)
      · exact .inl hl
    · exact .inr (by simp [hr])

theorem forEach_tm {α : Type} (l : List α) (f : α → State → State) (s : State) (h : ∀ a s, (f a s).tm = s.tm) :
    (forEach l f s).tm = s.tm := by
  unfold forEach
  induction l generalizing s with
  | nil => rfl
  | cons a l ih => exact (ih _).trans (h a s)

/-- Every island but AON stands in the list that `allIslands` goes through. -/
theorem mem_allIslands_ids {i : Nat} (hi : islIdValid i = true) (h0 : i ≠ 0) :
    i ∈ (List.range 41).map fun k => islIdOf (k + 1) := by
  have hpos : islIndex i ≠ 0 := fun h => h0 ((islIndex_eq_zero_iff i).1 h)
  have hlt := islIndex_lt hi
  refine List.mem_map.2 ⟨islIndex i - 1, List.mem_range.2 (by omega), ?_⟩
  rw [Nat.sub_add_cancel (by omega), islIdOf_islIndex hi]

/-- With every island but AON Gated and then AON too, none runs. -/
theorem isRunning_allGated (s : State) {i : Nat} (hi : islIdValid i = true) :
    isRunning (setIslandState (allIslands s .gated) 0 .gated) i = false := by
  rw [isRunning_setIslandState_gated]
  by_cases h0 : i = 0
  · simp [h0]
  · have := isRunning_forEach_gated _ s i (.inl (mem_allIslands_ids hi h0))
    simp [allIslands, this]

theorem exec_aonRailDown_effect (s : State) : ∃ t, exec .aonRailDown s = .next t ∧ (∀ i, islIdValid i = true → isRunning t i = false) ∧
    t.sup.huEn = false ∧ t.sup.chgEn = false ∧ t.sup.seqEn = false ∧ t.flt.aliveLevel = false ∧ t.host.linkUp = false ∧ t.tm = s.tm := by
  have htm : (setIslandState (allIslands s .gated) 0 .gated).tm = s.tm :=
    (setIslandState_gated_tm _ _).trans (forEach_tm _ _ _ fun i s => setIslandState_gated_tm s i)
  obtain ⟨t, ht, hisl, htm', h⟩ : ∃ t, exec .aonRailDown s = .next t ∧ t.isl = (setIslandState (allIslands s .gated) 0 .gated).isl ∧
      t.tm = (setIslandState (allIslands s .gated) 0 .gated).tm ∧ t.sup.huEn = false ∧ t.sup.chgEn = false ∧ t.sup.seqEn = false ∧
      t.flt.aliveLevel = false ∧ t.host.linkUp = false := ⟨_, rfl, rfl, rfl, rfl, rfl, rfl, rfl, rfl⟩
  obtain ⟨h1, h2, h3, h4, h5⟩ := h
  exact ⟨t, ht, fun i hi => (isRunning_congr hisl i).trans (isRunning_allGated s hi), h1, h2, h3, h4, h5, htm'.trans htm⟩

/-! ### The power-up (R365) -/

/-- What recording an event changes: the recorder, and the interrupts of a function that is notified. -/
theorem recordEvent_effect (s : State) (code sev kind num : Nat) (payload : List Byte) :
    ∃ e fs, recordEvent s code sev kind num payload = { s with evt := e, host := { s.host with fns := fs } } := by
  have happend (s : State) : ∃ e fs, appendRecord s code sev kind num payload = { s with evt := e, host := { s.host with fns := fs } } := by
    unfold appendRecord notifyFn
    extract_lets e flags r hit t
    split
    · split <;> exact ⟨_, _, rfl⟩
    · exact ⟨_, _, rfl⟩
  unfold recordEvent
  split
  · exact ⟨_, _, rfl⟩
  · split
    · exact happend s
    · extract_lets +onlyGivenNames room room'
      clear_value room'
      cases room' with
      | some l => exact happend { s with evt := { s.evt with cache := l } }
      | none => exact ⟨_, _, rfl⟩

@[simp] theorem recordEvent_sup (s : State) (code sev kind num : Nat) (payload : List Byte) :
    (recordEvent s code sev kind num payload).sup = s.sup := by
  obtain ⟨e, fs, h⟩ := recordEvent_effect s code sev kind num payload
  rw [h]

@[simp] theorem recordEvent_boot (s : State) (code sev kind num : Nat) (payload : List Byte) :
    (recordEvent s code sev kind num payload).boot = s.boot := by
  obtain ⟨e, fs, h⟩ := recordEvent_effect s code sev kind num payload
  rw [h]

theorem exec_powerUpRetry (a b : Bool) (s : State) : exec (.powerUpRetry a b) s = execPowerUpRetry a b s := rfl

theorem powerUpFree_iff (s : State) :
    powerUpFree s = true ↔ isRunning s 0 = true ∧ s.boot.attempts < 4 ∧ ∀ t, s.boot.seqRetryAt = some t → t ≤ now s := by
  unfold powerUpFree powerUpTries
  cases s.boot.seqRetryAt <;> simp [and_assoc]

theorem exec_powerUpRetry_ignored {s : State} (h : s.boot.phase ≠ 0 ∨ s.eav.afterDump = true ∨ powerUpFree s = false) (a b : Bool) :
    exec (.powerUpRetry a b) s = .next s := by
  rcases h with h | h | h <;> simp [exec_powerUpRetry, execPowerUpRetry, h]

theorem exec_powerUpRetry_good {s : State} (hp : s.boot.phase = 0) (hd : s.eav.afterDump = false) (hf : powerUpFree s = true) :
    exec (.powerUpRetry true true) s = .next { s with sup := { s.sup with seqEn := true, pmicGood := true } } := by
  simp [exec_powerUpRetry, execPowerUpRetry, hp, hd, hf]

/-- A failed power-up counts one attempt and is due again 100 ms later. -/
theorem exec_powerUpRetry_failed {s : State} (hp : s.boot.phase = 0) (hd : s.eav.afterDump = false) (hf : powerUpFree s = true) (a : Bool) :
    ∃ t, exec (.powerUpRetry a false) s = .next t ∧ t.sup.seqEn = false ∧ t.boot.attempts = s.boot.attempts + 1 ∧
      t.boot.seqRetryAt = some (now s + 100000) := by
  refine ⟨supplyEvent { s with sup := { s.sup with seqEn := false, pmicGood := a },
                               boot := { s.boot with attempts := s.boot.attempts + 1, seqRetryAt := some (now s + 100000) } } 1, ?_⟩
  simp [exec_powerUpRetry, execPowerUpRetry, hp, hd, hf, supplyEvent]

/-! ### Device restarts (Table 18.4) -/

/-- From `s` to `t` only what a phase entry notes besides the phase itself differs: the recorder, ALIVE, the LED, and registers and
interrupts of functions. -/
def PhaseNoted (s t : State) : Prop :=
  ∃ e f n fs, t = { s with evt := e, flt := f, pins := n, host := { s.host with fns := fs } }

theorem PhaseNoted.trans {s t u : State} (h : PhaseNoted s t) (h' : PhaseNoted t u) : PhaseNoted s u := by
  obtain ⟨e, f, n, fs, rfl⟩ := h
  obtain ⟨e', f', n', fs', rfl⟩ := h'
  exact ⟨e', f', n', fs', rfl⟩

theorem recordEvent_phaseNoted (s : State) (code sev kind num : Nat) (payload : List Byte) :
    PhaseNoted s (recordEvent s code sev kind num payload) := by
  obtain ⟨e, fs, h⟩ := recordEvent_effect s code sev kind num payload
  exact ⟨e, s.flt, s.pins, fs, h⟩

theorem refreshAlive_phaseNoted (s : State) : PhaseNoted s (refreshAlive s) := by
  unfold refreshAlive
  split <;> exact ⟨_, _, _, _, rfl⟩

theorem refreshFaultLed_phaseNoted (s : State) : PhaseNoted s (refreshFaultLed s) :=
  ⟨_, _, _, _, refreshFaultLed_eq s⟩

theorem updFn_phaseNoted (s : State) (f : Nat) (g : FnSt → FnSt) : PhaseNoted s (updFn s f g) := ⟨_, _, _, _, rfl⟩

theorem forEach_updFn_phaseNoted (l : List Nat) (g : FnSt → FnSt) (s : State) :
    PhaseNoted s (forEach l (fun f s => updFn s f g) s) := by
  unfold forEach
  induction l generalizing s with
  | nil => exact ⟨_, _, _, _, rfl⟩
  | cons f l ih => exact (updFn_phaseNoted s f g).trans (ih _)

theorem readyFns_phaseNoted (s : State) : PhaseNoted s (readyFns s) := by
  unfold readyFns
  split
  · exact forEach_updFn_phaseNoted _ _ s
  · split
    · exact updFn_phaseNoted s 0 _
    · exact ⟨_, _, _, _, rfl⟩

/-- What entering a phase changes. -/
theorem enterPhase_effect (s : State) (p reason : Nat) : ∃ r at',
    PhaseNoted { s with boot := { s.boot with phase := p, reason := r, phaseAt := at' } } (enterPhase s p reason) :=
  ⟨_, _, (recordEvent_phaseNoted ..).trans ((refreshAlive_phaseNoted _).trans
    ((refreshFaultLed_phaseNoted _).trans (readyFns_phaseNoted _)))⟩

theorem restartDevice_effect (s : State) (clean : Bool) :
    let t := restartDevice s clean
    t.tm = s.tm ∧ t.boot.phase = 0 ∧ t.boot.lastReset = 1 ∧ t.bat = batReset ∧ t.host.linkUp = false ∧ t.adm.cmds = [] ∧
      t.prof = s.prof ∧ t.isl.sysrefOk = true ∧ t.boot.cleanMark = clean := by
  unfold restartDevice
  obtain ⟨r, at', e, f, n, fs, h⟩ := enterPhase_effect (restartAon (resetIslands s) clean) 0 0
  rw [h]
  exact ⟨rfl, rfl, rfl, rfl, rfl, rfl, rfl, rfl, rfl⟩

theorem mayRestart_conditions {s : State} (h : mayRestart s = true) : s.eav.afterDump = true ∧ s.thm.tripped = false ∧
    s.sup.pwrDis = false ∧ ∃ t, s.sup.v12HighSince = some t ∧ t + 100000 ≤ now s := by
  unfold mayRestart at h
  cases hv : s.sup.v12HighSince with
  | none => simp [hv] at h
  | some t =>
    simp only [hv, Bool.and_eq_true, Bool.not_eq_true', decide_eq_true_eq] at h
    obtain ⟨⟨⟨⟨⟨-, hd⟩, ht⟩, hp⟩, hv12⟩, -⟩ := h
    exact ⟨hd, ht, hp, t, rfl, hv12⟩

theorem exec_deviceRestart (c : RestartCause) (s : State) : exec (.deviceRestart c) s = execDeviceRestart c s := rfl

theorem exec_brownoutReturn (s : State) : exec .brownoutReturn s = execBrownoutReturn s := rfl

theorem exec_deviceRestart_due {s : State} {c : RestartCause} (h : restartDue s c = true) :
    exec (.deviceRestart c) s = .next (restartDevice s (c == .restrictedCommit)) := by simp [exec_deviceRestart, execDeviceRestart, h]

/-- Settles O56: the AON power-on reset, the loss of its rail, the tries of the power-up, and the restarts. -/
theorem deviceResets : Obligations.DeviceResets := by
  refine ⟨fun s a b c d => ?_, fun s _ => exec_aonRailDown_effect s, fun s => ⟨fun h => exec_powerUpRetry_ignored h, fun hp hd hf =>
    ⟨exec_powerUpRetry_good hp hd hf, exec_powerUpRetry_failed hp hd hf⟩, powerUpFree_iff s⟩, fun s c => ⟨fun h => ?_, fun h => ?_⟩,
    fun s => ⟨fun h => ?_, fun h => ?_, mayRestart_conditions⟩⟩
  · obtain ⟨x, hx, hislands⟩ := resetIslands_islands { s with tm :=
      { s.tm with devTime := 0, powerCycles := s.tm.powerCycles + 1, onBackup := false, crystalLostAt := none } }
    refine ⟨_, rfl, ?_⟩
    rw [refreshFaultLed_eq]
    refine ⟨rfl, rfl, rfl, rfl, ⟨rfl, rfl, rfl, rfl, rfl⟩,
      fun i _ => isRunning_iff_aon hislands rfl hx i, rfl, rfl, rfl, rfl, rfl, rfl, rfl, rfl,
      rfl, rfl, rfl, rfl, rfl, rfl, rfl, rfl, rfl, rfl, startAdm_bounds s.adm⟩
  · simp [exec_deviceRestart, execDeviceRestart, h]
  · refine ⟨_, exec_deviceRestart_due h, ?_⟩
    obtain ⟨h1, h2, h3, h4, h5, h6, h7, h8, h9⟩ := restartDevice_effect s (c == .restrictedCommit)
    refine ⟨h1, h2, h3, h4, h5, h6, h7, h8, ?_⟩
    rw [h9, beq_iff_eq]
  · simp [exec_brownoutReturn, execBrownoutReturn, restartDue, h]
  · simp [exec_brownoutReturn, execBrownoutReturn, restartDue, h]

end Sys2Proof.Machine

namespace Sys2Proof.Machine

/-! ### Admin commands that are served (R208, R214) -/

section AdminServed

variable {s s' : State} {a : AdmHdr} {p r : Bool} {g : State → State} {st : NvmeStatus} {dw0 : Nat} {data : List Byte}

theorem AdminServed.next (h : AdminServed s a p r) (hg : g s = s') :
    (.next (adminServe s a p r g) : Host.Outcome State Fault Refusal) = .next s' :=
  congrArg _ ((adminServe_passes h.1 g).trans hg)

/-- A served command completes as its body does, where what the body changed leaves the admin queue its place. -/
theorem AdminServed.completes (h : AdminServed s a p r) (hg : g s = adminDone s' a st dw0 data)
    (hp : s'.host.posted = s.host.posted) (hr : AdminRoom s' a.fn) :
    AdminCompletes (.next (adminServe s a p r g)) s s' a st dw0 data :=
  adminDone_completes (h.next hg) hp hr

theorem AdminServed.unchanged (h : AdminServed s a p r) (hg : g s = adminDone s a st dw0 data) :
    AdminCompletes (.next (adminServe s a p r g)) s s a st dw0 data :=
  h.completes hg rfl h.2

/-- A served command whose body changes its function, but not what the admin queue's room depends on. -/
theorem AdminServed.updates {u : FnSt → FnSt} (h : AdminServed s a p r) (hg : g s = adminDone (updFn s a.fn u) a st dw0 data)
    (hu : (u (fnOf s a.fn)).ccEn = (fnOf s a.fn).ccEn ∧ (u (fnOf s a.fn)).rdy = (fnOf s a.fn).rdy ∧
      tblFind? 0 (u (fnOf s a.fn)).cqs = tblFind? 0 (fnOf s a.fn).cqs) :
    AdminCompletes (.next (adminServe s a p r g)) s (updFn s a.fn u) a st dw0 data :=
  h.completes hg rfl (h.2.updFn a.fn u fun _ => hu)

end AdminServed

/-- Two changes of a function that agree on it as it stands. -/
theorem updFn_congr {s : State} {f : Nat} {g g' : FnSt → FnSt} (h : g (fnOf s f) = g' (fnOf s f)) : updFn s f g = updFn s f g' := by
  unfold fnOf at h
  simp only [updFn, tblUpd, h]

/-! ### Set Features (Table 09.8, R62, R100, R101, R216, R396) -/

/-- Set Features of an Interrupt Vector Configuration: the list of vectors without coalescing follows the bit. -/
theorem setFeaturesInterruptVectorConfig_stores {s : State} {a : AdmHdr} (h : AdminServed s a false false) {v : Nat}
    (hv : v < vectorsOf a.fn) (disable : Bool) :
    ∃ l, AdminCompletes (exec (.setFeaturesInterruptVectorConfig a v disable) s) s
      (updFn s a.fn fun x => { x with feat := { x.feat with vecNoCoalesce := l } }) a .success 0 [] ∧ (v ∈ l ↔ disable = true) := by
  let rest := (fnOf s a.fn).feat.vecNoCoalesce.filter (· != v)
  refine ⟨if disable then rest ++ [v] else rest, h.updates ?_ ⟨rfl, rfl, rfl⟩, ?_⟩
  · exact (if_neg (Nat.not_le.2 hv)).trans (congrArg (adminDone · a .success 0 []) (updFn_congr rfl))
  · cases disable <;> simp [rest]

/-- Number of Queues where the PF has created none: the counts, less 1 as the command gives them, are granted. -/
theorem setFeaturesNumberOfQueues_grants {s : State} {a : AdmHdr} (h : AdminServed s a false false) {n m : Nat} (hn : n < 128)
    (hm : m < 128) (ha : a.fn = 0) (hsq : (fnOf s 0).sqs = []) (hcq : ∀ q ∈ (fnOf s 0).cqs, q.1 = 0) :
    AdminCompletes (exec (.setFeaturesNumberOfQueues a n m) s) s
      (updFn s a.fn fun x => { x with feat := { x.feat with numSq := n + 1, numCq := m + 1 } }) a .success (n + m * 65536) [] := by
  refine h.updates ?_ ⟨rfl, rfl, rfl⟩
  have hmost : queuesOf s a.fn = 128 := by simp [queuesOf, ha]
  have hrange : (65535 ≤ n || decide (65535 ≤ m) || decide ((128 : Nat) = 0)) = false := by
    simp [Nat.not_le.2 (Nat.lt_trans hn (by decide : 128 < 65535)), Nat.not_le.2 (Nat.lt_trans hm (by decide : 128 < 65535))]
  have hfree : (!(fnOf s a.fn).sqs.isEmpty || (fnOf s a.fn).cqs.any (·.1 != 0)) = false := by simpa [ha, hsq] using hcq
  simp only [hmost, hrange, hfree, Nat.min_eq_left (Nat.succ_le_of_lt hn), Nat.min_eq_left (Nat.succ_le_of_lt hm)]
  rfl

/-- Settles O8: each body stores its feature in the submitting function. -/
theorem setFeaturesStore : Obligations.SetFeaturesStore := by
  intro s a h put ok
  refine ⟨fun ab hab => h.updates (if_neg (Nat.not_lt.2 hab)) ⟨rfl, rfl, rfl⟩, fun t => h.updates rfl ⟨rfl, rfl, rfl⟩,
    fun thr time ht hm => h.updates ?_ ⟨rfl, rfl, rfl⟩, fun v hv => ?_, fun v hv => ?_, fun d => h.updates rfl ⟨rfl, rfl, rfl⟩,
    fun m hm => h.updates ?_ ⟨rfl, rfl, rfl⟩, fun ms hms => h.updates ?_ ⟨rfl, rfl, rfl⟩, fun b => h.updates rfl ⟨rfl, rfl, rfl⟩,
    fun n u k hn => h.updates ?_ ⟨rfl, rfl, rfl⟩,
    fun n m hn hm ha hsq hcq => setFeaturesNumberOfQueues_grants h hn hm ha hsq hcq⟩
  · simp only [setFeat, Nat.mod_eq_of_lt ht, Nat.mod_eq_of_lt hm]
  · obtain ⟨l, hl, hmem⟩ := setFeaturesInterruptVectorConfig_stores h hv true
    exact ⟨l, hl, hmem.2 rfl⟩
  · obtain ⟨l, hl, hmem⟩ := setFeaturesInterruptVectorConfig_stores h hv false
    exact ⟨l, hl, fun hin => Bool.false_ne_true (hmem.1 hin)⟩
  · simp only [setFeat, Nat.mod_eq_of_lt hm]
  · simp only [setFeat, Nat.mod_eq_of_lt hms]
  · rw [if_neg (by omega), if_neg (Nat.not_lt.2 hn)]
    rfl

/-- The Verdict Ring of a queue that is there, switched on (R101). -/
theorem setFeaturesVerdictRing_enables {s : State} {a : AdmHdr} (h : AdminServed s a false false) {k base : Nat} {q : CqSt}
    (hk : 0 < k) (hb : base % 4096 = 0) (hq : tblFind? k (fnOf s a.fn).cqs = some q) :
    AdminCompletes (exec (.setFeaturesVerdictRing a k true base) s) s
      (updFn s a.fn fun x => { x with cqs := tblSet k { q with ring := some base } (fnOf s a.fn).cqs }) a .success 0 [] := by
  refine h.updates ?_ ⟨rfl, rfl, tblFind?_tblSet_ne (Nat.ne_of_lt hk) _ _⟩
  have hok : ¬(decide (k = 0) || decide (base % 4096 ≠ 0)) = true := by simp [hb, Nat.ne_of_gt hk]
  simp only [hq]
  exact (if_neg hok).trans (congrArg (adminDone · a .success 0 []) (updFn_congr rfl))

/-- Settles O9: what each body changes outside the features, and the tests that it begins with. -/
theorem setFeaturesChecked : Obligations.SetFeaturesChecked := by
  constructor
  · intro s a h
    refine ⟨fun q cls hq hle hcls => ?_, fun k q base hk hb hq => ?_, fun ha he => ?_, fun ha he => ?_⟩
    · refine ⟨tblSet (a.fn, q) cls s.adm.bindings, h.completes ?_ rfl h.2, tblFind?_tblSet_self .., fun k hk => tblFind?_tblSet_ne hk ..⟩
      have hok : ¬(decide (q = 0) || decide (128 < q)) = true := by simp [Nat.ne_of_gt hq, hle]
      rw [if_neg hok, Nat.mod_eq_of_lt hcls]
    · exact ⟨_, setFeaturesVerdictRing_enables h hk hb hq, tblFind?_tblSet_self .., fun j hj => tblFind?_tblSet_ne hj ..⟩
    · refine h.completes ?_ rfl h.2
      simp [ha, he]
    · refine h.completes ?_ rfl h.2
      simp [ha, he, abandonEntry_none]
  · intro s a h bad
    refine ⟨fun fid hf => ?_, fun ab hab => h.unchanged (if_pos hab), fun t => h.unchanged rfl, fun n u k hn h15 => h.unchanged ?_,
      fun v d hv => h.unchanged (if_pos hv), fun ps hps => h.unchanged (if_pos (by simpa using hps)),
      fun q cls hq => h.unchanged (if_pos (by simpa using hq)), fun k e base hk => h.unchanged ?_⟩
    · have hgo : exec (.setFeaturesUnsupported a fid) s = .next (setServe s a fun s => adminDone s a .invalidField 0 []) :=
        congrArg _ (if_neg (by simpa using hf))
      simp only [bad, hgo]
      exact h.unchanged rfl
    · rw [if_neg h15, if_pos hn]
    · simp only [hk]

/-! ### Get Features (R62, R101, R216) -/

/-- A feature that is supported is returned with its value. -/
theorem getFeatures_returns {s : State} {a : AdmHdr} (h : AdminServed s a false true) {fid sub v : Nat} {data : List Byte}
    (hv : featureValue s a.fn fid sub = some (v, data)) : AdminCompletes (exec (.getFeatures a fid sub) s) s s a .success v data := by
  refine h.unchanged ?_
  simp only [hv]

theorem getFeatures_unsupported {s : State} {a : AdmHdr} (h : AdminServed s a false true) {fid sub : Nat}
    (hv : featureValue s a.fn fid sub = none) : AdminCompletes (exec (.getFeatures a fid sub) s) s s a .invalidField 0 [] := by
  refine h.unchanged ?_
  simp only [hv]

/-- Settles O10: a queue's class and ring by its number, the other features by the table of their values. -/
theorem getFeaturesReturn : Obligations.GetFeaturesReturn := by
  intro s a h x gives
  refine ⟨fun q hq => h.unchanged (if_neg (Nat.ne_of_gt hq)), fun k q hk hq => h.unchanged ?_, getFeatures_returns h rfl,
    getFeatures_returns h rfl, getFeatures_returns h rfl, getFeatures_returns h rfl, getFeatures_returns h rfl,
    fun sub => getFeatures_unsupported h rfl⟩
  simp only [hq]
  exact if_neg (Nat.ne_of_gt hk)

end Sys2Proof.Machine

namespace Sys2Proof.Machine

/-! ### I/O queues, Abort, event requests (Table 09.7, R62, R96, R101, R210) -/

theorem tblFind?_tblDel_ne {κ α : Type} [DecidableEq κ] {k j : κ} (h : j ≠ k) (t : Tbl κ α) :
    tblFind? j (tblDel k t) = tblFind? j t := by
  unfold tblDel
  induction t with
  | nil => rfl
  | cons e t ih =>
    by_cases hk : e.1 = k
    · simp [tblFind?, hk, h, ih]
    · simp [tblFind?, hk, ih]

/-- The test of a queue that is there, by which a command that names it goes on. -/
theorem queueThere {α : Type} {k : Nat} {t : Tbl Nat α} (hk : 0 < k) (h : (tblFind? k t).isSome = true) :
    ¬(decide (k = 0) || (tblFind? k t).isNone) = true := by
  obtain ⟨q, hq⟩ := Option.isSome_iff_exists.1 h
  simp [Nat.ne_of_gt hk, hq]

section QueueCommands

variable {s : State} {a : AdmHdr} (h : AdminServed s a false true)

include h

theorem createIoCq_creates {qid size vector : Nat} {ien : Bool} (hq : 0 < qid)
    (hle : qid ≤ min (fnOf s a.fn).feat.numCq (queuesOf s a.fn)) (hnew : tblFind? qid (fnOf s a.fn).cqs = none) (h2 : 2 ≤ size)
    (h4096 : size ≤ 4096) (hv : ien = true → vector < vectorsOf a.fn) :
    let q : CqSt := { cqDefault with size := size, vector := vector, ien := ien }
    AdminCompletes (exec (.createIoCq a qid size vector true ien) s) s
      (updFn s a.fn fun x => { x with cqs := tblSet qid q (fnOf s a.fn).cqs }) a .success 0 [] := by
  intro q
  refine h.updates ?_ ⟨rfl, rfl, tblFind?_tblSet_ne (Nat.ne_of_lt hq) _ _⟩
  have hqid : ¬(decide (qid = 0) || decide (min (fnOf s a.fn).feat.numCq (queuesOf s a.fn) < qid) ||
      (tblFind? qid (fnOf s a.fn).cqs).isSome) = true := by
    simp [Nat.ne_of_gt hq, Nat.not_lt.2 hle, hnew]
  have hsize : ¬(decide (size < 2) || decide (4096 < size)) = true := by simp [Nat.not_lt.2 h2, h4096]
  have hvec : ¬(ien && decide (vectorsOf a.fn ≤ vector)) = true := by simpa using hv
  exact (if_neg hqid).trans ((if_neg hsize).trans ((if_neg hvec).trans (congrArg (adminDone · a .success 0 []) (updFn_congr rfl))))

theorem createIoSq_creates {qid size cqid : Nat} (hq : 0 < qid) (hle : qid ≤ min (fnOf s a.fn).feat.numSq (queuesOf s a.fn))
    (hnew : tblFind? qid (fnOf s a.fn).sqs = none) (h2 : 2 ≤ size) (h4096 : size ≤ 4096) (hcq : 0 < cqid)
    (hc : (tblFind? cqid (fnOf s a.fn).cqs).isSome = true) :
    AdminCompletes (exec (.createIoSq a qid size cqid true) s) s
      (updFn s a.fn fun x => { x with sqs := tblSet qid ⟨size, cqid, 0, 0⟩ (fnOf s a.fn).sqs }) a .success 0 [] := by
  refine h.updates ?_ ⟨rfl, rfl, rfl⟩
  have hqid : ¬(decide (qid = 0) || decide (min (fnOf s a.fn).feat.numSq (queuesOf s a.fn) < qid) ||
      (tblFind? qid (fnOf s a.fn).sqs).isSome) = true := by
    simp [Nat.ne_of_gt hq, Nat.not_lt.2 hle, hnew]
  have hsize : ¬(decide (size < 2) || decide (4096 < size)) = true := by simp [Nat.not_lt.2 h2, h4096]
  exact (if_neg (queueThere hcq hc)).trans ((if_neg hqid).trans ((if_neg hsize).trans (congrArg (adminDone · a .success 0 []) (updFn_congr rfl))))

/-- A submission queue without a command leaves, and what was fetched from it. -/
theorem deleteIoSq_deletes {qid : Nat} (hq : 0 < qid) (hs : (tblFind? qid (fnOf s a.fn).sqs).isSome = true)
    (hnone : ∀ c ∈ s.adm.cmds, ¬(c.fn = a.fn ∧ c.sqid = qid)) :
    AdminCompletes (exec (.deleteIoSq a qid) s) s
      (updFn { s with host := { s.host with fetched := s.host.fetched.filter fun e => !(e.fn == a.fn && e.sqid == qid) } } a.fn
        fun x => { x with sqs := tblDel qid x.sqs }) a .success 0 [] := by
  refine h.completes ?_ rfl (AdminRoom.updFn (s := { s with host := _ }) h.2 a.fn _ fun _ => ⟨rfl, rfl, rfl⟩)
  have hheld : (s.adm.cmds.filter fun c => (c.fn == a.fn && c.sqid == qid) && !c.accepted) = [] := by
    simp only [List.filter_eq_nil_iff, Bool.and_eq_true, beq_iff_eq]
    exact fun c hc hm => hnone c hc hm.1
  have hany : (s.adm.cmds.any fun c => c.fn == a.fn && c.sqid == qid) = false := by
    simpa only [List.any_eq_false, Bool.and_eq_true, beq_iff_eq] using hnone
  simp [queueThere hq hs, hheld, hany, forEach]

theorem deleteIoCq_deletes {qid : Nat} (hq : 0 < qid) (hs : (tblFind? qid (fnOf s a.fn).cqs).isSome = true)
    (hfree : ∀ q ∈ (fnOf s a.fn).sqs, q.2.cqid ≠ qid) :
    AdminCompletes (exec (.deleteIoCq a qid) s) s
      (updFn { s with host := { s.host with cqWait := s.host.cqWait.filter fun w => !(w.1.fn == a.fn && w.1.cqid == qid) } } a.fn
        fun x => { x with cqs := tblDel qid x.cqs }) a .success 0 [] := by
  obtain ⟨hready, hlink, hslot, hwait⟩ := h.2
  have hroom (l : List (Completion × Option VerdictInfo)) (hl : l ⊆ s.host.cqWait) :
      AdminRoom { s with host := { s.host with cqWait := l } } a.fn := by
    refine ⟨hready, hlink, hslot, ?_⟩
    rw [List.any_eq_false] at hwait ⊢
    exact fun w hw => hwait w (hl hw)
  refine h.completes ?_ rfl ((hroom _ fun _ hw => (List.mem_filter.1 hw).1).updFn a.fn _ fun _ =>
    ⟨rfl, rfl, tblFind?_tblDel_ne (Nat.ne_of_lt hq) _⟩)
  have hserves : ¬((fnOf s a.fn).sqs.any fun q => q.2.cqid == qid) = true := by simpa using hfree
  exact (if_neg (queueThere hq hs)).trans (if_neg hserves)

theorem deleteIoCq_serving {qid : Nat} {q : Nat × SqSt} (hq : 0 < qid) (hs : (tblFind? qid (fnOf s a.fn).cqs).isSome = true)
    (hin : q ∈ (fnOf s a.fn).sqs) (hc : q.2.cqid = qid) :
    AdminCompletes (exec (.deleteIoCq a qid) s) s s a .invalidQueueDeletion 0 [] := by
  refine h.unchanged ?_
  have hserves : ((fnOf s a.fn).sqs.any fun q => q.2.cqid == qid) = true := List.any_eq_true.2 ⟨q, hin, by simpa using hc⟩
  exact (if_neg (queueThere hq hs)).trans (if_pos hserves)

/-- An Abort finds nothing to abort, or a command that was accepted (R96). -/
theorem abort_nothing {sqid cid : Nat} (hn : ∀ c, cmdOf s a.fn sqid cid = some c → c.accepted = true) :
    AdminCompletes (exec (.abort a sqid cid) s) s s a .success 1 [] := by
  refine h.unchanged ?_
  cases hc : cmdOf s a.fn sqid cid with
  | none => rfl
  | some c => exact if_pos (hn c hc)

theorem abort_held {sqid cid : Nat} {c : Cmd} (hc : cmdOf s a.fn sqid cid = some c) (hheld : c.accepted = false) :
    exec (.abort a sqid cid) s = .next (adminDone (withdrawCmd s c .abortRequested) a .success 0 []) := by
  refine h.next ?_
  simp [hc, hheld]

/-- An event request below the limit is outstanding, and what waits is delivered. -/
theorem exec_asynchronousEventRequest (h8 : (fnOf s a.fn).aers.length < 8) : exec (.asynchronousEventRequest a) s =
    .next (pumpAer (updFn s a.fn fun x => { x with aers := x.aers ++ [a.cid] }) a.fn) :=
  h.next (if_neg (Nat.not_le.2 h8))

end QueueCommands

theorem pumpAer_none {s : State} {f : Nat} (h : (fnOf s f).aerPending = []) : pumpAer s f = s := by
  simp [pumpAer, h]

/-- One event that waits meets the one request outstanding. -/
theorem pumpAer_one {s : State} {f cid : Nat} {e : Nat × Nat × Nat} (ha : (fnOf s f).aers = [cid]) (hp : (fnOf s f).aerPending = [e])
    (hm : e.1 ∉ (fnOf s f).aerMasked) : pumpAer s f = postAer f (updFn s f fun x =>
      { x with aers := [], aerMasked := x.aerMasked ++ [e.1], aerPending := [] }) cid (e.1 + e.2.1 * 256 + e.2.2 * 65536) := by
  have hfind : ([e].find? fun e => !(fnOf s f).aerMasked.contains e.1) = some e := by simpa using hm
  have hone : List.range [e].length = [0] := rfl
  simp only [pumpAer, hp, hone, List.foldl_cons, List.foldl_nil, ha, hfind]
  exact congrArg (postAer f · cid _) (updFn_congr (by simp [hp]))

/-! ### Opcodes that are not supported, and the aggregation time (R208, R214, R216, R245) -/

theorem invalidAdminOpcode_refused {s : State} {a : AdmHdr} (h : AdminServed s a false false) {op : Nat}
    (ho : adminSupported a.fn op = false) : AdminCompletes (exec (.invalidAdminOpcode a op) s) s s a .invalidOpcode 0 [] := by
  have hgo : exec (.invalidAdminOpcode a op) s = .next (adminServe s a false false fun s => adminDone s a .invalidOpcode 0 []) :=
    congrArg _ (if_neg (by simp [ho]))
  rw [hgo]
  exact h.unchanged rfl

theorem HmpServed.next {s t : State} {q : HmpHdr} {r : HmpRule} {g : State → State} (h : HmpServed s q r) (hg : g s = t) :
    (.next (hmpServe s q r g) : Host.Outcome State Fault Refusal) = .next t :=
  congrArg _ ((hmpServe_served h g).trans hg)

theorem invalidHmpOpcode_refused {s : State} {q : HmpHdr} {op : Nat} (h : HmpServed s q (rule op sendAll none)) (ho : op ∉ hmpOpcodes) :
    HmpAnswers (exec (.invalidHmpOpcode q op) s) s s q op hsInvalidOpcode 0 [] := by
  have hgo : exec (.invalidHmpOpcode q op) s =
      .next (hmpServe s q (rule op sendAll none) fun s => answer s q op hsInvalidOpcode 0 []) := congrArg _ (if_neg (by simpa using ho))
  exact answer_answers (hgo.trans (h.next rfl)) h.2 rfl

theorem exec_interruptAggregationTimeout_due {s : State} {f v : Nat} (h : aggregated s f v ≠ []) :
    let cleared (e : Nat × CqSt) : Nat × CqSt := (e.1, { e.2 with pendingIrq := 0, irqSince := none })
    exec (.interruptAggregationTimeout f v) s = .next (raiseVector (updFn s f fun x =>
      { x with cqs := x.cqs.map fun e => if (aggregated s f v).contains e.1 then cleared e else e }) f v) :=
  congrArg _ (if_neg (by simpa using h))

/-- Settles O11: each queue command by its body, an event request by the events that wait. -/
theorem queueCommands : Obligations.QueueCommands := by
  refine ⟨fun s a h => ?_, fun s a op h ho => invalidAdminOpcode_refused h ho, fun s q op h ho => invalidHmpOpcode_refused h ho,
    fun s f v h => exec_interruptAggregationTimeout_due h⟩
  intro x
  refine ⟨fun qid size vector ien hq hle hnew h2 h4096 hv => ?_, fun qid size cqid hq hle hnew h2 h4096 hcq hc => ?_,
    fun qid size cqid hc => h.unchanged ?_, fun qid hq hs hnone => deleteIoSq_deletes h hq hs hnone,
    fun qid hq hs hfree => deleteIoCq_deletes h hq hs hfree, fun qid q hq hs hin hc => deleteIoCq_serving h hq hs hin hc,
    fun sqid cid hn => abort_nothing h hn, fun sqid cid c hc hheld => abort_held h hc hheld, fun h8 => h.unchanged (if_pos h8),
    fun h8 hp => ?_, fun e ha hp hm => ?_⟩
  · exact ⟨_, createIoCq_creates h hq hle hnew h2 h4096 hv, tblFind?_tblSet_self .., fun k hk => tblFind?_tblSet_ne hk ..⟩
  · exact ⟨_, createIoSq_creates h hq hle hnew h2 h4096 hcq hc, tblFind?_tblSet_self .., fun k hk => tblFind?_tblSet_ne hk ..⟩
  · have habsent : (decide (cqid = 0) || (tblFind? cqid x.cqs).isNone) = true := by simpa using hc
    exact if_pos habsent
  · rw [exec_asynchronousEventRequest h h8, pumpAer_none (by simpa using hp)]
  · rw [exec_asynchronousEventRequest h (ha ▸ (by decide : 0 < 8)), pumpAer_one (cid := a.cid) (e := e)]
    · simpa using ha
    · simpa using hp
    · simpa using hm

end Sys2Proof.Machine

namespace Sys2Proof.Machine

/-! ### Requests that are served -/

section HmpServed

variable {s : State} {q : HmpHdr} {r : HmpRule} {g : State → State} {op status detail : Nat} {payload : List Byte}

theorem HmpServed.answers (h : HmpServed s q r) (hg : g s = answer s q op status detail payload) :
    HmpAnswers (.next (hmpServe s q r g)) s s q op status detail payload :=
  answer_answers (h.next hg) h.2 rfl

theorem HmpServed.reports (h : HmpServed s q r) (hg : g s = reply s q op payload) :
    HmpReports (.next (hmpServe s q r g)) s q op payload :=
  reply_reports (h.next hg) h.2

end HmpServed

/-! ### Lengths of what the reports list -/

@[simp] theorem length_leBytes (n v : Nat) : (leBytes n v).length = n := by
  induction n generalizing v with
  | zero => rfl
  | succ n ih => simp [leBytes, ih]

@[simp] theorem length_zeros (n : Nat) : (zeros n).length = n := List.length_replicate

theorem length_bayBytes (s : State) (b : Nat) : (bayBytes s b).length = 40 := by simp [bayBytes]

theorem length_contractBytes (k : Contract) : (contractBytes k).length = 32 := by simp [contractBytes]

theorem length_calBytes (e : CalEntry) : (calBytes e).length = 8 := length_leBytes ..

theorem length_badEntryBytes (e : BadEntry) : (badEntryBytes e).length = 8 := length_leBytes ..

theorem length_wearBytes (s : State) (d : DieNo) : (wearBytes s d).length = 16 := by simp [wearBytes]

theorem length_wearHeader (w : WearSt) : (wearHeader w).length = 64 := by simp [wearHeader]

/-! ### Contract Report, Bay Capacity Report and Calendar Snapshot (R71, R246) -/

theorem contractReport_answers {s : State} {q : HmpHdr} (h : HmpServed s q ruleContractReport) (fn : Nat) :
    let ks := s.adm.contracts.filter (·.fn == fn)
    (fn < 256 → ownFn q.sender fn = true → HmpReports (exec (.contractReport q fn) s) s q 0x0102
      (leBytes 2 ks.length ++ zeros 6 ++ ks.flatMap contractBytes)) ∧
    (fn < 256 → ownFn q.sender fn = false → HmpAnswers (exec (.contractReport q fn) s) s s q 0x0102 hsNotPermitted 0 []) ∧
    (256 ≤ fn → HmpAnswers (exec (.contractReport q fn) s) s s q 0x0102 hsOutOfRange 0 []) := by
  intro ks
  refine ⟨fun hf ho => h.reports ?_, fun hf ho => h.answers ?_, fun hf => h.answers (if_pos hf)⟩
  · rw [if_neg (Nat.not_lt.2 (Nat.le_of_lt_succ hf)), ho]
    rfl
  · rw [if_neg (Nat.not_lt.2 (Nat.le_of_lt_succ hf)), ho]
    rfl

theorem bayCapacityReport_answers {s : State} {q : HmpHdr} (h : HmpServed s q ruleBayCapacity) (first count : Nat) :
    let bays := (baysOf s.prof).filter fun b => decide (first ≤ b) && decide (b < first + count) && seesBay s q.sender b
    (first < 256 → 0 < count → count ≤ 256 → HmpReports (exec (.bayCapacityReport q first count) s) s q 0x0103
      (leBytes 2 bays.length ++ zeros 6 ++ bays.flatMap (bayBytes s))) ∧
    (256 ≤ first → HmpAnswers (exec (.bayCapacityReport q first count) s) s s q 0x0103 hsOutOfRange 0 []) ∧
    (first < 256 → count = 0 ∨ 256 < count →
      HmpAnswers (exec (.bayCapacityReport q first count) s) s s q 0x0103 hsOutOfRange 2 []) := by
  intro bays
  refine ⟨fun hf h0 h256 => h.reports ?_, fun hf => h.answers (if_pos hf), fun hf hc => h.answers ?_⟩
  · rw [if_neg (Nat.not_lt.2 (Nat.le_of_lt_succ hf)), if_neg (by simp [Nat.ne_of_gt h0, h256])]
  · rw [if_neg (Nat.not_lt.2 (Nat.le_of_lt_succ hf)), if_pos (by simpa using hc)]

theorem calendarSnapshot_answers {s : State} {q : HmpHdr} (h : HmpServed s q ruleCalendar) (d : Nat) :
    (d < 4096 → diePopulated s.prof d = true → HmpReports (exec (.calendarSnapshot q d) s) s q 0x0104
      (leBytes 8 (now s) ++ calendarBytes s d)) ∧
    (d < 4096 → diePopulated s.prof d = false → HmpAnswers (exec (.calendarSnapshot q d) s) s s q 0x0104 hsUnknown 0 []) ∧
    (4096 ≤ d → HmpAnswers (exec (.calendarSnapshot q d) s) s s q 0x0104 hsOutOfRange 0 []) := by
  refine ⟨fun hd hp => h.reports ?_, fun hd hp => h.answers ?_, fun hd => h.answers (if_pos hd)⟩
  · rw [if_neg (Nat.not_le.2 hd), hp]
    rfl
  · rw [if_neg (Nat.not_le.2 hd), hp]
    rfl

/-! ### Bad Block Report, Media Wear Report and Die Retire (R111, R125, R130) -/

theorem badBlockReport_answers {s : State} {q : HmpHdr} (h : HmpServed s q ruleBadBlocks) (d table first : Nat) :
    let es := ((badTable s d table).drop first).take 64
    (d < 4096 → table < 2 → diePopulated s.prof d = true → HmpReports (exec (.badBlockReport q d table first) s) s q 0x0301
      (leBytes 2 es.length ++ zeros 6 ++ es.flatMap badEntryBytes)) ∧
    (d < 4096 → table < 2 → diePopulated s.prof d = false →
      HmpAnswers (exec (.badBlockReport q d table first) s) s s q 0x0301 hsUnknown 0 []) ∧
    (4096 ≤ d → HmpAnswers (exec (.badBlockReport q d table first) s) s s q 0x0301 hsOutOfRange 0 []) ∧
    (d < 4096 → 2 ≤ table → HmpAnswers (exec (.badBlockReport q d table first) s) s s q 0x0301 hsOutOfRange 2 []) := by
  intro es
  refine ⟨fun hd ht hp => h.reports ?_, fun hd ht hp => h.answers ?_, fun hd => h.answers (if_pos hd), fun hd ht => h.answers ?_⟩
  · rw [if_neg (Nat.not_le.2 hd), if_neg (Nat.not_le.2 ht), hp]
    rfl
  · rw [if_neg (Nat.not_le.2 hd), if_neg (Nat.not_le.2 ht), hp]
    rfl
  · rw [if_neg (Nat.not_le.2 hd), if_pos ht]

theorem mediaWearReport_answers {s : State} {q : HmpHdr} (h : HmpServed s q ruleWear) (first count : Nat) :
    let ds := (populatedDies s.prof).filter fun d => decide (first ≤ d) && decide (d < first + count)
    (first < 4096 → 0 < count → count ≤ 4096 → HmpReports (exec (.mediaWearReport q first count) s) s q 0x0302
      (wearHeader s.fl.wear ++ ds.flatMap (wearBytes s))) ∧
    (4096 ≤ first → HmpAnswers (exec (.mediaWearReport q first count) s) s s q 0x0302 hsOutOfRange 0 []) := by
  intro ds
  refine ⟨fun hf h0 hc => h.reports ?_, fun hf => h.answers (if_pos hf)⟩
  rw [if_neg (Nat.not_le.2 hf), if_neg (by simp [Nat.ne_of_gt h0, hc])]

/-- Die Retire of a populated die: Success for a retired one, else a planned step, for which the request waits. -/
theorem exec_dieRetire {s : State} {q : HmpHdr} (h : HmpServed s q ruleRetire) {d : Nat} (hd : d < 4096)
    (hp : diePopulated s.prof d = true) : exec (.dieRetire q d) s = .next (if (die s d).retired then hmpDone s q 0x0303
      else if !plannedOk s then s
      else startLong (plannedStep s) q 0x0303 fun s h => endLong (retireDie s d 3) q.sender h hsSuccess 0) := by
  refine h.next ?_
  rw [if_neg (Nat.not_le.2 hd), hp]
  rfl

theorem dieRetire_refused {s : State} {q : HmpHdr} (h : HmpServed s q ruleRetire) (d : Nat) :
    (d < 4096 → diePopulated s.prof d = false → HmpAnswers (exec (.dieRetire q d) s) s s q 0x0303 hsUnknown 0 []) ∧
    (4096 ≤ d → HmpAnswers (exec (.dieRetire q d) s) s s q 0x0303 hsOutOfRange 0 []) := by
  refine ⟨fun hd hp => h.answers ?_, fun hd => h.answers (if_pos hd)⟩
  rw [if_neg (Nat.not_le.2 hd), hp]
  rfl

/-- Settles O25: each report by the tests that it begins with, and the lengths of its entries. -/
theorem capacityAndMediaReports : Obligations.CapacityAndMediaReports := by
  refine ⟨⟨fun s q fn h => contractReport_answers h fn, fun s q first count h => bayCapacityReport_answers h first count,
      fun s q d h => calendarSnapshot_answers h d, length_bayBytes, length_contractBytes, length_calBytes⟩,
    fun s q d table first h => badBlockReport_answers h d table first, fun s q first count h => mediaWearReport_answers h first count,
    fun s q d h => ⟨fun hd hp hr => ?_, fun hd hp hr hw => ?_, fun hd hp hr hw => ?_, dieRetire_refused h d⟩,
    length_badEntryBytes, length_wearBytes, length_wearHeader⟩
  · exact hmpDone_applies ((exec_dieRetire h hd hp).trans (by rw [if_pos hr])) h.2 rfl
  · simp [exec_dieRetire h hd hp, hr, hw]
  · simp [exec_dieRetire h hd hp, hr, hw]

/-! ### Contract Set (R63, R68, R73) -/

section ContractSet

/-- A Contract Set whose fields are in their ranges (Table 03.1). -/
theorem contractRange_none {fn cls dir bound cmds bytes burst weight : Nat} (hfn : fn < 256) (hcls : cls < 8) (hdir : dir < 2)
    (hbound : bound ≤ 4000000) (hcmds : 0 < cmds ∧ cmds ≤ 16000000) (hbytes : 0 < bytes ∧ bytes ≤ 60000000) (hburst : burst ≤ 1000000)
    (hweight : 0 < weight ∧ weight < 256) : contractRange fn cls dir bound cmds bytes burst weight = none := by
  have hc : (decide (cmds = 0) || decide (16000000 < cmds)) = false := by simp [Nat.ne_of_gt hcmds.1, hcmds.2]
  have hb : (decide (bytes = 0) || decide (60000000 < bytes)) = false := by simp [Nat.ne_of_gt hbytes.1, hbytes.2]
  have hw : (decide (weight = 0) || decide (255 < weight)) = false := by simp [Nat.ne_of_gt hweight.1, Nat.le_of_lt_succ hweight.2]
  simp only [contractRange, hc, hb, hw, Nat.not_lt.2 (Nat.le_of_lt_succ hfn), Nat.not_lt.2 (Nat.le_of_lt_succ hcls),
    Nat.not_lt.2 (Nat.le_of_lt_succ hdir), Nat.not_lt.2 hbound, Nat.not_lt.2 hburst, if_false, Bool.false_eq_true]

variable {s : State} {q : HmpHdr} {fn cls dir bound hold cmds bytes burst weight : Nat} (h : HmpServed s q ruleContractSet)

include h

theorem exec_contractSet_outOfRange {off : Nat} (hr : contractRange fn cls dir bound cmds bytes burst weight = some off) :
    exec (.contractSet q fn cls dir bound hold cmds bytes burst weight) s = .next (rejectWrite s q 0x0101 hsOutOfRange off) := by
  refine h.next ?_
  simp only [hr]

/-- A Contract Set in range: Contract Overbooked by the first check that fails, else the change. -/
theorem exec_contractSet_inRange (hr : contractRange fn cls dir bound cmds bytes burst weight = none) :
    let k : Contract := { fn := fn, cls := cls, write := dir == 1, bound := bound, hold := hold, cmdRate := cmds, byteRate := bytes,
                          burst := burst, weight := weight, cmdLevel := 0, byteLevel := 0, cmdFull := 0, byteFull := 0 }
    let new := withContract s.adm.contracts (startLevels s.adm.contracts k)
    let go := exec (.contractSet q fn cls dir bound hold cmds bytes burst weight) s
    (∀ c, (demandChecks s s.adm.contracts new k).find? (·.fails) = some c →
        go = .next (answer s q 0x0101 hsOverbooked (overbookedDetail c) [])) ∧
      ((demandChecks s s.adm.contracts new k).find? (·.fails) = none → go = .next (hmpDone (setContracts s fn new) q 0x0101)) := by
  intro k new go
  refine ⟨fun c hc => h.next ?_, fun hn => h.next ?_⟩
  · simp only [k, new] at hc
    simp only [hr, hc]
  · simp only [k, new] at hn
    simp only [hr, hn, new, k]

theorem exec_contractDelete (hfn : fn < 256) (hcls : cls < 8) (hdir : dir < 2) : exec (.contractDelete q fn cls dir) s =
    .next (hmpDone (setContracts s fn (s.adm.contracts.filter fun x => !sameTuple fn cls (dir == 1) x)) q 0x0101) := by
  refine h.next ?_
  rw [contractRange_none hfn hcls hdir (by decide) (by decide) (by decide) (by decide) (by decide)]

end ContractSet

/-- The levels of a set contract are no part of its tuple. -/
theorem startLevels_tuple (ks : List Contract) (k : Contract) :
    (startLevels ks k).fn = k.fn ∧ (startLevels ks k).cls = k.cls ∧ (startLevels ks k).write = k.write := by
  unfold startLevels
  split <;> exact ⟨rfl, rfl, rfl⟩

theorem withContract_only {ks : List Contract} {k x : Contract} (hx : x ∈ withContract ks k) (ht : sameTuple k.fn k.cls k.write x = true) :
    x = k := by
  simpa [withContract, ht] using hx

/-- No check of R68 fails where each demand is within capacity or not raised. -/
theorem demandChecks_pass {cs : List DemandCheck} (h : ∀ c ∈ cs, c.after ≤ c.cap ∨ c.after ≤ c.before) : cs.find? (·.fails) = none := by
  rw [List.find?_eq_none]
  intro c hc
  rcases h c hc with hcap | hbefore
  · simp only [DemandCheck.fails, decide_eq_false (Int.not_lt.2 hcap), Bool.false_and, Bool.false_eq_true, not_false_eq_true]
  · simp only [DemandCheck.fails, decide_eq_false (Nat.not_lt.2 hbefore), Bool.and_false, Bool.false_eq_true, not_false_eq_true]

/-- Settles O26: the ranges, then the first check that fails, then the change; a deletion has only its tuple's ranges. -/
theorem contractSet : Obligations.ContractSet := by
  intro s q fn cls dir bound hold cmds bytes burst weight h go k new valid
  have inRange (hv : valid) : contractRange fn cls dir bound cmds bytes burst weight = none := by
    obtain ⟨hfn, hcls, hdir, hbound, hc0, hc, hb0, hb, hburst, hw0, hw⟩ := hv
    exact contractRange_none hfn hcls hdir hbound ⟨hc0, hc⟩ ⟨hb0, hb⟩ hburst ⟨hw0, hw⟩
  refine ⟨fun c hv hc => ?_, fun hv hpass => ?_, fun hfn => ?_, fun hfn hcls => ?_, fun x hx ht => ?_,
    fun hfn hcls hdir => exec_contractDelete h hfn hcls hdir⟩
  · exact answer_answers ((exec_contractSet_inRange h (inRange hv)).1 c hc) h.2 rfl
  · exact (exec_contractSet_inRange h (inRange hv)).2 (demandChecks_pass hpass)
  · exact exec_contractSet_outOfRange h (if_pos hfn)
  · exact exec_contractSet_outOfRange h ((if_neg (Nat.not_lt.2 (Nat.le_of_lt_succ hfn))).trans (if_pos hcls))
  · obtain ⟨hf, hc, hw⟩ := startLevels_tuple s.adm.contracts k
    refine withContract_only hx ?_
    rwa [hf, hc, hw]

end Sys2Proof.Machine

namespace Sys2Proof.Machine

/-! ### Suspend windows (R77, R145) -/

section SuspendWindow

variable {s : State} {ch dn a : Nat}

theorem exec_suspendWindowStart (ch dn a : Nat) (s : State) : exec (.suspendWindowStart ch dn a) s = execSuspendWindowStart ch dn a s := rfl

theorem exec_suspendWindowEnd (ch dn a : Nat) (s : State) : exec (.suspendWindowEnd ch dn a) s = execSuspendWindowEnd ch dn a s := rfl

/-- The state as a window's descriptor is issued in it. -/
def windowIssued (s : State) (x : Desc) : State := updDesc s x fun y => { y with st := .issued (now s), issuedAt := now s }

variable {w : CalEntry} {x : Desc} (hw : windowOf s (128 * ch + dn) a = some w)

include hw

theorem exec_suspendWindowStart_waits (hx : windowDesc s (128 * ch + dn) a = some x)
    (h : now s < w.start ∨ x.st ≠ .queued ∨ isRunning s (chIsland ch) = false) : exec (.suspendWindowStart ch dn a) s = .next s := by
  have hwait : (decide (now s < w.start) || x.st != .queued || !isRunning s (chIsland ch)) = true := by
    simpa [or_assoc] using h
  simp only [exec_suspendWindowStart, execSuspendWindowStart, hw, hx, hwait, if_true]

/-- A window that may start: its descriptor is issued, and the operation in progress is suspended unless its suspends are spent. -/
theorem exec_suspendWindowStart_starts (hx : windowDesc s (128 * ch + dn) a = some x) (ht : w.start ≤ now s) (hq : x.st = .queued)
    (hr : isRunning s (chIsland ch) = true) :
    let u := windowIssued s x
    (dieOp u (128 * ch + dn) = none → exec (.suspendWindowStart ch dn a) s = .next u) ∧
    ∀ o, dieOp u (128 * ch + dn) = some o → exec (.suspendWindowStart ch dn a) s = .next
      (if isSuspended o || o.dump then u
        else if suspendLimit s.prof o ≤ o.suspends then missWindow (chFault u ch 3 o 0) (128 * ch + dn) a
        else updDesc u o fun x => { x with st := .suspended (now s), suspends := x.suspends + 1 }) := by
  have hgo : (decide (now s < w.start) || x.st != .queued || !isRunning s (chIsland ch)) = false := by
    simp [Nat.not_lt.2 ht, hq, hr]
  intro u
  refine ⟨fun ho => ?_, fun o ho => ?_⟩
  · simp only [u, windowIssued] at ho
    simp only [exec_suspendWindowStart, execSuspendWindowStart, hw, hx, hgo, ho]
    rfl
  · simp only [u, windowIssued] at ho
    simp only [exec_suspendWindowStart, execSuspendWindowStart, hw, hx, hgo, ho]
    rfl

theorem exec_suspendWindowEnd_window :
    let waits := s.fl.descs.any fun x => descDie x == 128 * ch + dn && x.opcode != 0x30 && x.window == some a
    exec (.suspendWindowEnd ch dn a) s = .next
      (if now s < w.start ∨ (waits = true ∧ now s < entryEnd w) then s else endWindow s (128 * ch + dn) w) := by
  simp [exec_suspendWindowEnd, execSuspendWindowEnd, hw]

end SuspendWindow

theorem suspendWindow_absent {s : State} {ch dn a : Nat} (h : windowOf s (128 * ch + dn) a = none) :
    exec (.suspendWindowStart ch dn a) s = .next s ∧ exec (.suspendWindowEnd ch dn a) s = .next s := by
  simp [exec_suspendWindowStart, execSuspendWindowStart, exec_suspendWindowEnd, execSuspendWindowEnd, h]

/-- A window without a descriptor of its own: its entry is freed and the suspended operation resumes. -/
theorem endWindow_resumes {s : State} {dn : Nat} {w : CalEntry} {o : Desc} :
    let t : State := { s with fl := { s.fl with calendar := s.fl.calendar.erase w } }
    windowDesc t dn w.start = none → dieOp t dn = some o → isSuspended o = true →
      endWindow s dn w = missWindow (updDesc t o fun x => { x with st := .issued (now s) }) dn w.start := by
  intro t hx ho hs
  simp only [endWindow, t] at hx ho ⊢
  simp only [hx, ho, hs]
  rfl

/-! ### Overruns, time-outs and the token guard (R144, R149, Table 06.13) -/

/-- The state in which a wait of 50 µs has been an event and is counted. -/
def guardCounted (s : State) (d : Desc) (ch : Nat) : State :=
  let r := raiseFault s 291 (capOf 4 3 (descDie d + d.seqTag * 2 ^ 32) 0 (chIsland ch))
  { r with fl := { r.fl with tokenGuardWaits := r.fl.tokenGuardWaits + 1 } }

section Busy

variable {s : State} {ch tag : Nat} {d : Desc} (hd : descOf s ch tag = some d)

theorem exec_dieOverrun (ch tag : Nat) (s : State) : exec (.dieOverrun ch tag) s = execDieOverrun ch tag s := rfl

theorem exec_dieTimeout (ch tag : Nat) (b : Bool) (s : State) : exec (.dieTimeout ch tag b) s = execDieTimeout ch tag b s := rfl

theorem exec_tokenGuardTimeout (ch tag : Nat) (s : State) : exec (.tokenGuardTimeout ch tag) s = execTokenGuardTimeout ch tag s := rfl

theorem clockRuns_eq_false_iff {c : Nat} : clockRuns s c = false ↔ (island s (chIsland c)).st = .stopped := by simp [clockRuns]

include hd

theorem exec_dieOverrun_ignored (h : d.st = .queued ∨ (island s (chIsland ch)).st = .stopped ∨ now s ≤ d.start + bookedLength s d) :
    exec (.dieOverrun ch tag) s = .next s := by
  have hidle : (d.st == .queued || d.overran || !clockRuns s ch || decide (now s ≤ d.start + bookedLength s d)) = true := by
    rcases h with h | h | h
    · simp [h]
    · simp [clockRuns_eq_false_iff.2 h]
    · simp [h]
  simp only [exec_dieOverrun, execDieOverrun, hd, hidle, if_true]

theorem exec_dieOverrun_raises (hq : d.st ≠ .queued) (hc : (island s (chIsland ch)).st ≠ .stopped) (ho : d.overran = false)
    (ht : d.start + bookedLength s d < now s) : exec (.dieOverrun ch tag) s = .next
      (waitingAround (chFault (updDesc s d fun x => { x with overran := true }) ch 0 d 0) (descDie d)) := by
  have hbusy : (d.st == .queued || d.overran || !clockRuns s ch || decide (now s ≤ d.start + bookedLength s d)) = false := by
    simp [hq, ho, clockRuns, hc, ht]
  simp only [exec_dieOverrun, execDieOverrun, hd, hbusy]
  rfl

theorem exec_dieTimeout_ignored (b : Bool) (h : d.st = .queued ∨ (island s (chIsland ch)).st = .stopped ∨
    now s < d.start + s.prof.overrunLimit * bookedLength s d) : exec (.dieTimeout ch tag b) s = .next s := by
  have hidle : (d.st == .queued || !clockRuns s ch || decide (now s < d.start + s.prof.overrunLimit * bookedLength s d)) = true := by
    rcases h with h | h | h
    · simp [h]
    · simp [clockRuns_eq_false_iff.2 h]
    · simp [h]
  simp only [exec_dieTimeout, execDieTimeout, hd, hidle, if_true]

theorem exec_dieTimeout_resets (hq : d.st ≠ .queued) (hc : (island s (chIsland ch)).st ≠ .stopped)
    (ht : d.start + s.prof.overrunLimit * bookedLength s d ≤ now s) (answers : Bool) : exec (.dieTimeout ch tag answers) s = .next
      (deadDie (updDie s (descDie d) fun x => { x with lostStatus := !answers }) d
        (if (die s (descDie d)).lostStatus then 0x21 else 0x20) true) := by
  have hbusy : (d.st == .queued || !clockRuns s ch || decide (now s < d.start + s.prof.overrunLimit * bookedLength s d)) = false := by
    simp [hq, clockRuns, hc, ht]
  simp only [exec_dieTimeout, execDieTimeout, hd, hbusy]
  rfl

theorem exec_tokenGuardTimeout_early {t : Nat} (hw : d.waitSince = some t) (ht : now s < t + 50) :
    exec (.tokenGuardTimeout ch tag) s = .next s := by
  simp [exec_tokenGuardTimeout, execTokenGuardTimeout, hd, hw, ht]

theorem exec_tokenGuardTimeout_noWait (hw : d.waitSince = none) : exec (.tokenGuardTimeout ch tag) s = .next s := by
  simp [exec_tokenGuardTimeout, execTokenGuardTimeout, hd, hw]

/-- A wait of 50 µs where no booking can move: the reads that wait for tokens go by read-around. -/
theorem exec_tokenGuardTimeout_due {t : Nat} (hw : d.waitSince = some t) (hf : d.firm = true) (hq : d.st = .queued) (ht : t + 50 ≤ now s)
    (hm : ∀ e ∈ (guardCounted s d ch).fl.calendar, movable (guardCounted s d ch) e = false) :
    let v := updDesc (guardCounted s d ch) d fun x => { x with waitSince := some (now (guardCounted s d ch)) }
    exec (.tokenGuardTimeout ch tag) s = .next
      (forEach (v.fl.descs.filter fun x => x.st == .queued && x.firm && x.waitSince.isSome && isReadOp x.opcode)
        (fun x s => workLost (closeDesc s x 0x33 0) x) v) := by
  have hdue : (!d.firm || d.st != .queued || decide (now s < t + 50)) = false := by simp [hf, hq, ht]
  have hnone : ((guardCounted s d ch).fl.calendar.filter fun e => movable (guardCounted s d ch) e &&
      overlap (now (guardCounted s d ch)) d.length e.start e.length) = [] := by
    rw [List.filter_eq_nil_iff]
    exact fun e he => by simp [hm e he]
  simp only [guardCounted] at hnone
  simp only [exec_tokenGuardTimeout, execTokenGuardTimeout, hd, hw, hdue, hnone]
  rfl

end Busy

/-- Settles O37: the window's start and end, then a busy die, then the token guard. -/
theorem windowsAndTimeouts : Obligations.WindowsAndTimeouts := by
  refine ⟨fun s ch dn a w hw => ⟨fun x hx => ⟨fun h => exec_suspendWindowStart_waits hw hx h, fun ht hq hr => ?_⟩, ?_⟩,
    fun s dn w o => endWindow_resumes, fun s ch dn a h => suspendWindow_absent h, fun s ch tag d hd => ?_,
    fun s ch tag d t hd hw hf hq => ⟨fun ht => exec_tokenGuardTimeout_early hd hw ht, fun ht => ?_⟩,
    fun s ch tag d hd hw => exec_tokenGuardTimeout_noWait hd hw⟩
  · intro u
    obtain ⟨hfree, hop⟩ := exec_suspendWindowStart_starts hw hx ht hq hr
    refine ⟨hfree, fun o ho => ⟨fun hs => (hop o ho).trans ?_, fun hs hdump =>
      ⟨fun hl => (hop o ho).trans ?_, fun hl => (hop o ho).trans ?_⟩⟩⟩
    · rw [if_pos (by simpa using hs)]
      rfl
    · rw [hs, hdump, if_neg (by decide), if_neg (Nat.not_le.2 hl)]
      rfl
    · rw [hs, hdump, if_neg (by decide), if_pos hl]
      rfl
  · intro waits
    have hgo := exec_suspendWindowEnd_window hw
    refine ⟨fun ht => hgo.trans (by rw [if_pos (.inl ht)]), fun hwait ht => hgo.trans (by rw [if_pos (.inr ⟨hwait, ht⟩)]),
      fun ht h => hgo.trans ?_⟩
    have hend : ¬(now s < w.start ∨ (waits = true ∧ now s < entryEnd w)) := by
      rintro (hlt | ⟨hwait, hlt⟩)
      · exact absurd ht (Nat.not_le.2 hlt)
      · rcases h with hn | hle
        · exact Bool.false_ne_true (hn.symm.trans hwait)
        · exact absurd hle (Nat.not_le.2 hlt)
    rw [if_neg hend]
  · exact ⟨fun h => exec_dieOverrun_ignored hd h, fun hq hc ho ht => ⟨_, rfl, exec_dieOverrun_raises hd hq hc ho ht⟩,
      fun h b => exec_dieTimeout_ignored hd b h, fun hq hc ht answers => exec_dieTimeout_resets hd hq hc ht answers⟩
  · intro r u v hm
    exact exec_tokenGuardTimeout_due hd hw hf hq ht hm

end Sys2Proof.Machine

namespace Sys2Proof.Machine

/-! ### What the completion of a command leaves in the table of commands -/

/-- A fold of changes that keep a part of the state keeps that part. -/
theorem forEach_proj {α β : Type} (p : State → β) (l : List α) (f : α → State → State) (s : State) (h : ∀ a s, p (f a s) = p s) :
    p (forEach l f s) = p s := by
  unfold forEach
  induction l generalizing s with
  | nil => rfl
  | cons a l ih => exact (ih _).trans (h a s)

/-- A completion entry, waiting or written, changes the host side alone. -/
theorem postEntry_host (s : State) (c : Completion) (v : Option VerdictInfo) : ∃ h, postEntry s c v = { s with host := h } := by
  have hirq (u : State) (f k : Nat) : ∃ h, completionIrq u f k = { u with host := h } := by
    unfold completionIrq
    extract_lets x q
    split
    · exact ⟨_, rfl⟩
    · split <;> exact ⟨_, rfl⟩
  have hwrite : ∃ h, writeEntry s c v = { s with host := h } := by
    unfold writeEntry
    extract_lets q ring entry q' host u
    obtain ⟨h, hh⟩ := hirq (updFn u c.fn fun x => { x with cqs := tblSet c.cqid q' x.cqs }) c.fn c.cqid
    exact ⟨h, hh⟩
  unfold postEntry
  extract_lets x
  split
  · exact ⟨_, rfl⟩
  · split
    · split
      · exact ⟨_, rfl⟩
      · exact hwrite
    · split
      · exact hwrite
      · exact ⟨_, rfl⟩

theorem logError_host (s : State) (fn sqid cid : Nat) (st : NvmeStatus) : ∃ h, logError s fn sqid cid st = { s with host := h } := by
  unfold logError
  split <;> exact ⟨_, rfl⟩

theorem postCompletion_host (s : State) (fn sqid cid : Nat) (st : NvmeStatus) (dw0 : Nat) (data : List Byte)
    (units : List (Option Nat)) (v : Option VerdictInfo) :
    ∃ h, postCompletion s fn sqid cid st dw0 data units v = { s with host := h } := by
  unfold postCompletion
  extract_lets hint
  obtain ⟨a, ha⟩ := logError_host s fn sqid cid st
  split
  · exact ⟨a, ha⟩
  · obtain ⟨b, hb⟩ := postEntry_host (logError s fn sqid cid st) (completionOf s fn sqid cid st dw0 data units hint) v
    exact ⟨b, hb.trans (by rw [ha])⟩

@[simp] theorem ioPost_adm (s : State) (fn sqid cid : Nat) (st : NvmeStatus) (dw0 : Nat) (data : List Byte)
    (units : List (Option Nat)) (v : VerdictInfo) : (ioPost s fn sqid cid st dw0 data units v).adm = s.adm := by
  unfold ioPost
  extract_lets pins u
  obtain ⟨h, hh⟩ := postCompletion_host u fn sqid cid st dw0 data units (some v)
  rw [hh]

@[simp] theorem releaseBufs_cmds (s : State) (pool n : Nat) : (releaseBufs s pool n).adm.cmds = s.adm.cmds := by
  unfold releaseBufs
  split <;> rfl

@[simp] theorem pinSlot_adm (nsid : Nat) (add : Nat → Nat) (x : SlotSt) (s : State) : (pinSlot nsid add x s).adm = s.adm := by
  unfold pinSlot
  split <;> split <;> rfl

@[simp] theorem sweepEaves_cmds (s : State) : (sweepEaves s).adm.cmds = s.adm.cmds := by
  unfold sweepEaves
  extract_lets gone
  split <;> rfl

@[simp] theorem trimLoft_adm (s : State) : (trimLoft s).adm = s.adm := by
  unfold trimLoft
  split
  · rfl
  · exact forEach_proj (·.adm) _ _ s fun l u => by split <;> rfl

@[simp] theorem unbindEmpty_adm (s : State) (nsid z : Nat) : (unbindEmpty s nsid z).adm = s.adm := by
  unfold unbindEmpty
  split
  · rfl
  · split
    · rfl
    · exact forEach_proj (·.adm) _ _ s fun m u => rfl

/-- A command that is dropped leaves the table, every other one stays as it is. -/
theorem dropCmd_cmds (s : State) (c : Cmd) : (dropCmd s c).adm.cmds = s.adm.cmds.filter fun x => !sameCmd x c := by
  unfold dropCmd
  extract_lets +onlyGivenNames released adm removed unpinned buf unbooked unbound
  have hreleased : released.adm.cmds = s.adm.cmds := by
    unfold released
    split
    · rfl
    · split <;> simp
  have hremoved : removed.adm.cmds = s.adm.cmds.filter fun x => !sameCmd x c :=
    congrArg (List.filter fun x => !sameCmd x c) hreleased
  have hunpinned : unpinned.adm.cmds = removed.adm.cmds := by
    unfold unpinned
    split
    · rw [trimLoft_adm, sweepEaves_cmds, forEach_proj (·.adm) _ _ removed fun x u => pinSlot_adm ..]
    · rfl
  have hunbound : unbound.adm.cmds = unpinned.adm.cmds := by
    unfold unbound
    split
    · rfl
    · split
      · rw [unbindEmpty_adm]
      · rfl
  have hall := hunbound.trans (hunpinned.trans hremoved)
  split
  · split <;> exact hall
  · exact hall

theorem completeCmd_cmds (s : State) (c : Cmd) (st : NvmeStatus) (dw0 : Nat) (data : List Byte) (units : List (Option Nat)) :
    (completeCmd s c st dw0 data units).adm.cmds = s.adm.cmds.filter fun x => !sameCmd x c := by
  unfold completeCmd
  simp only [ioPost_adm, dropCmd_cmds, updMeter_adm, updClass_adm]

theorem completeCmd_gone {s : State} {c x : Cmd} {st : NvmeStatus} {dw0 : Nat} {data : List Byte} {units : List (Option Nat)}
    (hx : x ∈ (completeCmd s c st dw0 data units).adm.cmds) : sameCmd x c = false := by
  rw [completeCmd_cmds] at hx
  simpa using (List.mem_filter.1 hx).2

/-! ### Reads at their deadline (R103, R105) -/

theorem exec_deadlineReached (f q i : Nat) (s : State) : exec (.deadlineReached f q i) s = execDeadlineReached f q i s := rfl

theorem exec_deadlineReached_absent {s : State} {f q i : Nat} (h : cmdOf s f q i = none) : exec (.deadlineReached f q i) s = .next s := by
  simp only [exec_deadlineReached, execDeadlineReached, h]

section Deadline

variable {s : State} {f q i : Nat} {c : Cmd} (hc : cmdOf s f q i = some c)
include hc

theorem exec_deadlineReached_waits (h : now s < c.dl + (if c.allowance then 500 else 0) ∨ c.accepted = false ∨ ∀ x ∈ c.slots, x.done = true) :
    exec (.deadlineReached f q i) s = .next s := by
  simp only [exec_deadlineReached, execDeadlineReached, hc]
  rcases h with h | h | h
  · simp [Nat.not_le.2 h]
  · simp [h]
  · simp [List.all_eq_true.2 h]

/-- A Read, or a Copy that still reads, whose time is up has no route left. -/
theorem exec_deadlineReached_due (hop : (∃ h a n, c.op = .read h a n) ∨ (∃ h src d, c.op = .copy h src d ∧ c.arrived = 0))
    (ha : c.accepted = true) (hd : ∃ x ∈ c.slots, x.done = false) (ht : c.dl + (if c.allowance then 500 else 0) ≤ now s) :
    exec (.deadlineReached f q i) s = .next (noRoute s c) := by
  have hall : c.slots.all (·.done) = false := by simpa using hd
  simp only [exec_deadlineReached, execDeadlineReached, hc]
  rcases hop with ⟨h, a, n, ho⟩ | ⟨h, src, d, ho, harr⟩
  · simp [ho, ha, hall, ht]
  · simp [ho, harr, ha, hall, ht]

end Deadline

/-- A read without a route ends with 0xC6; what waited behind it in a zone goes on. -/
theorem noRoute_completes (s : State) (c : Cmd) : ∃ t, noRoute s c =
    (if c.write then flushReady ((completeCmd t c (.vendor 0xC6) 0 [] []).adm.cmds.length + 1) (completeCmd t c (.vendor 0xC6) 0 [] [])
      else completeCmd t c (.vendor 0xC6) 0 [] []) := ⟨_, rfl⟩

/-! ### Steps of a background pass (R174) -/

theorem exec_recoveryPass (n p : Nat) (ok : Bool) (s : State) : exec (.recoveryPass n p ok) s = execRecoveryPass n p ok s := rfl

theorem exec_recoveryPass_absent {s : State} {n p : Nat} (h : recoveryOf s n p = none) (ok : Bool) :
    exec (.recoveryPass n p ok) s = .next s := by
  simp only [exec_recoveryPass, execRecoveryPass, h]

section Pass

variable {s : State} {n p : Nat} {e : RecEntry} (he : recoveryOf s n p = some e)
include he

theorem exec_recoveryPass_waits (h : e.recovered = true ∨ now s < e.nextAt ∨ s.eav.powerLoss = true) (ok : Bool) :
    exec (.recoveryPass n p ok) s = .next s := by
  have hwait : (e.recovered || decide (now s < e.nextAt) || s.eav.powerLoss) = true := by simpa [or_assoc] using h
  simp only [exec_recoveryPass, execRecoveryPass, he, hwait, if_true]

variable (hr : e.recovered = false) (ht : e.nextAt ≤ now s) (hp : s.eav.powerLoss = false)
include hr ht hp

theorem exec_recoveryPass_begins {t off : Nat} (hk : keyLoc s n p = some (t, off)) (hrun : e.run = none) (ok : Bool) :
    exec (.recoveryPass n p ok) s = .next (goOnPage (updRecovery s n p fun x =>
      { x with run := some (newRun s (thatch s t) (place s.prof (thatch s t).width off).pos) }) n p) := by
  simp [exec_recoveryPass, execRecoveryPass, he, hr, hp, Nat.not_lt.2 ht, hk, locPlace, hrun]

theorem exec_recoveryPass_running {t off : Nat} (hk : keyLoc s n p = some (t, off)) {r : PassRun} (hrun : e.run = some r) (ok : Bool) :
    exec (.recoveryPass n p ok) s = .next
      (if passEnded s e = false then goOnPass s e else if (passHas s e && ok) = true then passGives s e else passLoses s e) := by
  simp [exec_recoveryPass, execRecoveryPass, he, hr, hp, Nat.not_lt.2 ht, hk, locPlace, hrun]

/-- A page that no thatch holds has no stages: the pass ends at once. -/
theorem exec_recoveryPass_unplaced (hk : keyLoc s n p = none) (ok : Bool) :
    exec (.recoveryPass n p ok) s = .next (if ok = true then passGives s e else passLoses s e) := by
  cases hrun : e.run <;> simp [exec_recoveryPass, execRecoveryPass, he, hr, hp, Nat.not_lt.2 ht, hk, locPlace, hrun]

end Pass

/-! ### What the hits of a page change (R176) -/

/-- From `s` to `t` only hits have been counted and thatches flagged: the records of dies and thatches differ alone, and no thatch has
gone. -/
def HitsOnly (s t : State) : Prop :=
  ∃ ds ts, t = { s with fl := { s.fl with dies := ds, thatches := ts } } ∧
    ∀ k, (tblFind? k s.fl.thatches).isSome = true → (tblFind? k ts).isSome = true

theorem HitsOnly.refl (s : State) : HitsOnly s s := ⟨_, _, rfl, fun _ h => h⟩

theorem HitsOnly.trans {s t u : State} (h : HitsOnly s t) (h' : HitsOnly t u) : HitsOnly s u := by
  obtain ⟨ds, ts, rfl, hts⟩ := h
  obtain ⟨ds', ts', rfl, hts'⟩ := h'
  exact ⟨ds', ts', rfl, fun k hk => hts' k (hts k hk)⟩

theorem flagRefresh_hitsOnly (s : State) (t : Nat) : HitsOnly s (flagRefresh s t) := by
  refine ⟨_, _, rfl, fun k hk => ?_⟩
  by_cases h : k = t
  · simp [h, tblUpd]
  · rwa [tblFind?_tblUpd_ne _ h]

theorem thatch_flagRefresh_flagged (s : State) (t : Nat) : (thatch (flagRefresh s t) t).flagged = true := by
  simp [thatch, flagRefresh, updThatch]

theorem addHits_hitsOnly (s : State) (d : DieNo) (k n : Nat) : HitsOnly s (addHits s d k n) := by
  unfold addHits
  extract_lets u
  have hu : HitsOnly s u := ⟨_, _, rfl, fun _ h => h⟩
  split
  · split
    · exact hu.trans (flagRefresh_hitsOnly ..)
    · exact hu
  · exact hu

theorem pageHits_hitsOnly (s : State) (nsid page : Nat) : HitsOnly s (pageHits s nsid page) := by
  unfold pageHits
  split
  · split
    · exact addHits_hitsOnly ..
    · exact HitsOnly.refl s
  · exact HitsOnly.refl s

theorem HitsOnly.adm {s t : State} (h : HitsOnly s t) : t.adm = s.adm := by
  obtain ⟨ds, ts, rfl, -⟩ := h
  rfl

theorem HitsOnly.recovery {s t : State} (h : HitsOnly s t) : t.fl.recovery = s.fl.recovery := by
  obtain ⟨ds, ts, rfl, -⟩ := h
  rfl

/-- A page keeps its place: a conventional one while its thatch is listed, a zoned one by its zone. -/
theorem HitsOnly.keepsPlace {s t : State} (h : HitsOnly s t) {nsid page : Nat} {l : Nat × Nat} (hl : keyLoc s nsid page = some l) :
    keyLoc t nsid page = some l := by
  obtain ⟨ds, ts, rfl, hts⟩ := h
  by_cases hn : nsid = 0
  · simp only [keyLoc, if_pos hn, Option.map_eq_some_iff] at hl ⊢
    obtain ⟨th, hth, hl⟩ := hl
    obtain ⟨th', hth'⟩ := Option.isSome_iff_exists.1 (hts _ (Option.isSome_iff_exists.2 ⟨th, hth⟩))
    exact ⟨th', hth', hl⟩
  · simp only [keyLoc, keyUnits, keyPlaces, ne_eq, hn, not_false_eq_true, if_true] at hl ⊢
    exact hl

/-! ### The end of a pass (R104, R174, R175) -/

@[simp] theorem recordEvent_adm (s : State) (code sev kind num : Nat) (payload : List Byte) :
    (recordEvent s code sev kind num payload).adm = s.adm := by
  obtain ⟨e, fs, h⟩ := recordEvent_effect s code sev kind num payload
  rw [h]

@[simp] theorem markUnrec_adm (s : State) (nsid u : Nat) : (markUnrec s nsid u).adm = s.adm := by
  unfold markUnrec
  split
  · rfl
  · split
    · rfl
    · split <;> rfl

@[simp] theorem noteUnrec_adm (s : State) (us : List (Nat × Nat)) : (noteUnrec s us).adm = s.adm :=
  forEach_proj (·.adm) _ _ s fun _ u => forEach_proj (·.adm) _ _ u fun _ _ => recordEvent_adm ..

@[simp] theorem markPage_adm (s : State) (nsid page : Nat) : (markPage s nsid page).adm = s.adm :=
  (noteUnrec_adm ..).trans (forEach_proj (·.adm) _ _ s fun _ _ => markUnrec_adm ..)

/-- No accepted read waits for a recovery while no slot is to be served from the Recovery Table. -/
theorem recoveryWaiters_nil {s : State} (h : ∀ c ∈ s.adm.cmds, ∀ x ∈ c.slots, x.route ≠ .recovered) (nsid page : Nat) :
    recoveryWaiters s nsid page = [] := by
  unfold recoveryWaiters
  rw [List.flatMap_eq_nil_iff]
  intro c hc
  rw [List.map_eq_nil_iff, List.filter_eq_nil_iff]
  intro x hx
  have hroute := h c (List.mem_filter.1 hc).1 x.1 (List.fst_mem_of_mem_zipIdx hx)
  simp [hroute]

theorem passLoses_repeats {s : State} {e : RecEntry} (h : e.passes + 1 < s.prof.bgPasses) :
    passLoses s e = updRecovery s e.nsid e.page fun x =>
      { x with passes := x.passes + 1, run := none, nextAt := now s + s.prof.bgPassGap * 1000000 } := if_pos h

/-- The state as a pass has given its page to the Recovery Table. -/
def pageGiven (s : State) (e : RecEntry) : State :=
  updRecovery s e.nsid e.page fun x =>
    { x with recovered := true, passes := x.passes + 1, run := none, seals := pageSeals s e.nsid e.page }

section NoWaiters

variable {s : State} {e : RecEntry} (hw : ∀ c ∈ s.adm.cmds, ∀ x ∈ c.slots, x.route ≠ .recovered)
include hw

theorem passLoses_last (h : s.prof.bgPasses ≤ e.passes + 1) :
    let marked := pageHits (markPage s e.nsid e.page) e.nsid e.page
    passLoses s e = { marked with fl := { marked.fl with recovery := marked.fl.recovery.erase e } } := by
  intro marked
  have hadm : marked.adm = s.adm := (pageHits_hitsOnly ..).adm.trans (markPage_adm ..)
  have hnone : recoveryWaiters marked e.nsid e.page = [] := recoveryWaiters_nil (hadm ▸ hw) ..
  unfold passLoses
  rw [if_neg (Nat.not_lt.2 h)]
  simp only [marked] at hnone
  simp only [hnone, forEach, List.foldl_nil, marked]

/-- A delivered page: its hits count and its thatch is flagged, and nothing more follows where no read waits for it. -/
theorem passGives_effect : HitsOnly (pageGiven s e) (passGives s e) ∧
    ∀ t off, keyLoc s e.nsid e.page = some (t, off) → passGives s e = flagRefresh (pageHits (pageGiven s e) e.nsid e.page) t := by
  unfold passGives
  extract_lets given hit flagged
  have hhit : HitsOnly given hit := pageHits_hitsOnly ..
  have hflagged : HitsOnly given flagged := by
    unfold flagged
    split
    · exact hhit.trans (flagRefresh_hitsOnly ..)
    · exact hhit
  have hnone : recoveryWaiters flagged e.nsid e.page = [] :=
    recoveryWaiters_nil (fun c hc => hw c (hflagged.adm ▸ hc)) ..
  simp only [hnone, forEach, List.foldl_nil]
  refine ⟨hflagged, fun t off hk => ?_⟩
  have hplace : keyLoc hit e.nsid e.page = some (t, off) := hhit.keepsPlace hk
  simp only [flagged, hplace]
  rfl

end NoWaiters

/-- Settles O34: a read at its deadline, the steps of a background pass, and what a pass that has ended leaves behind. -/
theorem deadlineAndPasses : Obligations.DeadlineAndPasses := by
  refine ⟨fun s f q i c hc hop => ⟨fun ha hd ht => ?_, exec_deadlineReached_waits hc⟩,
    fun s f q i h => exec_deadlineReached_absent h,
    fun s n p e he => ⟨fun ok h => exec_recoveryPass_waits he h ok, fun hr ht hp => ⟨fun t off ok hk => ?_, fun hk => ?_⟩⟩,
    fun s n p ok h => exec_recoveryPass_absent h ok,
    fun s e _ => ⟨passLoses_repeats, fun hw => ⟨passLoses_last hw, ?_⟩⟩⟩
  · obtain ⟨t, hcompletes⟩ := noRoute_completes s c
    exact ⟨t, (exec_deadlineReached_due hc hop ha hd ht).trans (congrArg _ hcompletes), fun _ => completeCmd_gone⟩
  · refine ⟨fun hrun => exec_recoveryPass_begins he hr ht hp hk hrun ok, fun r hrun => ?_⟩
    have hgo := exec_recoveryPass_running he hr ht hp hk hrun ok
    refine ⟨fun hend => ?_, fun hend hhas => ?_, fun hend hhas => ?_⟩
    · rwa [if_pos hend] at hgo
    · rwa [if_neg (by simp [hend]), if_pos hhas] at hgo
    · rwa [if_neg (by simp [hend]), if_neg (by simp [hhas])] at hgo
  · exact ⟨exec_recoveryPass_unplaced he hr ht hp hk true, exec_recoveryPass_unplaced he hr ht hp hk false⟩
  · obtain ⟨hhits, hflags⟩ := passGives_effect (e := e) hw
    refine ⟨hhits.adm, hhits.recovery, fun t off hk => ?_⟩
    rw [hflags t off hk]
    exact thatch_flagRefresh_flagged ..

end Sys2Proof.Machine

namespace Sys2Proof.Machine

/-! ### What an event that a warning raises leaves unchanged -/

/-- From `s` to `t` only asynchronous events have been delivered: what the functions hold of them, and the completions. -/
def EventsDelivered (s t : State) : Prop :=
  ∃ fs ps rs ws, t = { s with host := { s.host with fns := fs, posted := ps, rings := rs, cqWait := ws } }

theorem EventsDelivered.refl (s : State) : EventsDelivered s s := ⟨_, _, _, _, rfl⟩

theorem EventsDelivered.trans {s t u : State} (h : EventsDelivered s t) (h' : EventsDelivered t u) : EventsDelivered s u := by
  obtain ⟨fs, ps, rs, ws, rfl⟩ := h
  obtain ⟨fs', ps', rs', ws', rfl⟩ := h'
  exact ⟨fs', ps', rs', ws', rfl⟩

theorem PostedOnly.eventsDelivered {s t : State} (h : PostedOnly s t) : EventsDelivered s t := ⟨_, _, _, _, h.1⟩

theorem updFn_eventsDelivered (s : State) (f : Nat) (g : FnSt → FnSt) : EventsDelivered s (updFn s f g) := ⟨_, _, _, _, rfl⟩

theorem postAer_eventsDelivered (f : Nat) (s : State) (cid dw0 : Nat) : EventsDelivered s (postAer f s cid dw0) :=
  (postCompletion_postedOnly ..).eventsDelivered

theorem asyncEvent_eventsDelivered (s : State) (f type info log enable g : Nat) :
    EventsDelivered s (asyncEvent s f type info log enable (postAer g)) := by
  unfold asyncEvent
  extract_lets x
  split
  · exact .refl s
  · split
    · exact (updFn_eventsDelivered ..).trans (postAer_eventsDelivered ..)
    · exact updFn_eventsDelivered ..

theorem asyncAll_eventsDelivered (s : State) (type info log enable : Nat) : EventsDelivered s (asyncAll s type info log enable) := by
  unfold asyncAll forEach
  induction presentFns s generalizing s with
  | nil => exact .refl s
  | cons f l ih => exact (asyncEvent_eventsDelivered ..).trans (ih _)

/-- A Critical Warning bit is set, and its event delivered where it was not. -/
theorem setWarning_effect (s : State) (bit : Nat) : ∃ w,
    EventsDelivered { s with host := { s.host with criticalWarning := w } } (setWarning s bit) := by
  unfold setWarning
  split
  · exact ⟨_, .refl s⟩
  · exact ⟨_, asyncAll_eventsDelivered ..⟩

@[simp] theorem setWarning_fl (s : State) (bit : Nat) : (setWarning s bit).fl = s.fl := by
  obtain ⟨w, fs, ps, rs, ws, h⟩ := setWarning_effect s bit
  rw [h]

@[simp] theorem setWarning_smart (s : State) (bit : Nat) : (setWarning s bit).host.smart = s.host.smart := by
  obtain ⟨w, fs, ps, rs, ws, h⟩ := setWarning_effect s bit
  rw [h]

@[simp] theorem recordEvent_fl (s : State) (code sev kind num : Nat) (payload : List Byte) :
    (recordEvent s code sev kind num payload).fl = s.fl := by
  obtain ⟨e, fs, h⟩ := recordEvent_effect s code sev kind num payload
  rw [h]

@[simp] theorem recordEvent_smart (s : State) (code sev kind num : Nat) (payload : List Byte) :
    (recordEvent s code sev kind num payload).host.smart = s.host.smart := by
  obtain ⟨e, fs, h⟩ := recordEvent_effect s code sev kind num payload
  rw [h]

/-! ### SMART data (R129, R131) -/

/-- From `s` to `t` only rows of Table 05.9 have come into force or ended, with their events. -/
def RowsNoted (s t : State) : Prop :=
  ∃ rows e fs, t = { s with fl := { s.fl with wornRows := rows }, evt := e, host := { s.host with fns := fs } }

theorem RowsNoted.trans {s t u : State} (h : RowsNoted s t) (h' : RowsNoted t u) : RowsNoted s u := by
  obtain ⟨rows, e, fs, rfl⟩ := h
  obtain ⟨rows', e', fs', rfl⟩ := h'
  exact ⟨rows', e', fs', rfl⟩

theorem wornRow_rowsNoted (s : State) (obj row : Nat) (on : Bool) : RowsNoted s (wornRow s obj row on) := by
  unfold wornRow wearEvent
  extract_lets known
  split
  · obtain ⟨e, fs, h⟩ := recordEvent_effect { s with fl := { s.fl with wornRows := s.fl.wornRows ++ [(obj, row)] } } 0x0052 0 0 3
      (leBytes 4 obj ++ leBytes 1 (0x80 + row) ++ leBytes 1 0)
    exact ⟨_, e, fs, h⟩
  · split <;> exact ⟨_, _, _, rfl⟩

theorem forEach_rowsNoted {α : Type} (l : List α) (f : α → State → State) (s : State) (h : ∀ a s, RowsNoted s (f a s)) :
    RowsNoted s (forEach l f s) := by
  unfold forEach
  induction l generalizing s with
  | nil => exact ⟨_, _, _, rfl⟩
  | cons a l ih => exact (h a s).trans (ih _)

/-- The state with the three fields of R131. -/
def withSmart (s : State) : State :=
  { s with host := { s.host with smart := [percentUsed s, availableSpare s, 10] } }

/-- The state with an Available Spare below 10 noted: its event, and Critical Warning bit 0. -/
def spareNoted (s : State) (spare : Nat) : State :=
  setWarning (recordEvent { s with fl := { s.fl with spareLow := true } } 0x0051 2 0 3 (leBytes 2 0xFFFF ++ leBytes 4 spare)) 0

@[simp] theorem spareNoted_spareLow (s : State) (spare : Nat) : (spareNoted s spare).fl.spareLow = true :=
  congrArg (·.spareLow) ((setWarning_fl ..).trans (recordEvent_fl ..))

@[simp] theorem spareNoted_smart (s : State) (spare : Nat) : (spareNoted s spare).host.smart = s.host.smart :=
  (setWarning_smart ..).trans (recordEvent_smart ..)

/-- The state with the three fields of R131, and with a spare that has fallen below 10 noted, once. -/
def smartNoted (s : State) : State :=
  if (decide (availableSpare s < 10) && !s.fl.spareLow) = true then spareNoted (withSmart s) (availableSpare s) else withSmart s

theorem smartNoted_smart (s : State) : (smartNoted s).host.smart = [percentUsed s, availableSpare s, 10] := by
  unfold smartNoted
  split
  · exact spareNoted_smart ..
  · rfl

theorem smartNoted_spareLow {s : State} (hlow : availableSpare s < 10) : (smartNoted s).fl.spareLow = true := by
  unfold smartNoted
  cases hnoted : s.fl.spareLow with
  | false =>
    rw [if_pos (by rw [decide_eq_true hlow]; rfl)]
    exact spareNoted_spareLow ..
  | true =>
    rw [if_neg (by rw [decide_eq_true hlow]; decide)]
    exact hnoted

theorem smartNoted_criticalWarning {s : State} (henough : 10 ≤ availableSpare s) :
    (smartNoted s).host.criticalWarning = s.host.criticalWarning := by
  unfold smartNoted
  rw [decide_eq_false (Nat.not_lt.2 henough)]
  rfl

/-- An update sets the three fields, notes a spare that has fallen below 10, and then the rows of Table 05.9. -/
theorem exec_smartUpdate (s : State) : ∃ t, exec .smartUpdate s = .next t ∧ RowsNoted (smartNoted s) t :=
  ⟨_, rfl, (wornRow_rowsNoted ..).trans (forEach_rowsNoted _ _ _ fun _ _ => wornRow_rowsNoted ..)⟩

theorem exec_smartUpdate_effect (s : State) : ∃ t, exec .smartUpdate s = .next t ∧
    t.host.smart = [percentUsed s, availableSpare s, 10] ∧ (availableSpare s < 10 → t.fl.spareLow = true) ∧
    (10 ≤ availableSpare s → t.host.criticalWarning = s.host.criticalWarning) := by
  obtain ⟨t, ht, rows, e, fs, rfl⟩ := exec_smartUpdate s
  exact ⟨_, ht, smartNoted_smart s, smartNoted_spareLow, smartNoted_criticalWarning⟩

/-! ### Background work that is due, and its stop (R119, R124, R187, R191) -/

theorem exec_backgroundWorkDecision (s : State) :
    exec .backgroundWorkDecision s = .next (if bgRuns s then decideWork (takeDue s 5) else s) := rfl

theorem exec_underlayMove (n z : Nat) (s : State) : exec (.underlayMove n z) s = .next (if bgRuns s then tryUnderlay s n z else s) := rfl

theorem exec_journalCheckpoint (s : State) : exec .journalCheckpoint s = .next
    (if bgRuns s && decide (50331648 ≤ s.eav.journalTail) then { s with eav := { s.eav with journalTail := 0 } } else s) := rfl

theorem exec_retentionAgeRefresh (t : Nat) (s : State) : exec (.retentionAgeRefresh t) s = execRetentionAgeRefresh t s := rfl

theorem exec_refreshRetryHourly (t : Nat) (s : State) : exec (.refreshRetryHourly t) s = execRefreshRetryHourly t s := rfl

section Stopped

variable {s : State} (h : bgRuns s = false)
include h

theorem exec_retentionAgeRefresh_stopped (t : Nat) : exec (.retentionAgeRefresh t) s = .next s := by
  rw [exec_retentionAgeRefresh, execRetentionAgeRefresh]
  split
  · rw [h]
    rfl
  · rfl

theorem exec_refreshRetryHourly_stopped (t : Nat) : exec (.refreshRetryHourly t) s = .next s := by
  rw [exec_refreshRetryHourly, execRefreshRetryHourly]
  split
  · split
    · rw [h]
      rfl
    · rfl
  · rfl

end Stopped

section Running

variable {s : State} (h : bgRuns s = true)
include h

theorem exec_journalCheckpoint_runs : exec .journalCheckpoint s =
    .next (if 50331648 ≤ s.eav.journalTail then { s with eav := { s.eav with journalTail := 0 } } else s) := by
  simp only [exec_journalCheckpoint, h, Bool.true_and, decide_eq_true_eq]

variable {t : Nat} {th : ThatchSt} (hth : tblFind? t s.fl.thatches = some th)
include hth

theorem exec_retentionAgeRefresh_runs : exec (.retentionAgeRefresh t) s =
    .next (if s.prof.retentionHours ≤ ageHours s th ∧ th.retryAt = none then startRefresh s t 6 else s) := by
  simp only [exec_retentionAgeRefresh, execRetentionAgeRefresh, h, hth, Bool.true_and, Bool.and_eq_true, decide_eq_true_eq,
    Option.isNone_iff_eq_none]

theorem exec_refreshRetryHourly_runs {a : Nat} (ha : th.retryAt = some a) (hr : relocating s t = false) :
    exec (.refreshRetryHourly t) s = .next (if a ≤ opUs s then
      startRefresh (updThatch s t fun x => { x with retryAt := none }) t (if th.flagged then 3 else 6) else s) := by
  simp only [exec_refreshRetryHourly, execRefreshRetryHourly, h, hth, ha, hr, Bool.true_and, Bool.not_false, Bool.and_true,
    decide_eq_true_eq]

end Running

/-! ### What a refresh and an Underlay move record (R124, R191) -/

theorem startRefresh_zone {s : State} {t : Nat} (hr : refreshable s (t, thatch s t) = true) (hk : (thatch s t).kind = .zone) (o : Nat) :
    startRefresh s t o = startZoneCopy s t o := by
  simp only [startRefresh, hr, hk, Bool.not_true, Bool.false_eq_true, if_false]

/-- The copy of a zone's thatch for which there is a thatch is listed, from its first course on. -/
theorem startZoneCopy_relocations {s u : State} {t k b dst : Nat} {ns : NsSt} (hns : nsOf s (thatch s t).nsid = some ns)
    (hb : chooseBay (updZone s (thatch s t).nsid (thatch s t).zone fun y => { y with thatch := none }) ns
      (zone s (thatch s t).nsid (thatch s t).zone) (thatch s t).width = some (k, b))
    (hu : bindThatch s b (thatch s t).width k (.target t) (thatch s t).nsid (thatch s t).zone
      (generationOf s (thatch s t).nsid) = some (u, dst)) (o : Nat) :
    (startZoneCopy s t o).fl.relocations = u.fl.relocations ++ [⟨t, dst, 0, o, false, []⟩] := by
  simp only [startZoneCopy, hns, hb, hu]
  split <;> rfl

/-- A move that is made is recorded, with a buffer for each unit that it takes. -/
theorem moveUnderlay_records {s t : State} {n z : Nat} (h : moveUnderlay s n z = some t) :
    ∃ l k, t.eav.underlayMoves = l ++ [k] ∧ k.nsid = n ∧ k.zone = z ∧ k.bufs = (zoneEaves s n z).length := by
  unfold moveUnderlay at h
  split at h
  · cases h
  · obtain ⟨u, -, hu⟩ := Option.bind_eq_some_iff.1 h
    obtain ⟨v, -, rfl⟩ := Option.map_eq_some_iff.1 hu
    exact ⟨_, _, rfl, rfl, rfl, rfl⟩

theorem tryUnderlay_moves {s t : State} {n z : Nat} {e : (Nat × Nat) × ZoneSt}
    (he : (movableZones s).find? (fun e => e.1 == (n, z)) = some e) (hd : underlayDue s e = true) (hw : s.fl.window.isOpen = true)
    (ht : moveUnderlay s n z = some t) : tryUnderlay s n z = t := by
  simp only [tryUnderlay, he, hd, hw, ht, Bool.and_self, if_true]

/-- Settles O38: none of the work while it is stopped, each kind of it by what its test asks for while it runs, and the SMART fields. -/
theorem backgroundWork : Obligations.BackgroundWork := by
  intro s
  refine ⟨fun h => ⟨?_, ?_, fun t n z =>
      ⟨exec_retentionAgeRefresh_stopped h t, exec_refreshRetryHourly_stopped h t, ?_⟩⟩,
    fun h => ⟨?_, fun hj => ?_, fun hj => ?_, fun n z => ⟨?_, fun e t he hd hw ht => ⟨?_, moveUnderlay_records ht⟩⟩,
      fun t th hth hr => ⟨fun hn ha => ?_, fun ha => ?_, fun a hat hlt => ?_, fun a hat hle => ?_,
        fun href hk o _ ns k b u dst hns hb hu => ?_⟩⟩,
    exec_smartUpdate_effect s⟩
  · rw [exec_backgroundWorkDecision, h]
    rfl
  · rw [exec_journalCheckpoint, h]
    rfl
  · rw [exec_underlayMove, h]
    rfl
  · rw [exec_backgroundWorkDecision, if_pos h]
  · rw [exec_journalCheckpoint_runs h, if_pos hj]
  · rw [exec_journalCheckpoint_runs h, if_neg (Nat.not_le.2 hj)]
  · rw [exec_underlayMove, if_pos h]
  · rw [exec_underlayMove, if_pos h, tryUnderlay_moves he hd hw ht]
  · rw [exec_retentionAgeRefresh_runs h hth, if_pos ⟨ha, hn⟩]
  · rw [exec_retentionAgeRefresh_runs h hth, if_neg fun hold => absurd hold.1 (Nat.not_le.2 ha)]
  · rw [exec_refreshRetryHourly_runs h hth hat hr, if_neg (Nat.not_le.2 hlt)]
  · rw [exec_refreshRetryHourly_runs h hth hat hr, if_pos hle]
  · rw [startRefresh_zone href hk, startZoneCopy_relocations hns hb hu]

end Sys2Proof.Machine

namespace Sys2Proof.Machine

/-! ### Draining a channel (R156, R317, Table 06.13) -/

theorem exec_channelDrain (c : Nat) (s : State) : exec (.channelDrain c) s = .next (startDrain s c) := rfl

theorem exec_channelDrainComplete (c : Nat) (s : State) : exec (.channelDrainComplete c) s = execChannelDrainComplete c s := rfl

theorem exec_channelDrainTimeout (c : Nat) (s : State) : exec (.channelDrainTimeout c) s = execChannelDrainTimeout c s := rfl

/-- A drain of a Running channel: its first request is an event, and the queued descriptors go back. -/
theorem startDrain_running {s : State} {c : Nat} (h : isRunning s (chIsland c) = true) :
    startDrain s c =
      let u := if (chan s c).draining.isNone then channelEvent s (128 * c) 0x97 else s
      flushChannel (updChan u c fun x => { x with draining := some (x.draining.getD (now u)) }) c := by
  rw [startDrain, if_pos h]

theorem startDrain_notRunning {s : State} {c : Nat} (h : isRunning s (chIsland c) = false) : startDrain s c = s := by
  rw [startDrain, h]
  rfl

theorem exec_channelDrain_notDraining {s : State} {c : Nat} (h : (chan s c).draining = none) :
    exec (.channelDrainComplete c) s = .next s ∧ exec (.channelDrainTimeout c) s = .next s := by
  rw [exec_channelDrainComplete, execChannelDrainComplete, exec_channelDrainTimeout, execChannelDrainTimeout, h]
  exact ⟨rfl, rfl⟩

section Draining

variable {s : State} {c t : Nat} (h : (chan s c).draining = some t)
include h

theorem exec_channelDrainComplete_draining :
    exec (.channelDrainComplete c) s = .next (if channelBusy s c then s else endDrain (flushChannel s c) c) := by
  rw [exec_channelDrainComplete, execChannelDrainComplete, h]
  rfl

theorem exec_channelDrainTimeout_draining :
    exec (.channelDrainTimeout c) s = .next (if now s < t + 16384 then s else endDrain (flushChannel s c) c) := by
  rw [exec_channelDrainTimeout, execChannelDrainTimeout, h]

end Draining

/-- How a drain ends: at firmware's request in Isolated, after a severe source in reset, released unless R317 excludes the channel. -/
theorem endDrain_ends (s : State) (c : Nat) :
    ((chan s c).severeDrain = false → endDrain s c = setIslandState (updChan s c fun x => { x with draining := none }) (chIsland c) .isolated) ∧
    ((chan s c).severeDrain = true →
      (c ∈ s.flt.excludedChannels → endDrain s c = channelLost s c .heldInReset) ∧
      (c ∉ s.flt.excludedChannels → endDrain s c = releaseChannel (channelLost s c .heldInReset) c)) := by
  refine ⟨fun h => ?_, fun h => ⟨fun hx => ?_, fun hx => ?_⟩⟩
  · rw [endDrain, h]
    rfl
  · rw [endDrain, if_pos h, if_pos (by simpa using hx)]
  · rw [endDrain, if_pos h, if_neg (by simpa using hx), severeReset]

/-! ### Bringing a channel up (R135, R153, Table 06.11) -/

theorem exec_channelRbWaitEnd (c : Nat) (high : Bool) (s : State) :
    exec (.channelRbWaitEnd c high) s = execChannelRbWaitEnd c high s := rfl

theorem exec_channelRbWaitEnd_noWait {s : State} {c : Nat} (h : (chan s c).rbWait = none) (high : Bool) :
    exec (.channelRbWaitEnd c high) s = .next s := by
  rw [exec_channelRbWaitEnd, execChannelRbWaitEnd, h]

/-- The wait for RB_N ends when it goes high, or at 5.0 ms with an event. -/
theorem exec_channelRbWaitEnd_waiting {s : State} {c t : Nat} (h : (chan s c).rbWait = some t) (high : Bool) :
    let done := updChan s c fun x => { x with rbWait := none, rbDone := true }
    exec (.channelRbWaitEnd c high) s = .next (if high then done else if t + 5000 ≤ now s then rbStuck done c else s) := by
  rw [exec_channelRbWaitEnd, execChannelRbWaitEnd, h]

theorem exec_channelBringup (c : Nat) (ds : List DieAnswer) (ps : List PkgAnswer) (s : State) :
    exec (.channelBringup c ds ps) s = execChannelBringup c ds ps s := rfl

theorem exec_channelBringup_ignored {s : State} {c : Nat} (h : 32 ≤ c ∨ (island s (chIsland c)).st ≠ .heldInReset ∨
    (chan s c).rbDone = false ∨ c ∈ s.flt.excludedChannels ∨ s.eav.powerLoss = true) (ds : List DieAnswer) (ps : List PkgAnswer) :
    exec (.channelBringup c ds ps) s = .next s := by
  rw [exec_channelBringup, execChannelBringup, if_pos]
  simp only [Bool.or_eq_true, decide_eq_true_eq, bne_iff_ne, List.contains_eq_mem, Bool.not_eq_true']
  rcases h with hc | hi | hr | hx | hp
  · exact .inl (.inl (.inl (.inl hc)))
  · exact .inl (.inl (.inl (.inr hi)))
  · exact .inl (.inr hr)
  · exact .inl (.inl (.inr hx))
  · exact .inr hp

theorem exec_channelBringup_waited {s : State} {c : Nat} (hc : c < 32) (hi : (island s (chIsland c)).st = .heldInReset)
    (hr : (chan s c).rbDone = true) (hx : c ∉ s.flt.excludedChannels) (hp : s.eav.powerLoss = false) (ds : List DieAnswer)
    (ps : List PkgAnswer) : exec (.channelBringup c ds ps) s = .next (updateWarm (firstPolls (bringUp s c ds ps))) := by
  rw [exec_channelBringup, execChannelBringup, if_neg]
  simp [hc, hi, hr, hx, hp]

/-- A channel returns just where one of its dies is in service once its packages are trained and its dies asked. -/
theorem bringUp_returns (s : State) (c : Nat) (ds : List DieAnswer) (ps : List PkgAnswer) :
    let trained := forEach (channelPkgs s.prof c) (bringPkg c ps) s
    let dies := (channelPkgs s.prof c).flatMap fun k => pkgDies trained.prof (c, k)
    let brought := forEach dies (bringDie ds ps) trained
    ((∃ d ∈ dies, dieOut brought d = false) → bringUp s c ds ps = channelReturns (useMicrocode (updChan brought c fun x =>
      { x with microcode := microcodeVersion brought, volumes := channelPkgs s.prof c, nvDdr3 := true })) c) ∧
    ((∀ d ∈ dies, dieOut brought d = true) → bringUp s c ds ps = updChan brought c fun x => { x with rbWait := none, rbDone := false }) := by
  intro trained dies brought
  refine ⟨fun ⟨d, hd, hin⟩ => if_pos (List.any_eq_true.2 ⟨d, hd, by rw [hin]; rfl⟩), fun hout => if_neg fun hany => ?_⟩
  obtain ⟨d, hd, hin⟩ := List.any_eq_true.1 hany
  exact absurd (hout d hd) (by simpa using hin)

/-- Settles O41: each command of a drain by the state that it meets, and the end of a bring-up by the dies in service. -/
theorem channelDrainAndBringup : Obligations.ChannelDrainAndBringup := by
  refine ⟨fun s c => ⟨fun h => ⟨fun hd => ?_, fun hd => ?_⟩, fun h => ?_, exec_channelDrain_notDraining,
      fun t ht => ⟨fun hb => ?_, fun hb => ?_, fun hlt => ?_, fun hle => ?_⟩, endDrain_ends s c,
      fun t ht => ⟨exec_channelRbWaitEnd_waiting ht true, fun hle => ?_, fun hlt => ?_⟩,
      exec_channelRbWaitEnd_noWait⟩,
    fun s c ds ps => ⟨fun h => exec_channelBringup_ignored h ds ps,
      fun hc hi hr hx hp => exec_channelBringup_waited hc hi hr hx hp ds ps⟩, bringUp_returns⟩
  · rw [exec_channelDrain, startDrain_running h, hd]
    rfl
  · rw [exec_channelDrain, startDrain_running h, Option.isNone_eq_false_iff.2 hd]
    rfl
  · rw [exec_channelDrain, startDrain_notRunning h]
  · rw [exec_channelDrainComplete_draining ht, if_pos hb]
  · rw [exec_channelDrainComplete_draining ht, hb]
    rfl
  · rw [exec_channelDrainTimeout_draining ht, if_pos hlt]
  · rw [exec_channelDrainTimeout_draining ht, if_neg (Nat.not_lt.2 hle)]
  · exact (exec_channelRbWaitEnd_waiting ht false).trans (congrArg _ (if_pos hle))
  · exact (exec_channelRbWaitEnd_waiting ht false).trans (congrArg _ (if_neg (Nat.not_le.2 hlt)))

end Sys2Proof.Machine

namespace Sys2Proof.Machine

/-! ### A drain of a channel leaves the mailbox engine as it is -/

@[simp] theorem forEach_hmp {α : Type} (l : List α) (f : α → State → State) (s : State) (h : ∀ a s, (f a s).hmp = s.hmp) :
    (forEach l f s).hmp = s.hmp := forEach_proj (·.hmp) l f s h

@[simp] theorem recordEvent_hmp (s : State) (code sev kind num : Nat) (payload : List Byte) :
    (recordEvent s code sev kind num payload).hmp = s.hmp := by
  obtain ⟨e, fs, h⟩ := recordEvent_effect s code sev kind num payload
  rw [h]

@[simp] theorem channelEvent_hmp (s : State) (d : DieNo) (action : Nat) : (channelEvent s d action).hmp = s.hmp := recordEvent_hmp ..

@[simp] theorem sendToken_hmp (s : State) (src dst : Nat) (data : Bool) (tag : Nat) : (sendToken s src dst data tag).hmp = s.hmp := by
  unfold sendToken
  dsimp only
  (repeat' split) <;> rfl

@[simp] theorem addDesc_hmp (s : State) (d : Desc) : (addDesc s d).hmp = s.hmp := by
  unfold addDesc sendDesc
  dsimp only
  split <;> simp

@[simp] theorem unbook_hmp (s : State) (tag : Nat) : (unbook s tag).hmp = s.hmp := rfl

@[simp] theorem endDesc_hmp (s : State) (d : Desc) (status corrected : Nat) : (endDesc s d status corrected).hmp = s.hmp := by
  unfold endDesc
  dsimp only
  rw [forEach_hmp _ _ _ fun u s => sendToken_hmp ..]
  split <;> rfl

@[simp] theorem closeDesc_hmp (s : State) (d : Desc) (status corrected : Nat) : (closeDesc s d status corrected).hmp = s.hmp :=
  endDesc_hmp ..

@[simp] theorem dropDesc_hmp (s : State) (d : Desc) (status : Nat) : (dropDesc s d status).hmp = s.hmp := endDesc_hmp ..

@[simp] theorem keepErase_hmp (s : State) (d : Desc) : (keepErase s d).hmp = s.hmp := by
  unfold keepErase
  split <;> rfl

@[simp] theorem releaseBufs_hmp (s : State) (pool n : Nat) : (releaseBufs s pool n).hmp = s.hmp := by
  unfold releaseBufs
  split <;> rfl

@[simp] theorem dropMove_hmp (s : State) (d : Desc) : (dropMove s d).hmp = s.hmp := by
  unfold dropMove
  split
  · rfl
  · split <;> simp [updCompact]

/-! #### Bookings -/

/-- What a fold over options starts with and each step keeps, its result has. -/
theorem of_foldl_some {α γ : Type} {P : γ → Prop} {f : Option γ → α → Option γ} {l : List α} {o : Option γ} {r : γ}
    (h : l.foldl f o = some r) (ho : ∀ v, o = some v → P v)
    (hf : ∀ o a, (∀ v, o = some v → P v) → ∀ v, f o a = some v → P v) : P r :=
  List.foldlRecOn (motive := fun o => ∀ v, o = some v → P v) l f ho (fun o ih a _ => hf o a ih) r h

theorem moveEntry_hmp {s t : State} {n : Nat} {e : CalEntry} (h : moveEntry s n e = some t) : t.hmp = s.hmp := by
  obtain ⟨_, _, rfl⟩ := Option.map_eq_some_iff.1 h
  rfl

theorem moveBackground_hmp {s t : State} {d : DieNo} {n len tokens : Nat} (h : moveBackground s d n len tokens = some t) :
    t.hmp = s.hmp := by
  obtain ⟨u, hu, rfl⟩ := Option.map_eq_some_iff.1 h
  refine of_foldl_some (P := fun v => v.hmp = s.hmp) hu ?_ fun o e ho v hv => ?_
  · rintro v ⟨⟩
    rfl
  · obtain ⟨w, hw, hv⟩ := Option.bind_eq_some_iff.1 hv
    exact (moveEntry_hmp hv).trans (ho w hw)

theorem lengthenOp_hmp {s t : State} {op : CalEntry} {by' spend reserve : Nat} (h : lengthenOp s op by' spend reserve = some t) :
    t.hmp = s.hmp := by
  obtain ⟨u, hu, rfl⟩ := Option.map_eq_some_iff.1 (Option.ite_none_left_eq_some.1 h).2
  exact (moveBackground_hmp hu :)

theorem bookWay_hmp {s : State} {q : SenseReq} {way : SenseWay} {r : State × Sense} (h : bookWay s q way = some r) : r.1.hmp = s.hmp := by
  unfold bookWay at h
  cases way <;> obtain ⟨u, hu, rfl⟩ := Option.map_eq_some_iff.1 (Option.ite_none_left_eq_some.1 h).2
  case freeTime => exact (moveBackground_hmp hu :)
  case join => exact (lengthenOp_hmp hu :)
  case openWin => exact (lengthenOp_hmp hu :)

theorem bookSense_hmp {s : State} {q : SenseReq} {r : State × Sense} (h : bookSense s q = some r) : r.1.hmp = s.hmp := by
  refine of_foldl_some (P := fun r => r.1.hmp = s.hmp) (Option.ite_none_left_eq_some.1 h).2 ?_ fun o way ho r hr => ?_
  · rintro r ⟨⟩
  · rcases Option.or_eq_some_iff.1 hr with hr | ⟨-, hr⟩
    · exact ho r hr
    · exact bookWay_hmp hr

@[simp] theorem addRead_hmp (s : State) (d : Desc) (se : Sense) : (addRead s d se).hmp = s.hmp := by
  unfold addRead
  extract_lets u
  split <;> simp [u]

theorem bookPage_hmp {s : State} {m : MemberSt} {t : Nat} {pl : Place} {n : Nat} {q : PageReq} {r : State × Sense}
    (h : bookPage s m t pl n q = some r) : r.1.hmp = s.hmp := by
  obtain ⟨u, hu, rfl⟩ := Option.map_eq_some_iff.1 h
  exact (addRead_hmp ..).trans (bookSense_hmp hu)

theorem bookStage_hmp {s u : State} {st : Stage} {m : MemberSt} {t : Nat} {pl : Place} {cws dl start e : Nat} {q : PageReq}
    (h : bookStage s st m t pl cws dl start q = .booked u e) : u.hmp = s.hmp := by
  unfold bookStage at h
  dsimp only at h
  split at h
  · cases h
  next hb =>
    refine Eq.trans ?_ (bookSense_hmp hb)
    cases st with
    | retry k =>
      cases h
      exact addRead_hmp ..
    | soft =>
      dsimp only at h
      split at h <;> cases h
      exact addRead_hmp ..

theorem bookFirst_hmp {s : State} {m : MemberSt} {t : Nat} {pl : Place} {cws dl start : Nat} {q : PageReq} {l : List Stage}
    {r : Stage × State × Nat} (h : bookFirst s m t pl cws dl start q l = some r) : r.2.1.hmp = s.hmp := by
  induction l with
  | nil => cases h
  | cons st l ih =>
    unfold bookFirst at h
    split at h
    next hb =>
      cases h
      exact bookStage_hmp hb
    · exact ih h
    · cases h

theorem bookPassStage_hmp {s t : State} {fn : Nat} {m : MemberSt} {n : Nat} {pl : Place} {st : Bool × Nat} {q : PageReq}
    (h : bookPassStage s fn m n pl st q = some t) : t.hmp = s.hmp := by
  unfold bookPassStage at h
  replace h := (Option.ite_none_left_eq_some.1 h).2
  split at h
  next hb =>
    cases h
    exact (bookStage_hmp hb :)
  · cases h

theorem bookAround_hmp {s : State} {c : Cmd} {slot t : Nat} {th : ThatchSt} {pl : Place} {n : Nat} {prov : Bool}
    {req : Purpose → DestUnit × Nat → PageReq} {r : State × Nat × Nat} (h : bookAround s c slot t th pl n prov req = some r) :
    r.1.hmp = s.hmp := by
  unfold bookAround at h
  replace h := (Option.ite_none_left_eq_some.1 h).2
  dsimp only at h
  split at h
  · cases h
  next u last hf =>
    cases h
    refine of_foldl_some (P := fun r => r.1.hmp = s.hmp) hf ?_ fun o e ho r hr => ?_
    · rintro r ⟨⟩
      rfl
    · split at hr
      · exact ho r hr
      · split at hr
        · cases hr
        next v l =>
          split at hr
          next hb =>
            cases hr
            exact (bookPage_hmp hb).trans (ho _ rfl)
          · cases hr

/-! #### Commands, ladders and rebuilds that end -/

@[simp] theorem dropRebuild_hmp (s : State) (id : Nat) : (dropRebuild s id).hmp = s.hmp :=
  forEach_hmp _ _ _ fun _ _ => dropDesc_hmp ..

@[simp] theorem dropSlotWork_hmp (s : State) (c : Cmd) (slot? : Option Nat) : (dropSlotWork s c slot?).hmp = s.hmp :=
  (forEach_hmp _ _ _ fun _ _ => dropRebuild_hmp ..).trans (forEach_hmp _ _ _ fun _ _ => dropDesc_hmp ..)

@[simp] theorem pinSlot_hmp (nsid : Nat) (add : Nat → Nat) (x : SlotSt) (s : State) : (pinSlot nsid add x s).hmp = s.hmp := by
  unfold pinSlot
  split <;> split <;> rfl

@[simp] theorem sweepEaves_hmp (s : State) : (sweepEaves s).hmp = s.hmp := by
  unfold sweepEaves
  extract_lets gone
  split <;> rfl

@[simp] theorem trimLoft_hmp (s : State) : (trimLoft s).hmp = s.hmp := by
  unfold trimLoft
  split
  · rfl
  · exact forEach_hmp _ _ _ fun l u => by split <;> rfl

@[simp] theorem unbindEmpty_hmp (s : State) (nsid z : Nat) : (unbindEmpty s nsid z).hmp = s.hmp := by
  unfold unbindEmpty
  split
  · rfl
  · split
    · rfl
    · exact forEach_hmp _ _ _ fun m u => rfl

@[simp] theorem dropCmd_hmp (s : State) (c : Cmd) : (dropCmd s c).hmp = s.hmp := by
  unfold dropCmd
  extract_lets +onlyGivenNames released adm removed unpinned buf unbooked unbound
  have hreleased : released.hmp = s.hmp := by
    unfold released
    split
    · rfl
    · split <;> exact releaseBufs_hmp ..
  have hunpinned : unpinned.hmp = released.hmp := by
    unfold unpinned
    split
    · rw [trimLoft_hmp, sweepEaves_hmp, forEach_hmp _ _ _ fun x u => pinSlot_hmp ..]
    · rfl
  have hunbound : unbound.hmp = unpinned.hmp := by
    unfold unbound
    split
    · rfl
    · split
      · exact unbindEmpty_hmp ..
      · rfl
  have hall := hunbound.trans (hunpinned.trans hreleased)
  split
  · split <;> exact hall
  · exact hall

@[simp] theorem ioPost_hmp (s : State) (fn sqid cid : Nat) (st : NvmeStatus) (dw0 : Nat) (data : List Byte)
    (units : List (Option Nat)) (v : VerdictInfo) : (ioPost s fn sqid cid st dw0 data units v).hmp = s.hmp := by
  unfold ioPost
  extract_lets pins u
  exact postCompletion_hmp u ..

@[simp] theorem completeCmd_hmp (s : State) (c : Cmd) (st : NvmeStatus) (dw0 : Nat) (data : List Byte) (units : List (Option Nat)) :
    (completeCmd s c st dw0 data units).hmp = s.hmp := by
  unfold completeCmd
  simp only [ioPost_hmp, dropCmd_hmp, updMeter_hmp, updClass_hmp]

@[simp] theorem flushReady_hmp (n : Nat) (s : State) : (flushReady n s).hmp = s.hmp := by
  induction n generalizing s with
  | zero => rfl
  | succ n ih =>
    unfold flushReady
    split
    · exact (ih _).trans (completeCmd_hmp ..)
    · rfl

@[simp] theorem enterRecovery_hmp (s : State) (c : Cmd) (x : SlotSt) : (enterRecovery s c x).hmp = s.hmp := by
  unfold enterRecovery flagRefresh
  dsimp only
  (repeat' split) <;> rfl

@[simp] theorem failRead_hmp (s : State) (c : Cmd) : (failRead s c).hmp = s.hmp := by
  unfold failRead
  dsimp only
  split <;> simp

theorem lastRoute_hmp (s : State) (c : Cmd) (slot : Nat) (fallback : Option Nat) {g : State → State} (hg : ∀ s, (g s).hmp = s.hmp) :
    (lastRoute s c slot fallback g).hmp = s.hmp := by
  unfold lastRoute
  dsimp only
  split
  · split <;> rfl
  · split
    · exact hg s
    · split
      next hb =>
        split
        · refine Eq.trans ?_ (bookAround_hmp hb)
          split <;> rfl
        · exact hg s
      · exact hg s

theorem ladderStepWith_hmp {fail : State → Cmd → State} (hf : ∀ s c, (fail s c).hmp = s.hmp) (s : State) (c : Cmd) (slot : Nat)
    (l : Ladder) : (ladderStepWith fail s c slot l).hmp = s.hmp := by
  have hgive (l : Ladder) : (lastRoute (setLadder s l) c slot l.fallback (fail · c)).hmp = s.hmp := lastRoute_hmp _ _ _ _ fun s => hf s c
  have hrelease (u : State) (l : Ladder) : (releaseFallback u l).hmp = u.hmp := by
    unfold releaseFallback
    split <;> simp
  unfold ladderStepWith
  dsimp only
  split
  · exact hf s c
  · split
    · exact hf s c
    · split
      · exact hgive _
      next hfirst =>
        split
        · split
          next haround =>
            split
            · exact (hrelease ..).trans ((bookAround_hmp haround).trans (bookFirst_hmp hfirst))
            · exact hgive _
          · exact hgive _
        · split
          · exact bookFirst_hmp hfirst
          · exact hgive _

@[simp] theorem leaveJoined_hmp (s : State) (c : Cmd) : (leaveJoined s c).hmp = s.hmp := by
  have htake (s : State) (o : Cmd) (slot : Nat) (l : Ladder) : (takeLadder s o slot l).hmp = s.hmp := by
    unfold takeLadder
    split
    · rfl
    · exact ladderStepWith_hmp failRead_hmp ..
  refine (forEach_hmp _ _ _ fun j u => ?_).trans (dropSlotWork_hmp ..)
  split
  · exact htake ..
  · rfl

@[simp] theorem noRoute_hmp (s : State) (c : Cmd) : (noRoute s c).hmp = s.hmp := (failRead_hmp ..).trans (leaveJoined_hmp ..)

theorem rebookAround_hmp (s : State) (c : Cmd) (slot : Nat) : (rebookAround s c slot).hmp = s.hmp := by
  unfold rebookAround
  split
  · exact lastRoute_hmp _ _ _ _ fun _ => rfl
  · exact lastRoute_hmp _ _ _ _ fun _ => noRoute_hmp ..

theorem memberStep_hmp (s : State) (id pos shift cws : Nat) {g : State → Cmd → State} (hg : ∀ s c, (g s c).hmp = s.hmp) :
    (memberStep s id pos shift cws g).hmp = s.hmp := by
  unfold memberStep
  dsimp only
  split
  · rfl
  · split
    · exact dropRebuild_hmp ..
    · split
      · exact noRoute_hmp ..
      · split
        · exact noRoute_hmp ..
        · split
          · exact hg ..
          next hfirst =>
            split
            · exact bookFirst_hmp hfirst
            · exact hg ..

theorem memberLost_hmp (s : State) (d : Desc) (r : Rebuild) (pos : Nat) : (memberLost s d r pos).hmp = s.hmp := by
  unfold memberLost
  dsimp only
  split
  · exact dropRebuild_hmp ..
  · split
    · exact memberStep_hmp _ _ _ _ _ fun _ _ => rfl
    · split
      · rfl
      · split
        · rfl
        · split
          next hb =>
            split
            · exact bookPage_hmp hb
            · rfl
          · rfl

/-! #### Relocations and the dump -/

theorem relocUnreadable_hmp (s : State) (th : ThatchSt) (c pos pg : Nat) : (relocUnreadable s th c pos pg).hmp = s.hmp := by
  have hmark (s : State) (n u : Nat) : (markUnrec s n u).hmp = s.hmp := by
    unfold markUnrec
    split
    · rfl
    · split
      · rfl
      · split <;> rfl
  refine forEach_hmp _ _ _ fun off u => ?_
  simp [unreadablePage, noteUnrec, hmark]

theorem relocRebuild_hmp {s t : State} {src dst c pos pg : Nat} {failed : Bool} (h : relocRebuild s src dst c pos pg failed = some t) :
    t.hmp = s.hmp := by
  obtain ⟨u, hu, rfl⟩ := Option.map_eq_some_iff.1 (Option.ite_none_left_eq_some.1 h).2
  refine of_foldl_some (P := fun v => v.hmp = s.hmp) hu ?_ fun o e ho v hv => ?_
  · rintro v ⟨⟩
    rfl
  · split at hv
    · exact ho v hv
    · obtain ⟨w, hw, hv⟩ := Option.bind_eq_some_iff.1 hv
      obtain ⟨r, hr, rfl⟩ := Option.map_eq_some_iff.1 hv
      exact (bookPage_hmp hr).trans (ho w hw)

theorem nextRelocStage_hmp {s t : State} {d : Desc} {dst n : Nat} {p : Nat → Purpose} (h : nextRelocStage s d dst n p = some t) :
    t.hmp = s.hmp := by
  obtain ⟨_, _, h⟩ := Option.bind_eq_some_iff.1 (Option.ite_none_left_eq_some.1 h).2
  obtain ⟨_, _, h⟩ := Option.bind_eq_some_iff.1 h
  obtain ⟨_, _, h⟩ := Option.bind_eq_some_iff.1 h
  exact bookPassStage_hmp h

theorem relocPageFailed_hmp (s : State) (d : Desc) (dst n : Nat) (failed : Bool) : (relocPageFailed s d dst n failed).hmp = s.hmp := by
  unfold relocPageFailed
  dsimp only
  split
  · rfl
  next hstage _ =>
    exact nextRelocStage_hmp (Option.ite_none_right_eq_some.1 hstage).2
  · split
    · exact relocUnreadable_hmp ..
    · split
      next hr => exact relocRebuild_hmp hr
      · rfl

theorem relocMemberFailed_hmp (s : State) (r : Rebuild) (failed : Bool) : (relocMemberFailed s r failed).hmp = s.hmp := by
  unfold relocMemberFailed
  dsimp only
  split
  · exact (relocUnreadable_hmp ..).trans (dropRebuild_hmp ..)
  · exact dropRebuild_hmp ..

theorem dumpDieLost_hmp (s : State) (d : DieNo) : (dumpDieLost s d).hmp = s.hmp := by
  have hnext (s : State) (d : DieNo) : (dumpNext s d).hmp = s.hmp := by
    unfold dumpNext
    split
    · rfl
    · split
      · rfl
      · split <;> simp
  unfold dumpDieLost
  dsimp only
  split
  · rfl
  · exact hnext ..

@[simp] theorem workLost_hmp (s : State) (d : Desc) : (workLost s d).hmp = s.hmp := by
  unfold workLost
  split
  · split
    · exact rebookAround_hmp ..
    · rfl
  · split
    · split
      · exact relocMemberFailed_hmp ..
      · exact memberLost_hmp ..
    · rfl
  · exact relocPageFailed_hmp ..
  · rfl
  · split
    · exact dropMove_hmp ..
    · rfl
  · exact dumpDieLost_hmp ..
  · exact dropMove_hmp ..

@[simp] theorem flushChannel_hmp (s : State) (c : Nat) : (flushChannel s c).hmp = s.hmp :=
  forEach_hmp _ _ _ fun d u => by simp

@[simp] theorem startDrain_hmp (s : State) (c : Nat) : (startDrain s c).hmp = s.hmp := by
  unfold startDrain
  dsimp only
  split
  · rw [flushChannel_hmp, updChan_hmp]
    split
    · exact channelEvent_hmp ..
    · rfl
  · rfl

end Sys2Proof.Machine

namespace Sys2Proof.Machine

/-! ### Package temperatures and the write window (R150, R332) -/

theorem exec_packageTempPoll (rs : List (Nat × Option Int)) (s : State) :
    exec (.packageTempPoll rs) s = execPackageTempPoll rs s := rfl

theorem exec_packageTempPoll_ignored {s : State} (h : (∃ t, s.fl.window.lastPoll = some t ∧ now s < t + 100000) ∨ s.eav.powerLoss = true ∨
    s.boot.phase = 6) (rs : List (Nat × Option Int)) : exec (.packageTempPoll rs) s = .next s := by
  rw [exec_packageTempPoll, execPackageTempPoll]
  refine congrArg _ (if_pos ?_)
  rcases h with ⟨t, ht, hlt⟩ | h | h
  · simp [ht, hlt]
  · simp [h]
  · simp [h]

theorem exec_packageTempPoll_due {s : State} (hd : ∀ t, s.fl.window.lastPoll = some t → t + 100000 ≤ now s) (hp : s.eav.powerLoss = false)
    (hb : s.boot.phase ≠ 6) (rs : List (Nat × Option Int)) :
    let sent := forEach (polledPkgs s) (fun k t => runControl t k.1 (16 * k.2) 0x45) s
    let read := forEach (polledPkgs sent) (fun k t => readPkg k ((tblFind? (16 * k.1 + k.2) rs).getD none) t) sent
    let recent := read.fl.window.trace.filter fun e => decide ((now read : Int) ≤ e.2.2 + 10000000)
    let polled : State := { read with fl := { read.fl with window := { read.fl.window with trace := recent, lastPoll := some (now read) } } }
    exec (.packageTempPoll rs) s = .next (warmProgress (updateWarm (judgeWindow polled))) := by
  rw [exec_packageTempPoll, execPackageTempPoll]
  refine congrArg _ (if_neg ?_)
  cases hl : s.fl.window.lastPoll with
  | none => simp [hp, hb]
  | some t => simp [hp, hb, hd t hl]

@[simp] theorem pkg_updPkg_self (s : State) (k : Nat × Nat) (f : PkgSt → PkgSt) : pkg (updPkg s k f) k = f (pkg s k) :=
  tblGet_tblUpd_self ..

theorem readPkg_some (s : State) (k : Nat × Nat) (t : Int) :
    (pkg (readPkg k (some t) s) k).temp = some t ∧ (pkg (readPkg k (some t) s) k).fails = 0 := by
  have hread := pkg_updPkg_self s k fun p => { p with temp := some t, fails := 0 }
  exact ⟨congrArg PkgSt.temp hread, congrArg PkgSt.fails hread⟩

/-- A reading that fails counts; the second in a row raises source 306. -/
theorem readPkg_none (s : State) (k : Nat × Nat) :
    let counted := updPkg s k fun p => { p with fails := p.fails + 1 }
    (pkg counted k).fails = (pkg s k).fails + 1 ∧ readPkg k none s =
      if (pkg counted k).fails = 2 then raiseFault counted 306 (capOf 4 4 (128 * k.1 + 16 * k.2) 0 (chIsland k.1)) else counted :=
  ⟨congrArg PkgSt.fails (pkg_updPkg_self s k _), rfl⟩

/-- The state with the count of polls in range, and the window. -/
def windowJudged (s : State) (n : Nat) (isOpen : Bool) : State :=
  { s with fl := { s.fl with window := { s.fl.window with inRange := n, isOpen := isOpen } } }

/-- The payload of event 0x0041 as log entry 23 codes it. -/
def windowNote (s : State) (isOpen : Nat) : List Byte :=
  leBytes 1 isOpen ++ leBytes 1 (twos 8 (minInt 127 (pollTemps s))) ++ leBytes 1 (twos 8 (maxInt (-128) (pollTemps s)))

theorem setWindow_same {s : State} {isOpen : Bool} (h : s.fl.window.isOpen = isOpen) : setWindow s isOpen = s := by
  simp [setWindow, h]

theorem judgeWindow_outside {s : State} (h : ∃ t ∈ pollTemps s, t < 0 ∨ 85 < t) :
    judgeWindow s = setWindow (windowJudged s 0 s.fl.window.isOpen) false := by
  refine if_pos (List.any_eq_true.2 ?_)
  simpa using h

theorem judgeWindow_inRange {s : State} (hne : pollTemps s ≠ []) (h : ∀ t ∈ pollTemps s, 2 ≤ t ∧ t ≤ 83) :
    let counted := windowJudged s (s.fl.window.inRange + 1) s.fl.window.isOpen
    judgeWindow s = if 2 ≤ s.fl.window.inRange + 1 then setWindow counted true else counted := by
  have hin : ¬((pollTemps s).any fun t => decide (t < 0) || decide (85 < t)) = true := by
    rw [List.any_eq_true]
    rintro ⟨t, ht, hout⟩
    obtain ⟨hlo, hhi⟩ := h t ht
    simp only [Bool.or_eq_true, decide_eq_true_eq] at hout
    omega
  have hall : (!(pollTemps s).isEmpty && (pollTemps s).all fun t => decide (2 ≤ t) && decide (t ≤ 83)) = true := by
    simpa [hne] using h
  exact (if_neg hin).trans (if_pos hall)

theorem judgeWindow_judges (s : State) :
    ((∃ t ∈ pollTemps s, t < 0 ∨ 85 < t) →
      (s.fl.window.isOpen = true → judgeWindow s = recordEvent (windowJudged s 0 false) 0x0041 1 0 2 (windowNote s 0)) ∧
      (s.fl.window.isOpen = false → judgeWindow s = windowJudged s 0 false)) ∧
    (pollTemps s ≠ [] → (∀ t ∈ pollTemps s, 2 ≤ t ∧ t ≤ 83) →
      (s.fl.window.inRange = 0 → judgeWindow s = windowJudged s 1 s.fl.window.isOpen) ∧
      (1 ≤ s.fl.window.inRange → s.fl.window.isOpen = true → judgeWindow s = windowJudged s (s.fl.window.inRange + 1) true) ∧
      (1 ≤ s.fl.window.inRange → s.fl.window.isOpen = false → judgeWindow s =
        reevaluateAll (recordEvent (windowJudged s (s.fl.window.inRange + 1) true) 0x0041 1 0 2 (windowNote s 1)))) := by
  refine ⟨fun hout => ⟨fun ho => ?_, fun hc => ?_⟩, fun hne hin => ⟨fun h0 => ?_, fun h1 ho => ?_, fun h1 hc => ?_⟩⟩
  · rw [judgeWindow_outside hout, ho]
    rfl
  · rw [judgeWindow_outside hout, hc]
    exact setWindow_same rfl
  · rw [judgeWindow_inRange hne hin, h0]
    rfl
  · rw [judgeWindow_inRange hne hin, if_pos (Nat.succ_le_succ h1), ho]
    exact setWindow_same rfl
  · rw [judgeWindow_inRange hne hin, if_pos (Nat.succ_le_succ h1), hc]
    rfl

/-! ### Recalibration (R154, R155, R420) -/

theorem exec_packageRecalibration_ignored {s : State} {c p : Nat} (h : mgmtDown s = true ∨ chRunning s c = false ∨ s.eav.powerLoss = true ∨
    recalRuns s (c, p) = true ∨ recalDue s (c, p) = false) : exec (.packageRecalibration c p) s = .next s := by
  refine congrArg _ (if_pos ?_)
  simpa [or_assoc] using h

theorem exec_packageRecalibration_due {s : State} {c p : Nat} (hm : mgmtDown s = false) (hc : chRunning s c = true)
    (hp : s.eav.powerLoss = false) (hr : recalRuns s (c, p) = false) (hd : recalDue s (c, p) = true) :
    exec (.packageRecalibration c p) s = .next (if recalFree s (c, p) && recalFits s (c, p) && recalClears s (c, p) then
      startRecal s (c, p) else recalBlocked s (c, p)) := by
  refine congrArg _ (if_neg ?_)
  simp [hm, hc, hp, hr, hd]

theorem exec_packageRecalDone_ignored {s : State} {c p : Nat} (h : recalRuns s (c, p) = false ∨
    ∃ x ∈ s.fl.descs, descDie x ∈ pkgDies s.prof (c, p)) (ok : Bool) : exec (.packageRecalDone c p ok) s = .next s := by
  refine congrArg _ (if_pos ?_)
  rcases h with h | ⟨x, hx, hd⟩
  · simp [h]
  · simp only [Bool.or_eq_true, List.any_eq_true, beq_iff_eq]
    exact .inr ⟨_, hd, x, hx, rfl⟩

theorem exec_packageRecalDone_idle {s : State} {c p : Nat} (hr : recalRuns s (c, p) = true)
    (hd : ∀ x ∈ s.fl.descs, descDie x ∉ pkgDies s.prof (c, p)) (ok : Bool) :
    let stepped := forEach [0, 1, 2] (fun _ t => runControl t c (16 * p) 0x43) s
    exec (.packageRecalDone c p ok) s = .next (recalAdvance (forEach (pkgDies (trained stepped (c, p) ok).prof (c, p)) (recalReturn ok)
      (trained stepped (c, p) ok)) (c, p)) := by
  refine congrArg _ (if_neg ?_)
  simp only [hr, Bool.not_true, Bool.false_or, List.any_eq_true, beq_iff_eq]
  rintro ⟨d, hdp, x, hx, rfl⟩
  exact hd x hx hdp

theorem trained_pkg (s : State) (k : Nat × Nat) (ok : Bool) :
    (pkg (trained s k ok) k).out = !ok ∧ (pkg (trained s k ok) k).recalAt = none ∧ (pkg (trained s k ok) k).trainAt = now s := by
  simp [trained]

/-- A die whose package's recalibration has ended is not calibrating, and no calibration is booked on it. -/
theorem recalReturn_effect (s : State) (d : DieNo) (ok : Bool) : (die (recalReturn ok d s) d).calibrating = false ∧
    ∀ e ∈ (recalReturn ok d s).fl.calendar, e.die = d → e.kind ≠ .calibration := by
  have hfl : (recalReturn ok d s).fl = (updDie { s with fl := { s.fl with
      calendar := s.fl.calendar.filter fun e => !(e.die == d && e.kind == .calibration) } } d fun x =>
        { x with calibrating := false, causeOut := if ok && x.causeOut == some 7 then none else x.causeOut }).fl := by
    unfold recalReturn
    dsimp only
    split
    · rfl
    · exact recordEvent_fl ..
  simp only [die, hfl]
  refine ⟨by simp [updDie], fun e he hd hk => ?_⟩
  have := (List.mem_filter.1 he).2
  simp [hd, hk] at this

theorem sumNat_eq_sum (l : List Nat) : sumNat l = l.sum := by
  rw [sumNat, List.sum_eq_foldl]

/-- A mask of packages is 0 just where it names none. -/
theorem packageMask_eq_zero_iff {l : List Nat} : sumNat (l.map (2 ^ ·)) = 0 ↔ l = [] := by
  rw [sumNat_eq_sum]
  cases l <;> simp

theorem mem_channelPkgs_lt {p : Profile} {c k : Nat} (h : k ∈ channelPkgs p c) : k < 8 :=
  List.mem_range.1 (List.mem_filter.1 h).1

section ChannelRecalibrate

variable {s : State} {q : HmpHdr} {c p : Nat} (h : HmpServed s q ruleRecalibrate)
include h

theorem channelRecalibrate_refused :
    (32 ≤ c → HmpAnswers (exec (.channelRecalibrate q c p) s) s s q 0x0401 0x0014 0 []) ∧
    (c < 32 → 8 ≤ p → p ≠ 0xFF → HmpAnswers (exec (.channelRecalibrate q c p) s) s s q 0x0401 0x0014 1 []) ∧
    (c < 32 → p < 8 → p ∉ channelPkgs s.prof c → HmpAnswers (exec (.channelRecalibrate q c p) s) s s q 0x0401 0x001B 1 []) := by
  refine ⟨fun hc => h.answers (if_pos hc), fun hc h8 hp => h.answers ?_, fun hc h8 hp => h.answers ?_⟩
  · rw [if_neg (Nat.not_le.2 hc), if_pos (by simp [hp, h8])]
  · rw [if_neg (Nat.not_le.2 hc), if_neg (by simp [h8]), if_pos (by simp [hp]; omega)]

/-- A Channel Recalibrate whose operands name packages: refused while another load or recalibration runs, else started. -/
theorem exec_channelRecalibrate_named (hc : c < 32) (hp : p = 0xFF ∨ p ∈ channelPkgs s.prof c) :
    let mask := sumNat ((if p = 0xFF then channelPkgs s.prof c else [p]).map (2 ^ ·))
    exec (.channelRecalibrate q c p) s = .next
      (if s.chg.ucLoad.isSome then answer s q 0x0401 hsConflict 3 []
       else if s.chg.recal.isSome then answer s q 0x0401 hsConflict 3 []
       else if mask = 0 then answer s q 0x0401 hsUnknown 0 []
       else startLong s q 0x0401 fun s h => { s with chg := { s.chg with recal := some (q.sender, h, c, mask, now s) } }) := by
  refine h.next ?_
  rw [if_neg (Nat.not_le.2 hc)]
  rcases hp with rfl | hp
  · rfl
  · rw [if_neg (by simp [mem_channelPkgs_lt hp]), if_neg (by simp [hp])]

theorem channelRecalibrate_named (hc : c < 32) (hp : p = 0xFF ∨ p ∈ channelPkgs s.prof c) :
    let go := exec (.channelRecalibrate q c p) s
    let named := if p = 0xFF then channelPkgs s.prof c else [p]
    (s.chg.ucLoad.isSome = true ∨ s.chg.recal.isSome = true → HmpAnswers go s s q 0x0401 0x0021 3 []) ∧
      (s.chg.ucLoad = none → s.chg.recal = none →
        (named = [] → HmpAnswers go s s q 0x0401 0x001B 0 []) ∧
        (named ≠ [] → liveHandles s q.sender < 64 → HmpStarts go s q 0x0401 fun s h => { s with chg := { s.chg with
          recal := some (q.sender, h, c, sumNat (named.map (2 ^ ·)), now s) } })) := by
  intro go named
  have hgo := exec_channelRecalibrate_named h hc hp
  refine ⟨fun hbusy => answer_answers (hgo.trans ?_) h.2 rfl, fun hu hr => ⟨fun hn => answer_answers (hgo.trans ?_) h.2 rfl,
    fun hn hl => startLong_starts (hgo.trans ?_) hl h.2 rfl⟩⟩
  · rcases hbusy with hu | hr
    · rw [if_pos hu]
    · rw [if_pos hr, ite_self]
  · rw [hu, hr, if_pos (packageMask_eq_zero_iff.2 hn)]
    rfl
  · rw [hu, hr, if_neg (mt packageMask_eq_zero_iff.1 hn)]
    rfl

end ChannelRecalibrate

/-! ### Channel microcode (R418, R419, Table 20.4) -/

section Turns

variable {s : State} {half c : Nat} {rest : List Nat} {l : Sender × Nat × Nat × Nat}
  (hl : s.chg.ucLoad = some l) (hm : maskChannels l.2.2.2 half = c :: rest)
include hl hm

theorem nextTurn_conflict {r : Nat} (h : turnConflict s c = some r) : nextTurn s half = endLoad s hsConflict r := by
  simp only [nextTurn, hl, hm, h]

theorem nextTurn_begins (h : turnConflict s c = none) : nextTurn s half =
    startDrain (if half = 0 then { s with chg := { s.chg with ucTurnLow := some c } }
      else { s with chg := { s.chg with ucTurnHigh := some c } }) c := by
  simp only [nextTurn, hl, hm, h]

end Turns

/-- A turn that begins or ends leaves the requests and their answers as they are. -/
theorem nextTurn_hmp (s : State) (half : Nat) :
    (nextTurn s half).hmp.requests = s.hmp.requests ∧ (nextTurn s half).hmp.answers = s.hmp.answers := by
  unfold nextTurn
  split
  · exact ⟨rfl, rfl⟩
  next x h m left hl =>
    split
    · split <;> exact ⟨rfl, rfl⟩
    · split
      · simp only [endLoad, hl]
        exact ⟨rfl, rfl⟩
      · rw [startDrain_hmp]
        split <;> exact ⟨rfl, rfl⟩

theorem discarded_congr {s t : State} (h : t.hmp.requests = s.hmp.requests) (q : HmpHdr) : discarded t q = discarded s q := by
  simp only [discarded, findReq, h]

section MicrocodeLoad

variable {s : State} {q : HmpHdr} {mask : Nat} (h : HmpServed s q ruleMicrocode)
include h

theorem channelMicrocodeLoad_outOfRange (hm : mask = 0 ∨ 2 ^ 32 ≤ mask) :
    HmpAnswers (exec (.channelMicrocodeLoad q mask) s) s s q 0x0402 0x0014 0 [] := by
  refine h.answers (if_pos ?_)
  simpa [or_comm] using hm

theorem channelMicrocodeLoad_unknown (h0 : 0 < mask) (h32 : mask < 2 ^ 32)
    (hd : ∃ c, c < 32 ∧ mask.testBit c = true ∧ diesPerCh s.prof (c / 16) = 0) :
    HmpAnswers (exec (.channelMicrocodeLoad q mask) s) s s q 0x0402 0x001B 0 [] := by
  obtain ⟨c, hc, hb, hd⟩ := hd
  refine h.answers ((if_neg ?_).trans (if_pos ?_))
  · simp only [Bool.or_eq_true, decide_eq_true_eq]
    omega
  · exact List.any_eq_true.2 ⟨c, List.mem_filter.2 ⟨List.mem_range.2 hc, hb⟩, beq_iff_eq.2 hd⟩

/-- A load whose channels are populated: failed at its start while another load or recalibration runs, else started in both halves. -/
theorem exec_channelMicrocodeLoad_populated (h0 : 0 < mask) (h32 : mask < 2 ^ 32)
    (hd : ∀ c, c < 32 → mask.testBit c = true → diesPerCh s.prof (c / 16) ≠ 0) : exec (.channelMicrocodeLoad q mask) s = .next
      (if s.chg.ucLoad.isSome || s.chg.recal.isSome then startFailed s q 0x0402 hsConflict 3
       else startLong s q 0x0402 fun s h =>
         nextTurn (nextTurn { s with chg := { s.chg with ucLoad := some (q.sender, h, mask, mask) } } 0) 1) := by
  refine h.next ((if_neg ?_).trans (if_neg ?_))
  · simp only [Bool.or_eq_true, decide_eq_true_eq]
    omega
  · rw [List.any_eq_true]
    rintro ⟨c, hc, hnone⟩
    obtain ⟨hc, hb⟩ := List.mem_filter.1 hc
    exact hd c (List.mem_range.1 hc) hb (beq_iff_eq.1 hnone)

theorem channelMicrocodeLoad_starts (h0 : 0 < mask) (h32 : mask < 2 ^ 32)
    (hd : ∀ c, c < 32 → mask.testBit c = true → diesPerCh s.prof (c / 16) ≠ 0) (hu : s.chg.ucLoad = none) (hr : s.chg.recal = none)
    (hl : liveHandles s q.sender < 64) : HmpStarts (exec (.channelMicrocodeLoad q mask) s) s q 0x0402 fun s h =>
      nextTurn (nextTurn { s with chg := { s.chg with ucLoad := some (q.sender, h, mask, mask) } } 0) 1 := by
  refine startLong_starts ?_ hl ((discarded_congr (s := s) ?_ q).trans h.2) ?_
  · rw [exec_channelMicrocodeLoad_populated h h0 h32 hd, hu, hr]
    rfl
  · exact (nextTurn_hmp ..).1.trans (nextTurn_hmp ..).1
  · exact (nextTurn_hmp ..).2.trans (nextTurn_hmp ..).2

end MicrocodeLoad

section MicrocodeTurn

variable {s : State} {c : Nat}

theorem exec_channelMicrocodeTurn_ignored (h : (s.chg.ucTurnLow ≠ some c ∧ s.chg.ucTurnHigh ≠ some c) ∨ channelBusy s c = true ∨
    mgmtDown s = true) (ok : Bool) (ps : List PkgAnswer) : exec (.channelMicrocodeTurn c ok ps) s = .next s := by
  refine congrArg _ (if_pos ?_)
  rcases h with ⟨hlow, hhigh⟩ | h | h
  · simp [hlow, hhigh]
  · simp [h]
  · simp [h]

/-- The turn of a channel on which nothing runs: by its microcode's verification. -/
theorem exec_channelMicrocodeTurn_idle (ht : s.chg.ucTurnLow = some c ∨ s.chg.ucTurnHigh = some c) (hb : channelBusy s c = false)
    (hm : mgmtDown s = false) (ps : List PkgAnswer) :
    let idle := flushChannel s c
    exec (.channelMicrocodeTurn c false ps) s = .next (endLoad (channelReturns idle c) 0x0023 0) ∧
    let brought := forEach (channelPkgs idle.prof c) (bringPkg c ps) idle
    let dies := (channelPkgs brought.prof c).flatMap fun k => pkgDies brought.prof (c, k)
    let out := forEach dies (fun d t =>
      if (pkg t (diePkg d)).out && !(die t d).retired && (die t d).causeOut.isNone then dieAbsent t d 7 else t) brought
    exec (.channelMicrocodeTurn c true ps) s = .next (turnDone (channelReturns (useMicrocode (updChan out c fun x =>
      { x with microcode := microcodeVersion out, volumes := channelPkgs out.prof c, nvDdr3 := true })) c) c) := by
  have hgo : ¬(!(s.chg.ucTurnLow == some c || s.chg.ucTurnHigh == some c) || channelBusy s c || mgmtDown s) = true := by
    rcases ht with ht | ht <;> simp [ht, hb, hm]
  exact ⟨congrArg _ (if_neg hgo), congrArg _ (if_neg hgo)⟩

end MicrocodeTurn

/-- Settles O42: a poll, the window and a recalibration by the tests of R150 and R155, a load and its turns by those of R418 and R419. -/
theorem packagesAndMicrocode : Obligations.PackagesAndMicrocode := by
  refine ⟨⟨fun s rs => ⟨fun h => exec_packageTempPoll_ignored ?_ rs, fun hd hp hb => ?_⟩,
      fun s k => ⟨readPkg_some s k, fun h1 => ?_, fun h1 => ?_⟩,
      judgeWindow_judges,
      fun s c p => ⟨exec_packageRecalibration_ignored,
        fun hm hc hp hr hd => ⟨fun hfree hfits hclears => ?_, fun hblocked => ?_⟩,
        fun ok h => exec_packageRecalDone_ignored h ok, fun ok hr hd => exec_packageRecalDone_idle hr hd ok⟩,
      trained_pkg, recalReturn_effect,
      fun s q c p h => ?_⟩,
    fun s q mask h => ⟨channelMicrocodeLoad_outOfRange h, channelMicrocodeLoad_unknown h,
      fun h0 h32 hd => ⟨fun hbusy => ?_, channelMicrocodeLoad_starts h h0 h32 hd⟩⟩,
    fun s half c rest l hl hm => ⟨fun r => nextTurn_conflict hl hm, nextTurn_begins hl hm⟩,
    fun s c ps => ⟨fun hlow hhigh ok => exec_channelMicrocodeTurn_ignored (.inl ⟨hlow, hhigh⟩) ok ps,
      fun h ok => exec_channelMicrocodeTurn_ignored (.inr h) ok ps,
      fun ht hb hm => exec_channelMicrocodeTurn_idle ht hb hm ps⟩⟩
  · simpa using h
  · simpa only using exec_packageTempPoll_due hd hp hb rs
  · obtain ⟨hcounted, hread⟩ := readPkg_none s k
    rw [h1] at hcounted
    exact ⟨_, hread.trans (if_pos hcounted), hcounted⟩
  · obtain ⟨hcounted, hread⟩ := readPkg_none s k
    rw [hread, if_neg (by omega)]
    exact hcounted
  · rw [exec_packageRecalibration_due hm hc hp hr hd, hfree, hfits, hclears]
    rfl
  · rw [exec_packageRecalibration_due hm hc hp hr hd, if_neg]
    rcases hblocked with h | h | h <;> simp [h]
  · obtain ⟨hchannel, hpackage, hunknown⟩ := channelRecalibrate_refused h (c := c) (p := p)
    exact ⟨hchannel, hpackage, hunknown, channelRecalibrate_named h⟩
  · rw [exec_channelMicrocodeLoad_populated h h0 h32 hd, if_pos (by simpa using hbusy)]

end Sys2Proof.Machine

namespace Sys2Proof.Machine

/-! ### A location tag that is not the one expected, in a soft stage (R161) -/

/-- What a wrong tag in a soft stage leaves: its source raised, the hits of its block, and the stage taken from the decoders. -/
def tagRefused (s : State) (ch : Nat) (w : SoftWait) : State :=
  let wrong := addHits (chFault s ch 4 w.desc 2) (descDie w.desc) w.desc.block s.prof.refreshHits
  dropHard { wrong with fl := { wrong.fl with softWaits := wrong.fl.softWaits.erase w } } w.desc.purpose

theorem exec_softDecodeResult_running {s : State} (h : isRunning s 8 = true) (ch tag : Nat) (out : SoftOutcome) :
    exec (.softDecodeResult ch tag out) s = .next (softAnswer s ch tag out) :=
  congrArg _ (if_pos h)

/-- The ladder goes on for the command as the source has left it, not as the decoders found it. -/
theorem softAnswer_tagMiss {s : State} {ch tag f q i slot : Nat} {w : SoftWait} {found : List FoundTag} {c : Cmd} {l : Ladder}
    (hw : (s.fl.softWaits.find? fun e => e.desc.ch == ch && e.desc.seqTag == tag) = some w)
    (hp : w.desc.purpose = .hostRead f q i slot) (hbad : tagMisses s w.desc found ≠ 0)
    (hc : cmdOf (tagRefused s ch w) f q i = some c) (hl : ladderOf (tagRefused s ch w) c slot = some l) :
    softAnswer s ch tag (.decoded found) = ladderStep (tagRefused s ch w) c slot { l with cws := tagMisses s w.desc found } := by
  have hok : (tagMisses s w.desc found == 0) = false := beq_eq_false_iff_ne.2 hbad
  simp only [tagRefused, hp] at hc hl ⊢
  simp only [softAnswer, hw, softBad, hok, hp, hc, hl, Bool.false_eq_true, if_false]

/-! ### A descriptor of channel 34

The part has 32 channels, and Table 14.1 gives the tag source of each, 8c + 4, an interruption bound of 0: it affects no command.
The model computes 276 for channel 34, a source of the soft decoders with a bound of 250 µs, so the Read gets the allowance (R105). -/

/-- A Read of the PF in service on namespace 1, past its deadline at 0 µs and without the allowance. -/
def pastRead : Cmd :=
  let h : IoHdr := ⟨0, 1, 9, 1, 0, 0⟩
  { newCmd State.reset h (.read h 0 1) false 0 0 1 0 none with
    cls := 0, dl := 0, accepted := true, slots := [⟨0, 1, .direct 0, false, false, none, [], 0⟩] }

/-- The ladder on slot 0 of `pastRead`, for codeword 0. -/
def pastLadder : Ladder :=
  { fn := 0, sqid := 1, cid := 9, page := 0, die := 0, block := 0, shift := 0, cws := 1, softDone := true, nextEnd := 0, retries := [],
    fallback := none, fbEnd := 0 }

/-- A soft stage of `pastRead` under tag 0 of channel 34. -/
def strayWait : SoftWait := ⟨{ descDefault with ch := 34, purpose := .hostRead 0 1 9 0 }, 1⟩

/-- Every island runs at 1 µs; `pastRead` has a ladder and a soft stage, and no thatch holds its page. -/
def strayState : State :=
  { State.reset with
    tm := { tmReset with devTime := 1 }
    isl := { islReset with islands := List.replicate 42 ⟨.running, none, false, false, false⟩ }
    zns := { znsReset with namespaces := [⟨1, false, 1024, 0, .none, false, [], [0]⟩] }
    adm := { admReset with cmds := [pastRead] }
    fl := { flReset with softWaits := [strayWait], ladders := [pastLadder] } }

/-- Codeword 0 as it was written for namespace 2. -/
def strayTag : FoundTag := ⟨0, 2, 0, 0⟩

/-- Commands of the PF in class 0 that have ended under the allowance (R106). -/
def underAllowance (s : State) : Nat := (tblGet classDefault (0, 0) s.tel.classCtr).allowance

theorem tagMisses_strayTag : tagMisses strayState strayWait.desc [strayTag] = 1 := by decide +kernel

/-- Source 276 has given the Read the allowance. -/
theorem cmdOf_tagRefused_stray : cmdOf (tagRefused strayState 34 strayWait) 0 1 9 = some { pastRead with allowance := true } := by
  decide +kernel

theorem ladderOf_tagRefused_stray :
    ladderOf (tagRefused strayState 34 strayWait) { pastRead with allowance := true } 0 = some pastLadder := by
  decide +kernel

/-- With no place left the Read ends with 0xC6, counted under the allowance when it has one. -/
theorem underAllowance_ladderStep_stray (b : Bool) :
    underAllowance (ladderStep (tagRefused strayState 34 strayWait) { pastRead with allowance := b } 0 pastLadder) = b.toNat := by
  cases b <;> decide +kernel

theorem exec_softDecodeResult_stray : exec (.softDecodeResult 34 0 (.decoded [strayTag])) strayState =
    .next (ladderStep (tagRefused strayState 34 strayWait) { pastRead with allowance := true } 0 pastLadder) := by
  have hbad : tagMisses strayState strayWait.desc [strayTag] ≠ 0 := by simp [tagMisses_strayTag]
  rw [exec_softDecodeResult_running rfl,
    softAnswer_tagMiss rfl rfl hbad cmdOf_tagRefused_stray ladderOf_tagRefused_stray, tagMisses_strayTag]
  rfl

/-- Refutes O35: a codeword with another location tag under a descriptor of channel 34 gives the Read the allowance, and its ladder goes
on for the Read as it then is; the statement, which bounds no channel number, has it go on for the Read without the allowance. -/
theorem not_softDecodeAndHits : ¬ Obligations.SoftDecodeAndHits := by
  rintro ⟨-, hanswer, -⟩
  obtain ⟨hread, -⟩ := hanswer strayState 34 0 strayWait rfl rfl
  obtain ⟨-, hladder⟩ := hread 0 1 9 0 pastRead rfl rfl
  obtain ⟨-, -, hmiss⟩ := hladder pastLadder rfl
  have hstep : exec (.softDecodeResult 34 0 (.decoded [strayTag])) strayState =
      .next (ladderStep (tagRefused strayState 34 strayWait) pastRead 0
        { pastLadder with cws := tagMisses strayState strayWait.desc [strayTag] }) := hmiss [strayTag] (by simp [tagMisses_strayTag])
  rw [exec_softDecodeResult_stray, tagMisses_strayTag] at hstep
  have hcount : true.toNat = false.toNat := calc
    true.toNat = _ := (underAllowance_ladderStep_stray true).symm
    _ = underAllowance (ladderStep (tagRefused strayState 34 strayWait) pastRead 0 pastLadder) :=
      congrArg underAllowance (Host.Outcome.next.inj hstep)
    _ = false.toNat := underAllowance_ladderStep_stray false
  exact absurd hcount (by decide)

end Sys2Proof.Machine

namespace Sys2Proof.Machine

/-! ### The gate of the admin commands (R208, R214, R393) -/

/-- Every command of `adminOf` is a body behind the gate of `adminServe`. -/
theorem exec_adminOf {i : Instr} {a : AdmHdr} {p r : Bool} (h : adminOf i = some (a, p, r)) :
    ∃ body, ∀ s, exec i s = .next (adminServe s a p r body) := by
  unfold adminOf at h
  split at h <;> cases h <;> exact ⟨_, fun _ => rfl⟩

section AdminGate

variable {s : State} {a : AdmHdr} (p r : Bool) (g : State → State)

theorem adminServe_waits (h : adminFetch s a.fn = false ∨ mgmtDown s = true) : adminServe s a p r g = s := by
  rcases h with h | h <;> simp [adminServe, h]

theorem adminServe_restricted (hf : adminFetch s a.fn = true) (hm : mgmtDown s = false) (h7 : s.boot.phase = 7) :
    adminServe s a p false g = adminDone s a .commandSequenceError 0 [] := by
  simp [adminServe, hf, hm, h7]

theorem adminServe_reserved (hf : adminFetch s a.fn = true) (hm : mgmtDown s = false) (h7 : s.boot.phase ≠ 7) (ha : a.fn ≠ 0) :
    adminServe s a true r g = adminDone s a .invalidOpcode 0 [] := by
  simp [adminServe, hf, hm, h7, ha]

end AdminGate

/-- Settles O7: the command waits, or completes with the first objection of `adminServe`, whatever its body. -/
theorem adminGate : Obligations.AdminGate := by
  intro i a p r s hi
  obtain ⟨body, hbody⟩ := exec_adminOf hi
  rw [hbody]
  refine ⟨fun h => congrArg _ (adminServe_waits p r body h), fun hf hm hroom => ⟨fun h7 hr => ?_, fun h7 hp ha => ?_⟩⟩
  · subst hr
    exact adminDone_completes (congrArg _ (adminServe_restricted p body hf hm h7)) rfl hroom
  · subst hp
    exact adminDone_completes (congrArg _ (adminServe_reserved r body hf hm h7 ha)) rfl hroom

/-! ### The gate of the mailbox requests (R244, R245, R253, R394) -/

/-- Every command of `hmpOf` is a body behind the gate of `hmpServe`. -/
theorem exec_hmpOf {i : Instr} {q : HmpHdr} {r : HmpRule} (h : hmpOf i = some (q, r)) :
    ∃ body, ∀ s, exec i s = .next (hmpServe s q r body) := by
  unfold hmpOf at h
  split at h <;> cases h <;> exact ⟨_, fun _ => rfl⟩

/-- The gate's first objection, in the order of log entry 24: rights, crypto fused off, PHASE, LENGTH. -/
theorem hmpGate_notPermitted {s : State} {q : HmpHdr} {r : HmpRule} (h : permitted (reqOf s q r.op).rights r.who q.sender = false) :
    hmpGate s q r = some (hsNotPermitted, 0) := by simp [hmpGate, h]

section HmpGate

variable {s : State} {q : HmpHdr} {r : HmpRule} (hp : permitted (reqOf s q r.op).rights r.who q.sender = true)

include hp

theorem hmpGate_cryptoFused (hr : r.crypto = true) (hs : s.sec.cryptoDisable = true) : hmpGate s q r = some (hsCryptoFused, 0) := by
  simp [hmpGate, hp, hr, hs]

theorem hmpGate_notReady (hc : (r.crypto && s.sec.cryptoDisable) = false) (he : r.early = false) (h5 : s.boot.phase < 5) :
    hmpGate s q r = some (hsNotReady, s.boot.phase) := by
  simp only [hmpGate, hp, hc, he]
  simp [h5]

theorem hmpGate_invalidLength (hc : (r.crypto && s.sec.cryptoDisable) = false) (h5 : s.boot.phase = 5) {n : Nat} (hn : r.len = some n)
    (hq : q.length ≠ n) : hmpGate s q r = some (hsInvalidLength, n) := by
  simp only [hmpGate, hp, hc, hn]
  simp [h5, hq]

end HmpGate

section HmpServe

variable {s : State} {q : HmpHdr} {r : HmpRule} (hform : (s.boot.phase == 7 && s.boot.formB) = false) (g : State → State)

include hform

theorem hmpServe_waits (h : hmpStopped s = true ∨ outOfTurn s q r.op = true ∨ behindOther s q r.op = true ∨ awaitsRidge s r.op = true) :
    hmpServe s q r g = s := by
  rcases h with h | h | h | h <;> simp [hmpServe, hform, h]

/-- Outside form B, a request whose turn has come is answered with the gate's objection. -/
theorem hmpServe_objection (hs : hmpStopped s = false) (ht : outOfTurn s q r.op = false) (hb : behindOther s q r.op = false)
    (hr : awaitsRidge s r.op = false) (hd : discarded s q = false) {st d : Nat} (hg : hmpGate s q r = some (st, d)) :
    HmpAnswers (.next (hmpServe s q r g)) s s q r.op st d [] := by
  refine answer_answers (congrArg _ ?_) hd rfl
  simp [hmpServe, hform, hs, ht, hb, hr, hg]

end HmpServe

/-! ### Who may send each opcode (Table 10.6, R208, R245, R248) -/

/-- Table 10.6 by opcode; of 0x0501 a Set Key Per I/O is the PF's alone. -/
def senderTable : List (Nat × Senders) :=
  [(0x0001, sendAll), (0x0002, sendAll), (0x0003, sendAll), (0x0101, sendPf), (0x0102, sendAll), (0x0103, sendAll), (0x0104, sendPfOob),
   (0x0201, sendPf), (0x0202, sendPf), (0x0301, sendAll), (0x0302, sendAll), (0x0303, sendPfOobR 0), (0x0401, sendPfOobR 1),
   (0x0402, sendPf), (0x0403, sendPf), (0x0404, sendPfOobR 1), (0x0405, sendPfOob), (0x0406, sendPfOobR 2), (0x0407, sendPfOob),
   (0x0501, sendPfVf), (0x0501, sendPf), (0x0502, sendPf), (0x0503, sendPfOob), (0x0601, sendPfOob), (0x0602, sendPfOobR 3),
   (0x0603, sendPfOobR 3), (0x0604, sendPfOob), (0x0701, sendAll), (0x0702, sendPfOobR 4), (0x0703, sendPfOob), (0x0704, sendPfOobR 4),
   (0x0705, sendPfOob), (0x0706, sendPfOobR 5), (0x0801, sendPfOob), (0x0802, sendPf), (0x0803, sendAll), (0x0804, sendAll),
   (0x0901, sendPf), (0x0902, sendPfOob)]

theorem hmpOf_mem_senderTable {i : Instr} {q : HmpHdr} {r : HmpRule} (h : hmpOf i = some (q, r)) : (r.op, r.who) ∈ senderTable := by
  unfold hmpOf at h
  split at h <;> cases h <;> exact of_decide_eq_true rfl

theorem senderTable_pf : ∀ e ∈ senderTable, e.1 ∈ [0x0101, 0x0201, 0x0202, 0x0402, 0x0403, 0x0502, 0x0802, 0x0901] → e.2 = sendPf := by
  decide

theorem senderTable_pfOob : ∀ e ∈ senderTable,
    e.1 ∈ [0x0104, 0x0405, 0x0407, 0x0503, 0x0601, 0x0604, 0x0703, 0x0705, 0x0801, 0x0902] → e.2 = sendPfOob := by decide

theorem senderTable_all : ∀ e ∈ senderTable,
    e.1 ∈ [0x0001, 0x0002, 0x0003, 0x0102, 0x0103, 0x0301, 0x0302, 0x0701, 0x0803, 0x0804] → e.2 = sendAll := by decide

/-- The opcodes that an endpoint sends under a bit of OOB_RIGHTS, with that bit. -/
theorem senderTable_right : ∀ e ∈ senderTable, ∀ c ∈ [(0x0303, 0), (0x0401, 1), (0x0404, 1), (0x0406, 2), (0x0602, 3), (0x0603, 3),
    (0x0702, 4), (0x0704, 4), (0x0706, 5)], e.1 = c.1 → e.2 = sendPfOobR c.2 := by decide

theorem permitted_fn {who : Senders} (h : who.vf = false) (w f : Nat) : permitted w who (.fn f) = decide (f = 0) := by
  have hfn : permitted w who (.fn f) = (f == 0 || who.vf) := rfl
  rw [hfn, h, Bool.or_false]
  exact Bool.eq_iff_iff.2 (beq_iff_eq.trans decide_eq_true_iff.symm)

theorem permitted_sendAll (w : Nat) (x : Sender) : permitted w sendAll x = true := by
  cases x with
  | fn f => simp [permitted]
  | oob k => rfl

theorem permitted_oob_right (w b k : Nat) : permitted w (sendPfOobR b) (.oob k) = w.testBit b := by
  have hbit : permitted w (sendPfOobR b) (.oob k) = (bits w b 1 == 1) := rfl
  rw [hbit, Nat.testBit_eq_decide_div_mod_eq]
  exact Bool.eq_iff_iff.2 (beq_iff_eq.trans decide_eq_true_iff.symm)

/-- Settles O6: the request waits or is answered with the gate's first objection, whatever its body; its senders are those of
Table 10.6. -/
theorem mailboxGate : Obligations.MailboxGate := by
  constructor
  · intro i q r s hi hform
    obtain ⟨body, hbody⟩ := exec_hmpOf hi
    rw [hbody]
    refine ⟨fun h => congrArg _ (hmpServe_waits hform body (.inl h)), fun h => congrArg _ (hmpServe_waits hform body (.inr h)),
      fun hs ht hb hr hd => ?_⟩
    have answers {st d : Nat} : hmpGate s q r = some (st, d) → HmpAnswers (.next (hmpServe s q r body)) s s q r.op st d [] :=
      hmpServe_objection hform body hs ht hb hr hd
    exact ⟨fun hp => answers (hmpGate_notPermitted hp), fun hp => ⟨fun hr hs => answers (hmpGate_cryptoFused hp hr hs),
      fun hc => ⟨fun he h5 => answers (hmpGate_notReady hp hc he h5), fun h5 n hn hq => answers (hmpGate_invalidLength hp hc h5 hn hq)⟩⟩⟩
  · intro i q r w hi
    have hrow := hmpOf_mem_senderTable hi
    refine ⟨fun ho => ?_, fun ho => ?_, fun ho x => ?_, fun b hb => ?_⟩
    · have hwho : r.who = sendPf := senderTable_pf _ hrow ho
      rw [hwho]
      exact ⟨permitted_fn rfl w, fun k => rfl⟩
    · have hwho : r.who = sendPfOob := senderTable_pfOob _ hrow ho
      rw [hwho]
      exact ⟨permitted_fn rfl w, fun k => rfl⟩
    · have hwho : r.who = sendAll := senderTable_all _ hrow ho
      rw [hwho, permitted_sendAll]
    · have hwho : r.who = sendPfOobR b := senderTable_right _ hrow _ hb rfl
      rw [hwho]
      exact ⟨permitted_fn rfl w, permitted_oob_right w b⟩

end Sys2Proof.Machine

namespace Sys2Proof.Machine

/-! ### Virtualization Management (R207, R210) -/

theorem AdminServed.fn_eq_zero {s : State} {a : AdmHdr} {r : Bool} (h : AdminServed s a true r) : a.fn = 0 := by
  obtain ⟨⟨-, -, -, hpf⟩, -⟩ := h
  simpa using hpf

/-- A served command of the PF that changes a VF leaves the PF's admin queue its place. -/
theorem AdminServed.updatesVf {s : State} {a : AdmHdr} {r : Bool} {g : State → State} {f dw0 : Nat} {u : FnSt → FnSt}
    (h : AdminServed s a true r) (hf : 0 < f) (hg : g s = adminDone (updFn s f u) a .success dw0 []) :
    AdminCompletes (.next (adminServe s a true r g)) s (updFn s f u) a .success dw0 [] :=
  h.completes hg rfl (h.2.updFn f u fun e => absurd (e.trans h.fn_eq_zero) (Nat.ne_of_gt hf))

theorem vfOf_succ {s : State} {f : Nat} (h0 : 0 < f) (hf : f ≤ s.prof.totalVfs) : vfOf s (f + 1) = some f := by
  simp [vfOf, hf, Nat.succ_le_of_lt h0]

theorem vfOf_outside {s : State} {n : Nat} (h : n ≤ 1 ∨ s.prof.totalVfs + 1 < n) : vfOf s n = none := by
  refine if_neg ?_
  simp only [Bool.and_eq_true, decide_eq_true_eq]
  omega

/-- Settles O12: each command by its body at the VF that the controller ID names. -/
theorem virtualizationManagement : Obligations.VirtualizationManagement := by
  intro s a f h h0 hf
  have hvf := vfOf_succ h0 hf
  refine ⟨fun hc => h.updatesVf h0 ?_, fun hc => h.next ?_, fun n ho hn hsum => h.updatesVf h0 ?_, fun n ho => h.unchanged ?_,
    fun n ho hn => h.unchanged ?_, fun hp hq => h.updatesVf h0 ?_, fun n k hn => ?_⟩
  · simp only [hvf, hc, Bool.false_eq_true, if_false]
  · simp only [hvf, hc, if_true]
  · simp [hvf, ho, Nat.not_lt.2 hn, Nat.not_lt.2 hsum]
  · simp only [hvf, ho, if_true]
  · simp [hvf, ho, hn]
  · simp [hvf, hp, hq]
  · have hnone := vfOf_outside hn
    refine ⟨h.unchanged ?_, h.unchanged ?_, h.unchanged ?_⟩ <;> simp only [hnone]

/-! ### Format NVM and Sanitize (R214, R263) -/

section Format

variable {s : State} {a : AdmHdr} {n : Nat} {f : LbaFormat} {g : NsSt → State → State}

theorem formatWith_error {e : NvmeStatus} (h : formatError s n f = some e) : formatWith s a n f g = adminDone s a e 0 [] := by
  simp only [formatWith, h]

/-- A format without an objection waits for the commands accepted before it. -/
theorem formatWith_runs {ns : NsSt} (hs : s.sec.sanitizing = false) (hns : nsOf s n = some ns) (hn : n < 0xFFFFFFFF)
    (hf : formatOk f = true) : formatWith s a n f g =
      if nsBusy s n then s else adminDone (nsChanged (reformat (g ns s) ns f) n ns.attached) a .success 0 [] := by
  have hnone : formatError s n f = none := by simp [formatError, hs, hns, Nat.ne_of_lt hn, hf]
  simp only [formatWith, hnone, hns]

theorem formatError_sanitizing (h : s.sec.sanitizing = true) : formatError s n f = some .sanitizeInProgress := if_pos h

theorem formatError_all (h : s.sec.sanitizing = false) : formatError s 0xFFFFFFFF f = some .invalidField := by
  simp [formatError, h]

theorem formatError_format (h : s.sec.sanitizing = false) (hn : n ≠ 0xFFFFFFFF) (hf : formatOk f = false) :
    formatError s n f = some .invalidFormat := by simp [formatError, h, hn, hf]

theorem formatError_namespace (h : s.sec.sanitizing = false) (hn : n ≠ 0xFFFFFFFF) (hf : formatOk f = true) (hns : nsOf s n = none) :
    formatError s n f = some .invalidNamespace := by simp [formatError, h, hn, hf, hns]

/-- Six LBA formats are offered (Table 09.9). -/
theorem formatOk_false (h : 6 ≤ f.lbaf) : formatOk f = false := by
  simp [formatOk, Nat.not_lt.2 h]

theorem exec_formatNvm_plain (s : State) (a : AdmHdr) (n : Nat) (f : LbaFormat) :
    exec (.formatNvm a n f 0) s = .next (adminServe s a true false fun s => formatWith s a n f eraseNs) := rfl

theorem exec_formatNvm_crypto (s : State) (a : AdmHdr) (n : Nat) (f : LbaFormat) :
    exec (.formatNvm a n f 2) s = exec (.formatNvmCryptoErase a n f) s := rfl

/-- A format without SES 2 that meets an objection. -/
theorem formatNvm_refused (h : AdminServed s a true false) {e : NvmeStatus} (he : formatError s n f = some e) :
    AdminCompletes (exec (.formatNvm a n f 0) s) s s a e 0 [] :=
  h.unchanged (formatWith_error he)

end Format

/-- A Sanitize that starts: the command completes before the erase. -/
theorem startSanitize_starts {s : State} {a : AdmHdr} (h : s.sec.sanitizing = false) (block : Bool) : startSanitize s a block =
    adminDone { s with sec := { s.sec with sanitizing := true, sanitizeBlock := block, sanitizeState := 2 } } a .success 0 [] :=
  if_neg (by simp [h])

/-- Settles O14: a format by its objections and then by the commands that it waits for, a Sanitize by the one that runs. -/
theorem formatAndSanitize : Obligations.FormatAndSanitize := by
  intro s a h bad
  refine ⟨fun hs n f ns hns hn hf => ?_, fun n f => exec_formatNvm_crypto s a n f, fun n f ses h0 h2 => h.unchanged ?_,
    fun n f hc => ⟨h.unchanged (if_pos hc), h.unchanged (if_pos hc)⟩,
    fun hs => ⟨fun f => formatNvm_refused h (formatError_all hs),
      fun n f hn hf => formatNvm_refused h (formatError_format hs hn (formatOk_false hf)),
      fun n f hn hf hns => formatNvm_refused h (formatError_namespace hs hn hf hns)⟩,
    fun hs n f => ⟨formatNvm_refused h (formatError_sanitizing hs), h.unchanged (if_pos hs)⟩,
    fun hs => ⟨h.completes (startSanitize_starts hs true) rfl h.2, fun hc => h.completes ?_ rfl h.2⟩⟩
  · have runs (g : NsSt → State → State) := formatWith_runs (a := a) (g := g) hs hns hn hf
    refine ⟨fun hb => h.next ((runs eraseNs).trans (if_pos hb)), fun hb => h.next ((runs eraseNs).trans (if_neg (by simp [hb]))),
      fun hb hc => h.next ?_⟩
    exact (if_neg (by simp [hc])).trans ((runs cryptoErase).trans (if_neg (by simp [hb])))
  · simp only [h0, h2, if_false, ne_eq, not_false_eq_true, if_true]
  · exact (if_neg (by simp [hc])).trans (startSanitize_starts hs false)

end Sys2Proof.Machine

namespace Sys2Proof.Machine

/-! ### What a reset leaves of a function (R221, R222) -/

/-- The BAR mailbox goes with every reset but a controller reset (Table 09.10). -/
theorem resetHmp_mailbox (s : State) (f : Nat) {k : ResetKind} (h : k ≠ .controller) :
    (fnOf (resetHmp s f k) f).mailbox = mailboxDefault := by
  unfold resetHmp
  rw [if_neg h, fnOf_updFn_self]

/-- A reset ends with the function's registers, queues and features at their reset values and its bindings gone. -/
theorem fnReset_effect (k : ResetKind) (f : Nat) (s : State) :
    let u := resetHmp (resetCommands s f) f k
    (∃ v, fnOf (fnReset k f s) f = resetFnState v k (fnOf u f)) ∧
      (fnReset k f s).adm.bindings = u.adm.bindings.filter (·.1.1 != f) := by
  unfold fnReset
  generalize resetHmp (resetCommands s f) f k = u
  exact ⟨⟨_, fnOf_updFn_self ..⟩, rfl⟩

theorem fnReset_clears (k : ResetKind) (f : Nat) (s : State) :
    let t := fnReset k f s
    (fnOf t f).sqs = [] ∧ (fnOf t f).cqs = [] ∧ (fnOf t f).ccEn = false ∧ (fnOf t f).rdy = false ∧ (fnOf t f).feat = featDefault ∧
      (fnOf t f).aers = [] ∧ (∀ b ∈ t.adm.bindings, b.1.1 ≠ f) ∧ (k ≠ .controller → (fnOf t f).mailbox = mailboxDefault) := by
  obtain ⟨⟨v, hfn⟩, hbind⟩ := fnReset_effect k f s
  simp only [hfn, hbind]
  refine ⟨rfl, rfl, rfl, rfl, rfl, rfl, fun b hb => ?_, fun hk => resetHmp_mailbox _ f hk⟩
  simpa using (List.mem_filter.1 hb).2

/-! ### CC.EN and shutdown (R209, R219, R221 to R223, R390) -/

theorem tblSet_tblSet_self {κ α : Type} [DecidableEq κ] (k : κ) (v w : α) (t : Tbl κ α) : tblSet k w (tblSet k v t) = tblSet k w t := by
  induction t with
  | nil => simp [tblSet]
  | cons e t ih => by_cases h : k = e.1 <;> simp [tblSet, h, ih]

theorem updFn_updFn (s : State) (f : Nat) (g g' : FnSt → FnSt) : updFn (updFn s f g) f g' = updFn s f (g' ∘ g) := by
  simp [updFn, tblUpd, tblSet_tblSet_self, tblGet_tblSet]

/-- A function with CC.EN set at time `t`: its admin completion queue takes its size of AQA. -/
def enabledFn (t : Nat) (x : FnSt) : FnSt :=
  { x with ccEn := true, ccAt := t, cqs := tblSet 0 { cqDefault with size := adminSize x 16 } x.cqs }

theorem exec_unreachable {s : State} {f : Nat} (h : barReachable s f = false) :
    exec (.controllerReset f) s = .next s ∧ exec (.ccEnable f) s = .next s ∧ exec (.controllerShutdown f) s = .next s := by
  exact ⟨congrArg Host.Outcome.next (if_pos (by simp [h])), congrArg Host.Outcome.next (if_pos (by simp [h])),
    congrArg Host.Outcome.next (if_pos (by simp [h]))⟩

section Reachable

variable {s : State} {f : Nat} (h : barReachable s f = true)

include h

theorem exec_controllerReset_enabled (hc : (fnOf s f).ccEn = true) :
    exec (.controllerReset f) s = .next (fnReset .controller f (beginWake s .register)) :=
  congrArg Host.Outcome.next (if_neg (by simp [h, hc]))

/-- A controller that is not enabled is ready where its function can serve in this phase, and fails where it is Offline. -/
theorem exec_ccEnable_disabled (hc : (fnOf s f).ccEn = false) :
    let w := beginWake s .register
    let t := updFn w f (enabledFn (now w))
    exec (.ccEnable f) s = .next
      (if !(fnOf w f).online || (w.boot.phase == 7 && (f != 0 || w.boot.formB)) then updFn t f fun x => { x with cfs := true }
        else if w.boot.phase = 5 || w.boot.phase = 6 || w.boot.phase = 7 then updFn t f fun x => { x with rdy := !x.cfs }
        else t) := by
  intro w t
  have honline : (fnOf t f).online = (fnOf w f).online := by
    rw [fnOf_updFn_self]
    rfl
  rw [← honline]
  exact congrArg Host.Outcome.next (if_neg (by simp [h, hc]))

theorem exec_ccEnable_ready (hc : (fnOf s f).ccEn = false) (ho : (fnOf (beginWake s .register) f).online = true)
    (hcfs : (fnOf (beginWake s .register) f).cfs = false) (h5 : (beginWake s .register).boot.phase = 5) :
    exec (.ccEnable f) s = .next (updFn (beginWake s .register) f fun x =>
      { enabledFn (now (beginWake s .register)) x with rdy := true }) := by
  rw [exec_ccEnable_disabled h hc, if_neg (by simp [ho, h5]), if_pos (by simp [h5]), updFn_updFn]
  refine congrArg Host.Outcome.next (updFn_congr ?_)
  simp [enabledFn, hcfs]

theorem exec_ccEnable_offline (hc : (fnOf s f).ccEn = false) (ho : (fnOf (beginWake s .register) f).online = false) :
    exec (.ccEnable f) s = .next (updFn (beginWake s .register) f fun x =>
      { enabledFn (now (beginWake s .register)) x with cfs := true }) := by
  rw [exec_ccEnable_disabled h hc, if_pos (by simp [ho]), updFn_updFn]
  rfl

/-- The PF's shutdown marks the next start clean (R223). -/
theorem exec_controllerShutdown_pf (h0 : f = 0) (hc : (fnOf s 0).ccEn = true) :
    let w := beginWake s .register
    w.boot.phase = 5 ∨ w.boot.phase = 6 → exec (.controllerShutdown 0) s = .next
      { updFn w 0 fun x => { x with shst := 2 } with boot := { w.boot with cleanMark := true }, eav := { w.eav with journalTail := 0 } } := by
  intro w hp
  subst h0
  have hclean : (w.boot.phase == 5 || w.boot.phase == 6 || w.boot.cleanMark) = true := by
    rcases hp with hp | hp <;> simp [hp]
  rw [← hclean]
  exact congrArg Host.Outcome.next (if_neg (by simp [h, hc]))

/-- A VF's shutdown stops its fetch and discards its held commands (R223). -/
theorem exec_controllerShutdown_vf (h0 : 0 < f) (hc : (fnOf s f).ccEn = true) :
    let w := beginWake s .register
    exec (.controllerShutdown f) s = .next (forEach (w.adm.cmds.filter fun c => c.fn == f && !c.accepted)
      (fun c s => discardCmd s c) (updFn w f fun x => { x with shst := 2, fetchPaused := true })) := by
  intro w
  have hgo : exec (.controllerShutdown f) s = .next (forEach (w.adm.cmds.filter fun c => c.fn == f && !c.accepted)
      (fun c s => discardCmd s c) (updFn (updFn w f fun x => { x with shst := 2 }) f fun x => { x with fetchPaused := true })) :=
    congrArg Host.Outcome.next ((if_neg (by simp [h, hc])).trans (if_neg (Nat.ne_of_gt h0)))
  rw [hgo, updFn_updFn]
  rfl

end Reachable

/-! ### Function Level Resets (R221, R223, R261) -/

/-- While Power Loss is raised, or the link is down, no reset of this kind reaches a function. -/
theorem exec_flr_ignored {s : State} (h : s.eav.powerLoss = true ∨ s.host.linkUp = false) (f : Nat) :
    exec .pfFlr s = .next s ∧ exec (.vfFlr f) s = .next s ∧ exec .vfDisable s = .next s := by
  rcases h with h | h
  · exact ⟨congrArg Host.Outcome.next (if_pos (by simp [h])), congrArg Host.Outcome.next (if_pos (by simp [h])),
      congrArg Host.Outcome.next (if_pos (by simp [h]))⟩
  · exact ⟨congrArg Host.Outcome.next (if_pos (by simp [h])), congrArg Host.Outcome.next (if_pos (by simp [h])),
      congrArg Host.Outcome.next (if_pos (by simp [h]))⟩

theorem exec_vfFlr_absent {s : State} {f : Nat} (h : f = 0 ∨ (fnOf s f).present = false) : exec (.vfFlr f) s = .next s := by
  refine congrArg Host.Outcome.next (if_pos ?_)
  rcases h with h | h <;> simp [h]

theorem exec_vfFlr_present {s : State} {f : Nat} (hp : s.eav.powerLoss = false) (hl : s.host.linkUp = true) (h0 : 0 < f)
    (hf : (fnOf s f).present = true) : exec (.vfFlr f) s = .next (clearFnKeys (fnReset .flr f (beginWake s .flr)) f) :=
  congrArg Host.Outcome.next (if_neg (by simp [hp, hl, Nat.ne_of_gt h0, hf]))

theorem exec_pfFlr_resets {s : State} (hp : s.eav.powerLoss = false) (hl : s.host.linkUp = true) :
    exec .pfFlr s = .next (resetPf (beginWake s .flr) .flr) :=
  congrArg Host.Outcome.next (if_neg (by simp [hp, hl]))

/-! ### The link and the conventional reset (R205, R206, R221, R223, R391) -/

/-- A trained link is up, in L0, at no more than MAX_SPEED and MAX_WIDTH. -/
theorem linkTo_host (s : State) (rate width : Nat) :
    (linkTo s rate width).host.linkUp = true ∧ (linkTo s rate width).host.link.power = .l0 ∧
      (linkTo s rate width).host.rate = min rate s.prof.maxSpeed ∧ (linkTo s rate width).host.width = min width s.prof.maxWidth := by
  unfold linkTo capacityEvent
  extract_lets r w host link u v
  split
  · obtain ⟨e, fs, he⟩ := recordEvent_effect v 0x0051 (if linkShort v then 3 else 2) 4 0xFFFF (leBytes 2 0xFFFF ++
      leBytes 8 v.adm.linkCapacity ++ leBytes 8 (committedBytes v.adm.contracts false) ++ leBytes 4 (v.eav.eEff / 1048576))
    rw [he]
    exact ⟨rfl, rfl, rfl, rfl⟩
  · exact ⟨rfl, rfl, rfl, rfl⟩

theorem exec_perstNDeassert_trains {s : State} {rate width : Nat} (h1 : isRunning s 1 = true) (hp : s.eav.powerLoss = false)
    (hw : width ∈ [1, 2, 4, 8]) (h0 : 0 < rate) (h6 : rate ≤ 6) (ht : s.pins.testMode = false) :
    let up := { s with pins := { s.pins with perstN := true } }
    exec (.perstNDeassert rate width) s = .next (linkTo up rate width) := by
  intro up
  have hlegal : linkLegal rate width = true := by
    simp only [linkLegal, Bool.and_eq_true, decide_eq_true_eq, List.contains_iff_mem]
    exact ⟨⟨h0, h6⟩, hw⟩
  have htrains : (!isRunning up 1 || up.eav.powerLoss || !linkLegal rate width || up.pins.testMode) = false := by
    rw [show isRunning up 1 = true from h1, show up.eav.powerLoss = false from hp, hlegal, show up.pins.testMode = false from ht]
    rfl
  exact congrArg Host.Outcome.next (if_neg (Bool.eq_false_iff.1 htrains))

theorem exec_conventionalReset_resets {s : State} :
    let w := beginWake s .perst
    (w.eav.powerLoss = false → exec .conventionalReset s = .next (resetPf (linkDown w) .conventional)) ∧
      (w.eav.powerLoss = true → exec .conventionalReset s = .next w) :=
  ⟨fun h => congrArg Host.Outcome.next (if_neg (by simp [h])), fun h => congrArg Host.Outcome.next (if_pos h)⟩

/-! ### VF Enable (R210, R221) -/

theorem exec_vfEnable_ignored {s : State} {n : Nat} (h : n = 0 ∨ s.prof.totalVfs < n) : exec (.vfEnable n) s = .next s := by
  refine congrArg Host.Outcome.next (if_pos ?_)
  rcases h with h | h <;> simp [h]

theorem exec_vfEnable_enables {s : State} {n : Nat} (hl : s.host.linkUp = true) (hv : s.host.vfEnabled = false) (h0 : 0 < n)
    (hn : n ≤ s.prof.totalVfs) : exec (.vfEnable n) s = .next
      { assignVfs s n with host := { (assignVfs s n).host with vfEnabled := true, numVfs := n, lastNumVfs := n } } :=
  congrArg Host.Outcome.next (if_neg (by simp [hl, hv, Nat.ne_of_gt h0, Nat.not_lt.2 hn]))

theorem exec_vfDisable_removes {s : State} (hl : s.host.linkUp = true) (hv : s.host.vfEnabled = true) (hp : s.eav.powerLoss = false) :
    exec .vfDisable s = .next (removeVfs .flr s) :=
  congrArg Host.Outcome.next (if_neg (by simp [hl, hv, hp]))

/-- A fold of changes brings about what the change of one element of the list brings about, where no other change undoes it. -/
theorem forEach_reaches {α : Type} {P Q : State → Prop} {g : α → State → State} {a : α} (hP : ∀ b s, P s → P (g b s))
    (hset : ∀ s, P s → Q (g a s)) (hkeep : ∀ b s, P s → Q s → Q (g b s)) {l : List α} {s : State} (hs : P s) (h : a ∈ l ∨ Q s) :
    Q (forEach l g s) := by
  unfold forEach
  induction l generalizing s with
  | nil => simpa using h
  | cons b l ih =>
    refine ih (hP b s hs) ?_
    rcases h with hm | hq
    · rcases List.mem_cons.1 hm with rfl | hl
      · exact .inr (hset s hs)
      · exact .inl hl
    · exact .inr (hkeep b s hs hq)

/-- A VF that is present and Online with `share` queues. -/
def VfAssigned (share : Nat) (x : FnSt) : Prop := x.present = true ∧ x.online = true ∧ x.vqAssigned = share

/-- With another NumVFs than the last time, every VF takes the default share (R210). -/
theorem assignVfs_assigned {s : State} {n f : Nat} (h0 : 0 < f) (hf : f ≤ n) (hn : n ≠ s.host.lastNumVfs) :
    VfAssigned (min 128 (16256 / n)) (fnOf (assignVfs s n) f) := by
  have hmem : f ∈ (List.range n).map (· + 1) := List.mem_map.2 ⟨f - 1, List.mem_range.2 (by omega), by omega⟩
  refine forEach_reaches (P := fun u => n ≠ u.host.lastNumVfs) (Q := fun u => VfAssigned (min 128 (16256 / n)) (fnOf u f))
    ?_ (fun u hu => ?_) (fun b u hu hq => ?_) ?_ (.inl hmem)
  · exact fun b u hu => hu
  · rw [fnOf_updFn_self]
    exact ⟨rfl, rfl, if_neg hu⟩
  · rw [fnOf_updFn]
    split
    · exact ⟨rfl, rfl, rfl⟩
    · exact hq
  · rw [if_neg hn]
    exact hn

/-! ### Interrupts (R220) -/

theorem exec_msixUnmask_present {s : State} {f v : Nat} (hv : v < vectorsOf f) (hp : (fnOf s f).present = true) :
    let t := updFn s f fun x => { x with msixMasked := x.msixMasked.filter (· != v), msixPending := x.msixPending.filter (· != v) }
    (v ∈ (fnOf s f).msixPending → exec (.msixUnmask f v) s = .next (raiseVector t f v)) ∧
      (v ∉ (fnOf s f).msixPending → exec (.msixUnmask f v) s = .next t) := by
  have hgo : ¬(decide (vectorsOf f ≤ v) || !(fnOf s f).present) = true := by simp [Nat.not_le.2 hv, hp]
  exact ⟨fun hm => congrArg Host.Outcome.next ((if_neg hgo).trans (if_pos (List.contains_iff_mem.2 hm))),
    fun hm => congrArg Host.Outcome.next ((if_neg hgo).trans (if_neg fun hc => hm (List.contains_iff_mem.1 hc)))⟩

/-- Settles O29: each command by the branch of its body that its state selects, a reset by what its last step writes, and VF Enable
by the share that each VF takes. -/
theorem functionResetsAndLink : Obligations.FunctionResetsAndLink := by
  refine ⟨⟨fun s f => ?_, fun s f k => fnReset_clears k f s⟩, fun s n f => ?_⟩
  · refine ⟨exec_unreachable, fun h => ?_, fun hp hl => ⟨exec_vfFlr_present hp hl, exec_vfFlr_absent, exec_pfFlr_resets hp hl⟩,
      fun h6 c => beginWake_awake h6 c⟩
    refine ⟨fun hc => ⟨exec_controllerReset_enabled h hc, congrArg Host.Outcome.next (if_pos (by simp [hc]))⟩,
      fun hc => ⟨congrArg Host.Outcome.next (if_pos (by simp [hc])), congrArg Host.Outcome.next (if_pos (by simp [hc]))⟩,
      fun hc => exec_ccEnable_ready h hc, fun hc => exec_ccEnable_offline h hc,
      fun h0 hc => exec_controllerShutdown_pf h h0 hc, fun h0 hc => exec_controllerShutdown_vf h h0 hc⟩
  · exact ⟨fun rate width h1 hp hw h0 h6 ht => ⟨exec_perstNDeassert_trains h1 hp hw h0 h6 ht, linkTo_host _ rate width⟩,
      exec_conventionalReset_resets, fun h => exec_flr_ignored h f, exec_vfEnable_enables, assignVfs_assigned, exec_vfEnable_ignored,
      fun hl hv hp => ⟨exec_vfDisable_removes hl hv hp, rfl⟩, fun v hv hp => exec_msixUnmask_present hv hp⟩

end Sys2Proof.Machine

namespace Sys2Proof.Machine

/-! ### The plant's reports (R246, R340, R358, R376, R395) -/

theorem length_flatMap_const {α : Type} {g : α → List Byte} {n : Nat} (h : ∀ a, (g a).length = n) (l : List α) :
    (l.flatMap g).length = n * l.length := by
  induction l with
  | nil => rfl
  | cons a l ih => rw [List.flatMap_cons, List.length_append, h, ih, List.length_cons, Nat.mul_succ, Nat.add_comm]

theorem length_regionBytes (r : Region) : (regionBytes r).length = 16 := by
  simp only [regionBytes, List.length_append, length_leBytes, length_zeros]

theorem length_tripBytes (s : State) : (tripBytes s).length = 32 := by
  unfold tripBytes
  split
  · exact length_zeros 32
  · simp only [List.length_append, length_leBytes, length_zeros]

theorem length_thermalBytes (s : State) : (thermalBytes s).length = 72 := by
  have hzones : ((List.range 11).flatMap fun z => leBytes 1 (twos 8 (zoneTj s z))).length = 1 * (List.range 11).length :=
    length_flatMap_const (fun _ => length_leBytes ..) _
  have hdiodes : ((List.range 8).flatMap fun n => leBytes 1 (twos 8 (diodeReads s n))).length = 1 * (List.range 8).length :=
    length_flatMap_const (fun _ => length_leBytes ..) _
  simp only [thermalBytes, List.length_append, hzones, hdiodes, List.length_range, length_leBytes, length_zeros, length_tripBytes]

theorem length_blowerBytes (s : State) : (blowerBytes s).length = 32 := by
  simp only [blowerBytes, List.length_append, length_leBytes, length_zeros]

theorem length_supplyBytes {s : State} (h : s.sup.rails.length = 11) : (supplyBytes s).length = 84 := by
  have hrails : (s.sup.rails.flatMap fun r => leBytes 2 r.lowest ++ leBytes 2 r.highest).length = 4 * s.sup.rails.length :=
    length_flatMap_const (fun r => by rw [List.length_append, length_leBytes, length_leBytes]) _
  simp only [supplyBytes, List.length_append, hrails, h, length_leBytes, length_zeros]

/-- A Supply Report that is delivered starts each rail's extremes again; one that the sender's buffer does not take leaves them. -/
theorem supplyReport_answers {s : State} {q : HmpHdr} (h : HmpServed s q ruleSupplyReport) (hl : s.sup.rails.length = 11) :
    (q.room < 84 → HmpAnswers (exec (.supplyReport q) s) s s q 0x0705 hsTooSmall 84 []) ∧
    (84 ≤ q.room → HmpAnswers (exec (.supplyReport q) s) s
      { s with sup := { s.sup with rails := s.sup.rails.map fun r => { r with lowest := r.reading, highest := r.reading } } } q 0x0705
      hsSuccess 0 (supplyBytes s)) := by
  have hlen := length_supplyBytes hl
  refine ⟨fun hr => h.answers ?_, fun hr => answer_answers (h.next ?_) h.2 rfl⟩
  · rw [if_pos hr, reply, hlen, if_pos hr]
  · rw [if_neg (Nat.not_lt.2 hr), reply, hlen, if_neg (Nat.not_lt.2 hr)]

/-- Settles O23: each report replies with its bytes, whose lengths are the sums of their fields'. -/
theorem plantReports : Obligations.PlantReports := by
  refine ⟨⟨fun s q h => h.reports rfl, fun s q h => h.reports rfl, fun s q h => h.reports rfl, fun s q h => h.reports rfl,
    fun s q h => h.reports rfl, length_regionBytes, fun s => ⟨length_thermalBytes s, length_blowerBytes s⟩⟩, fun s q h hl => ?_⟩
  exact ⟨length_supplyBytes hl, supplyReport_answers h hl⟩

end Sys2Proof.Machine

namespace Sys2Proof.Machine

/-! ### Operation Status (R246) -/

theorem operationStatus_reports {s : State} {q : HmpHdr} {n : Nat} (h : HmpServed s q ruleOperation) {x : HandleSt}
    (hx : (s.hmp.handles.find? fun h => h.sender == q.sender && h.handle == n) = some x) :
    HmpReports (exec (.operationStatus q n) s) s q 0x0002 (operationBytes x) := by
  refine h.reports ?_
  simp only [hx]

theorem operationStatus_unknown {s : State} {q : HmpHdr} {n : Nat} (h : HmpServed s q ruleOperation)
    (hn : ∀ x ∈ s.hmp.handles, ¬(x.sender = q.sender ∧ x.handle = n)) :
    HmpAnswers (exec (.operationStatus q n) s) s s q 0x0002 hsUnknown 0 [] := by
  have hnone : (s.hmp.handles.find? fun h => h.sender == q.sender && h.handle == n) = none :=
    List.find?_eq_none.2 fun x hx => by simpa using hn x hx
  refine h.answers ?_
  simp only [hnone]

/-! ### HMP Cancel (R243) -/

theorem cancel_unstarted {s : State} {q : HmpHdr} {n : Nat} {r : HmpReq} (h : findReq s (streamOf q) n = some r) :
    cancel s q n = (hsSuccess, answer s { q with tag := n } r.opcode hsCancelled 0 []) := by
  simp only [cancel, h]

theorem cancel_notFound {s : State} {q : HmpHdr} {n : Nat} (h : findReq s (streamOf q) n = none) :
    cancel s q n = (if hasStarted s (streamOf q) n then hsNotCancellable else hsUnknown, s) := by
  simp only [cancel, h]

theorem hasStarted_iff (s : State) (st : Stream) (n : Nat) : hasStarted s st n = true ↔
    (∃ p ∈ s.hmp.toPost, p.req.stream = st ∧ p.req.tag = n) ∨
      ∃ h ∈ s.hmp.handles, h.sender = st.sender ∧ h.transport = st.transport ∧ h.tag = n ∧ h.state = 0 := by
  simp [hasStarted, and_assoc]

section CancelMessage

variable {s : State} {q : HmpHdr} {n : Nat} (h : HmpServed s q ruleCancel)

include h

theorem exec_hmpCancel_unstarted {r : HmpReq} (hr : findReq s (streamOf q) n = some r) : exec (.hmpCancel q n none) s =
    .next (hmpDone (answer s { q with tag := n } r.opcode hsCancelled 0 []) q 0x0003) := by
  refine h.next ?_
  rw [cancel_unstarted hr]
  exact if_pos rfl

theorem hmpCancel_started (hr : findReq s (streamOf q) n = none) (hs : hasStarted s (streamOf q) n = true) :
    HmpAnswers (exec (.hmpCancel q n none) s) s s q 0x0003 hsNotCancellable 0 [] := by
  refine h.answers ?_
  rw [cancel_notFound hr, if_pos hs]
  exact if_neg (show hsNotCancellable ≠ 0 by decide)

theorem hmpCancel_unknown (hr : findReq s (streamOf q) n = none) (hs : hasStarted s (streamOf q) n = false) :
    HmpAnswers (exec (.hmpCancel q n none) s) s s q 0x0003 hsUnknown 0 [] := by
  refine h.answers ?_
  rw [cancel_notFound hr, if_neg (Bool.eq_false_iff.1 hs)]
  exact if_neg (show hsUnknown ≠ 0 by decide)

end CancelMessage

/-! ### The admin commands of the mailbox protocol (R237, R244) -/

section AdminHmp

variable {s : State} {a : AdmHdr} (hf : adminFetch s a.fn = true) (w : AdmHmp) (g : State → State)

include hf

theorem adminHmp_runs (hs : hmpStopped s = false) : adminHmp s a w g = g s := by
  simp [adminHmp, hf, hs]

theorem adminHmp_waits (hs : hmpStopped s = true) :
    adminHmp s a w g = { s with hmp := { s.hmp with waiting := s.hmp.waiting ++ [w] } } := by
  simp [adminHmp, hf, hs]

end AdminHmp

/-- In PHASE 5 the gate lets every sender cancel. -/
theorem hmpGate_cancel {s : State} (q : HmpHdr) (h5 : s.boot.phase = 5) : hmpGate s { q with length := 4 } ruleCancel = none := by
  simp [hmpGate, permitted_sendAll, h5]

theorem exec_hmpCancel_fetched {q : HmpHdr} {f : Nat} (hq : q.sender = .fn f) (cid n : Nat) (s : State) :
    exec (.hmpCancel q n (some cid)) s = .next (adminHmp s ⟨f, cid⟩ (.cancel q n cid) (runCancel q n cid)) := by
  have hexec : exec (.hmpCancel q n (some cid)) s = execHmpCancel q n (some cid) s := rfl
  simp only [hexec, execHmpCancel, hq]

/-- The admin command HMP Cancel completes with the outcome of the cancel. -/
theorem exec_hmpCancel_admin {s : State} {q : HmpHdr} {f : Nat} (hq : q.sender = .fn f) (hf : adminFetch s f = true)
    (hs : hmpStopped s = false) (h5 : s.boot.phase = 5) (cid n : Nat) : exec (.hmpCancel q n (some cid)) s =
      .next (adminDone (cancel s q n).2 ⟨f, cid⟩ .success (cancel s q n).1 []) := by
  rw [exec_hmpCancel_fetched hq, adminHmp_runs (a := ⟨f, cid⟩) hf _ _ hs, runCancel, hmpGate_cancel q h5, hq]
  rfl

/-! ### The end of a handle (R241) -/

/-- Every handle stays but the one named, which leaves once its hour is over. -/
theorem operationHandleExpiry_handles (s : State) (x : Sender) (n : Nat) :
    ∃ hs, exec (.operationHandleExpiry x n) s = .next { s with hmp := { s.hmp with handles := hs } } ∧
      ∀ h, h ∈ hs ↔ h ∈ s.hmp.handles ∧ (h.sender = x → h.handle = n → ∀ t, h.endedAt = some t → now s < t + 3600000000) := by
  refine ⟨_, rfl, fun h => List.mem_filter.trans (and_congr_right fun _ => ?_)⟩
  by_cases hown : h.sender = x ∧ h.handle = n
  · obtain ⟨rfl, rfl⟩ := hown
    cases h.endedAt <;> simp
  · have hother : (h.sender == x && h.handle == n) = false := by simpa using hown
    exact iff_of_true (by simp [hother]) fun hx hn => absurd ⟨hx, hn⟩ hown

/-- Settles O22: by whether the request is found in flight, and where it is not, whether it has started. -/
theorem operationsAndCancel : Obligations.OperationsAndCancel := by
  refine ⟨fun s q n h => ⟨fun x hx => operationStatus_reports h hx, operationStatus_unknown h⟩, fun s q n h => ?_,
    fun s q f cid n hq hf hs hroom h5 => ?_, fun s x n => ?_⟩
  · refine ⟨fun r hr => exec_hmpCancel_unstarted h hr, fun hr => ⟨fun hst => ?_, fun hp hh => ?_⟩⟩
    · exact hmpCancel_started h hr ((hasStarted_iff s _ n).2 hst)
    · refine hmpCancel_unknown h hr (Bool.eq_false_iff.2 fun hst => ?_)
      rcases (hasStarted_iff s _ n).1 hst with ⟨p, hm, e⟩ | ⟨x, hm, e⟩
      · exact hp p hm e
      · exact hh x hm e
  · have hgo := exec_hmpCancel_admin hq hf hs h5 cid n
    refine ⟨fun r hr => ?_, fun hr => ⟨fun hst => ?_, fun hst => ?_⟩⟩
    · rw [hgo, cancel_unstarted hr]
    · rw [cancel_notFound hr, if_pos hst] at hgo
      exact adminDone_completes hgo rfl hroom
    · rw [cancel_notFound hr, if_neg (Bool.eq_false_iff.1 hst)] at hgo
      exact adminDone_completes hgo rfl hroom
  · exact operationHandleExpiry_handles s x n

end Sys2Proof.Machine

namespace Sys2Proof.Machine

/-! ### The engine takes a request (R230, R239, R240) -/

/-- The engine has given the next place in its order to a message, and forgotten the answers whose second is over. -/
def numbered (s : State) : State := pruneAnswers { s with hmp := { s.hmp with nextOrder := s.hmp.nextOrder + 1 } }

theorem answered_numbered_none {s : State} {st : Stream} {tag : Nat} (h : answered s st tag = none) :
    answered (numbered s) st tag = none := by
  refine List.find?_eq_none.2 fun r hr => List.find?_eq_none.1 h r ?_
  rw [List.mem_reverse] at hr ⊢
  exact (List.mem_filter.1 hr).1

theorem ite_some_eq_none_iff {α : Type} {c : Prop} [Decidable c] {a : α} {o : Option α} :
    (if c then some a else o) = none ↔ ¬c ∧ o = none := by
  by_cases h : c
  · rw [if_pos h]
    exact iff_of_false nofun fun hc => hc.1 h
  · rw [if_neg h]
    exact ⟨fun ho => ⟨h, ho⟩, fun hc => hc.2⟩

/-- Only the BAR transport names a data buffer. -/
theorem bufferBad_none {t : Transport} {r : HmpRaw} (ht : t ≠ .bar) (h : headerBad t r = none) : bufferBad r = none := by
  have hbar : (t != .bar) = true := by simpa using ht
  simp only [headerBad, ite_some_eq_none_iff, hbar, Bool.true_and, decide_eq_true_eq] at h
  obtain ⟨-, -, -, haddr, hsize, -⟩ := h
  rw [bufferBad, Decidable.not_not.1 haddr, Decidable.not_not.1 hsize]
  rfl

theorem bufferBad_address {r : HmpRaw} (h : r.dataAddr % 8 ≠ 0) : bufferBad r = some 16 := if_pos h

theorem bufferBad_size {r : HmpRaw} (ha : r.dataAddr % 8 = 0) (hs : 1048576 < r.dataSize) : bufferBad r = some 24 :=
  (if_neg fun h => h ha).trans (if_pos hs)

theorem bufferBad_fits {r : HmpRaw} (ha : r.dataAddr % 8 = 0) (hs : r.dataSize ≤ 1048576) : bufferBad r = none :=
  (if_neg fun h => h ha).trans (if_neg (Nat.not_lt.2 hs))

section TakeRequest

variable {s : State} {st : Stream} {r : HmpRaw} (p : List Byte) (d : RespDest)

theorem takeRequest_badHeader {off : Nat} (h : headerBad st.transport r = some off) :
    takeRequest s st r p d = bounce (numbered s) (rawReq s st r p d) hsInvalidHeader off := by
  simp only [takeRequest, h, numbered]

variable (hh : headerBad st.transport r = none)

include hh

theorem takeRequest_badBuffer {off : Nat} (hb : bufferBad r = some off) :
    takeRequest s st r p d = bounce (numbered s) (rawReq s st r p d) hsOutOfRange off := by
  simp only [takeRequest, hh, hb, numbered]

variable (hb : bufferBad r = none)

include hb

theorem takeRequest_duplicate {x : HmpReq} (hf : findReq s st r.tag = some x) : takeRequest s st r p d =
    { numbered s with hmp := { (numbered s).hmp with requests := s.hmp.requests.map fun y =>
        if y.stream == st && y.tag == r.tag then { y with copies := y.copies ++ [d] } else y } } := by
  have hin : (findReq (numbered s) st r.tag).isSome = true := congrArg Option.isSome hf
  simp only [takeRequest, hh, hb]
  exact if_pos hin

theorem takeRequest_joins (hf : findReq s st r.tag = none) (ha : answered s st r.tag = none) : takeRequest s st r p d =
    { numbered s with hmp := { (numbered s).hmp with requests := s.hmp.requests ++ [rawReq s st r p d] } } := by
  have hout : (findReq (numbered s) st r.tag).isSome = false := congrArg Option.isSome hf
  have hnew := answered_numbered_none ha
  simp only [numbered] at hout hnew
  simp only [takeRequest, hh, hb, hout, hnew, numbered]
  rfl

end TakeRequest

/-! ### Writes to a mailbox's registers (R231 to R233, R398) -/

/-- A change of a mailbox is known by what it makes of the mailbox that stands there. -/
theorem updMailbox_congr {s : State} {f : Nat} {g g' : MailboxSt → MailboxSt} (h : g (fnOf s f).mailbox = g' (fnOf s f).mailbox) :
    updMailbox s f g = updMailbox s f g' :=
  updFn_congr (congrArg (fun m => { fnOf s f with mailbox := m }) h)

theorem mailbox_updMailbox (s : State) (f : Nat) (g : MailboxSt → MailboxSt) :
    (fnOf (updMailbox s f g) f).mailbox = g (fnOf s f).mailbox := by
  rw [updMailbox, fnOf_updFn_self]

theorem exec_mailboxWrites_unreachable {s : State} {f : Nat} (h : barReachable s f = false) (v : Nat) :
    exec (.mailboxEnable f) s = .next s ∧ exec (.mailboxDisable f) s = .next s ∧ exec (.mailboxReqTailWrite f v) s = .next s ∧
      exec (.mailboxRspHeadWrite f v) s = .next s := by
  have hno : ¬barReachable s f = true := Bool.eq_false_iff.1 h
  exact ⟨congrArg Host.Outcome.next (if_neg hno), congrArg Host.Outcome.next (if_neg hno), congrArg Host.Outcome.next (if_neg hno),
    congrArg Host.Outcome.next (if_neg hno)⟩

section MailboxWrites

variable {s : State} {f v : Nat} (h : barReachable s f = true)

include h

theorem exec_mailboxEnable_off :
    let w := beginWake s .register
    let m := (fnOf w f).mailbox
    m.enable = false → exec (.mailboxEnable f) s = .next (updMailbox w f fun _ =>
      { m with enable := true, active := true, reqHead := 0, rspTail := 0, reqTail := 0, rspHead := 0, phase := true }) := by
  intro w m he
  exact congrArg Host.Outcome.next ((if_pos h).trans ((if_neg (Bool.eq_false_iff.1 he)).trans (updMailbox_congr rfl)))

theorem exec_mailboxEnable_on (he : (fnOf (beginWake s .register) f).mailbox.enable = true) :
    exec (.mailboxEnable f) s = .next (beginWake s .register) :=
  congrArg Host.Outcome.next ((if_pos h).trans (if_pos he))

theorem exec_mailboxDisable_on :
    let w := beginWake s .register
    let m := (fnOf w f).mailbox
    m.enable = true → exec (.mailboxDisable f) s = .next (updMailbox w f fun _ =>
      { m with enable := false, active := m.active && decide (0 < m.inFlight) }) := by
  intro w m he
  exact congrArg Host.Outcome.next ((if_pos h).trans ((if_pos he).trans (updMailbox_congr rfl)))

theorem exec_mailboxDisable_off (he : (fnOf (beginWake s .register) f).mailbox.enable = false) :
    exec (.mailboxDisable f) s = .next (beginWake s .register) :=
  congrArg Host.Outcome.next ((if_pos h).trans (if_neg (Bool.eq_false_iff.1 he)))

/-- A tail within the ring is stored; one beyond it sets BAD_TAIL alone. -/
theorem exec_mailboxReqTailWrite_writes (hv : v < 1024) :
    let w := beginWake s .register
    let m := (fnOf w f).mailbox
    exec (.mailboxReqTailWrite f v) s = .next (updMailbox w f fun _ =>
      if ringSlots m ≤ v then { m with badTail := true } else { m with reqTail := v }) := by
  intro w m
  refine congrArg Host.Outcome.next ((if_pos h).trans (updMailbox_congr ?_))
  simp only [Nat.mod_eq_of_lt hv, m, w]

/-- A head within the ring and not beyond RSP_TAIL is stored; any other sets BAD_HEAD alone. -/
theorem exec_mailboxRspHeadWrite_writes (hv : v < 1024) :
    let w := beginWake s .register
    let m := (fnOf w f).mailbox
    exec (.mailboxRspHeadWrite f v) s = .next (updMailbox w f fun _ =>
      if ringSlots m ≤ v ∨ ringDist m m.rspHead m.rspTail < ringDist m m.rspHead v then { m with badHead := true }
      else { m with rspHead := v }) := by
  intro w m
  refine congrArg Host.Outcome.next ((if_pos h).trans (updMailbox_congr ?_))
  simp only [Nat.mod_eq_of_lt hv, m, w, Bool.or_eq_true, decide_eq_true_eq]

end MailboxWrites

/-! ### The request ring (R234, R236, R244) -/

theorem mayTake_iff (s : State) (f : Nat) : mayTake s f = true ↔ barReachable s f = true ∧ hmpStopped s = false ∧
    (fnOf s f).mailbox.enable = true ∧ (fnOf s f).mailbox.reqHead ≠ (fnOf s f).mailbox.reqTail ∧
    (fnOf s f).mailbox.inFlight < rspFree (fnOf s f).mailbox ∧ (fnOf s f).mailbox.inFlight < s.prof.fnInflight := by
  simp [mayTake, and_assoc]

theorem exec_mailboxRequestTake_waits {s : State} {f : Nat} (h : mayTake s f = false) (r : Option HmpRaw) (p : Option (List Byte)) :
    exec (.mailboxRequestTake f r p) s = .next s :=
  congrArg Host.Outcome.next (if_pos (by simp [h]))

/-- The engine has taken the next request slot of a function's ring. -/
def slotTaken (s : State) (f : Nat) : State :=
  updMailbox s f fun m => { m with reqHead := (m.reqHead + 1) % ringSlots m, inFlight := m.inFlight + 1 }

theorem mailbox_slotTaken (s : State) (f : Nat) :
    let m := (fnOf s f).mailbox
    (fnOf (slotTaken s f) f).mailbox = { m with reqHead := (m.reqHead + 1) % ringSlots m, inFlight := m.inFlight + 1 } :=
  mailbox_updMailbox ..

/-- The place of the response to the request in the next slot. -/
def slotDest (s : State) (f : Nat) (r : HmpRaw) : RespDest := .bar (fnOf s f).mailbox.reqHead r.dataAddr r.dataSize

section RequestTake

variable {s : State} {f : Nat} (h : mayTake s f = true)

include h

theorem exec_mailboxRequestTake_read (r : HmpRaw) (p : List Byte) : exec (.mailboxRequestTake f (some r) (some p)) s =
    .next (takeRequest (slotTaken s f) (barStream f) r p (slotDest s f r)) :=
  congrArg Host.Outcome.next (if_neg (by simp [h]))

theorem exec_mailboxRequestTake_noPayload (r : HmpRaw) : exec (.mailboxRequestTake f (some r) none) s =
    .next (bounce (dmaError (slotTaken s f) f (fnOf s f).mailbox.reqHead)
      (rawReq (slotTaken s f) (barStream f) r [] (slotDest s f r)) hsDataError 0) :=
  congrArg Host.Outcome.next (if_neg (by simp [h]))

theorem exec_mailboxRequestTake_noHeader (p : Option (List Byte)) : exec (.mailboxRequestTake f none p) s =
    .next (tickFree (postLost (dmaError (slotTaken s f) f (fnOf s f).mailbox.reqHead)
      (lostRequest (slotTaken s f) f (fnOf s f).mailbox.reqHead))) :=
  congrArg Host.Outcome.next (if_neg (by simp [h]))

end RequestTake

/-! ### The response ring (R234, R236, R239) -/

/-- The mailbox that a response has left. -/
def responseLeft (m : MailboxSt) : MailboxSt :=
  { m with inFlight := m.inFlight - 1, active := m.active && (m.enable || decide (1 < m.inFlight)) }

/-- The mailbox whose response ring has taken a response: PHASE is inverted where the ring wraps. -/
def responseTaken (m : MailboxSt) : MailboxSt :=
  { m with rspTail := (m.rspTail + 1) % ringSlots m, phase := if m.rspTail + 1 = ringSlots m then !m.phase else m.phase }

theorem mailbox_settleResponse (s : State) (f : Nat) (p : Posting) :
    (fnOf (settleResponse s f p) f).mailbox = responseLeft (fnOf s f).mailbox := mailbox_updMailbox ..

section ResponsePost

variable {s : State} {f tag : Nat} {r : Posting} (hp : postingOf s f tag = some r)

include hp

theorem exec_mailboxResponsePost_waits (hm : mayPost s r = false) (a b : Bool) : exec (.mailboxResponsePost f tag a b) s = .next s := by
  refine congrArg Host.Outcome.next ?_
  simp only [hp]
  exact if_pos (by simp [hm])

variable (hr : barReachable s f = true) (hs : hmpStopped s = false) (hm : mayPost s r = true)

include hr hs hm

theorem exec_mailboxResponsePost_fails {a b : Bool} (hab : (a && b) = false) : exec (.mailboxResponsePost f tag a b) s =
    .next (disableMailbox (dmaError (settleResponse s f r) f (fnOf s f).mailbox.rspTail) f) := by
  refine congrArg Host.Outcome.next ?_
  simp only [hp]
  exact (if_neg (by simp [hr, hs, hm])).trans (if_neg (by simp [hab]))

theorem exec_mailboxResponsePost_posts (hn : (fnOf s f).mailbox.notifyOnResponse = false) :
    ∃ t, exec (.mailboxResponsePost f tag true true) s = .next t ∧
      (fnOf t f).mailbox = responseTaken (responseLeft (fnOf s f).mailbox) ∧ t.hmp.barOut = s.hmp.barOut ++ [barPost s f r] := by
  have hbox : (fnOf (updMailbox (settleResponse { s with hmp := { s.hmp with barOut := s.hmp.barOut ++ [barPost s f r] } } f r) f
      responseTaken) f).mailbox = responseTaken (responseLeft (fnOf s f).mailbox) := by
    rw [mailbox_updMailbox, mailbox_settleResponse]
    rfl
  refine ⟨_, congrArg Host.Outcome.next ?_, hbox, rfl⟩
  simp only [hp]
  have hoff := (congrArg MailboxSt.notifyOnResponse hbox).trans hn
  exact (if_neg (by simp [hr, hs, hm])).trans ((if_pos rfl).trans (if_neg (Bool.eq_false_iff.1 hoff)))

end ResponsePost

/-- Settles O20: each write and each take or posting by the branch that its mailbox selects. -/
theorem mailboxRings : Obligations.MailboxRings := by
  refine ⟨fun s f v => ⟨fun h6 => beginWake_awake h6 _, fun h => ?_, fun h => exec_mailboxWrites_unreachable h v⟩,
    fun s f r p h => ?_, fun s f r p h => exec_mailboxRequestTake_waits h r p, mayTake_iff, fun s f tag r hp hr hs => ?_⟩
  · refine ⟨exec_mailboxEnable_off h, exec_mailboxEnable_on h, exec_mailboxDisable_on h, exec_mailboxDisable_off h,
      fun hlt hv => ?_, fun hle hv => ?_, fun hlt hv hd => ?_, fun hv hbad => ?_⟩
    · rw [exec_mailboxReqTailWrite_writes h hv, if_neg (Nat.not_le.2 hlt)]
    · rw [exec_mailboxReqTailWrite_writes h hv, if_pos hle]
    · rw [exec_mailboxRspHeadWrite_writes h hv, if_neg (not_or.2 ⟨Nat.not_le.2 hlt, Nat.not_lt.2 hd⟩)]
    · rw [exec_mailboxRspHeadWrite_writes h hv, if_pos hbad]
  · have hgo := exec_mailboxRequestTake_read h r p
    refine ⟨fun off hoff => ?_, fun hh => ⟨fun ha => ?_, fun ha hd => ?_, fun ha hd => ⟨fun hf hn => ?_, fun x hx => ?_⟩⟩,
      exec_mailboxRequestTake_noPayload h r, exec_mailboxRequestTake_noHeader h⟩
    · rw [hgo, takeRequest_badHeader (st := barStream f) p _ hoff]
      rfl
    · rw [hgo, takeRequest_badBuffer (st := barStream f) p _ hh (bufferBad_address ha)]
      rfl
    · rw [hgo, takeRequest_badBuffer (st := barStream f) p _ hh (bufferBad_size ha hd)]
      rfl
    · rw [takeRequest_joins (s := slotTaken s f) (st := barStream f) p _ hh (bufferBad_fits ha hd) hf hn] at hgo
      exact ⟨_, hgo, mailbox_slotTaken s f, rfl⟩
    · rw [takeRequest_duplicate (s := slotTaken s f) (st := barStream f) p _ hh (bufferBad_fits ha hd) hx] at hgo
      exact ⟨_, hgo, rfl⟩
  · exact ⟨fun hm => exec_mailboxResponsePost_waits hp hm, fun hm => ⟨exec_mailboxResponsePost_posts hp hr hs hm,
      fun a b => exec_mailboxResponsePost_fails hp hr hs hm⟩⟩

end Sys2Proof.Machine

namespace Sys2Proof.Machine

/-! ### MCTP messages (R238, R248) -/

theorem exec_mctpMessage_other {s : State} {src : MctpSrc} (h : src.msgType ≠ 0x7E ∨ src.ic = true ∨ src.vendor ≠ 0x1F6B) (size : Nat)
    (r : HmpRaw) (p : List Byte) : exec (.mctpMessage src size r p) s = .next s := by
  refine congrArg Host.Outcome.next (if_pos ?_)
  rcases h with h | h | h <;> simp [isHmpMessage, h]

/-- The source of a message that is an HMP request. -/
def hmpSrc (e mt : Nat) : MctpSrc := { eid := e, msgTag := mt, msgType := 0x7E, ic := false, vendor := 0x1F6B }

theorem hmpSrc_isHmpMessage (e mt : Nat) : ¬(!isHmpMessage (hmpSrc e mt)) = true := Bool.false_ne_true

/-- The stream of an endpoint. -/
def oobStream (e : Nat) : Stream := ⟨.oob e, .mctp⟩

section MctpMessage

variable {s₀ s : State} (hw : beginWake s₀ .mctp = s) {e mt size : Nat} {r : HmpRaw} {p : List Byte}

include hw

theorem exec_mctpMessage_unserved (h : mctpServes s = false) : exec (.mctpMessage (hmpSrc e mt) size r p) s₀ = .next s := by
  subst hw
  exact congrArg Host.Outcome.next ((if_neg (hmpSrc_isHmpMessage e mt)).trans (if_pos (by simp [h])))

theorem exec_mctpMessage_oversize (h : mctpServes s = true) (hsize : 4162 < size) : exec (.mctpMessage (hmpSrc e mt) size r p) s₀ =
    .next { s with hmp := { s.hmp with mctpOversize := s.hmp.mctpOversize + 1 } } := by
  subst hw
  exact congrArg Host.Outcome.next ((if_neg (hmpSrc_isHmpMessage e mt)).trans ((if_neg (by simp [h])).trans (if_pos hsize)))

variable (h : mctpServes s = true) (hsize : size ≤ 4162)

include h hsize

/-- A new request over OOB_INFLIGHT is answered with Busy and not taken. -/
theorem exec_mctpMessage_busy (hh : headerBad .mctp r = none) (hf : findReq s (oobStream e) r.tag = none)
    (ha : answered s (oobStream e) r.tag = none) (hb : s.prof.oobInflight ≤ oobTaken s e) :
    exec (.mctpMessage (hmpSrc e mt) size r p) s₀ = .next (bounce s (rawReq s (oobStream e) r p (.mctp mt)) hsBusy 0) := by
  subst hw
  refine congrArg Host.Outcome.next ((if_neg (hmpSrc_isHmpMessage e mt)).trans ((if_neg (by simp [h])).trans
    ((if_neg (Nat.not_lt.2 hsize)).trans (if_pos ?_))))
  rw [oobStream] at hf ha
  simp [hmpSrc, hh, hf, ha, hb]

theorem exec_mctpMessage_taken (hb : headerBad .mctp r ≠ none ∨ oobTaken s e < s.prof.oobInflight) :
    exec (.mctpMessage (hmpSrc e mt) size r p) s₀ = .next (takeRequest s (oobStream e) r p (.mctp mt)) := by
  subst hw
  refine congrArg Host.Outcome.next ((if_neg (hmpSrc_isHmpMessage e mt)).trans ((if_neg (by simp [h])).trans
    ((if_neg (Nat.not_lt.2 hsize)).trans (if_neg ?_))))
  rcases hb with hb | hb
  · simp [Option.isNone_iff_eq_none, hb]
  · simp [hmpSrc, Nat.not_le.2 hb]

end MctpMessage

theorem exec_mctpEndpointIdAssignment (s : State) (e : Nat) :
    (s.prof.mctpEid = 0 → isRunning s 3 = true → exec (.mctpEndpointIdAssignment e) s = .next { s with hmp := { s.hmp with mctpEid := e } }) ∧
      (s.prof.mctpEid ≠ 0 → exec (.mctpEndpointIdAssignment e) s = .next s) :=
  ⟨fun h h3 => congrArg Host.Outcome.next (if_pos (by simp [h, h3])), fun h => congrArg Host.Outcome.next (if_neg (by simp [h]))⟩

/-! ### The bodies of the admin transport (R237) -/

theorem dwordsBad_iff (n : Nat) : dwordsBad n = true ↔ n < 16 ∨ 262160 < n := by simp [dwordsBad]

theorem dwordsBad_eq_false {n : Nat} (hlo : 16 ≤ n) (hhi : n ≤ 262160) : dwordsBad n = false := by
  simp [dwordsBad, hlo, hhi]

/-- CDW10 of a Collect counts whole dwords, so the largest buffer it names is 1,048,640 bytes. -/
theorem collectBad_iff (room ms : Nat) :
    (dwordsBad (room / 4) || decide (10000 < ms)) = true ↔ room < 64 ∨ 1048643 < room ∨ 10000 < ms := by
  rw [Bool.or_eq_true, dwordsBad_iff, decide_eq_true_eq]
  omega

/-- The command of an HMP Exchange waits for the response to its request. -/
def exchangeNoted (s : State) (a : AdmHdr) (tag : Nat) : State :=
  { s with hmp := { s.hmp with exchanges := s.hmp.exchanges ++ [⟨a.fn, a.cid, tag⟩] } }

section Bodies

variable {s : State} {a : AdmHdr}

theorem runPost_malformed {n : Nat} (h : n < 16 ∨ 262160 < n) (raw : Option HmpRaw) :
    runPost a n raw s = adminDone s a .invalidField 0 [] := if_pos ((dwordsBad_iff n).2 h)

theorem runExchange_malformed {n : Nat} (h : n < 16 ∨ 262160 < n) (raw : Option HmpRaw) :
    runExchange a n raw s = adminDone s a .invalidField 0 [] := if_pos ((dwordsBad_iff n).2 h)

section GoodLength

variable {n : Nat} (hlo : 16 ≤ n) (hhi : n ≤ 262160)

include hlo hhi

theorem runPost_unread : runPost a n none s = adminDone s a .dataTransferError 0 [] := by
  simp [runPost, dwordsBad_eq_false hlo hhi]

theorem runExchange_unread : runExchange a n none s = adminDone s a .dataTransferError 0 [] := by
  simp [runExchange, dwordsBad_eq_false hlo hhi]

theorem runPost_busy (r : HmpRaw) (h : 64 ≤ heldOrDue s a.fn) : runPost a n (some r) s = adminDone s a .success hsBusy [] := by
  simp [runPost, dwordsBad_eq_false hlo hhi, h]

theorem runPost_takes (r : HmpRaw) (h : heldOrDue s a.fn < 64) :
    runPost a n (some r) s = adminDone (takeRequest s (adminStream a.fn) r [] .post) a .success 0 [] := by
  simp [runPost, dwordsBad_eq_false hlo hhi, Nat.not_le.2 h]

theorem runExchange_takes (r : HmpRaw) : runExchange a n (some r) s =
    takeRequest (exchangeNoted s a r.tag) (adminStream a.fn) r [] (.exchange a.cid (4 * n - 64)) := by
  simp [runExchange, dwordsBad_eq_false hlo hhi, exchangeNoted]

end GoodLength

theorem runCollect_malformed {room ms : Nat} (h : room < 64 ∨ 1048643 < room ∨ 10000 < ms) (tag : Nat) :
    runCollect a tag room ms s = adminDone s a .invalidField 0 [] := if_pos ((collectBad_iff room ms).2 h)

section GoodCollect

variable {tag room ms : Nat} (hlo : 64 ≤ room) (hhi : room ≤ 1048640) (hms : ms ≤ 10000)

include hlo hhi hms

theorem collect_wellFormed : ¬(dwordsBad (room / 4) || decide (10000 < ms)) = true := by
  rw [collectBad_iff]
  omega

theorem runCollect_delivers {r : HmpResp} (hr : heldMatch s a.fn tag = some r) (hfit : 64 + r.payload.length ≤ room) :
    runCollect a tag room ms s = adminDone { s with hmp := { s.hmp with held := s.hmp.held.erase r } } a .success (r.status + 2 ^ 31)
      (respHeader r 0 0 false ++ r.payload) := by
  refine (if_neg (collect_wellFormed hlo hhi hms)).trans ?_
  simp only [hr]
  exact if_neg (Nat.not_lt.2 hfit)

theorem runCollect_tooSmall {r : HmpResp} (hr : heldMatch s a.fn tag = some r) (hfit : room < 64 + r.payload.length) :
    runCollect a tag room ms s = adminDone s a .success hsTooSmall [] := by
  refine (if_neg (collect_wellFormed hlo hhi hms)).trans ?_
  simp only [hr]
  exact if_pos hfit

theorem runCollect_none (hr : heldMatch s a.fn tag = none) : runCollect a tag room ms s =
    if ms = 0 then adminDone s a .success 0 []
    else { s with hmp := { s.hmp with collects := s.hmp.collects ++ [⟨a.fn, a.cid, tag, room, now s + ms * 1000⟩] } } := by
  refine (if_neg (collect_wellFormed hlo hhi hms)).trans ?_
  simp only [hr]

end GoodCollect

end Bodies

/-! ### The admin transport's commands (R237, R244) -/

section Transport

variable {s : State} {a : AdmHdr} (hf : adminFetch s a.fn = true)

include hf

/-- While the Management island runs nothing, the four commands wait. -/
theorem exec_adminTransport_waits (hs : hmpStopped s = true) :
    let waits (w : AdmHmp) : State := { s with hmp := { s.hmp with waiting := s.hmp.waiting ++ [w] } }
    (∀ n r, exec (.hmpPost a n r) s = .next (waits (.post a n r)) ∧ exec (.hmpExchange a n r) s = .next (waits (.exchange a n r))) ∧
      (∀ tag room ms, exec (.hmpCollect a tag room ms) s = .next (waits (.collect a tag room ms))) ∧
      ∀ q n, q.sender = .fn a.fn → exec (.hmpCancel q n (some a.cid)) s = .next (waits (.cancel q n a.cid)) := by
  intro waits
  have hwaits (w : AdmHmp) (g : State → State) : (.next (adminHmp s a w g) : Host.Outcome State Fault Refusal) = .next (waits w) :=
    congrArg _ (adminHmp_waits hf w g hs)
  exact ⟨fun n r => ⟨hwaits _ _, hwaits _ _⟩, fun tag room ms => hwaits _ _,
    fun q n hq => (exec_hmpCancel_fetched hq a.cid n s).trans (hwaits _ _)⟩

variable (hs : hmpStopped s = false)

include hs

theorem exec_hmpPost_runs {n : Nat} {raw : Option HmpRaw} {t : State} (h : runPost a n raw s = t) :
    exec (.hmpPost a n raw) s = .next t := congrArg Host.Outcome.next ((adminHmp_runs hf _ _ hs).trans h)

theorem exec_hmpExchange_runs {n : Nat} {raw : Option HmpRaw} {t : State} (h : runExchange a n raw s = t) :
    exec (.hmpExchange a n raw) s = .next t := congrArg Host.Outcome.next ((adminHmp_runs hf _ _ hs).trans h)

theorem exec_hmpCollect_runs {tag room ms : Nat} {t : State} (h : runCollect a tag room ms s = t) :
    exec (.hmpCollect a tag room ms) s = .next t := congrArg Host.Outcome.next ((adminHmp_runs hf _ _ hs).trans h)

/-- A Collect delivers the held response that its buffer takes, or keeps it, or completes empty, or waits. -/
theorem hmpCollect_answers (hroom : AdminRoom s a.fn) {tag room ms : Nat} (hlo : 64 ≤ room) (hhi : room ≤ 1048640) (hms : ms ≤ 10000) :
    let go := exec (.hmpCollect a tag room ms) s
    (∀ r, heldMatch s a.fn tag = some r → 64 + r.payload.length ≤ room → AdminCompletes go s
      { s with hmp := { s.hmp with held := s.hmp.held.erase r } } a .success (r.status + 2 ^ 31) (respHeader r 0 0 false ++ r.payload)) ∧
    (∀ r, heldMatch s a.fn tag = some r → room < 64 + r.payload.length → AdminCompletes go s s a .success hsTooSmall []) ∧
    (heldMatch s a.fn tag = none → ms = 0 → AdminCompletes go s s a .success 0 []) ∧
    (heldMatch s a.fn tag = none → 0 < ms → go = .next
      { s with hmp := { s.hmp with collects := s.hmp.collects ++ [⟨a.fn, a.cid, tag, room, now s + ms * 1000⟩] } }) := by
  refine ⟨fun r hr hfit => ?_, fun r hr hfit => ?_, fun hr h0 => ?_, fun hr h0 => ?_⟩
  · exact adminDone_completes (exec_hmpCollect_runs hf hs (runCollect_delivers hlo hhi hms hr hfit)) rfl hroom
  · exact adminDone_completes (exec_hmpCollect_runs hf hs (runCollect_tooSmall hlo hhi hms hr hfit)) rfl hroom
  · exact adminDone_completes (exec_hmpCollect_runs hf hs ((runCollect_none hlo hhi hms hr).trans (if_pos h0))) rfl hroom
  · exact exec_hmpCollect_runs hf hs ((runCollect_none hlo hhi hms hr).trans (if_neg (Nat.pos_iff_ne_zero.1 h0)))

end Transport

/-- A Collect that waits ends with its time, and not before. -/
theorem hmpCollectTimeout_ends {s : State} {a : AdmHdr} (hroom : AdminRoom s a.fn) {c : CollectSt}
    (hc : (s.hmp.collects.find? fun c => c.fn == a.fn && c.cid == a.cid) = some c) :
    (c.ends ≤ now s → AdminCompletes (exec (.hmpCollectTimeout a.fn a.cid) s) s
      { s with hmp := { s.hmp with collects := s.hmp.collects.erase c } } a .success 0 []) ∧
    (now s < c.ends → exec (.hmpCollectTimeout a.fn a.cid) s = .next s) := by
  have hgo : exec (.hmpCollectTimeout a.fn a.cid) s = .next (if now s < c.ends then s
      else adminDone { s with hmp := { s.hmp with collects := s.hmp.collects.erase c } } a .success 0 []) := by
    refine congrArg Host.Outcome.next ?_
    simp only [hc]
  exact ⟨fun h => adminDone_completes (hgo.trans (congrArg _ (if_neg (Nat.not_lt.2 h)))) rfl hroom,
    fun h => hgo.trans (congrArg _ (if_pos h))⟩

/-- A message that is served: answered for its header, answered with Busy over OOB_INFLIGHT, or in its endpoint's stream. -/
theorem mctpMessage_answers (s₀ : State) (e mt size : Nat) (r : HmpRaw) (p : List Byte) :
    let s := beginWake s₀ .mctp
    let go := exec (.mctpMessage (hmpSrc e mt) size r p) s₀
    let joined : HmpReq := rawReq s (oobStream e) r p (.mctp mt)
    (mctpServes s = true → size ≤ 4162 →
      (∀ off, headerBad .mctp r = some off → go = .next (bounce (numbered s) joined hsInvalidHeader off)) ∧
      (headerBad .mctp r = none → findReq s (oobStream e) r.tag = none → answered s (oobStream e) r.tag = none →
        (s.prof.oobInflight ≤ oobTaken s e → go = .next (bounce s joined hsBusy 0)) ∧
        (oobTaken s e < s.prof.oobInflight → ∃ t, go = .next t ∧ t.hmp.requests = s.hmp.requests ++ [joined]))) := by
  intro s go joined h hsize
  refine ⟨fun off hoff => ?_, fun hh hf ha => ⟨exec_mctpMessage_busy rfl h hsize hh hf ha, fun hb => ?_⟩⟩
  · refine (exec_mctpMessage_taken rfl h hsize (.inl (by simp [hoff]))).trans ?_
    rw [takeRequest_badHeader (st := oobStream e) p _ hoff]
  · refine ⟨_, exec_mctpMessage_taken rfl h hsize (.inr hb), ?_⟩
    rw [takeRequest_joins (st := oobStream e) p _ hh (bufferBad_none (by decide) hh) hf ha]

/-- Settles O21: an MCTP message by the objections in their order, an admin command by the branch of its body. -/
theorem mctpAndAdminTransport : Obligations.MctpAndAdminTransport := by
  refine ⟨⟨fun s₀ e mt size r p => ⟨exec_mctpMessage_unserved rfl, exec_mctpMessage_oversize rfl, mctpMessage_answers s₀ e mt size r p⟩,
    fun s src size r p h => exec_mctpMessage_other h size r p, exec_mctpEndpointIdAssignment⟩,
    fun s a hf hs hroom => ?_, fun s a hf hs => exec_adminTransport_waits hf hs⟩
  have completes {o : Host.Outcome State Fault Refusal} {st : NvmeStatus} {dw0 : Nat} {data : List Byte}
      (ho : o = .next (adminDone s a st dw0 data)) : AdminCompletes o s s a st dw0 data := adminDone_completes ho rfl hroom
  refine ⟨fun n raw h => ⟨?_, ?_⟩, fun n hlo hhi => ⟨?_, ?_⟩, fun n r hlo hhi h => ?_, fun n r hlo hhi h ⟨hh, hn, ha⟩ => ?_,
    fun n r hlo hhi ⟨hh, hn, ha⟩ => ?_, fun tag room ms h => ?_, fun tag room ms => hmpCollect_answers hf hs hroom,
    fun c => hmpCollectTimeout_ends hroom⟩
  · exact completes (exec_hmpPost_runs hf hs (runPost_malformed h raw))
  · exact completes (exec_hmpExchange_runs hf hs (runExchange_malformed h raw))
  · exact completes (exec_hmpPost_runs hf hs (runPost_unread hlo hhi))
  · exact completes (exec_hmpExchange_runs hf hs (runExchange_unread hlo hhi))
  · exact completes (exec_hmpPost_runs hf hs (runPost_busy hlo hhi r h))
  · refine ⟨_, ?_, exec_hmpPost_runs hf hs (runPost_takes hlo hhi r h)⟩
    rw [takeRequest_joins (st := adminStream a.fn) [] _ hh (bufferBad_none (by decide) hh) hn ha]
    rfl
  · refine ⟨_, exec_hmpExchange_runs hf hs (runExchange_takes hlo hhi r), ?_⟩
    rw [takeRequest_joins (s := exchangeNoted s a r.tag) (st := adminStream a.fn) [] _ hh (bufferBad_none (by decide) hh) hn ha]
    exact ⟨rfl, rfl⟩
  · exact completes (exec_hmpCollect_runs hf hs (runCollect_malformed h tag))

end Sys2Proof.Machine

namespace Sys2Proof.Machine

/-! ### Firmware images (R393, R414, R415, Table 20.2) -/

/-- A staged copy other than a Board Profile holds its header alone. -/
theorem copyOf_firmware {h : ImageHdr} (ht : h.type ≠ 4) (p : Option ProfImage) : copyOf h p = ⟨h, none⟩ := by
  unfold copyOf
  rw [if_neg ht]

section Staged

variable {s : State} {a : AdmHdr} {h : ImageHdr} {g : ImageCopy → State → State}

theorem stagedError_unverified (hs : s.sec.staged = some h) (hp : s.boot.phase ≠ 7) (hb : h.type = 4 ∨ h.type = 5 ∨ h.verified = false) :
    stagedError s = some .invalidFirmwareImage := by
  simp only [stagedError, hs]
  by_cases hv : (!(decide (1 ≤ h.type) && decide (h.type ≤ 5)) || !h.verified || !keyAllowed s h) = true
  · rw [if_pos hv]
  · have hver : h.verified = true := by simp_all
    have ht : 4 ≤ h.type := by rcases hb with hb | hb | hb <;> simp_all
    rw [if_neg hv, if_pos (by simp [ht, hp])]

/-- An image of a firmware type that passes its verification and key is held to the SVN floor alone. -/
theorem stagedError_verified (hs : s.sec.staged = some h) (ht : h.type ∈ [1, 2, 3]) (hv : h.verified = true) (hk : keyAllowed s h = true) :
    stagedError s = if h.svn < svnFloor s h.type then some .firmwareActivationProhibited else none := by
  have hlo : 1 ≤ h.type ∧ h.type ≤ 3 := by
    simp only [List.mem_cons, List.not_mem_nil, or_false] at ht
    omega
  simp only [stagedError, hs]
  rw [if_neg (by simp [hv, hk]; omega), if_neg (by simp; omega), if_neg (by simp; omega)]

theorem withStaged_refused {e : NvmeStatus} (he : stagedError s = some e) : withStaged s a g = adminDone s a e 0 [] := by
  unfold withStaged
  rw [he]

theorem withStaged_runs (he : stagedError s = none) (hs : s.sec.staged = some h) (ht : h.type ∈ [1, 2, 3]) :
    withStaged s a g = g ⟨h, none⟩ s := by
  have h4 : h.type ≠ 4 := fun h4 => absurd (h4 ▸ ht) (by decide)
  unfold withStaged stagedCopy
  rw [he, hs]
  simp only [Option.map_some, copyOf_firmware h4]

end Staged

section Commit

variable {s s' : State} {a : AdmHdr} {g : State → State} {slot want : Nat} {st : NvmeStatus} {dw0 : Nat} {data : List Byte}

/-- A commit of the slot that its action takes, while no activation runs. -/
theorem commitServe_runs (h : AdminServed s a true true) (ha : s.chg.activating = none) (hw : slot = want) :
    commitServe s a slot want g = g s := by
  refine (adminServe_passes h.1 _).trans ?_
  simp only [ha, Option.isSome_none, Bool.false_eq_true, if_false, hw, ne_eq, not_true_eq_false]

theorem commitServe_completes (h : AdminServed s a true true) (ha : s.chg.activating = none) (hw : slot = want)
    (hg : g s = adminDone s' a st dw0 data) (hp : s'.host = s.host) :
    AdminCompletes (.next (commitServe s a slot want g)) s s' a st dw0 data := by
  refine adminDone_completes (congrArg _ ((commitServe_runs h ha hw).trans hg)) (by rw [hp]) ?_
  have hroom := h.2
  unfold AdminRoom fnOf at hroom ⊢
  rwa [hp]

theorem commitServe_slot (h : AdminServed s a true true) (ha : s.chg.activating = none) (hw : slot ≠ want) :
    AdminCompletes (.next (commitServe s a slot want g)) s s a .invalidFirmwareSlot 0 [] := by
  refine h.unchanged ?_
  simp only [ha, Option.isSome_none, Bool.false_eq_true, if_false, hw, ne_eq, not_false_eq_true, if_true]

theorem commitServe_activating (h : AdminServed s a true true) (ha : s.chg.activating.isSome = true) :
    AdminCompletes (.next (commitServe s a slot want g)) s s a .commandSequenceError 0 [] :=
  h.unchanged (if_pos ha)

end Commit

/-- An image of an allowed key at or above the floor: it is written into copy B, and action 001b swaps the descriptor as well. -/
theorem firmwareCommit_writes {s : State} {a : AdmHdr} (hs : AdminServed s a true true) (ha : s.chg.activating = none) {h : ImageHdr}
    (he : stagedError s = none) (hh : s.sec.staged = some h) (ht : h.type ∈ [1, 2, 3]) :
    (∀ fs, fs = 0 ∨ fs = 2 → AdminCompletes (exec (.firmwareCommitReplace a fs) s) s (writeB s ⟨h, none⟩) a .success 0 []) ∧
    (∀ fs, fs = 0 ∨ fs = 1 → AdminCompletes (exec (.firmwareCommitNextStart a fs) s) s (swapCopies (writeB s ⟨h, none⟩) h.type)
      a .success 0 []) := by
  refine ⟨fun fs hfs => commitServe_completes hs ha ?_ (withStaged_runs he hh ht) rfl,
    fun fs hfs => commitServe_completes hs ha ?_ (withStaged_runs he hh ht) rfl⟩
  · rcases hfs with rfl | rfl <;> rfl
  · rcases hfs with rfl | rfl <;> rfl

/-- An image with an objection: no action that takes it writes anything. -/
theorem firmwareCommit_refused {s : State} {a : AdmHdr} (hs : AdminServed s a true true) (ha : s.chg.activating = none) {e : NvmeStatus}
    (he : stagedError s = some e) :
    AdminCompletes (exec (.firmwareCommitReplace a 2) s) s s a e 0 [] ∧ AdminCompletes (exec (.firmwareCommitNextStart a 1) s) s s a e 0 [] ∧
      AdminCompletes (exec (.firmwareCommitActivate a 1) s) s s a e 0 [] :=
  ⟨commitServe_completes hs ha rfl (withStaged_refused he) rfl, commitServe_completes hs ha rfl (withStaged_refused he) rfl,
    commitServe_completes hs ha rfl (withStaged_refused he) rfl⟩

/-- Action 010b swaps the descriptor of the type staged last. -/
theorem firmwareCommitSwap_swaps {s : State} {a : AdmHdr} (hs : AdminServed s a true true) (ha : s.chg.activating = none) {h : ImageHdr}
    (hh : s.sec.staged = some h) : AdminCompletes (exec (.firmwareCommitSwap a 2) s) s (swapCopies s h.type) a .success 0 [] := by
  refine commitServe_completes hs ha rfl ?_ rfl
  simp only [hh]
  rfl

/-! ### Activation without reset (R416, R417, R426) -/

section Activate

variable {s : State} {a : AdmHdr} {h : ImageHdr}

/-- The activation of an image without objection, in a PHASE that is not the restricted one. -/
theorem firmwareCommitActivate_staged (hs : AdminServed s a true true) (hp : s.boot.phase ≠ 7) (ha : s.chg.activating = none)
    (he : stagedError s = none) (hh : s.sec.staged = some h) (ht : h.type ∈ [1, 2, 3]) :
    exec (.firmwareCommitActivate a 1) s = .next (
      if 2 < h.type then adminDone (swapCopies (writeB s ⟨h, none⟩) h.type) a .success 0 []
      else match firmwareError s h with
        | some e => adminDone s a e 0 []
        | none =>
          let t := swapCopies (writeB (startNewImage s h.type) ⟨h, none⟩) h.type
          activationNotice { t with chg := { t.chg with activating := some (a.fn, a.cid, h.type), rounds := 0 } }) := by
  refine congrArg _ ((commitServe_runs hs ha rfl).trans ((withStaged_runs he hh ht).trans (if_neg hp)))

theorem activationNotice_eventsDelivered (s : State) : EventsDelivered s (activationNotice s) := asyncAll_eventsDelivered ..

theorem startNewImage_sec (s : State) (t : Nat) : (startNewImage s t).sec = s.sec := by
  unfold startNewImage
  extract_lets fresh' u
  have hu : u.sec = s.sec := by
    unfold u
    split
    · rfl
    · split
      · rfl
      · rfl
  split
  · exact hu
  · rfl

theorem firmwareError_ixene (h2 : h.type = 2) : firmwareError s h = if coresIn s < 5 then some .firmwareActivationProhibited
    else if h.tableFormat ≠ runningFormat s then some .invalidFirmwareImage else none := by
  unfold firmwareError
  rw [if_pos h2]

theorem firmwareError_ridge (h1 : h.type = 1) : firmwareError s h =
    if ridgeIn s < 2 then some .firmwareActivationProhibited else none := by
  unfold firmwareError
  rw [if_neg (by omega), if_pos h1]

end Activate

/-- An activation that may run begins its rounds; the images lie as action 001b leaves them. -/
theorem firmwareCommitActivate_begins {s : State} {a : AdmHdr} {h : ImageHdr} (hs : AdminServed s a true true) (hp : s.boot.phase ≠ 7)
    (ha : s.chg.activating = none) (he : stagedError s = none) (hh : s.sec.staged = some h) (ht : h.type ∈ [1, 2, 3])
    (hle : ¬2 < h.type) (hf : firmwareError s h = none) :
    ∃ t, exec (.firmwareCommitActivate a 1) s = .next t ∧ t.chg.activating = some (a.fn, a.cid, h.type) ∧ t.chg.rounds = 0 ∧
      t.sec = (swapCopies (writeB s ⟨h, none⟩) h.type).sec := by
  have hgo := firmwareCommitActivate_staged hs hp ha he hh ht
  rw [if_neg hle, hf] at hgo
  refine ⟨_, hgo, ?_⟩
  obtain ⟨fs, ps, rs, ws, hn⟩ := activationNotice_eventsDelivered
    { swapCopies (writeB (startNewImage s h.type) ⟨h, none⟩) h.type with
      chg := { (startNewImage s h.type).chg with activating := some (a.fn, a.cid, h.type), rounds := 0 } }
  refine ⟨congrArg (·.chg.activating) hn, congrArg (·.chg.rounds) hn, (congrArg (·.sec) hn).trans ?_⟩
  simp only [swapCopies, writeB, startNewImage_sec]

/-- Firmware Commit with activation, for each of the firmware types. -/
theorem firmwareCommitActivate_cases {s : State} {a : AdmHdr} {h : ImageHdr} (hs : AdminServed s a true true) (hp : s.boot.phase ≠ 7)
    (ha : s.chg.activating = none) (he : stagedError s = none) (hh : s.sec.staged = some h) (ht : h.type ∈ [1, 2, 3]) :
    let wrote (s : State) : State := swapCopies (writeB s ⟨h, none⟩) h.type
    (h.type = 3 → AdminCompletes (exec (.firmwareCommitActivate a 1) s) s (wrote s) a .success 0 []) ∧
    (h.type = 2 → coresIn s < 5 → AdminCompletes (exec (.firmwareCommitActivate a 1) s) s s a .firmwareActivationProhibited 0 []) ∧
    (h.type = 2 → 5 ≤ coresIn s → h.tableFormat ≠ runningFormat s →
      AdminCompletes (exec (.firmwareCommitActivate a 1) s) s s a .invalidFirmwareImage 0 []) ∧
    (h.type = 1 → ridgeIn s < 2 → AdminCompletes (exec (.firmwareCommitActivate a 1) s) s s a .firmwareActivationProhibited 0 []) ∧
    (h.type = 2 ∧ 5 ≤ coresIn s ∧ h.tableFormat = runningFormat s ∨ h.type = 1 ∧ 2 ≤ ridgeIn s →
      ∃ t, exec (.firmwareCommitActivate a 1) s = .next t ∧ t.chg.activating = some (a.fn, a.cid, h.type) ∧ t.chg.rounds = 0 ∧
        t.sec = (wrote s).sec) := by
  intro wrote
  have hgo := firmwareCommitActivate_staged hs hp ha he hh ht
  have refused : ∀ e, ¬2 < h.type → firmwareError s h = some e →
      AdminCompletes (exec (.firmwareCommitActivate a 1) s) s s a e 0 [] := fun e hle hf =>
    adminDone_completes (by rw [hgo, if_neg hle, hf]) rfl hs.2
  refine ⟨fun h3 => adminDone_completes (by rw [hgo, if_pos (by omega)]) rfl hs.2, fun h2 hc => refused _ (by omega) ?_,
    fun h2 hc hf => refused _ (by omega) ?_, fun h1 hc => refused _ (by omega) ?_, ?_⟩
  · rw [firmwareError_ixene h2, if_pos hc]
  · rw [firmwareError_ixene h2, if_neg (Nat.not_lt.2 hc), if_pos hf]
  · rw [firmwareError_ridge h1, if_pos hc]
  · rintro (⟨h2, hc, hf⟩ | ⟨h1, hc⟩)
    · refine firmwareCommitActivate_begins hs hp ha he hh ht (by omega) ?_
      rw [firmwareError_ixene h2, if_neg (Nat.not_lt.2 hc), if_neg (not_not.2 hf)]
    · refine firmwareCommitActivate_begins hs hp ha he hh ht (by omega) ?_
      rw [firmwareError_ridge h1, if_neg (Nat.not_lt.2 hc)]

section Round

variable {s : State} {fn cid t : Nat}

/-- The round of handovers that a planned step makes (R416 step 6), counted. -/
def roundMade (s : State) (t : Nat) : State :=
  let after := putCores (plannedStep s) t (trimRound (coresOf s t) (now s))
  { after with chg := { after.chg with rounds := after.chg.rounds + 1 } }

/-- A core still works on the old image. -/
def oldImageLeft (s : State) (t : Nat) : Bool := (coresOf s t).any fun c => c.st == .active && !c.newImage

/-- VERSION of the image that an activation brings, and of the one in use. -/
def newVersion (s : State) (t : Nat) : Nat := (((tblFind? t s.sec.copyA).map (·.hdr)).map (·.version)).getD 0

def oldVersion (s : State) (t : Nat) : Nat := ((tblFind? t s.sec.active).map (·.version)).getD 0

theorem exec_firmwareActivationRound_failed (ha : s.chg.activating = some (fn, cid, t)) (hm : mgmtDown s = false)
    (hp : s.eav.powerLoss = false) : exec (.firmwareActivationRound false) s =
      .next (endActivation (activationEvent (swapCopies s t) t (newVersion s t) (oldVersion s t)) .internalError) := by
  show execFirmwareActivationRound false s = _
  simp only [execFirmwareActivationRound, ha, hm, hp]
  rfl

theorem exec_firmwareActivationRound_held (ha : s.chg.activating = some (fn, cid, t)) (ho : plannedOk s = false) :
    exec (.firmwareActivationRound true) s = .next s := by
  show execFirmwareActivationRound true s = _
  simp [execFirmwareActivationRound, ha, ho]

/-- A round after which a core still works on the old image. -/
theorem exec_firmwareActivationRound_goesOn (ha : s.chg.activating = some (fn, cid, t)) (hm : mgmtDown s = false)
    (hp : s.eav.powerLoss = false) (ho : plannedOk s = true) (hleft : oldImageLeft (roundMade s t) t = true) :
    exec (.firmwareActivationRound true) s = .next (roundMade s t) := by
  show execFirmwareActivationRound true s = _
  simp only [execFirmwareActivationRound, ha, hm, hp, ho]
  exact congrArg _ (if_pos hleft)

/-- The last round: the new image comes into use and the activation ends. -/
theorem exec_firmwareActivationRound_last (ha : s.chg.activating = some (fn, cid, t)) (hm : mgmtDown s = false)
    (hp : s.eav.powerLoss = false) (ho : plannedOk s = true) (hleft : oldImageLeft (roundMade s t) t = false) {h : ImageHdr}
    (hn : (tblFind? t s.sec.copyA).map (·.hdr) = some h) : exec (.firmwareActivationRound true) s = .next
      (endActivation (activationEvent (activate (roundMade s t) t h) t (oldVersion s t) h.version) .success) := by
  show execFirmwareActivationRound true s = _
  simp only [execFirmwareActivationRound, ha, hm, hp, ho, hn]
  exact congrArg _ (if_neg (Bool.eq_false_iff.1 hleft))

end Round

/-! ### The SVN floor (R267) -/

section SvnFloor

variable {s : State} {type : Nat} {h : ImageHdr}

/-- The floor rises to an image that has been in use for an hour. -/
theorem exec_svnFloorRaise_raises (ha : tblFind? type s.sec.active = some h)
    (hour : tblGet s.tm.opSeconds type s.sec.activeSince + 3600 ≤ s.tm.opSeconds) (hlt : svnFloor s type < h.svn) :
    exec (.svnFloorRaise type) s = .next
      { s with sec := if type ≤ 3 then { s.sec with svnFw := h.svn } else { s.sec with svnProfile := h.svn } } := by
  show execSvnFloorRaise type s = _
  simp only [execSvnFloorRaise, ha]
  rw [if_neg (by simp; omega)]
  split <;> rfl

theorem exec_svnFloorRaise_stays (ha : tblFind? type s.sec.active = some h)
    (hno : s.tm.opSeconds < tblGet s.tm.opSeconds type s.sec.activeSince + 3600 ∨ h.svn ≤ svnFloor s type) :
    exec (.svnFloorRaise type) s = .next s := by
  show execSvnFloorRaise type s = _
  simp only [execSvnFloorRaise, ha]
  rw [if_pos (by simpa using hno)]

end SvnFloor

/-- Settles O17: the commits by the slot, the staged image and the cores that each tests, the rounds by how they end. -/
theorem firmwareImages : Obligations.FirmwareImages := by
  refine ⟨?_, fun s a h hs hp ha he hh ht => firmwareCommitActivate_cases hs hp ha he hh ht, ?_,
    fun s type h ha => ⟨exec_svnFloorRaise_raises ha, exec_svnFloorRaise_stays ha⟩⟩
  · intro s a hs hp put bad
    refine ⟨fun img prof => hs.completes rfl rfl hs.2, fun ha => ⟨fun h hh ht hv hk hle => ?_,
      fun h hh hb => firmwareCommit_refused hs ha (stagedError_unverified hh hp hb), fun h hh ht hv hk hlt =>
        firmwareCommit_refused hs ha ((stagedError_verified hh ht hv hk).trans (if_pos hlt)),
      commitServe_completes hs ha rfl rfl rfl, commitServe_slot hs ha (by decide), commitServe_slot hs ha (by decide),
      commitServe_slot hs ha (by decide)⟩, fun ha fs => ⟨commitServe_activating hs ha, commitServe_activating hs ha,
      commitServe_activating hs ha, commitServe_activating hs ha⟩⟩
    have he : stagedError s = none := (stagedError_verified hh ht hv hk).trans (if_neg (Nat.not_lt.2 hle))
    obtain ⟨hreplace, hnext⟩ := firmwareCommit_writes hs ha he hh ht
    refine ⟨hreplace, fun fs hfs => ?_, firmwareCommitSwap_swaps hs ha hh⟩
    have hgo := hnext fs hfs
    simpa only [swapCopies, writeB, tblFind?_tblSet_self, tblPut] using hgo
  · intro s fn cid t ha hm hl
    refine ⟨exec_firmwareActivationRound_failed ha hm hl, exec_firmwareActivationRound_held ha,
      exec_firmwareActivationRound_goesOn ha hm hl, fun ho hleft h hn => ?_⟩
    rw [hn]
    exact exec_firmwareActivationRound_last ha hm hl ho hleft hn

end Sys2Proof.Machine

namespace Sys2Proof.Machine

/-! ### A core handed over while a response waits for its posting (R234, R242, R421)

A stored response that has not been posted goes away when other cores take over, and its request runs again. -/

/-- The PF's Version Query through its BAR mailbox. -/
def earlierQuery : HmpReq :=
  { stream := ⟨.fn 0, .bar⟩, tag := 2, opcode := 0x0001, length := 0, payload := [], barrier := false, devtimeRx := 0, order := 0, rights := 0,
    dest := .bar 0 0 4096, copies := [], discard := false }

/-- PHASE 5, every island Running, and the response to `earlierQuery` waiting for its posting. -/
def unpostedState : State :=
  let answered := respTo earlierQuery 0x0001 hsSuccess 0 []
  { State.reset with
    isl := { islReset with islands := List.replicate 42 ⟨.running, none, false, false, false⟩ }
    boot := { bootReset with phase := 5 }
    hmp := { hmpReset with answers := [answered], toPost := [⟨earlierQuery, answered, false⟩], nextOrder := 1 } }

/-- The PF's Core Failover. -/
def failoverRequest : HmpHdr := { sender := .fn 0, transport := .bar, tag := 3, length := 4, barrier := false, room := 4096 }

theorem failoverRequest_served : HmpServed unpostedState failoverRequest ruleFailover := by
  unfold HmpServed hmpPasses
  decide

/-- Answers stored after a command. -/
def answersAfter : Host.Outcome State Fault Refusal → Nat
  | .next t => t.hmp.answers.length
  | _ => 0

/-- Core 0 is active: its hand-over takes the answer to the Version Query back, and that of the Core Failover is the only one left. -/
theorem answersAfter_coreFailoverReturn : answersAfter (exec (.coreFailoverReturn failoverRequest 0) unpostedState) = 1 := by
  decide +kernel

/-- Refutes O51: a hand-over takes back a stored answer that waits for its posting, so the list of answers is no longer than it was, and
the answer of the Core Failover does not stand beyond its old end, where the statement has it. -/
theorem not_coreFailovers : ¬ Obligations.CoreFailovers := by
  rintro ⟨-, -, hserved⟩
  obtain ⟨-, hknown, -⟩ := hserved unpostedState failoverRequest 0 failoverRequest_served
  obtain ⟨-, -, hactive⟩ := hknown (by decide) (by decide)
  obtain ⟨-, hruns, -⟩ := hactive (by decide)
  obtain ⟨hback, -⟩ := hruns (by decide) (by decide)
  obtain ⟨t, ht, -, ⟨r, hr, -⟩, -⟩ := hback (by decide)
  have hlen : t.hmp.answers.length = 1 := by
    have h := answersAfter_coreFailoverReturn
    rwa [ht] at h
  have hnone : t.hmp.answers.drop (plannedStep unpostedState).hmp.answers.length = [] := List.drop_eq_nil_of_le (Nat.le_of_eq hlen)
  exact List.not_mem_nil (hnone ▸ hr)

end Sys2Proof.Machine

namespace Sys2Proof.Machine

/-! ### Requests of the key rows -/

section KeyRequest

variable {s s' : State} {q : HmpHdr} {r : HmpRule} {op : Nat}

/-- A served request that is applied, where the engine's state is left alone. -/
theorem HmpServed.applies {g : State → State} (h : HmpServed s q r) (hg : g s = hmpDone s' q op) (hh : s'.hmp = s.hmp) :
    HmpApplies (.next (hmpServe s q r g)) s s' q op :=
  hmpDone_applies (h.next hg) ((discarded_congr (congrArg (·.requests) hh) q).trans h.2) (congrArg (·.answers) hh)

/-- A served request that starts a long operation, whose own start leaves the engine's state alone. -/
theorem HmpServed.starts {g : State → State} {f : State → Nat → State} (h : HmpServed s q r) (hg : g s = startLong s q op f)
    (hl : liveHandles s q.sender < 64) (hf : ∀ t n, (f t n).hmp = t.hmp) : HmpStarts (.next (hmpServe s q r g)) s q op f :=
  startLong_starts (h.next hg) hl
    ((discarded_congr (s := s) (congrArg (·.requests) (hf (withHandle s q op) s.hmp.nextHandle)) q).trans h.2)
    (congrArg (·.answers) (hf (withHandle s q op) s.hmp.nextHandle))

end KeyRequest

theorem length_padTo (n : Nat) (l : List Byte) : (padTo n l).length = n := by
  simp only [padTo, List.length_take, List.length_append, length_zeros]
  omega

/-! ### Key Slot Inject and Clear (R256, R259, R260, Table 11.5) -/

section KeySlot

variable {s : State} {q : HmpHdr} {f nsid tag : Nat} {ns : NsSt}

theorem putKey_hmp (s : State) (ns : NsSt) (f tag key : Nat) : (putKey s ns f tag key).hmp = s.hmp := by
  unfold putKey
  extract_lets n
  clear_value n
  cases n with
  | none => rfl
  | some n => rfl

/-- A key under a tag that no slot holds goes into the free slot. -/
theorem putKey_slot {n : Nat} (ht : tagSlot s ns.nsid tag = none) (hn : freeKeySlot s = some n) (key : Nat) :
    tblFind? n (putKey s ns f tag key).sec.slots = some
      { state := 3, owner := f, nsIndex := ns.nsid - 1, tag := tag % 65536, generation := 0,
        pins := (tblGet keySlotDefault n s.sec.slots).pins, key := key % 2 ^ 512 + 1 } := by
  simp only [putKey, ht, hn, putSlots, tblFind?_tblSet_self]

section Inject

variable (hs : HmpServed s q (ruleKeySlot 88)) (hf : f < 256) (hns : nsOf s nsid = some ns) {w eq : Bool} {key : Nat}
include hs

theorem keySlotInject_notOwn (ho : ownFn q.sender f = false) :
    HmpAnswers (exec (.keySlotInject q f nsid tag w eq key) s) s s q 0x0501 0x0011 0 [] :=
  hs.answers (if_pos (by rw [ho]; rfl))

include hf hns

theorem keySlotInject_refused (ho : ownFn q.sender f = true) {r : Nat} (hr : injectRefusal s ns f tag w eq = some r) :
    HmpAnswers (exec (.keySlotInject q f nsid tag w eq key) s) s s q 0x0501 0x0023 r [] := by
  refine hs.answers ?_
  simp only [ho, hns, hr, Nat.not_lt.2 (Nat.le_of_lt_succ hf), if_false]
  rfl

theorem keySlotInject_applies (ho : ownFn q.sender f = true) (hr : injectRefusal s ns f tag w eq = none) :
    HmpApplies (exec (.keySlotInject q f nsid tag w eq key) s) s (putKey s ns f tag key) q 0x0501 := by
  refine hs.applies ?_ (putKey_hmp ..)
  simp only [ho, hns, hr, Nat.not_lt.2 (Nat.le_of_lt_succ hf), if_false]
  rfl

end Inject

/-- The reasons against an injection for an attached function other than the PF, with Key Per I/O on. -/
theorem injectRefusal_attached (ha : attachedTo ns f = true) (hk : s.sec.kpioOn.contains ns.nsid = true) (w e : Bool) :
    injectRefusal s ns f tag w e = if (tblFind? f s.sec.keks).isNone then some 2 else if !w || e then some 1
      else match tagSlot s ns.nsid tag with
        | some x => if x.2.owner = f then none else some 4
        | none => if s.prof.kpioQuota ≤ slotsOwned s f then some 3 else none := by
  unfold injectRefusal
  exact if_neg (by simp [ha, List.contains_iff_mem.1 hk])

theorem injectRefusal_reasons (ha : attachedTo ns f = true) (hk : s.sec.kpioOn.contains ns.nsid = true) :
    (tblFind? f s.sec.keks = none → ∀ w e, injectRefusal s ns f tag w e = some 2) ∧
    (tblFind? f s.sec.keks ≠ none → ∀ e, injectRefusal s ns f tag false e = some 1 ∧ injectRefusal s ns f tag true true = some 1) ∧
    (tblFind? f s.sec.keks ≠ none → ∀ x, tagSlot s ns.nsid tag = some x → x.2.owner ≠ f → injectRefusal s ns f tag true false = some 4) ∧
    (tblFind? f s.sec.keks ≠ none → tagSlot s ns.nsid tag = none → s.prof.kpioQuota ≤ slotsOwned s f →
      injectRefusal s ns f tag true false = some 3) := by
  have keyed : tblFind? f s.sec.keks ≠ none → ¬(tblFind? f s.sec.keks).isNone = true := fun h => by simpa using h
  refine ⟨fun h w e => ?_, fun h e => ⟨?_, ?_⟩, fun h x hx ho => ?_, fun h hx hq => ?_⟩
  · rw [injectRefusal_attached ha hk, h]
    rfl
  · rw [injectRefusal_attached ha hk, if_neg (keyed h)]
    rfl
  · rw [injectRefusal_attached ha hk, if_neg (keyed h)]
    rfl
  · rw [injectRefusal_attached ha hk, if_neg (keyed h), hx]
    exact if_neg ho
  · rw [injectRefusal_attached ha hk, if_neg (keyed h), hx]
    exact if_pos hq

theorem tagSlot_clearTag (s : State) (nsid tag : Nat) : tagSlot (clearTag s nsid tag) nsid tag = none := by
  refine List.find?_eq_none.2 fun x hx => ?_
  exact Bool.eq_false_iff.1 ((Bool.not_eq_true' _).mp (List.mem_filter.1 hx).2)

/-- A clear of a tag that a slot holds, by who owns it. -/
theorem exec_keySlotClear_held (hs : HmpServed s q (ruleKeySlot 16)) (hf : f < 256) (hns : nsOf s nsid = some ns)
    (ho : ownFn q.sender f = true) (ha : f = 0 ∨ attachedTo ns f = true) {x : Nat × KeySlot} (hx : tagSlot s nsid tag = some x) :
    exec (.keySlotClear q f nsid tag) s = .next (if x.2.owner = f then hmpDone (clearTag s nsid tag) q 0x0501
      else secureRefused s q 0x0501 4) := by
  have hatt : (f != 0 && !attachedTo ns f) = false := by rcases ha with h | h <;> simp [h]
  refine hs.next ?_
  simp only [ho, hns, hatt, hx, Nat.not_lt.2 (Nat.le_of_lt_succ hf), if_false]
  rfl

end KeySlot

/-! ### Set Key Per I/O (R260) -/

section SetKeyPerIo

variable {s : State} {q : HmpHdr} {nsid b : Nat}

theorem setKeyPerIo_applies (hs : HmpServed s q ruleSetKpio) (hb : b ≤ 1) {ns : NsSt} (hns : nsOf s nsid = some ns) :
    ∃ l, HmpApplies (exec (.setKeyPerIo q nsid b) s) s { s with sec := { s.sec with kpioOn := l } } q 0x0501 ∧
      (nsid ∈ l ↔ b = 1) ∧ ∀ x, x ≠ nsid → (x ∈ l ↔ x ∈ s.sec.kpioOn) := by
  let rest := s.sec.kpioOn.filter (· != nsid)
  refine ⟨if b = 1 then rest ++ [nsid] else rest, hs.applies ?_ rfl, ?_, fun x hx => ?_⟩
  · rw [if_neg (Nat.not_lt.2 hb), hns]
  · by_cases h : b = 1 <;> simp [h, rest]
  · by_cases h : b = 1 <;> simp [h, rest, hx]

theorem setKeyPerIo_unknown (hs : HmpServed s q ruleSetKpio) (hb : b ≤ 1) (hns : nsOf s nsid = none) :
    HmpAnswers (exec (.setKeyPerIo q nsid b) s) s s q 0x0501 0x001B 4 [] := by
  refine hs.answers ?_
  rw [if_neg (Nat.not_lt.2 hb), hns]

end SetKeyPerIo

/-! ### Establish KEK (R261) -/

section EstablishKek

variable {s : State} {q : HmpHdr} {f : Nat} (hs : HmpServed s q (ruleKeySlot 112))
include hs

theorem establishKek_notOwn (ho : ownFn q.sender f = false) (b : Bool) :
    HmpAnswers (exec (.establishKek q f b) s) s s q 0x0501 0x0011 0 [] :=
  hs.answers (if_pos (by rw [ho]; rfl))

variable (hf : f < 256) (ho : ownFn q.sender f = true)
include hf ho

theorem establishKek_offCurve : HmpAnswers (exec (.establishKek q f false) s) s s q 0x0501 0x0023 7 [] := by
  refine hs.answers ?_
  simp only [ho, Nat.not_lt.2 (Nat.le_of_lt_succ hf), if_false]
  rfl

theorem establishKek_tooSmall (hr : q.room < 288) : HmpAnswers (exec (.establishKek q f true) s) s s q 0x0501 0x0016 288 [] := by
  refine hs.answers ?_
  simp only [ho, Nat.not_lt.2 (Nat.le_of_lt_succ hf), if_false, hr, if_true]
  rfl

/-- A KEK that is established is drawn from the random source, and so is the response. -/
theorem establishKek_draws (hr : 288 ≤ q.room) : ∃ t d, exec (.establishKek q f true) s = .next t ∧ d.length = 288 ∧
    HmpAnswered s t q 0x0501 0 0 d ∧ t.sec = { s.sec with keks := tblSet f (fresh s 0) s.sec.keks } ∧ t.free = s.free + 1 := by
  let out := padTo 288 (Config.freeBytes s.free)
  let drawn : State := tickFree { s with sec := { s.sec with keks := tblSet f (fresh s 0) s.sec.keks } }
  have hlen : out.length = 288 := length_padTo ..
  have hreply : reply drawn q 0x0501 out = answer drawn q 0x0501 hsSuccess 0 out := by
    unfold reply
    rw [if_neg (by rw [hlen]; exact Nat.not_lt.2 hr)]
  have hgo : exec (.establishKek q f true) s = .next (answer drawn q 0x0501 hsSuccess 0 out) := by
    refine hs.next ?_
    simp only [ho, Nat.not_lt.2 (Nat.le_of_lt_succ hf), if_false, Nat.not_lt.2 hr]
    exact hreply
  obtain ⟨hsame, hanswered⟩ := answer_effect drawn q 0x0501 hsSuccess 0 out hs.2
  exact ⟨_, out, hgo, hlen, hanswered, congrArg (·.sec) hsame.1, congrArg (·.free) hsame.1⟩

end EstablishKek

/-! ### Media key rollover (R255, R257, R262) -/

section Rollover

variable {s : State} {q : HmpHdr} {nsid : Nat}

theorem rollKey_hmp (s : State) (nsid : Nat) : (rollKey s nsid).hmp = s.hmp := by
  unfold rollKey
  split
  · rfl
  · rfl

/-- Key Rollover of a namespace: refused with reason 6 while one runs, else a long operation that begins with the new key. -/
theorem exec_keyRollover_known (hs : HmpServed s q ruleRollover) {ns : NsSt} (hns : nsOf s nsid = some ns) :
    exec (.keyRollover q nsid) s = .next (if s.sec.rollovers.any (·.1 == nsid) then secureRefused s q 0x0502 6
      else startLong s q 0x0502 fun s h =>
        let s := rollKey s nsid
        { s with sec := { s.sec with rollovers := s.sec.rollovers ++ [(nsid, q.sender, h)] } }) := by
  refine hs.next ?_
  rw [hns]

theorem keyRollover_unknown (hs : HmpServed s q ruleRollover) (hns : nsOf s nsid = none) :
    HmpAnswers (exec (.keyRollover q nsid) s) s s q 0x0502 0x001B 0 [] := by
  refine hs.answers ?_
  rw [hns]

theorem keyRollover_running (hs : HmpServed s q ruleRollover) {ns : NsSt} (hns : nsOf s nsid = some ns)
    (hr : ∃ r ∈ s.sec.rollovers, r.1 = nsid) : HmpAnswers (exec (.keyRollover q nsid) s) s s q 0x0502 0x0023 6 [] := by
  obtain ⟨r, hr, hn⟩ := hr
  refine answer_answers ((exec_keyRollover_known hs hns).trans (congrArg _ (if_pos ?_))) hs.2 rfl
  exact List.any_eq_true.2 ⟨r, hr, beq_iff_eq.2 hn⟩

theorem keyRollover_starts (hs : HmpServed s q ruleRollover) {ns : NsSt} (hns : nsOf s nsid = some ns)
    (hr : ∀ r ∈ s.sec.rollovers, r.1 ≠ nsid) (hl : liveHandles s q.sender < 64) :
    HmpStarts (exec (.keyRollover q nsid) s) s q 0x0502 fun s h =>
      let s := rollKey s nsid
      { s with sec := { s.sec with rollovers := s.sec.rollovers ++ [(nsid, q.sender, h)] } } := by
  refine hs.starts ?_ hl fun t n => rollKey_hmp t nsid
  rw [hns]
  refine if_neg fun hany => ?_
  obtain ⟨r, hmem, hn⟩ := List.any_eq_true.1 hany
  exact hr r hmem (beq_iff_eq.1 hn)

/-- The media key slots of a namespace are the two that its number gives. -/
theorem mediaSlots_number {e : Nat × KeySlot} (h : e ∈ mediaSlots s nsid) : e.1 = 2 * (nsid - 1) ∨ e.1 = 2 * (nsid - 1) + 1 := by
  simp only [mediaSlots, List.map_cons, List.map_nil, List.mem_cons, List.not_mem_nil, or_false] at h
  rcases h with rfl | rfl
  · exact .inl rfl
  · exact .inr rfl

/-- The new media key takes the other slot, with the next GENERATION; the old one stays at STATE 2. -/
theorem rollKey_slots {old : Nat × KeySlot} (h : (mediaSlots s nsid).find? (fun e => e.2.state == 1) = some old) :
    let n := if old.1 = 2 * (nsid - 1) then old.1 + 1 else 2 * (nsid - 1)
    (tblFind? n (rollKey s nsid).sec.slots).map (fun k => (k.state, k.generation, k.key)) =
        some (1, (old.2.generation + 1) % 256, fresh s 0 % 2 ^ 512 + 1) ∧
      tblFind? old.1 (rollKey s nsid).sec.slots = some { old.2 with state := 2 } := by
  intro n
  have hne : old.1 ≠ n := by
    have hnum := mediaSlots_number (List.mem_of_find?_eq_some h)
    simp only [n]
    split <;> omega
  simp only [rollKey, h]
  refine ⟨congrArg _ (tblFind?_tblSet_self ..), (tblFind?_tblSet_ne hne ..).trans (tblFind?_tblSet_self ..)⟩

/-- The state without the keys of the earlier generation of a namespace. -/
def oldKeysCleared (s : State) (nsid : Nat) : State :=
  { s with sec := putSlots s.sec (s.sec.slots.filter fun e => !(e.2.state == 2 && e.2.nsIndex == nsid - 1)) }

/-- The end of a rollover waits for the last data of the old generation. -/
theorem exec_keyRolloverEnd_running (hm : mgmtDown s = false) : exec (.keyRolloverEnd nsid) s =
    .next (if rolloverDone s nsid then endRollover (storeKeys (oldKeysCleared s nsid)) nsid 0 else s) := by
  show execKeyRolloverEnd nsid s = _
  unfold execKeyRolloverEnd
  rw [hm]
  cases rolloverDone s nsid with
  | false => rfl
  | true => rfl

/-- The key cache keeps the slots whose key the new table leaves as it was. -/
theorem putSlots_keyCache (x : SecSt) (slots : Tbl Nat KeySlot) : ∀ k ∈ (putSlots x slots).keyCache,
    (tblFind? k slots).map (·.key) = (tblFind? k x.slots).map (·.key) := fun _ hk =>
  beq_iff_eq.1 (List.mem_filter.1 hk).2

end Rollover

/-- Settles O19: each request by the objections that it tests in turn, and what it changes where there is none. -/
theorem keySlotsAndKeks : Obligations.KeySlotsAndKeks := by
  refine ⟨⟨?_, fun s ns f tag ha _ hk => injectRefusal_reasons ha hk, ?_, fun s q nsid b hs => ⟨fun hb ns hns =>
      setKeyPerIo_applies hs hb hns, setKeyPerIo_unknown hs, fun hb => hs.next (if_pos hb)⟩⟩, ?_, ?_,
    fun s nsid old h => rollKey_slots h, fun s nsid hm => ⟨fun hd => ?_, fun hd => ?_, fun x slots => ⟨rfl, putSlots_keyCache x slots⟩⟩⟩
  · intro s q f nsid tag key w eq ns hs hf hns go
    exact ⟨keySlotInject_notOwn hs, fun ho r hr => keySlotInject_refused hs hf hns ho hr,
      fun ho hr => ⟨keySlotInject_applies hs hf hns ho hr, fun n ht hn => putKey_slot ht hn key⟩⟩
  · intro s q f nsid tag ns hs hf hns ho ha x hx
    have hgo := exec_keySlotClear_held hs hf hns ho ha hx
    refine ⟨fun hown => ⟨?_, tagSlot_clearTag ..⟩, fun hown => answer_answers (hgo.trans (congrArg _ (if_neg hown))) hs.2 rfl⟩
    exact hmpDone_applies (hgo.trans (congrArg _ (if_pos hown))) hs.2 rfl
  · intro s q f hs hf go
    exact ⟨establishKek_notOwn hs, fun ho => ⟨establishKek_offCurve hs hf ho, establishKek_tooSmall hs hf ho,
      establishKek_draws hs hf ho⟩⟩
  · intro s q nsid hs
    exact ⟨keyRollover_unknown hs, fun ns hns => keyRollover_running hs hns, fun ns hns => keyRollover_starts hs hns⟩
  · rw [exec_keyRolloverEnd_running hm, hd]
    rfl
  · rw [exec_keyRolloverEnd_running hm, hd]
    rfl

end Sys2Proof.Machine

namespace Sys2Proof.Machine

/-! ### Commands that test one condition -/

section NextIf

variable {c : Prop} [Decidable c] {s t u : State}

/-- A command whose condition holds goes by its first branch. -/
theorem next_if_pos (hc : c) (h : s = u) : (.next (if c then s else t) : Host.Outcome State Fault Refusal) = .next u :=
  congrArg _ ((if_pos hc).trans h)

theorem next_if_neg (hc : ¬c) (h : t = u) : (.next (if c then s else t) : Host.Outcome State Fault Refusal) = .next u :=
  congrArg _ ((if_neg hc).trans h)

end NextIf

/-! ### Narrow writes (R250, R252, R280, R281, R285) -/

section NarrowWrites

variable {s : State} {chB : Bool} {p a : Nat} {ws : List (Nat × Byte)}

theorem exec_mergeWriteback_denied (hr : dramRuns s chB = true) (hw : ws ≠ []) (hp : portMayWrite s chB p a = false) :
    exec (.mergeWriteback chB a ⟨p, ws⟩) s = .next (denyWrite s p a) :=
  next_if_neg (by simp [hr]) (if_pos (by simp [hw, hp]))

theorem exec_mergeWriteback_taken (hr : dramRuns s chB = true) (h : ws = [] ∨ portMayWrite s chB p a = true) :
    exec (.mergeWriteback chB a ⟨p, ws⟩) s = .next (mergeSettle (takeNarrow s chB p a ws) chB a) :=
  next_if_neg (by simp [hr]) (if_neg (by rcases h with h | h <;> simp [h]))

/-- An entry is written back when its mask is full or its microsecond has passed, and writes that wait take its room. -/
theorem mergeSettle_entry {e : MergeEntry} (he : ((dramCh s chB).merge.find? fun e => e.addr == a) = some e) : mergeSettle s chB a =
    if maskFull e = true ∨ e.since + 1 ≤ now s then
      serveWaiting (writeEntryBack s chB e) chB (dramCh (writeEntryBack s chB e) chB).waiting.length
    else s := by
  simp only [mergeSettle, he, Bool.or_eq_true, decide_eq_true_eq]

theorem mergeSettle_none (he : ((dramCh s chB).merge.find? fun e => e.addr == a) = none) : mergeSettle s chB a = s := by
  simp only [mergeSettle, he]

/-- Byte writes within a codeword, at a port of Table 12.6. -/
theorem takeNarrow_within (hp : p < 7) (hw : ws ≠ []) (h64 : ∀ w ∈ ws, w.1 < 64) : takeNarrow s chB p a ws =
    if ((dramCh s chB).waiting.any (·.port == p) || !portOpen (dramCh s chB) p) = true then
      updDram s chB fun y => { y with waiting := y.waiting ++ [⟨p, now s, a, ws⟩] }
    else match mergeTake (dramCh s chB) (now s) a ws with
      | some y => updDram s chB fun _ => countServed p y
      | none => updDram s chB fun y => { y with waiting := y.waiting ++ [⟨p, now s, a, ws⟩] } := by
  have hws : (ws.filter fun w => decide (w.1 < 64)) = ws := List.filter_eq_self.2 fun w hmem => decide_eq_true (h64 w hmem)
  unfold takeNarrow
  rw [hws]
  exact if_neg (by simp [hw, hp])

theorem takeNarrow_free (hp : p < 7) (hw : ws ≠ []) (h64 : ∀ w ∈ ws, w.1 < 64)
    (hfree : (∀ x ∈ (dramCh s chB).waiting, x.port ≠ p) ∧ portOpen (dramCh s chB) p = true) {y : DramCh}
    (hy : mergeTake (dramCh s chB) (now s) a ws = some y) : takeNarrow s chB p a ws = updDram s chB fun _ => countServed p y := by
  rw [takeNarrow_within hp hw h64, if_neg (by simpa [hfree.2] using hfree.1), hy]

theorem takeNarrow_waits (hp : p < 7) (hw : ws ≠ []) (h64 : ∀ w ∈ ws, w.1 < 64)
    (h : ¬((∀ x ∈ (dramCh s chB).waiting, x.port ≠ p) ∧ portOpen (dramCh s chB) p = true) ∨
      mergeTake (dramCh s chB) (now s) a ws = none) :
    takeNarrow s chB p a ws = updDram s chB fun y => { y with waiting := y.waiting ++ [⟨p, now s, a, ws⟩] } := by
  rw [takeNarrow_within hp hw h64]
  by_cases hbusy : ((dramCh s chB).waiting.any (·.port == p) || !portOpen (dramCh s chB) p) = true
  · rw [if_pos hbusy]
  · have hfree : (∀ x ∈ (dramCh s chB).waiting, x.port ≠ p) ∧ portOpen (dramCh s chB) p = true := by simpa using hbusy
    rw [if_neg hbusy, h.resolve_left (not_not.2 hfree)]

/-- A port whose master has no region over the address may not write it. -/
theorem portMayWrite_outside (h : ∀ m, portMaster p = some m → ∀ r ∈ s.sec.regions, ¬(r.base ≤ a / 64 ∧ a / 64 ≤ r.limit))
    (hm : (portMaster p).isSome = true) : portMayWrite s chB p a = false := by
  obtain ⟨m, hm⟩ := Option.isSome_iff_exists.1 hm
  simp only [portMayWrite, hm, regionAllows, List.any_eq_false]
  intro r hr
  have hout := h m hm r hr
  simp only [Bool.and_eq_true, decide_eq_true_eq]
  rintro ⟨⟨⟨-, hlo⟩, hhi⟩, -⟩
  exact hout ⟨hlo, hhi⟩

theorem dramCh_updDram (s : State) (chB : Bool) (f : DramCh → DramCh) : dramCh (updDram s chB f) chB = f (dramCh s chB) := by
  cases chB <;> rfl

/-- Every way to write an entry back takes it from the buffer. -/
theorem writeEntryBack_merge (s : State) (chB : Bool) (e : MergeEntry) : (dramCh (writeEntryBack s chB e) chB).merge =
    (dramCh s chB).merge.filter fun m => m.addr != e.addr := by
  unfold writeEntryBack
  extract_lets x base news o
  split
  · rw [dramCh_updDram]
    rfl
  · split
    · rw [dramCh_updDram]
      rfl
    · rw [dramCh_updDram]
      rfl

theorem dramRead_stale (hm : (dramCh s chB).merge = []) (hf : isFresh (dramCh s chB) (granule a) = false) : dramRead s chB a = some 0 := by
  simp only [dramRead, hm, hf]
  rfl

end NarrowWrites

/-! ### Refresh (R283, R286) -/

section Refresh

variable {s : State} {chB : Bool} {r b : Nat}

theorem exec_dramRefresh_resting (h : (dramCh s chB).ranks.length ≤ r ∨ (rankOf (dramCh s chB) r).use = .excluded ∨
    (rankOf (dramCh s chB) r).selfRefresh = true) : exec (.dramRefresh chB r b) s = .next s :=
  next_if_pos (by rcases h with h | h | h <;> simp [h]) rfl

/-- A rank that is refreshed: not yet due, postponed in a panic, or refreshed, which makes up for one outside a panic. -/
theorem exec_dramRefresh_rank (hr : dramRuns s chB = true) (hlt : r < (dramCh s chB).ranks.length)
    (hu : (rankOf (dramCh s chB) r).use ≠ .excluded) (hs : (rankOf (dramCh s chB) r).selfRefresh = false) :
    exec (.dramRefresh chB r b) s = .next (
      let refreshed := updRank s chB r fun y => { y with lastRefresh := tblSet b (now s) y.lastRefresh }
      if 100 * (now s - tblGet 0 b (rankOf (dramCh s chB) r).lastRefresh) < tRefi (rankOf (dramCh s chB) r) then s
      else if (dramCh s chB).panicSince.isSome = true ∧ (dramCh s chB).postponed < 4 then
        updDram s chB fun y => { y with postponed := y.postponed + 1 }
      else if (dramCh s chB).panicSince.isNone = true then updDram refreshed chB fun y => { y with postponed := y.postponed - 1 }
      else refreshed) := by
  show execDramRefresh chB r b s = _
  simp [execDramRefresh, hr, Nat.not_le.2 hlt, hu, hs]

end Refresh

/-! ### Panic (R286) -/

section Panic

variable {s : State} {chB : Bool}

theorem panicHolds_iff : panicHolds s chB = true ↔
    ∃ r ∈ (dramCh s chB).waiting, realTime r.port = true ∧ s.prof.panicLat ≤ 20 * (now s - r.since) := by
  simp [panicHolds]

theorem exec_dramPanicLong_calm (h : (dramCh s chB).panicSince = none) : exec (.dramPanicLong chB) s = .next s := by
  show execDramPanicLong chB s = _
  simp only [execDramPanicLong, h]

/-- A panic raises its source once, when it has lasted longer than 100 µs. -/
theorem exec_dramPanicLong_since {t : Nat} (h : (dramCh s chB).panicSince = some t) : exec (.dramPanicLong chB) s = .next (
    if now s ≤ t + 100 ∨ (dramCh s chB).panicLongRaised = true then s
    else raiseFault (updDram s chB fun x => { x with panicLongRaised := true }) (if chB then 288 else 282)
      (capOf 7 5 0 (dramIsland chB) (dramIsland chB))) := by
  have hsrc : dramSrc chB 3 = if chB then 288 else 282 := by cases chB <;> rfl
  show execDramPanicLong chB s = _
  simp only [execDramPanicLong, h, hsrc, Bool.or_eq_true, decide_eq_true_eq]

end Panic

/-! ### Row disturb (R287, R298) -/

section RowDisturb

variable {s : State} {chB : Bool} {p r b row n : Nat}

/-- A count of the row by the port. -/
def sameRow (p r b row : Nat) (x : RowCount) : Bool := x.port == p && x.rank == r && x.bank == b && x.row == row

/-- The row is throttled for the port already. -/
def rowThrottled (s : State) (chB : Bool) (p r b row : Nat) : Bool :=
  (dramCh s chB).rows.any fun x => sameRow p r b row x && x.throttled

/-- The activations reach the window's limit, at a port other than P1. -/
def rowHit (s : State) (chB : Bool) (p n : Nat) : Bool := decide ((dramCh s chB).rowLimit * 256 ≤ n) && p != 1

/-- The activations of a row by a port counted. -/
def rowCounted (s : State) (chB : Bool) (p r b row n : Nat) : State :=
  updDram s chB fun x => { x with rows := keepRows p r b ((x.rows.filter fun x => !sameRow p r b row x) ++
    [⟨p, r, b, row, n, rowThrottled s chB p r b row || rowHit s chB p n⟩]) }

theorem exec_rowActThrottle_counted (hr : dramRuns s chB = true) (hp : p < 7)
    (h : rowHit s chB p n = false ∨ rowThrottled s chB p r b row = true) :
    exec (.rowActThrottle chB p r b row n) s = .next (rowCounted s chB p r b row n) := by
  have hnot : ¬(rowHit s chB p n && !rowThrottled s chB p r b row) = true := by rcases h with h | h <;> simp [h]
  exact next_if_neg (by simp [hr, hp]) (if_neg hnot)

/-- The first time that a row reaches the limit in the window is recorded. -/
theorem exec_rowActThrottle_first (hr : dramRuns s chB = true) (hp : p < 7) (hh : rowHit s chB p n = true)
    (ht : rowThrottled s chB p r b row = false) : exec (.rowActThrottle chB p r b row n) s = .next
      (recordEvent (rowCounted s chB p r b row n) 0x0053 1 0 (dramIsland chB) (leBytes 1 (dramNo chB) ++ leBytes 1 p ++ leBytes 1 r ++
        leBytes 1 b ++ leBytes 4 row ++ leBytes 4 n)) := by
  have hfirst : (rowHit s chB p n && !rowThrottled s chB p r b row) = true := by simp [hh, ht]
  exact next_if_neg (by simp [hr, hp]) (if_pos hfirst)

end RowDisturb

/-! ### Loft frames (R288) -/

section Loft

variable {s : State} {n p : Nat} {l : LoftPage}

theorem exec_loftFrameReplicate_absent (h : (s.dram.loft.find? fun l => l.nsid == n && l.page == p) = none) :
    exec (.loftFrameReplicate n p) s = .next s := by
  show execLoftFrameReplicate n p s = _
  simp only [execLoftFrameReplicate, h]

theorem exec_loftFrameReplicate_resident (h : (s.dram.loft.find? fun l => l.nsid == n && l.page == p) = some l) :
    exec (.loftFrameReplicate n p) s = .next (replicateLoft s l) := by
  show execLoftFrameReplicate n p s = _
  simp only [execLoftFrameReplicate, h]

/-- A channel has a frame free, and its island runs. -/
def frameFree (s : State) (chB : Bool) : Prop := loftUsed s chB < loftFrames s ∧ notRunning s (dramIsland chB) = false

/-- The state with another replica of a page, in a channel. -/
def frameCopied (s : State) (l : LoftPage) (chB : Bool) : State :=
  { s with dram := { s.dram with loft := s.dram.loft.map fun x =>
    if x.nsid = l.nsid ∧ x.page = l.page then { x with replicas := x.replicas ++ [chB] } else x } }

/-- A frame is copied to its own channel, else to the other, where one has a frame free. -/
theorem replicateLoft_copies (h : l.replicas.length < 4) :
    (frameFree s l.chB → replicateLoft s l = frameCopied s l l.chB) ∧
    (¬frameFree s l.chB → frameFree s (!l.chB) → replicateLoft s l = frameCopied s l (!l.chB)) ∧
    (¬frameFree s l.chB → ¬frameFree s (!l.chB) → replicateLoft s l = s) := by
  have hfree : ∀ c : Bool, (decide (loftUsed s c < loftFrames s) && !notRunning s (if c then 7 else 6)) = true ↔ frameFree s c := by
    intro c
    simp only [frameFree, dramIsland, Bool.and_eq_true, decide_eq_true_eq, Bool.not_eq_true']
  have hput : ∀ c : Bool, { s with dram := { s.dram with loft := s.dram.loft.map fun x =>
      if x.nsid == l.nsid && x.page == l.page then { x with replicas := x.replicas ++ [c] } else x } } = frameCopied s l c := by
    intro c
    simp only [frameCopied, Bool.and_eq_true, beq_iff_eq]
  refine ⟨fun h1 => (if_neg (Nat.not_le.2 h)).trans ?_, fun h1 h2 => (if_neg (Nat.not_le.2 h)).trans ?_,
    fun h1 h2 => (if_neg (Nat.not_le.2 h)).trans ?_⟩
  · exact (if_pos ((hfree _).2 h1)).trans (hput _)
  · exact (if_neg (mt (hfree _).1 h1)).trans ((if_pos ((hfree _).2 h2)).trans (hput _))
  · exact (if_neg (mt (hfree _).1 h1)).trans (if_neg (mt (hfree _).1 h2))

end Loft

/-- Settles O45: each command of a DRAM channel by the conditions that it tests. -/
theorem dramAccesses : Obligations.DramAccesses := by
  refine ⟨?_, fun s chB p a ws hr => ⟨exec_mergeWriteback_denied hr, exec_mergeWriteback_taken hr⟩,
    fun s chB a => ⟨mergeSettle_none, fun e he => ⟨fun h => (mergeSettle_entry he).trans (if_pos h), fun hm hn =>
      (mergeSettle_entry he).trans (if_neg fun h => h.elim (by simp [hm]) (Nat.not_le.2 hn))⟩⟩,
    fun s chB p a ws hp hw h64 => ⟨fun hfree y hy => takeNarrow_free hp hw h64 hfree hy, takeNarrow_waits hp hw h64⟩,
    fun s chB p a => portMayWrite_outside, ?_, fun s chB a => dramRead_stale, fun s chB r b => exec_dramRefresh_resting, ?_,
    fun x => rfl, ?_, ?_⟩
  · intro s chB hr a b r n k p ws ts o o' ok
    have stopped : (!dramRuns s chB) = true := by rw [hr]; rfl
    refine ⟨next_if_pos stopped rfl, next_if_pos (by simp [hr]) rfl, next_if_pos (by simp [hr]) rfl, next_if_pos (by simp [hr]) rfl,
      next_if_pos (by simp [hr]) rfl, next_if_pos (by simp [hr]) rfl, next_if_neg (by simp [hr]) rfl, next_if_pos (by simp [hr]) rfl,
      next_if_neg (by simp [hr]) rfl, next_if_pos (by simp [hr]) rfl, next_if_pos (by simp [hr]) rfl⟩
  · intro s chB e x hx
    rw [writeEntryBack_merge] at hx
    simpa using (List.mem_filter.1 hx).2
  · intro s chB r b hr hlt hu hs refreshed
    have hgo := exec_dramRefresh_rank (b := b) hr hlt hu hs
    refine ⟨fun hd => hgo.trans (congrArg _ (if_pos hd)), fun hd => ?_⟩
    have hdue := hgo.trans (congrArg _ (if_neg (Nat.not_lt.2 hd)))
    refine ⟨fun hp h4 => hdue.trans (congrArg _ (if_pos ⟨hp, h4⟩)), fun hp h4 => ?_, fun hp => ?_⟩
    · exact hdue.trans (congrArg _ ((if_neg fun h => Nat.not_lt.2 h4 h.2).trans (if_neg (by simpa [Option.isSome_iff_ne_none] using hp))))
    · exact hdue.trans (congrArg _ ((if_neg (by simp [hp])).trans (if_pos (by simp [hp]))))
  · intro s chB
    refine ⟨fun hr hp => next_if_neg (by simp [hr, hp]) rfl, fun hp => next_if_pos (by simp [hp]) rfl, panicHolds_iff,
      fun h => next_if_pos h rfl, fun h => next_if_neg (by simp [h]) rfl, exec_dramPanicLong_calm, fun t ht => ⟨fun h => ?_, fun hlt hn => ?_⟩,
      fun r b hr hlt hb => next_if_neg (by simp [hr, hlt, hb]) rfl, fun r b h => next_if_pos (by rcases h with h | h <;> simp [h]) rfl,
      rfl, fun p r b row n hp => next_if_pos (by simp [hp]) rfl, fun p r b row n hr hp => ?_⟩
    · exact (exec_dramPanicLong_since ht).trans (congrArg _ (if_pos h))
    · exact (exec_dramPanicLong_since ht).trans (congrArg _ (if_neg (by simp [hn, hlt])))
    · exact ⟨exec_rowActThrottle_counted hr hp, exec_rowActThrottle_first hr hp⟩
  · intro s n p
    refine ⟨exec_loftFrameReplicate_absent, fun l hl => ⟨exec_loftFrameReplicate_resident hl, fun h4 => if_pos h4, fun h4 => ?_⟩⟩
    exact replicateLoft_copies h4

end Sys2Proof.Machine

namespace Sys2Proof.Machine

theorem writeProtect_effect (s : State) (id : Nat) : ∃ fl, writeProtect s id = { s with fl := fl } := by
  unfold writeProtect
  split <;> exact ⟨_, rfl⟩

/-- What a change of an island's state touches: the islands, the flash channels' pins and the fan's drive. -/
theorem setIslandState_effect (s : State) (id : Nat) (st : IslState) :
    ∃ x fl air, setIslandState s id st = { s with isl := x, fl := fl, air := air } := by
  unfold setIslandState
  extract_lets s1
  obtain ⟨fl, hw⟩ := writeProtect_effect s1 id
  split
  · exact ⟨_, _, _, rfl⟩
  · exact ⟨_, _, _, rfl⟩
  · rw [hw]
    split <;> split <;> exact ⟨_, _, _, rfl⟩

@[simp] theorem setIslandState_boot (s : State) (id : Nat) (st : IslState) : (setIslandState s id st).boot = s.boot := by
  obtain ⟨x, fl, air, h⟩ := setIslandState_effect s id st
  rw [h]

/-! ### What keeps the phase and the kind of a start-up

The bring-up of the flash (R389) can reach admission, retirement of dies, relocation and compaction. None of it enters a phase or
changes the kind of the start-up; the clean-start mark is all of the boot record that it writes. One lemma for each operation, in
the order of the model. -/

/-- PHASE and the kind of the start-up in progress are the same in both states. -/
abbrev StartKept (s t : State) : Prop := t.boot.phase = s.boot.phase ∧ t.boot.startKind = s.boot.startKind

theorem StartKept.refl (s : State) : StartKept s s := ⟨rfl, rfl⟩

theorem StartKept.trans {s t u : State} (h : StartKept s t) (h' : StartKept t u) : StartKept s u :=
  ⟨h'.1.trans h.1, h'.2.trans h.2⟩

theorem StartKept.getD {s : State} {o : Option State} (h : ∀ r, o = some r → StartKept s r) : StartKept s (o.getD s) := by
  cases o with
  | none => exact StartKept.refl s
  | some r => exact h r rfl

theorem StartKept.ite {s a b : State} {c : Prop} [Decidable c] (ha : StartKept s a) (hb : StartKept s b) :
    StartKept s (if c then a else b) := by
  split
  · exact ha
  · exact hb

theorem forEach_startKept {α : Type} (l : List α) (f : α → State → State) (s : State) (h : ∀ a s, StartKept s (f a s)) :
    StartKept s (forEach l f s) :=
  List.foldlRecOn (motive := StartKept s) l _ (StartKept.refl s) fun t ht a _ => ht.trans (h a t)

/-- A fold that books step by step, or gives up: what it returns keeps the start where each step does. -/
theorem foldl_startKept {α β : Type} {p : β → State} {f : Option β → α → Option β} {s : State} {l : List α} {acc : Option β}
    {r : β} (hr : l.foldl f acc = some r) (h : ∀ r, acc = some r → StartKept s (p r))
    (hf : ∀ acc a, (∀ r, acc = some r → StartKept s (p r)) → ∀ r, f acc a = some r → StartKept s (p r)) : StartKept s (p r) :=
  List.foldlRecOn (motive := fun o => ∀ r, o = some r → StartKept s (p r)) l f h (fun acc ha a _ => hf acc a ha) r hr

@[simp] theorem forEach_phase {α : Type} (l : List α) (f : α → State → State) (s : State)
    (h : ∀ a s, (f a s).boot.phase = s.boot.phase) : (forEach l f s).boot.phase = s.boot.phase :=
  forEach_proj (·.boot.phase) l f s h

@[simp] theorem forEach_startKind {α : Type} (l : List α) (f : α → State → State) (s : State)
    (h : ∀ a s, (f a s).boot.startKind = s.boot.startKind) : (forEach l f s).boot.startKind = s.boot.startKind :=
  forEach_proj (·.boot.startKind) l f s h

theorem if_phase (c : Prop) [Decidable c] (s t : State) :
    (if c then s else t).boot.phase = if c then s.boot.phase else t.boot.phase := by
  split <;> rfl

theorem if_startKind (c : Prop) [Decidable c] (s t : State) :
    (if c then s else t).boot.startKind = if c then s.boot.startKind else t.boot.startKind := by
  split <;> rfl

/-! ### Tokens, interrupts, wakes and completions -/

@[simp] theorem sendToken_startKept (s : State) (src dst : Nat) (data : Bool) (tag : Nat) :
    StartKept s (sendToken s src dst data tag) := by
  unfold sendToken
  dsimp only
  (repeat' split) <;> simp [StartKept]

@[simp] theorem raiseVector_startKept (s : State) (f v : Nat) : StartKept s (raiseVector s f v) := ⟨rfl, rfl⟩

@[simp] theorem kickCores_startKept (s : State) : StartKept s (kickCores s) := ⟨rfl, rfl⟩

@[simp] theorem linkPower_startKept (s : State) (p : LinkPower) : StartKept s (linkPower s p) := by
  unfold linkPower
  split <;> simp [StartKept]

@[simp] theorem beginWake_startKept (s : State) (cause : WakeCause) : StartKept s (beginWake s cause) := by
  simp [beginWake, StartKept, if_phase, if_startKind]

@[simp] theorem completionIrq_startKept (s : State) (fn cqid : Nat) : StartKept s (completionIrq s fn cqid) := by
  unfold completionIrq
  dsimp only
  (repeat' split) <;> simp [StartKept]

@[simp] theorem writeEntry_startKept (s : State) (c : Completion) (v : Option VerdictInfo) : StartKept s (writeEntry s c v) := by
  simp [writeEntry, StartKept]

@[simp] theorem postEntry_startKept (s : State) (c : Completion) (v : Option VerdictInfo) : StartKept s (postEntry s c v) := by
  unfold postEntry
  dsimp only
  (repeat' split) <;> simp [StartKept]

@[simp] theorem logError_startKept (s : State) (fn sqid cid : Nat) (st : NvmeStatus) :
    StartKept s (logError s fn sqid cid st) := by
  unfold logError
  split <;> simp [StartKept]

@[simp] theorem postCompletion_startKept (s : State) (fn sqid cid : Nat) (st : NvmeStatus) (dw0 : Nat) (data : List Byte)
    (units : List (Option Nat)) (v : Option VerdictInfo) : StartKept s (postCompletion s fn sqid cid st dw0 data units v) := by
  unfold postCompletion
  dsimp only
  split <;> simp [StartKept]

@[simp] theorem postAer_startKept (f : Nat) (s : State) (cid dw0 : Nat) : StartKept s (postAer f s cid dw0) := by
  simp [postAer, StartKept]

@[simp] theorem asyncEvent_startKept (s : State) (f type info log enable g : Nat) :
    StartKept s (asyncEvent s f type info log enable (postAer g)) := by
  unfold asyncEvent
  dsimp only
  (repeat' split) <;> simp [StartKept]

@[simp] theorem asyncAll_startKept (s : State) (type info log enable : Nat) : StartKept s (asyncAll s type info log enable) := by
  simp [asyncAll, StartKept]

@[simp] theorem setWarning_startKept (s : State) (bit : Nat) : StartKept s (setWarning s bit) := by
  unfold setWarning
  split <;> simp [StartKept]

@[simp] theorem clearWarning_startKept (s : State) (bit : Nat) : StartKept s (clearWarning s bit) := ⟨rfl, rfl⟩

@[simp] theorem updMeter_startKept (s : State) (fn : Nat) (g : Meter → Meter) : StartKept s (updMeter s fn g) := ⟨rfl, rfl⟩

/-! ### Fault sources -/

@[simp] theorem refreshAlive_startKept (s : State) : StartKept s (refreshAlive s) := by
  unfold refreshAlive
  split <;> simp [StartKept]

@[simp] theorem refreshFaultLed_startKept (s : State) : StartKept s (refreshFaultLed s) := by
  unfold refreshFaultLed
  (repeat' split) <;> simp [StartKept]

@[simp] theorem severeChannel_startKept (s : State) (c : Nat) : StartKept s (severeChannel s c) := by
  unfold severeChannel
  dsimp only
  (repeat' split) <;> simp [StartKept]

@[simp] theorem reportSevere_startKept (s : State) (scope : Nat) : StartKept s (reportSevere s scope) := by
  unfold reportSevere
  split
  · exact StartKept.trans ⟨rfl, rfl⟩ (forEach_startKept _ _ _ fun _ _ => ⟨rfl, rfl⟩)
  · simp [StartKept]

@[simp] theorem restartHour_startKept (s : State) (i : Nat) : StartKept s (restartHour s i) := ⟨rfl, rfl⟩

@[simp] theorem makeSevere_startKept (s : State) (i isl : Nat) : StartKept s (makeSevere s i isl) := by
  unfold makeSevere
  (repeat' split) <;> simp [StartKept]

@[simp] theorem countFault_startKept (s : State) (i : Nat) (cap : Capture) : StartKept s (countFault s i cap) := by
  unfold countFault
  dsimp only
  (repeat' split) <;> simp [StartKept]

@[simp] theorem markAffected_startKept (s : State) (i isl : Nat) : StartKept s (markAffected s i isl) := ⟨rfl, rfl⟩

@[simp] theorem noteLate_startKept (s : State) (c : Cmd) : StartKept s (noteLate s c) := by
  unfold noteLate
  split <;> simp [StartKept]

@[simp] theorem multipleFault_startKept (s : State) (i : Nat) (cap : Capture) : StartKept s (multipleFault s i cap) := by
  unfold multipleFault
  split <;> simp [StartKept]

@[simp] theorem raiseFault_startKept (s : State) (i : Nat) (cap : Capture) : StartKept s (raiseFault s i cap) := by
  unfold raiseFault
  (repeat' split) <;> simp [StartKept]

/-! ### Long operations and the tables of the flash -/

@[simp] theorem endLong_startKept (s : State) (x : Sender) (h status detail : Nat) : StartKept s (endLong s x h status detail) :=
  ⟨rfl, rfl⟩

@[simp] theorem endLong?_startKept (s : State) (o : Option (Sender × Nat)) (status detail : Nat) :
    StartKept s (endLong? s o status detail) := by
  unfold endLong?
  split <;> simp [StartKept]

@[simp] theorem updDie_startKept (s : State) (d : DieNo) (f : DieSt → DieSt) : StartKept s (updDie s d f) := ⟨rfl, rfl⟩

@[simp] theorem updBlock_startKept (s : State) (d : DieNo) (k : Nat) (f : BlockSt → BlockSt) : StartKept s (updBlock s d k f) :=
  ⟨rfl, rfl⟩

@[simp] theorem updThatch_startKept (s : State) (t : Nat) (f : ThatchSt → ThatchSt) : StartKept s (updThatch s t f) :=
  ⟨rfl, rfl⟩

@[simp] theorem updZone_startKept (s : State) (nsid z : Nat) (f : ZoneSt → ZoneSt) : StartKept s (updZone s nsid z f) :=
  ⟨rfl, rfl⟩

@[simp] theorem zoneChanged_startKept (s : State) (nsid z : Nat) : StartKept s (zoneChanged s nsid z) := by
  unfold zoneChanged
  split <;> simp [StartKept]

/-! ### Budgets, buffers and the end of a command -/

@[simp] theorem rebuildMeters_startKept (s : State) (fn : Nat) : StartKept s (rebuildMeters s fn) := ⟨rfl, rfl⟩

@[simp] theorem takeDraw_startKept (c : Cmd) (d : Draw) (s : State) : StartKept s (takeDraw c d s) := ⟨rfl, rfl⟩

@[simp] theorem chargeContract_startKept (s : State) (c : Cmd) : StartKept s (chargeContract s c) := ⟨rfl, rfl⟩

theorem bookBuffers_startKept {s : State} {pool n t e : Nat} {c : Cmd} {r} (h : bookBuffers s pool n t e c = some r) :
    StartKept s r := by
  unfold bookBuffers at h
  dsimp only at h
  split at h
  · cases h
  · split at h
    · cases h
      simp [StartKept]
    · split at h
      · cases h
      · cases h
        simp [StartKept]

@[simp] theorem poolFailure_startKept (s : State) (pool : Nat) : StartKept s (poolFailure s pool) := ⟨rfl, rfl⟩

@[simp] theorem evictCache_startKept (s : State) (n : Nat) : StartKept s (evictCache s n) := by
  simp [evictCache, StartKept]

theorem allocBufs_startKept {s : State} {pool owner n : Nat} {r} (h : allocBufs s pool owner n = some r) : StartKept s r := by
  unfold allocBufs at h
  cases (Option.ite_none_left_eq_some.1 h).2
  simp [StartKept]

@[simp] theorem releaseBufs_startKept (s : State) (pool n : Nat) : StartKept s (releaseBufs s pool n) := by
  unfold releaseBufs
  split <;> simp [StartKept]

@[simp] theorem endRecovery_startKept (s : State) (p : RecEntry → Bool) : StartKept s (endRecovery s p) := ⟨rfl, rfl⟩

@[simp] theorem sweepRecovery_startKept (s : State) : StartKept s (sweepRecovery s) := ⟨rfl, rfl⟩

@[simp] theorem pinSlot_startKept (nsid : Nat) (add : Nat → Nat) (x : SlotSt) (s : State) :
    StartKept s (pinSlot nsid add x s) := by
  unfold pinSlot
  (repeat' split) <;> simp [StartKept]

@[simp] theorem sweepEaves_startKept (s : State) : StartKept s (sweepEaves s) := by
  unfold sweepEaves
  dsimp only
  split <;> simp [StartKept]

@[simp] theorem trimLoft_startKept (s : State) : StartKept s (trimLoft s) := by
  unfold trimLoft
  split
  · exact StartKept.refl s
  · exact forEach_startKept _ _ _ fun l s => StartKept.ite ⟨rfl, rfl⟩ (StartKept.refl s)

@[simp] theorem unbindEmpty_startKept (s : State) (nsid z : Nat) : StartKept s (unbindEmpty s nsid z) := by
  unfold unbindEmpty
  split
  · exact StartKept.refl s
  · exact StartKept.ite (StartKept.refl s) ((forEach_startKept _ _ _ fun _ _ => updBlock_startKept ..).trans
      ((updThatch_startKept ..).trans (updZone_startKept ..)))

@[simp] theorem dropCmd_startKept (s : State) (c : Cmd) : StartKept s (dropCmd s c) := by
  unfold dropCmd
  extract_lets s1 adm s2 s3 buf s4 s5
  have h1 : StartKept s s1 := by
    dsimp only [s1]
    (repeat' split) <;> simp [StartKept]
  have h3 : StartKept s2 s3 := StartKept.ite
    ((forEach_startKept _ _ _ fun x s => pinSlot_startKept ..).trans ((sweepEaves_startKept _).trans (trimLoft_startKept _)))
    (StartKept.refl s2)
  have h5 : StartKept s4 s5 := by
    dsimp only [s5]
    (repeat' split) <;> simp [StartKept]
  have h : StartKept s s5 := ((h1.trans ⟨rfl, rfl⟩).trans h3).trans (StartKept.trans ⟨rfl, rfl⟩ h5)
  split
  · exact h.trans (StartKept.ite ⟨rfl, rfl⟩ (StartKept.refl s5))
  · exact h

@[simp] theorem updCmd_startKept (s : State) (c : Cmd) (g : Cmd → Cmd) : StartKept s (updCmd s c g) := ⟨rfl, rfl⟩

@[simp] theorem ioPost_startKept (s : State) (fn sqid cid : Nat) (st : NvmeStatus) (dw0 : Nat) (data : List Byte) (units : List
    (Option Nat)) (v : VerdictInfo) : StartKept s (ioPost s fn sqid cid st dw0 data units v) := by
  simp [ioPost, StartKept]

@[simp] theorem completeCmd_startKept (s : State) (c : Cmd) (st : NvmeStatus) (dw0 : Nat) (data : List Byte) (units : List
    (Option Nat)) : StartKept s (completeCmd s c st dw0 data units) := by
  unfold completeCmd
  split <;> simp [StartKept]

@[simp] theorem refuseCmd_startKept (s : State) (c : Cmd) (code hint : Nat) : StartKept s (refuseCmd s c code hint) := by
  simp [refuseCmd, StartKept]

theorem flushReady_startKept (n : Nat) (s : State) : StartKept s (flushReady n s) := by
  induction n generalizing s with
  | zero => exact StartKept.refl s
  | succ n ih =>
    unfold flushReady
    split
    · exact (completeCmd_startKept ..).trans (ih _)
    · exact StartKept.refl s

@[simp] theorem endWrite_startKept (s : State) (c : Cmd) (st : NvmeStatus) : StartKept s (endWrite s c st) :=
  (updCmd_startKept ..).trans (flushReady_startKept ..)

/-! ### Bookings in the calendar -/

theorem moveEntry_startKept {s : State} {t : Nat} {e : CalEntry} {r} (h : moveEntry s t e = some r) : StartKept s r := by
  unfold moveEntry at h
  obtain ⟨_, _, rfl⟩ := Option.map_eq_some_iff.1 h
  exact ⟨rfl, rfl⟩

theorem moveBackground_startKept {s : State} {d : DieNo} {t len tokens : Nat} {r} (h : moveBackground s d t len tokens = some r) :
    StartKept s r := by
  unfold moveBackground at h
  obtain ⟨s2, h1, rfl⟩ := Option.map_eq_some_iff.1 h
  have h2 : StartKept s s2 := foldl_startKept (p := id) h1
    (fun r hr => by
      cases hr
      exact ⟨rfl, rfl⟩)
    fun acc e ha r hr => by
      obtain ⟨s1, h2, h3⟩ := Option.bind_eq_some_iff.1 hr
      exact (ha s1 h2).trans (moveEntry_startKept h3)
  exact h2.trans ⟨rfl, rfl⟩

theorem lengthenOp_startKept {s : State} {op : CalEntry} {by' spend reserve : Nat} {r}
    (h : lengthenOp s op by' spend reserve = some r) : StartKept s r := by
  unfold lengthenOp at h
  split at h
  · cases h
  · obtain ⟨s2, h1, rfl⟩ := Option.map_eq_some_iff.1 h
    exact (moveBackground_startKept h1).trans (by simp [StartKept])

theorem bookWay_startKept {s : State} {q : SenseReq} {way : SenseWay} {r} (h : bookWay s q way = some r) : StartKept s r.1 := by
  unfold bookWay at h
  cases way with
  | freeTime t =>
    obtain ⟨s2, h1, rfl⟩ := Option.map_eq_some_iff.1 (Option.ite_none_left_eq_some.1 h).2
    exact StartKept.trans ⟨rfl, rfl⟩ ((moveBackground_startKept h1).trans ⟨rfl, rfl⟩)
  | join w op =>
    obtain ⟨s2, h1, rfl⟩ := Option.map_eq_some_iff.1 (Option.ite_none_left_eq_some.1 h).2
    exact StartKept.trans ⟨rfl, rfl⟩ ((lengthenOp_startKept h1).trans ⟨rfl, rfl⟩)
  | openWin op t0 =>
    obtain ⟨s2, h1, rfl⟩ := Option.map_eq_some_iff.1 (Option.ite_none_left_eq_some.1 h).2
    exact StartKept.trans ⟨rfl, rfl⟩ ((lengthenOp_startKept h1).trans ⟨rfl, rfl⟩)

theorem bookSense_startKept {s : State} {q : SenseReq} {r} (h : bookSense s q = some r) : StartKept s r.1 := by
  unfold bookSense at h
  split at h
  · cases h
  · refine foldl_startKept (p := Prod.fst) h (fun r hr => by cases hr) fun acc w ha r hr => ?_
    cases acc with
    | none => exact bookWay_startKept hr
    | some a => exact ha r hr

@[simp] theorem sendDesc_startKept (s : State) (ch opcode tag : Nat) : StartKept s (sendDesc s ch opcode tag) := by
  unfold sendDesc
  split <;> simp [StartKept]

@[simp] theorem addDesc_startKept (s : State) (d : Desc) : StartKept s (addDesc s d) := by
  simp [addDesc, StartKept]

@[simp] theorem addRead_startKept (s : State) (d : Desc) (se : Sense) : StartKept s (addRead s d se) := by
  unfold addRead
  split <;> simp [StartKept]

/-! ### Blocks and thatches -/

@[simp] theorem dropLoft_startKept (s : State) (p : LoftPage → Bool) : StartKept s (dropLoft s p) := ⟨rfl, rfl⟩

@[simp] theorem setBlock_startKept (s : State) (d : DieNo) (k : Nat) (b : BlockSt) : StartKept s (setBlock s d k b) :=
  ⟨rfl, rfl⟩

theorem takeFree_startKept {s : State} {d : DieNo} {u : BlockUse} {r} (h : takeFree s d u = some r) : StartKept s r.1 := by
  unfold takeFree at h
  split at h
  · cases h
    simp [StartKept]
  · cases h

@[simp] theorem wearEvent_startKept (s : State) (obj row : Nat) : StartKept s (wearEvent s obj row) := by
  simp [wearEvent, StartKept]

@[simp] theorem wornRow_startKept (s : State) (obj row : Nat) (on : Bool) : StartKept s (wornRow s obj row on) := by
  unfold wornRow
  dsimp only
  (repeat' split) <;> simp [StartKept]

theorem takeSpare_startKept {s : State} {d : DieNo} {u : BlockUse} {r} (h : takeSpare s d u = some r) : StartKept s r.1 := by
  unfold takeSpare at h
  dsimp only at h
  split at h
  · cases h
    simp [StartKept]
  · split at h
    · cases h
      simp [StartKept]
    · cases h

theorem takeReplacement_startKept {s : State} {d : DieNo} {u : BlockUse} {r} (h : takeReplacement s d u = some r) :
    StartKept s r.1 := by
  unfold takeReplacement at h
  split at h
  · rename_i h'
    cases h
    exact takeSpare_startKept h'
  · split at h
    · rename_i h'
      cases h
      exact (takeFree_startKept h').trans (by simp [StartKept])
    · cases h

@[simp] theorem coverFree_startKept (s : State) (d : DieNo) : StartKept s (coverFree s d) := by
  unfold coverFree
  split
  · rename_i h
    exact takeSpare_startKept h
  · simp [StartKept]

@[simp] theorem copyTables_startKept (s : State) (d : DieNo) : StartKept s (copyTables s d) := ⟨rfl, rfl⟩

@[simp] theorem formBlock_startKept (s : State) (d : DieNo) : StartKept s (formBlock s d) := by
  unfold formBlock
  dsimp only
  split <;> simp [StartKept]

@[simp] theorem enterPlanes_startKept (s : State) (d : DieNo) (k mask cause : Nat) (holds : Bool) :
    StartKept s (enterPlanes s d k mask cause holds) := by
  simp [enterPlanes, StartKept]

@[simp] theorem convUnmap_startKept (s : State) (nsid u : Nat) : StartKept s (convUnmap s nsid u) := by
  unfold convUnmap
  split <;> simp [StartKept]

@[simp] theorem closeConv_startKept (s : State) (t : Nat) : StartKept s (closeConv s t) := ⟨rfl, rfl⟩

@[simp] theorem leaveService_startKept (s : State) (d : DieNo) (k : Nat) : StartKept s (leaveService s d k) := ⟨rfl, rfl⟩

@[simp] theorem dropThatch_startKept (s : State) (t : Nat) : StartKept s (dropThatch s t) := by
  simp [dropThatch, StartKept, if_phase, if_startKind]

@[simp] theorem releaseThatch_startKept (s : State) (t : Nat) : StartKept s (releaseThatch s t) := by
  unfold releaseThatch
  split <;> simp [StartKept]

@[simp] theorem unbook_startKept (s : State) (tag : Nat) : StartKept s (unbook s tag) := ⟨rfl, rfl⟩

@[simp] theorem endDesc_startKept (s : State) (d : Desc) (status corrected : Nat) :
    StartKept s (endDesc s d status corrected) := by
  unfold endDesc
  split <;> simp [StartKept]

/-! ### Descriptors, media marks and zones -/

@[simp] theorem dropDesc_startKept (s : State) (d : Desc) (status : Nat) : StartKept s (dropDesc s d status) := by
  simp [dropDesc, StartKept]

@[simp] theorem cancelThatch_startKept (s : State) (t : Nat) : StartKept s (cancelThatch s t) := by
  simp [cancelThatch, StartKept]

@[simp] theorem endEaves_startKept (s : State) (p : EavesUnit → Bool) : StartKept s (endEaves s p) := by
  simp [endEaves, StartKept]

@[simp] theorem settleEaves_startKept (s : State) (p : EavesUnit → Bool) : StartKept s (settleEaves s p) := by
  simp [settleEaves, StartKept]

@[simp] theorem dropMedia_startKept (s : State) (p : MediaUnit → Bool) : StartKept s (dropMedia s p) := ⟨rfl, rfl⟩

@[simp] theorem convClear_startKept (s : State) (nsid u : Nat) : StartKept s (convClear s nsid u) := by
  simp [convClear, StartKept]

@[simp] theorem markPoison_startKept (s : State) (nsid u : Nat) : StartKept s (markPoison s nsid u) := by
  unfold markPoison
  (repeat' split) <;> simp [StartKept]

@[simp] theorem markUnrec_startKept (s : State) (nsid u : Nat) : StartKept s (markUnrec s nsid u) := by
  unfold markUnrec
  (repeat' split) <;> simp [StartKept]

@[simp] theorem noteUnrec_startKept (s : State) (us : List (Nat × Nat)) : StartKept s (noteUnrec s us) := by
  simp [noteUnrec, StartKept]

@[simp] theorem clearMarks_startKept (s : State) (nsid u : Nat) : StartKept s (clearMarks s nsid u) := by
  unfold clearMarks
  (repeat' split) <;> simp [StartKept]

@[simp] theorem placeUnit_startKept (c : Cmd) (u content : Nat) (poison inBoth : Bool) (s : State) :
    StartKept s (placeUnit c u content poison inBoth s) := by
  unfold placeUnit
  dsimp only
  (repeat' split) <;> simp [StartKept]

@[simp] theorem finishZone_startKept (s : State) (nsid zi : Nat) (zfc : Bool) : StartKept s (finishZone s nsid zi zfc) := by
  unfold finishZone
  dsimp only
  (repeat' split) <;> simp [StartKept]

@[simp] theorem makeRoom_startKept (s : State) (fn : Nat) : StartKept s (makeRoom s fn) := by
  unfold makeRoom
  (repeat' split) <;> simp [StartKept]

@[simp] theorem resetZone_startKept (s : State) (ns : NsSt) (zi : Nat) : StartKept s (resetZone s ns zi) := by
  unfold resetZone
  dsimp only
  (repeat' split) <;> simp [StartKept]

@[simp] theorem offlineZone_startKept (s : State) (nsid zi : Nat) : StartKept s (offlineZone s nsid zi) := by
  unfold offlineZone
  dsimp only
  split <;> simp [StartKept]

@[simp] theorem advanceZone_startKept (s : State) (fn nsid zi n : Nat) : StartKept s (advanceZone s fn nsid zi n) := by
  unfold advanceZone
  dsimp only
  (repeat' split) <;> simp [StartKept]

/-! ### Admission: plans, starts and held commands -/

theorem bookPage_startKept {s : State} {m : MemberSt} {t : Nat} {pl : Place} {n : Nat} {q : PageReq} {r}
    (h : bookPage s m t pl n q = some r) : StartKept s r.1 := by
  unfold bookPage at h
  obtain ⟨r', h1, rfl⟩ := Option.map_eq_some_iff.1 h
  exact (bookSense_startKept h1).trans (by simp [StartKept])

theorem bookAround_startKept {s : State} {c : Cmd} {slot t : Nat} {th : ThatchSt} {pl : Place} {n : Nat} {prov : Bool}
    {req : Purpose → DestUnit × Nat → PageReq} {r} (h : bookAround s c slot t th pl n prov req = some r) : StartKept s r.1 := by
  unfold bookAround at h
  dsimp only at h
  split at h
  · cases h
  · split at h
    · cases h
    · rename_i hfold
      cases h
      refine StartKept.trans (foldl_startKept (p := Prod.fst) hfold (fun r hr => ?_) fun acc e ha r hr => ?_) ⟨rfl, rfl⟩
      · cases hr
        exact StartKept.refl s
      · split at hr
        · exact ha r hr
        · split at hr
          · cases hr
          · split at hr
            · rename_i hbook
              cases hr
              exact (ha _ rfl).trans (bookPage_startKept hbook)
            · cases hr

theorem planSlot_startKept (c : Cmd) (total : Nat) (mo : Bool) (acc : Acc) (e : Nat × Nat) :
    StartKept acc.st (planSlot c total mo acc e).st := by
  obtain ⟨u, n⟩ := e
  unfold planSlot
  dsimp -zeta only
  extract_lets s h loc new add around direct
  have haround : ∀ d, StartKept s (around d).st := fun d => by
    dsimp only [around]
    split
    · exact StartKept.refl s
    · split
      · split
        · exact bookAround_startKept ‹_›
        · exact StartKept.refl s
      · exact StartKept.refl s
  have hdirect : ∀ d slc, StartKept s (direct d slc).st := fun d slc => by
    dsimp only [direct]
    split
    · exact StartKept.refl s
    · split
      · split
        · exact bookPage_startKept ‹_›
        · split
          · exact StartKept.refl s
          · exact haround d
      · split
        · exact StartKept.refl s
        · exact haround d
  split
  · exact StartKept.refl s
  · split
    · exact StartKept.refl s
    · exact hdirect ..
    · exact hdirect ..
    · exact haround _
    · exact StartKept.refl s
    · exact StartKept.refl s

@[simp] theorem planSlots_startKept (s : State) (c : Cmd) (mo : Bool) : StartKept s (planSlots s c mo).st :=
  List.foldlRecOn (motive := fun a : Acc => StartKept s a.st) _ _ (StartKept.refl s) fun _ h _ _ => h.trans (planSlot_startKept ..)

@[simp] theorem planRead_startKept (s : State) (c : Cmd) (pool : Option Nat) (mayOpen : Bool) :
    StartKept s (planRead s c pool mayOpen).st := by
  unfold planRead planFail
  extract_lets rs routes bufs acc fin dram take booked
  have hbufs : ∀ {t n a b r}, bufs t n a b = some r → StartKept t r := fun {t n a b r} h => by
    cases pool with
    | some k => exact bookBuffers_startKept h
    | none =>
      cases h
      exact StartKept.refl t
  have hbooked : StartKept s booked.1 :=
    List.foldlRecOn (motive := fun b : State × Nat => StartKept s b.1) _ _ (planSlots_startKept s c mayOpen) fun b h e _ => by
      dsimp only [take]
      split
      · exact h.trans (hbufs ‹_›)
      · exact h
  split
  · exact StartKept.refl s
  · split
    · exact StartKept.refl s
    · split
      · exact StartKept.refl s
      · split
        · exact poolFailure_startKept ..
        · split
          · exact StartKept.refl s
          · split
            · exact hbooked
            · exact poolFailure_startKept ..

@[simp] theorem planSpace_startKept (s : State) (c : Cmd) (host : Bool) : StartKept s (planSpace s c host).st := by
  unfold planSpace planFail
  split
  · exact StartKept.refl s
  · split
    · exact StartKept.refl s
    · split
      · exact StartKept.refl s
      · split
        · exact StartKept.refl s
        · split
          · simp [StartKept]
          · exact bookBuffers_startKept ‹_›

theorem planTime_startKept (s0 s : State) (c : Cmd) (r : PlanRes) (hs : StartKept s0 s) (h : StartKept s0 r.st) :
    StartKept s0 (planTime s c r).st := by
  unfold planTime planFail
  (repeat' split) <;> assumption

@[simp] theorem planWrite_startKept (s : State) (c : Cmd) : StartKept s (planWrite s c).st := by
  unfold planWrite planFail
  split
  · exact StartKept.refl s
  · split
    · exact StartKept.refl s
    · split
      · exact StartKept.refl s
      · exact planTime_startKept _ _ _ _ (StartKept.refl s) (planSpace_startKept ..)

@[simp] theorem planCopy_startKept (s : State) (c : Cmd) (mayOpen : Bool) : StartKept s (planCopy s c mayOpen).st := by
  unfold planCopy planFail
  dsimp only
  split
  · exact StartKept.refl s
  · split
    · exact StartKept.refl s
    · split
      · exact StartKept.refl s
      · split
        · exact planSpace_startKept ..
        · exact planTime_startKept _ _ _ _ (StartKept.refl s) (planRead_startKept ..)

theorem planOther_startKept (s : State) (c : Cmd) : StartKept s (planOther s c).st := by
  unfold planOther planFail
  (repeat' split) <;> exact StartKept.refl _

@[simp] theorem planService_startKept (s : State) (c : Cmd) (mo : Bool) : StartKept s (planService s c mo).st := by
  unfold planService
  split
  · exact planRead_startKept ..
  · exact planWrite_startKept ..
  · exact planWrite_startKept ..
  · exact planWrite_startKept ..
  · exact planCopy_startKept ..
  · exact planOther_startKept ..

@[simp] theorem placeUnits_startKept (s : State) (c : Cmd) (contents : List Nat) (bad : List Nat) :
    StartKept s (placeUnits s c contents bad) := by
  simp [placeUnits, StartKept]

@[simp] theorem finishCopy_startKept (s : State) (c : Cmd) : StartKept s (finishCopy s c) := by
  unfold finishCopy
  dsimp only
  (repeat' split) <;> simp [StartKept]

@[simp] theorem writePoison_startKept (s : State) (c : Cmd) : StartKept s (writePoison s c) := by
  unfold writePoison
  split <;> simp [StartKept]

@[simp] theorem finishRead_startKept (s : State) (c : Cmd) : StartKept s (finishRead s c) := by
  unfold finishRead
  dsimp only
  (repeat' split) <;> simp [StartKept]

@[simp] theorem zoneAction_startKept (s : State) (ns : NsSt) (c : Cmd) (zi : Nat) : StartKept s (zoneAction s ns c zi).1 := by
  unfold zoneAction
  dsimp only
  (repeat' split) <;> simp [StartKept]

@[simp] theorem zoneSend_startKept (s : State) (c : Cmd) : StartKept s (zoneSend s c) := by
  unfold zoneSend
  dsimp only
  (repeat' split) <;> simp [StartKept]

@[simp] theorem deallocate_startKept (s : State) (c : Cmd) (ranges : List (Nat × Nat)) : StartKept s (deallocate s c ranges) := by
  unfold deallocate
  (repeat' split) <;> simp [StartKept]

@[simp] theorem startWrite_startKept (s : State) (c : Cmd) : StartKept s (startWrite s c) := by
  unfold startWrite
  dsimp only
  (repeat' split) <;> simp [StartKept]

@[simp] theorem takeCopyBufs_startKept (s : State) (c : Cmd) : StartKept s (takeCopyBufs s c).1 := by
  unfold takeCopyBufs
  split
  · exact StartKept.refl s
  · split
    · exact (allocBufs_startKept ‹_›).trans (updCmd_startKept ..)
    · exact poolFailure_startKept ..

@[simp] theorem startCmd_startKept (s : State) (c : Cmd) : StartKept s (startCmd s c) := by
  unfold startCmd
  dsimp only
  (repeat' split) <;> simp [StartKept]

@[simp] theorem enterCmd_startKept (s : State) (c : Cmd) : StartKept s (enterCmd s c) := ⟨rfl, rfl⟩

@[simp] theorem pinKey_startKept (s : State) (c : Cmd) : StartKept s (pinKey s c) := by
  unfold pinKey
  split <;> simp [StartKept]

@[simp] theorem countRoutes_startKept (s : State) (c : Cmd) : StartKept s (countRoutes s c) := ⟨rfl, rfl⟩

theorem acceptance_startKept (s0 : State) (r : PlanRes) (within : Bool) (h : StartKept s0 r.st) :
    StartKept s0 (acceptance s0 r within).1 := by
  refine h.trans ?_
  unfold acceptance
  dsimp only
  split <;> simp [StartKept]

theorem acceptCmd_startKept (s0 : State) (r : PlanRes) (within : Bool) (h : StartKept s0 r.st) :
    StartKept s0 (acceptCmd s0 r within) :=
  (acceptance_startKept s0 r within h).trans (startCmd_startKept ..)

@[simp] theorem holdCmd_startKept (s : State) (c : Cmd) (reason : Nat) : StartKept s (holdCmd s c reason) := by
  unfold holdCmd
  dsimp only
  split <;> simp [StartKept]

@[simp] theorem noteFullStore_startKept (s : State) (c : Cmd) (reason : Nat) : StartKept s (noteFullStore s c reason) := by
  unfold noteFullStore
  (repeat' split) <;> simp [StartKept]

@[simp] theorem holdOrRefuse_startKept (s : State) (c : Cmd) (reason hint : Nat) :
    StartKept s (holdOrRefuse s c reason hint) := by
  unfold holdOrRefuse
  dsimp only
  (repeat' split) <;> simp [StartKept]

@[simp] theorem evaluate_startKept (s : State) (c : Cmd) : StartKept s (evaluate s c) := by
  unfold evaluate
  dsimp only
  split
  · exact refuseCmd_startKept ..
  · split
    · exact refuseCmd_startKept ..
    · split
      · exact acceptCmd_startKept _ _ _ (planService_startKept ..)
      · split
        · exact acceptCmd_startKept _ _ _ (planService_startKept ..)
        · split
          · (repeat' split) <;> simp [StartKept]
          · exact StartKept.ite (acceptCmd_startKept _ _ _ (planService_startKept ..)) (holdOrRefuse_startKept ..)

@[simp] theorem resumePurlin_startKept (s : State) : StartKept s (resumePurlin s) :=
  forEach_startKept _ _ _ fun c s => by
    split
    · exact StartKept.refl s
    · split
      · exact (takeCopyBufs_startKept ..).trans (StartKept.ite (finishRead_startKept ..) (StartKept.refl _))
      · exact zoneSend_startKept ..
      · exact StartKept.refl s

@[simp] theorem reevaluateAll_startKept (s : State) : StartKept s (reevaluateAll s) :=
  (resumePurlin_startKept s).trans (forEach_startKept _ _ _ fun c s => by
    split
    · exact StartKept.ite (StartKept.refl s) (evaluate_startKept ..)
    · exact StartKept.refl s)

/-! ### Ladders and rebuilds -/

@[simp] theorem flagRefresh_startKept (s : State) (t : Nat) : StartKept s (flagRefresh s t) := ⟨rfl, rfl⟩

@[simp] theorem dropRebuild_startKept (s : State) (id : Nat) : StartKept s (dropRebuild s id) := by
  simp [dropRebuild, StartKept]

@[simp] theorem releaseFallback_startKept (s : State) (l : Ladder) : StartKept s (releaseFallback s l) := by
  unfold releaseFallback
  split <;> simp [StartKept]

@[simp] theorem setLadder_startKept (s : State) (l : Ladder) : StartKept s (setLadder s l) := ⟨rfl, rfl⟩

@[simp] theorem dropSlotWork_startKept (s : State) (c : Cmd) (slot? : Option Nat) : StartKept s (dropSlotWork s c slot?) := by
  simp [dropSlotWork, StartKept]

@[simp] theorem enterRecovery_startKept (s : State) (c : Cmd) (x : SlotSt) : StartKept s (enterRecovery s c x) := by
  unfold enterRecovery
  dsimp only
  (repeat' split) <;> simp [StartKept]

@[simp] theorem failRead_startKept (s : State) (c : Cmd) : StartKept s (failRead s c) := by
  unfold failRead
  extract_lets open' s1 s2 s3
  have h : StartKept s s3 := (dropSlotWork_startKept s c none).trans
    ((forEach_startKept _ _ _ fun x s => enterRecovery_startKept s c x).trans (completeCmd_startKept ..))
  exact StartKept.ite (h.trans (flushReady_startKept ..)) h

@[simp] theorem chargeRecovery_startKept (s : State) (fn nj : Nat) : StartKept s (chargeRecovery s fn nj) := ⟨rfl, rfl⟩

theorem bookStage_startKept {s : State} {st : Stage} {m : MemberSt} {t : Nat} {pl : Place} {cws dl start : Nat} {q : PageReq}
    {u e} (h : bookStage s st m t pl cws dl start q = .booked u e) : StartKept s u := by
  unfold bookStage at h
  dsimp only at h
  split at h
  · cases h
  · rename_i h'
    refine (bookSense_startKept h').trans ?_
    cases st with
    | retry k =>
      cases h
      simp [StartKept]
    | soft =>
      dsimp only at h
      split at h
      · cases h
        simp [StartKept]
      · cases h

theorem bookFirst_startKept {s : State} {m : MemberSt} {t : Nat} {pl : Place} {cws dl start : Nat} {q : PageReq} {l : List Stage}
    {r} (h : bookFirst s m t pl cws dl start q l = some r) : StartKept s r.2.1 := by
  induction l with
  | nil => cases h
  | cons st l ih =>
    unfold bookFirst at h
    split at h
    · rename_i h'
      cases h
      exact bookStage_startKept h'
    · exact ih h
    · cases h

@[simp] theorem lastRoute_startKept (s : State) (c : Cmd) (slot : Nat) (fallback : Option Nat) (g : State → State)
    (hg : ∀ s, StartKept s (g s)) : StartKept s (lastRoute s c slot fallback g) := by
  unfold lastRoute
  extract_lets x h next s1 fl promote
  have hnext : ∀ t e, StartKept t (next t e) := fun t e => by
    dsimp only [next]
    split
    · exact setLadder_startKept ..
    · exact StartKept.refl t
  have h1 : StartKept s s1 := by
    dsimp only [s1]
    split
    · exact hnext ..
    · exact StartKept.refl s
  have hpromote : ∀ id, StartKept s (promote id) := fun id => h1.trans (StartKept.trans ⟨rfl, rfl⟩ (chargeRecovery_startKept ..))
  split
  · exact hpromote _
  · split
    · exact hg _
    · split
      · exact StartKept.ite ((bookAround_startKept ‹_›).trans ((hnext ..).trans (chargeRecovery_startKept ..))) (hg _)
      · exact hg _

theorem ladderStepWith_startKept (fail : State → Cmd → State) (hf : ∀ s c, StartKept s (fail s c)) (s : State) (c : Cmd)
    (slot : Nat) (l0 : Ladder) : StartKept s (ladderStepWith fail s c slot l0) := by
  unfold ladderStepWith
  have hgive : ∀ l : Ladder, StartKept s (lastRoute (setLadder s l) c slot l.fallback (fail · c)) := fun l =>
    (setLadder_startKept s l).trans (lastRoute_startKept _ _ _ _ _ fun s => hf s c)
  dsimp only
  split
  · exact hf ..
  · split
    · exact hf ..
    · split
      · exact hgive _
      · rename_i hfirst
        have h1 := bookFirst_startKept hfirst
        split
        · split
          · rename_i haround
            refine StartKept.ite (h1.trans (StartKept.trans ⟨rfl, rfl⟩ ((bookAround_startKept haround).trans ?_))) (hgive _)
            simp [StartKept, atTime]
          · exact hgive _
        · exact StartKept.ite (h1.trans (by simp [StartKept])) (hgive _)

@[simp] theorem takeLadder_startKept (s : State) (o : Cmd) (slot : Nat) (l : Ladder) : StartKept s (takeLadder s o slot l) := by
  unfold takeLadder
  split
  · exact StartKept.refl s
  · exact ladderStepWith_startKept _ failRead_startKept ..

@[simp] theorem passLadders_startKept (js : List (Cmd × Nat × Ladder)) (s : State) : StartKept s (passLadders js s) :=
  forEach_startKept _ _ _ fun j s => by
    split
    · exact takeLadder_startKept ..
    · exact StartKept.refl s

@[simp] theorem leaveJoined_startKept (s : State) (c : Cmd) : StartKept s (leaveJoined s c) := by
  simp [leaveJoined, StartKept]

@[simp] theorem noRoute_startKept (s : State) (c : Cmd) : StartKept s (noRoute s c) := by
  simp [noRoute, StartKept]

@[simp] theorem rebookAround_startKept (s : State) (c : Cmd) (slot : Nat) : StartKept s (rebookAround s c slot) := by
  unfold rebookAround
  split <;> simp [StartKept]

@[simp] theorem memberStep_startKept (s : State) (id pos shift cws : Nat) (g : State → Cmd → State) (hg : ∀ s c, StartKept s
    (g s c)) : StartKept s (memberStep s id pos shift cws g) := by
  unfold memberStep
  dsimp only
  split
  · exact StartKept.refl s
  · split
    · exact dropRebuild_startKept ..
    · split
      · exact noRoute_startKept ..
      · split
        · exact noRoute_startKept ..
        · split
          · exact hg ..
          · exact StartKept.ite ((bookFirst_startKept ‹_›).trans (by simp [StartKept])) (hg ..)

theorem bookPassStage_startKept {s : State} {fn : Nat} {m : MemberSt} {t : Nat} {pl : Place} {st : Bool × Nat} {q : PageReq} {r}
    (h : bookPassStage s fn m t pl st q = some r) : StartKept s r := by
  unfold bookPassStage at h
  split at h
  · cases h
  · split at h
    · rename_i h'
      cases h
      exact (bookStage_startKept h').trans (updMeter_startKept ..)
    · cases h

/-! ### Erases, settling and relocation -/

theorem bookOp_startKept {s : State} {d : DieNo} {t len tok : Nat} {k : CalKind} {su : Nat} {firm : Bool} {x : Desc} {r}
    (h : bookOp s d t len tok k su firm x = some r) : StartKept s r := by
  unfold bookOp at h
  replace h := (Option.ite_none_left_eq_some.1 h).2
  split at h
  · cases h
  · obtain ⟨s2, h1, rfl⟩ := Option.map_eq_some_iff.1 h
    refine StartKept.trans (t := s2) ?_ (StartKept.trans ⟨rfl, rfl⟩ (addDesc_startKept ..))
    split at h1
    · exact moveBackground_startKept h1
    · cases h1
      exact StartKept.refl s

@[simp] theorem journal_startKept (s : State) (bytes : Nat) : StartKept s (journal s bytes) := ⟨rfl, rfl⟩

@[simp] theorem eraseStart_startKept (s : State) (d : DieNo) (k : Nat) : StartKept s (eraseStart s d k) := by
  unfold eraseStart
  split <;> simp [StartKept]

theorem bookErase_startKept {s : State} {d : DieNo} {k : Nat} {slc : Bool} {p : Purpose} {r}
    (h : bookErase s d k slc p = some r) : StartKept s r := by
  unfold bookErase at h
  obtain ⟨y, h1, rfl⟩ := Option.map_eq_some_iff.1 h
  exact (bookOp_startKept h1).trans (eraseStart_startKept ..)

@[simp] theorem poisonSettles_startKept (s : State) (nsid u : Nat) : StartKept s (poisonSettles s nsid u) := by
  simp [poisonSettles, StartKept]

@[simp] theorem settleUnit_startKept (t : Nat) (off : Nat) (s : State) : StartKept s (settleUnit t off s) := by
  unfold settleUnit
  dsimp only
  (repeat' split) <;> simp [StartKept]

@[simp] theorem sweepUnderlay_startKept (s : State) (nsid zi : Nat) : StartKept s (sweepUnderlay s nsid zi) := ⟨rfl, rfl⟩

@[simp] theorem updCompact_startKept (s : State) (d : DieNo) (k : Nat) (f : Compaction → Compaction) :
    StartKept s (updCompact s d k f) :=
  ⟨rfl, rfl⟩

@[simp] theorem dropMove_startKept (s : State) (d : Desc) : StartKept s (dropMove s d) := by
  unfold dropMove
  (repeat' split) <;> simp [StartKept]

@[simp] theorem rekeyUnits_startKept (s : State) (p : MediaUnit → Bool) : StartKept s (rekeyUnits s p) := ⟨rfl, rfl⟩

@[simp] theorem dropGranule_startKept (s : State) (t i : Nat) : StartKept s (dropGranule s t i) := ⟨rfl, rfl⟩

@[simp] theorem switchGranules_startKept (s : State) (t a b : Nat) : StartKept s (switchGranules s t a b) := by
  unfold switchGranules
  dsimp only
  refine StartKept.trans (forEach_startKept _ _ _ fun i s => ?_) (forEach_startKept _ _ _ fun x s => ?_)
  · (repeat' split) <;> simp [StartKept]
  · split <;> simp [StartKept]

@[simp] theorem switchZone_startKept (s : State) (r : Relocation) : StartKept s (switchZone s r) := by
  unfold switchZone
  dsimp only
  split <;> simp [StartKept]

@[simp] theorem settleThatch_startKept (s : State) (t : Nat) : StartKept s (settleThatch s t) := by
  unfold settleThatch
  dsimp only
  (repeat' split) <;> simp [StartKept]

@[simp] theorem chargeBackground_startKept (s : State) (nj : Nat) : StartKept s (chargeBackground s nj) := ⟨rfl, rfl⟩

@[simp] theorem zoneLoses_startKept (s : State) (nsid zi t : Nat) : StartKept s (zoneLoses s nsid zi t) := by
  unfold zoneLoses
  dsimp only
  (repeat' split) <;> simp [StartKept]

@[simp] theorem stopReloc_startKept (s : State) (t : Nat) : StartKept s (stopReloc s t) := by
  simp [stopReloc, StartKept]

@[simp] theorem closeTarget_startKept (s : State) (t : Nat) : StartKept s (closeTarget s t) := by
  unfold closeTarget
  dsimp only
  split <;> simp [StartKept]

@[simp] theorem loseMember_startKept (s : State) (t : Nat) (d : DieNo) : StartKept s (loseMember s t d) := by
  unfold loseMember
  dsimp only
  split <;> simp [StartKept]

@[simp] theorem unreadablePage_startKept (s : State) (us : List (Nat × Nat)) : StartKept s (unreadablePage s us) := by
  simp [unreadablePage, StartKept]

@[simp] theorem relocUnreadable_startKept (s : State) (th : ThatchSt) (c pos pg : Nat) :
    StartKept s (relocUnreadable s th c pos pg) := by
  simp [relocUnreadable, StartKept]

@[simp] theorem readAgain_startKept (s : State) (dst c : Nat) : StartKept s (readAgain s dst c) := ⟨rfl, rfl⟩

theorem relocRebuild_startKept {s : State} {src dst c pos pg : Nat} {failed : Bool} {r}
    (h : relocRebuild s src dst c pos pg failed = some r) : StartKept s r := by
  unfold relocRebuild at h
  dsimp only at h
  split at h
  · cases h
  · obtain ⟨s2, h1, rfl⟩ := Option.map_eq_some_iff.1 h
    have h2 : StartKept s s2 := foldl_startKept (p := id) h1
      (fun r hr => by
        cases hr
        exact StartKept.refl s)
      fun acc a ha r hr => by
        split at hr
        · exact ha r hr
        · obtain ⟨x, hx, hr⟩ := Option.bind_eq_some_iff.1 hr
          obtain ⟨y, hy, rfl⟩ := Option.map_eq_some_iff.1 hr
          exact (ha x hx).trans (bookPage_startKept hy)
    exact h2.trans (StartKept.trans ⟨rfl, rfl⟩ (chargeBackground_startKept ..))

theorem nextRelocStage_startKept {s : State} {d : Desc} {dst n : Nat} {p : Nat → Purpose} {r}
    (h : nextRelocStage s d dst n p = some r) : StartKept s r := by
  unfold nextRelocStage at h
  dsimp only at h
  split at h
  · cases h
  · simp only [Option.bind_eq_some_iff] at h
    obtain ⟨_, _, _, _, _, _, h⟩ := h
    exact bookPassStage_startKept h

@[simp] theorem relocPageFailed_startKept (s : State) (d : Desc) (dst n : Nat) (failed : Bool) :
    StartKept s (relocPageFailed s d dst n failed) := by
  unfold relocPageFailed
  dsimp only
  split
  · exact StartKept.refl s
  · rename_i h _
    exact nextRelocStage_startKept (Option.ite_none_right_eq_some.1 h).2
  · refine StartKept.ite (relocUnreadable_startKept ..) ?_
    split
    · exact relocRebuild_startKept ‹_›
    · exact readAgain_startKept ..

@[simp] theorem relocMemberFailed_startKept (s : State) (r : Rebuild) (failed : Bool) :
    StartKept s (relocMemberFailed s r failed) := by
  unfold relocMemberFailed
  split <;> simp [StartKept]

/-! ### Retirement of a die and replacement of a block -/

@[simp] theorem updDump_startKept (s : State) (f : Dump → Dump) : StartKept s (updDump s f) := ⟨rfl, rfl⟩

@[simp] theorem dumpNext_startKept (s : State) (d : DieNo) : StartKept s (dumpNext s d) := by
  unfold dumpNext
  (repeat' split) <;> simp [StartKept]

@[simp] theorem dumpDieLost_startKept (s : State) (d : DieNo) : StartKept s (dumpDieLost s d) := by
  unfold dumpDieLost
  dsimp only
  split <;> simp [StartKept]

@[simp] theorem memberLost_startKept (s : State) (d : Desc) (r : Rebuild) (pos : Nat) : StartKept s (memberLost s d r pos) := by
  unfold memberLost
  dsimp only
  split
  · exact dropRebuild_startKept ..
  · split
    · exact memberStep_startKept _ _ _ _ _ _ fun s c => StartKept.refl s
    · split
      · exact StartKept.refl s
      · split
        · exact StartKept.refl s
        · split
          · exact StartKept.ite (bookPage_startKept ‹_›) (StartKept.refl s)
          · exact StartKept.refl s

@[simp] theorem workLost_startKept (s : State) (d : Desc) : StartKept s (workLost s d) := by
  unfold workLost
  (repeat' split) <;> simp [StartKept]

@[simp] theorem closeDesc_startKept (s : State) (d : Desc) (status corrected : Nat) :
    StartKept s (closeDesc s d status corrected) := by
  simp [closeDesc, StartKept]

@[simp] theorem dieEvent_startKept (s : State) (d : DieNo) (cause : Nat) : StartKept s (dieEvent s d cause) := by
  simp [dieEvent, StartKept]

@[simp] theorem retireDie_startKept (s : State) (d : DieNo) (cause : Nat) : StartKept s (retireDie s d cause) := by
  unfold retireDie
  split <;> simp [StartKept]

@[simp] theorem checkGbbt_startKept (s : State) (d : DieNo) : StartKept s (checkGbbt s d) := by
  unfold checkGbbt
  split <;> simp [StartKept]

@[simp] theorem moveLog_startKept (s : State) (d : DieNo) (k k' : Nat) : StartKept s (moveLog s d k k') := by
  simp [moveLog, StartKept]

@[simp] theorem replaceSlc_startKept (s : State) (d : DieNo) (k mask cause : Nat) :
    StartKept s (replaceSlc s d k mask cause) := by
  unfold replaceSlc
  extract_lets u s1
  have h1 : StartKept s s1 := enterPlanes_startKept s d k mask cause false
  clear_value u s1
  refine StartKept.trans (h1.trans ?_) (checkGbbt_startKept _ _)
  split
  · rename_i s2 k' htake
    have h2 : StartKept s1 (updBlock s2 d k' fun b => { b with erased := false }) :=
      (takeReplacement_startKept htake).trans (updBlock_startKept ..)
    cases u with
    | gutter half => exact h2.trans ⟨rfl, rfl⟩
    | underlay => exact h2.trans ((moveLog_startKept ..).trans (StartKept.getD fun r h => bookErase_startKept h))
    | _ => exact h2
  · exact (updDie_startKept ..).trans ((wornRow_startKept ..).trans (StartKept.trans ⟨rfl, rfl⟩ (setWarning_startKept ..)))

@[simp] theorem eraseSlc_startKept (s : State) (d : DieNo) (k : Nat) : StartKept s (eraseSlc s d k) := by
  unfold eraseSlc
  exact StartKept.ite (replaceSlc_startKept ..) (StartKept.getD fun r h => bookErase_startKept h)

@[simp] theorem replaceUnused_startKept (s : State) (d : DieNo) (k mask cause : Nat) :
    StartKept s (replaceUnused s d k mask cause) := by
  unfold replaceUnused
  extract_lets ow s1
  have h1 : StartKept s s1 := (enterPlanes_startKept s d k mask cause false).trans (coverFree_startKept _ d)
  clear_value ow s1
  refine StartKept.trans (h1.trans ?_) (checkGbbt_startKept _ _)
  split
  · exact StartKept.refl s1
  · split
    · exact loseMember_startKept ..
    · exact (takeFree_startKept ‹_›).trans (updThatch_startKept ..)

@[simp] theorem eraseZoneBlock_startKept (s : State) (d : DieNo) (k : Nat) (p : Purpose) :
    StartKept s (eraseZoneBlock s d k p) := by
  unfold eraseZoneBlock
  exact StartKept.ite (replaceUnused_startKept ..) (StartKept.getD fun r h => bookErase_startKept h)

@[simp] theorem bookReturned_startKept (s : State) (c : Nat) : StartKept s (bookReturned s c) :=
  forEach_startKept _ _ _ fun e s => by
    split
    · exact StartKept.refl s
    · dsimp only
      (repeat' split) <;> simp [StartKept]

/-! ### Bay capacity, the Write Window and the bring-up -/

@[simp] theorem capacityEvent_startKept (s : State) (sev bay cap com : Nat) : StartKept s (capacityEvent s sev bay cap com) := by
  simp [capacityEvent, StartKept]

@[simp] theorem flagBay_startKept (b : Nat) (s : State) : StartKept s (flagBay b s) := by
  unfold flagBay
  dsimp only
  (repeat' split) <;> simp [StartKept]

@[simp] theorem recharge_startKept (s : State) : StartKept s (recharge s) := by
  simp [recharge, StartKept]

@[simp] theorem recomputeBays_startKept (s : State) : StartKept s (recomputeBays s) := by
  simp [recomputeBays, StartKept]

@[simp] theorem recomputeEaves_startKept (s : State) : StartKept s (recomputeEaves s) := by
  unfold recomputeEaves
  dsimp only
  (repeat' split) <;> simp [StartKept]

@[simp] theorem activate_startKept (s : State) (t : Nat) (h : ImageHdr) : StartKept s (activate s t h) := by
  unfold activate
  split <;> simp [StartKept]

@[simp] theorem useMicrocode_startKept (s : State) : StartKept s (useMicrocode s) := by
  unfold useMicrocode
  split <;> simp [StartKept]

@[simp] theorem channelReturns_startKept (s : State) (c : Nat) : StartKept s (channelReturns s c) := by
  simp [channelReturns, StartKept]

@[simp] theorem rbStuck_startKept (s : State) (c : Nat) : StartKept s (rbStuck s c) := by
  simp [rbStuck, StartKept]

@[simp] theorem setWindow_startKept (s : State) (openIt : Bool) : StartKept s (setWindow s openIt) := by
  unfold setWindow
  (repeat' split) <;> simp [StartKept]

@[simp] theorem judgeWindow_startKept (s : State) : StartKept s (judgeWindow s) := by
  unfold judgeWindow
  dsimp only
  (repeat' split) <;> simp [StartKept]

@[simp] theorem updateWarm_startKept (s : State) : StartKept s (updateWarm s) := by
  unfold updateWarm
  dsimp only
  (repeat' split) <;> simp [StartKept]

@[simp] theorem bringPkg_startKept (c : Nat) (ps : List PkgAnswer) (k : Nat) (s : State) : StartKept s (bringPkg c ps k s) :=
  ⟨rfl, rfl⟩

@[simp] theorem dieAbsent_startKept (s : State) (d : DieNo) (cause : Nat) : StartKept s (dieAbsent s d cause) := by
  unfold dieAbsent
  dsimp only
  split <;> simp [StartKept]

@[simp] theorem bringDie_startKept (answers : List DieAnswer) (ps : List PkgAnswer) (d : DieNo) (s : State) :
    StartKept s (bringDie answers ps d s) := by
  unfold bringDie
  dsimp only
  (repeat' split) <;> simp [StartKept]

@[simp] theorem bringUp_startKept (s : State) (c : Nat) (answers : List DieAnswer) (ps : List PkgAnswer) :
    StartKept s (bringUp s c answers ps) := by
  unfold bringUp
  dsimp only
  split <;> simp [StartKept]

@[simp] theorem firstPolls_startKept (s : State) : StartKept s (firstPolls s) := by
  unfold firstPolls
  split <;> simp [StartKept]

@[simp] theorem fillChannel_startKept (s : State) (chB : Bool) : StartKept s (fillChannel s chB) := by
  simp [fillChannel, StartKept]

@[simp] theorem placeRegions_startKept (s : State) (d : List Nat) : StartKept s (placeRegions s d) := ⟨rfl, rfl⟩

@[simp] theorem bringFlash_startKept (s : State) (inp : StartupIn) : StartKept s (bringFlash s inp) := by
  unfold bringFlash
  extract_lets s1 s2 s3
  have h1 : StartKept s s1 := forEach_startKept _ _ _ fun c s => by split <;> exact bringUp_startKept ..
  have h2 : StartKept s1 s2 := forEach_startKept _ _ _ fun c s => rbStuck_startKept s c
  have h : StartKept s s3 := h1.trans (h2.trans (firstPolls_startKept s2))
  exact StartKept.ite h (h.trans (raiseFault_startKept ..))

end Sys2Proof.Machine

namespace Sys2Proof.Machine

/-! ### Phases and the restricted phase at a start -/

@[simp] theorem setIslandState_sec (s : State) (id : Nat) (st : IslState) : (setIslandState s id st).sec = s.sec := by
  obtain ⟨x, fl, air, h⟩ := setIslandState_effect s id st
  rw [h]

@[simp] theorem recordEvent_sec (s : State) (code sev kind num : Nat) (payload : List Byte) :
    (recordEvent s code sev kind num payload).sec = s.sec := by
  obtain ⟨e, fs, h⟩ := recordEvent_effect s code sev kind num payload
  rw [h]

/-- The boot record of a phase just entered; the reason is kept in PHASE 7 alone. -/
def bootEntered (s : State) (p reason : Nat) : BootSt :=
  { s.boot with phase := p, reason := if p = 7 then reason else 0, phaseAt := vecUpd s.boot.phaseAt p fun _ => some (now s) }

theorem enterPhase_noted (s : State) (p reason : Nat) :
    PhaseNoted { s with boot := bootEntered s p reason } (enterPhase s p reason) :=
  (recordEvent_phaseNoted ..).trans ((refreshAlive_phaseNoted _).trans
    ((refreshFaultLed_phaseNoted _).trans (readyFns_phaseNoted _)))

@[simp] theorem enterPhase_boot (s : State) (p reason : Nat) : (enterPhase s p reason).boot = bootEntered s p reason := by
  obtain ⟨e, f, n, fs, h⟩ := enterPhase_noted s p reason
  rw [h]

@[simp] theorem enterPhase_fl (s : State) (p reason : Nat) : (enterPhase s p reason).fl = s.fl := by
  obtain ⟨e, f, n, fs, h⟩ := enterPhase_noted s p reason
  rw [h]

@[simp] theorem enterPhase_eav (s : State) (p reason : Nat) : (enterPhase s p reason).eav = s.eav := by
  obtain ⟨e, f, n, fs, h⟩ := enterPhase_noted s p reason
  rw [h]

theorem restrict_boot (s : State) (reason : Nat) (formB : Bool) :
    (restrict s reason formB).boot = bootEntered { s with boot := { s.boot with formB := formB } } 7 reason := by
  unfold restrict
  extract_lets boot t u
  have ht : t.boot = bootEntered { s with boot := { s.boot with formB := formB } } 7 reason := enterPhase_boot ..
  have hu : u.boot = t.boot := forEach_proj State.boot _ _ _ fun f x => updFn_boot ..
  clear_value t u
  split
  · exact (setIslandState_boot ..).trans (hu.trans ht)
  · exact ht

/-! ### Where the start-up waits, and what it finds without images (R264 to R266, R337, R365, R439) -/

theorem exec_startup (i : StartupIn) (s : State) : exec (.startup i) s = execStartup i s := rfl

theorem exec_startup_waits {s : State} (i : StartupIn) (h : startWaits s = true) : exec (.startup i) s = .next s :=
  next_if_pos h rfl

theorem exec_startup_goes {s : State} (i : StartupIn) (h : startWaits s = false) :
    exec (.startup i) s = .next (startUp (provision (releaseIslands s)) i) :=
  next_if_neg (by simp [h]) rfl

theorem startWaits_of_hindrance {s : State} (h : s.boot.phase ≠ 0 ∨ s.pins.testMode = true ∨ s.thm.tripWait = true ∨
    s.isl.sysrefOk = false ∨ s.eav.afterDump = true ∨ powerUpFree s = false) : startWaits s = true := by
  unfold startWaits
  rcases h with h | h | h | h | h | h <;> simp [h]

theorem startUp_without_ridge {p : State} (i : StartupIn) (h : imageFor p 1 = none) :
    startUp p i = restrict (imageEvent p 1) 1 true := by
  simp [startUp, bootImages, h]

theorem startUp_without_profile {p : State} (i : StartupIn) (hr : (imageFor p 1).isSome = true) (hl : p.sec.integLock = true)
    (h : imageFor p 4 = none) : startUp p i = restrict (imageEvent p 4) 2 true := by
  simp [startUp, bootImages, Option.isSome_iff_ne_none.1 hr, hl, h]

/-- The start of a part stops in form B of the restricted phase for a missing image. -/
theorem startUp_restricted {p t : State} {i : StartupIn} {reason : Nat} (h : startUp p i = restrict t reason true) :
    (startUp p i).boot.phase = 7 ∧ (startUp p i).boot.reason = reason ∧ (startUp p i).boot.formB = true := by
  rw [h, restrict_boot]
  exact ⟨rfl, rfl, rfl⟩

/-- The release of the islands keeps what the Ridge holds of keys and images. -/
theorem releaseIslands_sec (s : State) : (releaseIslands s).sec = s.sec := by
  unfold releaseIslands
  dsimp only
  refine Eq.trans (forEach_proj State.sec _ _ _ fun f u => rfl) ?_
  refine Eq.trans (forEach_proj State.sec _ _ _ fun id u => setIslandState_sec ..) ?_
  exact recordEvent_sec ..

theorem provision_of_integLock {s : State} (h : s.sec.integLock = true) : provision s = s := if_pos h

theorem releaseIslands_startKind (s : State) :
    (releaseIslands s).boot.startKind = if s.boot.afterTrip then 2 else if cleanStart s then 0 else 1 := by
  unfold releaseIslands
  dsimp only
  refine Eq.trans (forEach_startKind _ _ _ fun f u => rfl) ?_
  refine Eq.trans (forEach_startKind _ _ _ fun id u => by rw [setIslandState_boot]) ?_
  rw [recordEvent_boot]

/-! ### The division of DRAM (R273, R274) -/

theorem startFlashSide_undivided {s : State} {i : StartupIn} (h : startDivision (trainAll s i) i = none) :
    startFlashSide s i = startUndivided (trainAll s i) := by
  unfold startFlashSide
  rw [h]
  rfl

theorem startUndivided_boot (s : State) : (startUndivided s).boot.phase = 7 ∧ (startUndivided s).boot.reason = 8 := by
  unfold startUndivided
  rw [restrict_boot]
  exact ⟨rfl, rfl⟩

theorem startUndivided_fl (s : State) : (startUndivided s).fl = s.fl :=
  (enterPhase_fl ..).trans (recordEvent_fl ..)

/-- A division: the two fixed regions first, six parts, and no more than there is. -/
theorem divide_spec {p : Profile} {usable : Nat} {d : List Nat} (h : divide p usable = some d) :
    d.take 2 = [128, 128] ∧ d.length = 6 ∧ sumNat d ≤ usable := by
  unfold divide at h
  obtain ⟨hfits, h⟩ := Option.ite_none_left_eq_some.1 h
  cases h
  refine ⟨rfl, rfl, ?_⟩
  simp only [sumNat_eq_sum, List.sum_append, List.sum_singleton] at hfits ⊢
  omega

/-! ### The end of the start-up (R386 to R392) -/

/-- The state with DRAM divided and the flash brought up, before PHASE 4 or 5. -/
def flashBrought (s : State) (i : StartupIn) (d : List Nat) : State :=
  let s := placeRegions s d
  let s := if isRunning s 6 then fillChannel s false else s
  let s := if isRunning s 7 then fillChannel s true else s
  let s := bringFlash (enterPhase s 3 0) i
  { s with adm := { s.adm with powerCapacity := flashPowerCapacity s } }

theorem startDivided_eq (s : State) (i : StartupIn) (d : List Nat) :
    startDivided s i d = if (flashBrought s i d).boot.startKind = 0 then updateWarm (cleanReady (flashBrought s i d))
      else enterPhase { flashBrought s i d with eav := { (flashBrought s i d).eav with replaying := true } } 4 0 := rfl

/-- The start-up's kind stays through the division, PHASE 3 and the bring-up. -/
theorem flashBrought_startKind (s : State) (i : StartupIn) (d : List Nat) :
    (flashBrought s i d).boot.startKind = s.boot.startKind := by
  unfold flashBrought
  extract_lets s1 s2 s3 s4
  have h2 : StartKept s1 s2 := StartKept.ite (fillChannel_startKept ..) (StartKept.refl s1)
  have h3 : StartKept s2 s3 := StartKept.ite (fillChannel_startKept ..) (StartKept.refl s2)
  calc s4.boot.startKind = (enterPhase s3 3 0).boot.startKind := (bringFlash_startKept ..).2
    _ = s3.boot.startKind := by rw [enterPhase_boot]; rfl
    _ = s.boot.startKind := h3.2.trans h2.2

theorem cleanReady_phase (s : State) : (cleanReady s).boot.phase = 5 := by
  unfold cleanReady
  generalize dropTargets (spliceAborted _) = t
  refine ((recomputeBays_startKept _).trans (recomputeEaves_startKept _)).1.trans ?_
  rw [enterPhase_boot]
  rfl

theorem startDivided_clean {s : State} (i : StartupIn) (d : List Nat) (h : s.boot.startKind = 0) :
    (startDivided s i d).boot.phase = 5 := by
  rw [startDivided_eq, if_pos ((flashBrought_startKind ..).trans h)]
  exact (updateWarm_startKept _).1.trans (cleanReady_phase _)

theorem startDivided_replay {s : State} (i : StartupIn) (d : List Nat) (h : s.boot.startKind ≠ 0) :
    (startDivided s i d).boot.phase = 4 ∧ (startDivided s i d).eav.replaying = true := by
  rw [startDivided_eq, if_neg (flashBrought_startKind s i d ▸ h), enterPhase_boot, enterPhase_eav]
  exact ⟨rfl, rfl⟩

/-- Settles O57: where the start-up waits or stops, the division of DRAM, and the phase that a start of each kind reaches. -/
theorem startUps : Obligations.StartUps := by
  refine ⟨fun s i => ⟨fun h => exec_startup_waits i (startWaits_of_hindrance h), fun h => ?_, fun h => ?_⟩, fun s i h => ?_,
    fun s i d => ⟨startDivided_clean i d, startDivided_replay i d⟩, releaseIslands_startKind, fun p usable d => divide_spec⟩
  · exact ⟨exec_startup_goes i h, fun h1 => ⟨_, exec_startup_goes i h, startUp_restricted (startUp_without_ridge i h1)⟩,
      fun h1 hl h4 => ⟨_, exec_startup_goes i h, startUp_restricted (startUp_without_profile i h1 hl h4)⟩⟩
  · exact provision_of_integLock ((congrArg SecSt.integLock (releaseIslands_sec s)).trans h)
  · rw [startFlashSide_undivided h]
    obtain ⟨hphase, hreason⟩ := startUndivided_boot (trainAll s i)
    exact ⟨hphase, hreason, startUndivided_fl _⟩

end Sys2Proof.Machine

namespace Sys2Proof

/-! ### The canonical form of a DRAM content is one (R272, R281) -/

theorem Memory.read_cons_self (a : Nat) (b : Byte) (m : List Host.Cell) : Memory.read ((a, b) :: m) a = b := if_pos rfl

theorem Memory.read_cons_ne {a x : Nat} (h : a ≠ x) (b : Byte) (m : List Host.Cell) :
    Memory.read ((a, b) :: m) x = Memory.read m x := if_neg h

/-- A canonical content lists no address before its first. -/
theorem Memory.above_of_wf_cons {a x : Nat} {b : Byte} {m : List Host.Cell} (h : Memory.wf ((a, b) :: m) = true) (hx : x < a) :
    ∀ c ∈ (a, b) :: m, x < c.1 := by
  obtain ⟨-, ht, -⟩ := Memory.wf_cons.1 h
  intro c hc
  rcases List.mem_cons.1 hc with rfl | hc
  · exact hx
  · exact Nat.lt_trans hx (ht c hc)

/-- The first listed address does not read as zero, so a content that reads the same lists none after it as its first. -/
theorem Memory.first_le_of_read_eq {a c : Nat} {b d : Byte} {m n : List Host.Cell} (hm : Memory.wf ((a, b) :: m) = true)
    (hn : Memory.wf ((c, d) :: n) = true) (h : ∀ x, Memory.read ((a, b) :: m) x = Memory.read ((c, d) :: n) x) : c ≤ a := by
  obtain ⟨hb, -, -⟩ := Memory.wf_cons.1 hm
  refine Nat.le_of_not_lt fun hlt => hb ?_
  calc b = Memory.read ((a, b) :: m) a := (Memory.read_cons_self ..).symm
    _ = Memory.read ((c, d) :: n) a := h a
    _ = 0 := Memory.read_above (Memory.above_of_wf_cons hn hlt)

/-- Nothing but the empty content reads as zero everywhere. -/
theorem Memory.not_read_zero_of_wf_cons {a : Nat} {b : Byte} {m : List Host.Cell} (h : Memory.wf ((a, b) :: m) = true) :
    Memory.read ((a, b) :: m) a ≠ 0 := by
  rw [Memory.read_cons_self]
  exact (Memory.wf_cons.1 h).1

/-- What follows the first entry reads as the whole does, but for the first address, where it reads as zero. -/
theorem Memory.read_tail {a : Nat} {b : Byte} {m : List Host.Cell} (h : Memory.wf ((a, b) :: m) = true) (x : Nat) :
    Memory.read m x = if a = x then 0 else Memory.read ((a, b) :: m) x := by
  split
  · next hx =>
    obtain ⟨-, ht, -⟩ := Memory.wf_cons.1 h
    exact Memory.read_above (hx ▸ ht)
  · next hx => exact (Memory.read_cons_ne hx b m).symm

theorem Memory.eq_of_read_eq {m n : List Host.Cell} (hm : Memory.wf m = true) (hn : Memory.wf n = true)
    (h : ∀ x, Memory.read m x = Memory.read n x) : m = n := by
  induction m generalizing n with
  | nil =>
    cases n with
    | nil => rfl
    | cons e n => exact absurd (h e.1).symm (Memory.not_read_zero_of_wf_cons hn)
  | cons e m ih =>
    obtain ⟨a, b⟩ := e
    cases n with
    | nil => exact absurd (h a) (Memory.not_read_zero_of_wf_cons hm)
    | cons f n =>
      obtain ⟨c, d⟩ := f
      obtain rfl : a = c :=
        Nat.le_antisymm (Memory.first_le_of_read_eq hn hm fun x => (h x).symm) (Memory.first_le_of_read_eq hm hn h)
      obtain rfl : b = d := by simpa [Memory.read_cons_self] using h a
      rw [ih (Memory.wf_cons.1 hm).2.2 (Memory.wf_cons.1 hn).2.2 fun x => ?_]
      rw [Memory.read_tail hm, Memory.read_tail hn, h]

end Sys2Proof

namespace Sys2Proof.Machine

/-- Every step keeps the form of both contents: a command as `Keeps` says, an idle step as it leaves the contents alone. -/
theorem step_wf {s t : State} (ha : Memory.wf s.dram.da.cells = true) (hb : Memory.wf s.dram.db.cells = true) (h : step s = .next t) :
    Memory.wf t.dram.da.cells = true ∧ Memory.wf t.dram.db.cells = true := by
  cases hp : s.pending with
  | nil =>
    rw [step_pending_nil hp] at h
    cases h
    obtain ⟨-, -, hda, hdb, -⟩ := idle_kept s
    exact ⟨hda ▸ ha, hdb ▸ hb⟩
  | cons i rest =>
    rw [step_pending_cons hp] at h
    by_cases hi : ∃ a b c d, i = .aonPowerOnReset a b c d
    · obtain ⟨a, b, c, d, rfl⟩ := hi
      obtain ⟨u, hu, -, -, -, -, -, hda, hdb⟩ := exec_aonPowerOnReset_keeps a b c d { s with pending := rest }
      cases hu.symm.trans h
      exact ⟨hda ha, hdb hb⟩
    · obtain ⟨u, hu, -, -, -, -, hda, hdb⟩ := exec_keeps i { s with pending := rest } fun a b c d e => hi ⟨a, b, c, d, e⟩
      cases hu.symm.trans h
      exact ⟨hda ha, hdb hb⟩

/-- Settles O4: every command keeps the form of both contents, and the first entries of two contents that read the same agree. -/
theorem dramContentsKeepForm : Obligations.DramContentsKeepForm :=
  ⟨fun _ _ ha hb h => step_wf ha hb h, fun _ _ hm hn h => Memory.eq_of_read_eq hm hn h⟩

end Sys2Proof.Machine

namespace Sys2Proof.Machine

/-! ### Pool Quota Set and Pool Report (R303 to R305, R313) -/

section PoolQuota

variable {s : State} {q : HmpHdr} {pool count : Nat} (h : HmpServed s q ruleQuota)

include h

theorem exec_poolQuotaSet_unknown (hp : 4 ≤ pool) :
    exec (.poolQuotaSet q pool count) s = .next (rejectWrite s q 0x0901 hsOutOfRange 0) := h.next (if_pos hp)

/-- A quota of a pool that there is, by its range. -/
theorem exec_poolQuotaSet_known (hp : pool < 4) : exec (.poolQuotaSet q pool count) s = .next
    (if ¬((quotaRange pool).1 ≤ count ∧ count ≤ (quotaRange pool).2) then rejectWrite s q 0x0901 hsOutOfRange 2
     else if 11264 < quotaSum (withQuota s.prof pool count) then answer s q 0x0901 hsConflict 1 []
     else hmpDone (setQuota s pool count) q 0x0901) := by
  refine h.next ((if_neg (Nat.not_le.2 hp)).trans ?_)
  simp only [Bool.or_eq_true, decide_eq_true_eq, not_and_or, Nat.not_le]

theorem exec_poolQuotaSet_range (hp : pool < 4) (hr : ¬((quotaRange pool).1 ≤ count ∧ count ≤ (quotaRange pool).2)) :
    exec (.poolQuotaSet q pool count) s = .next (rejectWrite s q 0x0901 hsOutOfRange 2) := by
  rw [exec_poolQuotaSet_known h hp, if_pos hr]

theorem poolQuotaSet_overbooked (hp : pool < 4) (hr : (quotaRange pool).1 ≤ count ∧ count ≤ (quotaRange pool).2)
    (hs : 11264 < quotaSum (withQuota s.prof pool count)) :
    HmpAnswers (exec (.poolQuotaSet q pool count) s) s s q 0x0901 hsConflict 1 [] := by
  refine answer_answers ?_ h.2 rfl
  rw [exec_poolQuotaSet_known h hp, if_neg (not_not.2 hr), if_pos hs]

theorem poolQuotaSet_applies (hp : pool < 4) (hr : (quotaRange pool).1 ≤ count ∧ count ≤ (quotaRange pool).2)
    (hs : quotaSum (withQuota s.prof pool count) ≤ 11264) :
    HmpApplies (exec (.poolQuotaSet q pool count) s) s (setQuota s pool count) q 0x0901 := by
  refine hmpDone_applies ?_ h.2 rfl
  rw [exec_poolQuotaSet_known h hp, if_neg (not_not.2 hr), if_neg (Nat.not_lt.2 hs)]

end PoolQuota

theorem length_poolBytes (s : State) : (poolBytes s).length = 80 := by
  have hpools : ((List.range 4).flatMap fun n => leBytes 2 (poolReserve s.prof n) ++ leBytes 2 (poolInUse s n) ++
      leBytes 2 (poolOverflow s n) ++ leBytes 2 (max (poolOf s n).peak (poolInUse s n)) ++ leBytes 4 (poolOf s n).failures ++ zeros 4).length =
      16 * (List.range 4).length :=
    length_flatMap_const (fun n => by simp only [List.length_append, length_leBytes, length_zeros]) _
  simp only [poolBytes, List.length_append, hpools, List.length_range, length_leBytes, length_zeros]

/-- The pools' records after a Pool Report: each peak is the present use. -/
def peaksRestarted (s : State) : List PoolSt := s.buf.pools.zipIdx.map fun e => { e.1 with peak := poolInUse s e.2 }

theorem length_peaksRestarted (s : State) : (peaksRestarted s).length = s.buf.pools.length := by simp [peaksRestarted]

theorem peak_peaksRestarted (s : State) (i : Nat) (h : i < (peaksRestarted s).length) : (peaksRestarted s)[i].peak = poolInUse s i := by
  simp [peaksRestarted]

theorem poolReport_answers {s : State} {q : HmpHdr} (h : HmpServed s q rulePools) :
    (q.room < 80 → HmpAnswers (exec (.poolReport q) s) s s q 0x0902 hsTooSmall 80 []) ∧
    (80 ≤ q.room → HmpAnswers (exec (.poolReport q) s) s { s with buf := { s.buf with pools := peaksRestarted s } } q 0x0902
      hsSuccess 0 (poolBytes s)) := by
  have hlen := length_poolBytes s
  refine ⟨fun hr => h.answers ?_, fun hr => answer_answers (h.next ?_) h.2 rfl⟩
  · rw [if_pos hr, reply, hlen, if_pos hr]
  · rw [if_neg (Nat.not_lt.2 hr), reply, hlen, if_neg (Nat.not_lt.2 hr)]
    rfl

/-- Settles O27: a quota by the tests it passes in order, and the report by whether the sender's buffer takes it. -/
theorem bufferPools : Obligations.BufferPools := by
  refine ⟨fun s q pool count h => ⟨exec_poolQuotaSet_unknown h, exec_poolQuotaSet_range h, poolQuotaSet_overbooked h,
    fun hp hr hs => ⟨poolQuotaSet_applies h hp hr hs, rfl⟩⟩, fun s q h => ?_, length_poolBytes⟩
  obtain ⟨hsmall, hroom⟩ := poolReport_answers h
  exact ⟨hsmall, fun hr => ⟨peaksRestarted s, hroom hr, length_peaksRestarted s, peak_peaksRestarted s⟩⟩

end Sys2Proof.Machine

namespace Sys2Proof.Machine

/-! ### Event Read, Dormer Position and the meters (R402, R404 to R407, R410) -/

theorem length_recordBytes64 (r : EventRec) : (recordBytes64 r).length = 64 := by
  simp only [recordBytes64, List.length_append, length_leBytes, length_padTo]

theorem length_meterBytes (s : State) (f : Nat) : (meterBytes s f).length = 64 := by
  simp only [meterBytes, List.length_append, length_leBytes, length_zeros]

theorem eventRead_reports {s : State} {q : HmpHdr} (h : HmpServed s q ruleEventRead) (first severity most : Nat) {area : Nat} (ha : area < 2) :
    let rs := ((areaRecords s (area == 1) first).filter fun r => decide (severity ≤ r.severity)).take most
    HmpReports (exec (.eventRead q first area severity most) s) s q 0x0801 (leBytes 6 (newestSeq s) ++ leBytes 6 (oldestSeq s) ++
      leBytes 2 rs.length ++ leBytes 1 (if area = 0 ∧ first < oldestSeq s then 1 else 0) ++ zeros 1 ++ rs.flatMap recordBytes64) := by
  intro rs
  have hcirculating : (!(area == 1) && decide (first < oldestSeq s)) = true ↔ area = 0 ∧ first < oldestSeq s := by
    simp only [Bool.and_eq_true, Bool.not_eq_true', beq_eq_false_iff_ne, decide_eq_true_eq]
    omega
  refine h.reports ?_
  rw [if_neg (Nat.not_lt.2 (Nat.le_of_lt_succ ha))]
  simp only [hcirculating]
  rfl

theorem exec_dormerPosition_bad {s : State} {q : HmpHdr} (h : HmpServed s q ruleDormerPosition) {cursor : Nat} {permanent : Bool}
    (hc : cursorBad s cursor permanent = true) :
    exec (.dormerPosition q cursor permanent) s = .next (rejectWrite s q 0x0802 hsOutOfRange 0) := h.next (if_pos hc)

theorem dormerPosition_applies {s : State} {q : HmpHdr} (h : HmpServed s q ruleDormerPosition) {cursor : Nat} {permanent : Bool}
    (hc : cursorBad s cursor permanent = false) :
    HmpApplies (exec (.dormerPosition q cursor permanent) s) s (dormerSnapshot s cursor permanent) q 0x0802 :=
  h.applies (if_neg (Bool.eq_false_iff.1 hc)) rfl

theorem energyMeterReport_answers {s : State} {q : HmpHdr} (h : HmpServed s q ruleEnergy) (f : Nat) :
    (ownFn q.sender f = true → f < 256 ∨ f = 0xFFFF → HmpReports (exec (.energyMeterReport q f) s) s q 0x0803 (meterBytes s f)) ∧
    (ownFn q.sender f = false → HmpAnswers (exec (.energyMeterReport q f) s) s s q 0x0803 hsNotPermitted 0 []) ∧
    (ownFn q.sender f = true → 256 ≤ f → f ≠ 0xFFFF → HmpAnswers (exec (.energyMeterReport q f) s) s s q 0x0803 hsUnknown 0 []) := by
  have hknown : (!fnValid f && f != 0xFFFF) = true ↔ 256 ≤ f ∧ f ≠ 0xFFFF := by simp [fnValid]
  refine ⟨fun ho hf => h.reports ?_, fun ho => h.answers (if_pos (by simp [ho])), fun ho hf hne => h.answers ?_⟩
  · rw [if_neg (by simp [ho]), if_neg (hknown.not.2 (by omega))]
  · rw [if_neg (by simp [ho]), if_pos (hknown.2 ⟨hf, hne⟩)]

theorem counterReport_answers {s : State} {q : HmpHdr} (h : HmpServed s q ruleCounters) (f : Nat) :
    (ownFn q.sender f = true → f < 256 → HmpReports (exec (.counterReport q f) s) s q 0x0804 (counterBytes s f)) ∧
    (ownFn q.sender f = false → HmpAnswers (exec (.counterReport q f) s) s s q 0x0804 hsNotPermitted 0 []) ∧
    (ownFn q.sender f = true → 256 ≤ f → HmpAnswers (exec (.counterReport q f) s) s s q 0x0804 hsUnknown 0 []) := by
  refine ⟨fun ho hf => h.reports ?_, fun ho => h.answers (if_pos (by simp [ho])), fun ho hf => h.answers ?_⟩
  · rw [if_neg (by simp [ho]), if_neg (by simpa [fnValid] using hf)]
  · rw [if_neg (by simp [ho]), if_pos (by simpa [fnValid] using hf)]

/-- Settles O24: each report replies with its bytes, or is answered by the first test that fails. -/
theorem telemetryReports : Obligations.TelemetryReports :=
  ⟨fun _ _ first _ severity most h => ⟨fun ha => eventRead_reports h first severity most ha, fun ha => h.answers (if_pos ha),
      length_recordBytes64⟩,
    fun _ _ _ _ h => ⟨exec_dormerPosition_bad h, dormerPosition_applies h⟩, fun _ _ f h => energyMeterReport_answers h f,
    fun _ _ f h => counterReport_answers h f, length_meterBytes⟩

end Sys2Proof.Machine

namespace Sys2Proof.Machine

/-! ### A full record cache (R400, R403) -/

/-- The record that a new event makes: the next SEQ, the present times, up to 32 bytes of payload (Table 19.1). -/
def newRecord (s : State) (code sev kind num : Nat) (payload : List Byte) : EventRec :=
  ⟨s.evt.nextSeq, code, s.tm.opSeconds, s.tm.powerCycles, now s, kind, num, sev,
    (if s.evt.nextSeq < 1024 then 1 else 0) + (if s.tm.onBackup then 4 else 0), payload.take 32⟩

@[simp] theorem notifyFn_evt (s : State) (f : Nat) : (notifyFn s f).evt = s.evt := by
  unfold notifyFn
  split <;> rfl

section Append

variable (s : State) (code sev kind num : Nat) (payload : List Byte)

theorem appendRecord_evt : ∃ n, (appendRecord s code sev kind num payload).evt =
    { s.evt with nextSeq := s.evt.nextSeq + 1, cache := s.evt.cache ++ [newRecord s code sev kind num payload], notifyPending := n } := by
  unfold appendRecord
  extract_lets e flags r hit t
  split
  · exact ⟨_, notifyFn_evt ..⟩
  · exact ⟨_, rfl⟩

/-- An added record takes the next SEQ and the cache's last place. -/
theorem appendRecord_added : (appendRecord s code sev kind num payload).evt.nextSeq = s.evt.nextSeq + 1 ∧
    (appendRecord s code sev kind num payload).evt.cache = s.evt.cache ++ [newRecord s code sev kind num payload] ∧
    (appendRecord s code sev kind num payload).evt.dropped = s.evt.dropped := by
  obtain ⟨n, h⟩ := appendRecord_evt s code sev kind num payload
  rw [h]
  exact ⟨rfl, rfl, rfl⟩

end Append

/-- The first element that meets the test is the one evicted. -/
theorem evictFirst_split {p : EventRec → Bool} {a b : List EventRec} {x : EventRec} (ha : ∀ y ∈ a, p y = false) (hx : p x = true) :
    evictFirst p (a ++ x :: b) = some (a ++ b) := by
  have hfind : (a ++ x :: b).findIdx? p = some a.length := by
    rw [List.findIdx?_append, List.findIdx?_eq_none_iff.2 ha]
    simp [List.findIdx?_cons, hx]
  simp [evictFirst, hfind, List.eraseIdx_append_of_length_le]

theorem evictFirst_none {p : EventRec → Bool} {l : List EventRec} (h : ∀ y ∈ l, p y = false) : evictFirst p l = none := by
  simp only [evictFirst, List.findIdx?_eq_none_iff.2 h]

theorem evictFirst_some {p : EventRec → Bool} {l : List EventRec} (h : ∃ y ∈ l, p y = true) : ∃ l', evictFirst p l = some l' := by
  unfold evictFirst
  split
  · exact ⟨_, rfl⟩
  · next hnone =>
    obtain ⟨y, hy, hp⟩ := h
    exact absurd (List.findIdx?_eq_none_iff.1 hnone y hy) (by simp [hp])

/-- Where the room for a new record in a full cache comes from: the oldest record of severity 0 or 1, else for a kept code the oldest
record of another code. -/
def recordRoom (s : State) (code sev : Nat) : Option (List EventRec) :=
  match if 2 ≤ sev then evictFirst (fun r => decide (r.severity ≤ 1)) s.evt.cache else none with
  | some l => some l
  | none => if keptCode code then evictFirst (fun r => !keptCode r.code) s.evt.cache else none

section RecordEvent

variable {s : State} {code sev : Nat} (kind num : Nat) (p : List Byte)

theorem recordEvent_shut (hd : s.eav.dumpStart.isSome = true) (hc : aonCode code = false) : recordEvent s code sev kind num p = s :=
  if_pos (by simp [hd, hc])

variable (hr : isRunning s 0 = true) (hd : s.eav.dumpStart = none ∨ aonCode code = true)

include hr hd

theorem recordEvent_free (hl : s.evt.cache.length < 512) : recordEvent s code sev kind num p = appendRecord s code sev kind num p :=
  (if_neg (by rcases hd with h | h <;> simp [h, hr])).trans (if_pos hl)

theorem recordEvent_full (hl : 512 ≤ s.evt.cache.length) : recordEvent s code sev kind num p =
    match recordRoom s code sev with
    | some l => appendRecord { s with evt := { s.evt with cache := l } } code sev kind num p
    | none => dropRecord s sev :=
  (if_neg (by rcases hd with h | h <;> simp [h, hr])).trans (if_neg (Nat.not_lt.2 hl))

theorem recordEvent_replaces (hl : 512 ≤ s.evt.cache.length) {l : List EventRec} (h : recordRoom s code sev = some l) :
    (recordEvent s code sev kind num p).evt.nextSeq = s.evt.nextSeq + 1 ∧
      (recordEvent s code sev kind num p).evt.cache = l ++ [newRecord s code sev kind num p] := by
  rw [recordEvent_full kind num p hr hd hl, h]
  obtain ⟨hseq, hcache, -⟩ := appendRecord_added { s with evt := { s.evt with cache := l } } code sev kind num p
  exact ⟨hseq, hcache⟩

theorem recordEvent_drops (hl : 512 ≤ s.evt.cache.length) (h : recordRoom s code sev = none) :
    recordEvent s code sev kind num p = dropRecord s sev := by
  rw [recordEvent_full kind num p hr hd hl, h]

end RecordEvent

theorem recordRoom_oldest {s : State} (code : Nat) {sev : Nat} {a b : List EventRec} {x : EventRec} (hs : 2 ≤ sev)
    (hc : s.evt.cache = a ++ x :: b) (hx : x.severity ≤ 1) (ha : ∀ y ∈ a, 2 ≤ y.severity) : recordRoom s code sev = some (a ++ b) := by
  have hevict : evictFirst (fun r => decide (r.severity ≤ 1)) s.evt.cache = some (a ++ b) :=
    hc ▸ evictFirst_split (fun y hy => decide_eq_false (Nat.not_le.2 (ha y hy))) (decide_eq_true hx)
  simp only [recordRoom, if_pos hs, hevict]

theorem recordRoom_none {s : State} {code sev : Nat} (h : sev ≤ 1 ∨ ∀ y ∈ s.evt.cache, 2 ≤ y.severity) (hk : keptCode code = false) :
    recordRoom s code sev = none := by
  have hevict : (if 2 ≤ sev then evictFirst (fun r => decide (r.severity ≤ 1)) s.evt.cache else none) = none := by
    rcases h with h | h
    · exact if_neg (by omega)
    · rw [evictFirst_none fun y hy => decide_eq_false (Nat.not_le.2 (h y hy)), ite_self]
  simp [recordRoom, hevict, hk]

/-- A kept code finds room wherever some record of another code is cached. -/
theorem recordRoom_kept {s : State} {code : Nat} (sev : Nat) (hk : keptCode code = true) (h : ∃ y ∈ s.evt.cache, keptCode y.code = false) :
    ∃ l, recordRoom s code sev = some l := by
  unfold recordRoom
  split
  · exact ⟨_, rfl⟩
  · obtain ⟨y, hy, hyk⟩ := h
    obtain ⟨l, hl⟩ := evictFirst_some (p := fun r => !keptCode r.code) ⟨y, hy, by simp [hyk]⟩
    exact ⟨l, by rw [if_pos hk, hl]⟩

theorem exec_recordPageProgram_done {s : State} (hm : mgmtDown s = false) (hp : pageDue s = true) (hd : s.eav.dumpStart = none) :
    exec (.recordPageProgram true) s = .next (programPage s) := next_if_neg (by simp [hm, hp, hd]) rfl

/-- A programmed page leaves 256 records fewer cached, so the dropped ones are recorded. -/
theorem programPage_dropped {s : State} (hr : isRunning s 0 = true) (hd : s.eav.dumpStart = none) (hn : 0 < s.evt.dropped)
    (hl : s.evt.cache.length ≤ 512) : (programPage s).evt.dropped = 0 ∧ ∃ r ∈ (programPage s).evt.cache, r.code = 0x0090 ∧ r.severity = 2 ∧
      r.payload.take 4 = leBytes 4 s.evt.dropped := by
  unfold programPage
  extract_lets page circ _ e n low t
  have hlen : t.evt.cache.length < 512 := by
    have : t.evt.cache.length = s.evt.cache.length - 256 := List.length_drop
    omega
  rw [if_neg (Nat.ne_of_gt hn), recordEvent_free 0 0 _ (s := t) hr (.inl hd) hlen]
  obtain ⟨-, hcache, hdropped⟩ := appendRecord_added t 0x0090 2 0 0 (leBytes 4 n ++ leBytes 1 low)
  refine ⟨hdropped, newRecord t 0x0090 2 0 0 (leBytes 4 n ++ leBytes 1 low), hcache ▸ List.mem_append_right _ (List.mem_singleton.2 rfl),
    rfl, rfl, ?_⟩
  simp only [newRecord, List.take_take]
  exact List.take_left' (length_leBytes ..)

/-- Settles O59: what a full cache gives up for a new record, and the record of the dropped ones once a page is programmed. -/
theorem fullRecordCache : Obligations.FullRecordCache := by
  refine ⟨fun s code sev kind num p hr => ⟨recordEvent_shut kind num p, fun hd => ⟨fun hl => ?_, fun hl hs a x b hc hx ha => ?_,
    fun hl hs hk => ?_, fun hl hk hy => ?_⟩⟩, by decide, fun s hr hm hd hp hn hl => ?_⟩
  · obtain ⟨hseq, hcache, -⟩ := appendRecord_added s code sev kind num p
    rw [← recordEvent_free kind num p hr hd hl] at hseq hcache
    exact ⟨hseq, hcache⟩
  · exact recordEvent_replaces kind num p hr hd hl (recordRoom_oldest code hs hc hx ha)
  · have hdrop := recordEvent_drops kind num p hr hd hl (recordRoom_none hs hk)
    rw [hdrop]
    exact ⟨rfl, rfl, rfl⟩
  · obtain ⟨l, hroom⟩ := recordRoom_kept sev hk hy
    obtain ⟨hseq, hcache⟩ := recordEvent_replaces kind num p hr hd hl hroom
    exact ⟨hseq, hcache ▸ List.mem_append_right _ (List.mem_singleton.2 rfl)⟩
  · exact ⟨programPage s, exec_recordPageProgram_done hm hp hd, programPage_dropped hr hd hn hl⟩

end Sys2Proof.Machine

namespace Sys2Proof.Machine

/-! ### The test access port and the LEDs (R438 to R440) -/

theorem exec_tapInstructionUpdate_taken {s : State} {i : TapInstr} (h : s.pins.testMode = true ∨ i = .bypass ∨ i = .samplePreload) :
    exec (.tapInstructionUpdate i) s = .next { s with pins := { s.pins with tap := i } } := by
  have htaken : (s.pins.testMode || tapAlways i) = true := by
    rcases h with h | rfl | rfl
    · rw [h, Bool.true_or]
    · exact Bool.or_true _
    · exact Bool.or_true _
  show execTapInstructionUpdate i s = _
  rw [execTapInstructionUpdate, if_pos htaken]

theorem exec_tapInstructionUpdate_bypass {s : State} {i : TapInstr} (ht : s.pins.testMode = false) (h1 : i ≠ .bypass) (h2 : i ≠ .samplePreload) :
    exec (.tapInstructionUpdate i) s = .next { s with pins := { s.pins with tap := .bypass } } := by
  have hother : (s.pins.testMode || tapAlways i) = false := by
    rw [ht, Bool.false_or]
    cases i with
    | bypass => exact absurd rfl h1
    | samplePreload => exact absurd rfl h2
    | _ => rfl
  show execTapInstructionUpdate i s = _
  rw [execTapInstructionUpdate, if_neg (Bool.eq_false_iff.1 hother)]

theorem aliveOk_testMode {s : State} (h : s.pins.testMode = true) : aliveOk s = false := by simp [aliveOk, h]

theorem exec_activityLedTimeout_since {s : State} {t : Nat} (h : s.pins.lastCompletion = some t) : exec .activityLedTimeout s =
    .next (if t + 50000 ≤ now s then { s with pins := { s.pins with ledActN := true } } else s) := by
  show execActivityLedTimeout s = _
  simp only [execActivityLedTimeout, h]

theorem exec_activityLedTimeout_none {s : State} (h : s.pins.lastCompletion = none) : exec .activityLedTimeout s = .next s := by
  show execActivityLedTimeout s = _
  simp only [execActivityLedTimeout, h]

theorem exec_faultLedBlink_toggles {s : State} (hp : s.boot.phase = 7) (hs : anySevere s = false) (hr : isRunning s 0 = true)
    (ht : s.pins.faultBlinkAt + 250000 ≤ now s) : exec .faultLedBlink s =
    .next { s with pins := { s.pins with ledFltN := !s.pins.ledFltN, faultBlinkAt := now s } } :=
  next_if_neg (by simp [hp, hs, hr, ht]) rfl

theorem exec_faultLedBlink_still {s : State} (h : s.boot.phase ≠ 7 ∨ anySevere s = true ∨ isRunning s 0 = false ∨
    now s < s.pins.faultBlinkAt + 250000) : exec .faultLedBlink s = .next s :=
  next_if_pos (by rcases h with h | h | h | h <;> simp [h]) rfl

/-! ### Pages of records, and the Dormer (R402, R404, R411) -/

theorem exec_recordPageProgram_waits {s : State} (h : mgmtDown s = true ∨ pageDue s = false ∨ s.eav.dumpStart.isSome = true) (ok : Bool) :
    exec (.recordPageProgram ok) s = .next s := next_if_pos (by rcases h with h | h | h <;> simp [h]) rfl

theorem exec_recordPageProgram_failed {s : State} (hm : mgmtDown s = false) (hp : pageDue s = true) (hd : s.eav.dumpStart = none) :
    exec (.recordPageProgram false) s = .next (raiseFault s 317 (capOf 1 1 0 3 3)) := next_if_neg (by simp [hm, hp, hd]) rfl

/-- A page of records goes to the area that the SEQ of each names; the circulating area gives up none while it has room for the page. -/
theorem programPage_eq {s : State} (hn : s.evt.dropped = 0) (hl : s.evt.circulating.length + 256 ≤ 16384) :
    let page := (s.evt.cache.take 256).map (lateFlag s)
    programPage s = { s with evt := { s.evt with
      permanent := s.evt.permanent ++ page.filter (fun r => decide (r.seq < 1024)),
      circulating := s.evt.circulating ++ page.filter (fun r => decide (1024 ≤ r.seq)), cache := s.evt.cache.drop 256, droppedMax := 0 } } := by
  intro page
  have hfits : (s.evt.circulating ++ page.filter fun r => decide (1024 ≤ r.seq)).length - 16384 = 0 := by
    have hpage : (page.filter fun r => decide (1024 ≤ r.seq)).length ≤ page.length := List.length_filter_le ..
    have h256 : page.length ≤ 256 := by simp [page]
    rw [List.length_append]
    omega
  refine (if_pos hn).trans ?_
  simp only [hfits, List.drop_zero, hn, page]

theorem cursorBad_circulating (s : State) (cursor : Nat) :
    cursorBad s cursor false = true ↔ s.evt.nextSeq ≤ cursor ∨ cursor < oldestSeq s := by simp [cursorBad]

theorem cursorBad_permanent (s : State) (cursor : Nat) :
    cursorBad s cursor true = true ↔ s.evt.nextSeq ≤ cursor ∨ 1024 ≤ cursor := by simp [cursorBad]

theorem exec_dormerCursorHiWrite_unreached {s : State} (h : barReachable s 0 = false) (v : Nat) :
    exec (.dormerCursorHiWrite v) s = .next s := next_if_pos (by simp [h]) rfl

/-- A write of CURSOR_HI that reaches the PF wakes a Battened part and takes the snapshot, unless the cursor is bad. -/
theorem exec_dormerCursorHiWrite_reached {s : State} (h : barReachable s 0 = true) (v : Nat) :
    let cursor := v % 65536 * 2 ^ 32 + s.evt.cursorLo.toNat
    let w := beginWake s .register
    exec (.dormerCursorHiWrite v) s = .next (if cursorBad w cursor (bits v 31 1 == 1) then rejectRegister w 0 1 0x8014
      else dormerSnapshot w cursor (bits v 31 1 == 1)) := by
  intro cursor w
  have hcursor : bits v 0 16 * 2 ^ 32 + s.evt.cursorLo.toNat = cursor := by simp [bits, cursor]
  rw [← hcursor]
  exact next_if_neg (by simp [h]) rfl

theorem exec_dormerCursorHiWrite_cases {s : State} (h : barReachable s 0 = true) (v : Nat) :
    let cursor := v % 65536 * 2 ^ 32 + s.evt.cursorLo.toNat
    let w := beginWake s .register
    let rejected := exec (.dormerCursorHiWrite v) s = .next (rejectRegister w 0 1 0x8014)
    (w.evt.nextSeq ≤ cursor → rejected) ∧
    (cursor < w.evt.nextSeq → bits v 31 1 = 0 → cursor < oldestSeq w → rejected) ∧
    (cursor < w.evt.nextSeq → bits v 31 1 = 0 → oldestSeq w ≤ cursor →
      exec (.dormerCursorHiWrite v) s = .next (dormerSnapshot w cursor false)) ∧
    (cursor < w.evt.nextSeq → bits v 31 1 = 1 → cursor < 1024 → exec (.dormerCursorHiWrite v) s = .next (dormerSnapshot w cursor true)) ∧
    (cursor < w.evt.nextSeq → bits v 31 1 = 1 → 1024 ≤ cursor → rejected) := by
  intro cursor w rejected
  have hgo := exec_dormerCursorHiWrite_reached h v
  have hbad {p : Bool} (hb : cursorBad w cursor p = true) (hp : (bits v 31 1 == 1) = p) : rejected :=
    hgo.trans (congrArg _ (if_pos (hp ▸ hb)))
  have hgood {p : Bool} (hb : ¬cursorBad w cursor p = true) (hp : (bits v 31 1 == 1) = p) :
      exec (.dormerCursorHiWrite v) s = .next (dormerSnapshot w cursor p) := by
    subst hp
    exact hgo.trans (congrArg _ (if_neg hb))
  refine ⟨fun hn => hbad (p := bits v 31 1 == 1) (by simp [cursorBad, hn]) rfl, fun hn hb hc => ?_, fun hn hb hc => ?_, fun hn hb hc => ?_,
    fun hn hb hc => ?_⟩
  · exact hbad ((cursorBad_circulating ..).2 (.inr hc)) (by simp [hb])
  · exact hgood (mt (cursorBad_circulating ..).1 (by omega)) (by simp [hb])
  · exact hgood (mt (cursorBad_permanent ..).1 (by omega)) (by simp [hb])
  · exact hbad ((cursorBad_permanent ..).2 (.inr hc)) (by simp [hb])

theorem exec_dormerSnapshotDone_idle {s : State} (h : s.evt.snapBusy = false) : exec .dormerSnapshotDone s = .next s :=
  next_if_pos (by simp [h]) rfl

theorem exec_dormerSnapshotDone_busy {s : State} (h : s.evt.snapBusy = true) :
    let held := s.evt.snapWait.filter fun r => decide (r.seq < 1024) || decide (oldestSeq s ≤ r.seq)
    exec .dormerSnapshotDone s = .next { s with evt := { s.evt with
      snapBusy := false, slots := held, validSlots := held.length, snapWait := [] } } := next_if_neg (by simp [h]) rfl

theorem dormerSlot_busy {s : State} (h : s.evt.snapBusy = true) (i : Nat) : dormerSlot s i = zeros 64 := if_pos h

/-- Settles O58: each command of the port, the LEDs and the recorder by the conditions that it tests. -/
theorem boardAndRecorder : Obligations.BoardAndRecorder := by
  refine ⟨fun s i => ⟨exec_tapInstructionUpdate_taken, exec_tapInstructionUpdate_bypass, aliveOk_testMode⟩,
    fun s => ⟨exec_activityLedTimeout_none, fun t ht => ?_, exec_faultLedBlink_toggles, exec_faultLedBlink_still⟩,
    fun s => ⟨exec_recordPageProgram_waits, fun hm hp hd => ⟨exec_recordPageProgram_failed hm hp hd, fun hn hl => ?_⟩⟩,
    fun s v => ⟨fun h => exec_dormerCursorHiWrite_unreached h v, fun h => exec_dormerCursorHiWrite_cases h v, fun h => beginWake_awake h _⟩,
    fun s => ⟨exec_dormerSnapshotDone_idle, exec_dormerSnapshotDone_busy, dormerSlot_busy⟩⟩
  · rw [exec_activityLedTimeout_since ht]
    exact ⟨fun h => congrArg _ (if_neg (Nat.not_le.2 h)), fun h => congrArg _ (if_pos h)⟩
  · exact (exec_recordPageProgram_done hm hp hd).trans (congrArg _ (programPage_eq hn hl))

end Sys2Proof.Machine

namespace Sys2Proof.Machine

/-! ### What an event of a fault source leaves alone (R314) -/

/-- The parts of the state that no event of a fault source writes. -/
structure FaultKept (s t : State) : Prop where
  tm : t.tm = s.tm
  boot : t.boot = s.boot
  sup : t.sup = s.sup
  thm : t.thm = s.thm
  dram : t.dram = s.dram
  hmp : t.hmp = s.hmp
  prof : t.prof = s.prof
  eav : t.eav = s.eav

section FaultKept

variable {s t u : State}

theorem FaultKept.of {x e f b l n a h c k d} : FaultKept s { s with
    isl := x, evt := e, flt := f, bat := b, tel := l, pins := n, air := a, host := h, sec := c, fl := k, adm := d } := by
  constructor <;> rfl

theorem FaultKept.refl (s : State) : FaultKept s s := .of

theorem FaultKept.trans (h : FaultKept s t) (h' : FaultKept t u) : FaultKept s u :=
  ⟨h'.tm.trans h.tm, h'.boot.trans h.boot, h'.sup.trans h.sup, h'.thm.trans h.thm, h'.dram.trans h.dram, h'.hmp.trans h.hmp,
    h'.prof.trans h.prof, h'.eav.trans h.eav⟩

theorem FaultKept.ite {c : Prop} [Decidable c] (h : FaultKept s t) (h' : FaultKept s u) : FaultKept s (if c then t else u) := by
  split
  · exact h
  · exact h'

theorem FaultKept.of_eq {v : State} (h : FaultKept s v) (e : t = v) : FaultKept s t := e ▸ h

theorem forEach_faultKept {α : Type} (l : List α) (f : α → State → State) (s : State) (h : ∀ a s, FaultKept s (f a s)) :
    FaultKept s (forEach l f s) := by
  unfold forEach
  induction l generalizing s with
  | nil => exact .refl s
  | cons a l ih => exact (h a s).trans (ih _)

theorem recordEvent_faultKept (s : State) (code sev kind num : Nat) (payload : List Byte) :
    FaultKept s (recordEvent s code sev kind num payload) := by
  obtain ⟨e, fs, h⟩ := recordEvent_effect s code sev kind num payload
  exact .of_eq .of h

theorem setIslandState_faultKept (s : State) (id : Nat) (st : IslState) : FaultKept s (setIslandState s id st) := by
  obtain ⟨x, fl, air, h⟩ := setIslandState_effect s id st
  exact .of_eq .of h

theorem setWarning_faultKept (s : State) (bit : Nat) : FaultKept s (setWarning s bit) := by
  obtain ⟨w, fs, ps, rs, ws, h⟩ := setWarning_effect s bit
  exact .of_eq .of h

theorem linkPower_faultKept (s : State) (p : LinkPower) : FaultKept s (linkPower s p) := .ite .of (.refl s)

theorem beginWake_faultKept (s : State) (c : WakeCause) : FaultKept s (beginWake s c) := by
  have hrun (s : State) : FaultKept s (forEach ((List.range 42).map islIdOf) (fun id s =>
      if (island s id).st == .stopped || id == 8 then setIslandState s id .running else s) s) :=
    forEach_faultKept _ _ _ fun _ s => .ite (setIslandState_faultKept ..) (.refl s)
  unfold beginWake
  split
  · exact .refl s
  · extract_lets s1 s2
    have h1 : FaultKept s s1 := hrun s
    have h2 : FaultKept s1 s2 := (linkPower_faultKept s1 .l0).trans .of
    clear_value s2 s1
    exact h1.trans (h2.trans (.trans .of (recordEvent_faultKept ..)))

theorem refreshFaultLed_faultKept (s : State) : FaultKept s (refreshFaultLed s) := .of_eq .of (refreshFaultLed_eq s)

theorem severeChannel_faultKept (s : State) (c : Nat) : FaultKept s (severeChannel s c) := by
  unfold severeChannel
  extract_lets again _ s1 _ s2
  have h2 : FaultKept s s2 := .trans (t := s1) .of (.ite .of (.refl s1))
  exact .ite (h2.trans .of) (.ite (h2.trans (setIslandState_faultKept ..)) h2)

theorem reportSevere_faultKept (s : State) (scope : Nat) : FaultKept s (reportSevere s scope) := by
  unfold reportSevere
  extract_lets _ s1 _ s2
  have h1 : FaultKept s s1 := .of
  exact .ite (h1.trans (.trans (t := s2) .of (forEach_faultKept _ _ _ fun _ _ => .of))) (h1.trans (.trans .of (setWarning_faultKept ..)))

theorem makeSevere_faultKept (s : State) (i isl : Nat) : FaultKept s (makeSevere s i isl) := by
  unfold makeSevere
  split
  · exact .refl s
  · extract_lets sc s1 s2 s3 s4
    have h4 : FaultKept s s4 := .trans (t := refreshAlive s1) (.trans (t := s1) .of (.ite (.refl s1) .of))
      (.trans (refreshFaultLed_faultKept _) (.trans (recordEvent_faultKept ..) (reportSevere_faultKept ..)))
    split
    · exact h4.trans (severeChannel_faultKept ..)
    · exact h4

theorem countFault_faultKept (s : State) (i : Nat) (cap : Capture) : FaultKept s (countFault s i cap) := by
  have hnoted {c : Prop} [Decidable c] (g : FaultSrc → FaultSrc) (p : List Byte) :
      FaultKept s (if c then recordEvent (updSrc s i g) 0x0010 2 1 i p else updSrc s i g) :=
    .ite (.trans (t := updSrc s i g) .of (recordEvent_faultKept ..)) .of
  unfold countFault
  dsimp only
  exact .ite ((hnoted ..).trans (makeSevere_faultKept ..)) (.ite ((hnoted ..).trans .of) (hnoted ..))

theorem multipleFault_faultKept (s : State) (i : Nat) (cap : Capture) : FaultKept s (multipleFault s i cap) := by
  unfold multipleFault
  split
  · exact (recordEvent_faultKept ..).trans (countFault_faultKept ..)
  · exact .refl s

theorem raiseFault_faultKept (s : State) (i : Nat) (cap : Capture) : FaultKept s (raiseFault s i cap) := by
  unfold raiseFault
  extract_lets s1 hit s2
  have h1 : FaultKept s s1 := countFault_faultKept ..
  have h2 : FaultKept s1 s2 := (multipleFault_faultKept ..).trans (.trans .of (beginWake_faultKept ..))
  exact .ite (.refl s) (.ite h1 (h1.trans (h2.trans .of)))

end FaultKept

@[simp] theorem raiseFault_sup (s : State) (i : Nat) (cap : Capture) : (raiseFault s i cap).sup = s.sup := (raiseFault_faultKept s i cap).sup
@[simp] theorem raiseFault_dram (s : State) (i : Nat) (cap : Capture) : (raiseFault s i cap).dram = s.dram := (raiseFault_faultKept s i cap).dram
@[simp] theorem raiseFault_hmp (s : State) (i : Nat) (cap : Capture) : (raiseFault s i cap).hmp = s.hmp := (raiseFault_faultKept s i cap).hmp

end Sys2Proof.Machine

namespace Sys2Proof.Machine

/-! ### Islands that change state one after another (R14, R18) -/

section Island

variable (s : State) (i j : Nat) (st : IslState)

/-- The record of an island that is put into a state at `time`. -/
def movedIsland (time : Nat) (st : IslState) (x : Island) : Island :=
  match st with
  | .running => { x with st := .running, leftAt := none, fenced := false, released := false, lost := false }
  | .stopped => { x with st := .stopped, leftAt := some (x.leftAt.getD time), released := false }
  | st => { x with st := st, leftAt := some (x.leftAt.getD time), fenced := true, released := false, lost := x.lost || st != .isolated }

theorem movedIsland_st (time : Nat) (x : Island) : (movedIsland time st x).st = st := by cases st <;> rfl

theorem setIslandState_islands : (setIslandState s i st).isl.islands = vecUpd s.isl.islands (islIndex i) (movedIsland (now s) st) := by
  have hlow (t : State) (g : Bool) : (if i = 9 then airLow (fenceChannels t i) g else fenceChannels t i).isl.islands = t.isl.islands := by
    split <;> rfl
  cases st with
  | running => rfl
  | stopped => rfl
  | isolated => exact hlow ..
  | heldInReset => exact (hlow ..).trans (congrArg IslSt.islands (writeProtect_isl _ i))
  | gated => exact (hlow ..).trans (congrArg IslSt.islands (writeProtect_isl _ i))

theorem length_setIslandState : (setIslandState s i st).isl.islands.length = s.isl.islands.length := by
  rw [setIslandState_islands, length_vecUpd]

/-- The island named takes the state, where Table 01.1 lists it; every other one keeps its own. -/
theorem island_setIslandState_st : (island (setIslandState s i st) j).st =
    if islIndex j = islIndex i ∧ islIndex i < s.isl.islands.length then st else (island s j).st := by
  unfold island
  rw [setIslandState_islands]
  by_cases h : islIndex j = islIndex i
  · by_cases hl : islIndex i < s.isl.islands.length
    · rw [if_pos ⟨h, hl⟩, h, vecGet_vecUpd_self _ _ _ _ hl, movedIsland_st]
    · rw [if_neg fun hc => hl hc.2, h]
      simp [vecGet, vecUpd, List.getD, hl]
  · rw [if_neg fun hc => h hc.1, vecGet_vecUpd_ne _ _ _ (Ne.symm h)]

end Island

/-- An island that is Running stands in the list. -/
theorem islIndex_lt_of_isRunning {s : State} {i : Nat} (h : isRunning s i = true) : islIndex i < s.isl.islands.length := by
  refine Nat.lt_of_not_le fun hle => ?_
  have hout : island s i = islDefault := by simp [island, vecGet, List.getD, hle]
  simp [isRunning, hout, islDefault] at h

/-! ### Entering the Battened state (R284, R396, R397) -/

/-- An island that runs is Stopped. -/
def stopIfRunning (id : Nat) (s : State) : State := if isRunning s id then setIslandState s id .stopped else s

theorem isRunning_stopIfRunning {s : State} {i j : Nat} (h : j = i ∨ isRunning s j = false) : isRunning (stopIfRunning i s) j = false := by
  unfold stopIfRunning
  split
  · next hi =>
    have hmoved := island_setIslandState_st s i j .stopped
    unfold isRunning at h ⊢
    rcases h with rfl | h
    · rw [hmoved, if_pos ⟨rfl, islIndex_lt_of_isRunning hi⟩]
      rfl
    · rw [hmoved]
      split
      · rfl
      · exact h
  · next hi =>
    rcases h with rfl | h
    · exact Bool.eq_false_iff.2 hi
    · exact h

/-- Islands stopped one after another: each of them and each that did not run before is not Running. -/
theorem isRunning_forEach_stop {j : Nat} (l : List Nat) (s : State) (h : j ∈ l ∨ isRunning s j = false) :
    isRunning (forEach l stopIfRunning s) j = false := by
  unfold forEach
  induction l generalizing s with
  | nil => simpa using h
  | cons i l ih =>
    refine ih _ ?_
    rcases h with hm | hr
    · rcases List.mem_cons.1 hm with rfl | hl
      · exact .inr (isRunning_stopIfRunning (.inl rfl))
      · exact .inl hl
    · exact .inr (isRunning_stopIfRunning (.inr hr))

theorem stopIfRunning_effect (id : Nat) (s : State) : ∃ x fl air, stopIfRunning id s = { s with isl := x, fl := fl, air := air } := by
  unfold stopIfRunning
  split
  · exact setIslandState_effect s id .stopped
  · exact ⟨_, _, _, rfl⟩

theorem forEach_stop_effect (l : List Nat) (s : State) :
    ∃ x fl air, forEach l stopIfRunning s = { s with isl := x, fl := fl, air := air } := by
  unfold forEach
  induction l generalizing s with
  | nil => exact ⟨_, _, _, rfl⟩
  | cons i l ih =>
    obtain ⟨x, fl, air, h⟩ := stopIfRunning_effect i s
    obtain ⟨x', fl', air', h'⟩ := ih (stopIfRunning i s)
    exact ⟨x', fl', air', h'.trans (by rw [h])⟩

/-- Every island but those that stay: Soft-Decode is Gated, those of Table 18.8 are Stopped. -/
def battenedIslands (s : State) : State := setIslandState (forEach battenedStops stopIfRunning s) 8 .gated

theorem battenedIslands_effect (s : State) : ∃ x fl air, battenedIslands s = { s with isl := x, fl := fl, air := air } := by
  obtain ⟨x, fl, air, h⟩ := forEach_stop_effect battenedStops s
  obtain ⟨x', fl', air', h'⟩ := setIslandState_effect (forEach battenedStops stopIfRunning s) 8 .gated
  exact ⟨x', fl', air', h'.trans (by rw [h])⟩

/-- Entering a phase writes the level of SB_LED_FLT_N alone among the pins. -/
theorem enterPhase_pins (s : State) (p reason : Nat) : ∃ n, (enterPhase s p reason).pins = { s.pins with ledFltN := n } := by
  have hready (s : State) : (readyFns s).pins = s.pins := by
    unfold readyFns
    split
    · exact forEach_proj State.pins _ _ _ fun _ _ => rfl
    · split <;> rfl
  have halive (s : State) : (refreshAlive s).pins = s.pins := by
    unfold refreshAlive
    split <;> rfl
  unfold enterPhase
  extract_lets r _ s1 s2
  have hrec : s2.pins = s.pins := by
    obtain ⟨e, fs, h⟩ := recordEvent_effect s1 0x0002 (if p = 7 then 4 else 0) 0 0 (leBytes 1 p ++ leBytes 1 r)
    exact (congrArg State.pins h :)
  rw [hready, refreshFaultLed_eq, halive, hrec]
  exact ⟨_, rfl⟩

@[simp] theorem enterPhase_isl (s : State) (p reason : Nat) : (enterPhase s p reason).isl = s.isl := by
  obtain ⟨e, f, n, fs, h⟩ := enterPhase_noted s p reason
  rw [h]

theorem linkPower_effect (s : State) (p : LinkPower) : ∃ h, linkPower s p = { s with host := h } := by
  unfold linkPower
  split <;> exact ⟨_, rfl⟩

/-- The state that steps 3 and 4 of an entry set out from. -/
def battenedMarked (s : State) : State :=
  ranksRest { s with eav := { s.eav with journalTail := 0 }, boot := { s.boot with battenedMark := true },
                     bat := { s.bat with entryAt := none }, pins := { s.pins with ledActN := true } } true

/-- After the islands and the phase an entry changes only the link's power state and the recorder. -/
theorem enterBattened_effect (s : State) : ∃ e h, enterBattened s =
    { enterPhase (battenedIslands (battenedMarked s)) 6 0 with evt := e, host := h } := by
  have hform : ∃ p, enterBattened s = recordEvent (linkPower (enterPhase (battenedIslands (battenedMarked s)) 6 0) p) 0x0003 0 0 0
      (leBytes 1 0 ++ leBytes 1 0) := by
    unfold enterBattened battenedIslands battenedMarked stopIfRunning
    exact ⟨_, rfl⟩
  obtain ⟨p, hp⟩ := hform
  rw [hp]
  generalize enterPhase (battenedIslands (battenedMarked s)) 6 0 = u
  obtain ⟨h, hl⟩ := linkPower_effect u p
  obtain ⟨e, fs, hr⟩ := recordEvent_effect (linkPower u p) 0x0003 0 0 0 (leBytes 1 0 ++ leBytes 1 0)
  rw [hr, hl]
  exact ⟨_, _, rfl⟩

theorem enterBattened_fields (s : State) : (enterBattened s).boot.phase = 6 ∧ (enterBattened s).boot.battenedMark = true ∧
    (enterBattened s).eav.journalTail = 0 ∧ (enterBattened s).pins.ledActN = true ∧
    (enterBattened s).isl = (battenedIslands (battenedMarked s)).isl := by
  obtain ⟨e, h, he⟩ := enterBattened_effect s
  obtain ⟨x, fl, air, hb⟩ := battenedIslands_effect (battenedMarked s)
  obtain ⟨n, hn⟩ := enterPhase_pins (battenedIslands (battenedMarked s)) 6 0
  rw [he]
  refine ⟨?_, ?_, ?_, ?_, ?_⟩
  · rw [enterPhase_boot]
    rfl
  · rw [enterPhase_boot, hb]
    rfl
  · rw [enterPhase_eav, hb]
    rfl
  · rw [hn, hb]
    rfl
  · generalize battenedIslands (battenedMarked s) = u
    exact enterPhase_isl u 6 0

theorem isRunning_enterBattened {s : State} {i : Nat} (hi : i ∈ battenedStops) : isRunning (enterBattened s) i = false := by
  obtain ⟨-, -, -, -, hisl⟩ := enterBattened_fields s
  rw [isRunning_congr hisl, battenedIslands, isRunning_setIslandState_gated, isRunning_forEach_stop _ _ (.inl hi), Bool.false_and]

theorem enterBattened_softDecode (s : State) : (island (enterBattened s) 8).st = .gated := by
  obtain ⟨-, -, -, -, hisl⟩ := enterBattened_fields s
  have hisland : island (enterBattened s) 8 = island (battenedIslands (battenedMarked s)) 8 := by rw [island, hisl, island]
  rw [hisland, battenedIslands, island_setIslandState_st]
  split
  · rfl
  · next h =>
    have hout : ¬islIndex 8 < (forEach battenedStops stopIfRunning (battenedMarked s)).isl.islands.length := fun hl => h ⟨rfl, hl⟩
    simp [island, vecGet, List.getD, Nat.le_of_not_lt hout, islDefault]

section Entry

variable {s : State} {t : Nat}

theorem exec_battenedEntry_none (h : s.bat.entryAt = none) :
    exec .battenedEntryComplete s = .next s ∧ exec .battenedEntryAbandon s = .next s := by
  show execBattenedEntryComplete s = _ ∧ execBattenedEntryAbandon s = _
  simp only [execBattenedEntryComplete, execBattenedEntryAbandon, h, and_self]

theorem exec_battenedEntryComplete_since (h : s.bat.entryAt = some t) : exec .battenedEntryComplete s = .next
    (if s.boot.phase = 5 ∧ s.eav.powerLoss = false ∧ restingNow s = true ∧ now s < t + 1000000 then enterBattened s else s) := by
  show execBattenedEntryComplete s = _
  simp only [execBattenedEntryComplete, h, Bool.and_eq_true, Bool.not_eq_true', decide_eq_true_eq, and_assoc]

theorem exec_battenedEntryAbandon_since (h : s.bat.entryAt = some t) : exec .battenedEntryAbandon s = .next
    (if t + 1000000 ≤ now s then abandonEntry s 7
     else if s.fl.window.isOpen = false ∧ s.eav.units ≠ [] then abandonEntry s 8 else s) := by
  show execBattenedEntryAbandon s = _
  simp only [execBattenedEntryAbandon, h, Bool.and_eq_true, Bool.not_eq_true', List.isEmpty_eq_false_iff]

theorem abandonEntry_effect (h : s.bat.entryAt = some t) (c : Nat) : (abandonEntry s c).bat.entryAt = none ∧
    (abandonEntry s c).bat.powerState = 0 ∧ (abandonEntry s c).boot = s.boot := by
  obtain ⟨e, fs, he⟩ := recordEvent_effect { s with bat := { s.bat with entryAt := none, powerState := 0 } } 0x0003 0 0 0
    (leBytes 1 2 ++ leBytes 1 c)
  have hgo : abandonEntry s c = _ := (if_neg (by simp [h])).trans he
  rw [hgo]
  exact ⟨rfl, rfl, rfl⟩

end Entry

/-! ### The wake (R398, Table 18.9) -/

/-- An island that is Stopped runs again, and Soft-Decode does. -/
def wakeIsland (id : Nat) (s : State) : State := if (island s id).st == .stopped || id == 8 then setIslandState s id .running else s

theorem isRunning_wakeIsland {s : State} {i : Nat} (hl : s.isl.islands.length = 42) (h : i = 8 ∨ isRunning s 8 = true) :
    isRunning (wakeIsland i s) 8 = true ∧ (wakeIsland i s).isl.islands.length = 42 := by
  unfold wakeIsland
  split
  · refine ⟨?_, (length_setIslandState ..).trans hl⟩
    unfold isRunning at h ⊢
    rw [island_setIslandState_st]
    rcases h with rfl | h
    · rw [if_pos ⟨rfl, by rw [hl]; decide⟩]
      rfl
    · split
      · rfl
      · exact h
  · next hn =>
    rcases h with rfl | h
    · exact absurd (Bool.or_true _) hn
    · exact ⟨h, hl⟩

theorem isRunning_forEach_wake (l : List Nat) {s : State} (hl : s.isl.islands.length = 42) (h : 8 ∈ l ∨ isRunning s 8 = true) :
    isRunning (forEach l wakeIsland s) 8 = true := by
  unfold forEach
  induction l generalizing s with
  | nil => simpa using h
  | cons i l ih =>
    have hlen : (wakeIsland i s).isl.islands.length = 42 := by
      unfold wakeIsland
      split
      · exact (length_setIslandState ..).trans hl
      · exact hl
    refine ih hlen ?_
    rcases h with hm | hr
    · rcases List.mem_cons.1 hm with rfl | hm
      · exact .inr (isRunning_wakeIsland hl (.inl rfl)).1
      · exact .inl hm
    · exact .inr (isRunning_wakeIsland hl (.inr hr)).1

theorem exec_battenedWake_ignored {s : State} (h : s.boot.phase ≠ 6 ∨ s.bat.wakeAt.isSome = true) (c : WakeCause) :
    exec (.battenedWake c) s = .next s := next_if_pos (by rcases h with h | h <;> simp [h]) rfl

/-- What a wake notes once the islands run: its cause and time, the link in L0, fresh watchdogs and an event. -/
def wakeNoted (s : State) (c : WakeCause) : State :=
  let k := kickCores (linkPower s .l0)
  recordEvent { k with bat := { k.bat with wakeAt := some (now k), wakeCause := some c } } 0x0003 0 0 0
    (leBytes 1 1 ++ leBytes 1 (wakeCode c))

theorem beginWake_battened {s : State} (hp : s.boot.phase = 6) (hw : s.bat.wakeAt = none) (c : WakeCause) :
    beginWake s c = wakeNoted (forEach ((List.range 42).map islIdOf) wakeIsland s) c := by
  unfold beginWake wakeNoted wakeIsland
  rw [if_neg (by simp [hp, hw])]

theorem wakeNoted_fields (s : State) (c : WakeCause) : (wakeNoted s c).bat.wakeAt = some (now s) ∧
    (wakeNoted s c).bat.wakeCause = some c ∧ (wakeNoted s c).isl = s.isl := by
  unfold wakeNoted
  extract_lets k
  obtain ⟨h, hl⟩ := linkPower_effect s .l0
  have hnow : now k = now s := (congrArg (fun u => u.tm.devTime) hl :)
  have hisl : k.isl = s.isl := (congrArg State.isl hl :)
  clear_value k
  obtain ⟨e, fs, hr⟩ := recordEvent_effect { k with bat := { k.bat with wakeAt := some (now k), wakeCause := some c } } 0x0003 0 0 0
    (leBytes 1 1 ++ leBytes 1 (wakeCode c))
  rw [hr]
  exact ⟨congrArg some hnow, rfl, hisl⟩

theorem exec_battenedWake_begins {s : State} (hp : s.boot.phase = 6) (hw : s.bat.wakeAt = none) (c : WakeCause) :
    ∃ t, exec (.battenedWake c) s = .next t ∧ t.bat.wakeAt = some (now s) ∧ t.bat.wakeCause = some c ∧
      (s.isl.islands.length = 42 → isRunning t 8 = true) := by
  have hids : 8 ∈ (List.range 42).map islIdOf := by decide
  have hgo : exec (.battenedWake c) s = .next (beginWake s c) := rfl
  rw [hgo, beginWake_battened hp hw]
  have hrun (h42 : s.isl.islands.length = 42) := isRunning_forEach_wake _ h42 (.inl hids)
  have hnow : now (forEach ((List.range 42).map islIdOf) wakeIsland s) = now s :=
    congrArg TimeSt.devTime (forEach_faultKept _ _ _ fun _ s => .ite (setIslandState_faultKept ..) (.refl s)).tm
  revert hrun hnow
  generalize forEach ((List.range 42).map islIdOf) wakeIsland s = u
  intro hrun hnow
  obtain ⟨hat, hcause, hisl⟩ := wakeNoted_fields u c
  exact ⟨_, rfl, hat.trans (congrArg some hnow), hcause, fun h42 => (isRunning_congr hisl 8).trans (hrun h42)⟩

theorem exec_battenedWakeEnd_none {s : State} (h : s.bat.wakeAt = none) : exec .battenedWakeEnd s = .next s := by
  show execBattenedWakeEnd s = _
  simp only [execBattenedWakeEnd, h]

theorem exec_battenedWakeEnd_since {s : State} {t : Nat} (h : s.bat.wakeAt = some t) : exec .battenedWakeEnd s = .next
    (if now s < t + 4000 ∨ s.boot.phase ≠ 6 then s
     else fetchAll (enterPhase { ranksRest s false with
       bat := batReset, boot := { s.boot with battenedMark := false }, fl := { s.fl with calendar := [] },
       flt := { s.flt with aliveKick := s.flt.aliveKick.map fun _ => now s } } 5 0)) := by
  show execBattenedWakeEnd s = _
  simp only [execBattenedWakeEnd, h, Bool.or_eq_true, decide_eq_true_eq, bne_iff_ne]
  rfl

/-- Settles O55: an entry by the time since it was asked for and what is outstanding, a wake by the phase and its 4.0 ms. -/
theorem battenedEntryAndWake : Obligations.BattenedEntryAndWake := by
  refine ⟨fun s h => exec_battenedEntry_none h, fun s t h => ⟨fun hp hl hr hn => ?_, fun hn => ?_, fun hn => ?_, fun hn hw hu => ?_,
    fun hn hw => ?_, abandonEntry_effect h⟩, fun s _ _ => ?_, fun s c => ⟨fun h => exec_battenedWake_ignored h c,
    fun hp hw => exec_battenedWake_begins hp hw c⟩, fun s => ⟨exec_battenedWakeEnd_none, fun t h => ⟨fun hn => ?_, fun hn hp => ?_⟩⟩⟩
  · rw [exec_battenedEntryComplete_since h, if_pos ⟨hp, hl, hr, hn⟩]
  · rw [exec_battenedEntryComplete_since h, if_neg]
    rintro ⟨hp, hl, hr, ht⟩
    rcases hn with hn | hn | hn | hn
    · exact hn hp
    · exact Bool.false_ne_true (hl.symm.trans hn)
    · exact Bool.false_ne_true (hn.symm.trans hr)
    · omega
  · rw [exec_battenedEntryAbandon_since h, if_pos hn]
  · rw [exec_battenedEntryAbandon_since h, if_neg (Nat.not_le.2 hn), if_pos ⟨hw, hu⟩]
  · rw [exec_battenedEntryAbandon_since h, if_neg (Nat.not_le.2 hn), if_neg]
    rintro ⟨hc, hu⟩
    exact hw.elim (fun ho => Bool.false_ne_true (hc.symm.trans ho)) hu
  · obtain ⟨hphase, hmark, htail, hled, -⟩ := enterBattened_fields s
    exact ⟨hphase, hmark, htail, hled, enterBattened_softDecode s, fun i hi => isRunning_enterBattened hi⟩
  · rw [exec_battenedWakeEnd_since h, if_pos hn]
  · rw [exec_battenedWakeEnd_since h, if_neg (not_or.2 ⟨Nat.not_lt.2 hn, not_not.2 hp⟩)]

end Sys2Proof.Machine

namespace Sys2Proof.Machine

/-! ### PWR_DIS, the PMIC and the Always-On clock (R374, R375, R381) -/

/-- The end of a long operation that may have nobody waiting for it writes the handles alone. -/
theorem endLong?_effect (s : State) (o : Option (Sender × Nat)) (status detail : Nat) :
    ∃ l, endLong? s o status detail = { s with hmp := { s.hmp with handles := l } } := by
  unfold endLong?
  split <;> exact ⟨_, rfl⟩

/-- The end of an audit (R372): Idle, nobody waits for it, and its load is off. -/
theorem endAudit_effect (s : State) (status detail : Nat) : ∃ l, endAudit s status detail =
    { s with sup := { s.sup with audit := .idle, auditSender := none, auditEn := false }, hmp := { s.hmp with handles := l } } :=
  endLong?_effect _ s.sup.auditSender status detail

theorem endAudit_eav (s : State) (status detail : Nat) : (endAudit s status detail).eav = s.eav := by
  obtain ⟨l, h⟩ := endAudit_effect s status detail
  exact (congrArg State.eav h :)

theorem auditing_eq_true {s : State} : auditing s = true ↔ s.sup.audit ≠ .idle := bne_iff_ne

/-- The audit that a sequence of PWR_DIS finds running is cancelled. -/
theorem ite_auditing (s : State) (status : Nat) :
    (if auditing s then endAudit s status 0 else s) = if s.sup.audit = .idle then s else endAudit s status 0 := by
  by_cases h : s.sup.audit = .idle
  · rw [if_pos h, if_neg (by simp [auditing, h])]
  · rw [if_neg h, if_pos (auditing_eq_true.2 h)]

/-- The energy store as a sequence of PWR_DIS leaves it: charger and audit load off, the path open or closed by HU_EN. -/
def pwrdisSup (x : SupSt) : SupSt :=
  { x with pwrDis := true, chgEn := false, auditEn := false, chargeSince := none, path := if x.huEn then 1 else 2 }

/-- The state in which a sequence of PWR_DIS goes on: the audit ended, the store off, the event recorded. -/
def pwrdisNoted (s : State) : State :=
  let ended := if s.sup.audit = .idle then s else endAudit s hsCancelled 0
  supplyEvent { ended with sup := pwrdisSup ended.sup } 1

theorem pwrdisNoted_eav (s : State) : (pwrdisNoted s).eav = s.eav := by
  unfold pwrdisNoted supplyEvent
  extract_lets ended
  refine (recordEvent_faultKept ..).eav.trans ?_
  show ended.eav = s.eav
  unfold ended
  split
  · rfl
  · exact endAudit_eav ..

theorem exec_pwrdis_starts {s : State} (he : s.prof.pwrdisEn ≠ 0) (hr : s.sup.profileRead = true) (hd : s.sup.pwrDis = false) :
    exec (.pwrdis true) s = .next (if s.eav.afterDump then
      { pwrdisNoted s with sup := { (pwrdisNoted s).sup with huEn := false, seqEn := false } } else raisePowerLoss (pwrdisNoted s)) := by
  have hgo : exec (.pwrdis true) s = .next (if (pwrdisNoted s).eav.afterDump then
      { pwrdisNoted s with sup := { (pwrdisNoted s).sup with huEn := false, seqEn := false } } else raisePowerLoss (pwrdisNoted s)) := by
    show execPwrdis true s = _
    unfold execPwrdis
    rw [if_neg (by simp), if_neg (by simp [he, hr, hd]), ite_auditing]
    rfl
  rw [hgo, pwrdisNoted_eav]

section Pmic

variable {s : State}

theorem exec_pmicPoll_ignored (a : Option (List Nat)) (h : s.sup.profileRead = false ∨ s.boot.phase = 6 ∨ now s < s.sup.pmicPollAt) :
    exec (.pmicPoll a) s = .next s := next_if_pos (by rcases h with h | h | h <;> simp [h]) rfl

theorem exec_pmicPoll_due (hr : s.sup.profileRead = true) (hp : s.boot.phase ≠ 6) (ht : s.sup.pmicPollAt ≤ now s)
    (a : Option (List Nat)) :
    exec (.pmicPoll a) s = .next (pmicRead { s with sup := { s.sup with pmicPollAt := now s + 10000 } } a) :=
  next_if_neg (by simp [hr, hp, ht]) rfl

theorem exec_pmicAlert (hr : s.sup.profileRead = true) (a : Option (List Nat)) :
    exec (.pmicAlert a) s = .next (pmicRead (beginWake s .pwrAlert) a) := next_if_neg (by simp [hr]) rfl

theorem exec_pmicAlert_ignored (hr : s.sup.profileRead = false) (a : Option (List Nat)) : exec (.pmicAlert a) s = .next s :=
  next_if_pos (by simp [hr]) rfl

end Pmic

section Crystal

variable {s : State}

theorem exec_aonCrystalLoss_onBackup (h : s.tm.onBackup = true) : exec .aonCrystalLoss s = .next s := next_if_pos h rfl

theorem exec_aonCrystalLoss_onCrystal (h : s.tm.onBackup = false) : exec .aonCrystalLoss s = .next (recordEvent
    { s with tm := { s.tm with onBackup := true, crystalLostAt := some (now s) } } 0x0004 2 0 0 (leBytes 1 0 ++ leBytes 4 0)) :=
  next_if_neg (by simp [h]) rfl

theorem exec_aonCrystalRestored_after {t : Nat} (h : s.tm.onBackup = true) (ht : s.tm.crystalLostAt = some t) :
    exec .aonCrystalRestored s = .next (recordEvent { s with tm := { s.tm with onBackup := false, crystalLostAt := none } }
      0x0004 2 0 0 (leBytes 1 1 ++ leBytes 4 (now s - t))) := by
  show execAonCrystalRestored s = _
  simp only [execAonCrystalRestored, h, ht]

theorem exec_aonCrystalRestored_ignored (h : s.tm.onBackup = false ∨ s.tm.crystalLostAt = none) :
    exec .aonCrystalRestored s = .next s := by
  show execAonCrystalRestored s = _
  rcases h with h | h
  · simp only [execAonCrystalRestored, h]
  · cases hb : s.tm.onBackup <;> simp only [execAonCrystalRestored, h, hb]

/-- An event that is recorded is no fault source's. -/
theorem recordEvent_flt (s : State) (code sev kind num : Nat) (payload : List Byte) :
    (recordEvent s code sev kind num payload).flt = s.flt := by
  obtain ⟨e, fs, h⟩ := recordEvent_effect s code sev kind num payload
  exact (congrArg State.flt h :)

theorem exec_aonCrystalLoss_flt : ∃ t, exec .aonCrystalLoss s = .next t ∧ t.flt = s.flt := by
  cases h : s.tm.onBackup with
  | false => exact ⟨_, exec_aonCrystalLoss_onCrystal h, recordEvent_flt ..⟩
  | true => exact ⟨_, exec_aonCrystalLoss_onBackup h, rfl⟩

theorem exec_aonCrystalRestored_flt : ∃ t, exec .aonCrystalRestored s = .next t ∧ t.flt = s.flt := by
  cases h : s.tm.onBackup with
  | false => exact ⟨_, exec_aonCrystalRestored_ignored (.inl h), rfl⟩
  | true =>
    cases ht : s.tm.crystalLostAt with
    | none => exact ⟨_, exec_aonCrystalRestored_ignored (.inr ht), rfl⟩
    | some t => exact ⟨_, exec_aonCrystalRestored_after h ht, recordEvent_flt ..⟩

end Crystal

/-- Settles O54: PWR_DIS by its conditions, the PMIC by the poll that is due, the clock by the crystal that feeds it. -/
theorem powerDisablePmicAndClock : Obligations.PowerDisablePmicAndClock := by
  refine ⟨fun s => ⟨rfl, fun h => ?_, fun he hr hd => ⟨fun ha => ?_, fun ha => ?_⟩⟩, fun s r hr => ⟨fun h a => ?_, fun hp ht => ?_, ?_⟩,
    fun s a hr => ⟨exec_pmicPoll_ignored a (.inl hr), exec_pmicAlert_ignored hr a⟩,
    fun s => ⟨fun h => ⟨exec_aonCrystalLoss_onBackup h, fun t ht => exec_aonCrystalRestored_after h ht⟩, fun h => ?_, fun h => ?_, ?_⟩⟩
  · exact next_if_neg (by simp) (if_pos (by rcases h with h | h | h <;> simp [h]))
  · rw [exec_pwrdis_starts he hr hd, if_neg (by simp [ha])]
    rfl
  · rw [exec_pwrdis_starts he hr hd, if_pos ha]
    rfl
  · exact exec_pmicPoll_ignored a (.inr h)
  · exact ⟨exec_pmicPoll_due hr hp ht _, exec_pmicPoll_due hr hp ht _⟩
  · exact ⟨exec_pmicAlert hr _, exec_pmicAlert hr _, fun hp => beginWake_awake hp _⟩
  · exact exec_aonCrystalRestored_ignored (.inr h)
  · exact ⟨exec_aonCrystalRestored_ignored (.inl h), exec_aonCrystalLoss_onCrystal h⟩
  · rintro t (h | h)
    · obtain ⟨u, hu, hflt⟩ := exec_aonCrystalLoss_flt (s := s)
      cases h.symm.trans hu
      exact hflt
    · obtain ⟨u, hu, hflt⟩ := exec_aonCrystalRestored_flt (s := s)
      cases h.symm.trans hu
      exact hflt

end Sys2Proof.Machine

namespace Sys2Proof.Machine

/-! ### E_eff and Critical Warning bit 4 (R188, R370, R373) -/

theorem largestE_none {ok : Nat → Bool} (h : ∀ e, ok e = false) : largestE ok = 0 := by
  unfold largestE
  rw [List.find?_eq_none.2 fun e _ => by simp [h]]
  rfl

theorem tDump_pos (p : Profile) (n v : Nat) : 0 < tDump p n v := by
  unfold tDump tChan tDie
  positivity

/-- A dump takes energy whatever it writes, where the converter has an efficiency. -/
theorem eReq_pos {p : Profile} (h : 0 < p.huEfficiency) (v : Nat) : 0 < eReq p v := by
  have hdump := tDump_pos p 2 v
  have heff : 0 < huEff p := by
    unfold huEff
    positivity
  unfold eReq tokenWatts pAct pDump pStby tChan
  positivity

/-- A store without a capacitance holds no energy. -/
theorem eMeas_of_capUf_zero {s : State} (h : s.sup.capUf = 0) : eMeas s = 0 := by
  simp [eMeas, storeC, h]

/-- No energy in the store leaves E_eff at 0. -/
theorem energyEff_of_capUf_zero {s : State} (h : s.sup.capUf = 0) : energyEff s = 0 := by
  refine largestE_none fun e => ?_
  rw [eMeas_of_capUf_zero h, Bool.and_eq_false_iff]
  by_cases hc : 0 < s.prof.huEfficiency
  · have hreq := eReq_pos hc (e + journalBytes)
    exact .inr (decide_eq_false (by linarith))
  · exact .inl (by simp [canDump, hc])

theorem energyEff_congr {s t : State} (hp : t.prof = s.prof) (hs : t.sup = s.sup) : energyEff t = energyEff s := by
  unfold energyEff eMeas storeV vF storeC
  rw [hp, hs]

/-- What a new E_eff does to Critical Warning bit 4. -/
def warnEmpty (s : State) (e : Nat) : State :=
  if energyEff s = 0 then setWarning s 4
  else if s.host.criticalWarning.getLsbD 4 && decide (0 < e) then
    capacityEvent (clearWarning s 4) 2 0xFFFF (eMeasMj s) (totalReserved s)
  else s

/-- A recomputation writes E_eff, may raise source 309, and then looks at the warning. -/
theorem recomputeEaves_form (s : State) : ∃ x t e, FaultKept { s with eav := x } t ∧ recomputeEaves s = warnEmpty t e := by
  unfold recomputeEaves
  extract_lets ready e short was old _ s1 s2 s3
  have h2 : FaultKept s1 s2 := .ite (recordEvent_faultKept ..) (.refl s1)
  have h3 : FaultKept s2 s3 := .ite ((raiseFault_faultKept ..).trans (recordEvent_faultKept ..)) (.refl s2)
  exact ⟨_, s3, e, h2.trans h3, rfl⟩

theorem warnEmpty_faultKept (s : State) (e : Nat) : FaultKept s (warnEmpty s e) :=
  .ite (setWarning_faultKept ..) (.ite (.trans (t := clearWarning s 4) .of (recordEvent_faultKept ..)) (.refl s))

theorem recomputeEaves_faultKept (s : State) : ∃ x, FaultKept { s with eav := x } (recomputeEaves s) := by
  obtain ⟨x, t, e, hk, h⟩ := recomputeEaves_form s
  exact ⟨x, h ▸ hk.trans (warnEmpty_faultKept t e)⟩

@[simp] theorem recomputeEaves_sup (s : State) : (recomputeEaves s).sup = s.sup := by
  obtain ⟨x, h⟩ := recomputeEaves_faultKept s
  exact h.sup

@[simp] theorem setWarning_sup (s : State) (bit : Nat) : (setWarning s bit).sup = s.sup := (setWarning_faultKept s bit).sup

@[simp] theorem supplyEvent_sup (s : State) (sev : Nat) : (supplyEvent s sev).sup = s.sup := recordEvent_sup ..

theorem setWarning_bit (s : State) {bit : Nat} (h : bit < 32) : (setWarning s bit).host.criticalWarning.getLsbD bit = true := by
  unfold setWarning
  split
  · assumption
  · obtain ⟨fs, ps, rs, ws, he⟩ := asyncAll_eventsDelivered
      { s with host := { s.host with criticalWarning := s.host.criticalWarning ||| (1#32 <<< bit) } } 1 (warningInfo bit) 2 bit
    rw [he]
    simp [h]

/-- A store found empty stays reported by Critical Warning bit 4. -/
theorem recomputeEaves_warns {s : State} (h : s.sup.capUf = 0) : (recomputeEaves s).host.criticalWarning.getLsbD 4 = true := by
  obtain ⟨x, t, e, hk, he⟩ := recomputeEaves_form s
  have hzero : energyEff t = 0 :=
    (energyEff_congr (s := { s with eav := x }) hk.prof hk.sup).trans (energyEff_of_capUf_zero h)
  rw [he, warnEmpty, if_pos hzero]
  exact setWarning_bit t (by decide)

/-! ### The hold-up audit (R372, R373, R377) -/

theorem exec_holdupAuditDue (s : State) : exec .holdupAuditDue s = .next
    (if s.sup.audit = .idle ∧ s.sup.profileRead = true ∧ s.boot.phase ≠ 6 ∧ s.eav.powerLoss = false ∧ s.sup.pwrDis = false ∧
        (s.sup.auditAfterCharge = true ∨ s.sup.lastAuditOp + s.prof.huAuditHours * 3600 ≤ s.tm.opSeconds)
      then startAudit s none else s) := by
  show execHoldupAuditDue s = _
  unfold execHoldupAuditDue
  rw [← ite_not]
  simp only [auditing, Bool.or_eq_true, bne_iff_ne, Bool.not_eq_true', beq_iff_eq, Bool.or_eq_false_iff, decide_eq_false_iff_not,
    not_or, not_not, Bool.not_eq_true, Bool.not_eq_false, not_and_or, and_assoc, ne_eq]

section Measurement

variable {s : State}

theorem exec_auditLoadConnect_settle {t : Nat} (h : s.sup.audit = .settle t) (uv : Nat) : exec (.auditLoadConnect uv) s = .next
    (if now s < t + 10000 then s
      else { s with sup := { s.sup with audit := .loadOn (now s) s.sup.vs, auditEn := true, auditStepUv := uv } }) := by
  show execAuditLoadConnect uv s = _
  simp only [execAuditLoadConnect, h]

theorem exec_auditLoadConnect_ignored (h : ∀ t, s.sup.audit ≠ .settle t) (uv : Nat) : exec (.auditLoadConnect uv) s = .next s := by
  show execAuditLoadConnect uv s = _
  unfold execAuditLoadConnect
  split
  · next t ht => exact absurd ht (h t)
  · rfl

theorem exec_auditMeasurementEnd_ignored (h : ∀ t v, s.sup.audit ≠ .loadOn t v) (fall nc us : Nat) :
    exec (.auditMeasurementEnd fall nc us) s = .next s := by
  show execAuditMeasurementEnd fall nc us s = _
  unfold execAuditMeasurementEnd
  split
  · next t v ht => exact absurd ht (h t v)
  · rfl

/-- A measurement that found the store open or short. -/
def auditOpen (s : State) : State :=
  recomputeEaves (setWarning (supplyEvent (endAudit (auditOver { s with sup := { s.sup with capUf := 0, openShort := true } })
    hsConflict 3) 2) 4)

/-- A measurement that found C and ESR. -/
def auditMeasured (s : State) (v0 fall nc : Nat) : State :=
  tickFree (recomputeEaves (supplyEvent (endAudit (auditOver { s with sup := { s.sup with
    capUf := auditCap s fall nc, esrMohm := auditEsr s v0, openShort := false } }) hsSuccess 0) 1))

theorem exec_auditMeasurementEnd_loadOn {t v : Nat} (h : s.sup.audit = .loadOn t v) (fall nc us : Nat) :
    exec (.auditMeasurementEnd fall nc us) s = .next
      (if ¬s.prof.auditDepth * 100000 ≤ fall ∧ us < 2000000 then s
       else if s.prof.auditDepth * 100000 ≤ fall ∧ us < 1000 ∨ fall < 10000 then auditOpen s else auditMeasured s v fall nc) := by
  show execAuditMeasurementEnd fall nc us s = _
  simp only [execAuditMeasurementEnd, h, Bool.and_eq_true, Bool.or_eq_true, decide_eq_true_eq, Bool.not_eq_true',
    decide_eq_false_iff_not]
  rfl

/-- The store as an audit leaves it: Idle, its load off, the charger on. -/
theorem endAudit_auditOver_sup (u : State) (status detail : Nat) : (endAudit (auditOver u) status detail).sup =
    { (auditOver u).sup with audit := .idle, auditSender := none, auditEn := false } := by
  obtain ⟨l, he⟩ := endAudit_effect (auditOver u) status detail
  exact (congrArg State.sup he :)

theorem auditOpen_sup (s : State) : (auditOpen s).sup = { (auditOver { s with sup := { s.sup with capUf := 0, openShort := true } }).sup
    with audit := .idle, auditSender := none, auditEn := false } := by
  unfold auditOpen
  rw [recomputeEaves_sup, setWarning_sup, supplyEvent_sup, endAudit_auditOver_sup]

theorem auditOpen_warns (s : State) : (auditOpen s).host.criticalWarning.getLsbD 4 = true := by
  refine recomputeEaves_warns ?_
  rw [setWarning_sup, supplyEvent_sup, endAudit_auditOver_sup]
  rfl

theorem auditMeasured_sup (s : State) (v0 fall nc : Nat) : (auditMeasured s v0 fall nc).sup =
    { (auditOver { s with sup := { s.sup with capUf := auditCap s fall nc, esrMohm := auditEsr s v0, openShort := false } }).sup
      with audit := .idle, auditSender := none, auditEn := false } := by
  show (recomputeEaves _).sup = _
  rw [recomputeEaves_sup, supplyEvent_sup, endAudit_auditOver_sup]

/-- A fall of more than the step of the ESR gives C (R372 step 4). -/
theorem auditCap_of_lt {fall : Nat} (h : s.sup.auditStepUv < fall) (nc : Nat) :
    auditCap s fall nc = nc * 1000 / (fall - s.sup.auditStepUv) := if_neg (Nat.not_le.2 h)

end Measurement

section Request

variable {s : State} {q : HmpHdr}

/-- A Hold-up Audit that the gate lets through. -/
def holdupAuditServed (s : State) (q : HmpHdr) (action : Nat) : State :=
  if action ≠ 1 then answer s q 0x0706 hsOutOfRange 0 []
  else if auditing s then answer s q 0x0706 hsBusy 0 []
  else if s.sup.vs + 300 < targetMv s || s.sup.v12 < 11000 then startFailed s q 0x0706 hsConflict 1
  else startLong s q 0x0706 fun s h => startAudit s (some (q.sender, h))

theorem holdupAuditServed_running (h : s.sup.audit ≠ .idle) : holdupAuditServed s q 1 = answer s q 0x0706 hsBusy 0 [] :=
  (if_neg (by simp)).trans (if_pos (auditing_eq_true.2 h))

theorem holdupAuditServed_idle (h : s.sup.audit = .idle) : holdupAuditServed s q 1 =
    if s.sup.vs + 300 < s.prof.huTarget * 100 ∨ s.sup.v12 < 11000 then startFailed s q 0x0706 hsConflict 1
    else startLong s q 0x0706 fun s h => startAudit s (some (q.sender, h)) := by
  unfold holdupAuditServed
  rw [if_neg (by simp), if_neg (by simp [auditing, h])]
  simp only [Bool.or_eq_true, decide_eq_true_eq]
  rfl

end Request

/-- Settles O53: when an audit is due, its load, the end of its measurement, and the request for one. -/
theorem holdupAudits : Obligations.HoldupAudits := by
  refine ⟨fun s => ⟨fun hi hr hp hl hd hdue => ?_, fun h => ?_⟩, fun s uv t h => ⟨fun ht => ?_, fun ht => ?_⟩,
    fun s uv h => exec_auditLoadConnect_ignored h uv, fun s fall nc us h => exec_auditMeasurementEnd_ignored h fall nc us,
    fun s fall nc us t v h => ⟨fun hf hu => ?_, fun he ho => ?_, fun he ho => ?_⟩,
    fun s q a hq => ⟨fun ha => hq.answers (if_pos ha), ?_, ?_, ?_⟩⟩
  · rw [exec_holdupAuditDue, if_pos ⟨hi, hr, hp, hl, hd, hdue⟩]
  · rw [exec_holdupAuditDue, if_neg]
    rintro ⟨hi, hr, hp, hl, hd, hdue⟩
    rcases h with h | h | h | h | h | h
    · exact h hi
    · exact Bool.false_ne_true (h.symm.trans hr)
    · exact hp h
    · exact Bool.false_ne_true (hl.symm.trans h)
    · exact Bool.false_ne_true (hd.symm.trans h)
    · exact h hdue
  · rw [exec_auditLoadConnect_settle h, if_pos ht]
  · rw [exec_auditLoadConnect_settle h, if_neg (Nat.not_lt.2 ht)]
  · rw [exec_auditMeasurementEnd_loadOn h, if_pos ⟨hf, hu⟩]
  · refine ⟨auditOpen s, ?_, ?_⟩
    · rw [exec_auditMeasurementEnd_loadOn h, if_neg fun hn => he.elim hn.1 (Nat.not_le.2 hn.2), if_pos ho]
    · rw [auditOpen_sup]
      exact ⟨rfl, rfl, rfl, rfl, rfl, auditOpen_warns s⟩
  · refine ⟨auditMeasured s v fall nc, ?_, ?_⟩
    · rw [exec_auditMeasurementEnd_loadOn h, if_neg fun hn => he.elim hn.1 (Nat.not_le.2 hn.2), if_neg ho]
    · rw [auditMeasured_sup]
      exact ⟨rfl, fun hlt => auditCap_of_lt hlt nc, rfl, rfl, rfl⟩
  · rintro rfl h
    exact hq.answers (holdupAuditServed_running h)
  · rintro rfl h hlow
    exact hq.next ((holdupAuditServed_idle h).trans (if_pos hlow))
  · rintro rfl h hvs hv12
    exact hq.next ((holdupAuditServed_idle h).trans (if_neg (not_or.2 ⟨Nat.not_lt.2 hvs, Nat.not_lt.2 hv12⟩)))

end Sys2Proof.Machine

namespace Sys2Proof.Machine

/-! ### Rails (R362 to R364, Tables 17.2 and 17.3) -/

section Rails

variable {s : State} {r mv us : Nat}

theorem exec_rail_absent (h : 11 ≤ r) : exec (.railOutOfRange r mv) s = .next s ∧ exec (.railExcursion r mv us) s = .next s ∧
    exec (.railReturnInRange r us) s = .next s :=
  ⟨next_if_pos (by simp [h]) rfl, next_if_pos (by simp [h]) rfl, next_if_pos (by simp [h]) rfl⟩

theorem exec_railOutOfRange_ignored (h : railOperating r mv = true ∨ railGuarded r mv = false) :
    exec (.railOutOfRange r mv) s = .next s := next_if_pos (by rcases h with h | h <;> simp [h]) rfl

theorem exec_railOutOfRange_raises (hr : r < 11) (ho : railOperating r mv = false) (hg : railGuarded r mv = true) :
    exec (.railOutOfRange r mv) s = .next (raiseFault
      (updRail (readRail s r mv) r fun x => { x with badSince := some (x.badSince.getD (now s)) }) 308 (capOf 6 5 0 r 0)) :=
  next_if_neg (by simp [ho, hg, hr]) rfl

theorem exec_railExcursion_ignored (h : railGuarded r mv = true ∨ us ≤ 2) : exec (.railExcursion r mv us) s = .next s :=
  next_if_pos (by rcases h with h | h <;> simp [h]) rfl

theorem exec_railExcursion_acts (hr : r < 11) (hg : railGuarded r mv = false) (hu : 2 < us) : exec (.railExcursion r mv us) s =
    .next (excursionAct (raiseFault (noteExcursion s r mv us) 308 (capOf 6 5 0 r 0)) r us) :=
  next_if_neg (by simp [hg, hr, hu]) rfl

/-- The core rails and VCC_FL stop the device. -/
theorem excursionAct_core (h : r < 4 ∨ r = 9) : excursionAct s r us = raisePowerLoss s := by
  rcases h with h | rfl
  · interval_cases r <;> rfl
  · rfl

/-- A short excursion of VCCQ_FL stops no channel. -/
theorem excursionAct_short (h : r = 7 ∨ r = 8) (hu : us ≤ 400) : excursionAct s r us = s := by
  rcases h with rfl | rfl <;> exact if_pos hu

theorem excursionAct_long (h : r = 7 ∨ r = 8) (hu : 400 < us) : excursionAct s r us =
    forEach ((railChannels r).filter fun c => isRunning s (chIsland c)) (fun c u => channelLost u c .heldInReset) s := by
  rcases h with rfl | rfl <;> exact if_neg (Nat.not_le.2 hu)

theorem exec_railReturnInRange_early (h : us < railSettle r) : exec (.railReturnInRange r us) s = .next s :=
  next_if_pos (by simp [h]) rfl

/-- A rail's record once it is back in range. -/
def railBackRecord (s : State) (r : Nat) : State :=
  updRail s r fun x => { x with reading := (railSpec r).1, badSince := none, excursionAt := none }

theorem exec_railReturnInRange_back (hr : r < 11) (h : railSettle r ≤ us) : exec (.railReturnInRange r us) s =
    .next (if (railOf s r).excursionAt.isSome then railBack (railBackRecord s r) r else railBackRecord s r) :=
  next_if_neg (by simp [hr, h]) rfl

end Rails

theorem railGuarded_core (mv : Nat) : railGuarded 1 mv = true ↔ 705 ≤ mv ∧ mv ≤ 795 := by
  simp only [railGuarded, railSpec, withinPct, Bool.and_eq_true, decide_eq_true_eq]
  omega

theorem railOperating_flash (mv : Nat) : railOperating 7 mv = true ↔ 1140 ≤ mv ∧ mv ≤ 1260 := by
  simp only [railOperating, railSpec, withinPct, Bool.and_eq_true, decide_eq_true_eq]
  omega

/-! ### The energy store and its charger (R370, R371) -/

/-- From `s` to `t` the readings of V12_MAIN and V_S stay, and since when V12_MAIN is high. -/
def ReadingsKept (s t : State) : Prop := t.sup.v12 = s.sup.v12 ∧ t.sup.vs = s.sup.vs ∧ t.sup.v12HighSince = s.sup.v12HighSince

section Store

variable {s t u : State}

theorem ReadingsKept.refl (s : State) : ReadingsKept s s := ⟨rfl, rfl, rfl⟩

theorem ReadingsKept.trans (h : ReadingsKept s t) (h' : ReadingsKept t u) : ReadingsKept s u :=
  ⟨h'.1.trans h.1, h'.2.1.trans h.2.1, h'.2.2.trans h.2.2⟩

theorem ReadingsKept.of_sup (h : t.sup = s.sup) : ReadingsKept s t := by simp [ReadingsKept, h]

theorem overVoltage_readingsKept (s : State) : ReadingsKept s (overVoltage s) := by
  unfold overVoltage
  split
  · exact .refl s
  · split
    · dsimp only
      split
      · exact ⟨rfl, rfl, rfl⟩
      · exact .trans (t := { s with sup := { s.sup with overVolt := true, chgEn := false, chargeSince := none } }) ⟨rfl, rfl, rfl⟩
          (.of_sup (raiseFault_sup ..))
    · split
      · exact ⟨rfl, rfl, rfl⟩
      · exact .refl s

theorem chargeControl_readingsKept (s : State) : ReadingsKept s (chargeControl s) := by
  unfold chargeControl
  split
  · exact .refl s
  · split
    · exact ⟨rfl, rfl, rfl⟩
    · split
      · exact ⟨rfl, rfl, rfl⟩
      · exact .refl s

theorem endAudit_readingsKept (s : State) (status detail : Nat) : ReadingsKept s (endAudit s status detail) := by
  obtain ⟨l, h⟩ := endAudit_effect s status detail
  rw [h]
  exact ⟨rfl, rfl, rfl⟩

theorem auditFit_readingsKept (s : State) : ReadingsKept s (auditFit s) := by
  unfold auditFit
  split
  · split
    · exact ⟨rfl, rfl, rfl⟩
    · split
      · exact (endAudit_readingsKept ..).trans (.of_sup (recomputeEaves_sup _))
      · exact .refl s
  · exact .refl s

theorem afterConversion_readingsKept (due : Bool) (s : State) : ReadingsKept s (afterConversion due s) := by
  unfold afterConversion
  split
  · exact .of_sup (recomputeEaves_sup s)
  · exact .refl s

/-- The readings of a conversion as they are taken, before anything follows from them. -/
def storeRead (s : State) (v12 vs : Nat) : State :=
  { s with sup := { s.sup with v12 := v12, vs := vs,
                               v12HighSince := if 11000 ≤ v12 then some (s.sup.v12HighSince.getD (now s)) else none,
                               path := if s.sup.pwrDis && !s.sup.huEn then 2 else if s.sup.huEn then 1 else 0 } }

theorem exec_storeConversion (s : State) (v12 vs : Nat) :
    ∃ t, exec (.storeConversion v12 vs) s = .next t ∧ ReadingsKept (storeRead (takeDue s 17) v12 vs) t :=
  ⟨_, rfl, (overVoltage_readingsKept _).trans ((chargeControl_readingsKept _).trans
    ((auditFit_readingsKept _).trans (afterConversion_readingsKept ..)))⟩

/-- The charger follows its switch points: the supply record is read, V12_MAIN is there, and no dump, audit or PWR_DIS holds it. -/
def ChargerFree (s : State) : Prop := s.sup.profileRead = true ∧ 11000 ≤ s.sup.v12 ∧ s.eav.dumpStart = none ∧ s.sup.audit = .idle ∧
  s.sup.pwrDis = false

theorem chargeControl_held (h : ¬ChargerFree s) : chargeControl s = s := by
  refine if_pos ?_
  by_contra hn
  simp only [auditing, Bool.or_eq_true, Bool.not_eq_true', decide_eq_true_eq, bne_iff_ne, not_or, Bool.not_eq_false, not_not,
    Bool.not_eq_true, Option.isSome_eq_false_iff, Option.isNone_iff_eq_none, ne_eq, Nat.not_lt] at hn
  obtain ⟨⟨⟨⟨hr, hv⟩, hd⟩, ha⟩, hp⟩ := hn
  exact h ⟨hr, hv, hd, ha, hp⟩

theorem chargeControl_free (h : ChargerFree s) : chargeControl s =
    if s.prof.huTarget * 100 ≤ s.sup.vs then
      { s with sup := { s.sup with chgEn := false, chargeSince := none, chargeTimeout := false, charged := true,
                                   auditAfterCharge := s.sup.auditAfterCharge || !s.sup.charged } }
    else if s.sup.vs + 300 < s.prof.huTarget * 100 ∧ s.sup.overVolt = false then
      { s with sup := { s.sup with chgEn := true, chargeSince := some (s.sup.chargeSince.getD (now s)) } }
    else s := by
  obtain ⟨hr, hv, hd, ha, hp⟩ := h
  unfold chargeControl
  rw [if_neg (by simp [auditing, hr, hv, hd, ha, hp])]
  simp only [Bool.and_eq_true, decide_eq_true_eq, Bool.not_eq_true']
  rfl

end Store

section ChargeTimeout

variable {s : State}

theorem exec_chargeTimeout_none (h : s.sup.chargeSince = none) : exec .chargeTimeout s = .next s := by
  show execChargeTimeout s = _
  simp only [execChargeTimeout, h]

theorem exec_chargeTimeout_since {t : Nat} (h : s.sup.chargeSince = some t) : exec .chargeTimeout s = .next
    (if s.sup.chgEn = true ∧ s.sup.chargeTimeout = false ∧ t + s.prof.chgTimeout * 1000000 ≤ now s then
      raiseFault { s with sup := { s.sup with chargeTimeout := true } } 309 (capOf 6 5 0 0 0) else s) := by
  show execChargeTimeout s = _
  simp only [execChargeTimeout, h]
  rw [← ite_not]
  simp only [Bool.or_eq_true, Bool.not_eq_true', decide_eq_true_eq, not_or, Bool.not_eq_false, Bool.not_eq_true, Nat.not_lt, and_assoc]

end ChargeTimeout

/-- Settles O52: a rail by the range that a reading is outside of, the charger by its switch points, a charge by its time. -/
theorem railsAndStore : Obligations.RailsAndStore := by
  refine ⟨fun s r mv us => ⟨exec_rail_absent, exec_railOutOfRange_ignored, exec_railOutOfRange_raises, exec_railExcursion_ignored,
      fun hg hu => ⟨fun h => ?_, fun h => ?_, fun h => ?_, fun h => ?_, fun h => ?_, fun h hus => ?_, fun h hus => ?_⟩,
      fun _ h => exec_railReturnInRange_early h, fun hr h => ⟨fun hn => ?_, fun hs => ?_⟩⟩,
    fun mv => ⟨railGuarded_core mv, railOperating_flash mv⟩, fun s v12 vs => ?_, fun s h => ?_,
    fun s hr hv hd ha hp => ⟨fun h => ?_, fun h ho => ?_, fun hlt hle => ?_⟩,
    fun s => ⟨exec_chargeTimeout_none, fun t ht => ⟨fun h => ?_, fun he hc hn => ?_⟩⟩⟩
  · exact (exec_railExcursion_acts (by omega) hg hu).trans (congrArg _ (excursionAct_core h))
  · subst h
    exact exec_railExcursion_acts (by decide) hg hu
  · subst h
    exact exec_railExcursion_acts (by decide) hg hu
  · subst h
    exact exec_railExcursion_acts (by decide) hg hu
  · subst h
    exact exec_railExcursion_acts (by decide) hg hu
  · exact (exec_railExcursion_acts (by omega) hg hu).trans (congrArg _ (excursionAct_short h hus))
  · exact (exec_railExcursion_acts (by omega) hg hu).trans (congrArg _ (excursionAct_long h hus))
  · exact (exec_railReturnInRange_back hr h).trans (congrArg _ (if_neg (by simp [hn])))
  · exact (exec_railReturnInRange_back hr h).trans (congrArg _ (if_pos hs))
  · obtain ⟨t, ht, hv12, hvs, hsince⟩ := exec_storeConversion s v12 vs
    exact ⟨t, ht, hv12, hvs, fun h => hsince.trans (if_neg (Nat.not_le.2 h)), fun h => hsince.trans (if_pos h)⟩
  · by_cases hfree : ChargerFree s
    · obtain ⟨hr, hv, hd, ha, hp⟩ := id hfree
      have hover : s.sup.vs < s.prof.huTarget * 100 ∧ s.sup.overVolt = true := by simpa [hr, Nat.not_lt.2 hv, hd, ha, hp] using h
      rw [chargeControl_free hfree, if_neg (Nat.not_le.2 hover.1), if_neg (by simp [hover.2])]
    · exact chargeControl_held hfree
  · rw [chargeControl_free ⟨hr, hv, hd, ha, hp⟩, if_pos h]
    exact ⟨rfl, rfl⟩
  · rw [chargeControl_free ⟨hr, hv, hd, ha, hp⟩, if_neg (by omega), if_pos ⟨h, ho⟩]
    exact ⟨rfl, rfl⟩
  · rw [chargeControl_free ⟨hr, hv, hd, ha, hp⟩, if_neg (Nat.not_le.2 hlt), if_neg (by omega)]
  · rw [exec_chargeTimeout_since ht, if_neg]
    rintro ⟨he, hc, hn⟩
    rcases h with h | h | h
    · exact Bool.false_ne_true (h.symm.trans he)
    · exact Bool.false_ne_true (hc.symm.trans h)
    · omega
  · rw [exec_chargeTimeout_since ht, if_pos ⟨he, hc, hn⟩]

end Sys2Proof.Machine

namespace Sys2Proof.Machine

/-! ### Thermal steps (R333, Table 15.2) -/

section Steps

variable {s : State}

/-- Tj has been above a step's threshold less HYSTERESIS within the latest 100 ms. -/
def staysAbove (s : State) (k : Nat) : Bool :=
  (s.thm.tjTrace.filter fun e => decide (now s ≤ e.1 + 100000)).any fun e => decide (stepTj k < e.2 + (s.prof.hysteresis : Int))

theorem staysAbove_iff {k : Nat} : staysAbove s k = true ↔
    ∃ e ∈ s.thm.tjTrace, now s ≤ e.1 + 100000 ∧ stepTj k < e.2 + (s.prof.hysteresis : Int) := by
  simp only [staysAbove, List.any_eq_true, List.mem_filter, decide_eq_true_eq, and_assoc]

theorem staysAbove_eq_false {k : Nat} (h : ¬∃ e ∈ s.thm.tjTrace, now s ≤ e.1 + 100000 ∧ stepTj k < e.2 + (s.prof.hysteresis : Int)) :
    staysAbove s k = false := Bool.eq_false_iff.2 fun hs => h (staysAbove_iff.1 hs)

/-- The step below one that Tj has left: the next lower whose threshold Tj has not stayed below, and the lowest if none. -/
def stepDown (s : State) (cur : Nat) : Nat :=
  let k := if 0 < cur - 1 && !staysAbove s (cur - 1) then cur - 1 - 1 else cur - 1
  if 0 < k && !staysAbove s k then k - 1 else k

/-- The step that a DRAM component in band D3 holds the device at. -/
def leastStep (s : State) : Nat := if true ∈ s.thm.d3 then 1 else 0

theorem leastStep_le (s : State) : leastStep s ≤ 1 := by
  unfold leastStep
  split <;> decide

theorem exec_thermalStepExit_none (h : s.thm.belowSince = none) : exec .thermalStepExit s = .next s := by
  show execThermalStepExit s = _
  simp only [execThermalStepExit, h]

theorem exec_thermalStepExit_since {t : Nat} (h : s.thm.belowSince = some t) : exec .thermalStepExit s = .next
    (if now s < t + 100000 then s else setStep s (max (leastStep s) (stepDown s (stepRank s.thm.step)))) := by
  have hleast : leastStep s = if s.thm.d3.any id then 1 else 0 := by simp [leastStep]
  show execThermalStepExit s = _
  simp only [execThermalStepExit, h, hleast]
  rfl

theorem exec_thermalStepExit_to {t k : Nat} (h : s.thm.belowSince = some t) (ht : t + 100000 ≤ now s)
    (hk : max (leastStep s) (stepDown s (stepRank s.thm.step)) = k) : exec .thermalStepExit s = .next (setStep s k) := by
  rw [exec_thermalStepExit_since h, if_neg (Nat.not_lt.2 ht), hk]

/-- From Normal or Warm only band D3 holds a step. -/
theorem stepDown_low (h : s.thm.step = .normal ∨ s.thm.step = .warm) :
    max (leastStep s) (stepDown s (stepRank s.thm.step)) = leastStep s := by
  rcases h with h | h <;> simp [h, stepRank, stepDown]

theorem stepDown_hot (h : s.thm.step = .hot) : stepDown s (stepRank s.thm.step) = if staysAbove s 1 then 1 else 0 := by
  cases h1 : staysAbove s 1 <;> simp [h, stepRank, stepDown, h1]

theorem stepDown_critical (h : s.thm.step = .critical) :
    stepDown s (stepRank s.thm.step) = if staysAbove s 2 then 2 else if staysAbove s 1 then 1 else 0 := by
  cases h2 : staysAbove s 2 <;> cases h1 : staysAbove s 1 <;> simp [h, stepRank, stepDown, h1, h2]

theorem setStep_same (s : State) : setStep s (stepRank s.thm.step) = s := if_pos rfl

/-- A step above the present one is entered at once. -/
theorem judgeStep_enters (h : stepRank s.thm.step < stepFor s (topTj s)) : ∃ b, judgeStep s =
    { setStep s (stepFor s (topTj s)) with thm := { (setStep s (stepFor s (topTj s))).thm with belowSince := b } } := by
  unfold judgeStep
  dsimp only
  rw [if_pos h]
  exact ⟨_, rfl⟩

end Steps

/-! ### The trip (R336, R337, Table 15.3) -/

section Trip

variable {s : State}

theorem applyThermal_of_none_due (h : dueOf s 15 = []) : applyThermal s = s := if_pos (by simp [h])

/-- The sensor has read the trip temperature in two conversions in a row. -/
def tripsAt (s : State) (i : Nat) : Bool := (sensor s i).valid && decide (2 ≤ (sensor s i).hotCount)

theorem tripsAt_iff {i : Nat} : tripsAt s i = true ↔ (sensor s i).valid = true ∧ 2 ≤ (sensor s i).hotCount := by
  simp only [tripsAt, Bool.and_eq_true, decide_eq_true_eq]

theorem tripHot_eq (s : State) (ids : List Nat) : tripHot s ids =
    if s.thm.tripped then s
    else match ids.find? (tripsAt s) with
      | some i => trip s i (sensor s i).reading
      | none => s := rfl

theorem tripHot_none {ids : List Nat} (h : (∀ i ∈ ids, ¬tripsAt s i = true) ∨ s.thm.tripped = true) : tripHot s ids = s := by
  rw [tripHot_eq]
  rcases h with h | h
  · rw [List.find?_eq_none.2 h, ite_self]
  · exact if_pos h

/-- The first sensor that trips names the trip. -/
theorem tripHot_first {a b : List Nat} {i : Nat} (ha : ∀ x ∈ a, ¬tripsAt s x = true) (hi : tripsAt s i = true)
    (ht : s.thm.tripped = false) : tripHot s (a ++ i :: b) = trip s i (sensor s i).reading := by
  have hfind : (a ++ i :: b).find? (tripsAt s) = some i := by
    rw [List.find?_append, List.find?_eq_none.2 ha, List.find?_cons_of_pos hi]
    rfl
  rw [tripHot_eq, hfind, if_neg (by simp [ht])]

theorem allIslands_faultKept (s : State) (st : IslState) : FaultKept s (allIslands s st) :=
  forEach_faultKept _ _ _ fun _ _ => setIslandState_faultKept ..

/-- What follows a dump that a trip began: PWR_SEQ_EN and THERMTRIP_N are low, and the dump is as it was left. -/
theorem afterDump_tripped (h : s.thm.tripped = true) (outcome : Nat) :
    (afterDump s outcome).eav = { s.eav with afterDump := true, dumpStart := none } ∧
    (afterDump s outcome).thm.thermtripN = false ∧ (afterDump s outcome).sup.seqEn = false := by
  have hkept := allIslands_faultKept s .gated
  unfold afterDump
  generalize allIslands s .gated = u at hkept ⊢
  dsimp only
  rw [if_pos (by rw [hkept.thm, h])]
  exact ⟨by rw [hkept.eav], rfl, rfl⟩

theorem exec_tripDumpTimeout_ignored (h : s.thm.tripped = false ∨ s.thm.tripAt = none ∨ s.eav.dumpStart = none ∨ s.eav.dump = none) :
    exec .tripDumpTimeout s = .next s := by
  show execTripDumpTimeout s = _
  unfold execTripDumpTimeout
  split
  · next ht hd hb =>
    have hn : s.thm.tripped = false := by simpa [ht, hd, hb] using h
    rw [if_pos (by simp [hn])]
  · rfl

/-- The dump that a trip began, as its time-out leaves it: marked, and open what had been programmed. -/
def dumpCut (s : State) (d : Dump) : State :=
  let n := fresh s 0 % (d.units.length + 1)
  tickFree { s with eav := { s.eav with
    dump := some { d with partialMark := true, lastPosition := some n, descriptorsDone := decide (0 < n) || fresh s 1 % 2 == 0 }
    halves := vecUpd s.eav.halves d.half fun _ => .holdsDump } }

theorem exec_tripDumpTimeout_runs {t b : Nat} {d : Dump} (hr : s.thm.tripped = true) (ht : s.thm.tripAt = some t)
    (hd : s.eav.dump = some d) (hb : s.eav.dumpStart = some b) : exec .tripDumpTimeout s = .next
      (if b < t ∨ now s < t + 100000 then s else afterDump (dumpCut s d) 2) := by
  show execTripDumpTimeout s = _
  simp only [execTripDumpTimeout, ht, hd, hb, hr, Bool.not_true, Bool.false_or, Bool.or_eq_true, decide_eq_true_eq, dumpCut]

theorem exec_tripRestartRelease (s : State) : exec .tripRestartRelease s = .next (match s.thm.coolSince with
    | some t => if s.thm.tripWait && decide (t + 1000000 ≤ now s) then
        { s with thm := { s.thm with tripWait := false, coolSince := none } } else s
    | none => s) := rfl

theorem exec_tripRestartRelease_none (h : s.thm.coolSince = none) : exec .tripRestartRelease s = .next s := by
  rw [exec_tripRestartRelease]
  simp only [h]

theorem exec_tripRestartRelease_since {t : Nat} (h : s.thm.coolSince = some t) : exec .tripRestartRelease s = .next
    (if s.thm.tripWait = true ∧ t + 1000000 ≤ now s then { s with thm := { s.thm with tripWait := false, coolSince := none } } else s) := by
  rw [exec_tripRestartRelease]
  simp only [h, Bool.and_eq_true, decide_eq_true_eq]

end Trip

/-- Settles O43: a step is left by the trace of the latest 100 ms, a trip is the first sensor's, and its dump ends at 100 ms. -/
theorem thermalSteps : Obligations.ThermalSteps := by
  refine ⟨fun s => ⟨exec_thermalStepExit_none, fun t h ht => ?_, fun t h ht => ⟨fun hs => ?_, fun hs => ⟨fun h1 => ?_, fun h1 => ?_⟩,
      fun hs => ⟨fun h2 => ?_, fun h2 h1 => ?_, fun h2 h1 => ?_⟩⟩⟩, ⟨rfl, rfl, rfl, setStep_same⟩, fun s h => judgeStep_enters h,
    fun s rs => ⟨rfl, applyThermal_of_none_due⟩, fun s ids => ⟨fun h => ?_, fun a i b hids ha hi ht => ?_⟩,
    fun s => ⟨exec_tripDumpTimeout_ignored, fun t d b hr ht hd hb => ⟨fun h => ?_, fun hlt hle => ?_⟩⟩,
    fun s => ⟨fun t h hw hn => ?_, fun h => ?_, fun t h hn => ?_⟩⟩
  · rw [exec_thermalStepExit_since h, if_pos ht]
  · exact exec_thermalStepExit_to h ht (stepDown_low hs)
  · exact exec_thermalStepExit_to h ht (by rw [stepDown_hot hs, if_pos (staysAbove_iff.2 h1), max_eq_right (leastStep_le s)])
  · exact exec_thermalStepExit_to h ht (by simp [stepDown_hot hs, staysAbove_eq_false h1, leastStep])
  · have hle := leastStep_le s
    exact exec_thermalStepExit_to h ht (by rw [stepDown_critical hs, if_pos (staysAbove_iff.2 h2), max_eq_right (by omega)])
  · exact exec_thermalStepExit_to h ht (by
      rw [stepDown_critical hs, staysAbove_eq_false h2, if_neg Bool.false_ne_true, if_pos (staysAbove_iff.2 h1), max_eq_right (leastStep_le s)])
  · exact exec_thermalStepExit_to h ht (by simp [stepDown_critical hs, staysAbove_eq_false h2, staysAbove_eq_false h1, leastStep])
  · exact tripHot_none (h.imp (fun h i hi => tripsAt_iff.not.2 (h i hi)) id)
  · rw [hids]
    exact tripHot_first (fun x hx => tripsAt_iff.not.2 (ha x hx)) (tripsAt_iff.2 hi) ht
  · rw [exec_tripDumpTimeout_runs hr ht hd hb, if_pos h]
  · obtain ⟨heav, hpin, hseq⟩ := afterDump_tripped (s := dumpCut s d) hr 2
    refine ⟨_, _, ?_, congrArg EavSt.dump heav, rfl, rfl, hpin, congrArg EavSt.dumpStart heav, hseq⟩
    rw [exec_tripDumpTimeout_runs hr ht hd hb, if_neg (by omega)]
  · rw [exec_tripRestartRelease_since h, if_pos ⟨hw, hn⟩]
  · cases hc : s.thm.coolSince with
    | none => exact exec_tripRestartRelease_none hc
    | some t =>
      have hw : s.thm.tripWait = false := by simpa [hc] using h
      rw [exec_tripRestartRelease_since hc, if_neg (by simp [hw])]
  · rw [exec_tripRestartRelease_since h, if_neg (by omega)]

end Sys2Proof.Machine

namespace Sys2Proof.Machine

/-! ### Sensor conversions (R331, R332, R336) -/

section Sensors

variable (t : Nat) (away : Bool) (x : SensorSt)

/-- How many readings in a row have lain away from the zone, with this one. -/
def apartCount : Nat := if away then x.disagree + 1 else 0

theorem convertSensor_missed : convertSensor t away x none =
    { x with misses := x.misses + 1, goodSince := none, hotCount := 0, valid := x.valid && decide (x.misses = 0) } := by
  simp [convertSensor]

theorem convertSensor_outOfRange {v : Int} (h : v < -55 ∨ 150 < v) : (convertSensor t away x (some v)).valid = false := by
  have hout : (decide (v < -55) || decide (150 < v)) = true := by simpa using h
  exact congrArg SensorSt.valid (if_pos hout : convertSensor t away x (some v) = _)

theorem convertSensor_inRange {v : Int} (hl : -55 ≤ v) (hh : v ≤ 150) : convertSensor t away x (some v) =
    { x with reading := v, misses := 0, disagree := apartCount away x,
             goodSince := if 10 ≤ apartCount away x then none else some (x.goodSince.getD t),
             valid := if x.valid then decide (apartCount away x < 10)
               else decide (apartCount away x < 10 ∧ x.goodSince.getD t + 1000000 ≤ t),
             hotCount := if 125 ≤ v then x.hotCount + 1 else 0 } := by
  have hin : ¬(decide (v < -55) || decide (150 < v)) = true := by simp [hl, hh]
  unfold convertSensor apartCount
  simp only [if_neg hin]
  generalize (if away = true then x.disagree + 1 else 0) = d
  by_cases hbad : 10 ≤ d
  · simp [hbad, Nat.not_lt.2 hbad]
  · simp [hbad, Nat.lt_of_not_le hbad]

/-- A second of correct readings has passed: the first of them is known. -/
theorem goodSince_getD_le : x.goodSince.getD t + 1000000 ≤ t ↔ ∃ g, x.goodSince = some g ∧ g + 1000000 ≤ t := by
  cases x.goodSince <;> simp

end Sensors

/-! ### Remote diodes (R331, R332) -/

section Diodes

variable {s : State}

/-- The diodes after a conversion: those that have a role convert. -/
def convertedDiodes (s : State) (rs : List (Option Int)) : List SensorSt := s.thm.diodes.zipIdx.map fun e =>
  if remoteRole s.prof e.2 = 0 then e.1 else convertSensor (now s) false e.1 (rs.getD e.2 none)

/-- Without a role no diode is read. -/
theorem convertedDiodes_of_no_role (hl : s.thm.diodes.length = 8) (hr : ∀ n, n < 8 → remoteRole s.prof n = 0) (rs : List (Option Int)) :
    convertedDiodes s rs = s.thm.diodes := by
  have hkeep : ∀ e ∈ s.thm.diodes.zipIdx,
      (if remoteRole s.prof e.2 = 0 then e.1 else convertSensor (now s) false e.1 (rs.getD e.2 none)) = e.1 := fun e he => by
    have hlt := (List.mem_zipIdx he).2.1
    exact if_pos (hr e.2 (by omega))
  rw [convertedDiodes, List.map_congr_left hkeep, List.zipIdx_map_fst]

theorem exec_remoteDiodeConversion (s : State) (rs : List (Option Int)) : exec (.remoteDiodeConversion rs) s =
    .next (updateTempWarning (forEach ((List.range 8).filter fun i =>
        (vecGet sensorDefault s.thm.diodes i).valid && !(vecGet sensorDefault (convertedDiodes s rs) i).valid)
      (fun _ t => raiseFault t 306 (capOf 6 5 0 0 0)) { s with thm := { s.thm with diodes := convertedDiodes s rs } })) := rfl

theorem exec_remoteDiodeConversion_of_no_role (hl : s.thm.diodes.length = 8) (hr : ∀ n, n < 8 → remoteRole s.prof n = 0)
    (rs : List (Option Int)) : exec (.remoteDiodeConversion rs) s = .next (updateTempWarning s) := by
  have hnone : ((List.range 8).filter fun i => (vecGet sensorDefault s.thm.diodes i).valid && !(vecGet sensorDefault s.thm.diodes i).valid)
      = [] := by simp
  rw [exec_remoteDiodeConversion, convertedDiodes_of_no_role hl hr, hnone]
  rfl

end Diodes

/-! ### Cold Start Warm (R339) -/

section WarmLoad

variable {s : State} {q : HmpHdr}

/-- The operation of the warm load, where there is one, ends. -/
def warmOpEnds (s : State) (status : Nat) : State :=
  { endLong? s s.thm.warmOp status 0 with thm := { s.thm with warmOp := none } }

theorem warmOpEnds_effect (s : State) (status : Nat) : ∃ l, warmOpEnds s status =
    { s with hmp := { s.hmp with handles := l }, thm := { s.thm with warmOp := none } } := by
  obtain ⟨l, h⟩ := endLong?_effect s s.thm.warmOp status 0
  exact ⟨l, by rw [warmOpEnds, h]⟩

/-- The load and whether it has ended, once an operation that had to end has. -/
def warmLoadSet (s : State) (hot : Bool) : State :=
  let cold := (pollTemps s).any fun t => decide (t < 2)
  let ended := s.thm.warmEnded || s.fl.window.isOpen || hot
  { s with thm := { s.thm with warmEnded := ended, warmLoad := !s.fl.window.isOpen && !hot &&
      (s.thm.warmOp.isSome || (cold && s.prof.coldWarmAuto == 1 && !ended && decide (s.boot.phase = 5))) } }

theorem updateWarm_eq (s : State) : updateWarm s = warmLoadSet (if s.fl.window.isOpen then warmOpEnds s hsSuccess
    else if s.thm.step != .normal then warmOpEnds s hsConflict else s) (s.thm.step != .normal) := rfl

/-- An open window or a step of Warm or above ends the load, its operation with it. -/
theorem updateWarm_ends (h : s.fl.window.isOpen = true ∨ s.thm.step ≠ .normal) : ∃ l, updateWarm s =
    { s with hmp := { s.hmp with handles := l }, thm := { s.thm with warmOp := none, warmEnded := true, warmLoad := false } } := by
  rw [updateWarm_eq]
  by_cases ho : s.fl.window.isOpen = true
  · obtain ⟨l, hl⟩ := warmOpEnds_effect s hsSuccess
    exact ⟨l, by rw [if_pos ho, hl]; simp [warmLoadSet, ho]⟩
  · have hn : s.thm.step ≠ .normal := h.resolve_left ho
    obtain ⟨l, hl⟩ := warmOpEnds_effect s hsConflict
    exact ⟨l, by rw [if_neg ho, if_pos (bne_iff_ne.2 hn), hl]; simp [warmLoadSet, hn]⟩

/-- While the window is closed at the step Normal no operation ends. -/
theorem updateWarm_goes_on (hw : s.fl.window.isOpen = false) (hn : s.thm.step = .normal) : updateWarm s = warmLoadSet s false := by
  rw [updateWarm_eq, if_neg (by simp [hw]), hn]
  rfl

/-- What the warm load does to the engine of the mailbox: it may end an operation. -/
theorem updateWarm_hmp (s : State) : ∃ l, (updateWarm s).hmp = { s.hmp with handles := l } := by
  by_cases h : s.fl.window.isOpen = true ∨ s.thm.step ≠ .normal
  · obtain ⟨l, hl⟩ := updateWarm_ends h
    exact ⟨l, (congrArg State.hmp hl :)⟩
  · obtain ⟨hw, hn⟩ := not_or.1 h
    exact ⟨s.hmp.handles, (congrArg State.hmp (updateWarm_goes_on (Bool.not_eq_true _ ▸ hw) (not_not.1 hn)) :)⟩

theorem coldStartWarmStart_starts (hq : HmpServed s q ruleWarm) (hn : s.thm.warmOp = none) (hl : liveHandles s q.sender < 64) :
    HmpStarts (exec (.coldStartWarmStart q) s) s q 0x0702 fun s h =>
      updateWarm { s with thm := { s.thm with warmOp := some (q.sender, h), warmStart := minInt 127 (pollTemps s) } } := by
  have hgo : exec (.coldStartWarmStart q) s = .next (startLong s q 0x0702 fun s h =>
      updateWarm { s with thm := { s.thm with warmOp := some (q.sender, h), warmStart := minInt 127 (pollTemps s) } }) :=
    hq.next (if_neg (by simp [hn]))
  obtain ⟨l, hhmp⟩ := updateWarm_hmp { withHandle s q 0x0702 with thm := { s.thm with
    warmOp := some (q.sender, s.hmp.nextHandle), warmStart := minInt 127 (pollTemps (withHandle s q 0x0702)) } }
  exact startLong_starts hgo hl ((discarded_congr (s := s) (congrArg (·.requests) hhmp) q).trans hq.2) (congrArg (·.answers) hhmp)

end WarmLoad

/-- Settles O44: a sensor by its reading, a diode by its role, the warm load by the window, the step and its commands. -/
theorem sensorsAndWarmLoad : Obligations.SensorsAndWarmLoad := by
  refine ⟨fun t away x => ⟨?_, ?_, fun v h => convertSensor_outOfRange t away x h, fun v hl hh => ?_⟩, fun x h => if_neg (by simp [h]),
    fun s rs hl hr => exec_remoteDiodeConversion_of_no_role hl hr rs, exec_remoteDiodeConversion,
    fun s => ⟨fun h => ?_, fun hw hn ho => ?_⟩, fun s q hq => ⟨fun h => hq.answers (if_pos h), coldStartWarmStart_starts hq, fun h => ?_,
      fun x n h => hq.next ?_⟩⟩
  · rw [convertSensor_missed]
  · rw [convertSensor_missed]
  · rw [convertSensor_inRange t away x hl hh]
    refine ⟨rfl, rfl, fun hv => ?_, fun hv => ?_, fun h => if_pos h, fun h => if_neg (Int.not_le.2 h)⟩
    · simp only [hv, if_true, decide_eq_true_eq]
      rfl
    · simp only [hv, Bool.false_eq_true, if_false, decide_eq_true_eq, goodSince_getD_le]
      rfl
  · obtain ⟨l, hl⟩ := updateWarm_ends h
    rw [hl]
    exact ⟨rfl, rfl, rfl⟩
  · rw [updateWarm_goes_on hw hn]
    exact ⟨by simp [warmLoadSet, hw, ho], rfl⟩
  · exact hq.applies (by rw [h]; rfl) rfl
  · rw [h]
    rfl

end Sys2Proof.Machine

namespace Sys2Proof.Machine

/-! ### The words of SNAP (R315) -/

/-- A bit that is set one place after another ends up set where its test holds. -/
theorem getLsbD_foldl_setBit (l : List Nat) (p : Nat → Bool) (a : U32) {b : Nat} (hb : b < 32) :
    (l.foldl (fun a k => if p k then a ||| (1#32 <<< k) else a) a).getLsbD b = (a.getLsbD b || (l.contains b && p b)) := by
  induction l generalizing a with
  | nil => simp
  | cons k l ih =>
    have hone : (1#32 <<< k).getLsbD b = decide (b = k) := by
      rw [BitVec.getLsbD_shiftLeft, BitVec.getLsbD_one]
      simp only [hb, decide_true, Bool.true_and, ← decide_not, ← Bool.decide_and, decide_eq_decide]
      omega
    rw [List.foldl_cons, ih, List.contains_cons]
    by_cases hk : b = k
    · subst hk
      by_cases hp : p b = true <;> simp [hp, hone]
    · have hbeq : (b == k) = false := beq_false_of_ne hk
      by_cases hp : p k = true <;> simp [hp, hone, hk, hbeq]

theorem srcWord_getLsbD (s : State) (p : FaultSrc → Bool) (w : Nat) {b : Nat} (hb : b < 32) :
    (srcWord s p w).getLsbD b = p (faultSrc s (32 * w + b)) := by
  unfold srcWord
  rw [getLsbD_foldl_setBit _ (fun b => p (faultSrc s (32 * w + b))) _ hb]
  simp [hb]

theorem length_snapshotBytes (s : State) : (snapshotBytes (takeSnapshot s)).length = 96 := by
  have hwords (l : List U32) : (l.flatMap fun w => leBytes 4 w.toNat).length = 4 * l.length :=
    length_flatMap_const (fun w => length_leBytes 4 w.toNat) l
  simp only [snapshotBytes, takeSnapshot, List.length_append, hwords, List.length_map, List.length_range, length_leBytes, length_zeros]

@[simp] theorem length_firstErrorBytes (s : State) (i : Nat) : (firstErrorBytes s i).length = 32 := by
  simp [firstErrorBytes]

/-! ### ALIVE (R324, R327) -/

section Alive

variable {s : State} {k v : Nat}

theorem exec_coreKick (s : State) (k v : Nat) : exec (.coreKick k v) s = .next (if k < 10 ∧ bits v k 1 = 1 then
    { s with flt := { s.flt with cores := vecUpd s.flt.cores k fun c => { c with lastKick := now s } } } else s) := by
  show execCoreKick k v s = _
  simp only [execCoreKick, Bool.and_eq_true, decide_eq_true_eq, beq_iff_eq]

theorem exec_aliveKick (s : State) (k v : Nat) : exec (.aliveKick k v) s = .next (if k < 10 ∧ v % 2 = 1 then
    { s with flt := { s.flt with aliveKick := some (now s) } } else s) := by
  show execAliveKick k v s = _
  simp only [execAliveKick, Bool.and_eq_true, decide_eq_true_eq, beq_iff_eq]

theorem exec_aliveToggle_ok (h : aliveOk s = true) : exec .aliveToggle s = .next
    { s with flt := { s.flt with aliveRun := true, aliveLevel := !(s.flt.aliveRun && s.flt.aliveLevel) } } := by
  refine next_if_pos h ?_
  cases s.flt.aliveRun <;> rfl

theorem exec_aliveKickTimeout_ok (h : aliveOk s = true) : exec .aliveKickTimeout s = .next s := congrArg _ (if_pos h)

theorem exec_alive_fails (h : aliveOk s = false) {c : Instr} (hc : c ∈ [Instr.aliveToggle, Instr.aliveKickTimeout]) :
    exec c s = .next { s with flt := { s.flt with aliveRun := false, aliveLevel := false } } := by
  have hlow : refreshAlive s = { s with flt := { s.flt with aliveRun := false, aliveLevel := false } } := if_neg (by simp [h])
  rcases List.mem_pair.1 hc with rfl | rfl
  · exact next_if_neg (by simp [h]) hlow
  · exact congrArg _ hlow

/-- While the conditions of ALIVE hold nothing is severe, the phase is neither 0 nor 7, and a core has kicked within 20 ms. -/
theorem aliveOk_conditions (h : aliveOk s = true) : anySevere s = false ∧ s.boot.phase ≠ 0 ∧ s.boot.phase ≠ 7 ∧
    s.pins.testMode = false ∧ (s.flt.kickExempt = false → s.boot.phase ≠ 6 → ∃ t, s.flt.aliveKick = some t ∧ now s ≤ t + 20000) := by
  simp only [aliveOk, Bool.and_eq_true, Bool.or_eq_true, Bool.not_eq_true', bne_iff_ne, beq_iff_eq] at h
  obtain ⟨⟨⟨⟨⟨-, hs⟩, h0⟩, h7⟩, ht⟩, hk⟩ := h
  refine ⟨hs, h0, h7, ht, fun hx h6 => ?_⟩
  have hkick := hk.resolve_left (not_or.2 ⟨by simp [hx], h6⟩)
  cases ha : s.flt.aliveKick with
  | none => simp [ha] at hkick
  | some t => exact ⟨t, rfl, by simpa [ha] using hkick⟩

end Alive

/-! ### An event of a source, and its reaction (R314, R319, Table 14.1) -/

section Events

variable {s : State} {i : Nat} {cap : Capture}

theorem exec_faultSourceEvent_none (h : 320 ≤ i ∨ i = 269 ∧ 10 ≤ cap.detail) : exec (.faultSourceEvent i cap) s = .next s :=
  next_if_pos (by rcases h with h | ⟨rfl, h⟩ <;> simp [h]) rfl

theorem exec_faultSourceEvent_trip (h : s.thm.tripped = false) : exec (.faultSourceEvent 307 cap) s = .next (trip s 0 (topTj s)) :=
  next_if_neg (by simp) (if_pos (by simp [h]))

theorem exec_faultSourceEvent_reacts (hi : i < 320) (h9 : i ≠ 269 ∨ cap.detail < 10) (h7 : i ≠ 307 ∨ s.thm.tripped = true) :
    exec (.faultSourceEvent i cap) s = .next (sourceReact (raiseFault s i cap) i cap) := by
  refine next_if_neg ?_ (if_neg ?_)
  · rcases h9 with h | h <;> simp [hi, h]
  · rcases h7 with h | h <;> simp [h]

/-- A channel's reactions to a timeout or a failure of the descriptor that the capture names. -/
theorem channelReact_of_some {c : Nat} {d : Desc} (h : descOf s c (capTag cap) = some d) :
    channelReact s c 0 cap = waitingAround (updDesc s d fun x => { x with overran := true }) (descDie d) ∧
    channelReact s c 2 cap = workLost (closeDesc s d 0x32 0) d ∧ channelReact s c 3 cap = waitingAround s (descDie d) := by
  unfold channelReact
  rw [h]
  exact ⟨rfl, rfl, rfl⟩

theorem channelReact_lost {c off : Nat} {d : Desc} (h : descOf s c (capTag cap) = some d) (ho : off = 1 ∨ off = 6 ∨ off = 7) :
    channelReact s c off cap = workLost (closeDesc s d 0x37 0) d := by
  unfold channelReact
  rw [h]
  rcases ho with rfl | rfl | rfl <;> rfl

theorem channelReact_of_none {c off : Nat} (h : descOf s c (capTag cap) = none) : channelReact s c off cap = s := by
  rw [channelReact, h]

theorem sourceReact_dram (h : 279 ≤ i) (h' : i ≤ 290) : sourceReact s i cap = dramReact s (decide (285 ≤ i)) ((i - 279) % 6) cap := by
  unfold sourceReact
  rw [if_neg (by omega), if_neg (by omega), if_neg (by omega), if_neg (by omega), if_neg (by simp; omega), if_pos (by simp [h, h'])]
  rfl

/-- The sources of 273 on that are neither a DRAM channel's nor a core's. -/
theorem sourceReact_device (h : 273 ≤ i) (hd : i < 279 ∨ 290 < i) (hc : i < 292 ∨ 303 < i) :
    sourceReact s i cap = deviceReact s i cap := by
  unfold sourceReact
  rw [if_neg (by omega), if_neg (by omega), if_neg (by omega), if_neg (by omega), if_neg (by simp; omega), if_neg (by simp; omega),
    if_neg (by simp; omega), if_neg (by simp; omega)]

theorem sourceReact_core (h : 292 ≤ i) (h' : i ≤ 301) : sourceReact s i cap = coreReact s (i - 292) false := by
  unfold sourceReact
  rw [if_neg (by omega), if_neg (by omega), if_neg (by omega), if_neg (by omega), if_neg (by simp; omega), if_neg (by simp; omega),
    if_pos (by simp [h, h'])]

theorem sourceReact_ridge (h : i = 302 ∨ i = 303) : sourceReact s i cap = ridgeReact s (i - 302) false := by
  rcases h with rfl | rfl <;> rfl

theorem sourceReact_region (h : i ∈ [268, 269, 270, 271, 272]) : sourceReact s i cap = if i = 268 then hostViolation s cap
    else if i = 269 then coreReact (raiseFault s (292 + cap.detail) cap) cap.detail false
    else if i = 270 then (if cap.access = 3 then discardToken s cap else ridgeReact s (activeRidge s) false) else transferViolation s cap := by
  simp only [List.mem_cons, List.not_mem_nil, or_false] at h
  rcases h with rfl | rfl | rfl | rfl | rfl <;> rfl

/-- The sources of the islands below 268. -/
theorem sourceReact_island (h : 256 ≤ i) (h' : i < 268) : sourceReact s i cap = s := by
  interval_cases i <;> rfl

/-- The sources to which no unit reacts: their counts and thresholds are all that they have. -/
theorem sourceReact_none (h : (256 ≤ i ∧ i < 268) ∨ (272 < i ∧ i < 279) ∨ i ∈ [291, 305, 306, 308, 316, 317, 318, 319]) :
    sourceReact s i cap = s := by
  rcases h with ⟨h, h'⟩ | ⟨h, h'⟩ | h
  · exact sourceReact_island h h'
  · rw [sourceReact_device h (.inl h') (.inl (by omega))]
    interval_cases i <;> rfl
  · simp only [List.mem_cons, List.not_mem_nil, or_false] at h
    rcases h with rfl | rfl | rfl | rfl | rfl | rfl | rfl | rfl <;> rfl

theorem sourceReact_airflow (h : isRunning s 9 = true) : sourceReact s 313 cap = driverReact s ∧ sourceReact s 314 cap = clampReact s false ∧
    (turning s.air.st = true → sourceReact s 315 cap = stallReact s) :=
  ⟨if_pos h, if_pos h, fun ht => (if_pos (by simp [h, ht]) : (if isRunning s 9 && turning s.air.st then stallReact s else s) = _)⟩

end Events

/-! ### The record of a source (R314, R317) -/

/-- The records of all sources are the same. -/
def SrcsKept (s t : State) : Prop := t.flt.srcs = s.flt.srcs

section SrcsKept

variable {s t u : State}

theorem SrcsKept.refl (s : State) : SrcsKept s s := rfl

theorem SrcsKept.trans (h : SrcsKept s t) (h' : SrcsKept t u) : SrcsKept s u := Eq.trans h' h

theorem SrcsKept.ite {c : Prop} [Decidable c] (h : SrcsKept s t) (h' : SrcsKept s u) : SrcsKept s (if c then t else u) := by
  split
  · exact h
  · exact h'

theorem SrcsKept.faultSrc (h : SrcsKept s t) (i : Nat) : faultSrc t i = faultSrc s i := congrArg (tblGet srcDefault i) h

theorem recordEvent_srcsKept (s : State) (code sev kind num : Nat) (payload : List Byte) :
    SrcsKept s (recordEvent s code sev kind num payload) := congrArg FltSt.srcs (recordEvent_flt ..)

theorem refreshAlive_srcsKept (s : State) : SrcsKept s (refreshAlive s) := .ite rfl rfl

theorem refreshFaultLed_srcsKept (s : State) : SrcsKept s (refreshFaultLed s) := by
  rw [refreshFaultLed_eq]
  rfl

theorem setIslandState_srcsKept (s : State) (id : Nat) (st : IslState) : SrcsKept s (setIslandState s id st) := by
  obtain ⟨x, fl, air, h⟩ := setIslandState_effect s id st
  rw [h]
  rfl

theorem setWarning_srcsKept (s : State) (bit : Nat) : SrcsKept s (setWarning s bit) := by
  obtain ⟨w, fs, ps, rs, ws, h⟩ := setWarning_effect s bit
  rw [h]
  rfl

theorem reportSevere_srcsKept (s : State) (scope : Nat) : SrcsKept s (reportSevere s scope) := by
  have hfail (t : State) : SrcsKept t (forEach (presentFns t) (fun f s => updFn s f fun x => { x with cfs := true }) t) :=
    forEach_proj (fun s : State => s.flt.srcs) _ _ _ fun _ _ => rfl
  unfold reportSevere
  exact .ite (.trans (t := { s with tel := { s.tel with controllerDataAvailable := true }, host := { s.host with
    aerUncorrected := s.host.aerUncorrected ++ presentFns s } }) rfl (hfail _))
    (.trans (t := { s with tel := { s.tel with controllerDataAvailable := true }, host := { s.host with
      aerCorrected := s.host.aerCorrected + 1 } }) rfl (setWarning_srcsKept ..))

theorem severeChannel_srcsKept (s : State) (c : Nat) : SrcsKept s (severeChannel s c) := by
  unfold severeChannel
  extract_lets again _ s1 _ s2
  have h2 : SrcsKept s s2 := .ite rfl rfl
  exact .ite h2 (.ite (h2.trans (setIslandState_srcsKept ..)) h2)

end SrcsKept

section Counting

variable {s : State} {i : Nat} {cap : Capture}

theorem faultSrc_updSrc_self (s : State) (i : Nat) (f : FaultSrc → FaultSrc) : faultSrc (updSrc s i f) i = f (faultSrc s i) :=
  tblGet_tblUpd_self ..

/-- A source that becomes severe changes its latch and its scope, and no other source's record. -/
theorem makeSevere_src (s : State) (i isl : Nat) (h : (faultSrc s i).severe = false) :
    faultSrc (makeSevere s i isl) i = { faultSrc s i with severe := true, scope := sourceScope s i isl } := by
  unfold makeSevere
  rw [if_neg (by simp [h])]
  extract_lets sc s1 s2 s3 s4
  have h1 : faultSrc s1 i = { faultSrc s i with severe := true, scope := sc } := faultSrc_updSrc_self s i _
  have h4 : SrcsKept s1 s4 := (refreshAlive_srcsKept s1).trans ((refreshFaultLed_srcsKept _).trans
    ((recordEvent_srcsKept ..).trans (reportSevere_srcsKept ..)))
  split
  · exact ((h4.trans (severeChannel_srcsKept ..)).faultSrc i).trans h1
  · exact (h4.faultSrc i).trans h1

/-- The record of a source once one more event is counted, its latch apart. -/
theorem countFault_src (h : (faultSrc s i).severe = false) : ∃ w n b sc, (severeAtFirst i cap.island = true → b = true) ∧
    faultSrc (countFault s i cap) i = { faultSrc s i with
      bit := true, count := min ((faultSrc s i).count + 1) 0xFFFFFFFF, winStart := w, winCount := n, severe := b, scope := sc,
      first := match (faultSrc s i).first with
        | some e => some e
        | none => some ⟨cap, now s⟩ } := by
  unfold countFault
  extract_lets x cnt
  obtain ⟨n, t⟩ := threshold s i
  dsimp -zeta only
  extract_lets running wc s1 s2
  have h1 : faultSrc s1 i = { faultSrc s i with
      bit := true, count := cnt, winStart := if running then x.winStart else some (opUs s), winCount := wc,
      first := match (faultSrc s i).first with
        | some e => some e
        | none => some ⟨cap, now s⟩ } := faultSrc_updSrc_self s i _
  have h2 : faultSrc s2 i = faultSrc s1 i := (SrcsKept.ite (recordEvent_srcsKept ..) rfl : SrcsKept s1 s2).faultSrc i
  have hsev : (faultSrc s2 i).severe = false := by rw [h2, h1, h]
  clear_value s2 s1
  split
  · exact ⟨_, _, true, _, fun _ => rfl, (makeSevere_src s2 i cap.island hsev).trans (by rw [h2, h1])⟩
  · next hn =>
    have hs : severeAtFirst i cap.island = true → (faultSrc s i).severe = true := fun hs => absurd (by rw [hs, Bool.true_or]) hn
    refine ⟨_, _, _, _, hs, (SrcsKept.faultSrc ?_ i).trans (h2.trans h1)⟩
    exact .ite rfl rfl

end Counting

/-! ### Fault commands (R315, R325, R330, Table 14.2) -/

section Commands

variable {s : State} {q : HmpHdr} {i n t flags : Nat}

theorem faultSnapshot_taken (hq : HmpServed s q ruleFaultSnapshot) (hr : 96 ≤ q.room) :
    HmpAnswers (exec (.faultSnapshot q) s) s (takeSnapshot s) q 0x0601 0 0 (snapshotBytes (takeSnapshot s)) := by
  have hlen := length_snapshotBytes s
  have hgo : exec (.faultSnapshot q) s = .next (answer (takeSnapshot s) q 0x0601 hsSuccess 0 (snapshotBytes (takeSnapshot s))) :=
    hq.next ((if_neg (by omega)).trans (if_neg (by omega)))
  exact answer_answers hgo ((discarded_congr (s := s) rfl q).trans hq.2) rfl

theorem faultSnapshot_tooSmall (hq : HmpServed s q ruleFaultSnapshot) (hr : q.room < 96) :
    HmpAnswers (exec (.faultSnapshot q) s) s s q 0x0601 hsTooSmall 96 [] := by
  have hlen := length_snapshotBytes s
  have htoo : reply s q 0x0601 (snapshotBytes (takeSnapshot s)) = answer s q 0x0601 hsTooSmall 96 [] := by
    rw [← hlen]
    exact if_pos (by omega)
  exact hq.answers ((if_pos (by omega)).trans htoo)

/-- A Fault Threshold Set that the gate lets through. -/
def thresholdSetServed (s : State) (q : HmpHdr) (source n t : Nat) : State :=
  if 320 ≤ source then rejectWrite s q 0x0602 hsOutOfRange 0
  else if 256 ≤ n then rejectWrite s q 0x0602 hsOutOfRange 2
  else if t = 0 || decide (2592000000 < t) then rejectWrite s q 0x0602 hsOutOfRange 4
  else if sourceFixed source then answer s q 0x0602 hsConflict 1 []
  else hmpDone { s with flt := { s.flt with thresholds := tblSet source (n, t) s.flt.thresholds } } q 0x0602

theorem thresholdSetServed_legal (hi : i < 320) (hn : n < 256) (h0 : 0 < t) (ht : t ≤ 2592000000) : thresholdSetServed s q i n t =
    if sourceFixed i then answer s q 0x0602 hsConflict 1 []
    else hmpDone { s with flt := { s.flt with thresholds := tblSet i (n, t) s.flt.thresholds } } q 0x0602 := by
  unfold thresholdSetServed
  rw [if_neg (by omega), if_neg (by omega), if_neg (by simp; omega)]

theorem threshold_set (s : State) (i n t : Nat) :
    threshold { s with flt := { s.flt with thresholds := tblSet i (n, t) s.flt.thresholds } } i = (n, t) :=
  (tblGet_tblSet ..).trans (if_pos rfl)

/-- A Fault Clear that the gate lets through. -/
def faultClearServed (s : State) (q : HmpHdr) (source flags : Nat) : State :=
  if 320 ≤ source && source != 0xFFFF then rejectWrite s q 0x0603 hsOutOfRange 0
  else if 4 ≤ flags then rejectWrite s q 0x0603 hsOutOfRange 2
  else
    hmpDone (recordEvent (clearFaults s source flags) 0x0012 1 1 source
      (leBytes 2 source ++ leBytes 1 flags ++ zeros 1 ++ senderBytes q.sender)) q 0x0603

theorem faultClearServed_named (h : i < 320 ∨ i = 0xFFFF) : faultClearServed s q i flags =
    if 4 ≤ flags then rejectWrite s q 0x0603 hsOutOfRange 2
    else hmpDone (recordEvent (clearFaults s i flags) 0x0012 1 1 i
      (leBytes 2 i ++ leBytes 1 flags ++ zeros 1 ++ senderBytes q.sender)) q 0x0603 :=
  if_neg (by rcases h with h | h <;> simp [h])

/-- Clearing changes an entry that is listed as its record, and one that is not stays as it never was. -/
theorem tblGet_map_clearSrc (i k flags : Nat) (h : i = k ∨ i = 0xFFFF) (t : Tbl Nat FaultSrc) :
    tblGet srcDefault k (t.map fun e => if i = 0xFFFF || e.1 = i then (e.1, clearSrc flags e.2) else e) =
      clearSrc flags (tblGet srcDefault k t) := by
  induction t with
  | nil =>
    show srcDefault = clearSrc flags srcDefault
    unfold clearSrc
    (repeat' split) <;> rfl
  | cons e t ih =>
    obtain ⟨a, x⟩ := e
    by_cases hk : k = a
    · have hhit : (decide (i = 0xFFFF) || decide (a = i)) = true := by rcases h with h | h <;> simp [h, hk]
      simp only [List.map_cons, hhit, if_true, tblGet, tblFind?, if_pos hk, Option.getD_some]
    · have hmiss : (if (decide (i = 0xFFFF) || decide (a = i)) = true then (a, clearSrc flags x) else (a, x)) =
          (a, if (decide (i = 0xFFFF) || decide (a = i)) = true then clearSrc flags x else x) := by
        split <;> rfl
      simp only [List.map_cons, hmiss, tblGet, tblFind?, if_neg hk]
      exact ih

theorem clearFaults_src (s : State) {i k : Nat} (flags : Nat) (h : i = k ∨ i = 0xFFFF) :
    faultSrc (clearFaults s i flags) k = clearSrc flags (faultSrc s k) := by
  unfold clearFaults
  extract_lets _ u
  have hkept : SrcsKept u (refreshFaultLed (if anySevere u then u else clearWarning u 2)) :=
    .trans (t := if anySevere u then u else clearWarning u 2) (.ite rfl rfl) (refreshFaultLed_srcsKept _)
  exact (hkept.faultSrc k).trans (tblGet_map_clearSrc i k flags h _)

theorem bits_one (v lo : Nat) : bits v lo 1 = v / 2 ^ lo % 2 := rfl

/-- Bit 0 of the flags clears the event, its count and its first error; bit 1 the latch. -/
theorem clearSrc_fields (flags : Nat) (x : FaultSrc) :
    (flags % 2 = 1 → (clearSrc flags x).bit = false ∧ (clearSrc flags x).count = 0 ∧ (clearSrc flags x).first = none) ∧
    (flags / 2 % 2 = 1 → (clearSrc flags x).severe = false) ∧
    (flags % 2 = 0 → (clearSrc flags x).bit = x.bit ∧ (clearSrc flags x).first = x.first) ∧
    (flags / 2 % 2 = 0 → (clearSrc flags x).severe = x.severe) := by
  unfold clearSrc
  simp only [bits_one, pow_zero, Nat.div_one, pow_one]
  rcases Nat.mod_two_eq_zero_or_one flags with h0 | h0 <;> rcases Nat.mod_two_eq_zero_or_one (flags / 2) with h1 | h1 <;>
    simp [h0, h1]

end Commands

/-- Settles O49: the collector's registers, an event of a source with its reaction and its record, and the fault commands. -/
theorem faultCollector : Obligations.FaultCollector := by
  refine ⟨⟨fun s v => ⟨fun h => next_if_pos h rfl, fun h => next_if_neg (by omega) rfl⟩, fun s p w b hb => srcWord_getLsbD s p w hb,
      fun s k v => ⟨fun hk hv => ?_, fun h => ?_, fun hk hv => ?_, fun h => ?_⟩,
    fun s => ⟨fun h => ⟨exec_aliveToggle_ok h, exec_aliveKickTimeout_ok h⟩, fun h c hc => exec_alive_fails h hc, aliveOk_conditions⟩,
    fun s i cap => ⟨fun h => exec_faultSourceEvent_none (.inl h), fun h => exec_faultSourceEvent_none (.inr ⟨rfl, h⟩),
      exec_faultSourceEvent_trip, exec_faultSourceEvent_reacts⟩,
    fun s i c off cap => ⟨fun h => if_pos h, fun d hd => ?_, channelReact_of_none, sourceReact_region, sourceReact_dram, sourceReact_core,
      sourceReact_ridge, rfl, rfl, rfl, rfl, rfl, sourceReact_airflow, sourceReact_none⟩, fun s i cap _ _ hs => ?_⟩, ?_⟩
  · rw [exec_coreKick, if_pos ⟨hk, hv⟩]
  · rw [exec_coreKick, if_neg]
    rintro ⟨hk, hv⟩
    omega
  · rw [exec_aliveKick, if_pos ⟨hk, hv⟩]
  · rw [exec_aliveKick, if_neg]
    omega
  · obtain ⟨h0, h2, h3⟩ := channelReact_of_some hd
    exact ⟨h0, h2, h3, channelReact_lost hd⟩
  · obtain ⟨w, n, b, sc, hb, hx⟩ := countFault_src (cap := cap) hs
    intro t
    rw [show faultSrc t i = _ from hx]
    exact ⟨rfl, rfl, fun hn => by rw [hn], fun e he => by rw [he], hb⟩
  · refine ⟨fun s q hq => ⟨length_snapshotBytes s, faultSnapshot_taken hq, faultSnapshot_tooSmall hq⟩,
      fun s q i n t hq => ⟨fun hi hn h0 ht => ⟨fun hf => ?_, fun hf => ⟨?_, threshold_set s i n t⟩⟩, fun h => hq.next (if_pos h),
        fun hi h => ?_, fun hi hn h => ?_⟩,
      fun s q i flags hq => ⟨fun hi hf => ?_, fun h hne => hq.next (if_pos (by simp [h, hne])), fun hi hf => ?_⟩,
      fun s i k flags h => ?_, fun s q i hq => ⟨fun h => ?_, fun h => hq.answers (if_pos h)⟩, length_firstErrorBytes⟩
    · exact hq.answers ((thresholdSetServed_legal hi hn h0 ht).trans (if_pos hf))
    · exact hq.applies ((thresholdSetServed_legal hi hn h0 ht).trans (if_neg (by simp [hf]))) rfl
    · exact hq.next ((if_neg (Nat.not_le.2 hi)).trans (if_pos h))
    · exact hq.next ((if_neg (Nat.not_le.2 hi)).trans ((if_neg (Nat.not_le.2 hn)).trans (if_pos (by simpa using h))))
    · exact hq.next ((faultClearServed_named hi).trans (if_neg (Nat.not_le.2 hf)))
    · exact hq.next ((faultClearServed_named hi).trans (if_pos hf))
    · intro x
      rw [show x = _ from clearFaults_src s flags h]
      exact clearSrc_fields flags (faultSrc s k)
    · exact hq.reports (if_neg (Nat.not_le.2 h))

end Sys2Proof.Machine

namespace Sys2Proof.Machine

/-! ### A channel and its ranks -/

section Ranks

variable {s t : State} {chB : Bool}

theorem dramCh_congr (h : t.dram = s.dram) (chB : Bool) : dramCh t chB = dramCh s chB := by
  unfold dramCh
  rw [h]

theorem dramCh_updRank (s : State) (chB : Bool) (r : Nat) (f : RankSt → RankSt) :
    dramCh (updRank s chB r f) chB = { dramCh s chB with ranks := vecUpd (dramCh s chB).ranks r f } := dramCh_updDram ..

theorem rankEvent_dram (s : State) (chB : Bool) (rank action outcome : Nat) : (rankEvent s chB rank action outcome).dram = s.dram :=
  (recordEvent_faultKept ..).dram

theorem endLong?_dram (s : State) (o : Option (Sender × Nat)) (status detail : Nat) : (endLong? s o status detail).dram = s.dram := by
  obtain ⟨l, h⟩ := endLong?_effect s o status detail
  exact (congrArg State.dram h :)

theorem startMigration_hmp (s : State) (chB : Bool) (r : Nat) (op : Option (Sender × Nat)) : (startMigration s chB r op).hmp = s.hmp := by
  unfold startMigration
  split
  · rw [updRank_hmp, updDram_hmp]
  · rfl

/-- A migration that starts moves the rank onto the spare with dual writes (R293 step 1). -/
theorem startMigration_migrating {r sp : Nat} (h : spareOf (dramCh s chB) = some sp) (op : Option (Sender × Nat)) :
    (dramCh (startMigration s chB r op) chB).migrating = some (r, sp) ∧ (dramCh (startMigration s chB r op) chB).dualWrite = true := by
  unfold startMigration
  simp only [h]
  rw [dramCh_updRank, dramCh_updDram]
  exact ⟨rfl, rfl⟩

end Ranks

/-! ### Resilvering, temperatures and drift (R282, R283, R290) -/

section Upkeep

variable {s : State} {chB : Bool} (hr : dramRuns s chB = true)
include hr

theorem exec_dramResilver : exec (.dramResilver chB) s = .next (if (dramCh s chB).stale = true ∧ dramRuns s (!chB) = true then
    updDram s chB fun x => { x with resilvering := true } else s) := by
  show execDramResilver chB s = _
  simp only [execDramResilver, hr, Bool.true_and, Bool.and_eq_true]

omit hr in
theorem exec_dramResilverComplete_waits (h : (dramCh s chB).resilvering = false ∨ dramRuns s (!chB) = false ∨
    (dramCh s chB).panicSince.isSome = true) : exec (.dramResilverComplete chB) s = .next s :=
  next_if_pos (by rcases h with h | h | h <;> simp [h]) rfl

theorem exec_dramResilverComplete_ends (h : (dramCh s chB).resilvering = true) (ho : dramRuns s (!chB) = true)
    (hp : (dramCh s chB).panicSince = none) : exec (.dramResilverComplete chB) s =
      .next (resilverEaves (updDram s chB (resilvered (dramCh s (!chB)) (mirroredBytes s))) chB) :=
  next_if_neg (by simp [hr, h, ho, hp]) rfl

omit hr in
theorem exec_dram_battened (h : s.boot.phase = 6) : (∀ ts, exec (.dramTempPoll chB ts) s = .next s) ∧
    ∀ r dqs rate, exec (.dramDriftTrack chB r dqs rate) s = .next s :=
  ⟨fun _ => next_if_pos (by simp [h]) rfl, fun _ _ _ => next_if_pos (by simp [h]) rfl⟩

/-- A channel's ranks with the temperatures that a poll gives. -/
def temped (ts : List Int) (x : DramCh) : DramCh :=
  { x with ranks := x.ranks.zipIdx.map fun e => { e.1 with temp := ts.getD e.2 e.1.temp } }

/-- A poll notes whether the channel is in band D3. -/
def bandNoted (t : State) (chB hot : Bool) : State := { t with thm := { t.thm with d3 := vecUpd t.thm.d3 (dramNo chB) fun _ => hot } }

/-- Band D3 holds the device at Warm at least. -/
def warmed (u : State) : State := if u.thm.step = .normal then setStep u 1 else u

/-- What follows from the temperatures of a channel (R283, R333). -/
def bandJudged (t : State) (chB : Bool) : State :=
  let hot := decide (95 ≤ hottestRank (dramCh t chB))
  let u := bandNoted t chB hot
  let u := if hot && !vecGet false t.thm.d3 (dramNo chB) then raiseFault u (dramSrc chB 2) (capOf 7 5 0 (dramIsland chB) (dramIsland chB)) else u
  if hot && u.thm.step == .normal then setStep u 1 else u

theorem exec_dramTempPoll (hp : s.boot.phase ≠ 6) (ts : List Int) :
    exec (.dramTempPoll chB ts) s = .next (bandJudged (updDram s chB (temped ts)) chB) := next_if_neg (by simp [hr, hp]) rfl

omit hr in
theorem bandJudged_cool (h : hottestRank (dramCh s chB) < 95) : bandJudged s chB = bandNoted s chB false := by
  simp [bandJudged, Int.not_le.2 h]

omit hr in
/-- The source is raised as the channel gets into the band. -/
theorem bandJudged_hot (h : 95 ≤ hottestRank (dramCh s chB)) : bandJudged s chB = warmed (if vecGet false s.thm.d3 (dramNo chB) then
    bandNoted s chB true else raiseFault (bandNoted s chB true) (dramSrc chB 2) (capOf 7 5 0 (dramIsland chB) (dramIsland chB))) := by
  cases hd : vecGet false s.thm.d3 (dramNo chB) <;> simp [bandJudged, h, hd, warmed]

/-- A rank's record with the drift that is tracked. -/
def drifted (dqs rate : Nat) (r : RankSt) : RankSt := { r with dqs := dqs, rate := rate }

omit hr in
theorem exec_dramDriftTrack_resting {r dqs rate : Nat} (h : (dramCh s chB).ranks.length ≤ r ∨ (rankOf (dramCh s chB) r).use ≠ .inUse) :
    exec (.dramDriftTrack chB r dqs rate) s = .next s := next_if_pos (by rcases h with h | h <;> simp [h]) rfl

theorem exec_dramDriftTrack_tracked {r : Nat} (hp : s.boot.phase ≠ 6) (hl : r < (dramCh s chB).ranks.length)
    (hu : (rankOf (dramCh s chB) r).use = .inUse) (dqs rate : Nat) : exec (.dramDriftTrack chB r dqs rate) s = .next
      (if retrainNeeded s.prof (drifted dqs rate (rankOf (dramCh s chB) r)) = true ∧
          (drifted dqs rate (rankOf (dramCh s chB) r)).retrainDue = false then
        if spareOf (dramCh s chB) = none then
          rankEvent (updRank (updRank s chB r (drifted dqs rate)) chB r fun r => { r with retrainDue := true }) chB r 0 1
        else updRank (updRank s chB r (drifted dqs rate)) chB r fun r => { r with retrainDue := true }
      else updRank s chB r (drifted dqs rate)) := by
  have hrank : rankOf (dramCh (updRank s chB r (drifted dqs rate)) chB) r = drifted dqs rate (rankOf (dramCh s chB) r) := by
    rw [dramCh_updRank]
    exact vecGet_vecUpd_self _ _ _ _ hl
  refine next_if_neg (by simp [hr, hp, hl, hu]) ?_
  show (if (rankOf (dramCh (updRank s chB r (drifted dqs rate)) chB) r).retrainDue || !retrainNeeded (updRank s chB r (drifted dqs rate)).prof
    (rankOf (dramCh (updRank s chB r (drifted dqs rate)) chB) r) then _ else _) = _
  rw [hrank, updRank_prof, ← ite_not]
  simp only [Bool.or_eq_true, Bool.not_eq_true', not_or, Bool.not_eq_true, Bool.not_eq_false, and_comm, Option.isNone_iff_eq_none]
  rfl

end Upkeep

/-! ### Migration and swap (R293) -/

section Migration

variable {s : State} {chB : Bool}

theorem exec_rankMigration (s : State) (chB : Bool) (r : Nat) : exec (.rankMigration chB r) s = .next
    (if dramRuns s chB = true ∧ dramRuns s (!chB) = true ∧ migrationRuns s = false ∧ (spareOf (dramCh s chB)).isSome = true ∧
        r < (dramCh s chB).ranks.length ∧ migrationDue (dramCh s chB) r = true ∧ plannedOk s = true
      then startMigration s chB r none else s) := by
  show execRankMigration chB r s = _
  simp only [execRankMigration, Bool.and_eq_true, Bool.not_eq_true', decide_eq_true_eq, and_assoc]

theorem exec_rankMigrationSwap_waits {ok : Bool} (h : (dramCh s chB).migrating = none ∨ dramRuns s chB = false ∨
    (dramCh s chB).panicSince.isSome = true ∨ plannedOk s = false) : exec (.rankMigrationSwap chB ok) s = .next s := by
  show execRankMigrationSwap chB ok s = _
  unfold execRankMigrationSwap
  cases hm : (dramCh s chB).migrating with
  | none => simp only [hm]
  | some m =>
    simp only [hm]
    exact next_if_pos (by rcases h with h | h | h | h <;> simp_all) rfl

/-- A channel at a swap: the migration over, the spare in the old rank's place, the old rank's repairs forgotten. -/
def swapped (old sp : Nat) (y : DramCh) : DramCh :=
  { y with migrating := none, migrateOp := none, dualWrite := false,
           rankMap := y.rankMap.map fun r => if r = old then sp else r,
           noRepair := y.noRepair.filter (·.1 != old),
           excludedRows := y.excludedRows.filter (·.1 != old),
           corrected := y.corrected.filter (·.1.1 != old) }

/-- The old rank at a swap: the spare, or excluded. -/
def retiredRank (keep ok : Bool) (r : RankSt) : RankSt :=
  { r with use := if keep then .spare else .excluded, selfRefresh := keep, retrainDue := false, trainTemp := r.temp,
           trainRate := r.rate, passes := 0, pendingRepair := if ok then [] else r.pendingRepair }

/-- The channel after a swap (R293 steps 3 and 4). -/
def ranksSwapped (s : State) (chB : Bool) (old sp : Nat) (keep ok : Bool) : State :=
  updRank (updRank (updDram (plannedStep s) chB (swapped old sp)) chB sp fun r => { r with use := .inUse }) chB old (retiredRank keep ok)

theorem exec_rankMigrationSwap_ends {ok : Bool} {old sp : Nat} (hm : (dramCh s chB).migrating = some (old, sp))
    (hr : dramRuns s chB = true) (hp : (dramCh s chB).panicSince = none) (ho : plannedOk s = true) :
    ∃ t, exec (.rankMigrationSwap chB ok) s = .next t ∧
      t.dram = (ranksSwapped s chB old sp (ok && !(dramCh s chB).noRepair.any (·.1 == old)) ok).dram := by
  show ∃ t, execRankMigrationSwap chB ok s = .next t ∧ _
  unfold execRankMigrationSwap
  simp only [hm]
  refine ⟨_, next_if_neg (by simp [hr, hp, ho]) rfl, ?_⟩
  cases ok with
  | true => exact (endLong?_dram ..).trans (rankEvent_dram ..)
  | false => exact (endLong?_dram ..).trans ((raiseFault_dram ..).trans (rankEvent_dram ..))

theorem dramCh_ranksSwapped (s : State) (chB : Bool) (old sp : Nat) (keep ok : Bool) :
    dramCh (ranksSwapped s chB old sp keep ok) chB = { swapped old sp (dramCh s chB) with
      ranks := vecUpd (vecUpd (dramCh s chB).ranks sp fun r => { r with use := .inUse }) old (retiredRank keep ok) } := by
  have hplanned : dramCh (plannedStep s) chB = dramCh s chB := dramCh_congr rfl chB
  rw [ranksSwapped, dramCh_updRank, dramCh_updRank, dramCh_updDram, hplanned]
  rfl

variable {old sp : Nat} {keep ok : Bool}

theorem rankOf_ranksSwapped_spare (hne : old ≠ sp) (hs : sp < (dramCh s chB).ranks.length) :
    (rankOf (dramCh (ranksSwapped s chB old sp keep ok) chB) sp).use = .inUse := by
  rw [dramCh_ranksSwapped, rankOf, vecGet_vecUpd_ne _ _ _ hne, vecGet_vecUpd_self _ _ _ _ hs]

theorem rankOf_ranksSwapped_old (hne : old ≠ sp) (ho : old < (dramCh s chB).ranks.length) :
    rankOf (dramCh (ranksSwapped s chB old sp keep ok) chB) old = retiredRank keep ok (rankOf (dramCh s chB) old) := by
  rw [dramCh_ranksSwapped, rankOf, vecGet_vecUpd_self _ _ _ _ (by rwa [length_vecUpd]), vecGet_vecUpd_ne _ _ _ hne.symm]
  rfl

/-- The old rank is kept where its retraining succeeded and no bank of it is out of repair resources. -/
theorem keeps_iff (x : DramCh) (old : Nat) (ok : Bool) : (ok && !x.noRepair.any (·.1 == old)) = true ↔
    ok = true ∧ ∀ e ∈ x.noRepair, e.1 ≠ old := by simp

end Migration

/-! ### Scrubbing and repair (R295, R296) -/

section Scrub

variable {s : State} {chB : Bool} {a : Nat} {o o' : CodewordRead}

theorem exec_scrubRead_panics (h : (dramCh s chB).panicSince.isSome = true) : exec (.scrubRead chB a ⟨o, o'⟩) s = .next s :=
  next_if_pos (by simp [h]) rfl

/-- The scrub's address once it has read a codeword. -/
def scrubbed (s : State) (chB : Bool) (a : Nat) : State := updDram s chB fun y => { y with scrubAt := a + 1 }

theorem scrubbed_eq (s : State) (chB : Bool) (a : Nat) : (updDram s chB fun y => { y with scrubAt := a + 1 }) = scrubbed s chB a := rfl

theorem scrubbed_other (s : State) (chB : Bool) (a : Nat) : dramCh (scrubbed s chB a) (!chB) = dramCh s (!chB) := by
  cases chB <;> rfl

theorem isMirrored_scrubbed (s : State) (chB : Bool) (a b : Nat) : isMirrored (scrubbed s chB a) b = isMirrored s b := by
  cases chB <;> rfl

theorem dramRuns_scrubbed (s : State) (chB c : Bool) (a : Nat) : dramRuns (scrubbed s chB a) c = dramRuns s c :=
  isRunning_congr (updDram_isl ..) _

/-- A row with one more corrected codeword within its 24 h. -/
def countCorrected (t : State) (a : Nat) (y : DramCh) : DramCh :=
  { y with corrected := tblSet (rowOf (a * 64)) (correctedIn t y (rowOf (a * 64)) ++ [opUs t]) y.corrected }

/-- A codeword's read delivers data. -/
def readable (r : ReadOutcome) : Bool := r == .clean || r == .corrected

theorem readable_iff (r : ReadOutcome) : readable r = true ↔ r = .clean ∨ r = .corrected := by simp [readable]

/-- A codeword that the scrub finds uncorrectable (R295); `good` says whether the other channel's copy can be read. -/
def scrubLost (t : State) (chB : Bool) (a : Nat) (good : Bool) : State :=
  if !isMirrored t (a * 64) then dropFrame t chB
  else if dramRuns t (!chB) && isFresh (dramCh t (!chB)) (granule (a * 64)) && good then
    raiseFault (updDram t chB (rewritten a (dramCh t (!chB)))) (dramSrc chB 0) (capOf 7 0 (a * 64) (dramIsland chB) (dramIsland chB))
  else poisonBoth t chB a

section Reads

variable (hr : dramRuns s chB = true) (hp : (dramCh s chB).panicSince = none)
include hr hp

theorem exec_scrubRead_rests (h : isFresh (dramCh s chB) (granule (a * 64)) = false ∨ readCodeword (dramCh s chB) a o = .poison ∨
    readCodeword (dramCh s chB) a o = .clean) : exec (.scrubRead chB a ⟨o, o'⟩) s = .next (scrubbed s chB a) := by
  refine next_if_neg (by simp [hr, hp]) ?_
  cases hf : isFresh (dramCh s chB) (granule (a * 64)) with
  | false => rfl
  | true =>
    rcases h with h | h | h
    · exact absurd (h.symm.trans hf) Bool.false_ne_true
    · simp only [h]
      rfl
    · simp only [h]
      rfl

variable (hf : isFresh (dramCh s chB) (granule (a * 64)) = true)
include hf

theorem exec_scrubRead_corrected (h : readCodeword (dramCh s chB) a o = .corrected) : exec (.scrubRead chB a ⟨o, o'⟩) s =
    .next (updDram (scrubbed s chB a) chB (countCorrected (scrubbed s chB a) a)) := by
  refine next_if_neg (by simp [hr, hp]) ?_
  simp only [hf, h]
  rfl

theorem exec_scrubRead_uncorrectable (h : readCodeword (dramCh s chB) a o = .uncorrectable) : exec (.scrubRead chB a ⟨o, o'⟩) s =
    .next (scrubLost (scrubbed s chB a) chB a (readable (readCodeword (dramCh s (!chB)) a o'))) := by
  refine next_if_neg (by simp [hr, hp]) ?_
  simp only [hf, h, Bool.not_true, Bool.false_eq_true, if_false, scrubbed_eq, scrubbed_other]
  unfold scrubLost
  rw [scrubbed_other]
  generalize readCodeword (dramCh s (!chB)) a o' = r
  cases r <;> rfl

end Reads

variable {t : State}

theorem scrubLost_unmirrored (good : Bool) (h : isMirrored t (a * 64) = false) : scrubLost t chB a good = dropFrame t chB :=
  if_pos (by simp [h])

theorem scrubLost_mirrored (good : Bool) (h : isMirrored t (a * 64) = true) : scrubLost t chB a good =
    if dramRuns t (!chB) = true ∧ isFresh (dramCh t (!chB)) (granule (a * 64)) = true ∧ good = true then
      raiseFault (updDram t chB (rewritten a (dramCh t (!chB)))) (dramSrc chB 0) (capOf 7 0 (a * 64) (dramIsland chB) (dramIsland chB))
    else poisonBoth t chB a := by
  unfold scrubLost
  rw [if_neg (by simp [h])]
  simp only [Bool.and_eq_true, and_assoc]

end Scrub

section SoftPpr

variable {s : State} {chB : Bool} {r b row : Nat}

theorem exec_softPpr_early {ok : Bool} (h : (dramCh s chB).ranks.length ≤ r ∨
    (correctedIn s (dramCh s chB) (r, b, row)).length < s.prof.pprThreshold) : exec (.softPpr chB r b row ok) s = .next s :=
  next_if_pos (by rcases h with h | h <;> simp [h]) rfl

/-- A row's count starts again. -/
def rowForgotten (s : State) (chB : Bool) (r b row : Nat) : State := updDram s chB fun y => { y with corrected := tblDel (r, b, row) y.corrected }

/-- A row without a resource is left unused, and its bank is out of them. -/
def rowUnused (r b row : Nat) (y : DramCh) : DramCh :=
  { y with noRepair := if (r, b) ∈ y.noRepair then y.noRepair else y.noRepair ++ [(r, b)], excludedRows := y.excludedRows ++ [(r, b, row)] }

/-- What leaving a row unused raises. -/
def rowRaised (s : State) (chB : Bool) (r b row : Nat) : State :=
  raiseFault (rankEvent (updDram (rowForgotten s chB r b row) chB (rowUnused r b row)) chB r 3 1) (dramSrc chB 5)
    (capOf 7 5 0 (dramIsland chB) (dramIsland chB))

variable (hl : r < (dramCh s chB).ranks.length) (hc : s.prof.pprThreshold ≤ (correctedIn s (dramCh s chB) (r, b, row)).length)
include hl hc

omit hl hc in
theorem exec_softPpr_waits (h : plannedOk s = false) : exec (.softPpr chB r b row true) s = .next s := next_if_pos (by simp [h]) rfl

theorem exec_softPpr_repairs (hr : dramRuns s chB = true) (h : plannedOk s = true) : exec (.softPpr chB r b row true) s =
    .next (rankEvent (updRank (plannedStep (rowForgotten s chB r b row)) chB r fun x =>
      { x with pendingRepair := x.pendingRepair ++ [(b, row)] }) chB r 3 0) :=
  next_if_neg (by simp [hr, hl, hc, h]) rfl

theorem exec_softPpr_moves (hr : dramRuns s chB = true) : exec (.softPpr chB r b row false) s =
    .next (if (spareOf (dramCh (rowRaised s chB r b row) chB)).isSome ∧ dramRuns (rowRaised s chB r b row) (!chB) = true ∧
        migrationRuns (rowRaised s chB r b row) = false ∧ (rankOf (dramCh s chB) r).use = .inUse
      then startMigration (rowRaised s chB r b row) chB r none else rowRaised s chB r b row) := by
  have hform : exec (.softPpr chB r b row false) s = .next (if ((spareOf (dramCh (rowRaised s chB r b row) chB)).isSome &&
      dramRuns (rowRaised s chB r b row) (!chB) && !migrationRuns (rowRaised s chB r b row) && (rankOf (dramCh s chB) r).use == .inUse) = true
      then startMigration (rowRaised s chB r b row) chB r none else rowRaised s chB r b row) := by
    refine next_if_neg (by simp [hr, hl, hc]) ?_
    simp only [rowRaised, rowForgotten, List.contains_iff_mem]
    rfl
  rw [hform]
  simp only [Bool.and_eq_true, Bool.not_eq_true', beq_iff_eq, and_assoc]

end SoftPpr

/-! ### The retraining request (R294) -/

section Retrain

variable {s : State} {q : HmpHdr} {c r sp : Nat}

/-- A DRAM Rank Retrain of a channel that exists, which the gate lets through. -/
def retrainServed (s : State) (q : HmpHdr) (chB : Bool) (rank : Nat) : State :=
  match spareOf (dramCh s chB) with
  | none => answer s q 0x0403 hsConflict 1 []
  | some sp =>
    if (dramCh s chB).ranks.length ≤ rank then answer s q 0x0403 hsUnknown 1 []
    else if rank = sp || (rankOf (dramCh s chB) rank).use != .inUse then answer s q 0x0403 hsOutOfRange 1 []
    else if migrationRuns s || !dramRuns s (!chB) || !dramRuns s chB then answer s q 0x0403 hsConflict 2 []
    else startLong s q 0x0403 fun s h => startMigration s chB rank (some (q.sender, h))

theorem dramRankRetrain_served (hc : c < 2) (s : State) :
    (if 1 < c then rejectWrite s q 0x0403 hsOutOfRange 0 else retrainServed s q (c == 1) r) = retrainServed s q (c == 1) r :=
  if_neg (by omega)

theorem retrainServed_spare {chB : Bool} (h : spareOf (dramCh s chB) = some sp) (hl : r < (dramCh s chB).ranks.length) :
    retrainServed s q chB r = if r = sp ∨ (rankOf (dramCh s chB) r).use ≠ .inUse then answer s q 0x0403 hsOutOfRange 1 []
      else if migrationRuns s = true ∨ dramRuns s chB = false ∨ dramRuns s (!chB) = false then answer s q 0x0403 hsConflict 2 []
      else startLong s q 0x0403 fun s h => startMigration s chB r (some (q.sender, h)) := by
  have hor : (migrationRuns s || !dramRuns s (!chB) || !dramRuns s chB) = true ↔
      migrationRuns s = true ∨ dramRuns s chB = false ∨ dramRuns s (!chB) = false := by
    simp only [Bool.or_eq_true, Bool.not_eq_true', or_assoc, or_comm (a := dramRuns s (!chB) = false)]
  simp only [retrainServed, h, if_neg (Nat.not_le.2 hl), hor, Bool.or_eq_true, decide_eq_true_eq, bne_iff_ne]

end Retrain

section Sources

variable (chB : Bool)

theorem dramSrc_bad : dramSrc chB 0 = if chB then 285 else 279 := by cases chB <;> rfl

theorem dramSrc_hot : dramSrc chB 2 = if chB then 287 else 281 := by cases chB <;> rfl

theorem dramSrc_unused : dramSrc chB 5 = if chB then 290 else 284 := by cases chB <;> rfl

end Sources

/-- A poll's temperatures and its band, as one record. -/
theorem bandNoted_updDram (s : State) (chB hot : Bool) (f : DramCh → DramCh) : bandNoted (updDram s chB f) chB hot =
    { updDram s chB f with thm := { (updDram s chB f).thm with d3 := vecUpd s.thm.d3 (dramNo chB) fun _ => hot } } := by
  cases chB <;> rfl

/-- Settles O46: each command of a channel by its conditions, a swap by the channel it leaves, a request by the spare there is. -/
theorem dramRanks : Obligations.DramRanks := by
  refine ⟨fun s chB hr => ⟨fun hs ho => ?_, fun h => ?_, exec_dramResilverComplete_waits, fun h ho hp =>
      ⟨exec_dramResilverComplete_ends hr h ho hp, fun o lim => ⟨rfl, rfl⟩⟩, exec_dram_battened, fun ts hp => ⟨fun hcool => ?_, fun hhot =>
        ⟨fun hd => ?_, fun hd => ?_⟩⟩,
      fun r dqs rate h => exec_dramDriftTrack_resting h, fun r dqs rate hp hl hu => ⟨fun hn => ?_, fun hn hd => ⟨fun hsp => ?_, fun hsp => ?_⟩⟩,
      fun r h => ?_, fun r sp hsp hl => ⟨fun ho hm hd hk => ⟨?_, startMigration_migrating hsp none⟩, fun h => ?_⟩,
      fun a o o' h => exec_scrubRead_panics h, fun a o o' hp h => exec_scrubRead_rests hr hp h, fun a o o' hp hf =>
        ⟨exec_scrubRead_corrected hr hp hf, fun hu => ⟨fun hm => ?_, fun hm => ⟨fun h => ?_, fun ho hfo h => ?_⟩⟩⟩,
      fun r b row ok h => exec_softPpr_early h, fun r b row hl hc => ⟨exec_softPpr_waits, exec_softPpr_repairs hl hc hr, ?_⟩⟩,
    fun s chB ok => ⟨exec_rankMigrationSwap_waits, fun old sp hm hne hr hp ho hlo hls => ?_⟩,
    fun s q c r hq => ⟨fun hc => hq.next (if_pos hc), fun hc => ⟨fun hn => ?_, fun sp hsp => ⟨fun hl => ?_, fun hl hu => ?_, fun hl hne hu =>
      ⟨fun h => ?_, fun hm hr ho hlive => ?_⟩⟩⟩⟩⟩
  · rw [exec_dramResilver hr, if_pos ⟨hs, ho⟩]
  · rw [exec_dramResilver hr, if_neg]
    rintro ⟨hs, ho⟩
    exact h.elim (fun h => Bool.false_ne_true (h.symm.trans hs)) fun h => Bool.false_ne_true (h.symm.trans ho)
  · rw [exec_dramTempPoll hr hp, bandJudged_cool (by rwa [dramCh_updDram]), bandNoted_updDram]
    rfl
  · rw [exec_dramTempPoll hr hp, bandJudged_hot (by rwa [dramCh_updDram]), if_pos (by rwa [updDram_thm]), bandNoted_updDram]
    rfl
  · rw [exec_dramTempPoll hr hp, bandJudged_hot (by rwa [dramCh_updDram]), if_neg (by simp [hd]), bandNoted_updDram, dramSrc_hot]
    rfl
  · rw [exec_dramDriftTrack_tracked hr hp hl hu, if_neg]
    · rfl
    · rintro ⟨hneed, hdue⟩
      exact hn.elim (fun h => Bool.false_ne_true (h.symm.trans hneed)) fun h => Bool.false_ne_true (hdue.symm.trans h)
  · rw [exec_dramDriftTrack_tracked hr hp hl hu, if_pos ⟨hn, hd⟩, if_neg (Option.isSome_iff_ne_none.1 hsp)]
    rfl
  · rw [exec_dramDriftTrack_tracked hr hp hl hu, if_pos ⟨hn, hd⟩, if_pos hsp]
    rfl
  · rw [exec_rankMigration, if_neg]
    rintro ⟨-, -, -, hsp, hl, -, -⟩
    exact h.elim (Option.isSome_iff_ne_none.1 hsp) (Nat.not_le.2 hl)
  · rw [exec_rankMigration, if_pos ⟨hr, ho, hm, by simp [hsp], hl, hd, hk⟩]
  · rw [exec_rankMigration, if_neg]
    rintro ⟨-, ho, hm, -, -, hd, hk⟩
    simp [ho, hm, hd, hk] at h
  · rw [exec_scrubRead_uncorrectable hr hp hf hu, scrubLost_unmirrored _ (by rwa [isMirrored_scrubbed])]
    rfl
  · rw [exec_scrubRead_uncorrectable hr hp hf hu, scrubLost_mirrored _ (by rwa [isMirrored_scrubbed]), dramRuns_scrubbed, scrubbed_other,
      if_neg]
    · rfl
    · rintro ⟨ho, hfo, hgood⟩
      rw [readable_iff] at hgood
      rcases h with h | h | h | h
      · exact Bool.false_ne_true (h.symm.trans ho)
      · exact Bool.false_ne_true (h.symm.trans hfo)
      · simp [h] at hgood
      · simp [h] at hgood
  · rw [exec_scrubRead_uncorrectable hr hp hf hu, scrubLost_mirrored _ (by rwa [isMirrored_scrubbed]), dramRuns_scrubbed, scrubbed_other,
      if_pos ⟨ho, hfo, (readable_iff _).2 h⟩, dramSrc_bad]
    rfl
  · rw [exec_softPpr_moves hl hc hr, rowRaised, dramSrc_unused]
    rfl
  · obtain ⟨t, ht, hdram⟩ := exec_rankMigrationSwap_ends (ok := ok) hm hr hp ho
    have hch := dramCh_congr hdram chB
    refine ⟨t, ht, ?_⟩
    rw [hch, rankOf_ranksSwapped_spare hne hls, rankOf_ranksSwapped_old hne hlo, dramCh_ranksSwapped]
    refine ⟨rfl, rfl, rfl, fun hk => ?_, fun hk => ?_, rfl⟩
    · rw [(keeps_iff ..).2 hk]
      exact ⟨rfl, rfl⟩
    · rw [Bool.eq_false_iff.2 ((keeps_iff ..).not.2 hk)]
      rfl
  · exact hq.answers ((dramRankRetrain_served hc s).trans (by rw [retrainServed, hn]))
  · exact hq.answers ((dramRankRetrain_served hc s).trans (by simp only [retrainServed, hsp]; exact if_pos hl))
  · exact hq.answers ((dramRankRetrain_served hc s).trans ((retrainServed_spare hsp hl).trans (if_pos hu)))
  · exact hq.answers ((dramRankRetrain_served hc s).trans
      ((retrainServed_spare hsp hl).trans ((if_neg (not_or.2 ⟨hne, not_not.2 hu⟩)).trans (if_pos h))))
  · exact hq.starts ((dramRankRetrain_served hc s).trans ((retrainServed_spare hsp hl).trans ((if_neg (not_or.2 ⟨hne, not_not.2 hu⟩)).trans
      (if_neg (by simp [hm, hr, ho]))))) hlive fun t n => startMigration_hmp ..

end Sys2Proof.Machine

namespace Sys2Proof.Machine

/-! ### While the Airflow island does not run (R344 to R354) -/

section NotRunning

variable {s : State} (h : isRunning s 9 = false)
include h

/-- The timers of the blower do nothing. -/
theorem exec_blowerTimers_ignored : exec .blowerOffTimer s = .next s ∧ exec .driverFaultRetry s = .next s ∧ exec .alignEnd s = .next s ∧
    exec .stallRestart s = .next s := by
  show execBlowerOffTimer s = _ ∧ execDriverFaultRetry s = _ ∧ execAlignEnd s = _ ∧ execStallRestart s = _
  refine ⟨?_, ?_, ?_, ?_⟩
  · unfold execBlowerOffTimer
    split
    · exact next_if_pos (by simp [h]) rfl
    · rfl
  · unfold execDriverFaultRetry
    split
    · exact next_if_pos (by simp [h]) rfl
    · rfl
  · unfold execAlignEnd
    split
    · exact next_if_pos (by simp [h]) rfl
    · rfl
  · unfold execStallRestart
    split
    · exact next_if_pos (by simp [h]) rfl
    · rfl

/-- Neither do the loops and what the front end reports. -/
theorem exec_blowerSignals_ignored (a b : Nat) (x : Int) (l : Bool) (c : StallCause) : exec .speedLoopStep s = .next s ∧
    exec (.currentLoopPeriod a b x) s = .next s ∧ exec .driverFault s = .next s ∧ exec (.catchSpinEnd l x) s = .next s ∧
    exec (.blowerStall c) s = .next s ∧ exec (.busClampOn a) s = .next s ∧ exec (.clampFault l) s = .next s ∧
    exec (.busOvervoltage a) s = .next s :=
  ⟨next_if_pos (by simp [h]) rfl, next_if_pos (by simp [h]) rfl, next_if_pos (by simp [h]) rfl, next_if_pos (by simp [h]) rfl,
    next_if_pos (by simp [h]) rfl, next_if_pos (by simp [h]) rfl, next_if_pos (by simp [h]) rfl, next_if_pos (by simp [h]) rfl⟩

end NotRunning

/-! ### Driver faults and stalls (R344, R351) -/

section Running

variable {s : State} (hr : isRunning s 9 = true)
include hr

theorem exec_driverFault : exec .driverFault s =
    .next (if s.air.absent then s else driverReact (raiseFault s 313 (capOf 8 5 0 9 9))) := by
  show execDriverFault s = _
  simp only [execDriverFault, hr, Bool.not_true, Bool.false_or]

theorem exec_driverFaultRetry_since {t : Nat} (h : s.air.driverFaultAt = some t) : exec .driverFaultRetry s = .next
    (if now s < t + 100000 then s else if s.air.stopping then finishStop s
      else if s.air.stuckClosed then { s with air := { s.air with driverFaultAt := none } } else restartBlower s) := by
  show execDriverFaultRetry s = _
  simp only [execDriverFaultRetry, h, hr, Bool.not_true, Bool.false_or, decide_eq_true_eq]

omit hr in
theorem exec_driverFaultRetry_none (h : s.air.driverFaultAt = none) : exec .driverFaultRetry s = .next s := by
  show execDriverFaultRetry s = _
  simp only [execDriverFaultRetry, h]

theorem exec_stallRestart_since {t : Nat} (h : s.air.stallAt = some t) : exec .stallRestart s = .next
    (if now s < t + 5000000 then s else restartBlower s) := by
  show execStallRestart s = _
  simp only [execStallRestart, h, hr, Bool.not_true, Bool.false_or, decide_eq_true_eq]

omit hr in
theorem exec_stallRestart_none (h : s.air.stallAt = none) : exec .stallRestart s = .next s := by
  show execStallRestart s = _
  simp only [execStallRestart, h]

theorem exec_blowerStall {c : StallCause} (h : turning s.air.st = true)
    (hc : c ≠ .noStart ∨ s.air.st = .starting ∧ s.air.startAt + 10000000 ≤ now s) : exec (.blowerStall c) s = .next (stallBlower s) := by
  refine next_if_neg ?_ rfl
  rcases hc with hc | ⟨hst, ht⟩
  · simp [hr, h, hc]
  · simp [hr, hst, ht, turning]

omit hr in
theorem exec_blowerStall_early (h : now s < s.air.startAt + 10000000 ∨ s.air.st ≠ .starting) :
    exec (.blowerStall .noStart) s = .next s := next_if_pos (by rcases h with h | h <;> simp [h]) rfl

omit hr in
theorem exec_blowerStall_still {c : StallCause} (h : turning s.air.st = false) : exec (.blowerStall c) s = .next s :=
  next_if_pos (by simp [h]) rfl

/-! ### The bus clamp and overvoltage (R352, R354, R441) -/

/-- The clamp's position at a reading: closed at CLAMP_ON, open at CLAMP_OFF, else as it is. -/
def clampAt (s : State) (mv : Nat) (was : Bool) : Bool :=
  if s.prof.clampOn * 100 ≤ mv then true else if mv ≤ s.prof.clampOff * 100 then false else was

/-- A reading of the bus is taken, and the clamp follows it. -/
def busRead (s : State) (mv : Nat) : State :=
  let t := judgeBus s mv
  { t with air := { t.air with
    busMv := mv, clampSince := if clampAt s mv t.air.clamp = t.air.clamp then t.air.clampSince else some (now s)
    clamp := clampAt s mv t.air.clamp } }

omit hr in
/-- Judging the carrier changes the blower's record alone, and not whether an overvoltage stopped it. -/
theorem judgeBus_effect (s : State) (mv : Nat) : ∃ a, judgeBus s mv = { s with air := a } ∧ a.busOv = s.air.busOv := by
  unfold judgeBus
  split
  · exact ⟨_, rfl, rfl⟩
  · dsimp only
    split <;> exact ⟨_, rfl, rfl⟩

omit hr in
theorem judgeBus_judged (h : s.air.judged = true) (mv : Nat) : judgeBus s mv = s := if_pos h

omit hr in
/-- The first reading says whether the carrier has a blower. -/
theorem judgeBus_first (h : s.air.judged = false) (mv : Nat) : (judgeBus s mv).air.judged = true ∧
    ((judgeBus s mv).air.absent = true ↔ mv < 2000) ∧
    (mv < 2000 → (judgeBus s mv).air.st = .off ∧ (judgeBus s mv).air.drvEn = false ∧ (judgeBus s mv).air.pwm = pwmLow) := by
  unfold judgeBus
  rw [if_neg (by simp [h])]
  by_cases hmv : mv < 2000
  · simp [hmv, blowerOff]
  · simp [hmv]

theorem exec_busClampOn (mv : Nat) : exec (.busClampOn mv) s = .next
    (if s.air.busOv = true ∧ mv < s.prof.clampOff * 100 then restartBlower (busRead s mv) else busRead s mv) := by
  obtain ⟨a, ha, hov⟩ := judgeBus_effect s mv
  refine next_if_neg (by simp [hr]) ?_
  unfold busRead
  rw [ha]
  simp only [hov, beq_iff_eq, Bool.and_eq_true, decide_eq_true_eq]
  rfl

theorem exec_clampFault {b : Bool} (h : s.air.absent = false) (hc : s.air.clamp ≠ b)
    (ht : ∀ t, s.air.clampSince = some t → t + 20 ≤ now s) :
    exec (.clampFault b) s = .next (clampReact (raiseFault s 314 (capOf 8 5 0 9 9)) b) := by
  refine next_if_neg ?_ rfl
  cases hs : s.air.clampSince with
  | none => simp [hr, h, hc]
  | some t => simp [hr, h, hc, ht t hs]

omit hr in
theorem exec_clampFault_ignored {b : Bool} (h : s.air.absent = true ∨ s.air.clamp = b ∨ ∃ t, s.air.clampSince = some t ∧ now s < t + 20) :
    exec (.clampFault b) s = .next s := by
  refine next_if_pos ?_ rfl
  rcases h with h | h | ⟨t, ht, hn⟩
  · simp [h]
  · simp [h]
  · simp [ht, hn]

omit hr in
theorem exec_busOvervoltage_below {mv : Nat} (h : mv < s.prof.busOv * 100) : exec (.busOvervoltage mv) s = .next s :=
  next_if_pos (by simp [h]) rfl

/-- A blower that an overvoltage stops: it coasts until the bus has fallen. -/
def coasting (s : State) (mv : Nat) : State :=
  let off := blowerOff { s with air := { s.air with busMv := mv, judged := true } } .off
  { off with air := { off.air with busOv := true } }

theorem exec_busOvervoltage_turning {mv : Nat} (h : s.prof.busOv * 100 ≤ mv) (ht : turning s.air.st = true) :
    exec (.busOvervoltage mv) s = .next (if s.air.stopping then finishStop (coasting s mv) else coasting s mv) :=
  next_if_neg (by simp [hr, h]) (if_pos ht)

theorem exec_busOvervoltage_still {mv : Nat} (h : s.prof.busOv * 100 ≤ mv) (ht : turning s.air.st = false) :
    exec (.busOvervoltage mv) s = .next { s with air := { s.air with busMv := mv, judged := true, pwm := pwmLow } } :=
  next_if_neg (by simp [hr, h]) (if_neg (by simp [ht]))

end Running

section Reactions

variable (s : State)

theorem driverReact_low : (driverReact s).air.pwm = pwmLow ∧ (driverReact s).air.drvEn = false := by
  unfold driverReact
  split <;> exact ⟨rfl, rfl⟩

/-- A blower that is neither locked out by stalls nor stopped for service waits for its retry. -/
theorem driverReact_waits (hl : s.air.st ≠ .stallLockout) (hs : s.air.st ≠ .stoppedForService) :
    (driverReact s).air.st = .driverLockout ∧ (driverReact s).air.driverFaultAt = some (now s) := by
  unfold driverReact
  split
  · next h => exact absurd h hl
  · next h => exact absurd h hs
  · exact ⟨rfl, rfl⟩

/-- The stalls counted with this one: it is the first after 60 s of running. -/
def stallCount (s : State) : Nat :=
  if (match s.air.runningSince with
    | some t => decide (t + 60000000 ≤ now s)
    | none => false) then 1 else s.air.stalls + 1

/-- The blower after its `n`th stall: the third is the lock-out. -/
def stalled (s : State) (n : Nat) : State :=
  let lock := decide (3 ≤ n)
  let s := blowerOff s (if lock then .stallLockout else .off)
  let s := { s with air := { s.air with stalls := n, stallAt := if lock then none else some (now s) } }
  let s := if lock then { endLong? s s.air.serviceOp hsConflict 0 with air := { s.air with serviceOp := none } } else s
  if s.air.stopping then finishStop s else s

theorem stallReact_eq : stallReact s = stalled s (stallCount s) := rfl

/-- The blower after a stall that no service stop waits for. -/
theorem stalled_air (h : s.air.stopping = false) (n : Nat) : (stalled s n).air =
    { (blowerOff s (if 3 ≤ n then .stallLockout else .off)).air with
      stalls := n, stallAt := if 3 ≤ n then none else some (now s), serviceOp := if 3 ≤ n then none else s.air.serviceOp } := by
  by_cases hlock : 3 ≤ n
  · simp [stalled, hlock, blowerOff, h]
  · simp [stalled, hlock, blowerOff, h, now]

theorem stallCount_ran (h : ∃ t, s.air.runningSince = some t ∧ t + 60000000 ≤ now s) : stallCount s = 1 := by
  obtain ⟨t, ht, hn⟩ := h
  simp [stallCount, ht, hn]

theorem stallCount_again (h : ¬∃ t, s.air.runningSince = some t ∧ t + 60000000 ≤ now s) : stallCount s = s.air.stalls + 1 := by
  cases hs : s.air.runningSince with
  | none => simp [stallCount, hs]
  | some t =>
    have hn : ¬t + 60000000 ≤ now s := fun hn => h ⟨t, hs, hn⟩
    simp [stallCount, hs, hn]

theorem mayStart_absent (h : s.air.absent = true) : mayStart s = false := by simp [mayStart, h]

theorem restartBlower_starts (h : mayStart s = true) : restartBlower s = catchSpin s := if_pos h

theorem restartBlower_stays_off (h : mayStart s = false) : restartBlower s =
    { blowerOff s .off with air := { (blowerOff s .off).air with stallAt := none, driverFaultAt := none, busOv := false } } :=
  if_neg (by simp [h])

end Reactions

/-- Settles O47: the island that does not run, each fault of one that does, and what the reactions leave. -/
theorem blowerProtection : Obligations.BlowerProtection := by
  refine ⟨fun s h a b x l c => ?_, fun s hr => ⟨fun ha => ?_, fun ha => ?_, fun t ht => ⟨fun hn => ?_, fun hn => ⟨fun hs => ?_, fun hs hc => ?_,
        fun hs hc => ?_⟩⟩, exec_driverFaultRetry_none, fun t ht => ⟨fun hn => ?_, fun hn => ?_⟩, exec_stallRestart_none,
      fun c ht hc => exec_blowerStall hr ht (.inl hc), fun _ h => exec_blowerStall_early h, fun hs hn => ?_,
      fun c h => exec_blowerStall_still h, fun mv => ?_, fun b ha hc ht => exec_clampFault hr ha hc ht,
      fun b h => exec_clampFault_ignored (.inr h), fun mv h => exec_busOvervoltage_below h, fun mv h ht => ⟨rfl, rfl, rfl, fun hs => ?_, fun hs => ?_⟩,
      fun mv h ht => exec_busOvervoltage_still hr h ht⟩, fun s => ⟨(driverReact_low s).1, (driverReact_low s).2, driverReact_waits s⟩,
    fun s hs => ?_, fun s => ⟨mayStart_absent s, fun h => ?_, fun h => ?_⟩⟩
  · obtain ⟨hoff, hretry, halign, hrestart⟩ := exec_blowerTimers_ignored h
    obtain ⟨hspeed, hcur, hdrv, hcatch, hstall, hon, hclamp, hov⟩ := exec_blowerSignals_ignored h a b x l c
    exact ⟨hspeed, hoff, hcur, hdrv, hretry, hcatch, halign, hstall, hrestart, hon, hclamp, hov⟩
  · exact ⟨by rw [exec_driverFault hr, if_pos ha], fun b => exec_clampFault_ignored (.inl ha)⟩
  · rw [exec_driverFault hr, if_neg (by simp [ha])]
  · rw [exec_driverFaultRetry_since hr ht, if_pos hn]
  · rw [exec_driverFaultRetry_since hr ht, if_neg (Nat.not_lt.2 hn), if_pos hs]
  · rw [exec_driverFaultRetry_since hr ht, if_neg (Nat.not_lt.2 hn), if_neg (by simp [hs]), if_pos hc]
  · rw [exec_driverFaultRetry_since hr ht, if_neg (Nat.not_lt.2 hn), if_neg (by simp [hs]), if_neg (by simp [hc])]
  · rw [exec_stallRestart_since hr ht, if_pos hn]
  · rw [exec_stallRestart_since hr ht, if_neg (Nat.not_lt.2 hn)]
  · exact exec_blowerStall hr (by rw [hs]; rfl) (.inr ⟨hs, hn⟩)
  · refine ⟨fun h => judgeBus_judged h mv, fun h => judgeBus_first h mv, fun h => ?_, fun hov hmv => ?_⟩
    · rw [exec_busClampOn hr, if_neg]
      · rfl
      · rintro ⟨hov, hmv⟩
        exact h.elim (fun h => Bool.false_ne_true (h.symm.trans hov)) (Nat.not_le.2 hmv)
    · rw [exec_busClampOn hr, if_pos ⟨hov, hmv⟩]
      rfl
  · rw [exec_busOvervoltage_turning hr h ht, if_neg (by simp [hs])]
    rfl
  · rw [exec_busOvervoltage_turning hr h ht, if_pos hs]
    rfl
  · rw [stallReact_eq, stalled_air s hs]
    refine ⟨rfl, rfl, fun hran => ?_, fun hran hlt => ?_, fun hran hle => ?_⟩
    · simp [stallCount_ran s hran, blowerOff]
    · simp [stallCount_again s hran, Nat.not_le.2 hlt, blowerOff]
    · simp [stallCount_again s hran, hle, blowerOff]
  · rw [restartBlower_starts s h]
    exact ⟨rfl, rfl, rfl, rfl⟩
  · rw [restartBlower_stays_off s h]
    exact ⟨rfl, rfl, rfl⟩

end Sys2Proof.Machine

namespace Sys2Proof.Machine

/-! ### The current loop (R346 to R348) -/

section Loops

variable {s : State}

/-- A period of the current loop: the vectors placed, the phase current noted, the controllers' voltages taken. -/
def currentStepped (s : State) (t1 t2 : Nat) (ma : Int) : State :=
  tickFree { s with air := { s.air with
    lastVectors := shiftVector s.prof.tMinSample t1 ++ shiftVector s.prof.tMinSample t2, phaseMa := ma,
    ud := Config.freeInt (2 * s.free), uq := Config.freeInt (2 * s.free + 1) } }

theorem exec_currentLoopPeriod_still {t1 t2 : Nat} {ma : Int} (h : turning s.air.st = false) :
    exec (.currentLoopPeriod t1 t2 ma) s = .next s := next_if_pos (by simp [h]) rfl

theorem exec_currentLoopPeriod_turning (hr : isRunning s 9 = true) (h : turning s.air.st = true) (t1 t2 : Nat) (ma : Int) :
    exec (.currentLoopPeriod t1 t2 ma) s = .next (if s.prof.iMax * 150 < ma.natAbs then stallBlower (currentStepped s t1 t2 ma)
      else currentStepped s t1 t2 ma) := next_if_neg (by simp [hr, h]) rfl

theorem shiftVector_of_le {m t : Nat} (h : m ≤ t) : shiftVector m t = [(t : Int), (t : Int)] := if_pos h

theorem shiftVector_of_lt {m t : Nat} (h : t < m) : shiftVector m t = [(m : Int), 2 * (t : Int) - m] := if_neg (Nat.not_le.2 h)

/-! ### The speed loop (R345, R346, R354) -/

/-- A step of the speed loop once the live values that are due have been taken and the demand is judged. -/
def speedStepped (s : State) : State :=
  if s.thm.warmLoad then (if turning s.air.st then blowerOff s .off else s)
  else if turning s.air.st then
    let s := if s.air.st == .catchSpin then s else { s with air := { s.air with speed := Config.freeInt s.free } }
    tickFree (resumeDone (stepTurning s))
  else if s.air.st == .off && s.air.stallAt.isNone && !s.air.busOv && mayStart s then catchSpin s
  else s

theorem exec_speedLoopStep (hr : isRunning s 9 = true) (hl : s.eav.powerLoss = false) :
    exec .speedLoopStep s = .next (speedStepped (judgeDemand (takeDue s 16))) := next_if_neg (by simp [hr, hl]) rfl

theorem exec_speedLoopStep_powerLoss (h : s.eav.powerLoss = true) : exec .speedLoopStep s = .next s := next_if_pos (by simp [h]) rfl

section Stepped

variable {u : State}

theorem speedStepped_warm (h : u.thm.warmLoad = true) : speedStepped u = if turning u.air.st then blowerOff u .off else u := if_pos h

variable (h : u.thm.warmLoad = false)
include h

theorem speedStepped_catchSpin (hs : u.air.st = .catchSpin) : speedStepped u = tickFree (resumeDone u) := by
  have hturn : stepTurning u = u := by
    unfold stepTurning
    simp only [hs]
  unfold speedStepped
  rw [if_neg (by simp [h]), if_pos (by rw [hs]; rfl)]
  simp only [hs, beq_self_eq_true, if_true, hturn]

theorem speedStepped_turning (hs : u.air.st = .starting ∨ u.air.st = .running ∨ u.air.st = .braking) : speedStepped u =
    tickFree (resumeDone (stepTurning { u with air := { u.air with speed := Config.freeInt u.free } })) := by
  have hcatch : (u.air.st == .catchSpin) = false := by rcases hs with hs | hs | hs <;> rw [hs] <;> rfl
  have hturn : turning u.air.st = true := by rcases hs with hs | hs | hs <;> rw [hs] <;> rfl
  unfold speedStepped
  rw [if_neg (by simp [h]), if_pos hturn]
  simp only [hcatch, Bool.false_eq_true, if_false]

theorem speedStepped_off (hs : u.air.st = .off) (ha : u.air.stallAt = none) (hb : u.air.busOv = false) :
    speedStepped u = if mayStart u then catchSpin u else u := by
  unfold speedStepped
  rw [if_neg (by simp [h]), if_neg (by rw [hs]; exact Bool.false_ne_true)]
  simp [hs, ha, hb]

theorem speedStepped_rests (ht : turning u.air.st = false) (hn : u.air.st ≠ .off ∨ u.air.stallAt.isSome = true ∨ u.air.busOv = true) :
    speedStepped u = u := by
  unfold speedStepped
  rw [if_neg (by simp [h]), if_neg (by simp [ht]), if_neg]
  rcases hn with hn | hn | hn
  · simp [hn]
  · simp [Option.isNone_eq_false_iff.2 hn]
  · simp [hn]

end Stepped

theorem natAbs_clampTo_le {lim : Int} (h : 0 ≤ lim) (x : Int) : (clampTo lim x).natAbs ≤ lim.natAbs := by
  unfold clampTo
  omega

theorem axisLimit_nonneg (lim x : Int) : 0 ≤ axisLimit lim x := Int.natCast_nonneg _

/-- A braking current that a latched clamp fault reduces is no greater than what the controller wants. -/
theorem natAbs_reduced_le (iq : Int) (n : Nat) :
    (if iq < 0 then -((n % (iq.natAbs + 1) : Nat) : Int) else ((n % (iq.natAbs + 1) : Nat) : Int)).natAbs ≤ iq.natAbs := by
  have hmod : n % (iq.natAbs + 1) < iq.natAbs + 1 := Nat.mod_lt _ (Nat.succ_pos _)
  split <;> omega

/-- The q-axis reference stays within the current limit (R348). -/
theorem speedPi_iqRef_le (s : State) : (speedPi s).air.iqRef.natAbs ≤ (currentLimit s).natAbs := by
  unfold speedPi
  extract_lets a lim err want iq integ braking non iq'
  have hiq : iq.natAbs ≤ (currentLimit s).natAbs :=
    Nat.le_trans (natAbs_clampTo_le (axisLimit_nonneg ..) want) (axisLimit_natAbs_le ..)
  show iq'.natAbs ≤ _
  unfold iq'
  split
  · exact Nat.le_trans (natAbs_reduced_le iq _) hiq
  · exact hiq

/-- Without a clamp fault the d-axis reference is that of a start, zero otherwise. -/
theorem speedPi_idRef (s : State) (h : clampLatched s = false) : (speedPi s).air.idRef = heldD s.air := by
  simp [speedPi, h]

/-- A blower that runs follows its demand by a ramp; a falling reference is braking. -/
def ramped (s : State) (d : Int) : State :=
  let r := rampTo s.prof s.air.reference d
  { s with air := { s.air with reference := r, st := if d < r then .braking else .running } }

theorem stepTurning_running (hs : s.air.st = .running) (hn : s.air.stopping = false) :
    stepTurning s = speedPi (ramped s (speedDemand s)) := by
  unfold stepTurning ramped
  simp only [hs, hn, Bool.false_and, Bool.false_eq_true, if_false]

theorem ramped_braking_iff (s : State) (d : Int) : (ramped s d).air.st = .braking ↔ d < (ramped s d).air.reference := by
  show (if d < rampTo s.prof s.air.reference d then BlowerState.braking else .running) = .braking ↔ d < rampTo s.prof s.air.reference d
  split <;> simp_all

theorem heldD_ramped (s : State) (d : Int) : heldD (ramped s d).air = 0 := by
  refine if_neg ?_
  show ¬((if d < rampTo s.prof s.air.reference d then BlowerState.braking else .running) == .starting) = true
  split <;> decide

theorem currentLimit_ramped (s : State) (d : Int) : currentLimit (ramped s d) = currentLimit s := rfl

theorem clampLatched_ramped (s : State) (d : Int) : clampLatched (ramped s d) = clampLatched s := rfl

theorem rampTo_rises {p : Profile} {r d : Int} (h : r < d) : rampTo p r d ≤ r + p.accel ∧ rampTo p r d ≤ d ∧ r ≤ rampTo p r d := by
  unfold rampTo
  rw [if_pos h]
  omega

theorem rampTo_falls {p : Profile} {r d : Int} (h : d ≤ r) : r - p.decel ≤ rampTo p r d ∧ d ≤ rampTo p r d ∧ rampTo p r d ≤ r := by
  unfold rampTo
  rw [if_neg (Int.not_lt.2 h)]
  omega

theorem speedDemand_warm (h : s.thm.step ≠ .normal) : speedDemand s = (s.prof.speedMax : Int) * 1000 := if_pos (by simpa using h)

/-! ### Turning the blower off, and starts (R345, R349, R350) -/

theorem exec_blowerOffTimer_none (h : s.air.belowOnSince = none) : exec .blowerOffTimer s = .next s := by
  show execBlowerOffTimer s = _
  simp only [execBlowerOffTimer, h]

theorem exec_blowerOffTimer_since {t : Nat} (h : s.air.belowOnSince = some t) : exec .blowerOffTimer s = .next
    (if isRunning s 9 = true ∧ s.air.wanted = true ∧ s.air.stopping = false ∧ s.air.serviceOp = none ∧ t + 30000000 ≤ now s then
      (if turning s.air.st then blowerOff { s with air := { s.air with wanted := false } } .off
        else { s with air := { s.air with wanted := false } }) else s) := by
  show execBlowerOffTimer s = _
  simp only [execBlowerOffTimer, h]
  rw [← ite_not]
  simp only [Bool.or_eq_true, Bool.not_eq_true', decide_eq_true_eq, not_or, Bool.not_eq_false, Bool.not_eq_true, Nat.not_lt,
    Option.isSome_eq_false_iff, Option.isNone_iff_eq_none, and_assoc]

theorem exec_blowerOffTimer_held (h : s.air.wanted = false ∨ s.air.stopping = true ∨ s.air.serviceOp.isSome = true) :
    exec .blowerOffTimer s = .next s := by
  cases hb : s.air.belowOnSince with
  | none => exact exec_blowerOffTimer_none hb
  | some t =>
    rw [exec_blowerOffTimer_since hb, if_neg]
    rintro ⟨-, hw, hs, ho, -⟩
    simp [hw, hs, ho] at h

theorem exec_alignEnd_none (h : s.air.alignAt = none) : exec .alignEnd s = .next s := by
  show execAlignEnd s = _
  simp only [execAlignEnd, h]

theorem exec_alignEnd_since {t : Nat} (h : s.air.alignAt = some t) : exec .alignEnd s = .next
    (if isRunning s 9 = true ∧ s.air.st = .starting ∧ t + 200000 ≤ now s then { s with air := { s.air with alignAt := none } } else s) := by
  show execAlignEnd s = _
  simp only [execAlignEnd, h]
  rw [← ite_not]
  simp only [Bool.or_eq_true, Bool.not_eq_true', decide_eq_true_eq, not_or, Bool.not_eq_false, bne_iff_ne, ne_eq, not_not, Nat.not_lt,
    and_assoc]

theorem exec_catchSpinEnd_early {b : Bool} {rpm : Int} (h : s.air.st ≠ .catchSpin ∨ now s < s.air.startAt + 50000) :
    exec (.catchSpinEnd b rpm) s = .next s := next_if_pos (by rcases h with h | h <;> simp [h]) rfl

section CatchSpin

variable {rpm : Int} (hr : isRunning s 9 = true) (hs : s.air.st = .catchSpin) (ht : s.air.startAt + 50000 ≤ now s)
include hr hs ht

theorem exec_catchSpinEnd_unlocked : exec (.catchSpinEnd false rpm) s = .next (standstill s) :=
  next_if_neg (by simp [hr, hs, ht]) rfl

/-- With the observer locked the measured speed decides: running, braking, or a standstill start. -/
theorem exec_catchSpinEnd_locked : exec (.catchSpinEnd true rpm) s = .next
    (if catchMinRpm s ≤ rpm then { s with air := { s.air with
        speed := rpm, st := .running, reference := rpm * 1000, runningSince := some (now s) } }
      else if rpm < -(catchMinRpm s) then { s with air := { s.air with
        speed := rpm, st := .braking, reference := 0, nonRegen := clampLatched s } }
      else standstill { s with air := { s.air with speed := rpm } }) :=
  next_if_neg (by simp [hr, hs, ht]) rfl

end CatchSpin

end Loops

/-! ### Blower Service (R356) -/

section Service

variable {s : State} {q : HmpHdr}

/-- From `s` to `t` the engine of the mailbox may end operations, no more. -/
def HandlesOnly (s t : State) : Prop := ∃ l, t.hmp = { s.hmp with handles := l }

theorem HandlesOnly.of_eq {s t : State} (h : t.hmp = s.hmp) : HandlesOnly s t := ⟨s.hmp.handles, h⟩

theorem HandlesOnly.trans {s t u : State} (h : HandlesOnly s t) (h' : HandlesOnly t u) : HandlesOnly s u := by
  obtain ⟨l, h⟩ := h
  obtain ⟨l', h'⟩ := h'
  exact ⟨l', by rw [h', h]⟩

theorem endLong_handlesOnly (s : State) (x : Sender) (h status detail : Nat) : HandlesOnly s (endLong s x h status detail) := ⟨_, rfl⟩

theorem endLong?_handlesOnly (s : State) (o : Option (Sender × Nat)) (status detail : Nat) : HandlesOnly s (endLong? s o status detail) := by
  obtain ⟨l, h⟩ := endLong?_effect s o status detail
  exact ⟨l, (congrArg State.hmp h :)⟩

theorem setIslandState_hmp (s : State) (id : Nat) (st : IslState) : (setIslandState s id st).hmp = s.hmp :=
  (setIslandState_faultKept ..).hmp

/-- A served request that starts a long operation: what its start does is `f'` there, and it ends operations at most. -/
theorem HmpServed.startsAs {r : HmpRule} {g : State → State} {op : Nat} {f f' : State → Nat → State} (h : HmpServed s q r)
    (hg : g s = startLong s q op f) (hl : liveHandles s q.sender < 64)
    (hf : f (withHandle s q op) s.hmp.nextHandle = f' (withHandle s q op) s.hmp.nextHandle)
    (hh : HandlesOnly (withHandle s q op) (f' (withHandle s q op) s.hmp.nextHandle)) :
    HmpStarts (.next (hmpServe s q r g)) s q op f' := by
  obtain ⟨l, hl'⟩ := hh
  have hstart : startLong s q op f = startLong s q op f' := by
    unfold startLong
    rw [hf]
  exact startLong_starts (h.next (hg.trans hstart)) hl ((discarded_congr (s := s) (congrArg (·.requests) hl') q).trans h.2)
    (congrArg (·.answers) hl')

/-- The island's reset stops a blower for service as it was: off, the service stop with it. -/
theorem setIslandState_held_air (s : State) : (setIslandState s 9 .heldInReset).air = (airLow s false).air := by
  unfold setIslandState
  extract_lets s1
  obtain ⟨fl, hw⟩ := writeProtect_effect s1 9
  dsimp only
  rw [hw]
  rfl

/-- A blower stopped for service, its island in reset and nobody waiting any more. -/
def heldForService (s : State) : State :=
  setIslandState { blowerOff s .stoppedForService with air := { (blowerOff s .stoppedForService).air with
    stopping := false, wanted := false, serviceOp := none } } 9 .heldInReset

theorem finishStop_eq (s : State) : finishStop s = endLong? (heldForService s) s.air.serviceOp hsSuccess 0 := rfl

/-- The blower at the end of a service stop. -/
theorem finishStop_fields (s : State) : (finishStop s).air.st = .stoppedForService ∧ (finishStop s).air.wanted = false ∧
    (finishStop s).air.stopping = false := by
  have hair : (finishStop s).air = (heldForService s).air := by
    obtain ⟨l, h⟩ := endLong?_effect (heldForService s) s.air.serviceOp hsSuccess 0
    exact (congrArg State.air ((finishStop_eq s).trans h) :)
  rw [hair, heldForService, setIslandState_held_air]
  exact ⟨rfl, rfl, rfl⟩

theorem finishStop_handlesOnly (s : State) : HandlesOnly s (finishStop s) :=
  (HandlesOnly.of_eq (setIslandState_hmp ..) : HandlesOnly s (heldForService s)).trans (endLong?_handlesOnly ..)

/-- A service stop begins: an earlier operation is cancelled, this one waits. -/
def stopBegun (x : Sender) (s : State) (h : Nat) : State :=
  let t := endLong? s s.air.serviceOp hsCancelled 0
  { t with air := { t.air with stopping := true, serviceOp := some (x, h) } }

theorem stopBegun_handlesOnly (x : Sender) (s : State) (h : Nat) : HandlesOnly s (stopBegun x s h) := endLong?_handlesOnly ..

theorem stopBegun_air (x : Sender) (s : State) (h : Nat) :
    (stopBegun x s h).air = { s.air with stopping := true, serviceOp := some (x, h) } := by
  obtain ⟨l, he⟩ := endLong?_effect s s.air.serviceOp hsCancelled 0
  unfold stopBegun
  rw [he]

/-- What a service stop of an island that runs does: a blower that runs forward ramps to zero, any other is done at once. -/
def serviceStops (x : Sender) (s : State) (h : Nat) : State :=
  let s := stopBegun x s h
  match s.air.st with
  | .running => s
  | .braking => if s.air.speed < 0 then finishStop s else s
  | .catchSpin => finishStop s
  | .starting => finishStop s
  | _ => finishStop s

theorem serviceStops_forward {x : Sender} {h : Nat} (hs : s.air.st = .running ∨ s.air.st = .braking ∧ 0 ≤ s.air.speed) :
    serviceStops x s h = stopBegun x s h := by
  have hair := stopBegun_air x s h
  unfold serviceStops
  generalize stopBegun x s h = t at hair ⊢
  rcases hs with hs | ⟨hs, hv⟩
  · simp only [hair, hs]
  · simp only [hair, hs, if_neg (Int.not_lt.2 hv)]

theorem serviceStops_atOnce {x : Sender} {h : Nat} (hr : s.air.st ≠ .running) (hb : s.air.st ≠ .braking ∨ s.air.speed < 0) :
    serviceStops x s h = finishStop (stopBegun x s h) := by
  have hair := stopBegun_air x s h
  unfold serviceStops
  generalize stopBegun x s h = t at hair ⊢
  cases hs : s.air.st with
  | running => exact absurd hs hr
  | braking => simp only [hair, hs, if_pos (hb.resolve_left (not_not.2 hs))]
  | _ => simp only [hair, hs]

theorem blowerServiceStop_runs (hn : s.air.stopping = false) (hr : isRunning s 9 = true) :
    (if s.air.stopping then startFailed s q 0x0704 hsBusy 0
      else if !isRunning s 9 then startLong s q 0x0704 fun s h => endLong s q.sender h hsSuccess 0
      else startLong s q 0x0704 (serviceStops q.sender)) = startLong s q 0x0704 (serviceStops q.sender) :=
  (if_neg (by simp [hn])).trans (if_neg (by simp [hr]))

/-- The island out of reset again, the blower's lock-outs ended. -/
def resumeBack (s : State) : State :=
  { setIslandState s 9 .running with air := { (setIslandState s 9 .running).air with
    st := .off, stalls := 0, stallAt := none, stuckClosed := false, driverFaultAt := none, busOv := false, judged := false, absent := false } }

theorem resumeBack_faultKept (s : State) : FaultKept s (resumeBack s) := (setIslandState_faultKept s 9 .running).trans .of

/-- What a resume of a blower that stands still does. -/
def serviceResumes (o : Bool) (r l : Nat) (x : Sender) (s : State) (h : Nat) : State :=
  let t := resumeBack s
  if o then endLong (raiseFault (blowerOff t .stoppedForService) 315 (capOf 8 5 0 9 9)) x h hsConflict 2
  else if !within25 r t.prof.rS || !within25 l t.prof.lS then endLong (blowerOff t .stoppedForService) x h hsConflict 1
  else if t.thm.warmLoad then endLong t x h hsSuccess 0
  else catchSpin { t with air := { t.air with wanted := true, serviceOp := some (x, h) } }

/-- A Blower Service resume that the gate lets through. -/
def resumeServed (s : State) (q : HmpHdr) (o : Bool) (r l : Nat) : State :=
  if s.air.stopping || turning s.air.st then startLong s q 0x0704 fun s h => endLong s q.sender h hsSuccess 0
  else startLong s q 0x0704 (serviceResumes o r l q.sender)

theorem resumeServed_still (hn : s.air.stopping = false) (ht : turning s.air.st = false) (o : Bool) (r l : Nat) :
    resumeServed s q o r l = startLong s q 0x0704 (serviceResumes o r l q.sender) := if_neg (by simp [hn, ht])

section Resumes

variable {r l n : Nat} {x : Sender}

theorem serviceResumes_open : serviceResumes true r l x s n =
    endLong (raiseFault (blowerOff (resumeBack s) .stoppedForService) 315 (capOf 8 5 0 9 9)) x n hsConflict 2 := rfl

/-- A winding that is not open is compared with the record; within it the warm load decides. -/
theorem serviceResumes_closed : serviceResumes false r l x s n =
    if within25 r s.prof.rS = false ∨ within25 l s.prof.lS = false then endLong (blowerOff (resumeBack s) .stoppedForService) x n hsConflict 1
    else if s.thm.warmLoad then endLong (resumeBack s) x n hsSuccess 0
    else catchSpin { resumeBack s with air := { (resumeBack s).air with wanted := true, serviceOp := some (x, n) } } := by
  have hkept := resumeBack_faultKept s
  unfold serviceResumes
  simp only [hkept.prof, hkept.thm, Bool.false_eq_true, if_false, Bool.or_eq_true, Bool.not_eq_true']

theorem serviceResumes_differs (h : within25 r s.prof.rS = false ∨ within25 l s.prof.lS = false) : serviceResumes false r l x s n =
    endLong (blowerOff (resumeBack s) .stoppedForService) x n hsConflict 1 := serviceResumes_closed.trans (if_pos h)

theorem serviceResumes_same (hr : within25 r s.prof.rS = true) (hl : within25 l s.prof.lS = true) : serviceResumes false r l x s n =
    if s.thm.warmLoad then endLong (resumeBack s) x n hsSuccess 0
    else catchSpin { resumeBack s with air := { (resumeBack s).air with wanted := true, serviceOp := some (x, n) } } :=
  serviceResumes_closed.trans (if_neg (by simp [hr, hl]))

end Resumes

theorem resumeBack_handlesOnly (s : State) : HandlesOnly s (resumeBack s) := .of_eq (resumeBack_faultKept s).hmp

section ResumeStarts

variable {r l : Nat} (hq : HmpServed s q ruleBlowerService) (hs : s.air.stopping = false) (ht : turning s.air.st = false)
  (hlive : liveHandles s q.sender < 64)
include hq hs ht hlive

theorem resume_open : HmpStarts (exec (.blowerServiceResume q true r l) s) s q 0x0704 fun s h =>
    endLong (raiseFault (blowerOff (resumeBack s) .stoppedForService) 315 (capOf 8 5 0 9 9)) q.sender h hsConflict 2 := by
  have hraise (t : State) : HandlesOnly t (raiseFault t 315 (capOf 8 5 0 9 9)) := .of_eq (raiseFault_hmp ..)
  exact hq.startsAs (resumeServed_still hs ht true r l) hlive serviceResumes_open
    ((resumeBack_handlesOnly _).trans ((hraise (blowerOff (resumeBack _) .stoppedForService)).trans (endLong_handlesOnly ..)))

theorem resume_differs (h : within25 r s.prof.rS = false ∨ within25 l s.prof.lS = false) :
    HmpStarts (exec (.blowerServiceResume q false r l) s) s q 0x0704 fun s h =>
      endLong (blowerOff (resumeBack s) .stoppedForService) q.sender h hsConflict 1 :=
  hq.startsAs (resumeServed_still hs ht false r l) hlive (serviceResumes_differs (s := withHandle s q 0x0704) h)
    ((resumeBack_handlesOnly _).trans (endLong_handlesOnly ..))

variable (hr : within25 r s.prof.rS = true) (hl : within25 l s.prof.lS = true)
include hr hl

theorem resume_warm (h : s.thm.warmLoad = true) : HmpStarts (exec (.blowerServiceResume q false r l) s) s q 0x0704 fun s h =>
    endLong (resumeBack s) q.sender h hsSuccess 0 :=
  hq.startsAs (resumeServed_still hs ht false r l) hlive ((serviceResumes_same (s := withHandle s q 0x0704) hr hl).trans (if_pos h))
    ((resumeBack_handlesOnly _).trans (endLong_handlesOnly ..))

theorem resume_starts (h : s.thm.warmLoad = false) : HmpStarts (exec (.blowerServiceResume q false r l) s) s q 0x0704 fun s h =>
    catchSpin { resumeBack s with air := { (resumeBack s).air with wanted := true, serviceOp := some (q.sender, h) } } :=
  hq.startsAs (resumeServed_still hs ht false r l) hlive ((serviceResumes_same (s := withHandle s q 0x0704) hr hl).trans
    (if_neg fun hw => Bool.false_ne_true (h.symm.trans hw))) (resumeBack_handlesOnly _)

end ResumeStarts

theorem within25_iff (x f : Nat) : within25 x f = true ↔ 3 * f ≤ 4 * x ∧ 4 * x ≤ 5 * f := by
  simp only [within25, Bool.and_eq_true, decide_eq_true_eq]

end Service

/-- Settles O48: the loops by what the blower does, each start mode by its time, the service requests by the blower they meet. -/
theorem blowerLoopsAndService : Obligations.BlowerLoopsAndService := by
  refine ⟨⟨fun s t1 t2 ma hr => ⟨exec_currentLoopPeriod_still, fun ht => ⟨fun h => ?_, fun h => ?_⟩⟩,
      fun m t => ⟨shiftVector_of_le, shiftVector_of_lt⟩, fun s hr hl => ?_, fun s hs hn => ?_, fun s => exec_speedLoopStep_powerLoss,
      fun p r d => ⟨rampTo_rises, rampTo_falls⟩, fun s => speedDemand_warm,
      fun s => ⟨exec_blowerOffTimer_none, exec_blowerOffTimer_held, fun t ht => ⟨fun h => ?_, fun h hr hw hs ho =>
        ⟨fun htu => ?_, fun htu => ?_⟩⟩⟩,
      fun s t ht => ⟨fun h => ?_, fun h hs hr => ?_⟩, fun s => exec_alignEnd_none, fun s b rpm h => exec_catchSpinEnd_early (.inl h),
      fun s rpm hr hs => ⟨fun h b => exec_catchSpinEnd_early (.inr h), fun h => ⟨exec_catchSpinEnd_unlocked hr hs h, rfl, fun h1 => ?_,
        fun h1 => ?_, fun h1 h2 => ?_⟩⟩⟩,
    fun s q hq => ⟨fun hs => hq.next (if_pos hs), fun hs hr hlive => ?_, fun hs hr hlive => ⟨fun h => ?_, fun h h' => ?_⟩,
      fun s => finishStop_fields s, fun o r l hlive => ⟨fun h => ?_, fun hs ht => ⟨fun ho => ?_, fun ho hd => ?_, fun ho h1 h2 hw => ?_,
        fun ho h1 h2 hw => ?_⟩⟩, within25_iff⟩⟩
  · rw [exec_currentLoopPeriod_turning hr ht, if_neg (Nat.not_lt.2 h)]
    rfl
  · rw [exec_currentLoopPeriod_turning hr ht, if_pos h]
    rfl
  · intro u
    have hgo : exec .speedLoopStep s = .next (speedStepped u) := exec_speedLoopStep hr hl
    rw [hgo]
    refine ⟨fun hw ht => ?_, fun hw ht => ?_, fun hw => ⟨fun hs => ?_, fun hs => ?_, fun hs ha hb => ?_, fun ht hn => ?_⟩⟩
    · rw [speedStepped_warm (u := u) hw]
      exact congrArg _ (if_pos ht)
    · rw [speedStepped_warm (u := u) hw]
      exact congrArg _ (if_neg fun h => Bool.false_ne_true (ht.symm.trans h))
    · rw [speedStepped_catchSpin (u := u) hw hs]
    · rw [speedStepped_turning (u := u) hw hs]
    · rw [speedStepped_off (u := u) hw hs ha hb]
    · rw [speedStepped_rests (u := u) hw ht hn]
  · intro t
    have hstep : t = speedPi (ramped s (speedDemand s)) := stepTurning_running hs hn
    rw [hstep]
    refine ⟨rfl, ramped_braking_iff s _, ?_, fun hc => ?_⟩
    · rw [← currentLimit_ramped s (speedDemand s)]
      exact speedPi_iqRef_le _
    · rw [speedPi_idRef _ (by rwa [clampLatched_ramped]), heldD_ramped]
  · rw [exec_blowerOffTimer_since ht, if_neg]
    rintro ⟨-, -, -, -, hn⟩
    omega
  · rw [exec_blowerOffTimer_since ht, if_pos ⟨hr, hw, hs, ho, h⟩, if_pos htu]
  · rw [exec_blowerOffTimer_since ht, if_pos ⟨hr, hw, hs, ho, h⟩, if_neg (by simp [htu])]
  · rw [exec_alignEnd_since ht, if_neg]
    rintro ⟨-, hs, hn⟩
    exact h.elim (Nat.not_lt.2 hn) fun h => h hs
  · rw [exec_alignEnd_since ht, if_pos ⟨hr, hs, h⟩]
  · rw [exec_catchSpinEnd_locked hr hs h, if_pos h1]
  · rw [exec_catchSpinEnd_locked hr hs h, if_neg, if_pos h1]
    have hmin : 0 ≤ catchMinRpm s := by
      unfold catchMinRpm
      omega
    omega
  · rw [exec_catchSpinEnd_locked hr hs h, if_neg (Int.not_le.2 h2), if_neg (Int.not_lt.2 h1)]
  · exact hq.startsAs ((if_neg (by simp [hs])).trans (if_pos (by simp [hr]))) hlive rfl (endLong_handlesOnly ..)
  · exact hq.startsAs (blowerServiceStop_runs hs hr) hlive (serviceStops_forward h) (stopBegun_handlesOnly ..)
  · exact hq.startsAs (blowerServiceStop_runs hs hr) hlive (serviceStops_atOnce h h')
      ((stopBegun_handlesOnly ..).trans (finishStop_handlesOnly _))
  · exact hq.startsAs (if_pos (by simpa using h)) hlive rfl (endLong_handlesOnly ..)
  · subst ho
    exact resume_open hq hs ht hlive
  · subst ho
    exact resume_differs hq hs ht hlive hd
  · subst ho
    exact resume_warm hq hs ht hlive h1 h2 hw
  · subst ho
    exact resume_starts hq hs ht hlive h1 h2 hw

end Sys2Proof.Machine

namespace Sys2Proof.Machine

/-! ### Spar and member positions, and the dies of a bay (R32, R34) -/

/-- The positions of a course are told apart by what is added to its number, up to the width. -/
theorem add_mod_inj {w c i j : Nat} (hi : i < w) (hj : j < w) (h : (c + i) % w = (c + j) % w) : i = j := by
  have hmod : i ≡ j [MOD w] := Nat.ModEq.add_left_cancel' c h
  exact Nat.ModEq.eq_of_lt_of_lt hmod hi hj

/-- A data member is never at the spar's position, which is that of the number 0 added. -/
theorem memberPos_ne_sparPos {w c m : Nat} (hw : 2 ≤ w) (hm : m ≤ w - 2) : memberPos w c m ≠ sparPos w c := by
  intro h
  have h0 : 1 + m = 0 := add_mod_inj (w := w) (c := c) (by omega) (by omega) (by rw [← Nat.add_assoc]; exact h)
  omega

theorem memberPos_injective {w c m n : Nat} (hw : 2 ≤ w) (hm : m ≤ w - 2) (hn : n ≤ w - 2) (h : memberPos w c m = memberPos w c n) :
    m = n :=
  add_mod_inj (by omega) (by omega) h

/-- A die's number over 128 is its channel, the remainder its slot there (R32). -/
theorem place_div (b i : Nat) : (128 * (16 * (b / 128) + i) + b % 128) / 128 = 16 * (b / 128) + i := by omega

theorem place_mod (b i : Nat) : (128 * (16 * (b / 128) + i) + b % 128) % 128 = b % 128 := by omega

/-- Settles O60: positions of a course differ as what is added to its number does, and a die's number splits by its bounds. -/
theorem stripePositions : Obligations.StripePositions := by
  refine ⟨fun w c hw => ⟨rfl, fun m hm => ⟨rfl, memberPos_ne_sparPos hw hm, fun n hn h => memberPos_injective hw hm hn h⟩⟩,
    fun b i hb hi => ?_⟩
  have hch : bayDie b i / 128 = 16 * (b / 128) + i := place_div b i
  have hslot : bayDie b i % 128 = b % 128 := place_mod b i
  refine ⟨hch, hslot, ?_, ?_, ?_⟩
  · have hhalf : (16 * (b / 128) + i) / 16 = b / 128 := by omega
    rw [dieBay, hch, hslot, hhalf]
    exact Nat.div_add_mod b 128
  · rw [diePkg, hch, hslot]
  · have hslot16 : b % 128 % 16 = b % 16 := Nat.mod_mod_of_dvd b (by decide)
    rw [hslot16, ← Nat.mod_mod_of_dvd (bayDie b i) (by decide : 16 ∣ 128), hslot, hslot16]

end Sys2Proof.Machine

namespace Sys2Proof.Machine

/-! ### Function Zone Limits and Bay Set Define (R38, R52, R53) -/

section ZoneLimits

variable {s : State} {q : HmpHdr} {f active opened : Nat} (h : HmpServed s q ruleZoneLimits) (hf : f < 256)

include h hf

theorem functionZoneLimits_order (ho : active < opened) :
    HmpAnswers (exec (.functionZoneLimits q f active opened) s) s s q 0x0201 hsConflict 1 [] := by
  refine h.answers ?_
  simp only [Nat.not_lt.2 (Nat.le_of_lt_succ hf), ho, if_true, if_false]

theorem functionZoneLimits_sum (ho : opened ≤ active)
    (hsum : 32768 < activeLimitSum { s with zns := { s.zns with limits := tblSet f (active, opened) s.zns.limits } }) :
    HmpAnswers (exec (.functionZoneLimits q f active opened) s) s s q 0x0201 hsConflict 2 [] := by
  refine h.answers ?_
  simp only [Nat.not_lt.2 (Nat.le_of_lt_succ hf), Nat.not_lt.2 ho, hsum, if_true, if_false]

theorem functionZoneLimits_applies (ho : opened ≤ active)
    (hsum : activeLimitSum { s with zns := { s.zns with limits := tblSet f (active, opened) s.zns.limits } } ≤ 32768) :
    HmpApplies (exec (.functionZoneLimits q f active opened) s) s
      { s with zns := { s.zns with limits := tblSet f (active, opened) s.zns.limits } } q 0x0201 := by
  refine h.applies ?_ rfl
  simp only [Nat.not_lt.2 (Nat.le_of_lt_succ hf), Nat.not_lt.2 ho, Nat.not_lt.2 hsum, if_false]

end ZoneLimits

section BaySets

variable {s : State} {q : HmpHdr} {k : Nat} (h : HmpServed s q ruleBaySet) (hk : 0 < k) (hk' : k < 256)

include hk hk' in
/-- Set 0 and numbers above 255 are out of range for both forms of the command (R52). -/
theorem baySetNumber_inRange : (decide (k = 0) || decide (255 < k)) = false := by
  simp [Nat.ne_of_gt hk, Nat.le_of_lt_succ hk']

include h hk hk'

/-- A definition that meets an objection to the sets that it would leave. -/
theorem baySetDefine_refused {ex : Bool} {bays grants : List Nat} {r : Nat}
    (hr : baySetConflict s (tblUpd setDefault k (fun x => { x with exclusive := ex, grants := mapOf grants })
      (withBays (if setDefined s k then s.zns.sets else s.zns.sets ++ [(k, setDefault)]) k (mapOf bays))) k ex (mapOf grants) = some r) :
    HmpAnswers (exec (.baySetDefine q k ex bays grants) s) s s q 0x0202 hsConflict r [] := by
  refine h.answers ?_
  simp only [baySetNumber_inRange hk hk', Bool.false_eq_true, if_false, hr]

theorem exec_baySetDefine_applies {ex : Bool} {bays grants : List Nat} {new : Tbl Nat BaySetSt}
    (hnew : tblUpd setDefault k (fun x => { x with exclusive := ex, grants := mapOf grants })
      (withBays (if setDefined s k then s.zns.sets else s.zns.sets ++ [(k, setDefault)]) k (mapOf bays)) = new)
    (hn : baySetConflict s new k ex (mapOf grants) = none) :
    exec (.baySetDefine q k ex bays grants) s = .next (hmpDone (putSets s new) q 0x0202) := by
  refine h.next ?_
  simp only [baySetNumber_inRange hk hk', Bool.false_eq_true, if_false, hnew, hn]

theorem baySetDelete_unknown (hd : setDefined s k = false) :
    HmpAnswers (exec (.baySetDelete q k) s) s s q 0x0202 hsUnknown 0 [] := by
  refine h.answers ?_
  simp only [baySetNumber_inRange hk hk', hd, Bool.not_false, Bool.false_eq_true, if_true, if_false]

/-- A deletion gives the bays of the set back to set 0, unless that meets an objection. -/
theorem baySetDelete_refused (hd : setDefined s k = true) {r : Nat}
    (hr : baySetConflict s (tblDel k (withBays s.zns.sets k 0)) k false 0 = some r) :
    HmpAnswers (exec (.baySetDelete q k) s) s s q 0x0202 hsConflict r [] := by
  refine h.answers ?_
  simp only [baySetNumber_inRange hk hk', hd, Bool.not_true, Bool.false_eq_true, if_false, hr]

theorem exec_baySetDelete_applies (hd : setDefined s k = true)
    (hn : baySetConflict s (tblDel k (withBays s.zns.sets k 0)) k false 0 = none) :
    exec (.baySetDelete q k) s = .next (hmpDone (putSets s (tblDel k (withBays s.zns.sets k 0))) q 0x0202) := by
  refine h.next ?_
  simp only [baySetNumber_inRange hk hk', hd, Bool.not_true, Bool.false_eq_true, if_false, hn]

end BaySets

/-- Settles O15: the limits by their two tests, a set by the first objection to the sets that the command would leave. -/
theorem zoneLimitsAndBaySets : Obligations.ZoneLimitsAndBaySets := by
  refine ⟨fun s q f active opened h hf => ⟨functionZoneLimits_order h hf, functionZoneLimits_sum h hf,
    functionZoneLimits_applies h hf⟩, fun s q k ex bays grants h hk hk' => ?_⟩
  exact ⟨fun r hr => baySetDefine_refused h hk hk' hr, fun hn => exec_baySetDefine_applies h hk hk' rfl hn,
    baySetDelete_unknown h hk hk', fun hd r hr => baySetDelete_refused h hk hk' hd hr,
    fun hd hn => exec_baySetDelete_applies h hk hk' hd hn⟩

end Sys2Proof.Machine

namespace Sys2Proof.Machine

/-! ### Namespace Management (R31, R51, R55) -/

section Management

variable {s t : State} {a : AdmHdr} {zoned : Bool} {nsze n x : Nat} {fmt : LbaFormat} {sets : List (Nat × Nat)}
  (h : AdminServed s a true false)

/-- A namespace as a creation with these fields makes it: attached to no function. -/
def createdNs (n : Nat) (zoned : Bool) (nsze : Nat) (fmt : LbaFormat) (sets : List (Nat × Nat)) : NsSt :=
  { nsid := n, zoned := zoned, nsze := nsze, lbaf := fmt.lbaf, prot := fmt.prot, extended := fmt.extended,
    sets := if zoned then setsFor nsze fmt.lbaf sets else [], attached := [] }

/-- The geometry in which a creation is tried: built afresh before the first namespace (R31). -/
def builtFor (s : State) : Option State := if s.zns.namespaces.isEmpty then buildGeometry s else some s

section Create

include h

theorem namespaceCreate_refused {e : NvmeStatus} (he : createError s zoned nsze fmt sets = some e) :
    AdminCompletes (exec (.namespaceCreate a zoned nsze fmt sets) s) s s a e 0 [] := by
  refine h.unchanged ?_
  simp only [he]

variable (hok : createError s zoned nsze fmt sets = none)

include hok

theorem exec_namespaceCreate_noGeometry (hb : builtFor s = none) : exec (.namespaceCreate a zoned nsze fmt sets) s =
    .next (adminDone (profileEvent s 1 1 0 0 0) a .namespaceInsufficientCapacity 0 []) := by
  refine h.next ?_
  rw [builtFor] at hb
  simp only [hok, hb]

variable (hn : freeNsid s = some n) (hb : builtFor s = some t)

include hn hb

theorem exec_namespaceCreate_fits (hf : nsFits t (createdNs n zoned nsze fmt sets) = true) :
    exec (.namespaceCreate a zoned nsze fmt sets) s =
      .next (adminDone (addNs t (createdNs n zoned nsze fmt sets)) a .success n []) := by
  refine h.next ?_
  rw [builtFor] at hb
  rw [createdNs] at hf
  simp only [hok, hb, hn, Option.getD_some, hf, if_true, createdNs]

theorem namespaceCreate_full (hf : nsFits t (createdNs n zoned nsze fmt sets) = false) :
    AdminCompletes (exec (.namespaceCreate a zoned nsze fmt sets) s) s s a .namespaceInsufficientCapacity 0 [] := by
  refine h.unchanged ?_
  rw [builtFor] at hb
  rw [createdNs] at hf
  simp only [hok, hb, hn, Option.getD_some, hf, Bool.false_eq_true, if_false]

end Create

/-- Metadata is asked for only of a format that has some (Table 09.9). -/
theorem formatOk_without_metadata (hl : fmt.lbaf % 3 = 0) (hp : fmt.prot ≠ .none) : formatOk fmt = false := by
  cases hprot : fmt.prot with
  | none => exact absurd hprot hp
  | guard16 t => simp [formatOk, hprot, hl]
  | guard64 t => simp [formatOk, hprot, hl]

theorem createError_format (hs : s.sec.sanitizing = false) (hf : formatOk fmt = false) :
    createError s zoned nsze fmt sets = some .invalidFormat := by
  simp [createError, hs, hf]

/-- A size of nothing, a list that is too long or a size of no whole zones (R51). -/
theorem createError_field (hs : s.sec.sanitizing = false) (hf : formatOk fmt = true)
    (hbad : nsze = 0 ∨ 16 < sets.length ∨ (zoned = true ∧ nsze * (if 3 ≤ fmt.lbaf then 4 else 1) % zoneUnits ≠ 0)) :
    createError s zoned nsze fmt sets = some .invalidField := by
  by_cases hsize : nsze = 0 ∨ 16 < sets.length
  · simp [createError, hs, hf, hsize]
  · obtain ⟨hz, hu⟩ := (or_assoc.2 hbad).resolve_left hsize
    have hunits : decide (nsze * (if 3 ≤ fmt.lbaf then 4 else 1) % zoneUnits ≠ 0) = true := decide_eq_true hu
    have hfields : (decide (nsze = 0) || decide (16 < sets.length)) = false := by simpa using hsize
    simp only [createError, hs, hf, hfields, hz, hunits, Bool.not_true, Bool.true_or, Bool.and_self, Bool.false_eq_true, if_true, if_false]

/-- A deletion finds its namespaces by their NSID. -/
theorem named_isEmpty (s : State) (x : Nat) : (s.zns.namespaces.filter fun y => y.nsid == x).isEmpty = (nsOf s x).isNone := by
  rw [Bool.eq_iff_iff, List.isEmpty_iff, List.filter_eq_nil_iff, Option.isNone_iff_eq_none, nsOf, List.find?_eq_none]

include h

theorem exec_namespaceDelete_busy (hs : s.sec.sanitizing = false) (hx : (nsOf s x).isSome = true) (hb : nsBusy s x = true) :
    exec (.namespaceDelete a x) s = .next s := by
  obtain ⟨ns, hns⟩ := Option.isSome_iff_exists.1 hx
  have hin := List.mem_of_find?_eq_some hns
  have hid : ns.nsid = x := by simpa using List.find?_some hns
  have hany : ((s.zns.namespaces.filter fun ns => x == 0xFFFFFFFF || ns.nsid == x).any fun ns => nsBusy s ns.nsid) = true :=
    List.any_eq_true.2 ⟨ns, List.mem_filter.2 ⟨hin, by simp [hid]⟩, hid ▸ hb⟩
  have hne : (s.zns.namespaces.filter fun ns => x == 0xFFFFFFFF || ns.nsid == x).isEmpty = false := by
    rw [List.isEmpty_eq_false_iff]
    exact List.ne_nil_of_mem (List.mem_filter.2 ⟨hin, by simp [hid]⟩)
  refine h.next ?_
  simp only [hs, hne, hany, Bool.false_eq_true, Bool.false_and, if_true, if_false]

theorem exec_namespaceDelete_free (hs : s.sec.sanitizing = false) (hx : (nsOf s x).isSome = true) (hb : nsBusy s x = false)
    (hall : x ≠ 0xFFFFFFFF) : exec (.namespaceDelete a x) s = .next (adminDone (forEach (s.zns.namespaces.filter fun y => y.nsid == x)
      (fun y s => deleteNs y (nsChanged s y.nsid y.attached)) s) a .success 0 []) := by
  have hfilter : (s.zns.namespaces.filter fun ns => x == 0xFFFFFFFF || ns.nsid == x) = s.zns.namespaces.filter fun y => y.nsid == x := by
    simp only [beq_eq_false_iff_ne.2 hall, Bool.false_or]
  have hne : (s.zns.namespaces.filter fun y => y.nsid == x).isEmpty = false := by
    rw [named_isEmpty, Option.isNone_eq_false_iff, hx]
  have hany : ((s.zns.namespaces.filter fun y => y.nsid == x).any fun ns => nsBusy s ns.nsid) = false := by
    rw [List.any_eq_false]
    intro y hy
    have hid : y.nsid = x := beq_iff_eq.1 (List.mem_filter.1 hy).2
    rw [hid, hb]
    exact Bool.false_ne_true
  refine h.next ?_
  simp only [hs, hfilter, hne, hany, Bool.false_eq_true, Bool.false_and, if_false]

theorem namespaceDelete_unknown (hs : s.sec.sanitizing = false) (hx : nsOf s x = none) (hall : x ≠ 0xFFFFFFFF) :
    AdminCompletes (exec (.namespaceDelete a x) s) s s a .invalidNamespace 0 [] := by
  have hempty : (s.zns.namespaces.filter fun ns => x == 0xFFFFFFFF || ns.nsid == x).isEmpty = true := by
    simpa only [beq_eq_false_iff_ne.2 hall, Bool.false_or, named_isEmpty, Option.isNone_iff_eq_none] using hx
  refine h.unchanged ?_
  have hne : (x != 0xFFFFFFFF) = true := by simpa using hall
  simp only [hs, hempty, hne, Bool.false_eq_true, Bool.and_self, if_true, if_false]

end Management

/-! ### Namespace Attachment (R54) -/

section Attachment

variable {s : State} {a : AdmHdr} {nsid f : Nat} {ns : NsSt} (h : AdminServed s a true false)

theorem attachedTo_iff : attachedTo ns f = true ↔ f ∈ ns.attached := by simp [attachedTo]

theorem attachedTo_eq_false : attachedTo ns f = false ↔ f ∉ ns.attached := by simp [attachedTo]

include h

theorem namespaceAttach_unknown (hns : nsOf s nsid = none) :
    AdminCompletes (exec (.namespaceAttach a nsid f) s) s s a .invalidNamespace 0 [] := by
  refine h.unchanged ?_
  simp only [hns]

theorem namespaceDetach_unknown (hns : nsOf s nsid = none) :
    AdminCompletes (exec (.namespaceDetach a nsid f) s) s s a .invalidNamespace 0 [] := by
  refine h.unchanged ?_
  simp only [hns]

variable (hns : nsOf s nsid = some ns)

include hns

theorem namespaceAttach_refused {e : NvmeStatus} (he : attachError s ns f = some e) :
    AdminCompletes (exec (.namespaceAttach a nsid f) s) s s a e 0 [] := by
  refine h.unchanged ?_
  simp only [hns, he]

theorem exec_namespaceAttach_attaches (he : attachError s ns f = none) : exec (.namespaceAttach a nsid f) s = .next (adminDone
    (nsChanged (updNs s nsid fun x => { x with attached := x.attached ++ [f] }) nsid [f]) a .success 0 []) := by
  refine h.next ?_
  simp only [hns, he]

theorem namespaceDetach_outside (hf : s.prof.totalVfs < f) :
    AdminCompletes (exec (.namespaceDetach a nsid f) s) s s a .controllerListInvalid 0 [] := by
  refine h.unchanged ?_
  simp only [hns, hf, if_true]

theorem namespaceDetach_notAttached (hf : f ≤ s.prof.totalVfs) (ha : f ∉ ns.attached) :
    AdminCompletes (exec (.namespaceDetach a nsid f) s) s s a .namespaceNotAttached 0 [] := by
  refine h.unchanged ?_
  simp only [hns, Nat.not_lt.2 hf, attachedTo_eq_false.2 ha, Bool.not_false, if_true, if_false]

theorem exec_namespaceDetach_detaches (hf : f ≤ s.prof.totalVfs) (ha : f ∈ ns.attached) :
    exec (.namespaceDetach a nsid f) s = .next (adminDone
      (nsChanged (updNs (withdrawNs s nsid (some f)) nsid fun x => { x with attached := x.attached.filter (· != f) }) nsid [f])
      a .success 0 []) := by
  refine h.next ?_
  simp only [hns, Nat.not_lt.2 hf, attachedTo_iff.2 ha, Bool.not_true, Bool.false_eq_true, if_false]

end Attachment

section AttachErrors

variable {s : State} {f : Nat} {ns : NsSt}

theorem attachError_outside (hf : s.prof.totalVfs < f) : attachError s ns f = some .controllerListInvalid := if_pos hf

theorem attachError_attached (hf : f ≤ s.prof.totalVfs) (ha : f ∈ ns.attached) :
    attachError s ns f = some .namespaceAlreadyAttached := by
  simp [attachError, Nat.not_lt.2 hf, attachedTo_iff.2 ha]

/-- A zoned namespace has one function alone. -/
theorem attachError_taken (hf : f ≤ s.prof.totalVfs) (ha : f ∉ ns.attached) (hz : ns.zoned = true) (hp : ns.attached ≠ []) :
    attachError s ns f = some .namespaceIsPrivate := by
  simp [attachError, Nat.not_lt.2 hf, attachedTo_eq_false.2 ha, hz, hp]

/-- The function of a zoned namespace holds grants for every set in its list. -/
theorem attachError_grants (hf : f ≤ s.prof.totalVfs) (hp : ns.attached = []) (hz : ns.zoned = true)
    (hg : ∃ e ∈ ns.sets, setGrants s e.1 f = false) : attachError s ns f = some .controllerListInvalid := by
  have hany : (ns.sets.any fun e => !setGrants s e.1 f) = true := by simpa using hg
  simp only [attachError, Nat.not_lt.2 hf, attachedTo_eq_false.2 (by simp [hp] : f ∉ ns.attached), hz, hp, hany, List.isEmpty_nil,
    Bool.not_true, Bool.and_false, Bool.and_self, Bool.false_eq_true, if_true, if_false]

theorem attachError_none (hf : f ≤ s.prof.totalVfs) (ha : f ∉ ns.attached)
    (hz : ns.zoned = true → ns.attached = [] ∧ ∀ e ∈ ns.sets, setGrants s e.1 f = true) : attachError s ns f = none := by
  have hna := attachedTo_eq_false.2 ha
  cases hzoned : ns.zoned with
  | false => simp [attachError, Nat.not_lt.2 hf, hna, hzoned]
  | true =>
    obtain ⟨hp, hg⟩ := hz hzoned
    have hany : (ns.sets.any fun e => !setGrants s e.1 f) = false := by simpa using hg
    simp only [attachError, Nat.not_lt.2 hf, hna, hzoned, hp, hany, List.isEmpty_nil, Bool.not_true, Bool.and_false,
      Bool.false_eq_true, if_false]

end AttachErrors

/-! ### Changed Namespace List (R217) -/

/-- An event that finds no waiting request leaves the function's lists alone. -/
theorem asyncEvent_changedNs {s : State} {f : Nat} (h : (fnOf s f).aers = []) (type info log enable : Nat)
    (post : State → Nat → Nat → State) : (fnOf (asyncEvent s f type info log enable post) f).changedNs = (fnOf s f).changedNs := by
  unfold asyncEvent
  extract_lets x
  split
  · rfl
  · rw [show x.aers = [] from h, fnOf_updFn_self]

theorem nsChanged_listed {s : State} {n f : Nat} (h : (fnOf s f).aers = []) : n ∈ (fnOf (nsChanged s n [f]) f).changedNs := by
  have hnoted : nsChanged s n [f] = asyncEvent
      (updFn s f fun x => if x.changedNs.contains n then x else { x with changedNs := x.changedNs ++ [n] }) f 2 0x00 0x04 8 (postAer f) := rfl
  rw [hnoted, asyncEvent_changedNs, fnOf_updFn_self]
  · split
    · next hin => simpa using hin
    · simp
  · rw [fnOf_updFn_self]
    split <;> exact h

/-- Settles O13: a creation by its objections, the geometry and what it needs, a deletion by the commands of its namespace, an
attachment by its objections. -/
theorem namespacesAndFunctions : Obligations.NamespacesAndFunctions := by
  refine ⟨fun s a zoned nsze n fmt sets h hs hn => ?_, fun s a nsid f ns h hns => ?_, fun s n f h => nsChanged_listed h⟩
  · refine ⟨fun t hok hb => ⟨exec_namespaceCreate_fits h hok hn hb, namespaceCreate_full h hok hn hb⟩,
      exec_namespaceCreate_noGeometry h, fun hbad => namespaceCreate_refused h (createError_format hs ?_),
      fun hf hbad => namespaceCreate_refused h (createError_field hs hf hbad),
      fun x hx hb hall => exec_namespaceDelete_free h hs hx hb hall, fun x hx hall => namespaceDelete_unknown h hs hx hall,
      fun x hx hb => exec_namespaceDelete_busy h hs hx hb⟩
    rcases hbad with hl | ⟨hl, hp⟩
    · exact formatOk_false hl
    · exact formatOk_without_metadata hl hp
  · have refused {e : NvmeStatus} (he : attachError s ns f = some e) := namespaceAttach_refused h hns he
    exact ⟨fun hf ha hz => exec_namespaceAttach_attaches h hns (attachError_none hf ha hz),
      fun hf ha => refused (attachError_attached hf ha), fun hf ha hz hp => refused (attachError_taken hf ha hz hp),
      fun hf hp hz hg => refused (attachError_grants hf hp hz hg),
      fun hf => ⟨refused (attachError_outside hf), namespaceDetach_outside h hns hf⟩,
      exec_namespaceDetach_detaches h hns, namespaceDetach_notAttached h hns,
      fun x hx => ⟨namespaceAttach_unknown h hx, namespaceDetach_unknown h hx⟩⟩

end Sys2Proof.Machine

namespace Sys2Proof.Machine

/-! ### Served commands that draw free values -/

/-- A free value that has been drawn leaves the admin queue as it is. -/
theorem AdminServed.draws {s : State} {a : AdmHdr} {p r : Bool} {g : State → State} {st : NvmeStatus} {dw0 : Nat} {data : List Byte}
    (h : AdminServed s a p r) (hg : g s = adminDone (tickFree s) a st dw0 data) :
    AdminCompletes (.next (adminServe s a p r g)) s (tickFree s) a st dw0 data :=
  h.completes hg rfl h.2

/-! ### Security Send and Receive (R214, R258) -/

section Security

theorem putKey_host (s : State) (ns : NsSt) (f tag key : Nat) : (putKey s ns f tag key).host = s.host := by
  unfold putKey
  extract_lets n
  clear_value n
  cases n with
  | none => rfl
  | some n => rfl

variable {s : State} {a : AdmHdr} {p spsp n t k : Nat} {w : Bool} (h : AdminServed s a false false)

include h

/-- Protocols 0x00 and 0x01 are the only ones. -/
theorem security_unsupported (hp : 1 < p) :
    AdminCompletes (exec (.securitySend a p spsp n t k w) s) s s a .invalidField 0 [] ∧
      AdminCompletes (exec (.securityReceive a p spsp) s) s s a .invalidField 0 [] :=
  ⟨h.unchanged (if_pos (by simp [hp])), h.unchanged (if_pos (by simp [hp]))⟩

theorem securitySend_information : AdminCompletes (exec (.securitySend a 0 spsp n t k w) s) s s a .success 0 [] := by
  refine h.unchanged ?_
  simp

variable (hc : s.sec.cryptoDisable = false)

include hc

theorem securityReceive_returns (hp : p ≤ 1) : ∃ d, AdminCompletes (exec (.securityReceive a p spsp) s) s (tickFree s) a .success 0 d :=
  ⟨_, h.draws (if_neg (by simp [hc, hp]))⟩

variable {ns : NsSt} (hspsp : spsp ≠ 1) (hns : nsOf s n = some ns)

include hspsp hns

theorem securitySend_refused {e : Nat} (he : injectRefusal s ns a.fn t w false = some e) :
    AdminCompletes (exec (.securitySend a 1 spsp n t k w) s) s s a .accessDenied 0 [] := by
  refine h.unchanged ?_
  simp [hc, hspsp, hns, he]

/-- A key that is injected takes its slot, and the admin queue keeps its place. -/
theorem securitySend_injects (he : injectRefusal s ns a.fn t w false = none) :
    AdminCompletes (exec (.securitySend a 1 spsp n t k w) s) s (putKey s ns a.fn t k) a .success 0 [] := by
  have hhost := putKey_host s ns a.fn t k
  refine h.completes ?_ (congrArg (·.posted) hhost) ?_
  · simp [hc, hspsp, hns, he]
  · have hfn : fnOf (putKey s ns a.fn t k) a.fn = fnOf s a.fn := by rw [fnOf, hhost, fnOf]
    exact h.2.of_eq (by rw [hfn]) (by rw [hfn]) (by rw [hhost]) (by rw [hfn]) (by rw [hhost])

end Security

/-! ### NVMe-MI (R214, R238, R398) -/

/-- A message that is served is answered to its endpoint: a health poll with the health bytes. -/
theorem exec_nvmeMiMctpMessage_served {s₀ : State} {e : Nat} {r : List Byte} (h : mctpServes (beginWake s₀ .mctp) = true) (hr : r ≠ []) :
    let s := beginWake s₀ .mctp
    let d := if isHealthPoll r then healthBytes s else Config.freeBytes s.free
    exec (.nvmeMiMctpMessage e r) s₀ = .next (tickFree { s with hmp := { s.hmp with miOut := s.hmp.miOut ++ [(e, d)] } }) :=
  congrArg _ (if_neg (by simp [h, hr]))

theorem exec_nvmeMiMctpMessage_unserved {s₀ : State} {e : Nat} {r : List Byte} (h : mctpServes (beginWake s₀ .mctp) = false ∨ r = []) :
    exec (.nvmeMiMctpMessage e r) s₀ = .next (beginWake s₀ .mctp) := by
  refine congrArg _ (if_pos ?_)
  rcases h with h | h <;> simp [h]

/-! ### Get Log Page and Identify (R60, R214, R217) -/

section Logs

variable {s : State} {a : AdmHdr} {lid n off dw : Nat} (h : AdminServed s a false true)

include h

theorem exec_getLogPage_page {b : List Byte} (hl : lid ≠ 0xC2) (hb : logBytes s a.fn lid n = some b) :
    exec (.getLogPage a lid n off dw) s = .next (logRead (adminDone s a .success 0 ((b.drop off).take (4 * dw))) a.fn lid n) := by
  refine h.next ?_
  simp only [hl, hb, if_false]

theorem getLogPage_unknown (hl : lid ≠ 0xC2) (hb : logBytes s a.fn lid n = none) :
    AdminCompletes (exec (.getLogPage a lid n off dw) s) s s a .invalidLogPage 0 [] := by
  refine h.unchanged ?_
  simp only [hl, hb, if_false]

theorem getLogPage_backing_unknown (hns : nsOf s n = none) :
    AdminCompletes (exec (.getLogPage a 0xC2 n off dw) s) s s a .invalidNamespace 0 [] := by
  refine h.unchanged ?_
  simp only [hns, if_true]

/-- The Zone Backing page of a namespace that the function may ask about. -/
theorem getLogPage_backing {ns : NsSt} (hns : nsOf s n = some ns) (ha : a.fn = 0 ∨ attachedTo ns a.fn = true) :
    (off % 16 = 0 → AdminCompletes (exec (.getLogPage a 0xC2 n off dw) s) s s a .success 0 (backingBytes s ns off (4 * dw))) ∧
    (off % 16 ≠ 0 → AdminCompletes (exec (.getLogPage a 0xC2 n off dw) s) s s a .invalidField 0 []) := by
  have hseen : (decide (a.fn ≠ 0) && !attachedTo ns a.fn) = false := by
    rcases ha with ha | ha <;> simp [ha]
  refine ⟨fun ho => h.unchanged ?_, fun ho => h.unchanged ?_⟩
  · simp only [hns, hseen, ho, Bool.false_eq_true, ne_eq, not_true_eq_false, if_true, if_false]
  · simp only [hns, hseen, ho, Bool.false_eq_true, ne_eq, not_false_eq_true, if_true, if_false]

variable {cns csi c : Nat}

theorem identify_returns {b : List Byte} (hb : identifyBytes s a.fn cns csi n c = .ok b) :
    AdminCompletes (exec (.identify a cns csi n c) s) s (tickFree s) a .success 0 b := by
  refine h.draws ?_
  simp only [hb]

theorem identify_refused {e : NvmeStatus} (he : identifyBytes s a.fn cns csi n c = .error e) :
    AdminCompletes (exec (.identify a cns csi n c) s) s s a e 0 [] := by
  refine h.unchanged ?_
  simp only [he]

end Logs

/-- CNS 0x1D is none of Table 09.7. -/
theorem identifyBytes_unlisted (s : State) (fn csi n c : Nat) : identifyBytes s fn 0x1D csi n c = .error .invalidField := rfl

/-- Settles O16: security commands by their protocol, an NVMe-MI message by whether it is served, a page by its identifier. -/
theorem logsSecurityAndIdentify : Obligations.LogsSecurityAndIdentify := by
  refine ⟨⟨fun s a h => ⟨fun p spsp n t k w hp => (security_unsupported h hp).1, fun spsp n t k w => securitySend_information h,
        fun hc spsp n t k w ns hspsp hns => ⟨securitySend_injects h hc hspsp hns, fun hne => ?_⟩,
        fun p spsp hp => (security_unsupported (n := 0) (t := 0) (k := 0) (w := false) h hp).2,
        fun hc p spsp hp => securityReceive_returns h hc hp⟩,
      fun s a h => ⟨fun r => ⟨_, h.draws rfl⟩, _, _, h.draws rfl⟩,
      fun s₀ e r => ⟨fun hs hr => ⟨_, exec_nvmeMiMctpMessage_served hs hr, fun hp => if_pos hp⟩, exec_nvmeMiMctpMessage_unserved⟩⟩,
    fun s a h => ⟨fun lid n off dw b hl hb => exec_getLogPage_page h hl hb, fun lid n off dw hl hb => getLogPage_unknown h hl hb,
      fun n off dw ns hns ha => getLogPage_backing h hns ha, fun n off dw hns => getLogPage_backing_unknown h hns,
      fun cns csi n c b hb => identify_returns h hb, fun cns csi n c e he => identify_refused h he,
      fun csi n c => identify_refused h (identifyBytes_unlisted ..)⟩⟩
  obtain ⟨e, he⟩ := Option.ne_none_iff_exists'.1 hne
  exact securitySend_refused h hc hspsp hns he

end Sys2Proof.Machine

namespace Sys2Proof.Machine

/-! ### Zone management actions (R36 to R39, R42, R43, R46, R47) -/

@[simp] theorem zone_updZone_self (s : State) (nsid z : Nat) (f : ZoneSt → ZoneSt) :
    zone (updZone s nsid z f) nsid z = f (zone s nsid z) :=
  tblGet_tblUpd_self ..

section ZoneActions

variable {s : State} {ns : NsSt} {c : Cmd} {h : IoHdr} {z zi : Nat}

/-- The state and the status that an action leaves on its zone. -/
def actionResult (ns : NsSt) (zi : Nat) (x : State × NvmeStatus) : ZoneState × NvmeStatus := ((zone x.1 ns.nsid zi).st, x.2)

theorem zoneAction_open (hc : c.op = .zoneOpen h z false) : let st := (zone s ns.nsid zi).st
    (st = .explicitOpen → zoneAction s ns c zi = (s, .success)) ∧
    (st = .full ∨ st = .readOnly ∨ st = .offline → zoneAction s ns c zi = (s, .invalidZoneTransition)) ∧
    (st = .empty ∨ st = .closed ∨ st = .implicitOpen →
      (∀ e, activationError s c.fn (zone s ns.nsid zi) true = some e → zoneAction s ns c zi = (s, e)) ∧
      (activationError s c.fn (zone s ns.nsid zi) true = none →
        actionResult ns zi (zoneAction s ns c zi) = (.explicitOpen, .success))) := by
  refine ⟨fun hst => ?_, fun hst => ?_, fun hst => ⟨fun e he => ?_, fun he => ?_⟩⟩
  · simp only [zoneAction, hc, hst]
  · rcases hst with hst | hst | hst <;> simp only [zoneAction, hc, hst]
  · rcases hst with hst | hst | hst <;> simp only [zoneAction, hc, hst, he]
  · rcases hst with hst | hst | hst <;> simp only [zoneAction, hc, hst, he, actionResult, zone_updZone_self]

theorem zoneAction_close (hc : c.op = .zoneClose h z false) : let st := (zone s ns.nsid zi).st
    (st = .implicitOpen ∨ st = .explicitOpen → actionResult ns zi (zoneAction s ns c zi) = (.closed, .success)) ∧
    (st = .closed → zoneAction s ns c zi = (s, .success)) ∧
    (st = .empty ∨ st = .full ∨ st = .readOnly ∨ st = .offline → zoneAction s ns c zi = (s, .invalidZoneTransition)) := by
  refine ⟨fun hst => ?_, fun hst => ?_, fun hst => ?_⟩
  · rcases hst with hst | hst <;> simp only [zoneAction, hc, hst, actionResult, zone_updZone_self]
  · simp only [zoneAction, hc, hst]
  · rcases hst with hst | hst | hst | hst <;> simp only [zoneAction, hc, hst]

theorem zoneAction_finish (hc : c.op = .zoneFinish h z false) : let st := (zone s ns.nsid zi).st
    (st = .full → zoneAction s ns c zi = (s, .success)) ∧
    (st = .readOnly ∨ st = .offline → zoneAction s ns c zi = (s, .invalidZoneTransition)) ∧
    (st = .empty ∨ st = .implicitOpen ∨ st = .explicitOpen ∨ st = .closed →
      zoneAction s ns c zi = (finishZone s ns.nsid zi false, .success)) := by
  refine ⟨fun hst => ?_, fun hst => ?_, fun hst => ?_⟩
  · simp only [zoneAction, hc, hst]
  · rcases hst with hst | hst <;> simp only [zoneAction, hc, hst]
  · rcases hst with hst | hst | hst | hst <;> simp only [zoneAction, hc, hst]

theorem zoneAction_reset (hc : c.op = .zoneReset h z false) : let st := (zone s ns.nsid zi).st
    (st = .readOnly ∨ st = .offline → zoneAction s ns c zi = (s, .invalidZoneTransition)) ∧
    (st ≠ .readOnly → st ≠ .offline → zoneAction s ns c zi = (resetZone s ns zi, .success)) := by
  intro st
  refine ⟨fun hst => ?_, fun hro hoff => ?_⟩
  · rcases hst with hst | hst <;> simp only [st] at hst <;> simp only [zoneAction, hc, hst]
  · cases hst : (zone s ns.nsid zi).st with
    | readOnly => exact absurd hst hro
    | offline => exact absurd hst hoff
    | _ => simp only [zoneAction, hc, hst]

theorem zoneAction_offline (hc : c.op = .zoneOffline h z false) : let st := (zone s ns.nsid zi).st
    (st = .readOnly → zoneAction s ns c zi = (offlineZone s ns.nsid zi, .success)) ∧
    (st = .offline → zoneAction s ns c zi = (s, .success)) ∧
    (st ≠ .readOnly → st ≠ .offline → zoneAction s ns c zi = (s, .invalidZoneTransition)) := by
  intro st
  refine ⟨fun hst => ?_, fun hst => ?_, fun hro hoff => ?_⟩
  · simp only [st] at hst
    simp only [zoneAction, hc, hst]
  · simp only [st] at hst
    simp only [zoneAction, hc, hst]
  · cases hst : (zone s ns.nsid zi).st with
    | readOnly => exact absurd hst hro
    | offline => exact absurd hst hoff
    | _ => simp only [zoneAction, hc, hst]

theorem zoneAction_setExtension {e : List Byte} (hc : c.op = .setZoneDescriptorExtension h z e) : let st := (zone s ns.nsid zi).st
    (st ≠ .empty → zoneAction s ns c zi = (s, .invalidZoneTransition)) ∧
    (st = .empty → activationError s c.fn (zone s ns.nsid zi) false = none →
      actionResult ns zi (zoneAction s ns c zi) = (.closed, .success) ∧
      (zone (zoneAction s ns c zi).1 ns.nsid zi).ext = some (padTo 64 e)) := by
  intro st
  refine ⟨fun hne => ?_, fun hst he => ?_⟩
  · cases hst : (zone s ns.nsid zi).st with
    | empty => exact absurd hst hne
    | _ => simp only [zoneAction, hc, hst]
  · simp only [st] at hst
    simp only [zoneAction, hc, hst, he, actionResult, zone_updZone_self, and_self]

end ZoneActions

/-- Settles O32: each action by the state that it meets. -/
theorem zoneActions : Obligations.ZoneActions :=
  fun _ _ _ _ _ _ => ⟨zoneAction_open, zoneAction_close, zoneAction_finish, zoneAction_reset, zoneAction_offline,
    fun _ => zoneAction_setExtension⟩

end Sys2Proof.Machine

namespace Sys2Proof.Machine

/-! ### Island requests (R19, R20) -/

section IslandRequests

variable {s : State} {i : Nat}

/-- Among a request and later ones, one of the highest precedence wins; the earlier one where they are equal. -/
theorem winner_from (b : Requester × IslState) (l : List (Requester × IslState)) :
    ∃ w, l.foldl (fun a r => match a with
        | none => some r
        | some b => if requestRank b < requestRank r then some r else some b) (some b) = some w ∧
      (w = b ∨ w ∈ l) ∧ requestRank b ≤ requestRank w ∧ ∀ r ∈ l, requestRank r ≤ requestRank w := by
  induction l generalizing b with
  | nil => exact ⟨b, rfl, .inl rfl, Nat.le_refl _, by simp⟩
  | cons r l ih =>
    by_cases hr : requestRank b < requestRank r
    · obtain ⟨w, hw, hin, hge, hall⟩ := ih r
      refine ⟨w, by simpa only [List.foldl_cons, if_pos hr] using hw, .inr ?_, by omega, ?_⟩
      · simpa [eq_comm] using hin
      · simpa using ⟨hge, fun a b => hall (a, b)⟩
    · obtain ⟨w, hw, hin, hge, hall⟩ := ih b
      refine ⟨w, by simpa only [List.foldl_cons, if_neg hr] using hw, hin.imp_right (List.mem_cons_of_mem r), hge, ?_⟩
      simpa using ⟨by omega, fun a b => hall (a, b)⟩

theorem winner_cons (r : Requester × IslState) (l : List (Requester × IslState)) :
    ∃ w, winner (r :: l) = some w ∧ w ∈ r :: l ∧ ∀ x ∈ r :: l, requestRank x ≤ requestRank w := by
  obtain ⟨w, hw, hin, hge, hall⟩ := winner_from r l
  exact ⟨w, hw, List.mem_cons.2 hin, by simpa using ⟨hge, fun a b => hall (a, b)⟩⟩

theorem winner_isSome {reqs : List (Requester × IslState)} (h : reqs ≠ []) : (winner reqs).isSome = true := by
  cases reqs with
  | nil => exact absurd rfl h
  | cons r l =>
    obtain ⟨w, hw, -⟩ := winner_cons r l
    rw [hw, Option.isSome_some]

theorem winner_highest {reqs : List (Requester × IslState)} {w : Requester × IslState} (h : winner reqs = some w) :
    w ∈ reqs ∧ ∀ r ∈ reqs, requestRank r ≤ requestRank w := by
  cases reqs with
  | nil => cases h
  | cons r l =>
    obtain ⟨w', hw, hin⟩ := winner_cons r l
    obtain rfl : w' = w := Option.some.inj (hw.symm.trans h)
    exact hin

theorem exec_islandReportsRunning_released (hi : islIdValid i = true) (hr : (island s i).released = true)
    (hp : s.eav.powerLoss = false) : exec (.islandReportsRunning i) s = .next (islandReturns s i) :=
  congrArg _ (if_pos (by simp [hi, hr, hp]))

theorem exec_islandReportsRunning_ignored (h : islIdValid i = false ∨ (island s i).released = false ∨ s.eav.powerLoss = true) :
    exec (.islandReportsRunning i) s = .next s := by
  refine congrArg _ (if_neg ?_)
  rcases h with h | h | h <;> simp [h]

theorem exec_islandStateRequest_absent (hi : islIdValid i = false) (reqs : List (Requester × IslState)) :
    exec (.islandStateRequest i reqs) s = .next s := congrArg _ (if_pos (by simp [hi]))

/-- The requests for an island that there is: those out of reach are rejected, then the rest are decided. -/
theorem exec_islandStateRequest (hi : islIdValid i = true) (reqs : List (Requester × IslState)) :
    let ok := reqs.filter (withinReach s i)
    let t := rejectAll s i 0xFF (reqs.filter fun r => !withinReach s i r)
    exec (.islandStateRequest i reqs) s = .next (match winner ok with
      | none => t
      | some w => moveIsland (noteRelease (rejectAll t i (requesterNo w.1) (ok.filter fun r => r.2 != w.2)) i w) i w.2) :=
  congrArg _ ((if_neg (by simp [hi])).trans rfl)

theorem exec_islandStateRequest_noneInReach (hi : islIdValid i = true) {reqs : List (Requester × IslState)}
    (h : reqs.filter (withinReach s i) = []) :
    exec (.islandStateRequest i reqs) s = .next (rejectAll s i 0xFF (reqs.filter fun r => !withinReach s i r)) := by
  simp only [exec_islandStateRequest hi, h]
  rfl

theorem exec_islandStateRequest_won (hi : islIdValid i = true) {reqs : List (Requester × IslState)} {w : Requester × IslState}
    (hw : winner (reqs.filter (withinReach s i)) = some w) :
    exec (.islandStateRequest i reqs) s = .next (moveIsland (noteRelease (rejectAll
      (rejectAll s i 0xFF (reqs.filter fun r => !withinReach s i r)) i (requesterNo w.1)
      ((reqs.filter (withinReach s i)).filter fun r => r.2 != w.2)) i w) i w.2) := by
  simp only [exec_islandStateRequest hi, hw]

/-- A single request in reach is carried out with no rejection. -/
theorem exec_islandStateRequest_single (hi : islIdValid i = true) {r : Requester × IslState} (hr : withinReach s i r = true) :
    exec (.islandStateRequest i [r]) s = .next (moveIsland (noteRelease s i r) i r.2) := by
  have hok : [r].filter (withinReach s i) = [r] := by simp [hr]
  rw [exec_islandStateRequest_won hi (w := r) (by rw [hok]; rfl), hok]
  simp [hr, rejectAll, forEach]

theorem exec_islandStateRequest_outOfReach (hi : islIdValid i = true) {r : Requester × IslState} (hr : withinReach s i r = false) :
    exec (.islandStateRequest i [r]) s = .next (rejectRequest s i r 0xFF) := by
  rw [exec_islandStateRequest_noneInReach hi (by simp [hr])]
  simp [hr, rejectAll, forEach]

theorem moveIsland_of_ne_running {st : IslState} (h : st ≠ .running) :
    moveIsland s i st = if (island s i).st = st then s else leaveRunning s i st := by
  simp [moveIsland, h]

/-- Firmware may only release an island that Table 01.1 gives it no state for. -/
theorem withinReach_firmware_none (hf : firmwareStates i = []) {r : IslState} (hr : r ≠ .running) :
    withinReach s i (.firmware, r) = false := by
  simp [withinReach, hf, hr]

end IslandRequests

/-! ### Stalls (R17, R320) -/

section Stalls

variable {s : State} {a b i : Nat} {c : ChannelEnd}

theorem exec_handshakeStall_absent (h : islIdValid a = false ∨ islIdValid c.island = false) : exec (.handshakeStall a c) s = .next s := by
  refine congrArg _ (if_pos ?_)
  rcases h with h | h <;> simp [h]

/-- The wait has been raised already: less than 50 µs ago. -/
theorem sameWait_iff : sameWait s a c = true ↔ ∃ e ∈ s.isl.stalls, e.src = a ∧ e.into = c ∧ now s < e.since + 50 := by
  simp [sameWait, and_assoc]

theorem exec_handshakeStall_ignored (h : changingState s a c = true ∨ sameWait s a c = true) :
    exec (.handshakeStall a c) s = .next s := by
  refine congrArg _ (if_pos ?_)
  rcases h with h | h <;> simp [h]

theorem exec_handshakeStall_raises (ha : islIdValid a = true) (hc : islIdValid c.island = true) (hs : changingState s a c = false)
    (hw : sameWait s a c = false) : exec (.handshakeStall a c) s = .next
      (raiseFault { s with isl := { s.isl with stalls := s.isl.stalls.filter (fun e => !(e.src == a && e.into == c)) ++ [⟨a, c, now s⟩] } }
        (stallSrc c.island) (capOf 0xFF 3 (handshakeNo a c) c.island c.island)) :=
  congrArg _ (if_neg (by simp [ha, hc, hs, hw]))

theorem exec_handshakeStallSevere (a : Nat) (c : ChannelEnd) (s : State) :
    exec (.handshakeStallSevere a c) s = execHandshakeStallSevere a c s := rfl

/-- A stall that has been raised, when 1 ms has passed since. -/
theorem exec_handshakeStallSevere_found {e : Stall} (he : (s.isl.stalls.find? fun e => e.src == a && e.into == c) = some e) :
    exec (.handshakeStallSevere a c) s = .next (if now s < e.since + 1000 then s else restartStalled (makeSevere
      { s with isl := { s.isl with stalls := s.isl.stalls.erase e } } (stallSrc c.island) c.island) c.island) := by
  simp only [exec_handshakeStallSevere, execHandshakeStallSevere, he]

theorem exec_handshakeStallSevere_none (hn : (s.isl.stalls.find? fun e => e.src == a && e.into == c) = none) :
    exec (.handshakeStallSevere a c) s = .next s := by
  simp only [exec_handshakeStallSevere, execHandshakeStallSevere, hn]

theorem restartStalled_channel (h : 16 ≤ b) : restartStalled s b = severeChannel s (b - 16) := if_pos h

theorem restartStalled_restarts (h : b = 3 ∨ b = 6 ∨ b = 7 ∨ b = 8 ∨ b = 9) : restartStalled s b = restartIsland s b := by
  rcases h with rfl | rfl | rfl | rfl | rfl <;> rfl

theorem restartStalled_other (h : b < 3 ∨ b = 4 ∨ b = 5) : restartStalled s b = s := by
  have hn : [3, 6, 7, 8, 9].contains b = false := by
    simp only [List.contains_eq_mem, decide_eq_false_iff_not, List.mem_cons, List.not_mem_nil, or_false]
    omega
  exact (if_neg (by omega : ¬ 16 ≤ b)).trans (if_neg (by rw [hn]; exact Bool.false_ne_true))

end Stalls

/-! ### PLLs and the reference clock (R382, R383) -/

section Clocks

variable {s : State} {i : Nat}

/-- An island that is held in reset or gated holds no lock to lose. -/
theorem stateDepth_ge_three (st : IslState) : 3 ≤ stateDepth st ↔ st = .heldInReset ∨ st = .gated := by
  cases st <;> simp [stateDepth]

theorem exec_pllLossOfLock_ignored
    (h : i = 0 ∨ islIdValid i = false ∨ (island s i).st = .heldInReset ∨ (island s i).st = .gated) :
    exec (.pllLossOfLock i) s = .next s := by
  refine congrArg _ (if_pos ?_)
  rw [← stateDepth_ge_three] at h
  rcases h with h | h | h <;> simp [h]

theorem exec_pllLossOfLock_locked (h0 : 0 < i) (hi : islIdValid i = true)
    (hs : (island s i).st = .running ∨ (island s i).st = .stopped ∨ (island s i).st = .isolated) :
    exec (.pllLossOfLock i) s = .next (pllReact (raiseFault s 311 (capOf 6 5 0 i i)) i) := by
  have hd : ¬ 3 ≤ stateDepth (island s i).st := by
    rw [stateDepth_ge_three]
    rcases hs with hs | hs | hs <;> simp [hs]
  exact congrArg _ (if_neg (by simpa [Nat.ne_of_gt h0, hi] using hd))

theorem pllReact_eq : pllReact s i = if i = 0 ∨ islIdValid i = false ∨
      ((island s i).st ≠ .running ∧ (island s i).st ≠ .stopped ∧ (island s i).st ≠ .isolated)
    then s else releaseIsland (leaveRunning s i .heldInReset) i := by
  unfold pllReact restartIsland isRunning
  refine if_congr ?_ rfl rfl
  simp [and_assoc, or_assoc]

theorem exec_referenceClockLost (s : State) : exec .referenceClockLost s = execReferenceClockLost s := rfl

theorem exec_referenceClockLost_again (h : s.isl.sysrefOk = false) : exec .referenceClockLost s = .next s := by
  simp [exec_referenceClockLost, execReferenceClockLost, h]

theorem exec_referenceClockLost_raises (h : s.isl.sysrefOk = true) :
    exec .referenceClockLost s = .next (sysrefReact (raiseFault s 312 (capOf 6 5 0 0 0))) := by
  simp [exec_referenceClockLost, execReferenceClockLost, h]

end Clocks

/-- The island named is as Table 01.1 has it in its new state. -/
theorem island_setIslandState {s : State} {i : Nat} (hi : islIdValid i = true) (hl : s.isl.islands.length = 42) (st : IslState) :
    island (setIslandState s i st) i = movedIsland (now s) st (island s i) := by
  unfold island
  rw [setIslandState_islands, vecGet_vecUpd_self _ _ _ _ (by rw [hl]; exact islIndex_lt hi)]

/-- An island is fenced in every state but Running and Stopped (R19). -/
theorem movedIsland_fenced (time : Nat) (st : IslState) (x : Island) : (st = .running → (movedIsland time st x).fenced = false) ∧
    (st ≠ .running → st ≠ .stopped → (movedIsland time st x).fenced = true) := by
  cases st <;> simp [movedIsland]

/-- Settles O50: requests by their reach and precedence, stalls by the time since they were raised, a lost lock by the island's
state. -/
theorem islandChanges : Obligations.IslandChanges := by
  refine ⟨fun s i => ⟨exec_islandReportsRunning_released, exec_islandReportsRunning_ignored,
      fun reqs hi => exec_islandStateRequest_absent hi reqs,
      fun r hi => ⟨exec_islandStateRequest_single hi, exec_islandStateRequest_outOfReach hi⟩,
      fun reqs hi => ⟨exec_islandStateRequest_noneInReach hi, fun w hw => exec_islandStateRequest_won hi hw⟩,
      fun reqs => ⟨winner_isSome, fun w hw => winner_highest hw⟩, fun r reqs n => ⟨rfl, rfl⟩,
      fun st h => moveIsland_of_ne_running h, fun r => ⟨rfl, rfl⟩, fun r hr => ⟨?_, ?_, ?_, ?_⟩⟩,
    fun s a c ha hc => ⟨fun h => exec_handshakeStall_ignored (h.imp_right sameWait_iff.2), fun hs hw => ?_, fun e he => ?_,
      exec_handshakeStallSevere_none⟩,
    fun s a c h => exec_handshakeStall_absent h,
    fun s b => ⟨restartStalled_channel, restartStalled_restarts, restartStalled_other⟩,
    fun s i => ⟨exec_pllLossOfLock_ignored, exec_pllLossOfLock_locked, exec_referenceClockLost_again,
      exec_referenceClockLost_raises, rfl, pllReact_eq⟩,
    fun s i st hi hl => ?_⟩
  · exact withinReach_firmware_none rfl hr
  · exact withinReach_firmware_none rfl hr
  · exact withinReach_firmware_none rfl hr
  · exact withinReach_firmware_none rfl hr
  · refine exec_handshakeStall_raises ha hc hs (Bool.eq_false_iff.2 fun h => ?_)
    obtain ⟨e, hin, hsrc, hinto, hnow⟩ := sameWait_iff.1 h
    exact absurd (hw e hin hsrc hinto) (Nat.not_le.2 hnow)
  · have hgo := exec_handshakeStallSevere_found he
    exact ⟨fun h => by rw [hgo, if_pos h], fun h => by rw [hgo, if_neg (Nat.not_lt.2 h)]⟩
  · rw [island_setIslandState hi hl]
    exact ⟨movedIsland_st _ _ _, movedIsland_fenced _ _ _⟩

end Sys2Proof.Machine

namespace Sys2Proof.Machine

/-! ### Issue of a descriptor (R139 to R141, R146, R147, R149, R150, R307) -/

theorem exec_descriptorIssue (ch tag : Nat) (ok : Bool) (s : State) :
    exec (.descriptorIssue ch tag ok) s = execDescriptorIssue ch tag ok s := rfl

/-- A queued descriptor of a channel that issues, no suspend window's and of no provisional rebuild. -/
structure MayIssue (s : State) (ch tag : Nat) (d : Desc) : Prop where
  found : descOf s ch tag = some d
  queued : d.st = .queued
  notWindow : d.opcode ≠ 0x30
  running : isRunning s (chIsland ch) = true
  notReplaying : s.eav.replaying = false
  notProvisional : isProvisional s d = false

/-- What becomes of the first descriptor of its die's queue. -/
def issueFirst (s : State) (ch : Nat) (d : Desc) (ok : Bool) : State :=
  if badDesc s d then workLost (closeDesc (chFault s ch 1 d 0x37) d 0x37 0) d
  else if !bufOk s (chIsland ch) d.buf then workLost (closeDesc (chFault s ch 6 d 0x37) d 0x37 0) d
  else if now s < d.start then s
  else if (isProgOp d.opcode || isEraseOp d.opcode) && writeBlocked s d then closeDesc (dropMove s d) d 0x30 0
  else if interlocked s d then workLost (closeDesc (chFault s ch 2 d 0x32) d 0x32 0) d
  else if !dieReadyFor s d then s
  else if isProgOp d.opcode && !ok then sealLost (closeDesc (chFault (dropMove s d) ch 5 d 0x35) d 0x35 0) d
  else if !tokensAllow s d then updDesc s d fun x => { x with waitSince := some (x.waitSince.getD (now s)) }
  else issueDesc s d

section Issue

variable {s : State} {ch tag : Nat} {d : Desc} {ok : Bool}

theorem exec_descriptorIssue_behind (h : MayIssue s ch tag d) (hahead : ∃ x ∈ s.fl.descs, queuedAhead s x d = true) :
    exec (.descriptorIssue ch tag ok) s = .next s := by
  have hany : s.fl.descs.any (queuedAhead s · d) = true := by simpa using hahead
  simp only [exec_descriptorIssue, execDescriptorIssue, h.found, hany, Bool.or_true, if_true]

theorem exec_descriptorIssue_first (h : MayIssue s ch tag d) (hfirst : ∀ x ∈ s.fl.descs, queuedAhead s x d = false) :
    exec (.descriptorIssue ch tag ok) s = .next (issueFirst s ch d ok) := by
  have hany : s.fl.descs.any (queuedAhead s · d) = false := by simpa using hfirst
  have hwaits : (d.st != .queued || d.opcode == 0x30 || !isRunning s (chIsland ch) || s.eav.replaying || isProvisional s d ||
      s.fl.descs.any (queuedAhead s · d)) = false := by
    simp [h.queued, h.notWindow, h.running, h.notReplaying, h.notProvisional, hany]
  simp only [exec_descriptorIssue, execDescriptorIssue, h.found, hwaits, Bool.false_eq_true, if_false, issueFirst]

theorem issueFirst_bad (hb : badDesc s d = true) : issueFirst s ch d ok = workLost (closeDesc (chFault s ch 1 d 0x37) d 0x37 0) d :=
  if_pos hb

variable (hb : badDesc s d = false)

include hb

theorem issueFirst_buffer (hbuf : bufOk s (chIsland ch) d.buf = false) :
    issueFirst s ch d ok = workLost (closeDesc (chFault s ch 6 d 0x37) d 0x37 0) d := by
  simp [issueFirst, hb, hbuf]

variable (hbuf : bufOk s (chIsland ch) d.buf = true)

include hbuf

theorem issueFirst_early (ht : now s < d.start) : issueFirst s ch d ok = s := by
  simp [issueFirst, hb, hbuf, ht]

variable (ht : d.start ≤ now s)

include ht

theorem issueFirst_blocked (hop : (isProgOp d.opcode || isEraseOp d.opcode) = true) (hw : writeBlocked s d = true) :
    issueFirst s ch d ok = closeDesc (dropMove s d) d 0x30 0 := by
  simp only [issueFirst, hb, hbuf, Nat.not_lt.2 ht, hop, hw, Bool.not_true, Bool.and_self, Bool.false_eq_true, if_true, if_false]

variable (hw : ((isProgOp d.opcode || isEraseOp d.opcode) && writeBlocked s d) = false)

include hw

theorem issueFirst_interlocked (hi : interlocked s d = true) :
    issueFirst s ch d ok = workLost (closeDesc (chFault s ch 2 d 0x32) d 0x32 0) d := by
  simp only [issueFirst, hb, hbuf, Nat.not_lt.2 ht, hw, hi, Bool.not_true, Bool.false_eq_true, if_true, if_false]

variable (hi : interlocked s d = false)

include hi

theorem issueFirst_busy (hr : dieReadyFor s d = false) : issueFirst s ch d ok = s := by
  simp only [issueFirst, hb, hbuf, Nat.not_lt.2 ht, hw, hi, hr, Bool.not_true, Bool.not_false, Bool.false_eq_true, if_true, if_false]

variable (hr : dieReadyFor s d = true)

include hr

theorem issueFirst_seal (hop : isProgOp d.opcode = true) :
    issueFirst s ch d false = sealLost (closeDesc (chFault (dropMove s d) ch 5 d 0x35) d 0x35 0) d := by
  simp only [issueFirst, hb, hbuf, Nat.not_lt.2 ht, hw, hi, hr, Bool.not_true, Bool.false_eq_true, if_false]
  simp only [hop, Bool.not_false, Bool.and_self, if_true]

theorem issueFirst_sealed : issueFirst s ch d true =
    if tokensAllow s d then issueDesc s d else updDesc s d fun x => { x with waitSince := some (x.waitSince.getD (now s)) } := by
  cases htok : tokensAllow s d <;>
    simp only [issueFirst, hb, hbuf, Nat.not_lt.2 ht, hw, hi, hr, htok, Bool.not_true, Bool.not_false, Bool.and_false, Bool.false_eq_true,
      if_true, if_false]

end Issue

/-- An issued descriptor holds its tokens. -/
theorem issueDesc_liveTokens (s : State) (d : Desc) : (issueDesc s d).fl.liveTokens = s.fl.liveTokens + d.tokens := by
  unfold issueDesc
  extract_lets u v
  split
  · rfl
  · split
    · rfl
    · split <;> rfl

/-! ### Completion (R18, R19, R143, R162) -/

theorem exec_descriptorCompletion (ch tag : Nat) (out : DieOutcome) (s : State) :
    exec (.descriptorCompletion ch tag out) s = execDescriptorCompletion ch tag out s := rfl

section Completion

variable {s : State} {ch tag t : Nat} {d : Desc} (out : DieOutcome)

theorem exec_descriptorCompletion_absent (h : descOf s ch tag = none) : exec (.descriptorCompletion ch tag out) s = .next s := by
  simp only [exec_descriptorCompletion, execDescriptorCompletion, h]

theorem exec_descriptorCompletion_queued (h : descOf s ch tag = some d) (hq : d.st = .queued) :
    exec (.descriptorCompletion ch tag out) s = .next s := by
  simp only [exec_descriptorCompletion, execDescriptorCompletion, h, hq]

variable (h : descOf s ch tag = some d) (hi : d.st = .issued t)

include h hi

theorem exec_descriptorCompletion_clockHeld (hc : (island s (chIsland ch)).st = .stopped) :
    exec (.descriptorCompletion ch tag out) s = .next s := by
  simp only [exec_descriptorCompletion, execDescriptorCompletion, h, hi, clockRuns_eq_false_iff.2 hc, Bool.not_false, if_true]

variable (hc : (island s (chIsland ch)).st ≠ .stopped)

include hc

theorem exec_descriptorCompletion_finishes
    (hf : ∀ u ∈ tokenUnits d 0, isFenced s (chIsland d.ch) (unitIsland u) false = false) :
    exec (.descriptorCompletion ch tag out) s = .next (reevaluateAll (sweepThatches (finishDesc s d out))) := by
  have hruns : clockRuns s ch = true := by simpa [clockRuns] using hc
  have hnone : tokenRefused s d = [] := by simpa [tokenRefused] using hf
  simp only [exec_descriptorCompletion, execDescriptorCompletion, h, hi, hruns, hnone, Bool.not_true, Bool.false_eq_true, if_false]

/-- A token that the fence of its only unit refuses goes no further (R19). -/
theorem exec_descriptorCompletion_refused {u : DestUnit} (hu : tokenUnits d 0 = [u])
    (hf : isFenced s (chIsland d.ch) (unitIsland u) false = true) :
    exec (.descriptorCompletion ch tag out) s = .next (sendToken s (chIsland ch) (unitIsland u) false d.seqTag) := by
  have hruns : clockRuns s ch = true := by simpa [clockRuns] using hc
  have hone : tokenRefused s d = [u] := by simp [tokenRefused, hu, hf]
  simp only [exec_descriptorCompletion, execDescriptorCompletion, h, hi, hruns, hone, Bool.not_true, Bool.false_eq_true, if_false]
  rfl

end Completion

section Finish

variable {s : State} {d : Desc} (hl : (die s (descDie d)).lostStatus = false)

include hl

theorem finishDesc_dieFailure : finishDesc s d .dieFailure = deadDie s d 0x21 false := by
  simp only [finishDesc, hl, Bool.false_eq_true, if_false]

theorem finishDesc_readErased (hr : isReadOp d.opcode = true) :
    finishDesc s d .readErased = readFailed (closeDesc (countCodewords s d 0) d 3 0) d (allCws d) := by
  simp only [finishDesc, hl, hr, Bool.false_eq_true, if_true, if_false]

/-- A read all of whose codewords fail. -/
theorem finishDesc_readFail (hr : isReadOp d.opcode = true) : finishDesc s d (.readFail (allCws d)) =
    readFailed (holdHard (closeDesc (countCodewords s d 1) d 2 0) d (allCws d)) d (allCws d) := by
  simp only [finishDesc, hl, hr, Nat.and_self, ite_self, Bool.false_eq_true, if_true, if_false]

theorem finishDesc_eraseFailed (hr : isReadOp d.opcode = false) (he : isEraseOp d.opcode = true) (planes : Nat) :
    finishDesc s d (.failed planes) = eraseFailed (closeDesc s d 0x11 0) d planes := by
  simp only [finishDesc, hl, hr, he, Bool.false_eq_true, if_true, if_false]

variable (hr : isReadOp d.opcode = false)

include hr

theorem finishDesc_programFailed (he : isEraseOp d.opcode = false) (planes : Nat) :
    finishDesc s d (.failed planes) = programFailed (closeDesc s d 0x10 0) d planes := by
  simp only [finishDesc, hl, hr, he, Bool.false_eq_true, if_false]

theorem finishDesc_programDone {t pos x : Nat} {fine : Bool} (hp : d.purpose = .program t pos x fine) :
    finishDesc s d .done = programDone (closeDesc s d 0 0) t pos x fine := by
  simp only [finishDesc, hl, hr, hp, Bool.false_eq_true, if_false]

end Finish

/-! ### A descriptor that is closed (R143) -/

@[simp] theorem sendToken_fl (s : State) (src dst : Nat) (data : Bool) (tag : Nat) : (sendToken s src dst data tag).fl = s.fl := by
  unfold sendToken
  extract_lets h
  (repeat' split) <;> rfl

/-- Closing an issued descriptor gives back its tokens, takes it out of the store and returns one completion token. -/
theorem closeDesc_issued {s : State} {d : Desc} {t : Nat} (h : d.st = .issued t) (status corrected : Nat) :
    let u := closeDesc s d status corrected
    u.fl.liveTokens = s.fl.liveTokens - d.tokens ∧
      u.fl.descs = s.fl.descs.filter (fun x => !(x.ch == d.ch && x.seqTag == d.seqTag)) ∧
      ∃ k, u.fl.tokens = s.fl.tokens ++ [k] ∧ k.ch = d.ch ∧ k.seqTag = d.seqTag ∧ k.status = status ∧
        k.maxCorrected = min corrected 255 := by
  simp only [closeDesc, h, chargeBackground, updMeter_fl, unbook, endDesc, forEach_proj State.fl _ _ _ fun _ _ => sendToken_fl ..]
  split <;> exact ⟨rfl, rfl, _, rfl, rfl, rfl, rfl, rfl⟩

/-! ### Booking of a pass (R119, R150, R184) -/

section Pass

variable {s : State} {t pos : Nat}

theorem exec_programPassBooking_stopped (h : s.eav.powerLoss = true ∨ s.eav.replaying = true ∨ s.fl.window.isOpen = false ∨
    passYields s t = true ∨ targetYields s t pos = true) : exec (.programPassBooking t pos) s = .next s := by
  refine congrArg _ (if_pos ?_)
  rcases h with h | h | h | h | h <;> simp [h]

theorem exec_programPassBooking_books (hp : s.eav.powerLoss = false) (hr : s.eav.replaying = false) (hw : s.fl.window.isOpen = true)
    (hy : passYields s t = false) (ht : targetYields s t pos = false) :
    exec (.programPassBooking t pos) s = .next (bookPass s t pos) :=
  congrArg _ (if_neg (by simp [hp, hr, hw, hy, ht]))

/-- The fine pass of a member of a thatch that the host writes, booked with the FIRM share of the tokens. -/
theorem bookPass_fine {m : MemberSt} {e x : Nat} {u : State} (hm : (thatch s t).members[pos]? = some m)
    (he : lastCourse s (thatch s t) = some e) (hn : nextPass s t pos m (memberEnd m e) = some (x, true)) (hl : m.lost = false)
    (hup : dieUp s m.die = true) (htarget : ∀ src, (thatch s t).kind ≠ .target src) (hconv : (thatch s t).kind ≠ .convReloc)
    (hu : bookProgram s m.die (now s + 2) s.prof.tFine s.prof.tokProg (s.prof.planes * s.prof.zoneBits) .finePass true
      { descDefault with opcode := if s.prof.twoPass = 0 then 0x12 else 0x11, block := (blockAt m x).1, wordline := (blockAt m x).2,
                         thatch := t, cls := 7, buf := passBuf s (thatch s t) x pos, dest := (.fabric, t % 2 ^ 24),
                         purpose := .program t pos x true } = some u) :
    bookPass s t pos = { u with eav := { u.eav with staged := u.eav.staged.filter (· != (t, pos, x)) } } := by
  cases hk : (thatch s t).kind with
  | target src => exact absurd hk (htarget src)
  | convReloc => exact absurd hk hconv
  | _ => simp [-Nat.reducePow, bookPass, hm, he, hn, hl, hup, hk, hu]

end Pass

/-- Settles O36: an issue by the tests in their order, a completion by its token and its outcome, a pass by what bars it. -/
theorem descriptorsIssueAndComplete : Obligations.DescriptorsIssueAndComplete := by
  refine ⟨fun s ch tag d hfound hq hw hrun hrep hprov => ?_, fun s ch tag out => ⟨fun d t hd hi =>
      ⟨exec_descriptorCompletion_clockHeld out hd hi, fun hc => ⟨exec_descriptorCompletion_finishes out hd hi hc,
        fun u hu hf => exec_descriptorCompletion_refused out hd hi hc hu hf⟩⟩,
      exec_descriptorCompletion_absent out, fun d hd hq => exec_descriptorCompletion_queued out hd hq⟩,
    fun s d hl planes => ⟨finishDesc_dieFailure hl, fun hr => ⟨finishDesc_readErased hl hr, finishDesc_readFail hl hr⟩,
      fun hr he => finishDesc_eraseFailed hl hr he planes,
      fun hr he => ⟨finishDesc_programFailed hl hr he planes, fun t pos x fine hp => finishDesc_programDone hl hr hp⟩⟩,
    fun s d t hi status corrected => ?_, fun s t pos => ⟨fun hp hr hw hy ht => ?_, exec_programPassBooking_stopped⟩⟩
  · have hmay : MayIssue s ch tag d := ⟨hfound, hq, hw, hrun, hrep, hprov⟩
    refine ⟨fun hahead ok => exec_descriptorIssue_behind hmay hahead, fun hfirst => ?_⟩
    have go (ok : Bool) := exec_descriptorIssue_first (ok := ok) hmay hfirst
    refine ⟨fun hb ok => ?_, fun hb hbuf ok => ?_, fun hb hbuf => ⟨fun ht ok => ?_, fun ht => ⟨fun hop hwb ok => ?_, fun hwb =>
      ⟨fun hi ok => ?_, fun hi hr ok => ?_, fun hi hr =>
        ⟨fun hop => ?_, fun htok => ?_, fun htok => ⟨?_, issueDesc_liveTokens s d⟩⟩⟩⟩⟩⟩
    · exact (go _).trans (congrArg _ (issueFirst_bad hb))
    · exact (go _).trans (congrArg _ (issueFirst_buffer hb hbuf))
    · exact (go _).trans (congrArg _ (issueFirst_early hb hbuf ht))
    · exact (go _).trans (congrArg _ (issueFirst_blocked hb hbuf ht hop hwb))
    · exact (go _).trans (congrArg _ (issueFirst_interlocked hb hbuf ht hwb hi))
    · exact (go _).trans (congrArg _ (issueFirst_busy hb hbuf ht hwb hi hr))
    · exact (go _).trans (congrArg _ (issueFirst_seal hb hbuf ht hwb hi hr hop))
    · exact (go _).trans (congrArg _ (by rw [issueFirst_sealed hb hbuf ht hwb hi hr, htok, if_neg Bool.false_ne_true]))
    · exact (go _).trans (congrArg _ (by rw [issueFirst_sealed hb hbuf ht hwb hi hr, htok, if_pos rfl]))
  · obtain ⟨hlive, hdescs, htoken⟩ := closeDesc_issued (s := s) hi status corrected
    refine ⟨hlive, fun x hx hch htag => ?_, htoken⟩
    simp [hdescs, hch, htag] at hx
  · have hbooks := exec_programPassBooking_books hp hr hw hy ht
    exact ⟨hbooks, fun m e x hm he hn hl hup htarget hconv u hu =>
      hbooks.trans (congrArg _ (bookPass_fine hm he hn hl hup htarget hconv hu))⟩

end Sys2Proof.Machine

namespace Sys2Proof.Machine

/-! ### An extended LBA counts with its metadata (R218) -/

/-- A conventional namespace whose logical blocks carry their metadata at their end. -/
def extendedNs : NsSt := ⟨1, false, 4096, 1, .none, true, [], [0]⟩

/-- A started part with the link up, the PF enabled with one I/O queue pair, and one namespace of extended LBAs. -/
def extendedPart : State :=
  { State.reset with
    isl := { islReset with islands := List.replicate 42 ⟨.running, none, false, false, false⟩ }
    boot := { bootReset with phase := 5 }
    zns := { znsReset with namespaces := [extendedNs] }
    host := { hostReset with
      linkUp := true
      fns := [(0, { fnDefault with online := true, present := true, ccEn := true, rdy := true, sqs := [(1, ⟨8, 1, 0, 0⟩)],
                                   cqs := [(1, { cqDefault with size := 8 })] })] } }

/-- A command header of the PF for the namespace of extended LBAs. -/
def extendedHdr : IoHdr := { fn := 0, sqid := 1, cid := 9, nsid := 1, cet := 0, cev := 0 }

/-- The commands of the PF that completed with an error before admission (R102). -/
def pfBeforeAdmission (s : State) : Nat := (tblGet fnCtrDefault 0 s.tel.fnCtr).beforeAdmission

/-- The PF's Write of the whole namespace's first 2,048 logical blocks. -/
def extendedWrite : Instr := .write extendedHdr 0 2048

/-- The command that the Write would be if it passed the checks before admission. -/
def extendedCmd : Cmd :=
  newCmd extendedPart extendedHdr extendedWrite true (up25 (writeSum extendedPart (2048 * 4096))) 0 2048 (2048 * 4096) (zoneOf extendedNs 0)

/-- The Write is counted as completed before admission. -/
theorem exec_extendedWrite :
    ∃ t, exec extendedWrite extendedPart = .next t ∧ pfBeforeAdmission t = 1 := ⟨_, rfl, by decide +kernel⟩

/-- An evaluation counts nothing there. -/
theorem pfBeforeAdmission_evaluate_extendedCmd :
    pfBeforeAdmission (evaluate (takeFetched extendedPart extendedHdr) extendedCmd) = 0 := by decide +kernel

/-- Refutes O30: a Write of 2,048 extended logical blocks fits the namespace and moves no more than 8 MiB of data, but its metadata counts
too (R218), so it completes with Invalid Field and is not evaluated. -/
theorem not_ioCommandsAreEvaluated : ¬ Obligations.IoCommandsAreEvaluated := by
  unfold Obligations.IoCommandsAreEvaluated
  rintro ⟨hevaluated, -⟩
  obtain ⟨-, hwrite, -⟩ := hevaluated extendedPart extendedHdr extendedNs (by decide +kernel) (by decide +kernel) (by decide) rfl
    (by decide) (by decide) (by decide +kernel)
  have hgoes : exec extendedWrite extendedPart = .next (evaluate (takeFetched extendedPart extendedHdr) extendedCmd) :=
    hwrite 0 2048 (by decide) (by decide)
  obtain ⟨t, hexec, hcount⟩ := exec_extendedWrite
  have ht : t = evaluate (takeFetched extendedPart extendedHdr) extendedCmd := Host.Outcome.next.inj (hexec.symm.trans hgoes)
  rw [ht, pfBeforeAdmission_evaluate_extendedCmd] at hcount
  exact absurd hcount (by decide)

end Sys2Proof.Machine

namespace Sys2Proof.Machine

/-! ### A held command that a recent fault meets is counted there (R105, R107) -/

/-- A part that has just lost a rail (source 308) and noted no command of it yet. -/
def railFaultPart : State := { State.reset with flt := { fltReset with recent := [⟨308, 0, 0, []⟩] } }

/-- A Flush of the PF that arrived with the fault and may be held for 10 µs. -/
def heldFlush : Cmd :=
  { newCmd railFaultPart ⟨0, 1, 9, 1, 0, 0⟩ (.flush ⟨0, 1, 9, 1, 0, 0⟩) true 25 0 0 0 none with t0 := 0, hend := 10 }

/-- The command is held, and the fault counts it among those it affects. -/
theorem recent_holdOrRefuse_heldFlush : (holdOrRefuse railFaultPart heldFlush 0xC1 noHint).flt.recent = [⟨308, 0, 0, [(0, 1, 9)]⟩] := by
  decide +kernel

/-- Refutes O31: holding a command changes more than the list of commands, for a recent fault that the command meets
counts it too (R105, R107). -/
theorem not_evaluationStartsCommands : ¬ Obligations.EvaluationStartsCommands := by
  unfold Obligations.EvaluationStartsCommands
  rintro ⟨hevaluate, -⟩
  obtain ⟨-, -, -, hhold⟩ := hevaluate railFaultPart heldFlush
  obtain ⟨-, -, hheld, -⟩ := hhold 0xC1 noHint
  have hstate := hheld (by decide) (by decide) (by decide) (by decide)
  have hrecent : (holdOrRefuse railFaultPart heldFlush 0xC1 noHint).flt.recent = railFaultPart.flt.recent := by rw [hstate]
  rw [recent_holdOrRefuse_heldFlush] at hrecent
  exact absurd hrecent (by decide)

end Sys2Proof.Machine

namespace Sys2Proof.Machine

/-! ### Evaluation of a held command (R75, R80, R84, R94) -/

theorem exec_heldCommandReevaluation (f q i : Nat) (s : State) :
    exec (.heldCommandReevaluation f q i) s = execHeldCommandReevaluation f q i s := rfl

theorem exec_holdEndExpiry (f q i : Nat) (s : State) : exec (.holdEndExpiry f q i) s = execHoldEndExpiry f q i s := rfl

/-- A command that is accepted now starts its work. -/
theorem evaluate_of_acceptedNow {s t : State} {c d : Cmd} (h : AcceptedNow s c t d) : evaluate s c = startCmd t d := by
  obtain ⟨hpower, hdegraded, ⟨ha, hwithin, hstart⟩ | ⟨ha, hb, ⟨hwithin, hstart⟩ | ⟨hwithin, hslack, hstart⟩⟩⟩ := h
  · simp [evaluate, acceptCmd, hpower, hdegraded, ha, hwithin, hstart]
  · have hnota : ((planService s c true).reason = 0 && withinContract s (planService s c true).cmd) = false := by
      simpa [imp_iff_not_or] using ha
    simp [evaluate, acceptCmd, hpower, hdegraded, hnota, hb, hwithin, hstart]
  · have hnota : ((planService s c true).reason = 0 && withinContract s (planService s c true).cmd) = false := by
      simpa [imp_iff_not_or] using ha
    simp [evaluate, acceptCmd, hpower, hdegraded, hnota, hb, hwithin, hslack, hstart]

section HeldCommand

variable {s : State} {f q i : Nat} {c : Cmd} (h : cmdOf s f q i = some c)

include h

theorem exec_heldCommandReevaluation_accepted (ha : c.accepted = true) :
    exec (.heldCommandReevaluation f q i) s = .next (resumePurlin s) := by
  simp only [exec_heldCommandReevaluation, execHeldCommandReevaluation, h, ha, if_true]

theorem exec_heldCommandReevaluation_held (ha : c.accepted = false) :
    exec (.heldCommandReevaluation f q i) s = .next (resumePurlin (evaluate s c)) := by
  simp only [exec_heldCommandReevaluation, execHeldCommandReevaluation, h, ha, Bool.false_eq_true, if_false]

theorem exec_holdEndExpiry_kept (hk : c.accepted = true ∨ now s < c.hend) : exec (.holdEndExpiry f q i) s = .next s := by
  have hk' : (c.accepted || decide (now s < c.hend)) = true := by simpa using hk
  simp only [exec_holdEndExpiry, execHoldEndExpiry, h, hk', if_true]

theorem exec_holdEndExpiry_held (ha : c.accepted = false) (he : c.hend ≤ now s) :
    exec (.holdEndExpiry f q i) s = .next (evaluate s c) := by
  have hk' : (c.accepted || decide (now s < c.hend)) = false := by simpa [ha] using he
  simp only [exec_holdEndExpiry, execHoldEndExpiry, h, hk', Bool.false_eq_true, if_false]

end HeldCommand

/-! ### Backing for an Empty zone (R39, R94) -/

theorem exec_thatchBindingDone (n z : Nat) (s : State) : exec (.thatchBindingDone n z) s = execThatchBindingDone n z s := rfl

theorem mem_bindingWaiters {s : State} {n z : Nat} {c : Cmd} : c ∈ bindingWaiters s n z ↔
    c ∈ s.adm.cmds ∧ c.accepted = false ∧ c.nsid = n ∧ c.zone = some z ∧ c.lastReason = 0xC8 := by
  simp [bindingWaiters, and_assoc]

theorem exec_thatchBindingDone_idle {s : State} {n z : Nat} (h : mgmtDown s = true ∨ bindingWaiters s n z = []) :
    exec (.thatchBindingDone n z) s = .next s := by
  rcases h with h | h
  · simp only [exec_thatchBindingDone, execThatchBindingDone, h, Bool.true_or, if_true]
  · simp only [exec_thatchBindingDone, execThatchBindingDone, h]
    cases nsOf s n <;> exact congrArg _ (ite_self _)

/-- The first waiter has a thatch bound to its zone, and every held command is evaluated; without one nothing changes. -/
theorem exec_thatchBindingDone_waiter {s : State} {n z : Nat} {c : Cmd} {l : List Cmd} {ns : NsSt} (hw : bindingWaiters s n z = c :: l)
    (hm : mgmtDown s = false) (hz : (zone s n z).thatch = none) (hn : nsOf s n = some ns) :
    exec (.thatchBindingDone n z) s = .next ((bindZone s ns z (servedZone s c z)).elim s reevaluateAll) := by
  simp only [exec_thatchBindingDone, execThatchBindingDone, hm, hz, hn, hw, Option.isSome_none, Bool.or_self, Bool.false_eq_true, if_false]
  cases bindZone s ns z (servedZone s c z) <;> rfl

/-- A zone that backing is bound to has a thatch. -/
theorem bindZone_thatch {s t : State} {ns : NsSt} {zi : Nat} {z : ZoneSt} (h : bindZone s ns zi z = some t) :
    (zone t ns.nsid zi).thatch.isSome = true := by
  obtain ⟨w, -, hw⟩ := List.exists_of_findSome?_eq_some h
  cases hbay : chooseBay (takeDue s 1) ns z w with
  | none => simp [hbay] at hw
  | some kb =>
    obtain ⟨r, -, rfl⟩ := Option.map_eq_some_iff.1 (by simpa only [hbay] using hw)
    simp

/-- The thatch of a zone that stays Empty with no command for it goes back. -/
theorem unbindEmpty_thatch {s : State} {n z : Nat} (he : (zone s n z).st = .empty)
    (hc : ∀ x ∈ s.adm.cmds, ¬(x.nsid = n ∧ x.zone = some z)) : (zone (unbindEmpty s n z) n z).thatch = none := by
  have hany : s.adm.cmds.any (fun c => c.nsid == n && c.zone == some z) = false := by simpa using hc
  cases ht : (zone s n z).thatch with
  | none => simp [unbindEmpty, ht]
  | some t => simp [unbindEmpty, ht, he, hany]

/-! ### Epochs and the calendar (R75, R91, R96) -/

theorem exec_slackEpochEnd (s : State) : exec .slackEpochEnd s = execSlackEpochEnd s := rfl

/-- An epoch that is not over, one that ended within the last epoch's time, and one that ended before it. -/
theorem slackEpoch_cases (s : State) :
    let ended : State := { s with adm := { s.adm with prevDraws := s.adm.draws, draws := [], epochStart := now s / 10000 * 10000 } }
    (now s < s.adm.epochStart + 10000 → exec .slackEpochEnd s = .next s) ∧
      (s.adm.epochStart + 10000 ≤ now s → now s < s.adm.epochStart + 20000 → exec .slackEpochEnd s = .next ended) ∧
      (s.adm.epochStart + 20000 ≤ now s → exec .slackEpochEnd s = .next { ended with adm := { ended.adm with prevDraws := [] } }) := by
  simp only [exec_slackEpochEnd, execSlackEpochEnd]
  refine ⟨fun hopen => ?_, fun hend hnext => ?_, fun hlate => ?_⟩
  · rw [if_pos hopen]
  · rw [if_neg (Nat.not_lt.2 hend), if_pos hnext]
  · rw [if_neg (by omega), if_neg (Nat.not_lt.2 hlate)]

/-- The calendar without the entries that end, and the occupancy of what still runs. -/
def endEntries (s : State) (gone : CalEntry → Bool) : State :=
  { s with fl := { s.fl with calendar := s.fl.calendar.filter (fun e => !gone e),
                             occupancy := s.fl.occupancy.filter fun o => decide (now s < o.start + o.length) } }

/-- An entry at `a` on die `d`, no suspend window's, that has ended. -/
def entryGone (s : State) (d a : Nat) (e : CalEntry) : Bool :=
  e.die == d && e.start == a && e.kind != .suspendWindow && decide (a + e.length ≤ now s)

theorem entryEnd_le_iff_entryGone (s : State) (d a : Nat) :
    (fun e : CalEntry => e.die == d && e.start == a && e.kind != .suspendWindow && decide (entryEnd e ≤ now s)) = entryGone s d a := by
  funext e
  by_cases hs : e.start = a
  · simp [entryGone, entryEnd, hs]
  · simp [entryGone, beq_eq_false_iff_ne.2 hs]

theorem exec_calendarEntryEnd (s : State) (d a : Nat) : exec (.calendarEntryEnd d a) s =
    .next (if !s.fl.calendar.any (entryGone s d a) then s else reevaluateAll (endEntries s (entryGone s d a))) := by
  rw [← entryEnd_le_iff_entryGone]
  rfl

/-! ### Data that the host sends (R22, R66, R182, R224) -/

theorem exec_hostReadCompletionArrival (f q i lat : Nat) (us bad : List Nat) (s : State) :
    exec (.hostReadCompletionArrival f q i lat us bad) s = execHostReadCompletionArrival f q i lat us bad s := rfl

theorem readLate_inTime {s : State} {c : Cmd} {lat : Nat} (h : lat ≤ s.prof.hostReadLat) : readLate s c lat = s :=
  if_pos (Nat.sub_eq_zero_of_le h)

theorem readLate_late {s : State} {c : Cmd} {lat : Nat} (h : s.prof.hostReadLat < lat) : readLate s c lat =
    updCmd (if c.hostLate then s else updFnCtr s c.fn fun k => { k with hostLate := k.hostLate + 1 }) c fun x =>
      { x with dl := x.dl + (lat - s.prof.hostReadLat), late := x.late + (lat - s.prof.hostReadLat), hostLate := true } :=
  if_neg (Nat.sub_ne_zero_of_lt h)

theorem sameCmd_self (c : Cmd) : sameCmd c c = true := by simp [sameCmd]

/-- The command of an identifier after a change that keeps every command's identifier. -/
theorem cmdOf_updCmd {s : State} {f q i : Nat} {b c : Cmd} (h : cmdOf s f q i = some c) (hb : sameCmd c b = true) (g : Cmd → Cmd)
    (hg : ∀ x, (g x).fn = x.fn ∧ (g x).sqid = x.sqid ∧ (g x).cid = x.cid) : cmdOf (updCmd s b g) f q i = some (g c) := by
  have hkey (x : Cmd) : ((g x).fn == f && (g x).sqid == q && (g x).cid == i) = (x.fn == f && x.sqid == q && x.cid == i) := by
    obtain ⟨hfn, hsq, hcid⟩ := hg x
    rw [hfn, hsq, hcid]
  have hpred : (fun x : Cmd => x.fn == f && x.sqid == q && x.cid == i) ∘ (fun x => if sameCmd x b then g x else x) =
      fun x => x.fn == f && x.sqid == q && x.cid == i := by
    funext x
    simp only [Function.comp_apply]
    split
    · exact hkey x
    · rfl
  unfold cmdOf updCmd at *
  rw [List.find?_map, hpred, h, Option.map_some, if_pos hb]

/-- What a late read makes of the command that it is of. -/
def lateCmd (s : State) (c : Cmd) (lat : Nat) : Cmd :=
  if lat - s.prof.hostReadLat = 0 then c
  else { c with dl := c.dl + (lat - s.prof.hostReadLat), late := c.late + (lat - s.prof.hostReadLat), hostLate := true }

theorem cmdOf_readLate {s : State} {f q i lat : Nat} {c : Cmd} (h : cmdOf s f q i = some c) :
    cmdOf (readLate s c lat) f q i = some (lateCmd s c lat) := by
  rcases Nat.lt_or_ge s.prof.hostReadLat lat with hl | hl
  · rw [readLate_late hl, lateCmd, if_neg (Nat.sub_ne_zero_of_lt hl)]
    refine cmdOf_updCmd ?_ (sameCmd_self c) _ fun x => ⟨rfl, rfl, rfl⟩
    split
    · exact h
    · exact h
  · rw [readLate_inTime hl, lateCmd, if_pos (Nat.sub_eq_zero_of_le hl), h]

theorem lateCmd_same (s : State) (c : Cmd) (lat : Nat) : sameCmd (lateCmd s c lat) c = true ∧ (lateCmd s c lat).accepted = c.accepted := by
  unfold lateCmd
  split <;> simp [sameCmd]

theorem lateCmd_listRead (s : State) (c : Cmd) (lat : Nat) : { lateCmd s c lat with listRead := true } =
    if lat - s.prof.hostReadLat = 0 then { c with listRead := true }
    else { c with dl := c.dl + (lat - s.prof.hostReadLat), late := c.late + (lat - s.prof.hostReadLat), hostLate := true,
                  listRead := true } := by
  unfold lateCmd
  split <;> rfl

/-- The state once the list of a command is read. -/
def listArrived (s : State) (c : Cmd) (lat : Nat) : State := updCmd (readLate s c lat) c fun x => { x with listRead := true }

/-- The state once `us`, marked by `marks`, has entered the Eaves Buffer. -/
def unitsArrived (s : State) (c : Cmd) (lat : Nat) (us marks : List Nat) : State :=
  let t := readLate s c lat
  let t := (allocBufs t 0 5 us.length).getD t
  let t := placeUnits { t with adm := { t.adm with hostReadsOpen := t.adm.hostReadsOpen - us.length } } c us marks
  sealBufs t 0 ((t.eav.units.drop (t.eav.units.length - us.length)).map (·.sealed))

section Arrival

variable {s : State} {f q i lat : Nat} {us bad : List Nat}

theorem exec_hostReadCompletionArrival_none (h : cmdOf s f q i = none ∨ s.eav.powerLoss = true) :
    exec (.hostReadCompletionArrival f q i lat us bad) s = .next s := by
  simp only [exec_hostReadCompletionArrival, execHostReadCompletionArrival]
  rcases h with h | h
  · simp only [h]
  · cases cmdOf s f q i <;> simp only [h, if_true]

variable {c : Cmd} (h : cmdOf s f q i = some c) (hp : s.eav.powerLoss = false)

include h

theorem cmdOf_listArrived : cmdOf (listArrived s c lat) f q i = some { lateCmd s c lat with listRead := true } :=
  cmdOf_updCmd (cmdOf_readLate h) (lateCmd_same s c lat).1 _ fun _ => ⟨rfl, rfl, rfl⟩

include hp

theorem exec_hostReadCompletionArrival_list (hl : readsList c = true) : exec (.hostReadCompletionArrival f q i lat us bad) s =
    .next (if c.accepted && listWaits c then startCmd (listArrived s c lat) { lateCmd s c lat with listRead := true }
      else listArrived s c lat) := by
  have hc := cmdOf_listArrived (lat := lat) h
  obtain ⟨-, ha⟩ := lateCmd_same s c lat
  unfold listArrived at hc ⊢
  simp only [exec_hostReadCompletionArrival, execHostReadCompletionArrival, h, hp, hl, hc, ha, Bool.false_eq_true, if_false, if_true]

variable (hl : readsList c = false)

include hl

theorem exec_hostReadCompletionArrival_stray (hs : c.accepted = false ∨ c.write = false ∨ c.endStatus ≠ none ∨ us = []) :
    exec (.hostReadCompletionArrival f q i lat us bad) s = .next s := by
  have hstop : (!(c.accepted && c.write) || c.endStatus.isSome || decide (min us.length (c.units - c.arrived) = 0)) = true := by
    rcases hs with hs | hs | hs | hs
    · simp [hs]
    · simp [hs]
    · simp [Option.isSome_iff_ne_none.2 hs]
    · simp [hs]
  simp only [exec_hostReadCompletionArrival, execHostReadCompletionArrival, h, hp, hl, hstop, Bool.false_eq_true, if_false, if_true]

variable (ha : c.accepted = true) (hw : c.write = true) (he : c.endStatus = none) (h0 : 0 < us.length)
  (hn : us.length ≤ c.units - c.arrived)

include ha hw he h0 hn

theorem exec_hostReadCompletionArrival_units (hbad : ∀ k ∈ bad, k < us.length) : exec (.hostReadCompletionArrival f q i lat us bad) s =
    .next (unitsArrived (if bad.isEmpty then s else { s with host := { s.host with aerUncorrected := s.host.aerUncorrected ++ [f] } })
      c lat us bad) := by
  have hgo : (!(c.accepted && c.write) || c.endStatus.isSome || decide (us.length = 0)) = false := by
    simp [ha, hw, he, List.length_pos_iff.1 h0]
  have hmarks : bad.filter (fun k => decide (k < us.length)) = bad := List.filter_eq_self.2 (by simpa using hbad)
  simp only [exec_hostReadCompletionArrival, execHostReadCompletionArrival, h, hp, hl, Nat.min_eq_left hn, hgo, hmarks, List.take_length,
    Bool.false_eq_true, if_false, unitsArrived]

end Arrival

/-! ### Copies in the Eaves Buffer (R182) -/

theorem exec_eavesCopyWritten (b : Bool) (f q i n : Nat) (s : State) :
    exec (.eavesCopyWritten b f q i n) s = execEavesCopyWritten b f q i n s := rfl

theorem exec_eavesCopyWritten_none {s : State} {f q i n : Nat} {b : Bool}
    (h : cmdOf s f q i = none ∨ notRunning s (if b then 7 else 6) = true) : exec (.eavesCopyWritten b f q i n) s = .next s := by
  simp only [exec_eavesCopyWritten, execEavesCopyWritten]
  rcases h with h | h
  · simp only [h]
  · cases cmdOf s f q i <;> simp only [h, Bool.or_true, if_true]

section Copies

variable {s : State} {f q i n : Nat} {b : Bool} {c : Cmd} (h : cmdOf s f q i = some c)

include h

theorem exec_eavesCopyWritten_done (hd : c.arrived ≤ if b then c.inB else c.inA) : exec (.eavesCopyWritten b f q i n) s = .next s := by
  simp only [exec_eavesCopyWritten, execEavesCopyWritten, h, Nat.sub_eq_zero_of_le hd, Nat.min_zero, decide_true, Bool.true_or, if_true]

theorem exec_eavesCopyWritten_units (hr : notRunning s (if b then 7 else 6) = false) (h0 : 0 < n)
    (hn : n ≤ c.arrived - if b then c.inB else c.inA) : exec (.eavesCopyWritten b f q i n) s = .next (copyWritten s c b n) := by
  simp only [exec_eavesCopyWritten, execEavesCopyWritten, h, Nat.min_eq_left hn, hr, Nat.ne_of_gt h0, decide_false, Bool.or_self,
    Bool.false_eq_true, if_false]

end Copies

/-- Settles O33: a held command by its evaluation, the zone's backing by its first waiter, the arrivals by what the command still awaits. -/
theorem admissionAndWrites : Obligations.AdmissionAndWrites := by
  refine ⟨⟨fun s f q i c h => ?_, fun s n z => ?_, fun s => ?_, fun s d a => ?_⟩, fun s f q i lat us bad c h hp => ?_,
    fun s f q i lat us bad h => exec_hostReadCompletionArrival_none h, fun s c lat => ⟨readLate_inTime, readLate_late⟩,
    fun s f q i n b c h hr => ⟨exec_eavesCopyWritten_units h hr, exec_eavesCopyWritten_done h⟩,
    fun s f q i n b h => exec_eavesCopyWritten_none h⟩
  · refine ⟨fun ha => ⟨exec_heldCommandReevaluation_held h ha, fun t d hacc => ?_⟩,
      fun ha => ⟨exec_heldCommandReevaluation_accepted h ha, exec_holdEndExpiry_kept h (.inl ha)⟩,
      exec_holdEndExpiry_held h, fun he => exec_holdEndExpiry_kept h (.inr he)⟩
    rw [← evaluate_of_acceptedNow hacc]
    exact ⟨exec_heldCommandReevaluation_held h ha, exec_holdEndExpiry_held h ha⟩
  · refine ⟨fun c => mem_bindingWaiters, exec_thatchBindingDone_idle, fun c l ns hw hm hz hn => ?_⟩
    have hgo := exec_thatchBindingDone_waiter hw hm hz hn
    exact ⟨fun t ht => ⟨by rw [hgo, ht, Option.elim_some], bindZone_thatch ht, unbindEmpty_thatch⟩,
      fun hnone => by rw [hgo, hnone, Option.elim_none]⟩
  · exact slackEpoch_cases s
  · rw [exec_calendarEntryEnd]
    exact ⟨fun hnone => congrArg _ (if_pos (congrArg (!·) hnone)),
      fun hany => congrArg _ (if_neg (Bool.not_eq_true _ ▸ congrArg (!·) hany))⟩
  · refine ⟨fun hl => ?_, fun hl ha hw he h0 hn => ⟨?_, fun hbad hne => ?_⟩, exec_hostReadCompletionArrival_stray h hp⟩
    · rw [exec_hostReadCompletionArrival_list h hp hl]
      refine ⟨fun hstay => congrArg _ (if_neg (by simp [hstay])), fun ha hwaits => ?_⟩
      exact congrArg _ ((if_pos (by simp [ha, hwaits])).trans (congrArg _ (lateCmd_listRead s c lat)))
    · exact exec_hostReadCompletionArrival_units h hp hl ha hw he h0 hn fun k hk => absurd hk List.not_mem_nil
    · rw [exec_hostReadCompletionArrival_units h hp hl ha hw he h0 hn hbad, List.isEmpty_eq_false_iff.2 hne, if_neg Bool.false_ne_true]
      rfl

end Sys2Proof.Machine

namespace Sys2Proof.Machine

/-! ### What a recharge writes (R69, R72, R73) -/

/-- From `s` to `t` only the meters and the overbooked bays have changed, with the events that say so. -/
def Recharged (s t : State) : Prop :=
  ∃ e h o m, t = { s with evt := e, host := h, adm := { s.adm with overbooked := o, meters := m } }

/-- The die time committed on a bay exceeds its capacity (R73). -/
def bayShort (s : State) (b : Nat) : Prop := bayCapacity s b < committedDie s s.adm.contracts b / mil

/-- A contract of a function. -/
def hasContract (s : State) (f : Nat) : Prop := ∃ k ∈ s.adm.contracts, k.fn = f

/-- A function's meters are those of its bays, none above its depth. -/
structure MetersFollow (s : State) (f : Nat) : Prop where
  bounded : ∀ m ∈ s.adm.meters, m.fn = f → m.bay ∈ fnBays s f ∧ m.level ≤ m.depth
  present : hasContract s f → ∀ b ∈ fnBays s f, ∃ m ∈ s.adm.meters, m.fn = f ∧ m.bay = b

section Recharged

variable {s t u : State}

theorem Recharged.refl (s : State) : Recharged s s := ⟨_, _, _, _, rfl⟩

theorem Recharged.trans (h : Recharged s t) (h' : Recharged t u) : Recharged s u := by
  obtain ⟨e, h, o, m, rfl⟩ := h
  obtain ⟨e', h', o', m', rfl⟩ := h'
  exact ⟨e', h', o', m', rfl⟩

theorem forEach_recharged {α : Type} (l : List α) (f : α → State → State) (s : State) (h : ∀ a s, Recharged s (f a s)) :
    Recharged s (forEach l f s) := by
  unfold forEach
  induction l generalizing s with
  | nil => exact .refl s
  | cons a l ih => exact (h a s).trans (ih _)

theorem Recharged.contracts (h : Recharged s t) : t.adm.contracts = s.adm.contracts := by
  obtain ⟨e, h, o, m, rfl⟩ := h
  rfl

theorem Recharged.zns (h : Recharged s t) : t.zns = s.zns := by
  obtain ⟨e, h, o, m, rfl⟩ := h
  rfl

theorem Recharged.bayCapacity (h : Recharged s t) (b : Nat) : bayCapacity t b = bayCapacity s b := by
  obtain ⟨e, h, o, m, rfl⟩ := h
  rfl

theorem Recharged.fnBays (h : Recharged s t) (f : Nat) : fnBays t f = fnBays s f := by
  obtain ⟨e, h, o, m, rfl⟩ := h
  rfl

theorem Recharged.bayShort (h : Recharged s t) (b : Nat) : bayShort t b ↔ bayShort s b := by
  obtain ⟨e, h, o, m, rfl⟩ := h
  exact .rfl

theorem Recharged.hasContract (h : Recharged s t) (f : Nat) : hasContract t f ↔ hasContract s f := by
  rw [Machine.hasContract, h.contracts, Machine.hasContract]

theorem capacityEvent_recharged (s : State) (sev bay cap com : Nat) : Recharged s (capacityEvent s sev bay cap com) := by
  obtain ⟨e, fs, h⟩ := recordEvent_effect s 0x0051 sev 4 bay (leBytes 2 bay ++ leBytes 8 cap ++ leBytes 8 com ++ leBytes 4 (s.eav.eEff / 1048576))
  exact ⟨_, _, _, _, h⟩

@[simp] theorem capacityEvent_adm (s : State) (sev bay cap com : Nat) : (capacityEvent s sev bay cap com).adm = s.adm := recordEvent_adm ..

/-! ### The overbooked bays (R73) -/

theorem flagBay_recharged (b : Nat) (s : State) : Recharged s (flagBay b s) := by
  unfold flagBay
  extract_lets com cap was
  split
  · split
    · exact .refl s
    · exact .trans ⟨_, _, _, _, rfl⟩ (capacityEvent_recharged ..)
  · exact ⟨_, _, _, _, rfl⟩

theorem flagBay_meters (b : Nat) (s : State) : (flagBay b s).adm.meters = s.adm.meters := by
  unfold flagBay
  extract_lets com cap was
  split
  · split
    · rfl
    · rw [capacityEvent_adm]
  · rfl

theorem mem_overbooked_flagBay_self (b : Nat) (s : State) : b ∈ (flagBay b s).adm.overbooked ↔ bayShort s b := by
  unfold flagBay bayShort
  extract_lets com cap was
  split
  case isTrue h =>
    refine iff_of_true ?_ h
    cases hwas : was
    · simp
    · simpa using List.contains_iff_mem.1 hwas
  case isFalse h => exact iff_of_false (by simp) h

theorem mem_overbooked_flagBay_ne {b b' : Nat} (hb : b' ≠ b) (s : State) :
    b' ∈ (flagBay b s).adm.overbooked ↔ b' ∈ s.adm.overbooked := by
  unfold flagBay
  extract_lets com cap was
  split
  case isTrue h => cases hwas : was <;> simp [hb]
  case isFalse h => simp [hb]

theorem mem_overbooked_forEach_flagBay (b : Nat) (l : List Nat) (s : State) :
    b ∈ (forEach l flagBay s).adm.overbooked ↔ if b ∈ l then bayShort s b else b ∈ s.adm.overbooked := by
  unfold forEach
  induction l generalizing s with
  | nil => simp
  | cons a l ih =>
    rw [List.foldl_cons, ih, (flagBay_recharged a s).bayShort]
    by_cases hl : b ∈ l
    · simp [hl]
    · by_cases ha : b = a
      · subst ha
        simp [hl, mem_overbooked_flagBay_self]
      · simp [hl, ha, mem_overbooked_flagBay_ne ha]

/-! ### The meters (R72) -/

theorem rebuildMeters_recharged (s : State) (f : Nat) : Recharged s (rebuildMeters s f) := ⟨_, _, _, _, rfl⟩

theorem rebuildMeters_overbooked (s : State) (f : Nat) : (rebuildMeters s f).adm.overbooked = s.adm.overbooked := rfl

theorem mem_meters_rebuildMeters_ne {s : State} {f : Nat} {m : BayMeter} (h : m.fn ≠ f) :
    m ∈ (rebuildMeters s f).adm.meters ↔ m ∈ s.adm.meters := by
  unfold rebuildMeters
  extract_lets bays has mk
  have hmk : ∀ b, (mk b).fn = f := fun b => rfl
  clear_value mk
  cases has
  · simp [h]
  · have hno : ∀ b ∈ bays, mk b = m → m ∈ s.adm.meters := fun b _ hb => absurd (hb ▸ hmk b) h
    simpa [h] using hno

theorem metersFollow_rebuildMeters (s : State) (f : Nat) : MetersFollow (rebuildMeters s f) f := by
  have hbays : fnBays (rebuildMeters s f) f = fnBays s f := (rebuildMeters_recharged s f).fnBays f
  constructor
  · intro m hm hf
    rw [hbays]
    unfold rebuildMeters at hm
    extract_lets bays has mk at hm
    have hlevel : ∀ b, (mk b).level ≤ (mk b).depth := fun b => by
      dsimp only [mk]
      split
      · exact Nat.min_le_right ..
      · exact Nat.le_refl _
    have hbay : ∀ b, (mk b).bay = b := fun b => rfl
    clear_value mk
    obtain ⟨-, b, hb, rfl⟩ : has = true ∧ ∃ b ∈ bays, mk b = m := by simpa [hf] using hm
    exact ⟨(hbay b).symm ▸ hb, hlevel b⟩
  · intro hk b hb
    rw [hbays] at hb
    have hhas : s.adm.contracts.any (·.fn == f) = true := by
      simpa [hasContract] using ((rebuildMeters_recharged s f).hasContract f).1 hk
    unfold rebuildMeters
    extract_lets bays has mk
    have hmk : (mk b).fn = f ∧ (mk b).bay = b := ⟨rfl, rfl⟩
    clear_value mk
    refine ⟨mk b, List.mem_append_right _ ?_, hmk⟩
    rw [show has = true from hhas, if_pos rfl]
    exact List.mem_map_of_mem hb

theorem MetersFollow.rebuildMeters_ne {f g : Nat} (h : MetersFollow s f) (hne : f ≠ g) : MetersFollow (rebuildMeters s g) f where
  bounded m hm hf := h.bounded m ((mem_meters_rebuildMeters_ne (hf ▸ hne)).1 hm) hf
  present hk b hb := by
    obtain ⟨m, hm, hf, hbay⟩ := h.present hk b hb
    exact ⟨m, (mem_meters_rebuildMeters_ne (hf ▸ hne)).2 hm, hf, hbay⟩

theorem MetersFollow.rebuildMeters {f : Nat} (h : MetersFollow s f) (g : Nat) : MetersFollow (rebuildMeters s g) f := by
  by_cases hfg : f = g
  · exact hfg ▸ metersFollow_rebuildMeters s f
  · exact h.rebuildMeters_ne hfg

theorem metersFollow_forEach {f : Nat} (l : List Nat) (s : State) (h : f ∈ l ∨ MetersFollow s f) :
    MetersFollow (forEach l (fun f s => Machine.rebuildMeters s f) s) f := by
  unfold forEach
  induction l generalizing s with
  | nil => simpa using h
  | cons a l ih =>
    refine ih _ ?_
    rcases h with h | h
    · rcases List.mem_cons.1 h with rfl | h
      · exact .inr (metersFollow_rebuildMeters s f)
      · exact .inl h
    · exact .inr (h.rebuildMeters a)

theorem mem_meters_forEach {m : BayMeter} (l : List Nat) (s : State) (h : m.fn ∉ l) :
    m ∈ (forEach l (fun f s => Machine.rebuildMeters s f) s).adm.meters ↔ m ∈ s.adm.meters := by
  unfold forEach
  induction l generalizing s with
  | nil => exact .rfl
  | cons a l ih =>
    rw [List.mem_cons, not_or] at h
    exact (ih _ h.2).trans (mem_meters_rebuildMeters_ne h.1)

theorem mem_contractFns {f : Nat} : f ∈ contractFns s ↔ hasContract s f := by
  simp [contractFns, hasContract]

/-! ### A recharge as a whole -/

/-- The first half of a recharge: every bay is flagged, or not. -/
def flagged (s : State) : State := forEach (baysOf s.prof) flagBay s

theorem flagged_recharged (s : State) : Recharged s (flagged s) := forEach_recharged _ _ _ flagBay_recharged

theorem recharge_eq (s : State) : recharge s = forEach (contractFns s) (fun f s => rebuildMeters s f) (flagged s) := rfl

theorem recharge_recharged (s : State) : Recharged s (recharge s) :=
  (flagged_recharged s).trans (forEach_recharged _ _ _ fun f s => rebuildMeters_recharged s f)

theorem mem_overbooked_recharge {b : Nat} (s : State) (hb : b ∈ baysOf s.prof) : b ∈ (recharge s).adm.overbooked ↔ bayShort s b := by
  rw [recharge_eq, forEach_proj (fun u => u.adm.overbooked) _ _ _ fun f u => rebuildMeters_overbooked u f, flagged,
    mem_overbooked_forEach_flagBay, if_pos hb]

theorem metersFollow_recharge {f : Nat} (h : hasContract s f) : MetersFollow (recharge s) f :=
  metersFollow_forEach _ _ (.inl (mem_contractFns.2 h))

theorem mem_meters_recharge {m : BayMeter} (h : ¬hasContract s m.fn) : m ∈ (recharge s).adm.meters ↔ m ∈ s.adm.meters := by
  rw [recharge_eq, mem_meters_forEach _ _ (mt mem_contractFns.1 h), flagged,
    forEach_proj (fun u => u.adm.meters) _ _ _ flagBay_meters]

end Recharged

end Sys2Proof.Machine

namespace Sys2Proof.Machine

/-! ### Bay capacities and contract charges (R69, R72, R73) -/

theorem tblGet_map_of_mem {b : Nat} {l : List Nat} (d : Nat) (g : Nat → Nat) (h : b ∈ l) : tblGet d b (l.map fun a => (a, g a)) = g b := by
  unfold tblGet
  induction l with
  | nil => exact absurd h List.not_mem_nil
  | cons a l ih =>
    rw [List.map_cons, tblFind?]
    split
    next hba => rw [hba, Option.getD_some]
    next hba => exact ih ((List.mem_cons.1 h).resolve_left hba)

/-- The state with every bay's capacity computed from its members in service. -/
def capacitated (s : State) : State :=
  { s with adm := { s.adm with bayCapacity := (baysOf s.prof).map fun b => (b, computeBayCapacity s b) } }

theorem exec_capacityRecompute (s : State) : exec .capacityRecompute s = .next (recharge (capacitated s)) := rfl

theorem bayCapacity_capacitated {s : State} {b : Nat} (h : b ∈ baysOf s.prof) : bayCapacity (capacitated s) b = computeBayCapacity s b :=
  tblGet_map_of_mem 0 (computeBayCapacity s) h

theorem bayShort_capacitated {s : State} {b : Nat} (h : b ∈ baysOf s.prof) :
    bayShort (capacitated s) b ↔ computeBayCapacity s b < committedDie s s.adm.contracts b / mil := by
  rw [bayShort, bayCapacity_capacitated h]
  exact .rfl

theorem exec_contractChargeRecompute (s : State) (f : Nat) :
    exec (.contractChargeRecompute f) s = .next (rebuildMeters (recharge s) f) := rfl

/-- A function that is recomputed, or has a contract, has its meters follow. -/
theorem metersFollow_contractCharge {s : State} {f g : Nat} (h : g = f ∨ hasContract s g) :
    MetersFollow (rebuildMeters (recharge s) f) g := by
  rcases h with rfl | h
  · exact metersFollow_rebuildMeters ..
  · exact (metersFollow_recharge h).rebuildMeters f

theorem contractCharge_recharged (s : State) (f : Nat) : Recharged s (rebuildMeters (recharge s) f) :=
  (recharge_recharged s).trans (rebuildMeters_recharged _ f)

/-! ### The promised width of a set (R57) -/

theorem exec_promisedWidthRecompute (s : State) (k : Nat) : exec (.promisedWidthRecompute k) s = .next (recomputeWidth s k) := rfl

theorem EventsDelivered.zns {s t : State} (h : EventsDelivered s t) : t.zns = s.zns := by
  obtain ⟨fs, ps, rs, ws, rfl⟩ := h
  rfl

theorem setWarning_zns (s : State) (bit : Nat) : (setWarning s bit).zns = s.zns := by
  obtain ⟨w, h⟩ := setWarning_effect s bit
  exact h.zns

theorem zoneChanged_zns (s : State) (n z : Nat) : (zoneChanged s n z).zns = s.zns := by
  unfold zoneChanged
  cases nsOf s n with
  | none => rfl
  | some ns => exact forEach_proj State.zns _ _ _ fun f u => (asyncEvent_eventsDelivered ..).zns

/-- The namespaces, and the sets as the promised width leaves them. -/
def setsAndNamespaces (s : State) : Tbl Nat BaySetSt × List NsSt := (s.zns.sets, s.zns.namespaces)

theorem recommendResets_sets (s : State) (ns : NsSt) : setsAndNamespaces (recommendResets s ns) = setsAndNamespaces s := by
  unfold recommendResets
  refine forEach_proj setsAndNamespaces _ _ _ fun z u => ?_
  extract_lets x
  split
  · rw [setsAndNamespaces, zoneChanged_zns]
    rfl
  · rfl

/-- The set with its new promised width. -/
def withPromised (s : State) (k w : Nat) : State := { s with zns := { s.zns with sets := tblSet k { baySet s k with promised := w } s.zns.sets } }

theorem recomputeWidth_sets {s : State} {k : Nat} (h : setDefined s k = true) :
    setsAndNamespaces (recomputeWidth s k) = setsAndNamespaces (withPromised s k ((promisedWidth? s k).getD s.prof.minWidth)) := by
  unfold recomputeWidth
  rw [h]
  extract_lets old w new _ s1 s2 s3
  have h1 : setsAndNamespaces s1 = setsAndNamespaces (withPromised s k new) := rfl
  have h2 : s2.zns = s1.zns := by
    unfold s2
    split
    · exact (capacityEvent_recharged ..).zns.trans (setWarning_zns ..)
    · rfl
  have h3 : s3.zns = s2.zns := by
    unfold s3
    split
    · rfl
    · exact (recharge_recharged _).zns
  have h31 : setsAndNamespaces s3 = setsAndNamespaces s1 := by rw [setsAndNamespaces, h3, h2, setsAndNamespaces]
  rw [← h1, ← h31]
  clear_value s3
  rw [Bool.not_true, if_neg Bool.false_ne_true]
  split
  · exact forEach_proj setsAndNamespaces _ _ _ fun ns u => recommendResets_sets u ns
  · rfl

theorem exec_promisedWidthRecompute_undefined {s : State} {k : Nat} (h : setDefined s k = false) :
    exec (.promisedWidthRecompute k) s = .next s := congrArg _ (if_pos (by simp [h]))

theorem recomputeWidth_promised {s : State} {k : Nat} (h : setDefined s k = true) :
    (baySet (recomputeWidth s k) k).promised = (promisedWidth? s k).getD s.prof.minWidth ∧
      (recomputeWidth s k).zns.namespaces = s.zns.namespaces := by
  obtain ⟨hsets, hns⟩ := Prod.ext_iff.1 (recomputeWidth_sets h)
  refine ⟨?_, hns⟩
  rw [baySet, show (recomputeWidth s k).zns.sets = _ from hsets]
  simp [setsAndNamespaces, withPromised, tblGet_tblSet]

/-- The widths that a search for a promised width tries, the widest first. -/
theorem promisedWidths_pairwise (s : State) : ((List.range 17).reverse.filter fun w => decide (s.prof.minWidth ≤ w)).Pairwise (· > ·) :=
  (List.pairwise_reverse.2 List.pairwise_lt_range).filter _

/-- The promised width meets its demand, and no wider one does. -/
theorem promisedWidth_spec {s : State} {k w : Nat} (h : promisedWidth? s k = some w) :
    s.prof.minWidth ≤ w ∧ w ≤ 16 ∧ setDemand s k w ≤ setCap s k w ∧ ∀ v, w < v → v ≤ 16 → setCap s k v < setDemand s k v := by
  have hmem : w ∈ (List.range 17).reverse.filter fun w => decide (s.prof.minWidth ≤ w) := List.mem_of_find?_eq_some h
  obtain ⟨hrange, hmin⟩ := List.mem_filter.1 hmem
  have hmin : s.prof.minWidth ≤ w := of_decide_eq_true hmin
  have hlt : w < 17 := List.mem_range.1 (List.mem_reverse.1 hrange)
  refine ⟨hmin, Nat.le_of_lt_succ hlt, of_decide_eq_true (List.find?_some h :), fun v hv hv16 => ?_⟩
  obtain ⟨-, pre, post, hsplit, hpre⟩ := List.find?_eq_some_iff_append.1 h
  have hvmem : v ∈ pre ++ w :: post := by
    rw [← hsplit]
    simp only [List.mem_filter, List.mem_reverse, List.mem_range, decide_eq_true_eq]
    omega
  have hsorted := promisedWidths_pairwise s
  rw [hsplit] at hsorted
  obtain ⟨-, hpost, -⟩ := List.pairwise_append.1 hsorted
  rcases List.mem_append.1 hvmem with hvpre | hvpost
  · simpa using hpre v hvpre
  · rcases List.mem_cons.1 hvpost with rfl | hvpost
    · exact absurd hv (Nat.lt_irrefl _)
    · exact absurd hv (Nat.lt_asymm ((List.pairwise_cons.1 hpost).1 v hvpost))

/-! ### E_eff (R188) -/

theorem largestE_bound (ok : Nat → Bool) : largestE ok % 268435456 = 0 ∧ largestE ok ≤ 4294967296 := by
  unfold largestE
  cases h : ((List.range 17).reverse.map (· * 268435456)).find? ok with
  | none => decide
  | some e =>
    obtain ⟨k, hk, rfl⟩ := List.mem_map.1 (List.mem_of_find?_eq_some h)
    have hlt : k < 17 := List.mem_range.1 (List.mem_reverse.1 hk)
    rw [Option.getD_some]
    omega

theorem recomputeEaves_eav (s : State) : (recomputeEaves s).eav =
    { s.eav with eEff := if s.eav.halves.contains .erased then energyEff s else 0, short := decide (energyEff s < timeEff s.prof) } := by
  unfold recomputeEaves
  extract_lets ready e short was old _ s1 s2 s3
  have h2 : FaultKept s1 s2 := .ite (recordEvent_faultKept ..) (.refl s1)
  have h3 : FaultKept s2 s3 := .ite ((raiseFault_faultKept ..).trans (recordEvent_faultKept ..)) (.refl s2)
  have h1 : s1.eav = { s.eav with eEff := e, short := short } := rfl
  clear_value s3 s2 s1
  exact ((h2.trans h3).trans (warnEmpty_faultKept s3 e)).eav.trans h1

theorem exec_eavesEffectiveRecompute (s : State) : exec .eavesEffectiveRecompute s = .next (recomputeEaves s) := rfl

theorem recomputeEaves_eEff (s : State) :
    (recomputeEaves s).eav.eEff = (if .erased ∈ s.eav.halves then energyEff s else 0) := by
  rw [recomputeEaves_eav]
  by_cases h : GutterHalf.erased ∈ s.eav.halves <;> simp [h]

theorem recomputeEaves_eEff_bound (s : State) : (recomputeEaves s).eav.eEff % 268435456 = 0 ∧ (recomputeEaves s).eav.eEff ≤ 4294967296 := by
  rw [recomputeEaves_eEff]
  split
  · exact largestE_bound _
  · decide

/-! ### The link (R205, R206) -/

/-- The capacities and the width flag of a link, as `linkTo` leaves them. -/
theorem linkTo_effect (s : State) (r w : Nat) :
    let t := linkTo s r w
    t.host.linkBelowFull = !(min r s.prof.maxSpeed == 6 && min w s.prof.maxWidth == 8) ∧
      t.adm.linkCapacity = 56000000000 * (rawRate (min r s.prof.maxSpeed) * min w s.prof.maxWidth) / 1024 ∧
      t.adm.linkCmds = 13900000 * (rawRate (min r s.prof.maxSpeed) * min w s.prof.maxWidth) / 1024 := by
  unfold linkTo capacityEvent
  extract_lets r' w' host link u v t
  unfold t
  split
  · obtain ⟨e, fs, he⟩ := recordEvent_effect v 0x0051 (if linkShort v then 3 else 2) 4 0xFFFF (leBytes 2 0xFFFF ++
      leBytes 8 v.adm.linkCapacity ++ leBytes 8 (committedBytes v.adm.contracts false) ++ leBytes 4 (v.eav.eEff / 1048576))
    rw [he]
    exact ⟨rfl, rfl, rfl⟩
  · exact ⟨rfl, rfl, rfl⟩

theorem linkTo_belowFull (s : State) (r w : Nat) :
    (linkTo s r w).host.linkBelowFull = true ↔ ¬(min r s.prof.maxSpeed = 6 ∧ min w s.prof.maxWidth = 8) := by
  simp [(linkTo_effect s r w).1, imp_iff_not_or]

/-- The link does not train, or is at the rate and width asked for already. -/
def linkStays (s : State) (r w : Nat) : Prop :=
  linkLegal r w = false ∨ isRunning s 1 = false ∨ s.eav.powerLoss = true ∨ (s.host.linkUp = false ∧ s.pins.perstN = false) ∨
    (s.host.linkUp = true ∧ min r s.prof.maxSpeed = s.host.rate ∧ min w s.prof.maxWidth = s.host.width)

theorem linkStays_iff (s : State) (r w : Nat) : linkStays s r w ↔
    (!linkLegal r w || !(s.host.linkUp || s.pins.perstN) || !isRunning s 1 || s.eav.powerLoss ||
      (s.host.linkUp && min r s.prof.maxSpeed == s.host.rate && min w s.prof.maxWidth == s.host.width)) = true := by
  simp only [linkStays, Bool.or_eq_true, Bool.and_eq_true, Bool.not_eq_true', Bool.or_eq_false_iff, beq_iff_eq]
  tauto

/-- A change of the link is recorded: by the training where the link is below full, and else by the change. -/
theorem exec_linkChange_cases (s : State) (r w : Nat) : let t := linkTo s r w
    (linkStays s r w → exec (.linkChange r w) s = .next s) ∧
      (¬linkStays s r w → (t.host.linkBelowFull = true → exec (.linkChange r w) s = .next t) ∧
        (t.host.linkBelowFull ≠ true → exec (.linkChange r w) s = .next (capacityEvent t (if linkShort t then 3 else 2) 0xFFFF
          t.adm.linkCapacity (committedBytes t.adm.contracts false)))) := by
  rw [linkStays_iff]
  exact ⟨fun h => congrArg _ (if_pos h), fun h => ⟨fun hb => congrArg _ ((if_neg h).trans (if_pos hb)),
    fun hb => congrArg _ ((if_neg h).trans (if_neg hb))⟩⟩

/-- Settles O39: each recomputation by what it writes and what its recharge keeps, the link by the cases of its change. -/
theorem capacitiesFollow : Obligations.CapacitiesFollow := by
  refine ⟨⟨fun s => ⟨_, exec_capacityRecompute s, ?_, fun b hb => ⟨?_, ?_⟩⟩, fun s f => ⟨_, exec_contractChargeRecompute s f, ?_⟩,
      fun s k => ⟨exec_promisedWidthRecompute_undefined, fun h => ⟨_, exec_promisedWidthRecompute s k, recomputeWidth_promised h⟩⟩,
      fun s k w => promisedWidth_spec⟩,
    fun s => ⟨_, exec_eavesEffectiveRecompute s, recomputeEaves_eEff s, (recomputeEaves_eEff_bound s).1, (recomputeEaves_eEff_bound s).2,
      by rw [recomputeEaves_eav]⟩, fun s => rfl, fun s r w => ?_⟩
  · exact (recharge_recharged _).contracts
  · rw [(recharge_recharged _).bayCapacity, bayCapacity_capacitated hb, computeBayCapacity]
  · rw [mem_overbooked_recharge (capacitated s) hb, bayShort_capacitated hb]
  · have hkept := contractCharge_recharged s f
    refine ⟨fun m hm hf => ?_, fun m hne hno => ?_, fun k hk b hb => ?_, fun b hb => mem_overbooked_recharge s hb⟩
    · rw [← hkept.fnBays]
      exact (metersFollow_contractCharge hf).bounded m hm rfl
    · exact (mem_meters_rebuildMeters_ne hne).trans (mem_meters_recharge fun ⟨k, hk, hfn⟩ => hno k hk hfn)
    · have hc : hasContract s k.fn := ⟨k, hk, rfl⟩
      exact (metersFollow_contractCharge (.inr hc)).present ((hkept.hasContract _).2 hc) b (hkept.fnBays _ ▸ hb)
  · obtain ⟨hup, -, hrate, hwidth⟩ := linkTo_host s r w
    obtain ⟨-, hcap, hcmds⟩ := linkTo_effect s r w
    have hfull := linkTo_belowFull s r w
    obtain ⟨hstays, hmoves⟩ := exec_linkChange_cases s r w
    refine ⟨hstays, fun hlegal hrun hp hchange => ?_, hup, hrate, hwidth, hfull, hcap, hcmds⟩
    have hnot : ¬linkStays s r w := by
      rcases hchange with ⟨hdown, hreset⟩ | ⟨hon, hother⟩
      · simp [linkStays, hlegal, hrun, hp, hdown, hreset]
      · simpa [linkStays, hlegal, hrun, hp, hon, imp_iff_not_or] using hother
    obtain ⟨hbelow, hat⟩ := hmoves hnot
    exact ⟨fun h => hbelow (hfull.2 h), fun h => hat fun hb => hfull.1 hb h⟩

end Sys2Proof.Machine

namespace Sys2Proof.Machine

/-! ### What the work of dies writes (R139, R143, R168) -/

/-- From `s` to `t` only the islands' hand-overs, the telemetry and the flash side have changed. -/
def WorkOnly (s t : State) : Prop := ∃ i l k, t = { s with isl := { s.isl with handshakes := i }, tel := l, fl := k }

section WorkOnly

variable {s t u : State}

theorem WorkOnly.refl (s : State) : WorkOnly s s := ⟨_, _, _, rfl⟩

theorem WorkOnly.trans (h : WorkOnly s t) (h' : WorkOnly t u) : WorkOnly s u := by
  obtain ⟨i, l, k, rfl⟩ := h
  obtain ⟨i', l', k', rfl⟩ := h'
  exact ⟨i', l', k', rfl⟩

theorem WorkOnly.ite {c : Prop} [Decidable c] (h : WorkOnly s t) (h' : WorkOnly s u) : WorkOnly s (if c then t else u) := by
  split
  · exact h
  · exact h'

theorem forEach_workOnly {α : Type} (l : List α) (f : α → State → State) (s : State) (h : ∀ a s, WorkOnly s (f a s)) :
    WorkOnly s (forEach l f s) := by
  unfold forEach
  induction l generalizing s with
  | nil => exact .refl s
  | cons a l ih => exact (h a s).trans (ih _)

theorem WorkOnly.eav (h : WorkOnly s t) : t.eav = s.eav := by
  obtain ⟨i, l, k, rfl⟩ := h
  rfl

theorem WorkOnly.host (h : WorkOnly s t) : t.host = s.host := by
  obtain ⟨i, l, k, rfl⟩ := h
  rfl

theorem WorkOnly.hmp (h : WorkOnly s t) : t.hmp = s.hmp := by
  obtain ⟨i, l, k, rfl⟩ := h
  rfl

theorem WorkOnly.sup (h : WorkOnly s t) : t.sup = s.sup := by
  obtain ⟨i, l, k, rfl⟩ := h
  rfl

theorem sendToken_workOnly (s : State) (src dst : Nat) (data : Bool) (tag : Nat) : WorkOnly s (sendToken s src dst data tag) := by
  unfold sendToken
  extract_lets h
  (repeat' split) <;> exact ⟨_, _, _, rfl⟩

theorem sendDesc_workOnly (s : State) (ch opcode tag : Nat) : WorkOnly s (sendDesc s ch opcode tag) := by
  unfold sendDesc
  extract_lets u
  have hu : WorkOnly s u := sendToken_workOnly ..
  exact .ite (hu.trans (sendToken_workOnly ..)) hu

theorem addDesc_workOnly (s : State) (d : Desc) : WorkOnly s (addDesc s d) := .trans ⟨_, _, _, rfl⟩ (sendDesc_workOnly ..)

theorem endDesc_workOnly (s : State) (d : Desc) (status corrected : Nat) : WorkOnly s (endDesc s d status corrected) := by
  unfold endDesc
  extract_lets tok _ u v
  have hu : WorkOnly s u := ⟨_, _, _, rfl⟩
  have hv : WorkOnly u v := .ite (.refl u) ⟨_, _, _, rfl⟩
  exact hu.trans (hv.trans (forEach_workOnly _ _ _ fun x w => sendToken_workOnly ..))

theorem closeDesc_workOnly (s : State) (d : Desc) (status corrected : Nat) : WorkOnly s (closeDesc s d status corrected) :=
  (endDesc_workOnly s d status corrected).trans ⟨_, _, _, rfl⟩

theorem dropDesc_workOnly (s : State) (d : Desc) (status : Nat) : WorkOnly s (dropDesc s d status) :=
  (endDesc_workOnly s d status 0).trans ⟨_, _, _, rfl⟩

/-! #### Bookings -/

theorem moveEntry_workOnly {n : Nat} {e : CalEntry} (h : moveEntry s n e = some t) : WorkOnly s t := by
  obtain ⟨_, _, rfl⟩ := Option.map_eq_some_iff.1 h
  exact ⟨_, _, _, rfl⟩

theorem moveBackground_workOnly {d : DieNo} {n len tokens : Nat} (h : moveBackground s d n len tokens = some t) : WorkOnly s t := by
  obtain ⟨u, hu, rfl⟩ := Option.map_eq_some_iff.1 h
  have hmoved : WorkOnly s u := of_foldl_some (P := WorkOnly s) hu (by rintro v ⟨⟩; exact ⟨_, _, _, rfl⟩) fun o e ho v hv => by
    obtain ⟨w, hw, hv⟩ := Option.bind_eq_some_iff.1 hv
    exact (ho w hw).trans (moveEntry_workOnly hv)
  exact hmoved.trans ⟨_, _, _, rfl⟩

theorem lengthenOp_workOnly {op : CalEntry} {by' spend reserve : Nat} (h : lengthenOp s op by' spend reserve = some t) : WorkOnly s t := by
  obtain ⟨u, hu, rfl⟩ := Option.map_eq_some_iff.1 (Option.ite_none_left_eq_some.1 h).2
  exact (moveBackground_workOnly hu).trans ⟨_, _, _, rfl⟩

theorem bookWay_workOnly {q : SenseReq} {way : SenseWay} {r : State × Sense} (h : bookWay s q way = some r) : WorkOnly s r.1 := by
  have hocc (o : List OccEntry) : WorkOnly s { s with fl := { s.fl with occupancy := o } } := ⟨_, _, _, rfl⟩
  unfold bookWay at h
  cases way <;> obtain ⟨u, hu, rfl⟩ := Option.map_eq_some_iff.1 (Option.ite_none_left_eq_some.1 h).2
  case freeTime => exact (hocc _).trans ((moveBackground_workOnly hu).trans ⟨_, _, _, rfl⟩)
  case join => exact (hocc _).trans ((lengthenOp_workOnly hu).trans ⟨_, _, _, rfl⟩)
  case openWin => exact (hocc _).trans ((lengthenOp_workOnly hu).trans ⟨_, _, _, rfl⟩)

theorem bookSense_workOnly {q : SenseReq} {r : State × Sense} (h : bookSense s q = some r) : WorkOnly s r.1 :=
  of_foldl_some (P := fun r => WorkOnly s r.1) (Option.ite_none_left_eq_some.1 h).2 (by rintro r ⟨⟩) fun o way ho r hr => by
    rcases Option.or_eq_some_iff.1 hr with hr | ⟨-, hr⟩
    · exact ho r hr
    · exact bookWay_workOnly hr

theorem addRead_workOnly (s : State) (d : Desc) (se : Sense) : WorkOnly s (addRead s d se) := by
  unfold addRead
  extract_lets u
  have hu : WorkOnly s u := addDesc_workOnly ..
  split
  · exact hu
  · exact hu.trans (addDesc_workOnly ..)

theorem bookPage_workOnly {m : MemberSt} {n : Nat} {pl : Place} {k : Nat} {q : PageReq} {r : State × Sense}
    (h : bookPage s m n pl k q = some r) : WorkOnly s r.1 := by
  obtain ⟨u, hu, rfl⟩ := Option.map_eq_some_iff.1 h
  exact (bookSense_workOnly hu).trans (addRead_workOnly ..)

theorem bookStage_workOnly {st : Stage} {m : MemberSt} {n : Nat} {pl : Place} {cws dl start e : Nat} {q : PageReq}
    (h : bookStage s st m n pl cws dl start q = .booked u e) : WorkOnly s u := by
  unfold bookStage at h
  dsimp only at h
  split at h
  · cases h
  next hb =>
    refine (bookSense_workOnly hb).trans ?_
    cases st with
    | retry k =>
      cases h
      exact addRead_workOnly ..
    | soft =>
      dsimp only at h
      split at h <;> cases h
      exact (addRead_workOnly ..).trans ⟨_, _, _, rfl⟩

theorem bookFirst_workOnly {m : MemberSt} {n : Nat} {pl : Place} {cws dl start : Nat} {q : PageReq} {l : List Stage}
    {r : Stage × State × Nat} (h : bookFirst s m n pl cws dl start q l = some r) : WorkOnly s r.2.1 := by
  induction l with
  | nil => cases h
  | cons st l ih =>
    unfold bookFirst at h
    split at h
    next hb =>
      cases h
      exact bookStage_workOnly hb
    · exact ih h
    · cases h

theorem bookAround_workOnly {c : Cmd} {slot n : Nat} {th : ThatchSt} {pl : Place} {k : Nat} {prov : Bool}
    {req : Purpose → DestUnit × Nat → PageReq} {r : State × Nat × Nat} (h : bookAround s c slot n th pl k prov req = some r) :
    WorkOnly s r.1 := by
  unfold bookAround at h
  replace h := (Option.ite_none_left_eq_some.1 h).2
  dsimp only at h
  split at h
  · cases h
  next v last hf =>
    cases h
    have hmembers : WorkOnly s v := of_foldl_some (P := fun r => WorkOnly s r.1) hf (by rintro r ⟨⟩; exact .refl s) fun o e ho r hr => by
      split at hr
      · exact ho r hr
      · split at hr
        · cases hr
        next w last' =>
          split at hr
          next hb =>
            cases hr
            exact (ho _ rfl).trans (bookPage_workOnly hb)
          · cases hr
    exact hmembers.trans ⟨_, _, _, rfl⟩

theorem dropRebuild_workOnly (s : State) (id : Nat) : WorkOnly s (dropRebuild s id) :=
  (forEach_workOnly _ _ s fun d u => dropDesc_workOnly u d 0x33).trans ⟨_, _, _, rfl⟩

theorem dropSlotWork_workOnly (s : State) (c : Cmd) (slot? : Option Nat) : WorkOnly s (dropSlotWork s c slot?) :=
  ((forEach_workOnly _ _ s fun d u => dropDesc_workOnly u d 0x33).trans
    (forEach_workOnly _ _ _ fun id u => dropRebuild_workOnly u id)).trans ⟨_, _, _, rfl⟩

end WorkOnly

/-! ### What the end of the commands at Power Loss keeps (R196, R197) -/

/-- The supply's state and the mark of Power Loss are kept. -/
structure LossKept (s t : State) : Prop where
  sup : t.sup = s.sup
  powerLoss : t.eav.powerLoss = s.eav.powerLoss

section LossKept

variable {s t u : State}

theorem LossKept.refl (s : State) : LossKept s s := ⟨rfl, rfl⟩

theorem LossKept.trans (h : LossKept s t) (h' : LossKept t u) : LossKept s u :=
  ⟨h'.sup.trans h.sup, h'.powerLoss.trans h.powerLoss⟩

theorem LossKept.ite {c : Prop} [Decidable c] (h : LossKept s t) (h' : LossKept s u) : LossKept s (if c then t else u) := by
  split
  · exact h
  · exact h'

theorem WorkOnly.lossKept (h : WorkOnly s t) : LossKept s t := ⟨h.sup, congrArg EavSt.powerLoss h.eav⟩

theorem FaultKept.lossKept (h : FaultKept s t) : LossKept s t := ⟨h.sup, congrArg EavSt.powerLoss h.eav⟩

theorem forEach_lossKept {α : Type} (l : List α) (f : α → State → State) (s : State) (h : ∀ a s, LossKept s (f a s)) :
    LossKept s (forEach l f s) := by
  unfold forEach
  induction l generalizing s with
  | nil => exact .refl s
  | cons a l ih => exact (h a s).trans (ih _)

theorem releaseBufs_lossKept (s : State) (pool n : Nat) : LossKept s (releaseBufs s pool n) := .ite (.refl s) ⟨rfl, rfl⟩

theorem pinSlot_lossKept (nsid : Nat) (add : Nat → Nat) (x : SlotSt) (s : State) : LossKept s (pinSlot nsid add x s) := by
  unfold pinSlot
  split <;> split <;> exact ⟨rfl, rfl⟩

theorem sweepEaves_lossKept (s : State) : LossKept s (sweepEaves s) := .ite (.refl s) ⟨rfl, rfl⟩

theorem trimLoft_lossKept (s : State) : LossKept s (trimLoft s) :=
  .ite (.refl s) (forEach_lossKept _ _ _ fun _ u => .ite ⟨rfl, rfl⟩ (.refl u))

theorem unbindEmpty_lossKept (s : State) (nsid z : Nat) : LossKept s (unbindEmpty s nsid z) := by
  unfold unbindEmpty
  split
  · exact .refl s
  · refine .ite (.refl s) ⟨?_, ?_⟩
    · exact forEach_proj State.sup _ _ s fun m u => rfl
    · exact forEach_proj (fun u => u.eav.powerLoss) _ _ s fun m u => rfl

theorem dropCmd_lossKept (s : State) (c : Cmd) : LossKept s (dropCmd s c) := by
  unfold dropCmd
  extract_lets +onlyGivenNames released adm removed unpinned buf unbooked unbound
  have hreleased : LossKept s released := by
    unfold released
    split
    · exact .refl s
    · split <;> exact releaseBufs_lossKept ..
  have hunpinned : LossKept removed unpinned := .ite
    ((forEach_lossKept _ _ removed fun x u => pinSlot_lossKept _ _ x u).trans ((sweepEaves_lossKept _).trans (trimLoft_lossKept _)))
    (.refl removed)
  have hunbound : LossKept unbooked unbound := by
    unfold unbound
    split
    · exact .refl unbooked
    · split
      · exact unbindEmpty_lossKept ..
      · exact .refl unbooked
  have hall : LossKept s unbound := hreleased.trans (.trans (t := removed) ⟨rfl, rfl⟩
    (hunpinned.trans (.trans (t := unbooked) ⟨rfl, rfl⟩ hunbound)))
  split
  · exact hall.trans (.ite ⟨rfl, rfl⟩ (.refl unbound))
  · exact hall

theorem ioPost_lossKept (s : State) (fn sqid cid : Nat) (st : NvmeStatus) (dw0 : Nat) (data : List Byte) (units : List (Option Nat))
    (v : VerdictInfo) : LossKept s (ioPost s fn sqid cid st dw0 data units v) := by
  unfold ioPost
  extract_lets pins u
  obtain ⟨h, hh⟩ := postCompletion_host u fn sqid cid st dw0 data units (some v)
  rw [hh]
  exact ⟨rfl, rfl⟩

/-- A command that leaves the table with its counters written and its completion posted. -/
theorem dropAndPost_lossKept {c : Cmd} (h : LossKept s t) (fn sqid cid : Nat) (st : NvmeStatus) (dw0 : Nat) (data : List Byte)
    (units : List (Option Nat)) (v : VerdictInfo) : LossKept s (ioPost (dropCmd t c) fn sqid cid st dw0 data units v) :=
  h.trans ((dropCmd_lossKept t c).trans (ioPost_lossKept ..))

/-- The counters of a command are telemetry. -/
theorem countCmd_lossKept (s : State) (fn cls fn' : Nat) (g : ClassCtr → ClassCtr) (m : Meter → Meter) :
    LossKept s (updMeter (updClass s fn cls g) fn' m) :=
  ⟨by rw [updMeter_sup, updClass_sup], by rw [updMeter_eav, updClass_eav]⟩

theorem completeCmd_lossKept (s : State) (c : Cmd) (st : NvmeStatus) (dw0 : Nat) (data : List Byte) (units : List (Option Nat)) :
    LossKept s (completeCmd s c st dw0 data units) := by
  unfold completeCmd
  exact dropAndPost_lossKept (countCmd_lossKept ..) ..

theorem refuseCmd_lossKept (s : State) (c : Cmd) (code hint : Nat) : LossKept s (refuseCmd s c code hint) := by
  unfold refuseCmd
  exact dropAndPost_lossKept (countCmd_lossKept ..) ..

theorem powerLossRead_lossKept (s : State) (c : Cmd) : LossKept s (powerLossRead s c) := by
  unfold powerLossRead
  exact dropAndPost_lossKept (countCmd_lossKept ..) ..

theorem flushReady_lossKept (n : Nat) (s : State) : LossKept s (flushReady n s) := by
  induction n generalizing s with
  | zero => exact .refl s
  | succ n ih =>
    unfold flushReady
    split
    · exact (completeCmd_lossKept ..).trans (ih _)
    · exact .refl s

theorem enterRecovery_lossKept (s : State) (c : Cmd) (x : SlotSt) : LossKept s (enterRecovery s c x) := by
  unfold enterRecovery flagRefresh
  dsimp only
  (repeat' split) <;> exact ⟨rfl, rfl⟩

theorem failRead_lossKept (s : State) (c : Cmd) : LossKept s (failRead s c) := by
  unfold failRead
  extract_lets waiting u v w
  have hu : LossKept s u := (dropSlotWork_workOnly ..).lossKept
  have hv : LossKept u v := forEach_lossKept _ _ _ fun x s => enterRecovery_lossKept ..
  have hw : LossKept v w := completeCmd_lossKept ..
  have hall := hu.trans (hv.trans hw)
  exact .ite (hall.trans (flushReady_lossKept ..)) hall

theorem lastRoute_lossKept (s : State) (c : Cmd) (slot : Nat) (fallback : Option Nat) {g : State → State} (hg : ∀ s, LossKept s (g s)) :
    LossKept s (lastRoute s c slot fallback g) := by
  unfold lastRoute
  dsimp only
  split
  · split <;> exact ⟨rfl, rfl⟩
  · split
    · exact hg s
    · split
      next hb =>
        refine .ite ((bookAround_workOnly hb).lossKept.trans ?_) (hg s)
        split <;> exact ⟨rfl, rfl⟩
      · exact hg s

theorem releaseFallback_lossKept (s : State) (l : Ladder) : LossKept s (releaseFallback s l) := by
  unfold releaseFallback
  split
  · exact (dropRebuild_workOnly ..).lossKept
  · exact .refl s

theorem atTime_lossKept (s : State) (n : Nat) : LossKept s (atTime s n) := ⟨rfl, rfl⟩

theorem chargedLadder_lossKept (s : State) (l : Ladder) (fn nj : Nat) : LossKept s (chargeRecovery (setLadder s l) fn nj) := ⟨rfl, rfl⟩

theorem ladderStepWith_lossKept {fail : State → Cmd → State} (hf : ∀ s c, LossKept s (fail s c)) (s : State) (c : Cmd) (slot : Nat)
    (l : Ladder) : LossKept s (ladderStepWith fail s c slot l) := by
  have hgive (l : Ladder) : LossKept s (lastRoute (setLadder s l) c slot l.fallback (fail · c)) :=
    .trans (t := setLadder s l) ⟨rfl, rfl⟩ (lastRoute_lossKept _ _ _ _ fun s => hf s c)
  unfold ladderStepWith
  dsimp only
  split
  · exact hf s c
  · split
    · exact hf s c
    · split
      · exact hgive _
      next hfirst =>
        have hbooked := (bookFirst_workOnly hfirst).lossKept
        split
        · split
          next haround =>
            have hrebuilt := (atTime_lossKept ..).trans (bookAround_workOnly haround).lossKept
            exact .ite (hbooked.trans (hrebuilt.trans ((atTime_lossKept ..).trans ((releaseFallback_lossKept ..).trans
              (chargedLadder_lossKept ..))))) (hgive _)
          · exact hgive _
        · exact .ite (hbooked.trans (chargedLadder_lossKept ..)) (hgive _)

theorem leaveJoined_lossKept (s : State) (c : Cmd) : LossKept s (leaveJoined s c) := by
  have htake (s : State) (o : Cmd) (slot : Nat) (l : Ladder) : LossKept s (takeLadder s o slot l) :=
    .ite (.refl s) (ladderStepWith_lossKept failRead_lossKept ..)
  refine (dropSlotWork_workOnly ..).lossKept.trans (forEach_lossKept _ _ _ fun j u => ?_)
  split
  · exact htake ..
  · exact .refl u

theorem noRoute_lossKept (s : State) (c : Cmd) : LossKept s (noRoute s c) := (leaveJoined_lossKept s c).trans (failRead_lossKept ..)

theorem lossCommands_lossKept (s : State) : LossKept s (lossCommands s) :=
  ((forEach_lossKept _ _ s fun c s => refuseCmd_lossKept s c 0xC7 0x3FFFFF).trans
    ((forEach_lossKept _ _ _ fun c s => powerLossRead_lossKept s c).trans
      (forEach_lossKept _ _ _ fun c s => noRoute_lossKept s c))).trans ⟨rfl, rfl⟩

theorem lossDesc_lossKept (d : Desc) (s : State) : LossKept s (lossDesc d s) := by
  unfold lossDesc
  extract_lets running u
  have hu : LossKept s u := (closeDesc_workOnly ..).lossKept
  refine .ite (recordEvent_faultKept ..).lossKept (.ite hu ?_)
  split
  · exact hu.trans ⟨rfl, rfl⟩
  · exact .ite (hu.trans ⟨rfl, rfl⟩) hu

end LossKept

end Sys2Proof.Machine

namespace Sys2Proof.Machine

/-! ### Power Loss is raised (R23, R196, R297, R367) -/

theorem exec_powerLossDetected (s : State) :
    exec .powerLossDetected s = .next (raisePowerLoss (switchOver { s with sup := { s.sup with v12HighSince := none } })) := rfl

/-- The state as Power Loss leaves it: the mark and the supply as before, the link down, the mailboxes stopped. -/
structure LossRaised (s t : State) : Prop where
  kept : LossKept s t
  linkUp : t.host.linkUp = false
  stopped : t.hmp.stopped = true

theorem dumpNext_workOnly (s : State) (d : DieNo) : WorkOnly s (dumpNext s d) := by
  unfold dumpNext
  split
  · exact .refl s
  · refine .ite (.refl s) ?_
    split
    · exact .refl s
    · exact addDesc_workOnly ..

theorem startDump_lossRaised (s : State) : LossRaised s (startDump s) := by
  unfold startDump
  extract_lets h cut _ begun _ ended closed units d gated _ _ _ _ dumping
  have hbegun : LossKept s begun := ⟨rfl, rfl⟩
  have hended : LossKept begun ended := .trans (t := { begun with host := { begun.host with fetchStopped := true } }) ⟨rfl, rfl⟩
    (lossCommands_lossKept ..)
  have hclosed : LossKept ended closed := forEach_lossKept _ _ _ fun d s => lossDesc_lossKept d s
  have hgated : LossKept closed gated := (forEach_faultKept _ _ _ fun id s => setIslandState_faultKept ..).lossKept
  have hdumping : LossKept gated dumping := ⟨rfl, rfl⟩
  have hwork : WorkOnly dumping (forEach (dumpDies dumping) (fun x s => dumpNext s x) dumping) :=
    forEach_workOnly _ _ _ fun x s => dumpNext_workOnly s x
  exact ⟨hbegun.trans (hended.trans (hclosed.trans (hgated.trans (hdumping.trans hwork.lossKept)))),
    congrArg HostSt.linkUp hwork.host, congrArg HmpSt.stopped hwork.hmp⟩

theorem afterDump_effect (s : State) (outcome : Nat) :
    let t := afterDump s outcome
    t.eav = { s.eav with afterDump := true, dumpStart := none } ∧ t.hmp = s.hmp ∧ t.host.linkUp = false ∧ t.sup.seqEn = false ∧
      t.sup.path = s.sup.path ∧ t.sup.chgEn = s.sup.chgEn ∧ t.sup.auditEn = s.sup.auditEn ∧ t.isl = (allIslands s .gated).isl := by
  have hkept := allIslands_faultKept s .gated
  unfold afterDump
  generalize allIslands s .gated = u at hkept ⊢
  rw [← hkept.eav, ← hkept.hmp, ← hkept.sup]
  dsimp only
  split <;> exact ⟨rfl, rfl, rfl, rfl, rfl, rfl, rfl, rfl⟩

/-- Once raised, Power Loss stays; the supply's path, charger and audit load are as the switch-over left them. -/
theorem raisePowerLoss_effect (s : State) : let t := raisePowerLoss s
    t.eav.powerLoss = true ∧ t.sup.path = s.sup.path ∧ t.sup.chgEn = s.sup.chgEn ∧ t.sup.auditEn = s.sup.auditEn ∧
      (s.eav.powerLoss = false → t.host.linkUp = false ∧ t.hmp.stopped = true) := by
  unfold raisePowerLoss
  split
  next hlost => exact ⟨hlost, rfl, rfl, rfl, fun h => absurd (hlost.symm.trans h) (by decide)⟩
  · extract_lets due _ _ marked lowered _ _ _ t
    have hmark : lowered.eav.powerLoss = true := rfl
    have hsup : lowered.sup = s.sup := rfl
    unfold t
    split
    · obtain ⟨hkept, hlink, hstopped⟩ := startDump_lossRaised lowered
      rw [hkept.sup, hkept.powerLoss, hsup]
      exact ⟨hmark, rfl, rfl, rfl, fun _ => ⟨hlink, hstopped⟩⟩
    · obtain ⟨heav, hhmp, hlink, -, hpath, hchg, haudit, -⟩ := afterDump_effect { lowered with
        hmp := { lowered.hmp with stopped := true }, host := { lowered.host with fetchStopped := true },
        buf := { lowered.buf with shut := true, cache := [] } } 0
      exact ⟨(congrArg EavSt.powerLoss heav).trans hmark, hpath, hchg, haudit, fun _ => ⟨hlink, congrArg HmpSt.stopped hhmp⟩⟩

/-! ### The store runs low, and the dump ends (R198, R199) -/

theorem exec_storeLow (p : Nat) (s : State) : exec (.storeLow p) s = execStoreLow p s := rfl

theorem exec_dumpComplete (s : State) : exec .dumpComplete s = execDumpComplete s := rfl

theorem exec_dumpEvent_none {s : State} (h : s.eav.dump = none ∨ s.eav.dumpStart = none) :
    exec .dumpComplete s = .next s ∧ ∀ p, exec (.storeLow p) s = .next s := by
  simp only [exec_dumpComplete, execDumpComplete, exec_storeLow, execStoreLow]
  rcases h with h | h
  · simp [h]
  · cases s.eav.dump <;> simp [h]

theorem exec_storeLow_dumping {s : State} {d : Dump} {t : Nat} (hd : s.eav.dump = some d) (ht : s.eav.dumpStart = some t) (p : Nat) :
    exec (.storeLow p) s = .next (if d.partialMark || decide (vLow s < s.sup.vs) then s else { s with eav := { s.eav with
      dump := some { d with partialMark := true, descriptorsDone := decide (0 < p), lastPosition := some (min d.units.length (p - 1)) } } }) := by
  simp only [exec_storeLow, execStoreLow, hd, ht]

/-- The programs of a dump that was not cut short are all done. -/
def dumpProgs (d : Dump) : List DumpProg := if d.partialMark then d.progs else d.progs.map fun g => { g with done := true }

/-- The descriptors of the dump are closed. -/
def dumpClosed (s : State) : State := forEach (s.fl.descs.filter (·.dump)) (fun y s => closeDesc s y 0x00 0) s

/-- The dump's record once it is over: committed where it has a half, with the directories written there. -/
def dumpEnded (s : State) (d : Dump) : Dump :=
  { d with committed := decide (d.half < 2), dirs := if decide (d.half < 2) then dirCopies (dumpClosed s) d else [],
           bad := ((dumpClosed s).eav.dump.map (·.bad)).getD d.bad, progs := dumpProgs d }

/-- The half is used and holds the dump. -/
def dumpStored (s : State) (d : Dump) : State :=
  let u := useHalf (dumpClosed s) d.half
  { u with eav := { u.eav with dump := some (dumpEnded s d), halves := vecUpd u.eav.halves d.half fun _ => .holdsDump } }

theorem exec_dumpComplete_dumping {s : State} {d : Dump} {t : Nat} (hd : s.eav.dump = some d) (ht : s.eav.dumpStart = some t) :
    ∃ payload outcome, exec .dumpComplete s = .next (afterDump (recordEvent (dumpStored s d) 0x0030 3 0 0 payload) outcome) := by
  simp only [exec_dumpComplete, execDumpComplete, hd, ht]
  exact ⟨_, _, rfl⟩

theorem useHalf_workOnly (s : State) (h : Nat) : WorkOnly s (useHalf s h) := forEach_workOnly _ _ _ fun _ _ => ⟨_, _, _, rfl⟩

theorem dumpStored_eav (s : State) (d : Dump) :
    (dumpStored s d).eav = { s.eav with dump := some (dumpEnded s d), halves := vecUpd s.eav.halves d.half fun _ => .holdsDump } := by
  have hwork : WorkOnly s (useHalf (dumpClosed s) d.half) :=
    (forEach_workOnly _ _ s fun y s => closeDesc_workOnly s y 0x00 0).trans (useHalf_workOnly _ d.half)
  exact congrArg (fun e : EavSt => { e with dump := some (dumpEnded s d), halves := vecUpd e.halves d.half fun _ => .holdsDump }) hwork.eav

theorem dumpProgs_done {d : Dump} (h : d.partialMark = false) : ∀ g ∈ dumpProgs d, g.done = true := by
  simp [dumpProgs, h]

/-- After a dump no island but AON runs. -/
theorem isRunning_afterDump (s : State) (outcome : Nat) {i : Nat} (hi : islIdValid i = true) (h0 : i ≠ 0) :
    isRunning (afterDump s outcome) i = false := by
  obtain ⟨-, -, -, -, -, -, -, hisl⟩ := afterDump_effect s outcome
  rw [isRunning_congr hisl]
  exact isRunning_forEach_gated _ _ _ (.inl (mem_allIslands_ids hi h0))

/-- The part as a dump leaves it: its dump recorded, its half holding it, the link and the sequencer off, AON alone running. -/
theorem dumpComplete_effect {s : State} {d : Dump} {t : Nat} (hd : s.eav.dump = some d) (ht : s.eav.dumpStart = some t) :
    ∃ u, exec .dumpComplete s = .next u ∧ u.eav.dump = some (dumpEnded s d) ∧
      u.eav.halves = vecUpd s.eav.halves d.half (fun _ => .holdsDump) ∧ u.eav.dumpStart = none ∧ u.host.linkUp = false ∧
      u.sup.seqEn = false ∧ ∀ i, islIdValid i = true → i ≠ 0 → isRunning u i = false := by
  obtain ⟨payload, outcome, hexec⟩ := exec_dumpComplete_dumping hd ht
  refine ⟨_, hexec, ?_⟩
  have hstored : (recordEvent (dumpStored s d) 0x0030 3 0 0 payload).eav = _ := (recordEvent_faultKept ..).eav.trans (dumpStored_eav s d)
  generalize recordEvent (dumpStored s d) 0x0030 3 0 0 payload = v at hstored
  obtain ⟨heav, -, hlink, hseq, -⟩ := afterDump_effect v outcome
  rw [heav, hstored]
  exact ⟨rfl, rfl, rfl, hlink, hseq, fun i => isRunning_afterDump v outcome⟩

/-! ### The replay of the Gutter (R200) -/

/-- The Gutter's dump replayed, the targets and aborted passes settled, and flash in service. -/
def replayed (s : State) : State :=
  let s := match s.eav.dump with
    | some d => replayGutter s d
    | none => s
  let s := dropTargets (spliceAborted s)
  { s with eav := { s.eav with replaying := false, journalTail := 0 }, fl := { s.fl with inService := true },
           boot := { s.boot with cleanMark := false, battenedMark := false } }

theorem exec_gutterReplay_waits {s : State} (h : s.boot.phase ≠ 4 ∨ s.eav.replaying = false ∨ s.eav.powerLoss = true) :
    exec .gutterReplay s = .next s := by
  refine congrArg _ (if_pos ?_)
  rcases h with h | h | h <;> simp [h]

theorem exec_gutterReplay_goes {s : State} (h4 : s.boot.phase = 4) (hr : s.eav.replaying = true) (hp : s.eav.powerLoss = false) :
    exec .gutterReplay s = .next (recomputeEaves (recomputeBays (enterPhase (replayed s) 5 0))) :=
  congrArg _ (if_neg (by simp [h4, hr, hp]))

/-- Flash stays in service, or out of it. -/
def ServiceKept (s t : State) : Prop := t.fl.inService = s.fl.inService

section ServiceKept

variable {s t u : State}

theorem ServiceKept.refl (s : State) : ServiceKept s s := rfl

theorem ServiceKept.trans (h : ServiceKept s t) (h' : ServiceKept t u) : ServiceKept s u := Eq.trans h' h

theorem ServiceKept.ite {c : Prop} [Decidable c] (h : ServiceKept s t) (h' : ServiceKept s u) : ServiceKept s (if c then t else u) := by
  split
  · exact h
  · exact h'

theorem recordEvent_serviceKept (s : State) (code sev kind num : Nat) (payload : List Byte) :
    ServiceKept s (recordEvent s code sev kind num payload) := congrArg FlashSt.inService (recordEvent_fl ..)

theorem setWarning_serviceKept (s : State) (bit : Nat) : ServiceKept s (setWarning s bit) := congrArg FlashSt.inService (setWarning_fl ..)

theorem setIslandState_serviceKept (s : State) (id : Nat) (st : IslState) : ServiceKept s (setIslandState s id st) := by
  have hprotect (u : State) : ServiceKept u (writeProtect u id) := .ite (.refl u) rfl
  unfold setIslandState
  extract_lets u
  have hu : ServiceKept s u := rfl
  split
  · exact hu.trans rfl
  · exact hu
  · have hw : ServiceKept u (if st == .isolated then u else writeProtect u id) := .ite (.refl u) (hprotect u)
    exact hu.trans (.ite (hw.trans rfl) (hw.trans rfl))

theorem severeChannel_serviceKept (s : State) (c : Nat) : ServiceKept s (severeChannel s c) := by
  unfold severeChannel
  extract_lets again _ u _ v
  have hv : ServiceKept s v := .ite rfl rfl
  exact .ite (hv.trans rfl) (.ite (hv.trans (setIslandState_serviceKept ..)) hv)

theorem reportSevere_serviceKept (s : State) (scope : Nat) : ServiceKept s (reportSevere s scope) := by
  unfold reportSevere
  extract_lets _ u _ v
  have hfail : ServiceKept v (forEach (presentFns v) (fun f s => updFn s f fun x => { x with cfs := true }) v) :=
    forEach_proj (fun s : State => s.fl.inService) _ _ _ fun _ _ => rfl
  exact .ite (.trans (t := v) rfl hfail) (.trans rfl (setWarning_serviceKept ..))

theorem restartHour_serviceKept (s : State) (i : Nat) : ServiceKept s (restartHour s i) := rfl

theorem refreshFaultLed_serviceKept (s : State) : ServiceKept s (refreshFaultLed s) := by
  rw [refreshFaultLed_eq]
  rfl

theorem linkPower_serviceKept (s : State) (p : LinkPower) : ServiceKept s (linkPower s p) := by
  unfold linkPower
  split <;> rfl

theorem kickCores_serviceKept (s : State) : ServiceKept s (kickCores s) := rfl

theorem makeSevere_serviceKept (s : State) (i isl : Nat) : ServiceKept s (makeSevere s i isl) := by
  unfold makeSevere
  split
  · exact .refl s
  · extract_lets sc s1 s2 s3 s4
    have h1 : ServiceKept s s1 := .trans (t := updSrc s i fun x => { x with severe := true, scope := sc }) rfl (restartHour_serviceKept ..)
    have h2 : ServiceKept s1 s2 := .trans (t := refreshAlive s1) (.ite (.refl _) rfl) (refreshFaultLed_serviceKept _)
    have h4 : ServiceKept s s4 := h1.trans (h2.trans ((recordEvent_serviceKept ..).trans (reportSevere_serviceKept ..)))
    split
    · exact h4.trans (severeChannel_serviceKept ..)
    · exact h4

theorem countFault_serviceKept (s : State) (i : Nat) (cap : Capture) : ServiceKept s (countFault s i cap) := by
  have hnoted {c : Prop} [Decidable c] (g : FaultSrc → FaultSrc) (p : List Byte) :
      ServiceKept s (if c then recordEvent (updSrc s i g) 0x0010 2 1 i p else updSrc s i g) :=
    .ite (.trans (t := updSrc s i g) rfl (recordEvent_serviceKept ..)) rfl
  unfold countFault
  dsimp only
  exact .ite ((hnoted ..).trans (makeSevere_serviceKept ..)) (.ite (hnoted ..) (hnoted ..))

theorem multipleFault_serviceKept (s : State) (i : Nat) (cap : Capture) : ServiceKept s (multipleFault s i cap) := by
  unfold multipleFault
  split
  · exact (recordEvent_serviceKept ..).trans (countFault_serviceKept ..)
  · exact .refl s

theorem beginWake_serviceKept (s : State) (c : WakeCause) : ServiceKept s (beginWake s c) := by
  have hrun (s : State) : ServiceKept s (forEach ((List.range 42).map islIdOf) (fun id s =>
      if (island s id).st == .stopped || id == 8 then setIslandState s id .running else s) s) :=
    forEach_proj (fun s : State => s.fl.inService) _ _ _ fun id s => by
      split
      · exact setIslandState_serviceKept ..
      · rfl
  unfold beginWake
  split
  · exact .refl s
  · extract_lets u v
    have hu : ServiceKept s u := hrun s
    have hv : ServiceKept u v := (linkPower_serviceKept u .l0).trans (kickCores_serviceKept _)
    clear_value v u
    refine hu.trans (hv.trans (ServiceKept.trans ?_ (recordEvent_serviceKept ..)))
    rfl

theorem raiseFault_serviceKept (s : State) (i : Nat) (cap : Capture) : ServiceKept s (raiseFault s i cap) := by
  unfold raiseFault
  extract_lets u hit v
  have hu : ServiceKept s u := countFault_serviceKept ..
  have hmarked : ServiceKept (multipleFault u i cap) (markAffected (multipleFault u i cap) i cap.island) := rfl
  have hv : ServiceKept u v := (multipleFault_serviceKept ..).trans (hmarked.trans (beginWake_serviceKept ..))
  clear_value v u
  exact .ite (.refl s) (.ite hu (hu.trans (.trans (t := v) hv rfl)))

theorem recomputeEaves_serviceKept (s : State) : ServiceKept s (recomputeEaves s) := by
  unfold recomputeEaves
  extract_lets ready e short was old _ u v w
  have hv : ServiceKept u v := .ite (recordEvent_serviceKept ..) (.refl u)
  have hw : ServiceKept v w := .ite ((raiseFault_serviceKept ..).trans (recordEvent_serviceKept ..)) (.refl v)
  have hu : ServiceKept s u := rfl
  have hall : ServiceKept s w := hu.trans (hv.trans hw)
  have hcleared : ServiceKept w (clearWarning w 4) := rfl
  clear_value w
  exact .ite (hall.trans (setWarning_serviceKept ..)) (.ite (hall.trans (hcleared.trans (recordEvent_serviceKept ..))) hall)

end ServiceKept

/-- A recharge of the bays leaves the Eaves Buffer, the flash side and the boot record as they are. -/
theorem recomputeBays_effect (s : State) :
    (recomputeBays s).eav = s.eav ∧ (recomputeBays s).fl = s.fl ∧ (recomputeBays s).boot = s.boot := by
  obtain ⟨e, h, o, m, hu⟩ : Recharged (capacitated s) (recomputeBays s) := recharge_recharged _
  rw [hu]
  exact ⟨rfl, rfl, rfl⟩

/-- What the capacities computed again at the end of a start keep. -/
theorem recomputeEaves_recomputeBays (s : State) : let t := recomputeEaves (recomputeBays s)
    t.eav.replaying = s.eav.replaying ∧ t.fl.inService = s.fl.inService ∧ t.boot = s.boot := by
  obtain ⟨heav, hfl, hboot⟩ := recomputeBays_effect s
  generalize recomputeBays s = u at *
  obtain ⟨x, hkept⟩ := recomputeEaves_faultKept u
  refine ⟨?_, Eq.trans (recomputeEaves_serviceKept u) (congrArg FlashSt.inService hfl), hkept.boot.trans hboot⟩
  rw [recomputeEaves_eav, ← heav]

/-- The replay ends in PHASE 5 with flash in service and no clean-start mark. -/
theorem gutterReplay_effect (s : State) : let t := recomputeEaves (recomputeBays (enterPhase (replayed s) 5 0))
    t.eav.replaying = false ∧ t.fl.inService = true ∧ t.boot.phase = 5 ∧ t.boot.cleanMark = false := by
  obtain ⟨hreplay, hservice, hboot⟩ := recomputeEaves_recomputeBays (enterPhase (replayed s) 5 0)
  rw [enterPhase_eav] at hreplay
  rw [enterPhase_fl] at hservice
  rw [enterPhase_boot] at hboot
  exact ⟨hreplay, hservice, congrArg BootSt.phase hboot, congrArg BootSt.cleanMark hboot⟩

/-- Settles O40: Power Loss by what it keeps of the supply, the dump by its record and its islands, the replay by the phase it enters. -/
theorem powerLossAndReplay : Obligations.PowerLossAndReplay := by
  refine ⟨fun s => ⟨fun h => ?_, _, exec_powerLossDetected s, ?_⟩, fun s d t p hd ht => ⟨fun h => ?_, fun hmark hvs => ?_, ?_⟩,
    fun s => exec_dumpEvent_none, fun s => ⟨exec_gutterReplay_waits, fun h4 hr hp =>
      ⟨_, exec_gutterReplay_goes h4 hr hp, gutterReplay_effect s⟩⟩⟩
  · exact congrArg _ (if_pos h)
  · exact raisePowerLoss_effect _
  · exact (exec_storeLow_dumping hd ht p).trans (congrArg _ (if_pos (by simpa using h)))
  · exact (exec_storeLow_dumping hd ht p).trans (congrArg _ (if_neg (by simpa [hmark] using hvs)))
  · obtain ⟨u, hexec, hdump, hhalves, hstart, hlink, hseq, hisl⟩ := dumpComplete_effect hd ht
    exact ⟨u, dumpEnded s d, hexec, hdump, rfl, rfl, by simp [dumpEnded], dumpProgs_done, hhalves, hstart, hlink, hseq, fun _ => hisl⟩

end Sys2Proof.Machine
